-- ==== Sys2Proof/Word.lean ====
section
/-! DEFINITION. The byte and word types of the QTL-512 model and their plainest arithmetic. -/

namespace Sys2Proof

/-- A byte as the manual's layouts use it. -/
abbrev Byte := BitVec 8

/-- A run of bytes, lowest offset first. -/
abbrev Bytes := List Byte

/-- A byte from a number, modulo 256. -/
abbrev byte (n : Nat) : Byte := BitVec.ofNat 8 n

end Sys2Proof
end

