-- ==== Sys2Proof/Syntax.lean ====
section
/-! DEFINITION. The commands of the block and the operands they carry. Every row of
spec/opcode_table.json is one constructor of `Instr`. -/

namespace Sys2Proof

/-- The two host interfaces (R318, R326). -/
inductive Iface | pcie | xspi
deriving DecidableEq, Repr

/-- Who uses a semaphore or the Stile (R329 OWNER_KIND and OWNER_ID, R481). -/
inductive Requester
  | pcie (id : Nat) | xspi | firmware | member (d : Nat)
deriving DecidableEq, Repr

/-- How a BAR2 counter is read (R311). -/
inductive StatPart | all | low | high
deriving DecidableEq, Repr

/-- One mailbox command as Eulyn takes it (R344): queue, identifiers, flags, path, bulk area, the
48 inline bytes and the bulk parameter bytes after any path hops. -/
structure Call where
  queue : Nat
  tag : Nat
  gen : Nat
  atomic : Bool := false
  staged : Bool := false
  noResponse : Bool := false
  bulkResult : Bool := false
  fieldRooted : Bool := false
  /-- A reserved bit or unused hop byte of R48 is not zero. -/
  pathReserved : Bool := false
  hops : List Nat := []
  /-- Bulk length in 8-byte units (R344 offset 12). -/
  units : Nat := 0
  /-- Location bit: host memory instead of the staging buffer. -/
  host : Bool := false
  /-- Offset in 8-byte units in the staging buffer, or descriptor [11:0] and ring [15:12]. -/
  at_ : Nat := 0
  /-- Host address and length of the named descriptor, as read from host memory (R346). -/
  hostAddr : Nat := 0
  hostLen : Nat := 0
  params : Bytes := []
  bulk : Bytes := []
deriving DecidableEq, Repr

/-- Mailbox forward body (R370). -/
structure Forward where
  dev : Nat
  queue : Nat
  tag : Nat
  gen : Nat
  more : Bool
  sub : Nat
  tokDev : Nat
  tokQueue : Nat
  tokTag : Nat
  tokGen : Nat
  off : Nat
  slot : Bytes
  bulk : Bytes
deriving DecidableEq, Repr

/-- Mailbox answer body (R371). -/
structure Answer where
  dev : Nat
  queue : Nat
  tag : Nat
  gen : Nat
  interim : Bool
  more : Bool
  sub : Nat
  off : Nat
  slot : Bytes
  data : Bytes
deriving DecidableEq, Repr

/-- Atomic message body (R372); the walk token is origin device, queue, tag, generation. -/
structure AtomicMsg where
  kind : Nat
  sender : Nat
  tokDev : Nat
  tokQueue : Nat
  tokTag : Nat
  tokGen : Nat
  tc : Nat
  status : Nat
deriving DecidableEq, Repr

/-- Hail or leave hail with the Sheaf fields it came in (R210, R219) and its arrival port. -/
structure HailMsg where
  src : Nat
  fieldId : Nat
  serial : Nat
  roster : Nat
  join : Nat
  synced : Bool
  port : Nat
  /-- Source address of the hail (R209). -/
  addr : Nat
deriving DecidableEq, Repr

/-- Where a host access begins, and the byte enables of its first and last 4-byte unit (R318, R491). -/
structure NearAt where
  off : Nat
  be : Nat := 255
deriving DecidableEq, Repr

/-- An xSPI transaction the target does not take: its command byte, and the bytes the host clocks after it (R316). -/
structure XspiUnknown where
  cmd : Nat
  len : Nat := 4
deriving DecidableEq, Repr

/-- Stile request body (R491). -/
structure StileReq where
  src : Nat
  write : Bool
  nonPosted : Bool
  semPage : Bool
  id : Nat
  epoch : Nat
  off : Nat
  len : Nat
  be : Nat
  reqKind : Nat
  reqId : Nat
  span : Nat
  data : Bytes
deriving DecidableEq, Repr

/-- Stile completion and acknowledgement body (R492). -/
structure StileCpl where
  dev : Nat
  present : Bool
  write : Bool
  cut : Bool
  id : Nat
  ackId : Nat
  ackEpoch : Nat
  ackValid : Bool
  status : Nat
  data : Bytes
deriving DecidableEq, Repr

/-- Character errors of R262. -/
inductive UartErr | parity | framing | break_
deriving DecidableEq, Repr

/-- One received character: its byte, its error, the Almanac time of its start edge (R83) and the
character the UART itself was sending in the same character time (R265). -/
structure UartChar where
  b : Byte
  err : Option UartErr
  edge : Nat
  sending : Option Byte
deriving DecidableEq, Repr

/-- Frame errors by kind (R255). -/
inductive CanError | bit | stuff | form | crc | ack
deriving DecidableEq, Repr

/-- A CAN, CAN FD or CAN XL frame with the fields of the record of R94 and its start-of-frame stamp. -/
structure CanFrame where
  ide : Bool := false
  rtr : Bool := false
  fdf : Bool := false
  brs : Bool := false
  esi : Bool := false
  xlf : Bool := false
  sec : Bool := false
  sdt : Nat := 0
  id : Nat
  vcid : Nat := 0
  dlc : Nat := 0
  af : Nat := 0
  data : Bytes := []
  stamp : Nat := 0
deriving DecidableEq, Repr

/-- A complete LIN frame (R97). -/
structure LinFrame where
  id : Nat
  parityOk : Bool
  enhanced : Bool
  data : Bytes
  checksumOk : Bool
  stamp : Nat
deriving DecidableEq, Repr

/-- An MVB slave frame on a line, with the other line's valid frame when it carried one (R271). -/
structure MvbFrame where
  lineB : Bool
  port : Nat
  fcode : Nat
  data : Bytes
  other : Option Bytes
  stamp : Nat
  /-- Its check sequence holds (R99). -/
  valid : Bool := true
deriving DecidableEq, Repr

/-- SecTAG of a received frame: SCI, AN, the recovered packet number and the engine's verdict (R513). -/
structure SecTag where
  sci : Nat
  an : Nat
  pn : Nat
  icvOk : Bool
deriving DecidableEq, Repr

/-- One ACF message: CAN or CAN brief with its valid timestamp, or another type (`none`) (R108, R109). -/
structure AcfMsg where
  stamp : Option Nat
  frame : Option CanFrame
deriving DecidableEq, Repr

/-- NTSCF or TSCF content of a frame: stream ID, sequence number, messages (R108). -/
structure AcfBody where
  stream : Nat
  seq : Nat
  msgs : List AcfMsg
deriving DecidableEq, Repr

/-- A frame received on a port. `bytes` runs from the destination address to the last byte before the
FCS, SecTAG and ICV removed; of a flawed frame it is every byte received, those in FCS position included.
`wireLen` counts destination address to FCS on the wire (R278). -/
structure RxFrame where
  bytes : Bytes
  wireLen : Nat
  fcsErr : Bool := false
  alignErr : Bool := false
  pcsErr : Bool := false
  parityErr : Bool := false
  reassemblyErr : Bool := false
  smdErr : Bool := false
  sec : Option SecTag := none
  acf : Option AcfBody := none
  stamp : Nat
deriving DecidableEq, Repr

/-- A legacy pause or PFC frame (R292): class-enable vector and times in quanta, by priority. -/
structure PauseMsg where
  pfc : Bool
  enables : BitVec 8
  times : List Nat
deriving DecidableEq, Repr

/-- A Sync with its Follow_Up (R164): domain, receipt time, precise origin, correction, rate ratio − 1 in ppb. -/
structure SyncMsg where
  domain : Nat
  t2 : Int
  origin : Int
  correction : Int
  ratePpb : Int
deriving DecidableEq, Repr

/-- Outcome of best master selection under IEEE 802.1AS (R160, R170): grandmaster, slave port, master ports. -/
structure BestMaster where
  isGm : Bool
  gmId : Nat
  slave : Option Nat
  masters : List Nat
deriving DecidableEq, Repr

/-- The result of a Pdelay exchange: delay in ns, neighborRateRatio − 1 in ppb (R160, R174). -/
structure PdelayMsg where
  delay : Int
  ratePpb : Int
deriving DecidableEq, Repr

/-- A received Announce with the selection it leads to (R158, R172). -/
structure AnnounceMsg where
  domain : Nat
  utc : Nat
  utcValid : Bool
  sel : BestMaster
deriving DecidableEq, Repr

/-- Plough instances. -/
inductive PloughId
  | uart (k : Nat) | can (k : Nat) | lin (k : Nat) | mvb (k : Nat) | eth (p : Nat) | pcie | steward
deriving DecidableEq, Repr

/-- What is wrong with a word read (R232): one bit of data and check bits, two of them, or the word of another address reached through
a single-bit address fault. -/
inductive WordError
  | oneBit | twoBits | wrongWord
deriving DecidableEq, Repr

/-- What the read of a payload meets (R224, R232 to R234, R521): nothing, an error in a word by cell index and word within the cell, an
error in a cell's link entry, or a parity failure on the way out. -/
inductive ReadOutcome
  | clean | word (cell word : Nat) (error : WordError) | link (cell : Nat) (error : WordError) | parity
deriving DecidableEq, Repr

/-- What the part's access to host memory for an item meets (R342, R521): nothing, a DMA read error, or a parity failure in the PCIe
core's buffers. -/
inductive DmaOutcome
  | clean | error | parity
deriving DecidableEq, Repr

/-- A word the patrol finds in error: physical bank, word, what is wrong (R236). -/
structure WordFault where
  bank : Nat
  word : Nat
  error : WordError
deriving DecidableEq, Repr

/-- A wire that carries one thing at a time: a row's wire or a port's wire. -/
inductive WireId | row (r : Nat) | port (p : Nat)
deriving DecidableEq, Repr

/-- Places where a fabric fault shows (R573). -/
inductive FabricSite
  | lane (n : Nat) | plough (p : Nat) | drill (cls : Nat) | granary (island : Nat) | steward | tally (u : Nat)
deriving DecidableEq, Repr

/-- What one lookup engine gives for a grain: the route reference of R148, and route entry bytes 16 to 43 as read, none with a
miss (R149). -/
structure LookupResult where
  ref : Nat
  entry : Bytes := []
deriving DecidableEq, Repr

/-- A frame seen by a selective-wake decoder (R543). -/
structure WakeFrame where
  error : Bool
  fd : Bool
  ide : Bool
  rtr : Bool
  id : Nat
  dlc : Nat
  data : Bytes
deriving DecidableEq, Repr

/-- An agreement message less its kind, which the command gives (R550). -/
structure NmMsg where
  source : Nat
  dest : Nat
  consent : Bool
  runStart : Nat
  round : Nat
deriving DecidableEq, Repr

/-- The commands of the block: one constructor per row of spec/opcode_table.json. -/
inductive Instr where
  /-- PLOT_DESCRIBE (R381). Command 0101h describes one plot of the acting device and lists its member positions. -/
  | plotDescribe (c : Call)
  /-- PLOT_GROUP_CREATE (R382). Command 0102h takes a free group number, raises its generation and places the new group at a member position. -/
  | plotGroupCreate (c : Call)
  /-- PLOT_GROUP_DELETE (R44). Command 0103h deletes an empty group, empties every position that held it and frees its number. -/
  | plotGroupDelete (c : Call)
  /-- PLOT_ATTACH (R384). Command 0104h with operation 0 makes a plot a member of the addressed group or device plot, refusing local cycles. -/
  | plotAttach (c : Call)
  /-- PLOT_DETACH (R384). Command 0104h with operation 1 empties a member position of the addressed plot. -/
  | plotDetach (c : Call)
  /-- FIELD_JOIN (R385). Command 0105h starts the join of a Field as a long operation that ends in Member or Conflict. -/
  | fieldJoin (c : Call)
  /-- FIELD_LEAVE (R386). Command 0106h leaves the Field, sends a leave hail, clears the rejoin flag and ends remote transactions in flight. -/
  | fieldLeave (c : Call)
  /-- DEVICE_INFO (R387). Command 0107h returns identity, command-set revision, firmware, Field, Granary and Gate figures of the device. -/
  | deviceInfo (c : Call)
  /-- ROW_BIND (R388). Command 0201h binds, rebinds or unbinds a row to an endpoint and leaves it Disabled. -/
  | rowBind (c : Call)
  /-- ROW_ENABLE (R389). Command 0202h enables a bound row and starts its controller. -/
  | rowEnable (c : Call)
  /-- ROW_DISABLE (R389). Command 0203h disables a row, dropping the sentence in reception and discarding its queued copies under R39. -/
  | rowDisable (c : Call)
  /-- ROW_STATS (R390). Command 0204h returns the row state and its 32 counters, clearing them unless peeked. -/
  | rowStats (c : Call)
  /-- ROW_FRAMING_SET (R391). Command 0205h sets the IEC 61162-1 or user framing of a UART talker row. -/
  | rowFramingSet (c : Call)
  /-- ROUTE_ADD (R392). Command 0301h writes a route entry into the exact or wildcard table, relocating entries or using the stash as needed. -/
  | routeAdd (c : Call)
  /-- ROUTE_REMOVE (R393). Command 0302h removes the acting row's exact or wildcard entry and loses its counters. -/
  | routeRemove (c : Call)
  /-- ROUTE_QUERY (R394). Command 0303h mode 0 returns one route entry, its reference and its seven counters. -/
  | routeQuery (c : Call)
  /-- ROUTE_QUERY_CLEAR (R394). Command 0303h mode 1 returns one route entry and clears its counters. -/
  | routeQueryClear (c : Call)
  /-- ROUTE_QUERY_LIST (R394). Command 0303h mode 2 lists every entry of a table belonging to the acting row. -/
  | routeQueryList (c : Call)
  /-- LSET_WRITE (R132). Command 0304h fills the listener set copy not in force and makes it the copy in force, or returns ST_BUSY. -/
  | lsetWrite (c : Call)
  /-- LSET_READ (R395). Command 0304h with the read flag returns the bitmap of a listener set in force. -/
  | lsetRead (c : Call)
  /-- TEAM_SET (R144). Command 0305h configures, changes or deletes a Team, the change taking effect at its next decision or quiet-timer expiry. -/
  | teamSet (c : Call)
  /-- TEAM_STATE (R397). Command 0306h returns a Team's state, active member, member health and counters. -/
  | teamState (c : Call)
  /-- SIEVE_SET (R398). Command 0307h with operation 0 writes a Sieve rule. -/
  | sieveSet (c : Call)
  /-- SIEVE_CLEAR (R398). Command 0307h with operation 1 clears a Sieve rule no route selects. -/
  | sieveClear (c : Call)
  /-- REWRITE_SET (R399). Command 0308h writes a rewrite profile applied at every later read-out. -/
  | rewriteSet (c : Call)
  /-- PORT_CONFIG (R400). Command 0401h writes the lane mode, speed and per-port settings of an Ethernet port. -/
  | portConfig (c : Call)
  /-- PORT_STATE (R401). Command 0402h returns a port's state, speed, verify state, pause state, Headlands and operational list. -/
  | portState (c : Call)
  /-- PORT_FILTER_SET (R402). Command 0403h with operation 0 writes an exact entry, pattern filter, hash bin or whole hash of a port. -/
  | portFilterSet (c : Call)
  /-- PORT_FILTER_CLEAR (R402). Command 0403h with operation 1 clears the named filter item of a port. -/
  | portFilterClear (c : Call)
  /-- PORT_PAUSE_SET (R403). Command 0404h writes a port's pause modes, immune class, thresholds and watchdog. -/
  | portPauseSet (c : Call)
  /-- PORT_PREEMPT_SET (R404). Command 0405h writes a port's preemption settings and restarts verification. -/
  | portPreemptSet (c : Call)
  /-- PORT_STATS_SNAP (R304). Command 0406h captures and clears all 48 counters of a port at one tick into the bulk result. -/
  | portStatsSnap (c : Call)
  /-- FURROW_LIST_WRITE (R406). Command 0501h replaces a port's administrative Furrow list. -/
  | furrowListWrite (c : Call)
  /-- FURROW_SWITCH (R206). Command 0502h schedules the administrative list to become operational at the configuration change time. -/
  | furrowSwitch (c : Call)
  /-- FURROW_LIST_REMOVE (R407). Command 0502h with the remove flag drops the operational list at a cycle start at least 1 ms ahead. -/
  | furrowListRemove (c : Call)
  /-- SHAPER_SET (R408). Command 0503h writes a traffic class's credit-based shaper and optionally the class maximum lengths. -/
  | shaperSet (c : Call)
  /-- SHEAF_SET (R409). Command 0504h writes station address, Ethertype, VID, MTU, age limits and transit allowance of Sheafs. -/
  | sheafSet (c : Call)
  /-- CLASS_MAP_SET (R410). Command 0505h selector 0 writes a port's class-to-traffic-class, PCP and PCP maps. -/
  | classMapSet (c : Call)
  /-- POOL_AND_GUARD_SET (R410). Command 0505h selector 1 writes the copy-pool quotas and the schedule guard. -/
  | poolAndGuardSet (c : Call)
  /-- TIME_CONFIG (R411). Command 0601h selector 0 writes domains, priorities, UTC offset and PPS settings. -/
  | timeConfig (c : Call)
  /-- TIME_CONFIG_PORT (R411). Command 0601h selector 1 writes one port's gPTP settings. -/
  | timeConfigPort (c : Call)
  /-- TIME_SET (R412). Command 0602h steps the working clock to a given value at the tick it reaches. -/
  | timeSet (c : Call)
  /-- TIME_SET_AT_PPS (R412). Command 0602h with the PPS flag waits as a long operation and steps the clock at the next PPS_IN edge. -/
  | timeSetAtPps (c : Call)
  /-- TIME_ADJUST_STEP (R413). Command 0603h mode 0 steps the working clock by an offset. -/
  | timeAdjustStep (c : Call)
  /-- TIME_ADJUST_SERVO_INPUT (R413). Command 0603h mode 1 gives an offset to the servo as a host measurement. -/
  | timeAdjustServoInput (c : Call)
  /-- TIME_ADJUST_FREQUENCY (R413). Command 0603h mode 2 sets the frequency adjustment directly while the source is None. -/
  | timeAdjustFrequency (c : Call)
  /-- SERVO_SET (R414). Command 0604h writes the servo source and parameters, possibly changing the time state. -/
  | servoSet (c : Call)
  /-- ASYM_SET (R415). Command 0605h sets delayAsymmetry or detection values of a port or closes its asymmetry suspect. -/
  | asymSet (c : Call)
  /-- TIME_STATE (R416). Command 0606h returns time state and servo figures and optionally pops transmit stamp entries. -/
  | timeState (c : Call)
  /-- ALARM_SET (R417). Command 0607h selector 0 writes or cancels an alarm. -/
  | alarmSet (c : Call)
  /-- SCHEDULE_ENTRY_SET (R180). Command 0607h selector 1 writes or clears an absolute-schedule entry. -/
  | scheduleEntrySet (c : Call)
  /-- READ_REQUEST (R380). A listed command sent with both atomic and staged flags returns the standing-bank settings of the object and changes nothing. -/
  | readRequest (opcode : Nat) (c : Call)
  /-- RULE_WRITE (R419). Command 0701h operation 0 writes a Hedgerow rule and resets its hit count. -/
  | ruleWrite (c : Call)
  /-- RULE_READ (R419). Command 0701h operation 1 returns a rule image with its hit count and last hit time. -/
  | ruleRead (c : Call)
  /-- RULE_CLEAR (R421). Command 0702h clears a range of Hedgerow rules. -/
  | ruleClear (c : Call)
  /-- POLICER_SET (R422). Command 0703h writes a token-bucket policer and returns its counters. -/
  | policerSet (c : Call)
  /-- ZONE_SET (R423). Command 0704h moves endpoints into a zone and sets its within-zone flag. -/
  | zoneSet (c : Call)
  /-- KEY_INSTALL (R424). Command 0801h unwraps a key into a slot, forcing over an Active or Next slot when asked. -/
  | keyInstall (c : Call)
  /-- KEY_ACTIVATE (R425). Command 0802h makes a slot the transmit key now, the next key, or enables or disables a receive slot. -/
  | keyActivate (c : Call)
  /-- KEY_ERASE (R511). Command 0803h erases one key slot at once, stomping frames under it. -/
  | keyErase (c : Call)
  /-- SA_CONFIG (R427). Command 0804h configures a slot as a secure association and marks its port protected. -/
  | saConfig (c : Call)
  /-- KEY_STATE (R428). Command 0805h returns a slot's state and counters or a summary. -/
  | keyState (c : Call)
  /-- ZEROIZE_ALL (R511). Command 0806h erases every key slot at once. -/
  | zeroizeAll (c : Call)
  /-- TALLY_BIND (R429). Command 0901h binds a Tally unit to a row or route with its check and alive counter. -/
  | tallyBind (c : Call)
  /-- TALLY_RELEASE (R430). Command 0902h releases a Tally unit, skipping the check in progress. -/
  | tallyRelease (c : Call)
  /-- TALLY_STATE (R430). Command 0903h returns a Tally unit's binding and counters. -/
  | tallyState (c : Call)
  /-- GRANARY_QUOTA_SET (R228). Command 0A01h writes the Granary quotas and Gleaner settings. -/
  | granaryQuotaSet (c : Call)
  /-- GRANARY_STATE (R432). Command 0A02h returns bank states, bank map, cell holdings and error counts. -/
  | granaryState (c : Call)
  /-- BANK_RETIRE (R433). Command 0A03h retires an in-service bank as a long operation ending when migration closes or the drain ends. -/
  | bankRetire (c : Call)
  /-- BANK_TEST (R245). Command 0A04h runs a journaled pattern test on a spare, failed or retired bank and may reinstate it. -/
  | bankTest (c : Call)
  /-- POWER_POLICY_SET (R435). Command 0B01h selector 0 writes the pace policy and stall limit. -/
  | powerPolicySet (c : Call)
  /-- FALLOW_POLICY_SET (R435). Command 0B01h selector 1 writes the sleep state, listen port, false-wake settings and wake timer. -/
  | fallowPolicySet (c : Call)
  /-- FALLOW_ENTER (R540). Command 0B02h runs the sleep agreement unless waived and enters a Fallow state through the entry steps. -/
  | fallowEnter (c : Call)
  /-- WAKE_SOURCES_SET (R437). Command 0B03h writes the enabled wake sources and selective-wake filters. -/
  | wakeSourcesSet (c : Call)
  /-- NM_CONFIG (R438). Command 0B04h configures sleep agreement on one network. -/
  | nmConfig (c : Call)
  /-- NM_REQUEST (R439). Command 0B05h releases, needs or wakes a network and returns its agreement state. -/
  | nmRequest (c : Call)
  /-- WAKE_CAUSE (R440). Command 0B06h returns the wake cause, sources seen and false-wake counts, optionally clearing them. -/
  | wakeCause (c : Call)
  /-- PACE_STATE (R441). Command 0B07h returns pace, VCORE, Tj, lane and fault figures. -/
  | paceState (c : Call)
  /-- FIELD_PIN_ASSIGN (R246). Command 0C01h assigns field-pin functions within the legal mixes or sets GPIO levels only. -/
  | fieldPinAssign (c : Call)
  /-- CAN_CONFIG (R443). Command 0C02h writes a CAN controller's mode, bit timing and recovery settings. -/
  | canConfig (c : Call)
  /-- CAN_RECOVER (R253). Command 0C02h with the recover bit starts recovery of a controller held in bus-off under manual mode. -/
  | canRecover (c : Call)
  /-- UART_CONFIG (R261). Command 0C03h writes a UART's line settings and returns the divisor and rate in force. -/
  | uartConfig (c : Call)
  /-- LIN_CONFIG (R445). Command 0C04h writes a LIN controller's settings or replaces only its schedule table. -/
  | linConfig (c : Call)
  /-- MVB_CONFIG (R446). Command 0C05h writes an MVB interface's device address, timeouts and port entries. -/
  | mvbConfig (c : Call)
  /-- FIELD_BUS_STATE (R447). Command 0C06h returns controller or pin state and counters, clearing them and re-arming event 22 unless peeked. -/
  | fieldBusState (c : Call)
  /-- RING_CREATE (R448). Command 0D01h creates a host DMA ring with its roles. -/
  | ringCreate (c : Call)
  /-- RING_DESTROY (R342). Command 0D02h stops a ring with its write-backs and frees it. -/
  | ringDestroy (c : Call)
  /-- RING_MODERATION (R450). Command 0D03h writes a ring's head write-back, notification and ring-wait settings. -/
  | ringModeration (c : Call)
  /-- SELF_TEST (R451). Command 0E01h runs journaled self-tests on unused resources. -/
  | selfTest (c : Call)
  /-- LOOPBACK_SET (R452). Command 0E02h sets internal loopback or self-reception on a port or controller. -/
  | loopbackSet (c : Call)
  /-- EVENT_LOG_READ (R453). Command 0E03h returns event log entries oldest first. -/
  | eventLogRead (c : Call)
  /-- ECHO (R454). Command 0E04h returns its inline parameters and copies its bulk parameters. -/
  | echo (c : Call)
  /-- RETILL_BEGIN (R366). Command 0F01h opens a re-till, starts the sown bank and loads an image in steps. -/
  | retillBegin (c : Call)
  /-- RETILL_COMMIT (R456). Command 0F02h checks the sown bank, writes it to flash, raises pace and schedules the flip. -/
  | retillCommit (c : Call)
  /-- RETILL_ABORT (R457). Command 0F03h discards the sown bank of an open re-till before F. -/
  | retillAbort (c : Call)
  /-- LEDGER_STATE (R458). Command 0F04h returns Ledger records from retained SRAM or the flash mirror. -/
  | ledgerState (c : Call)
  /-- FW_STAGE (R459). Command 0F05h writes a firmware image chunk into the idle slot and verifies it on the last chunk. -/
  | fwStage (c : Call)
  /-- FW_ACTIVATE (R460). Command 0F06h writes the boot selection, with trial, confirm or reset-now options. -/
  | fwActivate (c : Call)
  /-- OP_CANCEL (R360). Command 0F07h stops a command in flight at its next step boundary with ST_CANCELLED. -/
  | opCancel (c : Call)
  /-- OP_PROGRESS (R461). Command 0F08h returns the progress, operation number and steps of a command in flight. -/
  | opProgress (c : Call)
  /-- SYS_RESET_FABRIC (R565). Command 0F09h level 0 discards all grains and copies and re-initialises the Harrow lanes and Granary. -/
  | sysResetFabric (c : Call)
  /-- SYS_RESET_STEWARD (R566). Command 0F09h level 1 resets the Steward within 100 µs of posting ST_OK. -/
  | sysResetSteward (c : Call)
  /-- SYS_RESET_FULL (R462). Command 0F09h level 2 performs a full reset without a response. -/
  | sysResetFull (c : Call)
  /-- GATE_CHALLENGE_REQUEST (R463). Command 0F0Ah phase 0 returns a nonce and the unique serial. -/
  | gateChallengeRequest (c : Call)
  /-- GATE_CHALLENGE_RESPOND (R515). Command 0F0Ah phase 1 checks the HMAC response and, when right, opens the Gate through its erasure steps. -/
  | gateChallengeRespond (c : Call)
  /-- MQN_DOORBELL (R325). A write to a queue doorbell optionally loads the command tail and notifies Eulyn to scan the queue. -/
  | mqnDoorbell (i : Iface) (q : Nat) (v : BitVec 32)
  /-- MQN_RSP_HEAD (R325). A host write of the response head frees response slots, or sets QERR when beyond the tail. -/
  | mqnRspHead (i : Iface) (q v : Nat)
  /-- EV_PENDING (R570). A W1C write to EV_PENDING clears event bits and opens the coalescing window of each cleared coalesced event. -/
  | evPending (clear same : BitVec 64)
  /-- EV_ENABLE (R331). A write to EV_ENABLE can deliver a pending event whose enable bit it sets. -/
  | evEnable (v en : BitVec 64)
  /-- CAPTURE (R323). A write of CAPTURE to TIME_SNAP_CTRL latches the working clock at one tick and cancels an armed PPS capture. -/
  | capture (arm : Bool)
  /-- ARM_PPS (R323). A write of ARM_PPS arms a clock capture at the next PPS_IN edge. -/
  | armPps (v : Bool)
  /-- SEM_TAKE (R481). A read of SEM_TAKE takes a free semaphore and records the reader as owner. -/
  | semTake (r : Requester) (n : Nat)
  /-- SEM_GIVE (R481). A write of GIVE by the owner frees the semaphore; by anyone else it is logged. -/
  | semGive (r : Requester) (n : Nat)
  /-- STILE_CTRL (R472). A write to STILE_CTRL changes STRICT, timeout answer and read timeout for later requests. -/
  | stileCtrl (v : BitVec 32)
  /-- STILE_REGION (R466). A write to a region descriptor changes it for later requests and accepts or refuses ENABLE. -/
  | stileRegion (g reg : Nat) (v : BitVec 32)
  /-- STILE_ERRLOG_VALID (R486). A write of 1 to VALID of an error log entry clears and frees the entry. -/
  | stileErrlogValid (e : Nat)
  /-- RING_TAIL (R330). A write to a ring doorbell hands descriptors to the part or sets ERROR for an out-of-range tail. -/
  | ringTail (i : Iface) (ring v : Nat)
  /-- STATISTICS_READ (R311). A read of a BAR2 port counter returns and clears it, latching the high half on a low-half read. -/
  | statisticsRead (p idx : Nat) (part : StatPart)
  /-- HOLD_WINDOW_WRITE (R318). A write to a Hold window location without a row of its own sets, clears or is ignored per its access code. -/
  | holdWindowWrite (i : Iface) (off : NearAt) (data : Bytes)
  /-- MSI_X_ENABLE (R331). Setting MSI-X Enable delivers every event then pending and enabled. -/
  | msiXEnable (en fnMask : Bool)
  /-- MSI_X_UNMASK (R331). Unmasking a vector or the function sends each vector whose PBA bit is set and event still pending. -/
  | msiXUnmask (v : Option Nat)
  /-- XSPI_READ (R315). An xSPI read command returns Hold window or staging data after the latency, extending with DS when allowed. -/
  | xspiRead (addr len clkPs : Nat) (broken : Bool)
  /-- XSPI_WRITE (R316). An xSPI write command writes Hold window or staging bytes in address order at the CSn rise. -/
  | xspiWrite (addr : Nat) (data : Bytes) (broken : Bool)
  /-- XSPI_READ_CONFIGURATION (R312). An xSPI read configuration command returns the target configuration register. -/
  | xspiReadConfiguration
  /-- XSPI_WRITE_CONFIGURATION (R313). An xSPI write configuration command sets protocol, latency and wait extension. -/
  | xspiWriteConfiguration (v : BitVec 32)
  /-- XSPI_READ_IDENTIFICATION (R312). An xSPI read identification command returns HOLD_ID. -/
  | xspiReadIdentification
  /-- XSPI_RESET (R312). The xSPI reset enable and reset commands return the interface to 1S-1S-1S and free the xSPI host's semaphores. -/
  | xspiReset
  /-- POISONED_TLP (R307). A memory request to BAR0 or BAR2 carrying a poisoned TLP is discarded and reported. -/
  | poisonedTlp (bar : Nat)
  /-- UNSUPPORTED_REQUEST (R307). A request outside the decoded BARs is answered with Unsupported Request. -/
  | unsupportedRequest (addr : Nat)
  /-- PCIE_FUNDAMENTAL_RESET (R564). A PCIe fundamental or hot reset clears the PCIe part of the Hold window, rings and MSI-X and frees PCIe semaphores. -/
  | pcieFundamentalReset (hot : Bool)
  /-- PERSTN (R567). PERSTn assertion holds the PCIe function in reset until release without resetting the core. -/
  | perstn (asserted : Bool)
  /-- PCIE_LINK_CHANGE (R310). The PCIe link goes up, down or changes rate or width, pausing or resuming DMA. -/
  | pcieLinkChange (up : Bool) (rate width : Nat)
  /-- BUS_MASTER_ENABLE (R310). A change of Bus Master Enable pauses or resumes the rings. -/
  | busMasterEnable (v : Bool)
  /-- D3HOT (R310). Entry to D3hot or return to D0 pauses or resumes DMA, keeping rings and registers. -/
  | d3hot (v : Bool)
  /-- COALESCING_WINDOW_END (R570). At the end of a 1 ms coalescing window the event bit is set when an occurrence fell inside it. -/
  | coalescingWindowEnd (n : Nat)
  /-- TRANSMIT_ITEM_FETCH (R340). The part fetches a complete transmit item, issues its sentence, frame or segments and writes the descriptors back. -/
  | transmitItemFetch (ring : Nat) (descs : List Bytes) (data : Bytes) (dma : DmaOutcome)
  /-- RECEIVE_ITEM_DELIVERY (R337). A receive ring writes an item once enough free descriptors exist, then head write-back and notification. -/
  | receiveItemDelivery (ring : Nat) (descs : List Bytes) (dma : DmaOutcome)
  /-- RING_WAIT_LIMIT (R337). A waiting receive item whose ring-wait limit expires is dropped and raises event 7. -/
  | ringWaitLimit (ring : Nat)
  /-- MODERATION_TIME_LIMIT (R341). The notification time limit from the first unnotified completion expires and the notification write is made. -/
  | moderationTimeLimit (ring : Nat)
  /-- STEWARD_STEP (R358). At each step boundary Eulyn takes commands and runs one step of the next urgent or normal item. -/
  | stewardStep
  /-- FLIP_INSTANT (R363). At F the bank pointer changes and the new bank governs later work under R363 and R364. -/
  | flipInstant
  /-- MAILBOX_FORWARD (R369). A received mailbox forward is placed in MQ3, or a repeat draws an interim or stored answer. -/
  | mailboxForward (m : Forward)
  /-- MAILBOX_ANSWER (R371). A received mailbox answer supplies a sub-walk's entries, or is discarded as stale. -/
  | mailboxAnswer (m : Answer)
  /-- FORWARD_REPEAT (R369). Every quarter of the remote timeout without an answer the forward is sent again. -/
  | forwardRepeat (q tag : Nat)
  /-- REMOTE_TIMEOUT (R55). A sub-walk without answer within the remote timeout is reported ST_REMOTE_UNREACHABLE with outcome unknown. -/
  | remoteTimeout (q tag : Nat)
  /-- ATOMIC_PREPARE (R372). A received Prepare restarts the prepare hold time and draws Ready or Not ready. -/
  | atomicPrepare (m : AtomicMsg)
  /-- ATOMIC_COMMIT (R64). A received Commit sets the member to flip at its first boundary at or after Tc. -/
  | atomicCommit (m : AtomicMsg)
  /-- ATOMIC_ABORT (R64). A received Abort discards the member's staged changes. -/
  | atomicAbort (m : AtomicMsg)
  /-- ATOMIC_READY (R372). A received Ready or Not ready is collected by the holder, which decides commit or abort. -/
  | atomicReady (m : AtomicMsg)
  /-- COMMIT_DONE (R372). A received Commit done or Abort done ends the repeats to that member. -/
  | commitDone (m : AtomicMsg)
  /-- COMMIT_REPEAT (R372). Every 10 ms a Commit or Abort not yet acknowledged is repeated. -/
  | commitRepeat (member : Nat)
  /-- PREPARE_HOLD_EXPIRY (R65). A staged member without commit or abort within the prepare hold time discards its staged changes. -/
  | prepareHoldExpiry
  /-- HAIL (R69). A received hail updates the roster, reachability and ID claims of the sender. -/
  | hail (h : HailMsg)
  /-- LEAVE_HAIL (R74). A received leave hail removes the sender from the roster at once. -/
  | leaveHail (h : HailMsg)
  /-- HAIL_INTERVAL (R69). At each hail interval the device sends a hail on its hail ports. -/
  | hailInterval
  /-- JOINING_COMPLETE (R70). After 3 hail intervals without conflict a Joining device becomes Member, taking an ID if automatic. -/
  | joiningComplete
  /-- MEMBER_UNREACHABLE (R72). A member silent for 3 hail intervals is marked unreachable and its open Sheafs are discarded. -/
  | memberUnreachable (d : Nat)
  /-- STILE_WRITE (R471). A host write to the far window is taken as posted, non-posted or STRICT and performed at the far target. -/
  | stileWrite (r : Requester) (off : NearAt) (data : Bytes)
  /-- STILE_READ (R474). A host read of the far window is taken in pieces and held until far data arrive. -/
  | stileRead (r : Requester) (off : NearAt) (len : Nat)
  /-- FAR_COMPLETION (R471). A far completion of a read or write arrives and releases held requests or the PCIe completion. -/
  | farCompletion (id : Nat) (data : Bytes) (err : Nat)
  /-- FAR_TIMEOUT (R473). A far access without completion within READ_TIMEOUT fails, is logged and raises event 8 or 9. -/
  | farTimeout (id : Nat)
  /-- STILE_REQUEST (R489). A received Stile request is served in ID order, or answered from kept completions, or refused. -/
  | stileRequest (q : StileReq)
  /-- STILE_COMPLETION (R492). A received Stile completion and acknowledgement completes requests and frees transport slots. -/
  | stileCompletion (m : StileCpl)
  /-- STILE_RESEND (R488). After 250 µs unacknowledged the oldest Stile request and all later ones are resent. -/
  | stileResend (peer : Nat)
  /-- PREFETCH_EXPIRY (R480). Kept prefetch data is discarded after 10 µs. -/
  | prefetchExpiry (g : Nat)
  /-- UART_CHARACTER (R86). A UART receives one character, which the Plough takes through its IEC 61162-1 or user framing states. -/
  | uartCharacter (u : Nat) (ch : UartChar)
  /-- GAP_TIMEOUT (R89). No character for longer than the gap limit outside Hunt ends the record as a gap error. -/
  | gapTimeout (u : Nat)
  /-- IDLE_GAP_END (R103). In idle-gap end mode the line staying idle for the idle gap ends a user-framed record. -/
  | idleGapEnd (u : Nat)
  /-- GRAIN_ISSUE (R80). A Plough issues the grain of a completed sentence into the Plough-to-Harrow crossing. -/
  | grainIssue (p : PloughId)
  /-- TAKE_CELL (R229). A Plough takes a Granary cell under the reserve, cap and floor rule, or waits or is refused. -/
  | takeCell (p : PloughId)
  /-- CAN_FRAME_ACCEPTED (R255). A CAN controller accepts an error-free frame, which becomes a sentence record. -/
  | canFrameAccepted (k : Nat) (f : CanFrame)
  /-- CAN_FRAME_ERROR (R255). A CAN frame error is counted and may raise event 22. -/
  | canFrameError (k : Nat) (e : CanError)
  /-- PROTOCOL_EXCEPTION (R249). A controller not able to receive an FD or XL frame enters the protocol exception and counts it. -/
  | protocolException (k : Nat)
  /-- INTEGRATION (R248). A started CAN controller integrates after 11 consecutive recessive bits. -/
  | integration (k : Nat)
  /-- ARBITRATION_LOST (R258). A CAN copy loses arbitration and waits to retry as not started. -/
  | arbitrationLost (k : Nat)
  /-- CAN_TRANSMIT_ERROR (R258). An error during the controller's own frame leads to a retry or, at the limit, a discard with event 22. -/
  | canTransmitError (k : Nat) (e : CanError)
  /-- RECOVERY_DELAY (R253). The automatic recovery delay expires and bus-off recovery starts. -/
  | recoveryDelay (k : Nat)
  /-- BUS_OFF_RECOVERY (R253). After 128 occurrences of 11 recessive bits the controller returns to Error active. -/
  | busOffRecovery (k : Nat)
  /-- CAN_FRAME_SENT (R257). A CAN copy completes on the bus and the next eligible copy enters the transmit buffer. -/
  | canFrameSent (k : Nat)
  /-- LIN_FRAME (R97). A complete LIN frame seen on the bus becomes a sentence. -/
  | linFrame (k : Nat) (f : LinFrame)
  /-- LIN_HEADER (R268). A responder receives a header for a published ID and sends its response buffer. -/
  | linHeader (k id : Nat) (parityOk : Bool)
  /-- LIN_RESPONSE_TIMEOUT (R98). A header without response within the response timeout is counted as no response. -/
  | linResponseTimeout (k : Nat)
  /-- LIN_BIT_ERROR (R269). A transmitting LIN node reads back a wrong bit, stops and counts a bit error. -/
  | linBitError (k : Nat)
  /-- SCHEDULE_SLOT (R267). A commander's schedule slot starts and its header is sent. -/
  | scheduleSlot (k : Nat)
  /-- MVB_SLAVE_FRAME (R271). An MVB slave frame for a sink port becomes a sentence from the first valid line. -/
  | mvbSlaveFrame (k : Nat) (f : MvbFrame)
  /-- MVB_MASTER_FRAME (R272). A master frame for a source port is answered with the port buffer. -/
  | mvbMasterFrame (k port : Nat)
  /-- LINE_TIMEOUT (R271). An MVB line without a valid frame for the line timeout is marked faulty. -/
  | lineTimeout (k : Nat) (lineB : Bool)
  /-- FRESHNESS_LIMIT (R272). A source port buffer older than the freshness limit stops being answered. -/
  | freshnessLimit (k port : Nat)
  /-- ETHERNET_FRAME_RECEIVED (R105). A received frame passes MAC, MACsec and receive filters and takes the Sheaf, ACF or frame grain path. -/
  | ethernetFrameReceived (p : Nat) (f : RxFrame)
  /-- PAUSE_FRAME (R294). A received legacy pause or PFC frame pauses, resumes or is ignored for its classes. -/
  | pauseFrame (p : Nat) (f : PauseMsg)
  /-- PAUSE_TIMER_EXPIRY (R294). A class's pause timer expires and the class resumes. -/
  | pauseTimerExpiry (p tc : Nat)
  /-- PAUSE_WATCHDOG (R294). Continuous pause reaching the watchdog limit overrides the pause and raises event 17. -/
  | pauseWatchdog (p tc : Nat)
  /-- RECOVERY_PERIOD_END (R294). The pause watchdog recovery period ends and the class returns to Running. -/
  | recoveryPeriodEnd (p tc : Nat)
  /-- PAUSE_REPEAT (R296). Half the sent pause time elapsed with fill at or above XON repeats the pause. -/
  | pauseRepeat (p : Nat)
  /-- VERIFY_MPACKET (R298). A received Verify mPacket is answered with a Respond mPacket. -/
  | verifyMpacket (p : Nat)
  /-- RESPOND_MPACKET (R298). A received Respond mPacket moves preemption verification to Succeeded. -/
  | respondMpacket (p : Nat)
  /-- VERIFY_TIME (R298). The verify time expires, sending a new Verify mPacket or ending in Failed with event 18. -/
  | verifyTime (p : Nat)
  /-- LINK_UP (R276). A port's link comes up at the speed detected, raising event 16. -/
  | linkUp (p speed : Nat)
  /-- LINK_LOSS (R280). A port loses its link, dropping the frame on the wire and resetting pause, verify and shaper state. -/
  | linkLoss (p : Nat)
  /-- LINK_DOWN_HOLD_OFF (R280). A link loss lasting beyond the hold-off changes the port to Down or Training with event 16. -/
  | linkDownHoldOff (p : Nat)
  /-- SYNC (R164). A Sync with its Follow_Up on the slave port gives the servo an offset and is relayed on master ports. -/
  | sync (p : Nat) (m : SyncMsg)
  /-- PDELAY_RESULT (R174). A Pdelay exchange result updates meanLinkDelay and may open or close an asymmetry suspect. -/
  | pdelayResult (p : Nat) (delay : PdelayMsg)
  /-- ANNOUNCE (R172). A received Announce feeds best master selection and may change grandmaster and UTC offset. -/
  | announce (p : Nat) (m : AnnounceMsg)
  /-- SYNC_INTERVAL (R161). At each Sync interval a master port sends a two-step Sync. -/
  | syncInterval (p : Nat)
  /-- PDELAY_INTERVAL (R161). At each Pdelay interval a port sends Pdelay_Req. -/
  | pdelayInterval (p : Nat)
  /-- ANNOUNCE_INTERVAL (R161). At each Announce interval Eulyn sends Announce on master ports. -/
  | announceInterval
  /-- SYNC_RECEIPT_TIMEOUT (R170). No offset for the Sync receipt timeout moves Locked to Holdover with event 46. -/
  | syncReceiptTimeout
  /-- PPS_IN_MISSING (R170). PPS_IN missing for 1.5 s moves Locked to Holdover. -/
  | ppsInMissing
  /-- HOLDOVER_BUDGET (R170). The holdover budget expires and the state becomes Uncertain. -/
  | holdoverBudget
  /-- SUSPECT_TIMEOUT (R175). An asymmetry suspect still open after the suspect timeout raises event 42 again. -/
  | suspectTimeout (p : Nat)
  /-- PPS_IN (R177). A PPS_IN rising edge is stamped, raises event 43 and feeds the servo or an armed capture. -/
  | ppsIn (stamp : Nat)
  /-- PPS_OUT (R178). At each second boundary plus phase PPS_OUT rises for its width when allowed. -/
  | ppsOut
  /-- TIME_ALARM (R179). An alarm instant is reached and its actions fire. -/
  | timeAlarm (n : Nat)
  /-- TIME_CAPTURE (R273). An edge on a time capture pin is stamped into its FIFO. -/
  | timeCapture (pin : Nat) (rising : Bool) (stamp : Nat)
  /-- HARROW_DECISION (R117). The Harrow decides a grain through lookup, Team, Sieves, Thinning, Hedgerow, class and release time. -/
  | harrowDecision (p : PloughId) (lookups : List LookupResult)
  /-- TEAM_QUIET_EXPIRY (R141). A member's quiet limit expires, making it Quiet and possibly failing over or silencing the Team. -/
  | teamQuietExpiry (team row : Nat)
  /-- DRILL_ACCEPT (R193). The Drill accepts a grain and replicates it into listener queues and open Sheafs. -/
  | drillAccept (cls : Nat)
  /-- COPY_RELEASE (R197). When a listener's wire is free and a head copy's release time is reached, the copy starts at its release point. -/
  | copyRelease (row : Nat) (rd : ReadOutcome)
  /-- PORT_FRAME_SELECT (R200). At a frame boundary a port selects the next frame from eligible traffic classes and protects it. -/
  | portFrameSelect (p : Nat) (rd : ReadOutcome)
  /-- COPY_SENT (R225). A copy's last byte leaves the part and its reference is dropped, freeing cells at zero. -/
  | copySent (w : WireId)
  /-- EGRESS_AGE_LIMIT (R190). A non-Beacon copy not started within the age limit after release is discarded as aged. -/
  | egressAgeLimit (row : Nat)
  /-- SHEAF_AGE (R214). The oldest grain of an open Sheaf reaches its age limit and the Sheaf closes. -/
  | sheafAge (dest cls : Nat)
  /-- SHEAF_RELEASE_BOUNDARY (R214). Time reaches the earliest release time less the transit allowance and the Sheaf closes. -/
  | sheafReleaseBoundary (dest cls : Nat)
  /-- GATE_CHANGE (R203). A furrow or cycle starts and the port's gate states change. -/
  | gateChange (p : Nat)
  /-- SET_AND_HOLD_MAC (R205). 155 byte times before a Set-And-Hold-MAC furrow the Drill asserts hold on the preemptable MAC. -/
  | setAndHoldMac (p : Nat)
  /-- CONFIGURATION_CHANGE_TIME (R206). The change time arrives and the administrative Furrow list becomes operational with event 21. -/
  | configurationChangeTime (p : Nat)
  /-- FABRIC_CODE_FAULT (R18). A dual-rail channel carries an illegal code, discarding its token and raising event 37. -/
  | fabricCodeFault (w : FabricSite)
  /-- FABRIC_STALL (R19). A handshake open beyond the stall limit raises event 36 and stops issue to the lane. -/
  | fabricStall (w : FabricSite)
  /-- PERSISTENT_STALL (R576). A non-lane channel still stalled 10 ms after its event triggers a fabric-level reset or event 63. -/
  | persistentStall (w : FabricSite)
  /-- FABRIC_RESET_DONE (R565). A fabric reset completes, lanes are retested, cells returned and intake restarts. -/
  | fabricResetDone (failedLanes : List Nat)
  /-- PACE_WINDOW (R28). Each pace measurement window the loop compares pace with P_req and adjusts VCORE. -/
  | paceWindow (pace : Nat) (tj : Int) (fill : Nat)
  /-- AUDIT (R226). Each audit period the Gleaner marks referenced chains and sweeps leaked cells. -/
  | audit
  /-- PATROL (R236). Each patrol period the Gleaner reads every bank, corrects errors and tests spares. -/
  | patrol (finds : List WordFault)
  /-- DRAIN_END (R242). A draining bank that holds no referenced cell becomes Absent and the ladder is applied. -/
  | drainEnd (b : Nat)
  /-- DRAIN_LIMIT (R242). At the drain limit every grain with a cell in the bank is discarded and the bank becomes Absent. -/
  | drainLimit (b : Nat)
  /-- KEY_WAIT_LIMIT (R510). A channel left waiting by a forced key reaches its key wait limit and R507 applies. -/
  | keyWaitLimit (slot : Nat)
  /-- NONCE_EXPIRY (R463). A Gate nonce expires after 60 s. -/
  | nonceExpiry
  /-- START_SEQUENCE (R556). A start brings VCORE up, selects and loads firmware, restores state and reaches BOOT_PHASE 4. -/
  | startSequence (straps : Nat)
  /-- STEWARD_RESTART_DONE (R566). A Steward-level reset completes, Eulyn resumes journaled operations and answers others ST_ABANDONED. -/
  | stewardRestartDone
  /-- STEWARD_WATCHDOG (R578). The Steward watchdog unserviced for 100 ms causes a Steward-level reset. -/
  | stewardWatchdog
  /-- LOCKSTEP_MISCOMPARE (R577). A lockstep miscompare suppresses the cycle's outputs and resets the Steward. -/
  | lockstepMiscompare
  /-- RESETN (R567). RESETn held low holds the core in reset; release restarts the start sequence at step 4. -/
  | resetn (asserted : Bool) (straps : Nat)
  /-- VSTBY_POWER_ON (R591). VSTBY rising through 2.55 V is a power-on that qualifies as a wake source. -/
  | vstbyPowerOn
  /-- VSTBY_LOSS (R591). VSTBY below 2.40 V for 10 µs resets the standby domain and removes VCORE. -/
  | vstbyLoss
  /-- SUPPLY_FAULT (R535). VCORE outside its set-point by 40 mV for 5 µs raises event 60. -/
  | supplyFault (high : Bool)
  /-- BUCK_VIN_LOW (R535). BUCK_VIN below 2.8 V for 10 µs stops the regulator and holds the part in reset. -/
  | buckVinLow
  /-- BUCK_VIN_RESTORED (R535). BUCK_VIN rising above 2.9 V releases the reset it caused. -/
  | buckVinRestored
  /-- PHASE_CURRENT_LIMIT (R535). Phase current at its limit for 10 switching cycles raises event 60. -/
  | phaseCurrentLimit
  /-- THERMAL_WARN (R535). Tj at or above the thermal threshold raises event 61. -/
  | thermalWarn (tj : Int)
  /-- WAKE_PIN (R540). A WAKE0 or WAKE1 edge followed by 20 µs of level qualifies as a wake. -/
  | wakePin (n : Nat) (rising : Bool)
  /-- CAN_WAKE_UP_PATTERN (R542). A dominant-recessive-dominant pattern on the pattern channel qualifies as a wake. -/
  | canWakeUpPattern
  /-- CAN_SELECTIVE_WAKE (R543). A decoded frame matching a selective-wake filter, or the decode error counter reaching 32, wakes the part. -/
  | canSelectiveWake (ch : Nat) (f : WakeFrame)
  /-- ETHERNET_WAKE_PATTERN (R544). A frame matched by a wake-bit pattern filter of the listen port wakes the part. -/
  | ethernetWakePattern (frame : Bytes)
  /-- WAKE_TIMER (R545). The wake timer expires after its seconds and wakes the part. -/
  | wakeTimer
  /-- FALSE_WAKE_TIMEOUT (R547). No qualifying traffic within the false-wake timeout counts a false wake and returns to the Fallow state. -/
  | falseWakeTimeout
  /-- BACKOFF_END (R548). A suspended wake source's backoff period ends and it may wake the part again. -/
  | backoffEnd (src : Nat)
  /-- AUTOMATIC_FALLOW_ENTRY (R548). With every network in Bus-sleep, no need and no open record, the part enters the policy's Fallow state by itself. -/
  | automaticFallowEntry
  /-- T_KA (R553). Every T_ka a node that needs the network sends a keep-alive. -/
  | tKa (net : Nat)
  /-- T_SLEEP (R553). No keep-alive for T_sleep moves a Ready network to Prepare-sleep. -/
  | tSleep (net : Nat)
  /-- T_PREP (R553). T_prep ends in Prepare-sleep and the node queues its sleep confirmation. -/
  | tPrep (net : Nat)
  /-- POINT_OF_NO_RETURN (R555). The node's own sleep confirmation completes and its transmit is disabled, entering Bus-sleep. -/
  | pointOfNoReturn (net : Nat)
  /-- T_MIN_SLEEP (R553). A held wake request is released T_min_sleep after the point of no return and a wake message is sent. -/
  | tMinSleep (net : Nat)
  /-- KEEP_ALIVE (R553). A received keep-alive restarts T_sleep, vetoes Prepare-sleep or wakes a sleeping node. -/
  | keepAlive (net : Nat) (m : NmMsg)
  /-- SLEEP_CONFIRMATION (R550). A received sleep confirmation from another node is taken by the agreement. -/
  | sleepConfirmation (net : Nat) (m : NmMsg)
  /-- WAKE_MESSAGE (R553). A received wake message is a wake request on the network. -/
  | wakeMessage (net : Nat) (m : NmMsg)
  /-- TOKEN (R554). A received ring token is held and passed with or without consent. -/
  | token (net : Nat) (m : NmMsg)
  /-- SLEEP_INDICATION (R554). A received sleep indication is passed on, vetoed, or at its initiator triggers the prepare-sleep announcement. -/
  | sleepIndication (net : Nat) (m : NmMsg)
  /-- ALIVE (R554). A received alive message adds its node to the ring. -/
  | alive (net : Nat) (m : NmMsg)
  /-- VETO (R554). A received veto returns nodes in Prepare-sleep to ring operation. -/
  | veto (net : Nat) (m : NmMsg)
  /-- PREPARE_SLEEP_ANNOUNCEMENT (R554). A received prepare-sleep announcement moves the node to Prepare-sleep. -/
  | prepareSleepAnnouncement (net : Nat) (m : NmMsg)
  /-- TOKEN_HOLD (R554). The token hold expires and the holder passes the token to its successor. -/
  | tokenHold (net : Nat)
  /-- TOKEN_TIMEOUT (R554). No token for the token timeout makes the lowest-addressed node issue a new token. -/
  | tokenTimeout (net : Nat)
  /-- PDELAY_REQ (R160). A Pdelay_Req received from a neighbour is stamped and answered by the Almanac's Pdelay responder. -/
  | pdelayReq (p : Nat)
  /-- ANNOUNCE_RECEIPT_TIMEOUT (R160). No Announce within the receipt timeout makes Eulyn rerun best master selection and change port roles or the grandmaster. -/
  | announceReceiptTimeout (p : Nat) (sel : BestMaster)
  /-- NEED_ENDS (R551). T_sleep elapses since the last Beacon or Steer sentence decided under a route, and the part's need of the network ends (Needed to Ready). -/
  | needEnds (net : Nat)
  /-- WAKING_5_MS (R553). 5 ms after the wake message in Waking, a keep-alive is sent when Needed and the network moves to Needed or Ready. -/
  | waking5Ms (net : Nat)
  /-- CONFIRMATION_NOT_SENT (R555). A sleep confirmation not sent within T_prep after T_prep ends disables transmit at that instant, which becomes the point of no return, with event 57. -/
  | confirmationNotSent (net : Nat)
  /-- XSPI_UNKNOWN_COMMAND (R316). An xSPI transaction with an unknown command byte ends at the CSn rise, returns zero bytes and raises event 14. -/
  | xspiUnknownCommand (x : XspiUnknown)
deriving DecidableEq, Repr

end Sys2Proof
end

