-- ==== Sys2Proof/Config.lean ====
section
/-! DEFINITION. What the manual leaves open and the model leaves free: constants with no body that a proof
can see. A statement about them holds whatever they are. -/

namespace Sys2Proof.Config

/-- FREE VALUE (log 2): the n-th choice the manual leaves to the part: placement of exact entries (R122),
cell order (R223), results of physical tests (R245, R451), nonces (R463). -/
opaque free : Nat → Nat

/-- FREE VALUE (log 2): which entry moves at the given move of a relocation (R122). -/
opaque reloc : Nat → Nat → Nat

/-- FREE VALUE (log 12): the device's 256-bit OTP root (R505, R515). -/
opaque otpRoot : BitVec 256

/-- FREE VALUE (log 13): grains per second and kb/s of Granary bandwidth that a route entry can be offered, from the entry and the
bindings of its bank's rows; the manual gives no formula (R27). -/
opaque routeRate : Bytes → List Bytes → Nat × Nat

/-- FREE VALUE (log 14): hiCredit and −loCredit in bits by IEEE 802.1Q-2022 Annex L, from the port's maximum frame lengths and
idle slopes by class, its rate in kb/s, and the class (R201, R408). -/
opaque credits : List Nat → List Nat → Nat → Nat → Nat × Nat

/-- FREE VALUE (log 15): bytes of host memory the part reads for a bulk area named by a slot (R346). -/
opaque hostByte : Nat → BitVec 8

end Sys2Proof.Config
end

