-- ==== Sys2Proof/Machine/State.lean ====
section
/-! DEFINITION. The state of the block as plain data, its reset value, and the reasons a step can stop. -/

namespace Sys2Proof.Machine

/-- A sparse table, keys strictly rising. -/
abbrev Tbl (α : Type) := List (Nat × α)

/-- A byte memory: addresses strictly rising, no byte equal to what an unlisted address reads as (zero). -/
abbrev Memory := List Host.Cell

/-- A setting as the part accepted it: the inline parameter bytes of its command, then its bulk
parameters (R379, R380). A field is read at the offset the manual's layout gives. -/
abbrev Img := Bytes

/-- No command of the table stops the block. -/
inductive Fault
  /-- R593: an external rail outside R590 leaves the behaviour undefined. No row of the table reports it,
  so no meaning raises this. Safe. -/
  | undefinedSupply
deriving DecidableEq, Repr

/-- Reasons to refuse a command. -/
inductive Refusal
  /-- The command has no meaning in the model yet; raised by `exec` alone. Safe. -/
  | notModelled (mnemonic : String)
deriving DecidableEq, Repr

/-- Status codes (R356). -/
inductive Status
  | ok | partial_ | inProgress | cancelled | badOpcode | badParam | badPlot | noResource | busy
  | keyInUse | notPermitted | stale | abandoned | hwFault | timeout | remoteUnreachable
deriving DecidableEq, Repr

/-- Time states (R169). -/
inductive TimeState | locked | holdover | acquiring | uncertain | free
deriving DecidableEq, Repr

/-! ### Almanac -/

/-- gPTP state of one port (R160, R174, R175). -/
structure GptpPort where
  /-- Master role given by best master selection, in the working and in the relayed domain. -/
  master : Bool := false
  relMaster : Bool := false
  /-- Uptime of the last Announce sent (R161). -/
  announced : Option Nat := none
  /-- neighborRateRatio − 1 in ppb, from the last Pdelay exchange. -/
  rate : Option Int := none
  /-- The latest four results of any kind, newest first (R176). -/
  last : List Int := []
  /-- The last four accepted Pdelay results, newest first. -/
  delays : List Int := []
  /-- Filtered meanLinkDelay. -/
  filtered : Option Rat := none
  suspect : Bool := false
  /-- Results since the suspect opened, newest first. -/
  since : List Int := []
deriving DecidableEq, Repr

/-- One transmit stamp entry (R182). -/
structure TxStamp where
  stamp : Nat
  desc : Nat
  ring : Nat
  seqId : Nat
  msg : Nat
  port : Nat
  domain : Nat
  notSync : Bool
  preempted : Bool
  overflow : Bool
deriving DecidableEq, Repr

/-- Alarm runtime (R179): image, next instant, done. -/
structure Alarm where
  img : Img
  next : Option Nat := none
  late : Bool := false
  stepped : Bool := false
  /-- The instant at which it last fired. -/
  fired : Option Nat := none
deriving DecidableEq, Repr

/-- The Almanac (R154 to R182). -/
structure Almanac where
  /-- Working clock: 48-bit seconds, nanoseconds, 32-bit fraction; 40-bit increment. -/
  sec : Nat := 0
  ns : Nat := 0
  frac : Nat := 0
  inc : Nat := 17179869184
  /-- UTC offset in force and whether it came from an Announce. -/
  utc : Nat := 37
  utcFromAnnounce : Bool := false
  working : Nat := 0
  relayed : Nat := 1
  /-- Domain numbers waiting for the next Sync of the new working domain (R159). -/
  exchange : Option (Nat × Nat) := none
  /-- Servo integral and adjustment in ppb. -/
  i : Rat := 0
  a : Rat := 0
  theta : Rat := 0
  outlierRun : Nat := 0
  lockRun : Nat := 0
  clampRun : Nat := 0
  limitArmed : Bool := true
  /-- I over the last 16 updates, newest first (R168). -/
  iHistory : List Rat := []
  /-- The servo is frozen: its next update starts I from the held value (R168). -/
  frozen : Bool := false
  state : TimeState := .free
  grandmaster : Bool := false
  gmId : Nat := 0
  slavePort : Option Nat := none
  /-- The last slave port, kept while there is none (R170); the slave port, grandmaster role and grandmaster in the relayed domain. -/
  lastSlave : Option Nat := none
  relSlave : Option Nat := none
  relGm : Bool := false
  relGmId : Nat := 0
  /-- A grandmaster change waits for its first offset (R172). -/
  gmPending : Bool := false
  /-- Uncertain because the holdover budget expired (R170). -/
  budgetExpired : Bool := false
  /-- First lock after a wake: lock count 1 (R539). -/
  firstLock : Bool := false
  relOffset : Int := 0
  relRate : Int := 0
  /-- Changes between Locked and any other state, newest first: instant, and whether Locked from then on (R85). -/
  lockLog : List (Nat × Bool) := []
  /-- The last step: its instant by the clock before it, and by how much it moved the clock. -/
  lastStep : Option (Nat × Int) := none
  steps : Nat := 0
  outliers : Nat := 0
  steppedReleases : Nat := 0
  ports : Tbl GptpPort := []
  alarms : Tbl Alarm := []
  schedule : Tbl Img := []
  /-- PPS_OUT is high until this uptime (R178). -/
  ppsUntil : Option Nat := none
  /-- Uptime of the last PPS_IN edge (R177). -/
  lastPps : Option Nat := none
  ppsGlitches : Nat := 0
  txStamps : Tbl (List TxStamp) := []
  txStampLost : Tbl Nat := []
  /-- Ports whose next entry carries the overflow flag. -/
  txStampOver : List Nat := []
deriving DecidableEq, Repr

/-! ### Events and the Hold window -/

/-- One event log entry (R453). -/
structure LogEntry where
  seq : Nat
  event : Nat
  detail : Nat
  object : Nat
  time : Nat
  /-- Returned by an EVENT_LOG_READ (R453). -/
  read : Bool := false
deriving DecidableEq, Repr

/-- Event registers, coalescing windows, log, INTn, MSI-X (R317, R324, R331, R453, R569, R570). -/
structure Events where
  pending : BitVec 64 := 0
  enable : BitVec 64 := 0x4080000000000040#64
  route : BitVec 64 := 0
  /-- Coalescing windows open, and those in which an occurrence fell. -/
  window : BitVec 64 := 0
  inWindow : BitVec 64 := 0
  log : List LogEntry := []
  nextSeq : Nat := 0
  lost : Nat := 0
  intn : Bool := false
  msixEnable : Bool := false
  fnMask : Bool := false
  mask : BitVec 64 := BitVec.allOnes 64
  pba : BitVec 64 := 0
  msixTable : Memory := []
deriving DecidableEq, Repr

/-- Time snapshot registers (R323). -/
structure Snapshot where
  armPps : Bool := false
  captured : Bool := false
  state : Nat := 4
  sec : Nat := 0
  ns : Nat := 0
  frac : Nat := 0
deriving DecidableEq, Repr

/-- Registers of one queue (R325). -/
structure Queue where
  cmdHead : Nat := 0
  cmdTail : Nat := 0
  rspHead : Nat := 0
  rspTail : Nat := 0
  qerr : Bool := false
  cause : Nat := 0
  /-- Eulyn has been notified to scan the queue. -/
  notified : Bool := false
deriving DecidableEq, Repr

/-- Region descriptor (R465): four registers, and requests that keep old settings hold their own copy. -/
structure Region where
  base : BitVec 32 := 0
  size : BitVec 32 := 0
  target : BitVec 32 := 0
  ctrl : BitVec 32 := 0
deriving DecidableEq, Repr

/-- Stile error log entry (R484). -/
structure ErrEntry where
  addr : Nat
  region : Nat
  kindOfTarget : Nat
  instance_ : Nat
  kind : Nat
  write : Bool
  nonPosted : Bool
  unknown : Bool
  reqId : Nat
  reqKind : Nat
  txn : Nat
  epoch : Nat
  transport : Bool
  length : Nat
  seq : Nat
  time : Nat
deriving DecidableEq, Repr

/-- One far access in progress (R467, R471, R474). -/
structure FarAccess where
  id : Nat
  req : Requester
  write : Bool
  /-- 0 posted, 1 non-posted, 2 STRICT. -/
  mode : Nat
  region : Nat
  kind : Nat
  inst : Nat
  addr : Nat
  len : Nat
  data : Bytes
  sideEffect : Bool
  /-- Sent over the transport under this transaction ID and epoch. -/
  txn : Nat := 0
  epoch : Nat := 0
  remote : Bool := false
  /-- Prefetch span asked for. -/
  span : Nat := 0
  /-- The near request it is a piece of, its window offset, and a read's result waiting for the pieces before it. -/
  group : Nat := 0
  off : Nat := 0
  /-- Byte enables of the first and last 4-byte unit (R491). -/
  be : Nat := 255
  /-- The data beyond the read are not kept: the region was written meanwhile (R480). -/
  noKeep : Bool := false
  result : Option (Bytes × Bool) := none
deriving DecidableEq, Repr

/-- A request waiting in the near buffers (R477, R478). -/
structure NearReq where
  req : Requester
  write : Bool
  off : Nat
  len : Nat
  data : Bytes
  strict : Bool
  group : Nat := 0
  /-- Byte enables of the first and last 4-byte unit. -/
  be : Nat := 255
deriving DecidableEq, Repr

/-- Transport state towards one peer (R488, R489). -/
structure Transport where
  nextId : Nat := 0
  epoch : Nat := 0
  unacked : List StileReq := []
  waiting : List StileReq := []
  /-- Server side: epoch and next ID expected, kept completions (last 8, newest first). -/
  peerEpoch : Option Nat := none
  expect : Nat := 0
  kept : List StileCpl := []
deriving DecidableEq, Repr

/-- The Stile (14_stile_bridge). -/
structure Stile where
  strict : Bool := true
  timeoutCa : Bool := false
  readTimeout : Nat := 40
  logOverflow : Bool := false
  strictInForce : Bool := true
  sems : Tbl Requester := []
  regions : Tbl Region := []
  errlog : Tbl ErrEntry := []
  errSeq : Nat := 0
  far : List FarAccess := []
  near : List NearReq := []
  nextFar : Nat := 0
  transports : Tbl Transport := []
  /-- Kept prefetch data per region: aligned block offset and bytes. -/
  prefetch : Tbl (Nat × Bytes) := []
  prefetchStops : Nat := 0
  staleCount : Nat := 0
  nextGroup : Nat := 0
  /-- High halves latched by low-half reads of controller counters (R468, R311). -/
  shadow : Tbl Nat := []
  /-- PCIe reads of SEM_TAKE held behind a STRICT write: requester and semaphore (R471). -/
  held : List (Requester × Nat) := []
deriving DecidableEq, Repr

/-- One host ring (R330, R333, R341). Rings 0 to 15 receive, 16 to 31 transmit. -/
structure Ring where
  create : Img := []
  moder : Img := []
  head : Nat := 0
  tail : Nat := 0
  cause : Nat := 0
  enabled : Bool := false
  error : Bool := false
  waiting : Bool := false
  /-- Items completed since the last notification. -/
  unnotified : Nat := 0
  dropped : Nat := 0
deriving DecidableEq, Repr

/-- Hold window registers and slots (R319), xSPI target (R313), PCIe function (R305, R310). -/
structure Hold where
  snap : Snapshot := {}
  queues : Tbl Queue := []
  slots : Memory := []
  bootPhase : Nat := 0
  image : Nat := 0
  secureBootFail : Bool := false
  gateOpened : Bool := false
  straps : Nat := 0
  /-- HOLD_CAUSE fields (R322). -/
  resetKind : Nat := 0
  fallowLeft : Nat := 0
  firstWake : Nat := 7
  wakeSeen : BitVec 7 := 0b1000000#7
  xspi8d : Bool := false
  xspiLatency : Nat := 8
  xspiWait : Bool := false
  pcieUp : Bool := false
  pcieRate : Nat := 0
  pcieWidth : Nat := 0
  busMaster : Bool := false
  /-- PCIe Device Control as written: payload size in force [7:5], read request size [14:12]. -/
  deviceControl : Nat := 0x2810
  d3hot : Bool := false
  perst : Bool := false
  pme : Bool := false
  aerReports : Nat := 0
  unsupported : Nat := 0
  statShadow : Tbl Nat := []
deriving DecidableEq, Repr

/-! ### Mailbox, Ledger, banks -/

/-- One status entry of a walk (R60); the plot as its 32-bit reference. -/
structure Entry where
  plot : Nat
  status : Status
  rep : Bool := false
  notApplied : Bool := false
  unknown : Bool := false
  notVisited : Bool := false
deriving DecidableEq, Repr

/-- A walk in progress (R50 to R61): plots still to reach, plots reached with their status, entries and
the aggregated results so far. -/
structure Walk where
  todo : List Nat := []
  seen : List (Nat × Status) := []
  entries : List Entry := []
  acted : Nat := 0
  failed : Nat := 0
  first : Status := .ok
  inline : Bytes := []
  bulk : Bytes := []
  /-- Sub-walks sent; the one awaited: device and plot reference. -/
  subs : Nat := 0
  await : Option (Nat × Nat) := none
  /-- The path led to a remote plot: hops left for its device, whose status becomes the command's (R47, R50). -/
  direct : Bool := false
  rest : List Nat := []
  given : Status := .ok
  /-- Members that took part in an atomic walk; those that have answered Ready (R372). -/
  members : List Nat := []
  ready : List Nat := []
  /-- The addressed plot is of the opcode's own kind: it alone is acted on (R50). -/
  alone : Bool := false
  /-- The sown bank here is held by another command: plots of this device fail with ST_BUSY (R66). -/
  busy : Bool := false
  /-- The plot whose long operation the walk waits for (R57). -/
  inner : Option Nat := none
  /-- A reset asked for on this device follows the walk (R460). -/
  reset : Bool := false
  /-- It has acted on a plot of this device: a direct change is counted once (R362). -/
  changed : Bool := false
  /-- Lengths at which the joined bulk result may be cut: the ends of whole items (R347, R378). -/
  ends : List Nat := []
deriving DecidableEq, Repr

/-- What a final or interim response holds beyond the echo (R348). -/
structure Final where
  status : Status := .ok
  inline : Bytes := []
  bulk : Bytes := []
  progress : Nat := 0
  opno : Nat := 0
  interim : Bool := false
  unknown : Bool := false
  /-- The bulk result had to leave whole items out already. -/
  cut : Bool := false
deriving DecidableEq, Repr

/-- What an operation in flight still has to do. -/
inductive OpBody
  | walk (w : Walk)
  /-- An atomic command staged and waiting for its flip. -/
  | atomicFlip (w : Walk)
  | fieldJoin
  /-- TIME_SET waiting for an edge; it times out at this uptime (R412). -/
  | timeSetPps (sec ns until_ : Nat)
  | bankRetire (bank : Nat)
  | fallow (target : Nat)
  | retillLoad (records : Bytes) (applied : Nat)
  /-- A commit waiting for its flip: commit time asked for, uptime at which it began. -/
  | retillFlip (at_ from_ : Nat)
  /-- An atomic command across the Field waiting for its members' Ready (R372). -/
  | atomicReady (w : Walk)
  /-- An atomic command that has flipped here and waits for its members' Commit done. -/
  | atomicDone (w : Walk)
  | gateOpen
  | fabricReset
  /-- A journaled command whose open record has reached the flash mirror; its act on the plot follows (R367). -/
  | journal (plot : Nat)
  /-- A re-till has flipped at this instant: its slot is to be marked standing (R366). -/
  | retillClose (at_ : Nat)
  /-- A journaled operation is done: the mirror write of its close comes next, then this response (R367). -/
  | closing (f : Final)
deriving DecidableEq, Repr

/-- Sender of a forwarded command held in MQ3 (R369). -/
structure FwdFrom where
  dev : Nat
  queue : Nat
  sub : Nat
  tokDev : Nat
  tokQueue : Nat
  tokTag : Nat
  tokGen : Nat
deriving DecidableEq, Repr

/-- A command in flight (R350). -/
structure Op where
  opcode : Nat
  call : Call
  body : OpBody
  progress : Nat := 0
  opno : Nat := 0
  steps : Nat := 0
  interim : Bool := false
  cancel : Bool := false
  /-- Its queue was cleared by a PCIe reset: no response is written (R564). -/
  mute : Bool := false
  from_ : Option FwdFrom := none
  /-- Part of a walk under the same call: its end goes to the walk (R57). -/
  inner : Bool := false
deriving DecidableEq, Repr

/-- A Ledger record (R367). -/
structure Record where
  opno : Nat
  opcode : Nat
  origin : Nat
  tag : Nat
  gen : Nat
  /-- 0 open, 1 past point of no return, 2 closed, 3 abandoned, 4 cancelled. -/
  state : Nat
  fromFlash : Bool
  steps : Nat
  status : Nat
  start : Nat
  ponr : Nat
  /-- The commit of an atomic command across the Field is decided here (R374). -/
  across : Bool := false
deriving DecidableEq, Repr

/-- A stored answer to a forward (R369). -/
structure Stored where
  dev : Nat
  queue : Nat
  tag : Nat
  gen : Nat
  sub : Nat
  answer : Answer
deriving DecidableEq, Repr

/-- Listener set with its two copies (R132): the contents in force, which copy they are, and the other. -/
structure Lset where
  cur : BitVec 512 := 0
  other : BitVec 512 := 0
  copy : Bool := false
deriving DecidableEq, Repr

/-- The items of a bank (R361). -/
structure Bank where
  pins : Img := []
  can : Tbl Img := []
  uart : Tbl Img := []
  lin : Tbl Img := []
  mvb : Tbl Img := []
  bind : Tbl Img := []
  framing : Tbl Img := []
  enabled : List Nat := []
  /-- Route entries by reference: 0 to 8191 exact, 8192 to 8207 stash, 8224 to 8479 wildcard (R148). -/
  routes : Tbl Img := []
  lsets : Tbl Lset := []
  teams : Tbl Img := []
  sieves : Tbl Img := []
  rewrites : Tbl Img := []
  rules : Tbl Img := []
  policers : Tbl Img := []
  /-- Zone of an endpoint that was moved: ports 0 to 9, CAN 16 to 31, UART 32 to 47, LIN 48 to 51, MVB 52, 53. -/
  zones : Tbl Nat := []
  within : BitVec 8 := BitVec.allOnes 8
  classMaps : Tbl Img := []
  pool : Option Img := none
  furrows : Tbl Img := []
  /-- Shaper by 8 × port + class, maximum lengths by port. -/
  shapers : Tbl Img := []
  maxLens : Tbl Img := []
  sheaf : Option Img := none
  tallies : Tbl Img := []
  /-- What a sown bank's flip does beside its settings: 0 a rule written, 1 a policer's counters cleared, 2 a CAN controller told to
  recover (R253, R419, R422). -/
  acts : List (Nat × Nat) := []
deriving DecidableEq, Repr

/-- Eulyn's mailbox state: tags, operations, Ledger, banks' control (11_mailbox_protocol). -/
structure Steward where
  up : Bool := false
  tags : Tbl Nat := []
  ops : List Op := []
  turn : Nat := 0
  ledger : List Record := []
  flash : List Record := []
  nextOpno : Nat := 1
  /-- Sub-walk numbers used so far by the sub-walks served under a sender's tag: generation and next number (R369, R370). -/
  subNos : Tbl (Nat × Nat) := []
  answers : List Stored := []
  /-- Segments of forwards and answers not complete (R369). -/
  segments : List Forward := []
  answerSegs : List Answer := []
  /-- Forwards waiting in MQ3 with their bulk data, oldest first. -/
  mq3 : List Forward := []
  /-- Plots reached under a walk token, by device + 256 × queue + 1024 × tag: generation and plots (R53). -/
  walked : Tbl (Nat × List (Nat × Status)) := []
  staleCount : Nat := 0
  /-- Re-till open with its operation number. -/
  retill : Option Nat := none
  committing : Bool := false
  directChanges : Nat := 0
  /-- The flip due: earliest instant, and the opcode it completes. -/
  flip : Option Nat := none
  /-- Atomic staging on behalf of a member of the Field: token. -/
  staged : Option AtomicMsg := none
  /-- Its Ledger operation; the token of the last commit flipped here. -/
  stagedOp : Nat := 0
  committed : Option AtomicMsg := none
  /-- Commit time a member has been given (R64). -/
  tc : Option Nat := none
  /-- Decisions of atomic commands held here: commit or abort message with the members that have not acknowledged it. -/
  decisions : List (AtomicMsg × List Nat) := []
  notServing : Bool := false
  watchdog : List Nat := []
  /-- Control messages passed to the Steward and not yet taken, with the first cell each holds (R106, R227). -/
  inbox : List (Bytes × Nat) := []
deriving DecidableEq, Repr

/-! ### Plots and Field -/

/-- A group number (R41, R46): in use, generation, members by position. -/
structure Group where
  used : Bool := false
  gen : Nat := 0
  members : Tbl Nat := []
deriving DecidableEq, Repr

/-- The plot tree kept in flash (R381): groups and top-level positions 16 to 255. -/
structure Plots where
  groups : Tbl Group := []
  top : Tbl Nat := []
deriving DecidableEq, Repr

/-- A roster entry (R69, R72). -/
structure Member where
  serial : Nat
  reachable : Bool := true
  roster : Nat := 0
  port : Nat := 0
  /-- Station address its hails came from (R209). -/
  addr : Nat := 0
  /-- The sender claims its ID while Joining only. -/
  joining : Bool := false
deriving DecidableEq, Repr

/-- Receive state of one source's Sheaf series (R106, R212): session and last sequence by series. -/
structure RxSeries where
  session : Nat
  last : Tbl Nat := []
deriving DecidableEq, Repr

/-- Defaults of R55, R64, R65 and R69 in the layout of R385: automatic device ID, hails every 100 ms, remote timeout 20 ms, commit
lead 5 ms, prepare hold time 100 ms. -/
def defaultJoin : Img := [0, 0, 255, 0, 0, 0, 100, 0, 20, 0, 5, 0, 100, 0, 0, 0]

/-- The Field (R68 to R74, R212, R213). -/
structure Field where
  /-- Settings of 0105h FIELD_JOIN; at reset the defaults of R55, R64, R65 and R69. -/
  settings : Img := defaultJoin
  /-- 0 Alone, 1 Joining, 2 Member, 3 Conflict (R385). -/
  join : Nat := 0
  id : Nat := 0
  dev : Nat := 255
  reason : Nat := 0
  rejoin : Bool := false
  roster : Tbl Member := []
  rosterVer : Nat := 0
  /-- Serials last seen of devices that have left, by device ID (R73, R74). -/
  gone : Tbl Nat := []
  session : Nat := 0
  /-- Next transmit sequence by series: destination × 4 + class. -/
  txSeq : Tbl Nat := []
  rx : Tbl RxSeries := []
  sheafDrops : Nat := 0
  sheafGaps : Nat := 0
deriving DecidableEq, Repr

/-! ### Grains, Ploughs, Harrow, Drill -/

/-- A grain (R114), with the fields a Sheaf or frame brings beside it. -/
structure Grain where
  key : Nat
  stamp : Nat
  row : Nat
  origin : Nat := 0
  remote : Bool := false
  len : Nat
  cell : Nat := 0
  kind : Nat
  csAbsent : Bool := false
  csBad : Bool := false
  void : Bool := false
  notLocked : Bool := false
  ingress : Nat := 2
  tagPresent : Bool := false
  tagBad : Bool := false
  keyShort : Bool := false
  carried : Bool := false
  bareLf : Bool := false
  cls : Nat := 2
  late : Bool := false
  tally : Bool := false
  lset : Nat := 0
  release : Nat := 0
  /-- Origin row of a remote-origin grain (R147). -/
  originRow : Nat := 0
  /-- Ingress port of a frame or Sheaf, 15 none. -/
  port : Nat := 15
  /-- Frame to a reserved IEEE 802.1 address (R288). -/
  reserved : Bool := false
  /-- Transmit stamp asked for: ring and END descriptor. -/
  stampReq : Option (Nat × Nat) := none
  /-- Sheaf built while the sender was not synchronised (R192). -/
  unsync : Bool := false
  /-- Dropped by a talker-row Tally unit before lookup (R529). -/
  tallyDrop : Bool := false
  /-- Frame status byte of a flawed frame (R335 offset 25). -/
  flaw : Nat := 0
deriving DecidableEq, Repr

/-- The hand-off word of R148 with the grain. -/
structure HandOff where
  grain : Grain
  route : Nat
  copy : Bool
  due : Bool
  permit : BitVec 8
  rewrite : Nat := 0
  tally : Nat := 0
  hostFrame : Bool := false
  retried : Bool := false
  /-- Reason code of R335 for host delivery. -/
  reason : Nat := 0
  /-- The miss action delivers to the host miss ring (R134). -/
  missRing : Bool := false
deriving DecidableEq, Repr

/-- States of the IEC 61162-1 Plough (R86). -/
inductive IecState | hunt | tag | tagEnd (n : Nat) | afterTag | address | body | checksum (n : Nat) | checksumCr | end_
deriving DecidableEq, Repr

/-- A record in reception or completed (R76, R86, R101). -/
structure Rec where
  row : Nat
  /-- Bytes stored so far, in order. -/
  bytes : Bytes := []
  /-- Bytes of them written to cells, and the cells taken, in order. -/
  written : Nat := 0
  cells : List Nat := []
  stamp : Nat
  iec : IecState := .hunt
  xor : Byte := 0
  tagXor : Byte := 0
  /-- Checksum digits received. -/
  digits : List Nat := []
  addr : Bytes := []
  tagPresent : Bool := false
  tagBad : Bool := false
  csAbsent : Bool := false
  csBad : Bool := false
  bareLf : Bool := false
  /-- User framing: unescaped sequence, escape pending. -/
  unesc : Bytes := []
  esc : Bool := false
  /-- The framing image the record runs under. -/
  framing : Img := []
  /-- The Almanac was not Locked at its stamp point (R85). -/
  unlocked : Bool := false
  /-- Priority of the Ethernet frame it came in (R296). -/
  pcp : Nat := 0
  /-- Granted class of its cells. -/
  cls : Nat := 2
  /-- Grain to issue when complete; `none` frees the cells (a dropped record). -/
  grain : Option Grain := none
  /-- Dropped already: what still arrives of it is discarded up to its end (R230). -/
  skip : Bool := false
  /-- The row was disabled during reception (R39). -/
  disabled : Bool := false
  /-- The row was Enabled before the bank's flip; a Tally binding skips it (R525). -/
  skipTally : List Nat := []
  /-- The message of a control Sheaf, bound for the Steward (R106, R227). -/
  control : Bool := false
  /-- Some of its cells are in the FIFO of a stalled write port (R17). -/
  inFifo : Bool := false
deriving DecidableEq, Repr

/-- One Plough: record in progress, completed records, crossing FIFO of 16 (R17, R78, R79). -/
structure Plough where
  cur : Option Rec := none
  done : List Rec := []
  crossing : List Grain := []
deriving DecidableEq, Repr

/-- Statistics of a row (R390): counters by index, last received, last sent, high-water. -/
structure RowRt where
  counters : Tbl Nat := []
  lastRx : Nat := 0
  lastTx : Nat := 0
  high : Nat := 0
  /-- ACF: last AVTP sequence number and gaps (R108). -/
  acfSeq : Option Nat := none
  acfGaps : Nat := 0
  /-- ACF messages of other types, skipped. -/
  acfSkipped : Nat := 0
  /-- Instant at which the row was last disabled (R39). -/
  disabledAt : Option Nat := none
deriving DecidableEq, Repr

/-- Counters and Thinning state of a route (R119, R145, R185). -/
structure RouteRt where
  hits : Nat := 0
  passed : Nat := 0
  sieve : Nat := 0
  team : Nat := 0
  thinned : Nat := 0
  denied : Nat := 0
  void : Nat := 0
  tooFar : Nat := 0
  count : Nat := 0
  last : Option Nat := none
deriving DecidableEq, Repr

/-- Health of a Team member (R141, R397). -/
inductive Health | healthy | unheard | quiet | faulty | notValid
deriving DecidableEq, Repr

/-- A Team member's runtime (R141). -/
structure TeamMember where
  row : Nat
  rank : Nat
  health : Health := .unheard
  good : Nat := 0
  failing : Nat := 0
  invalid : Nat := 0
  stamp : Nat := 0
  healthySince : Nat := 0
deriving DecidableEq, Repr

/-- Team states (R142, R397). -/
inductive TeamState | serving | seeking | vacant | silent
deriving DecidableEq, Repr

/-- A Team's runtime: settings in force and a change not yet taken (R144). -/
structure TeamRt where
  img : Img := []
  pending : Option Img := none
  state : TeamState := .vacant
  active : Option Nat := none
  members : List TeamMember := []
  failovers : Nat := 0
  nonMember : Nat := 0
  last : Nat := 0
deriving DecidableEq, Repr

/-- Policer level in bytes with the instant it was brought up to date, and counters (R422, R501). -/
structure PolicerRt where
  level : Rat := 0
  at_ : Nat := 0
  conform : Nat := 0
  exceed : Nat := 0
deriving DecidableEq, Repr

/-- Rule hits (R500). -/
structure RuleRt where
  hits : Nat := 0
  last : Nat := 0
deriving DecidableEq, Repr

/-- Tally unit runtime (R430, R525, R531). -/
structure TallyRt where
  checked : Nat := 0
  mismatches : Nat := 0
  repeats : Nat := 0
  jumps : Nat := 0
  skipped : Nat := 0
  generated : Nat := 0
  alive : Option Nat := none
  aliveShown : Nat := 0
  lastMismatch : Nat := 0
deriving DecidableEq, Repr

/-- The Harrow's state (04_harrow_routing). -/
structure Harrow where
  routes : Tbl RouteRt := []
  teams : Tbl TeamRt := []
  sieveFlags : Tbl Nat := []
  policers : Tbl PolicerRt := []
  rules : Tbl RuleRt := []
  tallies : Tbl TallyRt := []
  rows : Tbl RowRt := []
  lsetSkips : Tbl Nat := []
  /-- Lanes in service and isolated lanes; lane 4 is the spare (R20, R574). -/
  lanes : List Nat := [0, 1, 2, 3]
  isolated : List Nat := []
  /-- Isolated lanes waiting for the Steward to switch the spare in (R34). -/
  laneWait : List Nat := []
  laneDiscards : Nat := 0
  stalled : List FabricSite := []
  fabricResets : List Nat := []
  stalls : Nat := 0
  codeFaults : Nat := 0
  /-- A fabric-level reset runs: intake is stopped (R565). -/
  inReset : Bool := false
  /-- Cells in the FIFO of a stalled Granary write port, by island (R17). -/
  portFifo : Tbl Nat := []
  /-- Cells in the FIFO of the Drill's stalled Granary read port, and words in that of the stalled Steward port (R17). -/
  readFifo : Nat := 0
  stewFifo : Nat := 0
  /-- Grains handed to the Drill per class: the crossing's FIFO of 64, then the decided grains that wait for it in the lanes
  (R17). -/
  handoff : Tbl (List HandOff) := []
  beaconDrops : Nat := 0
  /-- Carried grains without a remote talker row (R37). -/
  unknownOrigin : Nat := 0
deriving DecidableEq, Repr

/-- A copy in the Drill (R193, R195). -/
structure Copy where
  grain : Grain
  row : Nat
  /-- Destination port of a frame, ACF or Sheaf copy. -/
  port : Nat := 15
  release : Nat
  due : Bool
  late : Bool := false
  deferred : Bool := false
  /-- It has been counted as deferred, and as released unsynchronised (R189, R192). -/
  countedDeferred : Bool := false
  countedUnsync : Bool := false
  /-- Instant at which the Drill made it. -/
  made : Nat := 0
  rewrite : Nat := 0
  tally : Nat := 0
  route : Nat := 0
  reason : Nat := 0
  /-- The pool entry came from the class's reserve. -/
  fromReserve : Bool := false
  /-- Bytes to send, once read out (R235), or the Sheaf's bytes. -/
  out : Bytes := []
  /-- The origin was not synchronised when it built the Sheaf (R192). -/
  unsync : Bool := false
  /-- The domain was not synchronised at the instant of its transmit stamp (R182). -/
  stampNotSync : Bool := false
  /-- A Sheaf or control frame the part makes itself: no Granary cells. -/
  own : Bool := false
  pcp : Nat := 0
  tc : Nat := 0
  /-- CAN: errors so far in sending (R258). On a port: its deferral by pause has been counted. -/
  tries : Nat := 0
  /-- Started on a port: whether it may be cut, by the rules that held at its start (R299). -/
  mayCut : Option Bool := none
  /-- Cut at least once by preemption (R182). -/
  preempted : Bool := false
  /-- Ring: wait begun at (R337). -/
  waitFrom : Option Nat := none
  /-- The key slot a protected frame was started under (R510). -/
  slot : Option Nat := none
  /-- The frame ends with an inverted FCS (R234, R511). -/
  stomp : Bool := false
  flagTally : Bool := false
  rewritten : Bool := false
  /-- The controller a row copy was started on: kind and instance. -/
  ctl : Option (Nat × Nat) := none
  /-- A preemptable frame started to be cut when its gate closes at this instant (R203); its overrun has been counted (R208). -/
  planCut : Option Nat := none
  /-- On a port: bytes from destination address to FCS with MACsec, those sent in earlier fragments, and the instant at which the
  fragment on the wire began (R297). -/
  wireLen : Nat := 0
  fragSent : Nat := 0
  fragAt : Nat := 0
  overran : Bool := false
  /-- Grains of a closed Sheaf with whether their pool entry is from a reserve, and their remote listener rows. -/
  grains : List (Grain × Bool) := []
  rows : List Nat := []
deriving DecidableEq, Repr

/-- An open Sheaf (R214). -/
structure OpenSheaf where
  /-- Grains with whether their pool entry is from a reserve, oldest first. -/
  grains : List (Grain × Bool) := []
  bytes : Bytes := []
  rows : List Nat := []
  opened : Nat := 0
  /-- Settings with which it opened (R409). -/
  settings : Img := []
  unsync : Bool := false
deriving DecidableEq, Repr

/-- Furrow list runtime of a port (R203 to R208). -/
structure FurrowRt where
  oper : Option Img := none
  change : Option Nat := none
  remove : Option Nat := none
  gates : BitVec 8 := BitVec.allOnes 8
  hold : Bool := false
  /-- Preemption was active at the last cycle boundary; the Headland follows it (R299). -/
  headActive : Bool := false
deriving DecidableEq, Repr

/-- The Drill (06_release_and_drill). -/
structure Drill where
  /-- Copies waiting per listener row, and the copy on the row's wire. -/
  rows : Tbl (List Copy) := []
  rowWire : Tbl Copy := []
  /-- Copies waiting per port, and the frame on the port's wire. -/
  ports : Tbl (List Copy) := []
  portWire : Tbl Copy := []
  /-- A preempted frame whose remainder waits (R203, R205). -/
  portHeld : Tbl Copy := []
  sheafs : Tbl OpenSheaf := []
  furrows : Tbl FurrowRt := []
  /-- Pool entries held: Beacon reserve, Steer reserve, shared by class. -/
  poolRes : Tbl Nat := []
  poolShared : Tbl Nat := []
  /-- Shaper credit in units of 1 kb/s × 1 ns by 8 × port + class, and the instant it was brought up to date. -/
  credit : Tbl Int := []
  creditAt : Tbl Nat := []
deriving DecidableEq, Repr

/-! ### Granary -/

/-- An allocated cell: its link entry (R224) and bytes. -/
structure Cell where
  next : Option Nat := none
  charge : Nat := 2
  reserve : Bool := false
  poison : Bool := false
  /-- Its link entry holds an uncorrectable error: the chain cannot be followed past it (R226). -/
  cut : Bool := false
  copies : Nat := 0
  data : Bytes := []
deriving DecidableEq, Repr

/-- A migration in progress (R240): old bank, target, logical bank, step, cells copied. -/
structure Migration where
  old : Nat
  logical : Nat
  target : Option Nat := none
  step : Nat := 1
  sub : Nat := 0
  mirror : Bool := false
  /-- Payload of the target by cell: what has been copied to it, and what has been written since the mirror is on. -/
  image : Tbl Bytes := []
  opno : Nat := 0
deriving DecidableEq, Repr

/-- The Granary (07_granary). -/
structure Granary where
  cells : Tbl Cell := []
  /-- Free cells whose Poison bit is set: it clears when the cell is next allocated (R234). -/
  freePoison : List Nat := []
  quota : Option Img := none
  /-- Logical bank to physical bank where it is not the identity; 255 Absent. -/
  map : Tbl Nat := []
  /-- Physical bank states where not the initial one (R238). -/
  state : Tbl Nat := []
  rotation : Nat := 0
  /-- Instants of corrected errors per bank, newest first; words counted this patrol period. -/
  corrected : Tbl (List Nat) := []
  counted : List (Nat × Nat) := []
  nCorrected : Nat := 0
  nUncorrectable : Nat := 0
  leaked : Nat := 0
  /-- Retirements decided and not begun, the migration in progress, drains. -/
  queue : List Nat := []
  migration : Option Migration := none
  draining : List Nat := []
  /-- Banks whose retirement the part decided itself, while it is under way (R237, R433). -/
  selfDecided : List Nat := []
  /-- Banks retired for an uncorrectable error; reinstatements. -/
  hardRetired : List Nat := []
  reinstated : Nat := 0
  degraded : Bool := false
  /-- Patrol pass parity for the spare test pattern, and the pattern each spare was written with on the last pass: 5555h or AAAAh (R236). -/
  pattern : Bool := false
  spareTest : Tbl Bool := []
deriving DecidableEq, Repr

/-! ### Field buses -/

/-- CAN controller runtime (R248 to R259, R274). -/
structure CanRt where
  /-- State code of R252. -/
  state : Nat := 5
  tec : Nat := 0
  rxErr : Nat := 0
  integrated : Bool := false
  /-- The frame in the buffer has driven its start of frame and not lost arbitration. -/
  onBus : Bool := false
  /-- Its last try failed with an error; the next one may not have begun (R259). -/
  retry : Bool := false
  /-- Switched to manual recovery by the automatic-recovery limit. -/
  forcedManual : Bool := false
  busOffs : List Nat := []
  /-- Bus-off state it was stopped in (3 recovering, 4 held), 0 for none (R248). -/
  stoppedIn : Nat := 0
  counters : Tbl Nat := []
  armed : Bool := true
deriving DecidableEq, Repr

/-- UART runtime (R260 to R265, R274). -/
structure UartRt where
  counters : Tbl Nat := []
  armed : Bool := true
  /-- Sending; DE rose with the last sentence sent. -/
  sending : Bool := false
  de : Bool := false
  /-- Instants of the last stop bits received and sent. -/
  lastRx : Option Nat := none
  lastTx : Option Nat := none
deriving DecidableEq, Repr

/-- LIN controller runtime (R266 to R269, R274). -/
structure LinRt where
  slot : Nat := 0
  /-- The table still running until the schedule cycle ends, after a replacement while Enabled. -/
  running : Option Bytes := none
  buffers : Tbl (Bool × Bytes) := []
  counters : Tbl Nat := []
  armed : Bool := true
  /-- A frame is on the bus. -/
  busy : Bool := false
  /-- Slots whose start fell while a copy's frame was on the bus (R267). -/
  slotWaiting : Nat := 0
  lastTraffic : Option Nat := none
deriving DecidableEq, Repr

/-- MVB interface runtime (R270 to R272, R274). -/
structure MvbRt where
  /-- By port: uptime of the last copy, and its data. -/
  buffers : Tbl (Nat × Bytes) := []
  stale : List Nat := []
  lastSink : Tbl Bytes := []
  faultA : Bool := false
  faultB : Bool := false
  counters : Tbl Nat := []
  /-- Frames discarded for their check sequence (R99). -/
  badFrames : Nat := 0
deriving DecidableEq, Repr

/-- Field pins (R247, R273). -/
structure Pins where
  inputs : BitVec 40 := 0
  outputs : BitVec 40 := 0
  /-- Toggle levels of alarm outputs, and the uptime to which a pulse holds one high (R179). -/
  toggles : BitVec 40 := 0
  pulses : Tbl Nat := []
  captures : Tbl (List (Nat × Bool × Bool)) := []
  capLost : List Nat := []
deriving DecidableEq, Repr

/-- Field-bus controllers. -/
structure Buses where
  can : Tbl CanRt := []
  uart : Tbl UartRt := []
  lin : Tbl LinRt := []
  mvb : Tbl MvbRt := []
  pins : Pins := {}
  /-- Loopback modes: 16 × kind + index to mode (R452). -/
  loopback : Tbl Nat := []
deriving DecidableEq, Repr

/-! ### Ethernet ports -/

/-- Pause state of one class (R293, R294): 0 Running, 1 Paused, 2 Overridden. -/
structure PauseRt where
  state : Nat := 0
  until_ : Nat := 0
deriving DecidableEq, Repr

/-- Port runtime (R279, R294, R296, R298). -/
structure PortRt where
  link : Bool := false
  /-- A loss within the hold-off (R280). -/
  lossPending : Bool := false
  training : Bool := false
  speed : Nat := 0
  mismatch : Bool := false
  lastChange : Nat := 0
  /-- 0 Succeeded, 1 Disabled, 2 Verifying, 3 Failed. -/
  verify : Nat := 1
  attempts : Nat := 0
  pause : Tbl PauseRt := []
  /-- Priorities for which pause has been sent and not yet ended; 255 for legacy pause. -/
  pauseSent : Nat := 0
  /-- Pause frames that wait for the next frame boundary: whether PFC, priorities, quanta (R296). -/
  pauseWait : List (Bool × Nat × Nat) := []
deriving DecidableEq, Repr

/-- Ports: settings images, lane modes, filters, runtime, counters by 48 × port + index. -/
structure Ports where
  config : Tbl Img := []
  lanes : Tbl Nat := []
  pauseCfg : Tbl Img := []
  preempt : Tbl Img := []
  /-- Exact entries by 32 × port + entry, patterns by 64 × port + filter, hash per port. -/
  exact : Tbl Nat := []
  patterns : Tbl Img := []
  hash : Tbl (BitVec 512) := []
  rt : Tbl PortRt := []
  counters : Tbl Nat := []
deriving DecidableEq, Repr

/-! ### Security, firmware, power -/

/-- States of a key slot (R428). -/
inductive SlotState | active | next | installed | empty | warned | exhausted | rekey
deriving DecidableEq, Repr

/-- A key slot (R424 to R428, R506). -/
structure KeySlot where
  state : SlotState := .empty
  key : Bytes := []
  sa : Img := []
  nextPn : Nat := 0
  frames : Nat := 0
  replayDrops : Nat := 0
  limitDrops : Nat := 0
  /-- Frames whose integrity check failed (R283). -/
  icvDrops : Nat := 0
  /-- A frame has been sent under the present key (R508). -/
  used : Bool := false
  /-- Predecessor of a Next slot. -/
  pred : Option Nat := none
deriving DecidableEq, Repr

/-- Keys, port protection and the Gate (15_hedgerow_and_cipher). -/
structure Keys where
  slots : Tbl KeySlot := []
  protTx : List Nat := []
  protRx : List Nat := []
  /-- Ports whose channel waits after a forced key (R510). -/
  waiting : List Nat := []
  /-- The Active slot of each port's transmit channel, kept for its limit drops. -/
  lastActive : Tbl Nat := []
  /-- Slot that takes each port's transmit channel over at the next frame to start: role 0 of KEY_ACTIVATE (R506). -/
  switchTo : Tbl Nat := []
  kek : Bool := true
  wrapped : Tbl KeySlot := []
  nonce : Option Bytes := none
  wrong : Nat := 0
  gateDebug : Bool := false
  otpLocked : Bool := false
deriving DecidableEq, Repr

/-- One-time-programmable values and flash contents that outlast every reset. -/
structure Fixed where
  /-- QTL-512E: the cipher engine is fused off (R1). -/
  variantE : Bool := false
  serial : Nat := 0
  openedCount : Nat := 0
  /-- Digests of the four public keys, revoked indices, minimum security version (R519). -/
  digests : List Bytes := []
  revoked : List Nat := []
  minVersion : Nat := 0
  /-- Image slots A and B. -/
  imageA : Bytes := []
  imageB : Bytes := []
  /-- Selection record (R559). -/
  selSlot : Nat := 0
  selTrial : Bool := false
  selTried : Bool := false
  selConfirmed : Nat := 0
  /-- Standing bank images: slot contents with their operation number, slot marked standing (R561): 0 A, 1 B, 2 neither. -/
  bankA : Option (Nat × Bank) := none
  bankB : Option (Nat × Bank) := none
  bankSel : Nat := 2
  plots : Plots := {}
  portCfg : Tbl Img := []
  laneCfg : Tbl Nat := []
  fieldImg : Option Img := none
  bootNumber : Nat := 0
  flashSize : Nat := 0
deriving DecidableEq, Repr

/-- Firmware operations: open staging with its number, image length and bytes; activation pending. -/
structure Firmware where
  running : Nat := 0
  onTrial : Bool := false
  trialAbandoned : Bool := false
  otherFailed : Bool := false
  staging : Option (Nat × Nat × Bytes) := none
  verified : Bool := false
  activating : Bool := false
deriving DecidableEq, Repr

/-- Power states (R536): off, starting, held in reset, Growing, the four Fallow states. -/
inductive PowerState | off | starting | held | growing | listen | watch | retain | deep
deriving DecidableEq, Repr

/-- Sleep agreement on one network (R549 to R555). -/
structure Nm where
  img : Img := []
  /-- State code of R552. -/
  state : Nat := 0
  /-- An NM_REQUEST need held; traffic need running; waking after a request. -/
  need : Bool := false
  traffic : Bool := false
  waking : Bool := false
  confQueued : Bool := false
  wakeHeld : Bool := false
  ownNeed : Bool := false
  /-- Ring: nodes heard with the instant, token held with its consent and run start, round. -/
  ring : Tbl Nat := []
  token : Bool := false
  consent : Bool := false
  runStart : Nat := 255
  round : Nat := 0
deriving DecidableEq, Repr

/-- Power, Fallow and wake (17_fallow_power_and_wake). -/
structure Power where
  state : PowerState := .starting
  inh : Bool := true
  /-- Set-point in mV; 0 off. -/
  vcore : Nat := 800
  pace : Nat := 0
  lowPace : Option Nat := none
  preq : Rat := 0
  /-- Computed demand (R27): million slots per second, Mb/s. -/
  slots : Nat := 0
  bandwidth : Nat := 0
  tj : Int := 0
  fill : Nat := 0
  pacePolicy : Option Img := none
  fallowPolicy : Option Img := none
  /-- Windows in a row (1 µs each) with the required pace below the measured. -/
  holdUs : Nat := 0
  ceiling : Bool := false
  floorViolation : Bool := false
  floorHold : Bool := false
  thermalArmed : Bool := true
  /-- Thermal threshold in °C (R535). -/
  thermal : Int := 115
  buckLow : Bool := false
  /-- It has fallen since the last boot report. -/
  buckFell : Bool := false
  faultSeen60 : Bool := false
  faultSeen61 : Bool := false
  wake : Img := []
  falseWakes : Tbl Nat := []
  falseInstants : List (Nat × Nat) := []
  suspended : List Nat := []
  falseSince : List Nat := []
  /-- WAKE_CAUSE fields (R440). -/
  firstWake : Nat := 7
  seen : BitVec 7 := 0b1000000#7
  wakeChannel : Nat := 255
  wakeFilter : Nat := 255
  wakeInstant : Nat := 0
  resumed : Nat := 0
  decodeErr : Tbl Nat := []
  /-- Coarse time counter in ns. -/
  coarse : Nat := 0
  /-- A wake is under false-wake watch. -/
  watchWake : Bool := false
  /-- A network was woken since the wake under watch (R32). -/
  netWoken : Bool := false
  left : PowerState := .growing
  /-- Entry in progress (R540): target, step reached (1 agreement, 2 waiting for commands, 3 draining), end of the 10 ms. -/
  entering : Option PowerState := none
  entryStep : Nat := 0
  entryUntil : Nat := 0
  /-- Ploughs stopped for an entry. -/
  halted : Bool := false
  /-- Target state of an entry after step 6, its detectors armed (R540). -/
  armedFor : Option PowerState := none
  nets : Tbl Nm := []
  /-- What Eulyn keeps in retained SRAM across a wake: clock and integral at entry. -/
  keptSec : Nat := 0
  keptNs : Nat := 0
  keptI : Rat := 0
  /-- Coarse counter at that moment. -/
  keptCoarse : Nat := 0
  /-- RESETn is low. -/
  resetHeld : Bool := false
  /-- Coarse counter when the wake source qualified. -/
  wakeCoarse : Nat := 0
  /-- Nanoseconds since the last clearing reset (R387 uptime). -/
  upNs : Nat := 0
  /-- What the start waits to settle: 0 none, else the reset group (1 P, 2 D, 3 F, 4 wake). -/
  startKind : Nat := 1
deriving DecidableEq, Repr

/-- What a gPTP message from the part holds: correctionField in ns; of an event message its stamp at the SFD, of a general message the
time it carries (R163); of an Announce by the grandmaster its own priority1 and priority2 (R411). -/
structure GptpOut where
  correction : Int := 0
  time : Option Nat := none
  priorities : Option (Nat × Nat) := none
deriving DecidableEq, Repr

/-- What the part put on a wire, pin or host bus. The model's own record (log 3), newest first. -/
inductive WireItem
  /-- MSI-X vector. -/
  | msix (vector : Nat)
  | pme
  /-- A posted write to host memory. -/
  | hostWrite (addr : Nat) (data : Bytes)
  /-- Bytes sent on a row's wire. -/
  | rowSend (row : Nat) (data : Bytes)
  | canSend (k : Nat) (f : CanFrame)
  | linHeader (k id : Nat)
  | linResponse (k id : Nat) (data : Bytes)
  | mvbAnswer (k port : Nat) (data : Bytes)
  /-- An ACF frame that ends with an inverted FCS. -/
  | stompedAcf (p row : Nat) (data : Bytes)
  /-- A frame from a port; `stomped` frames end with an inverted FCS. -/
  | frame (p : Nat) (data : Bytes) (stomped protected_ : Bool)
  | pauseFrame (p : Nat) (pfc : Bool) (enables : BitVec 8) (time : Nat)
  | mpacket (p : Nat) (respond : Bool)
  /-- gPTP message: 0 Sync, 1 Follow_Up, 2 Pdelay_Req, 3 Pdelay_Resp, 4 Announce, 5 Pdelay_Resp_Follow_Up; minorVersionPTP, traffic
  class and what else it holds. -/
  | gptp (p kind domain minor tc : Nat) (m : GptpOut)
  | nm (net kind dest : Nat) (consent : Bool) (runStart : Nat)
  | gpio (pin : Nat) (level : Bool)
  /-- A pulse of a width in ns on a field pin. -/
  | gpioPulse (pin width : Nat)
  /-- A pulse on PPS_OUT, of a width in ns. -/
  | pps (width : Nat)
  /-- Completion of a far read or write to the host: requester, data, error. -/
  | completion (r : Requester) (data : Bytes) (err : Bool)
  | unsupported (addr : Nat)
  /-- A copy handed to Eulyn on a Steward row. -/
  | toEulyn (row : Nat) (data : Bytes)
deriving DecidableEq, Repr

/-- The whole block. -/
structure State where
  pending : List Instr := []
  free : Nat := 0
  wire : List WireItem := []
  /-- The data the last host read returned. -/
  hostRead : Bytes := []
  alm : Almanac := {}
  ev : Events := {}
  hold : Hold := {}
  staging : Memory := []
  stile : Stile := {}
  rings : Tbl Ring := []
  stw : Steward := {}
  bank : Bank := {}
  sown : Bank := {}
  plots : Plots := {}
  field : Field := {}
  ploughs : Tbl Plough := []
  harrow : Harrow := {}
  drill : Drill := {}
  gran : Granary := {}
  buses : Buses := {}
  ports : Ports := {}
  keys : Keys := {}
  fixed : Fixed := {}
  fw : Firmware := {}
  power : Power := {}
  timeCfg : Option Img := none
  timePorts : Tbl Img := []
  servo : Option Img := none
  asym : Tbl Img := []
deriving DecidableEq, Repr

/-- The part right after a power-on reset (R322, R556 step 4): every field at the value the manual gives,
or the value the assumption log names. -/
def State.reset : State := {}

end Sys2Proof.Machine
end

