-- ==== Sys2Proof/Machine/Ops.lean ====
section
/-! DEFINITION. The named operations the meanings share: sparse tables, byte memories, byte fields, time,
events and their delivery, the record of what the part emits. -/

namespace Sys2Proof.Machine

/-- What a meaning answers. -/
abbrev Result := Host.Outcome State Fault Refusal

/-! ### Sparse tables -/

/-- The entry of a key. -/
def tget {α : Type} (k : Nat) : Tbl α → Option α
  | [] => none
  | (i, v) :: t => if i = k then some v else tget k t

/-- The entry of a key, or what an unlisted key holds. -/
def tgetD {α : Type} (k : Nat) (d : α) (t : Tbl α) : α := (tget k t).getD d

/-- Write an entry, keys kept rising. -/
def tset {α : Type} (k : Nat) (v : α) : Tbl α → Tbl α
  | [] => [(k, v)]
  | (i, w) :: t =>
    if k < i then (k, v) :: (i, w) :: t
    else if i = k then (k, v) :: t else (i, w) :: tset k v t

/-- Remove an entry. -/
def tdel {α : Type} (k : Nat) (t : Tbl α) : Tbl α := t.filter (fun e => e.1 != k)

/-- Change an entry, starting from what an unlisted key holds. -/
def tmod {α : Type} (k : Nat) (d : α) (f : α → α) (t : Tbl α) : Tbl α := tset k (f (tgetD k d t)) t

/-- Add to a counter. -/
def tadd (k n : Nat) (t : Tbl Nat) : Tbl Nat := tmod k 0 (· + n) t

/-- The keys in use. -/
def tkeys {α : Type} (t : Tbl α) : List Nat := t.map (·.1)

/-- Add a number to a list without repeats, kept rising. -/
def insertNat (n : Nat) : List Nat → List Nat
  | [] => [n]
  | m :: t => if n < m then n :: m :: t else if n = m then m :: t else m :: insertNat n t

/-- The first number below `n` that satisfies `p`. -/
def firstBelow (n : Nat) (p : Nat → Bool) : Option Nat := (List.range n).find? p

/-! ### Byte memories -/

/-- The form every memory keeps: addresses strictly rising, no entry zero. -/
def Memory.wf : Memory → Bool
  | [] => true
  | (_, b) :: [] => b != 0
  | (a, b) :: (a', b') :: t => b != 0 && decide (a < a') && Memory.wf ((a', b') :: t)

/-- Read one byte; an unlisted address reads zero (log 6). -/
def mget (a : Nat) : Memory → Byte
  | [] => 0
  | (i, b) :: t => if i = a then b else mget a t

/-- Write one byte, keeping the canonical form. -/
def mset (a : Nat) (b : Byte) : Memory → Memory
  | [] => if b = 0 then [] else [(a, b)]
  | (i, c) :: t =>
    if a < i then (if b = 0 then (i, c) :: t else (a, b) :: (i, c) :: t)
    else if a = i then (if b = 0 then t else (a, b) :: t)
    else (i, c) :: mset a b t

/-- Read `n` bytes. -/
def mread (a : Nat) : Nat → Memory → Bytes
  | 0, _ => []
  | n + 1, m => mget a m :: mread (a + 1) n m

/-- Write bytes in address order. -/
def mwrite (a : Nat) : Bytes → Memory → Memory
  | [], m => m
  | b :: t, m => mwrite (a + 1) t (mset a b m)

/-! ### Time (R84, R154) -/

/-- The working clock in whole nanoseconds. -/
def nowNs (s : State) : Nat := s.alm.sec * 1000000000 + s.alm.ns

/-- The 64-bit stamp of an instant (R84). -/
def stampOf (t : Nat) : Nat := t % 18446744073709551616

/-- Code of a time state (R169). -/
def TimeState.code : TimeState → Nat
  | .locked => 0 | .holdover => 1 | .acquiring => 2 | .uncertain => 3 | .free => 4

/-- Advance the working clock by an increment of 2⁻³² ns units. -/
def Almanac.advance (a : Almanac) (inc : Nat) : Almanac :=
  let f := a.frac + inc
  let n := a.ns + f / 4294967296
  { a with frac := f % 4294967296, ns := n % 1000000000, sec := (a.sec + n / 1000000000) % 281474976710656 }

/-- The clock runs in every state with the core powered. -/
def clockRuns (s : State) : Bool :=
  match s.power.state with
  | .growing | .starting | .listen => true
  | _ => false

/-- The coarse counter of the standby domain runs (R536). -/
def coarseRuns (s : State) : Bool :=
  match s.power.state with
  | .off | .deep => false
  | _ => true

/-- One 4 ns cycle of the 250 MHz Almanac clock (R154, R155), and the standby domain's counter beside it. -/
def tick (s : State) : State :=
  let s := if coarseRuns s then { s with power.coarse := s.power.coarse + 4 } else s
  if clockRuns s then { s with alm := s.alm.advance s.alm.inc, power.upNs := s.power.upNs + 4 } else s

/-- Code of the time state and whether the part is synchronised (R171). -/
def synced (s : State) : Bool := s.alm.state == .locked || s.alm.state == .holdover

/-- An instant a stamp names, on the clock as it now counts: one taken before the last step goes with it, known by lying at or before
the instant of a forward step, or after the present behind a backward one (R85, R113). -/
def onClock (t : Nat) (s : State) : Nat :=
  match s.alm.lastStep with
  | some (at_, d) => if (if d < 0 then decide (nowNs s < t) else decide (t ≤ at_)) then ((t : Int) + d).toNat else t
  | none => t

/-- The Almanac was not Locked at the instant of a stamp, by the changes it has logged (R85). -/
def notLockedAt (stamp : Nat) (s : State) : Bool :=
  let t := onClock stamp s
  match s.alm.lockLog.find? (fun e => decide (e.1 ≤ t)), s.alm.lockLog.getLast? with
  | some e, _ => !e.2
  | none, some e => e.2
  | none, none => s.alm.state != .locked

/-! ### Free choices and the record of emissions -/

/-- The next value the manual leaves free. -/
def pick (s : State) : Nat := Config.free s.free

/-- Use up one free value. -/
def picked (s : State) : State := { s with free := s.free + 1 }

/-- Record something the part put on a wire. -/
def emit (w : WireItem) (s : State) : State := { s with wire := w :: s.wire }

/-! ### Events (R324, R331, R569, R570) -/

/-- Bit `n` of a word, as 0 or 1 at its place. -/
def bitAt (w n : Nat) : BitVec w := BitVec.ofNat w (2 ^ n)

/-- The coalesced events of R572. -/
def coalesced (n : Nat) : Bool :=
  [3, 7, 12, 14, 19, 20, 24, 27, 28, 29, 30, 31, 32, 38, 39, 51, 52].contains n

/-- INTn follows the pending, enabled and routed events (R317). -/
def Events.settle (e : Events) : Events := { e with intn := (e.pending &&& e.enable &&& e.route) != 0 }

/-- Send vector `n` or set its PBA bit (R331). -/
def sendVector (n : Nat) (s : State) : State :=
  if s.ev.msixEnable then
    if s.ev.fnMask || s.ev.mask.getLsbD n then { s with ev.pba := s.ev.pba ||| bitAt 64 n }
    else emit (.msix n) s
  else s

/-- An event became pending and enabled: vector, and PME from D3hot (R310, R331). -/
def deliver (n : Nat) (s : State) : State :=
  let s := sendVector n s
  if s.hold.d3hot then emit .pme { s with hold.pme := true } else s

/-- Set a pending bit, delivering the event when its bit was clear and it is enabled. -/
def setPending (n : Nat) (s : State) : State :=
  let was := s.ev.pending.getLsbD n
  let s := { s with ev := Events.settle { s.ev with pending := s.ev.pending ||| bitAt 64 n } }
  if !was && s.ev.enable.getLsbD n then deliver n s else s

/-- One entry of the event log (R453): the newest 256 are kept, older ones counted as lost when nothing read them. -/
def logEvent (n detail obj : Nat) (s : State) : State :=
  let e : LogEntry := { seq := s.ev.nextSeq, event := n, detail, object := obj, time := stampOf (nowNs s) }
  let extra := s.ev.log.length + 1 - 256
  { s with ev.log := (s.ev.log ++ [e]).drop extra
           ev.nextSeq := (s.ev.nextSeq + 1) % 4294967296
           ev.lost := s.ev.lost + ((s.ev.log.take extra).filter (fun e => !e.read)).length }

/-- Raise event `n` with a detail code and the object of R572 (FFFFh for none). -/
def raiseD (n detail obj : Nat) (s : State) : State :=
  let s := logEvent n detail obj s
  if coalesced n && s.ev.window.getLsbD n then { s with ev.inWindow := s.ev.inWindow ||| bitAt 64 n }
  else setPending n s

/-- Raise event `n` with detail 0. -/
def raise (n obj : Nat) (s : State) : State := raiseD n 0 obj s

/-- The log object of an event without one. -/
abbrev noObject : Nat := 0xFFFF

end Sys2Proof.Machine
end

