-- ==== Sys2Proof/Machine/Operands.lean ====
section
/-! DEFINITION. Reading and writing the fields of byte layouts (R6: little-endian unless a rule says otherwise). -/

namespace Sys2Proof.Machine

/-- Byte at an offset; a layout that stops short reads zero. -/
def u8 (i : Img) (o : Nat) : Nat := (i.getD o 0).toNat

/-- `n` bytes at an offset, least significant first. -/
def ule (i : Img) (o : Nat) : Nat → Nat
  | 0 => 0
  | n + 1 => u8 i o + 256 * ule i (o + 1) n

def u16 (i : Img) (o : Nat) : Nat := ule i o 2
def u32 (i : Img) (o : Nat) : Nat := ule i o 4
def u64 (i : Img) (o : Nat) : Nat := ule i o 8

/-- `w` bits from bit `b` of the byte at `o`; fields may run on into later bytes. -/
def fld (i : Img) (o b w : Nat) : Nat := ule i o 8 / 2 ^ b % 2 ^ w

/-- One bit of the byte at `o`. -/
def flag (i : Img) (o b : Nat) : Bool := fld i o b 1 = 1

/-- A two's-complement number of `n` bytes. -/
def sle (i : Img) (o n : Nat) : Int :=
  let v := ule i o n
  if v < 2 ^ (8 * n - 1) then v else (v : Int) - 2 ^ (8 * n)

/-- `n` bytes of a number, least significant first. -/
def le : Nat → Nat → Bytes
  | 0, _ => []
  | n + 1, v => byte v :: le n (v / 256)

/-- `n` bytes of a number, most significant first. -/
def be (n v : Nat) : Bytes := (le n v).reverse

/-- The number of big-endian bytes. -/
def ofBe (b : Bytes) : Nat := b.foldl (fun a x => a * 256 + x.toNat) 0

/-- A signed number in `n` bytes, least significant first. -/
def sleB (n : Nat) (v : Int) : Bytes := le n (v % (2 ^ (8 * n) : Int)).toNat

/-- `n` bytes from an offset, zero-filled. -/
def sub (i : Img) (o : Nat) : Nat → Bytes
  | 0 => []
  | n + 1 => i.getD o 0 :: sub i (o + 1) n

/-- Exactly `n` bytes: cut or zero-filled. -/
def fit (n : Nat) (b : Bytes) : Bytes := sub b 0 n

/-- Overwrite bytes at an offset of a layout. -/
def patch (i : Bytes) (o : Nat) (b : Bytes) : Bytes := fit o i ++ b ++ i.drop (o + b.length)

/-- Every byte of a range is zero. -/
def zeros (i : Img) (o n : Nat) : Bool := (sub i o n).all (· = 0)

/-- Bit `n` of a bitmap that starts at byte `o`. -/
def mapBit (i : Img) (o n : Nat) : Bool := flag i (o + n / 8) (n % 8)

/-- A number from Booleans, first bit lowest. -/
def ofBits : List Bool → Nat
  | [] => 0
  | b :: t => (if b then 1 else 0) + 2 * ofBits t

/-- A Boolean as a number. -/
def b2n (b : Bool) : Nat := if b then 1 else 0

end Sys2Proof.Machine
end

