-- ==== Sys2Proof/Machine/Flags.lean ====
section
/-! DEFINITION. Check values and status computations the manual gives: CRCs, exclusive-or sums, status words. -/

namespace Sys2Proof.Machine

/-- Shift a CRC register of `w` bits left by one bit, message bit `b` entering at the top. -/
def crcBit (w poly r : Nat) (b : Bool) : Nat :=
  let top := (r / 2 ^ (w - 1) % 2 = 1) != b
  let r' := r * 2 % 2 ^ w
  if top then r' ^^^ poly else r'

/-- Bits of a byte, most significant first. -/
def bitsMsb (b : Byte) : List Bool := [7, 6, 5, 4, 3, 2, 1, 0].map b.getLsbD

/-- Bits of a byte, least significant first. -/
def bitsLsb (b : Byte) : List Bool := [0, 1, 2, 3, 4, 5, 6, 7].map b.getLsbD

/-- The low `w` bits of a number in reverse order. -/
def reflect : Nat → Nat → Nat
  | 0, _ => 0
  | w + 1, v => (v % 2) * 2 ^ w + reflect w (v / 2)

/-- CRC of a run of bytes: width, polynomial, initial value, input reflected, output reflected, final XOR. -/
def crc (w poly init : Nat) (refIn refOut : Bool) (xorOut : Nat) (d : Bytes) : Nat :=
  let r := d.foldl (fun r b => (if refIn then bitsLsb b else bitsMsb b).foldl (crcBit w poly) r) init
  (if refOut then reflect w r else r) ^^^ xorOut

/-- CRC-32 of IEEE 802.3. -/
def crc32 (d : Bytes) : Nat := crc 32 0x04C11DB7 0xFFFFFFFF true true 0xFFFFFFFF d

/-- Exclusive-or of bytes. -/
def xorSum (d : Bytes) : Byte := d.foldl (· ^^^ ·) 0

/-- The code of a status (R356). -/
def Status.code : Status → Nat
  | .ok => 0x00 | .partial_ => 0x01 | .inProgress => 0x02 | .cancelled => 0x03
  | .badOpcode => 0x10 | .badParam => 0x11 | .badPlot => 0x12 | .noResource => 0x13
  | .busy => 0x14 | .keyInUse => 0x15 | .notPermitted => 0x16 | .stale => 0x17
  | .abandoned => 0x18 | .hwFault => 0x20 | .timeout => 0x21 | .remoteUnreachable => 0x22

end Sys2Proof.Machine
end

