-- ==== Sys2Proof/Machine/Cells.lean ====
section
/-! DEFINITION. Row and controller counters, Granary cell references, copy-pool entries (R195, R196, R225, R390). -/

namespace Sys2Proof.Machine

/-- Add to a counter that saturates at 64 bits. -/
def addCtr (k n : Nat) (t : Tbl Nat) : Tbl Nat := tset k (min (tgetD k 0 t + n) 18446744073709551615) t

def rowRt (r : Nat) (s : State) : RowRt := tgetD r {} s.harrow.rows

def setRowRt (r : Nat) (v : RowRt) (s : State) : State := { s with harrow.rows := tset r v s.harrow.rows }

/-- Count in a row's statistics under an index of R390. -/
def countRow (r idx n : Nat) (s : State) : State :=
  let v := rowRt r s
  setRowRt r { v with counters := addCtr idx n v.counters } s

/-- Count in a port's statistics under an index of R303. -/
def countPort (p idx n : Nat) (s : State) : State :=
  { s with ports.counters := addCtr (48 * p + idx) n s.ports.counters }

/-! ### Cells -/

def cellOf (c : Nat) (s : State) : Option Cell := tget c s.gran.cells

/-- Cells of the chain from `c`, at most `n`; a link entry with an uncorrectable error ends it (R226). -/
def chain (t : Tbl Cell) : Nat → Nat → List Nat
  | 0, _ => []
  | n + 1, c => match tget c t with
    | some x => c :: (if x.cut then [] else match x.next with
      | some d => chain t n d
      | none => [])
    | none => []

/-- The longest chain: a 9022-byte frame takes 36 cells. -/
def maxChain : Nat := 64

/-- A cell holds a word found uncorrectable, allocated or free. -/
def poisoned (c : Nat) (s : State) : Bool := ((cellOf c s).map (·.poison)).getD false || s.gran.freePoison.contains c

/-- Cells of a list that carry Poison into the free pool. -/
def poisonOf (l : List Nat) (s : State) : List Nat := l.filter (fun c => ((cellOf c s).map (·.poison)).getD false)

/-- Return every cell of a chain to the free pool; Poison stays set until a cell is next allocated (R234). -/
def freeChain (c : Nat) (s : State) : State :=
  let l := chain s.gran.cells maxChain c
  { s with gran.cells := l.foldl (fun t i => tdel i t) s.gran.cells, gran.freePoison := poisonOf l s ++ s.gran.freePoison }

/-- Write a cell's payload; with the mirror on, to the migration's target too (R240 step 3). -/
def writeCell (c : Nat) (d : Bytes) (s : State) : State :=
  match cellOf c s with
  | some x =>
    let m := s.gran.migration.map (fun m => if m.mirror && m.logical == c / 256 then { m with image := tset c d m.image } else m)
    { s with gran.cells := tset c { x with data := d } s.gran.cells, gran.migration := m }
  | none => s

/-- Drop one reference of the chain that starts at `c`; the last one frees it (R225). -/
def dropRef (c : Nat) (s : State) : State :=
  match cellOf c s with
  | none => s
  | some x =>
    if x.copies ≤ 1 then freeChain c s
    else { s with gran.cells := tset c { x with copies := x.copies - 1 } s.gran.cells }

/-- Add references to a chain. -/
def addRefs (c n : Nat) (s : State) : State :=
  match cellOf c s with
  | none => s
  | some x => { s with gran.cells := tset c { x with copies := x.copies + n } s.gran.cells }

/-- Payload of `len` bytes held in the chain from `c`. -/
def payload (c len : Nat) (s : State) : Bytes :=
  ((chain s.gran.cells maxChain c).map (fun i => match cellOf i s with
    | some x => x.data
    | none => [])).flatten.take len

/-- A grain the part discards drops its own reference (R225). -/
def dropGrain (g : Grain) (s : State) : State := if g.void || g.len = 0 then s else dropRef g.cell s

/-! ### Records -/

/-- Start byte, end mode and end byte of a user framing (R391). -/
def ufStart (i : Img) : Option Byte := if flag i 6 0 then some (i.getD 7 0) else none
def ufEndMode (i : Img) : Nat := fld i 6 2 2
def ufEnd (i : Img) : Byte := i.getD 8 0

/-- Free every cell taken for a record. -/
def freeRec (r : Rec) (s : State) : State :=
  match r.cells with
  | [] => s
  | c :: _ => freeChain c s

/-- What stays after a dropped record: nothing, or in idle-gap framing without a start byte the rest of it until the line is idle,
since the next sentence starts only then. -/
def remains (r : Rec) : Option Rec :=
  if u8 r.framing 0 = 1 ∧ ufEndMode r.framing = 3 ∧ (ufStart r.framing).isNone then some { r with skip := true, bytes := [], written := 0, cells := [], unesc := [] }
  else none

/-- Drop every control message the Steward has not taken, with its cells. -/
def dropInbox (s : State) : State :=
  s.stw.inbox.foldl (fun s e => freeChain e.2 s) { s with stw.inbox := [] }

/-! ### The copy pool -/

/-- Pool field of R410 selector 1, or its default: 0 Beacon reserve, 1 Steer reserve, 2 Tell cap, 3 Bulk cap,
4 Bulk floor, 5 Tell floor. -/
def poolField (i : Nat) (s : State) : Nat :=
  match s.bank.pool with
  | some img => u16 img (8 + 2 * i)
  | none => [1024, 4096, 16384, 8192, 4096, 1024].getD i 0

def sharedHeld (s : State) : Nat := (s.drill.poolShared.map (·.2)).sum

/-- Free shared entries. -/
def sharedFree (s : State) : Nat := 32768 - poolField 0 s - poolField 1 s - sharedHeld s

/-- Take an entry for a copy of a class: `some true` from its reserve, `some false` from the shared part. -/
def poolGrant (cls : Nat) (s : State) : Option Bool :=
  let free := sharedFree s
  let held := tgetD cls 0 s.drill.poolShared
  if cls < 2 && decide (tgetD cls 0 s.drill.poolRes < poolField cls s) then some true
  else if free = 0 then none
  else if cls < 2 then some false
  else if decide (free < poolField 5 s) || (cls == 3 && decide (free < poolField 4 s)) || decide (poolField cls s ≤ held) then none
  else some false

def poolTake (cls : Nat) (res : Bool) (s : State) : State :=
  if res then { s with drill.poolRes := tadd cls 1 s.drill.poolRes }
  else { s with drill.poolShared := tadd cls 1 s.drill.poolShared }

def poolReturn (cls : Nat) (res : Bool) (s : State) : State :=
  if res then { s with drill.poolRes := tmod cls 0 (· - 1) s.drill.poolRes }
  else { s with drill.poolShared := tmod cls 0 (· - 1) s.drill.poolShared }

/-- A grain's copy gives up its pool entry and its reference. -/
def endGrain (g : Grain) (res : Bool) (s : State) : State := dropGrain g (poolReturn g.cls res s)

/-- A copy leaves the Drill: its pool entries and its references go. A Sheaf holds those of its grains; a control
Sheaf holds none. -/
def endCopy (c : Copy) (s : State) : State :=
  if c.own then c.grains.foldl (fun s e => endGrain e.1 e.2 s) s else endGrain c.grain c.fromReserve s

/-- Count a copy under an index of R390: against its row, or the rows of a closed Sheaf; a frame on a port has no row. -/
def countCopy (idx : Nat) (c : Copy) (s : State) : State :=
  if c.grain.kind = 15 ∧ c.row = 0 then c.rows.foldl (fun s r => countRow r idx 1 s) s else countRow c.row idx 1 s

/-- Discard a copy and count it. -/
def discardCopy (idx : Nat) (c : Copy) (s : State) : State := countCopy idx c (endCopy c s)

/-- Discard the open Sheafs to a device, their grains counted against their rows under an index of R390 (R39, R217). -/
def dropSheafs (dest idx : Nat) (s : State) : State :=
  (s.drill.sheafs.filter (fun e => e.1 / 4 == dest)).foldl (fun s e =>
    let s := e.2.rows.foldl (fun s r => countRow r idx 1 s) { s with drill.sheafs := tdel e.1 s.drill.sheafs }
    e.2.grains.foldl (fun s x => endGrain x.1 x.2 s) s) s

/-- Discard the ACF copies of a row that wait on a port. -/
def flushAcf (r p idx : Nat) (s : State) : State :=
  let q := tgetD p [] s.drill.ports
  let hit (c : Copy) : Bool := c.row == r && !c.own && c.grain.kind != 15
  (q.filter hit).foldl (fun s c => discardCopy idx c s) { s with drill.ports := tset p (q.filter (fun c => !hit c)) s.drill.ports }

/-- Discard a row's item that waits on a ring; one that has started is delivered (R220). -/
def flushRing (r n idx : Nat) (s : State) : State :=
  match tget (512 + n) s.drill.rowWire with
  | some c =>
    if c.row = r ∧ ((tget n s.rings).map (·.waiting)).getD false then
      discardCopy idx c { s with drill.rowWire := tdel (512 + n) s.drill.rowWire
                                 rings := (s.rings.map (fun e => (e.1, if e.1 = n then { e.2 with waiting := false } else e.2))) }
    else s
  | none => s

/-- Discard every copy waiting for a row (R39, R220). -/
def flushRow (r idx : Nat) (s : State) : State :=
  let q := tgetD r [] s.drill.rows
  q.foldl (fun s c => discardCopy idx c s) { s with drill.rows := tdel r s.drill.rows }

end Sys2Proof.Machine
end

