-- ==== Sys2Proof/Machine/Buses.lean ====
section
/-! DEFINITION. Field pins and the life of a field-bus controller: functions of R586, legal mixes of R587, start and
stop of R248, counters of R274, event 22 of R601, event 23 of R252. -/

namespace Sys2Proof.Machine

/-- What a pin's code makes it: controller kind (0 CAN, 1 UART, 2 LIN, 3 MVB), instance, role (0 TX, 1 RX, 2 DE;
MVB 0 TX, 1 TXE, 2 RXA, 3 RXB). `none` for a pin without a controller function. -/
def pinRole (pin code : Nat) : Option (Nat × Nat × Nat) :=
  let g := pin / 4
  let k := 2 * g + pin % 4 / 2
  if pin < 32 then
    match code with
    | 0x10 => some (0, k, pin % 2)
    | 0x11 => some (1, k, pin % 2)
    | 0x12 =>
      if pin < 16 then none else if pin < 20 then some (3, 0, pin - 16)
      else if pin < 24 then some (3, 1, pin - 20) else some (2, (pin - 24) / 2, pin % 2)
    | _ => none
  else
    let j := pin - 32
    match code with
    | 0x10 => some (1, j, 2)
    | 0x11 => some (1, j + 8, 2)
    | 0x12 => some (1, 8 + j / 2, j % 2)
    | _ => none

/-- A pin code the table of R586 lists. -/
def pinCodeOk (pin code : Nat) : Bool :=
  decide (code ≤ 5) || code == 0x10 || code == 0x11 || (code == 0x12 && decide (16 ≤ pin))

/-- Pins with their controller functions under an assignment image. -/
def pinRoles (img : Img) : List (Nat × Nat × Nat × Nat) :=
  (List.range 40).filterMap (fun p => (pinRole p (u8 img p)).map (fun r => (p, r)))

/-- Pins that carry a function of a controller. -/
def pinsOf (img : Img) (kind inst : Nat) : List (Nat × Nat) :=
  (pinRoles img).filterMap (fun e => if e.2.1 = kind ∧ e.2.2.1 = inst then some (e.1, e.2.2.2) else none)

def hasRole (img : Img) (kind inst role : Nat) : Bool := (pinsOf img kind inst).any (fun e => e.2 == role)

/-- Every function a controller needs is assigned (R587). -/
def assigned (img : Img) (kind inst : Nat) : Bool :=
  if kind = 3 then [0, 1, 2, 3].all (hasRole img 3 inst) else hasRole img kind inst 0 && hasRole img kind inst 1

/-- Each function once; needed functions complete; DE only with its UART; UART TX and RX at one location (R587). -/
def ctlMixOk (img : Img) (kind inst : Nat) : Bool :=
  let ps := pinsOf img kind inst
  ps.isEmpty || (assigned img kind inst &&
    [0, 1, 2, 3].all (fun r => decide ((ps.filter (fun e => e.2 == r)).length ≤ 1)) &&
    (kind != 1 || ((ps.filter (fun e => e.2 != 2)).all (fun e => decide (e.1 < 32)) ||
      (ps.filter (fun e => e.2 != 2)).all (fun e => decide (32 ≤ e.1)))))

/-- Wake channels named in an image of WAKE_SOURCES_SET (R437). -/
def wakeChannels (w : Img) : List Nat :=
  if w.isEmpty then [] else ([2, 3, 4, 5, 7].map (u8 w)).filter (· < 16)

/-- A legal mix (R587). -/
def legalMix (img : Img) (wake : Img) : Bool :=
  (List.range 40).all (fun p => pinCodeOk p (u8 img p)) &&
  (List.range 16).all (ctlMixOk img 0) && (List.range 16).all (ctlMixOk img 1) &&
  (List.range 4).all (ctlMixOk img 2) && (List.range 2).all (ctlMixOk img 3) &&
  (wakeChannels wake).all (fun k => hasRole img 0 k 1)

/-! ### Rows and controllers -/

/-- Rows of a bank bound to a controller: endpoint kind is the controller kind plus one (R388). -/
def rowsOf (b : Bank) (kind inst : Nat) : List Nat :=
  (b.bind.filter (fun e => u8 e.2 0 == kind + 1 && u8 e.2 2 == inst)).map (·.1)

/-- A controller with an Enabled row. -/
def ctlEnabled (b : Bank) (kind inst : Nat) : Bool := (rowsOf b kind inst).any (fun r => b.enabled.contains r)

def isTalker (i : Img) : Bool := flag i 1 0
def isListener (i : Img) : Bool := flag i 1 1

/-- The Enabled row bound to a controller in a direction. -/
def ctlRow (kind inst : Nat) (talker : Bool) (s : State) : Option Nat :=
  s.bank.enabled.find? (fun r => u8 (tgetD r [] s.bank.bind) 0 == kind + 1 && u8 (tgetD r [] s.bank.bind) 2 == inst &&
    (if talker then isTalker (tgetD r [] s.bank.bind) else isListener (tgetD r [] s.bank.bind)))

/-- Event object of a controller (log 19). -/
def ctlObj (kind inst : Nat) : Nat := 16 * kind + inst

def canRt (k : Nat) (s : State) : CanRt := tgetD k {} s.buses.can
def setCan (k : Nat) (v : CanRt) (s : State) : State := { s with buses.can := tset k v s.buses.can }
def uartRt (k : Nat) (s : State) : UartRt := tgetD k {} s.buses.uart
def setUart (k : Nat) (v : UartRt) (s : State) : State := { s with buses.uart := tset k v s.buses.uart }
def linRt (k : Nat) (s : State) : LinRt := tgetD k {} s.buses.lin
def setLin (k : Nat) (v : LinRt) (s : State) : State := { s with buses.lin := tset k v s.buses.lin }
def mvbRt (k : Nat) (s : State) : MvbRt := tgetD k {} s.buses.mvb
def setMvb (k : Nat) (v : MvbRt) (s : State) : State := { s with buses.mvb := tset k v s.buses.mvb }

/-- Count in a controller's statistics, in the order of R274. -/
def countCan (k idx : Nat) (s : State) : State :=
  setCan k { canRt k s with counters := addCtr idx 1 (canRt k s).counters } s
def countUart (k idx : Nat) (s : State) : State :=
  setUart k { uartRt k s with counters := addCtr idx 1 (uartRt k s).counters } s
def countLin (k idx : Nat) (s : State) : State :=
  setLin k { linRt k s with counters := addCtr idx 1 (linRt k s).counters } s
def countMvb (k idx : Nat) (s : State) : State :=
  setMvb k { mvbRt k s with counters := addCtr idx 1 (mvbRt k s).counters } s

/-- The first field-bus error after a clearing raises event 22; later ones are counted only (R601). -/
def busError (kind k : Nat) (s : State) : State :=
  match kind with
  | 0 => if (canRt k s).armed then raise 22 (ctlObj 0 k) (setCan k { canRt k s with armed := false } s) else s
  | 1 => if (uartRt k s).armed then raise 22 (ctlObj 1 k) (setUart k { uartRt k s with armed := false } s) else s
  | _ => if (linRt k s).armed then raise 22 (ctlObj 2 k) (setLin k { linRt k s with armed := false } s) else s

/-- Put a CAN controller in a state; a change raises event 23 (R252). -/
def canState (k st : Nat) (s : State) : State :=
  let v := canRt k s
  if v.state = st then s else raise 23 (ctlObj 0 k) (setCan k { v with state := st } s)

/-- State code that TEC and REC call for below bus-off (R252). -/
def canErrorState (tec rxErr : Nat) : Nat :=
  if tec < 96 ∧ rxErr < 96 then 0 else if tec ≤ 127 ∧ rxErr ≤ 127 then 1 else 2

/-- Start a controller when its first row enters Enabled (R248). -/
def startCtl (kind k : Nat) (s : State) : State :=
  match kind with
  | 0 =>
    let v := canRt k s
    if v.state ≠ 5 then s
    else if v.stoppedIn ≠ 0 then canState k v.stoppedIn (setCan k { v with stoppedIn := 0, integrated := false } s)
    else canState k 0 (setCan k { v with tec := 0, rxErr := 0, integrated := false } s)
  | _ => s

/-- Stop a controller when none of its rows is Enabled (R248). -/
def stopCtl (kind k : Nat) (s : State) : State :=
  match kind with
  | 0 =>
    let v := canRt k s
    canState k 5 (setCan k { v with stoppedIn := if v.state = 3 ∨ v.state = 4 then v.state else 0, integrated := false } s)
  | 2 => setLin k { linRt k s with busy := false, slotWaiting := 0 } s
  | _ => s

/-- Controller kind and instance of a row's endpoint, for CAN, UART, LIN and MVB. -/
def rowCtl (i : Img) : Option (Nat × Nat) := if 1 ≤ u8 i 0 ∧ u8 i 0 ≤ 4 then some (u8 i 0 - 1, u8 i 2) else none

/-- A row enters Enabled: its controller starts, and an MVB talker forgets the last data of its sinks (R100, R248). -/
def enableRow (r : Nat) (s : State) : State :=
  let img := tgetD r [] s.bank.bind
  let was := match rowCtl img with
    | some (kind, k) => ctlEnabled s.bank kind k
    | none => true
  let s := { s with bank.enabled := insertNat r s.bank.enabled }
  match rowCtl img with
  | some (kind, k) =>
    let s := if kind = 3 ∧ isTalker img then setMvb k { mvbRt k s with lastSink := [] } s else s
    if was then s else startCtl kind k s
  | none => s

/-- Mark the record in reception on a row so that it is dropped at its end (R39). -/
def disableRecords (r : Nat) (t : Tbl Plough) : Tbl Plough :=
  t.map (fun e => (e.1, { e.2 with cur := e.2.cur.map (fun x => if x.row = r then { x with disabled := true } else x) }))

/-- The copy on a controller's wire, with its row. -/
def ctlWire (kind k : Nat) (s : State) : Option (Nat × Copy) := s.drill.rowWire.find? (fun e => e.2.ctl == some (kind, k))

/-- Controller of the copy on a row's wire, when it is a CAN controller. -/
def wireCan (r : Nat) (s : State) : Option Nat :=
  (tget r s.drill.rowWire).bind (fun c => c.ctl.bind (fun e => if e.1 = 0 then some e.2 else none))

/-- No command reports that a CAN copy drives its start of frame: where that matters for a copy in the buffer of a controller
on the bus, a free value says whether it has, at its first try or at the one after an error (R259, log 29). -/
def sofChoice (r : Nat) (s : State) : State :=
  match wireCan r s with
  | some k =>
    let v := canRt k s
    if !v.integrated || decide (2 < v.state) then s
    else if v.retry then setCan k { v with retry := pick s % 2 == 0 } (picked s)
    else if v.onBus then s
    else setCan k { v with onBus := pick s % 2 == 1 } (picked s)
  | none => s

/-- Whether the copy on a row's wire has started: a CAN copy that has not driven its start of frame has not (R258, R259). -/
def wireStarted (r : Nat) (s : State) : Bool :=
  match wireCan r s with
  | some k => (canRt k s).onBus
  | none => true

/-- The copy is on the wire at this moment: a CAN copy that waits to be tried again after an error is not (R259). -/
def wireBusy (r : Nat) (s : State) : Bool :=
  wireStarted r s && match wireCan r s with
    | some k => !(canRt k s).retry
    | none => true

/-- Copies that wait for the row elsewhere than in its own queues: on its port, its ring, or in the open Sheafs of its device. -/
def flushElsewhere (r : Nat) (s : State) : State :=
  let img := tgetD r [] s.bank.bind
  let n := u8 img 2
  match u8 img 0 with
  | 5 => flushAcf r n 22 s
  | 6 => flushRing r n 22 s
  | 9 => dropSheafs n 22 s
  | _ => s

/-- Stop a controller without an Enabled row; a CAN frame on the bus is sent first (R39, R248, R259). -/
def settleCtl (kind k : Nat) (s : State) : State :=
  if ctlEnabled s.bank kind k || (kind == 0 && (canRt k s).onBus && (ctlWire 0 k s).isSome)
  then s else stopCtl kind k s

/-- The endpoint's effects of leaving Enabled: queued copies go, a started copy finishes (R39, R220, R248, R259). -/
def quietRow (r : Nat) (s : State) : State :=
  let s := { s with ploughs := disableRecords r s.ploughs }
  let s := sofChoice r (flushElsewhere r (flushRow r 22 s))
  let s := match tget r s.drill.rowWire with
    | some c => if wireBusy r s then s else discardCopy 22 c { s with drill.rowWire := tdel r s.drill.rowWire }
    | none => s
  match rowCtl (tgetD r [] s.bank.bind) with
  | some (kind, k) => settleCtl kind k s
  | none => s

/-- A row leaves Enabled. -/
def disableRow (r : Nat) (s : State) : State :=
  let s := setRowRt r { rowRt r s with disabledAt := some (nowNs s) } s
  quietRow r { s with bank.enabled := s.bank.enabled.filter (· != r) }

end Sys2Proof.Machine
end

