-- ==== Sys2Proof/Machine/Frames.lean ====
section
/-! DEFINITION. Route entries and exact lookup, class maps, port queues, and the Sheafs the part builds: addressing,
headers, series, control Sheafs and hails (R120, R124, R198 to R200, R209 to R213, R218, R219). -/

namespace Sys2Proof.Machine

/-! ### Route entries (R124) -/

def reKey (e : Img) : Nat := u64 e 0
def reKeyMask (e : Img) : Nat := u64 e 8
def reRow (e : Img) : Nat := fld e 16 0 9
def reFrame (e : Img) : Bool := flag e 17 1
def reRowMask (e : Img) : Nat := fld e 18 0 9
def reSet (e : Img) : Nat := fld e 20 0 10
def rePorts (e : Img) : Nat := fld e 20 0 10
def reHostFrame (e : Img) : Bool := flag e 21 2
def reClass (e : Img) : Nat := fld e 22 0 2
def reSchedule (e : Img) : Bool := flag e 22 2
def reTeam (e : Img) : Option Nat := if flag e 23 7 then some (fld e 23 0 7) else none
def reThinMode (e : Img) : Nat := fld e 27 6 2
def reThinN (e : Img) : Nat := fld e 24 0 30
def reSieves (e : Img) : Nat := u64 e 28
def reAny (e : Img) : Bool := flag e 36 0
def reRewrite (e : Img) : Option Nat := if flag e 37 6 then some (fld e 37 0 6) else none
def reTally (e : Img) : Option Nat := if flag e 38 5 then some (fld e 38 0 5) else none
def reRelease (e : Img) : Nat := u32 e 40

/-- Lookup value of R120. -/
def lookupBytes (row : Nat) (frame : Bool) (key : Nat) : Bytes := be 2 (row + 512 * b2n frame) ++ be 8 key

/-- Bucket indices of R120. -/
def h0 (v : Bytes) : Nat := crc 32 0x04C11DB7 0xFFFFFFFF false false 0 v % 1024
def h1 (v : Bytes) : Nat := crc 32 0x1EDC6F41 0xFFFFFFFF false false 0 v % 1024

/-- The eight ways of a lookup value: four of each bucket (R120). -/
def waysOf (v : Bytes) : List Nat :=
  [0, 1, 2, 3].map (4 * h0 v + ·) ++ [0, 1, 2, 3].map (4096 + 4 * h1 v + ·)

def stashRefs : List Nat := (List.range 16).map (8192 + ·)

/-- Wildcard references (R148). -/
def wildRef (i : Nat) : Nat := 8224 + i

/-- A reference of the wildcard table. -/
def isWildRef (n : Nat) : Bool := decide (8224 ≤ n)

/-- An exact entry under a lookup value. -/
def exactMatch (row : Nat) (frame : Bool) (key : Nat) (e : Nat × Img) : Bool :=
  decide (e.1 < 8208) && reRow e.2 == row && reFrame e.2 == frame && reKey e.2 == key

/-- Exact lookup (R120, R121): the one entry of a lookup value. -/
def exactFind (b : Bank) (row : Nat) (frame : Bool) (key : Nat) : Option (Nat × Img) :=
  b.routes.find? (exactMatch row frame key)

/-! ### Class maps (R198, R199) -/

/-- Defaults of R198 and R199 in the layout of R410. -/
def defaultMap (p : Nat) : Img := fit 48 ([0, byte p, 0, 0, 7, 6, 4, 1, 7, 6, 4, 1, 0, 1, 2, 3, 4, 5, 6, 7])

def classMap (p : Nat) (b : Bank) : Img := tgetD p (defaultMap p) b.classMaps
def classTc (p cls : Nat) (b : Bank) : Nat := u8 (classMap p b) (4 + cls)
def classPcp (p cls : Nat) (b : Bank) : Nat := u8 (classMap p b) (8 + cls)
def pcpTc (p pcp : Nat) (b : Bank) : Nat := u8 (classMap p b) (12 + pcp)

/-! ### Port queues (R200) -/

/-- Put a copy behind those that go before it; equal release times keep acceptance order. -/
def insertBy (before : Copy → Copy → Bool) (c : Copy) : List Copy → List Copy
  | [] => [c]
  | x :: t => if before x c then x :: insertBy before c t else c :: x :: t

/-- Highest traffic class first, then oldest release time. -/
def portBefore (a b : Copy) : Bool := decide (b.tc < a.tc) || (a.tc == b.tc && decide (a.release ≤ b.release))

def enqueuePort (p : Nat) (c : Copy) (s : State) : State :=
  { s with drill.ports := tset p (insertBy portBefore c (tgetD p [] s.drill.ports)) s.drill.ports }

/-! ### Sheaf settings (R209, R214) -/

/-- Defaults of R209 and R214 in the layout of R409; station address zero (log 7). -/
def defaultSheaf : Img :=
  fit 48 (le 6 0 ++ le 2 0x88B5 ++ le 2 0 ++ le 2 2200 ++ le 2 50 ++ le 2 50 ++ le 2 50 ++ le 2 0 ++ le 4 100)

def sheafCfg (b : Bank) : Img := b.sheaf.getD defaultSheaf
def stationAddr (b : Bank) : Nat := ofBe (sub (sheafCfg b) 0 6)
def sheafType (b : Bank) : Nat := u16 (sheafCfg b) 6
def sheafVid (b : Bank) : Nat := u16 (sheafCfg b) 8

/-- Key of a frame: VLAN ID and destination address (R110). -/
def frameKey (vid addr : Nat) : Nat := vid * 2 ^ 48 + addr

/-- Port a Sheaf for a member leaves on (R209): the lowest port of the frame entry for its address, else the port of its
latest hail. -/
def sheafPort (d : Nat) (b : Bank) (s : State) : Option Nat :=
  match tget d s.field.roster with
  | none => none
  | some m =>
    let byEntry := match exactFind s.bank 0 true (frameKey (sheafVid b) m.addr) with
      | some e => firstBelow 10 (fun p => Nat.testBit (rePorts e.2) p)
      | none => none
    some (byEntry.getD m.port)

/-! ### Building Sheafs (R209 to R213, R218) -/

/-- Own device ID (R45: FFh outside a Field). -/
def ownDev (s : State) : Nat := s.field.dev

/-- A tagged frame from this device, from destination address to its last byte before the FCS. -/
def taggedFrame (dest pcp : Nat) (data : Bytes) (b : Bank) : Bytes :=
  be 6 dest ++ be 6 (stationAddr b) ++ be 2 0x8100 ++ be 2 (pcp * 8192 + sheafVid b) ++ be 2 (sheafType b) ++ data

/-- Sequence of the next Sheaf of a series (R212). -/
def nextSeq (dest cls : Nat) (s : State) : Nat := tgetD (4 * dest + cls) 0 s.field.txSeq

/-- A Sheaf of a series has been built. -/
def countSeq (dest cls : Nat) (s : State) : State :=
  { s with field.txSeq := tset (4 * dest + cls) ((nextSeq dest cls s + 1) % 4294967296) s.field.txSeq }

/-- A new Sheaf session: every series starts again (R213). -/
def raiseSession (s : State) : State := { s with field.session := (s.field.session + 1) % 65536, field.txSeq := [] }

/-- Sheaf header (R210). -/
def sheafHeader (control express unsync : Bool) (cls dest count : Nat) (s : State) : Bytes :=
  [1, byte (b2n control + 2 * b2n express + 4 * b2n unsync + 8 * cls)] ++ be 2 s.field.id ++ le 1 (ownDev s) ++ le 1 dest ++
  be 2 count ++ be 4 (nextSeq dest cls s) ++ be 2 s.field.session ++ be 2 0

/-- A Sheaf ready on a port: due at once in its class's traffic class (R214). -/
def sheafCopy (p cls : Nat) (frame : Bytes) (s : State) : Copy :=
  { grain := { key := 0, stamp := stampOf (nowNs s), row := 0, len := frame.length, kind := 15, cls }
    row := 0, port := p, release := stampOf (nowNs s), due := true, own := true, out := frame, made := nowNs s
    tc := classTc p cls s.bank, pcp := classPcp p cls s.bank }

/-- Message header and body of a control Sheaf (R218). -/
def controlMessage (type : Nat) (body : Bytes) : Bytes := le 1 type ++ [0] ++ be 2 body.length ++ body

/-- Put a control Sheaf on a port, in the Steer series of its destination (R212, R218). -/
def controlOn (p dest mac type : Nat) (body : Bytes) (s : State) : State :=
  enqueuePort p (sheafCopy p 1 (taggedFrame mac (classPcp p 1 s.bank)
    (sheafHeader true false (!synced s) 1 dest 1 s ++ controlMessage type body) s.bank) s) s

/-- A control Sheaf from a Member to another (R71); one to a device not in the roster goes nowhere. -/
def sendControl (dest type : Nat) (body : Bytes) (s : State) : State :=
  if s.field.join ≠ 2 then s else match tget dest s.field.roster, sheafPort dest s.bank s with
  | some m, some p => countSeq dest 1 (controlOn p dest m.addr type body s)
  | _, _ => s

/-- Cut bulk data into pieces of `n` bytes, each with its offset; no data is one empty piece. -/
def pieces (n : Nat) : Nat → Nat → Bytes → List (Nat × Bytes)
  | 0, o, d => [(o, d)]
  | k + 1, o, d => if d.length ≤ n then [(o, d)] else (o, d.take n) :: pieces n k (o + n) (d.drop n)

/-- Send a message whose data may exceed one control Sheaf under the MTU: `head more off` is its body before the data (R369). -/
def sendSegments (dest type headLen : Nat) (head : Bool → Nat → Bytes) (d : Bytes) (s : State) : State :=
  let l := pieces (u16 (sheafCfg s.bank) 10 - 20 - headLen) d.length 0 d
  l.foldl (fun s e => sendControl dest type (head (decide (e.1 + e.2.length < d.length)) e.1 ++ e.2) s) s

/-- Field group address of hails (R209). -/
def groupAddr (field : Nat) : Nat := 0x0351544C0000 + field

/-- Ports that send and receive hails (R385). -/
def hailPorts (s : State) : List Nat := (List.range 10).filter (fun p => mapBit s.field.settings 4 p)

/-- Hail body of R219: Joining 0, Member 1, Conflict 2. -/
def hailBody (s : State) : Bytes :=
  be 8 s.fixed.serial ++ be 4 s.field.rosterVer ++ le 1 (s.field.join - 1) ++ le 1 (b2n (synced s)) ++ be 2 0

/-- A hail or leave hail on every hail port (R69, R74). -/
def sendHail (type : Nat) (s : State) : State :=
  let body := hailBody s
  countSeq 255 1 ((hailPorts s).foldl (fun s p => controlOn p 255 (groupAddr s.field.id) type body s) s)

end Sys2Proof.Machine
end

