-- ==== Sys2Proof/Machine/Mailbox.lean ====
section
/-! DEFINITION. How Eulyn takes a mailbox command and answers it: tags, flags, bulk area, path and scope, walks,
atomic staging, responses, the Ledger (11_mailbox_protocol, 02_rows_and_plots). -/

namespace Sys2Proof.Machine

/-- Where an opcode acts (R50, R377, R418). -/
inductive Scope | row | device | group | field | singleRow | singleDevice
deriving DecidableEq, Repr

/-- How a result field aggregates (R61). -/
inductive Agg | counter | maxU | maxS | minU | state | flags | capacity
deriving DecidableEq, Repr

/-- What acting on one plot gives: status, results, the state, and the body of a long operation that goes on; a Ledger operation
of its own, whether no response is written, and what follows the response. -/
structure Work where
  status : Status := .ok
  inline : Bytes := []
  bulk : Bytes := []
  long : Option OpBody := none
  opno : Nat := 0
  quiet : Bool := false
  after : State → State := id
  /-- A full reset follows the act (R460). -/
  reset : Bool := false
  st : State

/-- One opcode: its number, scope, bank membership, common parameter check (R54), act on one plot
(row number, group reference or 0), staging of a bank item on a bank, the image a read request returns, and
the aggregate kinds of its inline fields. A status command answers with its own layout under a walk. -/
structure Cmd where
  opcode : Nat
  scope : Scope
  bank : Bool := false
  journaled : Bool := false
  status : Bool := false
  /-- Bulk result of counters of this many bytes, added up under a walk; of every `block` of them the first is a time, whose latest is
  taken. Otherwise a list of items of `item` bytes; with neither, a layout of its own (R378). -/
  sums : Nat := 0
  block : Nat := 0
  item : Nat := 0
  /-- Identity bytes at the start of the result; a difference sets the mismatch flag, bit 0 of byte 25 (R61, R387). -/
  identity : Nat := 0
  agg : Call → List (Nat × Nat × Agg) := fun _ => []
  check : Call → State → Status := fun _ _ => .ok
  /-- The part of the check that depends on the device acted on: what it has, and its present settings. -/
  own : Call → State → Status := fun _ _ => .ok
  /-- The device lacks what the opcode is for: ST_NOT_PERMITTED for every use of it (R2). -/
  lacks : State → Bool := fun _ => false
  act : Call → Nat → State → Work
  stage : Call → Nat → State → Bank → Status × Bank := fun _ _ _ b => (.ok, b)
  /-- Inline result of a staged change, from the bank as it was and as it is then. -/
  staged : Call → Nat → State → Bank → Bank → Bytes := fun _ _ _ _ _ => []
  /-- What a staged change does at the flip beside its settings. -/
  marks : Call → State → List (Nat × Nat) := fun _ _ => []
  /-- The act would pass the point of no return of its own record (R374). -/
  ponr : Call → State → Bool := fun _ _ => false
  read : Option (Call → Nat → State → Option Bytes) := none

/-! ### Queues, tags, responses -/

def queueOf (q : Nat) (s : State) : Queue := tgetD q {} s.hold.queues

def setQueue (q : Nat) (v : Queue) (s : State) : State := { s with hold.queues := tset q v s.hold.queues }

/-- Free response slots of a queue (R351). -/
def freeSlots (q : Nat) (s : State) : Nat :=
  let v := queueOf q s
  16 - (v.rspTail + 32 - v.rspHead) % 32

/-- Commands of a queue in flight (R350), each owing a final response. -/
def inFlight (q : Nat) (s : State) : Nat := (s.stw.ops.filter (fun o => o.call.queue == q && !o.inner)).length

/-- Commands in flight on the device (R355). -/
def allInFlight (s : State) : Nat := (s.stw.ops.filter (fun o => !o.inner)).length

/-- Queue `q` is served (R325 SERVED, R540 step 2, R568). -/
def served (q : Nat) (s : State) : Bool :=
  !s.stw.notServing &&
    ((s.stw.up && s.hold.bootPhase == 4) || (s.hold.bootPhase == 5 && q == (if s.hold.straps % 2 = 1 then 2 else 0)))

/-- Eulyn may take a command from a queue (R351, R355). -/
def takeable (q : Nat) (s : State) : Bool :=
  served q s && decide (inFlight q s < freeSlots q s) &&
    (if q = 3 then decide (allInFlight s < 48)
     else decide (inFlight 0 s + inFlight 1 s + inFlight 2 s < 44 ∧ allInFlight s < 48))

/-- A tag in flight on MQ0 to MQ2 (R352). -/
def tagBusy (t : Nat) (s : State) : Bool := s.stw.ops.any (fun o => o.call.tag == t && o.call.queue != 3)

/-- The check of R352; MQ3 commands carry their sender's identifiers. -/
def tagCheck (c : Call) (s : State) : Status :=
  if c.queue = 3 then .ok
  else if 47 < c.tag then .badParam
  else if tagBusy c.tag s then .busy
  else if tget c.tag s.stw.tags = some c.gen then .stale
  else .ok

/-- Bytes of the bulk area (R344). -/
def areaLen (c : Call) : Nat := 8 * c.units

/-- The PCIe function may issue memory requests (R310). -/
def dmaOk (s : State) : Bool := s.hold.pcieUp && s.hold.busMaster && !s.hold.d3hot && !s.hold.perst

/-- Bytes a write request carries at most: the Max_Payload_Size in force (R308). -/
def maxPayload (s : State) : Nat := 128 * 2 ^ (s.hold.deviceControl / 32 % 8)

/-- The write requests of a run of bytes, none longer than `n`. -/
def splitWrites (n : Nat) : Nat → Nat → Bytes → State → State
  | 0, _, _, s => s
  | m + 1, a, d, s => if d.isEmpty then s else splitWrites n m (a + n) (d.drop n) (emit (.hostWrite a (d.take n)) s)

/-- Bytes written to host memory (R308). -/
def hostPut (a : Nat) (d : Bytes) (s : State) : State := splitWrites (maxPayload s) (d.length / maxPayload s + 1) a d s

/-- Write the bulk result to its area: as much as fits (R347). A forward's goes into its answer. DESIGN CHOICE (log 127): a result bound
for host memory is lost while the part issues no memory requests (R310). -/
def writeBulk (c : Call) (d : Bytes) (s : State) : State :=
  if !c.bulkResult || c.queue == 3 then s
  else if c.host then (if dmaOk s then hostPut c.hostAddr (d.take (areaLen c)) s else s)
  else { s with staging := mwrite (8 * c.at_) (d.take (areaLen c)) s.staging }

/-- Bytes of bulk result written. -/
def bulkLen (c : Call) (f : Final) : Nat := if c.bulkResult then min f.bulk.length (areaLen c) else 0

/-- Response slot image (R348). -/
def responseImage (opcode : Nat) (c : Call) (f : Final) : Bytes :=
  le 2 opcode ++ le 1 c.tag ++
  le 1 (c.gen % 16 + 16 * b2n f.interim + 32 * b2n f.unknown +
        64 * b2n (c.bulkResult && (f.cut || decide (areaLen c < f.bulk.length)))) ++
  le 1 f.status.code ++ le 1 0 ++ le 2 (if f.status = .ok && !f.interim then 0xFFFF else f.progress) ++
  le 4 (bulkLen c f) ++ le 4 f.opno ++ fit 48 f.inline

/-- Where a queue's next response goes in the Hold window (R319). -/
def responseAddr (q : Nat) (s : State) : Nat := 0x2000 + 0x400 * q + 0x40 * ((queueOf q s).rspTail % 16)

/-- Answer body of R371 before its result data. -/
def answerHead (a : Answer) (more : Bool) (off : Nat) : Bytes :=
  le 1 a.dev ++ le 1 a.queue ++ le 1 a.tag ++ le 1 (a.gen % 16 + 16 * b2n a.interim + 32 * b2n more) ++
  be 2 a.sub ++ be 2 0 ++ be 4 off ++ a.slot

/-- Send an answer, in segments when it needs them (R369). -/
def sendAnswer (dest : Nat) (a : Answer) (s : State) : State := sendSegments dest 4 76 (answerHead a) a.data s

/-- Send the answer of a forwarded command and keep it among the last 16 of its sender (R369). -/
def answerForward (opcode : Nat) (c : Call) (w : FwdFrom) (f : Final) (s : State) : State :=
  let a : Answer := ⟨ownDev s, w.queue, c.tag, c.gen, f.interim, false, w.sub, 0,
    responseImage opcode { c with bulkResult := true, units := 32767 } f, f.bulk⟩
  let s := sendAnswer w.dev a s
  if f.interim then s else
    let mine := s.stw.answers.filter (fun x => x.dev == w.dev)
    let drop := if 16 ≤ mine.length then mine.head? else none
    { s with stw.answers := s.stw.answers.filter (fun x => some x != drop) ++ [⟨w.dev, w.queue, c.tag, c.gen, w.sub, a⟩] }

/-- The three acts of a response (R351): bulk and slot, RSP_TAIL, event of R343. -/
def writeResponse (opcode : Nat) (c : Call) (f : Final) (s : State) : State :=
  let s := writeBulk c f.bulk s
  let img := responseImage opcode c f
  let s := { s with hold.slots := mwrite (responseAddr c.queue s) img s.hold.slots }
  let v := queueOf c.queue s
  let s := setQueue c.queue { v with rspTail := (v.rspTail + 1) % 32 } s
  if c.queue = 3 then s else raise (if c.queue = 1 then 1 else 0) c.queue s

/-- How much of its work a walk that ended with ST_PARTIAL has done is Eulyn's estimate, which the manual leaves open; it is not below
what was reported before (R359). -/
def estimated (f : Final) (s : State) : Final :=
  if f.status = .partial_ then { f with progress := f.progress + pick s % (65535 - f.progress) } else f

/-- The state after that estimate. -/
def settled (f : Final) (s : State) : State := if f.status = .partial_ then picked s else s

/-- Answer a command: a no-response command that ends with ST_OK writes no slot, but its bulk result (R345). -/
def respond (opcode : Nat) (c : Call) (from_ : Option FwdFrom) (f : Final) (s : State) : State :=
  match from_ with
  | some w =>
    let s := writeResponse opcode c f s
    answerForward opcode c w f (setQueue 3 { queueOf 3 s with rspHead := (queueOf 3 s).rspTail } s)
  | none =>
    if c.noResponse && f.interim then s
    else if c.noResponse && f.status = .ok then writeBulk c f.bulk s
    else writeResponse opcode c f s

/-! ### The Ledger (R367, R368) -/

def openCount (l : List Record) : Nat := (l.filter (fun r => r.state < 2)).length

/-- Keep every open record and the latest `n` closed ones. -/
def keepClosed (n : Nat) (l : List Record) : List Record :=
  let closed := l.filter (fun r => !(r.state < 2))
  let dropN := closed.length - n
  let old := closed.take dropN
  l.filter (fun r => !old.contains r)

/-- Open a record in retained SRAM and in the flash mirror. -/
def openRecord (opcode : Nat) (c : Call) (remote : Bool) (s : State) : State :=
  let r : Record := {
    opno := s.stw.nextOpno, opcode, origin := c.queue % 4 + 4 * b2n remote, tag := c.tag, gen := c.gen,
    state := 0, fromFlash := false, steps := 0, status := 0, start := stampOf (nowNs s), ponr := 0 }
  { s with stw.ledger := s.stw.ledger ++ [r], stw.flash := s.stw.flash ++ [r], stw.nextOpno := s.stw.nextOpno + 1 }

def updRecord (opno : Nat) (f : Record → Record) (l : List Record) : List Record :=
  l.map (fun r => if r.opno = opno then f r else r)

/-- Steps recorded for an operation in retained SRAM. -/
def stepsOf (opno : Nat) (s : State) : Option Nat := (s.stw.ledger.find? (fun r => r.opno == opno)).map (·.steps)

/-- Write a state of a record to SRAM and mirror; the mirror takes the step count with it. -/
def markRecord (opno : Nat) (f : Record → Record) (s : State) : State :=
  let n := stepsOf opno s
  { s with stw.ledger := keepClosed 48 (updRecord opno f s.stw.ledger)
           stw.flash := keepClosed 16 (updRecord opno (fun r => f { r with steps := n.getD r.steps }) s.stw.flash) }

/-- A step of an operation has ended: its record's step count, in retained SRAM only. -/
def countStep (opno n : Nat) (s : State) : State :=
  { s with stw.ledger := updRecord opno (fun r => { r with steps := n % 65536 }) s.stw.ledger }

/-- Close a record with its final status. -/
def closeRecord (opno : Nat) (st : Status) (s : State) : State :=
  let code := if st = .cancelled then 4 else if st = .abandoned then 3 else 2
  markRecord opno (fun r => { r with state := code, status := st.code }) s

/-- Record the point of no return. -/
def passPonr (opno : Nat) (s : State) : State :=
  let t := stampOf (nowNs s)
  markRecord opno (fun r => { r with state := 1, ponr := t }) s

/-! ### Plots (R45 to R49) -/

/-- A resolved plot: row, group, the device plot, the field plot, a folder, a plot of another member. -/
inductive Plot
  | row (r : Nat) | group (g : Nat) | device | field | folder (n : Nat) | remote (ref : Nat) | stale (ref : Nat)
deriving DecidableEq, Repr

/-- Plot reference of R45. -/
def mkRef (kind gen dev num : Nat) : Nat := kind + 16 * gen + 256 * dev + 65536 * num

def refKind (r : Nat) : Nat := r % 16
def refGen (r : Nat) : Nat := r / 16 % 16
def refDev (r : Nat) : Nat := r / 256 % 256
def refNum (r : Nat) : Nat := r / 65536 % 65536

def groupOf (g : Nat) (s : State) : Group := tgetD g {} s.plots.groups

/-- Device of a reference in this device's terms. -/
def isLocal (r : Nat) (s : State) : Bool := refDev r = 255 || refDev r = ownDev s

/-- Resolve a reference (R46). -/
def resolveRef (r : Nat) (s : State) : Plot :=
  if !isLocal r s then .remote r
  else match refKind r with
    | 0 => .row (refNum r % 512)
    | 1 =>
      let g := groupOf (refNum r % 1024) s
      if g.used && g.gen = refGen r then .group (refNum r % 1024) else .stale r
    | 2 => .device
    | 3 => .field
    | _ => .folder (refNum r % 2)

/-- A plot's reference with the member's device ID (R60). -/
def refOf (p : Plot) (s : State) : Nat :=
  match p with
  | .row r => mkRef 0 0 (ownDev s) r
  | .group g => mkRef 1 (groupOf g s).gen (ownDev s) g
  | .device => mkRef 2 0 (ownDev s) 0
  | .field => mkRef 3 0 (ownDev s) 0
  | .folder n => mkRef 4 0 (ownDev s) n
  | .remote r => r
  | .stale r => mkRef (refKind r) (refGen r) (ownDev s) (refNum r)

/-- Members of the Field in ascending device ID, this device among them. -/
def fieldMembers (s : State) : List Nat :=
  if s.field.join = 2 then insertNat s.field.dev (tkeys (s.field.roster.filter (fun e => !e.2.joining))) else []

/-- Children in ascending hop index (R47, R52). -/
def children (p : Plot) (s : State) : List Plot :=
  match p with
  | .device => [.folder 0, .folder 1] ++ s.plots.top.map (fun e => resolveRef e.2 s)
  | .folder n => (List.range 256).map (fun i => .row (256 * n + i))
  | .group g => (groupOf g s).members.map (fun e => resolveRef e.2 s)
  | .field => (fieldMembers s).map (fun d => if d = ownDev s then .device else .remote (mkRef 2 0 d 0))
  | _ => []

/-- The child a hop selects (R47). -/
def hopTo (p : Plot) (h : Nat) (s : State) : Option Plot :=
  match p with
  | .field => if (fieldMembers s).contains h then some (if h = ownDev s then .device else .remote (mkRef 2 0 h 0)) else none
  | .device =>
    if h = 0 then some (.folder 0) else if h = 1 then some (.folder 1)
    else if h < 16 then none else (tget h s.plots.top).map (fun r => resolveRef r s)
  | .folder n => if h < 256 then some (.row (256 * n + h)) else none
  | .group g => (tget h (groupOf g s).members).map (fun r => resolveRef r s)
  | _ => none

/-- What a path leads to: a plot with the hops left to a remote device, a plot that a walk of another member has reached, or a
refusal. -/
inductive Target
  | at_ (p : Plot) (rest : List Nat)
  | sub (p : Plot)
  | bad (st : Status)
deriving DecidableEq, Repr

/-- Follow hops; a remote plot takes the rest of them with it (R47). -/
def follow (s : State) : Plot → List Nat → Target
  | .remote r, rest => .at_ (.remote r) rest
  | .stale _, _ => .bad .stale
  | p, [] => .at_ p []
  | p, h :: t => match hopTo p h s with
    | some q => follow s q t
    | none => .bad .badPlot

/-- The plot a command's path addresses (R48, R49). A forward names a plot that a walk reached by hop 2, its number, and its kind and
generation; a group that a path leads to by hop 3, its number and generation (log 17). -/
def target (c : Call) (s : State) : Target :=
  match c.queue, c.hops with
  | 3, [2, lo, hi, k] => .sub (resolveRef (mkRef (k % 16) (k / 16) 255 (lo + 256 * hi)) s)
  | 3, 3 :: lo :: hi :: gen :: rest =>
    if 240 < rest.length then .bad .badPlot else follow s (resolveRef (mkRef 1 gen 255 (lo + 256 * hi)) s) rest
  | _, hops =>
    if 240 < hops.length then .bad .badPlot
    else if c.fieldRooted then (if s.field.join = 2 then follow s .field hops else .bad .badPlot)
    else follow s .device hops

/-! ### Flags and bulk area (R345, R346, R376) -/

/-- A command sent with both flags is a read request (R380). -/
def isRead (c : Call) : Bool := c.atomic && c.staged

/-- Flags against R345 and R380; `sown` tells whether a re-till is open. -/
def flagCheck (k : Cmd) (c : Call) (s : State) : Status :=
  if isRead c then (if k.read.isSome && c.bulkResult then .ok else .badParam)
  else if (c.atomic || c.staged) && !k.bank || c.atomic && k.status then .badParam
  else if c.staged && s.stw.retill.isNone then .notPermitted
  else .ok

/-- The ring of a host bulk area exists with the bulk role, and has the descriptor named (R346). -/
def bulkRing (c : Call) (s : State) : Bool :=
  match tget (16 + c.at_ / 4096 % 16) s.rings with
  | some r => flag r.create 1 0 && decide (c.at_ % 4096 < u16 r.create 2)
  | none => false

/-- Bulk area against R346. -/
def areaCheck (c : Call) (s : State) : Status :=
  if c.units = 0 then (if isRead c then .badParam else .ok)
  else if c.host then
    (if (c.queue = 0 ∨ c.queue = 1) ∧ bulkRing c s ∧ areaLen c ≤ c.hostLen then .ok else .badParam)
  else if 8 * c.at_ + areaLen c ≤ 524288 then .ok else .badParam

/-! ### Walks (R50 to R61) -/

/-- Scope and kind fit: the opcode acts on this plot. -/
def applies (sc : Scope) (p : Plot) : Bool :=
  match sc, p with
  | .row, .row _ | .singleRow, .row _ => true
  | .device, .device | .singleDevice, .device => true
  | .group, .group _ | .group, .device => true
  | _, _ => false

/-- What the opcode's act is given for a plot. -/
def plotArg (p : Plot) : Nat :=
  match p with
  | .row r => r
  | .group g => g + 1
  | _ => 0

/-- Binding of a row never bound: no endpoint, ingress class Tell, egress age limit 1000 ms (R77, R190, R388). -/
def defaultBind : Img := fit 48 (fit 12 [] ++ le 1 2 ++ fit 5 [] ++ le 2 1000)

/-- Binding image of a row in the standing bank; kind 0 is unbound. -/
def bindOf (r : Nat) (s : State) : Img := tgetD r defaultBind s.bank.bind

def bound (r : Nat) (s : State) : Bool := u8 (bindOf r s) 0 != 0

/-- The row is bound in the bank a command changes: the sown bank under one of its flags (R51, R345). -/
def boundFor (c : Call) (w : Walk) (r : Nat) (s : State) : Bool :=
  if (c.atomic || c.staged) && !isRead c && !w.busy then u8 (tgetD r [] s.sown.bind) 0 != 0 else bound r s

/-- One aggregate step on unsigned or signed fields of `n` bytes (R61). -/
def aggField (a b : Img) (o n : Nat) : Agg → Bytes
  | .counter | .capacity => le n (min (ule a o n + ule b o n) (2 ^ (8 * n) - 1))
  | .maxU | .state => le n (max (ule a o n) (ule b o n))
  | .maxS => sleB n (max (sle a o n) (sle b o n))
  | .minU => le n (min (ule a o n) (ule b o n))
  | .flags => le n (ule a o n ||| ule b o n)

/-- Merge a further plot's inline result into the aggregate; unlisted fields keep the first plot's value. -/
def aggInline (k : Cmd) (c : Call) (a b : Bytes) : Bytes :=
  let r := (k.agg c).foldl (fun acc e => patch acc e.1 (aggField acc b e.1 e.2.1 e.2.2)) a
  if k.identity ≠ 0 && a.take k.identity != b.take k.identity then patch r 25 [r.getD 25 0 ||| 1#8] else r

/-- Counters of `n` bytes added one by one, saturating; the first of every `block` is a time, whose latest is taken. `j` of them came
before. -/
def sumCounters (n block : Nat) : Nat → Nat → Bytes → Bytes → Bytes
  | 0, _, _, _ => []
  | m + 1, j, a, b =>
    le n (if block ≠ 0 ∧ j % block = 0 then max (ule a 0 n) (ule b 0 n) else min (ule a 0 n + ule b 0 n) (2 ^ (8 * n) - 1)) ++
      sumCounters n block m (j + 1) (a.drop n) (b.drop n)

/-- The counters of two results joined. -/
def joinSums (k : Cmd) (a b : Bytes) : Bytes := sumCounters k.sums k.block (max a.length b.length / k.sums) 0 a b

/-- Header of R378 before each plot's list. -/
def listHeader (dev count : Nat) : Bytes := le 1 dev ++ le 1 0 ++ le 2 count

/-- Bytes of one item of a command's list; an image of a read request is one item. -/
def itemLen (k : Cmd) (c : Call) (img : Bytes) : Nat := if isRead c then img.length else k.item

/-- The bulk result of a plot joins the walk's: counters are added, a list follows with its header, of any other layout the first
plot's stays (R378). -/
def mergeBulk (k : Cmd) (c : Call) (img : Bytes) (dev : Nat) (w : Walk) : Walk :=
  if isRead c || k.item ≠ 0 then
    let n := img.length / itemLen k c img
    let at_ := w.bulk.length + 4
    { w with bulk := w.bulk ++ listHeader dev n ++ img
             ends := w.ends ++ (if n = 0 then [at_] else (List.range n).map (fun i => at_ + itemLen k c img * (i + 1))) }
  else if w.acted = 0 then { w with bulk := img }
  else if k.sums ≠ 0 then { w with bulk := joinSums k w.bulk img }
  else w

/-- Merge a plot's work into the walk. -/
def merge (k : Cmd) (c : Call) (x : Work) (dev : Nat) (w : Walk) : Walk :=
  { mergeBulk k c x.bulk dev w with
    inline := if w.acted = 0 then fit 48 x.inline else aggInline k c w.inline (fit 48 x.inline)
    acted := w.acted + 1 }

def addEntry (e : Entry) (w : Walk) : Walk :=
  let bad := !e.rep && !e.notVisited && e.status != .ok
  { w with entries := w.entries ++ [e], failed := w.failed + b2n bad,
           first := if bad && w.first == .ok then e.status else w.first }

/-- Path hops of a remote plot that a walk reached, seen from its own device (R370; log 17). -/
def walkHops (r : Nat) : List Nat := [2, refNum r % 256, refNum r / 256, refKind r + 16 * refGen r]

/-- Path hops of a remote plot that a path leads to, and those left. A hop of the path that selects nothing on a device plot stays such a
one (R47). -/
def pathHops (r : Nat) (rest : List Nat) : List Nat :=
  match refKind r, rest with
  | 0, l => [refNum r / 256, refNum r % 256] ++ l
  | 1, l => [3, refNum r % 256, refNum r / 256, refGen r] ++ l
  | _, h :: l => (if h = 2 ∨ h = 3 then 4 else h) :: l
  | _, [] => []

/-- Hops of a forward. -/
def forwardHops (w : Walk) (r : Nat) : List Nat := if w.direct then pathHops r w.rest else walkHops r

/-! ### The end of a long operation -/

/-- Event 4 for each sixteenth that progress passes (R359). -/
def passSixteenths (old new tag : Nat) (s : State) : State :=
  ((List.range 16).filter (fun k => decide (1 ≤ k ∧ old < 4096 * k ∧ 4096 * k ≤ new))).foldl (fun s _ => raise 4 tag s) s

/-- The long operation of a plot has ended: its walk, under the same call, takes the result and may go on (R57). -/
def joinInner (o : Op) (f : Final) (p : Op) : Op :=
  match p.body with
  | .walk w => match w.inner with
    | some ref =>
      if p.call = o.call && p.from_ == o.from_ && p.opcode == o.opcode then
        { p with body := .walk (addEntry { plot := ref, status := f.status }
            { w with inner := none, seen := (ref, f.status) :: w.seen, acted := w.acted + 1
                     inline := if w.acted = 0 then fit 48 f.inline else w.inline }) }
      else p
    | none => p
  | _ => p

/-- What a final response reports of an operation: its progress is no less than before. -/
def finalOf (o : Op) (f : Final) (s : State) : Final :=
  estimated { f with opno := o.opno, progress := max f.progress o.progress } s

/-- A long operation goes: the sixteenths its end passes, its final response, event 5 (R357, R359). A muted one writes no response
(R564); the part of a walk reports to the walk. -/
def finishOp (o : Op) (f : Final) (s : State) : State :=
  let g := finalOf o f s
  let s := { settled f s with stw.ops := s.stw.ops.filter (fun x => x != o) }
  if o.inner then { s with stw.ops := s.stw.ops.map (joinInner o f) }
  else
    let s := passSixteenths o.progress (if g.status = .ok then 65535 else g.progress) o.call.tag s
    let s := if o.mute then s else respond o.opcode o.call o.from_ g s
    raise 5 o.call.tag s

/-- Replace an operation in flight by its next form. -/
def putOp (o o' : Op) (s : State) : State := { s with stw.ops := s.stw.ops.map (fun x => if x = o then o' else x) }

/-- End a long operation and close its Ledger record at once. -/
def endNow (o : Op) (f : Final) (s : State) : State :=
  finishOp o f (if o.opno = 0 then s else closeRecord o.opno f.status s)

/-- End a long operation: the mirror write of a record's close is a step of its own (R367). -/
def endOp (o : Op) (f : Final) (s : State) : State :=
  if o.opno = 0 then finishOp o f s else putOp o { o with body := .closing f } s

/-! ### Forwards -/

/-- Slot image of a call (R344), path rewritten for a forward. -/
def slotImage (opcode : Nat) (c : Call) (hops : List Nat) : Bytes :=
  le 2 opcode ++ le 1 c.tag ++
  le 1 (c.gen % 16 + 16 * b2n c.atomic + 32 * b2n c.staged + 64 * b2n c.noResponse + 128 * b2n c.bulkResult) ++
  le 1 hops.length ++ le 1 0 ++ fit 6 (if hops.length ≤ 6 then hops.map byte else []) ++
  le 2 (c.units % 32768) ++ le 2 0 ++ fit 48 c.params

/-- Hops padded to a multiple of 4, when they do not fit inline (R48). -/
def hopBytes (hops : List Nat) : Bytes :=
  if hops.length ≤ 6 then [] else fit ((hops.length + 3) / 4 * 4) (hops.map byte)

/-- Forward body of R370 before its bulk data. -/
def forwardHead (s : State) (opcode : Nat) (c : Call) (tok : Nat × Nat × Nat × Nat) (subN : Nat) (hops : List Nat)
    (more : Bool) (off : Nat) : Bytes :=
  le 1 (ownDev s) ++ le 1 c.queue ++ le 1 c.tag ++ le 1 (c.gen % 16 + 16 * b2n more) ++ be 2 subN ++ be 2 0 ++
  le 1 tok.1 ++ le 1 tok.2.1 ++ le 1 tok.2.2.1 ++ le 1 tok.2.2.2 ++ be 4 off ++ slotImage opcode c hops

/-- Send a mailbox forward, in segments when it needs them (R369). -/
def sendForward (dest opcode : Nat) (c : Call) (tok : Nat × Nat × Nat × Nat) (subN : Nat) (hops : List Nat) (s : State) : State :=
  sendSegments dest 3 80 (forwardHead s opcode c tok subN hops) (hopBytes hops ++ c.bulk) s

/-- The walk token: this command, or the forwarding command's token (R53). -/
def walkToken (c : Call) (from_ : Option FwdFrom) (s : State) : Nat × Nat × Nat × Nat :=
  match from_ with
  | some f => (f.tokDev, f.tokQueue, f.tokTag, f.tokGen)
  | none => (ownDev s, c.queue, c.tag, c.gen)

/-- A member is in the roster and reachable (R70, R72); only a Member forwards to others. -/
def reachable (d : Nat) (s : State) : Bool :=
  s.field.join == 2 && match tget d s.field.roster with
  | some m => m.reachable && !m.joining
  | none => false

/-- How a command treats each plot: directly, on the sown bank, or reading (R62, R345, R380). The reading form of a bank command with the
staged flag returns what is in force (R395, R419). -/
def actOn (k : Cmd) (c : Call) (p : Plot) (s : State) : Work :=
  let t := plotArg p
  if k.lacks s then { status := .notPermitted, st := s }
  else if isRead c then
    match k.read.bind (fun f => f c t s) with
    | some i => { status := .ok, bulk := i, st := s }
    | none => { status := .badParam, st := s }
  else if k.own c s ≠ .ok then { status := k.own c s, st := s }
  else if (c.atomic || c.staged) && !k.status then
    let r := k.stage c t s s.sown
    if r.1 = .ok then { inline := k.staged c t s s.sown r.2, st := picked { s with sown := { r.2 with acts := r.2.acts ++ k.marks c s } } }
    else { status := r.1, st := s }
  else k.act c t s

/-- A walk acts on a plot of this device; under R66 it fails with ST_BUSY. -/
def walkAct (k : Cmd) (c : Call) (w : Walk) (p : Plot) (s : State) : Work :=
  if w.busy then { status := .busy, st := s } else actOn k c p s

/-- What is left of the bulk area for one more plot's list: no more is taken out of a queue than can be returned (R181, R347). -/
def roomFor (k : Cmd) (c : Call) (w : Walk) : Call :=
  if k.item = 0 || isRead c then c else { c with units := (areaLen c - w.bulk.length - 4) / 8 }

/-- Note a direct change while a re-till is open (R362); a read changes nothing. -/
def countDirect (k : Cmd) (c : Call) (st : Status) (s : State) : State :=
  if k.bank && !k.status && !c.atomic && !c.staged && st = .ok && s.stw.retill.isSome then
    { s with stw.directChanges := s.stw.directChanges + 1 } else s

/-- A walk counts as one direct change, when it makes its first here. -/
def countFirst (k : Cmd) (c : Call) (w : Walk) (st : Status) (s : State) : State := if w.changed then s else countDirect k c st s

/-- The walk waits for the long operation that a plot's act began (R57). -/
def beginInner (k : Cmd) (c : Call) (from_ : Option FwdFrom) (ref : Nat) (x : Work) (b : OpBody) (w : Walk) : Walk × State :=
  ({ w with inner := some ref, seen := (ref, .ok) :: w.seen },
   { x.st with stw.ops := x.st.stw.ops ++ [{ opcode := k.opcode, call := c, body := b, opno := x.opno, from_, inner := true }] })

/-- Take the walk as far as it goes without another device: plots depth first, each acted on once (R52, R53).
It stops at a remote plot after sending the forward of R55. -/
def walkOn (k : Cmd) (c : Call) (from_ : Option FwdFrom) : Nat → Walk → State → Walk × State
  | 0, w, s => (w, s)
  | n + 1, w, s =>
    match w.todo with
    | [] => (w, s)
    | ref :: rest =>
      let w := { w with todo := rest }
      match w.seen.find? (fun e => e.1 == ref) with
      | some e => walkOn k c from_ n (addEntry { plot := ref, status := e.2, rep := true } w) s
      | none =>
        match resolveRef ref s with
        | .stale _ => walkOn k c from_ n (addEntry { plot := ref, status := .stale } { w with seen := (ref, .stale) :: w.seen }) s
        | .remote r =>
          let d := refDev r
          if reachable d s then
            let s := sendForward d k.opcode c (walkToken c from_ s) w.subs (forwardHops w r) s
            ({ w with await := some (d, r), subs := w.subs + 1 }, s)
          else walkOn k c from_ n (addEntry { plot := r, status := .remoteUnreachable }
                 { w with given := .remoteUnreachable, seen := (ref, .remoteUnreachable) :: w.seen }) s
        | p =>
          let pass : Bool := match p with
            | .row r => !w.alone && !boundFor c w r s
            | _ => false
          let kids := if w.alone then [] else (children p s).map (fun q => refOf q s)
          let w := { w with todo := kids ++ w.todo }
          if !applies k.scope p then walkOn k c from_ n { w with seen := (ref, .ok) :: w.seen } s
          else if pass then walkOn k c from_ n w s
          else
            let x := walkAct k (roomFor k c w) w p s
            match x.long with
            | some b => beginInner k c from_ ref x b w
            | none => walkOn k c from_ n (addEntry { plot := ref, status := x.status }
                { merge k c x (ownDev s) w with
                  seen := (ref, x.status) :: w.seen, reset := w.reset || x.reset, changed := w.changed || x.status == .ok })
                (countFirst k c w x.status x.st)

/-- Enough for any tree: every plot is expanded once and holds at most 256 children. -/
def walkFuel : Nat := 300000

/-- Bytes of a status entry (R60). -/
def entryBytes (e : Entry) : Bytes :=
  le 4 e.plot ++ le 1 e.status.code ++
  le 1 (b2n e.rep + 2 * b2n e.notApplied + 4 * b2n e.unknown + 8 * b2n e.notVisited) ++ le 2 0

/-- Group summary and the whole entries that fit (R59). -/
def summaryBytes (area : Nat) (w : Walk) (done : Bool) : Bytes :=
  let n := min w.entries.length ((area - 16) / 8)
  le 4 w.acted ++ le 4 w.failed ++ le 4 n ++ le 1 w.first.code ++
  le 1 (b2n (n < w.entries.length) + 2 * b2n done) ++ le 2 0 ++ ((w.entries.take n).map entryBytes).flatten

/-- Bytes of the lists of a walk that fit as whole items; a forward's answer takes them all (R347). -/
def wholeItems (k : Cmd) (c : Call) (w : Walk) : Nat :=
  if c.queue = 3 || !(isRead c || k.item ≠ 0) then w.bulk.length
  else (w.ends.filter (fun e => decide (e ≤ areaLen c))).foldl max 0

/-- The bulk result of a walk: the opcode's own lists, or the summary of R59; a forward's answer takes every entry (R55, R371). -/
def walkBulk (k : Cmd) (c : Call) (w : Walk) (done : Bool) : Bytes :=
  if k.status || isRead c then w.bulk.take (wholeItems k c w)
  else summaryBytes (if c.queue = 3 then 16 + 8 * w.entries.length else areaLen c) w done

/-- Status of a walk that has run (R50, R58, R62). DESIGN CHOICE (log 124): a walk that reached only
unbound rows, or only plots reached before under its token, found nothing to act on and is ST_BAD_PLOT. -/
def walkStatus (c : Call) (w : Walk) : Status :=
  if w.entries.all (·.rep) then .badPlot
  else if c.atomic && !c.staged then w.first
  else if w.direct then w.given
  else if w.failed = 0 then .ok else .partial_

def walkFinal (k : Cmd) (c : Call) (w : Walk) (done : Bool) (st : Status) (opno : Nat) : Final :=
  { status := st, inline := w.inline, bulk := walkBulk k c w done, opno, unknown := w.direct && w.entries.any (·.unknown)
    cut := if k.status || isRead c then decide (wholeItems k c w < w.bulk.length)
           else c.queue != 3 && decide ((areaLen c - 16) / 8 < w.entries.length) }

/-! ### Taking a command -/

/-- Image bytes a loading RETILL_BEGIN reads in one step: the example of R374 gives 256. -/
def loadStep : Nat := 256

/-- Work done at the end of a step in units of 1/65,536: the share of the image for a loading re-till; for any other operation
Eulyn's estimate, which the manual leaves open. It never falls (R359). -/
def estimate (o : Op) (s : State) : Nat :=
  match o.body with
  | .retillLoad _ _ => min 65534 (65536 * (loadStep * o.steps) / o.call.bulk.length)
  | _ => o.progress + pick s % (65535 - o.progress)

/-- A step of an operation ends: steps and progress; FFFFh is left to a final response with ST_OK (R348). -/
def endStep (o : Op) (s : State) : Op × State :=
  let o := { o with steps := o.steps + 1 }
  let p := estimate o s
  ({ o with progress := p }, if o.inner then picked s else passSixteenths o.progress p o.call.tag (picked s))

/-- Put an operation in flight after its first step and write its interim response when a slot is free beyond those owed
(R351, R357). -/
def goLong (o : Op) (s : State) : State :=
  let r := endStep o s
  let o := r.1
  let s := { r.2 with stw.ops := r.2.stw.ops ++ [o] }
  if !o.call.noResponse && decide (inFlight o.call.queue s < freeSlots o.call.queue s) then
    respond o.opcode o.call o.from_ { status := .inProgress, interim := true, progress := o.progress, opno := o.opno } s
  else s

/-- The sown bank is held by a re-till or an atomic command (R66). -/
def sownHeld (s : State) : Bool :=
  s.stw.retill.isSome || s.stw.staged.isSome ||
    s.stw.ops.any (fun o => match o.body with
      | .atomicFlip _ => true
      | .atomicReady w => !w.busy
      | .retillClose _ => true
      | .walk w => o.call.atomic && !o.call.staged && !w.busy
      | _ => false)

/-- The final response of an act on exactly one plot. -/
def singleFinal (k : Cmd) (c : Call) (from_ : Option FwdFrom) (opno : Nat) (p : Plot) (x : Work) : Final :=
  let w := addEntry { plot := refOf p x.st, status := x.status } { acted := 1 }
  let bulk := if from_.isSome && !(k.status || isRead c) then summaryBytes 24 w false else x.bulk
  let whole := if k.item = 0 || isRead c then bulk else bulk.take (areaLen c / k.item * k.item)
  { status := x.status, inline := x.inline, bulk := if from_.isSome then bulk else whole, opno
    cut := from_.isNone && decide (whole.length < bulk.length) }

/-- A command on exactly one plot. -/
def performSingle (k : Cmd) (c : Call) (from_ : Option FwdFrom) (p : Plot) (s : State) : State :=
  let x := actOn k c p s
  let s := countDirect k c x.status x.st
  match x.long with
  | some b => goLong { opcode := k.opcode, call := c, body := b, opno := x.opno, from_, interim := true } s
  | none =>
    if x.quiet then x.after s
    else x.after (respond k.opcode c from_ (singleFinal k c from_ x.opno p { x with st := s }) s)

/-- A journaled command opens its record, whose mirror write is its first step; it acts in the next (R367, R368). -/
def performJournaled (k : Cmd) (c : Call) (from_ : Option FwdFrom) (b : OpBody) (s : State) : State :=
  if 16 ≤ openCount s.stw.ledger then respond k.opcode c from_ { status := .noResource } s
  else goLong { opcode := k.opcode, call := c, body := b, opno := s.stw.nextOpno, from_, interim := true } (openRecord k.opcode c from_.isSome s)

/-- Key under which a walk token's plots are kept. -/
def tokenKey (tok : Nat × Nat × Nat × Nat) : Nat := tok.1 + 256 * tok.2.1 + 1024 * tok.2.2.1

/-- Plots reached here under a token (R53). -/
def reachedUnder (tok : Nat × Nat × Nat × Nat) (s : State) : List (Nat × Status) :=
  match tget (tokenKey tok) s.stw.walked with
  | some (g, l) => if g = tok.2.2.2 then l else []
  | none => []

/-- A walk has no plot left to reach and waits for nothing. -/
def walkEnded (w : Walk) : Bool := w.await.isNone && w.inner.isNone && w.todo.isEmpty

/-- Sub-walk numbers used so far under a sender's tag by the sub-walks served here (R55, R369). DESIGN CHOICE (log 128). -/
def usedSubs (c : Call) (from_ : Option FwdFrom) (s : State) : Nat :=
  match from_, tget c.tag s.stw.subNos with
  | some _, some (g, n) => if g = c.gen then n else 0
  | _, _ => 0

/-- Keep the plots a walk has reached and the sub-walk numbers it has used; the device that holds the command forgets them at its end. -/
def keepReached (c : Call) (from_ : Option FwdFrom) (w : Walk) (s : State) : State :=
  let tok := walkToken c from_ s
  let s := if from_.isSome then { s with stw.subNos := tset c.tag (c.gen, w.subs) s.stw.subNos } else s
  if from_.isNone && walkEnded w then { s with stw.walked := tdel (tokenKey tok) s.stw.walked }
  else { s with stw.walked := tset (tokenKey tok) (tok.2.2.2, w.seen) s.stw.walked }

/-- One step of a walk, with what its token has reached here so far. How many plots a step of 50 µs takes is left open (R57, R357):
at least one. -/
def runWalk (k : Cmd) (c : Call) (from_ : Option FwdFrom) (w : Walk) (s : State) : Walk × State :=
  let old := (reachedUnder (walkToken c from_ s) s).filter (fun e => !(w.seen.map (·.1)).contains e.1)
  let r := walkOn k c from_ (pick s + 1) { w with seen := w.seen ++ old, subs := max w.subs (usedSubs c from_ s) } (picked s)
  (r.1, keepReached c from_ r.1 r.2)

/-- The walk that starts at a plot. A plot that another member's walk reached is reached as any (R53, R55); a plot of the opcode's own
kind is acted on alone; below any other plot the walk goes on (R50). -/
def startWalk (k : Cmd) (p : Plot) (rest : List Nat) (sub : Bool) (s : State) : Walk :=
  if sub then { todo := [refOf p s] }
  else if applies k.scope p then { todo := [refOf p s], alone := true }
  else match p with
    | .remote r => { todo := [r], direct := true, rest }
    | q => { todo := (children q s).map (fun x => refOf x s), seen := [(refOf q s, .ok)] }

/-- A walk that is not atomic: a long operation unless its first step ends it (R55, R57). -/
def performWalk (k : Cmd) (c : Call) (from_ : Option FwdFrom) (w : Walk) (s : State) : State :=
  if k.journaled then performJournaled k c from_ (.walk w) s
  else
    let r := runWalk k c from_ w s
    let st := walkStatus c r.1
    let f := walkFinal k c r.1 false st 0
    if walkEnded r.1 then respond k.opcode c from_ (estimated f r.2) (settled f r.2)
    else goLong { opcode := k.opcode, call := c, body := .walk r.1, from_, interim := true } r.2

/-- An atomic message under the token of a command. -/
def tokenMsg (kind : Nat) (c : Call) (from_ : Option FwdFrom) (s : State) : AtomicMsg :=
  let t := walkToken c from_ s
  ⟨kind, ownDev s, t.1, t.2.1, t.2.2.1, t.2.2.2, 0, 0⟩

def sameToken (a b : AtomicMsg) : Bool :=
  a.tokDev == b.tokDev && a.tokQueue == b.tokQueue && a.tokTag == b.tokTag && a.tokGen == b.tokGen

/-- The command of an operation is atomic. -/
def atomicOp (o : Op) : Bool := o.call.atomic && !o.call.staged

/-- A forwarded part of an atomic command that stages on this device already. -/
def stagingMine (c : Call) (from_ : Option FwdFrom) (s : State) : Bool :=
  let m := tokenMsg 0 c from_ s
  from_.isSome && (s.stw.staged.any (sameToken m) ||
    s.stw.ops.any (fun o => atomicOp o && sameToken m (tokenMsg 0 o.call o.from_ s)))

/-- The sown bank here is held by another command than the one that walks (R66). -/
def heldByOther (mine : Bool) (c : Call) (from_ : Option FwdFrom) (s : State) : Bool :=
  if mine then s.stw.ops.any (fun o => atomicOp o && sameToken (tokenMsg 0 c from_ s) (tokenMsg 0 o.call o.from_ s) && match o.body with
    | .walk w => w.busy
    | _ => false)
  else sownHeld s

/-- Every entry not applied (R62). -/
def notApplied (w : Walk) : Walk := { w with entries := w.entries.map (fun e => { e with notApplied := true }) }

/-- A forwarded atomic walk has staged here: the device waits for the holder (R65, R372). One that found the sown bank held has
staged nothing. -/
def holdStaged (opno : Nat) (mine busy : Bool) (m : AtomicMsg) (s : State) : State :=
  if mine then s else if busy then closeRecord opno .ok s else { s with stw.staged := some m, stw.stagedOp := opno }

/-- A further part of an atomic command that stages here already: it has no record of its own. -/
def performPart (k : Cmd) (c : Call) (from_ : Option FwdFrom) (w : Walk) (s : State) : State :=
  let r := runWalk k c from_ w s
  let st := walkStatus c r.1
  if !walkEnded r.1 then goLong { opcode := k.opcode, call := c, body := .walk r.1, from_, interim := true } r.2
  else respond k.opcode c from_ (walkFinal k c (if st = .ok then r.1 else notApplied r.1) false st 0) r.2

/-- An atomic command (R62, R63, R66, R367): its record's mirror write is its first step; then it stages on a copy of the standing
bank. -/
def performAtomic (k : Cmd) (c : Call) (from_ : Option FwdFrom) (w : Walk) (s : State) : State :=
  let mine := stagingMine c from_ s
  let busy := heldByOther mine c from_ s
  if mine then performPart k c from_ { w with busy } s
  else performJournaled k c from_ (.walk { w with busy }) (if busy || decide (16 ≤ openCount s.stw.ledger) then s else { s with sown := s.bank })

/-- Act on the plot the path leads to, or on one that another member's walk has reached (R50). DESIGN CHOICE (log 144): FIELD_JOIN and
FIELD_LEAVE act on the device that holds the queue, whatever plot the path leads to. -/
def performAt (k : Cmd) (c : Call) (from_ : Option FwdFrom) (p : Plot) (rest : List Nat) (sub : Bool) (s : State) : State :=
  let single := !sub && (applies k.scope p || k.scope = .field)
  let isRemote := match p with | .remote _ => true | _ => false
  if single && !(c.atomic && !c.staged) then
    if k.journaled && !isRead c then performJournaled k c from_ (.journal (refOf p s)) s
    else performSingle k c from_ p s
  else if !single && !isRemote && (k.scope = .singleRow || k.scope = .singleDevice) then
    respond k.opcode c from_ { status := .badPlot } s
  else if c.atomic && !c.staged then performAtomic k c from_ (startWalk k p rest sub s) s
  else performWalk k c from_ (startWalk k p rest sub s) s

/-- The check before the command acts on a plot (R54): that of a command whose path leads to another device is made there, and a read
request has none (R380). -/
def firstCheck (k : Cmd) (c : Call) (p : Plot) (s : State) : Status :=
  if isRead c then .ok
  else match p with
    | .device => if k.lacks s && applies k.scope p then .notPermitted else k.check c s
    | .remote _ => if k.scope = .field then k.check c s else .ok
    | _ => k.check c s

/-- Opcodes the boot ROM serves in recovery (R568). -/
def recoveryOpcodes : List Nat := [0x0107, 0x0E04, 0x0F04, 0x0F05, 0x0F06, 0x0F09]

/-- Every check before the command acts, in turn; then the act (R54, R352, R376). -/
def perform (k : Cmd) (c : Call) (from_ : Option FwdFrom) (s : State) : State :=
  let refuse (st : Status) := respond k.opcode c from_ { status := st } s
  if s.hold.bootPhase = 5 && !recoveryOpcodes.contains k.opcode then refuse .notPermitted
  else if flagCheck k c s ≠ .ok then refuse (flagCheck k c s)
  else if c.pathReserved then refuse .badParam
  else if areaCheck c s ≠ .ok then refuse (areaCheck c s)
  else match target c s with
    | .bad st => refuse st
    | .at_ p rest => if firstCheck k c p s ≠ .ok then refuse (firstCheck k c p s) else performAt k c from_ p rest false s
    | .sub p => if firstCheck k c p s ≠ .ok then refuse (firstCheck k c p s) else performAt k c from_ p [] true s

/-- Eulyn takes a command and performs it. A queue not served, or without a free response slot, leaves the
command waiting: nothing changes (R32, R351, R355; log 18). -/
def serve (k : Cmd) (c : Call) (s : State) : State :=
  if !takeable c.queue s then s
  else if tagCheck c s ≠ .ok then respond k.opcode c none { status := tagCheck c s } s
  else
    let s := if c.queue = 3 then s else { s with stw.tags := tset c.tag c.gen s.stw.tags }
    perform k c none s

/-- ST_BAD_PARAM unless every condition holds. -/
def need (b : Bool) : Status := if b then .ok else .badParam

/-- A bank item's direct act from its staging function and what the change sets off (R362). -/
def directAct (stage : Call → Nat → State → Bank → Status × Bank) (inl : Call → Nat → State → Bytes)
    (after : Call → Nat → State → State → State) : Call → Nat → State → Work :=
  fun c t s =>
    let r := stage c t s s.bank
    if r.1 = .ok then
      let s' := after c t s { s with bank := r.2 }
      { status := .ok, inline := inl c t s', st := s' }
    else { status := r.1, st := s }

/-- The first status that is not ST_OK. -/
def firstBad : List Status → Status
  | [] => .ok
  | x :: t => if x = .ok then firstBad t else x

/-- Offset `j` lies in one of the fields. -/
def inFields (j : Nat) (l : List (Nat × Nat)) : Bool := l.any (fun e => decide (e.1 ≤ j ∧ j < e.1 + e.2))

/-- Every inline byte outside the listed fields is zero (R12, R375). -/
def onlyBytes (c : Call) (l : List (Nat × Nat)) : Bool :=
  (List.range 48).all (fun j => inFields j l || c.params.getD j 0 == 0)

/-- A value within a range. -/
def within (lo v hi : Nat) : Bool := decide (lo ≤ v ∧ v ≤ hi)

/-- A signed value within a range. -/
def withinI (lo v hi : Int) : Bool := decide (lo ≤ v ∧ v ≤ hi)

/-- Accepted parameters as a setting's image: 48 inline bytes and the bulk parameters (R380). -/
def imageOf (c : Call) : Img := fit 48 c.params ++ c.bulk

end Sys2Proof.Machine
end

