-- ==== Sys2Proof/Machine/Plots.lean ====
section
/-! DEFINITION. Plot and Field membership commands: 0101h to 0106h (R381 to R386, R41 to R46, R68, R70, R74). -/

namespace Sys2Proof.Machine

/-- Row state code of R390: 0 Enabled, 1 Disabled, 2 Unbound. -/
def rowState (r : Nat) (s : State) : Nat :=
  if !bound r s then 2 else if s.bank.enabled.contains r then 0 else 1

/-- Change the plot tree; each change is written to the flash configuration area (R381). -/
def setPlots (p : Plots) (s : State) : State := { s with plots := p, fixed.plots := p }

/-- Stored form of a reference: FFh for this device. -/
def normRef (r : Nat) (s : State) : Nat := if isLocal r s then mkRef (refKind r) (refGen r) 255 (refNum r) else r

/-- Groups of which a plot is a member. -/
def holders (p : Plot) (s : State) : Nat :=
  (s.plots.groups.filter (fun e => e.2.used && e.2.members.any (fun m => resolveRef m.2 s == p))).length

/-- References per member position from position `f` (R381). -/
def memberList (p : Plot) (f : Nat) (s : State) : List Nat :=
  let at_ (t : Tbl Nat) (i : Nat) : Nat := match tget i t with
    | some r => if isLocal r s then mkRef (refKind r) (refGen r) (ownDev s) (refNum r) else r
    | none => 0xFFFFFFFF
  match p with
  | .device => ((List.range 256).drop f).map (fun i => if i < 2 then mkRef 4 0 (ownDev s) i else at_ s.plots.top i)
  | .folder n => ((List.range 256).drop f).map (fun i => mkRef 0 0 (ownDev s) (256 * n + i))
  | .group g => ((List.range 256).drop f).map (at_ (groupOf g s).members)
  | .field => ((List.range 64).drop f).map (fun d => if (fieldMembers s).contains d then mkRef 2 0 d 0 else 0xFFFFFFFF)
  | _ => []

def memberCount (p : Plot) (s : State) : Nat :=
  match p with
  | .device => 2 + s.plots.top.length
  | .folder _ => 256
  | .group g => (groupOf g s).members.length
  | .field => (fieldMembers s).length
  | _ => 0

def groupsInUse (s : State) : Nat := (s.plots.groups.filter (fun e => e.2.used)).length

/-- A plot reference within R45: the number in the range of its kind, a generation on a group only. -/
def refWellFormed (r : Nat) : Bool :=
  match refKind r with
  | 0 => decide (refNum r < 512) && refGen r == 0
  | 1 => decide (refNum r < 1024)
  | 2 | 3 => refNum r == 0 && refGen r == 0
  | 4 => decide (refNum r < 2) && refGen r == 0
  | _ => false

/-- 0101h PLOT_DESCRIBE (R46, R381). -/
def actPlotDescribe (c : Call) (_ : Nat) (s : State) : Work :=
  let r := u32 c.params 0
  if !isLocal r s || !refWellFormed r then { status := .badParam, st := s }
  else if refKind r = 1 && !(groupOf (refNum r) s).used then { status := .badParam, st := s }
  else if resolveRef r s = .stale r then { status := .stale, st := s }
  else
    let p : Plot := resolveRef r s
    let isRow := refKind r = 0
    let inl := le 4 (refOf p s) ++ le 2 (memberCount p s) ++ le 2 (holders p s) ++
      le 1 (if isRow then rowState (refNum r % 512) s else 0) ++
      le 1 (if isRow then u8 (bindOf (refNum r % 512) s) 0 else 0) ++
      le 2 (if p = .device then groupsInUse s else 0)
    { inline := inl, bulk := ((memberList p (u16 c.params 4) s).map (le 4)).flatten, st := s }

def cmdPlotDescribe : Cmd := {
  opcode := 0x0101, scope := .device, status := true, item := 4
  agg := fun _ => [(4, 2, .capacity), (6, 2, .capacity), (8, 1, .state), (10, 2, .capacity)]
  check := fun c _ => need (onlyBytes c [(0, 6)] && within 0 (u16 c.params 4) 255)
  act := actPlotDescribe }

/-- 0101h PLOT_DESCRIBE. -/
def execPlotDescribe (c : Call) (s : State) : Result := .next (serve cmdPlotDescribe c s)

/-- Lowest free member position of a plot (R382). -/
def freePosition (t : Nat) (s : State) : Option Nat :=
  if t = 0 then (firstBelow 240 (fun i => (tget (i + 16) s.plots.top).isNone)).map (· + 16)
  else firstBelow 256 (fun i => (tget i (groupOf (t - 1) s).members).isNone)

/-- Put a reference at a position of the addressed plot. -/
def putMember (t pos ref : Nat) (s : State) : State :=
  if t = 0 then setPlots { s.plots with top := tset pos ref s.plots.top } s
  else
    let g := groupOf (t - 1) s
    setPlots { s.plots with groups := tset (t - 1) { g with members := tset pos ref g.members } s.plots.groups } s

def posTaken (t pos : Nat) (s : State) : Bool :=
  if t = 0 then (tget pos s.plots.top).isSome else (tget pos (groupOf (t - 1) s).members).isSome

/-- 0102h PLOT_GROUP_CREATE (R41, R46, R382). -/
def actGroupCreate (c : Call) (t : Nat) (s : State) : Work :=
  let num := if u16 c.params 0 = 0xFFFF then firstBelow 1024 (fun g => !(groupOf g s).used) else some (u16 c.params 0)
  let pos := if flag c.params 3 0 then freePosition t s else some (u8 c.params 2)
  match num, pos with
  | none, _ | _, none => { status := .noResource, st := s }
  | some g, some p =>
    if t = 0 && p < 16 then { status := .badParam, st := s }
    else if (groupOf g s).used || posTaken t p s then { status := .busy, st := s }
    else
      let gen := ((groupOf g s).gen + 1) % 16
      let ref := mkRef 1 gen 255 g
      let s := setPlots { s.plots with groups := tset g { used := true, gen, members := [] } s.plots.groups } s
      let s := putMember t p ref s
      { inline := le 4 (mkRef 1 gen (ownDev s) g) ++ le 1 p, st := s }

def cmdPlotGroupCreate : Cmd := {
  opcode := 0x0102, scope := .group
  check := fun c _ => need (onlyBytes c [(0, 4)] && fld c.params 3 1 7 == 0 &&
    (u16 c.params 0 == 0xFFFF || decide (u16 c.params 0 < 1024)))
  act := actGroupCreate }

/-- 0102h PLOT_GROUP_CREATE. -/
def execPlotGroupCreate (c : Call) (s : State) : Result := .next (serve cmdPlotGroupCreate c s)

/-- Empty every position that holds group `g` (R44). -/
def dropGroup (g : Nat) (s : State) : Plots :=
  let gone (t : Tbl Nat) : Tbl Nat := t.filter (fun e => resolveRef e.2 s != .group g)
  { groups := s.plots.groups.map (fun e => (e.1, { e.2 with members := gone e.2.members })), top := gone s.plots.top }

/-- 0103h PLOT_GROUP_DELETE (R44, R383). -/
def actGroupDelete (_ : Call) (t : Nat) (s : State) : Work :=
  if t = 0 then { status := .badPlot, st := s }
  else if !(groupOf (t - 1) s).members.isEmpty then { status := .notPermitted, st := s }
  else
    let p := dropGroup (t - 1) s
    { st := setPlots { p with groups := tset (t - 1) { groupOf (t - 1) s with used := false, members := [] } p.groups } s }

def cmdPlotGroupDelete : Cmd := {
  opcode := 0x0103, scope := .group
  check := fun c _ => need (onlyBytes c [])
  act := actGroupDelete }

/-- 0103h PLOT_GROUP_DELETE. -/
def execPlotGroupDelete (c : Call) (s : State) : Result := .next (serve cmdPlotGroupDelete c s)

/-- Group `g` is `target` or holds it below, by local membership; each level uses up one unit. -/
def reaches (s : State) (goal : Nat) : Nat → Nat → Bool
  | 0, _ => false
  | n + 1, g => g == goal || (groupOf g s).members.any (fun e => match resolveRef e.2 s with
      | .group h => reaches s goal n h
      | _ => false)

/-- Whether a reference may become a member of the addressed plot (R42, R43, R384). -/
def attachCheck (t r : Nat) (s : State) : Status :=
  if !refWellFormed r then .badParam
  else if isLocal r s then
    match refKind r with
    | 0 => if t = 0 then .badParam else .ok
    | 1 => match resolveRef r s with
      | .group g => if t ≠ 0 && reaches s (t - 1) 1025 g then .badPlot else .ok
      | _ => .stale
    | _ => .badParam
  else if s.field.join ≠ 2 || t = 0 || 2 < refKind r || (tget (refDev r) s.field.roster).isNone then .badParam
  else .ok

/-- 0104h PLOT_ATTACH, operation 0 (R384). -/
def actAttach (c : Call) (t : Nat) (s : State) : Work :=
  let r := u32 c.params 4
  let st := attachCheck t r s
  if st ≠ .ok then { status := st, st := s }
  else match (if flag c.params 2 0 then freePosition t s else some (u8 c.params 1)) with
    | none => { status := .noResource, st := s }
    | some p =>
      if t = 0 && p < 16 then { status := .badParam, st := s }
      else if posTaken t p s then { status := .busy, st := s }
      else { st := putMember t p (normRef r s) s }

def cmdPlotAttach : Cmd := {
  opcode := 0x0104, scope := .group
  check := fun c _ => need (onlyBytes c [(0, 8)] && u8 c.params 0 == 0 && u8 c.params 3 == 0 && fld c.params 2 1 7 == 0)
  act := actAttach }

/-- 0104h PLOT_ATTACH with operation 0. -/
def execPlotAttach (c : Call) (s : State) : Result := .next (serve cmdPlotAttach c s)

/-- 0104h with operation 1 empties a position (R384). -/
def actDetach (c : Call) (t : Nat) (s : State) : Work :=
  let p := u8 c.params 1
  if !posTaken t p s then { status := .badParam, st := s }
  else if t = 0 then { st := setPlots { s.plots with top := tdel p s.plots.top } s }
  else
    let g := groupOf (t - 1) s
    { st := setPlots { s.plots with groups := tset (t - 1) { g with members := tdel p g.members } s.plots.groups } s }

def cmdPlotDetach : Cmd := {
  opcode := 0x0104, scope := .group
  check := fun c _ => need (onlyBytes c [(0, 2)] && u8 c.params 0 == 1)
  act := actDetach }

/-- 0104h with operation 1. -/
def execPlotDetach (c : Call) (s : State) : Result := .next (serve cmdPlotDetach c s)

/-! ### Field membership -/

/-- Settings of R385 are in range. -/
def joinParamsOk (c : Call) : Bool :=
  onlyBytes c [(0, 16)] && within 1 (u16 c.params 0) 0xFFFE &&
  (within 0 (u8 c.params 2) 63 || u8 c.params 2 == 255) && fld c.params 3 1 7 == 0 &&
  within 1 (u16 c.params 4) 1023 && within 10 (u16 c.params 6) 1000 && within 1 (u16 c.params 8) 500 &&
  within 1 (u16 c.params 10) 100 && within 10 (u32 c.params 12) 10000

def joinResult (s : State) : Bytes := le 1 s.field.dev ++ le 1 s.field.join

/-- Keep or clear the rejoin flag and the settings in flash (R385). -/
def keepRejoin (c : Call) (s : State) : State :=
  { s with field.rejoin := flag c.params 3 0
           fixed.fieldImg := if flag c.params 3 0 then some (fit 48 c.params) else none }

/-- Enter Joining (R70). -/
def startJoin (img : Img) (s : State) : State :=
  { s with field.settings := img, field.join := 1, field.id := u16 img 0, field.dev := u8 img 2, field.reason := 0,
           field.roster := [], field.gone := [], field.rx := [] }

/-- 0105h FIELD_JOIN (R70, R385). A Conflict is left with another device ID only. -/
def actFieldJoin (c : Call) (_ : Nat) (s : State) : Work :=
  let img := fit 48 c.params
  if s.field.join = 1 || s.field.join = 2 then
    if s.field.id = u16 img 0 then
      let s := { s with field.settings := patch s.field.settings 6 (sub img 6 10) }
      { inline := joinResult s, st := s }
    else { status := .notPermitted, st := s }
  else if s.field.join = 3 && s.field.dev = u8 img 2 then { status := .notPermitted, st := s }
  else { long := some .fieldJoin, st := startJoin img (keepRejoin c s) }

def cmdFieldJoin : Cmd := {
  opcode := 0x0105, scope := .field
  check := fun c _ => need (joinParamsOk c)
  act := actFieldJoin }

/-- 0105h FIELD_JOIN. -/
def execFieldJoin (c : Call) (s : State) : Result := .next (serve cmdFieldJoin c s)

/-- A sub-walk awaited from device `d` ends as one entry with ST_REMOTE_UNREACHABLE; with no device given, all do.
`unknown` sets the outcome-unknown flag (R55). -/
def failAwait (d : Option Nat) (unknown : Bool) (o : Op) : Op :=
  match o.body with
  | .walk w => match w.await with
    | some (dev, ref) =>
      if d = none || d = some dev then
        { o with body := .walk (addEntry { plot := ref, status := .remoteUnreachable, unknown }
            { w with await := none, given := .remoteUnreachable, seen := (ref, .remoteUnreachable) :: w.seen }) }
      else o
    | none => o
  | _ => o

/-- A device plot's entry joins the walk. -/
def memberEntry (d : Nat) (st : Status) (skip : Bool) (w : Walk) : Walk :=
  addEntry { plot := mkRef 2 0 d 0, status := st, notApplied := skip } w

/-- A member that an atomic command waits for is another device now: its Ready will not come, nor its Commit done (R65, R73). -/
def failMember (d : Nat) (s : State) (o : Op) : Op :=
  let awaits (n : Nat) : Bool :=
    s.stw.decisions.any (fun x => x.1.kind == n && sameToken x.1 (tokenMsg 0 o.call o.from_ s) && x.2.contains d)
  match o.body with
  | .atomicReady w => if w.members.contains d then { o with body := .atomicReady (memberEntry d .remoteUnreachable true w) } else o
  | .atomicFlip w => if awaits 2 then { o with body := .atomicFlip (memberEntry d .remoteUnreachable true w) } else o
  | .atomicDone w => if awaits 2 then { o with body := .atomicDone (memberEntry d .remoteUnreachable true w) } else o
  | _ => o

/-- An atomic command spanning several members is staging here (R386). -/
def atomicAcross (s : State) : Bool :=
  s.stw.staged.isSome || s.stw.ops.any (fun o => o.call.atomic && !o.call.staged && match o.body with
    | .walk w | .atomicFlip w | .atomicReady w => !w.members.isEmpty || w.await.isSome
    | _ => false)

end Sys2Proof.Machine
end

