-- ==== Sys2Proof/Machine/Rows.lean ====
section
/-! DEFINITION. Row commands: 0201h to 0205h (R35, R38, R39, R75, R101, R388 to R391). -/

namespace Sys2Proof.Machine

/-- Directions an endpoint kind allows (R35). -/
def directionOk (kind dir : Nat) : Bool :=
  within 1 dir 3 && (kind != 8 || dir == 1) && (kind != 9 || dir == 2)

/-- Instances of an endpoint kind (R388). -/
def instanceOk (kind i : Nat) : Bool :=
  match kind with
  | 1 | 2 | 6 => decide (i < 16)
  | 3 => decide (i < 4)
  | 4 => decide (i < 2)
  | 5 => decide (i < 10)
  | 7 => decide (i < 8)
  | _ => decide (i < 64)

/-- Ranges of ROW_BIND (R388). Kind 0 ignores every other field, not the reserved bytes (R12). -/
def bindParamsOk (c : Call) : Bool :=
  let p := c.params
  onlyBytes c [(0, 3), (4, 24)] && (u8 p 0 == 0 || (decide (u8 p 0 ≤ 9) && directionOk (u8 p 0) (u8 p 1) &&
    instanceOk (u8 p 0) (u8 p 2) &&
    (u8 p 0 != 8 || (fld p 4 9 6 == 0 && fld p 4 16 48 == 0)) &&
    fld p 12 4 4 == 0 && decide (u8 p 13 ≤ 2) && fld p 14 10 6 == 0 && fld p 16 10 5 == 0 &&
    (within 1 (u16 p 18) 60000 || u16 p 18 == 0xFFFF) &&
    withinI (-2000) (sle p 20 4) 2000 && withinI (-2000) (sle p 24 4) 2000))

/-- Two bindings claim the same part of one endpoint (R35). -/
def sameEndpoint (a b : Img) : Bool :=
  let overlap := (isTalker a && isTalker b) || (isListener a && isListener b)
  u8 a 0 == u8 b 0 && u8 a 2 == u8 b 2 &&
    match u8 a 0 with
    | 5 => overlap && u64 a 4 == u64 b 4
    | 7 | 9 => true
    | 8 => fld a 4 15 1 == fld b 4 15 1 && (flag a 5 7 || fld a 4 0 9 == fld b 4 0 9)
    | _ => overlap

/-- The host ring of a binding exists and is not a bulk ring (R388, R448). -/
def ringReady (i : Img) (s : State) : Bool :=
  let ok (n : Nat) : Bool := match tget n s.rings with
    | some r => !(decide (16 ≤ n) && flag r.create 1 0)
    | none => false
  (!isListener i || ok (u8 i 2)) && (!isTalker i || ok (16 + u8 i 2))

/-- 0201h ROW_BIND on a bank (R38, R388). -/
def stageRowBind (c : Call) (r : Nat) (s : State) (b : Bank) : Status × Bank :=
  let i := imageOf c
  if b.enabled.contains r then (.busy, b)
  else if u8 i 0 = 0 then (.ok, { b with bind := tdel r b.bind })
  else if b.bind.any (fun e => e.1 != r && sameEndpoint i e.2) then (.busy, b)
  else if within 1 (u8 i 0) 4 && !assigned b.pins (u8 i 0 - 1) (u8 i 2) then (.notPermitted, b)
  else if u8 i 0 == 6 && !ringReady i s then (.notPermitted, b)
  else (.ok, { b with bind := tset r (fit 48 i) b.bind })

/-- An unbound row reads its defaults (R380). -/
def readBind (_ : Call) (r : Nat) (s : State) : Option Bytes := some (fit 48 (bindOf r s))

def cmdRowBind : Cmd := {
  opcode := 0x0201, scope := .singleRow, bank := true
  check := fun c _ => need (bindParamsOk c)
  act := directAct stageRowBind (fun _ _ _ => []) (fun _ _ _ s => s)
  stage := stageRowBind
  read := some readBind }

/-- 0201h ROW_BIND. -/
def execRowBind (c : Call) (s : State) : Result := .next (serve cmdRowBind c s)

def bankBound (r : Nat) (b : Bank) : Bool := u8 (tgetD r [] b.bind) 0 != 0

/-- 0202h ROW_ENABLE on a bank (R389). -/
def stageRowEnable (_ : Call) (r : Nat) (_ : State) (b : Bank) : Status × Bank :=
  if bankBound r b then (.ok, { b with enabled := insertNat r b.enabled }) else (.notPermitted, b)

/-- Enabling a Disabled row in the standing bank starts its controller (R248, R389). -/
def actRowEnable (_ : Call) (r : Nat) (s : State) : Work :=
  if !bound r s then { status := .notPermitted, st := s }
  else if s.bank.enabled.contains r then { st := s }
  else { st := enableRow r s }

def cmdRowEnable : Cmd := {
  opcode := 0x0202, scope := .row, bank := true
  check := fun c _ => need (onlyBytes c [])
  act := actRowEnable
  stage := stageRowEnable }

/-- 0202h ROW_ENABLE. -/
def execRowEnable (c : Call) (s : State) : Result := .next (serve cmdRowEnable c s)

/-- 0203h ROW_DISABLE on a bank (R389). -/
def stageRowDisable (_ : Call) (r : Nat) (_ : State) (b : Bank) : Status × Bank :=
  if bankBound r b then (.ok, { b with enabled := b.enabled.filter (· != r) }) else (.notPermitted, b)

/-- Disabling an Enabled row acts under R39. -/
def actRowDisable (_ : Call) (r : Nat) (s : State) : Work :=
  if !bound r s then { status := .notPermitted, st := s }
  else if !s.bank.enabled.contains r then { st := s }
  else { st := disableRow r s }

def cmdRowDisable : Cmd := {
  opcode := 0x0203, scope := .row, bank := true
  check := fun c _ => need (onlyBytes c [])
  act := actRowDisable
  stage := stageRowDisable }

/-- 0203h ROW_DISABLE. -/
def execRowDisable (c : Call) (s : State) : Result := .next (serve cmdRowDisable c s)

/-- Copies waiting in a row's queues. -/
def queued (r : Nat) (s : State) : Nat := (tgetD r [] s.drill.rows).length

/-- The 32 counters of R390 as 8-byte values. -/
def counterBytes (n : Nat) (t : Tbl Nat) : Bytes := ((List.range n).map (fun i => le 8 (tgetD i 0 t))).flatten

/-- 0204h ROW_STATS (R390). -/
def actRowStats (c : Call) (r : Nat) (s : State) : Work :=
  let v := rowRt r s
  let inl := fit 8 (le 1 (rowState r s)) ++ le 8 v.lastRx ++ le 8 v.lastTx ++ le 4 (queued r s) ++ le 4 v.high
  { inline := inl, bulk := counterBytes 32 v.counters,
    st := if flag c.params 0 0 then s else setRowRt r { v with counters := [], high := queued r s } s }

def cmdRowStats : Cmd := {
  opcode := 0x0204, scope := .row, status := true, sums := 8
  agg := fun _ => [(0, 1, .state), (8, 8, .maxU), (16, 8, .maxU), (24, 4, .capacity), (28, 4, .maxU)]
  check := fun c _ => need (onlyBytes c [(0, 1)] && fld c.params 0 1 7 == 0)
  act := actRowStats }

/-- 0204h ROW_STATS. -/
def execRowStats (c : Call) (s : State) : Result := .next (serve cmdRowStats c s)

/-- The framing a UART row has until one is set: IEC 61162-1, absent flag, bad drop, 256 bytes, 20 characters
(R86, R88 to R90, R93); user bytes of R101. DESIGN CHOICE (log 145): the spec names no default framing. -/
def defaultFraming : Img :=
  fit 48 (le 1 0 ++ le 1 (1 + 4) ++ le 2 256 ++ le 2 20)

def framingOf (r : Nat) (s : State) : Img := tgetD r defaultFraming s.bank.framing

/-- Ranges of ROW_FRAMING_SET (R88, R89, R101, R391). -/
def framingParamsOk (c : Call) : Bool :=
  let p := c.params
  let gap := u16 p 4 == 0 || within 2 (u16 p 4) 1000
  if u8 p 0 = 0 then
    onlyBytes c [(0, 6)] && decide (fld p 1 0 2 ≤ 2) && fld p 1 5 3 == 0 && within 8 (u16 p 2) 2080 && gap
  else
    onlyBytes c [(0, 15), (16, 8)] && u8 p 0 == 1 && u8 p 1 == 0 && within 1 (u16 p 2) 2080 && gap &&
    decide (fld p 6 4 2 ≤ 2) && fld p 6 6 2 == 0 && withinI (-16) (sle p 12 1) 16 && within 2 (u8 p 13) 64 &&
    decide (u8 p 14 ≤ 8) && (flag p 6 0 || fld p 6 2 2 == 3)

/-- Only the checksum policies and the gap limit may differ while the row is Enabled (R75). DESIGN CHOICE (log 117): the talker mask
and the bare-LF option, which R75 names in neither group, may not. -/
def framingMayChange (old new : Img) : Bool :=
  let mask (i : Img) : Img := patch (patch i 1 [byte (u8 i 1 / 8 * 8)]) 4 [0, 0]
  mask (fit 48 old) == mask (fit 48 new)

/-- 0205h ROW_FRAMING_SET on a bank (R75, R391). -/
def stageFraming (c : Call) (r : Nat) (_ : State) (b : Bank) : Status × Bank :=
  let i := imageOf c
  let bi := tgetD r [] b.bind
  if !(u8 bi 0 = 2 ∧ isTalker bi) then (.badParam, b)
  else if b.enabled.contains r && !framingMayChange (tgetD r defaultFraming b.framing) i then (.busy, b)
  else (.ok, { b with framing := tset r (fit 48 i) b.framing })

def cmdRowFramingSet : Cmd := {
  opcode := 0x0205, scope := .row, bank := true
  check := fun c _ => need (framingParamsOk c)
  act := directAct stageFraming (fun _ _ _ => []) (fun _ _ _ s => s)
  stage := stageFraming
  read := some (fun _ r s => if u8 (bindOf r s) 0 = 2 then some (fit 48 (framingOf r s)) else none) }

/-- 0205h ROW_FRAMING_SET. -/
def execRowFramingSet (c : Call) (s : State) : Result := .next (serve cmdRowFramingSet c s)

end Sys2Proof.Machine
end

