-- ==== Sys2Proof/Machine/Semaphores.lean ====
section
/-! DEFINITION. What the Stile shares with the rest of the part: its error log, semaphores and guarded ranges (R329, R465, R481 to
R486). -/

namespace Sys2Proof.Machine

/-! ### Requesters (R329) -/

/-- OWNER_KIND and OWNER_ID of a requester. -/
def reqKind : Requester → Nat
  | .pcie _ => 0 | .xspi => 1 | .firmware => 2 | .member _ => 3

def reqId : Requester → Nat
  | .pcie i => i % 65536 | .member d => d | _ => 0

/-- The requester a kind and ID name. -/
def requesterOf (kind id : Nat) : Requester :=
  match kind with
  | 0 => .pcie id | 1 => .xspi | 2 => .firmware | _ => .member id

/-! ### The error log (R484 to R486) -/

/-- Lowest free entry of the log. -/
def freeEntry (s : State) : Option Nat := firstBelow 16 (fun i => (tget i s.stile.errlog).isNone)

/-- Log an error; a full log loses it and sets LOG_OVERFLOW. Every error takes a SEQ value. Beside the state, the entry. -/
def logError (e : ErrEntry) (s : State) : Option Nat × State :=
  let e := { e with seq := s.stile.errSeq, time := stampOf (nowNs s), reqId := e.reqId % 65536 }
  let s := { s with stile.errSeq := (s.stile.errSeq + 1) % 4294967296 }
  match freeEntry s with
  | none => (none, { s with stile.logOverflow := true })
  | some i =>
    let s := { s with stile.errlog := tset i e s.stile.errlog }
    (some i, if s.stile.errlog.length = 16 then raise 11 noObject s else s)

/-- Log an error and raise event 8 or 9 with its entry as the object. -/
def logRaise (event : Nat) (e : ErrEntry) (s : State) : State :=
  let r := logError e s
  raise event (r.1.getD noObject) r.2

/-- An entry without its transport fields. -/
def errEntry (r : Requester) (kind region tkind inst addr len : Nat) (write nonPosted unknown : Bool) : ErrEntry :=
  { addr, region, kindOfTarget := tkind, instance_ := inst, kind, write, nonPosted, unknown, reqId := reqId r, reqKind := reqKind r,
    txn := 0, epoch := 0, transport := false, length := len, seq := 0, time := 0 }

/-! ### Regions (R465) -/

def regionOf (g : Nat) (s : State) : Region := tgetD g {} s.stile.regions
def rBase (r : Region) : Nat := r.base.toNat
def rSize (r : Region) : Nat := r.size.toNat
def rTarget (r : Region) : Nat := r.target.toNat
def rBit (r : Region) (n : Nat) : Bool := r.ctrl.getLsbD n
def rEnabled (r : Region) : Bool := rBit r 0
def rKind (r : Region) : Nat := r.ctrl.toNat / 2 % 8
def rInst (r : Region) : Nat := r.ctrl.toNat / 16 % 64
def rPosted (r : Region) : Bool := rBit r 10
def rPrefetch (r : Region) : Bool := rBit r 11
def rSideEffect (r : Region) : Bool := rBit r 12
def rRemoteOk (r : Region) : Bool := rBit r 13
def rSem (r : Region) : Nat := r.ctrl.toNat / 65536 % 32
def rGuard (r : Region) : Bool := rBit r 21

/-- The enabled region that decodes a window offset. -/
def regionAt (off : Nat) (s : State) : Option Nat :=
  firstBelow 16 (fun g => rEnabled (regionOf g s) && decide (rBase (regionOf g s) ≤ off ∧ off < rBase (regionOf g s) + rSize (regionOf g s)))

/-! ### Semaphores (R481 to R483) -/

/-- SEM_TAKE: 1 when this read took a free semaphore. -/
def semTake (r : Requester) (n : Nat) (s : State) : Nat × State :=
  match tget n s.stile.sems with
  | some _ => (0, s)
  | none => (1, { s with stile.sems := tset n r s.stile.sems })

/-- Window offset under which a give is logged. -/
def giveAddr (n : Nat) : Nat := 0x3FFF080 + 4 * n

/-- GIVE: the owner frees the semaphore; anyone else is logged. -/
def semGive (r : Requester) (n : Nat) (s : State) : State :=
  if tget n s.stile.sems = some r then raise 10 n { s with stile.sems := tdel n s.stile.sems }
  else (logError (errEntry r 5 15 0 0 (giveAddr n) 4 false false false) s).2

/-- Free every semaphore of some owners (R483). -/
def freeSems (own : Requester → Bool) (s : State) : State :=
  (s.stile.sems.filter (fun e => own e.2)).foldl (fun s e => raise 10 e.1 { s with stile.sems := tdel e.1 s.stile.sems }) s

/-! ### Kept data (R480) -/

/-- Kept data of the regions `hit` go, and reads in flight there keep nothing. -/
def dropKeptOf (hit : Nat → Bool) (s : State) : State :=
  { s with stile.prefetch := s.stile.prefetch.filter (fun e => !hit e.1)
           stile.far := s.stile.far.map (fun a => if hit a.region then { a with noKeep := true } else a) }

/-- A write by any initiator discards the kept data of every region on those addresses. -/
def dropKept (kind k addr len : Nat) (s : State) : State :=
  dropKeptOf (fun n =>
    let g := regionOf n s
    rKind g == kind && rInst g == k && decide (addr < rTarget g + rSize g ∧ rTarget g < addr + len)) s

def isPcie : Requester → Bool
  | .pcie _ => true
  | _ => false

/-- A held semaphore guards these far addresses against a requester (R482). -/
def guarded (r : Requester) (kind inst addr len : Nat) (s : State) : Bool :=
  s.stile.regions.any (fun e =>
    let g := e.2
    rEnabled g && rGuard g && rKind g == kind && (kind == 4 || kind == 5 || rInst g == inst) &&
    decide (addr < rTarget g + rSize g ∧ rTarget g < addr + len) &&
    (match tget (rSem g) s.stile.sems with
      | some o => o != r
      | none => false))

end Sys2Proof.Machine
end

