-- ==== Sys2Proof/Machine/FieldCmds.lean ====
section
/-! DEFINITION. Field-bus and pin commands: 0C01h to 0C06h (R246, R247, R249 to R253, R260, R261, R266, R270, R273,
R274, R442 to R447). -/

namespace Sys2Proof.Machine

/-- A command that writes a register file: guarded, it returns ST_BUSY and writes a log entry (R482); performed, it discards what the
Stile kept of the file (R480). -/
def guardAct (kind : Nat) (inst : Call → Nat) (act : Call → Nat → State → Work) (c : Call) (t : Nat) (s : State) : Work :=
  if guarded .firmware kind (inst c) 0 4096 s then
    { status := .busy, st := (logError (errEntry .firmware 3 15 kind (inst c) 0 48 true false false) s).2 }
  else
    let w := act c t s
    if w.status = .ok then { w with st := dropKept kind (inst c) 0 4096 w.st } else w

/-- Controller named at parameter offset 0. -/
def ctlParam (c : Call) : Nat := u8 c.params 0

/-! ### Pins -/

/-- Levels-only flag of FIELD_PIN_ASSIGN. -/
def levelsOnly (c : Call) : Bool := flag c.params 45 0

/-- The assignment a command asks for, on top of the present one. -/
def newPins (c : Call) (old : Img) : Img :=
  if levelsOnly c then patch (fit 88 old) 40 (sub c.params 40 5)
  else fit 40 c.params ++ sub c.params 40 5 ++ fit 3 [] ++ fit 40 c.bulk

/-- A controller whose pins differ between two assignments. -/
def ctlPinsDiffer (a b : Img) (kind inst : Nat) : Bool :=
  (List.range 40).any (fun p => u8 a p != u8 b p &&
    ([pinRole p (u8 a p), pinRole p (u8 b p)].any (fun r => match r with
      | some (k, i, _) => k == kind && i == inst
      | none => false)))

/-- Some controller with an Enabled row would lose or change a pin (R246). -/
def pinsInUse (b : Bank) (new : Img) : Bool :=
  [(0, 16), (1, 16), (2, 4), (3, 2)].any (fun e =>
    (List.range e.2).any (fun i => ctlEnabled b e.1 i && ctlPinsDiffer (fit 40 b.pins) new e.1 i))

/-- 0C01h FIELD_PIN_ASSIGN on a bank (R246, R442). -/
def stagePins (c : Call) (_ : Nat) (s : State) (b : Bank) : Status × Bank :=
  let new := newPins c b.pins
  if levelsOnly c then (.ok, { b with pins := new })
  else if !legalMix new s.power.wake then (.badParam, b)
  else if pinsInUse b new then (.busy, b)
  else (.ok, { b with pins := new })

/-- Defaults of R260. -/
def defaultUart (k : Nat) : Img :=
  fit 48 (le 1 k ++ le 1 0 ++ le 1 0 ++ le 1 0 ++ le 4 9600 ++ le 2 16 ++ le 2 16 ++ le 1 1 ++ le 1 0)

def uartCfg (k : Nat) (b : Bank) : Img := tgetD k (defaultUart k) b.uart

/-- Divisor in sixteenths, rounded to the nearest (R261). -/
def uartDiv (baud : Nat) : Nat := (2 * 192000000 + baud) / (2 * baud)

/-- Nanoseconds in `n` sixteenths of a bit of a UART at its rate in force. -/
def uartSixteenths (k n : Nat) (b : Bank) : Nat := n * uartDiv (u32 (uartCfg k b) 4) * 125 / 384

/-- A character time of a UART in ns: start, data, parity and stop bits. -/
def uartCharNs (k : Nat) (b : Bank) : Nat :=
  let i := uartCfg k b
  uartSixteenths k (16 * (1 + (if flag i 1 0 then 7 else 8) + (if fld i 1 1 3 = 0 then 0 else 1) + (if flag i 1 4 then 2 else 1))) b

/-- A DE pin is assigned to a UART. -/
def usesDe (k : Nat) (b : Bank) : Bool := hasRole b.pins 1 k 2

/-- The DE lag, during which the wire counts as busy (R264). -/
def uartLag (k : Nat) (b : Bank) : Nat := if usesDe k b then uartSixteenths k (u16 (uartCfg k b) 10) b else 0

/-- Line mode RS-485. -/
def rs485 (k : Nat) (b : Bank) : Bool := fld (uartCfg k b) 1 5 2 == 2

/-- DE is asserted: from its rise with a sentence to the DE lag after the last stop bit (R264). -/
def deOn (k : Nat) (s : State) : Bool :=
  let v := uartRt k s
  v.de && (v.sending || (match v.lastTx with
    | some t => decide (nowNs s < t + uartLag k s.bank)
    | none => false))

/-- DE is active low in a UART's settings (R260). -/
def deActiveLow (b : Bank) (k : Nat) : Bool := flag (tgetD k [] b.uart) 1 7

/-- PPS_OUT is high (R178). -/
def ppsHigh (s : State) : Bool :=
  match s.alm.ppsUntil with
  | some t => decide (s.power.upNs < t)
  | none => false

/-- The level an output takes at once when assigned (R247); other pins keep what they have. -/
def pinLevel (s : State) (p : Nat) : Bool :=
  let img := s.bank.pins
  match u8 img p with
  | 0 | 1 | 3 => false
  | 2 => mapBit img 40 p
  | 4 => s.buses.pins.toggles.getLsbD p || decide (s.power.upNs < tgetD p 0 s.buses.pins.pulses)
  | 5 => ppsHigh s
  | code => match pinRole p code with
    | some (1, k, 2) => deActiveLow s.bank k != deOn k s
    | some (0, _, 0) | some (1, _, 0) | some (2, _, 0) => true
    | _ => false

/-- Drive every output pin to its level. -/
def drivePins (s : State) : State :=
  { s with buses.pins.outputs := BitVec.ofNat 40 (ofBits ((List.range 40).map (pinLevel s))) }

/-- With nothing waiting a cycle of the clock passes; a DE lag or a pulse that ends with it leaves its pin (R264, R273). -/
def idle (s : State) : State := drivePins (tick s)

def cmdFieldPinAssign : Cmd := {
  opcode := 0x0C01, scope := .device, bank := true
  check := fun c _ => need (onlyBytes c [(0, 46)] && fld c.params 45 1 7 == 0 && (c.bulk.isEmpty || decide (40 ≤ c.bulk.length)) &&
    c.bulk.all (fun x => decide (x.toNat % 4 ≤ 2 ∧ x.toNat / 8 % 4 ≤ 2 ∧ x.toNat < 32)))
  act := guardAct 4 (fun _ => 0) (directAct stagePins (fun _ _ _ => []) (fun _ _ _ s => drivePins s))
  stage := stagePins
  read := some (fun _ _ s => some (fit 88 s.bank.pins)) }

/-- 0C01h FIELD_PIN_ASSIGN. -/
def execFieldPinAssign (c : Call) (s : State) : Result := .next (serve cmdFieldPinAssign c s)

/-! ### CAN -/

/-- Defaults of R249 to R253, R258: classical, normal, compensation and XL error signalling on, 500 kbit/s, 2 Mbit/s,
automatic recovery, unlimited retries. -/
def defaultCan (k : Nat) : Img :=
  fit 48 (le 1 k ++ le 1 0x30 ++ le 1 2 ++ le 1 2 ++ le 2 127 ++ le 1 32 ++ le 1 32 ++ le 1 29 ++ le 1 10 ++ le 1 10 ++
    le 1 30 ++ fit 6 [] ++ le 1 0 ++ le 1 0xFF ++ le 2 0 ++ le 1 0)

/-- Settings as last accepted (R468). -/
def canRaw (k : Nat) (b : Bank) : Img := tgetD k (defaultCan k) b.can

/-- Settings in force: the recover bit is an action, not a setting (R380). -/
def canCfg (k : Nat) (b : Bank) : Img := let i := canRaw k b; patch i 1 [byte (u8 i 1 % 128)]

/-- Kernel clocks per nominal and per data bit (R250). -/
def nominalDiv (i : Img) : Nat := u8 i 2 * (1 + u16 i 4 + u8 i 6)
def dataDiv (i : Img) : Nat := u8 i 3 * (1 + u8 i 8 + u8 i 9)

/-- Bit rates in bit/s from the 160 MHz kernel clock. -/
def nominalRate (i : Img) : Nat := 160000000 / nominalDiv i
def dataRate (i : Img) : Nat := 160000000 / dataDiv i

/-- Ranges of CAN_CONFIG (R249 to R253, R258, R443). -/
def canParamsOk (c : Call) : Bool :=
  let p := c.params
  let mode := fld p 1 0 2
  onlyBytes c [(0, 23)] && decide (u8 p 0 < 16) && decide (mode ≤ 2) && decide (fld p 1 2 2 ≤ 2) &&
  !(flag p 1 5 && flag p 1 6) &&
  within 1 (u8 p 2) 32 && within 1 (u8 p 3) 32 && within 2 (u16 p 4) 256 && within 1 (u8 p 6) 128 &&
  within 1 (u8 p 7) (u8 p 6) && within 1 (u8 p 8) 64 && within 1 (u8 p 9) 32 && within 1 (u8 p 10) (u8 p 9) &&
  decide (u8 p 11 ≤ 127) &&
  within (160 * 1) (nominalDiv p) 16000 &&
  (mode == 0 || decide (20 ≤ dataDiv p) || (mode == 2 && decide (8 ≤ dataDiv p))) &&
  fld p 18 1 7 == 0 && (decide (u8 p 19 ≤ 15) || u8 p 19 == 255) && decide (u16 p 20 ≤ 10000) && decide (u8 p 22 ≤ 60)

/-- The recover option for a controller that is not held: it changes nothing (R253). -/
def idleRecover (c : Call) (s : State) : Bool := flag c.params 1 7 && (canRt (u8 c.params 0) s).state != 4

/-- 0C02h CAN_CONFIG on a bank (R248, R253, R443). The image is kept as accepted, recover bit included (R468). -/
def stageCan (c : Call) (_ : Nat) (s : State) (b : Bank) : Status × Bank :=
  let k := u8 c.params 0
  let old := canCfg k b
  let b' := { b with can := tset k (fit 48 c.params) b.can }
  if idleRecover c s then (.ok, b)
  else if ctlEnabled b 0 k && fit 18 (canCfg k b') != fit 18 old then (.busy, b)
  else (.ok, b')

/-- Recovery starts for a controller held in bus-off (R253). -/
def canRecover (k : Nat) (s : State) : State := if (canRt k s).state = 4 then canState k 3 s else s

/-- Bit rates in force in a bank. -/
def ratesIn (k : Nat) (b : Bank) : Bytes := le 4 (nominalRate (canCfg k b)) ++ le 4 (dataRate (canCfg k b))

def canRates (c : Call) (_ : Nat) (s : State) : Bytes := ratesIn (u8 c.params 0) s.bank

/-- Settings written end a switch to Manual; the recover option acts (R253). -/
def afterCan (c : Call) (_ : Nat) (old s : State) : State :=
  let k := u8 c.params 0
  if idleRecover c old then s
  else
    let s := setCan k { canRt k s with forcedManual := false } s
    if flag c.params 1 7 then canRecover k s else s

/-- Staged, the recover option acts at the flip. -/
def canMarks (c : Call) (s : State) : List (Nat × Nat) := if flag c.params 1 7 && !idleRecover c s then [(2, u8 c.params 0)] else []

def readCan (c : Call) (_ : Nat) (s : State) : Option Bytes :=
  if u8 c.params 0 < 16 then some (canCfg (u8 c.params 0) s.bank) else none

def cmdCanConfig : Cmd := {
  opcode := 0x0C02, scope := .device, bank := true
  check := fun c _ => need (canParamsOk c && !flag c.params 1 7)
  act := guardAct 0 ctlParam (directAct stageCan canRates afterCan)
  stage := stageCan
  staged := fun c _ _ _ b => ratesIn (u8 c.params 0) b
  marks := canMarks
  read := some readCan }

/-- 0C02h CAN_CONFIG. -/
def execCanConfig (c : Call) (s : State) : Result := .next (serve cmdCanConfig c s)

def cmdCanRecover : Cmd := {
  opcode := 0x0C02, scope := .device, bank := true
  check := fun c _ => need (canParamsOk c && flag c.params 1 7)
  act := guardAct 0 ctlParam (directAct stageCan canRates afterCan)
  stage := stageCan
  staged := fun c _ _ _ b => ratesIn (u8 c.params 0) b
  marks := canMarks
  read := some readCan }

/-- 0C02h with the recover bit. -/
def execCanRecover (c : Call) (s : State) : Result := .next (serve cmdCanRecover c s)

/-! ### UART -/

/-- The rate in force is within 1.0 % of the one asked for. -/
def uartRateOk (baud : Nat) : Bool :=
  let d := uartDiv baud
  decide (((192000000 : Int) - baud * d).natAbs * 100 ≤ baud * d)

/-- Rate in force in hundredths of a baud, to the nearest (R444). -/
def uartRate100 (baud : Nat) : Nat := (2 * 19200000000 + uartDiv baud) / (2 * uartDiv baud)

/-- Ranges of UART_CONFIG (R260, R444). -/
def uartParamsOk (c : Call) : Bool :=
  let p := c.params
  onlyBytes c [(0, 3), (4, 10)] && decide (u8 p 0 < 16) && decide (fld p 1 1 3 ≤ 4) && decide (fld p 1 5 2 ≤ 2) &&
  fld p 2 1 7 == 0 && within 300 (u32 p 4) 12000000 && decide (u16 p 8 ≤ 256) && decide (u16 p 10 ≤ 256) &&
  decide (u8 p 12 ≤ 64) && uartRateOk (u32 p 4)

/-- 0C03h UART_CONFIG on a bank (R248). -/
def stageUart (c : Call) (_ : Nat) (_ : State) (b : Bank) : Status × Bank :=
  let k := u8 c.params 0
  let new := fit 48 c.params
  if ctlEnabled b 1 k && new != uartCfg k b then (.busy, b) else (.ok, { b with uart := tset k new b.uart })

def uartResult (c : Call) (_ : Nat) (_ : State) : Bytes :=
  le 4 (uartDiv (u32 c.params 4)) ++ le 4 (uartRate100 (u32 c.params 4))

def cmdUartConfig : Cmd := {
  opcode := 0x0C03, scope := .device, bank := true
  check := fun c _ => need (uartParamsOk c)
  act := guardAct 1 ctlParam (directAct stageUart uartResult (fun _ _ _ s => drivePins s))
  stage := stageUart
  staged := fun c t s _ _ => uartResult c t s
  read := some (fun c _ s => if u8 c.params 0 < 16 then some (uartCfg (u8 c.params 0) s.bank) else none) }

/-- 0C03h UART_CONFIG. -/
def execUartConfig (c : Call) (s : State) : Result := .next (serve cmdUartConfig c s)

/-! ### LIN -/

/-- Defaults of R266. -/
def defaultLin (k : Nat) : Img := fit 48 (le 1 k ++ le 1 0 ++ le 2 19200 ++ le 1 13 ++ le 1 11 ++ le 1 14 ++ le 1 0 ++ le 8 0)

def linCfg (k : Nat) (b : Bank) : Img := tgetD k (defaultLin k) b.lin

/-- Slots of a schedule table up to a slot time of zero. -/
def tableOf : Nat → Bytes → Bytes
  | 0, _ => []
  | n + 1, b => if u8 b 1 = 0 then [] else sub b 0 2 ++ tableOf n (b.drop 2)

/-- A schedule table: up to 64 slots of IDs 0 to 63, then nothing or a slot time of zero (R266, R445). -/
def tableOk (b : Bytes) : Bool :=
  let t := tableOf 65 b
  decide (t.length ≤ 128) && (List.range (t.length / 2)).all (fun i => decide (u8 t (2 * i) < 64))

def scheduleOnly (c : Call) : Bool := flag c.params 1 2

/-- Ranges of LIN_CONFIG (R266, R445). -/
def linParamsOk (c : Call) : Bool :=
  let p := c.params
  decide (u8 p 0 < 4) && tableOk c.bulk && onlyBytes c [(0, 7), (8, 8)] && fld p 1 3 5 == 0 &&
  (scheduleOnly c || (within 1000 (u16 p 2) 20000 && within 13 (u8 p 4) 26 && within 10 (u8 p 5) 13 && within 10 (u8 p 6) 20))

/-- The settings a LIN_CONFIG stores: 48 bytes, then the schedule table. -/
def linImage (c : Call) (old : Img) : Img :=
  (if scheduleOnly c then fit 48 old else fit 48 c.params) ++ tableOf 64 c.bulk

/-- 0C04h LIN_CONFIG on a bank (R248, R266). -/
def stageLin (c : Call) (_ : Nat) (_ : State) (b : Bank) : Status × Bank :=
  let k := u8 c.params 0
  let new := linImage c (linCfg k b)
  if ctlEnabled b 2 k && fit 48 new != fit 48 (linCfg k b) then (.busy, b)
  else (.ok, { b with lin := tset k new b.lin })

/-- While the row is Enabled the old table runs to the end of its cycle (R266); with its last slot begun, the cycle ends with that slot. -/
def afterLin (c : Call) (_ : Nat) (old s : State) : State :=
  let k := u8 c.params 0
  if ctlEnabled s.bank 2 k && (linRt k s).slot != 0 then
    setLin k { linRt k s with running := some ((linRt k s).running.getD ((linCfg k old.bank).drop 48)) } s
  else setLin k { linRt k s with running := none, slot := 0 } s

def cmdLinConfig : Cmd := {
  opcode := 0x0C04, scope := .device, bank := true
  check := fun c _ => need (linParamsOk c)
  act := guardAct 2 ctlParam (directAct stageLin (fun _ _ _ => []) afterLin)
  stage := stageLin
  read := some (fun c _ s => if u8 c.params 0 < 4 then some (linCfg (u8 c.params 0) s.bank) else none) }

/-- 0C04h LIN_CONFIG. -/
def execLinConfig (c : Call) (s : State) : Result := .next (serve cmdLinConfig c s)

/-! ### MVB -/

/-- Defaults of R271, R272: line timeout 100 ms, freshness limit off, no port entries. -/
def defaultMvb (k : Nat) : Img := fit 48 (le 1 k ++ le 1 0 ++ le 2 0 ++ le 2 100 ++ le 2 0)

/-- Settings as last accepted (R468). -/
def mvbRaw (k : Nat) (b : Bank) : Img := tgetD k (defaultMvb k) b.mvb

/-- Settings in force: byte 1, whether entries were replaced or added, is an action (R380). -/
def mvbCfg (k : Nat) (b : Bank) : Img := patch (mvbRaw k b) 1 [0]

/-- 4-byte port entries after the 48 bytes. -/
def mvbEntries (i : Img) : List Bytes := (List.range ((i.length - 48) / 4)).map (fun j => sub i (48 + 4 * j) 4)

def entryPort (e : Bytes) : Nat := fld e 0 0 12
def entrySource (e : Bytes) : Bool := flag e 1 4
def entryFcode (e : Bytes) : Nat := fld e 0 13 3

/-- Data bytes of an F-code (R270). -/
def fcodeLen (f : Nat) : Nat := 2 ^ (f + 1)

/-- The entry of a port. -/
def mvbEntry (i : Img) (port : Nat) : Option Bytes := (mvbEntries i).find? (fun e => entryPort e == port)

def callEntries (c : Call) : List Bytes := (List.range (c.bulk.length / 4)).map (fun j => sub c.bulk (4 * j) 4)

def noRepeat (l : List Nat) : Bool := decide l.Nodup

/-- Ranges of MVB_CONFIG (R270 to R272, R446). -/
def mvbParamsOk (c : Call) : Bool :=
  let p := c.params
  onlyBytes c [(0, 8)] && decide (u8 p 0 < 2) && decide (u8 p 1 ≤ 1) && fld p 2 12 4 == 0 &&
  within 10 (u16 p 4) 10000 && (u16 p 6 == 0 || within 10 (u16 p 6) 10000) &&
  (callEntries c).all (fun e => decide (entryFcode e ≤ 4) && fld e 2 1 7 == 0 && u8 e 3 == 0)

/-- 0C05h MVB_CONFIG on a bank (R270, R446). -/
def stageMvb (c : Call) (_ : Nat) (_ : State) (b : Bank) : Status × Bank :=
  let k := u8 c.params 0
  let old := mvbCfg k b
  let es := if u8 c.params 1 = 1 then mvbEntries old ++ callEntries c else callEntries c
  let new := fit 48 c.params ++ es.flatten
  if !noRepeat (es.map entryPort) then (.badParam, b)
  else if 128 < es.length then (.noResource, b)
  else if ctlEnabled b 3 k && (sub new 2 6 != sub old 2 6 || !(mvbEntries old).all (fun e => es.contains e)) then (.busy, b)
  else (.ok, { b with mvb := tset k new b.mvb })

/-- A new freshness limit: what was older than the old one need not be older than it (R272). -/
def afterMvb (c : Call) (_ : Nat) (old s : State) : State :=
  let k := u8 c.params 0
  if u16 (mvbCfg k old.bank) 6 = u16 (mvbCfg k s.bank) 6 then s else setMvb k { mvbRt k s with stale := [] } s

def cmdMvbConfig : Cmd := {
  opcode := 0x0C05, scope := .device, bank := true
  check := fun c _ => need (mvbParamsOk c)
  act := guardAct 3 ctlParam (directAct stageMvb (fun _ _ _ => []) afterMvb)
  stage := stageMvb
  read := some (fun c _ s => if u8 c.params 0 < 2 then some (mvbCfg (u8 c.params 0) s.bank) else none) }

/-- 0C05h MVB_CONFIG. -/
def execMvbConfig (c : Call) (s : State) : Result := .next (serve cmdMvbConfig c s)

/-! ### FIELD_BUS_STATE -/

/-- Counters of a kind, in the order of R274. -/
def counterCount (kind : Nat) : Nat := [13, 7, 8, 7].getD kind 0

/-- Capture entries of every pin, oldest first per pin (R447). -/
def captureBytes (s : State) : Bytes :=
  (s.buses.pins.captures.map (fun e => (e.2.map (fun x =>
    le 8 x.1 ++ le 1 e.1 ++ le 1 (b2n x.2.1 + 2 * b2n x.2.2) ++ fit 6 [])).flatten)).flatten

/-- Capture entries a bulk area holds. -/
def captureRoom (c : Call) : Nat := if c.bulkResult then areaLen c / 16 else 0

/-- The first `n` entries are gone, pin by pin. -/
def dropCaptures : Nat → Tbl (List (Nat × Bool × Bool)) → Tbl (List (Nat × Bool × Bool))
  | _, [] => []
  | n, e :: t => if e.2.length ≤ n then dropCaptures (n - e.2.length) t else (e.1, e.2.drop n) :: t

/-- A clearing read of a controller's counters re-arms event 22 (R274, R601). -/
def clearCounters (kind k : Nat) (s : State) : State :=
  match kind with
  | 0 => setCan k { canRt k s with counters := [], armed := true } s
  | 1 => setUart k { uartRt k s with counters := [], armed := true } s
  | 2 => setLin k { linRt k s with counters := [], armed := true } s
  | 3 => setMvb k { mvbRt k s with counters := [] } s
  | _ => s

def busCounters (kind k : Nat) (s : State) : Bytes :=
  counterBytes (counterCount kind) (match kind with
    | 0 => (canRt k s).counters
    | 1 => (uartRt k s).counters
    | 2 => (linRt k s).counters
    | _ => (mvbRt k s).counters)

/-- Traffic seen within the last second (R447). -/
def linActive (k : Nat) (s : State) : Bool :=
  match (linRt k s).lastTraffic with
  | some t => decide (s.power.upNs ≤ t + 1000000000)
  | none => false

/-- Inline result per kind (R447). -/
def busInline (kind k : Nat) (s : State) : Bytes :=
  match kind with
  | 0 => le 1 (canRt k s).state ++ le 1 0 ++ le 2 (canRt k s).tec ++ le 2 (canRt k s).rxErr ++ le 2 0 ++
      le 4 (nominalRate (canCfg k s.bank)) ++ le 4 (dataRate (canCfg k s.bank))
  | 1 => fit 8 [] ++ le 4 (uartRate100 (u32 (uartCfg k s.bank) 4))
  | 2 => le 1 (b2n (linActive k s))
  | 3 => le 1 (b2n (mvbRt k s).faultA + 2 * b2n (mvbRt k s).faultB)
  | _ => le 5 (s.buses.pins.inputs.toNat)

/-- Sample the input levels of the field pins: no row of the table drives them, so they are free (log 106). -/
def sampleInputs (s : State) : State := { picked s with buses.pins.inputs := BitVec.ofNat 40 (pick s) }

/-- 0C06h FIELD_BUS_STATE (R274, R447). -/
def actBusState (c : Call) (_ : Nat) (s : State) : Work :=
  let kind := u8 c.params 0
  let k := u8 c.params 1
  if kind = 4 then
    let s := drivePins (sampleInputs s)
    if flag c.params 2 1 then
      let n := captureRoom c
      { inline := busInline 4 0 s, bulk := (captureBytes s).take (16 * n)
        st := { s with buses.pins.captures := dropCaptures n s.buses.pins.captures } }
    else { inline := busInline 4 0 s, st := s }
  else { inline := busInline kind k s, bulk := busCounters kind k s,
         st := if flag c.params 2 0 then s else clearCounters kind k s }

def busIndexOk (kind k : Nat) : Bool := decide (k < [16, 16, 4, 2, 1].getD kind 0)

def cmdFieldBusState : Cmd := {
  opcode := 0x0C06, scope := .device, status := true, sums := 8
  agg := fun c => match u8 c.params 0 with
    | 0 => [(0, 1, .state), (2, 2, .maxU), (4, 2, .maxU)]
    | 2 => [(0, 1, .state)]
    | 3 => [(0, 1, .flags)]
    | _ => []
  check := fun c _ => need (onlyBytes c [(0, 3)] && fld c.params 2 2 6 == 0 && busIndexOk (u8 c.params 0) (u8 c.params 1))
  act := actBusState }

/-- Kind 4: the captures popped are a list of items. -/
def cmdFieldPinState : Cmd := { cmdFieldBusState with sums := 0, item := 16 }

/-- 0C06h FIELD_BUS_STATE of a kind. -/
def busStateCmd (c : Call) : Cmd := if u8 c.params 0 = 4 then cmdFieldPinState else cmdFieldBusState

/-- 0C06h FIELD_BUS_STATE. -/
def execFieldBusState (c : Call) (s : State) : Result := .next (serve (busStateCmd c) c s)

end Sys2Proof.Machine
end

