-- ==== Sys2Proof/Machine/Ports.lean ====
section
/-! DEFINITION. Ethernet ports: settings in force, presence, state, Headlands, preemption verify, pause state, and commands
0401h to 0406h (R275 to R280, R284 to R286, R292 to R299, R304, R400 to R405). -/

namespace Sys2Proof.Machine

/-! ### Settings -/

/-- All enabled ports but one, as a bitmap: the default flood bitmap (R278). -/
def otherPorts (p : Nat) (cfg : Tbl Img) : Nat := ofBits ((List.range 10).map (fun q => q != p && flag (tgetD q [] cfg) 3 0))

/-- Defaults of R278 in the layout of R400. -/
def defaultPort (p : Nat) (cfg : Tbl Img) : Img :=
  fit 48 (le 1 p ++ [0, 0, 2] ++ le 8 0 ++ le 2 1554 ++ le 2 1 ++ [1, 0] ++ le 2 (otherPorts p cfg) ++ le 2 0 ++ [7])

def portCfg (p : Nat) (s : State) : Img := tgetD p (defaultPort p s.ports.config) s.ports.config
def portEnabled (p : Nat) (s : State) : Bool := flag (portCfg p s) 3 0
def broadcastAccept (p : Nat) (s : State) : Bool := flag (portCfg p s) 3 1
def unmatchedDrop (p : Nat) (s : State) : Bool := flag (portCfg p s) 3 2
def deliverFlawed (p : Nat) (s : State) : Bool := flag (portCfg p s) 3 3
def rxMax (p : Nat) (s : State) : Nat := u16 (portCfg p s) 12
def defaultVid (p : Nat) (s : State) : Nat := fld (portCfg p s) 14 0 12
def defaultPcp (p : Nat) (s : State) : Nat := fld (portCfg p s) 15 5 3
def gptpClass (p : Nat) (s : State) : Nat := u8 (portCfg p s) 22
def holdOff (p : Nat) (s : State) : Nat := u16 (portCfg p s) 20

/-- A PHY delay in 1/16 ns as whole ns, halves upward (log 23). -/
def phyNs (d : Nat) : Nat := (d + 8) / 16

/-- PHY receive and transmit delay in 1/16 ns (R278). -/
def rxDelay (p : Nat) (s : State) : Nat := u32 (portCfg p s) 4
def txDelay (p : Nat) (s : State) : Nat := u32 (portCfg p s) 8

/-- The SFD stamp of a received frame after the PHY delay compensation (R82, R163, R281). -/
def rxStamp (p t : Nat) (s : State) : Nat := (((t : Int) - (phyNs (rxDelay p s) : Nat)) % 18446744073709551616).toNat

/-- Lowest port of a port's lane (R275). -/
def laneOf (p : Nat) : Nat := if p < 2 then p else if p < 6 then 2 else 6

/-- Lane mode in force (log 10). -/
def laneMode (l : Nat) (s : State) : Nat := tgetD l 1 s.ports.lanes

/-- A port its lane mode provides (R275). -/
def portPresent (p : Nat) (s : State) : Bool :=
  decide (p < 10) && (laneOf p == p || laneMode (laneOf p) s == 5)

/-- Speeds of a lane mode, coded as in R400 (R276). -/
def speedOffered (mode speed : Nat) : Bool :=
  speed == 0 || (match mode with
    | 1 | 2 => [5]
    | 3 => [2, 3, 4, 5]
    | 4 => [1, 2]
    | _ => [2, 3]).contains speed

def portRt (p : Nat) (s : State) : PortRt := tgetD p {} s.ports.rt
def setPort (p : Nat) (v : PortRt) (s : State) : State := { s with ports.rt := tset p v s.ports.rt }

/-- Speed used for wire times: the link's, else the fixed one, else 10G (log 22). -/
def portSpeed (p : Nat) (s : State) : Nat :=
  if (portRt p s).speed ≠ 0 then (portRt p s).speed
  else if u8 (portCfg p s) 2 ≠ 0 then u8 (portCfg p s) 2 else 5

/-- Wire time of one byte in tenths of a nanosecond. -/
def byteTime (p : Nat) (s : State) : Nat :=
  match portSpeed p s with
  | 1 => 800
  | 2 => 80
  | 3 => 32
  | 4 => 16
  | _ => 8

/-- Port rate in kb/s. -/
def portRate (p : Nat) (s : State) : Nat := 80000000 / byteTime p s

/-- Maximum frame length of a traffic class (R201). -/
def defaultMaxLens : Img := (List.replicate 8 (le 2 1522)).flatten
def maxLen (p tc : Nat) (b : Bank) : Nat := u16 (tgetD p defaultMaxLens b.maxLens) (2 * tc)

/-! ### Preemption and pause settings -/

/-- Defaults of R297 in the layout of R404. -/
def defaultPreempt (p : Nat) : Img := fit 48 [byte p, 2, 0, 3, 10, 0]
def preemptCfg (p : Nat) (s : State) : Img := tgetD p (defaultPreempt p) s.ports.preempt
def preemptOn (p : Nat) (s : State) : Bool := flag (preemptCfg p s) 1 0
def verifyOn (p : Nat) (s : State) : Bool := flag (preemptCfg p s) 1 1
def preemptable (p tc : Nat) (s : State) : Bool := flag (preemptCfg p s) 2 tc

/-- Preemption is active (R298). -/
def preemptActive (p : Nat) (s : State) : Bool := preemptOn p s && (!verifyOn p s || (portRt p s).verify == 0)

/-- Defaults of R294 and R296 in the layout of R403; transmit priorities none (log 21). -/
def defaultPause (p : Nat) : Img :=
  fit 48 ([byte p, 0, 0, 0xFF, 0, 20, 8, 0] ++ le 4 100 ++ le 2 10 ++ le 2 0xFFFF)
def pauseCfg (p : Nat) (s : State) : Img := tgetD p (defaultPause p) s.ports.pauseCfg
def pauseOf (p tc : Nat) (s : State) : PauseRt := tgetD tc {} (portRt p s).pause

/-- Traffic classes in a pause state. -/
def pauseMap (st p : Nat) (s : State) : Nat := ofBits ((List.range 8).map (fun tc => (pauseOf p tc s).state == st))

/-! ### Port state (R279) -/

/-- Internal loopback holds the port Up (R452). -/
def looped (p : Nat) (s : State) : Bool := tgetD p 0 s.buses.loopback == 1

def portUp (p : Nat) (s : State) : Bool := portPresent p s && portEnabled p s && ((portRt p s).link || looped p s)

def portState (p : Nat) (s : State) : Nat :=
  if !portPresent p s then 5
  else if !portEnabled p s then 4
  else if portUp p s then
    b2n (pauseMap 2 p s != 0 || (preemptOn p s && (portRt p s).verify == 3))
  else if (portRt p s).training then 2 else 3

/-! ### Verify (R298) -/

/-- Send a Verify or Respond mPacket. In internal loopback the part's own receiver takes it: a Verify draws a Respond, and that ends the
procedure (R452). -/
def sendMpacket (p : Nat) (respond : Bool) (s : State) : State :=
  if !looped p s then emit (.mpacket p respond) (countPort p 29 1 s)
  else if respond then countPort p 29 1 s
  else
    let s := countPort p 29 2 s
    if (portRt p s).verify = 2 then setPort p { portRt p s with verify := 0, attempts := 0 } s else s

/-- The port named at an offset is one of this device (R2). -/
def namesPort (o : Nat) (c : Call) (s : State) : Status := need (portPresent (u8 c.params o) s)

/-- Begin the verify procedure, or leave it off. -/
def startVerify (p : Nat) (s : State) : State :=
  let n := u8 (preemptCfg p s) 3
  if preemptOn p s && verifyOn p s then
    if portUp p s then sendMpacket p false (setPort p { portRt p s with verify := 2, attempts := n - 1 } s)
    else setPort p { portRt p s with verify := 2, attempts := n } s
  else setPort p { portRt p s with verify := 1, attempts := 0 } s

/-! ### Link states (R276, R277) -/

/-- The lane mode trains its link: 10GBASE-KR. -/
def trains (p : Nat) (s : State) : Bool := laneMode (laneOf p) s == 1

/-- The state changes to Down, or to Training where the mode retrains. -/
def goDown (p : Nat) (s : State) : State :=
  raise 16 p (setPort p { portRt p s with link := false, lossPending := false, training := trains p s, speed := 0,
                                          lastChange := stampOf (nowNs s) } s)

/-- The state changes to Up at a speed; verify runs (R298). -/
def goUp (p speed : Nat) (s : State) : State :=
  startVerify p (raise 16 p (setPort p { portRt p s with link := true, lossPending := false, training := false, mismatch := false,
                                                         speed, lastChange := stampOf (nowNs s) } s))

/-- Speed of an internal port: its configured one (R452). -/
def loopSpeed (p : Nat) (s : State) : Nat := if u8 (portCfg p s) 2 = 0 then 5 else u8 (portCfg p s) 2

/-! ### Copies of a port that goes (R220, R280) -/

/-- A copy flushed with its port: counted on the port, and against the rows of what it carries. -/
def flushOne (p : Nat) (s : State) (c : Copy) : State := discardCopy 22 c (countPort p 33 1 s)

/-- Flush the port's traffic class queues; the frame in progress finishes. -/
def flushPortQueues (p : Nat) (s : State) : State :=
  (tgetD p [] s.drill.ports).foldl (flushOne p) { s with drill.ports := tdel p s.drill.ports }

/-- The remainder of a preempted frame goes on, so that the frame in progress finishes (R220). -/
def finishHeld (p : Nat) (s : State) : State :=
  match tget p s.drill.portHeld, tget p s.drill.portWire with
  | some c, none => countPort p 28 1 { s with drill.portHeld := tdel p s.drill.portHeld, drill.portWire := tset p c s.drill.portWire }
  | _, _ => s

/-- What a lost link takes with it: the frame on the wire, pause state, verify state, shaper credit. -/
def dropLink (p : Nat) (s : State) : State :=
  let s := match tget p s.drill.portWire with
    | some c => countPort p 32 1 (endCopy c { s with drill.portWire := tdel p s.drill.portWire })
    | none => s
  let s := match tget p s.drill.portHeld with
    | some c => countPort p 32 1 (endCopy c { s with drill.portHeld := tdel p s.drill.portHeld })
    | none => s
  let credit := s.drill.credit.filter (fun e => e.1 / 8 != p)
  let s := setPort p { portRt p s with pause := [], pauseSent := 0, pauseWait := [] } { s with drill.credit := credit }
  if preemptOn p s && verifyOn p s then setPort p { portRt p s with verify := 2, attempts := u8 (preemptCfg p s) 3 } s else s

/-! ### 0401h PORT_CONFIG -/

def portParamsOk (c : Call) : Bool :=
  let q := c.params
  onlyBytes c [(0, 23)] && decide (u8 q 0 < 10) && decide (u8 q 1 ≤ 5) && decide (u8 q 2 ≤ 5) && fld q 3 5 3 == 0 &&
  decide (u32 q 4 < 262144) && decide (u32 q 8 < 262144) && within 64 (u16 q 12) 9054 &&
  within 1 (fld q 14 0 12) 4094 && fld q 15 4 1 == 0 && decide (u8 q 16 ≤ 2) && decide (u8 q 17 ≤ 15) &&
  fld q 19 2 6 == 0 && decide (u16 q 20 ≤ 1000) && decide (u8 q 22 ≤ 7)

/-- The lane mode a PORT_CONFIG leaves in force. -/
def newMode (q : Img) (s : State) : Nat :=
  if u8 q 1 = 0 then laneMode (laneOf (u8 q 0)) s else u8 q 1

/-- Lane modes a lane can run (R276). -/
def modeOfLane (l mode : Nat) : Bool := mode != 5 || decide (2 ≤ l)

def checkPortConfig (c : Call) (_ : State) : Status :=
  let q := c.params
  let p := u8 q 0
  need (portParamsOk c && (u8 q 1 == 0 || laneOf p == p) && modeOfLane (laneOf p) (u8 q 1))

/-- Speed and MDI against the lane mode in force. -/
def ownPortConfig (c : Call) (s : State) : Status :=
  let q := c.params
  need (portPresent (u8 q 0) s && speedOffered (newMode q s) (u8 q 2) && (!flag q 3 4 || newMode q s == 1))

/-- Ports of a lane. -/
def lanePorts (l : Nat) : List Nat := (List.range 10).filter (fun p => laneOf p == l)

/-- Take settings: enabling starts link detection, disabling flushes the port (R220, R276, R279). -/
def takePort (p : Nat) (i : Img) (s : State) : State :=
  let was := portEnabled p s
  let cfg := tset p i s.ports.config
  let s := { s with ports.config := cfg, fixed.portCfg := cfg }
  let now := flag i 3 0
  if now && !was then
    if looped p s then goUp p (loopSpeed p s) s
    else startVerify p (setPort p { portRt p s with link := false, training := true, lossPending := false, mismatch := false } s)
  else if was && !now then
    let s := finishHeld p (flushPortQueues p s)
    setPort p { portRt p s with link := false, training := false, lossPending := false, mismatch := false, pause := [], pauseSent := 0, pauseWait := [] } s
  else s

/-- 0401h PORT_CONFIG (R277, R278, R400). -/
def actPortConfig (c : Call) (_ : Nat) (s : State) : Work :=
  let q := fit 48 c.params
  let p := u8 q 0
  let l := laneOf p
  let old := portCfg p s
  let modeChange := newMode q s != laneMode l s
  if modeChange && (lanePorts l).any (fun x => portEnabled x s) then { status := .busy, st := s }
  else if portEnabled p s && (u8 old 2 != u8 q 2 || u16 old 12 != u16 q 12 || flag old 3 4 != flag q 3 4) then
    { status := .busy, st := s }
  else
    let lanes := if u8 q 1 = 0 then s.ports.lanes else tset l (u8 q 1) s.ports.lanes
    { st := takePort p (patch q 1 [0]) { s with ports.lanes := lanes, fixed.laneCfg := lanes } }

/-- The settings image with the lane mode in force. -/
def portImage (p : Nat) (s : State) : Img := patch (portCfg p s) 1 [byte (laneMode (laneOf p) s)]

def cmdPortConfig : Cmd := {
  opcode := 0x0401, scope := .device
  check := checkPortConfig
  own := ownPortConfig
  act := actPortConfig
  read := some (fun c _ s => if portPresent (u8 c.params 0) s then some (portImage (u8 c.params 0) s) else none) }

/-- 0401h PORT_CONFIG. -/
def execPortConfig (c : Call) (s : State) : Result := .next (serve cmdPortConfig c s)

/-! ### 0402h PORT_STATE -/

/-- Operational Furrow list of a port. -/
def furrowRt (p : Nat) (s : State) : FurrowRt := tgetD p {} s.drill.furrows
def setFurrow (p : Nat) (v : FurrowRt) (s : State) : State := { s with drill.furrows := tset p v s.drill.furrows }

def listCount (i : Img) : Nat := u16 i 16
def listBase (i : Img) : Nat := u64 i 0
def listCycle (i : Img) : Nat := u32 i 8
def furrowGates (i : Img) (n : Nat) : Nat := u8 i (24 + 8 * n)
def furrowOp (i : Img) (n : Nat) : Nat := fld i (25 + 8 * n) 0 2
def furrowIdle (i : Img) (n : Nat) : Bool := flag i (25 + 8 * n) 2
def furrowTime (i : Img) (n : Nat) : Nat := u32 i (28 + 8 * n)

/-- MACsec expansion of a frame on a port (R282): 0, 24 or 32 bytes. -/
def expansion (p : Nat) (s : State) : Nat :=
  if s.fixed.variantE || !s.keys.protTx.contains p then 0
  else if s.keys.slots.any (fun e => (e.2.state == .active || e.2.state == .warned) && u8 e.2.sa 2 == p && !flag e.2.sa 3 0 && flag e.2.sa 3 5) then 32 else 24

/-- Start of furrow `n` within its cycle. -/
def furrowStart (i : Img) (n : Nat) : Nat := ((List.range n).map (furrowTime i)).sum

/-- The furrow at a position of a cycle; the last lasts until the cycle ends. -/
def furrowAt (i : Img) (pos : Nat) : Nat :=
  ((List.range (listCount i)).filter (fun n => decide (furrowStart i n ≤ pos))).foldl max 0

/-- The furrow that runs at the end of a cycle; a longer list is cut off there (R203). -/
def lastFurrow (i : Img) : Nat := furrowAt i (listCycle i - 1)

/-- Preemption as the Headland counts it: of the last cycle boundary, or now on a port without a list (R299). -/
def headActive (p : Nat) (s : State) : Bool := if (furrowRt p s).oper.isNone then preemptActive p s else (furrowRt p s).headActive

/-- Headland of a class in tenths of a nanosecond (R204, R299). -/
def classHeadland (p tc : Nat) (s : State) : Nat :=
  byteTime p s * (if preemptable p tc s && headActive p s then 155 else maxLen p tc s.bank + 20 + expansion p s)

/-- H of an idle-start furrow: the largest over the classes open in the furrow before it. -/
def headland (p : Nat) (i : Img) (n : Nat) (s : State) : Nat :=
  let before := furrowGates i (if n = 0 then lastFurrow i else n - 1)
  (List.range 8).foldl (fun m tc => if before / 2 ^ tc % 2 = 1 then max m (classHeadland p tc s) else m) 0

/-- Tenths in whole nanoseconds; how a fraction rounds is left open (log 23). -/
def wholeNs (tenths : Nat) (s : State) : Nat := tenths / 10 + (if tenths % 10 = 0 then 0 else pick s % 2)

def idleFurrows (i : Img) : List Nat := (List.range (listCount i)).filter (furrowIdle i)

/-- idleSlope is clipped by the port rate (R408). -/
def slopeClipped (p : Nat) (s : State) : Bool :=
  (List.range 8).any (fun tc => match tget (8 * p + tc) s.bank.shapers with
    | some i => flag i 2 0 && decide (portRate p s < u32 i 4)
    | none => false)

def actPortState (c : Call) (_ : Nat) (s : State) : Work :=
  let p := u8 c.params 0
  let v := portRt p s
  let f := furrowRt p s
  let i := f.oper.getD []
  let hs := (idleFurrows i).map (fun n => (n, wholeNs (headland p i n s) s))
  { inline := le 1 (portState p s) ++ le 1 v.speed ++
      le 1 (b2n v.mismatch + 2 * b2n (flag (portCfg p s) 3 4 && portUp p s) + 4 * b2n (preemptActive p s) + 8 * b2n (slopeClipped p s)) ++
      le 1 v.verify ++ le 1 (pauseMap 1 p s) ++ le 1 (pauseMap 2 p s) ++ le 2 0 ++ le 8 v.lastChange ++
      le 4 ((hs.map (·.2)).foldl max 0) ++ le 2 (listCount i) ++ le 2 0 ++ le 8 (listBase i) ++ le 4 (listCycle i) ++ le 4 0 ++
      le 8 (f.change.getD 0),
    bulk := fit 24 (portImage p s) ++ (hs.map (fun h => le 2 h.1 ++ le 2 0 ++ le 4 h.2)).flatten,
    st := picked s }

def cmdPortState : Cmd := {
  opcode := 0x0402, scope := .device, status := true
  agg := fun _ => [(0, 1, .state), (2, 1, .flags), (3, 1, .state), (4, 1, .flags), (5, 1, .flags), (8, 8, .maxU), (16, 4, .maxU)]
  check := fun c _ => need (onlyBytes c [(0, 1)] && decide (u8 c.params 0 < 10))
  own := namesPort 0
  act := actPortState }

/-- 0402h PORT_STATE. -/
def execPortState (c : Call) (s : State) : Result := .next (serve cmdPortState c s)

/-! ### 0403h PORT_FILTER_SET -/

/-- The port and item named are in range; entries 0 and 1 are Eulyn's (R402). -/
def checkFilter (c : Call) (_ : State) : Status :=
  let q := c.params
  let k := u8 q 1
  let n := u16 q 2
  if !(onlyBytes c [(0, 5), (8, 6), (16, 21)] && decide (u8 q 0 < 10) && decide (k ≤ 3) &&
    (match k with
      | 0 => decide (n < 32)
      | 1 => decide (n < 64)
      | 2 => decide (n < 512)
      | _ => decide (64 ≤ c.bulk.length))) then .badParam
  else if k = 0 ∧ n < 2 then .notPermitted
  else if k = 1 ∧ fld q 36 2 5 ≠ 0 then .badParam
  else .ok

/-- A clear ignores its data: the item named and the reserved bytes are checked. -/
def checkFilterClear (c : Call) (s : State) : Status :=
  firstBad [need (onlyBytes c [(0, 5), (8, 6), (16, 21)] && (u8 c.params 1 != 1 || fld c.params 36 2 5 == 0)), checkFilter { c with params := fit 5 c.params, bulk := fit 64 [] } s]

def hashOf (p : Nat) (s : State) : BitVec 512 := tgetD p 0 s.ports.hash

def setHash (p : Nat) (v : BitVec 512) (s : State) : State :=
  { s with ports.hash := if v = 0 then tdel p s.ports.hash else tset p v s.ports.hash }

/-- 0403h PORT_FILTER_SET, operation 0 (R402). -/
def actFilterSet (c : Call) (_ : Nat) (s : State) : Work :=
  let q := c.params
  let p := u8 q 0
  let n := u16 q 2
  { st := match u8 q 1 with
    | 0 => { s with ports.exact := tset (32 * p + n) (ofBe (sub q 8 6)) s.ports.exact }
    | 1 => { s with ports.patterns := tset (64 * p + n) (fit 48 q) s.ports.patterns }
    | 2 => setHash p (hashOf p s ||| bitAt 512 n) s
    | _ => setHash p (BitVec.ofNat 512 (ule c.bulk 0 64)) s }

/-- 0403h PORT_FILTER_SET, operation 1 (R402). -/
def actFilterClear (c : Call) (_ : Nat) (s : State) : Work :=
  let q := c.params
  let p := u8 q 0
  let n := u16 q 2
  { st := match u8 q 1 with
    | 0 => { s with ports.exact := tdel (32 * p + n) s.ports.exact }
    | 1 => { s with ports.patterns := tdel (64 * p + n) s.ports.patterns }
    | 2 => setHash p (hashOf p s &&& ~~~(bitAt 512 n)) s
    | _ => setHash p 0 s }

/-- The filter in force in the layout of R402; an entry never written reads as zeros. -/
def readFilter (c : Call) (_ : Nat) (s : State) : Option Bytes :=
  let q := c.params
  let p := u8 q 0
  let n := u16 q 2
  let head := le 1 p ++ le 1 (u8 q 1) ++ le 2 n ++ le 4 0
  if !portPresent p s then none
  else match u8 q 1 with
    | 0 => if 32 ≤ n then none else some (fit 48 (head ++ be 6 (tgetD (32 * p + n) 0 s.ports.exact)))
    | 1 => if 64 ≤ n then none else some (fit 48 (head ++ le 8 0 ++ (tgetD (64 * p + n) [] s.ports.patterns).drop 16))
    | 2 => if 512 ≤ n then none else some (fit 48 (head ++ le 8 (b2n ((hashOf p s).getLsbD n))))
    | 3 => some (fit 48 head ++ le 64 (hashOf p s).toNat)
    | _ => none

def cmdPortFilterSet : Cmd := {
  opcode := 0x0403, scope := .device
  own := namesPort 0
  check := fun c s => firstBad [need (u8 c.params 4 == 0), checkFilter c s]
  act := actFilterSet
  read := some readFilter }

/-- 0403h PORT_FILTER_SET, operation 0. -/
def execPortFilterSet (c : Call) (s : State) : Result := .next (serve cmdPortFilterSet c s)

def cmdPortFilterClear : Cmd := {
  opcode := 0x0403, scope := .device
  own := namesPort 0
  check := fun c s => firstBad [need (u8 c.params 4 == 1), checkFilterClear c s]
  act := actFilterClear
  read := some readFilter }

/-- 0403h PORT_FILTER_SET, operation 1. -/
def execPortFilterClear (c : Call) (s : State) : Result := .next (serve cmdPortFilterClear c s)

def gateOpen (p tc : Nat) (s : State) : Bool := (furrowRt p s).gates.getLsbD tc

/-! ### Shaper credit (R201, R293, R408) -/

/-- Shaper of a class that is on. -/
def shaperOf (p tc : Nat) (b : Bank) : Option Img := (tget (8 * p + tc) b.shapers).filter (fun i => flag i 2 0)

/-- idleSlope in force in kb/s, clipped to the port rate. -/
def idleSlope (p : Nat) (i : Img) (s : State) : Nat := min (u32 i 4) (portRate p s)

/-- hiCredit and −loCredit of a class in bits (R201; log 14). -/
def creditLimits (p tc : Nat) (s : State) : Nat × Nat :=
  Config.credits ((List.range 8).map (fun t => maxLen p t s.bank))
    ((List.range 8).map (fun t => ((shaperOf p t s.bank).map (fun i => idleSlope p i s)).getD 0)) (portRate p s) tc

def paused (p tc : Nat) (s : State) : Bool := (pauseOf p tc s).state == 1

/-- Copies of a class waiting on a port. -/
def waitingOf (p tc : Nat) (s : State) : List Copy := (tgetD p [] s.drill.ports).filter (fun c => c.tc == tc)

def onWire (p tc : Nat) (s : State) : Bool := ((tget p s.drill.portWire).map (·.tc)) == some tc

/-- Credit with no copy waiting: a deficit recovers to zero, a surplus is lost. -/
def restCredit (c slope : Int) (dt : Nat) : Int := if c < 0 then min 0 (c + slope * dt) else 0

/-- Bring the credit of one class up to the present, in units of 1 kb/s × 1 ns. -/
def updateCredit (p tc : Nat) (s : State) : State :=
  match shaperOf p tc s.bank with
  | none => s
  | some i =>
    let k := 8 * p + tc
    let now := nowNs s
    let t0 := min now (tgetD k now s.drill.creditAt)
    let c := tgetD k 0 s.drill.credit
    let slope : Int := idleSlope p i s
    let lim := creditLimits p tc s
    let made := (waitingOf p tc s).map (·.made)
    let c' : Int :=
      if !gateOpen p tc s || paused p tc s then c
      else if onWire p tc s then max (-(lim.2 : Int) * 1000000) (c + (slope - portRate p s) * (now - t0 : Nat))
      else match made with
        | [] => restCredit c slope (now - t0)
        | m :: l =>
          let w := min now (max t0 (l.foldl min m))
          min ((lim.1 : Int) * 1000000) ((if w = t0 then c else restCredit c slope (w - t0)) + slope * (now - w : Nat))
    { s with drill.credit := tset k c' s.drill.credit, drill.creditAt := tset k now s.drill.creditAt }

def updateCredits (p : Nat) (s : State) : State := (List.range 8).foldl (fun s tc => updateCredit p tc s) s

/-! ### 0404h PORT_PAUSE_SET, 0405h PORT_PREEMPT_SET -/

def checkPause (c : Call) (_ : State) : Status :=
  let q := c.params
  need (onlyBytes c [(0, 7), (8, 8)] && decide (u8 q 0 < 10) && decide (u8 q 1 ≤ 2) && decide (u8 q 2 ≤ 2) &&
    (u8 q 3 == 0xFF || decide (u8 q 3 < 8)) && within 2 (u8 q 5) 30 && within 2 (u8 q 6) 30 &&
    decide (u8 q 6 < u8 q 5) && (u32 q 8 == 0 || within 1 (u32 q 8) 10000) && within 1 (u16 q 12) 1000 &&
    decide (1 ≤ u16 q 14))

/-- 0404h PORT_PAUSE_SET (R294, R403). -/
def actPause (c : Call) (_ : Nat) (s : State) : Work :=
  let q := fit 48 c.params
  let p := u8 q 0
  let old := pauseCfg p s
  let s' := { s with ports.pauseCfg := tset p q s.ports.pauseCfg }
  { st := if u8 old 1 != u8 q 1 || u32 old 8 != u32 q 8 then
            let s' := updateCredits p s'
            setPort p { portRt p s' with pause := [] } s'
          else s' }

/-- A class map that moves Beacon clears the pause-immune mark (R403). -/
def clearImmune (s : State) : State :=
  let keep (e : Nat × Img) : Nat × Img := if u8 e.2 3 = 0xFF ∨ u8 e.2 3 = classTc e.1 0 s.bank then e else (e.1, patch e.2 3 [0xFF])
  { s with ports.pauseCfg := s.ports.pauseCfg.map keep }

def cmdPortPauseSet : Cmd := {
  opcode := 0x0404, scope := .device
  check := checkPause
  own := fun c s => need (portPresent (u8 c.params 0) s && (u8 c.params 3 == 0xFF || u8 c.params 3 == classTc (u8 c.params 0) 0 s.bank))
  act := actPause
  read := some (fun c _ s => if portPresent (u8 c.params 0) s then some (pauseCfg (u8 c.params 0) s) else none) }

/-- 0404h PORT_PAUSE_SET. -/
def execPortPauseSet (c : Call) (s : State) : Result := .next (serve cmdPortPauseSet c s)

def checkPreempt (c : Call) (_ : State) : Status :=
  let q := c.params
  need (onlyBytes c [(0, 6)] && decide (u8 q 0 < 10) && fld q 1 2 6 == 0 &&
    within 1 (u8 q 3) 15 && within 1 (u8 q 4) 128 && u8 q 5 == 0)

/-- 0405h PORT_PREEMPT_SET restarts verification when it enables or changes preemption (R298, R404). -/
def actPreempt (c : Call) (_ : Nat) (s : State) : Work :=
  let q := fit 48 c.params
  let p := u8 q 0
  { st := startVerify p { s with ports.preempt := tset p q s.ports.preempt } }

def cmdPortPreemptSet : Cmd := {
  opcode := 0x0405, scope := .device
  check := checkPreempt
  own := fun c s => need (portPresent (u8 c.params 0) s && !flag c.params 2 (classTc (u8 c.params 0) 0 s.bank))
  act := actPreempt
  read := some (fun c _ s => if portPresent (u8 c.params 0) s then some (preemptCfg (u8 c.params 0) s) else none) }

/-- 0405h PORT_PREEMPT_SET. -/
def execPortPreemptSet (c : Call) (s : State) : Result := .next (serve cmdPortPreemptSet c s)

/-! ### 0406h PORT_STATS_SNAP -/

/-- Tick and counters of a port (R405). -/
def snapBytes (p : Nat) (s : State) : Bytes :=
  le 8 (stampOf (nowNs s)) ++ ((List.range 48).map (fun i => le 8 (tgetD (48 * p + i) 0 s.ports.counters))).flatten

def snapPorts (c : Call) (s : State) : List Nat :=
  if u8 c.params 0 = 0xFF then (List.range 10).filter (fun p => portPresent p s) else [u8 c.params 0]

/-- 0406h PORT_STATS_SNAP captures and clears the counters at one tick (R304). -/
def actSnap (c : Call) (_ : Nat) (s : State) : Work :=
  let ps := snapPorts c s
  { inline := le 8 (stampOf (nowNs s)), bulk := (ps.map (fun p => snapBytes p s)).flatten,
    st := { s with ports.counters := s.ports.counters.filter (fun e => !ps.contains (e.1 / 48)) } }

def cmdPortStatsSnap : Cmd := {
  opcode := 0x0406, scope := .device, status := true, sums := 8, block := 49
  agg := fun _ => [(0, 8, .maxU)]
  check := fun c _ => need (onlyBytes c [(0, 1)] && (u8 c.params 0 == 0xFF || decide (u8 c.params 0 < 10)) && c.bulkResult && c.units != 0)
  own := fun c s => need (u8 c.params 0 == 0xFF || portPresent (u8 c.params 0) s)
  act := actSnap }

/-- 0406h PORT_STATS_SNAP. -/
def execPortStatsSnap (c : Call) (s : State) : Result := .next (serve cmdPortStatsSnap c s)

end Sys2Proof.Machine
end

