-- ==== Sys2Proof/Machine/Gates.lean ====
section
/-! DEFINITION. Furrow lists at work: the furrow in force, the instants at which gates close and the wire must be idle, gate
changes, overruns and the removal of a list (R202 to R208, R407). -/

namespace Sys2Proof.Machine

/-! ### The furrow in force (R202 to R206) -/

/-- Start of the cycle in which an instant lies. -/
def cycleStart (i : Img) (t : Nat) : Nat := listBase i + (t - listBase i) / listCycle i * listCycle i

/-- First instant at which a list no longer starts cycles before a change: the change, or the start of the cycle that the last one,
ending less than the extension before the change, is extended over (R206). -/
def cyclesEnd (i : Img) (c : Nat) : Nat :=
  let e := cycleStart i c
  if listBase i ≤ c ∧ c - e < u32 i 12 then e else c

/-- The last cycle before a change is extended over an instant. -/
def extended (i : Img) (change : Option Nat) (t : Nat) : Bool :=
  match change with
  | none => false
  | some c => decide (listBase i < cyclesEnd i c ∧ cyclesEnd i c ≤ t ∧ t < c)

/-- The furrow in force at an instant, as an index; `none` before the base time. -/
def furrowNow (i : Img) (change : Option Nat) (t : Nat) : Option Nat :=
  if t < listBase i then none
  else if extended i change t then some (lastFurrow i)
  else some (furrowAt i ((t - listBase i) % listCycle i))

/-- Gates of a list at an instant; before the first cycle all open, or as the last furrow (R202). -/
def gatesAt (i : Img) (change : Option Nat) (t : Nat) : BitVec 8 :=
  match furrowNow i change t with
  | some n => BitVec.ofNat 8 (furrowGates i n)
  | none => if flag i 19 0 then BitVec.ofNat 8 (furrowGates i (listCount i - 1)) else BitVec.allOnes 8

/-! ### The next start of a furrow -/

/-- Instant at which a furrow ends within its cycle. -/
def furrowEnd (i : Img) (n : Nat) : Nat :=
  if n + 1 < listCount i then min (furrowStart i (n + 1)) (listCycle i) else listCycle i

/-- From a furrow on, the first furrow a condition holds of, with the instant it starts at. -/
def nextFurrow (i : Img) (hit : Nat → Bool) : Nat → Nat → Nat → Option (Nat × Nat)
  | 0, _, _ => none
  | k + 1, n, base =>
    let m := if furrowEnd i n = listCycle i then 0 else n + 1
    let b := if furrowEnd i n = listCycle i then base + listCycle i else base
    if hit m then some (b + furrowStart i m, m) else nextFurrow i hit k m b

/-- The next start after `t` of a furrow a condition holds of. -/
def nextStart (i : Img) (hit : Nat → Bool) (t : Nat) : Option (Nat × Nat) :=
  if listCount i = 0 then none
  else if t < listBase i then (if hit 0 then some (listBase i, 0) else nextFurrow i hit (listCount i) 0 (listBase i))
  else nextFurrow i hit (listCount i) (furrowAt i ((t - listBase i) % listCycle i)) (cycleStart i t)

/-- A start comes before the port leaves its list: before the cycles end for a change, and before a removal (R206, R407). -/
def stillRuns (i : Img) (v : FurrowRt) (t : Nat) : Bool :=
  (v.change.map (fun c => decide (t < cyclesEnd i c))).getD true && (v.remove.map (fun r => decide (t < r))).getD true

/-- The next start, on a port, of a furrow a condition holds of. -/
def portStart (p : Nat) (hit : Img → Nat → Bool) (s : State) : Option (Nat × Nat) :=
  let v := furrowRt p s
  v.oper.bind (fun i => (nextStart i (hit i) (nowNs s)).filter (fun e => stillRuns i v e.1))

/-- When the gate of a class closes: the next furrow that does not open it. -/
def gateCloses (p tc : Nat) (s : State) : Option Nat :=
  (portStart p (fun i n => !Nat.testBit (furrowGates i n) tc) s).map (·.1)

/-- The next instant at which the wire must be idle, and whether its furrow holds the preemptable MAC, so that a frame is cut
before it (R205). -/
def idleStart (p : Nat) (s : State) : Option (Nat × Bool) :=
  (portStart p furrowIdle s).map (fun e => (e.1, ((furrowRt p s).oper.map (fun i => furrowOp i e.2 == 1)).getD false))

/-! ### Gate changes and overruns (R203, R205, R208) -/

/-- A copy may be cut: its class is preemptable and preemption is active; a started frame keeps what held at its start (R299). -/
def cuttable (p : Nat) (c : Copy) (s : State) : Bool := c.mayCut.getD (preemptable p c.tc s && preemptActive p s)

/-- Bytes of the fragment on the wire that have gone out, behind its preamble. -/
def fragBytes (p : Nat) (c : Copy) (s : State) : Nat := (nowNs s - c.fragAt) * 10 / byteTime p s - 8

/-- A frame can be cut now: no fragment of it is under 64 bytes with its check (R297). -/
def cutReady (p : Nat) (c : Copy) (s : State) : Bool :=
  cuttable p c s && decide (60 ≤ fragBytes p c s ∧ c.fragSent + fragBytes p c s + 64 ≤ c.wireLen)

/-- Cut the frame on the wire; its remainder waits (R203, R205). -/
def cutFrame (p : Nat) (c : Copy) (s : State) : State :=
  countPort p 27 (b2n !c.preempted) { s with
    drill.portWire := tdel p s.drill.portWire
    drill.portHeld := tset p { c with preempted := true, fragSent := min (c.wireLen - 64) (c.fragSent + fragBytes p c s) } s.drill.portHeld }

/-- The frame was started to be cut at the closing of its gate, which has come. -/
def cutDue (p : Nat) (c : Copy) (s : State) : Bool :=
  match c.planCut with
  | some t => decide (t ≤ nowNs s) && cuttable p c s
  | none => false

/-- A frame that a closed gate or an idle start finds on the wire: cut when it was started so, else an overrun, once per frame; it is
never cut to prevent one (R208). -/
def gateOverrun (p : Nat) (idle : Bool) (s : State) : State :=
  match tget p s.drill.portWire with
  | none => s
  | some c =>
    if !idle && gateOpen p c.tc s then s
    else if cutDue p c s then cutFrame p c s
    else if c.overran then s
    else raise 20 p (countPort p 35 1 { s with drill.portWire := tset p { c with overran := true } s.drill.portWire })

/-- Put the gates and hold of an instant in force; at a cycle boundary the Headland takes the preemption status of now (R299). -/
def setGates (p : Nat) (s : State) : State :=
  let v := furrowRt p s
  match v.oper with
  | none => setFurrow p { v with gates := BitVec.allOnes 8, hold := false } s
  | some i =>
    let n := furrowNow i v.change (nowNs s)
    let hold := match n.map (furrowOp i) with
      | some 1 => true
      | some 2 => false
      | _ => v.hold
    let head := if n = some 0 then preemptActive p s else v.headActive
    let s := setFurrow p { v with gates := gatesAt i v.change (nowNs s), hold := hold && preemptActive p s, headActive := head } s
    gateOverrun p ((n.map (furrowIdle i)).getD false) s

/-- Every port's list goes on from the furrow that contains the present (R208). -/
def resetGates (s : State) : State :=
  ((List.range 10).filter (fun p => (furrowRt p s).oper.isSome)).foldl (fun s p => setGates p s) s

end Sys2Proof.Machine
end

