-- ==== Sys2Proof/Machine/Almanac.lean ====
section
/-! DEFINITION. The Almanac: settings, servo, time states, steps, gPTP rows, asymmetry suspects, PPS, alarms and capture
pins (R154 to R179, R273). -/

namespace Sys2Proof.Machine

/-! ### Settings -/

/-- Defaults of R166 in the layout of R414. -/
def defaultServo : Img :=
  fit 48 ([0, 3, 8, 0] ++ le 4 45875 ++ le 4 19661 ++ le 4 1000 ++ le 4 50 ++ le 4 1000 ++ le 4 0)

def servoCfg (s : State) : Img := s.servo.getD defaultServo

/-- Source: 0 gPTP working domain, 1 PPS_IN, 2 host, 3 none. -/
def servoSource (s : State) : Nat := u8 (servoCfg s) 0

/-- Defaults of R158, R159, R178 in the layout of R411 (priorities: log 21). -/
def defaultTimeCfg : Img := fit 48 ([0, 0, 1, 0, 0, 0] ++ le 2 37 ++ le 4 0 ++ le 4 10000000 ++ le 4 0)

def timeCfg (s : State) : Img := s.timeCfg.getD defaultTimeCfg

/-- Defaults of R161 in the layout of R411. -/
def defaultTimePort (p : Nat) : Img := fit 48 ([1, byte p, 1, 0xFD, 0, 0, 3, 0] ++ le 4 800)

def timePort (p : Nat) (s : State) : Img := tgetD p (defaultTimePort p) s.timePorts

/-- Defaults of R174 to R176 in the layout of R415. -/
def defaultAsym (p : Nat) : Img := fit 48 ([byte p, 0, 0, 0] ++ le 4 0 ++ le 2 50 ++ [10, 10])

def asymCfg (p : Nat) (s : State) : Img := tgetD p (defaultAsym p) s.asym

/-- 2 to the power of a signed byte. -/
def pow2 (i : Img) (o : Nat) : Rat :=
  match sle i o 1 with
  | .ofNat n => (2 : Rat) ^ n
  | .negSucc n => 1 / (2 : Rat) ^ (n + 1)

/-- A port under IEEE 802.1AS-2011 operation. -/
def gptp2011 (p : Nat) (s : State) : Bool := flag (timePort p s) 2 1

/-- Working domain, or the one that waits to become it (R159). -/
def worksIn (dom : Nat) (s : State) : Bool := dom == s.alm.working || (s.alm.exchange.map (·.1)) == some dom

/-- A port takes part in gPTP in a domain (R162): enabled, not on its own in internal loopback, gPTP on; under IEEE 802.1AS-2011 in domain 0 only, and never in the
relayed domain. -/
def gptpOn (p dom : Nat) (s : State) : Bool :=
  portUp p s && !looped p s && flag (timePort p s) 2 0 && (!gptp2011 p s || (dom == 0 && worksIn dom s))

/-- A port that takes part in gPTP at all: under IEEE 802.1AS-2011 when some domain is numbered 0 (R162). -/
def gptpAny (p : Nat) (s : State) : Bool :=
  portUp p s && !looped p s && flag (timePort p s) 2 0 && (!gptp2011 p s || s.alm.working == 0 || s.alm.relayed == 0)

/-- Bytes of a gPTP frame, from destination address to FCS, by kind. PRESUMED (log 134): the message lengths of IEEE 802.1AS-2020, an
Announce with a path of one. -/
def gptpLen (kind : Nat) : Nat := [64, 94, 72, 72, 94, 72].getD kind 64

/-- A gPTP message from a port: its minorVersionPTP and the traffic class of its port; a multicast frame (R162, R278, R303). -/
def sendGptp (p kind dom : Nat) (m : GptpOut) (s : State) : State :=
  emit (.gptp p kind dom (if gptp2011 p s then 0 else 1) (gptpClass p s) m)
    ([(20, gptpLen kind), (21, 1), (23, 1)].foldl (fun s e => countPort p e.1 e.2 s) s)

/-- Stamp of an event message that leaves now: its SFD after the port's PHY delay (R163). -/
def sfdStamp (p : Nat) (s : State) : Nat := stampOf (nowNs s + phyNs (txDelay p s))

/-- The clock and its engines run with the core growing. -/
def growing (s : State) : Bool := s.power.state == .growing

def gport (p : Nat) (s : State) : GptpPort := tgetD p {} s.alm.ports
def setGport (p : Nat) (v : GptpPort) (s : State) : State := { s with alm.ports := tset p v s.alm.ports }

/-- Nearest whole number, halves upward (log 23). -/
def roundRat (q : Rat) : Int := (q + 1 / 2).floor

def clampTo (lim q : Rat) : Rat := if q < -lim then -lim else if lim < q then lim else q

/-! ### Increment and frequency (R155) -/

/-- Clamp of I and a in ppb. -/
def ppbLimit : Rat := 200000

/-- Increment for an adjustment in ppb. -/
def increment (a : Rat) : Nat := (roundRat (17179869184 * (1 - a / 1000000000))).toNat

/-- Put a frequency adjustment in force. -/
def setFrequency (a : Rat) (s : State) : State := { s with alm.a := a, alm.inc := increment a }

/-- The log of changes to and from Locked, at most 8 kept (R85). -/
def logLock (st : TimeState) (s : State) : List (Nat × Bool) :=
  if (s.alm.state == .locked) == (st == .locked) then s.alm.lockLog else ((nowNs s, st == .locked) :: s.alm.lockLog).take 8

/-- Enter a time state; a change raises event 40 (R170). In Free nothing is held for a resumption. -/
def setTimeState (st : TimeState) (s : State) : State :=
  if s.alm.state = st then s
  else raise 40 noObject { s with alm.lockLog := logLock st s, alm.state := st, alm.lockRun := 0, alm.outlierRun := 0
                                  alm.budgetExpired := false, alm.frozen := s.alm.frozen && st != .free }

/-! ### Steps (R173, R179) -/

/-- A copy whose release time a forward step skips. -/
def skipped (old new : Nat) (c : Copy) : Bool := !c.due && decide (old < c.release ∧ c.release ≤ new)

/-- An instant kept to measure an interval from goes with the clock. -/
def moved (d : Int) (t : Nat) : Nat := ((t : Int) + d).toNat

/-- Skipped copies are sent at once, and are not late. -/
def skipCopy (old new : Nat) (c : Copy) : Copy :=
  { c with due := c.due || skipped old new c, made := moved ((new : Int) - old) c.made }

def skipCopies (old new : Nat) (t : Tbl (List Copy)) : Tbl (List Copy) := t.map (fun e => (e.1, e.2.map (skipCopy old new)))

def countSkipped (old new : Nat) (t : Tbl (List Copy)) : Nat := (t.map (fun e => (e.2.filter (skipped old new)).length)).sum

/-- First instant of a series after a time. -/
def seriesAfter (base period t : Nat) : Nat := if t < base then base else base + ((t - base) / period + 1) * period

def alarmPeriod (i : Img) : Nat := u64 i 16

/-- PPS_OUT may pulse: while the domain is synchronised, or in every state when so set (R178). -/
def ppsOn (s : State) : Bool := synced s || flag (timeCfg s) 3 0

/-- Actions of an alarm: event 44, PPS_OUT pulse, pulse or toggle of a field pin that is an alarm output (R178, R179, R273). -/
def fireAlarm (n : Nat) (s : State) : State :=
  match tget n s.alm.alarms with
  | none => s
  | some v =>
    let acts := u8 v.img 2
    let w := u32 v.img 4
    let pin := u8 v.img 3
    let s := if Nat.testBit acts 0 then raise 44 n s else s
    let out := u8 s.bank.pins pin == 4
    let s := if Nat.testBit acts 1 && ppsOn s then emit (.pps w) { s with alm.ppsUntil := some (s.power.upNs + w) } else s
    let s := if Nat.testBit acts 2 && out then
        emit (.gpioPulse pin w) { s with buses.pins.pulses := tset pin (s.power.upNs + w) s.buses.pins.pulses } else s
    let s := if Nat.testBit acts 3 && out then
        let t := s.buses.pins.toggles ^^^ bitAt 40 pin
        emit (.gpio pin (t.getLsbD pin)) { s with buses.pins.toggles := t } else s
    drivePins s

/-- Change an alarm's runtime. -/
def setAlarm (n : Nat) (f : Alarm → Alarm) (s : State) : State :=
  match tget n s.alm.alarms with
  | some v => { s with alm.alarms := tset n (f v) s.alm.alarms }
  | none => s

/-- The next instant after a firing: none for a single alarm, else the first of the series after `t`. -/
def nextAlarm (v : Alarm) (t : Nat) : Alarm :=
  { v with fired := some t, next := if alarmPeriod v.img = 0 then none else some (seriesAfter (u64 v.img 8) (alarmPeriod v.img) t) }

/-- Alarms whose instant a forward step skips fire once, flagged "stepped" (R173); DESIGN CHOICE (log 125): a backward
step leaves every pending instant as it is. -/
def stepAlarms (old new : Nat) (s : State) : State :=
  (tkeys s.alm.alarms).foldl (fun s n =>
    match (tget n s.alm.alarms).bind (·.next) with
    | some t => if old < t ∧ t ≤ new then fireAlarm n (setAlarm n (fun v => { nextAlarm v new with stepped := true }) s) else s
    | none => s) s

/-- Instants on the working clock from which intervals are measured keep their distance: UART stop bits, the making of copies, shaper
credit, changes to and from Locked, the disabling of rows (R85, R113, R173; log 25). -/
def moveInstants (d : Int) (s : State) : State :=
  { s with alm.lockLog := s.alm.lockLog.map (fun e => (moved d e.1, e.2))
           buses.uart := s.buses.uart.map (fun e => (e.1, { e.2 with lastRx := e.2.lastRx.map (moved d), lastTx := e.2.lastTx.map (moved d) }))
           harrow.rows := s.harrow.rows.map (fun e => (e.1, { e.2 with disabledAt := e.2.disabledAt.map (moved d) }))
           drill.creditAt := s.drill.creditAt.map (fun e => (e.1, moved d e.2)) }

/-- The working clock takes a new value at one tick: copies whose release it skips go at once, Furrow lists go on from the new time,
skipped alarms fire (R173, R208). -/
def stepTo (sec ns frac : Nat) (s : State) : State :=
  let s := (List.range 10).foldl (fun s p => updateCredits p s) s
  let old := nowNs s
  let s := { s with alm.sec := sec % 281474976710656, alm.ns := ns, alm.frac := frac, alm.steps := s.alm.steps + 1, alm.lastStep := none }
  let new := nowNs s
  let n := countSkipped old new s.drill.rows + countSkipped old new s.drill.ports
  let s := moveInstants ((new : Int) - old) { s with alm.lastStep := some (old, (new : Int) - old) }
  resetGates (stepAlarms old new { s with alm.steppedReleases := s.alm.steppedReleases + n
                                          drill.rows := skipCopies old new s.drill.rows
                                          drill.ports := skipCopies old new s.drill.ports })

/-- Step by a signed number of 2⁻³² ns units. -/
def stepUnits (d : Int) (s : State) : State :=
  let v := ((nowNs s * 4294967296 + s.alm.frac : Nat) + d) % (281474976710656 * 1000000000 * 4294967296 : Int)
  let n := v.toNat / 4294967296
  stepTo (n / 1000000000) (n % 1000000000) (v.toNat % 4294967296) s

/-- Step by whole nanoseconds. -/
def stepBy (d : Int) (s : State) : State := stepUnits (d * 4294967296) s

/-! ### The servo (R165 to R168) -/

def lockNs (s : State) : Rat := u32 (servoCfg s) 16
def stepNs (s : State) : Nat := u32 (servoCfg s) 12

/-- Lock count in force; 1 for the first lock after a wake (R539). -/
def lockCount (s : State) : Nat := if s.alm.firstLock then 1 else u8 (servoCfg s) 2

/-- The suspect of the slave port is open. -/
def slaveSuspect (s : State) : Bool :=
  match s.alm.slavePort with
  | some p => (gport p s).suspect
  | none => false

def ratSum (l : List Rat) : Rat := l.foldl (· + ·) 0

/-- Hold the frequency at the mean of I over the last 16 updates (R168); DESIGN CHOICE (log 111): before any
update, at the present I. -/
def freeze (s : State) : State :=
  if s.alm.frozen then s
  else
    let s := { s with alm.frozen := true }
    if s.alm.iHistory.isEmpty then setFrequency s.alm.i s
    else setFrequency (ratSum s.alm.iHistory / s.alm.iHistory.length) s

/-- Updates resume: I starts from the held value (R168). -/
def resume (s : State) : State := if s.alm.frozen then { s with alm.i := s.alm.a, alm.frozen := false } else s

/-- One update (R165): I, a, the increment, event 41 at the clamp, the run at the clamp. -/
def servoUpdate (θ T : Rat) (s : State) : State :=
  let s := resume s
  let c := servoCfg s
  let i := clampTo ppbLimit (s.alm.i + (u32 c 8 : Rat) / 65536 * θ / T)
  let a := clampTo ppbLimit ((u32 c 4 : Rat) / 65536 * θ / T + i)
  let at_ (q : Rat) : Bool := decide (q = ppbLimit ∨ q = -ppbLimit)
  let inside (q : Rat) : Bool := decide (-190000 ≤ q ∧ q ≤ 190000)
  let hit := at_ i || at_ a
  let fire := hit && s.alm.limitArmed
  let s := setFrequency a { s with alm.i := i
                                   alm.iHistory := (i :: s.alm.iHistory).take 16
                                   alm.clampRun := if at_ a then s.alm.clampRun + 1 else 0
                                   alm.limitArmed := if hit then false else s.alm.limitArmed || (inside i && inside a) }
  if fire then raise 41 noObject s else s

/-- The servo steps the clock by −θ; I is kept (R167). -/
def servoStep (θ : Rat) (s : State) : State := raise 41 noObject (stepUnits (-(roundRat (θ * 4294967296))) s)

/-- Beyond the step threshold; never with the threshold off. -/
def beyondStep (θ : Rat) (s : State) : Bool := stepNs s != 0 && decide ((stepNs s : Rat) < |θ|)

/-- Eight updates at the clamp (R170). -/
def clampCheck (s : State) : State :=
  if 8 ≤ s.alm.clampRun ∧ (s.alm.state = .locked ∨ s.alm.state = .acquiring) then raise 41 noObject (setTimeState .uncertain s)
  else s

/-- An offset in Acquiring; `counts` when it arrived in that state (R167, R170). -/
def acquire (θ T : Rat) (counts : Bool) (s : State) : State :=
  if beyondStep θ s then servoStep θ { s with alm.lockRun := 0 }
  else
    let s := servoUpdate θ T s
    let run := if counts && decide (|θ| ≤ lockNs s) then s.alm.lockRun + 1 else 0
    if lockCount s ≤ run then clampCheck (setTimeState .locked { s with alm.firstLock := false })
    else clampCheck { s with alm.lockRun := run }

/-- An offset in Locked (R167, R170): an outlier is discarded and counted; the last of the outlier count steps. -/
def track (θ T : Rat) (s : State) : State :=
  if beyondStep θ s then
    if u8 (servoCfg s) 1 ≤ s.alm.outlierRun + 1 then setTimeState .acquiring (servoStep θ s)
    else { s with alm.outlierRun := s.alm.outlierRun + 1, alm.outliers := s.alm.outliers + 1 }
  else clampCheck (servoUpdate θ T { s with alm.outlierRun := 0 })

/-- Take one offset measurement (R165 to R172): measured always, applied unless frozen; a grandmaster does neither (R170). DESIGN CHOICE
(log 135): a grandmaster change is decided by an offset of the gPTP source alone, since no other comes from the new grandmaster, and a
first offset that finds a suspect open on the slave port leaves the state Free. -/
def takeOffset (θ T : Rat) (s : State) : State :=
  if s.alm.grandmaster then s
  else
    let s := { s with alm.theta := θ }
    if slaveSuspect s then s
    else
      let inLock := decide (|θ| ≤ lockNs s)
      let gm := s.alm.gmPending && servoSource s == 0
      let s := { s with alm.gmPending := s.alm.gmPending && servoSource s != 0 }
      match s.alm.state with
      | .free => acquire θ T false (setTimeState .acquiring s)
      | .acquiring => acquire θ T true s
      | .locked => if gm && !inLock then acquire θ T false (setTimeState .acquiring s) else track θ T s
      | .holdover => if inLock then track θ T (setTimeState .locked s) else acquire θ T false (setTimeState .acquiring s)
      | .uncertain => if s.alm.budgetExpired then acquire θ T false (setTimeState .acquiring s) else servoUpdate θ T s

/-! ### Suspects (R174 to R176) -/

/-- The path of the slave port is not trusted: the servo freezes, the state becomes Uncertain (R170, R174). -/
def distrust (s : State) : State :=
  let s := freeze s
  if s.alm.state = .locked ∨ s.alm.state = .holdover ∨ s.alm.state = .acquiring
  then setTimeState .uncertain s else s

/-- Open a suspect on a port: event 42; on the slave port the servo freezes. -/
def openSuspect (p : Nat) (s : State) : State :=
  let s := raise 42 p (setGport p { gport p s with suspect := true, since := [] } s)
  if s.alm.slavePort = some p then distrust s else s

/-- Close a suspect with a delay; a slave port passes to Acquiring (R175, R176). -/
def closeSuspect (p : Nat) (mean : Option Rat) (s : State) : State :=
  let v := gport p s
  let s := setGport p { v with suspect := false, since := [], filtered := mean.or v.filtered, delays := v.last } s
  if s.alm.slavePort = some p then
    let s := resume s
    if s.alm.state = .uncertain then setTimeState .acquiring s else s
  else s

def meanOf (l : List Int) : Rat := ratSum (l.map (fun (x : Int) => (x : Rat))) / l.length

/-- Every result lies within the window of their mean. -/
def consistent (win : Nat) (l : List Int) : Bool := l.all (fun x => decide (|(x : Rat) - meanOf l| ≤ win))

/-- PDELAY_RESULT: a result within the delay limit is filtered, opens a suspect, or counts towards closing one; the neighbour's rate
ratio is kept (R160). DESIGN CHOICE (log 112): a result beyond the limit is ignored. -/
def execPdelayResult (p : Nat) (m : PdelayMsg) (s : State) : Result :=
  if !growing s || !gptpAny p s || decide ((u32 (timePort p s) 8 : Int) < m.delay) then .next s
  else
    let v := { gport p s with rate := some m.ratePpb, last := (m.delay :: (gport p s).last).take 4 }
    if v.suspect then
      let l := m.delay :: v.since
      if l.length < 4 then .next (setGport p { v with since := l } s)
      else if consistent (u8 (asymCfg p s) 10) l then .next (closeSuspect p (some (meanOf l)) (setGport p { v with since := l } s))
      else .next (setGport p { v with since := [] } s)
    else
      let opens : Bool := match v.filtered with
        | some f => decide ((u16 (asymCfg p s) 8 : Rat) < |(m.delay : Rat) - f|)
        | none => false
      if opens then .next (openSuspect p (setGport p v s))
      else
        let l := (m.delay :: v.delays).take 4
        .next (setGport p { v with delays := l, filtered := some (meanOf l) } s)

/-- SUSPECT_TIMEOUT: a suspect still open raises event 42 again (R175). -/
def execSuspectTimeout (p : Nat) (s : State) : Result :=
  if (gport p s).suspect then .next (raise 42 p s) else .next s

/-! ### Sync (R159, R162, R164, R170) -/

/-- Port roles change places with the domains. -/
def swapRoles (v : GptpPort) : GptpPort := { v with master := v.relMaster, relMaster := v.master }

/-- The part becomes or ceases to be grandmaster: Locked as grandmaster with source None or gPTP, Free without it with source None
(R169, R170). -/
def gmState (was : Bool) (s : State) : State :=
  if s.alm.grandmaster && !was then (if servoSource s = 0 ∨ servoSource s = 3 then setTimeState .locked s else s)
  else if was && !s.alm.grandmaster && servoSource s == 3 then setTimeState .free s
  else s

/-- A slave port whose suspect is open freezes the servo (R168). -/
def freezeSuspect (s : State) : State := if slaveSuspect s then freeze s else s

/-- The waiting exchange of the two domains takes effect at a Sync of the new working domain, as a grandmaster change (R159): port roles,
grandmaster role and grandmaster change places. DESIGN CHOICE (log 136): slave ports that differ are part of the exchange and no change of
the working domain's slave port under R170. -/
def takeExchange (dom : Nat) (s : State) : State :=
  match s.alm.exchange with
  | some (w, r) =>
    if w = dom then
      let a := s.alm
      let was := a.grandmaster
      freezeSuspect (gmState was (raise 47 noObject { s with alm := { a with
        working := w, relayed := r, exchange := none, gmPending := !a.relGm, utcFromAnnounce := false
        slavePort := a.relSlave, lastSlave := a.relSlave, relSlave := a.slavePort
        grandmaster := a.relGm, relGm := was, gmId := a.relGmId, relGmId := a.gmId
        ports := a.ports.map (fun e => (e.1, swapRoles e.2)) } }))
    else s
  | none => s

/-- delayAsymmetry of a port in ns (R176). -/
def delayAsymmetry (p : Nat) (s : State) : Rat := (sle (asymCfg p s) 4 4 : Rat) / 16

/-- Sync offset on a port: t₂ − origin − correction − meanLinkDelay − delayAsymmetry, t₂ after the PHY delay compensation (R163,
R164); DESIGN CHOICE (log 113): before any Pdelay result meanLinkDelay is zero. -/
def syncOffset (p : Nat) (m : SyncMsg) (s : State) : Rat :=
  (m.t2 - m.origin - m.correction : Int) - (rxDelay p s : Rat) / 16 - (gport p s).filtered.getD 0 - delayAsymmetry p s

/-- correctionField of a relayed Sync: the one received, plus the link's delay and a residence time in the grandmaster's time (R159,
R160; log 107). -/
def relayCorrection (from_ residence : Nat) (m : SyncMsg) (s : State) : Int :=
  m.correction + roundRat (((gport from_ s).filtered.getD 0 + delayAsymmetry from_ s + residence) * (1 + (m.ratePpb : Rat) / 1000000000))

/-- Master of a port in the working or the relayed domain. -/
def mastersIn (rel : Bool) (v : GptpPort) : Bool := if rel then v.relMaster else v.master

/-- Relay on master ports with residence-time correction (R159, R160): two-step, the correction in the Follow_Up; how long a message
stays in the part is free. -/
def relaySync (from_ : Nat) (rel : Bool) (m : SyncMsg) (s : State) : State :=
  ((List.range 10).filter (fun p => p != from_ && mastersIn rel (gport p s) && gptpOn p m.domain s)).foldl
    (fun s p =>
      sendGptp p 1 m.domain { correction := relayCorrection from_ (pick s) m s, time := some m.origin.toNat }
        (sendGptp p 0 m.domain { time := some (sfdStamp p s) } (picked s))) s

/-- SYNC. DESIGN CHOICE (log 121): the relayed domain's offset (R159) has the sign of the working domain's, local time less received
time. -/
def execSync (p : Nat) (m : SyncMsg) (s : State) : Result :=
  if !growing s || !gptpOn p m.domain s then .next s
  else
    let s := takeExchange m.domain s
    let s := if m.domain = s.alm.working then
        (if s.alm.slavePort = some p ∧ !s.alm.grandmaster then
          relaySync p false m (if servoSource s = 0 then takeOffset (syncOffset p m s) (pow2 (timePort p s) 3) s else s)
        else s)
      else if m.domain = s.alm.relayed ∧ s.alm.relSlave = some p then
        relaySync p true m { s with alm.relOffset := roundRat (syncOffset p m s), alm.relRate := m.ratePpb }
      else s
    .next s

/-- Locked without its source passes to Holdover: frozen, events 40 and 46 (R170). -/
def loseSource (s : State) : State :=
  if s.alm.state = .locked ∧ !s.alm.grandmaster then raise 46 noObject (setTimeState .holdover (freeze s)) else s

/-- SYNC_RECEIPT_TIMEOUT. -/
def execSyncReceiptTimeout (s : State) : Result := .next (if servoSource s = 0 then loseSource s else s)

/-- PPS_IN_MISSING for 1.5 s. -/
def execPpsInMissing (s : State) : Result := .next (if servoSource s = 1 then loseSource s else s)

/-- HOLDOVER_BUDGET. -/
def execHoldoverBudget (s : State) : Result :=
  .next (if s.alm.state = .holdover then { setTimeState .uncertain s with alm.budgetExpired := true } else s)

/-- SYNC_INTERVAL: a master port sends a two-step Sync, its stamp in the Follow_Up (R161, R163). -/
def execSyncInterval (p : Nat) (s : State) : Result :=
  .next (if growing s && s.alm.grandmaster && (gport p s).master && gptpOn p s.alm.working s
    then sendGptp p 1 s.alm.working { time := some (sfdStamp p s) } (sendGptp p 0 s.alm.working { time := some (sfdStamp p s) } s) else s)

/-- Domain of the Pdelay messages a port exchanges: domain 0 under IEEE 802.1AS-2011 (R162), else the working one. -/
def pdelayDomain (p : Nat) (s : State) : Nat := if gptp2011 p s then 0 else s.alm.working

/-- PDELAY_INTERVAL: the port sends Pdelay_Req. -/
def execPdelayInterval (p : Nat) (s : State) : Result :=
  .next (if growing s && gptpAny p s then sendGptp p 2 (pdelayDomain p s) { time := some (sfdStamp p s) } s else s)

/-- PDELAY_REQ: the Almanac's responder answers, the stamp of the response in its Follow_Up (R160, R163). -/
def execPdelayReq (p : Nat) (s : State) : Result :=
  .next (if growing s && gptpAny p s
    then sendGptp p 5 (pdelayDomain p s) { time := some (sfdStamp p s) } (sendGptp p 3 (pdelayDomain p s) { time := some (sfdStamp p s) } s)
    else s)

/-! ### Best master selection (R158, R160, R169, R170, R172) -/

def domainOf (rel : Bool) (s : State) : Nat := if rel then s.alm.relayed else s.alm.working

/-- A port is master of a domain and sends its Announce. -/
def announces (p : Nat) (rel : Bool) (s : State) : Bool := mastersIn rel (gport p s) && gptpOn p (domainOf rel s) s

/-- priority1 and priority2 of the device (R411). -/
def ownPriorities (s : State) : Nat × Nat := (u8 (timeCfg s) 4, u8 (timeCfg s) 5)

/-- The part is grandmaster of a domain. -/
def gmOf (rel : Bool) (s : State) : Bool := if rel then s.alm.relGm else s.alm.grandmaster

/-- Announce of one domain from a port that is its master there; a grandmaster announces its own priorities. -/
def sendAnnounce (p : Nat) (rel : Bool) (s : State) : State :=
  if announces p rel s then sendGptp p 4 (domainOf rel s) { priorities := if gmOf rel s then some (ownPriorities s) else none } s else s

/-- The Announce interval of a port has passed since its last Announce (R161); the uptime may have restarted since. -/
def announceDue (p : Nat) (s : State) : Bool :=
  match (gport p s).announced with
  | some t => decide (s.power.upNs < t ∨ (t : Rat) + pow2 (timePort p s) 5 * 1000000000 ≤ s.power.upNs)
  | none => true

/-- Announce of both domains from a port, where it is their master and its interval has passed. -/
def announcePort (s : State) (p : Nat) : State :=
  if announceDue p s && (announces p false s || announces p true s) then
    setGport p { gport p s with announced := some s.power.upNs } (sendAnnounce p true (sendAnnounce p false s))
  else s

/-- ANNOUNCE_INTERVAL: Eulyn sends Announce on the master ports whose own interval has passed; it stops while the Steward is absent. -/
def execAnnounceInterval (s : State) : Result :=
  if !growing s || !s.stw.up then .next s else .next ((List.range 10).foldl announcePort s)

def configuredUtc (s : State) : Nat := u16 (timeCfg s) 6

/-- The UTC offset: announced while the part is time receiver, else configured (R158). -/
def utcOffset (s : State) : Nat := if s.alm.utcFromAnnounce then s.alm.utc else configuredUtc s

/-- The part becomes grandmaster (R169), with its own UTC offset. -/
def becomeGm (s : State) : State :=
  gmState false { s with alm.grandmaster := true, alm.slavePort := none, alm.lastSlave := none, alm.utcFromAnnounce := false }

/-- Another grandmaster is named: Locked stays, except Free with source None (R170). -/
def leaveGm (slave : Option Nat) (s : State) : State :=
  freezeSuspect (gmState true { s with alm.grandmaster := false, alm.slavePort := slave, alm.lastSlave := slave })

/-- A slave port other than the last one: suspect on the new one (R170, R174). Without a slave port the part is no time receiver and
its own UTC offset holds (R158). -/
def moveSlave (slave : Option Nat) (s : State) : State :=
  match slave with
  | none => { s with alm.slavePort := none, alm.utcFromAnnounce := false }
  | some q =>
    let t := { s with alm.slavePort := some q, alm.lastSlave := some q }
    if (s.alm.lastSlave.map (fun p => p != q)).getD false then openSuspect q t else freezeSuspect t

/-- Put the port roles of a selection in force in one domain. -/
def setMasters (rel : Bool) (l : List Nat) (s : State) : State :=
  { s with alm.ports := (List.range 10).foldl (fun t p =>
      tmod p {} (fun v => if rel then { v with relMaster := l.contains p } else { v with master := l.contains p }) t) s.alm.ports }

/-- The outcome of best master selection in the relayed domain: port roles, grandmaster role and grandmaster. -/
def applyRelayed (m : BestMaster) (s : State) : State :=
  { setMasters true m.masters s with alm.relSlave := m.slave, alm.relGm := m.isGm, alm.relGmId := m.gmId }

/-- The outcome of best master selection in the working domain. DESIGN CHOICE (log 137): after a reset grandmasterIdentity is 0, and the
first grandmaster named is a change of it. -/
def applySelection (m : BestMaster) (s : State) : State :=
  let s := setMasters false m.masters s
  let changed := m.gmId != s.alm.gmId
  let s := { s with alm.gmId := m.gmId }
  let s := if m.isGm then (if s.alm.grandmaster then gmState false s else becomeGm s)
    else if s.alm.grandmaster then leaveGm m.slave s else moveSlave m.slave s
  if changed then raise 47 noObject { s with alm.gmPending := !m.isGm } else s

/-- UTC offset from an Announce that carries a valid one, while time receiver (R158). -/
def takeUtc (m : AnnounceMsg) (s : State) : State :=
  if m.utcValid && s.alm.slavePort.isSome && !s.alm.grandmaster then { s with alm.utc := m.utc, alm.utcFromAnnounce := true }
  else s

/-- ANNOUNCE. -/
def execAnnounce (p : Nat) (m : AnnounceMsg) (s : State) : Result :=
  if !growing s || !s.stw.up || !gptpOn p m.domain s then .next s
  else if m.domain = s.alm.relayed then .next (applyRelayed m.sel s)
  else if m.domain ≠ s.alm.working then .next s
  else .next (takeUtc m (applySelection m.sel s))

/-- ANNOUNCE_RECEIPT_TIMEOUT. -/
def execAnnounceReceiptTimeout (p : Nat) (sel : BestMaster) (s : State) : Result :=
  if !growing s || !s.stw.up || !gptpOn p s.alm.working s then .next s else .next (applySelection sel s)

/-! ### PPS (R157, R164, R177, R178, R323) -/

/-- Latch the working clock into the snapshot registers (R157, R323). -/
def takeSnapshot (s : State) : State :=
  { s with hold.snap := { s.hold.snap with captured := true, armPps := false, state := s.alm.state.code
                                           sec := s.alm.sec, ns := s.alm.ns, frac := s.alm.frac } }

/-- Offset of a PPS edge (R164). -/
def ppsOffset (stamp : Nat) (s : State) : Int :=
  let n := ((stamp : Int) - sle (timeCfg s) 16 4) % 1000000000
  if n < 500000000 then n else n - 1000000000

/-- End a waiting TIME_SET with its step and new time (R412). -/
def endTimeSet (o : Op) (sec ns : Nat) (s : State) : State :=
  let old := nowNs s
  let s := stepTo sec ns 0 s
  endOp o { inline := sleB 8 ((nowNs s : Int) - old) ++ le 8 (stampOf (nowNs s)) } s

/-- Commands waiting for the edge step the clock, oldest first. -/
def ppsTimeSets (s : State) : State :=
  s.stw.ops.foldl (fun s o => match o.body with
    | .timeSetPps sec ns _ => endTimeSet o sec ns s
    | _ => s) s

/-- PPS_IN: an edge closer than 500 ms to the previous one is a glitch. -/
def execPpsIn (stamp : Nat) (s : State) : Result :=
  if !growing s then .next s
  else
    let glitch : Bool := match s.alm.lastPps with
      | some t => decide (s.power.upNs < t + 500000000)
      | none => false
    let s := { s with alm.lastPps := some s.power.upNs }
    let s := if s.hold.snap.armPps then takeSnapshot s else s
    let s := if glitch then { s with alm.ppsGlitches := s.alm.ppsGlitches + 1 }
      else
        let s := raise 43 noObject s
        if servoSource s = 1 then takeOffset (ppsOffset stamp s) 1 s else s
    .next (ppsTimeSets s)

/-- An alarm with the PPS_OUT action pulses within the second that begins now: its pulse takes the place of the second pulse (R179).
DESIGN CHOICE (log 108): a pulse replaces that of its own second and no other. -/
def alarmPulses (s : State) : Bool :=
  s.alm.alarms.any (fun e => Nat.testBit (u8 e.2.img 2) 1 &&
    ((e.2.next.any (fun t => decide (t < nowNs s + 1000000000))) || (e.2.fired.any (fun t => decide (nowNs s ≤ t)))))

/-- PPS_OUT: a pulse when synchronised, or in every state when so set (R178); PPS-copy pins follow (R273). -/
def execPpsOut (s : State) : Result :=
  let w := u32 (timeCfg s) 12
  .next (if growing s && ppsOn s && !alarmPulses s
    then drivePins (emit (.pps w) { s with alm.ppsUntil := some (s.power.upNs + w) }) else s)

/-! ### Alarms and captures (R179, R273) -/

/-- TIME_ALARM: a pending alarm fires and takes its next instant. -/
def execTimeAlarm (n : Nat) (s : State) : Result :=
  match (tget n s.alm.alarms).bind (·.next) with
  | some t => .next (fireAlarm n (setAlarm n (fun v => nextAlarm v t) s))
  | none => .next s

/-- Edges a capture pin stamps: 0 rising, 1 falling, 2 both (R442). -/
def capturesEdge (pin : Nat) (rising : Bool) (b : Bank) : Bool :=
  match fld b.pins (48 + pin) 3 2 with
  | 0 => rising
  | 1 => !rising
  | _ => true

/-- TIME_CAPTURE: a 4-entry FIFO per pin; a full one discards and marks the next entry. -/
def execTimeCapture (pin : Nat) (rising : Bool) (stamp : Nat) (s : State) : Result :=
  if !growing s || u8 s.bank.pins pin != 3 || !capturesEdge pin rising s.bank then .next s
  else
    let q := tgetD pin [] s.buses.pins.captures
    if 4 ≤ q.length then .next { s with buses.pins.capLost := insertNat pin s.buses.pins.capLost }
    else .next { s with buses.pins.captures := tset pin (q ++ [(stamp, rising, s.buses.pins.capLost.contains pin)]) s.buses.pins.captures
                        buses.pins.capLost := s.buses.pins.capLost.filter (· != pin) }

end Sys2Proof.Machine
end

