-- ==== Sys2Proof/Machine/Cipher.lean ====
section
/-! DEFINITION. The functions the manual names by their standards: SHA-256 (FIPS 180-4), HMAC (FIPS 198-1), the AES inverse cipher
and key unwrap (FIPS 197, SP 800-38F KW), and ECDSA P-256 verification (FIPS 186-4), for R13, R424, R463, R505, R515, R518 and
R519 (log 12). -/

namespace Sys2Proof.Machine

/-! ### SHA-256 and HMAC -/

/-- The 32 bits after the binary point of a prime's cube root, by bisection: the constants of FIPS 180-4, 4.2.2. -/
def shaConst (p : Nat) : BitVec 32 :=
  let n := (List.range 35).foldl (fun r i => let x := r + 2 ^ (34 - i); if x * x * x ≤ p * 2 ^ 96 then x else r) 0
  BitVec.ofNat 32 n

/-- The 32 bits after the binary point of a prime's square root: the initial hash value of FIPS 180-4, 5.3.3. -/
def shaInit (p : Nat) : BitVec 32 :=
  BitVec.ofNat 32 ((List.range 37).foldl (fun r i => let x := r + 2 ^ (36 - i); if x * x ≤ p * 2 ^ 64 then x else r) 0)

/-- The first 64 primes. -/
def shaPrimes : List Nat :=
  (List.range 312).filter (fun n => decide (2 ≤ n) && (List.range 16).all (fun d => decide (d + 2 ≥ n) || n % (d + 2) != 0))

/-- 32-bit words of a run of bytes, most significant byte first. -/
def beWords : Nat → Bytes → List (BitVec 32)
  | 0, _ => []
  | n + 1, b => BitVec.ofNat 32 (ofBe (b.take 4)) :: beWords n (b.drop 4)

/-- The message schedule, newest word first, after `n` more words. -/
def shaSchedule : Nat → List (BitVec 32) → List (BitVec 32)
  | 0, w => w
  | n + 1, w =>
    let g (i : Nat) := w.getD i 0
    let s0 := (g 14).rotateRight 7 ^^^ (g 14).rotateRight 18 ^^^ (g 14) >>> 3
    let s1 := (g 1).rotateRight 17 ^^^ (g 1).rotateRight 19 ^^^ (g 1) >>> 10
    shaSchedule n ((s1 + g 6 + s0 + g 15) :: w)

/-- One round on the eight working variables. -/
def shaRound (v : List (BitVec 32)) (kw : BitVec 32 × BitVec 32) : List (BitVec 32) :=
  let g (i : Nat) := v.getD i 0
  let e := g 4
  let a := g 0
  let t1 := g 7 + (e.rotateRight 6 ^^^ e.rotateRight 11 ^^^ e.rotateRight 25) + (e &&& g 5 ^^^ ~~~e &&& g 6) + kw.1 + kw.2
  let t2 := (a.rotateRight 2 ^^^ a.rotateRight 13 ^^^ a.rotateRight 22) + (a &&& g 1 ^^^ a &&& g 2 ^^^ g 1 &&& g 2)
  [t1 + t2, a, g 1, g 2, g 3 + t1, e, g 5, g 6]

/-- One 64-byte block. -/
def shaBlock (h : List (BitVec 32)) (b : Bytes) : List (BitVec 32) :=
  let w := (shaSchedule 48 (beWords 16 b).reverse).reverse
  h.zipWith (· + ·) (((shaPrimes.map shaConst).zip w).foldl shaRound h)

/-- Blocks of a padded message. -/
def shaBlocks : Nat → Bytes → List (BitVec 32) → List (BitVec 32)
  | 0, _, h => h
  | n + 1, m, h => shaBlocks n (m.drop 64) (shaBlock h (m.take 64))

/-- SHA-256. -/
def sha256 (m : Bytes) : Bytes :=
  let pad := List.replicate ((119 - m.length % 64) % 64) (0 : Byte)
  let p := m ++ [0x80] ++ pad ++ be 8 (8 * m.length)
  (shaBlocks (p.length / 64) p ((shaPrimes.take 8).map shaInit)).flatMap (fun w => be 4 w.toNat)

/-- HMAC-SHA-256. -/
def hmac (key m : Bytes) : Bytes :=
  let k := fit 64 (if 64 < key.length then sha256 key else key)
  sha256 (k.map (· ^^^ 0x5C) ++ sha256 (k.map (· ^^^ 0x36) ++ m))

/-! ### AES and key unwrap -/

/-- Times x in GF(2^8). -/
def gfX (a : Byte) : Byte := if a.msb then a <<< 1 ^^^ 0x1B else a <<< 1

/-- A product in GF(2^8). -/
def gfMul (a b : Byte) : Byte :=
  ((List.range 8).foldl (fun (r : Byte × Byte) i => (if a.getLsbD i then r.1 ^^^ r.2 else r.1, gfX r.2)) (0, b)).1

/-- The inverse in GF(2^8), the 254th power; 0 for 0. -/
def gfInv (a : Byte) : Byte :=
  ((List.range 7).foldl (fun (r : Byte × Byte) _ => let q := gfMul r.2 r.2; (gfMul r.1 q, q)) (1, a)).1

/-- The substitution of FIPS 197, 5.1.1. -/
def aesSub (a : Byte) : Byte :=
  let b := gfInv a
  b ^^^ b.rotateLeft 1 ^^^ b.rotateLeft 2 ^^^ b.rotateLeft 3 ^^^ b.rotateLeft 4 ^^^ 0x63

/-- Its inverse, 5.3.2. -/
def aesUnsub (a : Byte) : Byte := gfInv (a.rotateLeft 1 ^^^ a.rotateLeft 3 ^^^ a.rotateLeft 6 ^^^ 0x05)

def xorBytes (a b : Bytes) : Bytes := a.zipWith (· ^^^ ·) b

/-- Key expansion of a 32-byte key, newest word first, after `n` more words; `i` is the next word's number. -/
def aesExpand : Nat → Nat → Byte → List Bytes → List Bytes
  | 0, _, _, w => w
  | n + 1, i, rcon, w =>
    let t := w.headD []
    let t' := if i % 8 = 0 then xorBytes ((t.drop 1 ++ t.take 1).map aesSub) [rcon, 0, 0, 0]
      else if i % 8 = 4 then t.map aesSub else t
    aesExpand n (i + 1) (if i % 8 = 0 then gfX rcon else rcon) (xorBytes (w.getD 7 []) t' :: w)

/-- The fifteen round keys of a 32-byte key, last first. -/
def aesKeys (k : Bytes) : List Bytes :=
  let w := (aesExpand 52 8 1 ((List.range 8).map (fun i => sub k (4 * i) 4)).reverse).reverse
  ((List.range 15).map (fun i => ((w.drop (4 * i)).take 4).flatten)).reverse

/-- InvShiftRows and InvSubBytes; the state is held column by column. -/
def aesUnshift (b : Bytes) : Bytes :=
  (List.range 16).map (fun i => aesUnsub (b.getD ((i % 4) + 4 * ((i / 4 + 4 - i % 4) % 4)) 0))

/-- InvMixColumns. -/
def aesUnmix (b : Bytes) : Bytes :=
  (List.range 16).map (fun i =>
    let x (j : Nat) : Byte := b.getD (4 * (i / 4) + (i + j) % 4) 0
    gfMul 14 (x 0) ^^^ gfMul 11 (x 1) ^^^ gfMul 13 (x 2) ^^^ gfMul 9 (x 3))

/-- The inverse cipher, FIPS 197, 5.3, under round keys given last first. -/
def aesRounds : List Bytes → Bytes → Bytes
  | [], b => b
  | [k], b => xorBytes (aesUnshift b) k
  | k :: ks, b => aesRounds ks (aesUnmix (xorBytes (aesUnshift b) k))

def aesDecrypt (key b : Bytes) : Bytes :=
  let ks := aesKeys key
  aesRounds (ks.drop 1) (xorBytes b (ks.headD []))

/-- One step of the unwrapping: `t` counts down from six times the number of blocks. -/
def unwrapStep (key : Bytes) (n : Nat) (a : Bytes) (r : List Bytes) (t : Nat) : Bytes × List Bytes :=
  let i := (t - 1) % n
  let b := aesDecrypt key (xorBytes a (be 8 t) ++ r.getD i [])
  (b.take 8, r.set i (b.drop 8))

/-- AES key unwrap (SP 800-38F, KW-AD): `none` when the integrity check fails. -/
def unwrapKey (key wrapped : Bytes) : Option Bytes :=
  let n := wrapped.length / 8 - 1
  let r := (List.range n).map (fun i => sub wrapped (8 * i + 8) 8)
  let f := (List.range (6 * n)).foldl (fun (x : Bytes × List Bytes) j => unwrapStep key n x.1 x.2 (6 * n - j)) (wrapped.take 8, r)
  if f.1 = List.replicate 8 0xA6 then some f.2.flatten else none

/-! ### ECDSA P-256 -/

/-- Curve parameters of FIPS 186-4, D.1.2.3. -/
def p256P : Nat := 2 ^ 256 - 2 ^ 224 + 2 ^ 192 + 2 ^ 96 - 1
def p256N : Nat := 0xFFFFFFFF00000000FFFFFFFFFFFFFFFFBCE6FAADA7179E84F3B9CAC2FC632551
def p256B : Nat := 0x5AC635D8AA3A93E7B3EBBD55769886BC651D06B0CC53B0F63BCE3C3E27D2604B
def p256G : Nat × Nat := (0x6B17D1F2E12C4247F8BCE6E563A440F277037D812DEB33A0F4A13945D898C296,
  0x4FE342E2FE1A7F9B8EE7EB4A7C0F9E162BCE33576B315ECECBB6406837BF51F5)

/-- A power modulo `m`, the exponent's 256 bits from the top. -/
def powMod (m a e : Nat) : Nat :=
  (List.range 256).foldl (fun r i => if e.testBit (255 - i) then r * r % m * a % m else r * r % m) 1

/-- The inverse modulo a prime. -/
def invMod (m a : Nat) : Nat := powMod m a (m - 2)

/-- Sum of two points; `none` is the point at infinity. -/
def ecAdd : Option (Nat × Nat) → Option (Nat × Nat) → Option (Nat × Nat)
  | none, q => q
  | p, none => p
  | some (x1, y1), some (x2, y2) =>
    let m := p256P
    if x1 = x2 ∧ (y1 + y2) % m = 0 then none
    else
      let l := if x1 = x2 then (3 * x1 * x1 + (m - 3)) * invMod m (2 * y1) % m
        else (y2 + (m - y1)) * invMod m (x2 + (m - x1)) % m
      let x := (l * l + (m - x1) + (m - x2)) % m
      some (x, (l * (x1 + (m - x)) + (m - y1)) % m)

/-- A multiple of a point. -/
def ecMul (k : Nat) (p : Option (Nat × Nat)) : Option (Nat × Nat) :=
  (List.range 256).foldl (fun r i => let d := ecAdd r r; if k.testBit (255 - i) then ecAdd d p else d) none

/-- The signature `r`, `s` over a digest verifies under the public key X, Y; all big-endian (R518). -/
def ecdsaOk (digest key sig : Bytes) : Bool :=
  let x := ofBe (sub key 0 32)
  let y := ofBe (sub key 32 32)
  let r := ofBe (sub sig 0 32)
  let t := ofBe (sub sig 32 32)
  let n := p256N
  decide (x < p256P) && decide (y < p256P) && (y * y) % p256P == (x * x * x + (p256P - 3) * x + p256B) % p256P &&
  decide (1 ≤ r ∧ r < n) && decide (1 ≤ t ∧ t < n) &&
  let w := invMod n t
  match ecAdd (ecMul (ofBe digest * w % n) (some p256G)) (ecMul (r * w % n) (some (x, y))) with
  | none => false
  | some (v, _) => v % n == r

end Sys2Proof.Machine
end

