-- ==== Sys2Proof/Machine/Keys.lean ====
section
/-! DEFINITION. Key slots, secure associations and the Gate challenge: commands 0801h to 0806h and 0F0Ah, rows
KEY_WAIT_LIMIT and NONCE_EXPIRY (R424 to R428, R463, R504 to R515). -/

namespace Sys2Proof.Machine

/-! ### Slots -/

def slotOf (n : Nat) (s : State) : KeySlot := tgetD n {} s.keys.slots
def putSlot (n : Nat) (v : KeySlot) (s : State) : State := { s with keys.slots := tset n v s.keys.slots }

/-- Codes of R428. -/
def SlotState.code : SlotState → Nat
  | .active => 0 | .next => 1 | .installed => 2 | .empty => 3 | .warned => 4 | .exhausted => 5 | .rekey => 6

/-- Fields of an SA image (R427). -/
def saPort (i : Img) : Nat := u8 i 2
def saReceive (i : Img) : Bool := flag i 3 0
def saAn (i : Img) : Nat := fld i 3 1 2
def saSuite (i : Img) : Nat := fld i 3 3 2
def saXpn (i : Img) : Bool := decide (2 ≤ saSuite i)
def saSciTag (i : Img) : Bool := flag i 3 5
def saReplay (i : Img) : Bool := flag i 3 6
def saWindow (i : Img) : Nat := u32 i 4
def saSci (i : Img) : Nat := u64 i 8
def saInitial (i : Img) : Nat := u64 i 16
def saLimit (i : Img) : Nat := u64 i 24
def saWarn (i : Img) : Nat := u64 i 32

/-- A slot holds a key and an SA configuration. -/
def configured (v : KeySlot) : Bool := !v.sa.isEmpty

/-- Active or past its warning: the slot is in use (log 26). -/
def inUse (v : KeySlot) : Bool := v.state == .active || v.state == .warned

/-- Move a slot to a state; every change raises event 50 (R506). -/
def slotState (n : Nat) (st : SlotState) (s : State) : State :=
  let v := slotOf n s
  if v.state = st then s else raise 50 n (putSlot n { v with state := st } s)

/-- A transmit slot of a port. -/
def txSlotOf (p : Nat) (v : KeySlot) : Bool := configured v && !saReceive v.sa && saPort v.sa == p

/-- The slot in use on a port's transmit channel. -/
def txActive (p : Nat) (s : State) : Option Nat :=
  (s.keys.slots.find? (fun e => txSlotOf p e.2 && inUse e.2)).map (·.1)

/-- The Next slot of a port's transmit channel: the one whose predecessor was Active last, else any. -/
def txNext (p : Nat) (s : State) : Option Nat :=
  let next := s.keys.slots.filter (fun e => txSlotOf p e.2 && e.2.state == .next)
  ((next.find? (fun e => e.2.pred.isSome && e.2.pred == tget p s.keys.lastActive)).or next.head?).map (·.1)

/-- The slot becomes the transmit key, the former one Installed with its next PN (R506). -/
def activateNow (n : Nat) (s : State) : State :=
  let p := saPort (slotOf n s).sa
  let s := match txActive p s with
    | some m => if m = n then s else slotState m .installed s
    | none => s
  slotState n .active { s with keys.lastActive := tset p n s.keys.lastActive }

/-- The slot a KEY_ACTIVATE in role 0 named for a port, when it can still take over (R425, R506). -/
def switchSlot (p : Nat) (s : State) : Option Nat :=
  (tget p s.keys.switchTo).filter (fun n => (slotOf n s).state == .installed && txSlotOf p (slotOf n s) && !(slotOf n s).key.isEmpty)

/-- The slot the next frame of a port is protected under (R506, R509): the one that role 0 named, else the one in use, else the
Next slot, which becomes Active. -/
def chooseSlot (p : Nat) (s : State) : Option Nat × State :=
  match switchSlot p s with
  | some n => (some n, activateNow n { s with keys.switchTo := tdel p s.keys.switchTo })
  | none => match txActive p s with
    | some n => (some n, s)
    | none => match txNext p s with
      | some n => (some n, activateNow n s)
      | none => (none, s)

/-- A frame starts under a slot (R506, R509): its PN is used; warning and limit take effect. -/
def useSlot (n : Nat) (s : State) : State :=
  let v := slotOf n s
  let pn := v.nextPn
  let s := putSlot n { v with nextPn := pn + 1, frames := v.frames + 1, used := true } s
  if pn = saLimit v.sa then slotState n .exhausted (raise 49 n s)
  else if v.state = .active ∧ saWarn v.sa ≤ pn + 1 then slotState n .warned (raise 48 n s)
  else s

/-- A frame of a protected channel without a usable SA is dropped and counted (R507). -/
def limitDrop (p : Nat) (s : State) : State :=
  match tget p s.keys.lastActive with
  | some n => putSlot n { slotOf n s with limitDrops := (slotOf n s).limitDrops + 1 } s
  | none => s

/-- The Active receive slot of an SCI and AN on a port (R506, R514). -/
def rxSlot (p sci an : Nat) (s : State) : Option Nat :=
  (s.keys.slots.find? (fun e => configured e.2 && saReceive e.2.sa && saPort e.2.sa == p && e.2.state == .active &&
    saSci e.2.sa == sci && saAn e.2.sa == an)).map (·.1)

/-! ### Checks shared by the commands -/

def slotNo (c : Call) : Nat := u16 c.params 0

/-- No key command acts on a QTL-512E (R2). -/
def cipherPresent (s : State) : Bool := !s.fixed.variantE

/-- Run a key command's act on the QTL-512A. -/
def onCipher (f : State → Work) (s : State) : Work := if cipherPresent s then f s else { status := .notPermitted, st := s }

/-! ### 0801h KEY_INSTALL -/

/-- `QTL512 KEK` and `QTL512 GATE` in ASCII. -/
def kekText : Bytes := [0x51, 0x54, 0x4C, 0x35, 0x31, 0x32, 0x20, 0x4B, 0x45, 0x4B]
def gateText : Bytes := [0x51, 0x54, 0x4C, 0x35, 0x31, 0x32, 0x20, 0x47, 0x41, 0x54, 0x45]

/-- A key derived from the OTP root and the serial (R505, R515). -/
def derivedKey (text : Bytes) (s : State) : Bytes := hmac (be 32 Config.otpRoot.toNat) (text ++ be 8 s.fixed.serial)

/-- Forget a slot's Next role and any Next slot's link to it. -/
def loseNext (n : Nat) (s : State) : State :=
  putSlot n { slotOf n s with pred := none } s

/-- A forced key on an Active transmit slot leaves its channel waiting (R510). -/
def forceWait (v : KeySlot) (s : State) : State :=
  if inUse v && configured v && !saReceive v.sa then { s with keys.waiting := insertNat (saPort v.sa) s.keys.waiting } else s

def actKeyInstall (c : Call) (_ : Nat) (s : State) : Work :=
  let q := fit 48 c.params
  let n := slotNo c
  let len := u8 q 3
  onCipher (fun s =>
    if !s.keys.kek || s.keys.otpLocked then { status := .notPermitted, st := s }
    else
      let v := slotOf n s
      if (inUse v || v.state == .next) && !flag q 2 0 then { status := .keyInUse, st := s }
      else match unwrapKey (derivedKey kekText s) (sub q 8 (len + 8)) with
        | none => { status := .badParam, st := s }
        | some key =>
          let s := forceWait v s
          let s := putSlot n { slotOf n s with key, nextPn := saInitial v.sa, used := false } s
          let s := loseNext n (slotState n .installed s)
          { inline := le 1 (slotOf n s).state.code, st := s }) s

/-- A QTL-512E has no cipher engine (R2): the key commands are not permitted there, a read request among them. -/
def noCipher (s : State) : Bool := !cipherPresent s

def cmdKeyInstall : Cmd := {
  opcode := 0x0801, scope := .device
  lacks := noCipher
  check := fun c _ =>
    need (onlyBytes c [(0, 4), (8, 40)] && decide (slotNo c < 160) && fld c.params 2 1 7 == 0 &&
      (u8 c.params 3 == 16 || u8 c.params 3 == 32) && zeros c.params (16 + u8 c.params 3) (48 - (16 + u8 c.params 3)))
  act := actKeyInstall }

/-- 0801h KEY_INSTALL. -/
def execKeyInstall (c : Call) (s : State) : Result := .next (serve cmdKeyInstall c s)

/-! ### 0802h KEY_ACTIVATE -/

/-- A channel's wait after a forced key ends (R510). -/
def endWait (p : Nat) (s : State) : State := { s with keys.waiting := s.keys.waiting.filter (· != p) }

/-- Role 0: the slot takes over at the next frame to start on its channel (R425). -/
def switchAt (n : Nat) (s : State) : State :=
  let p := saPort (slotOf n s).sa
  endWait p { s with keys.switchTo := tset p n s.keys.switchTo }

/-- Roles of R425; a role for which R506 has no transition from the slot's state is refused. -/
def actKeyActivate (c : Call) (_ : Nat) (s : State) : Work :=
  let q := fit 48 c.params
  let n := slotNo c
  let v := slotOf n s
  let w := slotOf (u16 q 4) s
  onCipher (fun s =>
    if v.state = .empty || !configured v then { status := .notPermitted, st := s }
    else match u8 q 2 with
      | 0 => if v.state = .installed ∧ !saReceive v.sa then { st := switchAt n s } else { status := .notPermitted, st := s }
      | 1 =>
        if !configured w || saPort w.sa != saPort v.sa || saSci w.sa != saSci v.sa || saAn w.sa == saAn v.sa
        then { status := .badParam, st := s }
        else if v.state = .installed ∧ !saReceive v.sa then
          let s := slotState n .next s
          { st := endWait (saPort v.sa) (putSlot n { slotOf n s with pred := some (u16 q 4) } s) }
        else { status := .notPermitted, st := s }
      | 2 => if v.state = .installed ∧ saReceive v.sa then { st := slotState n .active s } else { status := .notPermitted, st := s }
      | _ => if v.state = .active ∧ saReceive v.sa then { st := slotState n .installed s } else { status := .notPermitted, st := s }) s

def cmdKeyActivate : Cmd := {
  opcode := 0x0802, scope := .device
  lacks := noCipher
  check := fun c _ =>
    need (onlyBytes c [(0, 3), (4, 2)] && decide (slotNo c < 160) && decide (u8 c.params 2 ≤ 3) &&
      (if u8 c.params 2 = 1 then decide (u16 c.params 4 < 160) else u16 c.params 4 == 0))
  act := actKeyActivate }

/-- 0802h KEY_ACTIVATE. -/
def execKeyActivate (c : Call) (s : State) : Result := .next (serve cmdKeyActivate c s)

/-! ### 0803h KEY_ERASE, 0806h ZEROIZE_ALL -/

/-- Frames on a wire or held preempted that are being protected under an erased key end with an inverted FCS (R511). -/
def stompUnder (hit : Nat → Bool) (c : Copy) : Bool := !c.stomp && (c.slot.map hit).getD false

def stompTable (hit : Nat → Bool) (t : Tbl Copy) : Tbl Copy :=
  t.map (fun e => (e.1, if stompUnder hit e.2 then { e.2 with stomp := true } else e.2))

def stompPorts (hit : Nat → Bool) (s : State) : List Nat :=
  ((s.drill.portWire ++ s.drill.portHeld).filter (fun e => stompUnder hit e.2)).map (·.1)

def stompFrames (hit : Nat → Bool) (s : State) : State :=
  let ps := stompPorts hit s
  ps.foldl (fun s p => countPort p 30 1 s)
    { s with drill.portWire := stompTable hit s.drill.portWire, drill.portHeld := stompTable hit s.drill.portHeld }

/-- Empty one slot. -/
def eraseSlot (n : Nat) (s : State) : State :=
  let s := slotState n .empty s
  { s with keys.slots := tdel n s.keys.slots, keys.switchTo := s.keys.switchTo.filter (fun e => e.2 != n) }

def actKeyErase (c : Call) (_ : Nat) (s : State) : Work :=
  onCipher (fun s =>
    let hit := fun m => m == slotNo c
    let n := (stompPorts hit s).length
    { inline := le 4 n, st := raise 54 (slotNo c) (stompFrames hit (eraseSlot (slotNo c) s)) }) s

def cmdKeyErase : Cmd := {
  opcode := 0x0803, scope := .device
  lacks := noCipher
  check := fun c _ => need (onlyBytes c [(0, 2)] && decide (slotNo c < 160))
  act := actKeyErase }

/-- 0803h KEY_ERASE. -/
def execKeyErase (c : Call) (s : State) : Result := .next (serve cmdKeyErase c s)

/-- Every slot is emptied and frames under them stomped (R511). -/
def eraseAll (s : State) : State := stompFrames (fun _ => true) ((tkeys s.keys.slots).foldl (fun s n => eraseSlot n s) s)

def actZeroize (_ : Call) (_ : Nat) (s : State) : Work :=
  onCipher (fun s =>
    let n := (stompPorts (fun _ => true) s).length
    { inline := le 4 n, st := raise 54 noObject (eraseAll s) }) s

def cmdZeroizeAll : Cmd := {
  opcode := 0x0806, scope := .device
  lacks := noCipher
  check := fun c _ => need (onlyBytes c [(0, 4)] && u32 c.params 0 == 0x5A45524F)
  act := actZeroize }

/-- 0806h ZEROIZE_ALL. -/
def execZeroizeAll (c : Call) (s : State) : Result := .next (serve cmdZeroizeAll c s)

/-! ### 0804h SA_CONFIG -/

def checkSa (c : Call) (_ : State) : Status :=
  let q := c.params
  let xpn := saXpn q
  need (onlyBytes c [(0, 46)] && decide (slotNo c < 160) && decide (u8 q 2 < 10) && !flag q 3 7 &&
    decide (u32 q 4 ≤ 1073741824) && u64 q 16 != 0 && (xpn || decide (u64 q 24 ≤ 0xFFFFFFFF)) && decide (u64 q 32 < u64 q 24) &&
    (xpn || u32 q 40 == 0) && (if saReceive q then u16 q 44 == 0 else decide (u16 q 44 ≤ 1000)) &&
    (if xpn then decide (16 ≤ c.bulk.length) && zeros c.bulk 12 4 else c.bulk.isEmpty))

/-- Receive SCIs configured besides one slot (R504). -/
def rxScis (n : Nat) (s : State) : List Nat :=
  ((s.keys.slots.filter (fun e => e.1 != n && configured e.2 && saReceive e.2.sa)).map (fun e => saSci e.2.sa)).dedup

def actSaConfig (c : Call) (_ : Nat) (s : State) : Work :=
  let q := fit 48 c.params
  let n := slotNo c
  let p := u8 q 2
  onCipher (fun s =>
    let v := slotOf n s
    if inUse v || v.state == .next then { status := .keyInUse, st := s }
    else if v.used && !saReceive v.sa then { status := .notPermitted, st := s }
    else if saReceive q && !(rxScis n s).contains (saSci q) && decide (16 ≤ (rxScis n s).length) then { status := .noResource, st := s }
    else
      let s := putSlot n { v with sa := q ++ fit 16 c.bulk, nextPn := saInitial q, pred := none } s
      { st := if saReceive q then { s with keys.protRx := insertNat p s.keys.protRx }
              else { s with keys.protTx := insertNat p s.keys.protTx } }) s

/-- Settings of a slot; the salt reads as zeros (R380). -/
def readSa (c : Call) (_ : Nat) (s : State) : Option Bytes :=
  let n := slotNo c
  let v := slotOf n s
  if 160 ≤ n then none
  else if !configured v then some (fit 48 (le 2 n))
  else some (fit 48 v.sa ++ (if saXpn v.sa then fit 16 [] else []))

def cmdSaConfig : Cmd := { opcode := 0x0804, scope := .device, check := checkSa, lacks := noCipher, act := actSaConfig, read := some readSa }

/-- 0804h SA_CONFIG. -/
def execSaConfig (c : Call) (s : State) : Result := .next (serve cmdSaConfig c s)

/-! ### 0805h KEY_STATE -/

/-- Slots in a state. -/
def slotsIn (st : SlotState) (s : State) : Nat := (s.keys.slots.filter (fun e => e.2.state == st)).length

def keySummary (s : State) : Bytes :=
  [SlotState.active, .next, .installed, .exhausted, .rekey].flatMap (fun st => le 2 (slotsIn st s))

def actKeyState (c : Call) (_ : Nat) (s : State) : Work :=
  let n := slotNo c
  let v := slotOf n s
  let total := if cipherPresent s then 160 else 0
  if n = 0xFFFF ∨ !cipherPresent s then { inline := fit 4 [] ++ le 2 total ++ fit 26 [] ++ keySummary s, st := s }
  else { inline := le 1 v.state.code ++ le 1 (u8 v.sa 3) ++ le 1 (u8 v.sa 2) ++ [0] ++ le 2 total ++ [0, 0] ++ le 8 v.nextPn ++
           le 8 v.frames ++ le 4 v.replayDrops ++ le 4 v.limitDrops, st := s }

def cmdKeyState : Cmd := {
  opcode := 0x0805, scope := .device, status := true
  agg := fun _ => [(0, 1, .state), (4, 2, .capacity), (8, 8, .maxU), (16, 8, .counter), (24, 4, .counter), (28, 4, .counter),
    (32, 2, .capacity), (34, 2, .capacity), (36, 2, .capacity), (38, 2, .capacity), (40, 2, .capacity)]
  own := fun c s => need (decide (slotNo c < 160) || slotNo c == 0xFFFF || !cipherPresent s)
  check := fun c _ => need (onlyBytes c [(0, 2)])
  act := actKeyState }

/-- 0805h KEY_STATE. -/
def execKeyState (c : Call) (s : State) : Result := .next (serve cmdKeyState c s)

/-- KEY_WAIT_LIMIT: the channel's wait ends, and R507 applies to its frames (R510). -/
def execKeyWaitLimit (slot : Nat) (s : State) : Result :=
  let v := slotOf slot s
  .next (if configured v then endWait (saPort v.sa) s else s)

/-! ### 0F0Ah GATE_CHALLENGE (R463, R515) -/

/-- Sixteen free bytes. -/
def freshNonce (s : State) : Bytes := le 16 (pick s)

def actGateRequest (c : Call) (_ : Nat) (s : State) : Work :=
  if c.queue = 3 ∨ 3 ≤ s.keys.wrong ∨ s.keys.otpLocked then { status := .notPermitted, st := s }
  else { inline := freshNonce s ++ le 8 s.fixed.serial, st := picked { s with keys.nonce := some (freshNonce s) } }

def cmdGateChallengeRequest : Cmd := {
  opcode := 0x0F0A, scope := .singleDevice, check := fun c _ => need (onlyBytes c [(0, 1)] && u8 c.params 0 == 0), act := actGateRequest }

/-- 0F0Ah GATE_CHALLENGE, phase 0. -/
def execGateChallengeRequest (c : Call) (s : State) : Result := .next (serve cmdGateChallengeRequest c s)

/-- The response is right: HMAC under the Gate key over the nonce and the serial. -/
def gateRight (c : Call) (s : State) : Bool :=
  match s.keys.nonce with
  | some n => hmac (derivedKey gateText s) (n ++ le 8 s.fixed.serial) == sub c.params 8 32
  | none => false

/-- Every response raises event 53 and uses up the nonce; a right one starts the opening. -/
def actGateRespond (c : Call) (_ : Nat) (s : State) : Work :=
  if c.queue = 3 then { status := .notPermitted, st := raise 53 noObject s }
  else
    let ok := gateRight c s
    let s := raise 53 noObject { s with keys.nonce := none }
    if ok && !s.keys.otpLocked then { long := some .gateOpen, st := { s with keys.wrong := 0 } }
    else { status := .notPermitted, st := { s with keys.wrong := s.keys.wrong + 1 } }

def cmdGateChallengeRespond : Cmd := {
  opcode := 0x0F0A, scope := .singleDevice
  check := fun c _ => need (onlyBytes c [(0, 1), (8, 32)] && u8 c.params 0 == 1), act := actGateRespond }

/-- 0F0Ah GATE_CHALLENGE, phase 1. -/
def execGateChallengeRespond (c : Call) (s : State) : Result := .next (serve cmdGateChallengeRespond c s)

/-- NONCE_EXPIRY: the nonce ends 60 s after its request. -/
def execNonceExpiry (s : State) : Result := .next { s with keys.nonce := none }

end Sys2Proof.Machine
end

