-- ==== Sys2Proof/Machine/Granary.lean ====
section
/-! DEFINITION. The Granary: cell admission, bank states, retirement, migration, drains, the patrol and the audit, and
commands 0A01h to 0A04h (R221 to R245, R431 to R434). -/

namespace Sys2Proof.Machine

/-! ### Quotas (R228) -/

/-- Defaults of R228 in the layout of R431. -/
def defaultQuota : Img :=
  le 2 512 ++ le 2 2048 ++ le 2 16384 ++ le 2 8192 ++ le 2 512 ++ le 2 4096 ++ le 2 8 ++ le 2 60 ++ le 2 10 ++ le 2 1000 ++
  le 4 1000 ++ [2, 2, 2, 2, 2, 2, 2, 2, 2, 2] ++ fit 14 []

def quota (s : State) : Img := s.gran.quota.getD defaultQuota
def beaconReserve (s : State) : Nat := u16 (quota s) 0
def steerReserve (s : State) : Nat := u16 (quota s) 2
def tellCap (s : State) : Nat := u16 (quota s) 4
def bulkCap (s : State) : Nat := u16 (quota s) 6

/-- Lowest PCP whose received frames are charged to Tell on a port (R227). -/
def frameTellPcp (p : Nat) (s : State) : Nat := u8 (quota s) (24 + p)

/-! ### Banks (R221, R222, R238) -/

/-- Physical bank behind a logical bank; 255 when Absent. -/
def physOf (l : Nat) (s : State) : Nat := tgetD l l s.gran.map

/-- State code of a physical bank (R238). -/
def bankState (p : Nat) (s : State) : Nat := tgetD p (if p < 128 then 0 else 1) s.gran.state

def setBank (p code : Nat) (s : State) : State := { s with gran.state := tset p code s.gran.state }

/-- A logical bank from which cells are allocated. -/
def unfenced (l : Nat) (s : State) : Bool := physOf l s != 255 && bankState (physOf l s) s == 0

/-- Banks in service: logical banks not Absent. -/
def banksInService (s : State) : Nat := ((List.range 128).filter (fun l => physOf l s != 255)).length

def spareBanks (s : State) : List Nat := (List.range 136).filter (fun p => bankState p s == 1)

/-- The logical bank a physical bank holds. -/
def logicalOf (p : Nat) (s : State) : Option Nat := (List.range 128).find? (fun l => physOf l s == p)

/-- Loss of cells Δ (R244). -/
def lossCells (s : State) : Nat := 256 * (128 - banksInService s)

/-- Caps and Steer reserve in effect (R244). -/
def bulkCapEff (s : State) : Nat := bulkCap s - lossCells s
def tellCapEff (s : State) : Nat := tellCap s - (lossCells s - bulkCap s)
def beaconResEff (s : State) : Nat := min (beaconReserve s) (256 * banksInService s)
def steerResEff (s : State) : Nat := min (steerReserve s) (256 * banksInService s - beaconReserve s)

/-- Bulk or Tell forwarding is stopped by the ladder (R244). -/
def classStopped (cls : Nat) (s : State) : Bool :=
  (cls == 3 && decide (banksInService s < 96)) || (cls == 2 && tellCapEff s == 0)

def resUsed (cls : Nat) (s : State) : Nat := (s.gran.cells.filter (fun e => e.2.charge == cls && e.2.reserve)).length
def sharedUsed (cls : Nat) (s : State) : Nat := (s.gran.cells.filter (fun e => e.2.charge == cls && !e.2.reserve)).length

/-- Free cells in unfenced banks in service. -/
def freeCells (s : State) : Nat :=
  256 * ((List.range 128).filter (fun l => unfenced l s)).length -
    (s.gran.cells.filter (fun e => unfenced (e.1 / 256) s)).length

/-- Free shared cells (R229). -/
def freeShared (s : State) : Nat :=
  freeCells s - (beaconResEff s - resUsed 0 s) - (steerResEff s - resUsed 1 s)

/-- The next bank in rotation with a free cell, and a free cell of it; which one is free (R223). -/
def nextCell (s : State) : Option (Nat × Nat) :=
  let banks := ((List.range 128).map (fun i => (s.gran.rotation + i) % 128)).filter (fun l => unfenced l s)
  let inBank (l : Nat) : Option Nat :=
    ((List.range 256).map (fun i => 256 * l + (pick s + i) % 256)).find? (fun c => (cellOf c s).isNone)
  banks.findSome? (fun l => (inBank l).map (fun c => (l, c)))

/-- What asking for a cell gives (R229). -/
inductive Take
  | got (cell : Nat) (s : State)
  | wait
  | refuse

/-- Allocate a cell charged to a class. -/
def allocCell (cls : Nat) (res : Bool) (s : State) : Take :=
  match nextCell s with
  | some (l, c) =>
    .got c { picked s with gran.cells := tset c { charge := cls, reserve := res, copies := 0 } s.gran.cells
                           gran.freePoison := s.gran.freePoison.filter (· != c), gran.rotation := (l + 1) % 128 }
  | none => if cls < 2 then .wait else .refuse

/-- Take a cell under the reserve, cap and floor rule (R229). -/
def takeCell (cls : Nat) (s : State) : Take :=
  if cls < 2 then
    if resUsed cls s < (if cls = 0 then beaconResEff s else steerResEff s) then allocCell cls true s
    else if 0 < freeShared s then allocCell cls false s
    else .wait
  else if classStopped cls s then .refuse
  else if (if cls = 2 then tellCapEff s else bulkCapEff s) ≤ sharedUsed cls s then .refuse
  else if freeShared s ≤ (if cls = 2 then u16 (quota s) 8 else u16 (quota s) 10) then .refuse
  else allocCell cls false s

/-- Move the charge of a sentence's cells to the class the Harrow assigned: shared, out of any reserve (R231). -/
def moveCharge (g : Grain) (cls : Nat) (s : State) : State :=
  { s with gran.cells := (chain s.gran.cells maxChain g.cell).foldl (fun t i => match tget i t with
      | some x => tset i { x with charge := cls, reserve := false } t
      | none => t) s.gran.cells }

/-! ### Errors (R233, R234, R236) -/

/-- Corrected errors of a bank within the window. -/
def correctedInWindow (p : Nat) (s : State) : Nat :=
  ((tgetD p [] s.gran.corrected).filter (fun t => decide (s.power.upNs ≤ t + u16 (quota s) 14 * 60000000000))).length

/-- Fence a bank and queue its retirement (R239). -/
def fenceBank (p : Nat) (s : State) : State := setBank p 2 { s with gran.queue := s.gran.queue ++ [p] }

/-- A retirement of the bank is under way. -/
def retiring (p : Nat) (s : State) : Bool := bankState p s == 2 || bankState p s == 4

/-- The part decides a retirement itself: it always proceeds (R237, R243). -/
def decideRetire (p : Nat) (s : State) : State :=
  let t := if bankState p s = 0 then fenceBank p s else s
  if retiring p t then { t with gran.selfDecided := insertNat p t.gran.selfDecided } else t

/-- The SECDED code's verdict (R232): it corrects one bit, detects two, and finds a wrong word uncorrectable. -/
def uncorrectable (e : WordError) : Bool :=
  match e with
  | .oneBit => false
  | .twoBits | .wrongWord => true

/-- Retirements decided and not recorded lapse with a reset: the banks are in service again (R239). -/
def lapseRetirements (s : State) : State :=
  s.gran.queue.foldl (fun s p => setBank p 0 s)
    { s with gran.queue := [], gran.selfDecided := s.gran.selfDecided.filter (fun p => !s.gran.queue.contains p), gran.hardRetired := s.gran.hardRetired.filter (fun p => !s.gran.queue.contains p) }

/-- A corrected read: counted once per word and patrol period, event 32, retirement at the threshold (R233, R237). -/
def correctedWord (p word : Nat) (s : State) : State :=
  if s.gran.counted.contains (p, word) then s else
    let s := { s with gran.counted := (p, word) :: s.gran.counted, gran.nCorrected := s.gran.nCorrected + 1,
                      gran.corrected := tmod p [] (s.power.upNs :: ·) s.gran.corrected }
    let s := raise 32 p s
    if u8 (quota s) 12 ≤ correctedInWindow p s then decideRetire p s else s

/-- An uncorrectable read of a word of a logical bank poisons its cell, raises event 33 and retires the bank; a
poisoned cell is treated so without a new event (R234, R237). -/
def uncorrectableWord (p : Nat) (cell : Option Nat) (s : State) : State :=
  if (cell.map (fun c => poisoned c s)).getD false then s else
    let s := match cell with
      | some c => (match cellOf c s with
        | some x => { s with gran.cells := tset c { x with poison := true } s.gran.cells }
        | none => { s with gran.freePoison := c :: s.gran.freePoison })
      | none => s
    let s := { s with gran.nUncorrectable := s.gran.nUncorrectable + 1
                      gran.hardRetired := if bankState p s = 0 then insertNat p s.gran.hardRetired else s.gran.hardRetired }
    decideRetire p (raise 33 p s)

/-- One word the patrol finds in error, in a bank in service, fenced or spare: a spare with any error becomes Spare failed besides
(R233, R236). -/
def patrolFind (s : State) (f : WordFault) : State :=
  let cell := (logicalOf f.bank s).map (fun l => 256 * l + f.word / 32 % 256)
  let found := if uncorrectable f.error then uncorrectableWord f.bank cell s else correctedWord f.bank f.word s
  match bankState f.bank s with
  | 0 | 2 | 4 => found
  | 1 => setBank f.bank 6 found
  | _ => s

/-- A BANK_TEST of the bank has begun: the patrol passes over it (R434). -/
def underTest (p : Nat) (s : State) : Bool :=
  s.stw.ops.any (fun o => o.opcode == 0x0A04 && u8 o.call.params 0 == p && match o.body with
    | .closing _ => false
    | _ => true)

/-- Every spare is written with the pattern of the pass, which the next pass checks (R236). -/
def writePattern (s : State) : State :=
  { s with gran.spareTest := ((spareBanks s).filter (fun p => !underTest p s)).map (fun p => (p, s.gran.pattern)) }

/-- One patrol pass (R236): what it finds on a spare is an error of the pattern the last pass wrote. -/
def execPatrol (finds : List WordFault) (s : State) : Result :=
  .next (writePattern ((finds.filter (fun f => !underTest f.bank s)).foldl patrolFind
    { s with gran.counted := [], gran.pattern := !s.gran.pattern }))

/-! ### Audit (R226) -/

/-- First cells of every grain still referenced. -/
def referenced (s : State) : List Nat :=
  let gs (l : List Grain) : List Nat := (l.filter (fun g => !g.void && g.len != 0)).map (·.cell)
  let cs (l : List Copy) : List Nat := (l.map (fun c => gs ((if c.own then [] else [c.grain]) ++ c.grains.map (·.1)))).flatten
  let recs (l : List Rec) : List Nat := (l.map (·.cells)).flatten
  (s.ploughs.map (fun e => recs (e.2.cur.toList ++ e.2.done) ++ gs e.2.crossing)).flatten ++
  (s.harrow.handoff.map (fun e => gs (e.2.map (·.grain)))).flatten ++
  (s.drill.rows.map (fun e => cs e.2)).flatten ++ cs (s.drill.rowWire.map (·.2)) ++
  (s.drill.ports.map (fun e => cs e.2)).flatten ++ cs (s.drill.portWire.map (·.2)) ++ cs (s.drill.portHeld.map (·.2)) ++
  (s.drill.sheafs.map (fun e => gs (e.2.grains.map (·.1)))).flatten ++ s.stw.inbox.map (·.2)

/-- Free every cell the mark does not reach, each counted as leaked. -/
def execAudit (s : State) : Result :=
  let marked := ((referenced s).map (chain s.gran.cells maxChain)).flatten
  let lost := s.gran.cells.filter (fun e => !marked.contains e.1)
  .next { s with gran.cells := s.gran.cells.filter (fun e => marked.contains e.1), gran.leaked := s.gran.leaked + lost.length
                 gran.freePoison := poisonOf (lost.map (·.1)) s ++ s.gran.freePoison }

/-! ### Drains and migration (R239 to R244) -/

/-- End every BANK_RETIRE waiting on a bank: the spare taken, or FFh when it drained (R433). -/
def finishRetire (p spare : Nat) (s : State) : State :=
  let s := { s with gran.selfDecided := s.gran.selfDecided.filter (· != p) }
  (s.stw.ops.filter (fun o => o.body == .bankRetire p)).foldl (fun s o => endNow o { inline := le 1 spare } s) s

/-- Event 63 when the banks in service first fall below 112 (R244). -/
def checkDegraded (s : State) : State :=
  if decide (banksInService s < 112) && !s.gran.degraded then
    raiseD 63 1 noObject { s with gran.degraded := true } else s

/-- The drain of a bank ends: its logical bank becomes Absent (R242). -/
def endDrain (p : Nat) (s : State) : State :=
  let s := match logicalOf p s with
    | some l => { s with gran.map := tset l 255 s.gran.map }
    | none => s
  let s := setBank p 5 { s with gran.draining := s.gran.draining.filter (· != p) }
  finishRetire p 255 (checkDegraded (raise 34 p s))

/-- Cells held in a physical bank. -/
def heldIn (p : Nat) (s : State) : List Nat :=
  match logicalOf p s with
  | some l => (tkeys s.gran.cells).filter (fun c => c / 256 == l)
  | none => []

/-- DRAIN_END: the draining bank holds no referenced cell (R242). -/
def execDrainEnd (b : Nat) (s : State) : Result :=
  .next (if s.gran.draining.contains b && (heldIn b s).isEmpty then endDrain b s else s)

/-- A grain has a cell in a list. -/
def grainIn (held : List Nat) (s : State) (g : Grain) : Bool :=
  g.len != 0 && !g.void && (chain s.gran.cells maxChain g.cell).any held.contains

/-- A record of a Plough has a cell in a list. -/
def recIn (held : List Nat) (r : Rec) : Bool := r.cells.any held.contains

/-- Records with a cell in the list go: a completed one stays to be freed at the front of its queue and issues no grain. -/
def discardRecs (held : List Nat) (s : State) : State :=
  s.ploughs.foldl (fun s e =>
    let v := e.2
    let done := v.done.map (fun r => if recIn held r then { r with grain := none, bytes := r.bytes.take r.written, inFifo := false } else r)
    match v.cur with
    | some r => if recIn held r then freeRec r { s with ploughs := tset e.1 { v with done, cur := remains r } s.ploughs }
                else { s with ploughs := tset e.1 { v with done } s.ploughs }
    | none => { s with ploughs := tset e.1 { v with done } s.ploughs }) s

/-- Bytes of a grain's entry in a Sheaf (R211). -/
def entryLen (g : Grain) : Nat := 32 + (g.len + 3) / 4 * 4

/-- The grains that satisfy a test leave an open Sheaf: what stays of it, with the rows of those that left. -/
def cutSheaf (hit : Grain → Bool) (o : OpenSheaf) : OpenSheaf :=
  let keep := (o.grains.zip o.rows).foldl (fun (acc : OpenSheaf × Bytes) e =>
    let n := entryLen e.1.1
    (if hit e.1.1 then acc.1
     else { acc.1 with grains := acc.1.grains ++ [e.1], rows := acc.1.rows ++ [e.2], bytes := acc.1.bytes ++ acc.2.take n }, acc.2.drop n))
    ({ o with grains := [], rows := [], bytes := [] }, o.bytes)
  keep.1

/-- Discard from the open Sheafs the grains that satisfy a test, counted under an index of R390. -/
def cutSheafs (hit : Grain → Bool) (idx : Nat) (s : State) : State :=
  s.drill.sheafs.foldl (fun s e =>
    let gone := (e.2.grains.zip e.2.rows).filter (fun x => hit x.1.1)
    let o := cutSheaf hit e.2
    let s := { s with drill.sheafs := if o.grains.isEmpty then tdel e.1 s.drill.sheafs else tset e.1 o s.drill.sheafs }
    gone.foldl (fun s x => countRow x.2 idx 1 (endGrain x.1.1 x.1.2 s)) s) s

/-- Frames whose payload is read as they are sent, and closed Sheafs that wait: the one with such a grain ends with an inverted FCS. -/
def stompHeld (hit : Grain → Bool) (t : Tbl Copy) : Tbl Copy :=
  t.map (fun e => (e.1, if hit e.2.grain || e.2.grains.any (fun x => hit x.1) then { e.2 with stomp := true } else e.2))

/-- CAN copies in a transmit buffer before their start of frame are discarded with the waiting ones (R242). -/
def dropUnsent (hit : Grain → Bool) (s : State) : State :=
  ((s.drill.rowWire.filter (fun e => decide (e.1 < 512) && !e.2.own && hit e.2.grain)).map (·.1)).foldl (fun s r =>
    let s := sofChoice r s
    match tget r s.drill.rowWire with
    | some c => if wireBusy r s then s else discardCopy 26 c { s with drill.rowWire := tdel r s.drill.rowWire }
    | none => s) s

/-- Discard every grain with a cell in the list, copies counted as "bank retired" (index 26). A copy that a field bus has begun to send
has left the Granary (R235); a frame on a port is stomped, and so is a closed Sheaf (R234). -/
def discardHeld (held : List Nat) (s : State) : State :=
  let hit := grainIn held s
  let s := dropUnsent hit s
  let copies := ((s.drill.rows.map (·.2)).flatten ++ (s.drill.ports.map (·.2)).flatten ++
    ((s.drill.rowWire.filter (fun e => decide (512 ≤ e.1))).map (·.2))).filter (fun c => !c.own && hit c.grain)
  let sheafs := (((s.drill.ports.map (·.2)).flatten).filter (·.own)).map (fun c => (c.grains.zip c.rows).filter (fun x => hit x.1.1))
  let wires := ((s.drill.portWire ++ s.drill.portHeld).map (·.2)).filter (fun c => !c.own && hit c.grain)
  let grains := ((s.ploughs.map (fun e => e.2.crossing)).flatten ++
    (s.harrow.handoff.map (fun e => e.2.map (·.grain))).flatten).filter hit
  let s' := { s with
    drill.rows := s.drill.rows.map (fun e => (e.1, e.2.filter (fun c => c.own || !hit c.grain)))
    drill.ports := s.drill.ports.map (fun e => (e.1, (e.2.filter (fun c => c.own || !hit c.grain)).map
      (fun c => if c.grains.any (fun x => hit x.1) then { c with stomp := true } else c)))
    drill.rowWire := s.drill.rowWire.filter (fun e => decide (e.1 < 512) || !hit e.2.grain)
    rings := s.rings.map (fun e => if ((tget (512 + e.1) s.drill.rowWire).map (fun c => hit c.grain)).getD false
      then (e.1, { e.2 with waiting := false }) else e)
    drill.portWire := stompHeld hit s.drill.portWire, drill.portHeld := stompHeld hit s.drill.portHeld
    harrow.handoff := s.harrow.handoff.map (fun e => (e.1, e.2.filter (fun h => !hit h.grain)))
    ploughs := s.ploughs.map (fun e => (e.1, { e.2 with crossing := e.2.crossing.filter (fun g => !hit g) })) }
  let s' := wires.foldl (fun s c => countCopy 26 c s) (sheafs.flatten.foldl (fun s x => countRow x.2 26 1 s) s')
  cutSheafs hit 26 (discardRecs held (grains.foldl (fun s g => dropGrain g s) (copies.foldl (fun s c => discardCopy 26 c s) s')))

/-- DRAIN_LIMIT: at the drain limit every grain with a cell in the bank goes (R242). -/
def execDrainLimit (b : Nat) (s : State) : Result :=
  .next (if s.gran.draining.contains b then endDrain b (discardHeld (heldIn b s) s) else s)

/-- A retirement without a spare drains (R242). -/
def startDrain (p : Nat) (s : State) : State :=
  raise 35 p (setBank p 4 { s with gran.draining := s.gran.draining ++ [p], gran.queue := s.gran.queue.filter (· != p) })

/-- Whether a physical test passes: a free value. -/
def testPasses (s : State) : Bool := decide (pick s % 2 = 0)

/-- Begin the next queued retirement: record the decision, or drain when no spare is left (R240 step 1). -/
def startMigration (p : Nat) (s : State) : State :=
  match logicalOf p s with
  | none => { s with gran.queue := s.gran.queue.filter (· != p) }
  | some l =>
    let opno := s.stw.nextOpno
    let own := (s.stw.ops.find? (fun o => o.body == .bankRetire p)).filter (fun _ => !s.gran.selfDecided.contains p)
    let s := match own with
      | some o => putOp o { o with opno } (openRecord 0x0A03 o.call o.from_.isSome s)
      | none => openRecord 0x0A03 { queue := 0, tag := 0, gen := 0 } false s
    { s with gran.queue := s.gran.queue.filter (· != p), gran.migration := some { old := p, logical := l, step := 2, opno } }

/-- One step of the spare test (R240 step 2): the lowest spare becomes Copy target; its fourth step gives the result. -/
def testStep (m : Migration) (s : State) : State :=
  match m.target with
  | none => match spareBanks s with
    | [] => startDrain m.old (closeRecord m.opno .ok { s with gran.migration := none })
    | t :: _ => setBank t 3 { s with gran.migration := some { m with target := some t, sub := 1 } }
  | some t =>
    if m.sub < 3 then { s with gran.migration := some { m with sub := m.sub + 1 } }
    else if testPasses s then { picked s with gran.migration := some { m with step := 3, sub := 0 } }
    else setBank t 6 { picked s with gran.migration := some { m with target := none, sub := 0 } }

/-- What the reads of a copy step find is left open: nothing, a word corrected, or an uncorrectable one, whose cell is poisoned (R233,
R234; log 115). -/
def migrationRead (m : Migration) (s : State) : State :=
  let i := pick s % 32
  let t := picked s
  if i < 16 then uncorrectableWord m.old (some (256 * m.logical + 16 * m.sub + i)) t
  else if i < 24 then correctedWord m.old (512 * m.sub + pick s / 32 % 512) t
  else t

/-- Step 4: sixteen cells of the logical bank are read and written to the target. -/
def copyCells16 (m : Migration) (s : State) : Migration :=
  let put (t : Tbl Bytes) (c : Nat) : Tbl Bytes :=
    match cellOf c s with
    | some x => tset c x.data t
    | none => t
  { m with image := ((List.range 16).map (fun i => 256 * m.logical + 16 * m.sub + i)).foldl put m.image }

/-- Step 5: the map entry changes; reads of the logical bank find what the target holds. -/
def flipMap (m : Migration) (s : State) : State :=
  { s with gran.map := tset m.logical (m.target.getD 255) s.gran.map, gran.migration := some { m with step := 6, sub := 0, mirror := false, image := [] }
           gran.cells := s.gran.cells.map (fun e => if e.1 / 256 = m.logical then (e.1, { e.2 with data := tgetD e.1 [] m.image }) else e) }

/-- The migration steps on, or the next retirement begins: a record for it must be free, unless it drains (R239, R368). -/
def retireReady (s : State) : Bool :=
  s.stw.up && (s.gran.migration.isSome || (!s.gran.queue.isEmpty && ((spareBanks s).isEmpty || decide (openCount s.stw.ledger < 16))))

/-- The bank whose retirement is at hand. -/
def retireBank (s : State) : Nat :=
  match s.gran.migration with
  | some m => m.old
  | none => s.gran.queue.headD 255

/-- OP_CANCEL of a BANK_RETIRE before the map flip: the retirement it began stops, the bank is in service again and the spare a spare;
one that the part decided itself goes on (R243, R360, R433). DESIGN CHOICE (log 129). -/
def stopRetire (p : Nat) (s : State) : State :=
  if s.gran.selfDecided.contains p then s
  else
    let s := match s.gran.migration with
      | some m => if m.old = p then
          (match m.target with
           | some t => setBank t 1 { s with gran.migration := none }
           | none => { s with gran.migration := none })
        else s
      | none => s
    setBank p 0 { s with gran.queue := s.gran.queue.filter (· != p), gran.draining := s.gran.draining.filter (· != p) }

/-- One Steward step of the migration in progress (R240). -/
def migrationStep (s : State) : State :=
  match s.gran.migration with
  | none => match s.gran.queue with
    | [] => s
    | p :: _ => if (spareBanks s).isEmpty then startDrain p s else startMigration p s
  | some m =>
    let s := countStep m.opno ((stepsOf m.opno s).getD 0 + 1) s
    match m.step with
    | 2 => testStep m s
    | 3 => { s with gran.migration := some { m with step := 4, sub := 0, mirror := true } }
    | 4 =>
      let s := migrationRead m s
      let m := copyCells16 m s
      { s with gran.migration := some (if m.sub < 15 then { m with sub := m.sub + 1 } else { m with step := 5, sub := 0 }) }
    | 5 =>
      if m.sub = 0 then { passPonr m.opno s with gran.migration := some { m with sub := 1 } } else flipMap m s
    | _ =>
      let t := m.target.getD 255
      if m.sub = 0 then raise 34 m.old (setBank t 0 (setBank m.old 5 { s with gran.migration := some { m with sub := 1 } }))
      else finishRetire m.old t (closeRecord m.opno .ok { s with gran.migration := none })

/-! ### Commands -/

/-- Shared cells a quota image would leave. -/
def sharedSize (i : Img) (s : State) : Nat := 256 * banksInService s - u16 i 0 - u16 i 2

/-- Ranges of GRANARY_QUOTA_SET (R228, R431). -/
def checkQuota (c : Call) (_ : State) : Status :=
  let p := c.params
  need (onlyBytes c [(0, 13), (14, 20)] && within 512 (u16 p 0) 2048 && decide (u16 p 2 ≤ 8192) && decide (u16 p 8 ≤ 4096) &&
      within (u16 p 8) (u16 p 10) 16384 && within 1 (u8 p 12) 255 && within 1 (u16 p 14) 1440 && within 1 (u16 p 16) 600 &&
      within 100 (u16 p 18) 60000 && within 10 (u32 p 20) 60000 && (List.range 10).all (fun j => decide (u8 p (24 + j) ≤ 7)))

/-- The quotas against the shared cells they leave in the banks in service. -/
def ownQuota (c : Call) (s : State) : Status :=
  let p := c.params
  if sharedSize p s < 4096 then .noResource
  else need (decide (u16 p 4 ≤ sharedSize p s) && decide (u16 p 6 ≤ sharedSize p s))

def cmdGranaryQuotaSet : Cmd := {
  opcode := 0x0A01, scope := .device
  check := checkQuota
  own := ownQuota
  act := fun c _ s => { st := { s with gran.quota := some (fit 48 c.params) } }
  read := some (fun _ _ s => some (fit 48 (quota s))) }

/-- 0A01h GRANARY_QUOTA_SET. -/
def execGranaryQuotaSet (c : Call) (s : State) : Result := .next (serve cmdGranaryQuotaSet c s)

/-- 0A02h GRANARY_STATE (R432). -/
def actGranaryState (c : Call) (_ : Nat) (s : State) : Work :=
  let held (cls : Nat) : Nat := resUsed cls s + sharedUsed cls s
  { inline := le 1 (banksInService s) ++ le 1 (spareBanks s).length ++
      le 1 (b2n (banksInService s < 112) + 2 * b2n (classStopped 3 s) + 4 * b2n (classStopped 2 s) +
        8 * b2n (s.gran.migration.isSome || !s.gran.draining.isEmpty)) ++ le 1 0 ++
      le 4 (freeCells s) ++ le 4 (held 0) ++ le 4 (held 1) ++ le 4 (held 2) ++ le 4 (held 3) ++ le 4 (freeShared s) ++
      le 4 s.gran.nCorrected ++ le 4 s.gran.nUncorrectable ++ le 4 s.gran.leaked ++
      le 4 ((s.gran.cells.filter (fun e => e.2.poison)).length + s.gran.freePoison.length),
    bulk := (List.range 136).map (fun p => byte (bankState p s)) ++ (List.range 128).map (fun l => byte (physOf l s)) ++
      ((List.range 136).map (fun p => le 2 (correctedInWindow p s))).flatten,
    st := if flag c.params 0 0 then s else { s with gran.nCorrected := 0, gran.nUncorrectable := 0, gran.leaked := 0 } }

def cmdGranaryState : Cmd := {
  opcode := 0x0A02, scope := .device, status := true
  agg := fun _ => [(0, 1, .minU), (1, 1, .minU), (2, 1, .flags), (4, 4, .minU), (8, 4, .capacity), (12, 4, .capacity),
    (16, 4, .capacity), (20, 4, .capacity), (24, 4, .minU), (28, 4, .counter), (32, 4, .counter), (36, 4, .counter),
    (40, 4, .capacity)]
  check := fun c _ => need (onlyBytes c [(0, 1)] && fld c.params 0 1 7 == 0)
  act := actGranaryState }

/-- 0A02h GRANARY_STATE. -/
def execGranaryState (c : Call) (s : State) : Result := .next (serve cmdGranaryState c s)

/-- 0A03h BANK_RETIRE (R243, R433). -/
def actBankRetire (c : Call) (_ : Nat) (s : State) : Work :=
  let p := u8 c.params 0
  if retiring p s && s.gran.selfDecided.contains p then { long := some (.bankRetire p), st := s }
  else if bankState p s ≠ 0 then { status := .notPermitted, st := s }
  else if (spareBanks s).isEmpty && !flag c.params 1 0 then { status := .noResource, st := s }
  else if !(spareBanks s).isEmpty && decide (16 ≤ openCount s.stw.ledger) then { status := .noResource, st := s }
  else { long := some (.bankRetire p), st := fenceBank p s }

def cmdBankRetire : Cmd := {
  opcode := 0x0A03, scope := .device
  check := fun c _ => need (onlyBytes c [(0, 2)] && decide (u8 c.params 0 < 136) && fld c.params 1 1 7 == 0)
  act := actBankRetire }

/-- 0A03h BANK_RETIRE. -/
def execBankRetire (c : Call) (s : State) : Result := .next (serve cmdBankRetire c s)

/-- A passed bank becomes Spare when it may be reinstated (R245). -/
def reinstates (p flags : Nat) (s : State) : Bool :=
  decide (flags % 2 = 1) && (bankState p s == 6 ||
    (bankState p s == 5 && (!s.gran.hardRetired.contains p || decide (flags / 2 % 2 = 1))))

/-- 0A04h BANK_TEST (R245, R434): the outcome and the words in error are free, one apart from the other. -/
def actBankTest (c : Call) (_ : Nat) (s : State) : Work :=
  let p := u8 c.params 0
  let st := bankState p s
  if !([1, 5, 6].contains st) then { status := .notPermitted, st := s }
  else if testPasses s then
    let s' := if reinstates p (u8 c.params 1) s then
        setBank p 1 { s with gran.reinstated := s.gran.reinstated + 1, gran.hardRetired := s.gran.hardRetired.filter (· != p) }
      else s
    { inline := le 1 0 ++ le 1 (bankState p s') ++ le 2 0 ++ le 4 0, st := picked s' }
  else
    let s' := if st = 1 then setBank p 6 s else s
    { inline := le 1 1 ++ le 1 (bankState p s') ++ le 2 0 ++ le 4 (1 + pick (picked s) % 8192), st := picked (picked s') }

def cmdBankTest : Cmd := {
  opcode := 0x0A04, scope := .device, journaled := true
  check := fun c _ => need (onlyBytes c [(0, 2)] && decide (u8 c.params 0 < 136) && fld c.params 1 2 6 == 0)
  act := actBankTest }

/-- 0A04h BANK_TEST. -/
def execBankTest (c : Call) (s : State) : Result := .next (serve cmdBankTest c s)

end Sys2Proof.Machine
end

