-- ==== Sys2Proof/Machine/Routes.lean ====
section
/-! DEFINITION. Route tables and the commands on routes, listener sets, Teams, Sieves and rewrite profiles: 0301h to
0308h (R118 to R125, R131, R132, R135, R137, R139, R144, R146, R392 to R399). -/

namespace Sys2Proof.Machine

/-- A wildcard entry matches (R123). -/
def wildMatch (row key : Nat) (e : Nat × Img) : Bool :=
  decide (8224 ≤ e.1) && (key &&& reKeyMask e.2) == reKey e.2 && (row &&& reRowMask e.2) == (reRow e.2 &&& reRowMask e.2)

/-- Wildcard lookup: the lowest matching index (R123). -/
def wildFind (b : Bank) (row key : Nat) : Option (Nat × Img) := b.routes.find? (wildMatch row key)

/-- The entry's Thinning state carries over (R121, R153). -/
def sameThinning (a b : Img) : Bool :=
  sub a 0 8 == sub b 0 8 && sub a 8 8 == sub b 8 8 && sub a 16 4 == sub b 16 4 && sub a 24 4 == sub b 24 4

/-- Counters and Thinning state of a replaced entry (R119, R121). -/
def keepRt (same : Bool) (r : RouteRt) : RouteRt := if same then r else { r with count := 0, last := none }

/-! ### Placement (R121, R122) -/

/-- Ways of an entry's other bucket. -/
def otherWays (ref : Nat) (e : Img) : List Nat :=
  (waysOf (lookupBytes (reRow e) (reFrame e) (reKey e))).filter (fun w => decide (w < 4096) != decide (ref < 4096))

/-- A path of places, each entry moving to the next, ending at a free way; at most `n` moves. Which entry moves is
Eulyn's choice. -/
def relocPath (t : Tbl Img) (seed : Nat) : Nat → Nat → List Nat → Option (List Nat)
  | 0, _, _ => none
  | n + 1, ref, path =>
    match tget ref t with
    | none => some (path ++ [ref])
    | some e =>
      let ws := (otherWays ref e).filter (fun w => !path.contains w && w != ref)
      match ws.find? (fun w => (tget w t).isNone) with
      | some w => some (path ++ [ref, w])
      | none => match ws with
        | [] => none
        | _ => relocPath t seed n (ws.getD (Config.reloc seed n % ws.length) 0) (path ++ [ref])

/-- Move the entries of a path one place on, last first; runtime state moves with them. -/
def moveAlong (b : Tbl Img) (rt : Tbl RouteRt) : List Nat → Tbl Img × Tbl RouteRt
  | x :: y :: rest =>
    let r := moveAlong b rt (y :: rest)
    match tget x r.1 with
    | some e => (tset y e (tdel x r.1), tset y (tgetD x {} r.2) (tdel x r.2))
    | none => r
  | _ => (b, rt)

/-- Where a new exact entry goes: a free way of its buckets, a way freed by relocation, or the stash; with the table
after relocation. -/
def placeExact (t : Tbl Img) (rt : Tbl RouteRt) (v : Bytes) (seed : Nat) : Option (Nat × Tbl Img × Tbl RouteRt) :=
  let free := (waysOf v).filter (fun w => (tget w t).isNone)
  match free with
  | _ :: _ => some (free.getD (Config.free seed % free.length) 0, t, rt)
  | [] =>
    let first := (waysOf v).getD (Config.free seed % 8) 0
    match relocPath t seed 64 first [] with
    | some p => let m := moveAlong t rt p; some (first, m.1, m.2)
    | none =>
      let fs := stashRefs.filter (fun w => (tget w t).isNone)
      match fs with
      | [] => none
      | _ => some (fs.getD (Config.free seed % fs.length) 0, t, rt)

/-- What writing an entry gives: its reference, replaced, and the tables. -/
structure Placed where
  ref : Nat
  replaced : Bool
  table : Tbl Img
  rt : Tbl RouteRt

/-- Write a route entry (R121 to R123). -/
def placeRoute (t : Tbl Img) (rt : Tbl RouteRt) (wild : Bool) (idx : Nat) (e : Img) (seed : Nat) : Option Placed :=
  let old := if wild then (tget (wildRef idx) t).map (fun x => (wildRef idx, x))
    else t.find? (exactMatch (reRow e) (reFrame e) (reKey e))
  match old with
  | some (ref, x) => some ⟨ref, true, tset ref e t, tset ref (keepRt (sameThinning x e) (tgetD ref {} rt)) rt⟩
  | none =>
    if wild then some ⟨wildRef idx, false, tset (wildRef idx) e t, tset (wildRef idx) {} rt⟩
    else match placeExact t rt (lookupBytes (reRow e) (reFrame e) (reKey e)) seed with
      | none => none
      | some (ref, t', rt') => some ⟨ref, false, tset ref e t', tset ref {} rt'⟩

/-! ### ROUTE_ADD -/

def callWild (c : Call) : Bool := u8 c.params 44 == 1

/-- A thinning field in range for its class (R124, R125). -/
def thinOk (e : Img) : Bool :=
  match reThinMode e with
  | 0 => true
  | 1 => reClass e != 0 && within 2 (reThinN e) 65535
  | 2 => reClass e != 0 && within 100 (reThinN e) 600000000
  | _ => false

/-- Field ranges of a route entry (R124, R125). -/
def routeFieldsOk (e : Img) (wild : Bool) : Bool :=
  fld e 16 10 6 == 0 && u8 e 39 == 0 && fld e 38 6 2 == 0 &&
  if reFrame e then
    !wild && zeros e 8 8 && zeros e 18 2 && fld e 20 11 5 == 0 && zeros e 22 16 && zeros e 40 4
  else
    (if wild then fld e 18 9 7 == 0 && (reKey e &&& reKeyMask e) == reKey e else zeros e 8 8 && zeros e 18 2) &&
    fld e 20 10 6 == 0 && fld e 22 3 5 == 0 && thinOk e && fld e 36 1 7 == 0 && fld e 37 7 1 == 0 &&
    (!reSchedule e || decide (reRelease e < 64))

/-- Team members of a bank's Team. -/
def teamCount (b : Bank) (t : Nat) : Nat := u8 (tgetD t [] b.teams) 1

/-- What an entry names exists: Team with members, Sieve rules, schedule entry (R392). -/
def routeNamesOk (e : Img) (b : Bank) (s : State) : Bool :=
  (match reTeam e with | some t => decide (0 < teamCount b t) | none => true) &&
  (List.range 64).all (fun n => !(Nat.testBit (reSieves e) n) || (tget n b.sieves).isSome) &&
  (!reSchedule e || (tget (reRelease e) s.alm.schedule).isSome)

/-- Common checks of ROUTE_ADD; a wildcard entry goes to exactly one row plot (R392). -/
def checkRouteAdd (c : Call) (s : State) : Status :=
  let wild := callWild c
  if !(onlyBytes c [(0, 46)] && decide (u8 c.params 44 ≤ 1) && (wild || u8 c.params 45 == 0) &&
      routeFieldsOk c.params wild) then .badParam
  else match target c s with
    | .at_ (.row _) _ => .ok
    | .at_ (.remote r) _ => if wild && refKind r != 0 then .badPlot else .ok
    | _ => if wild then .badPlot else .ok

/-- The entry stored: the row is the acting row's (R377); a frame entry belongs to no row and is kept under row 0 (log 20). -/
def routeImage (c : Call) (r : Nat) : Img :=
  let p := fit 46 c.params
  patch p 16 (le 2 (if reFrame p then 512 else r))

/-- 0301h ROUTE_ADD on a bank. -/
def stageRouteAdd (c : Call) (r : Nat) (s : State) (b : Bank) : Status × Bank :=
  let e := routeImage c r
  if !routeNamesOk e b s then (.badParam, b)
  else match placeRoute b.routes [] (callWild c) (u8 c.params 45) e s.free with
    | none => (.noResource, b)
    | some p => (.ok, { b with routes := p.table })

/-- A bank's entry with the row and key of another. -/
def entryLike (c : Call) (e : Img) (b : Bank) : Option (Nat × Img) :=
  if callWild c then (tget (wildRef (u8 c.params 45)) b.routes).map (fun x => (wildRef (u8 c.params 45), x))
  else b.routes.find? (exactMatch (reRow e) (reFrame e) (reKey e))

/-- Reference of the entry and flags: an entry was replaced, the entry is in the stash (R392). -/
def addResult (ref : Nat) (replaced : Bool) : Bytes := le 2 ref ++ le 1 (b2n replaced + 2 * b2n (8192 ≤ ref && ref < 8208))

/-- Result of a ROUTE_ADD on the sown bank. -/
def stagedRouteAdd (c : Call) (r : Nat) (_ : State) (b b' : Bank) : Bytes :=
  let e := routeImage c r
  match entryLike c e b' with
  | some (ref, _) => addResult ref (entryLike c e b).isSome
  | none => []

def actRouteAdd (c : Call) (r : Nat) (s : State) : Work :=
  let e := routeImage c r
  if !routeNamesOk e s.bank s then { status := .badParam, st := s }
  else match placeRoute s.bank.routes s.harrow.routes (callWild c) (u8 c.params 45) e s.free with
    | none => { status := .noResource, st := picked s }
    | some p =>
      { inline := addResult p.ref p.replaced,
        st := { picked s with bank.routes := p.table, harrow.routes := p.rt } }

/-- The entry a query or removal names: in the exact table the sentence entry, or on row 0 the frame entry
(log 20); in the wildcard table the one at the index when the acting row is its row (R393). -/
def namedRoute (c : Call) (r : Nat) (b : Bank) : Option (Nat × Img) :=
  if callWild c then
    match tget (wildRef (u8 c.params 45)) b.routes with
    | some e => if (r &&& reRowMask e) == (reRow e &&& reRowMask e) then some (wildRef (u8 c.params 45), e) else none
    | none => none
  else match exactFind b r false (u64 c.params 0) with
    | some e => some e
    | none => exactFind b r true (u64 c.params 0)

def readRoute (c : Call) (r : Nat) (s : State) : Option Bytes :=
  let frame := reFrame c.params
  let found := if callWild c then namedRoute c r s.bank
    else if u8 c.params 44 = 0 ∧ u8 c.params 45 = 0 then exactFind s.bank (if frame then 0 else r) frame (u64 c.params 0) else none
  found.map (fun e => fit 44 e.2 ++ le 1 (b2n (callWild c)) ++ le 1 (u8 c.params 45) ++ [0, 0])

def cmdRouteAdd : Cmd := {
  opcode := 0x0301, scope := .row, bank := true
  check := checkRouteAdd
  act := actRouteAdd
  stage := stageRouteAdd
  staged := stagedRouteAdd
  read := some readRoute }

/-- 0301h ROUTE_ADD. -/
def execRouteAdd (c : Call) (s : State) : Result := .next (serve cmdRouteAdd c s)

/-! ### ROUTE_REMOVE, ROUTE_QUERY -/

/-- Parameters of R393 and R394 are in range; `n` bytes from offset 44 are in use. -/
def checkNamed (n : Nat) (c : Call) (_ : State) : Status :=
  need (onlyBytes c [(0, 8), (44, n)] && decide (u8 c.params 44 ≤ 1) && (callWild c || u8 c.params 45 == 0))

def stageRouteRemove (c : Call) (r : Nat) (_ : State) (b : Bank) : Status × Bank :=
  match namedRoute c r b with
  | some e => (.ok, { b with routes := tdel e.1 b.routes })
  | none => (.ok, b)

/-- 0302h ROUTE_REMOVE (R393): the entry's counters are lost. -/
def actRouteRemove (c : Call) (r : Nat) (s : State) : Work :=
  match namedRoute c r s.bank with
  | some e => { inline := [1], st := { s with bank.routes := tdel e.1 s.bank.routes, harrow.routes := tdel e.1 s.harrow.routes } }
  | none => { inline := [0], st := s }

def cmdRouteRemove : Cmd := {
  opcode := 0x0302, scope := .row, bank := true
  check := checkNamed 2
  act := actRouteRemove
  stage := stageRouteRemove
  staged := fun c r _ b _ => [byte (b2n (namedRoute c r b).isSome)] }

/-- 0302h ROUTE_REMOVE. -/
def execRouteRemove (c : Call) (s : State) : Result := .next (serve cmdRouteRemove c s)

def routeRt (ref : Nat) (s : State) : RouteRt := tgetD ref {} s.harrow.routes

/-- The seven counters in the order of R119. -/
def routeCounters (v : RouteRt) : Bytes :=
  le 8 v.hits ++ le 8 v.passed ++ le 8 v.sieve ++ le 8 v.team ++ le 8 v.thinned ++ le 8 v.denied ++ le 8 v.void

def clearRouteCounters (v : RouteRt) : RouteRt := { count := v.count, last := v.last }

/-- Parameters of R393 with the mode of R394. -/
def checkMode (m : Nat) (c : Call) (s : State) : Status := firstBad [checkNamed 3 c s, need (u8 c.params 46 == m)]

/-- 0303h ROUTE_QUERY modes 0 and 1 (R394). -/
def actRouteQuery (clear : Bool) (c : Call) (r : Nat) (s : State) : Work :=
  match namedRoute c r s.bank with
  | some e =>
    { inline := fit 44 e.2 ++ le 2 e.1 ++ [1], bulk := routeCounters (routeRt e.1 s),
      st := if clear then { s with harrow.routes := tset e.1 (clearRouteCounters (routeRt e.1 s)) s.harrow.routes } else s }
  | none => { inline := [], bulk := routeCounters {}, st := s }

def cmdRouteQuery : Cmd := {
  opcode := 0x0303, scope := .row, status := true, sums := 8
  agg := fun _ => [(46, 1, .flags)]
  check := checkMode 0
  act := actRouteQuery false }

/-- 0303h ROUTE_QUERY, mode 0. -/
def execRouteQuery (c : Call) (s : State) : Result := .next (serve cmdRouteQuery c s)

def cmdRouteQueryClear : Cmd := {
  opcode := 0x0303, scope := .row, status := true, sums := 8
  agg := fun _ => [(46, 1, .flags)]
  check := checkMode 1
  act := actRouteQuery true }

/-- 0303h ROUTE_QUERY, mode 1. -/
def execRouteQueryClear (c : Call) (s : State) : Result := .next (serve cmdRouteQueryClear c s)

/-- Entries of the named table whose row, or row under its mask, is the acting row (R394 mode 2). -/
def rowRoutes (wild : Bool) (r : Nat) (b : Bank) : List (Nat × Img) :=
  b.routes.filter (fun e => if wild then decide (8224 ≤ e.1) && (r &&& reRowMask e.2) == (reRow e.2 &&& reRowMask e.2)
    else decide (e.1 < 8208) && reRow e.2 == r)

def actRouteList (c : Call) (r : Nat) (s : State) : Work :=
  { bulk := ((rowRoutes (callWild c) r s.bank).map (fun e => le 2 e.1 ++ le 2 0 ++ fit 44 e.2)).flatten, st := s }

def cmdRouteQueryList : Cmd := {
  opcode := 0x0303, scope := .row, status := true, item := 48
  check := checkMode 2
  act := actRouteList }

/-- 0303h ROUTE_QUERY, mode 2. -/
def execRouteQueryList (c : Call) (s : State) : Result := .next (serve cmdRouteQueryList c s)

/-! ### Listener sets -/

def lsetOf (n : Nat) (b : Bank) : Lset := tgetD n {} b.lsets

/-- Contents of a copy of a set (R132). -/
def lsetCopy (l : Lset) (copy : Bool) : BitVec 512 := if l.copy = copy then l.cur else l.other

/-- A grain between Harrow and Drill names a copy of a set (R132). -/
def lsetNamed (n : Nat) (copy : Bool) (s : State) : Bool :=
  s.harrow.handoff.any (fun e => e.2.any (fun h => h.grain.lset == n && h.copy == copy && h.grain.kind != 15))

/-- Write the copy not in force and put it in force (R132). -/
def lsetPut (n : Nat) (v : BitVec 512) (b : Bank) : Bank :=
  let l := lsetOf n b
  { b with lsets := tset n { cur := v, other := l.cur, copy := !l.copy } b.lsets }

def callSet (c : Call) : Nat := fld c.params 0 0 10

def callBitmap (c : Call) : BitVec 512 := BitVec.ofNat 512 (ule c.bulk 0 64)

def stageLset (c : Call) (_ : Nat) (_ : State) (b : Bank) : Status × Bank := (.ok, lsetPut (callSet c) (callBitmap c) b)

/-- 0304h LSET_WRITE (R132, R395). -/
def actLsetWrite (c : Call) (_ : Nat) (s : State) : Work :=
  let n := callSet c
  if lsetNamed n (!(lsetOf n s.bank).copy) s then { status := .busy, st := s }
  else { st := { s with bank := lsetPut n (callBitmap c) s.bank } }

def lsetBytes (n : Nat) (b : Bank) : Bytes := le 64 (lsetOf n b).cur.toNat

def readLset (c : Call) (_ : Nat) (s : State) : Option Bytes :=
  some (fit 48 (le 2 (callSet c)) ++ lsetBytes (callSet c) s.bank)

def cmdLsetWrite : Cmd := {
  opcode := 0x0304, scope := .device, bank := true
  check := fun c _ => need (onlyBytes c [(0, 3)] && fld c.params 0 10 6 == 0 && u8 c.params 2 == 0 && decide (64 ≤ c.bulk.length))
  act := actLsetWrite
  stage := stageLset
  read := some readLset }

/-- 0304h LSET_WRITE. -/
def execLsetWrite (c : Call) (s : State) : Result := .next (serve cmdLsetWrite c s)

def cmdLsetRead : Cmd := {
  opcode := 0x0304, scope := .device, bank := true, status := true
  check := fun c _ => need (onlyBytes c [(0, 3)] && fld c.params 0 10 6 == 0 && u8 c.params 2 == 1)
  act := fun c _ s => { bulk := lsetBytes (callSet c) s.bank, st := s }
  read := some readLset }

/-- 0304h with the read flag. -/
def execLsetRead (c : Call) (s : State) : Result := .next (serve cmdLsetRead c s)

/-! ### Teams -/

/-- Member entry `j` of a Team image: row, rank, quiet limit in ms (R396). -/
def teamMember (i : Img) (j : Nat) : Nat × Nat × Nat :=
  (fld i (16 + 8 * j) 0 9, u8 i (18 + 8 * j), u32 i (20 + 8 * j))

def teamMembers (i : Img) : List (Nat × Nat × Nat) := (List.range (min 4 (u8 i 1))).map (teamMember i)

/-- Ranges of TEAM_SET (R12, R139, R396); with a count of 0 the runs and the hold are not used, reserved bytes stay zero. -/
def teamParamsOk (c : Call) : Bool :=
  let p := c.params
  onlyBytes c [(0, 6), (8, 4), (16, 32)] && fld p 2 1 7 == 0 && decide (u8 p 0 < 128) && decide (u8 p 1 ≤ 4) &&
  (List.range 4).all (fun j => decide (j < u8 p 1) || zeros p (16 + 8 * j) 8) &&
  (u8 p 1 == 0 || (
    within 1 (u8 p 3) 15 && within 1 (u8 p 4) 15 && within 1 (u8 p 5) 15 && within 100 (u32 p 8) 600000 &&
    (List.range 4).all (fun j =>
      decide (u8 p 1 ≤ j) || (fld p (16 + 8 * j) 9 7 == 0 && decide (u8 p (18 + 8 * j) ≤ 3) && u8 p (19 + 8 * j) == 0 &&
        within 1 (u32 p (20 + 8 * j)) 60000)) &&
    noRepeatNat ((teamMembers p).map (·.1)) && noRepeatNat ((teamMembers p).map (·.2.1))))
where
  /-- No two equal. -/
  noRepeatNat (l : List Nat) : Bool := decide l.Nodup

def teamNamed (t : Nat) (b : Bank) : Bool := b.routes.any (fun e => reTeam e.2 == some t)

/-- 0305h TEAM_SET on a bank (R396). -/
def stageTeam (c : Call) (_ : Nat) (_ : State) (b : Bank) : Status × Bank :=
  let t := u8 c.params 0
  if u8 c.params 1 = 0 then
    if teamNamed t b then (.busy, b) else (.ok, { b with teams := tdel t b.teams })
  else if (teamMembers c.params).all (fun m => isTalker (tgetD m.1 [] b.bind) && bankBound m.1 b) then
    (.ok, { b with teams := tset t (fit 48 c.params) b.teams })
  else (.badParam, b)

/-- A member as the Team takes it in: Unheard (R141, R144). -/
def newMember (m : Nat × Nat × Nat) : TeamMember := { row := m.1, rank := m.2.1 }

/-- A Team that receives members after having none is Vacant (R142). -/
def freshTeam (i : Img) : TeamRt := { img := i, members := (teamMembers i).map newMember }

/-- A direct TEAM_SET: a new Team starts Vacant; a change waits for the next decision or expiry (R144). -/
def afterTeam (c : Call) (_ : Nat) (_ s : State) : State :=
  let t := u8 c.params 0
  if u8 c.params 1 = 0 then { s with harrow.teams := tdel t s.harrow.teams }
  else match tget t s.harrow.teams with
    | some v => { s with harrow.teams := tset t { v with pending := some (fit 48 c.params) } s.harrow.teams }
    | none => { s with harrow.teams := tset t (freshTeam (fit 48 c.params)) s.harrow.teams }

/-- A Team never configured reads with the defaults of R139. -/
def defaultTeam (t : Nat) : Img := fit 48 (le 1 t ++ le 1 0 ++ le 1 0 ++ le 1 3 ++ le 1 1 ++ le 1 3 ++ le 2 0 ++ le 4 5000)

def cmdTeamSet : Cmd := {
  opcode := 0x0305, scope := .device, bank := true
  check := fun c _ => need (teamParamsOk c)
  act := directAct stageTeam (fun _ _ _ => []) afterTeam
  stage := stageTeam
  read := some (fun c _ s =>
    if u8 c.params 0 < 128 then some (tgetD (u8 c.params 0) (defaultTeam (u8 c.params 0)) s.bank.teams) else none) }

/-- 0305h TEAM_SET. -/
def execTeamSet (c : Call) (s : State) : Result := .next (serve cmdTeamSet c s)

def TeamState.code : TeamState → Nat
  | .serving => 0 | .seeking => 1 | .vacant => 2 | .silent => 3

def Health.code : Health → Nat
  | .healthy => 0 | .unheard => 1 | .quiet => 2 | .faulty => 3 | .notValid => 4

/-- Put a member in its place by rank. -/
def insertMember (m : TeamMember) : List TeamMember → List TeamMember
  | [] => [m]
  | x :: t => if m.rank ≤ x.rank then m :: x :: t else x :: insertMember m t

/-- Members in rank order. -/
def byRank (l : List TeamMember) : List TeamMember := l.foldr insertMember []

def memberItem (m : TeamMember) : Bytes :=
  le 2 m.row ++ le 1 m.rank ++ le 1 m.health.code ++ le 1 m.good ++ le 1 m.failing ++ le 1 m.invalid ++ le 1 0 ++ le 8 m.stamp

/-- 0306h TEAM_STATE (R397). -/
def actTeamState (c : Call) (_ : Nat) (s : State) : Work :=
  let v := tgetD (u8 c.params 0) {} s.harrow.teams
  let rank := match v.active with
    | some r => ((v.members.find? (fun m => m.row == r)).map (·.rank)).getD 255
    | none => 255
  { inline := le 1 v.state.code ++ le 1 rank ++ le 1 v.members.length ++ le 1 (b2n v.pending.isSome) ++
      le 4 v.failovers ++ le 4 v.nonMember ++ le 4 0 ++ le 8 v.last,
    bulk := ((byRank v.members).map memberItem).flatten, st := s }

def cmdTeamState : Cmd := {
  opcode := 0x0306, scope := .device, status := true, item := 16
  agg := fun _ => [(0, 1, .state), (3, 1, .flags), (4, 4, .counter), (8, 4, .counter), (16, 8, .maxU)]
  check := fun c _ => need (onlyBytes c [(0, 1)] && decide (u8 c.params 0 < 128))
  act := actTeamState }

/-- 0306h TEAM_STATE. -/
def execTeamState (c : Call) (s : State) : Result := .next (serve cmdTeamState c s)

/-! ### Sieves and rewrite profiles -/

/-- A Sieve rule at inline offset 16 is in range (R135, R137). -/
def sieveRuleOk (p : Img) : Bool :=
  let loc := u8 p 16
  let op := u8 p 21
  decide (loc ≤ 1) && decide (op ≤ 12) && decide (u8 p 22 ≤ 3) && fld p 23 2 6 == 0 && zeros p 40 8 &&
  (if loc = 0 then decide (u8 p 17 ≤ 63) && zeros p 18 2 && u8 p 20 == 0 && op != 8
   else u8 p 17 == 0 && decide (u16 p 18 ≤ 255) && within 1 (u8 p 20) 8 && (decide (op ≤ 8) || op == 12))

def stageSieveSet (c : Call) (_ : Nat) (_ : State) (b : Bank) : Status × Bank :=
  (.ok, { b with sieves := tset (u8 c.params 0) (fit 48 c.params) b.sieves })

def readSieve (c : Call) (_ : Nat) (s : State) : Option Bytes := tget (u8 c.params 0) s.bank.sieves

def cmdSieveSet : Cmd := {
  opcode := 0x0307, scope := .device, bank := true
  check := fun c _ => need (onlyBytes c [(0, 2), (16, 32)] && u8 c.params 1 == 0 && decide (u8 c.params 0 < 64) && sieveRuleOk c.params)
  act := directAct stageSieveSet (fun _ _ _ => []) (fun _ _ _ s => s)
  stage := stageSieveSet
  read := some readSieve }

/-- 0307h SIEVE_SET, operation 0. -/
def execSieveSet (c : Call) (s : State) : Result := .next (serve cmdSieveSet c s)

def sieveNamed (n : Nat) (b : Bank) : Bool := b.routes.any (fun e => Nat.testBit (reSieves e.2) n)

def stageSieveClear (c : Call) (_ : Nat) (_ : State) (b : Bank) : Status × Bank :=
  if sieveNamed (u8 c.params 0) b then (.busy, b) else (.ok, { b with sieves := tdel (u8 c.params 0) b.sieves })

def cmdSieveClear : Cmd := {
  opcode := 0x0307, scope := .device, bank := true
  check := fun c _ => need (onlyBytes c [(0, 2), (16, 24)] && fld c.params 23 2 6 == 0 &&
    (if u8 c.params 16 = 0 then zeros c.params 18 3 else u8 c.params 17 == 0) && u8 c.params 1 == 1 && decide (u8 c.params 0 < 64))
  act := directAct stageSieveClear (fun _ _ _ => []) (fun c _ _ s => { s with harrow.sieveFlags := tdel (u8 c.params 0) s.harrow.sieveFlags })
  stage := stageSieveClear
  read := some readSieve }

/-- 0307h SIEVE_SET, operation 1. -/
def execSieveClear (c : Call) (s : State) : Result := .next (serve cmdSieveClear c s)

/-- A character of a talker identifier or source text (R146). -/
def talkerChar (n : Nat) : Bool := within 0x20 n 0x7E && !([0x24, 0x21, 0x5C, 0x2A, 0x2C].contains n)
def sourceChar (n : Nat) : Bool := within 0x20 n 0x7E && !([0x5C, 0x2A, 0x2C].contains n)

/-- Ranges of REWRITE_SET (R146, R399). -/
def rewriteParamsOk (c : Call) : Bool :=
  let p := c.params
  onlyBytes c [(0, 20)] && decide (u8 p 0 < 64) && fld p 1 5 3 == 0 && decide (u8 p 4 ≤ 15) &&
  (if flag p 1 0 then talkerChar (u8 p 2) && talkerChar (u8 p 3) else true) &&
  (List.range 15).all (fun j => if j < u8 p 4 then sourceChar (u8 p (5 + j)) else u8 p (5 + j) == 0)

def stageRewrite (c : Call) (_ : Nat) (_ : State) (b : Bank) : Status × Bank :=
  (.ok, { b with rewrites := tset (u8 c.params 0) (fit 48 c.params) b.rewrites })

def rewriteOf (n : Nat) (b : Bank) : Img := tgetD n (fit 48 (le 1 n)) b.rewrites

def cmdRewriteSet : Cmd := {
  opcode := 0x0308, scope := .device, bank := true
  check := fun c _ => need (rewriteParamsOk c)
  act := directAct stageRewrite (fun _ _ _ => []) (fun _ _ _ s => s)
  stage := stageRewrite
  read := some (fun c _ s => if u8 c.params 0 < 64 then some (rewriteOf (u8 c.params 0) s.bank) else none) }

/-- 0308h REWRITE_SET. -/
def execRewriteSet (c : Call) (s : State) : Result := .next (serve cmdRewriteSet c s)

end Sys2Proof.Machine
end

