-- ==== Sys2Proof/Machine/Hedgerow.lean ====
section
/-! DEFINITION. The Hedgerow: zones, rules, policers, the zone permit mask, and commands 0701h to 0704h (R419 to R423,
R493 to R503). -/

namespace Sys2Proof.Machine

/-! ### Zones (R493, R495) -/

/-- Index of a controller in the zone table: CAN 16, UART 32, LIN 48, MVB 52 upwards; ports below 10. -/
def zoneIndex (kind inst : Nat) : Nat :=
  match kind with
  | 0 => 16 + inst
  | 1 => 32 + inst
  | 2 => 48 + inst
  | _ => 52 + inst

/-- Zone of an endpoint; ports start in zone 0, controllers in zone 1. -/
def zoneAt (n : Nat) (b : Bank) : Nat := tgetD n (if n < 10 then 0 else 1) b.zones

/-- Zone of a bound row; 8 for a row in no zone. -/
def rowZone (r : Nat) (s : State) : Nat :=
  let i := bindOf r s
  match u8 i 0 with
  | 0 | 8 => 8
  | 5 => zoneAt (u8 i 2) s.bank
  | 6 => 6
  | 7 => 7
  | 9 => ((sheafPort (u8 i 2) s.bank s).map (fun p => zoneAt p s.bank)).getD 8
  | k => zoneAt (zoneIndex (k - 1) (u8 i 2)) s.bank

/-- Ingress zone of a grain (R493): a frame or Sheaf by its port, host frames zone 6, sentences by their row. -/
def ingressZone (g : Grain) (s : State) : Nat :=
  if g.kind = 15 then (if g.port < 10 then zoneAt g.port s.bank else 6)
  else if g.remote then zoneAt g.port s.bank
  else rowZone g.row s

/-! ### Frame fields (R496 to R498) -/

/-- A VLAN tag follows the addresses. -/
def frameTagged (f : Bytes) : Bool := ofBe (sub f 12 2) == 0x8100
def frameVid (f : Bytes) : Nat := ofBe (sub f 14 2) % 4096
def frameEthertype (f : Bytes) : Nat := if frameTagged f then ofBe (sub f 16 2) else ofBe (sub f 12 2)
/-- Offset of the first byte after the Ethertype. -/
def frameBody (f : Bytes) : Nat := if frameTagged f then 18 else 14

/-- Priority of a frame: its tag's, or the port's default (R199). -/
def framePcp (f : Bytes) (p : Nat) (s : State) : Nat := if frameTagged f then u8 f 14 / 32 else defaultPcp p s

/-- IP fields of a frame (R498). -/
structure IpFields where
  version : Nat
  src : Bytes
  dst : Bytes
  proto : Nat
  ports : Option (Nat × Nat)

/-- TCP or UDP ports at an offset. -/
def l4Ports (f : Bytes) (o proto : Nat) : Option (Nat × Nat) :=
  if (proto = 6 ∨ proto = 17) ∧ o + 4 ≤ f.length then some (ofBe (sub f o 2), ofBe (sub f (o + 2) 2)) else none

/-- IPv4 with options, or IPv6 whose next header is TCP, UDP or ICMPv6. -/
def ipFields (f : Bytes) : Option IpFields :=
  let o := frameBody f
  let t := frameEthertype f
  if t = 0x0800 ∧ o + 20 ≤ f.length ∧ u8 f o / 16 = 4 then
    let proto := u8 f (o + 9)
    some ⟨4, sub f (o + 12) 4, sub f (o + 16) 4, proto,
      if ofBe (sub f (o + 6) 2) % 8192 = 0 then l4Ports f (o + 4 * (u8 f o % 16)) proto else none⟩
  else if t = 0x86DD ∧ o + 40 ≤ f.length ∧ u8 f o / 16 = 6 then
    let proto := u8 f (o + 6)
    if [6, 17, 58].contains proto then some ⟨6, sub f (o + 8) 16, sub f (o + 24) 16, proto, l4Ports f (o + 40) proto⟩ else none
  else none

/-- The leading `n` bits of two addresses agree. -/
def prefixEq (n : Nat) (a b : Bytes) : Bool :=
  let w := 8 * a.length
  ofBe a / 2 ^ (w - n) == ofBe b / 2 ^ (w - n)

/-! ### Rules (R420, R496, R497) -/

/-- Offset of the rule in its setting image: the bulk parameters follow the 48 inline bytes. -/
def ruleOf (n : Nat) (b : Bank) : Option Bytes := (tget n b.rules).map (·.drop 48)

def ruleAllows (r : Bytes) : Bool := !flag r 84 0
def ruleCounts (r : Bytes) : Bool := flag r 84 1
def ruleMirrors (r : Bytes) : Bool := flag r 84 2
def rulePolices (r : Bytes) : Bool := flag r 84 3
def ruleMacsec (r : Bytes) : Bool := flag r 84 4

/-- IP address match enables [7] and [8]. -/
def ipMatch (r : Bytes) (ip : Option IpFields) : Bool :=
  match ip with
  | none => !(fld r 0 7 5 != 0)
  | some x =>
    (!flag r 0 7 || (u8 r 40 == x.version && prefixEq (u8 r 42) x.src (sub r 44 x.src.length))) &&
    (!flag r 1 0 || (u8 r 40 == x.version && prefixEq (u8 r 43) x.dst (sub r 60 x.dst.length))) &&
    (!flag r 1 1 || u8 r 41 == x.proto) &&
    (match x.ports with
      | none => !flag r 1 2 && !flag r 1 3
      | some q => (!flag r 1 2 || within (u16 r 76) q.1 (u16 r 78)) && (!flag r 1 3 || within (u16 r 80) q.2 (u16 r 82)))

/-- Enables of the frame fields [2] to [11] match a frame. -/
def frameMatch (r : Bytes) (f : Bytes) (p : Nat) (s : State) : Bool :=
  (!flag r 0 2 || sub f 0 6 == sub r 24 6) && (!flag r 0 3 || sub f 6 6 == sub r 30 6) &&
  (!flag r 0 4 || (frameTagged f && frameVid f == fld r 36 0 12)) &&
  (!flag r 0 5 || ((frameTagged f || decide (p < 10)) && framePcp f p s == fld r 37 4 3)) &&
  (!flag r 0 6 || frameEthertype f == u16 r 38) && ipMatch r (ipFields f)

/-- A rule matches a grain for an ingress and an egress zone (R496, R497). -/
def ruleMatches (r : Bytes) (g : Grain) (f : Bytes) (zi z : Nat) (s : State) : Bool :=
  decide (zi < 8) && flag r 2 zi && flag r 3 z &&
  (if g.kind = 15 then fld r 0 0 2 == 0 && frameMatch r f g.port s
   else fld r 0 2 10 == 0 &&
    (!flag r 0 0 || (g.row &&& fld r 6 0 9) == (fld r 4 0 9 &&& fld r 6 0 9)) &&
    (!flag r 0 1 || (g.key &&& u64 r 16) == (u64 r 8 &&& u64 r 16)))

/-- The lowest-indexed rule that matches. -/
def findRule (g : Grain) (f : Bytes) (zi z : Nat) (s : State) : Option (Nat × Bytes) :=
  (s.bank.rules.map (fun e => (e.1, e.2.drop 48))).find? (fun e => ruleMatches e.2 g f zi z s)

/-! ### Policers (R422, R501) -/

def policerRt (n : Nat) (s : State) : PolicerRt := tgetD n {} s.harrow.policers
def policerCfg (n : Nat) (b : Bank) : Img := tgetD n [] b.policers
def policerOn (n : Nat) (b : Bank) : Bool := flag (policerCfg n b) 1 0

/-- Level after the time since it was last brought up to date: rate in kb/s, so rate / 8 bytes per ms. -/
def policerLevel (cfg : Img) (v : PolicerRt) (now : Nat) : Rat :=
  min (u32 cfg 8 : Rat) (v.level + (u32 cfg 4 : Rat) * ((now - v.at_ : Nat) : Rat) / 8000000)

/-- A grain reaches a policer: whether it conforms, and the policer after it. -/
def police (cfg : Img) (v : PolicerRt) (len now : Nat) : Bool × PolicerRt :=
  let l := policerLevel cfg v now
  if (len : Rat) ≤ l then (true, { v with level := l - len, at_ := now, conform := v.conform + 1 })
  else (false, { v with level := l, at_ := now, exceed := v.exceed + 1 })

/-! ### The permit mask (R499, R500) -/

/-- What the Hedgerow has found for a grain so far. -/
structure Permit where
  mask : BitVec 8 := 0
  /-- Policers met with their verdict, rules counted, mirror ring. -/
  met : List (Nat × Bool) := []
  counted : List Nat := []
  mirror : Option Nat := none
  bulk : Bool := false
  st : State

/-- Ports in a zone. -/
def zonePorts (z : Nat) (b : Bank) : List Nat := (List.range 10).filter (fun p => zoneAt p b == z)

/-- Every port of a zone is protected on transmit; the bit has no effect on the QTL-512E (R3, R500). -/
def zoneProtected (z : Nat) (s : State) : Bool :=
  s.fixed.variantE || (zonePorts z s.bank).all (fun p => s.keys.protTx.contains p)

/-- Advance a rule's hit count and last hit (R500). -/
def hitRule (n : Nat) (s : State) : State :=
  { s with harrow.rules := tmod n {} (fun v => { v with hits := v.hits + 1, last := stampOf (nowNs s) }) s.harrow.rules }

/-- Charge a policer once per grain (R501). -/
def chargePolicer (n : Nat) (g : Grain) (a : Permit) : Bool × Permit :=
  match a.met.find? (fun e => e.1 == n) with
  | some e => (e.2, a)
  | none =>
    if !policerOn n a.st.bank then (true, a) else
      let r := police (policerCfg n a.st.bank) (policerRt n a.st) g.len a.st.power.upNs
      (r.1, { a with met := (n, r.1) :: a.met, st := { a.st with harrow.policers := tset n r.2 a.st.harrow.policers } })

/-- One egress zone. -/
def zoneStep (g : Grain) (f : Bytes) (zi : Nat) (a : Permit) (z : Nat) : Permit :=
  match findRule g f zi z a.st with
  | none => if z = zi ∧ a.st.bank.within.getLsbD z then { a with mask := a.mask ||| bitAt 8 z } else a
  | some (n, r) =>
    let q := if ruleAllows r && rulePolices r then chargePolicer (u8 r 85) g a else (true, a)
    let toBulk := !q.1 && flag (policerCfg (u8 r 85) q.2.st.bank) 1 1
    let ok := ruleAllows r && (q.1 || toBulk) && (!ruleMacsec r || zoneProtected z q.2.st)
    let b := q.2
    let b := if ruleCounts r && !b.counted.contains n then { b with counted := n :: b.counted, st := hitRule n b.st } else b
    let b := { b with mirror := if ruleMirrors r && b.mirror.isNone then some (u8 r 86 % 16) else b.mirror
                      bulk := b.bulk || (ruleAllows r && toBulk) }
    if ok then { b with mask := b.mask ||| bitAt 8 z } else b

/-- The zone permit mask of a grain (R499); zones in ascending order. -/
def hedgerow (g : Grain) (s : State) : Permit :=
  let f := if g.kind = 15 then payload g.cell g.len s else []
  (List.range 8).foldl (zoneStep g f (ingressZone g s)) { st := s }

/-! ### 0701h RULE_WRITE, 0702h RULE_CLEAR -/

def ruleIndex (c : Call) : Nat := u16 c.params 0

/-- A prefix an enabled address match may have (R419). -/
def ipOk (r : Bytes) : Bool :=
  (!flag r 0 7 && !flag r 1 0) ||
  ((u8 r 40 == 4 && (!flag r 0 7 || decide (u8 r 42 ≤ 32)) && (!flag r 1 0 || decide (u8 r 43 ≤ 32))) ||
   (u8 r 40 == 6 && (!flag r 0 7 || decide (u8 r 42 ≤ 128)) && (!flag r 1 0 || decide (u8 r 43 ≤ 128))))

/-- Ranges of a rule image (R12, R419, R420, R497). -/
def ruleOk (r : Bytes) : Bool :=
  fld r 0 12 4 == 0 && u8 r 2 != 0 && u8 r 3 != 0 && fld r 4 9 7 == 0 && fld r 6 9 7 == 0 && fld r 37 7 1 == 0 &&
  fld r 84 5 3 == 0 && u8 r 87 == 0 && ipOk r && (fld r 0 0 2 == 0 || fld r 0 2 10 == 0) && decide (u8 r 86 < 16) &&
  (!flag r 1 2 || decide (u16 r 76 ≤ u16 r 78)) && (!flag r 1 3 || decide (u16 r 80 ≤ u16 r 82))

/-- 0701h RULE_WRITE on a bank (R419). -/
def stageRule (c : Call) (_ : Nat) (s : State) (b : Bank) : Status × Bank :=
  let r := fit 88 c.bulk
  if rulePolices r && !policerOn (u8 r 85) b then (.badParam, b)
  else if ruleMirrors r && (tget (u8 r 86) s.rings).isNone then (.notPermitted, b)
  else (.ok, { b with rules := tset (ruleIndex c) (fit 48 c.params ++ r) b.rules })

def afterRule (c : Call) (_ : Nat) (_ s : State) : State := { s with harrow.rules := tdel (ruleIndex c) s.harrow.rules }

def cmdRuleWrite : Cmd := {
  opcode := 0x0701, scope := .device, bank := true
  check := fun c _ => need (onlyBytes c [(0, 3)] && u8 c.params 2 == 0 && decide (ruleIndex c < 2048) && decide (88 ≤ c.bulk.length) && ruleOk (fit 88 c.bulk))
  act := directAct stageRule (fun _ _ _ => []) afterRule
  stage := stageRule
  marks := fun c _ => [(0, ruleIndex c)] }

/-- 0701h RULE_WRITE, operation 0. -/
def execRuleWrite (c : Call) (s : State) : Result := .next (serve cmdRuleWrite c s)

def ruleRt (n : Nat) (s : State) : RuleRt := tgetD n {} s.harrow.rules

/-- 0701h RULE_WRITE, operation 1 (R419). -/
def actRuleRead (c : Call) (_ : Nat) (s : State) : Work :=
  let n := ruleIndex c
  { inline := le 8 (ruleRt n s).hits ++ le 8 (ruleRt n s).last, bulk := fit 88 ((ruleOf n s.bank).getD []), st := s }

def cmdRuleRead : Cmd := {
  opcode := 0x0701, scope := .device, bank := true, status := true, item := 88
  agg := fun _ => [(0, 8, .counter), (8, 8, .maxU)]
  check := fun c _ => need (onlyBytes c [(0, 3)] && u8 c.params 2 == 1 && decide (ruleIndex c < 2048))
  act := actRuleRead }

/-- 0701h RULE_WRITE, operation 1. -/
def execRuleRead (c : Call) (s : State) : Result := .next (serve cmdRuleRead c s)

/-- Rules a clear names. -/
def clearRange (c : Call) (n : Nat) : Bool := decide (ruleIndex c ≤ n ∧ n < ruleIndex c + u16 c.params 2)

def stageRuleClear (c : Call) (_ : Nat) (_ : State) (b : Bank) : Status × Bank :=
  (.ok, { b with rules := b.rules.filter (fun e => !clearRange c e.1) })

/-- 0702h RULE_CLEAR (R421). -/
def actRuleClear (c : Call) (_ : Nat) (s : State) : Work :=
  { inline := le 2 ((s.bank.rules.filter (fun e => clearRange c e.1)).length),
    st := { s with bank.rules := s.bank.rules.filter (fun e => !clearRange c e.1),
                   harrow.rules := s.harrow.rules.filter (fun e => !clearRange c e.1) } }

def cmdRuleClear : Cmd := {
  opcode := 0x0702, scope := .device, bank := true
  check := fun c _ => need (onlyBytes c [(0, 4)] && within 1 (u16 c.params 2) 2048 && decide (ruleIndex c + u16 c.params 2 ≤ 2048))
  act := actRuleClear
  stage := stageRuleClear
  staged := fun c _ _ b _ => le 2 (b.rules.filter (fun e => clearRange c e.1)).length }

/-- 0702h RULE_CLEAR. -/
def execRuleClear (c : Call) (s : State) : Result := .next (serve cmdRuleClear c s)

/-! ### 0703h POLICER_SET, 0704h ZONE_SET -/

/-- Rate and burst ranges; a disabled policer's are checked too (R379). -/
def policerOk (c : Call) : Bool :=
  onlyBytes c [(0, 2), (4, 8)] && fld c.params 1 3 5 == 0 && within 8 (u32 c.params 4) 40000000 &&
  within 64 (u32 c.params 8) 16777216

/-- The setting kept: the peek flag is no part of it. -/
def policerImage (c : Call) : Img := patch (fit 48 c.params) 1 [byte (u8 c.params 1 % 4)]

def stagePolicer (c : Call) (_ : Nat) (_ : State) (b : Bank) : Status × Bank :=
  (.ok, { b with policers := tset (u8 c.params 0) (policerImage c) b.policers })

/-- 0703h POLICER_SET (R422): the level is cut to a smaller burst; a policer newly enabled is full (R501). -/
def actPolicer (c : Call) (_ : Nat) (s : State) : Work :=
  let n := u8 c.params 0
  let old := policerCfg n s.bank
  let v := policerRt n s
  let now := s.power.upNs
  let burst : Rat := u32 c.params 8
  let level := if flag old 1 0 then min burst (policerLevel old v now) else burst
  let v' := { v with level, at_ := now }
  let v' := if flag c.params 1 2 then v' else { v' with conform := 0, exceed := 0 }
  { inline := le 8 v.conform ++ le 8 v.exceed,
    st := { s with bank.policers := tset n (policerImage c) s.bank.policers, harrow.policers := tset n v' s.harrow.policers } }

/-- Counters of a policer (R422). -/
def policerCounts (n : Nat) (s : State) : Bytes := le 8 (policerRt n s).conform ++ le 8 (policerRt n s).exceed

/-- A policer never set reads as disabled, with rate and burst zero (log 21). Staged, its counters clear at the flip. -/
def cmdPolicerSet : Cmd := {
  opcode := 0x0703, scope := .device, bank := true
  check := fun c _ => need (policerOk c)
  act := actPolicer
  stage := stagePolicer
  staged := fun c _ s _ _ => policerCounts (u8 c.params 0) s
  marks := fun c _ => if flag c.params 1 2 then [] else [(1, u8 c.params 0)]
  read := some (fun c _ s => some (fit 48 (le 1 (u8 c.params 0) ++ (policerCfg (u8 c.params 0) s.bank).drop 1))) }

/-- 0703h POLICER_SET. -/
def execPolicerSet (c : Call) (s : State) : Result := .next (serve cmdPolicerSet c s)

/-- Endpoint indices named by a membership layout at offset 2. -/
def zoneMembers (q : Bytes) : List Nat :=
  ((List.range 10).filter (fun n => mapBit q 2 n)) ++ ((List.range 16).filter (fun n => mapBit q 4 n)).map (16 + ·) ++
  ((List.range 16).filter (fun n => mapBit q 6 n)).map (32 + ·) ++ ((List.range 6).filter (fun n => flag q 8 n)).map (48 + ·)

/-- Membership of a zone in the layout of offsets 2 to 9 of R423. -/
def zoneBytes (z : Nat) (b : Bank) : Bytes :=
  let m (o n : Nat) : Nat := ofBits ((List.range n).map (fun i => zoneAt (o + i) b == z))
  le 2 (m 0 10) ++ le 2 (m 16 16) ++ le 2 (m 32 16) ++ le 1 (m 48 6) ++ le 1 (b2n (b.within.getLsbD z))

def stageZone (c : Call) (_ : Nat) (_ : State) (b : Bank) : Status × Bank :=
  let z := u8 c.params 0
  let w := if flag c.params 9 0 then b.within ||| bitAt 8 z else b.within &&& ~~~(bitAt 8 z)
  (.ok, { b with zones := (zoneMembers c.params).foldl (fun t n => tset n z t) b.zones, within := w })

/-- The result is the membership in force: after an atomic command its own, under the staged flag still the standing bank's (R423). -/
def cmdZoneSet : Cmd := {
  opcode := 0x0704, scope := .device, bank := true
  check := fun c _ => need (onlyBytes c [(0, 1), (2, 8)] && decide (u8 c.params 0 < 8) && fld c.params 3 2 6 == 0 &&
    fld c.params 8 6 2 == 0 && fld c.params 9 1 7 == 0 && (decide (u8 c.params 0 < 6) || zeros c.params 2 7))
  act := directAct stageZone (fun c _ s => fit 2 [] ++ zoneBytes (u8 c.params 0) s.bank) (fun _ _ _ s => s)
  stage := stageZone
  staged := fun c _ s _ b => fit 2 [] ++ zoneBytes (u8 c.params 0) (if c.atomic then b else s.bank)
  read := some (fun c _ s =>
    if u8 c.params 0 < 8 then some (fit 48 (le 1 (u8 c.params 0) ++ le 1 0 ++ zoneBytes (u8 c.params 0) s.bank)) else none) }

/-- 0704h ZONE_SET. -/
def execZoneSet (c : Call) (s : State) : Result := .next (serve cmdZoneSet c s)

end Sys2Proof.Machine
end

