-- ==== Sys2Proof/Machine/Queues.lean ====
section
/-! DEFINITION. Egress queues of rows and ports, Plough tables, and sentences Eulyn originates (R79, R112, R189, R197,
R200). -/

namespace Sys2Proof.Machine

/-! ### Ploughs -/

/-- Key of a Plough in the Plough table. -/
def ploughKey : PloughId → Nat
  | .uart k => k
  | .can k => 16 + k
  | .lin k => 32 + k
  | .mvb k => 36 + k
  | .eth p => 38 + p
  | .pcie => 48
  | .steward => 49

def ploughOf (p : PloughId) (s : State) : Plough := tgetD (ploughKey p) {} s.ploughs
def setPlough (p : PloughId) (v : Plough) (s : State) : State := { s with ploughs := tset (ploughKey p) v s.ploughs }

/-- A completed record joins its Plough's queue, in the order the sentences ended (R79). -/
def finishRec (p : PloughId) (r : Rec) (s : State) : State :=
  setPlough p { ploughOf p s with done := (ploughOf p s).done ++ [r] } s

/-! ### Islands and the Granary's ports (R14, R17, R19) -/

/-- Island of a Plough by its place in the list of R14, as a Granary port names it (log 57). -/
def islandOf (key : Nat) : Nat :=
  if key < 38 then 6 else if key < 48 then 1 else if key = 48 then 4 else 7

/-- The Drill's island, which reads payloads. -/
def drillIsland : Nat := 2

/-- The Granary write port of a Plough's island is stalled. -/
def writeStalled (p : PloughId) (s : State) : Bool := s.harrow.stalled.contains (.granary (islandOf (ploughKey p)))

/-- The Granary read port of the Drill is stalled. -/
def readStalled (s : State) : Bool := s.harrow.stalled.contains (.granary drillIsland)

/-- Cells in the write port's FIFO of a Plough's island, and room for one more. -/
def portFifo (p : PloughId) (s : State) : Nat := tgetD (islandOf (ploughKey p)) 0 s.harrow.portFifo
def writeRoom (p : PloughId) (s : State) : Bool := !writeStalled p s || decide (portFifo p s < 8)

/-- A cell written through a stalled port waits in its FIFO. -/
def enterFifo (p : PloughId) (s : State) : State :=
  if writeStalled p s then { s with harrow.portFifo := tadd (islandOf (ploughKey p)) 1 s.harrow.portFifo } else s

/-! ### Row queues (R197) -/

/-- Order of a row's queues: class, then release time. -/
def rowBefore (a b : Copy) : Bool :=
  decide (a.grain.cls < b.grain.cls) || (a.grain.cls == b.grain.cls && decide (a.release ≤ b.release))

/-- A copy enters a row's egress queue; the high-water mark follows (R390). -/
def enqueueRow (r : Nat) (c : Copy) (s : State) : State :=
  let q := insertBy rowBefore c (tgetD r [] s.drill.rows)
  let s := { s with drill.rows := tset r q s.drill.rows }
  setRowRt r { rowRt r s with high := max (rowRt r s).high q.length } s

/-! ### CAN records (R94, R95) -/

/-- Payload of a CAN sentence: the 16-byte header, big-endian, and the data field. -/
def canRecord (f : CanFrame) : Bytes :=
  [byte (128 * b2n f.ide + 64 * b2n f.rtr + 32 * b2n f.fdf + 16 * b2n f.brs + 8 * b2n f.esi + 4 * b2n f.xlf + 2 * b2n f.sec)] ++
  [byte f.sdt] ++ be 2 f.data.length ++ be 4 f.id ++ [byte f.vcid] ++ [byte f.dlc] ++ be 2 0 ++ be 4 f.af ++ f.data

/-- Key of a CAN frame. -/
def canKey (f : CanFrame) : Nat :=
  if f.xlf then 4 * 2 ^ 60 + (f.id % 2048) * 2 ^ 16 + (f.vcid % 256) * 2 ^ 8 + f.sdt % 256
  else 3 * 2 ^ 60 + b2n f.ide * 2 ^ 59 + b2n f.rtr * 2 ^ 58 + f.id % 2 ^ 29

/-- A frame read back from a record. -/
def canOfRecord (d : Bytes) : CanFrame :=
  { ide := flag d 0 7, rtr := flag d 0 6, fdf := flag d 0 5, brs := flag d 0 4, esi := flag d 0 3, xlf := flag d 0 2,
    sec := flag d 0 1, sdt := u8 d 1, id := ofBe (sub d 4 4), vcid := u8 d 8, dlc := u8 d 9, af := ofBe (sub d 12 4),
    data := (d.drop 16).take (ofBe (sub d 2 2)) }

/-! ### Eulyn's own sentences (R112) -/

/-- Eulyn submits a sentence on a Steward row. -/
def stewardSentence (r key : Nat) (d : Bytes) (s : State) : State :=
  let t := stampOf (nowNs s)
  let cls := fld (bindOf r s) 12 0 2
  let g : Grain := { key, stamp := t, row := r, len := d.length, kind := 8, ingress := cls, cls,
                     notLocked := s.alm.state != .locked }
  finishRec .steward { row := r, bytes := d, stamp := t, cls, grain := some g } s

end Sys2Proof.Machine
end

