-- ==== Sys2Proof/Machine/Nm.lean ====
section
/-! DEFINITION. Sleep agreement of the networks: states, needs, messages, and commands 0B04h and 0B05h (R438, R439, R549 to
R555). -/

namespace Sys2Proof.Machine

/-! ### Settings and state -/

/-- Defaults of R549 in the layout of R438, mode off. -/
def defaultNm (n : Nat) : Img :=
  fit 48 ([byte n, 0, 0, 1] ++ le 4 0 ++ le 2 100 ++ le 2 1000 ++ le 2 200 ++ le 2 5 ++ le 2 300)

def netOf (n : Nat) (s : State) : Nm := tgetD n {} s.power.nets
def setNet (n : Nat) (v : Nm) (s : State) : State := { s with power.nets := tset n v s.power.nets }

def nmMode (v : Nm) : Nat := u8 v.img 1
def nmAddr (v : Nm) : Nat := u8 v.img 2
def nmNodes (v : Nm) : Nat := u8 v.img 3
def nmId (v : Nm) : Nat := fld v.img 4 0 29
def nmIde (v : Nm) : Bool := flag v.img 7 7

/-- The part needs the network (R551). -/
def nmNeeds (v : Nm) : Bool := v.need || v.traffic || v.waking

/-- Event 57 with its detail of R573: 0 Bus-sleep, 1 veto, 2 wake, 3 confirmation not sent, 4 listen port down. -/
def agreementEvent (net detail : Nat) (s : State) : State := raiseD 57 detail net s

/-- Key of agreement sentences on the backbone (R550). -/
def agreementKey : Nat := 0x7000000000004E4D

/-- The row bound to Steward instance 7 as talker and listener. -/
def agreementRow (s : State) : Option Nat :=
  (s.bank.bind.find? (fun e => u8 e.2 0 == 7 && u8 e.2 2 == 7 && isTalker e.2 && isListener e.2)).map (·.1)

/-- The 8 bytes of an agreement message (R550). -/
def nmBytes (v : Nm) (kind dest : Nat) (consent : Bool) (runStart : Nat) : Bytes :=
  [byte (nmAddr v), byte kind, byte dest, byte (b2n consent), byte runStart, byte v.round, 0, 0]

/-- Send an agreement message: a Steer copy due at once on the controller, or a Steward sentence on the backbone. -/
def sendNm (net kind dest : Nat) (consent : Bool) (runStart : Nat) (s : State) : State :=
  let v := netOf net s
  let d := nmBytes v kind dest consent runStart
  let s := emit (.nm net kind dest consent runStart) s
  if net = 16 then
    match agreementRow s with
    | some r => stewardSentence r agreementKey d s
    | none => s
  else match (rowsOf s.bank 0 net).find? (fun r => s.bank.enabled.contains r) with
    | some r =>
      let f : CanFrame := { ide := nmIde v, id := nmId v + nmAddr v, dlc := 8, data := d }
      let t := stampOf s.power.upNs
      let g : Grain := { key := canKey f, stamp := t, row := r, len := 24, kind := 1, cls := 1 }
      enqueueRow r { grain := g, row := r, release := t, due := true, own := true, out := canRecord f } s
    | none => s

/-- Withdraw a queued confirmation (R553, R555). -/
def withdraw (net : Nat) (s : State) : State :=
  let v := netOf net s
  let mine (c : Copy) : Bool := c.own && u8 c.out 17 == 2 && c.grain.kind == 1
  let rows := rowsOf s.bank 0 net
  setNet net { v with confQueued := false }
    { s with drill.rows := s.drill.rows.map (fun e => if rows.contains e.1 then (e.1, e.2.filter (fun c => !mine c)) else e) }

/-! ### Fallow entries that end early (R436, R541) -/

/-- The operation of FALLOW_ENTER. -/
def fallowOp (s : State) : Option Op :=
  s.stw.ops.find? (fun o => match o.body with
    | .fallow _ => true
    | _ => false)

/-- A Fallow entry before step 6 ends: the part stays in Growing, a command answers with outcome 1. -/
def cancelEntry (s : State) : State :=
  if s.power.entering.isNone then s
  else
    let s := { s with power.entering := none, power.entryStep := 0, power.halted := false, stw.notServing := false }
    match fallowOp s with
    | some o => endOp o { inline := [1] } s
    | none => s

/-- Doorbells count between steps 2 and 6. -/
def cancelOnDoorbell (s : State) : State := if 2 ≤ s.power.entryStep then cancelEntry s else s

/-- A veto on a network. -/
def vetoed (net : Nat) (s : State) : State := cancelEntry (agreementEvent net 1 s)

/-- A network before its point of no return. -/
def beforePonr (v : Nm) : Bool := v.state == 1 || v.state == 2 || v.state == 3 || v.state == 6

/-! ### Needs -/

/-- A need arises on a network (R553, R555); before the point of no return it ends a Fallow entry. -/
def needArises (net : Nat) (s : State) : State :=
  let s := if beforePonr (netOf net s) then cancelEntry s else s
  let v := netOf net s
  if nmMode v = 1 then
    match v.state with
    | 2 => setNet net { v with state := 1 } (sendNm net 1 255 false 255 s)
    | 3 => vetoed net (let s := withdraw net s
                       setNet net { netOf net s with state := 1 } (sendNm net 1 255 false 255 s))
    | 4 => setNet net { v with wakeHeld := true, ownNeed := true } s
    | 5 => setNet net { v with ownNeed := true } s
    | _ => s
  else if nmMode v = 2 then
    match v.state with
    | 2 | 6 => setNet net { v with state := 1 } s
    | 3 => vetoed net (let s := withdraw net s
                       setNet net { netOf net s with state := 1 } (sendNm net 7 255 false 255 s))
    | 4 => setNet net { v with wakeHeld := true, ownNeed := true } s
    | 5 => setNet net { v with ownNeed := true } s
    | _ => s
  else s

/-- The last need ended: Needed becomes Ready. -/
def needChecked (net : Nat) (s : State) : State :=
  let v := netOf net s
  if v.state = 1 ∧ !nmNeeds v then setNet net { v with state := 2 } s else s

/-- Configured networks. -/
def configuredNets (s : State) : List Nat := (s.power.nets.filter (fun e => nmMode e.2 != 0)).map (·.1)

/-- A grain that carries an agreement message (R547, R550). -/
def isAgreement (g : Grain) (s : State) : Bool :=
  (g.key == agreementKey && (g.kind == 8)) ||
  (g.kind == 1 && s.power.nets.any (fun e => nmMode e.2 != 0 && u8 (bindOf g.row s) 0 == 1 && u8 (bindOf g.row s) 2 == e.1 &&
    (Nat.testBit g.key 59 == nmIde e.2) && !Nat.testBit g.key 58 &&
    within (nmId e.2) (g.key % 2 ^ 29) (nmId e.2 + nmNodes e.2 - 1)))

/-- A wake request other than a need of its own (R551, R555). -/
def wakeRequest (net : Nat) (s : State) : State :=
  let s := if beforePonr (netOf net s) then cancelEntry s else s
  let v := netOf net s
  match v.state with
  | 1 => s
  | 2 => if nmMode v = 1 then sendNm net 1 255 false 255 s else setNet net { v with wakeHeld := true } s
  | 3 | 6 =>
    if v.state = 6 then vetoed net (setNet net { v with state := 2, wakeHeld := true } (sendNm net 7 255 false 255 s))
    else vetoed net (let s := withdraw net s
                     setNet net { netOf net s with state := 2 }
                                 (sendNm net (if nmMode v = 1 then 1 else 7) 255 false 255 s))
  | 4 => setNet net { v with wakeHeld := true } s
  | _ => s

/-- Every configured network is asked to wake (R551: any wake source is a wake request). -/
def wakeNets (s : State) : State := (configuredNets s).foldl (fun s net => wakeRequest net s) s

/-! ### Qualifying traffic after a wake (R547, R548) -/

/-- Event 58 for the false wakes and suspensions since the last such event. -/
def reportFalse (s : State) : State :=
  s.power.falseSince.foldl (fun s c => raise 58 c s) { s with power.falseSince := [] }

/-- A wake is not false: event 58 for those before it, and the wake request of its source (R551; log 38). -/
def trueWake (s : State) : State := wakeNets (reportFalse { s with power.watchWake := false })

/-- Qualifying traffic arrived: the wake under watch is not false. -/
def qualify (s : State) : State := if s.power.watchWake then trueWake s else s

/-- A Beacon or Steer sentence was decided under a route (R551): every configured network is needed for T_sleep. -/
def trafficNeed (s : State) : State :=
  qualify ((configuredNets s).foldl (fun s net =>
    let had := nmNeeds (netOf net s)
    let s := setNet net { netOf net s with traffic := true } s
    if had then s else needArises net s) s)

/-- What WAKE_CAUSE records of a first source (R440): code, selective channel, filter. -/
def recordWake (src ch filter : Nat) (s : State) : State :=
  { s with power.firstWake := src, power.seen := BitVec.ofNat 7 (2 ^ (src - 1)), power.wakeChannel := ch, power.wakeFilter := filter,
           power.wakeInstant := s.power.coarse / 1000000 % 4294967296 }

/-- A source that qualifies between steps 6 and 7 abandons the entry: the part stays in Growing, HOLD_CAUSE as it was (R541). -/
def abandonEntry (src ch filter : Nat) (s : State) : State :=
  let s := recordWake src ch filter { s with power.armedFor := none, power.halted := false, stw.notServing := false, keys.wrapped := [] }
  wakeNets (raise 56 src { s with power.resumed := stampOf s.power.upNs })

/-- The source code under which a network's message abandons an entry (log 37): CAN wake-up pattern, or Ethernet wake pattern on
the backbone. -/
def netSource (net : Nat) : Nat := if net = 16 then 5 else 4

/-! ### 0B04h NM_CONFIG, 0B05h NM_REQUEST -/

/-- Token hold in ms (R554). -/
def tokenHoldMs (i : Img) : Nat := max 1 (u16 i 8 / u8 i 3)

def nmParamsOk (c : Call) : Bool :=
  let q := c.params
  let mode := u8 q 1
  onlyBytes c [(0, 18)] && decide (u8 q 0 ≤ 16) && decide (mode ≤ 2) && decide (u8 q 2 ≤ if mode = 1 then 31 else 254) &&
  within 1 (u8 q 3) (if mode = 1 then 32 else 255) && fld q 7 5 2 == 0 && within 10 (u16 q 8) 10000 &&
  within 100 (u16 q 10) 60000 && within 10 (u16 q 12) 10000 && within 1 (u16 q 14) 1000 &&
  (mode != 2 || (within 10 (u16 q 16) 10000 && decide (3 * tokenHoldMs q ≤ u16 q 16))) && decide (3 * u16 q 8 ≤ u16 q 10) &&
  (u8 q 0 == 16 || decide (fld q 4 0 29 + u8 q 3 - 1 < if flag q 7 7 then 2 ^ 29 else 2 ^ 11))

/-- 0B04h NM_CONFIG (R438). -/
def actNmConfig (c : Call) (_ : Nat) (s : State) : Work :=
  let q := fit 48 c.params
  let net := u8 q 0
  let v := netOf net s
  if nmMode v != u8 q 1 && (v.state == 3 || v.state == 6) then { status := .busy, st := s }
  else if nmMode v = u8 q 1 then { st := setNet net { v with img := q } s }
  else
    let st := if u8 q 1 = 0 then 0 else if nmNeeds v then 1 else 2
    let s := setNet net { v with img := q, state := st, token := false, consent := false, runStart := 255, ring := [], confQueued := false } s
    { st := if u8 q 1 = 2 then sendNm net 6 255 false 255 s else s }

def cmdNmConfig : Cmd := {
  opcode := 0x0B04, scope := .device
  check := fun c _ => need (nmParamsOk c)
  act := actNmConfig
  read := some (fun c _ s => let v := netOf (u8 c.params 0) s
                             if 16 < u8 c.params 0 then none
                             else some (if v.img.isEmpty then defaultNm (u8 c.params 0) else v.img)) }

/-- 0B04h NM_CONFIG. -/
def execNmConfig (c : Call) (s : State) : Result := .next (serve cmdNmConfig c s)

/-- 0B05h NM_REQUEST (R439). -/
def actNmRequest (c : Call) (_ : Nat) (s : State) : Work :=
  let net := u8 c.params 0
  let v := netOf net s
  if nmMode v = 0 then { status := .notPermitted, inline := [0], st := s }
  else
    let s := match u8 c.params 1 with
      | 0 => needChecked net (setNet net { v with need := false } s)
      | 1 =>
        let s' := setNet net { v with need := true } s
        if nmNeeds v then s' else needArises net s'
      | _ => wakeRequest net s
    { inline := le 1 (netOf net s).state, st := s }

def cmdNmRequest : Cmd := {
  opcode := 0x0B05, scope := .device
  check := fun c _ => need (onlyBytes c [(0, 2)] && decide (u8 c.params 0 ≤ 16) && decide (u8 c.params 1 ≤ 2))
  act := actNmRequest }

/-- 0B05h NM_REQUEST. -/
def execNmRequest (c : Call) (s : State) : Result := .next (serve cmdNmRequest c s)

/-! ### Timers (R553, R555) -/

/-- Every T_ka a node that needs the network sends a keep-alive. -/
def execTKa (net : Nat) (s : State) : Result :=
  let v := netOf net s
  .next (if nmMode v = 1 ∧ v.state = 1 then sendNm net 1 255 false 255 s else s)

/-- No keep-alive for T_sleep in Ready. -/
def execTSleep (net : Nat) (s : State) : Result :=
  let v := netOf net s
  .next (if nmMode v = 1 ∧ v.state = 2 then setNet net { v with state := 3 } s else s)

/-- T_prep ends: the confirmation is queued (R553, R554). -/
def execTPrep (net : Nat) (s : State) : Result :=
  let v := netOf net s
  .next (if v.state = 3 ∧ !v.confQueued then setNet net { v with confQueued := true } (sendNm net 2 255 false 255 s) else s)

/-- The own confirmation completed: transmit disabled, Bus-sleep. -/
def execPointOfNoReturn (net : Nat) (s : State) : Result :=
  let v := netOf net s
  .next (if v.state = 3 ∧ v.confQueued then
      agreementEvent net 0 (setNet net { v with state := 4, confQueued := false, wakeHeld := false, ownNeed := false, token := false } s)
    else s)

/-- T_prep after T_prep without the confirmation on the medium. -/
def execConfirmationNotSent (net : Nat) (s : State) : Result :=
  let v := netOf net s
  .next (if v.state = 3 ∧ v.confQueued then
      let s := withdraw net s
      agreementEvent net 3 (setNet net { netOf net s with state := 4, wakeHeld := false, ownNeed := false, token := false } s)
    else s)

/-- A held wake request is released: the wake message is sent. -/
def execTMinSleep (net : Nat) (s : State) : Result :=
  let v := netOf net s
  .next (if v.state = 4 ∧ v.wakeHeld then
      let s := setNet net { v with state := 5, wakeHeld := false, waking := true } { s with power.netWoken := true }
      let s := sendNm net 3 255 false 255 s
      let s := if nmMode v = 2 then sendNm net 6 255 false 255 s else s
      agreementEvent net 2 s
    else s)

/-- 5 ms after the wake message. -/
def execWaking5Ms (net : Nat) (s : State) : Result :=
  let v := { netOf net s with waking := false }
  .next (if v.state = 5 then
      if nmNeeds v then
        let s := setNet net { v with state := 1, ownNeed := false } s
        (if nmMode v = 1 then sendNm net 1 255 false 255 s else s)
      else setNet net { v with state := 2, ownNeed := false } s
    else s)

/-- T_sleep since the last Beacon or Steer sentence: that need ends. -/
def execNeedEnds (net : Nat) (s : State) : Result :=
  .next (needChecked net (setNet net { netOf net s with traffic := false } s))

/-! ### Messages (R550, R553, R554) -/

/-- Note a node heard on a ring. -/
def hear (net node : Nat) (s : State) : State :=
  let v := netOf net s
  if nmMode v = 2 then setNet net { v with ring := tset node s.power.upNs v.ring } s else s

/-- A keep-alive or wake message from another node before or after the point of no return. -/
def otherAwake (net : Nat) (s : State) : State :=
  let v := netOf net s
  match v.state with
  | 3 => vetoed net (let s := withdraw net s
                     setNet net { netOf net s with state := 2 } s)
  | 4 =>
    let s := setNet net { v with wakeHeld := true } s
    if s.power.armedFor.isSome then abandonEntry (netSource net) 255 255 s else s
  | _ => s

/-- KEEP_ALIVE. -/
def execKeepAlive (net : Nat) (m : NmMsg) (s : State) : Result :=
  let v := netOf net s
  .next (if nmMode v = 0 ∨ m.source = nmAddr v then s else otherAwake net (hear net m.source (qualify s)))

/-- WAKE_MESSAGE. -/
def execWakeMessage (net : Nat) (m : NmMsg) (s : State) : Result :=
  let v := netOf net s
  .next (if nmMode v = 0 ∨ m.source = nmAddr v then s else otherAwake net (hear net m.source (qualify s)))

/-- SLEEP_CONFIRMATION: the node is heard; no state of R553 or R554 leaves on it. -/
def execSleepConfirmation (net : Nat) (m : NmMsg) (s : State) : Result :=
  let v := netOf net s
  .next (if nmMode v = 0 ∨ m.source = nmAddr v then s else hear net m.source s)

/-- Nodes heard within the last `k` token timeouts, this node included, ascending. -/
def ringNodes (v : Nm) (k now : Nat) : List Nat :=
  insertNat (nmAddr v) ((v.ring.filter (fun e => decide (now ≤ e.2 + k * u16 v.img 16 * 1000000))).map (·.1))

/-- The node after this one in the ring. -/
def successor (v : Nm) (now : Nat) : Nat :=
  let l := ringNodes v 3 now
  ((l.find? (fun n => decide (nmAddr v < n))).orElse (fun _ => l.head?)).getD (nmAddr v)

/-- The lowest address heard within the token timeout is this node's. -/
def lowest (v : Nm) (now : Nat) : Bool := (ringNodes v 1 now).head? == some (nmAddr v)

/-- Pass the token on; the lowest-addressed node counts the round. -/
def passToken (net : Nat) (consent : Bool) (runStart : Nat) (s : State) : State :=
  let v := netOf net s
  let v := { v with token := false, round := if lowest v s.power.upNs then (v.round + 1) % 256 else v.round }
  sendNm net 4 (successor v s.power.upNs) consent runStart (setNet net v s)

/-- TOKEN: held when this node is its destination; the ring is in operation again. -/
def execToken (net : Nat) (m : NmMsg) (s : State) : Result :=
  let v := netOf net s
  .next (if nmMode v != 2 || m.source == nmAddr v || v.state == 4 then s else
    let s := if m.consent then s else qualify s
    let s := hear net m.source s
    let v := netOf net s
    let v := if v.state = 6 then { v with state := if nmNeeds v then 1 else 2 } else v
    setNet net (if m.dest = nmAddr v then { v with token := true, consent := m.consent, runStart := m.runStart, round := m.round } else v) s)

/-- TOKEN_HOLD: the consent rules of R554. -/
def execTokenHold (net : Nat) (s : State) : Result :=
  let v := netOf net s
  .next (if nmMode v != 2 || !v.token || v.state == 4 then s
    else if nmNeeds v || v.wakeHeld then passToken net false 255 (setNet net { v with wakeHeld := false } s)
    else if !v.consent then passToken net true (nmAddr v) s
    else if v.runStart = nmAddr v then
      sendNm net 5 (successor v s.power.upNs) true (nmAddr v) (setNet net { v with token := false, state := 6 } s)
    else passToken net true v.runStart s)

/-- A node that needs the bus vetoes and holds the token with consent clear. -/
def vetoHold (net : Nat) (s : State) : State :=
  let v := netOf net s
  vetoed net (sendNm net 7 255 false 255
    (setNet net { v with token := true, consent := false, runStart := 255, state := 1 } s))

/-- SLEEP_INDICATION. -/
def execSleepIndication (net : Nat) (m : NmMsg) (s : State) : Result :=
  let v := netOf net s
  .next (if nmMode v != 2 || m.source == nmAddr v || v.state == 4 then s else
    let s := hear net m.source (if m.consent then s else qualify s)
    let v := netOf net s
    if m.dest ≠ nmAddr v then s
    else if nmNeeds v then vetoHold net s
    else if m.runStart = nmAddr v then setNet net { v with state := 3 } (sendNm net 8 255 true (nmAddr v) s)
    else sendNm net 5 (successor v s.power.upNs) true m.runStart (setNet net { v with state := 6 } s))

/-- ALIVE. -/
def execAlive (net : Nat) (m : NmMsg) (s : State) : Result :=
  let v := netOf net s
  .next (if nmMode v != 2 || m.source == nmAddr v then s else hear net m.source s)

/-- VETO: back to ring operation; the lowest-addressed node issues a token with consent clear. -/
def execVeto (net : Nat) (m : NmMsg) (s : State) : Result :=
  let v := netOf net s
  .next (if nmMode v != 2 || m.source == nmAddr v then s else
    let s := hear net m.source s
    let v := netOf net s
    if v.state = 3 ∨ v.state = 6 then
      let was := v.state
      let s := withdraw net s
      let s := setNet net { netOf net s with state := if nmNeeds v then 1 else 2 } s
      let s := vetoed net s
      if was = 3 && lowest v s.power.upNs then passToken net false 255 s else s
    else s)

/-- PREPARE_SLEEP_ANNOUNCEMENT. -/
def execPrepareSleepAnnouncement (net : Nat) (m : NmMsg) (s : State) : Result :=
  let v := netOf net s
  .next (if nmMode v != 2 || m.source == nmAddr v || v.state == 4 || v.state == 5 then s else
    let s := hear net m.source s
    if nmNeeds v then vetoHold net s else setNet net { netOf net s with state := 3, token := false } s)

/-- TOKEN_TIMEOUT: the lowest-addressed node issues a new token. -/
def execTokenTimeout (net : Nat) (s : State) : Result :=
  let v := netOf net s
  .next (if nmMode v = 2 ∧ v.state ≠ 4 ∧ lowest v s.power.upNs then passToken net false 255 s else s)

end Sys2Proof.Machine
end

