-- ==== Sys2Proof/Machine/Tally.lean ====
section
/-! DEFINITION. Tally units: check values, alive counters, outcomes, and commands 0901h to 0903h (R429, R430, R524 to
R531). -/

namespace Sys2Proof.Machine

/-! ### The sequence a unit sees (R527) -/

/-- Escape byte of a user framing and the value it is combined with (R102, R391). -/
def ufEscape (i : Img) : Option Byte := if flag i 6 1 then some (i.getD 9 0) else none
def ufXor (i : Img) : Byte := i.getD 10 0

/-- Unescape a run of bytes, keeping the place each came from (R102). -/
def unescape (esc : Option Byte) (x : Byte) : Nat → Bytes → List (Nat × Byte)
  | _, [] => []
  | n, a :: t => match t with
    | b :: u => if esc = some a then (n + 1, b ^^^ x) :: unescape esc x (n + 2) u else (n, a) :: unescape esc x (n + 1) (b :: u)
    | [] => [(n, a)]

/-- The bytes that ranges and check positions count, with their places in the stored payload: the whole payload, or the
unescaped sequence of a user-framed sentence. -/
def tallySeq (kind : Nat) (framing : Img) (d : Bytes) : List (Nat × Byte) :=
  if kind = 5 ∧ u8 framing 0 = 1 then
    let skip := if (ufStart framing).isSome ∧ ufEndMode framing ≠ 3 then 1 else 0
    let body := d.drop skip
    let body := if ufEndMode framing = 0 ∨ ufEndMode framing = 2 then body.dropLast else body
    unescape (ufEscape framing) (ufXor framing) skip body
  else d.zipIdx.map (fun e => (e.2, e.1))

/-! ### The check (R526, R527) -/

def tyWidth (i : Img) : Nat := u8 i 4
def tyField (i : Img) : Nat := (tyWidth i + 7) / 8

/-- Data range and check position in a sequence of `n` bytes; `none` when short. -/
def tyResolve (i : Img) (n : Nat) : Option (Nat × Nat × Nat) :=
  let off := u16 i 40
  let l := u16 i 42
  let len := if 32768 ≤ l then n - off - l % 32768 else l
  let p := u16 i 44
  let pos := if 32768 ≤ p then n - p % 32768 else p
  let beyond := decide (32768 ≤ p ∧ n < p % 32768)
  let overlap := decide (pos < off + len ∧ off < pos + tyField i)
  if len = 0 ∨ n < off + len ∨ n < pos + tyField i then none
  else if beyond || overlap then none
  else some (off, len, pos)

/-- The check value over a range. -/
def tyValue (i : Img) (d : Bytes) : Nat :=
  crc (tyWidth i) (u64 i 16) (u64 i 24) (flag i 1 2) (flag i 1 3) (u64 i 32) d % 2 ^ tyWidth i

/-- The check field as a number: big-endian unless flag [4]. -/
def tyStored (i : Img) (d : Bytes) : Nat :=
  (if flag i 1 4 then ofBe d.reverse else ofBe d) % 2 ^ tyWidth i

/-- What a verify finds. -/
inductive Verdict | good | mismatch | repeat_ | jump
deriving DecidableEq, Repr

/-- Bits of the alive counter; 0 none. -/
def aliveBits (i : Img) : Nat :=
  match fld i 46 0 2 with
  | 0 => 0
  | 1 => 4
  | 2 => 8
  | _ => 16

/-- The alive counter's value in a payload (R531); `none` when its field ends beyond it. -/
def aliveValue (i : Img) (d : Bytes) : Option Nat :=
  let b := fld i 46 6 10
  if 8 * d.length < b + aliveBits i then none else some (fld d (b / 8) (b % 8) (aliveBits i))

/-- Check value first, then the alive counter; with the counter's last value afterwards. -/
def tyVerify (i : Img) (last : Option Nat) (kind : Nat) (framing : Img) (d : Bytes) : Verdict × Option Nat :=
  let q := (tallySeq kind framing d).map (·.2)
  let ok := tyWidth i == 0 || (match tyResolve i q.length with
    | none => false
    | some (off, len, pos) => tyValue i (sub q off len) == tyStored i (sub q pos (tyField i)))
  if !ok then (.mismatch, last)
  else if aliveBits i = 0 then (.good, last)
  else match aliveValue i d with
    | none => (.mismatch, last)
    | some new => match last with
      | none => (.good, some new)
      | some l =>
        let delta := (new + 2 ^ aliveBits i - l) % 2 ^ aliveBits i
        if delta = 0 then (.repeat_, last)
        else if delta ≤ fld i 46 2 4 then (.good, some new) else (.jump, some new)

/-! ### Outcomes (R529) -/

def tallyRt (u : Nat) (s : State) : TallyRt := tgetD u {} s.harrow.tallies
def setTally (u : Nat) (v : TallyRt) (s : State) : State := { s with harrow.tallies := tset u v s.harrow.tallies }

def tallySkip (u : Nat) (s : State) : State := setTally u { tallyRt u s with skipped := (tallyRt u s).skipped + 1 } s

/-- Action of an outcome: 0 drop, 1 flag, 2 pass and count. -/
def tyAction (i : Img) : Verdict → Nat
  | .good => 2
  | .mismatch => fld i 7 0 2
  | .repeat_ => fld i 7 2 2
  | .jump => fld i 7 4 2

/-- One verify of a unit: its action, 2 when nothing happens to the sentence. -/
def tallyVerify (u : Nat) (i : Img) (kind : Nat) (framing : Img) (d : Bytes) (s : State) : Nat × State :=
  let v := tallyRt u s
  let r := tyVerify i v.alive kind framing d
  let v := { v with checked := v.checked + 1, alive := r.2, aliveShown := r.2.getD v.aliveShown }
  let v := match r.1 with
    | .good => v
    | .mismatch => { v with mismatches := v.mismatches + 1, lastMismatch := stampOf (nowNs s) }
    | .repeat_ => { v with repeats := v.repeats + 1 }
    | .jump => { v with jumps := v.jumps + 1 }
  let act := tyAction i r.1
  let s := setTally u v s
  (act, if act = 2 then s else raise (if r.1 = .mismatch then 38 else 39) u s)

/-- Verifying units bound to a row. -/
def rowUnits (gen : Bool) (r : Nat) (b : Bank) : List (Nat × Img) :=
  b.tallies.filter (fun e => !flag e.2 1 0 && flag e.2 1 1 == gen && fld e.2 2 0 9 == r)

/-- Every verifying unit of a row but those in `skip`: the strongest action, drop before flag before pass. -/
def rowVerify (r kind : Nat) (skip : List Nat) (framing : Img) (d : Bytes) (s : State) : Nat × State :=
  ((rowUnits false r s.bank).filter (fun e => !skip.contains e.1)).foldl (fun a e =>
    let x := tallyVerify e.1 e.2 kind framing d a.2
    (min a.1 x.1, x.2)) (2, s)

/-- One generate: the check field written over the bytes at the check position, or the copy unchanged and skipped (R528). -/
def tallyGenerate (u : Nat) (i : Img) (eth : Bool) (kind : Nat) (framing : Img) (d : Bytes) (s : State) : Bytes × State :=
  let q := tallySeq kind framing d
  match tyResolve i q.length with
  | none => (d, tallySkip u s)
  | some (off, len, pos) =>
    if eth && decide (pos < off + len) then (d, tallySkip u s) else
      let val := tyValue i (sub (q.map (·.2)) off len)
      let bytes := if flag i 1 4 then le (tyField i) val else be (tyField i) val
      let out := (bytes.zipIdx).foldl (fun acc e => patch acc ((q.getD (pos + e.2) (0, 0)).1) [e.1]) d
      (out, setTally u { tallyRt u s with generated := (tallyRt u s).generated + 1 } s)

/-- Every generating unit of a listener row. -/
def rowGenerate (r : Nat) (eth : Bool) (kind : Nat) (framing : Img) (d : Bytes) (s : State) : Bytes × State :=
  (rowUnits true r s.bank).foldl (fun a e => tallyGenerate e.1 e.2 eth kind framing a.1 a.2) (d, s)

/-- The route-bound unit of a hand-off word in a mode: its binding when bound. -/
def routeUnit (gen : Bool) (tally : Nat) (s : State) : Option (Nat × Option Img) :=
  if tally / 32 % 2 = 1 then
    match tget (tally % 32) s.bank.tallies with
    | some i => if flag i 1 0 && flag i 1 1 == gen then some (tally % 32, some i) else none
    | none => if gen then none else some (tally % 32, none)
  else none

/-! ### 0901h to 0903h -/

/-- Ranges of TALLY_BIND (R429, R526). -/
def tallyParamsOk (c : Call) : Bool :=
  let q := c.params
  let w := u8 q 4
  decide (u8 q 0 < 32) && fld q 1 5 3 == 0 && fld q 3 1 7 == 0 && decide (w ≤ 64) && decide (u8 q 5 ≤ 1) &&
  decide (fld q 7 0 2 ≤ 2) && decide (fld q 7 2 2 ≤ 2) && decide (fld q 7 4 2 ≤ 2) && fld q 7 6 2 == 0 &&
  decide (u64 q 16 < 2 ^ w) && decide (u64 q 24 < 2 ^ w) && decide (u64 q 32 < 2 ^ w) &&
  (fld q 46 0 2 == 0 || decide (1 ≤ fld q 46 2 4)) &&
  (w != 0 || (fld q 1 2 2 == 0 && zeros q 40 6 && !flag q 1 1 && fld q 46 0 2 != 0))

/-- The binding of a target row fits the mode (R524). -/
def tallyRowOk (gen : Bool) (i : Img) : Bool :=
  let k := u8 i 0
  if gen then isListener i && (within 1 k 4 || k == 5 || k == 6)
  else (isTalker i && k != 0) || (isListener i && k != 5 && k != 9 && k != 0)

/-- The target route exists (R429, R392). -/
def tallyRoute (q : Bytes) (b : Bank) : Bool :=
  let r := fld q 2 0 9
  if u8 q 5 = 1 then
    match tget (wildRef (u8 q 6)) b.routes with
    | some e => (r &&& reRowMask e) == (reRow e &&& reRowMask e)
    | none => false
  else (exactFind b r false (u64 q 8)).isSome || (exactFind b r true (u64 q 8)).isSome

/-- 0901h TALLY_BIND on a bank. -/
def stageTallyBind (c : Call) (_ : Nat) (_ : State) (b : Bank) : Status × Bank :=
  let q := c.params
  if (tget (u8 q 0) b.tallies).isSome then (.busy, b)
  else if (if flag q 1 0 then tallyRoute q b else tallyRowOk (flag q 1 1) (tgetD (fld q 2 0 9) [] b.bind)) then
    (.ok, { b with tallies := tset (u8 q 0) (fit 48 q) b.tallies })
  else (.badParam, b)

/-- The record in reception on a row is skipped by a unit (R525, R430). -/
def skipRecords (u r : Nat) (s : State) : State :=
  { s with ploughs := s.ploughs.map (fun e =>
      (e.1, { e.2 with cur := e.2.cur.map (fun x => if x.row = r then { x with skipTally := insertNat u x.skipTally } else x) })) }

/-- Grains already handed off under a unit pass it unchecked (R525). -/
def skipHandoffs (u : Nat) (s : State) : State :=
  { s with harrow.handoff := s.harrow.handoff.map (fun e =>
      (e.1, e.2.map (fun h => if h.tally / 32 % 2 = 1 ∧ h.tally % 32 = u then { h with tally := 0 } else h))) }

/-- A new binding starts with its alive counter unseen and applies from the next sentence (R525). -/
def afterTallyBind (c : Call) (_ : Nat) (_ s : State) : State :=
  let u := u8 c.params 0
  let s := setTally u { tallyRt u s with alive := none } s
  if flag c.params 1 0 then (if flag c.params 1 1 then s else skipHandoffs u s) else skipRecords u (fld c.params 2 0 9) s

def cmdTallyBind : Cmd := {
  opcode := 0x0901, scope := .device, bank := true
  check := fun c _ => need (tallyParamsOk c)
  act := directAct stageTallyBind (fun _ _ _ => []) afterTallyBind
  stage := stageTallyBind
  read := some (fun c _ s =>
    if u8 c.params 0 < 32 then some (tgetD (u8 c.params 0) (fit 48 (le 1 (u8 c.params 0))) s.bank.tallies) else none) }

/-- 0901h TALLY_BIND. -/
def execTallyBind (c : Call) (s : State) : Result := .next (serve cmdTallyBind c s)

def stageTallyRelease (c : Call) (_ : Nat) (_ : State) (b : Bank) : Status × Bank :=
  (.ok, { b with tallies := tdel (u8 c.params 0) b.tallies })

/-- A sentence in progress on a row. -/
def inReception (r : Nat) (s : State) : Bool := s.ploughs.any (fun e => e.2.cur.any (fun x => x.row == r))

/-- 0902h TALLY_RELEASE (R430): the sentence in progress is skipped. -/
def actTallyRelease (c : Call) (_ : Nat) (s : State) : Work :=
  let u := u8 c.params 0
  match tget u s.bank.tallies with
  | none => { st := s }
  | some i =>
    let s := setTally u { tallyRt u s with alive := none } { s with bank.tallies := tdel u s.bank.tallies }
    let r := fld i 2 0 9
    { st := if !flag i 1 0 && !flag i 1 1 && inReception r s then tallySkip u s else s }

def cmdTallyRelease : Cmd := {
  opcode := 0x0902, scope := .device, bank := true
  check := fun c _ => need (onlyBytes c [(0, 1)] && decide (u8 c.params 0 < 32))
  act := actTallyRelease
  stage := stageTallyRelease }

/-- 0902h TALLY_RELEASE. -/
def execTallyRelease (c : Call) (s : State) : Result := .next (serve cmdTallyRelease c s)

/-- 0903h TALLY_STATE (R430). -/
def actTallyState (c : Call) (_ : Nat) (s : State) : Work :=
  let u := u8 c.params 0
  let v := tallyRt u s
  let i := tgetD u [] s.bank.tallies
  let b := (tget u s.bank.tallies).isSome
  { inline := le 1 (b2n b + 2 * b2n (flag i 1 0)) ++ [0] ++ le 2 (fld i 2 0 9) ++ le 4 v.checked ++ le 4 v.mismatches ++
      le 4 v.repeats ++ le 4 v.jumps ++ le 4 v.skipped ++ le 4 v.generated ++ le 2 v.aliveShown ++ le 2 0 ++ le 8 v.lastMismatch,
    bulk := fit 48 i,
    st := if flag c.params 1 0 then s
      else setTally u { alive := v.alive, aliveShown := v.aliveShown, lastMismatch := v.lastMismatch } s }

def cmdTallyState : Cmd := {
  opcode := 0x0903, scope := .device, status := true
  agg := fun _ => [(0, 1, .flags), (4, 4, .counter), (8, 4, .counter), (12, 4, .counter), (16, 4, .counter), (20, 4, .counter),
    (24, 4, .counter), (32, 8, .maxU)]
  check := fun c _ => need (onlyBytes c [(0, 2)] && decide (u8 c.params 0 < 32) && fld c.params 1 1 7 == 0)
  act := actTallyState }

/-- 0903h TALLY_STATE. -/
def execTallyState (c : Call) (s : State) : Result := .next (serve cmdTallyState c s)

end Sys2Proof.Machine
end

