-- ==== Sys2Proof/Machine/Harrow.lean ====
section
/-! DEFINITION. The Harrow's decision of a grain: Beacon compare, Sieves, Teams, Thinning, release time, hand-off, and the
rows HARROW_DECISION and TEAM_QUIET_EXPIRY (R117 to R153, R183 to R185). -/

namespace Sys2Proof.Machine

/-! ### Sieves (R136 to R138) -/

/-- Characters that end an ASCII text: `*`, CR, and LF in a bare-LF sentence. -/
def endsField (lf : Bool) (b : Byte) : Bool := b == 0x2A || b == 0x0D || (lf && b == 0x0A)

/-- Split at commas, up to the end of the text; a last field whose end is not seen is missing. -/
def commaFields (lf : Bool) : Bytes → Bytes → List (Option Bytes)
  | _, [] => []
  | acc, b :: t =>
    if endsField lf b then [some acc]
    else if b = 0x2C then some acc :: commaFields lf [] t else commaFields lf (acc ++ [b]) t

/-- ASCII field `n` of the first cell, counted from the `$` or `!`. -/
def asciiField (lf : Bool) (n : Nat) (d : Bytes) : Option Bytes :=
  match d.dropWhile (fun b => b != 0x24 && b != 0x21) with
  | [] => none
  | _ :: t => (commaFields lf [] t).getD n none

def isDigit (b : Byte) : Bool := decide (0x30 ≤ b.toNat ∧ b.toNat ≤ 0x39)

/-- Value of decimal digits. -/
def digitsVal (d : Bytes) : Nat := d.foldl (fun a b => a * 10 + (b.toNat - 0x30)) 0

/-- A decimal number in millionths (R136). -/
def decimal (f : Bytes) : Option Int :=
  let neg := f.head? == some 0x2D
  let t := if neg || f.head? == some 0x2B then f.drop 1 else f
  let whole := t.takeWhile isDigit
  let rest := t.drop whole.length
  let frac := rest.drop 1
  let shape := rest == [] || (rest.head? == some 0x2E && frac.all isDigit && decide (frac.length ≤ 6))
  if !shape || (whole == [] && frac == []) then none
  else
    let m : Int := digitsVal whole * 1000000 + digitsVal frac * 10 ^ (6 - frac.length)
    let v := if neg then -m else m
    if withinI (-(2 ^ 63)) v (2 ^ 63 - 1) then some v else none

/-- Numeric operators 00h to 07h (R137). -/
def compareOp (op : Nat) (v a b : Int) : Bool :=
  match op with
  | 0 => v == a
  | 1 => v != a
  | 2 => decide (v < a)
  | 3 => decide (v ≤ a)
  | 4 => decide (a < v)
  | 5 => decide (a ≤ v)
  | 6 => decide (a ≤ v ∧ v ≤ b)
  | _ => decide (v < a ∨ b < v)

/-- Operand characters up to the first 00h. -/
def operandText (r : Img) : Bytes := (sub r 8 16).takeWhile (· != 0)

/-- A rule on an ASCII field. -/
def asciiMatch (lf : Bool) (r : Img) (d : Bytes) : Bool :=
  match asciiField lf (u8 r 1) d with
  | none => flag r 7 0
  | some f =>
    match u8 r 5 with
    | 9 => f == operandText r
    | 10 => (operandText r).isPrefixOf f
    | 11 => f == []
    | 12 => f != []
    | op => match decimal f with
      | none => flag r 7 0
      | some v => compareOp op v (sle r 8 8) (sle r 16 8)

/-- A rule on binary bytes. -/
def binaryMatch (r : Img) (d : Bytes) : Bool :=
  let o := u16 r 2
  let w := u8 r 4
  if d.length < o + w then flag r 7 0
  else
    let v := if flag r 7 1 then ule d o w else ofBe (sub d o w)
    match u8 r 5 with
    | 8 => (v &&& u64 r 16) == u64 r 8
    | 12 => true
    | op => compareOp op v (u64 r 8) (u64 r 16)

/-- A Sieve rule matches; `d` is the first cell of the payload. -/
def sieveMatch (lf : Bool) (r : Img) (d : Bytes) : Bool := if u8 r 0 = 0 then asciiMatch lf r d else binaryMatch r d

/-- Result of the selected rules. -/
inductive SieveResult | pass | block | invalid
deriving DecidableEq, Repr

/-- Rules a mask selects: number, action and whether each matches. -/
def sieveRules (mask : Nat) (lf : Bool) (d : Bytes) (b : Bank) : List (Nat × Nat × Bool) :=
  (b.sieves.filter (fun e => Nat.testBit mask e.1)).map (fun e =>
    let r := e.2.drop 16
    (e.1, u8 r 6, sieveMatch lf r d))

/-- Combination of R138. -/
def combine (any : Bool) (l : List (Nat × Nat × Bool)) : SieveResult :=
  let req := l.filter (fun e => e.2.1 == 0)
  if l.any (fun e => e.2.1 == 3 && e.2.2) then .invalid
  else if l.any (fun e => e.2.1 == 1 && e.2.2) then .block
  else if (if any then !req.isEmpty && req.all (fun e => !e.2.2) else req.any (fun e => !e.2.2)) then .block
  else .pass

/-- The Sieve stage: result, with flag rules counted and event 29 raised once. -/
def sieveStage (e : Img) (lf : Bool) (d : Bytes) (s : State) : SieveResult × State :=
  let l := sieveRules (reSieves e) lf d s.bank
  let hits := (l.filter (fun x => x.2.1 == 2 && x.2.2)).map (·.1)
  let s := { s with harrow.sieveFlags := hits.foldl (fun t n => tadd n 1 t) s.harrow.sieveFlags }
  (combine (reAny e) l, match hits with
    | [] => s
    | n :: _ => raise 29 n s)

/-! ### Teams (R140 to R144) -/

/-- Class of a member's grain for its Team. -/
inductive TeamClass | failing | invalid | good | neutral
deriving DecidableEq, Repr

def teamClass (g : Grain) (r : SieveResult) : TeamClass :=
  if g.void || g.csBad || g.tagBad then .failing
  else match r with
    | .invalid => .invalid
    | .pass => .good
    | .block => .neutral

def teamOf (t : Nat) (s : State) : TeamRt := tgetD t {} s.harrow.teams
def setTeam (t : Nat) (v : TeamRt) (s : State) : State := { s with harrow.teams := tset t v s.harrow.teams }

/-- The highest-ranked Healthy member. -/
def bestHealthy (l : List TeamMember) : Option TeamMember := (byRank l).find? (fun m => m.health == .healthy)

/-- The active member changes, or is lost: event 25. -/
def changeActive (t : Nat) (st : TeamState) (k : Option Nat) (s : State) : State :=
  let v := teamOf t s
  raise 25 t (setTeam t { v with state := st, active := k, failovers := v.failovers + 1, last := stampOf (nowNs s) } s)

/-- The active member left Healthy: the highest-ranked Healthy member, or none. -/
def failOver (t : Nat) (s : State) : State :=
  match bestHealthy (teamOf t s).members with
  | some m => changeActive t .serving (some m.row) s
  | none => changeActive t .seeking none s

/-- Every member Quiet in Seeking or Serving: Silent, event 26. -/
def silentCheck (t : Nat) (s : State) : State :=
  let v := teamOf t s
  if (v.state == .seeking || v.state == .serving) && !v.members.isEmpty && v.members.all (fun m => m.health == .quiet) then
    raise 26 t (setTeam t { v with state := .silent } s)
  else s

/-- Members after a change: those that stay keep health and runs and take their new rank (R144). -/
def changedMembers (i : Img) (old : List TeamMember) : List TeamMember :=
  (teamMembers i).map (fun m => match old.find? (fun x => x.row == m.1) with
    | some x => { x with rank := m.2.1 }
    | none => newMember m)

/-- A pending change of a Team takes effect (R144). -/
def applyChange (t : Nat) (s : State) : State :=
  let v := teamOf t s
  match v.pending with
  | none => s
  | some i =>
    let s := setTeam t { v with img := i, pending := none, members := changedMembers i v.members } s
    let lost := match v.active with
      | some k => !((teamMembers i).any (fun m => m.1 == k))
      | none => false
    silentCheck t (if lost then failOver t s else s)

/-- One more on a run count, which is shown in a byte (R397). -/
def runUp (n : Nat) : Nat := min (n + 1) 255

/-- A member takes in one grain: time of last grain, runs, health (R140, R141). -/
def memberTakes (i : Img) (c : TeamClass) (stamp now : Nat) (m : TeamMember) : TeamMember :=
  let m := { m with stamp }
  match c with
  | .neutral => m
  | .failing =>
    let m := { m with failing := runUp m.failing, invalid := 0, good := 0 }
    if u8 i 3 ≤ m.failing then { m with health := .faulty } else m
  | .invalid =>
    let m := { m with invalid := runUp m.invalid, failing := 0, good := 0 }
    if u8 i 4 ≤ m.invalid then { m with health := .notValid } else m
  | .good =>
    let m := { m with good := runUp m.good, failing := 0, invalid := 0 }
    if m.health = .healthy then m
    else if m.health = .unheard ∨ u8 i 5 ≤ m.good then { m with health := .healthy, healthySince := now }
    else m

/-- State change on a grain of member `m`, health already updated (R142): whether it passes, and the state. DESIGN CHOICE (log 102):
the revert hold runs on the working clock, the manual names none. -/
def teamStep (t : Nat) (c : TeamClass) (m : TeamMember) (s : State) : Bool × State :=
  let v := teamOf t s
  let ready := c == .good && m.health == .healthy
  let k := v.members.find? (fun x => some x.row == v.active)
  match v.state with
  | .vacant => if ready then (true, setTeam t { v with state := .serving, active := some m.row } s) else (false, s)
  | .serving =>
    if v.active = some m.row then
      if m.health = .healthy then (c == .good, s) else (false, failOver t s)
    else
      let above := match k with
        | some x => decide (m.rank < x.rank)
        | none => true
      if ready && flag v.img 2 0 && above && decide (m.healthySince + u32 v.img 8 * 1000000 ≤ nowNs s) then
        (true, changeActive t .serving (some m.row) s)
      else (false, s)
  | .seeking | .silent => if ready then (true, changeActive t .serving (some m.row) s) else (false, s)

/-- What a Team makes of a grain: from a row that is no member, passed, or discarded. -/
inductive TeamVerdict | notMember | pass | discard
deriving DecidableEq, Repr

/-- The Team stage for one grain. -/
def teamGrain (t : Nat) (g : Grain) (r : SieveResult) (s : State) : TeamVerdict × State :=
  let s := applyChange t s
  let v := teamOf t s
  match v.members.find? (fun m => m.row == g.row) with
  | none => (.notMember, countRow g.row 30 1 (setTeam t { v with nonMember := v.nonMember + 1 } s))
  | some m =>
    let c := teamClass g r
    let m' := memberTakes v.img c g.stamp (nowNs s) m
    let s := setTeam t { v with members := v.members.map (fun x => if x.row = m.row then m' else x) } s
    let o := teamStep t c m' s
    (if o.1 then .pass else .discard, silentCheck t o.2)

/-- TEAM_QUIET_EXPIRY: a member's quiet limit expires (R141, R142, R144). -/
def execTeamQuietExpiry (team row : Nat) (s : State) : Result :=
  let s := applyChange team s
  let v := teamOf team s
  match v.members.find? (fun m => m.row == row) with
  | none => .next s
  | some m =>
    if m.health = .quiet then .next s
    else
      let s := setTeam team { v with members := v.members.map (fun x =>
        if x.row = row then { x with health := .quiet, good := 0 } else x) } s
      .next (silentCheck team (if v.state = .serving ∧ v.active = some row then failOver team s else s))

/-! ### Thinning (R145) -/

/-- Whether a sentence passes, and the route's state after it. -/
def thin (e : Img) (stamp : Nat) (v : RouteRt) : Bool × RouteRt :=
  match reThinMode e with
  | 1 => (v.count == 0, { v with count := (v.count + 1) % reThinN e })
  | 2 =>
    let ok := match v.last with
      | none => true
      | some l => decide (l + reThinN e * 1000 ≤ stamp)
    (ok, if ok then { v with last := some stamp } else v)
  | _ => (true, v)

/-! ### Release time (R183 to R185) -/

/-- Schedule guard in ns, default 2 ms. -/
def scheduleGuard (b : Bank) : Nat :=
  match b.pool with
  | some i => u32 i 4 * 1000
  | none => 2000000

/-- Earliest base + k × period at or after an instant; a single entry gives its base. -/
def scheduledAt (base period t : Nat) : Nat :=
  if period = 0 ∨ t ≤ base then base else base + (t - base + period - 1) / period * period

def releaseOf (e : Img) (stamp : Nat) (s : State) : Nat :=
  if reSchedule e then
    let i := tgetD (reRelease e % 64) [] s.alm.schedule
    stampOf (scheduledAt (u64 i 8) (u64 i 16) (stamp + scheduleGuard s.bank))
  else stampOf (stamp + reRelease e)

/-- The release field of a grain: the low 48 bits of the release time (R114). -/
def releaseField (t : Nat) : Nat := t % 281474976710656

/-- The instant whose low 48 bits are the field and that lies nearest to now, within ±2⁴⁷ ns (R116); of an instant before the clock's
zero nothing is left but that it has passed. DESIGN CHOICE (log 132): of two instants equally near, the later. -/
def fullRelease (f now : Nat) : Nat :=
  let base := now / 281474976710656 * 281474976710656
  if f + 140737488355328 ≤ now % 281474976710656 then base + 281474976710656 + f
  else if now % 281474976710656 + 140737488355328 < f then base + f - 281474976710656
  else base + f

/-- 24 hours in ns. -/
def farLimit : Nat := 86400000000000

/-! ### Lanes (R20, R574, R575) -/

/-- A spare lane not yet used. -/
def spareFree (s : State) : Bool := !s.harrow.lanes.contains 4 && !s.harrow.isolated.contains 4

/-- A lane fails: no more grains go to it; the Steward switches the spare in, or event 63 when there is none. -/
def laneFails (n : Nat) (s : State) : State :=
  if s.harrow.lanes.contains n then
    let free := spareFree s && n != 4
    let s := { s with harrow.lanes := s.harrow.lanes.filter (· != n)
                      harrow.isolated := insertNat n s.harrow.isolated }
    if free then { s with harrow.laneWait := insertNat n s.harrow.laneWait } else raiseD 63 2 noObject s
  else s

/-- Discard the grain at the front of a Plough's crossing. -/
def dropCrossing (k : Nat) (s : State) : State :=
  let v := tgetD k {} s.ploughs
  match v.crossing with
  | [] => s
  | g :: rest => dropGrain g { s with ploughs := tset k { v with crossing := rest } s.ploughs }

def countLane (s : State) : State := { s with harrow.laneDiscards := s.harrow.laneDiscards + 1 }

/-- The decided grain of a class that waits in a faulty lane for the full crossing of the class goes: beyond the 64 in the crossing each
lane in service holds at most one, and which of them the faulty lane holds is left free. -/
def dropWaiting (s : State) (cls : Nat) : State :=
  let l := tgetD cls [] s.harrow.handoff
  let w := l.length - 64
  if w = 0 then s
  else
    let i := pick s % max w s.harrow.lanes.length
    match if i < w then l[64 + i]? else none with
    | some h => dropGrain h.grain (countLane { picked s with harrow.handoff := tset cls (l.eraseIdx (64 + i)) s.harrow.handoff })
    | none => picked s

/-- A faulty lane's grains are discarded and counted (R20): of each class the one that waits in it, and the grain it was deciding, left
free from the fronts of the crossings; `spare` adds the choice that there was none (log 103). -/
def dropInLane (spare : Bool) (s : State) : State :=
  let t := [0, 1, 2, 3].foldl dropWaiting s
  let l := tkeys (t.ploughs.filter (fun e => !e.2.crossing.isEmpty))
  match l[pick t % (l.length + b2n (spare || t.harrow.laneDiscards != s.harrow.laneDiscards))]? with
  | some k => dropCrossing k (countLane (picked t))
  | none => picked t

/-- A lane gave a wrong lookup result: event 37, cause Beacon compare. -/
def compareFault (n : Nat) (s : State) : State :=
  laneFails n (dropInLane true (raiseD 37 2 n { s with harrow.codeFaults := s.harrow.codeFaults + 1 }))

/-! ### Lookup and Beacon compare (R149, R150) -/

/-- Reference for no route (R148). -/
def noRoute : Nat := 0x3FFF

/-- Exact, then wildcard lookup of a sentence. -/
def lookup (g : Grain) (b : Bank) : Option (Nat × Img) :=
  match exactFind b g.row false g.key with
  | some e => some e
  | none => wildFind b g.row g.key

/-- A lookup result as a route reference. -/
def refOfRoute : Option (Nat × Img) → Nat
  | some e => e.1
  | none => noRoute

/-- A lookup as an engine gives it: reference and entry bytes 16 to 43 (R149). -/
def resultOf : Option (Nat × Img) → LookupResult
  | some e => ⟨e.1, sub e.2 16 28⟩
  | none => ⟨noRoute, []⟩

/-- The entry behind a result, with bytes 16 to 43 as the engines read them. -/
def routeAt (r : LookupResult) (b : Bank) : Option (Nat × Img) := (tget r.ref b.routes).map (fun e => (r.ref, patch e 16 (fit 28 r.entry)))

/-- What the compare gives: the deciding result, or none twice; whether it was retried. -/
structure Compared where
  result : Option LookupResult
  retried : Bool
  st : State

/-- A result that appears at least twice. DESIGN CHOICE (log 104): where two results each appear twice, the first in lookup order. -/
def majority (l : List LookupResult) : Option LookupResult := l.find? (fun r => decide (2 ≤ l.count r))

/-- Both engines look up; on a difference the two other lanes repeat it. A lane beyond those in service stands for one
of them; with one lane a fault cannot be placed (R575). -/
def beaconCompare (lookups : List LookupResult) (true_ : LookupResult) (s : State) : Compared :=
  let res (i : Nat) : LookupResult := lookups.getD i true_
  if res 0 = res 1 then ⟨some (res 0), false, s⟩
  else
    let lanes := s.harrow.lanes
    let lane (i : Nat) : Nat := lanes.getD ((pick s + i) % lanes.length) 0
    let all := [0, 1, 2, 3].map (fun i => (lane i, res i))
    let m := majority (all.map (·.2))
    let bad := (all.filter (fun e => m != some e.2)).map (·.1)
    let faulty := lanes.filter bad.contains
    ⟨m, true, if lanes.length ≤ 1 then picked s else faulty.foldl (fun s n => compareFault n s) (picked s)⟩

/-! ### Hand-off (R117, R148) -/

/-- Grains waiting for the Drill in a class. -/
def handoffOf (cls : Nat) (s : State) : List HandOff := tgetD cls [] s.harrow.handoff

/-- Count against a route. -/
def countRoute (ref : Nat) (f : RouteRt → RouteRt) (s : State) : State :=
  if ref = noRoute then s else { s with harrow.routes := tmod ref {} f s.harrow.routes }

/-- Discard a grain in the Harrow. -/
def drop (g : Grain) (s : State) : Option State := some (dropGrain g s)

/-- The mirror copy of R500: to the mirror ring, due at once. -/
def mirrorCopy (g : Grain) (ring : Nat) (s : State) : State :=
  if !((tget ring s.rings).map (·.enabled)).getD false then s
  else match poolGrant g.cls s with
    | none => { s with rings := tmod ring {} (fun r => { r with dropped := r.dropped + 1 }) s.rings }
    | some res =>
      enqueueRow (512 + ring) { grain := g, row := 512 + ring, release := g.stamp, due := true, reason := 4, fromReserve := res
                                unsync := g.unsync, flagTally := g.tally }
        (addRefs g.cell 1 (poolTake g.cls res s))

/-- Grains of a class between Harrow and Drill: 64 in the crossing, and one in each lane in service, which its full crossing
stalls for that class only (R17; log 105). -/
def handoffRoom (cls : Nat) (s : State) : Bool := decide ((handoffOf cls s).length < 64 + s.harrow.lanes.length)

/-- Grains in hand-off that wait for a route-bound verify of a unit (R530). -/
def unitWaiting (u : Nat) (s : State) : Nat :=
  (s.harrow.handoff.flatMap (·.2)).countP (fun h => h.tally / 32 % 2 == 1 && h.tally % 32 == u)

/-- A grain that finds its unit's queue of 8 full passes unchecked and is counted as skipped (R530). -/
def queueUnit (h : HandOff) (s : State) : HandOff × State :=
  match routeUnit false h.tally s with
  | some (u, some _) => if 8 ≤ unitWaiting u s then ({ h with tally := 0 }, tallySkip u s) else (h, s)
  | _ => (h, s)

/-- The Hedgerow stage, the limit of R185 and the hand-off. `none` when no lane can take a further grain of the class. -/
def handOff (far : Bool) (g : Grain) (h : HandOff) (s : State) : Option State :=
  let a := hedgerow g s
  let cls := if a.bulk && g.cls != 0 then 3 else g.cls
  let g' := { g with cls }
  let s := match a.mirror with
    | some ring => mirrorCopy g' ring a.st
    | none => a.st
  if a.mask = 0 then
    some (dropGrain g (raise 52 h.route (countRoute h.route (fun v => { v with denied := v.denied + 1 }) s)))
  else if far then some (dropGrain g (countRoute h.route (fun v => { v with tooFar := v.tooFar + 1 }) s))
  else if !handoffRoom cls s then none
  else
    let s := if g.kind = 15 ∨ g.remote ∨ cls = g.ingress then s else moveCharge g cls s
    let s := countRoute h.route (fun v => { v with passed := v.passed + 1 }) s
    let q := queueUnit h s
    some { q.2 with harrow.handoff := tset cls (handoffOf cls q.2 ++ [{ q.1 with grain := g', permit := a.mask }]) q.2.harrow.handoff }

/-- A delivery without a route: due at once, release field at the stamp. -/
def dueAtOnce (g : Grain) (set cls : Nat) (retried : Bool) (s : State) : HandOff :=
  { grain := { g with lset := set, cls, release := releaseField g.stamp }, route := noRoute, copy := (lsetOf set s.bank).copy,
    due := true, permit := 0, retried }

/-- Miss of a non-void sentence (R134). -/
def miss (g : Grain) (retried : Bool) (s : State) : Option State :=
  let i := bindOf g.row s
  let s := raise 28 g.row (countRow g.row 12 1 s)
  let h := dueAtOnce g (fld i 14 0 10) (fld i 12 0 2) retried s
  match u8 i 13 with
  | 1 => if s.rings.any (fun e => decide (e.1 < 16) && flag e.2.create 1 0) then
      handOff false h.grain { h with missRing := true, reason := 1 } s
    else drop g s
  | 2 => handOff false h.grain { h with reason := 1 } s
  | _ => drop g s

/-- No Beacon result appears twice: the fallback set, or the grain is dropped and counted (R150). -/
def fallback (g : Grain) (s : State) : Option State :=
  let i := bindOf g.row s
  if flag i 17 7 then
    let h := dueAtOnce g (fld i 16 0 10) 0 true s
    handOff false h.grain h s
  else drop g { s with harrow.beaconDrops := s.harrow.beaconDrops + 1 }

/-- After the content stage: class, Thinning, Hedgerow, release time, hand-off. -/
def decidePassed (g : Grain) (ref : Nat) (e : Img) (retried : Bool) (s : State) : Option State :=
  let cls := if g.remote then g.cls else reClass e
  let v := routeRt ref s
  let r := if cls = 0 then (true, v) else thin e g.stamp v
  let s := { s with harrow.routes := tset ref r.2 s.harrow.routes }
  if !r.1 then drop g (countRoute ref (fun v => { v with thinned := v.thinned + 1 }) s)
  else
    let t := releaseOf e g.stamp s
    let g' := { g with cls, release := if g.remote then g.release else releaseField t, lset := reSet e }
    handOff (!g.remote && decide (nowNs s + farLimit < t)) g'
      { grain := g', route := ref, copy := (lsetOf (reSet e) s.bank).copy, due := false, permit := 0,
        rewrite := u8 e 37, tally := u8 e 38, retried } s

/-- A non-void sentence under a route: Sieves and Team. -/
def decideRoute (g : Grain) (ref : Nat) (e : Img) (retried : Bool) (s : State) : Option State :=
  let s := countRoute ref (fun v => { v with hits := v.hits + 1 }) s
  let s := if (if g.remote then g.cls else reClass e) ≤ 1 ∧ !isAgreement g s then trafficNeed s else s
  let r := sieveStage e g.bareLf ((payload g.cell g.len s).take 256) s
  let sieved (s : State) : State := countRoute ref (fun v => { v with sieve := v.sieve + 1 }) s
  let teamed (s : State) : State := countRoute ref (fun v => { v with team := v.team + 1 }) s
  match reTeam e with
  | none => if r.1 = .pass then decidePassed g ref e retried r.2 else drop g (sieved r.2)
  | some t =>
    let o := teamGrain t g r.1 r.2
    match o.1 with
    | .notMember => drop g (teamed o.2)
    | .pass => decidePassed g ref e retried o.2
    | .discard => drop g (if r.1 = .pass then teamed o.2 else sieved o.2)

/-- A void grain: route counters and Team accounting, then nothing (R117, R119, R140). -/
def decideVoid (g : Grain) (s : State) : State :=
  match lookup g s.bank with
  | none => s
  | some (ref, e) =>
    let s := countRoute ref (fun v => { v with hits := v.hits + 1, void := v.void + 1 }) s
    match reTeam e with
    | some t => (teamGrain t g .pass s).2
    | none => s

/-- A result names a route of class Beacon. -/
def beaconResult (r : LookupResult) : Bool := r.ref != noRoute && fld r.entry 6 0 2 == 0

/-- A non-void sentence grain: engine A's result decides it, with engine B beside it for a Beacon ingress class or when engine A gives a
Beacon route (R149). -/
def decideSentence (g : Grain) (lookups : List LookupResult) (s : State) : Option State :=
  let e := lookup g s.bank
  let a := lookups.getD 0 (resultOf e)
  let c := if g.ingress == 0 || beaconResult a then beaconCompare lookups (resultOf e) s else ⟨some a, false, s⟩
  match c.result with
  | none => fallback g c.st
  | some r => match routeAt r s.bank with
    | some x => decideRoute g x.1 x.2 c.retried c.st
    | none => miss g c.retried c.st

/-- The frame switching decision (R129, R130, R288). -/
def decideFrame (g : Grain) (s : State) : Option State :=
  let e := exactFind s.bank 0 true g.key
  let ref := refOfRoute e
  let s := countRoute ref (fun v => { v with hits := v.hits + 1 }) s
  let cfg := portCfg g.port s
  let own : Nat := if g.port < 10 then 2 ^ g.port else 0
  let sel : Nat × Bool := match e with
    | some x => (rePorts x.2, reHostFrame x.2)
    | none => if g.port < 10 then (if u8 cfg 16 = 1 then fld cfg 18 0 10 else 0, u8 cfg 16 == 2) else (0, false)
  let ports := if g.reserved then 0 else sel.1 - (sel.1 &&& own)
  if ports = 0 ∧ !sel.2 then drop g s
  else
    let g := { g with lset := ports, cls := g.ingress, release := releaseField g.stamp }
    handOff false g {
      grain := g, route := ref, copy := false, due := true, permit := 0, hostFrame := sel.2
      tally := (match e with
        | some x => u8 x.2 38
        | none => 0)
      reason := if g.reserved then 5 else 2 } s

/-- The decision of the grain at the front of a crossing. -/
def decideGrain (g : Grain) (lookups : List LookupResult) (s : State) : Option State :=
  if g.tallyDrop then drop g s
  else if g.kind = 15 then decideFrame g s
  else if g.void then some (decideVoid g s)
  else decideSentence g lookups s

/-- The Harrow can decide: forwarding runs, a lane is in service, the crossing moves. -/
def harrowReady (p : PloughId) (s : State) : Bool :=
  s.power.state == .growing && !s.harrow.inReset && !s.harrow.lanes.isEmpty &&
  !s.harrow.stalled.contains (.plough (ploughKey p))

/-- The first grain of a crossing that the lanes can take; behind one that waits, grains of its row and ingress class wait too
(R17, R152). -/
def decideFirst (p : PloughId) (lookups : List LookupResult) (s : State) : List Grain → List Grain → Option State
  | _, [] => none
  | before, g :: rest =>
    if before.any (fun b => b.row == g.row && b.ingress == g.ingress) then decideFirst p lookups s (before ++ [g]) rest
    else match decideGrain g lookups (setPlough p { ploughOf p s with crossing := before ++ rest } s) with
      | some s' => some s'
      | none => decideFirst p lookups s (before ++ [g]) rest

/-- The first grain of a crossing that the lanes can take has ingress class Beacon. -/
def beaconFirst (s : State) : List Grain → List Grain → Bool
  | _, [] => false
  | before, g :: rest =>
    if before.any (fun b => b.row == g.row && b.ingress == g.ingress) then beaconFirst s (before ++ [g]) rest
    else if g.ingress = 0 then true
    else (decideGrain g [] s).isNone && beaconFirst s (before ++ [g]) rest

/-- A Beacon grain has reached the lane arbiter from some Plough's crossing, and its class has room (R25). -/
def beaconWaits (s : State) : Bool :=
  handoffRoom 0 s && s.ploughs.any (fun e => !s.harrow.stalled.contains (.plough e.1) && beaconFirst s [] e.2.crossing)

/-- HARROW_DECISION. The arbiter serves a waiting Beacon grain before a Plough that offers one of another class. -/
def execHarrowDecision (p : PloughId) (lookups : List LookupResult) (s : State) : Result :=
  match (ploughOf p s).crossing with
  | [] => .next s
  | g :: rest =>
    if !harrowReady p s || (!beaconFirst s [] (g :: rest) && beaconWaits s) then .next s
    else .next ((decideFirst p lookups s [] (g :: rest)).getD s)

end Sys2Proof.Machine
end

