-- ==== Sys2Proof/Machine/Rewrite.lean ====
section
/-! DEFINITION. Rewrite: the output of a profile on a sentence (R146, R147). -/

namespace Sys2Proof.Machine

/-! ### Text -/

/-- Decimal digits of a number, at most `k`. -/
def decDigits : Nat → Nat → Bytes
  | 0, _ => []
  | k + 1, n => if n < 10 then [byte (0x30 + n)] else decDigits k (n / 10) ++ [byte (0x30 + n % 10)]

/-- A number in exactly `w` decimal digits. -/
def padDigits : Nat → Nat → Bytes
  | 0, _ => []
  | w + 1, n => padDigits w (n / 10) ++ [byte (0x30 + n % 10)]

/-- A signed number in decimal. -/
def intText (v : Int) : Bytes := if v < 0 then 0x2D :: decDigits 20 v.natAbs else decDigits 20 v.natAbs

/-- Upper-case hex digit. -/
def hexDigit (n : Nat) : Byte := if n < 10 then byte (0x30 + n) else byte (0x37 + n)

/-- `*` and two upper-case hex digits. -/
def checkText (x : Byte) : Bytes := [0x2A, hexDigit (x.toNat / 16), hexDigit (x.toNat % 16)]

def hexVal (b : Byte) : Nat :=
  let n := b.toNat
  if 0x30 ≤ n ∧ n ≤ 0x39 then n - 0x30 else if 0x41 ≤ n ∧ n ≤ 0x46 then n - 0x37 else n - 0x57

/-! ### Parts of a stored sentence -/

/-- Tag block with both `\`, and the rest. -/
def splitTag (d : Bytes) : Bytes × Bytes :=
  match d with
  | 0x5C :: t =>
    let body := t.takeWhile (· != 0x5C)
    (0x5C :: body ++ [0x5C], t.drop (body.length + 1))
  | _ => ([], d)

/-- Characters of a tag block between the `\` and the `*`. -/
def tagBody (tag : Bytes) : Bytes := (tag.drop 1).takeWhile (· != 0x2A)

/-- A sentence from `$` or `!`: the characters under its checksum, `*` and its digits when present, the line end. -/
structure Parts where
  start : Byte
  text : Bytes
  sum : Option Bytes
  tail : Bytes

def endsText (b : Byte) : Bool := b == 0x2A || b == 0x0D || b == 0x0A

def splitSentence (d : Bytes) : Parts :=
  let text := (d.drop 1).takeWhile (fun b => !endsText b)
  let rest := d.drop (text.length + 1)
  if rest.head? = some 0x2A then
    ⟨d.headD 0, text, some (rest.take 3), rest.drop 3⟩
  else ⟨d.headD 0, text, none, rest⟩

/-- Parameters of a tag block, separated by commas. -/
def splitCommas : Bytes → Bytes → List Bytes
  | acc, [] => [acc]
  | acc, b :: t => if b = 0x2C then acc :: splitCommas [] t else splitCommas (acc ++ [b]) t

/-! ### The profile (R146, R399) -/

/-- `s:` value: the profile's text, or Q, device ID, R, source row; the digits of a device outside a Field are free. -/
def sourceText (prof : Img) (g : Grain) (s : State) : Bytes :=
  if u8 prof 4 ≠ 0 then sub prof 5 (u8 prof 4)
  else
    let dev := if g.remote then g.origin else if s.field.dev = 255 then pick s else s.field.dev
    [0x51] ++ padDigits 2 dev ++ [0x52] ++ padDigits 3 (if g.remote then g.originRow else g.row)

/-- `c:` value: the stamp in whole seconds less the UTC offset. -/
def timeText (g : Grain) (s : State) : Bytes := intText ((g.stamp / 1000000000 : Nat) - (utcOffset s : Int))

/-- New parameters of an inserted tag block. -/
def newParams (prof : Img) (g : Grain) (s : State) : Bytes :=
  [0x73, 0x3A] ++ sourceText prof g s ++ (if flag prof 1 3 then [0x2C, 0x63, 0x3A] ++ timeText g s else [])

/-- A tag block around its parameters. -/
def tagBlock (params : Bytes) : Bytes := [0x5C] ++ params ++ checkText (xorSum params) ++ [0x5C]

/-- The tag block of the output. -/
def outTag (prof : Img) (g : Grain) (tag : Bytes) (s : State) : Bytes :=
  let new := newParams prof g s
  if tag = [] then (if fld prof 1 1 2 = 0 then [] else tagBlock new)
  else match fld prof 1 1 2 with
    | 2 => tagBlock new
    | 3 =>
      if g.tagBad then tag
      else
        let keep := (splitCommas [] (tagBody tag)).filter (fun p => p.take 2 != [0x73, 0x3A] && p.take 2 != [0x63, 0x3A])
        tagBlock (new ++ (keep.map (fun p => 0x2C :: p)).flatten)
    | _ => tag

/-- The sentence with its talker substituted and its checksum brought along (R147). -/
def outSentence (prof : Img) (q : Parts) : Bytes :=
  let addr := q.text.takeWhile (· != 0x2C)
  let subst := flag prof 1 0 && addr.head? != some 0x50 && decide (2 ≤ addr.length)
  let text := if subst then sub prof 2 2 ++ q.text.drop 2 else q.text
  let sum : Option Bytes := match q.sum with
    | some v => some (if subst then
        checkText (byte (16 * hexVal (v.getD 1 0) + hexVal (v.getD 2 0)) ^^^ xorSum (q.text.take 2) ^^^ xorSum (sub prof 2 2))
      else v)
    | none => if flag prof 1 4 then some (checkText (xorSum text)) else none
  [q.start] ++ text ++ sum.getD [] ++ q.tail

/-- Longest sentence a listener row's framing allows: 2080, or its framing's maximum on a UART row bound both ways. -/
def rowMaxLen (r : Nat) (s : State) : Nat :=
  let i := bindOf r s
  if u8 i 0 = 2 ∧ isTalker i then min 2080 (u16 (framingOf r s) 2) else 2080

/-- Rewrite of a payload for a local listener row: the bytes to send, whether they were rewritten, and a rewrite skip
counted when the route asks for one that does not apply. -/
def rewrite (byte37 r : Nat) (g : Grain) (d : Bytes) (s : State) : Bytes × Bool × State :=
  if byte37 / 64 % 2 = 0 then (d, false, s)
  else if g.kind ≠ 0 then (d, false, countRow r 21 1 s)
  else
    let prof := rewriteOf (byte37 % 64) s.bank
    let t := splitTag d
    let out := outTag prof g t.1 s ++ outSentence prof (splitSentence t.2)
    if rowMaxLen r s < out.length then (d, false, countRow r 21 1 s) else (out, true, picked s)

end Sys2Proof.Machine
end

