-- ==== Sys2Proof/Machine/Drill.lean ====
section
/-! DEFINITION. The Drill up to the listener's wire: acceptance, replication, Sheaf bundling, read-out of row copies,
and the rows DRILL_ACCEPT, COPY_RELEASE, EGRESS_AGE_LIMIT, SHEAF_AGE and SHEAF_RELEASE_BOUNDARY (R187 to R197, R209 to
R217, R234, R235, R256, R263 to R268, R272, R524 to R530). -/

namespace Sys2Proof.Machine

/-! ### Listeners -/

/-- Kind and instance of a row's endpoint (R388). -/
def rowKind (r : Nat) (s : State) : Nat := u8 (bindOf r s) 0
def rowInst (r : Nat) (s : State) : Nat := u8 (bindOf r s) 2

/-- Host ring behind a ring row or a pseudo-row 512 + ring. -/
def ringOf (r : Nat) (s : State) : Option Nat :=
  if 512 ≤ r then some (r - 512) else if rowKind r s = 6 then some (rowInst r s) else none

/-- An Enabled row bound as a listener. -/
def listens (r : Nat) (s : State) : Bool := s.bank.enabled.contains r && isListener (bindOf r s)

/-- The receive ring of a role: 0 miss ring, 1 host frame ring (R448). -/
def roleRing (role : Nat) (s : State) : Option Nat :=
  (s.rings.find? (fun e => decide (e.1 < 16) && e.2.enabled && flag e.2.create 1 role)).map (·.1)

/-! ### Sheafs (R209 to R217) -/

/-- Bytes of a Sheaf entry less its payload padding: header of R211 and the payload padded to a multiple of 4. -/
def sheafEntry (g : Grain) (d : Bytes) (s : State) : Bytes :=
  be 2 (g.row + 512 * ownDev s) ++ le 1 (g.cls + 4 * g.kind) ++
  le 1 (b2n g.csAbsent + 2 * b2n g.csBad + 4 * b2n g.notLocked + 8 * b2n g.tagPresent + 16 * b2n g.tagBad +
    32 * b2n g.carried + 64 * b2n g.keyShort + 128 * b2n g.bareLf) ++
  be 8 g.key ++ be 8 g.stamp ++ be 8 (stampOf (fullRelease g.release (nowNs s))) ++ be 2 d.length ++ be 2 0 ++ d ++ List.replicate ((4 - d.length % 4) % 4) 0

def sheafMtu (i : Img) : Nat := u16 i 10

/-- Transit allowance in ns. -/
def transitAllowance (i : Img) : Nat := u32 i 20 * 1000

/-- A Sheaf of grains queued as a frame due at once, under the settings it was opened with; with no port up its
grains are discarded against their rows (R214, R217, R220). -/
def sendSheaf (dest cls : Nat) (o : OpenSheaf) (s : State) : State :=
  let b := { s.bank with sheaf := some o.settings }
  match tget dest s.field.roster, (sheafPort dest b s).filter (fun p => portUp p s) with
  | some m, some p =>
    let head := sheafHeader false (cls == 0) (o.unsync || !synced s) cls dest o.grains.length s
    let frame := taggedFrame m.addr (classPcp p cls s.bank) (head ++ o.bytes) b
    countSeq dest cls (enqueuePort p { sheafCopy p cls frame s with grains := o.grains, rows := o.rows } s)
  | _, _ =>
    let s := o.rows.foldl (fun s r => countRow r 25 1 s) s
    o.grains.foldl (fun s e => endGrain e.1 e.2 s) s

/-- Close the open Sheaf of a destination and class (R214). -/
def closeSheaf (dest cls : Nat) (s : State) : State :=
  match tget (4 * dest + cls) s.drill.sheafs with
  | none => s
  | some o => sendSheaf dest cls o { s with drill.sheafs := tdel (4 * dest + cls) s.drill.sheafs }

/-- Discard the open Sheafs to a member (R217). -/
def discardSheafs (dest : Nat) (s : State) : State := dropSheafs dest 25 s

/-- The earliest release time in an open Sheaf less the transit allowance is reached. -/
def boundaryReached (o : OpenSheaf) (now : Nat) : Bool :=
  o.grains.any (fun e => decide (fullRelease e.1.release now ≤ now + transitAllowance o.settings))

/-- Put a grain into the open Sheaf of its destination and class, or send it alone when Beacon (R214, R215). -/
def bundle (r dest : Nat) (g : Grain) (res : Bool) (s : State) : State :=
  let e := sheafEntry g (payload g.cell g.len s) s
  let fresh : OpenSheaf := { opened := nowNs s, settings := sheafCfg s.bank }
  let add (o : OpenSheaf) : OpenSheaf :=
    { o with grains := o.grains ++ [(g, res)], bytes := o.bytes ++ e, rows := o.rows ++ [r], unsync := o.unsync || !synced s }
  if g.cls = 0 then sendSheaf dest 0 (add fresh) s
  else
    let key := 4 * dest + g.cls
    let s := match tget key s.drill.sheafs with
      | some o => if sheafMtu o.settings < 16 + o.bytes.length + e.length then closeSheaf dest g.cls s else s
      | none => s
    let o := add (tgetD key fresh s.drill.sheafs)
    let s := { s with drill.sheafs := tset key o s.drill.sheafs }
    if o.grains.length = 255 ∨ boundaryReached o (nowNs s) then closeSheaf dest g.cls s else s

/-! ### Replication (R193 to R196, R502) -/

/-- What replication has done: a copy was skipped for its zone; copies made. -/
structure Accept where
  denied : Bool := false
  made : Nat := 0
  st : State

/-- Tick at which the `n`-th copy of a grain is made: two copies a tick (R194). -/
def madeAt (n : Nat) (s : State) : Nat := nowNs s + 4 * (n / 2)

/-- Full release time of a hand-off's grain (R116). -/
def copyRelease (h : HandOff) (s : State) : Nat := fullRelease h.grain.release (nowNs s)

/-- Lateness of the `n`-th copy: it is made after its release time (R189). -/
def lateAt (h : HandOff) (n : Nat) (s : State) : Bool := !h.due && decide (copyRelease h s < madeAt n s)

def countLate (r : Nat) (late : Bool) (s : State) : State := if late then raise 30 r (countRow r 17 1 s) else s

/-- The `n`-th copy of a grain, for a row or port. -/
def copyOf (h : HandOff) (r p : Nat) (res : Bool) (n : Nat) (s : State) : Copy :=
  { grain := h.grain, row := r, port := p, release := copyRelease h s, due := h.due, late := lateAt h n s, made := madeAt n s
    rewrite := h.rewrite, tally := h.tally, route := h.route, reason := h.reason, fromReserve := res
    unsync := h.grain.unsync, flagTally := h.grain.tally }

/-- A copy that finds no pool entry is counted as Drill full; one that does is made (R196). -/
def Accept.refused (a : Accept) (r : Nat) : Accept := { a with st := countRow r 19 1 a.st }
def Accept.makes (a : Accept) (s : State) : Accept := { a with made := a.made + 1, st := s }

/-- A grain for a remote listener row (R40, R128, R195, R216). -/
def acceptRemote (h : HandOff) (r : Nat) (a : Accept) : Accept :=
  let s := a.st
  let g := h.grain
  let d := rowInst r s
  if sheafMtu (sheafCfg s.bank) < 48 + (g.len + 3) / 4 * 4 then { a with st := raise 31 d (countRow r 24 1 s) }
  else match poolGrant g.cls s with
    | none => a.refused r
    | some res => a.makes (bundle r d g res (countLate r (lateAt h a.made s) (addRefs g.cell 1 (poolTake g.cls res s))))

/-- An ACF listener row: only CAN and CAN FD content (R36); the copy joins its port's queue. -/
def acceptAcf (h : HandOff) (r : Nat) (a : Accept) : Accept :=
  let s := a.st
  let g := h.grain
  let p := rowInst r s
  if g.kind ≠ 1 ∧ g.kind ≠ 6 then { a with st := countRow r 28 1 s }
  else if !portEnabled p s || !portPresent p s then { a with st := countRow r 22 1 s }
  else match poolGrant g.cls s with
    | none => a.refused r
    | some res =>
      let c := copyOf h r p res a.made s
      a.makes (countLate r c.late (enqueuePort p { c with tc := classTc p g.cls s.bank, pcp := classPcp p g.cls s.bank }
        (addRefs g.cell 1 (poolTake g.cls res s))))

/-- A copy for a row's own queue, or for a pseudo-row 512 + ring. -/
def acceptOwn (h : HandOff) (r : Nat) (a : Accept) : Accept :=
  let s := a.st
  let g := h.grain
  match poolGrant g.cls s with
  | none => a.refused r
  | some res =>
    let c := copyOf h r 15 res a.made s
    a.makes (countLate r c.late (enqueueRow r c (addRefs g.cell 1 (poolTake g.cls res s))))

/-- One row of the listener set. -/
def acceptRow (h : HandOff) (a : Accept) (r : Nat) : Accept :=
  let s := a.st
  let g := h.grain
  if r = g.row then a
  else if !listens r s then { a with st := { s with harrow.lsetSkips := tadd g.lset 1 s.harrow.lsetSkips } }
  else if rowKind r s = 9 then
    if g.remote then { a with st := countRow r 23 1 s }
    else if !reachable (rowInst r s) s then { a with st := countRow r 25 1 s }
    else if !h.permit.getLsbD (rowZone r s) then { a with denied := true }
    else acceptRemote h r a
  else if !h.permit.getLsbD (rowZone r s) then { a with denied := true }
  else if rowKind r s = 5 then acceptAcf h r a
  else acceptOwn h r a

/-- Rows of the listener set copy the hand-off names, ascending (R132, R194). -/
def namedRows (h : HandOff) (s : State) : List Nat :=
  let set := lsetCopy (lsetOf h.grain.lset s.bank) h.copy
  (List.range 512).filter (fun r => set.getLsbD r)

/-- One port of a frame's bitmap (R129, R199, R220). DESIGN CHOICE (log 143): an untagged received frame takes the default priority of
the port it arrived on, a host frame that of the egress port. -/
def acceptPort (h : HandOff) (a : Accept) (p : Nat) : Accept :=
  let s := a.st
  let g := h.grain
  if !h.permit.getLsbD (zoneAt p s.bank) then { a with denied := true }
  else if !portPresent p s then a
  else if !portEnabled p s then { a with st := countPort p 33 1 s }
  else match poolGrant g.cls s with
    | none => a
    | some res =>
      let f := payload g.cell g.len s
      let pcp := if frameTagged f || g.port < 10 then framePcp f g.port s else defaultPcp p s
      a.makes (enqueuePort p { copyOf h 0 p res a.made s with tc := pcpTc p pcp s.bank, pcp }
        (addRefs g.cell 1 (poolTake g.cls res s)))

/-- Delivery to the ring of a role, zone 6. -/
def acceptRole (h : HandOff) (role : Nat) (a : Accept) : Accept :=
  if !h.permit.getLsbD 6 then { a with denied := true }
  else match roleRing role a.st with
    | some ring => acceptOwn h (512 + ring) a
    | none => a

/-- Every copy of a grain. -/
def replicate (h : HandOff) (s : State) : Accept :=
  let a : Accept := { st := s }
  if h.grain.kind = 15 then
    let a := ((List.range 10).filter (fun p => Nat.testBit h.grain.lset p)).foldl (acceptPort h) a
    if h.hostFrame then acceptRole h 1 a else a
  else if h.missRing then acceptRole h 0 a
  else (namedRows h s).foldl (acceptRow h) a

/-- The route-bound verify before replication (R524, R529): its action and the state. A route whose unit is not bound
passes unchecked and is counted as skipped. -/
def routeVerify (h : HandOff) (s : State) : Nat × State :=
  match routeUnit false h.tally s with
  | some (u, some i) => tallyVerify u i h.grain.kind (framingOf h.grain.row s) (payload h.grain.cell h.grain.len s) s
  | some (u, none) => (2, tallySkip u s)
  | none => (2, s)

/-- The Drill takes one grain: verify, replicate, drop the grain's own reference (R193, R225, R502). -/
def acceptGrain (h : HandOff) (s : State) : State :=
  let v := routeVerify h s
  if v.1 = 0 then dropGrain h.grain v.2
  else
    let h := { h with grain := { h.grain with tally := h.grain.tally || v.1 == 1 } }
    let a := replicate h v.2
    let s := if a.denied then raise 52 h.route (countRoute h.route (fun v => { v with denied := v.denied + 1 }) a.st) else a.st
    dropGrain h.grain s

/-- A stalled Tally channel holds the grains of its routes. -/
def tallyStalled (h : HandOff) (s : State) : Bool := h.tally / 32 % 2 = 1 && s.harrow.stalled.contains (.tally (h.tally % 32))

/-- DRILL_ACCEPT: Beacon grains go ahead of every other class (R194). -/
def execDrillAccept (cls : Nat) (s : State) : Result :=
  match handoffOf cls s with
  | [] => .next s
  | h :: rest =>
    if s.harrow.inReset || s.harrow.stalled.contains (.drill cls) || tallyStalled h s || (decide (cls ≠ 0) && !(handoffOf 0 s).isEmpty)
    then .next s
    else .next (acceptGrain h { s with harrow.handoff := tset cls rest s.harrow.handoff })

/-- SHEAF_AGE: the oldest grain reached its class's age limit. -/
def execSheafAge (dest cls : Nat) (s : State) : Result := .next (closeSheaf dest cls s)

/-- SHEAF_RELEASE_BOUNDARY: the earliest release time less the transit allowance is reached. -/
def execSheafReleaseBoundary (dest cls : Nat) (s : State) : Result := .next (closeSheaf dest cls s)

/-! ### Reading a copy out (R233 to R235, R521) -/

/-- What a full read gives: the payload, or damage. -/
structure ReadOut where
  data : Option Bytes
  st : State

/-- Every cell of a copy's payload. -/
def copyCells (c : Copy) (s : State) : List Nat :=
  if c.own then (c.grains.map (fun e => chain s.gran.cells maxChain e.1.cell)).flatten
  else if c.grain.len = 0 then [] else chain s.gran.cells maxChain c.grain.cell

/-- A link entry is found uncorrectable: the chain cannot be followed past it (R226). One wrong bit is corrected, and errors of the link
memory retire no bank (R224, R237). -/
def cutChain (i : Nat) (s : State) : State :=
  match cellOf i s with
  | some x => { s with gran.cells := tset i { x with cut := true } s.gran.cells }
  | none => s

/-- Effects of what the read met: corrected and uncorrectable words, a link entry, a parity failure on the way out; whether the data
is damaged. -/
def readEffects (rd : ReadOutcome) (parityObj : Nat) (cells : List Nat) (s : State) : Bool × State :=
  let bad := cells.any (fun i => poisoned i s || ((cellOf i s).map (·.cut)).getD false)
  match rd with
  | .clean => (bad, s)
  | .word i w e =>
    if !cells.contains i then (bad, s)
    else if uncorrectable e then (true, uncorrectableWord (physOf (i / 256) s) (some i) s)
    else (bad, correctedWord (physOf (i / 256) s) (i % 256 * 32 + w % 32) s)
  | .link i e => if cells.contains i && e = .twoBits then (true, cutChain i s) else (bad, s)
  | .parity => (true, raiseD 37 4 parityObj { s with harrow.codeFaults := s.harrow.codeFaults + 1 })

/-- Object of an egress parity failure towards a row (R573). -/
def parityObject (r : Nat) (s : State) : Nat :=
  match rowCtl (bindOf r s) with
  | some (kind, k) => 0x100 + ctlObj kind k
  | none => 0x100 + (ringOf r s).getD 0

/-- Read, Rewrite, and the Tally units of a row copy (R146, R524, R528, R529): the bytes to send, or why it is
discarded; a listener-row verify that drops is counted by its unit alone. -/
def readCopy (c : Copy) (rd : ReadOutcome) (s : State) : Option Copy × State :=
  if c.out ≠ [] then (some c, s)
  else
    let e := readEffects rd (parityObject c.row s) (copyCells c s) s
    if e.1 then (none, discardCopy 27 c e.2)
    else
      let g := c.grain
      let d := payload g.cell g.len e.2
      let fr := framingOf g.row e.2
      let v := if c.row < 512 then rowVerify c.row g.kind [] fr d e.2 else (2, e.2)
      if v.1 = 0 then (none, endCopy c v.2)
      else
        let w := rewrite c.rewrite c.row g d v.2
        let t := match routeUnit true c.tally w.2.2 with
          | some (u, some i) => tallyGenerate u i false g.kind fr w.1 w.2.2
          | _ => (w.1, w.2.2)
        let o := if c.row < 512 then rowGenerate c.row false g.kind fr t.1 t.2 else t
        (some { c with out := o.1, rewritten := w.2.1, flagTally := c.flagTally || v.1 == 1 }, o.2)

/-! ### Row wires (R187 to R190, R197) -/

/-- Loopback mode of a target: kind 0 port, 1 CAN, 2 UART (R452). -/
def loopMode (kind k : Nat) (s : State) : Nat := tgetD (16 * kind + k) 0 s.buses.loopback

/-- Lead by which the Drill acts before the release time: the row's compensation, the DE lead, and for an ACF row the PHY's transmit
delay, since the release point is the SFD at the ball (R187, R188, R264). -/
def actLead (r : Nat) (s : State) : Int :=
  let i := bindOf r s
  let comp : Int := if 1 ≤ u8 i 0 ∧ u8 i 0 ≤ 5 then sle i 20 4 else 0
  let k := u8 i 2
  comp + (if u8 i 0 = 5 then (phyNs (txDelay k s) : Int) else 0) + (if u8 i 0 = 2 ∧ usesDe k s.bank then (uartSixteenths k (u16 (uartCfg k s.bank) 8) s.bank : Nat) else 0)

/-- The copy may start now. -/
def isDue (r : Nat) (c : Copy) (s : State) : Bool := c.due || decide ((c.release : Int) - actLead r s ≤ nowNs s)

/-- First copy of each class in queue order. -/
def classHeads (q : List Copy) : List Copy := [0, 1, 2, 3].filterMap (fun cls => q.find? (fun c => c.grain.cls == cls))

/-- The copy a free wire takes: the highest class whose head has reached its release time (R197). -/
def nextCopy (r : Nat) (s : State) : Option Copy := (classHeads (tgetD r [] s.drill.rows)).find? (fun c => isDue r c s)

/-- Take a copy out of its row's queue. -/
def unqueue (r : Nat) (c : Copy) (s : State) : State :=
  { s with drill.rows := tset r ((tgetD r [] s.drill.rows).erase c) s.drill.rows }

/-- Return a copy to the head of its class queue; it waits again (R257, R338). -/
def requeueHead (c : Copy) (s : State) : State :=
  let q := tgetD c.row [] s.drill.rows
  let before := q.filter (fun x => decide (x.grain.cls < c.grain.cls))
  let after := q.filter (fun x => !decide (x.grain.cls < c.grain.cls))
  { s with drill.rows := tset c.row (before ++ { c with deferred := true, ctl := none } :: after) s.drill.rows }

/-- A copy that starts later than the first tick at which it could is deferred (R189). -/
def startsDeferred (r : Nat) (c : Copy) (s : State) : Bool :=
  c.deferred || decide (max ((c.release : Int) - actLead r s) c.made + 4 ≤ nowNs s)

/-- A copy starts: counted once as deferred, unless it is due at once, and once as released unsynchronised (R189, R192). -/
def markStart (r : Nat) (c : Copy) (deferred : Bool) (s : State) : Copy × State :=
  let d := deferred && !c.due
  let u := !synced s || c.unsync
  let s := if d && !c.countedDeferred then countRow r 16 1 s else s
  let s := if u && !c.countedUnsync then countRow r 20 1 s else s
  ({ c with countedDeferred := c.countedDeferred || d, countedUnsync := c.countedUnsync || u }, s)

/-- A copy starts on a row's wire. -/
def beginCopy (r : Nat) (c : Copy) (s : State) : Copy × State := markStart r c (startsDeferred r c s) s

/-- A copy has left: sent, bytes, time of the last one, its reference and pool entry (R225, R390). -/
def sentCopy (r : Nat) (c : Copy) (s : State) : State :=
  let s := countRow r 15 c.out.length (countRow r 14 1 s)
  endCopy c (setRowRt r { rowRt r s with lastTx := c.release } s)

/-- Put a copy on a row's wire; it keeps the controller it started on. -/
def putWire (r : Nat) (c : Copy) (s : State) : State :=
  { s with drill.rowWire := tset r { c with ctl := c.ctl.or (rowCtl (bindOf r s)) } s.drill.rowWire }

/-! ### Suitability (R256, R263, R268, R272) -/

def canMode (k : Nat) (b : Bank) : Nat := fld (canCfg k b) 1 0 2

/-- A controller can send the record: kinds 1h, 2h, 6h; FD not in Classical, XL only in XL mode. -/
def canSuits (k : Nat) (g : Grain) (d : Bytes) (b : Bank) : Bool :=
  let f := canOfRecord d
  [1, 2, 6].contains g.kind && !(canMode k b == 0 && f.fdf) && !(canMode k b != 2 && f.xlf)

/-- Source port entry a record fits: kind 4h, a source port, the length of its F-code. -/
def mvbSuits (k : Nat) (g : Grain) (d : Bytes) (b : Bank) : Bool :=
  g.kind == 4 && (match mvbEntry (mvbCfg k b) (fld (sub d 0 2).reverse 0 0 12) with
    | some e => entrySource e && fcodeLen (entryFcode e) == d.length - 4
    | none => false)

/-- LIN: a record of R97; a responder publishes its ID. -/
def linPublishes (k id : Nat) (b : Bank) : Bool := mapBit (linCfg k b) 8 id
def linResponder (k : Nat) (b : Bank) : Bool := flag (linCfg k b) 1 0

/-! ### Starting on each endpoint -/

/-- CAN: the copy enters the transmit buffer (R249, R254, R256). -/
def startCan (r k : Nat) (c : Copy) (s : State) : State :=
  if (canRt k s).state = 3 ∨ (canRt k s).state = 4 then discardCopy 29 c (countCan k 11 s)
  else if fld (canCfg k s.bank) 1 2 2 ≠ 0 then endCopy c (countCan k 12 s)
  else if !canSuits k c.grain c.out s.bank then discardCopy 28 c s
  else
    let b := beginCopy r { c with tries := 0, waitFrom := some (nowNs s) } (setCan k { canRt k s with onBus := false, retry := false } s)
    putWire r b.1 b.2

/-- UART: the payload bytes as they are, DE around them (R263, R264). -/
def startUart (r k : Nat) (c : Copy) (s : State) : State :=
  if flag (uartCfg k s.bank) 1 0 && c.out.any (fun b => decide (127 < b.toNat)) then discardCopy 28 c s
  else
    let b := beginCopy r c s
    let s := putWire r b.1 (setUart k { uartRt k b.2 with sending := true, de := usesDe k b.2.bank && loopMode 2 k b.2 != 1 } b.2)
    drivePins (if loopMode 2 k s = 1 then s else emit (.rowSend r c.out) s)

/-- Protected identifier of a frame ID (ISO 17987, log 109). -/
def linPid (id : Nat) : Nat :=
  let b (i : Nat) : Nat := id / 2 ^ i % 2
  id % 64 + 64 * ((b 0 + b 1 + b 2 + b 4) % 2) + 128 * ((1 + b 1 + b 3 + b 4 + b 5) % 2)

/-- Inverted sum with carry over the data, with the protected identifier first under the enhanced model (ISO 17987, log 109). -/
def linChecksum (id : Nat) (enhanced : Bool) (d : Bytes) : Byte :=
  byte (255 - (d.foldl (fun a b => let v := a + b.toNat; if 255 < v then v - 255 else v) (if enhanced then linPid id else 0)))

/-- The response a record gives: its data and the checksum under the model of its byte 1, classic for IDs 60 and 61 (R269). -/
def linReply (d : Bytes) : Bytes :=
  let id := fld d 0 0 6
  d.drop 4 ++ [linChecksum id (u8 d 1 == 1 && id != 60 && id != 61) (d.drop 4)]

/-- LIN: a commander sends the whole frame; a responder's buffer is replaced (R267, R268). -/
def startLin (r k : Nat) (c : Copy) (s : State) : State :=
  let id := fld c.out 0 0 6
  if c.grain.kind ≠ 3 then discardCopy 28 c s
  else if linResponder k s.bank then
    if linPublishes k id s.bank then
      let b := beginCopy r c s
      sentCopy r b.1 (setLin k { linRt k b.2 with buffers := tset id (true, c.out) (linRt k b.2).buffers } b.2)
    else discardCopy 28 c (countLin k 7 s)
  else
    let b := beginCopy r c s
    let s := setLin k { linRt k b.2 with busy := true } b.2
    emit (.linResponse k id (linReply c.out)) (emit (.linHeader k id) (putWire r b.1 (countLin k 1 s)))

/-- MVB: the source port's buffer is updated (R272). -/
def startMvb (r k : Nat) (c : Copy) (s : State) : State :=
  if mvbSuits k c.grain c.out s.bank then
    let port := fld (sub c.out 0 2).reverse 0 0 12
    let b := beginCopy r c s
    let s := b.2
    let v := mvbRt k s
    sentCopy r b.1 (setMvb k { v with buffers := tset port (s.power.upNs, c.out.drop 4) v.buffers, stale := v.stale.filter (· != port) } s)
  else discardCopy 28 c (countMvb k 5 s)

/-- A Steward row: the copy is handed to Eulyn (R187). -/
def startSteward (r : Nat) (c : Copy) (s : State) : State :=
  let b := beginCopy r c s
  sentCopy r b.1 (emit (.toEulyn r c.out) b.2)

/-- A copy that has been read starts on its endpoint. -/
def startCopy (r : Nat) (c : Copy) (s : State) : State :=
  match rowKind r s with
  | 1 => startCan r (rowInst r s) c s
  | 2 => startUart r (rowInst r s) c s
  | 3 => startLin r (rowInst r s) c s
  | 4 => startMvb r (rowInst r s) c s
  | 7 => startSteward r c s
  | _ => s

/-- What keeps a UART from starting: minimum idle since its own last stop bit; in RS-485 mode the turnaround (R263, R265). -/
def uartTurnaround (k : Nat) (s : State) : Bool :=
  let i := uartCfg k s.bank
  rs485 k s.bank && (match (uartRt k s).lastRx with
    | some t => decide (nowNs s < t + u8 i 12 * uartCharNs k s.bank)
    | none => false)

def uartIdleWait (k : Nat) (s : State) : Bool :=
  match (uartRt k s).lastTx with
  | some t => decide (nowNs s < t + max (uartLag k s.bank) (uartSixteenths k (16 * u8 (uartCfg k s.bank) 13) s.bank))
  | none => false

/-- No command reports a character that is still being received: on an RS-485 line a free value says whether one keeps DE from
rising (R265, log 110). -/
def hearsNow (r : Nat) (s : State) : Bool × State :=
  if rowKind r s == 2 && rs485 (rowInst r s) s.bank then (pick s % 2 == 1, picked s) else (false, s)

/-- The copy that occupies a row's wire: its own, or another row's on the same controller. -/
def wireOf (r : Nat) (s : State) : Option Copy :=
  (tget r s.drill.rowWire).or ((rowCtl (bindOf r s)).bind (fun e => (ctlWire e.1 e.2 s).map (·.2)))

/-- The wire of a row is free for a copy of a class; a CAN copy not on the bus gives way to a higher class (R257). -/
def wireFree (r : Nat) (cls : Nat) (s : State) : Bool :=
  match wireOf r s with
  | none => match rowKind r s with
    | 2 => !(uartTurnaround (rowInst r s) s || uartIdleWait (rowInst r s) s)
    | 3 => linResponder (rowInst r s) s.bank || !(linRt (rowInst r s) s).busy
    | _ => true
  | some w => rowKind r s == 1 && w.row == r && w.ctl == some (0, rowInst r s) && !(canRt (rowInst r s) s).onBus && decide (cls < w.grain.cls)

/-- Mark the copy that has to wait as deferred; a wait for the turnaround is counted once per copy (R189, R274). -/
def deferCopy (r : Nat) (c : Copy) (hears : Bool) (s : State) : State :=
  if c.deferred || c.due then s
  else
    let s := if hears || (rowKind r s == 2 && uartTurnaround (rowInst r s) s) then countUart (rowInst r s) 6 s else s
    { s with drill.rows := tmod r [] (fun q => q.map (fun x => if x = c then { x with deferred := true } else x)) s.drill.rows }

/-- Release on a field-bus or Steward row. -/
def releaseRow (r : Nat) (rd : ReadOutcome) (s : State) : State :=
  match nextCopy r s with
  | none => s
  | some c =>
    let h := hearsNow r (sofChoice r s)
    let s := h.2
    if h.1 || !wireFree r c.grain.cls s then deferCopy r c h.1 s
    else
      let s := unqueue r c s
      let s := match tget r s.drill.rowWire with
        | some w => requeueHead w { s with drill.rowWire := tdel r s.drill.rowWire }
        | none => s
      let o := readCopy c rd s
      match o.1 with
      | some c' => startCopy r c' o.2
      | none => o.2

/-! ### Host rings (R337, R338) -/

/-- Buffer unit and size of a ring (R448). -/
def ringUnit (v : Ring) : Nat := u32 v.create 4
def ringSize (v : Ring) : Nat := u16 v.create 2

/-- Descriptors handed over and not used. -/
def ringFree (v : Ring) : Nat := if ringSize v = 0 then 0 else (v.tail + ringSize v - v.head) % ringSize v

/-- Descriptors an item needs. -/
def ringNeed (v : Ring) (len : Nat) : Nat := if ringUnit v = 0 then 0 else (len + ringUnit v - 1) / ringUnit v

/-- Queues that end on a ring: the row bound to it and the pseudo-row of its roles. -/
def ringRows (n : Nat) (s : State) : List Nat :=
  ((s.bank.bind.filter (fun e => u8 e.2 0 == 6 && u8 e.2 2 == n && s.bank.enabled.contains e.1)).map (·.1)) ++ [512 + n]

/-- Order of a ring inside a class: an item that returned from waiting first, then the oldest release time (R338). -/
def ringBefore (a b : Copy) : Bool := a.waitFrom.isSome || (b.waitFrom.isNone && decide (a.release ≤ b.release))

/-- The due item at the head of a class of a ring, over all its queues. -/
def ringHead (n cls : Nat) (s : State) : Option Copy :=
  ((ringRows n s).filterMap (fun r => ((tgetD r [] s.drill.rows).find? (fun c => c.grain.cls == cls)).filter (fun c => isDue r c s))).foldl
    (fun b c => match b with
      | none => some c
      | some x => if ringBefore x c then some x else some c) none

/-- The item next in a ring's order among those it may take: highest class first. -/
def nextItem (n : Nat) (ok : Copy → Bool) (s : State) : Option Copy :=
  [0, 1, 2, 3].findSome? (fun cls => (ringHead n cls s).filter ok)

/-- A ring discards an item: counted against the ring. -/
def ringDrop (n : Nat) (c : Copy) (s : State) : State :=
  let s := endCopy c s
  { s with rings := tmod n {} (fun v => { v with dropped := v.dropped + 1 }) s.rings }

/-- Release on a ring: the item at the head of the ring's order is read and waits for its descriptors; a higher class whose
own need is met takes the place of a waiting one (R338). -/
def releaseRing (n : Nat) (rd : ReadOutcome) (s : State) : State :=
  let onWire := tget (512 + n) s.drill.rowWire
  let v := tgetD n {} s.rings
  let takes (c : Copy) : Bool := match onWire with
    | none => true
    | some w => !v.enabled || (v.waiting && dmaOk s && decide (c.grain.cls < w.grain.cls) && decide (ringNeed v c.grain.len ≤ ringFree v))
  match nextItem n takes s, tget n s.rings with
  | some c, some v =>
    if !v.enabled then ringDrop n c (unqueue c.row c s)
    else
      let s := unqueue c.row c s
      let s := match onWire with
        | some w => requeueHead w { s with drill.rowWire := tdel (512 + n) s.drill.rowWire }
        | none => s
      let o := readCopy c rd s
      match o.1 with
      | none => o.2
      | some c' =>
        let s := o.2
        let t := c'.waitFrom.getD (max c'.release (nowNs s))
        let waits := !dmaOk s || decide (ringFree v < ringNeed v c'.out.length)
        let b := if waits then ({ c' with deferred := true }, s) else beginCopy c.row c' s
        { putWire (512 + n) { b.1 with waitFrom := some t } b.2 with rings := tmod n {} (fun x => { x with waiting := waits }) s.rings }
  | _, _ => s

/-- Rows and rings move while the part forwards and payloads can be read (R17, R19). -/
def forwards (s : State) : Bool := s.power.state == .growing && !s.harrow.inReset && !readStalled s

/-- Behind a stalled read port the cells of the copy being read fill the port's FIFO of 8, then the fabric waits (R17). -/
def readAhead (c : Option Copy) (s : State) : State :=
  match c with
  | some c => if readStalled s then { s with harrow.readFifo := max s.harrow.readFifo (min 8 (copyCells c s).length) } else s
  | none => s

/-- COPY_RELEASE. -/
def execCopyRelease (row : Nat) (rd : ReadOutcome) (s : State) : Result :=
  if !forwards s then .next (readAhead (nextCopy row s) s)
  else match ringOf row s with
    | some n => .next (releaseRing n rd s)
    | none => .next (releaseRow row rd s)

/-! ### Age limit (R190) -/

/-- Age limit of a row in ns; `none` off, or for a pseudo-row. -/
def ageLimit (r : Nat) (s : State) : Option Nat :=
  let v := u16 (bindOf r s) 18
  if 512 ≤ r ∨ v = 0xFFFF ∨ u8 (bindOf r s) 0 = 0 then none else some (v * 1000000)

/-- A copy older than the limit; Beacon never ages. -/
def aged (r : Nat) (s : State) (c : Copy) : Bool :=
  c.grain.cls != 0 && !c.own && (match ageLimit r s with
    | some l => decide (c.release + l ≤ nowNs s)
    | none => false)

/-- An aged copy was due and never started, so it counts as deferred as well (R189, R190). -/
def ageCopy (row : Nat) (s : State) (c : Copy) : State :=
  discardCopy 18 c (if c.due || c.countedDeferred then s else countRow row 16 1 s)

/-- A row's copy waiting on a port, its transmit buffer or its ring has not started. -/
def ageWire (r : Nat) (w : Nat) (s : State) : State :=
  match tget w s.drill.rowWire with
  | some c =>
    let waits := (w == r && rowKind r s == 1 && !(canRt (rowInst r s) s).onBus) ||
      (decide (512 ≤ w) && ((tget (w - 512) s.rings).map (·.waiting)).getD false)
    if c.row = r ∧ aged r s c ∧ waits then
      let quiet (v : Ring) : Ring := { v with waiting := false }
      ageCopy r { s with drill.rowWire := tdel w s.drill.rowWire
                         rings := if 512 ≤ w then tmod (w - 512) {} quiet s.rings else s.rings } c
    else s
  | none => s

/-- EGRESS_AGE_LIMIT: every copy of the row that has not started within the limit after its release time goes. -/
def execEgressAgeLimit (row : Nat) (s : State) : Result :=
  let q := tgetD row [] s.drill.rows
  let s1 := { s with drill.rows := tset row (q.filter (fun c => !aged row s c)) s.drill.rows }
  let s2 := (q.filter (aged row s)).foldl (ageCopy row) s1
  let p := rowInst row s
  let acf := rowKind row s = 5
  let pq := tgetD p [] s.drill.ports
  let old (c : Copy) : Bool := c.row == row && c.grain.kind != 15 && aged row s c
  let s3 := if acf then { s2 with drill.ports := tset p (pq.filter (fun c => !old c)) s2.drill.ports } else s2
  let s4 := if acf then (pq.filter old).foldl (ageCopy row) s3 else s3
  .next (ageWire row (512 + rowInst row s) (ageWire row row (sofChoice row s4)))

end Sys2Proof.Machine
end

