-- ==== Sys2Proof/Machine/Plough.lean ====
section
/-! DEFINITION. What every Plough does: input buffers, cells, records ended or dropped, grains issued; the rows TAKE_CELL and
GRAIN_ISSUE (R39, R76 to R85, R113, R114, R225, R229, R230, R524, R529). -/

namespace Sys2Proof.Machine

/-! ### Buffers and cells (R76, R78) -/

/-- Input buffer of a Plough in bytes. -/
def bufferSize : PloughId → Nat
  | .eth _ | .pcie => 32768
  | _ => 4096

/-- Bytes a record holds outside cells. -/
def unwritten (r : Rec) : Nat := r.bytes.length - r.written

def bufferFill (p : PloughId) (s : State) : Nat :=
  let v := ploughOf p s
  ((v.cur.toList ++ v.done).map unwritten).sum

/-! ### Pause received (R292 to R295) -/

def setPause (p tc : Nat) (v : PauseRt) (s : State) : State :=
  setPort p { portRt p s with pause := tset tc v (portRt p s).pause } s

/-- Nanoseconds in a number of pause quanta at the port's speed (R293). -/
def quantaNs (p q : Nat) (s : State) : Nat := q * 64 * byteTime p s / 10

/-- Receive mode: 0 off, 1 legacy, 2 PFC. -/
def pauseMode (p : Nat) (s : State) : Nat := u8 (pauseCfg p s) 1

def immune (p tc : Nat) (s : State) : Bool := u8 (pauseCfg p s) 3 == tc

/-- Priorities a PFC frame names that its port maps to a class. -/
def namedPrios (p tc : Nat) (m : PauseMsg) (s : State) : List Nat :=
  (List.range 8).filter (fun q => m.enables.getLsbD q && pcpTc p q s.bank == tc)

/-- Pause time a frame gives a class, `none` when it does not name it; the longest of several priorities (log 31). -/
def pauseTime (p tc : Nat) (m : PauseMsg) (s : State) : Option Nat :=
  if m.pfc then (match namedPrios p tc m s with
    | [] => none
    | l => some ((l.map (fun q => m.times.getD q 0)).foldl max 0))
  else some (m.times.getD 0 0)

/-- The pause machine of one class for a frame that applies (R294). -/
def pauseClass (p tc q : Nat) (s : State) : State :=
  match (pauseOf p tc s).state with
  | 2 => s
  | st =>
    if q ≠ 0 then setPause p tc { state := 1, until_ := s.power.upNs + quantaNs p q s } s
    else if st = 1 then setPause p tc {} s else s

/-- Classes a frame names that take no notice of it: immune or overridden. -/
def ignores (p tc : Nat) (s : State) : Bool := immune p tc s || (pauseOf p tc s).state == 2

/-- A pause frame of the kind the receive mode selects; under legacy pause the classes that share one watchdog count once. -/
def applyPause (p : Nat) (m : PauseMsg) (s : State) : State :=
  let named := (List.range 8).filterMap (fun tc => (pauseTime p tc m s).map (fun q => (tc, q)))
  let deaf := named.filter (fun e => ignores p e.1 s)
  let n := if m.pfc then deaf.length else b2n (deaf.any (fun e => immune p e.1 s)) + b2n (deaf.any (fun e => !immune p e.1 s))
  let s := if n = 0 then s else countPort p 13 n s
  (named.filter (fun e => !immune p e.1 s)).foldl (fun s e => pauseClass p e.1 e.2 s) s

/-- A pause frame arrives: a good multicast frame of 64 bytes (R303), applied when it is of the kind the receive mode selects. -/
def receivePause (p : Nat) (m : PauseMsg) (s : State) : State :=
  let s := [(0, 64), (1, 1), (3, 1), (38, 1), (if m.pfc then 12 else 11, 1)].foldl (fun s e => countPort p e.1 e.2 s) (updateCredits p s)
  if pauseMode p s = (if m.pfc then 2 else 1) then applyPause p m s else countPort p 13 1 s

/-! ### Pause sent from the fill of the buffer (R296) -/

/-- Bytes held for frames of a priority. -/
def prioFill (p q : Nat) (s : State) : Nat := (((ploughOf (.eth p) s).done.filter (fun r => r.pcp == q)).map unwritten).sum

/-- A pause frame takes the wire, or in internal loopback comes back (R303, R452). -/
def putPause (p : Nat) (pfc : Bool) (set time : Nat) (s : State) : State :=
  let s := [(20, 64), (21, 1), (23, 1), (if pfc then 26 else 25, 1)].foldl (fun s e => countPort p e.1 e.2 s) s
  if looped p s then receivePause p { pfc, enables := BitVec.ofNat 8 set, times := List.replicate (if pfc then 8 else 1) time } s
  else emit (.pauseFrame p pfc (BitVec.ofNat 8 set) time) s

/-- Send a pause frame for a set of priorities: at once on a free wire with no Furrow list, else at the next frame boundary. -/
def sendPause (p : Nat) (pfc : Bool) (set time : Nat) (s : State) : State :=
  if (tget p s.drill.portWire).isNone && (furrowRt p s).oper.isNone then putPause p pfc set time s
  else setPort p { portRt p s with pauseWait := (portRt p s).pauseWait ++ [(pfc, set, time)] } s

/-- Priorities whose fill satisfies a test, as a bitmap. -/
def prioSet (p : Nat) (f : Nat → Bool) (s : State) : Nat := ofBits ((List.range 8).map (fun q => f (prioFill p q s)))

/-- Pause starts at XOFF and ends with time zero below XON. -/
def settlePause (p : Nat) (s : State) : State :=
  let i := pauseCfg p s
  let v := portRt p s
  let xoff := u8 i 5 * 1024
  let xon := u8 i 6 * 1024
  if !portUp p s then s
  else match u8 i 2 with
    | 1 =>
      let n := bufferFill (.eth p) s
      if v.pauseSent = 0 ∧ xoff ≤ n then sendPause p false 255 (u16 i 14) (setPort p { v with pauseSent := 255 } s)
      else if v.pauseSent ≠ 0 ∧ n < xon then sendPause p false 255 0 (setPort p { v with pauseSent := 0 } s)
      else s
    | 2 =>
      let on := prioSet p (fun n => decide (xoff ≤ n)) s &&& u8 i 4 &&& (255 - v.pauseSent)
      let off := prioSet p (fun n => decide (n < xon)) s &&& v.pauseSent
      let s := setPort p { v with pauseSent := (v.pauseSent ||| on) - off } s
      let s := if on = 0 then s else sendPause p true on (u16 i 14) s
      if off = 0 then s else sendPause p true off 0 s
    | _ => s

/-- The fill of a port's buffer may have changed. -/
def refill (p : PloughId) (s : State) : State :=
  match p with
  | .eth q => settlePause q s
  | _ => s

/-! ### Cells of a record -/

/-- Write what a record has received into the cells it has taken. -/
def fillCells (r : Rec) (s : State) : Rec × State :=
  ({ r with written := min r.bytes.length (256 * r.cells.length) },
   (r.cells.zipIdx.drop (r.written / 256)).foldl (fun s e => writeCell e.1 ((r.bytes.drop (256 * e.2)).take 256) s) s)

/-- A record needs a further cell. -/
def needsCell (r : Rec) : Bool := !r.skip && decide (256 * r.cells.length < r.bytes.length)

/-- Append a cell to a record's chain. -/
def linkCell (r : Rec) (c : Nat) (s : State) : Rec × State :=
  let s := match r.cells.getLast? with
    | some l => { s with gran.cells := tmod l {} (fun x => { x with next := some c }) s.gran.cells }
    | none => s
  fillCells { r with cells := r.cells ++ [c] } s

/-! ### Ends of a record (R113) -/

def setCur (p : PloughId) (r : Option Rec) (s : State) : State := setPlough p { ploughOf p s with cur := r } s

/-- The record in progress is dropped and counted under an index of R390. -/
def dropCur (p : PloughId) (r : Rec) (idx : Nat) (s : State) : State :=
  setCur p (remains r) (countRow r.row idx 1 (freeRec r s))

/-- The input buffer is full: the sentence in progress goes (R78). -/
def overrun (p : PloughId) (r : Rec) (s : State) : State := raise 27 r.row (dropCur p r 9 s)

/-- The record in progress is complete: it joins the completed ones with its grain; a row disabled meanwhile drops it (R39). -/
def completeCur (p : PloughId) (r : Rec) (g : Grain) (s : State) : State :=
  let s := setCur p none s
  if r.disabled then countRow r.row 11 1 (freeRec r s) else finishRec p { r with grain := some g } s

/-! ### TAKE_CELL (R229, R230) -/

/-- A refused record is dropped at once: counted against the port it came from (index 16), and against its row unless it is a frame;
a frame the host submitted has neither (log 30). -/
def refuseRec (p : PloughId) (r : Rec) (s : State) : State :=
  let s := freeRec r s
  let s := match p with
    | .eth q => countPort q 16 1 s
    | _ => s
  if (r.grain.map (·.kind)) = some 15 then s else countRow r.row 10 1 s

/-- Take a cell for a completed record at a place of the queue. -/
def takeForDone (p : PloughId) (i : Nat) (r : Rec) (s : State) : State :=
  match takeCell r.cls s with
  | .wait => s
  | .refuse => refuseRec p r (setPlough p { ploughOf p s with done := (ploughOf p s).done.eraseIdx i } s)
  | .got c s' =>
    let x := linkCell { r with inFifo := r.inFifo || writeStalled p s } c (enterFifo p s')
    setPlough p { ploughOf p x.2 with done := (ploughOf p x.2).done.set i x.1 } x.2

/-- Take a cell for the record in progress. -/
def takeForCur (p : PloughId) (r : Rec) (s : State) : State :=
  match takeCell r.cls s with
  | .wait => s
  | .refuse => dropCur p r 10 s
  | .got c s' =>
    let x := linkCell { r with inFifo := r.inFifo || writeStalled p s } c (enterFifo p s')
    setCur p (some x.1) x.2

/-- Bytes of a Plough can go on to cells: its write port has room, and so has its crossing; else it holds them in its input buffer
(R17, R78). -/
def cellsOpen (p : PloughId) (s : State) : Bool :=
  !s.harrow.inReset && !s.power.halted && writeRoom p s && decide ((ploughOf p s).crossing.length < 16)

/-- The first record of a Plough, in order of ending, whose bytes wait for a cell. -/
def cellRec (v : Plough) : Option Rec := (v.done ++ v.cur.toList).find? needsCell

/-- A Beacon record of another Plough waits for a cell it can have: it is served first (R25). -/
def beaconCell (p : PloughId) (s : State) : Bool :=
  (match takeCell 0 s with
    | .got _ _ => true
    | _ => false) &&
  s.ploughs.any (fun e => e.1 != ploughKey p && ((cellRec e.2).map (·.cls)) == some 0 && decide (e.2.crossing.length < 16) &&
    (!s.harrow.stalled.contains (.granary (islandOf e.1)) || decide (tgetD (islandOf e.1) 0 s.harrow.portFifo < 8)))

/-- TAKE_CELL: the first record, in order of ending, whose bytes wait for a cell; a stalled write port takes 8 cells into its
FIFO, then the Plough waits (R17). -/
def execTakeCell (p : PloughId) (s : State) : Result :=
  let v := ploughOf p s
  if !cellsOpen p s || (((cellRec v).map (·.cls)) != some 0 && beaconCell p s) then .next s
  else match v.done.zipIdx.find? (fun e => needsCell e.1) with
    | some e => .next (refill p (takeForDone p e.2 e.1 s))
    | none => match v.cur with
      | some r => if needsCell r then .next (takeForCur p r s) else .next s
      | none => .next s

/-! ### GRAIN_ISSUE (R79, R80, R114) -/

/-- Talker-row verify at the Plough input (R524, R529): the Tally flag, or a drop at the Harrow. -/
def talkerVerify (r : Rec) (g : Grain) (s : State) : Grain × State :=
  if g.void || g.kind == 15 then (g, s)
  else
    let v := rowVerify g.row g.kind r.skipTally r.framing r.bytes s
    (if v.1 = 0 then { g with tallyDrop := true } else if v.1 = 1 then { g with tally := true } else g, v.2)

/-- Counters of an issued sentence (R390); a Sheaf-carried grain counts at its local arrival (R107). -/
def countIssue (g : Grain) (arrival : Nat) (s : State) : State :=
  if g.kind = 15 then s
  else
    let s := setRowRt g.row { rowRt g.row s with lastRx := if g.remote then arrival else g.stamp } s
    if g.void then s else countRow g.row 1 g.len (countRow g.row 0 1 s)

/-- The grain enters the crossing, holding one reference to its cells. -/
def issue (p : PloughId) (r : Rec) (g : Grain) (s : State) : State :=
  let first := r.cells.headD 0
  let s := match r.cells with
    | [] => s
    | c :: _ => { s with gran.cells := tmod c {} (fun x => { x with copies := 1 }) s.gran.cells }
  let x := talkerVerify r { g with cell := if g.void then 0 else first } s
  let s := countIssue x.1 r.stamp x.2
  setPlough p { ploughOf p s with crossing := (ploughOf p s).crossing ++ [x.1] } s

/-- GRAIN_ISSUE: the oldest completed record, once all of it has reached its cells and the crossing has room; a control message
goes to the Steward instead, with no grain (R106). -/
def execGrainIssue (p : PloughId) (s : State) : Result :=
  let v := ploughOf p s
  match v.done with
  | [] => .next s
  | r :: rest =>
    if s.harrow.inReset || s.power.halted || decide (16 ≤ v.crossing.length) || s.harrow.stalled.contains (.plough (ploughKey p)) then .next s
    else match r.grain with
      | none => .next (freeRec r (setPlough p { v with done := rest } s))
      | some g =>
        if r.inFifo || (!g.void && decide (r.written < r.bytes.length)) then .next s
        else if r.control then
          .next { setPlough p { v with done := rest } s with stw.inbox := s.stw.inbox ++ [(r.bytes, r.cells.headD 0)] }
        else .next (issue p r g (setPlough p { v with done := rest } s))

/-! ### Records of whole frames (CAN, LIN, MVB, Steward, host) -/

/-- Stamp less the row's compensation (R82), wrapping modulo 2⁶⁴ ns (R84). -/
def compensated (r stamp : Nat) (s : State) : Nat := (((stamp : Int) - sle (bindOf r s) 24 4) % 18446744073709551616).toNat

/-- Ingress class of a row (R77). -/
def ingressClass (r : Nat) (s : State) : Nat := fld (bindOf r s) 12 0 2

/-- A sentence whose first edge came at an instant was in reception on a row when the row was disabled (R39). -/
def spansDisable (r edge : Nat) (s : State) : Bool :=
  match (rowRt r s).disabledAt with
  | some t => decide (onClock edge s ≤ t)
  | none => false

/-- A sentence of a controller's talker row that was disabled during its reception is dropped at its end and counted. -/
def dropDisabled (kind k stamp : Nat) (s : State) : State :=
  match (rowsOf s.bank kind k).find? (fun r => isTalker (bindOf r s) && !s.bank.enabled.contains r && spansDisable r stamp s) with
  | some r => countRow r 11 1 s
  | none => s

/-- A sentence received whole on a row, its first edge at the ball at `edge`: it enters the buffer as a completed record, or overruns
it. -/
def receiveWhole (p : PloughId) (r kind key edge : Nat) (d : Bytes) (f : Grain → Grain) (s : State) : State :=
  let cls := ingressClass r s
  let stamp := compensated r edge s
  let g : Grain := { key, stamp, row := r, len := d.length, kind, ingress := cls, cls, notLocked := notLockedAt edge s }
  if s.power.halted then s
  else if spansDisable r edge s then countRow r 11 1 s
  else if bufferSize p < bufferFill p s + d.length then raise 27 r (countRow r 9 1 s)
  else finishRec p { row := r, bytes := d, stamp, cls, grain := some (f g) } s

/-- A void grain: row, key and stamp, length 0 (R91). -/
def receiveVoid (p : PloughId) (r kind key edge : Nat) (s : State) : State :=
  let cls := ingressClass r s
  let stamp := compensated r edge s
  let g : Grain := { key, stamp, row := r, len := 0, kind, ingress := cls, cls, void := true, notLocked := notLockedAt edge s }
  if s.power.halted then s
  else if spansDisable r edge s then countRow r 11 1 s
  else finishRec p { row := r, stamp, cls, grain := some g } s

end Sys2Proof.Machine
end

