-- ==== Sys2Proof/Machine/EthPlough.lean ====
section
/-! DEFINITION. Frames received on a port: MAC checks and counters, flawed frames, MACsec verification, receive filters, and
the Sheaf, ACF and frame paths of the Ethernet Plough (R37, R105 to R110, R212, R213, R281 to R291, R513, R514). -/

namespace Sys2Proof.Machine

/-! ### MAC stage (R281, R290, R303) -/

/-- Size counter of a length on the wire. -/
def sizeCounter (n : Nat) : Option Nat :=
  if n ≤ 64 then some 38 else if n ≤ 127 then some 39 else if n ≤ 255 then some 40 else if n ≤ 511 then some 41
  else if n ≤ 1023 then some 42 else if n ≤ 1522 then some 43 else if n ≤ 9054 then some 44 else none

/-- The counter of a flawed frame's kind, `none` for a good frame. -/
def flawCounter (p : Nat) (f : RxFrame) (s : State) : Option Nat :=
  if f.wireLen < 64 then some (if f.fcsErr then 8 else 7)
  else if rxMax p s < f.wireLen then some 9
  else if f.pcsErr then some 10
  else if f.alignErr then some 6
  else if f.fcsErr then some 5
  else none

/-- Frame status byte of a flawed frame (R335). -/
def flawByte (p : Nat) (f : RxFrame) (s : State) : Nat :=
  b2n f.fcsErr + 2 * b2n f.alignErr + 4 * b2n f.pcsErr + 8 * b2n (decide (f.wireLen < 64)) +
  16 * b2n (decide (rxMax p s < f.wireLen)) + 32 * b2n (decide (9022 < f.bytes.length)) + 128

/-- Destination address of a frame. -/
def frameDa (f : Bytes) : Nat := ofBe (sub f 0 6)

/-- Destination class of a good frame: 2 unicast, 3 multicast, 4 broadcast. -/
def rxDestCounter (f : Bytes) : Nat := if frameDa f = 0xFFFFFFFFFFFF then 4 else if u8 f 0 % 2 = 1 then 3 else 2

/-- A record of an Ethernet Plough, dropped when the input buffer is full (R78, R303); `idx` counts a dropped sentence
against its row. -/
def ethRecord (p : Nat) (r : Rec) (s : State) : State :=
  if s.power.halted then s
  else if bufferSize (.eth p) < bufferFill (.eth p) s + r.bytes.length then
    (match r.grain.map (·.kind) with
      | some 15 => countPort p 16 1 s
      | _ => raise 27 r.row (countRow r.row 9 1 (countPort p 16 1 s)))
  else settlePause p (finishRec (.eth p) r s)

/-- Key of a frame grain (R110). -/
def rxFrameKey (p : Nat) (d : Bytes) (s : State) : Nat :=
  frameKey (if frameTagged d then frameVid d else defaultVid p s) (frameDa d)

/-- A frame becomes a record charged to a class (R110, R227). -/
def frameRecord (p cls stamp : Nat) (reserved : Bool) (d : Bytes) (s : State) : State :=
  ethRecord p { row := 0, bytes := d, stamp, cls, pcp := framePcp d p s, grain := some {
      key := rxFrameKey p d s, stamp, row := 0, len := d.length, kind := 15, ingress := cls, cls, port := p, reserved
      notLocked := notLockedAt stamp s } } s

/-! ### Flawed frames (R290, R291) -/

/-- The port's flawed ring, when it exists (R291, R400). -/
def flawedRing (p : Nat) (s : State) : Option Nat :=
  let n := u8 (portCfg p s) 17
  if ((tget n s.rings).map (·.enabled)).getD false then some n else none

/-- Take Bulk cells for bytes until they are all stored; `none` when one is refused, the cells taken being freed (R230, R291). -/
def storeBulk : Nat → Rec → State → Option (Rec × State)
  | 0, r, s => some (r, s)
  | n + 1, r, s =>
    match takeCell 3 s with
    | .got c t => let x := linkCell r c t
                  storeBulk n x.1 x.2
    | _ => none

/-- A flawed frame goes to the flawed ring without passing a Plough: its cells are charged to Bulk, a refusal drops it (R291). -/
def deliverFlaw (p ring : Nat) (f : RxFrame) (s : State) : State :=
  let d := f.bytes.take 9022
  let t := rxStamp p f.stamp s
  match poolGrant 3 s, storeBulk ((d.length + 255) / 256) { row := 0, bytes := d, stamp := t, cls := 3 } s with
  | some res, some (r, u) =>
    let c := r.cells.headD 0
    let g : Grain := { key := rxFrameKey p d s, stamp := t, row := 0, len := d.length, kind := 15, ingress := 3, cls := 3, port := p
                       flaw := flawByte p f s, cell := c, notLocked := notLockedAt t s }
    let u := { u with gran.cells := if d.isEmpty then u.gran.cells else tmod c {} (fun x => { x with copies := 1 }) u.gran.cells }
    enqueueRow (512 + ring) { grain := g, row := 512 + ring, release := nowNs s, due := true, made := nowNs s, reason := 3
                              fromReserve := res } (poolTake 3 res u)
  | _, _ => countPort p 16 1 s

/-- A flawed frame is counted, and delivered when deliver flawed is on and its ring exists. -/
def flawedFrame (p idx : Nat) (f : RxFrame) (s : State) : State :=
  let s := countPort p idx 1 s
  match flawedRing p s with
  | some n => if deliverFlawed p s && !s.power.halted then deliverFlaw p n f s else s
  | none => s

/-! ### MACsec (R282, R283, R513, R514) -/

/-- gPTP frames and MAC control frames use the uncontrolled port. -/
def uncontrolled (d : Bytes) : Bool :=
  (frameDa d == 0x0180C200000E && frameEthertype d == 0x88F7) || (frameDa d == 0x0180C2000001 && frameEthertype d == 0x8808)

/-- The packet number is below the lowest accepted less the window. -/
def replayed (v : KeySlot) (pn : Nat) : Bool := saReplay v.sa && decide (pn + saWindow v.sa < v.nextPn)

/-- Verification: `none` for a frame that is dropped. -/
def verifySec (p : Nat) (f : RxFrame) (s : State) : Bool × State :=
  if s.fixed.variantE || !s.keys.protRx.contains p || uncontrolled f.bytes then (true, s)
  else match f.sec.bind (fun t => (rxSlot p t.sci t.an s).map (fun n => (t, n))) with
    | none => (false, countPort p 17 1 s)
    | some (t, n) =>
      let v := slotOf n s
      if !t.icvOk then (false, countPort p 17 1 (putSlot n { v with icvDrops := v.icvDrops + 1 } s))
      else if replayed v t.pn then
        (false, raise 51 n (countPort p 17 1 (putSlot n { v with replayDrops := v.replayDrops + 1 } s)))
      else (true, putSlot n { v with nextPn := max v.nextPn (t.pn + 1), frames := v.frames + 1, used := true } s)

/-! ### Receive filters (R284 to R288) -/

/-- What the filters decide. -/
inductive Filter | hostOnly | local_ | switch | drop
deriving DecidableEq, Repr

/-- The frame's address equals an exact entry. -/
def exactHit (p da : Nat) (s : State) : Bool :=
  da == stationAddr s.bank || ((s.field.join == 1 || s.field.join == 2) && da == groupAddr s.field.id) ||
  (List.range 30).any (fun i => tget (32 * p + 2 + i) s.ports.exact == some da)

/-- Bytes a pattern filter's mask selects. -/
def maskBytes (i : Img) : List Nat := (List.range 128).filter (fun n => mapBit i 16 n)

/-- A pattern filter matches a frame (R285). -/
def patternHit (i : Img) (d : Bytes) : Bool :=
  let m := maskBytes i
  !m.isEmpty && m.all (fun n => decide (n < d.length)) && crc32 (m.map (fun n => d.getD n 0)) == u32 i 32

def patternAction (i : Img) : Nat := fld i 36 0 2
def patternWakes (i : Img) : Bool := flag i 36 7

/-- The action of the first pattern filter that matches; wake-only filters never match in Growing. -/
def patternOf (p : Nat) (d : Bytes) (s : State) : Option Nat :=
  ((List.range 64).filterMap (fun n => tget (64 * p + n) s.ports.patterns)).findSome? (fun i =>
    if patternAction i ≠ 3 && patternHit i d then some (patternAction i) else none)

/-- Hash bin of an address (R286). -/
def hashBin (d : Bytes) : Nat := crc32 (sub d 0 6) / 8388608

def rxFilter (p : Nat) (d : Bytes) (s : State) : Filter :=
  let da := frameDa d
  if da / 16 = 0x0180C200000 then .hostOnly
  else if exactHit p da s then .local_
  else match patternOf p d s with
    | some 0 => .local_
    | some 1 => .switch
    | some _ => .drop
    | none =>
      if da = 0xFFFFFFFFFFFF && broadcastAccept p s then .local_
      else if u8 d 0 % 2 = 1 && (hashOf p s).getLsbD (hashBin d) then .local_
      else if unmatchedDrop p s then .drop else .switch

/-! ### Sheaf path (R37, R106, R107, R210 to R213) -/

/-- Entries of a data Sheaf: each grain's 32-byte header with its payload; `none` when lengths are inconsistent. What
follows the last entry may only be the padding of a minimum frame. -/
def sheafGrains (short : Bool) : Nat → Bytes → Option (List (Bytes × Bytes))
  | 0, b => if b.isEmpty || short then some [] else none
  | n + 1, b =>
    let len := ofBe (sub b 28 2) % 4096
    let all := 32 + (len + 3) / 4 * 4
    if len = 0 ∨ 2080 < len ∨ b.length < all then none
    else (sheafGrains short n (b.drop all)).map (fun t => (b.take 32, (b.drop 32).take len) :: t)

/-- A Sheaf is dropped and counted. -/
def dropSheaf (s : State) : State := { s with field.sheafDrops := s.field.sheafDrops + 1 }

/-- A carried grain without a remote talker row is dropped and counted (R37). -/
def dropOrigin (s : State) : State := { s with harrow.unknownOrigin := s.harrow.unknownOrigin + 1 }

/-- Remote talker rows bound to a device. -/
def remoteRows (dev : Nat) (s : State) : List Nat :=
  (s.bank.bind.filter (fun e => u8 e.2 0 == 8 && u8 e.2 2 == dev)).map (·.1)

/-- The remote talker row of a device's row (R37): the one bound to it, else the one bound to any row. -/
def remoteRow (dev r : Nat) (s : State) : Option Nat :=
  let rows := remoteRows dev s
  match rows.find? (fun x => !flag (bindOf x s) 5 7 && fld (bindOf x s) 4 0 9 == r) with
  | some x => some x
  | none => rows.find? (fun x => flag (bindOf x s) 5 7)

/-- Count against every remote talker row of a device (index 31 of R390). -/
def countOrigin (dev : Nat) (s : State) : State := (remoteRows dev s).foldl (fun s r => countRow r 31 1 s) s

/-- One carried grain becomes a record of its remote talker row. DESIGN CHOICE (log 120): a framing kind R114 reserves is kept as
carried. -/
def carriedGrain (p stamp pcp : Nat) (unsync : Bool) (s : State) (e : Bytes × Bytes) : State :=
  let h := e.1
  let o := ofBe (sub h 0 2)
  let dev := o / 512 % 64
  match remoteRow dev (o % 512) s with
  | none => raise 31 dev (dropOrigin s)
  | some r =>
    if spansDisable r stamp s then countRow r 11 1 s
    else if !s.bank.enabled.contains r then s
    else
      let cls := fld h 2 0 2
      ethRecord p { row := r, bytes := e.2, stamp, cls, pcp, framing := framingOf r s, grain := some {
          key := ofBe (sub h 4 8), stamp := ofBe (sub h 12 8), row := r, origin := dev, remote := true, len := e.2.length
          kind := fld h 2 2 4, ingress := cls, cls, release := releaseField (ofBe (sub h 20 8)), originRow := o % 512, port := p, unsync
          csAbsent := flag h 3 0, csBad := flag h 3 1, notLocked := flag h 3 2, tagPresent := flag h 3 3, tagBad := flag h 3 4
          carried := flag h 3 5, keyShort := flag h 3 6, bareLf := flag h 3 7 } } s

/-- Fields of a Sheaf header. -/
structure SheafHead where
  control : Bool
  unsync : Bool
  series : Nat
  src : Nat
  count : Nat
  seq : Nat
  session : Nat

def sheafHead (b : Bytes) : SheafHead :=
  { control := flag b 1 0, unsync := flag b 1 2, series := 4 * u8 b 5 + fld b 1 3 2, src := u8 b 4, count := ofBe (sub b 6 2),
    seq := ofBe (sub b 8 4), session := ofBe (sub b 12 2) }

/-- What a Sheaf holds, when its lengths agree: one control message, or grains. -/
def sheafContent (h : SheafHead) (short : Bool) (b : Bytes) : Option (Bytes × List (Bytes × Bytes)) :=
  if b.length < 16 then none
  else if h.control then
    let len := ofBe (sub b 18 2)
    let rest := b.length - 20
    if h.count = 1 ∧ 20 ≤ b.length ∧ len ≤ rest ∧ (rest = len ∨ short = true) then some ((b.drop 16).take (4 + len), []) else none
  else if h.count = 0 ∨ 255 < h.count then none
  else (sheafGrains short h.count (b.drop 16)).map (fun l => ([], l))

/-- Session test (R106): stale, or the receive state to go on with. -/
def sessionState (h : SheafHead) (s : State) : Option RxSeries :=
  match tget h.src s.field.rx with
  | none => some { session := h.session }
  | some v =>
    let d := (h.session + 65536 - v.session) % 65536
    if d = 0 then some v else if d ≤ 32768 then some { session := h.session } else none

/-- Sequence test: duplicate, next or first, or a gap. -/
inductive SeqTest | duplicate | good | gap
deriving DecidableEq, Repr

def seqTest (v : RxSeries) (h : SheafHead) : SeqTest :=
  match tget h.series v.last with
  | none => .good
  | some l =>
    if (l + 4294967296 - h.seq) % 4294967296 ≤ 2147483648 then .duplicate
    else if h.seq = (l + 1) % 4294967296 then .good else .gap

/-- A control message is a record charged to Steer, bound for the Steward (R106, R227). DESIGN CHOICE (log 133): it has no row, so a full
buffer drops its Sheaf, counted as such and against the port, without event 27. -/
def controlRecord (p stamp pcp : Nat) (d : Bytes) (s : State) : State :=
  if s.power.halted then s
  else if bufferSize (.eth p) < bufferFill (.eth p) s + d.length then dropSheaf (countPort p 16 1 s)
  else settlePause p (finishRec (.eth p) { row := 0, bytes := d, stamp, cls := 1, pcp, control := true, grain := some {
      key := 0, stamp, row := 0, len := d.length, kind := 0, ingress := 1, cls := 1, port := p } } s)

/-- An accepted Sheaf: a control message goes to the Steward, grains to the Plough. -/
def acceptSheaf (p stamp pcp : Nat) (h : SheafHead) (x : Bytes × List (Bytes × Bytes)) (s : State) : State :=
  if h.control then
    if 1 ≤ u8 x.1 0 ∧ u8 x.1 0 ≤ 7 then controlRecord p stamp pcp x.1 s
    else raise 31 h.src (dropSheaf s)
  else x.2.foldl (carriedGrain p stamp pcp h.unsync) s

/-- The Sheaf path; `b` is the Sheaf from its header on. -/
def sheafPath (p stamp pcp : Nat) (short : Bool) (b : Bytes) (s : State) : State :=
  let h := sheafHead b
  if s.field.join = 0 ∨ s.field.join = 3 then dropSheaf s
  else if ofBe (sub b 2 2) ≠ s.field.id then raise 31 h.src (dropSheaf s)
  else if u8 b 0 ≠ 1 then raise 31 h.src (dropSheaf s)
  else match sheafContent h short b with
    | none => raise 31 h.src (dropSheaf s)
    | some x => match sessionState h s with
      | none => dropSheaf s
      | some v =>
        match seqTest v h with
        | .duplicate => countOrigin h.src (dropSheaf { s with field.rx := tset h.src v s.field.rx })
        | t =>
          let s := { s with field.rx := tset h.src { v with last := tset h.series h.seq v.last } s.field.rx }
          let s := if t = .gap then
              raise 31 h.src (countOrigin h.src { s with field.sheafGaps := s.field.sheafGaps + 1 })
            else s
          acceptSheaf p stamp pcp h x s

/-! ### ACF path (R108, R109) -/

/-- The ACF talker row of a port for a stream. -/
def acfRow (p stream : Nat) (s : State) : Option Nat :=
  (s.bank.bind.find? (fun e => u8 e.2 0 == 5 && isTalker e.2 && u8 e.2 2 == p && u64 e.2 4 == stream)).map (·.1)

/-- One ACF message; a classical remote frame needs the row's option (R96). -/
def acfMessage (p r stamp pcp : Nat) (s : State) (m : AcfMsg) : State :=
  match m.frame with
  | none => setRowRt r { rowRt r s with acfSkipped := (rowRt r s).acfSkipped + 1 } s
  | some f =>
    if f.rtr && !f.fdf && !flag (bindOf r s) 12 3 then countRow r 8 1 s
    else
      let carried := flag (bindOf r s) 12 2 && m.stamp.isSome
      let t := if carried then m.stamp.getD stamp else stamp
      let cls := ingressClass r s
      let d := canRecord f
      ethRecord p { row := r, bytes := d, stamp, cls, pcp, framing := framingOf r s, grain := some {
          key := canKey f, stamp := t, row := r, len := d.length, kind := 6, ingress := cls, cls, carried, port := p
          notLocked := notLockedAt stamp s } } s

/-- The ACF path: a sequence gap is counted, every message taken. -/
def acfPath (p r stamp pcp : Nat) (a : AcfBody) (s : State) : State :=
  if spansDisable r stamp s then countRow r 11 (a.msgs.filter (fun m => m.frame.isSome)).length s
  else if !s.bank.enabled.contains r then s
  else
    let v := rowRt r s
    let gap : Bool := match v.acfSeq with
      | some n => a.seq % 256 != (n + 1) % 256
      | none => false
    let s := setRowRt r { v with acfSeq := some (a.seq % 256), acfGaps := v.acfGaps + b2n gap } s
    a.msgs.foldl (acfMessage p r stamp pcp) s

/-! ### ETHERNET_FRAME_RECEIVED -/

/-- Class a received frame is charged to (R227). -/
def rxFrameClass (p : Nat) (d : Bytes) (s : State) : Nat := if frameTellPcp p s ≤ framePcp d p s then 2 else 3

/-- The frame is addressed to the device itself: its station address or its Field group address (R209). -/
def toSelf (d : Bytes) (s : State) : Bool :=
  frameDa d == stationAddr s.bank || ((s.field.join == 1 || s.field.join == 2) && frameDa d == groupAddr s.field.id)

/-- Plough recognition (R105) of a frame that passed the filters; a Sheaf to another address is a frame (R209). -/
def recognise (p : Nat) (f : RxFrame) (r : Filter) (s : State) : State :=
  let d := f.bytes
  let pcp := framePcp d p s
  let t := rxStamp p f.stamp s
  let plain := frameRecord p (rxFrameClass p d s) t (r == .hostOnly) d s
  if r != .local_ then plain
  else if frameEthertype d = sheafType s.bank then
    (if toSelf d s then sheafPath p t pcp (decide (d.length ≤ 60)) (d.drop (frameBody d)) s else plain)
  else match f.acf with
    | none => plain
    | some a => match acfRow p a.stream s with
      | some row => acfPath p row t pcp a s
      | none => plain

/-- A good frame behind the MAC: MAC control and gPTP frames are taken out, then verification, filters and the Plough. -/
def goodFrame (p : Nat) (f : RxFrame) (s : State) : State :=
  let d := f.bytes
  let s := countPort p (rxDestCounter d) 1 (countPort p 1 1 (countPort p 0 f.wireLen s))
  if uncontrolled d then s
  else
    let v := verifySec p f s
    if !v.1 then v.2
    else match rxFilter p d v.2 with
      | .drop => countPort p 14 1 v.2
      | r => if f.parityErr then raiseD 37 3 p { v.2 with harrow.codeFaults := v.2.harrow.codeFaults + 1 } else recognise p f r v.2

/-- A frame as the port receives it. -/
def rxFrame (p : Nat) (f : RxFrame) (s : State) : State :=
  if f.reassemblyErr then countPort p 18 1 s
  else if f.smdErr then countPort p 19 1 s
  else
    let s := match sizeCounter f.wireLen with
      | some i => countPort p i 1 s
      | none => s
    match flawCounter p f s with
    | some i => flawedFrame p i f s
    | none => goodFrame p f s

/-- ETHERNET_FRAME_RECEIVED: an Up port takes it; in internal loopback only the port's own frames arrive (R452). -/
def execEthernetFrameReceived (p : Nat) (f : RxFrame) (s : State) : Result :=
  if s.power.state != .growing || !portUp p s || looped p s then .next s else .next (rxFrame p f s)

end Sys2Proof.Machine
end

