-- ==== Sys2Proof/Machine/BusPlough.lean ====
section
/-! DEFINITION. CAN controllers, LIN controllers and MVB interfaces at work: frames received and sent, errors, bus-off, the
schedule, the port buffers (R94 to R100, R248 to R259, R266 to R272, R601). -/

namespace Sys2Proof.Machine

/-! ### CAN error counters (R252; ISO 11898-1, log 28) -/

/-- Fields a frame of its format does not have read as zero in its record (R94). -/
def canNorm (f : CanFrame) : CanFrame :=
  if f.xlf then { f with ide := false, rtr := false, id := f.id % 2048, dlc := 0 }
  else { f with sec := false, sdt := 0, vcid := 0, af := 0, id := if f.ide then f.id % 2 ^ 29 else f.id % 2048 }

/-- The controller takes part on the bus: started, integrated, not in bus-off. -/
def canOn (k : Nat) (s : State) : Bool :=
  s.power.state == .growing && (canRt k s).integrated && decide ((canRt k s).state ≤ 2)

/-- Error state after a change of a counter. -/
def canSettle (k : Nat) (s : State) : State := canState k (canErrorState (canRt k s).tec (canRt k s).rxErr) s

/-- REC after a frame received without error: one less, or above 127 a free value from 119 to 127. -/
def recOk (k : Nat) (s : State) : State :=
  let v := canRt k s
  canSettle k (if v.rxErr = 0 then s
    else if v.rxErr ≤ 127 then setCan k { v with rxErr := v.rxErr - 1 } s
    else setCan k { v with rxErr := 119 + pick s % 9 } (picked s))

/-- REC after an error in a frame received: one more or eight more, as ISO 11898-1 has it, which no row tells apart; above 127 it stays
(log 28). -/
def recError (k : Nat) (s : State) : State :=
  let v := canRt k s
  canSettle k (if 127 < v.rxErr then s else setCan k { v with rxErr := v.rxErr + (if pick s % 2 = 0 then 1 else 8) } (picked s))

/-- Counter of R274 for an error kind. -/
def canErrIndex : CanError → Nat
  | .bit => 2 | .stuff => 3 | .form => 4 | .crc => 5 | .ack => 6

/-! ### Receiving (R249, R255, R96) -/

/-- The row and copy in a controller's transmit buffer. -/
def canWireRow (k : Nat) (s : State) : Option (Nat × Copy) := ctlWire 0 k s

/-- The controller goes on, or stops when its last row went while the frame just ended was on the bus (R259). -/
def afterFrame (k : Nat) (s : State) : State := settleCtl 0 k s

/-- The mode receives a frame of this format. -/
def canTakes (k : Nat) (f : CanFrame) (s : State) : Bool :=
  match canMode k s.bank with
  | 0 => !f.fdf && !f.xlf
  | 1 => !f.xlf
  | _ => true

/-- An error-free frame becomes a sentence of the talker row. -/
def canSentence (k : Nat) (f : CanFrame) (s : State) : State :=
  let f := canNorm f
  match ctlRow 0 k true s with
  | none => dropDisabled 0 k f.stamp s
  | some r =>
    if f.rtr && !f.fdf && !f.xlf && !flag (bindOf r s) 12 3 then countRow r 8 1 s
    else receiveWhole (.can k) r (if f.xlf then 2 else 1) (canKey f) f.stamp (canRecord f) id s

/-- CAN_FRAME_ACCEPTED. In internal loopback the receiver takes the part's own frames alone (R452). -/
def execCanFrameAccepted (k : Nat) (f : CanFrame) (s : State) : Result :=
  if !canTakes k f s || loopMode 1 k s == 1 then .next s
  else if !canOn k s then .next (dropDisabled 0 k f.stamp s)
  else .next (canSentence k f (recOk k (countCan k 0 s)))

/-- CAN_FRAME_ERROR: an error in a frame of another node. -/
def execCanFrameError (k : Nat) (e : CanError) (s : State) : Result :=
  if !canOn k s then .next s else .next (busError 0 k (recError k (countCan k (canErrIndex e) s)))

/-- PROTOCOL_EXCEPTION: counted while integrated and not in bus-off, in a mode that ignores some frame (R249). -/
def execProtocolException (k : Nat) (s : State) : Result :=
  if !canOn k s || canMode k s.bank == 2 then .next s else .next (countCan k 7 s)

/-- INTEGRATION: 11 recessive bits after a start (R248). -/
def execIntegration (k : Nat) (s : State) : Result :=
  if (canRt k s).state = 5 then .next s else .next (setCan k { canRt k s with integrated := true } s)

/-! ### Transmitting (R253, R254, R256 to R259) -/

def unwire (r : Nat) (s : State) : State := { s with drill.rowWire := tdel r s.drill.rowWire }

/-- The copy waits for its next try, not started or, after an error, started; it goes when its row was disabled (R258, R259). -/
def keepOrDrop (k r : Nat) (c : Copy) (started : Bool) (s : State) : State :=
  if s.bank.enabled.contains r then setCan k { canRt k s with onBus := started, retry := started } (putWire r c s)
  else discardCopy 22 c (unwire r (setCan k { canRt k s with onBus := false, retry := false } s))

/-- ARBITRATION_LOST. -/
def execArbitrationLost (k : Nat) (s : State) : Result :=
  match canWireRow k s with
  | some (r, c) => .next (afterFrame k (keepOrDrop k r c false (countCan k 8 s)))
  | none => .next s

/-- The controller enters bus-off: the copy in its buffer goes, the state follows the recovery mode (R253, R254). -/
def enterBusOff (k : Nat) (s : State) : State :=
  let s := countCan k 10 s
  let s := match canWireRow k s with
    | some (r, c) => discardCopy 29 c (countCan k 11 (unwire r s))
    | none => s
  let i := canCfg k s.bank
  let v := canRt k s
  let recent := (s.power.upNs :: v.busOffs).filter (fun t => decide (s.power.upNs < t + 60000000000))
  let passed := u8 i 22 != 0 && decide (u8 i 22 < recent.length)
  let manual := flag i 18 0 || v.forcedManual || passed
  let s := setCan k { v with busOffs := recent, forcedManual := v.forcedManual || passed, onBus := false, retry := false } s
  let s := if passed then raise 23 (ctlObj 0 k) s else s
  canState k (if !manual && u16 i 20 == 0 then 3 else 4) s

/-- A failed try: retried up to the limit, else discarded and counted (R258). -/
def canRetry (k r : Nat) (c : Copy) (s : State) : State :=
  let lim := u8 (canCfg k s.bank) 19
  if !s.bank.enabled.contains r then keepOrDrop k r c true s
  else if lim ≠ 255 ∧ lim ≤ c.tries then
    busError 0 k (countCan k 9 (setCan k { canRt k s with onBus := false, retry := false } (endCopy c (unwire r s))))
  else keepOrDrop k r { c with tries := c.tries + 1 } true s

/-- TEC after an error in the controller's own frame: 8 more, but none for a missing acknowledge when error passive. -/
def tecError (k : Nat) (e : CanError) (s : State) : State :=
  let v := canRt k s
  if e = .ack ∧ v.state = 2 then s else setCan k { v with tec := v.tec + 8 } s

/-- CAN_TRANSMIT_ERROR. -/
def execCanTransmitError (k : Nat) (e : CanError) (s : State) : Result :=
  match canWireRow k s with
  | none => .next s
  | some (r, c) =>
    if !canOn k s then .next s
    else
      let s := tecError k e (busError 0 k (countCan k (canErrIndex e) s))
      .next (afterFrame k (if 255 < (canRt k s).tec then enterBusOff k s else canRetry k r c (canSettle k s)))

/-- Start of frame of a copy that has been sent: in internal loopback the instant it was handed to the controller; on a shared
bus arbitration follows, and a free value says how much later it began (R81, R187, log 29). -/
def canSof (k : Nat) (c : Copy) (s : State) : Nat :=
  let t := c.waitFrom.getD (nowNs s)
  if loopMode 1 k s = 1 then t else t + pick s % (nowNs s - t + 1)

/-- The frame a copy stands for: ESI from the controller's own error state, in an FD frame (R256). -/
def canOut (k : Nat) (c : Copy) (s : State) : CanFrame :=
  let f := canOfRecord c.out
  { f with esi := f.fdf && !f.xlf && (canRt k s).state == 2, stamp := stampOf (canSof k c s) }

/-- CAN_FRAME_SENT: the copy is complete; loopback takes the frame in as well (R257, R452). -/
def execCanFrameSent (k : Nat) (s : State) : Result :=
  match canWireRow k s with
  | none => .next s
  | some (r, c) =>
    if !canOn k s then .next s
    else
      let f := canOut k c s
      let s := picked s
      let v := canRt k s
      let s := canSettle k (setCan k { v with tec := v.tec - 1, onBus := false, retry := false } s)
      let s := sentCopy r c (unwire r (countCan k 1 s))
      let s := if loopMode 1 k s = 1 then s else emit (.canSend k f) s
      let s := if loopMode 1 k s = 0 then s else canSentence k f (countCan k 0 s)
      .next (if forwards s then releaseRow r .clean (afterFrame k s) else afterFrame k s)

/-- RECOVERY_DELAY: automatic recovery starts. -/
def execRecoveryDelay (k : Nat) (s : State) : Result :=
  if (canRt k s).state = 4 ∧ !(flag (canCfg k s.bank) 18 0 || (canRt k s).forcedManual) then .next (canState k 3 s) else .next s

/-- BUS_OFF_RECOVERY: 128 occurrences of 11 recessive bits. -/
def execBusOffRecovery (k : Nat) (s : State) : Result :=
  if (canRt k s).state = 3 then .next (canState k 0 (setCan k { canRt k s with tec := 0, rxErr := 0, integrated := true } s))
  else .next s

/-! ### LIN (R97, R98, R266 to R269) -/

/-- A LIN controller runs while one of its rows is Enabled. -/
def linOn (k : Nat) (s : State) : Bool := s.power.state == .growing && ctlEnabled s.bank 2 k

/-- The schedule table running now. -/
def linTable (k : Nat) (s : State) : Bytes := (linRt k s).running.getD ((linCfg k s.bank).drop 48)

/-- Send the header of the present slot and go to the next; a replaced table starts when the cycle ends (R266, R267). -/
def sendSlot (k : Nat) (s : State) : State :=
  let t := linTable k s
  let v := linRt k s
  if t.isEmpty then setLin k { v with slotWaiting := v.slotWaiting - 1, running := none, slot := 0 } s
  else
    let last := decide (t.length ≤ 2 * (v.slot + 1))
    let s := setLin k { v with slotWaiting := v.slotWaiting - 1, busy := true, slot := if last then 0 else v.slot + 1,
                               running := if last then none else v.running } s
    emit (.linHeader k (u8 t (2 * v.slot))) (countLin k 1 s)

/-- A frame on the bus has ended: the first slot that waited for it starts. -/
def linIdle (k : Nat) (s : State) : State :=
  let s := setLin k { linRt k s with busy := false } s
  if 0 < (linRt k s).slotWaiting then sendSlot k s else s

def linSeen (k : Nat) (s : State) : State := setLin k { linRt k s with lastTraffic := some (s.power.upNs) } s

/-- Payload of a LIN sentence; IDs 60 and 61 always use the classic model. -/
def linRecord (f : LinFrame) : Bytes :=
  let id := f.id % 64
  [byte id, byte (b2n (f.enhanced && id != 60 && id != 61)), byte f.data.length, 0] ++ f.data

def linKey (id : Nat) : Nat := 5 * 2 ^ 60 + id % 64

/-- LIN_FRAME. -/
def execLinFrame (k : Nat) (f : LinFrame) (s : State) : Result :=
  if !linOn k s then .next (dropDisabled 2 k f.stamp s)
  else
    let s := linIdle k (linSeen k (countLin k 0 s))
    if !f.parityOk then .next (countLin k 4 s)
    else
      let s := if f.checksumOk then s else countLin k 6 s
      match ctlRow 2 k true s with
      | none => .next (dropDisabled 2 k f.stamp s)
      | some r =>
        if f.checksumOk then .next (receiveWhole (.lin k) r 3 (linKey f.id) f.stamp (linRecord f) id s)
        else .next (receiveVoid (.lin k) r 3 (linKey f.id) f.stamp (raise 24 r (countRow r 6 1 s)))

/-- LIN_HEADER: a responder answers a published ID with its buffer; under "once" the buffer is then empty (R268). -/
def execLinHeader (k id : Nat) (parityOk : Bool) (s : State) : Result :=
  if !linOn k s then .next s
  else
    let s := linSeen k s
    if !parityOk then .next (countLin k 4 s)
    else if !linResponder k s.bank || !linPublishes k id s.bank then .next s
    else match tget id (linRt k s).buffers with
      | some (true, d) =>
        let v := linRt k s
        let once := flag (linCfg k s.bank) 1 1
        let s := setLin k { v with buffers := if once then tset id (false, d) v.buffers else v.buffers } s
        .next (emit (.linResponse k id (linReply d)) (countLin k 2 s))
      | _ => .next s

/-- LIN_RESPONSE_TIMEOUT. -/
def execLinResponseTimeout (k : Nat) (s : State) : Result :=
  if !linOn k s then .next s
  else
    let s := linIdle k (countLin k 5 s)
    match ctlRow 2 k true s with
    | some r => .next (countRow r 7 1 s)
    | none => .next s

/-- LIN_BIT_ERROR: the frame stops; its copy is not retried (R269). -/
def execLinBitError (k : Nat) (s : State) : Result :=
  if !linOn k s then .next s
  else
    let s := busError 2 k (countLin k 3 s)
    match ctlWire 2 k s with
    | some (r, c) => .next (linIdle k (endCopy c (unwire r s)))
    | none => .next (linIdle k s)

/-- SCHEDULE_SLOT: the header goes out, or waits for the end of a copy's frame and of the headers that waited before it (R267). -/
def execScheduleSlot (k : Nat) (s : State) : Result :=
  if !linOn k s || linResponder k s.bank then .next s
  else if (ctlWire 2 k s).isSome || decide (0 < (linRt k s).slotWaiting) then
    .next (setLin k { linRt k s with slotWaiting := (linRt k s).slotWaiting + 1 } s)
  else .next (sendSlot k s)

/-! ### MVB (R99, R100, R270 to R272) -/

def mvbOn (k : Nat) (s : State) : Bool := s.power.state == .growing && ctlEnabled s.bank 3 k

/-- A line that carries a valid frame is not faulty. -/
def lineSeen (k : Nat) (b : Bool) (s : State) : State :=
  let s := countMvb k (b2n b) s
  if b then setMvb k { mvbRt k s with faultB := false } s else setMvb k { mvbRt k s with faultA := false } s

def mvbRecord (f : MvbFrame) : Bytes := be 2 (f.port % 4096) ++ [byte f.fcode, 0] ++ f.data

def mvbKey (port : Nat) : Nat := 6 * 2 ^ 60 + port % 4096

/-- The frame is a sentence: always, or when its data changed (R100). -/
def mvbNew (k : Nat) (e : Bytes) (f : MvbFrame) (s : State) : Bool := !flag e 2 0 || tget f.port (mvbRt k s).lastSink != some f.data

/-- The port has a sink entry: its frames become sentences (R99, R100). -/
def mvbSinks (k port : Nat) (s : State) : Bool := (mvbEntry (mvbCfg k s.bank) port).any (fun e => !entrySource e)

/-- MVB_SLAVE_FRAME: a frame whose check sequence fails is discarded in the device interface (R99); one of a port that is no sink becomes
no record, so none is dropped with a Disabled row (R113). -/
def execMvbSlaveFrame (k : Nat) (f : MvbFrame) (s : State) : Result :=
  if !f.valid then .next (if mvbOn k s then setMvb k { mvbRt k s with badFrames := (mvbRt k s).badFrames + 1 } s else s)
  else if !mvbOn k s then .next (if mvbSinks k f.port s then dropDisabled 3 k f.stamp s else s)
  else
    let s := lineSeen k f.lineB s
    let s := match f.other with
      | some d => let s := lineSeen k (!f.lineB) s
                  if d = f.data then s else countMvb k 2 s
      | none => s
    match mvbEntry (mvbCfg k s.bank) f.port, ctlRow 3 k true s with
    | some e, some r =>
      if entrySource e || !mvbNew k e f s then .next s
      else
        let s := setMvb k { mvbRt k s with lastSink := tset f.port f.data (mvbRt k s).lastSink } s
        .next (receiveWhole (.mvb k) r 4 (mvbKey f.port) f.stamp (mvbRecord f) id s)
    | _, _ => .next (if mvbSinks k f.port s then dropDisabled 3 k f.stamp s else s)

/-- A source port's buffer is older than the freshness limit in force (R272). -/
def mvbStale (k port t : Nat) (s : State) : Bool :=
  let lim := u16 (mvbCfg k s.bank) 6
  lim != 0 && ((mvbRt k s).stale.contains port || decide (t + 1000000 * lim < s.power.upNs))

/-- MVB_MASTER_FRAME: the source port's buffer answers, on both lines; without a fresh one the frame stays unanswered. -/
def execMvbMasterFrame (k port : Nat) (s : State) : Result :=
  if !mvbOn k s then .next s
  else match mvbEntry (mvbCfg k s.bank) port with
    | some e =>
      if !entrySource e then .next s
      else match tget port (mvbRt k s).buffers with
        | some (t, d) => if mvbStale k port t s then .next (countMvb k 4 s) else .next (emit (.mvbAnswer k port d) (countMvb k 3 s))
        | none => .next (countMvb k 4 s)
    | none => .next s

/-- LINE_TIMEOUT: the line is marked faulty, event 23 (R271). -/
def execLineTimeout (k : Nat) (lineB : Bool) (s : State) : Result :=
  let v := mvbRt k s
  if !mvbOn k s || (if lineB then v.faultB else v.faultA) then .next s
  else
    let s := setMvb k (if lineB then { v with faultB := true } else { v with faultA := true }) s
    .next (raise 23 (ctlObj 3 k) (countMvb k 6 s))

/-- FRESHNESS_LIMIT: the buffer of a source port is no longer answered, while a limit is set (R272). -/
def execFreshnessLimit (k port : Nat) (s : State) : Result :=
  let v := mvbRt k s
  if u16 (mvbCfg k s.bank) 6 = 0 ∨ (tget port v.buffers).isNone then .next s
  else .next (setMvb k { v with stale := insertNat port v.stale } s)

end Sys2Proof.Machine
end

