-- ==== Sys2Proof/Machine/UartPlough.lean ====
section
/-! DEFINITION. The UART Plough: characters, IEC 61162-1 and user framing, echo suppression and check; the rows
UART_CHARACTER, GAP_TIMEOUT and IDLE_GAP_END (R83, R86 to R93, R101 to R104, R113, R262, R265). -/

namespace Sys2Proof.Machine

/-! ### Framing settings (R391) -/

def absentPolicy (i : Img) : Nat := fld i 1 0 2
def badDrops (i : Img) : Bool := flag i 1 2
def talkerMask (i : Img) : Bool := flag i 1 3
def bareLfOn (i : Img) : Bool := flag i 1 4
def framingMax (i : Img) : Nat := u16 i 2
def userFraming (i : Img) : Bool := u8 i 0 = 1

/-! ### IEC 61162-1 (R86 to R93) -/

def isHex (b : Byte) : Bool := isDigit b || decide (0x41 ≤ b.toNat ∧ b.toNat ≤ 0x46) || decide (0x61 ≤ b.toNat ∧ b.toNat ≤ 0x66)

/-- 20h to 7Eh. -/
def printable (b : Byte) : Bool := decide (0x20 ≤ b.toNat ∧ b.toNat ≤ 0x7E)

/-- `$`, `!` or `\`. -/
def starter (b : Byte) : Bool := b == 0x24 || b == 0x21 || b == 0x5C

/-- What a character does to a record (R86). -/
inductive IecStep | go (r : Rec) | done (r : Rec) | bad
deriving DecidableEq, Repr

/-- LF in place of CR under the bare-LF option. -/
def bareEnd (r : Rec) (absent : Bool) : IecStep :=
  if bareLfOn r.framing then .done { r with bareLf := true, csAbsent := absent } else .bad

/-- One character in a record, stored before the state is left. -/
def iecStep (r : Rec) (b : Byte) : IecStep :=
  let r := { r with bytes := r.bytes ++ [b] }
  match r.iec with
  | .hunt => .bad
  | .tag =>
    if b = 0x2A then .go { r with iec := .tagEnd 0, digits := [] }
    else if printable b && !starter b then .go { r with tagXor := r.tagXor ^^^ b } else .bad
  | .tagEnd n =>
    if n < 2 then (if isHex b then .go { r with iec := .tagEnd (n + 1), digits := r.digits ++ [hexVal b] } else .bad)
    else if b = 0x5C then
      .go { r with iec := .afterTag, tagBad := r.digits.getD 0 0 * 16 + r.digits.getD 1 0 != r.tagXor.toNat }
    else .bad
  | .afterTag => if b = 0x24 ∨ b = 0x21 then .go { r with iec := .address, xor := 0, addr := [b] } else .bad
  | .address =>
    let some_ := decide (2 ≤ r.addr.length)
    if b = 0x2C then (if some_ then .go { r with iec := .body, xor := r.xor ^^^ b } else .bad)
    else if b = 0x2A then (if some_ then .go { r with iec := .checksum 0, digits := [] } else .bad)
    else if b = 0x0D then (if some_ then .go { r with iec := .end_, csAbsent := true } else .bad)
    else if b = 0x0A then (if some_ then bareEnd r true else .bad)
    else if printable b && !starter b then .go { r with xor := r.xor ^^^ b, addr := r.addr ++ [b] } else .bad
  | .body =>
    if b = 0x2A then .go { r with iec := .checksum 0, digits := [] }
    else if b = 0x0D then .go { r with iec := .end_, csAbsent := true }
    else if b = 0x0A then bareEnd r true
    else if printable b && !starter b then .go { r with xor := r.xor ^^^ b } else .bad
  | .checksum n =>
    if isHex b then .go { r with iec := if n = 0 then .checksum 1 else .checksumCr, digits := r.digits ++ [hexVal b] } else .bad
  | .checksumCr => if b = 0x0D then .go { r with iec := .end_ } else if b = 0x0A then bareEnd r false else .bad
  | .end_ => if b = 0x0A then .done r else .bad

/-- The checksum received does not match. -/
def checksumBad (r : Rec) : Bool := !r.csAbsent && r.digits.getD 0 0 * 16 + r.digits.getD 1 0 != r.xor.toNat

/-- Key of an address field with its leading character (R92, R93). -/
def iecKey (mask : Bool) (a : Bytes) : Nat :=
  let lead := if a.getD 0 0 = 0x24 then 1 else 2
  let chars := (a.drop 1).take 7
  let shown := if mask && chars.getD 0 0 != 0x50 then List.replicate (min 2 chars.length) 0 ++ chars.drop 2 else chars
  lead * 2 ^ 60 + chars.length * 2 ^ 56 + ofBe (fit 7 shown)

/-- A complete sentence under the checksum policies (R90, R91). DESIGN CHOICE (log 118): both checksums bad count once, with one
event 24. -/
def iecComplete (p : PloughId) (r : Rec) (s : State) : State :=
  let i := r.framing
  let bad := checksumBad r
  let anyBad := bad || r.tagBad
  let s := if r.bareLf then countRow r.row 13 1 s else s
  let s := if r.csAbsent then countRow r.row 5 1 s else s
  let s := if anyBad then raise 24 r.row (countRow r.row 6 1 s) else s
  let g : Grain := {
    key := iecKey (talkerMask i) r.addr, stamp := r.stamp, row := r.row, len := r.bytes.length, kind := 0, ingress := r.cls, cls := r.cls
    csAbsent := r.csAbsent && absentPolicy i == 1, csBad := bad, tagPresent := r.tagPresent, tagBad := r.tagBad, bareLf := r.bareLf
    notLocked := r.unlocked }
  if (anyBad && badDrops i) || (r.csAbsent && absentPolicy i == 2) then
    if anyBad && !r.disabled then
      let s := freeRec r (setCur p none s)
      finishRec p { row := r.row, stamp := r.stamp, cls := r.cls, framing := i, grain := some { g with len := 0, void := true, csAbsent := false, csBad := false, tagPresent := false, tagBad := false, bareLf := false } } s
    else if r.disabled then countRow r.row 11 1 (freeRec r (setCur p none s))
    else freeRec r (setCur p none s)
  else completeCur p r g s

/-- A new record on a UART row with its first character, stamped at that character's start edge (R83). -/
def newRec (r : Nat) (ch : UartChar) (s : State) : Rec :=
  let i := framingOf r s
  { row := r, bytes := [ch.b], stamp := compensated r ch.edge s, framing := i, cls := ingressClass r s, unlocked := notLockedAt ch.edge s
    iec := if ch.b = 0x5C then .tag else .address, tagPresent := ch.b = 0x5C, addr := if ch.b = 0x5C then [] else [ch.b] }

/-- The record in progress with what it has received, its bytes in the cells it has; a full buffer drops it. -/
def keepCur (p : PloughId) (r : Rec) (s : State) : State :=
  let x := fillCells r s
  let s := setCur p (some x.1) x.2
  if bufferSize p ≤ bufferFill p s then overrun p x.1 s else s

/-- Hunt: only a starting character begins a record. -/
def iecHunt (p : PloughId) (r : Nat) (ch : UartChar) (s : State) : State :=
  if starter ch.b && s.bank.enabled.contains r then keepCur p (newRec r ch s) s else s

/-- One character of an IEC 61162-1 row (R86 to R88). -/
def iecChar (p : PloughId) (r : Nat) (ch : UartChar) (s : State) : State :=
  match (ploughOf p s).cur with
  | none => iecHunt p r ch s
  | some x => match iecStep x ch.b with
    | .done y => if framingMax x.framing < y.bytes.length then dropCur p x 3 s else
        let z := fillCells y s
        iecComplete p z.1 z.2
    | .go y => if framingMax x.framing ≤ y.bytes.length then dropCur p x 3 s else keepCur p y s
    | .bad => let s := dropCur p x 2 s
              if starter ch.b then iecHunt p r ch s else s

/-! ### User framing (R101 to R104) -/

/-- Length the length field asks for, once it has arrived. -/
def ufLength (r : Rec) : Option Int :=
  let i := r.framing
  let o := u8 i 11
  let n := if fld i 6 4 2 = 0 then 1 else 2
  if r.unesc.length < o + n then none
  else
    let v := if fld i 6 4 2 = 2 then ule r.unesc o 2 else ofBe (sub r.unesc o n)
    some ((v : Int) + sle i 12 1)

/-- The length field says the sequence is complete. -/
def ufReached (r : Rec) : Bool := match ufLength r with
  | some n => decide (n ≤ r.unesc.length)
  | none => false

def ufExact (r : Rec) : Bool := ufLength r == some (r.unesc.length : Int)

/-- Key bytes at their offsets; short when one lies beyond the sequence (R104). -/
def ufKey (r : Rec) : Nat × Bool :=
  let offs := (List.range (u8 r.framing 14)).map (fun j => u8 r.framing (16 + j))
  (ofBe (fit 8 (offs.map (fun o => r.unesc.getD o 0))), offs.any (fun o => decide (r.unesc.length ≤ o)))

/-- A complete user-framed record. -/
def ufComplete (p : PloughId) (r : Rec) (s : State) : State :=
  let k := ufKey r
  let z := fillCells r s
  completeCur p z.1 { key := k.1, stamp := r.stamp, row := r.row, len := r.bytes.length, kind := 5, ingress := r.cls, cls := r.cls,
                      keyShort := k.2, notLocked := r.unlocked } z.2

/-- Begin a user-framed record with its start byte, or without one its first byte. In idle-gap mode the start byte is the first of
the bytes the offsets count (R102). -/
def ufHunt (p : PloughId) (r : Nat) (ch : UartChar) (s : State) : State :=
  if !s.bank.enabled.contains r then s
  else
    let x := newRec r ch s
    let i := x.framing
    match ufStart i with
    | some b => if ch.b = b then keepCur p { x with unesc := if ufEndMode i = 3 then [ch.b] else [] } s else s
    | none => if ufEscape i = some ch.b then keepCur p { x with esc := true } s else keepCur p { x with unesc := [ch.b] } s

/-- A record that goes on, within its maximum length. -/
def ufKeep (p : PloughId) (y : Rec) (s : State) : State :=
  let max := framingMax y.framing
  if ufEndMode y.framing = 3 then (if max < y.bytes.length then dropCur p y 3 s else keepCur p y s)
  else if max ≤ y.bytes.length then dropCur p y 3 s else keepCur p y s

/-- With both an end byte and a length, a sequence longer than its length can end in no record: a framing error (R103). -/
def ufPast (r : Rec) : Bool := ufEndMode r.framing == 2 && (match ufLength r with
  | some n => decide (n < r.unesc.length)
  | none => false)

/-- After a byte has joined the unescaped sequence: complete in length-field mode when the length is reached. -/
def ufStored (p : PloughId) (y : Rec) (s : State) : State :=
  if ufPast y then dropCur p y 2 s
  else if ufEndMode y.framing = 1 && ufReached y then
    (if framingMax y.framing < y.bytes.length then dropCur p y 3 s else ufComplete p y s)
  else ufKeep p y s

/-- One character of a user-framed row (R102, R103). DESIGN CHOICE (log 119): inside a record a character that is both start and end
byte is read as the start byte. -/
def ufChar (p : PloughId) (r : Nat) (ch : UartChar) (s : State) : State :=
  match (ploughOf p s).cur with
  | none => ufHunt p r ch s
  | some x =>
    let i := x.framing
    let ends := ufEndMode i == 0 || ufEndMode i == 2
    let y := { x with bytes := x.bytes ++ [ch.b] }
    if x.skip then s
    else if x.esc then
      if ends && ch.b == ufEnd i then dropCur p x 2 s
      else ufStored p { y with esc := false, unesc := x.unesc ++ [ch.b ^^^ ufXor i] } s
    else if ufEscape i = some ch.b then ufKeep p { y with esc := true } s
    else if ufStart i = some ch.b then ufHunt p r ch (setCur p none (dropCur p x 2 s))
    else if ends && ch.b == ufEnd i then
      if ufEndMode i = 2 && !ufExact x then dropCur p x 2 s
      else if framingMax i < y.bytes.length then dropCur p x 3 s
      else ufComplete p y s
    else ufStored p { y with unesc := x.unesc ++ [ch.b] } s

/-! ### UART_CHARACTER -/

/-- Echo suppression (R265): while sending, and for one character time after DE falls or the sentence ends. -/
def suppressed (u : Nat) (ch : UartChar) (s : State) : Bool :=
  rs485 u s.bank && ((uartRt u s).sending || (match (uartRt u s).lastTx with
    | some t => decide (ch.edge < t + uartLag u s.bank + uartCharNs u s.bank)
    | none => false))

/-- Echo check (R265): a character received while sending differs from the one sent. -/
def collides (u : Nat) (ch : UartChar) (s : State) : Bool :=
  rs485 u s.bank && flag (uartCfg u s.bank) 2 0 && (uartRt u s).sending && (match ch.sending with
    | some b => b != ch.b
    | none => false)

def errIndex : UartErr → Nat
  | .parity => 2 | .framing => 3 | .break_ => 4

/-- The talker row of a UART: of the record in reception, else the Enabled one. -/
def uartTalker (u : Nat) (s : State) : Option Nat :=
  match (ploughOf (.uart u) s).cur with
  | some x => some x.row
  | none => ctlRow 1 u true s

/-- A character reaches the Plough. -/
def ploughChar (u : Nat) (ch : UartChar) (s : State) : State :=
  let p := PloughId.uart u
  match uartTalker u s with
  | none => s
  | some r =>
    let i := match (ploughOf p s).cur with
      | some x => x.framing
      | none => framingOf r s
    match ch.err with
    | some _ => (match (ploughOf p s).cur with
      | some x => if x.skip then s else dropCur p x 2 s
      | none => s)
    | none => if userFraming i then ufChar p r ch s else iecChar p r ch s

/-- A character as the UART takes it. -/
def uartChar (u : Nat) (ch : UartChar) (s : State) : State :=
  let s := countUart u 0 (setUart u { uartRt u s with lastRx := some (nowNs s) } s)
  let s := match ch.err with
    | some e => busError 1 u (countUart u (errIndex e) s)
    | none => s
  let s := if collides u ch s then busError 1 u (countUart u 5 s) else s
  if suppressed u ch s then s else ploughChar u ch s

/-- UART_CHARACTER: a UART without an Enabled row is stopped, but finishes a record in reception. -/
def execUartCharacter (u : Nat) (ch : UartChar) (s : State) : Result :=
  if s.power.state != .growing || s.power.halted || (!ctlEnabled s.bank 1 u && (ploughOf (.uart u) s).cur.isNone) then .next s
  else .next (uartChar u ch s)

/-- GAP_TIMEOUT: a gap longer than the limit ends the record in progress (R89). -/
def execGapTimeout (u : Nat) (s : State) : Result :=
  match (ploughOf (.uart u) s).cur with
  | some x =>
    if u16 x.framing 4 = 0 then .next s
    else if x.skip then .next (setCur (.uart u) none s)
    else .next (setCur (.uart u) none (dropCur (.uart u) x 4 s))
  | none => .next s

/-- IDLE_GAP_END: the line has been idle for the idle gap (R103). -/
def execIdleGapEnd (u : Nat) (s : State) : Result :=
  match (ploughOf (.uart u) s).cur with
  | some x =>
    if !(userFraming x.framing && ufEndMode x.framing == 3) then .next s
    else if x.skip then .next (setCur (.uart u) none s)
    else if x.esc then .next (setCur (.uart u) none (dropCur (.uart u) x 2 s))
    else .next (ufComplete (.uart u) x s)
  | none => .next s

end Sys2Proof.Machine
end

