-- ==== Sys2Proof/Machine/Egress.lean ====
section
/-! DEFINITION. The port side of the Drill: Furrow gates, shaper credit, selection at a frame boundary, preemption, MACsec
protection, completion of a copy, and the rows PORT_FRAME_SELECT, COPY_SENT, GATE_CHANGE, SET_AND_HOLD_MAC and
CONFIGURATION_CHANGE_TIME (R181, R200 to R208, R225, R280, R297 to R299, R507). -/

namespace Sys2Proof.Machine

/-- The class's shaper, if it is on, has credit. -/
def creditOk (p tc : Nat) (s : State) : Bool :=
  (shaperOf p tc s.bank).isNone || decide (0 ≤ tgetD (8 * p + tc) 0 s.drill.credit)

/-! ### Selection (R200, R203, R204) -/

/-- An ACF copy: a sentence copy of an ACF row. -/
def isAcf (c : Copy) : Bool := !c.own && c.grain.kind != 15

/-- Bytes of a copy from destination address to FCS, before protection; an ACF frame as IEEE 1722 forms it (log 27). -/
def frameLen (c : Copy) : Nat :=
  if c.own then max 64 (c.out.length + 4)
  else if isAcf c then max 64 (50 + (c.grain.len - 16 + 3) / 4 * 4)
  else max 64 (c.grain.len + 4)

/-- Tenths of a nanosecond for a number of bytes. -/
def wireTenths (p n : Nat) (s : State) : Nat := n * byteTime p s

/-- A transmission of `n` bytes started now ends by an instant. -/
def endsBy (p n : Nat) (t : Option Nat) (s : State) : Bool :=
  match t with
  | some t => decide (nowNs s * 10 + wireTenths p n s ≤ t * 10)
  | none => true

/-- Bytes of a frame with preamble, gap and MACsec expansion. -/
def wholeLen (p : Nat) (c : Copy) (s : State) : Nat := frameLen c + 20 + expansion p s

/-- A frame that a start now lets be cut: it can give two fragments of 64 bytes (R297). -/
def mayBeCut (p : Nat) (c : Copy) (s : State) : Bool := cuttable p c s && decide (124 ≤ frameLen c + expansion p s)

/-- Bytes of a cut frame still to send, with preamble and gap. -/
def restLen (c : Copy) : Nat := c.wireLen - c.fragSent + 20

/-- The frame fits before its gate closes, whole or as a first fragment (R203). -/
def fitsGate (p : Nat) (c : Copy) (n : Nat) (s : State) : Bool :=
  endsBy p n (gateCloses p c.tc s) s || (mayBeCut p c s && endsBy p 84 (gateCloses p c.tc s) s)

/-- It ends before the wire must be idle, or the hold of that furrow cuts it in time (R204, R205). -/
def fitsIdle (p : Nat) (c : Copy) (n : Nat) (s : State) : Bool :=
  match idleStart p s with
  | some (t, holds) => endsBy p n (some t) s || (mayBeCut p c s && holds && endsBy p 155 (some t) s)
  | none => true

/-- The frame fits before its gate closes and before the wire must be idle (R203, R204). -/
def fits (p : Nat) (c : Copy) (s : State) : Bool := fitsGate p c (wholeLen p c s) s && fitsIdle p c (wholeLen p c s) s

/-- The instant at which a frame that starts now is to be cut because its gate closes. -/
def cutAt (p : Nat) (c : Copy) (n : Nat) (s : State) : Option Nat :=
  if endsBy p n (gateCloses p c.tc s) s then none else gateCloses p c.tc s

/-- A copy has reached its release time, with the compensation of an ACF row (R188). -/
def portDue (c : Copy) (s : State) : Bool := if isAcf c then isDue c.row c s else c.due || decide (c.release ≤ nowNs s)

/-- The conditions of R200 but the pause; hold and a frame cut on the wire keep preemptable classes back (R205). -/
def allowed (p : Nat) (c : Copy) (s : State) : Bool :=
  gateOpen p c.tc s && portDue c s && creditOk p c.tc s && fits p c s &&
  !(cuttable p c s && ((furrowRt p s).hold || (tget p s.drill.portHeld).isSome))

/-- Head of each class, highest class first. -/
def portHeads (p : Nat) (s : State) : List Copy := [7, 6, 5, 4, 3, 2, 1, 0].filterMap (fun tc => (waitingOf p tc s).head?)

/-- The frame a port takes at a boundary. -/
def nextFrame (p : Nat) (s : State) : Option Copy :=
  (portHeads p s).find? (fun c => !paused p c.tc s && allowed p c s)

def unqueuePort (p : Nat) (c : Copy) (s : State) : State :=
  { s with drill.ports := tset p ((tgetD p [] s.drill.ports).erase c) s.drill.ports }

/-- Heads a pause keeps from starting are counted once (index 34). -/
def countPaused (p : Nat) (s : State) : State :=
  let hit (c : Copy) : Bool := paused p c.tc s && c.tries == 0 && allowed p c s
  let cs := (portHeads p s).filter hit
  countPort p 34 cs.length
    { s with drill.ports := tmod p [] (fun q => q.map (fun c => if cs.contains c then { c with tries := 1 } else c)) s.drill.ports }

/-! ### Starting a frame -/

/-- Read a copy for a port: its bytes with route-bound and row-bound generation, and whether it will be stomped (R234,
R524, R528). A sentence of an ACF row on a Rewrite route is never IEC 61162-1, so Rewrite skips it (R146). -/
def readPort (p : Nat) (c : Copy) (rd : ReadOutcome) (s : State) : Copy × State :=
  let e := readEffects rd p (copyCells c s) s
  let s := e.2
  let g := c.grain
  let fr := framingOf g.row s
  let d := if c.own then (c.out, s)
    else
      let w := if isAcf c then rewrite c.rewrite c.row g (payload g.cell g.len s) s else (payload g.cell g.len s, false, s)
      let t := match routeUnit true c.tally w.2.2 with
        | some (u, some i) => tallyGenerate u i true g.kind fr w.1 w.2.2
        | _ => (w.1, w.2.2)
      if isAcf c then rowGenerate c.row true g.kind fr t.1 t.2 else t
  let s := if e.1 || c.stomp then countPort p 30 1 d.2 else d.2
  ({ c with out := d.1, stomp := e.1 || c.stomp, waitFrom := some (nowNs s) }, s)

/-- Pause frames wait that end before the wire must be idle (R296). -/
def pausesFit (p : Nat) (s : State) : Bool :=
  !(portRt p s).pauseWait.isEmpty && endsBy p (84 * (portRt p s).pauseWait.length) ((idleStart p s).map (·.1)) s

/-- Pause frames that wait take the free wire. -/
def sendPauses (p : Nat) (s : State) : State :=
  let w := (portRt p s).pauseWait
  if (tget p s.drill.portWire).isSome || !pausesFit p s then s
  else w.foldl (fun s e => putPause p e.1 e.2.1 e.2.2 s) (setPort p { portRt p s with pauseWait := [] } s)

/-- Put a frame on a port's wire. -/
def putFrame (p : Nat) (c : Copy) (s : State) : State := { s with drill.portWire := tset p c s.drill.portWire }

/-- The frame takes the wire: its time state is that of its stamp (R182), it is to be cut if its gate closes first (R203), and an ACF
copy counts its start (R189, R192). -/
def takeWire (p : Nat) (c : Copy) (rd : ReadOutcome) (s : State) : State :=
  let c := { c with mayCut := some (mayBeCut p c s), stampNotSync := !synced s, planCut := cutAt p c (wholeLen p c s) s,
                    wireLen := frameLen c + expansion p s, fragSent := 0, fragAt := nowNs s }
  let b := if isAcf c then beginCopy c.row c s else (c, s)
  let r := readPort p b.1 rd b.2
  putFrame p r.1 r.2

/-- Start a selected frame: protection on a protected port, then the read (R281, R507). `none` when it is dropped instead. -/
def startFrame (p : Nat) (c : Copy) (rd : ReadOutcome) (s : State) : Option State :=
  if !s.fixed.variantE && s.keys.protTx.contains p then
    let k := chooseSlot p s
    match k.1 with
    | none => none
    | some n => some (takeWire p { c with slot := some n } rd (useSlot n k.2))
  else some (takeWire p c rd s)

/-- Select at a boundary: frames over the class maximum, and frames without a usable key, go and the next is taken. -/
def selectFrame (p : Nat) (rd : ReadOutcome) : Nat → State → State
  | 0, s => s
  | k + 1, s =>
    match nextFrame p s with
    | none => s
    | some c =>
      let s' := unqueuePort p c s
      if maxLen p c.tc s.bank < frameLen c then selectFrame p rd k (countPort p 31 1 (endCopy c s'))
      else match startFrame p c rd s' with
        | some t => t
        | none => selectFrame p rd k (limitDrop p (endCopy c s'))

/-- The remainder of a cut frame goes on when its gate is open, hold is released and no express frame may start. -/
def resumeFrame (p : Nat) (c : Copy) (s : State) : Option State :=
  let express := !s.keys.waiting.contains p && (portHeads p s).any (fun x => !preemptable p x.tc s && !paused p x.tc s && allowed p x s)
  if gateOpen p c.tc s && !(furrowRt p s).hold && !express && endsBy p (min 84 (restLen c)) (gateCloses p c.tc s) s && fitsIdle p c (restLen c) s
  then some (putFrame p { c with planCut := cutAt p c (restLen c) s, fragAt := nowNs s } (countPort p 28 1 { s with drill.portHeld := tdel p s.drill.portHeld }))
  else none

/-- A port that is not Up discards the copies at its queue heads (R280). -/
def dropHeads (p : Nat) (s : State) : State :=
  (portHeads p s).foldl (fun s c => countPort p 32 1 (endCopy c (unqueuePort p c s))) s

/-- A frame boundary with the wire free. -/
def freeWire (p : Nat) (rd : ReadOutcome) (s : State) : State :=
  let s := countPaused p s
  let n := (tgetD p [] s.drill.ports).length
  match tget p s.drill.portHeld with
  | some c => (resumeFrame p c s).getD (selectFrame p rd n s)
  | none => selectFrame p rd n s

/-- While the channel waits for a key no class is selected, but the rest of a cut frame goes on under its own (R510). -/
def freeHeld (p : Nat) (s : State) : State :=
  match tget p s.drill.portWire, tget p s.drill.portHeld with
  | none, some c => (resumeFrame p c s).getD s
  | _, _ => s

/-- A preemptable frame on the wire is cut for a hold, for pause frames that wait, and for an express frame (R205, R296). -/
def yieldWire (p : Nat) (express : Bool) (s : State) : State :=
  match tget p s.drill.portWire with
  | some c =>
    if cutReady p c s && ((furrowRt p s).hold || pausesFit p s ||
      (express && (portHeads p s).any (fun x => !preemptable p x.tc s && !paused p x.tc s && allowed p x s)))
    then cutFrame p c s else s
  | none => s

/-- PORT_FRAME_SELECT: on a disabled port a cut frame finishes (R220). -/
def execPortFrameSelect (p : Nat) (rd : ReadOutcome) (s : State) : Result :=
  if !forwards s then .next (readAhead (portHeads p s).head? s)
  else if !portUp p s then .next (dropHeads p (if portEnabled p s then s else finishHeld p s))
  else if s.keys.waiting.contains p then .next (freeHeld p (sendPauses p (yieldWire p false s)))
  else
    let s := sendPauses p (yieldWire p true (updateCredits p s))
    .next (if (tget p s.drill.portWire).isNone then freeWire p rd s else s)

/-! ### Completion (R181, R225, R303) -/

/-- Destination class of a frame: 22 unicast, 23 multicast, 24 broadcast; an ACF frame counts as multicast (log 27). -/
def destCounter (c : Copy) : Nat :=
  if isAcf c then 23
  else if sub c.out 0 6 = List.replicate 6 0xFF then 24
  else if u8 c.out 0 % 2 = 1 then 23 else 22

/-- Fields of a PTP frame for its stamp entry: message type, domain, sequence ID (IEEE 1588; log 27). -/
def ptpFields (f : Bytes) : Nat × Nat × Nat :=
  if frameEthertype f = 0x88F7 then
    let o := frameBody f
    (u8 f o % 16, u8 f (o + 4), ofBe (sub f (o + 30) 2))
  else (15, 255, 0)

/-- Write a transmit stamp (R181, R182): a full FIFO discards it and marks the next entry. -/
def writeStamp (p : Nat) (c : Copy) (s : State) : State :=
  match c.grain.stampReq with
  | none => s
  | some (ring, desc) =>
    let q := tgetD p [] s.alm.txStamps
    if 16 ≤ q.length then
      { s with alm.txStampLost := tadd p 1 s.alm.txStampLost, alm.txStampOver := insertNat p s.alm.txStampOver }
    else
      let f := ptpFields c.out
      let e : TxStamp := { stamp := stampOf (c.waitFrom.getD (nowNs s) + phyNs (txDelay p s)), desc, ring, seqId := f.2.2, msg := f.1, port := p, domain := f.2.1,
                           notSync := c.stampNotSync, preempted := c.preempted, overflow := s.alm.txStampOver.contains p }
      let s := { s with alm.txStamps := tset p (q ++ [e]) s.alm.txStamps, alm.txStampOver := s.alm.txStampOver.filter (· != p) }
      if q.isEmpty then raise 45 p s else s

/-- The frame as the port's own receiver takes it in internal loopback (R452). -/
def loopFrame (c : Copy) (s : State) : RxFrame :=
  let d := c.out ++ List.replicate (60 - c.out.length) 0
  { bytes := d, wireLen := d.length + 4, fcsErr := c.stomp, stamp := stampOf (c.waitFrom.getD (nowNs s))
    sec := c.slot.map (fun n => ⟨saSci (slotOf n s).sa, saAn (slotOf n s).sa, (slotOf n s).nextPn - 1, !c.stomp⟩) }

/-- Put a sent frame on the wire, or back into the port in internal loopback. -/
def outFrame (p : Nat) (c : Copy) (s : State) : State :=
  if looped p s then rxFrame p (loopFrame c s) s
  else if isAcf c then emit (if c.stomp then .stompedAcf p c.row c.out else .rowSend c.row c.out) s
  else emit (.frame p c.out c.stomp c.slot.isSome) s

/-- A frame has left a port: counters, stamp, the record, its references (R225, R303, R390). -/
def frameSent (p : Nat) (c : Copy) (s : State) : State :=
  let s := updateCredits p s
  let s := { s with drill.portWire := tdel p s.drill.portWire }
  let s := countPort p 20 (frameLen c + (if c.slot.isSome then expansion p s else 0)) s
  let s := if c.stomp then s
    else
      let s := countPort p (destCounter c) 1 (countPort p 21 1 s)
      let s := if c.own then countPort p 36 1 s else s
      if c.slot.isSome then countPort p 37 1 s else s
  let s := writeStamp p c s
  if isAcf c then
    let s := if c.stomp then s else countRow c.row 15 c.out.length (countRow c.row 14 1 s)
    outFrame p c (endCopy c (setRowRt c.row { rowRt c.row s with lastTx := c.release } s))
  else outFrame p c (endCopy c s)

/-- Loopback of a UART: the characters sent reach its own Plough (R452). -/
def uartLoop (k : Nat) (d : Bytes) (s : State) : State :=
  if loopMode 2 k s = 0 then s
  else
    let w := uartCharNs k s.bank
    d.zipIdx.foldl (fun s e => ploughChar k ⟨e.1, none, stampOf (nowNs s - (d.length - e.2) * w), none⟩ (countUart k 0 s)) s

/-- A row's wire ends its copy; DE stays up for its lag, a LIN commander has sent header and response. A CAN copy is completed by
CAN_FRAME_SENT, a ring's by RECEIVE_ITEM_DELIVERY. -/
def rowSent (r : Nat) (c : Copy) (s : State) : State :=
  match c.ctl with
  | some (1, k) =>
    let s := unwire r (setUart k { uartRt k s with sending := false, lastTx := some (nowNs s)
                                                   counters := addCtr 1 c.out.length (uartRt k s).counters } s)
    uartLoop k c.out (drivePins (sentCopy r c s))
  | some (2, k) => linIdle k (sentCopy r c (unwire r (countLin k 2 s)))
  | _ => s

/-- COPY_SENT: the last byte of the copy on a wire has left the part. -/
def execCopySent (w : WireId) (s : State) : Result :=
  match w with
  | .port p => .next (match tget p s.drill.portWire with
    | some c => frameSent p c s
    | none => s)
  | .row r => .next (match tget r s.drill.rowWire with
    | some c => rowSent r c s
    | none => s)

/-! ### Gates and list changes (R203, R205 to R208) -/

/-- Drop the operational list when its removal instant has come (R407). -/
def takeRemoval (p : Nat) (s : State) : State :=
  let v := furrowRt p s
  match v.remove with
  | some t => if t ≤ nowNs s then setFurrow p { v with oper := none, remove := none } s else s
  | none => s

/-- GATE_CHANGE: a furrow or cycle starts. -/
def execGateChange (p : Nat) (s : State) : Result := .next (setGates p (takeRemoval p (updateCredits p s)))

/-- SET_AND_HOLD_MAC: 155 byte times before the furrow hold is asserted and a preemptable frame cut. -/
def execSetAndHoldMac (p : Nat) (s : State) : Result :=
  if !preemptActive p s then .next s
  else
    let s := setFurrow p { furrowRt p s with hold := true } s
    match tget p s.drill.portWire with
    | some c => .next (if cutReady p c s then cutFrame p c s else s)
    | none => .next s

/-- CONFIGURATION_CHANGE_TIME: the administrative list becomes operational, event 21 (R206). -/
def execConfigurationChangeTime (p : Nat) (s : State) : Result :=
  let v := furrowRt p s
  match v.change with
  | none => .next s
  | some _ =>
    let s := updateCredits p s
    .next (setGates p (raise 21 p (setFurrow p { v with oper := tget p s.bank.furrows, change := none, remove := none } s)))

end Sys2Proof.Machine
end

