-- ==== Sys2Proof/Machine/DrillCmds.lean ====
section
/-! DEFINITION. Drill commands 0501h to 0505h (R195, R196, R198, R201, R202, R206, R209, R214, R406 to R410). -/

namespace Sys2Proof.Machine

/-! ### 0501h FURROW_LIST_WRITE, 0502h FURROW_SWITCH -/

/-- A list within R202, of exactly its length. -/
def furrowListOk (i : Bytes) : Bool :=
  let n := listCount i
  within 1 n 256 && i.length == 24 + 8 * n && within 1000 (listCycle i) 1000000000 && decide (u32 i 12 ≤ listCycle i) &&
  decide (u8 i 18 < 10) && fld i 19 1 7 == 0 && zeros i 20 4 &&
  (List.range n).all (fun k => furrowOp i k != 3 && fld i (25 + 8 * k) 3 5 == 0 && zeros i (26 + 8 * k) 2 &&
    within 128 (furrowTime i k) 1000000000)

def stageFurrows (c : Call) (_ : Nat) (s : State) (b : Bank) : Status × Bank :=
  let p := u8 c.bulk 18
  if (furrowRt p s).change.isSome then (.busy, b) else (.ok, { b with furrows := tset p c.bulk b.furrows })

/-- A port without a list reads as a header with furrow count 0 (R380). -/
def readFurrows (c : Call) (_ : Nat) (s : State) : Option Bytes :=
  let p := u8 c.bulk 18
  if portPresent p s then some (fit 48 [] ++ tgetD p (patch (fit 24 []) 18 [byte p]) s.bank.furrows) else none

def cmdFurrowListWrite : Cmd := {
  opcode := 0x0501, scope := .device, bank := true
  check := fun c _ => need (onlyBytes c [] && furrowListOk c.bulk)
  own := fun c s => need (portPresent (u8 c.bulk 18) s)
  act := directAct stageFurrows (fun _ _ _ => []) (fun _ _ _ s => s)
  stage := stageFurrows
  read := some readFurrows }

/-- 0501h FURROW_LIST_WRITE. -/
def execFurrowListWrite (c : Call) (s : State) : Result := .next (serve cmdFurrowListWrite c s)

/-- First instant base + n × cycle at or after `t`. -/
def cycleFrom (base cycle t : Nat) : Nat := if t ≤ base then base else base + (t - base + cycle - 1) / cycle * cycle

/-- Configuration change time of a list, no earlier than `t` (R206). -/
def changeTime (i : Img) (t : Nat) : Nat := cycleFrom (listBase i) (listCycle i) t

def switchCheck (remove : Bool) (c : Call) (_ : State) : Status :=
  need (onlyBytes c [(0, 2)] && decide (u8 c.params 0 < 10) && u8 c.params 1 == b2n remove)

def actFurrowSwitch (c : Call) (_ : Nat) (s : State) : Work :=
  let p := u8 c.params 0
  let v := furrowRt p s
  match tget p s.bank.furrows with
  | none => { status := .notPermitted, st := s }
  | some i =>
    if v.change.isSome || v.remove.isSome then { status := .busy, st := s }
    else
      let t := changeTime i (nowNs s + 1000000)
      { inline := le 8 t, st := setFurrow p { v with change := some t } s }

def cmdFurrowSwitch : Cmd := { opcode := 0x0502, scope := .device, check := switchCheck false, own := namesPort 0, act := actFurrowSwitch }

/-- 0502h FURROW_SWITCH. -/
def execFurrowSwitch (c : Call) (s : State) : Result := .next (serve cmdFurrowSwitch c s)

/-- The remove flag: the list is dropped at a cycle start of its own at least 1 ms ahead (R407). -/
def actFurrowRemove (c : Call) (_ : Nat) (s : State) : Work :=
  let p := u8 c.params 0
  let v := furrowRt p s
  match v.oper with
  | none => { status := .notPermitted, st := s }
  | some i =>
    if v.change.isSome || v.remove.isSome then { status := .busy, st := s }
    else
      let t := changeTime i (nowNs s + 1000000)
      { inline := le 8 t, st := setFurrow p { v with remove := some t } s }

def cmdFurrowListRemove : Cmd := { opcode := 0x0502, scope := .device, check := switchCheck true, own := namesPort 0, act := actFurrowRemove }

/-- 0502h FURROW_SWITCH with the remove flag. -/
def execFurrowListRemove (c : Call) (s : State) : Result := .next (serve cmdFurrowListRemove c s)

/-! ### 0503h SHAPER_SET -/

def checkShaper (c : Call) (_ : State) : Status :=
  let q := c.params
  need (onlyBytes c [(0, 3), (4, 20)] && decide (u8 q 0 < 10) && decide (u8 q 1 < 8) && fld q 2 2 6 == 0 && decide (1000 ≤ u32 q 4) &&
    (!flag q 2 1 || (List.range 8).all (fun t => within 64 (u16 q (8 + 2 * t)) 9022)))

def stageShaper (c : Call) (_ : Nat) (_ : State) (b : Bank) : Status × Bank :=
  let q := fit 48 c.params
  let p := u8 q 0
  let tc := u8 q 1
  if flag q 2 0 && classTc p 0 b == tc then (.badParam, b)
  else
    let b := { b with shapers := tset (8 * p + tc) (fit 48 (sub q 0 2 ++ [byte (b2n (flag q 2 0)), 0] ++ sub q 4 4)) b.shapers }
    (.ok, if flag q 2 1 then { b with maxLens := tset p (sub q 8 16) b.maxLens } else b)

/-- Result: hiCredit and loCredit, as Eulyn computes them (log 14). -/
def shaperResult (c : Call) (_ : Nat) (s : State) : Bytes :=
  let l := creditLimits (u8 c.params 0) (u8 c.params 1) s
  sleB 4 l.1 ++ sleB 4 (-(l.2 : Int))

/-- Credit is brought up to date under the former slope. -/
def afterShaper (c : Call) (_ : Nat) (old s : State) : State := { s with drill := (updateCredit (u8 c.params 0) (u8 c.params 1) old).drill }

def readShaper (c : Call) (_ : Nat) (s : State) : Option Bytes :=
  let p := u8 c.params 0
  let tc := u8 c.params 1
  if portPresent p s ∧ tc < 8 then
    some (fit 48 (patch (fit 8 (tgetD (8 * p + tc) [] s.bank.shapers)) 0 [byte p, byte tc] ++ tgetD p defaultMaxLens s.bank.maxLens))
  else none

def cmdShaperSet : Cmd := {
  opcode := 0x0503, scope := .device, bank := true, check := checkShaper
  own := fun c s => need (portPresent (u8 c.params 0) s && decide (u32 c.params 4 ≤ portRate (u8 c.params 0) s))
  act := directAct stageShaper shaperResult afterShaper
  stage := stageShaper
  staged := fun c t s _ b => shaperResult c t { s with bank := b }
  read := some readShaper }

/-- 0503h SHAPER_SET. -/
def execShaperSet (c : Call) (s : State) : Result := .next (serve cmdShaperSet c s)

/-! ### 0504h SHEAF_SET -/

def checkSheaf (c : Call) (_ : State) : Status :=
  let q := c.params
  need (onlyBytes c [(0, 18), (20, 4)] && u8 q 0 % 2 == 0 && decide (0x600 ≤ u16 q 6) &&
    !([0x0800, 0x86DD, 0x8100, 0x88A8, 0x8808, 0x88E5, 0x88F7, 0x22F0, 0x88CC].contains (u16 q 6)) &&
    decide (u16 q 8 ≤ 4094) && within 1500 (u16 q 10) 9000 && within 5 (u16 q 12) 1000 && within 5 (u16 q 14) 1000 &&
    within 5 (u16 q 16) 1000 && decide (u32 q 20 ≤ 10000))

def stageSheaf (c : Call) (_ : Nat) (_ : State) (b : Bank) : Status × Bank := (.ok, { b with sheaf := some (fit 48 c.params) })

def cmdSheafSet : Cmd := {
  opcode := 0x0504, scope := .device, bank := true, check := checkSheaf
  act := directAct stageSheaf (fun _ _ _ => []) (fun _ _ _ s => s)
  stage := stageSheaf
  read := some (fun _ _ s => some (sheafCfg s.bank)) }

/-- 0504h SHEAF_SET. -/
def execSheafSet (c : Call) (s : State) : Result := .next (serve cmdSheafSet c s)

/-! ### 0505h CLASS_MAP_SET -/

/-- Beacon goes neither into a preemptable class nor into a shaped one (R198, R201). -/
def stageClassMap (c : Call) (_ : Nat) (s : State) (b : Bank) : Status × Bank :=
  let q := fit 48 c.params
  let p := u8 q 1
  if preemptable p (u8 q 4) s || (shaperOf p (u8 q 4) b).isSome then (.badParam, b)
  else (.ok, { b with classMaps := tset p q b.classMaps })

def readClassMap (c : Call) (_ : Nat) (s : State) : Option Bytes :=
  match u8 c.params 0 with
  | 0 => if portPresent (u8 c.params 1) s then some (classMap (u8 c.params 1) s.bank) else none
  | 1 => some (s.bank.pool.getD (fit 48 ([1, 0, 0, 0] ++ le 4 2000 ++ le 2 1024 ++ le 2 4096 ++ le 2 16384 ++ le 2 8192 ++ le 2 4096 ++ le 2 1024)))
  | _ => none

def cmdClassMapSet : Cmd := {
  opcode := 0x0505, scope := .device, bank := true
  own := namesPort 1
  check := fun c _ => need (onlyBytes c [(0, 2), (4, 16)] && u8 c.params 0 == 0 && decide (u8 c.params 1 < 10) &&
    (sub c.params 4 16).all (fun x => decide (x.toNat ≤ 7)))
  act := directAct stageClassMap (fun _ _ _ => []) (fun _ _ _ s => clearImmune s)
  stage := stageClassMap
  read := some readClassMap }

/-- 0505h CLASS_MAP_SET, selector 0. -/
def execClassMapSet (c : Call) (s : State) : Result := .next (serve cmdClassMapSet c s)

def checkPool (c : Call) (_ : State) : Status :=
  let q := c.params
  let f (i : Nat) := u16 q (8 + 2 * i)
  let shared := 32768 - f 0 - f 1
  need (onlyBytes c [(0, 2), (4, 16)] && u8 q 0 == 1 && u8 q 1 == 0 && decide (u32 q 4 ≤ 1000000) && decide (f 0 + f 1 ≤ 32768) &&
    within 512 (f 0) 4096 && decide (f 1 ≤ 8192) && decide (f 2 ≤ shared) && decide (f 3 ≤ shared) && decide (f 4 ≤ 16384) &&
    decide (f 5 ≤ f 4))

def stagePool (c : Call) (_ : Nat) (_ : State) (b : Bank) : Status × Bank := (.ok, { b with pool := some (fit 48 c.params) })

def cmdPoolAndGuardSet : Cmd := {
  opcode := 0x0505, scope := .device, bank := true, check := checkPool
  act := directAct stagePool (fun _ _ _ => []) (fun _ _ _ s => s)
  stage := stagePool
  read := some readClassMap }

/-- 0505h CLASS_MAP_SET, selector 1. -/
def execPoolAndGuardSet (c : Call) (s : State) : Result := .next (serve cmdPoolAndGuardSet c s)

end Sys2Proof.Machine
end

