-- ==== Sys2Proof/Machine/Stile.lean ====
section
/-! DEFINITION. The Stile: regions, register files of the local controllers, near requests and far accesses, the transport between
members, and the rows of 14_stile_bridge with the Hold window's STILE_CTRL, STILE_REGION, STILE_ERRLOG_VALID, SEM_TAKE and
SEM_GIVE (R464 to R492). -/

namespace Sys2Proof.Machine

/-! ### RC locations (R311) -/

/-- Access to a set of 64-bit counters with shadow halves. -/
structure RcSet where
  get : Nat → State → Nat
  clear : Nat → State → State
  shadow : Nat → State → Nat
  setShadow : Nat → Nat → State → State

/-- Read of bytes `lo` to `hi` of one counter: it acts when byte 0 is included, latching the high half of a partial read. -/
def rcCounter (c : RcSet) (i lo hi : Nat) (s : State) : Bytes × State :=
  let v := c.get i s
  if lo = 0 then
    (sub (le 8 v) 0 hi, if hi = 8 then c.clear i s else c.setShadow i (v / 4294967296) (c.clear i s))
  else
    (sub (fit 4 [] ++ le 4 (c.shadow i s)) lo (hi - lo), if hi ≤ 4 then s else c.setShadow i 0 s)

/-- Read `len` bytes from offset `o` of a run of counters. -/
def rcRead (c : RcSet) (o len : Nat) (s : State) : Bytes × State :=
  if len = 0 then ([], s)
  else
    let first := o / 8
    let n := (o + len - 1) / 8 + 1 - first
    (List.range n).foldl (fun a j =>
      let i := first + j
      let r := rcCounter c i (o - 8 * i) (min 8 (o + len - 8 * i)) a.2
      (a.1 ++ r.1, r.2)) ([], s)

/-! ### Register files (R468, R469) -/

/-- Counters of a controller as RC locations; a read of one re-arms event 22 (R469). -/
def busCounter (kind k i : Nat) (s : State) : Nat :=
  if counterCount kind ≤ i then 0
  else tgetD i 0 (match kind with
    | 0 => (canRt k s).counters
    | 1 => (uartRt k s).counters
    | 2 => (linRt k s).counters
    | _ => (mvbRt k s).counters)

def clearBusCounter (kind k i : Nat) (s : State) : State :=
  if counterCount kind ≤ i then s
  else match kind with
  | 0 => setCan k { canRt k s with counters := tdel i (canRt k s).counters, armed := true } s
  | 1 => setUart k { uartRt k s with counters := tdel i (uartRt k s).counters, armed := true } s
  | 2 => setLin k { linRt k s with counters := tdel i (linRt k s).counters, armed := true } s
  | 3 => setMvb k { mvbRt k s with counters := tdel i (mvbRt k s).counters } s
  | _ => s

def busRc (kind k : Nat) : RcSet :=
  let key (i : Nat) : Nat := 128 * ctlObj kind k + i
  { get := busCounter kind k, clear := clearBusCounter kind k, shadow := fun i s => tgetD (key i) 0 s.stile.shadow,
    setShadow := fun i v s => { s with stile.shadow := if v = 0 then tdel (key i) s.stile.shadow else tset (key i) v s.stile.shadow } }

/-- The configuration command's inline parameters as last accepted. -/
def fileConfig (kind k : Nat) (s : State) : Bytes :=
  fit 48 (match kind with
    | 0 => canRaw k s.bank
    | 1 => uartCfg k s.bank
    | 2 => linCfg k s.bank
    | 3 => mvbRaw k s.bank
    | _ => s.bank.pins)

/-- Live control bytes. -/
def fileLive (kind k : Nat) (s : State) : Bytes :=
  match kind with
  | 0 => sub (canCfg k s.bank) 18 6
  | 4 => sub s.bank.pins 40 5
  | _ => []

/-- The register file apart from its counters. -/
def fileImage (kind k : Nat) (s : State) : Bytes :=
  fit 64 ([byte kind, byte k] ++ fit 6 [] ++ busInline kind k s) ++ fit 64 (fileLive kind k s) ++ fit 896 [] ++ fileConfig kind k s

/-- Read a register file; the levels of the field pins are those at the read. -/
def readFile (kind k o len : Nat) (s : State) : Bytes × State :=
  let s := if kind = 4 ∧ o < 13 ∧ 8 < o + len then drivePins (sampleInputs s) else s
  let img := fileImage kind k s
  let a := min (o + len) 256 - o
  let r0 := max o 256
  let r1 := min (o + len) 1024
  let rc := rcRead (busRc kind k) (r0 - 256) (r1 - r0) s
  let b0 := max o 1024
  (sub img o a ++ rc.1 ++ sub img b0 (o + len - b0), rc.2)

/-- Write live control as the command with the same values would, on the standing bank; a write of counters is ignored (R9). The
error kind, 0 for none. -/
def writeFile (kind k o : Nat) (d : Bytes) (s : State) : Nat × State :=
  let e := o + d.length
  let counted (s : State) : State := if s.stw.retill.isSome then { s with stw.directChanges := s.stw.directChanges + 1 } else s
  if kind = 0 ∧ 0x40 ≤ o ∧ e ≤ 0x47 then
    let img := fit 48 (canCfg k s.bank)
    let cfg := patch img (18 + (o - 0x40)) (d.take (0x46 - o))
    let recover := decide (0x46 < e) && flag d (0x46 - o) 0
    let c : Call := { queue := 0, tag := 0, gen := 0, params := patch (fit 24 cfg ++ fit 24 []) 1 [byte (u8 cfg 1 % 128 + 128 * b2n recover)] }
    let r := stageCan c 0 s s.bank
    if !canParamsOk c || r.1 != .ok then (6, s)
    else if idleRecover c s then (0, s)
    else (0, afterCan c 0 s { counted s with bank := r.2 })
  else if kind = 4 ∧ 0x40 ≤ o ∧ e ≤ 0x45 then
    (0, drivePins { counted s with bank.pins := patch (fit 88 s.bank.pins) (40 + (o - 0x40)) d })
  else if 0x100 ≤ o ∧ e ≤ 0x400 then (0, s)
  else (2, s)

/-! ### Local targets (R468 to R470) -/

/-- External flash contents are not the part's state: a read returns free values. -/
def freeBytes (n : Nat) (s : State) : Bytes × State :=
  ((List.range n).map (fun i => byte (Config.free (s.free + i))), { s with free := s.free + n })

/-- Read of a local target. -/
def localRead (kind k addr len : Nat) (s : State) : Bytes × State :=
  if kind = 5 then freeBytes len s else readFile kind k addr len s

/-- Write to a local target; flash is read-only. -/
def localWrite (r : Requester) (kind k addr : Nat) (d : Bytes) (s : State) : Nat × State :=
  if guarded r kind k addr d.length s then (3, s) else if kind = 5 then (2, s) else writeFile kind k addr d s

/-- A location with side effects (R479): RC locations, and every location of a marked region. -/
def sideLoc (g : Region) (addr len : Nat) : Bool :=
  rSideEffect g || (decide (rKind g ≤ 4) && decide (addr < 1024 ∧ 256 < addr + len))

/-- Bytes from far address `lo` on, of `n` wanted, before the first side-effect location and before the region's end; whether a
side-effect location cut them (R480). -/
def spanCut (g : Region) (lo n : Nat) : Nat × Bool :=
  let n := min n (rTarget g + rSize g - lo)
  let free := if rSideEffect g then 0 else if rKind g ≤ 4 ∧ lo < 1024 then 256 - lo else n
  (min n free, decide (free < n))

/-! ### Byte enables (R318, R479, R491) -/

/-- Byte `a` of a run is enabled: the enables of the first and of the last 4-byte unit. -/
def enabledAt (off len en a : Nat) : Bool :=
  let first := off / 4
  let last := (off + len - 1) / 4
  (a / 4 != first || Nat.testBit en (a % 4)) && (a / 4 != last || first == last || Nat.testBit en (4 + a % 4))

/-- The enables of a piece of a run. -/
def pieceBe (off len en o n : Nat) : Nat :=
  let bit (a : Nat) : Bool := !(decide (off ≤ a ∧ a < off + len)) || enabledAt off len en a
  ofBits ((List.range 4).map (fun k => bit (o / 4 * 4 + k)) ++ (List.range 4).map (fun k => bit ((o + n - 1) / 4 * 4 + k)))

/-- Consecutive runs of offsets: start and length. -/
def runsOf (l : List Nat) : List (Nat × Nat) :=
  l.foldl (fun acc n => match acc.reverse with
    | (o, k) :: t => if o + k = n then (((o, k + 1) :: t)).reverse else acc ++ [(n, 1)]
    | [] => [(n, 1)]) []

/-- Runs of enabled bytes, by their place in the run of `len` bytes at `off`. -/
def enabledRuns (off len en : Nat) : List (Nat × Nat) :=
  if en = 255 then (if len = 0 then [] else [(0, len)])
  else runsOf ((List.range len).filter (fun n => enabledAt off len en (off + n)))

/-- Read the enabled bytes at a far address; others read zero and are not touched. -/
def readRuns (rd : Nat → Nat → State → Bytes × State) (off len en : Nat) (s : State) : Bytes × State :=
  (enabledRuns off len en).foldl (fun a e =>
    let r := rd e.1 e.2 a.2
    (patch a.1 e.1 r.1, r.2)) (List.replicate len 0, s)

/-- Write the enabled bytes, run by run, up to the first that is refused. -/
def writeRuns (wr : Nat → Bytes → State → Nat × State) (off len en : Nat) (d : Bytes) (s : State) : Nat × State :=
  (enabledRuns off len en).foldl (fun a e => if a.1 ≠ 0 then a else wr e.1 (sub d e.1 e.2) a.2) (0, s)

/-- Bytes that are not enabled read as zero. -/
def maskData (off len en : Nat) (d : Bytes) : Bytes :=
  (enabledRuns off len en).foldl (fun a e => patch a e.1 (sub d e.1 e.2)) (List.replicate len 0)

/-! ### Transport (R487 to R492) -/

def transportOf (d : Nat) (s : State) : Transport := tgetD d {} s.stile.transports
def setTransport (d : Nat) (v : Transport) (s : State) : State := { s with stile.transports := tset d v s.stile.transports }

/-- Request body (R491). -/
def stileReqBody (q : StileReq) : Bytes :=
  le 1 q.src ++ le 1 (b2n q.write + 2 * b2n q.nonPosted + 4 * b2n q.semPage) ++ be 2 (q.id + 1024 * q.epoch) ++ be 4 q.off ++
  be 2 q.len ++ le 1 q.be ++ le 1 q.reqKind ++ be 2 q.reqId ++ le 1 q.span ++ le 1 0 ++ fit ((q.data.length + 3) / 4 * 4) q.data

/-- Completion body (R492). -/
def stileCplBody (m : StileCpl) : Bytes :=
  le 1 m.dev ++ le 1 (b2n m.present + 2 * b2n m.write + 4 * b2n m.cut) ++ be 2 (m.id + 1024 * m.ackEpoch) ++
  be 2 (m.ackId + 1024 * m.ackEpoch + 32768 * b2n m.ackValid) ++ le 1 m.status ++ le 1 0 ++ be 2 m.data.length ++ be 2 0 ++
  fit ((m.data.length + 3) / 4 * 4) m.data

/-- Send what may go: at most 8 requests are unacknowledged. -/
def sendWaiting (d : Nat) (s : State) : State :=
  let v := transportOf d s
  let n := 8 - v.unacked.length
  (v.waiting.take n).foldl (fun s q => sendControl d 6 (stileReqBody q) s)
    (setTransport d { v with unacked := v.unacked ++ v.waiting.take n, waiting := v.waiting.drop n } s)

/-- Queue a request towards a peer under its next ID. -/
def sendRequest (d : Nat) (q : StileReq) (s : State) : State :=
  let v := transportOf d s
  sendWaiting d (setTransport d { v with nextId := (v.nextId + 1) % 1024, waiting := v.waiting ++ [{ q with id := v.nextId, epoch := v.epoch }] } s)

/-! ### Far accesses -/

/-- Log entry of a far access that failed. A remote read that drew no answer may have met a location the serving member holds to be
side-effect (R475, R479). -/
def farEntry (a : FarAccess) (kind : Nat) : ErrEntry :=
  let unknown := if a.write then kind == 4 || kind == 9 else a.sideEffect || (a.remote && (kind == 4 || kind == 7 || kind == 9))
  { errEntry a.req kind a.region a.kind a.inst a.addr a.len a.write (a.write && a.mode != 0) unknown with
    txn := a.txn, epoch := a.epoch, transport := a.remote }

/-- The read piece of a request that is next in address order, when no piece before it still waits. -/
def nextPiece (g : Nat) (s : State) : Option FarAccess :=
  let mine := s.stile.far.filter (fun a => !a.write && a.group == g)
  mine.find? (fun a => mine.all (fun b => decide (a.off ≤ b.off)) && s.stile.near.all (fun q => q.write || q.group != g || decide (a.off ≤ q.off)))

/-- Read pieces of a request complete in address order (R474). -/
def flushGroup (g : Nat) : Nat → State → State
  | 0, s => s
  | n + 1, s =>
    match nextPiece g s with
    | some a => match a.result with
      | some (d, err) => flushGroup g n (emit (.completion a.req d err) { s with stile.far := s.stile.far.filter (fun x => x.id != a.id) })
      | none => s
    | none => s

/-- A far read has its answer. -/
def answerRead (a : FarAccess) (d : Bytes) (err : Bool) (s : State) : State :=
  let far := s.stile.far.map (fun x => if x.id = a.id then { x with result := some (d, err) } else x)
  flushGroup a.group far.length { s with stile.far := far }

/-- A failed read is answered as TIMEOUT_CA selects (R475). -/
def failedRead (len : Nat) (s : State) : Bytes × Bool := if s.stile.timeoutCa then ([], true) else (List.replicate len 0xFF, false)

def removeFar (a : FarAccess) (s : State) : State := { s with stile.far := s.stile.far.filter (fun x => x.id != a.id) }

/-- A far access fails under a kind of R485. -/
def failFar (a : FarAccess) (kind : Nat) (s : State) : State :=
  if a.write then logRaise 8 (farEntry a kind) (removeFar a s)
  else
    let s := logRaise 9 (farEntry a kind) s
    let r := failedRead a.len s
    answerRead a r.1 r.2 s

/-- A far access succeeds; data beyond the read are kept, unless the region was written meanwhile (R480). -/
def succeedFar (a : FarAccess) (d : Bytes) (s : State) : State :=
  if a.write then removeFar a s
  else
    let extra := d.drop a.len
    let s := if extra.isEmpty || a.noKeep then s else { s with stile.prefetch := tset a.region (a.addr + a.len, extra) s.stile.prefetch }
    answerRead a (fit a.len d) false s

/-! ### Taking near requests (R467, R471, R474, R477, R478) -/

/-- Where the semaphore page begins (R464). -/
def semPageBase : Nat := 0x3FFF000

/-- Target of a window offset: kind and instance, the semaphore page as kind 8; none outside every region. -/
def targetAt (off : Nat) (s : State) : Option (Nat × Nat) :=
  if semPageBase ≤ off then some (8, 0) else (regionAt off s).map (fun g => (rKind (regionOf g s), rInst (regionOf g s)))

/-- Targets a near request reaches: at most 256 bytes lie in one region or two. -/
def targetsOf (q : NearReq) (s : State) : List (Option (Nat × Nat)) := [targetAt q.off s, targetAt (q.off + q.len - 1) s]

def readsOut (s : State) : Nat := (s.stile.far.filter (fun a => !a.write && a.result.isNone)).length

/-- Posted writes received and not completed at the far side (R328, R471). -/
def postedOut (s : State) : Nat :=
  let posted (q : NearReq) : Bool := ((regionAt q.off s).map (fun g => rPosted (regionOf g s))).getD false
  min 255 ((s.stile.far.filter (fun a => a.write && a.mode == 0)).length +
    (s.stile.near.filter (fun q => q.write && !q.strict && posted q)).length)

/-- A STRICT write waits for its far completion. -/
def strictBusy (s : State) : Bool := s.stile.far.any (fun a => a.write && a.mode == 2)

/-- A near request may be taken, with those before it still waiting. -/
def mayTake (q : NearReq) (earlier : List NearReq) (s : State) : Bool :=
  let t := targetAt q.off s
  !strictBusy s && !earlier.any (fun e => e.write && e.strict) &&
  !earlier.any (fun e => e.req == q.req && (targetsOf e s).contains t && (e.write || !q.write)) &&
  !s.stile.far.any (fun a => a.write && a.mode == 1 && a.req == q.req && some (a.kind, a.inst) == t) &&
  (q.write || decide (readsOut s < 32))

/-- Prefetch span of a read, and whether it stopped at a side-effect location. -/
def spanOf (g : Region) (addr len : Nat) : Nat × Bool :=
  let want := (addr + len - 1) / 256 * 256 + 256 - (addr + len)
  if !rPrefetch g then (0, false) else spanCut g (addr + len) want

/-- A piece refused before it reaches the far side. -/
def refusePiece (q : NearReq) (len kind g : Nat) (s : State) : State :=
  let r := regionOf g s
  let tk := if g = 15 ∧ kind = 1 then 0 else rKind r
  let addr := if kind = 1 then q.off else rTarget r + (q.off - rBase r)
  let a : FarAccess := { id := s.stile.nextFar, req := q.req, write := q.write, mode := if q.strict then 2 else if kind = 1 ∨ !rPosted r then 1 else 0,
                         region := g, kind := tk, inst := if kind = 1 then 0 else rInst r, addr, len, data := [],
                         sideEffect := kind != 1 && sideLoc r addr len, group := q.group, off := q.off }
  failFar a kind { s with stile.far := s.stile.far ++ [a], stile.nextFar := s.stile.nextFar + 1 }

/-- Start a piece at a remote region (R487, R488). -/
def startRemote (a : FarAccess) (s : State) : State :=
  let d := a.inst
  if !reachable d s then failFar a 7 { s with stile.far := s.stile.far ++ [a] }
  else
    let v := transportOf d s
    let q : StileReq := { src := ownDev s, write := a.write, nonPosted := a.mode != 0, semPage := decide (0x3FFF000 ≤ a.addr), id := 0, epoch := 0,
                          off := a.addr, len := a.len, be := a.be, reqKind := reqKind a.req, reqId := reqId a.req, span := a.span, data := a.data }
    sendRequest d q { s with stile.far := s.stile.far ++ [{ a with txn := v.nextId, epoch := v.epoch, remote := true }] }

/-- Start a piece at a local target: its effect happens now, its completion arrives later. -/
def startLocal (a : FarAccess) (s : State) : State :=
  if a.write then
    let w := writeRuns (fun n d s => localWrite a.req a.kind a.inst (a.addr + n) d s) a.addr a.len a.be a.data s
    let s := dropKept a.kind a.inst a.addr a.len w.2
    if w.1 = 0 then { s with stile.far := s.stile.far ++ [a] } else failFar a w.1 { s with stile.far := s.stile.far ++ [a] }
  else if a.kind = 5 then { s with stile.far := s.stile.far ++ [a] }
  else
    let r := readRuns (fun n len s => localRead a.kind a.inst (a.addr + n) len s) a.addr a.len a.be s
    let x := if a.span = 0 then ([], r.2) else localRead a.kind a.inst (a.addr + a.len) a.span r.2
    { x.2 with stile.far := x.2.stile.far ++ [{ a with data := r.1 ++ x.1 }] }

/-- Kept data that answer a read whole. -/
def keptData (g addr len : Nat) (s : State) : Option Bytes :=
  match tget g s.stile.prefetch with
  | some (a, d) => if a ≤ addr ∧ addr + len ≤ a + d.length then some (sub d (addr - a) len) else none
  | none => none

/-- Take one piece of a near request in region `g`. -/
def takePiece (q : NearReq) (g len : Nat) (s : State) : State :=
  let r := regionOf g s
  let addr := rTarget r + (q.off - rBase r)
  let span := if q.write then (0, false) else spanOf r addr len
  let a : FarAccess := {
    id := s.stile.nextFar, req := q.req, write := q.write, mode := if q.strict then 2 else if rPosted r then 0 else 1, region := g, kind := rKind r
    inst := rInst r, addr, len, data := q.data.take len, sideEffect := sideLoc r addr len || decide (rKind r = 6 ∧ 0x3FFF000 ≤ addr)
    span := span.1, group := q.group, off := q.off, be := pieceBe q.off q.len q.be q.off len }
  let s := { s with stile.nextFar := s.stile.nextFar + 1 }
  let s := if span.2 then raise 12 g { s with stile.prefetchStops := s.stile.prefetchStops + 1 } else s
  match (if q.write then none else keptData g addr len s) with
  | some d => answerRead a (maskData addr len a.be d) false { s with stile.far := s.stile.far ++ [{ a with data := d }] }
  | none => if rKind r = 6 then startRemote a (if q.write then dropKept 6 (rInst r) addr len s else s) else startLocal a s

/-- Near requests without the first `len` bytes of the one at place `i`. -/
def cutNear (i len : Nat) (q : NearReq) (near : List NearReq) : List NearReq :=
  if q.len ≤ len then near.eraseIdx i
  else near.set i { q with off := q.off + len, len := q.len - len, data := q.data.drop len, be := pieceBe q.off q.len q.be (q.off + len) (q.len - len) }

/-- A write to the semaphore page: GIVE where its word's byte 0 is written (R464). -/
def writeSemPage (r : Requester) (o : Nat) (d : Bytes) (s : State) : State :=
  (List.range 32).foldl (fun s n =>
    let w := 0x80 + 4 * n
    if o ≤ w ∧ w < o + d.length ∧ flag d (w - o) 1 then semGive r n s else s) s

/-- Word of SEM_GIVE (R329). -/
def giveWord (n : Nat) (s : State) : Nat :=
  match tget n s.stile.sems with
  | some r => 1 + 4 * reqKind r + 65536 * reqId r
  | none => 0

/-- A read of the semaphore page: a SEM_TAKE acts when its byte 0 is included, reserved offsets read as zero. -/
def readSemPage (r : Requester) (o len : Nat) (s : State) : Bytes × State :=
  let d := (List.range 64).foldl (fun a w =>
    let lo := max o (4 * w)
    let hi := min (o + len) (4 * w + 4)
    if hi ≤ lo then a
    else if w < 32 then
      let t := if lo = 4 * w then semTake r w a.2 else (0, a.2)
      (a.1 ++ sub (le 4 t.1) (lo - 4 * w) (hi - lo), t.2)
    else (a.1 ++ sub (le 4 (giveWord (w - 32) a.2)) (lo - 4 * w) (hi - lo), a.2)) ([], s)
  (fit len d.1, d.2)

/-- Take what a near request asks of the semaphore page: it is performed at once. -/
def takeSem (q : NearReq) (s : State) : State :=
  let o := q.off - semPageBase
  if q.write then (writeRuns (fun n d s => (0, writeSemPage q.req (o + n) d s)) o q.len q.be q.data s).2
  else
    let d := readRuns (fun n len s => readSemPage q.req (o + n) len s) o q.len q.be s
    let a : FarAccess := { id := d.2.stile.nextFar, req := q.req, write := false, mode := 0, region := 15, kind := 0, inst := 0, addr := q.off
                           len := q.len, data := [], sideEffect := true, group := q.group, off := q.off }
    answerRead a d.1 false { d.2 with stile.far := d.2.stile.far ++ [a], stile.nextFar := d.2.stile.nextFar + 1 }

/-- Take the front piece of the near request at place `i`; what crosses the region's end stays in front. -/
def takeNear (i : Nat) (q : NearReq) (s : State) : State :=
  if semPageBase ≤ q.off then takeSem q { s with stile.near := s.stile.near.eraseIdx i }
  else match regionAt q.off s with
    | none =>
      let len := ((List.range q.len).find? (fun n => (targetAt (q.off + n) s).isSome)).getD q.len
      refusePiece q len 1 15 { s with stile.near := cutNear i len q s.stile.near }
    | some g =>
      let len := min q.len (rBase (regionOf g s) + rSize (regionOf g s) - q.off)
      takePiece q g len { s with stile.near := cutNear i len q s.stile.near }

/-- STRICT_IN_FORCE follows STRICT once no write received under the other setting is left (R472). -/
def settleStrict (s : State) : State :=
  if s.stile.near.any (fun q => q.write && q.strict != s.stile.strict) then s else { s with stile.strictInForce := s.stile.strict }

/-- Take near requests as long as one may be taken. -/
def pumpNear : Nat → State → State
  | 0, s => s
  | n + 1, s =>
    match s.stile.near.zipIdx.find? (fun e => mayTake e.1 (s.stile.near.take e.2) s) with
    | some e => pumpNear n (takeNear e.2 e.1 s)
    | none => settleStrict s

/-- More than the pieces near requests can be cut into. -/
def pumpFuel (s : State) : Nat := (s.stile.near.map (fun q => q.len + 1)).sum + 1

/-- A STRICT write has been received and its far completion is outstanding (R471). -/
def strictPending (s : State) : Bool := strictBusy s || s.stile.near.any (fun q => q.write && q.strict)

/-- Reads of SEM_TAKE held behind STRICT writes complete, in order (R471). -/
def releaseHeld (s : State) : State :=
  if strictPending s then s
  else s.stile.held.foldl (fun s e => let t := semTake e.1 e.2 s
                                      { t.2 with hostRead := le 4 t.1 }) { s with stile.held := [] }

def pump (s : State) : State := releaseHeld (pumpNear (pumpFuel s) s)

/-! ### STILE_WRITE and STILE_READ -/

/-- Pieces of at most 256 bytes of a run. -/
def chunks : Nat → Nat → Nat → List (Nat × Nat)
  | 0, _, _ => []
  | n + 1, o, len => if len = 0 then [] else (o, min 256 len) :: chunks n (o + 256) (len - 256)

/-- Near requests of a host access with its byte enables: pieces of at most 256 bytes under one group. -/
def nearPieces (r : Requester) (write : Bool) (a : NearAt) (len : Nat) (data : Bytes) (s : State) : List NearReq :=
  (chunks (len + 1) 0 len).map (fun e =>
    { req := r, write, off := a.off + e.1, len := e.2, data := sub data e.1 e.2, strict := s.stile.strict, group := s.stile.nextGroup
      be := pieceBe a.off len a.be (a.off + e.1) e.2 })

/-- Receive near requests and take what may be taken. -/
def receiveNear (l : List NearReq) (s : State) : State :=
  pump { s with stile.near := s.stile.near ++ l, stile.nextGroup := s.stile.nextGroup + 1 }

/-- STILE_WRITE. With 64 writes waiting the part withholds credits: nothing more is received (R478). -/
def execStileWrite (r : Requester) (off : NearAt) (data : Bytes) (s : State) : Result :=
  if 64 ≤ (s.stile.near.filter (·.write)).length then .next s
  else .next (receiveNear (nearPieces r true off data.length data s) s)

/-- STILE_READ. -/
def execStileRead (r : Requester) (off : NearAt) (len : Nat) (s : State) : Result := .next (receiveNear (nearPieces r false off len [] s) s)

/-! ### Completions -/

/-- A completion that finds no access is stale (R476). -/
def staleFar (id : Nat) (s : State) : State := raise 3 id { s with stile.staleCount := s.stile.staleCount + 1 }

/-- FAR_COMPLETION of a local access: a controller's data are those it gave when taken, flash data come with the command. -/
def execFarCompletion (id : Nat) (data : Bytes) (err : Nat) (s : State) : Result :=
  match s.stile.far.find? (fun a => a.id == id && !a.remote && a.result.isNone) with
  | none => .next (staleFar id s)
  | some a =>
    if err ≠ 0 then .next (pump (failFar a err s))
    else
      let d := fit (a.len + a.span) data
      .next (pump (succeedFar a (if a.kind = 5 then maskData a.addr a.len a.be d ++ d.drop a.len else a.data) s))

/-- Take a request off its transport: it is resent no more. -/
def dropRequest (d txn epoch : Nat) (s : State) : State :=
  let v := transportOf d s
  let keep (q : StileReq) : Bool := !(q.id == txn && q.epoch == epoch)
  setTransport d { v with unacked := v.unacked.filter keep, waiting := v.waiting.filter keep } s

/-- FAR_TIMEOUT (R473, R475). -/
def execFarTimeout (id : Nat) (s : State) : Result :=
  match s.stile.far.find? (fun a => a.id == id && a.result.isNone) with
  | none => .next s
  | some a => .next (pump (failFar a 4 (if a.remote then sendWaiting a.inst (dropRequest a.inst a.txn a.epoch s) else s)))

/-- PREFETCH_EXPIRY. -/
def execPrefetchExpiry (g : Nat) (s : State) : Result := .next { s with stile.prefetch := tdel g s.stile.prefetch }

/-! ### STILE_REQUEST: the serving side (R482, R489, R490) -/

/-- Remove the first control message of a type from those handed to the Steward. -/
def takeControl (type : Nat) (s : State) : State :=
  match s.stw.inbox.findIdx? (fun m => u8 m.1 0 == type) with
  | some i => freeChain (s.stw.inbox.getD i ([], 0)).2 { s with stw.inbox := s.stw.inbox.eraseIdx i }
  | none => s

/-- Both devices log a failed write of a member, with the far address it asked for (R473). -/
def logServed (q : StileReq) (kind : Nat) (s : State) : State :=
  let g := regionAt q.off s
  let r := (g.map (fun g => regionOf g s)).getD {}
  let addr := if g.isSome then rTarget r + (q.off - rBase r) else q.off
  let e := errEntry (.member q.src) kind (g.getD 15) (rKind r) (rInst r) addr q.len true q.nonPosted false
  logRaise 8 { e with txn := q.id, epoch := q.epoch, transport := true } s

/-- One piece of a member's request, in the semaphore page, inside one region or outside every one: status, data, cut flag
(R464, R467, R473, R490). -/
def performPiece (q : StileReq) (s : State) : Nat × Bytes × Bool × State :=
  let r := Requester.member q.src
  let refuse (k : Nat) (s : State) : Nat × Bytes × Bool × State := (k, List.replicate q.len 0, false, if q.write then logServed q k s else s)
  let o := q.off - semPageBase
  if q.semPage || decide (semPageBase ≤ q.off) then
    if q.write then (0, [], false, (writeRuns (fun n d s => (0, writeSemPage r (o + n) d s)) o q.len q.be q.data s).2)
    else
      let d := readRuns (fun n len s => readSemPage r (o + n) len s) o q.len q.be s
      (0, d.1, q.span != 0, d.2)
  else match regionAt q.off s with
  | none => refuse 1 s
  | some g =>
    let rg := regionOf g s
    let addr := rTarget rg + (q.off - rBase rg)
    if !rRemoteOk rg || rKind rg = 6 then refuse 8 s
    else if q.write then
      let w := writeRuns (fun n d s => localWrite r (rKind rg) (rInst rg) (addr + n) d s) addr q.len q.be q.data s
      let s := dropKept (rKind rg) (rInst rg) addr q.len w.2
      if w.1 = 0 then (0, [], false, s) else refuse w.1 s
    else
      let d := readRuns (fun n len s => localRead (rKind rg) (rInst rg) (addr + n) len s) addr q.len q.be s
      let span := spanCut rg (addr + q.len) q.span
      let x := if span.1 = 0 then ([], d.2) else localRead (rKind rg) (rInst rg) (addr + q.len) span.1 d.2
      (0, d.1 ++ x.1, span.2, x.2)

/-- One piece per region, in address order; the status is that of the first piece that fails (R467). -/
def performPieces (q : StileReq) : Nat → Nat → State → Nat × Bytes × Bool × State
  | 0, _, s => (0, [], false, s)
  | fuel + 1, done, s =>
    let off := q.off + done
    let left := q.len - done
    let len := match regionAt off s with
      | some g => min left (rBase (regionOf g s) + rSize (regionOf g s) - off)
      | none => if semPageBase ≤ off then left else ((List.range left).find? (fun n => (targetAt (off + n) s).isSome)).getD left
    let last := decide (left ≤ len)
    let p := performPiece { q with off, len, be := pieceBe q.off q.len q.be off len, data := sub q.data done len, span := if last then q.span else 0 } s
    if last then p
    else
      let r := performPieces q fuel (done + len) p.2.2.2
      (if p.1 ≠ 0 then p.1 else r.1, p.2.1 ++ r.2.1, r.2.2.1, r.2.2.2)

/-- What a request does on the serving device: status, data, cut flag. -/
def performRequest (q : StileReq) (s : State) : Nat × Bytes × Bool × State :=
  if s.field.join ≠ 2 then (7, [], false, if q.write then logServed q 7 s else s)
  else
    let p := performPieces q (q.len + 1) 0 s
    (p.1, if q.write || p.1 != 0 then [] else p.2.1, p.2.2.1, p.2.2.2)

/-- Answer with the acknowledgement of the last request taken in order. -/
def ackOf (d : Nat) (s : State) : StileCpl :=
  let v := transportOf d s
  { dev := ownDev s, present := false, write := false, cut := false, id := 0, ackId := (v.expect + 1023) % 1024,
    ackEpoch := v.peerEpoch.getD 0, ackValid := v.peerEpoch.isSome, status := 0, data := [] }

def sendCpl (d : Nat) (m : StileCpl) (s : State) : State := sendControl d 7 (stileCplBody m) s

/-- A request in order: performed, its completion kept among the last 8, answered. -/
def serveRequest (q : StileReq) (s : State) : State :=
  let r := performRequest q s
  let s := r.2.2.2
  let v := transportOf q.src s
  let s := setTransport q.src { v with expect := (q.id + 1) % 1024 } s
  let m := { ackOf q.src s with present := true, write := q.write, cut := r.2.2.1, id := q.id, status := r.1, data := r.2.1 }
  let v := transportOf q.src s
  sendCpl q.src m (setTransport q.src { v with kept := (m :: v.kept).take 8 } s)

/-- STILE_REQUEST. -/
def execStileRequest (q : StileReq) (s : State) : Result :=
  let s := takeControl 6 s
  let v := transportOf q.src s
  let d := (q.epoch + 16 - v.peerEpoch.getD q.epoch) % 16
  if v.peerEpoch.isNone ∨ (1 ≤ d ∧ d ≤ 8) then
    .next (serveRequest q (setTransport q.src { v with peerEpoch := some q.epoch, expect := q.id, kept := [] } s))
  else if d ≠ 0 then .next (staleFar q.id s)
  else if q.id = v.expect then .next (serveRequest q s)
  else match v.kept.find? (fun m => m.id == q.id) with
    | some m => .next (sendCpl q.src { m with ackId := (ackOf q.src s).ackId } s)
    | none => .next (sendCpl q.src (ackOf q.src s) s)

/-! ### STILE_COMPLETION and STILE_RESEND (R488, R489, R492) -/

/-- An acknowledgement frees every request up to its ID. -/
def takeAck (m : StileCpl) (s : State) : State :=
  let v := transportOf m.dev s
  if !m.ackValid || m.ackEpoch != v.epoch then s
  else
    let acked (q : StileReq) : Bool := decide ((m.ackId + 1024 - q.id) % 1024 < 512)
    sendWaiting m.dev (setTransport m.dev { v with unacked := v.unacked.filter (fun q => !acked q) } s)

/-- A completion that answers a request of this device. -/
def takeCpl (m : StileCpl) (s : State) : State :=
  match s.stile.far.find? (fun a => a.remote && a.inst == m.dev && a.txn == m.id && a.epoch == m.ackEpoch && a.result.isNone) with
  | none => staleFar m.id s
  | some a =>
    let s := if m.cut then raise 12 a.region { s with stile.prefetchStops := s.stile.prefetchStops + 1 } else s
    if m.status ≠ 0 then failFar a m.status s else succeedFar a m.data s

/-- STILE_COMPLETION. -/
def execStileCompletion (m : StileCpl) (s : State) : Result :=
  let s := takeAck m (takeControl 7 s)
  .next (pump (if m.present then takeCpl m s else s))

/-- STILE_RESEND: the oldest unacknowledged request and all later ones, in ID order. -/
def execStileResend (peer : Nat) (s : State) : Result :=
  .next ((transportOf peer s).unacked.foldl (fun s q => sendControl peer 6 (stileReqBody q) s) s)

/-- The epoch towards a peer rises: IDs restart, requests in flight fail with kind 9 (R488, R489). -/
def newEpoch (d : Nat) (s : State) : State :=
  let v := transportOf d s
  let s := setTransport d { v with nextId := 0, epoch := (v.epoch + 1) % 16, unacked := [], waiting := [] } s
  pump ((s.stile.far.filter (fun a => a.remote && a.inst == d && a.result.isNone)).foldl (fun s a => failFar a 9 s) s)

/-! ### Registers (R327, R329, R466, R472, R486) -/

/-- SEM_TAKE: held while a STRICT write waits, for a PCIe requester (R471). -/
def execSemTake (r : Requester) (n : Nat) (s : State) : Result :=
  if strictPending s && isPcie r then .next { s with stile.held := s.stile.held ++ [(r, n)] }
  else
    let t := semTake r n s
    .next { t.2 with hostRead := le 4 t.1 }

/-- SEM_GIVE with GIVE set. -/
def execSemGive (r : Requester) (n : Nat) (s : State) : Result := .next (semGive r n s)

/-- Value of STILE_CTRL. -/
def ctrlWord (s : State) : BitVec 32 :=
  BitVec.ofNat 32 (b2n s.stile.strict + 2 * b2n s.stile.timeoutCa + 65536 * s.stile.readTimeout)

/-- A write of STILE_CTRL: each change of STRICT raises event 13. -/
def writeStileCtrl (v : BitVec 32) (s : State) : State :=
  let strict := v.getLsbD 0
  let changed := strict != s.stile.strict
  let s := settleStrict { s with stile.strict := strict, stile.timeoutCa := v.getLsbD 1, stile.readTimeout := v.toNat / 65536 % 512 }
  if changed then raise 13 noObject s else s

/-- STILE_CTRL. -/
def execStileCtrl (v : BitVec 32) (s : State) : Result := .next (writeStileCtrl v s)

/-- Far read timeout in force, in 50 µs units (R327). -/
def readTimeout (s : State) : Nat := max 1 (min 400 s.stile.readTimeout)

/-- The instance names something present (R465, R466). -/
def instancePresent (kind inst : Nat) : Bool :=
  match kind with
  | 0 | 1 => decide (inst < 16)
  | 2 => decide (inst < 4)
  | 3 => decide (inst < 2)
  | 4 | 5 => inst == 0
  | 6 => true
  | _ => false

/-- ENABLE is refused (R466). -/
def enableRefused (g : Nat) (r : Region) (s : State) : Bool :=
  let hi := rBase r + rSize r
  decide (semPageBase < hi) || !instancePresent (rKind r) (rInst r) ||
  (List.range 16).any (fun h => h != g && rEnabled (regionOf h s) &&
    decide (rBase r < rBase (regionOf h s) + rSize (regionOf h s) ∧ rBase (regionOf h s) < hi)) ||
  (decide (rKind r ≤ 4) && (rTarget r != 0 || rSize r != 4096)) ||
  (rKind r == 5 && decide (s.fixed.flashSize < rTarget r + rSize r)) ||
  (rKind r == 6 && decide (0x4000000 < rTarget r + rSize r))

/-- Write one register of a region descriptor. -/
def writeRegion (g reg : Nat) (v : BitVec 32) (s : State) : State :=
  let r := regionOf g s
  let put (r : Region) : State := dropKeptOf (· == g) { s with stile.regions := tset g r s.stile.regions }
  match reg with
  | 0 => put { r with base := v &&& 0x03FFF000#32 }
  | 1 => put { r with size := v &&& 0x07FFF000#32 }
  | 2 => put { r with target := v &&& 0xFFFFF000#32 }
  | _ =>
    let c := v &&& 0x003F3FFF#32
    let r' := { r with ctrl := c }
    if !v.getLsbD 0 then put { r with ctrl := c ||| (r.ctrl &&& 0x80000000#32) }
    else if enableRefused g r' s then put { r with ctrl := (c &&& 0xFFFFFFFE#32) ||| 0x80000000#32 }
    else put r'

/-- STILE_REGION. -/
def execStileRegion (g reg : Nat) (v : BitVec 32) (s : State) : Result := .next (pump (writeRegion g reg v s))

/-- STILE_ERRLOG_VALID. -/
def execStileErrlogValid (e : Nat) (s : State) : Result := .next { s with stile.errlog := tdel e s.stile.errlog }

end Sys2Proof.Machine
end

