-- ==== Sys2Proof/Machine/Host.lean ====
section
/-! DEFINITION. The Hold window: its map for reads and writes, doorbells, events and their delivery, MSI-X, port statistics and
the xSPI target (R307, R310 to R332, R570). -/

namespace Sys2Proof.Machine

/-! ### Events (R324, R331, R570) -/

/-- Events pending and enabled. -/
def liveEvents (s : State) : BitVec 64 := s.ev.pending &&& s.ev.enable

/-- Act for each set bit, lowest first. -/
def forBits (v : BitVec 64) (f : Nat → State → State) (s : State) : State :=
  ((List.range 64).filter (fun n => v.getLsbD n)).foldl (fun s n => f n s) s

/-- The coalesced events as a bit map. -/
def coalescedMask : BitVec 64 := BitVec.ofNat 64 (ofBits ((List.range 64).map coalesced))

/-- W1C of EV_PENDING: a bit set again in the same cycle stays (R10); a bit that is cleared frees its PBA bit and, of a
coalesced event, opens the window (R331, R570). -/
def clearPending (v same : BitVec 64) (s : State) : State :=
  let hit := s.ev.pending &&& v &&& ~~~same
  { s with ev := Events.settle { s.ev with
      pending := s.ev.pending &&& ~~~hit, pba := s.ev.pba &&& ~~~hit
      window := s.ev.window ||| (hit &&& coalescedMask), inWindow := s.ev.inWindow &&& ~~~hit } }

/-- EV_PENDING. -/
def execEvPending (v same : BitVec 64) (s : State) : Result := .next (clearPending v same s)

/-- Write EV_ENABLE under byte enables spread over bits: every pending event whose enable bit it sets is delivered. -/
def writeEnable (v en : BitVec 64) (s : State) : State :=
  let old := s.ev.enable
  let new := (old &&& ~~~en) ||| (v &&& en)
  let s := { s with ev := Events.settle { s.ev with enable := new } }
  forBits (new &&& ~~~old &&& s.ev.pending) deliver s

/-- EV_ENABLE. -/
def execEvEnable (v en : BitVec 64) (s : State) : Result := .next (writeEnable v en s)

def writeRoute (v en : BitVec 64) (s : State) : State :=
  { s with ev := Events.settle { s.ev with route := (s.ev.route &&& ~~~en) ||| (v &&& en) } }

/-- COALESCING_WINDOW_END. -/
def execCoalescingWindowEnd (n : Nat) (s : State) : Result :=
  let b := bitAt 64 n
  if s.ev.window &&& b = 0 then .next s
  else
    let hit := s.ev.inWindow &&& b != 0
    let s := { s with ev.window := s.ev.window &&& ~~~b, ev.inWindow := s.ev.inWindow &&& ~~~b }
    .next (if hit then setPending n s else s)

/-! ### MSI-X (R331) -/

/-- Vectors that are neither masked nor under the function mask, with a PBA bit and their event pending, go out. -/
def flushPba (s : State) : State :=
  if !s.ev.msixEnable || s.ev.fnMask then s
  else
    let go := s.ev.pba &&& ~~~s.ev.mask &&& s.ev.pending
    forBits go (fun n s => emit (.msix n) s) { s with ev.pba := s.ev.pba &&& ~~~go }

/-- MSI_X_ENABLE: becoming enabled delivers every event pending and enabled, once. -/
def execMsiXEnable (en fnMask : Bool) (s : State) : Result :=
  let was := s.ev.msixEnable
  let s := { s with ev.msixEnable := en, ev.fnMask := fnMask }
  .next (flushPba (if en && !was then forBits (liveEvents s) sendVector { s with ev.pba := s.ev.pba &&& ~~~liveEvents s } else s))

/-- Set or clear the mask bit of a vector. -/
def maskVector (n : Nat) (m : Bool) (s : State) : State :=
  let b := bitAt 64 n
  flushPba { s with ev.mask := if m then s.ev.mask ||| b else s.ev.mask &&& ~~~b }

/-- MSI_X_UNMASK of a vector, or of the function. -/
def execMsiXUnmask (v : Option Nat) (s : State) : Result :=
  match v with
  | some n => .next (maskVector n false s)
  | none => .next (flushPba { s with ev.fnMask := false })

/-! ### Time snapshot (R157, R323) -/

/-- A CAPTURE write latches at once and cancels an armed capture. -/
def writeSnap (capture arm : Bool) (s : State) : State :=
  if capture then takeSnapshot { s with hold.snap.armPps := false }
  else if arm then { s with hold.snap.armPps := true, hold.snap.captured := false }
  else { s with hold.snap.armPps := false }

/-- CAPTURE, with or without ARM_PPS beside it. -/
def execCapture (arm : Bool) (s : State) : Result := .next (writeSnap true arm s)

/-- ARM_PPS. -/
def execArmPps (v : Bool) (s : State) : Result := .next (writeSnap false v s)

/-! ### Queues (R325, R326) -/

/-- A queue error: QERR with its cause, event 2. -/
def queueError (q cause : Nat) (s : State) : State := raise 2 q (setQueue q { queueOf q s with qerr := true, cause } s)

/-- The interface a queue's doorbell comes from. -/
def queueIface (q : Nat) : Iface := if q = 2 then .xspi else .pcie

/-- Load a command tail unless more than 16 slots would be outstanding. -/
def loadTail (q v : Nat) (s : State) : State :=
  let x := queueOf q s
  if 16 < (v % 32 + 32 - x.cmdHead) % 32 then queueError q 1 s else setQueue q { x with cmdTail := v % 32 } s

/-- Doorbell: loads the tail with SET_TAIL and notifies Eulyn; it ends a Fallow entry before step 6 and is qualifying traffic
(R325, R541, R547). -/
def doorbell (i : Iface) (q : Nat) (v : BitVec 32) (s : State) : State :=
  if q = 3 then queueError 3 4 s
  else if i ≠ queueIface q then queueError q 2 s
  else
    let s := if v.getLsbD 8 then loadTail q (v.toNat % 32) s else s
    qualify (cancelOnDoorbell (setQueue q { queueOf q s with notified := true } s))

/-- MQN_DOORBELL. -/
def execMqnDoorbell (i : Iface) (q : Nat) (v : BitVec 32) (s : State) : Result := .next (doorbell i q v s)

/-- Load a response head unless it lies beyond the response tail. -/
def loadRspHead (q v : Nat) (s : State) : State :=
  let x := queueOf q s
  if q = 3 then queueError 3 4 s
  else if (x.rspTail + 32 - x.rspHead) % 32 < (v % 32 + 32 - x.rspHead) % 32 then queueError q 3 s
  else setQueue q { x with rspHead := v % 32 } s

/-- MQN_RSP_HEAD. -/
def execMqnRspHead (_ : Iface) (q v : Nat) (s : State) : Result := .next (loadRspHead q v s)

/-! ### Ring doorbells (R330) -/

/-- Load a ring's tail; xSPI doorbells are ignored. A waiting item goes on when its need is met. -/
def loadRingTail (i : Iface) (ring v : Nat) (s : State) : State :=
  match i, tget ring s.rings with
  | .pcie, some x =>
    if ringSize x ≤ v then { s with rings := tset ring { x with error := true, cause := 1 } s.rings }
    else
      let x := { x with tail := v }
      let need := ((tget (512 + ring) s.drill.rowWire).map (fun c => ringNeed x c.out.length)).getD 0
      { s with rings := tset ring { x with waiting := x.waiting && (!dmaOk s || decide (ringFree x < need)) } s.rings }
  | _, _ => s

/-- RING_TAIL. -/
def execRingTail (i : Iface) (ring v : Nat) (s : State) : Result := .next (loadRingTail i ring v s)

/-! ### Reading the Hold window (R318 to R330) -/

/-- HOLD_ID (R320). -/
def holdId (s : State) : Nat := 0x1512 + 0x100000 * b2n s.fixed.variantE

/-- HOLD_STATUS (R321). -/
def holdStatus (s : State) : Nat :=
  s.hold.bootPhase + 16 * s.hold.image + 32 * b2n s.hold.secureBootFail + 64 * b2n (decide (banksInService s < 112)) +
  128 * b2n s.hold.gateOpened + 256 * s.alm.state.code + 4096 * (s.hold.straps % 4) + 16384 * b2n s.hold.xspi8d + 32768 * b2n s.hold.pcieUp

/-- HOLD_CAUSE (R322). -/
def holdCause (s : State) : Nat :=
  s.hold.resetKind + 16 * s.hold.fallowLeft + 256 * s.hold.firstWake + 65536 * s.hold.wakeSeen.toNat

/-- TIME_SNAP_CTRL. -/
def snapCtrl (s : State) : Nat := 2 * b2n s.hold.snap.armPps + 4 * b2n s.hold.snap.captured + 16 * s.hold.snap.state

/-- MQn_STATUS. -/
def queueStatus (q : Nat) (s : State) : Nat :=
  let x := queueOf q s
  b2n (served q s) + 2 * b2n ((x.cmdTail + 32 - x.cmdHead) % 32 == 16) + 4 * b2n (x.rspTail != x.rspHead) + 8 * b2n x.qerr + 16 * x.cause +
  256 * inFlight q s

/-- STILE_STATUS (R328). -/
def stileStatus (s : State) : Nat :=
  s.stile.errlog.length + 32 * b2n s.stile.logOverflow + 64 * b2n s.stile.strictInForce + 256 * readsOut s + 65536 * postedOut s

/-- Registers of an error log entry (R484). -/
def errWord (e : ErrEntry) (w : Nat) : Nat :=
  match w with
  | 0 => e.addr % 4294967296
  | 1 => e.addr / 4294967296
  | 2 => e.region + 16 * e.kindOfTarget + 128 * e.instance_ + 65536 * e.kind + 1048576 * b2n e.write + 2097152 * b2n e.nonPosted +
         4194304 * b2n e.unknown + 2147483648
  | 3 => e.reqId + 65536 * e.reqKind
  | 4 => e.txn + 1024 * e.epoch + 16384 * b2n e.transport + 65536 * e.length
  | 5 => e.seq
  | 6 => e.time % 4294967296
  | _ => e.time / 4294967296

/-- Second register of a ring doorbell. -/
def ringStatus (x : Ring) : Nat :=
  x.head + 16777216 * x.cause + 268435456 * b2n x.enabled + 536870912 * b2n x.waiting + 2147483648 * b2n x.error

/-- Register of queue `q` at a word of its block. -/
def queueWord (q w : Nat) (s : State) : Nat :=
  let x := queueOf q s
  match w with
  | 0 => x.cmdHead
  | 1 => x.cmdTail
  | 3 => x.rspHead
  | 4 => x.rspTail
  | 5 => queueStatus q s
  | _ => 0

/-- 32-bit word of the registers below 1000h; SEM_TAKE reads are separate. -/
def holdWord (w : Nat) (s : State) : Nat :=
  let o := 4 * w
  if o = 0x0 then holdId s else if o = 0x4 then holdStatus s else if o = 0x8 then holdCause s
  else if o = 0x10 then snapCtrl s else if o = 0x14 then s.hold.snap.sec / 4294967296 else if o = 0x18 then s.hold.snap.sec % 4294967296
  else if o = 0x1C then s.hold.snap.ns else if o = 0x20 then s.hold.snap.frac
  else if o = 0x40 then s.ev.pending.toNat % 4294967296 else if o = 0x44 then s.ev.pending.toNat / 4294967296
  else if o = 0x48 then s.ev.enable.toNat % 4294967296 else if o = 0x4C then s.ev.enable.toNat / 4294967296
  else if o = 0x50 then s.ev.route.toNat % 4294967296 else if o = 0x54 then s.ev.route.toNat / 4294967296
  else if 0x100 ≤ o ∧ o < 0x200 then queueWord ((o - 0x100) / 0x40) (w % 16) s
  else if o = 0x200 then (ctrlWord s).toNat else if o = 0x210 then stileStatus s
  else if 0x380 ≤ o ∧ o < 0x400 then giveWord ((o - 0x380) / 4) s
  else if 0x400 ≤ o ∧ o < 0x500 then
    let r := regionOf ((o - 0x400) / 16) s
    (match w % 4 with
      | 0 => r.base
      | 1 => r.size
      | 2 => r.target
      | _ => r.ctrl).toNat
  else if 0x500 ≤ o ∧ o < 0x700 then ((tget ((o - 0x500) / 32) s.stile.errlog).map (fun e => errWord e (w % 8))).getD 0
  else if 0x700 ≤ o ∧ o < 0x800 then
    let x := tgetD ((o - 0x700) / 8) {} s.rings
    if w % 2 = 0 then x.tail else ringStatus x
  else 0

/-- One byte of the window without side effects: registers, slots, MSI-X table with its mask bits, PBA. -/
def holdByte (a : Nat) (s : State) : Byte :=
  if a < 0x1000 then (BitVec.ofNat 32 (holdWord (a / 4) s) >>> (8 * (a % 4))).setWidth 8
  else if a < 0x3000 then mget a s.hold.slots
  else if 0x8000 ≤ a ∧ a < 0x8400 then
    (if a % 16 = 12 then (mget (a - 0x8000) s.ev.msixTable &&& 0xFE#8) ||| (if s.ev.mask.getLsbD ((a - 0x8000) / 16) then 1#8 else 0#8)
     else mget (a - 0x8000) s.ev.msixTable)
  else if 0x9000 ≤ a ∧ a < 0x9008 then (s.ev.pba >>> (8 * (a - 0x9000))).setWidth 8
  else 0

/-- Read bytes of the window; SEM_TAKE acts when its byte 0 is read. -/
def holdRead (r : Requester) (a : Nat) : Nat → State → Bytes × State
  | 0, s => ([], s)
  | n + 1, s =>
    if 0x300 ≤ a ∧ a < 0x380 then
      let t := if a % 4 = 0 then semTake r ((a - 0x300) / 4) s else (0, s)
      let rest := holdRead r (a + 1) n t.2
      (byte t.1 :: rest.1, rest.2)
    else
      let rest := holdRead r (a + 1) n s
      (holdByte a s :: rest.1, rest.2)

/-! ### Writing the Hold window (R318 to R330, R348) -/

/-- Bits of a 32-bit word that byte enables select. -/
def enMask (en : Nat) : BitVec 32 := BitVec.ofNat 32 (((List.range 4).map (fun i => if Nat.testBit en i then 255 * 2 ^ (8 * i) else 0)).sum)

/-- Requester of a window write through an interface; the PCIe requester ID is not given and taken as 0 (log 33). -/
def ifaceReq : Iface → Requester
  | .pcie => .pcie 0
  | .xspi => .xspi

/-- A write to a register of queue `q`. -/
def writeQueueReg (i : Iface) (q w : Nat) (m v : BitVec 32) (s : State) : State :=
  if q = 3 then queueError 3 4 s
  else match w with
    | 1 => if m.getLsbD 0 then loadTail q (v.toNat % 32) s else s
    | 2 => doorbell i q (v &&& m) s
    | 3 => if m.getLsbD 0 then loadRspHead q (v.toNat % 32) s else s
    | 5 => if (v &&& m).getLsbD 3 then setQueue q { queueOf q s with qerr := false } s else s
    | _ => s

/-- A 64-bit half: the word's mask and value at their place. -/
def half (hi : Bool) (v : BitVec 32) : BitVec 64 := if hi then (v.setWidth 64) <<< 32 else v.setWidth 64

/-- Write of one 32-bit word below 1000h with byte enables `m`. -/
def writeWord (i : Iface) (w : Nat) (m v : BitVec 32) (s : State) : State :=
  let o := 4 * w
  if o = 0x10 then (if m.getLsbD 0 then writeSnap (v.getLsbD 0) (v.getLsbD 1) s else s)
  else if o = 0x40 ∨ o = 0x44 then clearPending (half (o == 0x44) (v &&& m)) 0 s
  else if o = 0x48 ∨ o = 0x4C then writeEnable (half (o == 0x4C) v) (half (o == 0x4C) m) s
  else if o = 0x50 ∨ o = 0x54 then writeRoute (half (o == 0x54) v) (half (o == 0x54) m) s
  else if 0x100 ≤ o ∧ o < 0x200 then writeQueueReg i ((o - 0x100) / 0x40) (w % 16) m v s
  else if o = 0x200 then writeStileCtrl ((ctrlWord s &&& ~~~m) ||| (v &&& m)) s
  else if o = 0x210 then (if (v &&& m).getLsbD 5 then { s with stile.logOverflow := false } else s)
  else if 0x380 ≤ o ∧ o < 0x400 then (if (v &&& m).getLsbD 1 then semGive (ifaceReq i) ((o - 0x380) / 4) s else s)
  else if 0x400 ≤ o ∧ o < 0x500 then
    let g := (o - 0x400) / 16
    let old := BitVec.ofNat 32 (holdWord w s)
    pump (writeRegion g (w % 4) ((old &&& ~~~m) ||| (v &&& m)) s)
  else if 0x500 ≤ o ∧ o < 0x700 then
    (if w % 8 = 2 ∧ (v &&& m).getLsbD 31 then { s with stile.errlog := tdel ((o - 0x500) / 32) s.stile.errlog } else s)
  else if 0x700 ≤ o ∧ o < 0x800 then
    let n := (o - 0x700) / 8
    if w % 2 = 0 then
      (if m = 0 then s
       else loadRingTail i n (((BitVec.ofNat 32 (holdWord w s) &&& ~~~m) ||| (v &&& m)).toNat % 4096) s)
    else if (v &&& m).getLsbD 31 ∧ i = .pcie then
      (if (tget n s.rings).isSome then { s with rings := tmod n {} (fun x => { x with error := false }) s.rings } else s)
    else s
  else s

/-- A write to a slot: command slots of MQ0 to MQ2 take it, response slots ignore it, MQ3 refuses it (R326, R348). -/
def writeSlot (a : Nat) (d : Bytes) (s : State) : State :=
  let q := a / 0x400 % 4
  if q = 3 then queueError 3 4 s else if a < 0x2000 then { s with hold.slots := mwrite a d s.hold.slots } else s

/-- A write to the MSI-X table: the mask bit of an entry is bit 0 of its last word. -/
def writeMsix (a : Nat) (b : Byte) (s : State) : State :=
  let s := { s with ev.msixTable := mset a (if a % 16 = 12 then b &&& 0xFE#8 else b) s.ev.msixTable }
  if a % 16 = 12 then maskVector (a / 16) (b.getLsbD 0) s else s

/-- Write of the words a run of bytes covers below 1000h. -/
def writeRegs (i : Iface) (off : Nat) (d : Bytes) (s : State) : State :=
  if d.isEmpty then s
  else
    let first := off / 4
    let n := (off + d.length - 1) / 4 + 1 - first
    (List.range n).foldl (fun s j =>
      let w := first + j
      let hit (k : Nat) : Bool := decide (off ≤ 4 * w + k ∧ 4 * w + k < off + d.length)
      let en := ofBits ((List.range 4).map hit)
      let v := ((List.range 4).map (fun k => if hit k then u8 d (4 * w + k - off) * 2 ^ (8 * k) else 0)).sum
      writeWord i w (enMask en) (BitVec.ofNat 32 v) s) s

/-- Write bytes of the window, in address order, area by area. -/
def holdWrite (i : Iface) (off : Nat) (d : Bytes) (s : State) : State :=
  let part (lo hi : Nat) : Nat × Bytes := (max off lo, (d.drop (max off lo - off)).take (hi - max off lo))
  let regs := if off < 0x1000 then part 0 0x1000 else (0, [])
  let s := writeRegs i regs.1 regs.2 s
  let slots := if off < 0x3000 then part 0x1000 0x3000 else (0x1000, [])
  let s := (List.range 128).foldl (fun s k =>
    let a := 0x1000 + 0x40 * k
    let lo := max a slots.1
    let hi := min (a + 0x40) (slots.1 + slots.2.length)
    if lo < hi then writeSlot lo (sub slots.2 (lo - slots.1) (hi - lo)) s else s) s
  let tab := if off < 0x8400 then part 0x8000 0x8400 else (0x8000, [])
  tab.2.zipIdx.foldl (fun s e => writeMsix (tab.1 - 0x8000 + e.2) e.1 s) s

/-- HOLD_WINDOW_WRITE: only the enabled bytes are written (R318). -/
def execHoldWindowWrite (i : Iface) (off : NearAt) (data : Bytes) (s : State) : Result :=
  .next (writeRuns (fun n d s => (0, holdWrite i (off.off + n) d s)) off.off data.length off.be data s).2

/-! ### Port statistics in BAR2 (R311) -/

def portRc (p : Nat) : RcSet := {
  get := fun i s => tgetD (48 * p + i) 0 s.ports.counters
  clear := fun i s => { s with ports.counters := tdel (48 * p + i) s.ports.counters }
  shadow := fun i s => tgetD (48 * p + i) 0 s.hold.statShadow
  setShadow := fun i v s => { s with hold.statShadow := if v = 0 then tdel (48 * p + i) s.hold.statShadow else tset (48 * p + i) v s.hold.statShadow } }

/-- STATISTICS_READ; counters of absent ports read as zero. -/
def execStatisticsRead (p idx : Nat) (part : StatPart) (s : State) : Result :=
  let n := match part with
    | .all => (0, 8)
    | .low => (0, 4)
    | .high => (4, 4)
  if !portPresent p s then .next { s with hostRead := List.replicate n.2 0 }
  else
    let r := rcRead (portRc p) (8 * idx + n.1) n.2 s
    .next { r.2 with hostRead := r.1 }

/-! ### The xSPI target (R312 to R316) -/

/-- A protocol error of the xSPI target. -/
def xspiError (s : State) : State := raise 14 noObject s

/-- Bytes an xSPI read returns: the window, the staging buffer, zero elsewhere, byte by byte of the address (R314). -/
def xspiBytes (a len : Nat) (s : State) : Bytes × State :=
  let n := min len (0x10000 - a)
  let gap := min (len - n) (0x100000 - (a + n))
  let lo := a + n + gap
  let m := min (len - n - gap) (0x180000 - lo)
  let r := if n = 0 then ([], s) else holdRead .xspi a n s
  (r.1 ++ List.replicate gap 0 ++ mread (lo - 0x100000) m r.2.staging ++ List.replicate (len - n - gap - m) 0, r.2)

/-- In 8D-8D-8D mode a transfer starts even and carries an even number of bytes. -/
def evenRule (a len : Nat) (s : State) : Bool := !s.hold.xspi8d || (a % 2 == 0 && len % 2 == 0)

/-- The latency in time is too short for a read outside the guaranteed range. -/
def tooSlow (a clkPs : Nat) (s : State) : Bool :=
  decide (0x3000 ≤ a) && s.hold.xspi8d && !s.hold.xspiWait && decide (s.hold.xspiLatency * clkPs < 120000)

/-- XSPI_READ. -/
def execXspiRead (addr len clkPs : Nat) (broken : Bool) (s : State) : Result :=
  if broken || !evenRule addr len s || tooSlow addr clkPs s then .next { xspiError s with hostRead := List.replicate len 0 }
  else
    let r := xspiBytes addr len s
    .next { r.2 with hostRead := r.1 }

/-- Write over xSPI, area by area. -/
def xspiPut (a : Nat) (d : Bytes) (s : State) : State :=
  let w := d.take (0x10000 - a)
  let lo := max a 0x100000
  let b := (d.drop (lo - a)).take (0x180000 - lo)
  let s := if w.isEmpty then s else holdWrite .xspi a w s
  if b.isEmpty then s else { s with staging := mwrite (lo - 0x100000) b s.staging }

/-- XSPI_WRITE: the units before a broken one are performed. -/
def execXspiWrite (addr : Nat) (data : Bytes) (broken : Bool) (s : State) : Result :=
  if s.hold.xspi8d ∧ addr % 2 = 1 then .next (xspiError s)
  else
    let d := if s.hold.xspi8d then data.take (data.length / 2 * 2) else data
    let s' := xspiPut addr d s
    .next (if broken || d.length != data.length then xspiError s' else s')

/-- Target configuration register (R313). -/
def xspiConfig (s : State) : Nat := b2n s.hold.xspi8d + 256 * s.hold.xspiLatency + 65536 * b2n s.hold.xspiWait

/-- XSPI_READ_CONFIGURATION. -/
def execXspiReadConfiguration (s : State) : Result := .next { s with hostRead := le 4 (xspiConfig s) }

/-- XSPI_WRITE_CONFIGURATION. -/
def execXspiWriteConfiguration (v : BitVec 32) (s : State) : Result :=
  let l := v.toNat / 256 % 32
  let ok := within 8 l 20
  let s := { s with hold.xspi8d := v.getLsbD 0, hold.xspiWait := v.getLsbD 16, hold.xspiLatency := if ok then l else s.hold.xspiLatency }
  .next (if ok then s else xspiError s)

/-- XSPI_READ_IDENTIFICATION. -/
def execXspiReadIdentification (s : State) : Result := .next { s with hostRead := le 4 (holdId s) }

/-- XSPI_RESET: back to 1S-1S-1S and latency 8; the xSPI host's semaphores are freed (R312, R483). -/
def execXspiReset (s : State) : Result :=
  .next (freeSems (· == .xspi) { s with hold.xspi8d := false, hold.xspiLatency := 8 })

/-- XSPI_UNKNOWN_COMMAND: event 14; a write is discarded and a read returns zero bytes. DEDUCED (log 130): a configuration or
identification command broken inside its data unit, an 8D command whose second byte is not the first one inverted, and a reset not
right behind its enable come as this row. -/
def execXspiUnknownCommand (x : XspiUnknown) (s : State) : Result := .next { xspiError s with hostRead := List.replicate x.len 0 }

/-! ### The PCIe function (R305, R307, R310) -/

/-- Identity of the PCIe function. -/
structure PcieIdentity where
  vendor : Nat := 0x1F6C
  device : Nat := 0x0512
  revision : Nat := 0x10
  classCode : Nat := 0x028000
  subsystemVendor : Nat := 0x1F6C
  subsystem : Nat
  functions : Nat := 1
  headerType : Nat := 0
  interruptPin : Nat := 0
  vectors : Nat := 64
  maxPayload : Nat := 256
  maxRead : Nat := 512
  /-- Link: transfer rates in MT/s and widths. -/
  rates : List Nat := [2500, 5000, 8000]
  widths : List Nat := [1, 2]
  noSoftReset : Bool := true
  aspmL1 : Bool := true
  aspmL0s : Bool := false
  clockPm : Bool := true
  ecrc : Bool := true
  /-- Base address registers 0 to 5: size in bytes, 0 where the register reads as zero, and whether it is 64 bits wide (R306). -/
  bars : List (Nat × Bool) := [(0x10000, false), (0, false), (0x100000, false), (0, false), (0x4000000, true), (0, true)]
  serial : Nat
deriving DecidableEq, Repr

/-- What the function's configuration space presents (R305). -/
def pcieIdentity (s : State) : PcieIdentity := { subsystem := 1 + b2n s.fixed.variantE, serial := s.fixed.serial }

/-- POISONED_TLP: discarded and reported through Advanced Error Reporting. -/
def execPoisonedTlp (bar : Nat) (s : State) : Result :=
  if bar = 0 ∨ bar = 2 then .next { s with hold.aerReports := s.hold.aerReports + 1 } else .next s

/-- UNSUPPORTED_REQUEST. -/
def execUnsupportedRequest (addr : Nat) (s : State) : Result :=
  .next (emit (.unsupported addr) { s with hold.unsupported := s.hold.unsupported + 1 })

/-- Memory requests stop: a receive item in progress is discarded without write-back; the ring goes on with the next one (R342). -/
def pauseRings (s : State) : State :=
  (List.range 16).foldl (fun s n =>
    match tget (512 + n) s.drill.rowWire, tget n s.rings with
    | some c, some v => if v.waiting then s else ringDrop n c { s with drill.rowWire := tdel (512 + n) s.drill.rowWire }
    | _, _ => s) s

/-- After a change of what allows memory requests. -/
def afterDma (was : Bool) (s : State) : State := if was && !dmaOk s then pauseRings s else s

/-- PCIE_LINK_CHANGE: event 15; a link that goes down frees the PCIe requesters' semaphores (R483). -/
def execPcieLinkChange (up : Bool) (rate width : Nat) (s : State) : Result :=
  if s.hold.perst && up then .next s
  else if up = s.hold.pcieUp ∧ (!up ∨ (rate = s.hold.pcieRate ∧ width = s.hold.pcieWidth)) then .next s
  else
    let down := s.hold.pcieUp && !up
    let s := { s with hold.pcieUp := up, hold.pcieRate := if up then rate else 0, hold.pcieWidth := if up then width else 0 }
    let s := raise 15 noObject s
    .next (if down then pauseRings (freeSems isPcie s) else s)

/-- BUS_MASTER_ENABLE. -/
def execBusMasterEnable (v : Bool) (s : State) : Result := .next (afterDma (dmaOk s) { s with hold.busMaster := v })

/-- D3HOT: entry, or the return to D0, which keeps every ring and register. -/
def execD3hot (v : Bool) (s : State) : Result :=
  .next (afterDma (dmaOk s) { s with hold.d3hot := v, hold.pme := v && s.hold.pme })

end Sys2Proof.Machine
end

