-- ==== Sys2Proof/Machine/Rings.lean ====
section
/-! DEFINITION. Host DMA rings: creation, transmit items with segmentation, receive items, moderation, stops, and resets of the
PCIe function (R111, R300 to R302, R309, R310, R333 to R342, R448 to R450, R564, R567). -/

namespace Sys2Proof.Machine

/-! ### Rings -/

def ringAt (n : Nat) (s : State) : Ring := tgetD n {} s.rings
def setRing (n : Nat) (v : Ring) (s : State) : State := { s with rings := tset n v s.rings }
def ringBase (v : Ring) : Nat := u64 v.create 8

/-- Host address of the descriptor `i` places on. -/
def descAddr (v : Ring) (i : Nat) : Nat := ringBase v + 32 * ((v.head + i) % ringSize v)

/-- Settings of R341 and their defaults in the layout of R450. -/
def defaultModer : Img := fit 48 (le 2 0 ++ le 2 1 ++ le 4 0 ++ le 8 0 ++ le 8 0 ++ le 4 0 ++ le 4 200)
def moderOf (v : Ring) : Img := if v.moder.isEmpty then defaultModer else v.moder

/-- Write of the notification value. -/
def notify (n : Nat) (s : State) : State :=
  let m := moderOf (ringAt n s)
  if flag m 1 1 then emit (.hostWrite (u64 m 16) (sub m 24 4)) (setRing n { ringAt n s with unnotified := 0 } s) else s

/-- An item has completed: head write-back, then the notification when a threshold is met or the item ended in error (R309,
R341; log 32). -/
def ringCompleted (n : Nat) (err : Bool) (s : State) : State :=
  let v := { ringAt n s with unnotified := (ringAt n s).unnotified + 1 }
  let m := moderOf v
  let s := setRing n v s
  let s := if flag m 1 0 then emit (.hostWrite (u64 m 8) (le 4 v.head)) s else s
  if err || decide (u16 m 2 ≤ v.unnotified) || u32 m 4 == 0 then notify n s else s

/-- MODERATION_TIME_LIMIT. -/
def execModerationTimeLimit (ring : Nat) (s : State) : Result :=
  .next (if dmaOk s && decide (0 < (ringAt ring s).unnotified) then notify ring s else s)

/-! ### Stopping (R342) -/

/-- Every item queued for a receive ring is discarded and counted. -/
def emptyRing (n : Nat) (s : State) : State :=
  let s := match tget (512 + n) s.drill.rowWire with
    | some c => ringDrop n c { s with drill.rowWire := tdel (512 + n) s.drill.rowWire }
    | none => s
  (ringRows n s).foldl (fun s r => (tgetD r [] s.drill.rows).foldl (fun s c => ringDrop n c s) { s with drill.rows := tdel r s.drill.rows }) s

/-- A ring stops; an error sets ERROR with its cause. -/
def stopRing (n : Nat) (cause : Nat) (s : State) : State :=
  let s := if n < 16 then emptyRing n s else s
  let v := ringAt n s
  setRing n { v with enabled := false, waiting := false, error := v.error || cause != 0, cause := if cause = 0 then v.cause else cause } s

/-! ### 0D01h to 0D03h (R448 to R450) -/

/-- Ring number: receive 0 to 15, transmit 16 to 31. -/
def ringNo (c : Call) : Nat := u8 c.params 0

def isPow2 (n : Nat) : Bool := [64, 128, 256, 512, 1024, 2048, 4096, 8192, 16384].contains n

def checkRingCreate (c : Call) (_ : State) : Status :=
  let q := c.params
  if c.queue = 2 then .notPermitted
  else need (onlyBytes c [(0, 16)] && decide (u8 q 0 < 32) && fld q 1 (if u8 q 0 < 16 then 2 else 1) 6 == 0 && decide (u8 q 1 < 4) &&
    isPow2 (u16 q 2) && within 64 (u16 q 2) 4096 &&
    (if u8 q 0 < 16 then isPow2 (u32 q 4) && within 256 (u32 q 4) 16384 else u32 q 4 == 0) && u64 q 8 % 4096 == 0)

/-- The talker row bound to a transmit ring. -/
def ringTalker (n : Nat) (s : State) : Option Nat :=
  (s.bank.bind.find? (fun e => u8 e.2 0 == 6 && u8 e.2 2 == n % 16 && isTalker e.2)).map (·.1)

/-- 0D01h RING_CREATE. DESIGN CHOICE (log 142): a bulk role for a ring that a row is bound to is refused with ST_NOT_PERMITTED. -/
def actRingCreate (c : Call) (_ : Nat) (s : State) : Work :=
  let q := fit 48 c.params
  let n := ringNo c
  let taken (b : Nat) : Bool := decide (n < 16) && flag q 1 b && s.rings.any (fun e => decide (e.1 < 16) && flag e.2.create 1 b)
  if (tget n s.rings).isSome || taken 0 || taken 1 then { status := .busy, st := s }
  else if 16 ≤ n ∧ flag q 1 0 ∧ (ringTalker n s).isSome then { status := .notPermitted, st := s }
  else { st := setRing n { create := q, enabled := true } s }

def cmdRingCreate : Cmd := { opcode := 0x0D01, scope := .device, check := checkRingCreate, act := actRingCreate }

/-- 0D01h RING_CREATE. -/
def execRingCreate (c : Call) (s : State) : Result := .next (serve cmdRingCreate c s)

/-- An Enabled row is bound to the ring. -/
def ringInUse (n : Nat) (s : State) : Bool :=
  s.bank.enabled.any (fun r => u8 (bindOf r s) 0 == 6 && u8 (bindOf r s) 2 == n % 16 &&
    (if n < 16 then isListener (bindOf r s) else isTalker (bindOf r s)))

/-- A command in flight names a descriptor of the ring as its bulk area. -/
def ringNamed (n : Nat) (s : State) : Bool :=
  s.stw.ops.any (fun o => o.call.host && decide (0 < o.call.units) && 16 + o.call.at_ / 4096 % 16 == n)

def actRingDestroy (c : Call) (_ : Nat) (s : State) : Work :=
  let n := ringNo c
  if (tget n s.rings).isNone then { st := s }
  else if !(ringAt n s).error && (ringInUse n s || ringNamed n s) then { status := .busy, st := s }
  else
    let s := stopRing n 0 s
    { st := { s with rings := tdel n s.rings } }

def cmdRingDestroy : Cmd := {
  opcode := 0x0D02, scope := .device
  check := fun c _ => need (onlyBytes c [(0, 1)] && decide (ringNo c < 32))
  act := actRingDestroy }

/-- 0D02h RING_DESTROY. -/
def execRingDestroy (c : Call) (s : State) : Result := .next (serve cmdRingDestroy c s)

def checkModeration (c : Call) (_ : State) : Status :=
  let q := c.params
  need (onlyBytes c [(0, 32)] && decide (u8 q 0 < 32) && fld q 1 2 6 == 0 && within 1 (u16 q 2) 4096 && decide (u32 q 4 ≤ 10000) &&
    u64 q 8 % 4 == 0 && u64 q 16 % 4 == 0 && (decide (16 ≤ u8 q 0) || within 10 (u32 q 28) 100000))

/-- A ring that does not exist takes no settings. -/
def actModeration (c : Call) (_ : Nat) (s : State) : Work :=
  if (tget (ringNo c) s.rings).isNone then { status := .notPermitted, st := s }
  else { st := setRing (ringNo c) { ringAt (ringNo c) s with moder := fit 48 c.params } s }

def cmdRingModeration : Cmd := {
  opcode := 0x0D03, scope := .device, check := checkModeration, act := actModeration
  read := some (fun c _ s => if 32 ≤ u8 c.params 0 then none else some (patch (moderOf (ringAt (ringNo c) s)) 0 [byte (ringNo c)])) }

/-- 0D03h RING_MODERATION. -/
def execRingModeration (c : Call) (s : State) : Result := .next (serve cmdRingModeration c s)

/-! ### Segmentation (R300, R301) -/

/-- One's complement sum of 16-bit big-endian words. -/
def sum16 : Bytes → Nat
  | a :: b :: t => a.toNat * 256 + b.toNat + sum16 t
  | [a] => a.toNat * 256
  | [] => 0

/-- Internet checksum. -/
def inetChecksum (d : Bytes) : Nat :=
  let f (n : Nat) : Nat := n % 65536 + n / 65536
  65535 - f (f (f (sum16 d)))

/-- A header template: offset and length of the IP header, offset and length of the TCP or UDP header. -/
structure SegHead where
  ip : Nat
  v6 : Bool
  ipLen : Nat
  tcp : Bool
  l4 : Nat
  l4Len : Nat

/-- Parse a header of exactly `hl` bytes. -/
def segHead (h : Bytes) (hl : Nat) : Option SegHead :=
  let ip := frameBody h
  let et := frameEthertype h
  let ver := u8 h ip / 16
  let go (v6 : Bool) (ipLen proto : Nat) : Option SegHead :=
    let l4 := ip + ipLen
    let l4Len := if proto = 6 then 4 * (u8 h (l4 + 12) / 16) else 8
    if (proto = 6 ∧ 20 ≤ l4Len ∨ proto = 17) ∧ l4 + l4Len = hl then some ⟨ip, v6, ipLen, proto == 6, l4, l4Len⟩ else none
  if h.length < hl then none
  else if et = 0x0800 ∧ ver = 4 ∧ 5 ≤ u8 h ip % 16 then go false (4 * (u8 h ip % 16)) (u8 h (ip + 9))
  else if et = 0x86DD ∧ ver = 6 then go true 40 (u8 h (ip + 6))
  else none

/-- Pseudo-header of the transport checksum. -/
def pseudo (h : Bytes) (t : SegHead) (len : Nat) : Bytes :=
  let proto := if t.tcp then 6 else 17
  if t.v6 then sub h (t.ip + 8) 32 ++ be 4 len ++ [0, 0, 0, byte proto] else sub h (t.ip + 12) 8 ++ [0, byte proto] ++ be 2 len

/-- Segment `k` of `n` over its payload. -/
def segment (h : Bytes) (t : SegHead) (sz k n : Nat) (pay : Bytes) : Bytes :=
  let len := t.l4Len + pay.length
  let h := if t.v6 then patch h (t.ip + 4) (be 2 len)
    else
      let h := patch h (t.ip + 2) (be 2 (t.ipLen + len))
      let h := patch h (t.ip + 4) (be 2 ((ofBe (sub h (t.ip + 4) 2) + k) % 65536))
      let h := patch h (t.ip + 10) [0, 0]
      patch h (t.ip + 10) (be 2 (inetChecksum (sub h t.ip t.ipLen)))
  if t.tcp then
    let h := patch h (t.l4 + 4) (be 4 ((ofBe (sub h (t.l4 + 4) 4) + k * sz) % 4294967296))
    let fl := u8 h (t.l4 + 13)
    let fl := if k + 1 = n then fl else fl - fl % 2 - fl / 8 % 2 * 8
    let fl := if k = 0 then fl else fl % 128
    let h := patch (patch h (t.l4 + 13) [byte fl]) (t.l4 + 16) [0, 0]
    let ck := inetChecksum (pseudo h t len ++ sub h t.l4 t.l4Len ++ pay)
    patch h (t.l4 + 16) (be 2 ck) ++ pay
  else
    let old := ofBe (sub h (t.l4 + 6) 2)
    let h := patch (patch h (t.l4 + 4) (be 2 len)) (t.l4 + 6) [0, 0]
    let ck := inetChecksum (pseudo h t len ++ sub h t.l4 t.l4Len ++ pay)
    let ck := if !t.v6 && old == 0 then 0 else if ck = 0 then 65535 else ck
    patch h (t.l4 + 6) (be 2 ck) ++ pay

/-- The payload cut into pieces of `sz` bytes. -/
def segPieces (sz : Nat) : Nat → Bytes → List Bytes
  | 0, _ => []
  | n + 1, d => if d.isEmpty then [] else d.take sz :: segPieces sz n (d.drop sz)

/-- The segments of a request, or none when R300 refuses it. -/
def segments (hl sz : Nat) (d : Bytes) : Option (List Bytes) :=
  let pay := d.drop hl
  if within 14 hl 256 && within 64 sz 9000 && decide (hl + sz + 4 ≤ 9022) && decide (pay.length ≤ 262144) then
    (segHead (d.take hl) hl).map (fun t =>
      let l := segPieces sz (pay.length + 1) pay
      l.zipIdx.map (fun e => segment (d.take hl) t sz e.2 l.length e.1))
  else none

/-! ### Transmit items (R111, R339, R340) -/

/-- The bytes of a frame a host submits, padded to 60. -/
def padFrame (d : Bytes) : Bytes := d ++ List.replicate (60 - d.length) 0

/-- A host frame as a record: charged to Tell, VLAN 0 when untagged (log 35). -/
def hostFrameRec (stamp : Nat) (carried : Bool) (req : Option (Nat × Nat)) (d : Bytes) (s : State) : Rec :=
  let f := padFrame d
  { row := 0, bytes := f, stamp, cls := 2, grain := some {
      key := frameKey (if frameTagged f then frameVid f else 0) (ofBe (sub f 0 6)), stamp, row := 0, len := f.length, kind := 15
      ingress := 2, cls := 2, carried, stampReq := req, notLocked := s.alm.state != .locked } }

/-- A record enters the PCIe Plough's input buffer; one that does not fit is dropped, a sentence counted against its row with event
27 (R78). Whether it entered, and the state. -/
def hostEnter (r : Rec) (s : State) : Bool × State :=
  if bufferSize .pcie < bufferFill .pcie s + r.bytes.length then
    (false, if (r.grain.map (·.kind)) = some 15 then s else raise 27 r.row (countRow r.row 9 1 s))
  else (true, finishRec .pcie r s)

/-- Take every cell of the newest record of the PCIe Plough; false when it was refused. -/
def takeNewest : Nat → State → Bool × State
  | 0, s => (true, s)
  | n + 1, s =>
    let q := (ploughOf .pcie s).done
    match q.getLast? with
    | some r =>
      if !needsCell r || !cellsOpen .pcie s || q.dropLast.any needsCell then (true, s)
      else
        let s' := takeForDone .pcie (q.length - 1) r s
        if (ploughOf .pcie s').done.length < q.length then (false, s') else takeNewest n s'
    | none => (false, s)

/-- Issue the segments of a request: how many issued and dropped (R302). -/
def issueSegments (stamp : Nat) (carried : Bool) (req : Option (Nat × Nat)) (l : List Bytes) (s : State) : Nat × Nat × State :=
  l.zipIdx.foldl (fun a e =>
    let r := hostFrameRec stamp carried (if e.2 = 0 then req else none) e.1 a.2.2
    let i := hostEnter r a.2.2
    let t := if i.1 then takeNewest 64 i.2 else i
    if t.1 then (a.1 + 1, a.2.1, t.2) else (a.1, a.2.1 + 1, t.2)) (0, 0, s)

/-- A host sentence becomes a record of its row. DESIGN CHOICE (log 146): an item for a Disabled row is counted as a disabled drop and
completes without error. -/
def hostSentence (r key stamp : Nat) (carried : Bool) (d : Bytes) (s : State) : State :=
  if !s.bank.enabled.contains r then countRow r 11 1 s
  else
    let cls := ingressClass r s
    (hostEnter { row := r, bytes := d, stamp, cls, framing := framingOf r s, grain := some {
      key, stamp, row := r, len := d.length, kind := 7, ingress := cls, cls, carried, notLocked := s.alm.state != .locked } } s).2

/-- What an item ended with: status bits, segments issued and dropped, the state. -/
structure ItemEnd where
  bits : Nat := 0
  issued : Nat := 0
  dropped : Nat := 0
  st : State

/-- Act on an item whose first descriptor is `h`; `endIdx` is the index of its END descriptor. -/
def issueItem (n endIdx : Nat) (h : Bytes) (d : Bytes) (s : State) : ItemEnd :=
  let frame := flag h 28 0
  let row := fld h 26 0 9
  let stamp := if flag h 28 2 then u64 h 16 else stampOf (nowNs s)
  let carried := flag h 28 2
  let req := if flag h 28 3 then some (n, endIdx) else none
  if frame then
    if row ≠ 511 then { bits := 16, st := s }
    else if flag h 28 1 then
      match segments (u16 h 8) (u16 h 10) d with
      | none => { bits := 8, st := s }
      | some l =>
        let r := issueSegments stamp carried req l s
        { issued := r.1, dropped := r.2.1, st := r.2.2 }
    else if !within 14 d.length 9018 then { bits := 4, st := s }
    else { st := (hostEnter (hostFrameRec stamp carried req d s) s).2 }
  else match ringTalker n s with
    | none => { bits := 16, st := s }
    | some r =>
      if row ≠ 511 ∧ row ≠ r then { bits := 16, st := s }
      else if !within 1 d.length 2080 then { bits := 4, st := s }
      else { st := hostSentence r (u64 h 8) stamp carried d s }

/-- Reserved fields and lengths of a transmit descriptor; `first` tells the item's first one (R339). -/
def txDescOk (first : Bool) (h : Bytes) : Bool :=
  h.length == 32 && within 1 (u16 h 24) 16384 && u8 h 29 == 0 && u8 h 30 == 0 && u8 h 31 == 0 && fld h 28 5 3 == 0 &&
  (if first then fld h 26 9 7 == 0 && (!flag h 28 0 || (if flag h 28 1 then u32 h 12 == 0 else u64 h 8 == 0))
   else zeros h 8 16 && zeros h 26 2 && fld h 28 0 4 == 0)

/-- Write an item's descriptors back with DONE and its status bits. -/
def writeBackTx (v : Ring) (descs : List Bytes) (bits : Nat) (seg : Option (Nat × Nat)) (s : State) : State :=
  descs.zipIdx.foldl (fun s e =>
    let d := match seg with
      | some x => if e.2 + 1 = descs.length then patch e.1 12 (le 2 x.1 ++ le 2 x.2) else e.1
      | none => e.1
    emit (.hostWrite (descAddr v e.2) (patch d 31 [byte (1 + bits)])) s) s

/-- Event 37 for a parity failure in the PCIe core's buffers, the ring its object (R521, R573). -/
def bufferParity (ring : Nat) (dma : DmaOutcome) (s : State) : State := if dma = .parity then raiseD 37 5 ring { s with harrow.codeFaults := s.harrow.codeFaults + 1 } else s

/-- TRANSMIT_ITEM_FETCH: the item at the head of an enabled transmit ring, all of whose descriptors lie before the tail. -/
def execTransmitItemFetch (ring : Nat) (descs : List Bytes) (data : Bytes) (dma : DmaOutcome) (s : State) : Result :=
  match tget ring s.rings with
  | none => .next s
  | some v =>
    let n := descs.length
    let whole := decide (32 < n) || ((descs.getLast?.map (fun d => flag d 28 4)).getD false && !(descs.dropLast.any (fun d => flag d 28 4)))
    if ring < 16 ∨ flag v.create 1 0 ∨ !v.enabled ∨ !dmaOk s ∨ s.power.state ≠ .growing ∨ s.power.halted ∨ s.harrow.inReset ∨ n = 0 ∨ ringFree v < n ∨ !whole then
      .next s
    else
      let moved (s : State) : State := setRing ring { ringAt ring s with head := (v.head + n) % ringSize v } s
      if dma ≠ .clean then .next (ringCompleted ring true (stopRing ring 2 (moved (writeBackTx v descs 0x22 none (bufferParity ring dma s)))))
      else if 32 < n then .next (ringCompleted ring true (moved (writeBackTx v descs 0x40 none s)))
      else if !(descs.zipIdx.all (fun e => txDescOk (e.2 == 0) e.1)) then
        .next (ringCompleted ring true (stopRing ring 3 (moved (writeBackTx v descs 0x42 none s))))
      else
        let h := descs.headD []
        let seg := flag h 28 0 && flag h 28 1
        let r := issueItem ring ((v.head + n - 1) % ringSize v) h (data.take ((descs.map (fun d => u16 d 24)).sum)) s
        .next (ringCompleted ring (r.bits != 0) (moved (writeBackTx v descs r.bits (if seg then some (r.issued, r.dropped) else none) r.st)))

/-! ### Receive items (R334 to R338) -/

/-- Write-back of descriptor `i` of `n` of an item (R335). -/
def rxWriteBack (c : Copy) (unsync : Bool) (i n buf : Nat) : Bytes :=
  let g := c.grain
  le 8 g.key ++ le 8 g.stamp ++ le 2 (g.row % 512 + 512 * (g.origin % 64) + 32768 * b2n g.remote) ++ le 2 c.out.length ++ le 2 buf ++
  le 1 (g.kind + 16 * b2n g.csAbsent + 32 * b2n g.csBad + 64 * b2n g.void + 128 * b2n g.notLocked) ++
  le 1 (g.ingress + 4 * b2n g.tagPresent + 8 * b2n g.tagBad + 16 * b2n g.keyShort + 32 * b2n g.carried + 64 * b2n g.bareLf) ++
  le 1 (g.cls + 4 * b2n c.late + 8 * b2n c.flagTally + 16 * b2n c.rewritten + 32 * b2n unsync) ++ le 1 g.flaw ++ le 1 g.port ++
  le 1 c.reason ++ le 2 n ++ le 1 0 ++ le 1 (1 + 2 * b2n (i == 0) + 4 * b2n (i + 1 == n))

/-- A receive descriptor as the host must hand it over. -/
def rxDescOk (h : Bytes) : Bool := h.length == 32 && u8 h 0 % 8 == 0 && zeros h 8 24

/-- Buffer data first, then the descriptors (R309). -/
def writeItem (v : Ring) (c : Copy) (descs : List Bytes) (unsync : Bool) (s : State) : State :=
  let unit := ringUnit v
  let n := descs.length
  let s := descs.zipIdx.foldl (fun s e => hostPut (u64 e.1 0) ((c.out.drop (unit * e.2)).take unit) s) s
  (List.range n).foldl (fun s i =>
    emit (.hostWrite (descAddr v i) (rxWriteBack c unsync i n (min unit (c.out.length - unit * i)))) s) s

/-- The descriptors taken for an item that is discarded go back with DONE and ABORT, with no byte in their buffers (R342; log 32). -/
def abortItem (v : Ring) (c : Copy) (n : Nat) (s : State) : State :=
  (List.range n).foldl (fun s i => emit (.hostWrite (descAddr v i) (patch (rxWriteBack c c.countedUnsync i n 0) 31 [9])) s) s

/-- RECEIVE_ITEM_DELIVERY: the item at the ring's wire, once the ring holds the descriptors it needs. -/
def execReceiveItemDelivery (ring : Nat) (descs : List Bytes) (dma : DmaOutcome) (s : State) : Result :=
  match tget ring s.rings, tget (512 + ring) s.drill.rowWire with
  | some v, some c =>
    let n := ringNeed v c.out.length
    let ds := descs.take n
    if 16 ≤ ring ∨ !v.enabled ∨ !dmaOk s ∨ ringFree v < n ∨ ds.length < n then .next s
    else if dma = .error then
      .next (ringCompleted ring true (stopRing ring 2 (setRing ring { v with head := (v.head + n) % ringSize v } (abortItem v c n s))))
    else if !ds.all rxDescOk then
      .next (ringCompleted ring true (stopRing ring 3 (setRing ring { v with head := (v.head + n) % ringSize v } (abortItem v c n s))))
    else if dma = .parity then
      let s := setRing ring { v with head := (v.head + n) % ringSize v, waiting := false } (abortItem v c n (bufferParity ring dma s))
      .next (ringCompleted ring true (endCopy c { s with drill.rowWire := tdel (512 + ring) s.drill.rowWire }))
    else
      let b := if v.waiting then markStart c.row c true s else (c, s)
      let s := if c.reason = 3 then raise 19 c.grain.port (countPort c.grain.port 15 1 b.2) else b.2
      let s := writeItem v c ds b.1.countedUnsync s
      let s := setRing ring { v with head := (v.head + n) % ringSize v, waiting := false } s
      let s := sentCopy c.row c { s with drill.rowWire := tdel (512 + ring) s.drill.rowWire }
      .next (ringCompleted ring false s)
  | _, _ => .next s

/-- RING_WAIT_LIMIT: the waiting item goes, counted against the ring, event 7. -/
def execRingWaitLimit (ring : Nat) (s : State) : Result :=
  match tget ring s.rings, tget (512 + ring) s.drill.rowWire with
  | some v, some c =>
    if !v.waiting then .next s
    else
      let s := ringDrop ring c { s with drill.rowWire := tdel (512 + ring) s.drill.rowWire }
      .next (raise 7 ring (setRing ring { ringAt ring s with waiting := false } s))
  | _, _ => .next s

/-! ### Resets of the PCIe function (R310, R564, R567) -/

/-- Zero a range of a byte memory. -/
def mclear (lo hi : Nat) (m : Memory) : Memory := m.filter (fun e => !decide (lo ≤ e.1 ∧ e.1 < hi))

/-- HOLD_CAUSE of a reset that no wake started (R322; log 34). -/
def recordReset (kind : Nat) (s : State) : State :=
  { s with hold.resetKind := kind, hold.fallowLeft := 0, hold.firstWake := 0, hold.wakeSeen := 0 }

/-- Far reads of PCIe requesters are dropped without log entries. -/
def dropPcieReads (s : State) : State :=
  { s with stile.far := s.stile.far.filter (fun a => a.write || !isPcie a.req)
           stile.near := s.stile.near.filter (fun q => q.write || !isPcie q.req)
           stile.held := s.stile.held.filter (fun e => !isPcie e.1) }

/-- What a fundamental or hot reset clears (R564); the function's own control bits go with it (log 36). -/
def pcieReset (kind : Nat) (s : State) : State :=
  let s := recordReset kind s
  let s := { s with hold.queues := tdel 1 (tdel 0 s.hold.queues)
                    hold.slots := mclear 0x1000 0x1800 (mclear 0x2000 0x2800 s.hold.slots)
                    stw.ops := s.stw.ops.map (fun o => if o.call.queue < 2 then { o with mute := true } else o) }
  let s := { (tkeys s.rings).foldl (fun s n => stopRing n 0 s) s with rings := [] }
  let s := { s with ev := Events.settle { s.ev with msixTable := [], mask := BitVec.allOnes 64, pba := 0, msixEnable := false, fnMask := false
                                                    enable := s.ev.enable &&& s.ev.route }
                    hold.busMaster := false, hold.d3hot := false, hold.pme := false }
  pump (freeSems isPcie (dropPcieReads s))

/-- PCIE_FUNDAMENTAL_RESET, fundamental or hot. -/
def execPcieFundamentalReset (hot : Bool) (s : State) : Result := .next (pcieReset (if hot then 4 else 3) s)

/-- PERSTN: assertion holds the function in reset, its link down; the core is not reset. -/
def execPerstn (asserted : Bool) (s : State) : Result :=
  if asserted then
    let was := s.hold.pcieUp
    let s := { s with hold.perst := true, hold.pcieUp := false, hold.pcieRate := 0, hold.pcieWidth := 0 }
    .next (if was then pauseRings (freeSems isPcie (raise 15 noObject s)) else s)
  else .next { s with hold.perst := false }

end Sys2Proof.Machine
end

