-- ==== Sys2Proof/Machine/Fabric.lean ====
section
/-! DEFINITION. Fabric faults and the fabric-level reset: the rows FABRIC_CODE_FAULT, FABRIC_STALL, PERSISTENT_STALL and
FABRIC_RESET_DONE (R17 to R20, R213, R563, R565, R574 to R576). -/

namespace Sys2Proof.Machine

/-! ### Sites (R573) -/

/-- Detail code of event 36 and log object of a site. -/
def siteDetail : FabricSite → Nat × Nat
  | .lane n => (0, n)
  | .plough p => (1, p)
  | .drill c => (2, c)
  | .granary i => (3, i)
  | .steward => (4, 0)
  | .tally u => (5, u)

/-- A lane carries handshakes only while it is in service. -/
def siteActive (w : FabricSite) (s : State) : Bool :=
  match w with
  | .lane n => s.harrow.lanes.contains n
  | _ => true

/-! ### The token of a code fault (R18) -/

/-- Discard the first hand-off of a class that satisfies a test. -/
def dropHandoff (cls : Nat) (f : HandOff → Bool) (s : State) : State :=
  let l := handoffOf cls s
  match l.findIdx? f, l.find? f with
  | some i, some h => dropGrain h.grain { s with harrow.handoff := tset cls (l.eraseIdx i) s.harrow.handoff }
  | _, _ => s

/-- Records of a Plough that hold payload: their place among the completed ones, or after them the one in reception. -/
def payloadRecs (e : Nat × Plough) : List (Nat × Nat × Rec) :=
  ((e.2.done ++ e.2.cur.toList).zipIdx.filter (fun x => !x.1.skip && !x.1.bytes.isEmpty)).map (fun x => (e.1, x.2, x.1))

/-- A record lost a token: it issues no grain. A completed one is freed at the front of its queue, one in reception now. -/
def spoilRec (x : Nat × Nat × Rec) (s : State) : State :=
  let v := tgetD x.1 {} s.ploughs
  let r := x.2.2
  if x.2.1 < v.done.length then
    { s with ploughs := tset x.1 { v with done := v.done.set x.2.1 { r with grain := none, bytes := r.bytes.take r.written, inFifo := false } } s.ploughs }
  else freeRec r { s with ploughs := tset x.1 { v with cur := remains r } s.ploughs }

/-- Discard a copy that waits on a row. -/
def dropCopy (c : Copy) (s : State) : State := endCopy c { s with drill.rows := tmod c.row [] (fun q => q.erase c) s.drill.rows }

/-- Copies that wait on rows and ports, not yet read out. -/
def unread (s : State) : List Copy := ((s.drill.rows.map (·.2)).flatten ++ (s.drill.ports.map (·.2)).flatten).filter (fun c => c.out.isEmpty)

/-- Discard a copy wherever it waits. -/
def dropUnread (c : Copy) (s : State) : State :=
  endCopy c { s with drill.rows := s.drill.rows.map (fun e => (e.1, e.2.erase c))
                     drill.ports := s.drill.ports.map (fun e => (e.1, e.2.erase c)) }

/-- The grain on a Tally unit's channel: one handed off under the unit, a copy that is to pass it, or the record in a Plough that
its row's verify looks at. -/
def dropTally (u : Nat) (s : State) : State :=
  let names (n : Nat) : Bool := n / 32 % 2 == 1 && n % 32 == u
  let i := tgetD u [] s.bank.tallies
  let r := fld i 2 0 9
  if (tget u s.bank.tallies).isNone || flag i 1 0 then
    match (List.range 4).find? (fun c => (handoffOf c s).any (fun h => names h.tally)) with
    | some c => dropHandoff c (fun h => names h.tally) s
    | none => match (unread s).find? (fun c => names c.tally) with
      | some c => dropUnread c s
      | none => s
  else match (tgetD r [] s.drill.rows).head?, (unread s).find? (fun c => c.row == r) with
    | some c, _ => dropCopy c s
    | none, some c => dropUnread c s
    | none, none => match ((s.ploughs.map payloadRecs).flatten).find? (fun x => x.2.2.row == r) with
      | some x => spoilRec x s
      | none => s

/-- A token on the Granary ports of an island: a write belongs to a record of one of its Ploughs, left free which, and that record
is not issued; a read of the Drill belongs to a copy, left free which, and that copy is discarded (log 57). -/
def dropGranary (i : Nat) (s : State) : State :=
  if i = drillIsland then
    let l := unread s
    match l[pick s % max 1 l.length]? with
    | some c => dropUnread c (picked s)
    | none => picked s
  else
    let l := ((s.ploughs.filter (fun e => islandOf e.1 == i)).map payloadRecs).flatten
    match l[pick s % max 1 l.length]? with
    | some x => spoilRec x (picked s)
    | none => picked s

/-- The token of a site is discarded and its grain not forwarded. -/
def dropToken (w : FabricSite) (s : State) : State :=
  match w with
  | .lane _ => dropInLane false s
  | .plough k => dropCrossing k s
  | .drill c => dropHandoff c (fun _ => true) s
  | .granary i => dropGranary i s
  | .steward => { s with harrow.stewFifo := s.harrow.stewFifo - 1 }
  | .tally u => dropTally u s

/-- A lane fault isolates the lane (R574). -/
def isolate (w : FabricSite) (s : State) : State :=
  match w with
  | .lane n => laneFails n s
  | _ => s

/-- FABRIC_CODE_FAULT (R18, R573, R574). -/
def execFabricCodeFault (w : FabricSite) (s : State) : Result :=
  if !siteActive w s then .next s
  else
    let d := siteDetail w
    let s := raiseD 37 (if d.1 = 0 then 0 else 1) d.2 { s with harrow.codeFaults := s.harrow.codeFaults + 1 }
    .next (isolate w (dropToken w s))

/-- FABRIC_STALL (R19, R20, R573, R574): a lane loses what it carries; a channel outside the lanes stays stalled. -/
def execFabricStall (w : FabricSite) (s : State) : Result :=
  if !siteActive w s || s.harrow.stalled.contains w then .next s
  else
    let d := siteDetail w
    let s := raiseD 36 d.1 d.2 { s with harrow.stalls := s.harrow.stalls + 1 }
    .next (match w with
      | .lane n => laneFails n (dropInLane true s)
      | _ => { s with harrow.stalled := s.harrow.stalled ++ [w] })

/-! ### The fabric-level reset (R213, R563, R565) -/

/-- Every copy in the Drill. -/
def allCopies (s : State) : List Copy :=
  (s.drill.rows.map (·.2)).flatten ++ s.drill.rowWire.map (·.2) ++ (s.drill.ports.map (·.2)).flatten ++
  s.drill.portWire.map (·.2) ++ s.drill.portHeld.map (·.2)

/-- Nothing waits and nothing is on a wire: Drill, hand-offs, Ploughs and cells empty; discarded copies and the grains of open
Sheafs counted against their rows as dropped on row disable. -/
def clearTraffic (s : State) : State :=
  let s := (allCopies s).foldl (fun s c => countCopy 22 c s) s
  let s := (s.drill.sheafs.map (fun e => e.2.rows)).flatten.foldl (fun s r => countRow r 22 1 s) s
  { s with
    drill := { furrows := s.drill.furrows, credit := s.drill.credit, creditAt := s.drill.creditAt }
    ploughs := [], harrow.handoff := [], harrow.portFifo := [], harrow.readFifo := 0, gran.cells := []
    gran.freePoison := poisonOf (tkeys s.gran.cells) s ++ s.gran.freePoison
    buses.can := s.buses.can.map (fun e => (e.1, { e.2 with onBus := false, retry := false }))
    buses.uart := s.buses.uart.map (fun e => (e.1, { e.2 with sending := false, de := false })) }

/-- Every Team starts Vacant with the settings of the standing bank, every route's Thinning afresh (R153, R563). -/
def restartTeams (s : State) : State :=
  { s with harrow.teams := s.bank.teams.map (fun e => (e.1, freshTeam e.2))
           harrow.routes := s.harrow.routes.map (fun e => (e.1, { e.2 with count := 0, last := none })) }

/-- A fabric-level reset begins: reset kind 5, intake halted, all traffic discarded. -/
def beginFabricReset (s : State) : State :=
  { restartTeams (clearTraffic (raiseSession (recordReset 5 s))) with harrow.inReset := true }

/-- PERSISTENT_STALL (R576): at most 3 resets in any hour, made by Eulyn. -/
def execPersistentStall (w : FabricSite) (s : State) : Result :=
  if !s.harrow.stalled.contains w || !s.stw.up then .next s
  else
    let recent := s.harrow.fabricResets.filter (fun t => decide (s.power.upNs < t + 3600000000000))
    if recent.length < 3 then .next (beginFabricReset { s with harrow.fabricResets := s.power.upNs :: recent })
    else .next (raiseD 63 3 noObject s)

/-- Lanes after the restart test: the failed ones isolated, the spare in for one of them (R20, R575). -/
def setLanes (failed : List Nat) (s : State) : State :=
  let bad := (List.range 5).filter failed.contains
  let good := (List.range 4).filter (fun n => !failed.contains n)
  let spare := decide (good.length < 4) && !failed.contains 4
  let s := { s with harrow.lanes := if spare then good ++ [4] else good, harrow.isolated := bad, harrow.laneWait := [] }
  (List.range (4 - good.length - b2n spare)).foldl (fun s _ => raiseD 63 2 noObject s) s

/-- FABRIC_RESET_DONE: intake restarts and the commands that asked for the reset end (R462, R565). -/
def execFabricResetDone (failedLanes : List Nat) (s : State) : Result :=
  if !s.harrow.inReset then .next s
  else
    let s := setLanes failedLanes { s with harrow.inReset := false, harrow.stalled := [], harrow.stewFifo := 0 }
    .next ((s.stw.ops.filter (fun o => o.body == .fabricReset)).foldl (fun s o => endOp o {} s) s)

end Sys2Proof.Machine
end

