-- ==== Sys2Proof/Machine/Field.lean ====
section
/-! DEFINITION. Membership of the Field: hails, the roster, join states, conflicts, leaving (R68 to R74, R213, R217, R385,
R386, R483, R488). -/

namespace Sys2Proof.Machine

/-! ### The roster -/

/-- Put or replace a roster entry; a change raises the roster version (R219). -/
def putRoster (d : Nat) (m : Member) (s : State) : State :=
  let old := tget d s.field.roster
  let changed := old.map (fun x => (x.serial, x.reachable, x.joining)) != some (m.serial, m.reachable, m.joining)
  { s with field.roster := tset d m s.field.roster
           field.rosterVer := (s.field.rosterVer + b2n changed) % 4294967296 }

def dropRoster (d : Nat) (s : State) : State :=
  if (tget d s.field.roster).isNone then s
  else { s with field.roster := tdel d s.field.roster, field.rosterVer := (s.field.rosterVer + 1) % 4294967296 }

/-- Semaphores held by a member. -/
def freeMember (d : Nat) (s : State) : State := freeSems (fun o => o == .member d) s

/-- Discard the open Sheafs to every destination. -/
def discardAllSheafs (s : State) : State :=
  (s.drill.sheafs.map (fun e => e.1 / 4)).foldl (fun s d => discardSheafs d s) s

/-- What is kept of a device goes: its Sheaf series and session, its answers and the parts of its messages (R213, R369). -/
def forgetDevice (d : Nat) (s : State) : State :=
  { s with field.rx := tdel d s.field.rx, stw.answers := s.stw.answers.filter (fun a => a.dev != d)
           stw.segments := s.stw.segments.filter (fun x => x.dev != d), stw.answerSegs := s.stw.answerSegs.filter (fun x => x.dev != d) }

/-- A device ID is held by another device than before: sub-walks, atomic commands and Stile transactions to the former one end,
nothing of it is kept, its semaphores are freed (R73, R213, R483, R488). -/
def newDevice (d : Nat) (s : State) : State :=
  let s := { s with stw.ops := s.stw.ops.map (fun o => failMember d s (failAwait (some d) false o)) }
  let l := s.stw.decisions.map (fun x => (x.1, x.2.filter (· != d)))
  freeMember d (newEpoch d (forgetDevice d { s with stw.decisions := l.filter (fun x => !x.2.isEmpty) }))

/-! ### Join states (R70, R71) -/

/-- End the operation of FIELD_JOIN with a status. -/
def endJoin (st : Status) (s : State) : State :=
  match s.stw.ops.find? (fun o => o.body == .fieldJoin) with
  | some o => endOp o { status := st, inline := joinResult s } s
  | none => s

/-- Object of event 23 for a Field conflict (R572). -/
def conflictObject : Nat := 0xFFFE

/-- Enter Conflict: 1 ID claimed, 2 Field full. No Sheaf is forwarded any more; the open ones go, and the session with them
(R71, R213). -/
def enterConflict (reason : Nat) (s : State) : State :=
  let s := raiseSession (discardAllSheafs { s with field.join := 3, field.reason := reason })
  endJoin (if reason = 2 then .noResource else .busy) (raise 23 conflictObject s)

/-- Why a device that loses its ID enters Conflict: with every other ID claimed as well, the Field is full. -/
def conflictReason (s : State) : Nat := if 63 ≤ s.field.roster.length then 2 else 1

/-- A hail under this device's own ID: the lower serial keeps it. -/
def contest (h : HailMsg) (s : State) : State :=
  if s.fixed.serial ≤ h.serial then s else enterConflict (conflictReason s) s

/-- Serial a device ID was last seen with, in the roster or before it left. -/
def knownSerial (d : Nat) (s : State) : Option Nat := ((tget d s.field.roster).map (·.serial)).or (tget d s.field.gone)

/-- A hail under another ID: the roster entry, a new device when the serial differs. -/
def acceptHail (h : HailMsg) (s : State) : State :=
  let m : Member := { serial := h.serial, reachable := true, roster := h.roster, port := h.port, addr := h.addr, joining := h.join = 0 }
  let s := match knownSerial h.src s with
    | some x => if x = h.serial then s else newDevice h.src s
    | none => s
  putRoster h.src m { s with field.gone := tdel h.src s.field.gone }

/-- A hail of this Field taken on a hail port while Joining or Member; a device in Conflict claims no ID (R69, R71, R385). -/
def takeHail (h : HailMsg) (s : State) : State :=
  if !(hailPorts s).contains h.port then s
  else if s.field.join = 0 ∨ s.field.join = 3 ∨ h.fieldId ≠ s.field.id ∨ 2 ≤ h.join ∨ 63 < h.src ∨ h.serial = s.fixed.serial then s
  else if h.src = s.field.dev then contest h s
  else acceptHail h s

/-- HAIL. -/
def execHail (h : HailMsg) (s : State) : Result := .next (takeHail h (takeControl 1 s))

/-- The sender of a leave hail goes from the roster (R74, R483). -/
def takeLeave (h : HailMsg) (s : State) : State :=
  match tget h.src s.field.roster with
  | some m =>
    if m.serial = h.serial && h.fieldId = s.field.id && (hailPorts s).contains h.port then
      forgetDevice h.src (freeMember h.src (discardSheafs h.src
        { dropRoster h.src s with field.gone := tset h.src m.serial s.field.gone }))
    else s
  | none => s

/-- LEAVE_HAIL. -/
def execLeaveHail (h : HailMsg) (s : State) : Result := .next (takeLeave h (takeControl 2 s))

/-- HAIL_INTERVAL: Joining and Member devices hail (R69 to R71). -/
def execHailInterval (s : State) : Result := .next (if s.field.join = 1 ∨ s.field.join = 2 then sendHail 1 s else s)

/-- The lowest device ID no hail claimed (R70). -/
def freeId (s : State) : Option Nat := firstBelow 64 (fun d => (tget d s.field.roster).isNone)

/-- A Joining device becomes Member. -/
def becomeMember (d : Nat) (s : State) : State :=
  endJoin .ok { s with field.join := 2, field.dev := d, field.reason := 0, field.rosterVer := (s.field.rosterVer + 1) % 4294967296 }

/-- JOINING_COMPLETE: three hail intervals have passed without conflict. -/
def execJoiningComplete (s : State) : Result :=
  .next (if s.field.join ≠ 1 then s
    else if s.field.dev ≠ 255 then becomeMember s.field.dev s
    else match freeId s with
      | some d => becomeMember d s
      | none => enterConflict 2 s)

/-- Reads in flight to a member that became unreachable fail with kind 7 (R475). -/
def endReads (d : Nat) (s : State) : State :=
  pump ((s.stile.far.filter (fun a => a.remote && a.inst == d && !a.write && a.result.isNone)).foldl
    (fun s a => failFar a 7 (sendWaiting d (dropRequest d a.txn a.epoch s))) s)

/-- A silent member is marked unreachable (R72, R217, R475, R483). -/
def loseMember (d : Nat) (s : State) : State :=
  match tget d s.field.roster with
  | some m => endReads d (freeMember d (discardSheafs d (putRoster d { m with reachable := false } s)))
  | none => s

/-- MEMBER_UNREACHABLE. -/
def execMemberUnreachable (d : Nat) (s : State) : Result := .next (loseMember d s)

/-! ### 0106h FIELD_LEAVE -/

/-- Stile transactions to other members end with kind 7 (R386, R485). -/
def endRemote (s : State) : State :=
  let clear (e : Nat × Transport) : Nat × Transport := (e.1, { e.2 with unacked := [], waiting := [] })
  let s := { s with stile.transports := s.stile.transports.map clear }
  pump ((s.stile.far.filter (fun a => a.remote && a.result.isNone)).foldl (fun s a => failFar a 7 s) s)

/-- Leave the Field (R74, R386): a leave hail, unless a device in Conflict no longer hails. -/
def leaveField (s : State) : State :=
  let s := if s.field.join = 3 then s else sendHail 2 s
  let s := raiseSession (discardAllSheafs { s with stw.ops := s.stw.ops.map (failAwait none false) })
  endRemote { s with field.join := 0, field.id := 0, field.dev := 255, field.reason := 0, field.rejoin := false,
                     field.roster := [], field.gone := [], field.rx := [], fixed.fieldImg := none }

/-- A join still in progress ends without membership. -/
def actFieldLeave (_ : Call) (_ : Nat) (s : State) : Work :=
  if s.field.join = 0 then { status := .notPermitted, st := s }
  else if atomicAcross s then { status := .busy, st := s }
  else { st := endJoin .cancelled (leaveField s) }

def cmdFieldLeave : Cmd := {
  opcode := 0x0106, scope := .field
  check := fun c _ => need (onlyBytes c [])
  act := actFieldLeave }

/-- 0106h FIELD_LEAVE. -/
def execFieldLeave (c : Call) (s : State) : Result := .next (serve cmdFieldLeave c s)

end Sys2Proof.Machine
end

