-- ==== Sys2Proof/Machine/Power.lean ====
section
/-! DEFINITION. The pace loop, the supply monitors, and commands 0B01h, 0B03h, 0B06h and 0B07h (R22, R23, R27 to R31, R435,
R437, R440, R441, R533, R535, R575, R580, R581). -/

namespace Sys2Proof.Machine

/-! ### Policies (R435) -/

/-- Defaults of R19, R27 and R28. -/
def defaultPace : Img := fit 48 ([0, 15, 2, 0] ++ le 4 0 ++ le 4 0 ++ le 4 0 ++ le 4 1000 ++ le 2 20)

/-- Defaults of R547 and R548; the sleep state and listen port have none in the manual (log 21). -/
def defaultFallow : Img := fit 48 ([1, 1, 0, 0] ++ le 4 1000 ++ le 4 8 ++ le 4 60 ++ le 4 0)

def pacePolicy (s : State) : Img := s.power.pacePolicy.getD defaultPace
def fallowPolicy (s : State) : Img := s.power.fallowPolicy.getD defaultFallow

/-- Pace that meets the latency target: the bound of R25 solved for P. -/
def latencyPace (ns : Nat) : Rat := if ns = 0 then 0 else 153600 / ((ns : Rat) - 80)

/-- Demand in force: the computed one or the floor of the policy, whichever is larger. -/
def slotDemand (s : State) : Nat := max s.power.slots (u32 (pacePolicy s) 8)
def bandwidthDemand (s : State) : Nat := max s.power.bandwidth (u32 (pacePolicy s) 12)

/-- P_req (R27), the slot term raised while lanes are missing (R575). -/
def requiredPace (s : State) : Rat :=
  let k : Nat := max 1 s.harrow.lanes.length
  let slots : Rat := 4 * (slotDemand s : Rat) * 4 / (min 4 k : Nat)
  let band : Rat := 6 * (bandwidthDemand s : Rat) / 1000
  max slots (max band (latencyPace (u32 (pacePolicy s) 4))) * (1 + (u8 (pacePolicy s) 1 : Rat) / 100)

/-- A row a route entry is for: a talker whose number the entry's row field, for a wildcard entry under its mask, names. -/
def routeFor (ref : Nat) (e : Img) (x : Nat × Img) : Bool :=
  isTalker x.2 && (if isWildRef ref then (x.1 &&& reRowMask e) == (reRow e &&& reRowMask e) else x.1 == reRow e)

/-- Decision slots of a route entry (R24): one, one more for the wildcard pass, for each further 4 Sieve rules or part of them, and
for the duplicated Beacon lookup, which the entry's class or the ingress class of one of its rows asks for (R149). -/
def routeSlots (b : Bank) (ref : Nat) (e : Img) : Nat :=
  let n := ((List.range 64).filter (Nat.testBit (reSieves e))).length
  1 + b2n (isWildRef ref) + (n - 4 + 3) / 4 + b2n (reClass e == 0 || b.bind.any (fun x => routeFor ref e x && fld x.2 12 0 2 == 0))

/-- Slots per second and kb/s of Granary bandwidth of the enabled ports at line rate: minimum frames of 672 bits with preamble and
gap, one slot each, every bit written and read once (R22, R24, R27; log 13). -/
def portDemand (s : State) : Nat × Nat :=
  let r := (((List.range 10).filter (fun p => portPresent p s && portEnabled p s)).map (fun p => portRate p s)).sum
  (r * 1000 / 672, 2 * r)

/-- Slots per second and kb/s of a bank's routes: their costs at the rates its rows can offer, which the manual leaves open (log 13). -/
def routeDemand (b : Bank) : Nat × Nat :=
  let l := (b.routes.filter (fun e => !reFrame e.2)).map (fun e =>
    let r := Config.routeRate e.2 (b.bind.map (·.2))
    (routeSlots b e.1 e.2 * r.1, r.2))
  ((l.map (·.1)).sum, (l.map (·.2)).sum)

/-- Demand of a bank: million slots per second, Mb/s (R27). -/
def demandOf (b : Bank) (s : State) : Nat × Nat :=
  let p := portDemand s
  let r := routeDemand b
  ((p.1 + r.1 + 999999) / 1000000, (p.2 + r.2 + 999) / 1000)

def maxDemand (x y : Nat × Nat) : Nat × Nat := (max x.1 y.1, max x.2 y.2)

def takeDemand (d : Nat × Nat) (s : State) : State := { s with power.slots := d.1, power.bandwidth := d.2 }

/-- Eulyn computes the demand from ports and routes; before a flip it is that of the larger bank (R27, R31). -/
def computeDemand (s : State) : State :=
  takeDemand (if s.stw.flip.isSome then maxDemand (demandOf s.bank s) (demandOf s.sown s) else demandOf s.bank s) s

def retarget (s : State) : State := { s with power.preq := requiredPace s }

/-- Whole Mtok/s that meet a required pace (log 23). -/
def paceUp (q : Rat) : Nat := q.ceil.toNat

/-! ### 0B01h POWER_POLICY_SET -/

def checkPace (c : Call) (_ : State) : Status :=
  let q := c.params
  need (onlyBytes c [(0, 3), (4, 18)] && u8 q 0 == 0 && within 5 (u8 q 1) 50 && within 1 (u8 q 2) 6 &&
    (u32 q 4 == 0 || within 90 (u32 q 4) 10000) && within 100 (u32 q 16) 100000 && within 5 (u16 q 20) 500)

def actPace (c : Call) (_ : Nat) (s : State) : Work :=
  let s := retarget (computeDemand { s with power.pacePolicy := some (fit 48 c.params) })
  { inline := le 4 (paceUp s.power.preq), st := s }

/-- The settings of the selector named. -/
def readPolicy (c : Call) (_ : Nat) (s : State) : Option Bytes :=
  match u8 c.params 0 with
  | 0 => some (fit 48 (pacePolicy s))
  | 1 => some (fit 48 (fallowPolicy s))
  | _ => none

def cmdPowerPolicySet : Cmd := { opcode := 0x0B01, scope := .device, check := checkPace, act := actPace, read := some readPolicy }

/-- 0B01h with selector 0. -/
def execPowerPolicySet (c : Call) (s : State) : Result := .next (serve cmdPowerPolicySet c s)

def checkFallow (c : Call) (_ : State) : Status :=
  let q := c.params
  need (onlyBytes c [(0, 3), (4, 16)] && u8 q 0 == 1 && within 1 (u8 q 1) 4 && decide (u8 q 2 ≤ 1) &&
    within 100 (u32 q 4) 60000 && within 1 (u32 q 8) 255 && within 1 (u32 q 12) 1440 && decide (u32 q 16 ≤ 604800))

def cmdFallowPolicySet : Cmd := {
  opcode := 0x0B01, scope := .device, check := checkFallow
  act := fun c _ s => { st := { s with power.fallowPolicy := some (fit 48 c.params) } }
  read := some readPolicy }

/-- 0B01h with selector 1. -/
def execFallowPolicySet (c : Call) (s : State) : Result := .next (serve cmdFallowPolicySet c s)

/-! ### 0B03h WAKE_SOURCES_SET -/

/-- No source, no channel. -/
def defaultWake : Img := fit 48 [0, 0, 0xFF, 0xFF, 0xFF, 0xFF, 0, 0xFF]
def wakeCfg (s : State) : Img := if s.power.wake.isEmpty then defaultWake else s.power.wake

/-- Positions 0 to 3 of the selective channels named, in channel order. -/
def namedChannels (w : Img) : List Nat := (List.range 4).filter (fun j => u8 w (2 + j) != 255)

/-- Filter `f` of the selective channel at position `j`, 32 bytes. -/
def wakeFilter (w : Img) (j f : Nat) : Bytes := sub w (48 + 256 * ((namedChannels w).idxOf j) + 32 * f) 32

def filterOk (f : Bytes) : Bool :=
  fld f 3 5 3 == 0 && fld f 7 5 3 == 0 && decide (u8 f 8 ≤ 7) && decide (u8 f 9 ≤ 15) && zeros f 10 6

/-- CAN controllers that a setting of the wake sources names. -/
def wakeControllers (q : Img) : List Nat := ([2, 3, 4, 5, 7].map (u8 q)).filter (· != 255)

def checkWakeSources (c : Call) (_ : State) : Status :=
  let q := c.params
  let n := (namedChannels q).length
  need (onlyBytes c [(0, 8)] && decide (u8 q 0 < 64) && decide (fld q 1 0 2 ≤ 2) && decide (fld q 1 2 2 ≤ 2) &&
      fld q 1 4 4 == 0 && (wakeControllers q).all (fun k => decide (k < 16)) && decide (256 * n ≤ c.bulk.length) &&
      (List.range (8 * n)).all (fun i => filterOk (sub c.bulk (32 * i) 32)))

/-- They have pins here. -/
def ownWakeSources (c : Call) (s : State) : Status :=
  if (wakeControllers c.params).all (fun k => assigned s.bank.pins 0 k) then .ok else .notPermitted

def cmdWakeSourcesSet : Cmd := {
  opcode := 0x0B03, scope := .device, check := checkWakeSources, own := ownWakeSources
  act := fun c _ s => { st := { s with power.wake := fit 48 c.params ++ c.bulk.take (256 * (namedChannels c.params).length) } }
  read := some (fun _ _ s => some (wakeCfg s)) }

/-- 0B03h WAKE_SOURCES_SET. -/
def execWakeSourcesSet (c : Call) (s : State) : Result := .next (serve cmdWakeSourcesSet c s)

/-! ### 0B06h WAKE_CAUSE, 0B07h PACE_STATE -/

/-- A bitmap of source codes, bit c − 1. -/
def sourceBits (l : List Nat) : Nat := ofBits ((List.range 7).map (fun i => l.contains (i + 1)))

def wakeCauseBytes (s : State) : Bytes :=
  let w := s.power
  le 1 w.firstWake ++ le 1 w.seen.toNat ++ le 1 w.wakeChannel ++ le 1 w.wakeFilter ++ le 4 w.wakeInstant ++ le 8 w.resumed ++
  (List.range 7).map (fun i => byte (min 255 (tgetD (i + 1) 0 w.falseWakes))) ++ [0] ++ le 1 (sourceBits w.suspended)

def cmdWakeCause : Cmd := {
  opcode := 0x0B06, scope := .device, status := true
  agg := fun _ => [(1, 1, .flags), (8, 8, .maxU), (24, 1, .flags)] ++ (List.range 7).map (fun i => (16 + i, 1, Agg.counter))
  check := fun c _ => need (onlyBytes c [(0, 1)] && fld c.params 0 1 7 == 0)
  act := fun c _ s => { inline := wakeCauseBytes s,
                        st := if flag c.params 0 0 then { s with power.seen := 0, power.falseWakes := [] } else s } }

/-- 0B06h WAKE_CAUSE. -/
def execWakeCause (c : Call) (s : State) : Result := .next (serve cmdWakeCause c s)

/-- Lanes that failed and found no spare (R575). -/
def laneShort (s : State) : Bool := decide (s.harrow.lanes.length + s.harrow.laneWait.length < 4)

/-- Highest fill of a Plough-to-Harrow crossing in percent. -/
def crossingFill (s : State) : Nat := (s.ploughs.map (fun e => 100 * e.2.crossing.length / 16)).foldl max 0

def paceBytes (s : State) : Bytes :=
  let w := s.power
  le 4 w.pace ++ le 4 (w.lowPace.getD w.pace) ++ le 4 (paceUp w.preq) ++ le 2 w.vcore ++ sleB 2 w.tj ++
  le 1 (b2n w.floorViolation + 2 * b2n w.ceiling + 4 * b2n (s.harrow.lanes.contains 4) + 8 * b2n (laneShort s)) ++
  le 1 (ofBits ((List.range 5).map s.harrow.lanes.contains)) ++ le 2 0 ++ le 4 (slotDemand s) ++ le 4 (bandwidthDemand s) ++
  le 4 s.harrow.stalls ++ le 4 s.harrow.codeFaults ++ le 1 (max (crossingFill s) w.fill)

def cmdPaceState : Cmd := {
  opcode := 0x0B07, scope := .device, status := true
  agg := fun _ => [(0, 4, .minU), (4, 4, .minU), (8, 4, .maxU), (12, 2, .maxU), (14, 2, .maxS), (16, 1, .flags), (17, 1, .flags),
    (20, 4, .maxU), (24, 4, .maxU), (28, 4, .counter), (32, 4, .counter), (36, 1, .maxU)]
  check := fun c _ => need (onlyBytes c [(0, 1)] && fld c.params 0 1 7 == 0)
  act := fun c _ s => { inline := paceBytes s,
                        st := if flag c.params 0 0 then s
                              else { s with power.lowPace := none, harrow.stalls := 0, harrow.codeFaults := 0 } } }

/-- 0B07h PACE_STATE. -/
def execPaceState (c : Call) (s : State) : Result := .next (serve cmdPaceState c s)

/-! ### PACE_WINDOW (R23, R27 to R29, R580) -/

/-- Table of R23: a row per VCORE, a column per Tj. -/
def floorTable : List (Rat × List Rat) :=
  [(720, [540, 520, 500, 480]), (760, [650, 630, 610, 585]), (800, [760, 745, 720, 690]), (850, [860, 840, 810, 780]),
   (900, [950, 925, 895, 860])]

def tjPoints : List Rat := [-40, 25, 85, 125]

/-- Linear interpolation through points with rising abscissae; beyond them the nearest point. -/
def interpolate : List (Rat × Rat) → Rat → Rat
  | [], _ => 0
  | [(_, y)], _ => y
  | (x0, y0) :: (x1, y1) :: t, x =>
    if x ≤ x0 then y0
    else if x ≤ x1 then y0 + (y1 - y0) * (x - x0) / (x1 - x0)
    else interpolate ((x1, y1) :: t) x

/-- The pace below which the reading is a floor violation. -/
def floorPace (mv : Nat) (tj : Int) : Rat :=
  interpolate (floorTable.map (fun e => (e.1, interpolate (tjPoints.zip e.2) tj))) mv

/-- Fill threshold in percent of a crossing. -/
def fillLimit (s : State) : Rat := (u8 (pacePolicy s) 2 : Rat) * 25 / 2

/-- Thermal monitor re-arms 5 °C below its threshold (R535). -/
def rearm (tj : Int) (s : State) : State :=
  if tj ≤ s.power.thermal - 5 then { s with power.thermalArmed := true } else s

/-- Event 59 once per entry into either condition (R29). -/
def paceAlarms (s : State) : State :=
  let w := s.power
  let low := decide (720 ≤ w.vcore) && decide ((w.pace : Rat) < floorPace w.vcore w.tj)
  let top := decide (w.vcore = 900) && decide ((w.pace : Rat) < w.preq)
  let s := if low && !w.floorViolation then raiseD 59 1 noObject s else s
  let s := if top && !w.ceiling then raiseD 59 0 noObject s else s
  { s with power.floorViolation := low, power.ceiling := top, power.floorHold := w.floorHold || low }

/-- Set-point after one 1 µs window (R28): up by 10 mV when the pace is short or a crossing fills, down by 5 mV once the hold
time has passed and then every 5 µs, at 0.90 V for good after a floor violation (R580). -/
def moveVcore (s : State) : State :=
  let w := s.power
  let hold := u32 (pacePolicy s) 16
  if w.floorHold then { s with power.vcore := 900, power.holdUs := 0 }
  else if (w.pace : Rat) < w.preq ∨ fillLimit s < max (crossingFill s) w.fill then { s with power.vcore := min 900 (w.vcore + 10), power.holdUs := 0 }
  else if (w.pace : Rat) = w.preq then { s with power.holdUs := 0 }
  else if w.holdUs + 1 < hold then { s with power.holdUs := w.holdUs + 1 }
  else { s with power.vcore := max 720 (w.vcore - 5), power.holdUs := hold - 5 }

/-- PACE_WINDOW: a reading of the pace, the junction temperature and the highest crossing fill in percent. Without the Steward
the last target stands (R30). -/
def execPaceWindow (pace : Nat) (tj : Int) (fill : Nat) (s : State) : Result :=
  if s.power.state != .growing then .next s
  else
    let s := { s with power.pace := pace, power.tj := tj, power.fill := fill
                      power.lowPace := some (min pace (s.power.lowPace.getD pace)) }
    let s := rearm tj s
    .next (moveVcore (paceAlarms (if s.stw.up then retarget (computeDemand s) else s)))

/-! ### Supply and temperature monitors (R535, R581) -/

/-- VCORE is present. -/
def coreOn (s : State) : Bool :=
  match s.power.state with
  | .growing | .listen | .starting | .held => s.power.vcore != 0
  | _ => false

/-- SUPPLY_FAULT: VCORE too high or too low. -/
def execSupplyFault (high : Bool) (s : State) : Result :=
  .next (if coreOn s then raiseD 60 (if high then 2 else 1) noObject { s with power.faultSeen60 := true } else s)

/-- PHASE_CURRENT_LIMIT. -/
def execPhaseCurrentLimit (s : State) : Result :=
  .next (if coreOn s then raiseD 60 4 noObject { s with power.faultSeen60 := true } else s)

/-- THERMAL_WARN: raised again only after Tj has fallen 5 °C below the threshold. -/
def execThermalWarn (tj : Int) (s : State) : Result :=
  let s := rearm tj { s with power.tj := tj }
  .next (if coreOn s && s.power.thermalArmed && decide (s.power.thermal ≤ tj) then
      raise 61 noObject { s with power.thermalArmed := false, power.faultSeen61 := true }
    else s)

end Sys2Proof.Machine
end

