-- ==== Sys2Proof/Machine/Reset.lean ====
section
/-! DEFINITION. What the resets clear and keep, and the rows that start one: RESETN, VSTBY_POWER_ON, VSTBY_LOSS, BUCK_VIN_LOW,
BUCK_VIN_RESTORED, STEWARD_WATCHDOG and LOCKSTEP_MISCOMPARE (R241, R322, R483, R535, R563 to R567, R577 to R579, R591). -/

namespace Sys2Proof.Machine

/-! ### The Hold window (R319, R483, R488, R537, R563) -/

/-- A transport after the reset: the next epoch, IDs from 0. -/
def freshTransport (t : Transport) : Transport := { epoch := (t.epoch + 1) % 16 }

/-- The Hold window, PCIe function, xSPI target and Stile as a reset of the window leaves them; HOLD_CAUSE, straps, image bits and
the event log stay. Semaphores are freed first. -/
def clearHold (s : State) : State :=
  let s := freeSems (fun _ => true) s
  let h := s.hold
  let hold : Hold := {
    bootPhase := h.bootPhase, image := h.image, secureBootFail := h.secureBootFail, gateOpened := h.gateOpened, straps := h.straps,
    resetKind := h.resetKind, fallowLeft := h.fallowLeft, firstWake := h.firstWake, wakeSeen := h.wakeSeen, perst := h.perst }
  let ev : Events := {
    route := if h.straps % 2 = 1 then BitVec.allOnes 64 else 0
    log := s.ev.log, nextSeq := s.ev.nextSeq, lost := s.ev.lost }
  let st : Stile := { transports := s.stile.transports.map (fun e => (e.1, freshTransport e.2)) }
  { s with hold, ev, stile := st, rings := [], hostRead := [] }

/-! ### Clearing resets (R563, groups P, D and F) -/

/-- Keys and the Gate: a power-on ends the lock of the OTP root and the opening (R517). -/
def clearedKeys (p : Bool) (k : Keys) : Keys :=
  if p then {}
  else {
    kek := !k.otpLocked, otpLocked := k.otpLocked, gateDebug := k.gateDebug, wrong := k.wrong
    protTx := if k.gateDebug then k.protTx else [], protRx := if k.gateDebug then k.protRx else [] }

/-- The Granary's records in flash: bank map, bank states, retirements (R245). -/
def clearedGranary (g : Granary) : Granary := {
  map := g.map, state := g.state, queue := g.queue, migration := g.migration, draining := g.draining, hardRetired := g.hardRetired,
  selfDecided := g.selfDecided, reinstated := g.reinstated, degraded := g.degraded }

/-- The standby domain's own state, and what the boot report reads of the last run. -/
def clearedPower (g : Nat) (w : Power) : Power :=
  let keep : Power := {
    startKind := g, faultSeen60 := w.faultSeen60, faultSeen61 := w.faultSeen61, buckLow := w.buckLow, buckFell := w.buckFell, resetHeld := w.resetHeld }
  if g = 1 then keep
  else { keep with
    wake := w.wake, falseWakes := w.falseWakes, falseInstants := w.falseInstants, suspended := w.suspended, falseSince := w.falseSince,
    firstWake := w.firstWake, seen := w.seen, wakeChannel := w.wakeChannel, wakeFilter := w.wakeFilter, wakeInstant := w.wakeInstant,
    wakeCoarse := w.wakeCoarse, decodeErr := w.decodeErr, coarse := w.coarse }

/-- What the Steward has in flash: the Ledger's mirror, and commit decisions not yet acknowledged (R374). -/
def clearedSteward (x : Steward) : Steward := {
  flash := x.flash, nextOpno := x.nextOpno
  decisions := x.decisions.filter (fun d => d.1.kind == 2) }

/-- A clearing reset of group `g`: 1 P, 2 D, 3 F. Flash, OTP and the levels at the pins stay; the start that follows restores
the rest. -/
def clearing (g : Nat) (s : State) : State :=
  let s := clearHold { s with ev.log := [], ev.nextSeq := 0, ev.lost := 0 }
  let hold := if g = 1 then { s.hold with gateOpened := false } else s.hold
  let s' : State := {
    pending := s.pending, free := s.free, wire := s.wire
    hold := { hold with bootPhase := 0, image := 0, secureBootFail := false }
    ev := { s.ev with log := [], nextSeq := 0, lost := 0 }
    stile := s.stile
    stw := clearedSteward s.stw
    plots := s.fixed.plots
    field := { session := s.field.session }
    gran := clearedGranary s.gran
    buses := { pins := { inputs := s.buses.pins.inputs } }
    keys := clearedKeys (g == 1) s.keys
    fixed := s.fixed
    power := clearedPower g s.power }
  raiseSession s'

/-- HOLD_CAUSE of a power-on (R322). -/
def powerOnCause (s : State) : State :=
  { s with hold.resetKind := 0, hold.fallowLeft := 0, hold.firstWake := 7, hold.wakeSeen := 0b1000000#7 }

/-- A reset of group F: RESETn or SYS_RESET full. -/
def fullReset (kind : Nat) (s : State) : State := clearing 3 (recordReset kind s)

/-! ### Supplies and pins -/

/-- VCORE is off in a Fallow state. -/
def fallowOff (s : State) : Bool :=
  match s.power.state with
  | .watch | .retain | .deep | .off => true
  | _ => false

/-- RESETN (R567): low holds the core in reset with the regulator on; release starts the sequence at step 4, where the straps are
latched. It is ignored while VCORE is off. -/
def execResetn (asserted : Bool) (straps : Nat) (s : State) : Result :=
  if fallowOff s then .next s
  else if asserted then .next { fullReset 2 s with power.state := .held, power.resetHeld := true }
  else if !s.power.resetHeld then .next s
  else .next (clearHold { s with hold.straps := straps % 4, power.resetHeld := false,
                                 power.state := if s.power.buckLow then .held else .starting })

/-- VSTBY_POWER_ON (R322, R536, R591): the standby domain leaves reset. -/
def execVstbyPowerOn (s : State) : Result :=
  if s.power.state = .off then .next { powerOnCause (clearing 1 s) with power.state := .starting } else .next s

/-- VSTBY_LOSS (R591): the standby domain resets, INH falls, VCORE is removed. -/
def execVstbyLoss (s : State) : Result :=
  let s := clearing 1 s
  .next { s with power.state := .off, power.inh := false, power.vcore := 0, power.buckLow := false, power.resetHeld := false }

/-- BUCK_VIN_LOW (R535): the regulator stops and the part is held in reset. The manual names no reset kind: it is free. While VCORE
is off only the next start waits. -/
def execBuckVinLow (s : State) : Result :=
  let s := { s with power.buckLow := true, power.buckFell := true }
  if fallowOff s then .next s
  else
    let s := raiseD 60 3 noObject { s with power.faultSeen60 := true }
    .next { fullReset (pick s % 10) (picked s) with power.state := .held, power.vcore := 0 }

/-- BUCK_VIN_RESTORED: the reset it caused ends unless RESETn still holds the core. -/
def execBuckVinRestored (s : State) : Result :=
  if !s.power.buckLow then .next s
  else if s.power.state = .held && !s.power.resetHeld then .next { s with power.buckLow := false, power.state := .starting }
  else .next { s with power.buckLow := false }

/-! ### Steward-level resets (R33, R373, R563 group S, R566, R577, R578) -/

/-- The Steward is held in reset: hardware and retained SRAM stay, an entry to Fallow ends. -/
def stewardReset (kind : Nat) (s : State) : State :=
  let s := lapseRetirements (dropInbox (freeSems (fun o => o == .firmware) (recordReset kind s)))
  { s with
    stw.up := false, stw.notServing := false, stw.segments := [], stw.answerSegs := [], keys.nonce := none
    hold.bootPhase := 6
    power.entering := none, power.entryStep := 0, power.halted := false, power.armedFor := none
    stw.watchdog := if kind = 8 ∨ kind = 9 then s.power.upNs :: s.stw.watchdog else s.stw.watchdog }

/-- STEWARD_WATCHDOG. -/
def execStewardWatchdog (s : State) : Result := .next (if s.stw.up then stewardReset 8 s else s)

/-- LOCKSTEP_MISCOMPARE; in recovery the boot ROM serves on. -/
def execLockstepMiscompare (s : State) : Result :=
  .next (if s.stw.up then stewardReset 9 s else if s.hold.bootPhase = 5 then recordReset 9 s else s)

end Sys2Proof.Machine
end

