-- ==== Sys2Proof/Machine/TimeCmds.lean ====
section
/-! DEFINITION. Time commands 0601h to 0607h (R411 to R417). -/

namespace Sys2Proof.Machine

/-! ### 0601h TIME_CONFIG -/

/-- Selector 0 ranges (R411). -/
def checkTimeConfig (c : Call) (_ : State) : Status :=
  let q := c.params
  need (onlyBytes c [(0, 20)] && u8 q 0 == 0 && decide (u8 q 1 ≤ 127) && decide (u8 q 2 ≤ 127) && u8 q 1 != u8 q 2 &&
    fld q 3 1 7 == 0 && decide (u16 q 6 ≤ 255) && withinI (-500000000) (sle q 8 4) 500000000 &&
    within 100 (u32 q 12) 500000000 && withinI (-2000) (sle q 16 4) 2000)

/-- An exchange of the two domains waits for the next Sync of the new working domain (R159). DESIGN CHOICE (log 138): other numbers are
in force at once, with the port roles last set, and end a waiting exchange. -/
def actTimeConfig (c : Call) (_ : Nat) (s : State) : Work :=
  let q := fit 48 c.params
  let w := u8 q 1
  let r := u8 q 2
  if w = s.alm.relayed ∧ r = s.alm.working then { st := { s with timeCfg := some q, alm.exchange := some (w, r) } }
  else { st := { s with timeCfg := some q, alm.exchange := none, alm.working := w, alm.relayed := r
                        alm.utcFromAnnounce := s.alm.utcFromAnnounce && w == s.alm.working } }

def readTimeConfig (c : Call) (_ : Nat) (s : State) : Option Bytes :=
  match u8 c.params 0 with
  | 0 => some (timeCfg s)
  | 1 => if u8 c.params 1 < 10 then some (timePort (u8 c.params 1) s) else none
  | _ => none

def cmdTimeConfig : Cmd := {
  opcode := 0x0601, scope := .device, check := checkTimeConfig, act := actTimeConfig, read := some readTimeConfig }

/-- 0601h TIME_CONFIG, selector 0. -/
def execTimeConfig (c : Call) (s : State) : Result := .next (serve cmdTimeConfig c s)

/-- Selector 1 ranges (R161, R411). -/
def checkTimePort (c : Call) (_ : State) : Status :=
  let q := c.params
  need (onlyBytes c [(0, 7), (8, 4)] && u8 q 0 == 1 && decide (u8 q 1 < 10) && fld q 2 2 6 == 0 &&
    withinI (-5) (sle q 3 1) 0 && withinI (-3) (sle q 4 1) 3 && withinI (-3) (sle q 5 1) 3 && within 2 (u8 q 6) 255 &&
    within 100 (u32 q 8) 100000)

def actTimePort (c : Call) (_ : Nat) (s : State) : Work :=
  let q := fit 48 c.params
  { st := { s with timePorts := tset (u8 q 1) q s.timePorts } }

def cmdTimeConfigPort : Cmd := {
  opcode := 0x0601, scope := .device, check := checkTimePort, act := actTimePort, read := some readTimeConfig }

/-- 0601h TIME_CONFIG, selector 1. -/
def execTimeConfigPort (c : Call) (s : State) : Result := .next (serve cmdTimeConfigPort c s)

/-! ### 0602h TIME_SET -/

def checkTimeSet (pps : Bool) (c : Call) (_ : State) : Status :=
  let q := c.params
  need (onlyBytes c [(0, 13)] && u16 q 6 == 0 && decide (u32 q 8 < 1000000000) && u8 q 12 == b2n pps)

/-- The clock is set at the tick the command reaches; the fraction starts at zero (log 25). -/
def actTimeSet (c : Call) (_ : Nat) (s : State) : Work :=
  let old := nowNs s
  let s' := stepTo (ule c.params 0 6) (u32 c.params 8) 0 s
  { inline := sleB 8 ((nowNs s' : Int) - old) ++ le 8 (stampOf (nowNs s')), st := s' }

def cmdTimeSet : Cmd := { opcode := 0x0602, scope := .device, check := checkTimeSet false, act := actTimeSet }

/-- 0602h TIME_SET. -/
def execTimeSet (c : Call) (s : State) : Result := .next (serve cmdTimeSet c s)

/-- With the PPS flag: a long operation until the next edge, or ST_TIMEOUT after 1.5 s. -/
def actTimeSetAtPps (c : Call) (_ : Nat) (s : State) : Work :=
  { long := some (.timeSetPps (ule c.params 0 6) (u32 c.params 8) (s.power.upNs + 1500000000)), st := s }

def cmdTimeSetAtPps : Cmd := { opcode := 0x0602, scope := .device, check := checkTimeSet true, act := actTimeSetAtPps }

/-- 0602h TIME_SET with the PPS flag. -/
def execTimeSetAtPps (c : Call) (s : State) : Result := .next (serve cmdTimeSetAtPps c s)

/-! ### 0603h TIME_ADJUST -/

/-- Result of modes 0 and 1: the new frequency adjustment in ppb. -/
def freqResult (s : State) : Bytes := sleB 4 (roundRat s.alm.a)

def checkAdjust (mode : Nat) (c : Call) (_ : State) : Status :=
  let q := c.params
  need (onlyBytes c [(0, 1), (8, 16)] && u8 q 0 == mode && (mode != 1 || within 1000 (u32 q 16) 60000000) &&
    (mode != 2 || withinI (-200000) (sle q 20 4) 200000))

def actAdjustStep (c : Call) (_ : Nat) (s : State) : Work :=
  let s' := stepBy (sle c.params 8 8) s
  { inline := freqResult s', st := s' }

def cmdTimeAdjustStep : Cmd := { opcode := 0x0603, scope := .device, check := checkAdjust 0, act := actAdjustStep }

/-- 0603h TIME_ADJUST, mode 0. -/
def execTimeAdjustStep (c : Call) (s : State) : Result := .next (serve cmdTimeAdjustStep c s)

def actAdjustServo (c : Call) (_ : Nat) (s : State) : Work :=
  if servoSource s ≠ 2 then { status := .notPermitted, st := s }
  else
    let s' := takeOffset (sle c.params 8 8) ((u32 c.params 16 : Rat) / 1000000) s
    { inline := freqResult s', st := s' }

def cmdTimeAdjustServoInput : Cmd := { opcode := 0x0603, scope := .device, check := checkAdjust 1, act := actAdjustServo }

/-- 0603h TIME_ADJUST, mode 1. -/
def execTimeAdjustServoInput (c : Call) (s : State) : Result := .next (serve cmdTimeAdjustServoInput c s)

def actAdjustFrequency (c : Call) (_ : Nat) (s : State) : Work :=
  if servoSource s ≠ 3 then { status := .notPermitted, st := s } else { st := setFrequency (sle c.params 20 4) s }

def cmdTimeAdjustFrequency : Cmd := { opcode := 0x0603, scope := .device, check := checkAdjust 2, act := actAdjustFrequency }

/-- 0603h TIME_ADJUST, mode 2. -/
def execTimeAdjustFrequency (c : Call) (s : State) : Result := .next (serve cmdTimeAdjustFrequency c s)

/-! ### 0604h SERVO_SET, 0605h ASYM_SET -/

def checkServo (c : Call) (_ : State) : Status :=
  let q := c.params
  need (onlyBytes c [(0, 28)] && decide (u8 q 0 ≤ 3) && within 1 (u8 q 1) 15 && within 2 (u8 q 2) 64 && fld q 3 1 7 == 0 &&
    within 655 (u32 q 4) 130416 && decide (u32 q 8 ≤ 65536) && (u32 q 12 == 0 || within 100 (u32 q 12) 1000000000) &&
    within 10 (u32 q 16) 1000 && decide (u32 q 20 ≤ 60000) && withinI (-200000) (sle q 24 4) 200000)

/-- A new source takes the time state (R169, R170): None without the grandmaster role is Free; the grandmaster with None or
gPTP is Locked. -/
def sourceState (s : State) : State :=
  let src := servoSource s
  if s.alm.grandmaster then (if src = 0 ∨ src = 3 then setTimeState .locked s else s)
  else if src = 3 then setTimeState .free s else s

def actServo (c : Call) (_ : Nat) (s : State) : Work :=
  let q := fit 48 c.params
  let s := if flag q 3 0 then { s with alm.i := sle q 24 4, alm.frozen := false } else s
  { st := sourceState { s with servo := some (patch q 3 [0]) } }

def cmdServoSet : Cmd := {
  opcode := 0x0604, scope := .device, check := checkServo, act := actServo, read := some (fun _ _ s => some (servoCfg s)) }

/-- 0604h SERVO_SET. -/
def execServoSet (c : Call) (s : State) : Result := .next (serve cmdServoSet c s)

/-- Only the fields whose flag is set are checked and written (R379, R415). -/
def checkAsym (c : Call) (_ : State) : Status :=
  let q := c.params
  need (onlyBytes c [(0, 2), (4, 8)] && decide (u8 q 0 < 10) && fld q 1 3 5 == 0 &&
    (!flag q 1 0 || withinI (-1048575) (sle q 4 4) 1048575) &&
    (!flag q 1 2 || (within 10 (u16 q 8) 1000 && within 2 (u8 q 10) 100 && within 1 (u8 q 11) 120)))

/-- Mean of the latest four results of a port (R176). DESIGN CHOICE (log 139): with fewer, of those there are. -/
def latestMean (v : GptpPort) : Option Rat := if v.last.isEmpty then none else some (meanOf v.last)

def actAsym (c : Call) (_ : Nat) (s : State) : Work :=
  let q := fit 48 c.params
  let p := u8 q 0
  let i := asymCfg p s
  let i := if flag q 1 0 then patch i 4 (sub q 4 4) else i
  let i := if flag q 1 2 then patch i 8 (sub q 8 4) else i
  let s := { s with asym := tset p i s.asym }
  { st := if flag q 1 1 && (gport p s).suspect then closeSuspect p (latestMean (gport p s)) s else s }

def cmdAsymSet : Cmd := {
  opcode := 0x0605, scope := .device, check := checkAsym, act := actAsym
  read := some (fun c _ s => if u8 c.params 0 < 10 then some (asymCfg (u8 c.params 0) s) else none) }

/-- 0605h ASYM_SET. -/
def execAsymSet (c : Call) (s : State) : Result := .next (serve cmdAsymSet c s)

/-! ### 0606h TIME_STATE -/

/-- Bytes of a transmit stamp entry (R182). -/
def stampBytes (e : TxStamp) : Bytes :=
  le 8 e.stamp ++ le 2 (e.desc % 4096 + 4096 * e.ring) ++ le 2 e.seqId ++ le 1 (e.msg + 16 * e.port) ++ le 1 e.domain ++
  le 1 (b2n e.notSync + 2 * b2n e.preempted + 4 * b2n e.overflow) ++ [0]

/-- Inline result of R416. -/
def timeInline (s : State) : Bytes :=
  let a := s.alm
  let delay := match a.slavePort with
    | some p => roundRat ((gport p s).filtered.getD 0)
    | none => 0
  le 1 a.state.code ++ le 1 (b2n a.grandmaster + 2 * b2n (slaveSuspect s)) ++ le 1 (a.slavePort.getD 255) ++ [0] ++
  sleB 4 (roundRat a.theta) ++ sleB 4 (roundRat a.a) ++ sleB 4 (roundRat a.i) ++ le 8 a.gmId ++ sleB 4 delay ++
  sleB 4 a.relOffset ++ sleB 4 a.relRate ++ le 2 a.steps ++ le 2 a.outliers ++ le 2 (utcOffset s) ++
  le 2 (ofBits ((List.range 10).map (fun p => (gport p s).suspect)))

/-- 0606h TIME_STATE: the entries popped are those the area holds (R181, R347). -/
def actTimeState (c : Call) (_ : Nat) (s : State) : Work :=
  if flag c.params 0 0 then
    let p := u8 c.params 1
    let q := tgetD p [] s.alm.txStamps
    let n := if c.bulkResult then areaLen c / 16 else 0
    { inline := timeInline s, bulk := ((q.take n).map stampBytes).flatten
      st := { s with alm.txStamps := if q.length ≤ n then tdel p s.alm.txStamps else tset p (q.drop n) s.alm.txStamps } }
  else { inline := timeInline s, st := s }

def cmdTimeState : Cmd := {
  opcode := 0x0606, scope := .device, status := true, item := 16
  agg := fun _ => [(0, 1, .state), (1, 1, .flags), (4, 4, .maxS), (36, 2, .counter), (38, 2, .counter), (42, 2, .flags)]
  check := fun c _ => need (onlyBytes c [(0, 2)] && fld c.params 0 1 7 == 0 &&
    (!flag c.params 0 0 || (c.bulkResult && c.units != 0 && decide (u8 c.params 1 < 10))))
  act := actTimeState }

/-- 0606h TIME_STATE. -/
def execTimeState (c : Call) (s : State) : Result := .next (serve cmdTimeState c s)

/-! ### 0607h ALARM_SET -/

def checkAlarm (c : Call) (_ : State) : Status :=
  let q := c.params
  need (onlyBytes c [(0, 24)] && u8 q 0 == 0 && decide (u8 q 1 < 8) && fld q 2 4 3 == 0 &&
    (flag q 2 7 || ((decide (u8 q 3 < 40) || u8 q 3 == 255) && within 100 (u32 q 4) 500000000 &&
      (u64 q 16 == 0 || within 1000 (u64 q 16) 1000000000000))))

/-- A past single alarm fires at once, late; a past periodic one takes the first instant at least 1 µs ahead (R179). -/
def startAlarm (n : Nat) (q : Img) (s : State) : State :=
  let now := nowNs s
  let base := u64 q 8
  let per := u64 q 16
  let put (v : Alarm) := { s with alm.alarms := tset n v s.alm.alarms }
  if now < base then put { img := q, next := some base }
  else if per = 0 then fireAlarm n (put { img := q, late := true })
  else put { img := q, next := some (seriesAfter base per (now + 999)) }

def actAlarm (c : Call) (_ : Nat) (s : State) : Work :=
  let q := fit 48 c.params
  let n := u8 q 1
  if flag q 2 7 then { st := { s with alm.alarms := tdel n s.alm.alarms } }
  else if (flag q 2 2 || flag q 2 3) && u8 s.bank.pins (u8 q 3) != 4 then { status := .notPermitted, st := s }
  else { st := startAlarm n q s }

/-- Settings of an alarm, or of a schedule entry that exists (R380). -/
def readAlarm (c : Call) (_ : Nat) (s : State) : Option Bytes :=
  let n := u8 c.params 1
  match u8 c.params 0 with
  | 0 => if n < 8 then some (match tget n s.alm.alarms with
      | some v => v.img
      | none => fit 48 ([0, byte n, 1, 255] ++ le 4 1000)) else none
  | 1 => tget n s.alm.schedule
  | _ => none

def cmdAlarmSet : Cmd := { opcode := 0x0607, scope := .device, check := checkAlarm, act := actAlarm, read := some readAlarm }

/-- 0607h ALARM_SET, selector 0. -/
def execAlarmSet (c : Call) (s : State) : Result := .next (serve cmdAlarmSet c s)

def checkEntry (c : Call) (_ : State) : Status :=
  let q := c.params
  need (onlyBytes c [(0, 24)] && u8 q 0 == 1 && decide (u8 q 1 < 64) && fld q 2 1 7 == 0 &&
    (flag q 2 0 || u64 q 16 == 0 || within 1000 (u64 q 16) 86400000000000))

/-- A route in absolute-schedule mode names the entry (R124, R417). -/
def entryNamed (n : Nat) (b : Bank) : Bool := b.routes.any (fun e => reSchedule e.2 && reRelease e.2 == n)

def actEntry (c : Call) (_ : Nat) (s : State) : Work :=
  let q := fit 48 c.params
  let n := u8 q 1
  if flag q 2 0 then
    if entryNamed n s.bank then { status := .busy, st := s } else { st := { s with alm.schedule := tdel n s.alm.schedule } }
  else { st := { s with alm.schedule := tset n q s.alm.schedule } }

def cmdScheduleEntrySet : Cmd := { opcode := 0x0607, scope := .device, check := checkEntry, act := actEntry, read := some readAlarm }

/-- 0607h ALARM_SET, selector 1. -/
def execScheduleEntrySet (c : Call) (s : State) : Result := .next (serve cmdScheduleEntrySet c s)

end Sys2Proof.Machine
end

