-- ==== Sys2Proof/Machine/Start.lean ====
section
/-! DEFINITION. Choosing the firmware image, what Eulyn restores, the boot report, the start sequence and the end of a Steward
restart: the rows START_SEQUENCE and STEWARD_RESTART_DONE (R373, R374, R515 to R520, R539, R546, R556 to R562, R566, R568, R579). -/

namespace Sys2Proof.Machine

/-! ### Images (R518 to R520, R559, R560) -/

def imageSlot (n : Nat) (s : State) : Bytes := if n = 0 then s.fixed.imageA else s.fixed.imageB

/-- Fields of the header. -/
def imageLen (i : Img) : Nat := u32 i 8
def imageSecurity (i : Img) : Nat := u32 i 12
def imageVersion (i : Img) : Nat := u32 i 16

/-- The tests of R519. -/
def imageOk (i : Img) (s : State) : Bool :=
  let k := u8 i 6
  u32 i 0 == 0x464C5451 && u16 i 4 == 1 && within 160 (imageLen i) 1048576 && decide (imageLen i ≤ i.length) &&
  decide (k < 4) && decide (k < s.fixed.digests.length) && sha256 (sub i 32 64) == s.fixed.digests.getD k [] &&
  !s.fixed.revoked.contains k && decide (s.fixed.minVersion ≤ imageSecurity i) && decide (imageSecurity i ≤ 32) &&
  ecdsaOk (sha256 (i.take 96 ++ (i.take (imageLen i)).drop 160)) (sub i 32 64) (sub i 96 64)

/-- The slot to try first: a trial booted once and never confirmed gives way to the confirmed slot (R559). -/
def selectSlot (s : State) : State :=
  if !s.fixed.selTrial then { s with fw.trialAbandoned := false }
  else if s.fixed.selTried then
    { s with fixed.selSlot := s.fixed.selConfirmed, fixed.selTrial := false, fixed.selTried := false, fw.trialAbandoned := true }
  else { s with fixed.selTried := true, fw.trialAbandoned := false }

/-- A slot's image runs. -/
def runSlot (n : Nat) (failed : Bool) (s : State) : State :=
  { s with fw.running := n, hold.image := n, fw.onTrial := s.fixed.selTrial && s.fixed.selSlot == n, fw.otherFailed := failed,
           fw.activating := false }

/-- The boot ROM's choice (R559): `none` in the answer's first place when no image verifies. -/
def bootSelect (s : State) : Bool × State :=
  let s := selectSlot { s with hold.secureBootFail := false }
  let n := s.fixed.selSlot % 2
  if imageOk (imageSlot n s) s then (true, runSlot n false s)
  else
    let s := raise 55 n { s with hold.secureBootFail := true }
    if imageOk (imageSlot (1 - n) s) s then (true, runSlot (1 - n) true s) else (false, s)

/-- Confirm the running image (R520, R560): minimum version raised, revocations of its flag blown. -/
def confirmImage (s : State) : State :=
  let i := imageSlot s.fw.running s
  let blown := if flag i 7 0 then (List.range (u8 i 6)).foldl (fun l k => insertNat k l) s.fixed.revoked else s.fixed.revoked
  { s with fixed.minVersion := max s.fixed.minVersion (imageSecurity i), fixed.revoked := blown, fixed.selConfirmed := s.fw.running
           fixed.selTrial := false, fixed.selTried := false, fw.onTrial := false }

/-- An image activated without trial is confirmed when it reaches BOOT_PHASE 4. -/
def confirmAtBoot (s : State) : State :=
  if s.fw.onTrial || s.fixed.selSlot % 2 != s.fw.running then s else confirmImage s

/-! ### What Eulyn restores (R222, R241, R374, R561) -/

/-- Retest spares for a logical bank in turn; the first good one takes it without copying. -/
def bootSpare (old l : Nat) : List Nat → State → State
  | [], s => endDrain old (raise 35 old s)
  | t :: rest, s =>
    if testPasses s then setBank t 0 (setBank old 5 { picked s with gran.map := tset l t s.gran.map })
    else bootSpare old l rest (setBank t 6 (picked s))

/-- A migration found at boot: past its point of no return the new map is in force (R241). -/
def bootMigration (s : State) : State :=
  match s.gran.migration with
  | none => s
  | some m =>
    let s := { s with gran.migration := none }
    if m.step = 6 || (m.step = 5 && m.sub = 1) then
      setBank (m.target.getD 255) 0 (setBank m.old 5 { s with gran.map := tset m.logical (m.target.getD 255) s.gran.map })
    else bootSpare m.old m.logical (m.target.toList ++ spareBanks s) s

/-- The retirement record and the bank map: undecided retirements lapse, drains end at once. -/
def restoreBanks (s : State) : State :=
  let s := bootMigration (lapseRetirements s)
  s.gran.draining.foldl (fun s p => endDrain p s) s

/-- The outcome of a record at boot. -/
def settle (r : Record) : Record :=
  if 2 ≤ r.state then { r with fromFlash := true }
  else if r.state = 0 then { r with state := 3, status := Status.abandoned.code, fromFlash := true }
  else { r with state := 2, status := (if r.across then Status.partial_ else Status.ok).code, fromFlash := true }

/-- A re-till past its point of no return has its slot marked standing (R374). -/
def markRetill (s : State) : State :=
  let past (b : Option (Nat × Bank)) : Bool := b.any (fun x => s.stw.flash.any (fun r => r.opcode == 0x0F01 && r.state == 1 && r.opno == x.1))
  if past s.fixed.bankA then { s with fixed.bankSel := 0 } else if past s.fixed.bankB then { s with fixed.bankSel := 1 } else s

/-- Settle the mirror; the records that were open go into the boot report. -/
def restoreLedger (s : State) : List Record × State :=
  let opened := s.stw.flash.filter (fun r => decide (r.state < 2))
  let l := s.stw.flash.map settle
  let s := markRetill s
  (opened.map settle,
   { s with stw.ledger := keepClosed 48 l, stw.flash := keepClosed 16 l, stw.nextOpno := max s.stw.nextOpno ((l.map (·.opno)).foldl max 0 + 1) })

/-- The standing bank of the flash image, with the two flags of the boot report: image replaced, bank empty. -/
def flashBank (s : State) : Bank × Bool × Bool :=
  let slot (n : Nat) : Option (Nat × Bank) := if n = 0 then s.fixed.bankA else if n = 1 then s.fixed.bankB else none
  match slot s.fixed.bankSel, slot (if s.fixed.bankSel = 2 then 2 else 1 - s.fixed.bankSel) with
  | some x, _ => (x.2, false, false)
  | none, some x => (x.2, true, false)
  | none, none => ({}, false, true)

/-- Policers of a restored bank start full (R501). -/
def fillPolicers (s : State) : State :=
  { s with harrow.policers := s.bank.policers.map (fun e =>
      (e.1, { policerRt e.1 s with level := (u32 e.2 8 : Rat), at_ := s.power.upNs })) }

/-- Load the standing bank: Teams and Thinning restarted, every Furrow list due at its next cycle start. -/
def loadBank (s : State) : State :=
  let s := restartTeams { s with bank := (flashBank s).1, sown := {} }
  let t := nowNs s
  { fillPolicers s with drill.furrows := s.bank.furrows.map (fun e => (e.1, { change := some (changeTime e.2 t) })) }

/-- Pins assigned, controllers of Enabled rows started (R247, R248). -/
def startControllers (s : State) : State :=
  let s := s.bank.enabled.foldl (fun s r => enableRow r s) { s with bank.enabled := [] }
  drivePins s

/-- Lane modes and port settings of flash; enabled ports look for a link. -/
def startPorts (s : State) : State :=
  let s := { s with ports.lanes := s.fixed.laneCfg, ports.config := s.fixed.portCfg }
  (tkeys s.ports.config).foldl (fun s p =>
    if portPresent p s && portEnabled p s then startVerify p (setPort p { portRt p s with training := true } s) else s) s

/-- Eulyn joins its Field again after event 6 (R385, R557). -/
def rejoinField (s : State) : State :=
  match s.fixed.fieldImg with
  | some i => startJoin i { s with field.rejoin := true }
  | none => s

/-! ### The boot report (R562) -/

/-- Bytes of a Ledger record (R367). -/
def recordBytes (r : Record) : Bytes :=
  le 4 r.opno ++ le 2 r.opcode ++ le 1 r.origin ++ le 1 r.tag ++ le 1 (r.gen % 16 + 16 * r.state) ++ le 1 (1 + 2 * b2n r.fromFlash) ++
  le 2 r.steps ++ le 1 r.status ++ fit 3 [] ++ le 8 r.start ++ le 8 r.ponr

/-- The firmware version reported; none runs in recovery. -/
def firmwareVersion (s : State) : Nat := if s.hold.bootPhase = 5 then 0 else imageVersion (imageSlot s.fw.running s)

/-- Byte 12 of the report. -/
def imageByte (s : State) : Nat :=
  s.fw.running + 2 * b2n s.fw.onTrial + 4 * b2n s.fw.trialAbandoned + 8 * b2n s.fw.otherFailed + 16 * b2n (s.hold.bootPhase == 5)

/-- Byte 15. -/
def faultByte (replaced empty : Bool) (s : State) : Nat :=
  b2n s.power.buckFell + 2 * b2n s.power.faultSeen60 + 4 * b2n s.power.faultSeen61 + 8 * b2n replaced + 16 * b2n empty

/-- Microseconds from the wake to BOOT_PHASE 4; 0 for a reset without a wake. -/
def startUs (s : State) : Nat := if s.power.startKind = 3 then 0 else (s.power.coarse - s.power.wakeCoarse) / 1000

def reportBytes (recs : List Record) (faults : Nat) (s : State) : Bytes :=
  let l := recs.take 16
  le 2 1 ++ le 2 (64 + 32 * l.length) ++ le 4 s.fixed.bootNumber ++ le 4 (holdCause s) ++ le 1 (imageByte s) ++
  le 1 (s.hold.straps % 4) ++ le 1 l.length ++ le 1 faults ++ le 4 (firmwareVersion s) ++ le 2 s.fixed.openedCount ++
  le 1 (banksInService s) ++ le 1 (spareBanks s).length ++ le 4 (startUs s) ++ le 4 s.stw.nextOpno ++
  le 8 (if s.alm.state = .free then 0 else nowNs s) ++ fit 24 [] ++ (l.map recordBytes).flatten

/-- Write the report and raise event 6. -/
def bootReport (recs : List Record) (faults : Nat) (s : State) : State :=
  let s := { s with fixed.bootNumber := (s.fixed.bootNumber + 1) % 4294967296 }
  let s := { s with staging := mwrite 0x7F000 (reportBytes recs faults s) s.staging
                    power.faultSeen60 := false, power.faultSeen61 := false, power.buckFell := false }
  raise 6 noObject s

/-! ### Forwarding resumes (R546 to R548) -/

/-- Event 56 and the watch for a false wake; a timer or power-on wake is never false. -/
def wakeReported (left : PowerState) (s : State) : State :=
  let w := s.power
  let s := raise 56 w.firstWake { s with power.resumed := stampOf (nowNs s), power.left := left, power.watchWake := true, power.netWoken := false }
  if w.firstWake = 6 ∨ w.firstWake = 7 then trueWake s else s

/-- The Fallow state HOLD_CAUSE names. -/
def leftState (n : Nat) : PowerState :=
  match n with
  | 1 => .listen | 2 => .watch | 3 => .retain | 4 => .deep | _ => .growing

/-- Core and Steward run (BOOT_PHASE 4). -/
def reachReady (s : State) : State :=
  { s with hold.bootPhase := 4, stw.up := true, stw.notServing := false, power.state := .growing, power.inh := true }

/-! ### START_SEQUENCE (R556 to R558, R568) -/

/-- Steps 1 to 4: rails, regulator, core reset released, straps latched. -/
def latchStraps (straps : Nat) (s : State) : State :=
  clearHold { s with hold.straps := straps % 4, hold.bootPhase := 0, power.vcore := 800, power.inh := true }

/-- Recovery boot: no image is loaded, the ROM serves one queue, nothing is restored. -/
def recoveryBoot (s : State) : State :=
  { s with hold.bootPhase := 5, power.state := .growing }

/-- The start after a clearing reset from step 5. -/
def fullStart (s : State) : State :=
  let r := bootSelect s
  if !r.1 then { r.2 with hold.bootPhase := 15, power.state := .growing }
  else
    let l := restoreLedger (restoreBanks r.2)
    let b := flashBank l.2
    let s := startPorts (startControllers (loadBank l.2))
    let s := confirmAtBoot (reachReady s)
    let faults := faultByte b.2.1 b.2.2 s
    let s := rejoinField (bootReport l.1 faults s)
    if s.power.startKind = 3 then s else wakeReported (leftState s.hold.fallowLeft) s

/-- Ticks of the 32 768 Hz counter in a span of ns, as ns: what Eulyn adds to the kept time (R539). -/
def coarseElapsed (ns : Nat) : Nat := ns * 32768 / 1000000000 * 1000000000 / 32768

/-- Time and servo after a wake from Fallow-watch or Fallow-retain (R539). -/
def seedTime (s : State) : State :=
  let t := s.power.keptSec * 1000000000 + s.power.keptNs + coarseElapsed (s.power.coarse - s.power.keptCoarse)
  setTimeState (if servoSource s = 3 then .free else .acquiring)
    { s with alm.sec := t / 1000000000, alm.ns := t % 1000000000, alm.frac := 0, alm.i := s.power.keptI, alm.firstLock := true }

/-- Keys unwrapped: transmit slots in use must be re-keyed (R512). -/
def unwrapSlot (v : KeySlot) : KeySlot :=
  if !saReceive v.sa && (v.state == .active || v.state == .warned || v.state == .next) then { v with state := .rekey, pred := none } else v

/-- A slot that changes its state at the wake raises event 50 (R506). -/
def restoreKeys (s : State) : State :=
  let changed := (s.keys.wrapped.filter (fun e => (unwrapSlot e.2).state != e.2.state)).map (·.1)
  changed.foldl (fun s n => raise 50 n s)
    { s with keys.slots := s.keys.wrapped.map (fun e => (e.1, unwrapSlot e.2)), keys.wrapped := [] }

/-- The start after a wake that kept Steward SRAM skips steps 5 to 7. -/
def wakeStart (s : State) : State :=
  let b := flashBank s
  let s := restoreKeys (seedTime (startPorts (startControllers (loadBank s))))
  let s := reachReady s
  wakeReported (leftState s.hold.fallowLeft) (bootReport [] (faultByte b.2.1 b.2.2 s) s)

/-- START_SEQUENCE: waits while BUCK_VIN is low or RESETn holds the core. -/
def execStartSequence (straps : Nat) (s : State) : Result :=
  if s.power.state ≠ .starting ∨ s.power.buckLow then .next s
  else
    let s := latchStraps straps s
    .next (if s.hold.straps / 2 = 1 then recoveryBoot s
           else if s.power.startKind = 4 then wakeStart s else fullStart s)

end Sys2Proof.Machine
end

