-- ==== Sys2Proof/Machine/Restart.lean ====
section
/-! DEFINITION. The opening of the Gate and the end of a Steward restart: the row STEWARD_RESTART_DONE (R373, R374, R515 to R517,
R566, R579). -/

namespace Sys2Proof.Machine

/-! ### The opening of the Gate (R515) -/

/-- Steps 1 to 5: opened-count, OTP lock, cipher engine stopped, every key and key register zeroised. -/
def zeroKeys (s : State) : State :=
  let s := raise 54 noObject (eraseAll { s with fixed.openedCount := s.fixed.openedCount + 1 })
  { s with keys := { protTx := s.keys.protTx, protRx := s.keys.protRx, kek := false, otpLocked := true, gateDebug := true } }

/-- Step 6: Steward SRAM, retained part included, is zeroised; commands in flight are answered from the Hold window and the mirror. -/
def zeroSteward (s : State) : State :=
  { stewardReset 6 s with
    stw.tags := [], stw.ledger := [], stw.answers := [], stw.mq3 := [], stw.walked := [], stw.retill := none, stw.committing := false
    stw.directChanges := 0, stw.flip := none, stw.staged := none, stw.tc := none
    ev.log := [], ev.nextSeq := 0, ev.lost := 0, sown := {}, fw.staging := none, fw.verified := false }

/-- Steps 1 to 8 of the opening; HOLD_CAUSE keeps its value, as none of its kinds names an opening. -/
def openGate (s : State) : State :=
  let cause := s.hold
  let s := raiseSession (clearTraffic (zeroKeys s))
  { zeroSteward s with
    hold.gateOpened := true, hold.resetKind := cause.resetKind, hold.fallowLeft := cause.fallowLeft, hold.firstWake := cause.firstWake
    hold.wakeSeen := cause.wakeSeen }

/-! ### STEWARD_RESTART_DONE -/

/-- The status a record of the Ledger ended with. -/
def recordStatus (n : Nat) (s : State) : Status :=
  match s.stw.ledger.find? (fun r => r.opno == n) with
  | some r => if r.state = 3 then .abandoned else if r.status = Status.partial_.code then .partial_ else .ok
  | none => .abandoned

/-- A test command in flight: its object is in its prior state (R374). -/
def isTest (o : Op) : Bool := o.opcode == 0x0A04 || o.opcode == 0x0E01

/-- The part of a walk ends with it, but for a journaled one, which resumes. -/
def dropInner (s : State) : State := { s with stw.ops := s.stw.ops.filter (fun o => !o.inner || o.opno != 0) }

/-- A journaled operation resumes; every other command in flight is answered ST_ABANDONED with outcome unknown (R373). -/
def abandonOp (s : State) (o : Op) : State :=
  if isTest o then endNow o { status := .abandoned, progress := o.progress } s
  else if o.opno ≠ 0 then s else finishOp o { status := .abandoned, unknown := true, progress := o.progress } s

/-- After an opening: the Gate command ends with ST_OK, a journaled one with the outcome its mirror gives (R516). -/
def settleOp (s : State) (o : Op) : State :=
  if o.body = .gateOpen then finishOp o {} s
  else if o.opno ≠ 0 then finishOp o { status := recordStatus o.opno s, progress := o.progress } s
  else abandonOp s o

/-- Step 9 of the opening: the standing bank and the Ledger are restored from flash. -/
def reopen (s : State) : State :=
  let s := (restoreLedger s).2
  let s := startControllers (loadBank s)
  s.stw.ops.foldl settleOp s

/-- Event 62 at BOOT_PHASE 4 after a Steward fault: the third within 10 minutes has detail 3 (R579). -/
def faultEvent (s : State) : State :=
  let recent := s.stw.watchdog.filter (fun t => decide (s.power.upNs < t + 600000000000))
  let s := { s with stw.watchdog := recent }
  if s.hold.resetKind = 8 ∨ s.hold.resetKind = 9 then
    raiseD 62 (if 3 ≤ recent.length then 3 else if s.hold.resetKind = 9 then 1 else 2) noObject s
  else s

/-- A Steward that opened the Gate comes back. -/
def openingGate (s : State) : Bool := s.hold.gateOpened && s.stw.ops.any (fun o => o.body == .gateOpen)

/-- Eulyn serves the commands still waiting in the slots (R373). -/
def scanQueues (s : State) : State := { s with hold.queues := s.hold.queues.map (fun e => (e.1, { e.2 with notified := true })) }

/-- STEWARD_RESTART_DONE: the selected image is loaded and verified, Eulyn resumes. -/
def execStewardRestartDone (s : State) : Result :=
  if s.hold.bootPhase ≠ 6 then .next s
  else
    let r := bootSelect s
    if !r.1 then .next { r.2 with hold.bootPhase := 15 }
    else
      let s := scanQueues (confirmAtBoot { r.2 with hold.bootPhase := 4, stw.up := true })
      if openingGate s then .next (reopen s)
      else
        let s := faultEvent (dropInner s)
        .next (s.stw.ops.foldl abandonOp s)

end Sys2Proof.Machine
end

