-- ==== Sys2Proof/Machine/Fallow.lean ====
section
/-! DEFINITION. Entering a Fallow state and waking: command 0B02h, the wake sources, false wakes and the automatic entry (R289,
R436, R534, R536, R537, R540 to R548). -/

namespace Sys2Proof.Machine

/-! ### Sources and states (R536, R548) -/

/-- Source codes that wake the part from a state. -/
def sourcesOf (t : PowerState) : List Nat :=
  match t with
  | .listen => [1, 2, 4, 5, 6]
  | .watch => [1, 2, 3, 4, 6]
  | .retain => [1, 2, 4, 6]
  | .deep => [1, 2, 4]
  | _ => []

/-- A source is enabled: its bit, a channel where it needs one, seconds for the timer. -/
def sourceEnabled (src : Nat) (s : State) : Bool :=
  flag (wakeCfg s) 0 (src - 1) && within 1 src 6 &&
  (src != 3 || !(namedChannels (wakeCfg s)).isEmpty) && (src != 4 || u8 (wakeCfg s) 7 != 255) &&
  (src != 6 || u32 (fallowPolicy s) 16 != 0)

/-- Enabled sources that survive in a state. -/
def survivors (t : PowerState) (s : State) : List Nat := (sourcesOf t).filter (fun c => sourceEnabled c s)

/-- A source wakes the part from a state: enabled, valid there and not suspended. -/
def wakesFrom (t : PowerState) (src : Nat) (s : State) : Bool := (survivors t s).contains src && !s.power.suspended.contains src

/-- Target state of a code of R435 and R436. -/
def targetState (n : Nat) : PowerState := leftState n

/-- FALLOW_LEFT code. -/
def PowerState.code : PowerState → Nat
  | .listen => 1 | .watch => 2 | .retain => 3 | .deep => 4 | _ => 0

def listenPort (s : State) : Nat := u8 (fallowPolicy s) 2

/-- The listen port is up at 1G. -/
def listenUp (s : State) : Bool := portUp (listenPort s) s && portSpeed (listenPort s) s == 2

/-! ### 0B02h FALLOW_ENTER (R436, R540) -/

/-- Every configured network is in Bus-sleep. -/
def netsAsleep (s : State) : Bool := (configuredNets s).all (fun n => (netOf n s).state == 4)

/-- An entry is under way or armed. -/
def entryBusy (s : State) : Bool := s.power.entering.isSome || s.power.armedFor.isSome

def actFallowEnter (c : Call) (_ : Nat) (s : State) : Work :=
  let t := targetState (u8 c.params 0)
  if openCount s.stw.ledger ≠ 0 || entryBusy s then { status := .busy, st := s }
  else if (survivors t s).isEmpty || (t == .listen && !listenUp s) then { status := .notPermitted, inline := [2], st := s }
  else
    let w := if flag c.params 1 0 || netsAsleep s then 2 else 1
    { long := some (.fallow (u8 c.params 0)), st := { s with power.entering := some t, power.entryStep := w } }

def cmdFallowEnter : Cmd := {
  opcode := 0x0B02, scope := .device
  check := fun c _ => need (onlyBytes c [(0, 2)] && within 1 (u8 c.params 0) 4 && fld c.params 1 1 7 == 0)
  act := actFallowEnter }

/-- 0B02h FALLOW_ENTER. -/
def execFallowEnter (c : Call) (s : State) : Result := .next (serve cmdFallowEnter c s)

/-! ### The steps of an entry -/

/-- A copy the Drill does not send within the 10 ms. -/
def beyond (t : Nat) (c : Copy) : Bool := !c.due && decide (t < c.release)

/-- Discard the copies due later than the 10 ms, counted as dropped on row disable. -/
def dropLater (t : Nat) (s : State) : State :=
  let gone := ((s.drill.rows.map (·.2)).flatten ++ (s.drill.ports.map (·.2)).flatten).filter (beyond t)
  gone.foldl (fun s c => discardCopy 22 c s)
    { s with drill.rows := s.drill.rows.map (fun e => (e.1, e.2.filter (fun c => !beyond t c)))
             drill.ports := s.drill.ports.map (fun e => (e.1, e.2.filter (fun c => !beyond t c))) }

/-- Step 3: the Ploughs stop. -/
def beginDrain (s : State) : State :=
  let t := nowNs s + 10000000
  dropLater t { s with power.entryStep := 3, power.halted := true, power.entryUntil := s.power.upNs + 10000000, stw.notServing := true }

/-- Step 5: keys wrapped, time and servo integral written to retained SRAM (R512, R537, R539). -/
def keepForWake (s : State) : State :=
  { s with
    keys.wrapped := if s.keys.kek then s.keys.slots.filter (fun e => !e.2.key.isEmpty) else []
    power.keptSec := s.alm.sec, power.keptNs := s.alm.ns, power.keptI := s.alm.i, power.keptCoarse := s.power.coarse }

/-- Steps 4 to 6: rings stopped, the final response written, detectors armed. -/
def arm (t : PowerState) (s : State) : State :=
  let s := (tkeys s.rings).foldl (fun s n => stopRing n 0 s) s
  let s := keepForWake s
  let s := { s with power.entering := none, power.entryStep := 0, power.armedFor := some t, power.decodeErr := [] }
  match fallowOp s with
  | some o => endOp o { inline := [0] } s
  | none => s

/-- What Fallow-listen keeps running: hardware tables, Almanac at its held frequency, Steward SRAM, the listen port (R168, R539). -/
def enterListen (s : State) : State :=
  let keep := listenPort s
  let s := if synced s then freeze s else s
  { s with
    power.inh := true, power.vcore := 620
    ports.rt := s.ports.rt.map (fun e => (e.1, if e.1 = keep then e.2 else { lastChange := e.2.lastChange }))
    buses.can := s.buses.can.map (fun e => (e.1, { e.2 with integrated := false, onBus := false, retry := false })) }

/-- The core is off: hardware tables, runtime and counters are lost; settings and the Ledger stay in retained SRAM. -/
def enterOff (s : State) : State :=
  { s with
    power.inh := false, power.vcore := 0, hold.bootPhase := 0, staging := []
    stw.up := false, stw.notServing := false, stw.segments := [], stw.answerSegs := [], stw.mq3 := [], stw.inbox := []
    bank := {}, sown := {}, harrow := {}, drill := {}, ploughs := [], keys.slots := [], keys.nonce := none
    gran.cells := [], gran.freePoison := [], gran.corrected := [], gran.counted := [], gran.nCorrected := 0, gran.nUncorrectable := 0, gran.leaked := 0
    buses := { pins := { inputs := s.buses.pins.inputs } }, ports.rt := [], ports.counters := []
    alm := { working := s.alm.working, relayed := s.alm.relayed, alarms := s.alm.alarms, schedule := s.alm.schedule } }

/-- Step 7: the target state is reached; the Granary is empty, a new Sheaf session starts (R213). -/
def reach (t : PowerState) (s : State) : State :=
  let s := clearHold (clearTraffic (raiseSession s))
  let s := { s with power.state := t, power.left := t, power.watchWake := false, power.armedFor := none, power.halted := false }
  if t = .listen then enterListen s else enterOff s

/-- The walk an operation is part of: under the same call, waiting for it (R57). -/
def parentOf (f o : Op) : Bool :=
  f.inner && o.call == f.call && o.from_ == f.from_ && match o.body with
    | .walk w => w.inner.isSome
    | _ => false

/-- Nothing but the entering command is in flight, or the walk it came by (R436, R540). -/
def onlyEntering (s : State) : Bool :=
  s.stw.ops.all (fun o => match o.body with
    | .fallow _ => true
    | _ => (fallowOp s).any (fun f => parentOf f o))

/-- One step of an entry. -/
def entryStep (s : State) : State :=
  match s.power.armedFor, s.power.entering with
  | some t, _ => reach t s
  | none, none => s
  | none, some t =>
    match s.power.entryStep with
    | 1 => if netsAsleep s then { s with power.entryStep := 2, stw.notServing := true } else s
    | 2 => if onlyEntering s then beginDrain s else { s with stw.notServing := true }
    | _ => if (allCopies s).isEmpty || decide (s.power.entryUntil ≤ s.power.upNs) then arm t s else s

/-! ### Waking (R540 to R546) -/

/-- The source goes into HOLD_CAUSE; RESET_KIND changes for a wake from Fallow-deep only. -/
def wakeCause (t : PowerState) (src : Nat) (s : State) : State :=
  { s with hold.fallowLeft := t.code, hold.firstWake := src, hold.wakeSeen := BitVec.ofNat 7 (2 ^ (src - 1))
           hold.resetKind := if t = .deep then 1 else s.hold.resetKind, power.wakeCoarse := s.power.coarse }

/-- Fallow-listen ends: the core runs at once, other ports look for their links, time is in Holdover (R539). DESIGN CHOICE (log 140): so
is that of a grandmaster, although R169 calls a grandmaster Locked; best master selection is what makes it Locked again. -/
def resumeListen (s : State) : State :=
  let keep := listenPort s
  let s := (tkeys s.ports.config).foldl (fun s p =>
    if p != keep && portPresent p s && portEnabled p s then startVerify p (setPort p { portRt p s with training := true } s) else s) s
  let s := restoreKeys (if synced s then setTimeState .holdover s else s)
  wakeReported .listen { s with power.state := .growing, power.vcore := 800 }

/-- The first source that qualifies starts the wake. -/
def beginWake (t : PowerState) (src ch filter : Nat) (s : State) : State :=
  let s := wakeCause t src (recordWake src ch filter s)
  match t with
  | .listen => resumeListen s
  | .deep => { clearing 2 s with power.state := .starting }
  | _ => { s with power.state := .starting, power.startKind := 4 }

/-- A further source before forwarding resumes; one of the same coarse tick with a lower code is the first source. -/
def seeWake (src ch filter : Nat) (s : State) : State :=
  let tick := fun (n : Nat) => n * 32768 / 1000000000
  let seen := bitAt 7 (src - 1)
  let s := { s with hold.wakeSeen := s.hold.wakeSeen ||| seen, power.seen := s.power.seen ||| seen }
  if tick s.power.coarse = tick s.power.wakeCoarse ∧ src < s.power.firstWake then
    { s with hold.firstWake := src, power.firstWake := src, power.wakeChannel := ch, power.wakeFilter := filter }
  else s

/-- A source qualifies. -/
def wakeFrom (src ch filter : Nat) (s : State) : State :=
  match s.power.armedFor with
  | some t => if wakesFrom t src s then abandonEntry src ch filter s else s
  | none =>
    let t := s.power.state
    if wakesFrom t src s then beginWake t src ch filter s
    else if t = .starting ∧ (s.power.startKind = 2 ∨ s.power.startKind = 4) ∧ wakesFrom (leftState s.hold.fallowLeft) src s then
      seeWake src ch filter s
    else s

/-- WAKE_PIN: WAKE0 is source 1, WAKE1 source 2; the edge must be a configured one. -/
def execWakePin (n : Nat) (rising : Bool) (s : State) : Result :=
  let e := fld (wakeCfg s) 1 (2 * n) 2
  .next (if e = 2 ∨ (e = 0 ∧ rising) ∨ (e = 1 ∧ !rising) then wakeFrom (n + 1) 255 255 s else s)

/-- CAN_WAKE_UP_PATTERN. -/
def execCanWakeUpPattern (s : State) : Result := .next (wakeFrom 4 255 255 s)

/-- WAKE_TIMER. -/
def execWakeTimer (s : State) : Result := .next (wakeFrom 6 255 255 s)

/-- A pattern filter of the listen port with its wake bit matches (R289). -/
def wakeHit (d : Bytes) (s : State) : Bool :=
  (List.range 64).any (fun n => match tget (64 * listenPort s + n) s.ports.patterns with
    | some i => patternWakes i && patternHit i d
    | none => false)

/-- ETHERNET_WAKE_PATTERN. -/
def execEthernetWakePattern (frame : Bytes) (s : State) : Result := .next (if wakeHit frame s then wakeFrom 5 255 255 s else s)

/-- A frame matches a filter of R543. -/
def filterHit (x : Bytes) (f : WakeFrame) : Bool :=
  let mask := fld x 4 0 29
  flag x 8 1 && !f.rtr && flag x 8 0 == f.ide && (fld x 0 0 29 &&& mask) == (f.id &&& mask) &&
  (!flag x 8 2 || (u8 x 9 == f.dlc &&
    (List.range 8).all (fun i =>
      let d := if i < f.dlc then (f.data.getD i 0) else 0
      (d &&& x.getD (24 + i) 0) == (x.getD (16 + i) 0 &&& x.getD (24 + i) 0))))

/-- A frame on selective channel `ch`: the decode error counter, then the lowest matching filter. -/
def selectiveFrame (ch : Nat) (f : WakeFrame) (s : State) : State :=
  let n := tgetD ch 0 s.power.decodeErr
  if f.error then
    let s := { s with power.decodeErr := tset ch (n + 1) s.power.decodeErr }
    if n + 1 = 32 then wakeFrom 3 ch 255 s else s
  else
    let s := { s with power.decodeErr := tset ch (n - 1) s.power.decodeErr }
    match firstBelow 8 (fun i => filterHit (wakeFilter (wakeCfg s) ch i) f) with
    | some i => wakeFrom 3 ch i s
    | none => s

/-- The selective decoders run in Fallow-watch and while it is being entered or left. -/
def decoding (s : State) : Bool :=
  s.power.state == .watch || s.power.armedFor == some .watch ||
  (s.power.state == .starting && s.power.startKind == 4 && s.hold.fallowLeft == 2)

/-- CAN_SELECTIVE_WAKE: FD and XL frames count neither as frame nor as error. -/
def execCanSelectiveWake (ch : Nat) (f : WakeFrame) (s : State) : Result :=
  .next (if decoding s && !f.fd && (namedChannels (wakeCfg s)).contains ch then selectiveFrame ch f s else s)

/-! ### False wakes (R32, R547, R548) -/

/-- False wakes of a source in the last hour, on the coarse counter. -/
def falseInHour (src : Nat) (s : State) : Nat :=
  (s.power.falseInstants.filter (fun e => e.2 == src && decide (s.power.coarse < e.1 + 3600000000000))).length

/-- Suspending a source leaves its state another source that wakes it. -/
def maySuspend (src : Nat) (s : State) : Bool := ((survivors s.power.left s).filter (fun c => c != src && !s.power.suspended.contains c)) != []

/-- Count a false wake against its first source. -/
def countFalse (src : Nat) (s : State) : State :=
  let w := s.power
  let s := { s with
    power.watchWake := false, power.falseWakes := tadd src 1 w.falseWakes, power.falseInstants := (w.coarse, src) :: w.falseInstants
    power.falseSince := w.falseSince ++ [src] }
  if u8 (fallowPolicy s) 8 ≤ falseInHour src s ∧ maySuspend src s then { s with power.suspended := insertNat src s.power.suspended } else s

/-- FALSE_WAKE_TIMEOUT: back to the state left, without an agreement round, when no network was woken in between (R32). -/
def execFalseWakeTimeout (s : State) : Result :=
  if s.power.state != .growing || !s.power.watchWake then .next s
  else
    let s := countFalse s.power.firstWake s
    .next (if !s.power.netWoken && !(configuredNets s).any (fun n => (netOf n s).wakeHeld) && !entryBusy s then { s with power.entering := some s.power.left, power.entryStep := 2 } else s)

/-- BACKOFF_END. -/
def execBackoffEnd (src : Nat) (s : State) : Result := .next { s with power.suspended := s.power.suspended.filter (· != src) }

/-! ### AUTOMATIC_FALLOW_ENTRY (R548) -/

/-- Every condition of the entry the part makes by itself. -/
def autoReady (s : State) : Bool :=
  s.power.state == .growing && s.stw.up && s.hold.bootPhase == 4 && !(configuredNets s).isEmpty && netsAsleep s &&
  (configuredNets s).all (fun n => !nmNeeds (netOf n s)) && openCount s.stw.ledger == 0 && !entryBusy s

/-- The state the policy names; without a listen port at 1G, Fallow-retain with event 57. -/
def autoTarget (s : State) : PowerState × State :=
  let t := targetState (u8 (fallowPolicy s) 1)
  if t = .listen ∧ !listenUp s then (.retain, agreementEvent noObject 4 s) else (t, s)

/-- AUTOMATIC_FALLOW_ENTRY. -/
def execAutomaticFallowEntry (s : State) : Result :=
  if !autoReady s then .next s
  else
    let r := autoTarget s
    .next (if (survivors r.1 r.2).isEmpty then s else { r.2 with power.entering := some r.1, power.entryStep := 2 })

end Sys2Proof.Machine
end

