-- ==== Sys2Proof/Machine/Loader.lean ====
section
/-! DEFINITION. The commands on bank items by opcode (R377, R418), and the loading of a re-till image (R366, R455). -/

namespace Sys2Proof.Machine

/-- The variant a selector names; an unknown one is the first variant, whose check refuses it. -/
def variant (l : List Cmd) (n : Nat) : Option Cmd := l[n]?.or l.head?

/-- Commands on bank items. -/
def bankCmd (op : Nat) (c : Call) : Option Cmd :=
  match op with
  | 0x0201 => some cmdRowBind
  | 0x0202 => some cmdRowEnable
  | 0x0203 => some cmdRowDisable
  | 0x0205 => some cmdRowFramingSet
  | 0x0301 => some cmdRouteAdd
  | 0x0302 => some cmdRouteRemove
  | 0x0304 => variant [cmdLsetWrite, cmdLsetRead] (u8 c.params 2)
  | 0x0305 => some cmdTeamSet
  | 0x0307 => variant [cmdSieveSet, cmdSieveClear] (u8 c.params 1)
  | 0x0308 => some cmdRewriteSet
  | 0x0501 => some cmdFurrowListWrite
  | 0x0503 => some cmdShaperSet
  | 0x0504 => some cmdSheafSet
  | 0x0505 => variant [cmdClassMapSet, cmdPoolAndGuardSet] (u8 c.params 0)
  | 0x0701 => variant [cmdRuleWrite, cmdRuleRead] (u8 c.params 2)
  | 0x0702 => some cmdRuleClear
  | 0x0703 => some cmdPolicerSet
  | 0x0704 => some cmdZoneSet
  | 0x0901 => some cmdTallyBind
  | 0x0902 => some cmdTallyRelease
  | 0x0C01 => some cmdFieldPinAssign
  | 0x0C02 => variant [cmdCanConfig, cmdCanRecover] (fld c.params 1 7 1)
  | 0x0C03 => some cmdUartConfig
  | 0x0C04 => some cmdLinConfig
  | 0x0C05 => some cmdMvbConfig
  | _ => none

/-- Bytes the hops of a record take. -/
def hopPad (n : Nat) : Nat := (n + 3) / 4 * 4

/-- The call a record makes: its command with the staged flag. -/
def recordCall (c : Call) (r : Bytes) : Call :=
  let n := u8 r 4
  let at_ := 8 + hopPad n
  { queue := 0, tag := c.tag, gen := c.gen, staged := true, hops := (sub r 8 n).map (·.toNat), params := sub r at_ 48
    bulk := sub r (at_ + 48) (u16 r 6) }

/-- The record's length is what its parts take, padded to 8. -/
def recordLen (r : Bytes) : Nat := (8 + hopPad (u8 r 4) + 48 + u16 r 6 + 7) / 8 * 8

/-- Act on the sown bank as the record says. A walk stays on this device: a plot of another one fails. -/
def stageRecord (k : Cmd) (c : Call) (p : Plot) (s : State) : Status × State :=
  if applies k.scope p then (let x := actOn k c p s
                             (x.status, x.st))
  else if k.scope = .singleRow then (.badPlot, s)
  else
    let r := walkOn k c none walkFuel (startWalk k p [] false s) { s with field.join := 0 }
    (walkStatus c r.1, { r.2 with field.join := s.field.join })

/-- Apply one record. -/
def applyRecord (c : Call) (r : Bytes) (s : State) : Status × State :=
  let c := recordCall c r
  match bankCmd (u16 r 0) c with
  | none => (.badParam, s)
  | some k =>
    if !k.bank || u8 r 5 != 0 then (.badParam, s)
    else match target c s with
      | .bad st => (st, s)
      | .at_ p _ | .sub p => if k.check c s ≠ .ok then (k.check c s, s) else stageRecord k c p s

/-- How far the loading of an image has come: what is left of it, records applied, the status of a failing one. -/
structure Load where
  rest : Bytes
  applied : Nat
  failed : Option Status := none
  st : State

/-- Apply the records that lie within the next `room` bytes read; at most `n` of them. -/
def loadWithin (c : Call) : Nat → Nat → Bytes → Nat → State → Load
  | 0, _, rest, k, s => { rest, applied := k, st := s }
  | n + 1, room, rest, k, s =>
    let len := u16 rest 2
    if rest.isEmpty || decide (room < 8 ∧ 8 ≤ rest.length) then { rest, applied := k, st := s }
    else if rest.length < 8 ∨ len ≠ recordLen rest ∨ rest.length < len then { rest, applied := k, failed := some .badParam, st := s }
    else if room < len then { rest, applied := k, st := s }
    else
      let x := applyRecord c rest s
      if x.1 ≠ .ok then { rest, applied := k, failed := some x.1, st := x.2 }
      else loadWithin c n (room - len) (rest.drop len) (k + 1) x.2

/-- Load up to byte `upTo` of the image whose part `rest` is not yet applied. -/
def loadRecords (upTo : Nat) (c : Call) (rest : Bytes) (applied : Nat) (s : State) : Load :=
  loadWithin c (c.bulk.length / 56 + 1) (upTo - (c.bulk.length - rest.length)) rest applied s

end Sys2Proof.Machine
end

