-- ==== Sys2Proof/Machine/PortEvents.lean ====
section
/-! DEFINITION. Pause, preemption verify and link of a port: the rows PAUSE_FRAME to LINK_DOWN_HOLD_OFF (R276 to R280, R292 to
R298). -/

namespace Sys2Proof.Machine

/-! ### Pause (R292 to R296) -/

/-- PAUSE_FRAME: in internal loopback only the port's own frames arrive (R452). -/
def execPauseFrame (p : Nat) (m : PauseMsg) (s : State) : Result :=
  .next (if s.power.state != .growing || !portUp p s || looped p s then s else receivePause p m s)

/-- Classes that share the watchdog and timer of a class: all of them under legacy pause. -/
def pauseGroup (p tc : Nat) (s : State) : List Nat := if pauseMode p s = 1 then List.range 8 else [tc]

/-- Move the classes of a group that are in a state to another. -/
def movePause (p tc old : Nat) (v : PauseRt) (s : State) : State :=
  ((pauseGroup p tc s).filter (fun t => (pauseOf p t s).state == old)).foldl (fun s t => setPause p t v s) s

/-- PAUSE_TIMER_EXPIRY. -/
def execPauseTimerExpiry (p tc : Nat) (s : State) : Result := .next (movePause p tc 1 {} (updateCredits p s))

/-- PAUSE_WATCHDOG. -/
def execPauseWatchdog (p tc : Nat) (s : State) : Result :=
  if (pauseOf p tc s).state ≠ 1 ∨ u32 (pauseCfg p s) 8 = 0 then .next s
  else .next (raise 17 p (countPort p 46 1 (countPort p 13 1 (movePause p tc 1 { state := 2 } (updateCredits p s)))))

/-- RECOVERY_PERIOD_END. -/
def execRecoveryPeriodEnd (p tc : Nat) (s : State) : Result := .next (movePause p tc 2 {} (updateCredits p s))

/-- PAUSE_REPEAT: the pause is sent again for what is still at or above XON (R296). -/
def execPauseRepeat (p : Nat) (s : State) : Result :=
  let i := pauseCfg p s
  let v := portRt p s
  let xon := u8 i 6 * 1024
  if v.pauseSent = 0 || !portUp p s then .next s
  else match u8 i 2 with
    | 1 => .next (if xon ≤ bufferFill (.eth p) s then sendPause p false 255 (u16 i 14) s else s)
    | 2 =>
      let set := v.pauseSent &&& prioSet p (fun n => decide (xon ≤ n)) s
      .next (if set = 0 then s else sendPause p true set (u16 i 14) s)
    | _ => .next s

/-! ### Preemption verify (R298) -/

/-- VERIFY_MPACKET. -/
def execVerifyMpacket (p : Nat) (s : State) : Result :=
  if s.power.state == .growing && portUp p s && !looped p s then .next (sendMpacket p true s) else .next s

/-- RESPOND_MPACKET. -/
def execRespondMpacket (p : Nat) (s : State) : Result :=
  if (portRt p s).verify = 2 ∧ looped p s = false then .next (setPort p { portRt p s with verify := 0, attempts := 0 } s) else .next s

/-- VERIFY_TIME. -/
def execVerifyTime (p : Nat) (s : State) : Result :=
  let v := portRt p s
  if v.verify ≠ 2 || !portUp p s then .next s
  else if v.attempts ≠ 0 then .next (sendMpacket p false (setPort p { v with attempts := v.attempts - 1 } s))
  else .next (raise 18 p (countPort p 47 1 (setPort p { v with verify := 3 } s)))

/-! ### Link (R276, R277, R279, R280) -/

/-- The PHY reports a speed other than the fixed one (R276). -/
def speedMismatch (p speed : Nat) (s : State) : Bool := u8 (portCfg p s) 2 != 0 && u8 (portCfg p s) 2 != speed

/-- A link that was up goes down with what it takes along. -/
def takeDown (p : Nat) (s : State) : State := goDown p (dropLink p (countPort p 45 1 (updateCredits p s)))

/-- LINK_UP. -/
def execLinkUp (p speed : Nat) (s : State) : Result :=
  let v := portRt p s
  if s.power.state != .growing || !portPresent p s || !portEnabled p s || looped p s || speed == 0 || !speedOffered (laneMode (laneOf p) s) speed
  then .next s
  else if speedMismatch p speed s then
    let s := if v.link then takeDown p s else s
    .next (setPort p { portRt p s with mismatch := true, training := false } s)
  else if !v.link then .next (goUp p speed s)
  else if v.speed ≠ speed then .next (goUp p speed (takeDown p s))
  else if v.lossPending then .next (startVerify p (setPort p { v with lossPending := false } s))
  else .next s

/-- LINK_LOSS: with no hold-off the state changes at once. -/
def execLinkLoss (p : Nat) (s : State) : Result :=
  let v := portRt p s
  if s.power.state != .growing || looped p s || !v.link || v.lossPending then .next s
  else
    let s := dropLink p (countPort p 45 1 (updateCredits p s))
    if holdOff p s = 0 then .next (goDown p s) else .next (setPort p { portRt p s with lossPending := true } s)

/-- LINK_DOWN_HOLD_OFF: the loss has lasted beyond the hold-off. -/
def execLinkDownHoldOff (p : Nat) (s : State) : Result :=
  if (portRt p s).lossPending then .next (goDown p s) else .next s

end Sys2Proof.Machine
end

