-- ==== Sys2Proof/Machine/Maintenance.lean ====
section
/-! DEFINITION. Device information, diagnostics, firmware, the Ledger, re-till, operation control and resets by command: 0107h,
0E01h to 0E04h and 0F01h to 0F09h (R387, R451 to R462). -/

namespace Sys2Proof.Machine

/-! ### 0107h DEVICE_INFO -/

/-- Members marked reachable, itself included; 0 while it is no Member. -/
def membersReachable (s : State) : Nat :=
  if s.field.join = 2 then 1 + (s.field.roster.filter (fun e => e.2.reachable && !e.2.joining)).length else 0

def deviceBytes (s : State) : Bytes :=
  le 4 (holdId s) ++ [1, byte (s.fw.running + 2 * b2n s.fw.onTrial), 0, 0] ++ le 4 (firmwareVersion s) ++ le 8 s.fixed.serial ++
  le 2 s.field.id ++ le 1 s.field.dev ++ le 1 s.field.join ++ le 1 s.field.reason ++ le 1 (2 * b2n (decide (banksInService s < 112))) ++
  le 2 (s.bank.bind.filter (fun e => u8 e.2 0 != 0)).length ++ le 2 (membersReachable s) ++ le 1 (banksInService s) ++
  le 1 (spareBanks s).length ++ le 2 (ofBits ((List.range 10).map (fun p => portPresent p s))) ++ fit 2 [] ++
  le 4 (s.power.upNs / 1000000000) ++ le 2 s.fixed.openedCount

def cmdDeviceInfo : Cmd := {
  opcode := 0x0107, scope := .device, status := true, identity := 12
  agg := fun _ => [(23, 1, .state), (24, 1, .state), (25, 1, .flags), (26, 2, .capacity), (28, 2, .minU), (30, 1, .minU), (31, 1, .minU),
    (32, 2, .flags), (36, 4, .minU), (40, 2, .maxU)]
  check := fun c _ => need (onlyBytes c [])
  act := fun _ _ s => { inline := deviceBytes s, st := s } }

/-- 0107h DEVICE_INFO. -/
def execDeviceInfo (c : Call) (s : State) : Result := .next (serve cmdDeviceInfo c s)

/-! ### 0E01h SELF_TEST -/

/-- Tests whose resource is not in use (R451). -/
def testable (s : State) : Nat :=
  ofBits [!s.harrow.lanes.contains 4, true, decide (s.bank.tallies.length < 32),
    cipherPresent s && (List.range 160).any (fun n => (slotOf n s).state == .empty), !(spareBanks s).isEmpty]

/-- Passed, failed and skipped bitmaps; which of the tests that ran passed is free. -/
def actSelfTest (c : Call) (_ : Nat) (s : State) : Work :=
  let asked := u8 c.params 0
  let ran := asked &&& testable s
  let good := ran &&& (pick s % 32)
  { inline := le 1 good ++ le 1 (ran - good) ++ le 1 (asked - ran), st := picked s }

def cmdSelfTest : Cmd := {
  opcode := 0x0E01, scope := .device, journaled := true
  check := fun c _ => need (onlyBytes c [(0, 1)] && decide (u8 c.params 0 < 32))
  act := actSelfTest }

/-- 0E01h SELF_TEST. -/
def execSelfTest (c : Call) (s : State) : Result := .next (serve cmdSelfTest c s)

/-! ### 0E02h LOOPBACK_SET -/

/-- A port's loopback changes: the link goes down, and up again at the configured speed under internal loopback. -/
def loopPort (p mode : Nat) (s : State) : State :=
  let s := if (portRt p s).link then takeDown p s else s
  let s := { s with buses.loopback := if mode = 0 then tdel p s.buses.loopback else tset p mode s.buses.loopback }
  if mode = 1 && portPresent p s && portEnabled p s then goUp p (loopSpeed p s) s else s

def actLoopback (c : Call) (_ : Nat) (s : State) : Work :=
  let q := c.params
  let key := 16 * u8 q 0 + u8 q 1
  let mode := u8 q 2
  if tgetD key 0 s.buses.loopback = mode then { st := s }
  else if u8 q 0 = 0 then { st := loopPort (u8 q 1) mode s }
  else { st := { s with buses.loopback := if mode = 0 then tdel key s.buses.loopback else tset key mode s.buses.loopback } }

def cmdLoopbackSet : Cmd := {
  opcode := 0x0E02, scope := .device
  own := fun c s => need (u8 c.params 0 != 0 || portPresent (u8 c.params 1) s)
  check := fun c _ => let q := c.params
    need (onlyBytes c [(0, 3)] &&
      (if u8 q 0 = 0 then decide (u8 q 1 < 10) && decide (u8 q 2 ≤ 1) else decide (u8 q 0 ≤ 2 ∧ u8 q 1 < 16 ∧ u8 q 2 ≤ 2)))
  act := actLoopback }

/-- 0E02h LOOPBACK_SET. -/
def execLoopbackSet (c : Call) (s : State) : Result := .next (serve cmdLoopbackSet c s)

/-! ### 0E03h EVENT_LOG_READ, 0E04h ECHO -/

def logBytes (e : LogEntry) : Bytes := le 4 e.seq ++ le 1 e.event ++ le 1 e.detail ++ le 2 e.object ++ le 8 e.time

def actLogRead (c : Call) (_ : Nat) (s : State) : Work :=
  let first := u32 c.params 0
  let given := (s.ev.log.filter (fun e => decide (first ≤ e.seq))).take (u16 c.params 4)
  let got := if c.bulkResult then (given.take (areaLen c / 16)).map (·.seq) else []
  let oldest := (s.ev.log.head?.map (·.seq)).getD s.ev.nextSeq
  { inline := le 4 oldest ++ le 4 s.ev.nextSeq ++ le 4 (s.ev.lost % 4294967296)
    bulk := (given.map logBytes).flatten
    st := { s with ev.log := s.ev.log.map (fun e => if got.contains e.seq then { e with read := true } else e) } }

def cmdEventLogRead : Cmd := {
  opcode := 0x0E03, scope := .device, status := true, item := 16
  check := fun c _ => need (onlyBytes c [(0, 6)])
  act := actLogRead }

/-- 0E03h EVENT_LOG_READ. -/
def execEventLogRead (c : Call) (s : State) : Result := .next (serve cmdEventLogRead c s)

def cmdEcho : Cmd := {
  opcode := 0x0E04, scope := .device, status := true
  act := fun c _ s => { inline := fit 48 c.params, bulk := c.bulk, st := s } }

/-- 0E04h ECHO. -/
def execEcho (c : Call) (s : State) : Result := .next (serve cmdEcho c s)

/-! ### 0F01h to 0F03h: re-till (R366, R455 to R457) -/

/-- Result of RETILL_BEGIN: records applied, failing record, its status. -/
def loadResult (applied failing : Nat) (st : Status) : Bytes := le 4 applied ++ le 4 failing ++ le 1 st.code

/-- No failing record. -/
def noRecord : Nat := 0xFFFFFFFF

/-- The re-till goes: sown bank discarded. -/
def dropRetill (s : State) : State :=
  { s with stw.retill := none, stw.committing := false, sown := {}, stw.flip := if s.stw.committing then none else s.stw.flip }

def actRetillBegin (c : Call) (_ : Nat) (s : State) : Work :=
  let f := u8 c.params 0
  if sownHeld s then { status := .busy, st := s }
  else if 16 ≤ openCount s.stw.ledger then { status := .noResource, st := s }
  else
    let n := s.stw.nextOpno
    let s := openRecord 0x0F01 c (c.queue == 3) s
    let s := { s with sown := if f % 2 = 1 then s.bank else {}, stw.retill := some n, stw.directChanges := 0 }
    if f / 2 % 2 = 0 then { inline := loadResult 0 noRecord .ok, opno := n, st := s }
    else
      let r := loadRecords (min loadStep c.bulk.length) c c.bulk 0 s
      match r.failed with
      | some st => { status := st, inline := loadResult r.applied r.applied st, opno := n, st := closeRecord n st (dropRetill r.st) }
      | none =>
        if r.rest.isEmpty then { inline := loadResult r.applied noRecord .ok, opno := n, st := r.st }
        else { long := some (.retillLoad r.rest r.applied), opno := n, st := r.st }

def cmdRetillBegin : Cmd := {
  opcode := 0x0F01, scope := .device
  check := fun c _ => need (onlyBytes c [(0, 1)] && decide (u8 c.params 0 < 4) && (!flag c.params 0 1 || !c.bulk.isEmpty))
  act := actRetillBegin }

/-- 0F01h RETILL_BEGIN. -/
def execRetillBegin (c : Call) (s : State) : Result := .next (serve cmdRetillBegin c s)

/-- What the sown bank's check finds wrong: opcode and item index (log 39). -/
def sownFault (s : State) : Option (Nat × Nat) :=
  if !legalMix s.sown.pins s.power.wake then some (0x0C01, 0)
  else (s.sown.routes.find? (fun e => !routeNamesOk e.2 s.sown s)).map (fun e => (0x0301, e.1))

/-- RETILL_BEGIN is still loading. -/
def loading (s : State) : Bool :=
  s.stw.ops.any (fun o => match o.body with
    | .retillLoad _ _ => true
    | _ => false)

/-- Write the sown bank to the flash slot not standing. -/
def writeSpareSlot (n : Nat) (s : State) : State :=
  let b := { s.sown with acts := [] }
  if s.fixed.bankSel = 0 then { s with fixed.bankB := some (n, b) } else { s with fixed.bankA := some (n, b) }

/-- The slot written last is marked standing (R366). -/
def markSpare (s : State) : State := { s with fixed.bankSel := if s.fixed.bankSel = 0 then 1 else 0 }

/-- Raise the pace target to the demand of the sown bank (R31, R365). -/
def raiseTarget (s : State) : State := retarget (takeDemand (maxDemand (demandOf s.bank s) (demandOf s.sown s)) s)

def actRetillCommit (c : Call) (_ : Nat) (s : State) : Work :=
  match s.stw.retill with
  | none => { status := .notPermitted, st := s }
  | some n =>
    if s.stw.committing || loading s then { status := .busy, st := s }
    else match sownFault s with
      | some (op, i) => { status := .badParam, inline := fit 12 [] ++ le 2 op ++ le 2 i, opno := n, st := s }
      | none =>
        let t := u64 c.params 0
        let s := raiseTarget (writeSpareSlot n s)
        { long := some (.retillFlip t s.power.upNs), opno := n
          st := { s with stw.committing := true, stw.flip := some (max t (nowNs s)) } }

def cmdRetillCommit : Cmd := {
  opcode := 0x0F02, scope := .device
  check := fun c _ => need (onlyBytes c [(0, 8)])
  own := fun c s => need (decide (u64 c.params 0 ≤ nowNs s + 86400000000000))
  act := actRetillCommit }

/-- 0F02h RETILL_COMMIT. -/
def execRetillCommit (c : Call) (s : State) : Result := .next (serve cmdRetillCommit c s)

/-- Operation of RETILL_COMMIT waiting for its flip. -/
def commitOp (s : State) : Option Op :=
  s.stw.ops.find? (fun o => match o.body with
    | .retillFlip _ _ => true
    | _ => false)

/-- Ask RETILL_BEGIN to stop at its next step. -/
def stopLoading (s : State) : State :=
  { s with stw.ops := s.stw.ops.map (fun o => match o.body with
      | .retillLoad _ _ => { o with cancel := true }
      | _ => o) }

def actRetillAbort (_ : Call) (_ : Nat) (s : State) : Work :=
  match s.stw.retill with
  | none => { status := .notPermitted, st := s }
  | some n =>
    if loading s then { st := stopLoading s }
    else match commitOp s with
      | some o => { st := endOp o { status := .cancelled, progress := o.progress } (dropRetill s) }
      | none => { st := closeRecord n .cancelled (dropRetill s) }

def cmdRetillAbort : Cmd := { opcode := 0x0F03, scope := .device, check := fun c _ => need (onlyBytes c []), act := actRetillAbort }

/-- 0F03h RETILL_ABORT. -/
def execRetillAbort (c : Call) (s : State) : Result := .next (serve cmdRetillAbort c s)

/-! ### 0F04h LEDGER_STATE -/

/-- Records asked for: retained SRAM, or the flash mirror; recovery has the mirror only (R458, R568). -/
def ledgerAsked (c : Call) (s : State) : List Record :=
  let mirror := flag c.params 4 0 || s.hold.bootPhase == 5
  let l := if mirror then s.stw.flash.map (fun r => { r with fromFlash := true }) else s.stw.ledger
  if u32 c.params 0 = 0 then l else l.filter (fun r => r.opno == u32 c.params 0)

def actLedger (c : Call) (_ : Nat) (s : State) : Work :=
  let all := if flag c.params 4 0 || s.hold.bootPhase == 5 then s.stw.flash else s.stw.ledger
  { inline := le 2 (openCount all) ++ le 2 (all.length - openCount all) ++ le 4 s.stw.nextOpno
    bulk := ((ledgerAsked c s).map recordBytes).flatten, st := s }

def cmdLedgerState : Cmd := {
  opcode := 0x0F04, scope := .device, status := true, item := 32
  check := fun c _ => need (onlyBytes c [(0, 5)] && fld c.params 4 1 7 == 0)
  act := actLedger }

/-- 0F04h LEDGER_STATE. -/
def execLedgerState (c : Call) (s : State) : Result := .next (serve cmdLedgerState c s)

/-! ### 0F05h FW_STAGE, 0F06h FW_ACTIVATE -/

/-- The slot not running; in recovery, the one the selection record does not name (R568). -/
def stageSlot (s : State) : Nat := if s.hold.bootPhase = 5 then 1 - s.fixed.selSlot % 2 else 1 - s.fw.running

def writeImage (n : Nat) (i : Bytes) (s : State) : State :=
  if n = 0 then { s with fixed.imageA := i } else { s with fixed.imageB := i }

def stageResult (n len outcome : Nat) : Bytes := le 4 n ++ le 4 len ++ le 1 outcome

/-- The image has arrived whole: verify it under R519. -/
def endStaging (n : Nat) (i : Bytes) (s : State) : Work :=
  let s := { s with fw.staging := none }
  if imageOk i s then
    { inline := stageResult n i.length 1, opno := n, st := closeRecord n .ok { writeImage (stageSlot s) i s with fw.verified := true } }
  else
    { status := .notPermitted, inline := stageResult n i.length 2, opno := n
      st := closeRecord n .notPermitted { writeImage (stageSlot s) [] s with fw.verified := false } }

/-- A chunk is a multiple of 8 bytes, but for the last one; what the bulk area pads it with is not its own (R459). -/
def chunkOk (room : Nat) (c : Call) : Bool :=
  let last := flag c.params 12 0
  (last || c.bulk.length % 8 == 0) && (decide (c.bulk.length ≤ room) || (last && decide (c.bulk.length < room + 8))) &&
    (!last || decide (room ≤ c.bulk.length))

/-- A chunk goes to its offset; the last one ends the staging. -/
def takeChunk (n len : Nat) (have_ : Bytes) (c : Call) (s : State) : Work :=
  let last := flag c.params 12 0
  let room := len - have_.length
  if !chunkOk room c then { status := .badParam, st := s }
  else
    let i := have_ ++ c.bulk.take room
    if last then endStaging n i s
    else { inline := stageResult n i.length 0, opno := n
           st := { writeImage (stageSlot s) i s with fw.staging := some (n, len, i), fw.verified := false } }

/-- A first chunk: the open staging it may discard, and a record of its own. -/
def firstChunk (c : Call) (s : State) : Work :=
  let len := u32 c.params 8
  if u32 c.params 4 ≠ 0 ∨ len = 0 ∨ 1048576 < len then { status := .badParam, st := s }
  else if s.fw.staging.isSome && !flag c.params 12 1 then { status := .busy, st := s }
  else
    let s0 := match s.fw.staging with
      | some (n, _, _) => closeRecord n .cancelled { s with fw.staging := none }
      | none => s
    if 16 ≤ openCount s0.stw.ledger then { status := .noResource, st := s }
    else
      let n := s0.stw.nextOpno
      let x := takeChunk n len [] c (openRecord 0x0F05 c (c.queue == 3) s0)
      if x.status = .badParam then { status := .badParam, st := s } else x

def actFwStage (c : Call) (_ : Nat) (s : State) : Work :=
  if s.fw.activating then { status := .busy, st := s }
  else if u32 c.params 0 = 0 then firstChunk c s
  else match s.fw.staging with
    | some (n, len, i) =>
      if n ≠ u32 c.params 0 ∨ u32 c.params 4 ≠ i.length ∨ u32 c.params 8 ≠ 0 then { status := .badParam, st := s }
      else takeChunk n len i c s
    | none => { status := .badParam, st := s }

def cmdFwStage : Cmd := {
  opcode := 0x0F05, scope := .device
  check := fun c _ => need (onlyBytes c [(0, 13)] && fld c.params 12 2 6 == 0 && !c.bulk.isEmpty)
  act := actFwStage }

/-- 0F05h FW_STAGE. -/
def execFwStage (c : Call) (s : State) : Result := .next (serve cmdFwStage c s)

/-- With reset now a local command gets no response, a forwarded one gets its answer first (R460, R462). -/
def thenReset (c : Call) (now : Bool) (w : Work) : Work :=
  if !now then w
  else if c.queue = 3 then { w with after := fullReset 7, reset := true }
  else { w with quiet := true, after := fullReset 7, reset := true }

/-- Write the selection record: past the point of no return, which its record holds already (R367, R374, R559). -/
def selectImage (n : Nat) (trial : Bool) (s : State) : State :=
  { s with fixed.selSlot := n, fixed.selTrial := trial, fixed.selTried := false, fw.activating := true, fw.verified := false }

def actFwActivate (c : Call) (_ : Nat) (s : State) : Work :=
  let trial := flag c.params 0 0
  let now := flag c.params 0 2
  if flag c.params 0 1 then
    (if s.fw.onTrial then
      thenReset c now { inline := le 1 s.fw.running, st := confirmImage s }
     else { status := .notPermitted, st := s })
  else if !s.fw.verified || (trial && s.hold.bootPhase == 5) then { status := .notPermitted, st := s }
  else thenReset c now { inline := le 1 (stageSlot s), st := selectImage (stageSlot s) trial s }

def cmdFwActivate : Cmd := {
  opcode := 0x0F06, scope := .device, journaled := true
  ponr := fun c s => (actFwActivate c 0 s).status == .ok
  check := fun c _ => need (onlyBytes c [(0, 1)] && decide (u8 c.params 0 < 8))
  act := actFwActivate }

/-- 0F06h FW_ACTIVATE. -/
def execFwActivate (c : Call) (s : State) : Result := .next (serve cmdFwActivate c s)

/-! ### 0F07h OP_CANCEL, 0F08h OP_PROGRESS (R360, R461) -/

/-- The operation in flight that a queue, tag and generation name. -/
def namedOp (c : Call) (s : State) : Option Op :=
  s.stw.ops.find? (fun o => !o.inner && o.from_.isNone && o.call.queue == u8 c.params 0 && o.call.tag == u8 c.params 1 && o.call.gen == u8 c.params 2)

def checkOpName (c : Call) (_ : State) : Status := need (onlyBytes c [(0, 3)] && decide (u8 c.params 0 < 3 ∧ u8 c.params 2 < 16))

/-- It is past its point of no return, by its record or by that of the migration it waits for, or its work is done (R360, R374). -/
def beyondPonr (o : Op) (s : State) : Bool :=
  s.stw.ledger.any (fun r => o.opno != 0 && r.opno == o.opno && r.state == 1) || match o.body with
    | .closing _ => true
    | .bankRetire p => s.gran.migration.any (fun m => m.old == p && (decide (6 ≤ m.step) || (m.step == 5 && decide (1 ≤ m.sub))))
    | _ => false

def actOpCancel (c : Call) (_ : Nat) (s : State) : Work :=
  match namedOp c s with
  | none => { status := .stale, st := s }
  | some o => if beyondPonr o s then { st := s } else { st := putOp o { o with cancel := true } s }

def cmdOpCancel : Cmd := { opcode := 0x0F07, scope := .device, check := checkOpName, act := actOpCancel }

/-- 0F07h OP_CANCEL. -/
def execOpCancel (c : Call) (s : State) : Result := .next (serve cmdOpCancel c s)

def actOpProgress (c : Call) (_ : Nat) (s : State) : Work :=
  match namedOp c s with
  | none => { status := .stale, st := s }
  | some o => { inline := le 2 o.progress ++ fit 2 [] ++ le 4 o.opno ++ le 2 o.steps, st := s }

def cmdOpProgress : Cmd := { opcode := 0x0F08, scope := .device, check := checkOpName, act := actOpProgress }

/-- 0F08h OP_PROGRESS. -/
def execOpProgress (c : Call) (s : State) : Result := .next (serve cmdOpProgress c s)

/-! ### 0F09h SYS_RESET (R462) -/

/-- Level and confirmation value. -/
def checkReset (level : Nat) (c : Call) (_ : State) : Status :=
  need (onlyBytes c [(0, 1), (4, 4)] && u8 c.params 0 == level && u32 c.params 4 == 0x0F09A55A)

/-- Recovery accepts the full level only (R568). -/
def unlessRecovery (f : State → Work) (s : State) : Work := if s.hold.bootPhase = 5 then { status := .notPermitted, st := s } else f s

/-- A member answers before it resets; a local command's response follows the reset. -/
def actResetFabric (c : Call) (_ : Nat) (s : State) : Work :=
  unlessRecovery (fun s =>
    if c.queue = 3 then { after := beginFabricReset, st := s }
    else { long := some .fabricReset, st := if s.harrow.inReset then s else beginFabricReset s }) s

def cmdSysResetFabric : Cmd := { opcode := 0x0F09, scope := .singleDevice, check := checkReset 0, act := actResetFabric }

/-- 0F09h at fabric level. -/
def execSysResetFabric (c : Call) (s : State) : Result := .next (serve cmdSysResetFabric c s)

def actResetSteward (_ : Call) (_ : Nat) (s : State) : Work := unlessRecovery (fun s => { after := stewardReset 6, st := s }) s

def cmdSysResetSteward : Cmd := { opcode := 0x0F09, scope := .singleDevice, check := checkReset 1, act := actResetSteward }

/-- 0F09h at Steward level: ST_OK is written, then the Steward is reset. -/
def execSysResetSteward (c : Call) (s : State) : Result := .next (serve cmdSysResetSteward c s)

def actResetFull (c : Call) (_ : Nat) (s : State) : Work := thenReset c true { st := s }

def cmdSysResetFull : Cmd := { opcode := 0x0F09, scope := .singleDevice, check := checkReset 2, act := actResetFull }

/-- 0F09h at full level: no response. -/
def execSysResetFull (c : Call) (s : State) : Result := .next (serve cmdSysResetFull c s)

end Sys2Proof.Machine
end

