-- ==== Sys2Proof/Machine/Flip.lean ====
section
/-! DEFINITION. The flip of the bank pointer: what each subject takes from the new bank at F, and the row FLIP_INSTANT (R63,
R153, R207, R362 to R365, R525). -/

namespace Sys2Proof.Machine

/-! ### Rows and controllers (R364) -/

/-- Settings of a controller in a bank. -/
def ctlImage (b : Bank) (kind k : Nat) : Img :=
  match kind with
  | 0 => canCfg k b
  | 1 => uartCfg k b
  | 2 => linCfg k b
  | _ => mvbCfg k b

/-- Settings of a controller differ. -/
def ctlDiffers (a b : Bank) (kind k : Nat) : Bool := ctlImage a kind k != ctlImage b kind k

/-- A row's binding, framing or controller differs. -/
def rowDiffers (a b : Bank) (r : Nat) : Bool :=
  tget r a.bind != tget r b.bind || tgetD r defaultFraming a.framing != tgetD r defaultFraming b.framing ||
    match rowCtl (tgetD r [] b.bind) with
    | some (kind, k) => ctlDiffers a b kind k
    | none => false

/-- Controllers of the rows that differ, under either bank. -/
def movedCtls (a b : Bank) : List (Nat × Nat) :=
  (((tkeys a.bind ++ tkeys b.bind).filter (rowDiffers a b)).map (fun r =>
    (rowCtl (tgetD r [] a.bind)).toList ++ (rowCtl (tgetD r [] b.bind)).toList)).flatten

/-- A pin carries, under either bank, a function of one of these controllers. -/
def pinMoves (a b : Bank) (l : List (Nat × Nat)) (p : Nat) : Bool :=
  [pinRole p (u8 a.pins p), pinRole p (u8 b.pins p)].any (fun r => r.any (fun e => l.contains (e.1, e.2.1)))

/-- The assignment changes at F for the pins of the rows that differ only (R364, log 95). -/
def flipPins (a b : Bank) : Img :=
  let l := movedCtls a b
  let moves := pinMoves a b l
  (List.range 40).map (fun p => byte (u8 (if moves p then b.pins else a.pins) p)) ++
  (List.range 5).map (fun i => byte (ofBits ((List.range 8).map (fun j => mapBit (if moves (8 * i + j) then b.pins else a.pins) 40 (8 * i + j))))) ++
  fit 3 [] ++ (List.range 40).map (fun p => byte (u8 (if moves p then b.pins else a.pins) (48 + p)))

/-- Rows that leave Enabled at F, under the old bank. -/
def flipStops (a b : Bank) : List Nat := a.enabled.filter (fun r => rowDiffers a b r || !b.enabled.contains r)

/-- Marks of a kind in a sown bank. -/
def marked (kind : Nat) (b : Bank) : List Nat := (b.acts.filter (fun e => e.1 == kind)).map (·.2)

/-- New controller settings take effect: automatic recovery anew, a schedule table from its start, a freshness limit (R258, R266, R272);
recovery starts where a staged command asked for it (R253). -/
def freshControllers (a b : Bank) (s : State) : State :=
  let s := (List.range 2).foldl (fun s k => if ctlDiffers a b 3 k then setMvb k { mvbRt k s with stale := [] } s else s) s
  let s := (marked 2 b).foldl (fun s k => canRecover k (setCan k { canRt k s with forcedManual := false } s)) s
  let s := (List.range 16).foldl (fun s k => if ctlDiffers a b 0 k then setCan k { canRt k s with forcedManual := false } s else s) s
  (List.range 4).foldl (fun s k => if ctlDiffers a b 2 k then setLin k { linRt k s with running := none, slot := 0 } s else s) s

/-! ### Listener sets, Teams, routes (R132, R153) -/

/-- A set whose contents differ changes copies; a grain handed off before keeps the copy it names. -/
def flipLset (a b : Lset) : Lset := if a.cur = b.cur then a else { cur := b.cur, other := a.cur, copy := !a.copy }

/-- Keys of either table. -/
def bothKeys {α β : Type} (a : Tbl α) (b : Tbl β) : List Nat := (tkeys a ++ tkeys b).foldl (fun l k => insertNat k l) []

def flipLsets (a b : Tbl Lset) : Tbl Lset := (bothKeys a b).map (fun n => (n, flipLset (tgetD n {} a) (tgetD n {} b)))

/-- Rows and ranks of a Team's members (R153). -/
def teamRanks (i : Img) : List (Nat × Nat) := (teamMembers i).map (fun m => (m.1, m.2.1))

/-- A Team's state with the same member list carries over; its other settings change as by TEAM_SET. -/
def flipTeam (a b : Bank) (rt : Tbl TeamRt) (t : Nat) (new : Img) : TeamRt :=
  match tget t a.teams, tget t rt with
  | some old, some v =>
    if old = new then v
    else if teamRanks old != teamRanks new then freshTeam new
    else { v with pending := some new }
  | _, _ => freshTeam (tgetD t new b.teams)

/-- The entry of a bank that an entry of another replaces: of the same lookup value, or at the same wildcard index (R121, R123). -/
def replacedBy (a : Bank) (e : Nat × Img) : Option (Nat × Img) :=
  if isWildRef e.1 then (tget e.1 a.routes).map (fun x => (e.1, x))
  else a.routes.find? (exactMatch (reRow e.2) (reFrame e.2) (reKey e.2))

/-- Counters go on with the entry replaced in place (R119); Thinning with any entry of the same key, row, masks and Thinning field,
wherever it lies (R121, R153). -/
def flipRoute (a : Bank) (rt : Tbl RouteRt) (e : Nat × Img) : RouteRt :=
  let v := ((replacedBy a e).bind (fun o => tget o.1 rt)).getD {}
  let t := ((a.routes.find? (fun o => sameThinning o.2 e.2)).bind (fun o => tget o.1 rt)).getD {}
  { v with count := t.count, last := t.last }

def flipRoutes (a b : Bank) (rt : Tbl RouteRt) : Tbl RouteRt := b.routes.map (fun e => (e.1, flipRoute a rt e))

/-! ### Furrow lists (R207) -/

/-- First cycle start of a port's present list at or after F. -/
def oldCycle (v : FurrowRt) (t : Nat) : Nat :=
  match v.oper with
  | some i => cycleFrom (listBase i) (listCycle i) t
  | none => t

/-- A new list comes at its first change time from that cycle start; a list that is gone is dropped there. -/
def flipFurrow (a b : Bank) (s : State) (p : Nat) : State :=
  if tget p a.furrows = tget p b.furrows then s
  else
    let v := furrowRt p s
    let t := oldCycle v (nowNs s)
    match tget p b.furrows with
    | some i => setFurrow p { v with change := some (changeTime i t), remove := none } s
    | none => setFurrow p { v with change := none, remove := v.oper.map (fun _ => t) } s

/-! ### Tally units, rules, Sieves, policers, shapers -/

/-- A unit whose binding differs: the sentence in progress is skipped, the alive counter starts anew (R525). -/
def flipTally (a b : Bank) (s : State) (u : Nat) : State :=
  if tget u a.tallies = tget u b.tallies then s
  else
    let i := tgetD u [] a.tallies
    let s := if (tget u a.tallies).isSome && !flag i 1 0 && !flag i 1 1 && inReception (fld i 2 0 9) s then tallySkip u s else s
    let s := setTally u { tallyRt u s with alive := none } s
    match tget u b.tallies with
    | some n => if flag n 1 0 then (if flag n 1 1 then s else skipHandoffs u s) else skipRecords u (fld n 2 0 9) s
    | none => s

/-- The counters of a policer that a staged POLICER_SET without the peek flag names clear (R422). -/
def clearCounts (s : State) (n : Nat) : State :=
  { s with harrow.policers := tset n { policerRt n s with conform := 0, exceed := 0 } s.harrow.policers }

/-- A policer whose setting differs, as POLICER_SET leaves its level (R422, R501). -/
def flipPolicer (a b : Bank) (s : State) (n : Nat) : State :=
  if policerCfg n a = policerCfg n b then s
  else
    let v := policerRt n s
    let burst : Rat := u32 (policerCfg n b) 8
    let level := if flag (policerCfg n a) 1 0 then min burst (policerLevel (policerCfg n a) v s.power.upNs) else burst
    { s with harrow.policers := tset n { v with level, at_ := s.power.upNs } s.harrow.policers }

/-- Hits of a rule written anew start at zero, also where its image is the same (R419), and a Sieve that is gone leaves no flags. -/
def flipHits (a b : Bank) (s : State) : State :=
  { s with harrow.rules := s.harrow.rules.filter (fun e => tget e.1 a.rules == tget e.1 b.rules && !(marked 0 b).contains e.1)
           harrow.sieveFlags := s.harrow.sieveFlags.filter (fun e => (tget e.1 b.sieves).isSome) }

/-- Credits up to F run under the old shapers. -/
def flipShaper (a b : Bank) (s : State) (k : Nat) : State :=
  if tget k a.shapers = tget k b.shapers then s else updateCredit (k / 8) (k % 8) s

/-! ### The flip -/

/-- What changes under the old bank: rows that stop, credits, policers, Tally units. -/
def beforeFlip (b : Bank) (s : State) : State :=
  let a := s.bank
  let s := (flipStops a b).foldl (fun s r => disableRow r s) s
  let s := (bothKeys a.shapers b.shapers).foldl (flipShaper a b) s
  let s := (bothKeys a.policers b.policers).foldl (flipPolicer a b) s
  let s := (marked 1 b).foldl clearCounts s
  flipHits a b ((bothKeys a.tallies b.tallies).foldl (flipTally a b) s)

/-- What follows the change of the pointer. -/
def afterFlip (a b : Bank) (s : State) : State :=
  let s := freshControllers a b s
  let s := (b.enabled.filter (fun r => !s.bank.enabled.contains r)).foldl (fun s r => enableRow r s) s
  let s := (bothKeys a.furrows b.furrows).foldl (flipFurrow a b) s
  drivePins (clearImmune s)

/-- The bank pointer changes to `b`. -/
def flipTo (b : Bank) (s : State) : State :=
  let a := s.bank
  let s := beforeFlip b s
  afterFlip a b { s with
    bank := { b with pins := flipPins a b, enabled := s.bank.enabled, lsets := flipLsets a.lsets b.lsets, acts := [] }
    sown := {}
    harrow.teams := b.teams.map (fun e => (e.1, flipTeam a b s.harrow.teams e.1 e.2))
    harrow.routes := flipRoutes a b s.harrow.routes
    stw.flip := none }

/-! ### What a flip completes -/

/-- The pace target is lowered, where it may be, after the flip (R31). -/
def lowerTarget (s : State) : State := retarget (computeDemand s)

/-- Result of RETILL_COMMIT. -/
def commitResult (t direct : Nat) : Bytes := le 8 t ++ le 4 direct

/-- A re-till has flipped: its point of no return; marking the slot and closing the record are steps of their own (R366, R367, R456). -/
def closeRetill (t : Nat) (s : State) : State :=
  let op := commitOp s
  let n := s.stw.retill.getD 0
  let s := { passPonr n s with stw.retill := none, stw.committing := false }
  match op with
  | some o => putOp o { o with body := .retillClose t } s
  | none => closeRecord n .ok (lowerTarget (markSpare s))

/-- Members of the Field that a decision still waits for. -/
def unacknowledged (m : AtomicMsg) (s : State) : List Nat := ((s.stw.decisions.find? (fun d => sameToken d.1 m)).map (·.2)).getD []

/-- The operation of an atomic command that waits for its flip. -/
def flipOp (s : State) : Option (Op × Walk) :=
  s.stw.ops.findSome? (fun o => match o.body with
    | .atomicFlip w => some (o, w)
    | _ => none)

/-- End an atomic command whose changes have taken effect (R62, R65). -/
def endAtomic (o : Op) (w : Walk) (s : State) : State :=
  match cmdShape o with
  | some k => endOp o (walkFinal k o.call w true (if w.failed = 0 then .ok else .partial_) o.opno) s
  | none => endOp o {} s
where
  /-- Layout of a bank command's answer: a summary and entries. -/
  cmdShape (o : Op) : Option Cmd := bankCmd o.opcode o.call

/-- The holder's flip: on one device the command ends, otherwise it waits for its members' Commit done. -/
def closeAtomic (o : Op) (w : Walk) (s : State) : State :=
  let s := lowerTarget s
  let s := if w.members.isEmpty then passPonr o.opno s else s
  if (unacknowledged (tokenMsg 0 o.call o.from_ s) s).isEmpty then endAtomic o w s
  else putOp o { o with body := .atomicDone w } s

/-- An atomic message to a member (R372). -/
def sendAtomic (d : Nat) (m : AtomicMsg) (s : State) : State :=
  sendControl d 5 (le 1 m.kind ++ le 1 (ownDev s) ++ [byte m.tokDev, byte m.tokQueue, byte m.tokTag, byte m.tokGen, 0, 0] ++ be 8 m.tc ++
    le 1 m.status ++ fit 3 []) s

/-- A member's flip: its record closes and Commit done goes to the holder (R64, R372). -/
def closeMember (m : AtomicMsg) (s : State) : State :=
  let s := closeRecord s.stw.stagedOp .ok (passPonr s.stw.stagedOp (lowerTarget s))
  sendAtomic m.sender { m with kind := 6, tc := 0, status := 0 }
    { s with stw.staged := none, stw.stagedOp := 0, stw.tc := none, stw.committed := some m }

/-- A set that changes has its copy not in force still named by a grain on its way to the Drill: the flip waits, so that the grain
keeps its copy (R132, R153, log 114). -/
def flipBlocked (s : State) : Bool :=
  (bothKeys s.bank.lsets s.sown.lsets).any (fun n =>
    decide ((lsetOf n s.bank).cur ≠ (lsetOf n s.sown).cur) && lsetNamed n (!(lsetOf n s.bank).copy) s)

/-- The command whose flip it is has been cancelled before F (R67, R366). -/
def flipCancelled (s : State) : Bool :=
  s.stw.ops.any (fun o => o.cancel && match o.body with
    | .atomicFlip _ | .retillFlip _ _ => true
    | _ => false)

/-- A flip is due: its time has come, the measured pace meets the target (R31, R365), no grain names a copy it would fill, and its
command is not cancelled. -/
def flipDue (s : State) : Bool :=
  s.stw.up && !flipCancelled s && decide (s.power.preq ≤ s.power.pace) && !flipBlocked s && match s.stw.flip with
    | some t => decide (t ≤ nowNs s)
    | none => false

/-- The result of an atomic POLICER_SET on one plot, of this device, holds the counters as the flip finds them (R422). -/
def countsAtFlip (s : State) : State :=
  match flipOp s with
  | some (o, w) =>
    if o.opcode = 0x0703 && w.acted == 1 && w.changed then
      putOp o { o with body := .atomicFlip { w with inline := fit 48 (policerCounts (u8 o.call.params 0) s) } } s
    else s
  | none => s

/-- The flip and what it completes: a re-till, a member's part, or the command held here. -/
def flipNow (s : State) : State :=
  let t := nowNs s
  let s := countsAtFlip s
  let s := flipTo s.sown s
  if s.stw.committing then closeRetill t s
  else match s.stw.staged with
    | some m => closeMember m s
    | none => match flipOp s with
      | some (o, w) => closeAtomic o w s
      | none => s

/-- FLIP_INSTANT. -/
def execFlipInstant (s : State) : Result := .next (if flipDue s then flipNow s else s)

end Sys2Proof.Machine
end

