-- ==== Sys2Proof/Machine/Atomic.lean ====
section
/-! DEFINITION. Atomic commands across a Field, the resuming of walks, and the rows ATOMIC_PREPARE, ATOMIC_COMMIT, ATOMIC_ABORT,
ATOMIC_READY, COMMIT_DONE, COMMIT_REPEAT and PREPARE_HOLD_EXPIRY (R62 to R67, R372). -/

namespace Sys2Proof.Machine

/-! ### The holder's side -/

/-- Timers of R385. -/
def commitLead (s : State) : Nat := u16 s.field.settings 10 * 1000000

/-- Members that take part: every other device an entry names that staged, or may have (R55). -/
def membersOf (w : Walk) (s : State) : List Nat :=
  (w.entries.filter (fun e => e.status == .ok || e.unknown)).foldl
    (fun l e => if refDev e.plot = ownDev s ∨ refDev e.plot = 255 then l else insertNat (refDev e.plot) l) []

def sendAll (l : List Nat) (m : AtomicMsg) (s : State) : State := l.foldl (fun s d => sendAtomic d m s) s

/-- A decision goes to the members, and is repeated to those that do not acknowledge it. -/
def decide_ (m : AtomicMsg) (l : List Nat) (s : State) : State :=
  if l.isEmpty then s else sendAll l m { s with stw.decisions := s.stw.decisions ++ [(m, l)] }

/-- An atomic command held here fails or is cancelled: members abort, nothing takes effect, every entry is not applied. -/
def abortHeld (k : Cmd) (o : Op) (w : Walk) (st : Status) (s : State) : State :=
  let s := decide_ (tokenMsg 3 o.call o.from_ s) (membersOf w s) s
  endOp o (walkFinal k o.call (notApplied w) false st o.opno) (if w.busy then s else { s with sown := {}, stw.flip := none })

/-- The commit decision: recorded, then Commit with Tc to every member (R64). A holder that has staged nothing here does not flip. -/
def decideCommit (o : Op) (w : Walk) (s : State) : State :=
  let tc := nowNs s + commitLead s
  let s := markRecord o.opno (fun r => { r with across := true }) (passPonr o.opno s)
  let s := decide_ { tokenMsg 2 o.call o.from_ s with tc := stampOf tc } w.members s
  if w.busy then putOp o { o with body := .atomicDone w } s
  else putOp o { o with body := .atomicFlip w } { raiseTarget s with stw.flip := some tc }

/-- Every plot has staged: flip here alone, or Prepare to every member. -/
def prepareHeld (o : Op) (w : Walk) (s : State) : State :=
  let w := { w with members := membersOf w s }
  if w.members.isEmpty then putOp o { o with body := .atomicFlip w } (raiseTarget { s with stw.flip := some (nowNs s) })
  else sendAll w.members (tokenMsg 1 o.call o.from_ s) (putOp o { o with body := .atomicReady w } s)

/-! ### The end of a walk in steps -/

/-- An atomic walk has reached its last plot; `o.opno` is 0 for a part of a command that stages here already. -/
def finishAtomic (k : Cmd) (o : Op) (w : Walk) (s : State) : State :=
  let st := walkStatus o.call w
  if o.from_.isNone then (if st = .ok then prepareHeld o w s else abortHeld k o w st s)
  else if st = .ok then
    finishOp o (walkFinal k o.call w false .ok o.opno) (holdStaged o.opno (o.opno == 0) w.busy (tokenMsg 0 o.call o.from_ s) s)
  else endOp o (walkFinal k o.call (notApplied w) false st o.opno) (if o.opno = 0 || w.busy then s else { s with sown := {} })

/-- A walk has reached its last plot. With a reset asked for on this device, a forwarded command answers first, any other does not
(R460). -/
def finishWalk (k : Cmd) (o : Op) (w : Walk) (s : State) : State :=
  if atomicOp o then finishAtomic k o w s
  else if w.reset && o.from_.isNone then fullReset 7 s
  else if w.reset then fullReset 7 (endNow o (walkFinal k o.call w false (walkStatus o.call w) o.opno) s)
  else endOp o (walkFinal k o.call w false (walkStatus o.call w) o.opno) s

/-! ### The member's side -/

/-- The member of the Field that holds a token as staged. -/
def stagedHere (m : AtomicMsg) (s : State) : Bool := s.stw.staged.any (sameToken m)

/-- ATOMIC_PREPARE: Ready, or Not ready for a token not staged here. -/
def execAtomicPrepare (m : AtomicMsg) (s : State) : Result :=
  if !s.stw.up then .next s
  else
    let s := takeControl 5 s
    .next (if stagedHere m s then sendAtomic m.sender { m with kind := 4, tc := 0, status := 0 } s
      else sendAtomic m.sender { m with kind := 5, tc := 0, status := Status.abandoned.code } s)

/-- ATOMIC_COMMIT: flip at the first boundary at or after Tc; a repeat after the flip draws Commit done again. -/
def execAtomicCommit (m : AtomicMsg) (s : State) : Result :=
  if !s.stw.up then .next s
  else
    let s := takeControl 5 s
    if stagedHere m s then .next (raiseTarget { s with stw.staged := some m, stw.tc := some m.tc, stw.flip := some m.tc })
    else if s.stw.committed.any (sameToken m) then .next (sendAtomic m.sender { m with kind := 6, tc := 0, status := 0 } s)
    else .next s

/-- Discard what is staged here for another device: its record is abandoned. -/
def discardStaged (s : State) : State :=
  { closeRecord s.stw.stagedOp .abandoned s with
    sown := {}, stw.staged := none, stw.stagedOp := 0, stw.tc := none, stw.flip := none }

/-- ATOMIC_ABORT. -/
def execAtomicAbort (m : AtomicMsg) (s : State) : Result :=
  if !s.stw.up then .next s
  else
    let s := takeControl 5 s
    let s := if stagedHere m s then discardStaged s else s
    .next (sendAtomic m.sender { m with kind := 7, tc := 0, status := 0 } s)

/-! ### Answers to the holder -/

/-- The operation that waits for Ready under a token. -/
def readyOp (m : AtomicMsg) (s : State) : Option (Op × Walk) :=
  s.stw.ops.findSome? (fun o => match o.body with
    | .atomicReady w => if sameToken m (tokenMsg 0 o.call o.from_ s) && w.members.contains m.sender then some (o, w) else none
    | _ => none)

/-- A stale atomic message (R354). -/
def staleAnswer (tag : Nat) (s : State) : State := raise 3 tag { s with stw.staleCount := s.stw.staleCount + 1 }

/-- Status a code names; an unknown one is a hardware fault. -/
def statusOf (n : Nat) : Status :=
  ([.ok, .partial_, .inProgress, .cancelled, .badOpcode, .badParam, .badPlot, .noResource, .busy, .keyInUse, .notPermitted, .stale,
    .abandoned, .hwFault, .timeout, .remoteUnreachable] : List Status).find? (fun s => s.code == n) |>.getD .hwFault

/-- ATOMIC_READY: Ready of the last member decides commit, Not ready of any decides abort. -/
def execAtomicReady (m : AtomicMsg) (s : State) : Result :=
  if !s.stw.up then .next s
  else
    let s := takeControl 5 s
    match readyOp m s with
    | none => .next (staleAnswer m.tokTag s)
    | some (o, w) =>
      if m.kind = 4 then
        let w := { w with ready := insertNat m.sender w.ready }
        .next (if w.members.all w.ready.contains && !o.cancel then decideCommit o w s else putOp o { o with body := .atomicReady w } s)
      else match bankCmd o.opcode o.call with
        | some k =>
          let st := if o.cancel then .cancelled else statusOf m.status
          .next (abortHeld k o (memberEntry m.sender (statusOf m.status) true w) st s)
        | none => .next s

/-- A member acknowledges a decision of its token: Commit done a commit, Abort done an abort. -/
def acknowledge (m : AtomicMsg) (s : State) : State :=
  let kind := if m.kind = 6 then 2 else 3
  let l := s.stw.decisions.map (fun d => if d.1.kind = kind && sameToken d.1 m then (d.1, d.2.filter (· != m.sender)) else d)
  { s with stw.decisions := l.filter (fun d => !d.2.isEmpty) }

/-- A decision of this token still waits for the member. -/
def awaited (m : AtomicMsg) (s : State) : Bool :=
  s.stw.decisions.any (fun d => d.1.kind = (if m.kind = 6 then 2 else 3) && sameToken d.1 m && d.2.contains m.sender)

/-- COMMIT_DONE; one that nothing waits for is stale. -/
def execCommitDone (m : AtomicMsg) (s : State) : Result :=
  if !s.stw.up then .next s
  else
    let s := takeControl 5 s
    .next (if awaited m s then acknowledge m s else staleAnswer m.tokTag s)

/-- COMMIT_REPEAT: every decision the member has not acknowledged goes to it again. -/
def execCommitRepeat (member : Nat) (s : State) : Result :=
  .next (if s.stw.up then (s.stw.decisions.filter (fun d => d.2.contains member)).foldl (fun s d => sendAtomic member d.1 s) s else s)

/-! ### PREPARE_HOLD_EXPIRY (R65) -/

/-- An operation whose members have not all answered Ready. -/
def waitingReady (s : State) : Option (Op × Walk) :=
  s.stw.ops.findSome? (fun o => match o.body with
    | .atomicReady w => some (o, w)
    | _ => none)

/-- A commit that cannot be delivered: the entry of each such member's device plot says so. -/
def undelivered (m : AtomicMsg) (l : List Nat) (s : State) (o : Op) : Op :=
  let mark (w : Walk) : Walk := l.foldl (fun w d => memberEntry d .remoteUnreachable true w) w
  if sameToken m (tokenMsg 0 o.call o.from_ s) then
    match o.body with
    | .atomicFlip w => { o with body := .atomicFlip (mark w) }
    | .atomicDone w => { o with body := .atomicDone (mark w) }
    | _ => o
  else o

/-- The holder's oldest decision is repeated no more. -/
def dropDecision (s : State) : State :=
  match s.stw.decisions with
  | [] => s
  | (m, l) :: t => { s with stw.decisions := t, stw.ops := if m.kind = 2 then s.stw.ops.map (undelivered m l s) else s.stw.ops }

/-- PREPARE_HOLD_EXPIRY: a member's staging without a decision, then the holder's waits. -/
def execPrepareHoldExpiry (s : State) : Result :=
  if !s.stw.up then .next s
  else if s.stw.staged.isSome && s.stw.tc.isNone then .next (discardStaged s)
  else match waitingReady s with
    | some (o, w) => match bankCmd o.opcode o.call with
      | some k =>
        let silent := w.members.filter (fun d => !w.ready.contains d)
        let st := if o.cancel then .cancelled else .remoteUnreachable
        .next (abortHeld k o (silent.foldl (fun w d => memberEntry d .remoteUnreachable true w) w) st s)
      | none => .next s
    | none => .next (dropDecision s)

end Sys2Proof.Machine
end

