-- ==== Sys2Proof/Machine/Commands.lean ====
section
/-! DEFINITION. The command table: which command an opcode and its selector fields name (R375 to R380, R418), and READ_REQUEST. -/

namespace Sys2Proof.Machine

/-- 01xxh to 06xxh, bank items apart. -/
def cmdOf06 (op : Nat) (c : Call) : Option Cmd :=
  match op with
  | 0x0101 => some cmdPlotDescribe
  | 0x0102 => some cmdPlotGroupCreate
  | 0x0103 => some cmdPlotGroupDelete
  | 0x0104 => variant [cmdPlotAttach, cmdPlotDetach] (u8 c.params 0)
  | 0x0105 => some cmdFieldJoin
  | 0x0106 => some cmdFieldLeave
  | 0x0107 => some cmdDeviceInfo
  | 0x0204 => some cmdRowStats
  | 0x0303 => variant [cmdRouteQuery, cmdRouteQueryClear, cmdRouteQueryList] (u8 c.params 46)
  | 0x0306 => some cmdTeamState
  | 0x0401 => some cmdPortConfig
  | 0x0402 => some cmdPortState
  | 0x0403 => variant [cmdPortFilterSet, cmdPortFilterClear] (u8 c.params 4)
  | 0x0404 => some cmdPortPauseSet
  | 0x0405 => some cmdPortPreemptSet
  | 0x0406 => some cmdPortStatsSnap
  | 0x0502 => variant [cmdFurrowSwitch, cmdFurrowListRemove] (u8 c.params 1)
  | 0x0601 => variant [cmdTimeConfig, cmdTimeConfigPort] (u8 c.params 0)
  | 0x0602 => variant [cmdTimeSet, cmdTimeSetAtPps] (u8 c.params 12)
  | 0x0603 => variant [cmdTimeAdjustStep, cmdTimeAdjustServoInput, cmdTimeAdjustFrequency] (u8 c.params 0)
  | 0x0604 => some cmdServoSet
  | 0x0605 => some cmdAsymSet
  | 0x0606 => some cmdTimeState
  | 0x0607 => variant [cmdAlarmSet, cmdScheduleEntrySet] (u8 c.params 0)
  | _ => none

/-- 07xxh to 0Bxxh, bank items apart. -/
def cmdOf0B (op : Nat) (c : Call) : Option Cmd :=
  match op with
  | 0x0801 => some cmdKeyInstall
  | 0x0802 => some cmdKeyActivate
  | 0x0803 => some cmdKeyErase
  | 0x0804 => some cmdSaConfig
  | 0x0805 => some cmdKeyState
  | 0x0806 => some cmdZeroizeAll
  | 0x0903 => some cmdTallyState
  | 0x0A01 => some cmdGranaryQuotaSet
  | 0x0A02 => some cmdGranaryState
  | 0x0A03 => some cmdBankRetire
  | 0x0A04 => some cmdBankTest
  | 0x0B01 => variant [cmdPowerPolicySet, cmdFallowPolicySet] (u8 c.params 0)
  | 0x0B02 => some cmdFallowEnter
  | 0x0B03 => some cmdWakeSourcesSet
  | 0x0B04 => some cmdNmConfig
  | 0x0B05 => some cmdNmRequest
  | 0x0B06 => some cmdWakeCause
  | 0x0B07 => some cmdPaceState
  | _ => none

/-- 0Cxxh to 0Fxxh, bank items apart. -/
def cmdOf0F (op : Nat) (c : Call) : Option Cmd :=
  match op with
  | 0x0C06 => some (busStateCmd c)
  | 0x0D01 => some cmdRingCreate
  | 0x0D02 => some cmdRingDestroy
  | 0x0D03 => some cmdRingModeration
  | 0x0E01 => some cmdSelfTest
  | 0x0E02 => some cmdLoopbackSet
  | 0x0E03 => some cmdEventLogRead
  | 0x0E04 => some cmdEcho
  | 0x0F01 => some cmdRetillBegin
  | 0x0F02 => some cmdRetillCommit
  | 0x0F03 => some cmdRetillAbort
  | 0x0F04 => some cmdLedgerState
  | 0x0F05 => some cmdFwStage
  | 0x0F06 => some cmdFwActivate
  | 0x0F07 => some cmdOpCancel
  | 0x0F08 => some cmdOpProgress
  | 0x0F09 => variant [cmdSysResetFabric, cmdSysResetSteward, cmdSysResetFull] (u8 c.params 0)
  | 0x0F0A => variant [cmdGateChallengeRequest, cmdGateChallengeRespond] (u8 c.params 0)
  | _ => none

/-- The command an opcode names; `none` is unknown. -/
def cmdOf (op : Nat) (c : Call) : Option Cmd :=
  ((bankCmd op c).or (cmdOf06 op c)).or ((cmdOf0B op c).or (cmdOf0F op c))

/-- Eulyn takes a command by its opcode. An unknown one ends with ST_BAD_OPCODE after the check of its tag. -/
def serveOpcode (op : Nat) (c : Call) (s : State) : State :=
  match cmdOf op c with
  | some k => serve k c s
  | none =>
    if !takeable c.queue s then s
    else if tagCheck c s ≠ .ok then respond op c none { status := tagCheck c s } s
    else respond op c none { status := .badOpcode }
      (if c.queue = 3 then s else { s with stw.tags := tset c.tag c.gen s.stw.tags })

/-- READ_REQUEST: the command with both flags set (R380). -/
def execReadRequest (opcode : Nat) (c : Call) (s : State) : Result :=
  .next (serveOpcode opcode { c with atomic := true, staged := true } s)

end Sys2Proof.Machine
end

