-- ==== Sys2Proof/Machine/Steward.lean ====
section
/-! DEFINITION. Eulyn's steps and the mailbox traffic between members: command slots, the choice of the next step, the steps of open
operations, forwards and answers; the rows STEWARD_STEP, MAILBOX_FORWARD, MAILBOX_ANSWER, FORWARD_REPEAT and REMOTE_TIMEOUT (R47 to
R55, R343 to R360, R369 to R371, R574). -/

namespace Sys2Proof.Machine

/-! ### Command slots (R344, R346, R348) -/

/-- Bytes of host memory (log 15). -/
def hostBytes (a n : Nat) : Bytes := (List.range n).map (fun i => Config.hostByte (a + i))

/-- Address of the descriptor a bulk location names; 0 where the ring is none. -/
def bulkDesc (at_ : Nat) (s : State) : Nat :=
  match tget (16 + at_ / 4096 % 16) s.rings with
  | some r => ringBase r + 32 * (at_ % 4096 % ringSize r)
  | none => 0

/-- Flag and location bits of a slot. -/
def slotCall (q : Nat) (i : Bytes) : Call :=
  { queue := q, tag := u8 i 2, gen := fld i 3 0 4, atomic := flag i 3 4, staged := flag i 3 5, noResponse := flag i 3 6
    bulkResult := flag i 3 7, fieldRooted := flag i 5 0, units := fld i 12 0 15, host := flag i 13 7, at_ := u16 i 14, params := sub i 16 48 }

/-- Put the path and the bulk parameters into a call: hops inline, or first in the area (R48). -/
def withArea (i area : Bytes) (c : Call) : Call :=
  let n := u8 i 4
  let unused := if n ≤ 6 then zeros i (6 + n) (6 - n) else zeros i 6 6
  let pad := if n ≤ 6 then 0 else hopPad n
  let short := decide (6 < n ∧ n ≤ 240 ∧ area.length < pad)
  { c with
    pathReserved := fld i 5 1 7 != 0 || !unused || short
    hops := if n ≤ 6 then (sub i 6 n).map (·.toNat) else (fit n (area.take n)).map (·.toNat)
    bulk := area.drop pad }

/-- The bulk area of a slot: staging buffer, or the host buffer its descriptor names. -/
def areaBytes (c : Call) (s : State) : Bytes := if c.host then hostBytes c.hostAddr (areaLen c) else mread (8 * c.at_) (areaLen c) s.staging

/-- The descriptor of a host bulk area is read from host memory (R338, R346). -/
def withHost (c : Call) (s : State) : Call :=
  if !c.host then c
  else
    let d := hostBytes (bulkDesc c.at_ s) 32
    { c with hostAddr := u64 d 0, hostLen := u16 d 24 }

/-- The command in a slot image of MQ0, MQ1 or MQ2. -/
def parseSlot (q : Nat) (i : Bytes) (s : State) : Call :=
  let c := withHost (slotCall q i) s
  withArea i (areaBytes c s) c

/-- Image of the slot a queue's head names. -/
def headSlot (q : Nat) (s : State) : Bytes := mread (0x1000 + 0x400 * q + 0x40 * ((queueOf q s).cmdHead % 16)) 64 s.hold.slots

/-- The slot is copied and free for reuse (R349); the scan ends when the queue is empty. -/
def advanceHead (q : Nat) (s : State) : State :=
  let v := queueOf q s
  let h := (v.cmdHead + 1) % 32
  setQueue q { v with cmdHead := h, notified := v.notified && h != v.cmdTail } s

/-- The next command of a queue has its bulk area in host memory, which is not read while the part issues no memory requests (R310): the
slot waits. DESIGN CHOICE (log 127). -/
def fetchWaits (q : Nat) (s : State) : Bool := q != 3 && flag (headSlot q s) 13 7 && !dmaOk s

/-- A queue Eulyn has been notified to scan, with a command that may be taken: a tail alone notifies no one (R325). -/
def queueReady (q : Nat) (s : State) : Bool :=
  let v := queueOf q s
  (q == 3 || v.notified) && v.cmdHead != v.cmdTail && takeable q s && !fetchWaits q s

/-- Take the next command of MQ0, MQ1 or MQ2. -/
def takeSlot (q : Nat) (s : State) : State :=
  let i := headSlot q s
  serveOpcode (u16 i 0) (parseSlot q i s) (advanceHead q s)

/-- Take the next forward of MQ3: it carries its sender's identifiers (R352, R370). -/
def takeForward (s : State) : State :=
  let s := advanceHead 3 s
  match s.stw.mq3 with
  | [] => s
  | m :: t =>
    let w : FwdFrom := { dev := m.dev, queue := m.queue, sub := m.sub, tokDev := m.tokDev, tokQueue := m.tokQueue, tokTag := m.tokTag
                         tokGen := m.tokGen }
    let c := withArea m.slot m.bulk { slotCall 3 m.slot with tag := m.tag, gen := m.gen, host := false, at_ := 0 }
    let s := { s with stw.mq3 := t }
    match cmdOf (u16 m.slot 0) c with
    | some k => perform k c (some w) s
    | none => respond (u16 m.slot 0) c (some w) { status := .badOpcode } s

/-! ### Cancelled operations (R57, R67, R360, R366) -/

/-- A remote plot is itself one the opcode acts on. -/
def remoteApplies (sc : Scope) (ref : Nat) : Bool :=
  match sc, refKind ref with
  | .row, 0 | .device, 2 | .group, 1 | .group, 2 => true
  | _, _ => false

/-- Plots a cancelled walk has not reached: each applicable one gets an entry, none is acted on. What lies below a remote plot is known
to its device only (log 93). -/
def unreached (k : Cmd) (c : Call) : Nat → Walk → State → Walk
  | 0, w, _ => w
  | n + 1, w, s =>
    match w.todo with
    | [] => w
    | ref :: rest =>
      let w := { w with todo := rest }
      if w.seen.any (fun e => e.1 == ref) then unreached k c n w s
      else
        let w := { w with seen := (ref, .cancelled) :: w.seen }
        let e : Entry := { plot := ref, status := .cancelled, notVisited := true }
        match resolveRef ref s with
        | .stale _ => unreached k c n w s
        | .remote r => unreached k c n (if remoteApplies k.scope r then addEntry e w else w) s
        | p =>
          let skip : Bool := match p with
            | .row r => !boundFor c w r s
            | _ => false
          let kids := (children p s).map (fun q => refOf q s)
          unreached k c n { (if applies k.scope p && !skip then addEntry e w else w) with todo := kids ++ w.todo } s

/-- The mirror write of a record's close, then the final response (R367). -/
def stepClosing (o : Op) (f : Final) (s : State) : State := endNow o f s

/-- The plot a walk waits for when it is cancelled: of a sub-walk the outcome is unknown; a long operation of its own stops. -/
def cutWait (w : Walk) : Walk :=
  match w.await, w.inner with
  | some (_, r), _ => addEntry { plot := r, status := .cancelled, unknown := true } { w with await := none }
  | none, some r => addEntry { plot := r, status := .cancelled } { w with inner := none }
  | none, none => w

/-- The long operation of a plot stops with its walk. -/
def cancelInner (o : Op) (s : State) : State :=
  { s with stw.ops := s.stw.ops.map (fun x => if x.inner && x.call == o.call && x.from_ == o.from_ && !beyondPonr x s then { x with cancel := true } else x) }

/-- A walk ends cancelled (R57, R67). -/
def cancelWalk (k : Cmd) (o : Op) (w : Walk) (s : State) : State :=
  let w := unreached k o.call walkFuel (cutWait w) s
  if atomicOp o then abortHeld k o w .cancelled s
  else cancelInner o (endOp o (walkFinal k o.call w false .cancelled o.opno) s)

/-- A named operation stops at its step boundary. -/
def cancelOp (o : Op) (s : State) : State :=
  let f : Final := { status := .cancelled, progress := o.progress }
  match o.body, cmdOf o.opcode o.call with
  | .closing g, _ => stepClosing o g s
  | .walk w, some k => cancelWalk k o w s
  | .atomicFlip w, some k | .atomicReady w, some k => abortHeld k o w .cancelled s
  | .fieldJoin, _ => endOp o f { s with field.join := 0, field.id := 0, field.dev := 255, field.roster := [] }
  | .fallow _, _ =>
    endOp o f { s with power.entering := none, power.entryStep := 0, power.halted := false, stw.notServing := false }
  | .retillLoad _ k, _ => endOp o { f with inline := loadResult k noRecord .cancelled } (dropRetill s)
  | .retillFlip _ _, _ => endOp o f (dropRetill s)
  | .bankRetire p, _ => endOp o f (stopRetire p s)
  | _, _ => endOp o f s

/-! ### Steps of open operations -/

/-- The measured pace has not met the target within 100 ms (R456). -/
def paceLate (from_ : Nat) (s : State) : Bool := decide (from_ + 100000000 ≤ s.power.upNs) && decide ((s.power.pace : Rat) < s.power.preq)

/-- An entry to Fallow has something to do. -/
def entryReady (s : State) : Bool :=
  match s.power.armedFor, s.power.entering with
  | some _, _ => true
  | none, none => false
  | none, some _ => match s.power.entryStep with
    | 1 => netsAsleep s
    | 2 => onlyEntering s || !s.stw.notServing
    | _ => (allCopies s).isEmpty || decide (s.power.entryUntil ≤ s.power.upNs)

/-- A step of the operation would do something. -/
def runnable (s : State) (o : Op) : Bool :=
  o.cancel || match o.body with
  | .gateOpen | .retillLoad _ _ => true
  | .walk w => w.await.isNone && w.inner.isNone
  | .journal _ | .retillClose _ | .closing _ => true
  | .atomicReady w => w.first != .ok
  | .atomicFlip _ => s.stw.flip.isNone
  | .atomicDone _ => (unacknowledged (tokenMsg 0 o.call o.from_ s) s).isEmpty
  | .timeSetPps _ _ until_ => decide (until_ ≤ s.power.upNs)
  | .retillFlip _ from_ => paceLate from_ s
  | .bankRetire p => o.call.queue == 1 && retireReady s && retireBank s == p
  | .fallow _ => o.call.queue == 1 && s.stw.up && entryReady s
  | .fieldJoin | .fabricReset => false

/-- The step ends and the operation goes on: its steps, progress, and the step count of its record (R359, R367). -/
def goOn (o o' : Op) (s : State) : State :=
  let r := endStep o' s
  let s := putOp o r.1 r.2
  if o.opno = 0 then s else countStep o.opno r.1.steps s

/-- The walk goes on from its next plot. -/
def stepWalk (k : Cmd) (o : Op) (w : Walk) (s : State) : State :=
  let r := runWalk k o.call o.from_ w s
  if walkEnded r.1 then finishWalk k o r.1 r.2 else goOn o { o with body := .walk r.1 } r.2

/-- The next 256 bytes of a re-till image. -/
def stepLoad (o : Op) (rest : Bytes) (n : Nat) (s : State) : State :=
  let r := loadRecords (min (loadStep * (o.steps + 1)) o.call.bulk.length) o.call rest n s
  match r.failed with
  | some st => endOp o { status := st, inline := loadResult r.applied r.applied st, progress := o.progress } (dropRetill r.st)
  | none =>
    if r.rest.isEmpty then finishOp o { inline := loadResult r.applied noRecord .ok } r.st
    else goOn o { o with body := .retillLoad r.rest r.applied } r.st

/-- ST_TIMEOUT of a commit: the re-till stays open (R456). -/
def commitTimeout (o : Op) (s : State) : State :=
  finishOp o { status := .timeout, progress := o.progress } { s with stw.committing := false, stw.flip := none }

/-- The next step of a journaled command is the mirror write of its point of no return (R367): it is about to act here, and the act
passes it. -/
def ponrNext (k : Cmd) (o : Op) (s : State) : Bool :=
  o.opno != 0 && !beyondPonr o s && k.ponr o.call s && match o.body with
    | .journal _ => true
    | .walk w => match w.todo.head? with
      | some ref => resolveRef ref s == .device
      | none => false
    | _ => false

/-- A journaled command acts on its plot, its record having reached the flash mirror (R367). A reset that follows does not wait for the
close of the record (R460). -/
def stepJournal (k : Cmd) (o : Op) (ref : Nat) (s : State) : State :=
  let p := resolveRef ref s
  let x := actOn k o.call p s
  let f := singleFinal k o.call o.from_ o.opno p x
  if x.quiet then x.after x.st
  else if x.reset then x.after (endNow o f x.st)
  else x.after (endOp o f x.st)

/-- The slot of a re-till that has flipped is marked standing and the pace target lowered, where it may be (R31, R366). -/
def stepClose (o : Op) (t : Nat) (s : State) : State :=
  endOp o { inline := commitResult (stampOf t) s.stw.directChanges } (lowerTarget (markSpare s))

/-- A step of the migration or drain at hand, which counts for the commands that wait for it (R359, R433). -/
def retireTurn (s : State) : State :=
  let p := retireBank s
  let t := migrationStep s
  (t.stw.ops.filter (fun o => o.body == .bankRetire p)).foldl (fun s o => goOn o o s) t

/-- A step of an entry to Fallow, which counts for the command that asked for it. -/
def entryTurn (s : State) : State :=
  let t := entryStep s
  (t.stw.ops.filter (fun o => match o.body with
    | .fallow _ => true
    | _ => false)).foldl (fun s o => goOn o o s) t

/-- One step of an operation. -/
def stepOp (o : Op) (s : State) : State :=
  if o.cancel then cancelOp o s
  else match o.body, cmdOf o.opcode o.call with
    | .walk w, some k => if ponrNext k o s then goOn o o (passPonr o.opno s) else stepWalk k o w s
    | .journal ref, some k => if ponrNext k o s then goOn o o (passPonr o.opno s) else stepJournal k o ref s
    | .retillClose t, _ => stepClose o t s
    | .closing f, _ => stepClosing o f s
    | .bankRetire _, _ => retireTurn s
    | .fallow _, _ => entryTurn s
    | .atomicReady w, some k => abortHeld k o w w.first s
    | .atomicFlip _, _ => goOn o o (raiseTarget { s with stw.flip := some (nowNs s) })
    | .atomicDone w, _ => endAtomic o w s
    | .timeSetPps _ _ _, _ => endOp o { status := .timeout, progress := o.progress } s
    | .retillLoad rest n, _ => stepLoad o rest n s
    | .retillFlip _ _, _ => commitTimeout o s
    | .gateOpen, _ => openGate s
    | _, _ => s

/-! ### The choice of the next step (R358) -/

/-- Isolate the faulty lane and switch in the spare; without one, event 63 (R574, R575). -/
def switchLane (n : Nat) (s : State) : State :=
  let s' := { s with harrow.laneWait := s.harrow.laneWait.filter (· != n) }
  if spareFree s then { s' with harrow.lanes := insertNat 4 s.harrow.lanes } else raiseD 63 2 noObject s'

/-- Open operations of the urgent level, and of the normal one. -/
def levelOps (urgent : Bool) (s : State) : List Op := s.stw.ops.filter (fun o => (o.call.queue == 1) == urgent)

/-- A normal item in turn: new commands of MQ3, MQ0 and MQ2, a bank migration, a Fallow entry, then open operations. -/
def itemReady (n : Nat) (s : State) : Bool :=
  match n with
  | 0 => queueReady 3 s
  | 1 => queueReady 0 s
  | 2 => queueReady 2 s
  | 3 => retireReady s
  | 4 => s.stw.up && entryReady s
  | k + 5 => ((levelOps false s)[k]?).any (runnable s)

def runItem (n : Nat) (s : State) : State :=
  match n with
  | 0 => takeForward s
  | 1 => takeSlot 0 s
  | 2 => takeSlot 2 s
  | 3 => retireTurn s
  | 4 => entryTurn s
  | k + 5 => match (levelOps false s)[k]? with
    | some o => stepOp o s
    | none => s

/-- The next normal item from the turn on, and where the turn then stands: an operation that ended leaves its place to the next. -/
def normalStep (s : State) : State :=
  let n := 5 + (levelOps false s).length
  match ((List.range n).map (fun i => (s.stw.turn + i) % n)).find? (fun i => itemReady i s) with
  | none => s
  | some i =>
    let t := runItem i s
    let ended := decide (5 ≤ i ∧ (levelOps false t).length < (levelOps false s).length)
    { t with stw.turn := if ended then i else i + 1 }

/-- An urgent operation has its step and goes behind the others. -/
def urgentOp (o : Op) (s : State) : State :=
  let t := stepOp o s
  { t with stw.ops := t.stw.ops.filter (fun x => x.opno != o.opno || x.call.tag != o.call.tag || x.call.queue != 1) ++
                      t.stw.ops.filter (fun x => x.opno == o.opno && x.call.tag == o.call.tag && x.call.queue == 1) }

/-- New MQ1 commands first, then open MQ1 operations, then the next normal item. -/
def nextStep (s : State) : State :=
  if queueReady 1 s then takeSlot 1 s
  else match (levelOps true s).find? (runnable s) with
    | some o => urgentOp o s
    | none => normalStep s

/-- Eulyn runs, or the boot ROM serves the queue of recovery (R568). -/
def stewardRuns (s : State) : Bool := (s.stw.up && s.hold.bootPhase == 4 && s.power.state == .growing) || s.hold.bootPhase == 5

/-- The configuration port is stalled and its FIFO of 4 words is full: the Steward waits (R17). -/
def stewardWaits (s : State) : Bool := s.harrow.stalled.contains .steward && decide (4 ≤ s.harrow.stewFifo)

/-- What a step writes goes through the configuration port. DESIGN CHOICE (log 131): a step is taken to write one word. -/
def enterConfig (s : State) : State :=
  if s.harrow.stalled.contains .steward then { s with harrow.stewFifo := s.harrow.stewFifo + 1 } else s

/-- STEWARD_STEP. A lane that waits for the spare comes before every other item. -/
def execStewardStep (s : State) : Result :=
  .next (if !stewardRuns s || stewardWaits s then s
    else enterConfig (match s.harrow.laneWait with
      | n :: _ => switchLane n s
      | [] => nextStep s))

/-! ### Forwards received (R369, R370) -/

def sameForward (a b : Forward) : Bool := a.dev == b.dev && a.queue == b.queue && a.tag == b.tag && a.gen == b.gen && a.sub == b.sub

/-- Segments in order of their offsets. -/
def insertSeg {α : Type} (off : α → Nat) (x : α) : List α → List α
  | [] => [x]
  | y :: t => if off x = off y then x :: t else if off x < off y then x :: y :: t else y :: insertSeg off x t

/-- The data of a message when every segment has arrived. -/
def assembled {α : Type} (off : α → Nat) (data : α → Bytes) (more : α → Bool) (at_ : Nat) : List α → Option Bytes
  | [] => none
  | x :: t =>
    if off x ≠ at_ then none
    else if more x then (assembled off data more (at_ + (data x).length) t).map (data x ++ ·) else some (data x)

/-- A complete forward goes into MQ3, when a slot is free. -/
def placeForward (m : Forward) (s : State) : State :=
  let v := queueOf 3 s
  if 16 ≤ (v.cmdTail + 32 - v.cmdHead) % 32 then s
  else
    let s := { s with stw.mq3 := s.stw.mq3 ++ [m], hold.slots := mwrite (0x1C00 + 0x40 * (v.cmdTail % 16)) (fit 64 m.slot) s.hold.slots }
    setQueue 3 { v with cmdTail := (v.cmdTail + 1) % 32 } s

/-- A new forward: placed once its segments are complete. -/
def newForward (m : Forward) (s : State) : State :=
  let mine := insertSeg (·.off) m (s.stw.segments.filter (sameForward m))
  let others := s.stw.segments.filter (fun x => !sameForward m x)
  match assembled (fun x : Forward => x.off) (fun x => x.bulk) (fun x => x.more) 0 mine with
  | some d => placeForward { m with off := 0, more := false, bulk := d } { s with stw.segments := others }
  | none => { s with stw.segments := others ++ mine }

/-- The command in flight that a forward started. -/
def forwardOp (m : Forward) (s : State) : Option Op :=
  s.stw.ops.find? (fun o => match o.from_ with
    | some w => !o.inner && w.dev == m.dev && w.queue == m.queue && w.sub == m.sub && o.call.tag == m.tag && o.call.gen == m.gen
    | none => false)

/-- Interim answer to a repeated forward. -/
def interimAnswer (m : Forward) (o : Op) (s : State) : Answer :=
  ⟨ownDev s, m.queue, m.tag, m.gen, true, false, m.sub, 0,
    responseImage o.opcode o.call { status := .inProgress, interim := true, progress := o.progress, opno := o.opno }, []⟩

/-- MAILBOX_FORWARD. -/
def execMailboxForward (m : Forward) (s : State) : Result :=
  if !s.stw.up then .next s
  else
    let s := takeControl 3 s
    if s.field.join ≠ 2 then .next s
    else match s.stw.answers.find? (fun a => a.dev == m.dev && a.queue == m.queue && a.tag == m.tag && a.gen == m.gen && a.sub == m.sub) with
      | some a => .next (sendAnswer m.dev a.answer s)
      | none => match forwardOp m s with
        | some o => .next (sendAnswer m.dev (interimAnswer m o s) s)
        | none => .next (if s.stw.mq3.any (sameForward m) then s else newForward m s)

/-! ### Answers received (R55, R354, R371) -/

def sameAnswer (a b : Answer) : Bool := a.dev == b.dev && a.queue == b.queue && a.tag == b.tag && a.gen == b.gen && a.sub == b.sub

/-- The walk that waits for an answer. -/
def awaiting (m : Answer) (s : State) : Option (Op × Walk × Nat) :=
  s.stw.ops.findSome? (fun o => match o.body with
    | .walk w => match w.await with
      | some (d, r) =>
        if d == m.dev && o.call.queue == m.queue && o.call.tag == m.tag && o.call.gen == m.gen && w.subs == m.sub + 1 then some (o, w, r) else none
      | none => none
    | _ => none)

/-- Status entry `n` of a summary (R60). -/
def entryAt (d : Bytes) (n : Nat) : Entry :=
  let o := 16 + 8 * n
  { plot := u32 d o, status := statusOf (u8 d (o + 4)), rep := flag d (o + 5) 0, notApplied := flag d (o + 5) 1, unknown := flag d (o + 5) 2
    notVisited := flag d (o + 5) 3 }

/-- Status of the remote plot itself in what its device has done. -/
def remoteStatus (ref : Nat) (l : List Entry) : Status := ((l.find? (fun e => e.plot == ref)).map (·.status)).getD .ok

/-- Entries of a sub-walk join the walk; a device without applicable plots adds none, and an unbound row it passed over is not a plot
reached (R51). -/
def joinEntries (ref : Nat) (st : Status) (inline d : Bytes) (w : Walk) : Walk :=
  let n := min (u32 d 8) ((d.length - 16) / 8)
  let l := (List.range n).map (entryAt d)
  let passed := l.isEmpty && st == .badPlot
  let l := if l.isEmpty && st != .badPlot then [{ plot := ref, status := st }] else l
  let w := { w with seen := if passed then w.seen else (ref, remoteStatus ref l) :: w.seen, inline := if w.acted = 0 then inline else w.inline }
  l.foldl (fun w e => addEntry e w) { w with acted := w.acted + (if n = 0 then b2n (st == .ok) else u32 d 0) }

/-- Ends of the whole items in lists with their headers (R378). -/
def listEnds (item : Nat) : Nat → Nat → Bytes → List Nat
  | 0, _, _ => []
  | m + 1, at_, d =>
    if d.length < 4 then []
    else
      let n := u16 d 2
      (if n = 0 then [at_ + 4] else (List.range n).map (fun i => at_ + 4 + item * (i + 1))) ++
        listEnds item m (at_ + 4 + item * n) (d.drop (4 + item * n))

/-- The bulk result of a sub-walk joins the walk's; the images of a read request stay together (R378, R380). -/
def joinBulk (k : Cmd) (c : Call) (d : Bytes) (w : Walk) : Walk :=
  let at_ := w.bulk.length
  if isRead c then { w with bulk := w.bulk ++ d, ends := w.ends ++ [at_ + d.length] }
  else if k.item ≠ 0 then { w with bulk := w.bulk ++ d, ends := w.ends ++ listEnds k.item d.length at_ d }
  else if w.acted = 0 then { w with bulk := d }
  else if k.sums ≠ 0 then { w with bulk := joinSums k w.bulk d }
  else w

/-- Results of a status command's sub-walk join the aggregate (R61, R378). -/
def joinResults (k : Cmd) (c : Call) (ref : Nat) (st : Status) (inline d : Bytes) (w : Walk) : Walk :=
  if st ≠ .ok ∧ st ≠ .partial_ then
    if st = .badPlot then w else addEntry { plot := ref, status := st } { w with seen := (ref, st) :: w.seen }
  else
    addEntry { plot := ref, status := st }
      { joinBulk k c d w with
        seen := (ref, st) :: w.seen, inline := if w.acted = 0 then inline else aggInline k c w.inline inline, acted := w.acted + 1 }

/-- The whole answer of a sub-walk. -/
def joinAnswer (o : Op) (w : Walk) (ref : Nat) (slot d : Bytes) : Walk :=
  let st := statusOf (u8 slot 4)
  let w := { w with await := none, given := st }
  match cmdOf o.opcode o.call with
  | some k => if k.status || isRead o.call then joinResults k o.call ref st (sub slot 16 48) d w else joinEntries ref st (sub slot 16 48) d w
  | none => w

/-- The walk takes the answer and may go on at its next step. -/
def takeAnswer (m : Answer) (o : Op) (w : Walk) (ref : Nat) (s : State) : State :=
  let mine := insertSeg (·.off) m (s.stw.answerSegs.filter (sameAnswer m))
  let others := s.stw.answerSegs.filter (fun x => !sameAnswer m x)
  match assembled (fun x : Answer => x.off) (fun x => x.data) (fun x => x.more) 0 mine with
  | some d => putOp o { o with body := .walk (joinAnswer o w ref m.slot d) } { s with stw.answerSegs := others }
  | none => { s with stw.answerSegs := others ++ mine }

/-- MAILBOX_ANSWER: an interim answer restarts the remote timeout only; a stale one is discarded. -/
def execMailboxAnswer (m : Answer) (s : State) : Result :=
  if !s.stw.up then .next s
  else
    let s := takeControl 4 s
    match awaiting m s with
    | none => .next (staleAnswer m.tag s)
    | some (o, w, r) => .next (if m.interim then s else takeAnswer m o w r s)

/-! ### FORWARD_REPEAT, REMOTE_TIMEOUT -/

/-- The operation under a queue and tag that waits for a sub-walk. -/
def waitingOp (q tag : Nat) (s : State) : Option Op :=
  s.stw.ops.find? (fun o => !o.inner && o.call.queue == q && o.call.tag == tag && match o.body with
    | .walk w => w.await.isSome
    | _ => false)

/-- FORWARD_REPEAT: the whole forward goes again. -/
def execForwardRepeat (q tag : Nat) (s : State) : Result :=
  match waitingOp q tag s with
  | some o => match o.body with
    | .walk w => match w.await with
      | some (d, r) =>
        .next (if s.stw.up then sendForward d o.opcode o.call (walkToken o.call o.from_ s) (w.subs - 1) (forwardHops w r) s else s)
      | none => .next s
    | _ => .next s
  | none => .next s

/-- REMOTE_TIMEOUT. -/
def execRemoteTimeout (q tag : Nat) (s : State) : Result :=
  match waitingOp q tag s with
  | some o => .next (if s.stw.up then putOp o (failAwait none true o) s else s)
  | none => .next s

end Sys2Proof.Machine
end

