-- ==== Sys2Proof/Machine/Dispatch.lean ====
section
/-! DEFINITION. The dispatch: one arm per command, each a direct call of its meaning. -/

namespace Sys2Proof.Machine

/-- The effect of a command on everything but the queue. -/
def exec (i : Instr) (s : State) : Host.Outcome State Fault Refusal :=
  match i with
  | .plotDescribe c => Sys2Proof.Machine.execPlotDescribe c s
  | .plotGroupCreate c => Sys2Proof.Machine.execPlotGroupCreate c s
  | .plotGroupDelete c => Sys2Proof.Machine.execPlotGroupDelete c s
  | .plotAttach c => Sys2Proof.Machine.execPlotAttach c s
  | .plotDetach c => Sys2Proof.Machine.execPlotDetach c s
  | .fieldJoin c => Sys2Proof.Machine.execFieldJoin c s
  | .fieldLeave c => Sys2Proof.Machine.execFieldLeave c s
  | .deviceInfo c => Sys2Proof.Machine.execDeviceInfo c s
  | .rowBind c => Sys2Proof.Machine.execRowBind c s
  | .rowEnable c => Sys2Proof.Machine.execRowEnable c s
  | .rowDisable c => Sys2Proof.Machine.execRowDisable c s
  | .rowStats c => Sys2Proof.Machine.execRowStats c s
  | .rowFramingSet c => Sys2Proof.Machine.execRowFramingSet c s
  | .routeAdd c => Sys2Proof.Machine.execRouteAdd c s
  | .routeRemove c => Sys2Proof.Machine.execRouteRemove c s
  | .routeQuery c => Sys2Proof.Machine.execRouteQuery c s
  | .routeQueryClear c => Sys2Proof.Machine.execRouteQueryClear c s
  | .routeQueryList c => Sys2Proof.Machine.execRouteQueryList c s
  | .lsetWrite c => Sys2Proof.Machine.execLsetWrite c s
  | .lsetRead c => Sys2Proof.Machine.execLsetRead c s
  | .teamSet c => Sys2Proof.Machine.execTeamSet c s
  | .teamState c => Sys2Proof.Machine.execTeamState c s
  | .sieveSet c => Sys2Proof.Machine.execSieveSet c s
  | .sieveClear c => Sys2Proof.Machine.execSieveClear c s
  | .rewriteSet c => Sys2Proof.Machine.execRewriteSet c s
  | .portConfig c => Sys2Proof.Machine.execPortConfig c s
  | .portState c => Sys2Proof.Machine.execPortState c s
  | .portFilterSet c => Sys2Proof.Machine.execPortFilterSet c s
  | .portFilterClear c => Sys2Proof.Machine.execPortFilterClear c s
  | .portPauseSet c => Sys2Proof.Machine.execPortPauseSet c s
  | .portPreemptSet c => Sys2Proof.Machine.execPortPreemptSet c s
  | .portStatsSnap c => Sys2Proof.Machine.execPortStatsSnap c s
  | .furrowListWrite c => Sys2Proof.Machine.execFurrowListWrite c s
  | .furrowSwitch c => Sys2Proof.Machine.execFurrowSwitch c s
  | .furrowListRemove c => Sys2Proof.Machine.execFurrowListRemove c s
  | .shaperSet c => Sys2Proof.Machine.execShaperSet c s
  | .sheafSet c => Sys2Proof.Machine.execSheafSet c s
  | .classMapSet c => Sys2Proof.Machine.execClassMapSet c s
  | .poolAndGuardSet c => Sys2Proof.Machine.execPoolAndGuardSet c s
  | .timeConfig c => Sys2Proof.Machine.execTimeConfig c s
  | .timeConfigPort c => Sys2Proof.Machine.execTimeConfigPort c s
  | .timeSet c => Sys2Proof.Machine.execTimeSet c s
  | .timeSetAtPps c => Sys2Proof.Machine.execTimeSetAtPps c s
  | .timeAdjustStep c => Sys2Proof.Machine.execTimeAdjustStep c s
  | .timeAdjustServoInput c => Sys2Proof.Machine.execTimeAdjustServoInput c s
  | .timeAdjustFrequency c => Sys2Proof.Machine.execTimeAdjustFrequency c s
  | .servoSet c => Sys2Proof.Machine.execServoSet c s
  | .asymSet c => Sys2Proof.Machine.execAsymSet c s
  | .timeState c => Sys2Proof.Machine.execTimeState c s
  | .alarmSet c => Sys2Proof.Machine.execAlarmSet c s
  | .scheduleEntrySet c => Sys2Proof.Machine.execScheduleEntrySet c s
  | .readRequest opcode c => Sys2Proof.Machine.execReadRequest opcode c s
  | .ruleWrite c => Sys2Proof.Machine.execRuleWrite c s
  | .ruleRead c => Sys2Proof.Machine.execRuleRead c s
  | .ruleClear c => Sys2Proof.Machine.execRuleClear c s
  | .policerSet c => Sys2Proof.Machine.execPolicerSet c s
  | .zoneSet c => Sys2Proof.Machine.execZoneSet c s
  | .keyInstall c => Sys2Proof.Machine.execKeyInstall c s
  | .keyActivate c => Sys2Proof.Machine.execKeyActivate c s
  | .keyErase c => Sys2Proof.Machine.execKeyErase c s
  | .saConfig c => Sys2Proof.Machine.execSaConfig c s
  | .keyState c => Sys2Proof.Machine.execKeyState c s
  | .zeroizeAll c => Sys2Proof.Machine.execZeroizeAll c s
  | .tallyBind c => Sys2Proof.Machine.execTallyBind c s
  | .tallyRelease c => Sys2Proof.Machine.execTallyRelease c s
  | .tallyState c => Sys2Proof.Machine.execTallyState c s
  | .granaryQuotaSet c => Sys2Proof.Machine.execGranaryQuotaSet c s
  | .granaryState c => Sys2Proof.Machine.execGranaryState c s
  | .bankRetire c => Sys2Proof.Machine.execBankRetire c s
  | .bankTest c => Sys2Proof.Machine.execBankTest c s
  | .powerPolicySet c => Sys2Proof.Machine.execPowerPolicySet c s
  | .fallowPolicySet c => Sys2Proof.Machine.execFallowPolicySet c s
  | .fallowEnter c => Sys2Proof.Machine.execFallowEnter c s
  | .wakeSourcesSet c => Sys2Proof.Machine.execWakeSourcesSet c s
  | .nmConfig c => Sys2Proof.Machine.execNmConfig c s
  | .nmRequest c => Sys2Proof.Machine.execNmRequest c s
  | .wakeCause c => Sys2Proof.Machine.execWakeCause c s
  | .paceState c => Sys2Proof.Machine.execPaceState c s
  | .fieldPinAssign c => Sys2Proof.Machine.execFieldPinAssign c s
  | .canConfig c => Sys2Proof.Machine.execCanConfig c s
  | .canRecover c => Sys2Proof.Machine.execCanRecover c s
  | .uartConfig c => Sys2Proof.Machine.execUartConfig c s
  | .linConfig c => Sys2Proof.Machine.execLinConfig c s
  | .mvbConfig c => Sys2Proof.Machine.execMvbConfig c s
  | .fieldBusState c => Sys2Proof.Machine.execFieldBusState c s
  | .ringCreate c => Sys2Proof.Machine.execRingCreate c s
  | .ringDestroy c => Sys2Proof.Machine.execRingDestroy c s
  | .ringModeration c => Sys2Proof.Machine.execRingModeration c s
  | .selfTest c => Sys2Proof.Machine.execSelfTest c s
  | .loopbackSet c => Sys2Proof.Machine.execLoopbackSet c s
  | .eventLogRead c => Sys2Proof.Machine.execEventLogRead c s
  | .echo c => Sys2Proof.Machine.execEcho c s
  | .retillBegin c => Sys2Proof.Machine.execRetillBegin c s
  | .retillCommit c => Sys2Proof.Machine.execRetillCommit c s
  | .retillAbort c => Sys2Proof.Machine.execRetillAbort c s
  | .ledgerState c => Sys2Proof.Machine.execLedgerState c s
  | .fwStage c => Sys2Proof.Machine.execFwStage c s
  | .fwActivate c => Sys2Proof.Machine.execFwActivate c s
  | .opCancel c => Sys2Proof.Machine.execOpCancel c s
  | .opProgress c => Sys2Proof.Machine.execOpProgress c s
  | .sysResetFabric c => Sys2Proof.Machine.execSysResetFabric c s
  | .sysResetSteward c => Sys2Proof.Machine.execSysResetSteward c s
  | .sysResetFull c => Sys2Proof.Machine.execSysResetFull c s
  | .gateChallengeRequest c => Sys2Proof.Machine.execGateChallengeRequest c s
  | .gateChallengeRespond c => Sys2Proof.Machine.execGateChallengeRespond c s
  | .mqnDoorbell f q v => Sys2Proof.Machine.execMqnDoorbell f q v s
  | .mqnRspHead f q v => Sys2Proof.Machine.execMqnRspHead f q v s
  | .evPending clear same => Sys2Proof.Machine.execEvPending clear same s
  | .evEnable v en => Sys2Proof.Machine.execEvEnable v en s
  | .capture arm => Sys2Proof.Machine.execCapture arm s
  | .armPps v => Sys2Proof.Machine.execArmPps v s
  | .semTake r n => Sys2Proof.Machine.execSemTake r n s
  | .semGive r n => Sys2Proof.Machine.execSemGive r n s
  | .stileCtrl v => Sys2Proof.Machine.execStileCtrl v s
  | .stileRegion g reg v => Sys2Proof.Machine.execStileRegion g reg v s
  | .stileErrlogValid e => Sys2Proof.Machine.execStileErrlogValid e s
  | .ringTail f ring v => Sys2Proof.Machine.execRingTail f ring v s
  | .statisticsRead p idx part => Sys2Proof.Machine.execStatisticsRead p idx part s
  | .holdWindowWrite f off data => Sys2Proof.Machine.execHoldWindowWrite f off data s
  | .msiXEnable en fnMask => Sys2Proof.Machine.execMsiXEnable en fnMask s
  | .msiXUnmask v => Sys2Proof.Machine.execMsiXUnmask v s
  | .xspiRead addr len clkPs broken => Sys2Proof.Machine.execXspiRead addr len clkPs broken s
  | .xspiWrite addr data broken => Sys2Proof.Machine.execXspiWrite addr data broken s
  | .xspiReadConfiguration => Sys2Proof.Machine.execXspiReadConfiguration s
  | .xspiWriteConfiguration v => Sys2Proof.Machine.execXspiWriteConfiguration v s
  | .xspiReadIdentification => Sys2Proof.Machine.execXspiReadIdentification s
  | .xspiReset => Sys2Proof.Machine.execXspiReset s
  | .poisonedTlp bar => Sys2Proof.Machine.execPoisonedTlp bar s
  | .unsupportedRequest addr => Sys2Proof.Machine.execUnsupportedRequest addr s
  | .pcieFundamentalReset hot => Sys2Proof.Machine.execPcieFundamentalReset hot s
  | .perstn asserted => Sys2Proof.Machine.execPerstn asserted s
  | .pcieLinkChange up rate width => Sys2Proof.Machine.execPcieLinkChange up rate width s
  | .busMasterEnable v => Sys2Proof.Machine.execBusMasterEnable v s
  | .d3hot v => Sys2Proof.Machine.execD3hot v s
  | .coalescingWindowEnd n => Sys2Proof.Machine.execCoalescingWindowEnd n s
  | .transmitItemFetch ring descs data dmaError => Sys2Proof.Machine.execTransmitItemFetch ring descs data dmaError s
  | .receiveItemDelivery ring descs dmaError => Sys2Proof.Machine.execReceiveItemDelivery ring descs dmaError s
  | .ringWaitLimit ring => Sys2Proof.Machine.execRingWaitLimit ring s
  | .moderationTimeLimit ring => Sys2Proof.Machine.execModerationTimeLimit ring s
  | .stewardStep => Sys2Proof.Machine.execStewardStep s
  | .flipInstant => Sys2Proof.Machine.execFlipInstant s
  | .mailboxForward m => Sys2Proof.Machine.execMailboxForward m s
  | .mailboxAnswer m => Sys2Proof.Machine.execMailboxAnswer m s
  | .forwardRepeat q tag => Sys2Proof.Machine.execForwardRepeat q tag s
  | .remoteTimeout q tag => Sys2Proof.Machine.execRemoteTimeout q tag s
  | .atomicPrepare m => Sys2Proof.Machine.execAtomicPrepare m s
  | .atomicCommit m => Sys2Proof.Machine.execAtomicCommit m s
  | .atomicAbort m => Sys2Proof.Machine.execAtomicAbort m s
  | .atomicReady m => Sys2Proof.Machine.execAtomicReady m s
  | .commitDone m => Sys2Proof.Machine.execCommitDone m s
  | .commitRepeat member => Sys2Proof.Machine.execCommitRepeat member s
  | .prepareHoldExpiry => Sys2Proof.Machine.execPrepareHoldExpiry s
  | .hail h => Sys2Proof.Machine.execHail h s
  | .leaveHail h => Sys2Proof.Machine.execLeaveHail h s
  | .hailInterval => Sys2Proof.Machine.execHailInterval s
  | .joiningComplete => Sys2Proof.Machine.execJoiningComplete s
  | .memberUnreachable d => Sys2Proof.Machine.execMemberUnreachable d s
  | .stileWrite r off data => Sys2Proof.Machine.execStileWrite r off data s
  | .stileRead r off len => Sys2Proof.Machine.execStileRead r off len s
  | .farCompletion id data err => Sys2Proof.Machine.execFarCompletion id data err s
  | .farTimeout id => Sys2Proof.Machine.execFarTimeout id s
  | .stileRequest q => Sys2Proof.Machine.execStileRequest q s
  | .stileCompletion m => Sys2Proof.Machine.execStileCompletion m s
  | .stileResend peer => Sys2Proof.Machine.execStileResend peer s
  | .prefetchExpiry g => Sys2Proof.Machine.execPrefetchExpiry g s
  | .uartCharacter u ch => Sys2Proof.Machine.execUartCharacter u ch s
  | .gapTimeout u => Sys2Proof.Machine.execGapTimeout u s
  | .idleGapEnd u => Sys2Proof.Machine.execIdleGapEnd u s
  | .grainIssue p => Sys2Proof.Machine.execGrainIssue p s
  | .takeCell p => Sys2Proof.Machine.execTakeCell p s
  | .canFrameAccepted k f => Sys2Proof.Machine.execCanFrameAccepted k f s
  | .canFrameError k e => Sys2Proof.Machine.execCanFrameError k e s
  | .protocolException k => Sys2Proof.Machine.execProtocolException k s
  | .integration k => Sys2Proof.Machine.execIntegration k s
  | .arbitrationLost k => Sys2Proof.Machine.execArbitrationLost k s
  | .canTransmitError k e => Sys2Proof.Machine.execCanTransmitError k e s
  | .recoveryDelay k => Sys2Proof.Machine.execRecoveryDelay k s
  | .busOffRecovery k => Sys2Proof.Machine.execBusOffRecovery k s
  | .canFrameSent k => Sys2Proof.Machine.execCanFrameSent k s
  | .linFrame k f => Sys2Proof.Machine.execLinFrame k f s
  | .linHeader k id parityOk => Sys2Proof.Machine.execLinHeader k id parityOk s
  | .linResponseTimeout k => Sys2Proof.Machine.execLinResponseTimeout k s
  | .linBitError k => Sys2Proof.Machine.execLinBitError k s
  | .scheduleSlot k => Sys2Proof.Machine.execScheduleSlot k s
  | .mvbSlaveFrame k f => Sys2Proof.Machine.execMvbSlaveFrame k f s
  | .mvbMasterFrame k port => Sys2Proof.Machine.execMvbMasterFrame k port s
  | .lineTimeout k lineB => Sys2Proof.Machine.execLineTimeout k lineB s
  | .freshnessLimit k port => Sys2Proof.Machine.execFreshnessLimit k port s
  | .ethernetFrameReceived p f => Sys2Proof.Machine.execEthernetFrameReceived p f s
  | .pauseFrame p f => Sys2Proof.Machine.execPauseFrame p f s
  | .pauseTimerExpiry p tc => Sys2Proof.Machine.execPauseTimerExpiry p tc s
  | .pauseWatchdog p tc => Sys2Proof.Machine.execPauseWatchdog p tc s
  | .recoveryPeriodEnd p tc => Sys2Proof.Machine.execRecoveryPeriodEnd p tc s
  | .pauseRepeat p => Sys2Proof.Machine.execPauseRepeat p s
  | .verifyMpacket p => Sys2Proof.Machine.execVerifyMpacket p s
  | .respondMpacket p => Sys2Proof.Machine.execRespondMpacket p s
  | .verifyTime p => Sys2Proof.Machine.execVerifyTime p s
  | .linkUp p speed => Sys2Proof.Machine.execLinkUp p speed s
  | .linkLoss p => Sys2Proof.Machine.execLinkLoss p s
  | .linkDownHoldOff p => Sys2Proof.Machine.execLinkDownHoldOff p s
  | .sync p m => Sys2Proof.Machine.execSync p m s
  | .pdelayResult p delay => Sys2Proof.Machine.execPdelayResult p delay s
  | .announce p m => Sys2Proof.Machine.execAnnounce p m s
  | .syncInterval p => Sys2Proof.Machine.execSyncInterval p s
  | .pdelayInterval p => Sys2Proof.Machine.execPdelayInterval p s
  | .announceInterval => Sys2Proof.Machine.execAnnounceInterval s
  | .syncReceiptTimeout => Sys2Proof.Machine.execSyncReceiptTimeout s
  | .ppsInMissing => Sys2Proof.Machine.execPpsInMissing s
  | .holdoverBudget => Sys2Proof.Machine.execHoldoverBudget s
  | .suspectTimeout p => Sys2Proof.Machine.execSuspectTimeout p s
  | .ppsIn stamp => Sys2Proof.Machine.execPpsIn stamp s
  | .ppsOut => Sys2Proof.Machine.execPpsOut s
  | .timeAlarm n => Sys2Proof.Machine.execTimeAlarm n s
  | .timeCapture pin rising stamp => Sys2Proof.Machine.execTimeCapture pin rising stamp s
  | .harrowDecision p lookups => Sys2Proof.Machine.execHarrowDecision p lookups s
  | .teamQuietExpiry team row => Sys2Proof.Machine.execTeamQuietExpiry team row s
  | .drillAccept cls => Sys2Proof.Machine.execDrillAccept cls s
  | .copyRelease row rd => Sys2Proof.Machine.execCopyRelease row rd s
  | .portFrameSelect p rd => Sys2Proof.Machine.execPortFrameSelect p rd s
  | .copySent w => Sys2Proof.Machine.execCopySent w s
  | .egressAgeLimit row => Sys2Proof.Machine.execEgressAgeLimit row s
  | .sheafAge dest cls => Sys2Proof.Machine.execSheafAge dest cls s
  | .sheafReleaseBoundary dest cls => Sys2Proof.Machine.execSheafReleaseBoundary dest cls s
  | .gateChange p => Sys2Proof.Machine.execGateChange p s
  | .setAndHoldMac p => Sys2Proof.Machine.execSetAndHoldMac p s
  | .configurationChangeTime p => Sys2Proof.Machine.execConfigurationChangeTime p s
  | .fabricCodeFault w => Sys2Proof.Machine.execFabricCodeFault w s
  | .fabricStall w => Sys2Proof.Machine.execFabricStall w s
  | .persistentStall w => Sys2Proof.Machine.execPersistentStall w s
  | .fabricResetDone failedLanes => Sys2Proof.Machine.execFabricResetDone failedLanes s
  | .paceWindow pace tj fill => Sys2Proof.Machine.execPaceWindow pace tj fill s
  | .audit => Sys2Proof.Machine.execAudit s
  | .patrol finds => Sys2Proof.Machine.execPatrol finds s
  | .drainEnd b => Sys2Proof.Machine.execDrainEnd b s
  | .drainLimit b => Sys2Proof.Machine.execDrainLimit b s
  | .keyWaitLimit slot => Sys2Proof.Machine.execKeyWaitLimit slot s
  | .nonceExpiry => Sys2Proof.Machine.execNonceExpiry s
  | .startSequence straps => Sys2Proof.Machine.execStartSequence straps s
  | .stewardRestartDone => Sys2Proof.Machine.execStewardRestartDone s
  | .stewardWatchdog => Sys2Proof.Machine.execStewardWatchdog s
  | .lockstepMiscompare => Sys2Proof.Machine.execLockstepMiscompare s
  | .resetn asserted straps => Sys2Proof.Machine.execResetn asserted straps s
  | .vstbyPowerOn => Sys2Proof.Machine.execVstbyPowerOn s
  | .vstbyLoss => Sys2Proof.Machine.execVstbyLoss s
  | .supplyFault high => Sys2Proof.Machine.execSupplyFault high s
  | .buckVinLow => Sys2Proof.Machine.execBuckVinLow s
  | .buckVinRestored => Sys2Proof.Machine.execBuckVinRestored s
  | .phaseCurrentLimit => Sys2Proof.Machine.execPhaseCurrentLimit s
  | .thermalWarn tj => Sys2Proof.Machine.execThermalWarn tj s
  | .wakePin n rising => Sys2Proof.Machine.execWakePin n rising s
  | .canWakeUpPattern => Sys2Proof.Machine.execCanWakeUpPattern s
  | .canSelectiveWake ch f => Sys2Proof.Machine.execCanSelectiveWake ch f s
  | .ethernetWakePattern frame => Sys2Proof.Machine.execEthernetWakePattern frame s
  | .wakeTimer => Sys2Proof.Machine.execWakeTimer s
  | .falseWakeTimeout => Sys2Proof.Machine.execFalseWakeTimeout s
  | .backoffEnd src => Sys2Proof.Machine.execBackoffEnd src s
  | .automaticFallowEntry => Sys2Proof.Machine.execAutomaticFallowEntry s
  | .tKa net => Sys2Proof.Machine.execTKa net s
  | .tSleep net => Sys2Proof.Machine.execTSleep net s
  | .tPrep net => Sys2Proof.Machine.execTPrep net s
  | .pointOfNoReturn net => Sys2Proof.Machine.execPointOfNoReturn net s
  | .tMinSleep net => Sys2Proof.Machine.execTMinSleep net s
  | .keepAlive net m => Sys2Proof.Machine.execKeepAlive net m s
  | .sleepConfirmation net m => Sys2Proof.Machine.execSleepConfirmation net m s
  | .wakeMessage net m => Sys2Proof.Machine.execWakeMessage net m s
  | .token net m => Sys2Proof.Machine.execToken net m s
  | .sleepIndication net m => Sys2Proof.Machine.execSleepIndication net m s
  | .alive net m => Sys2Proof.Machine.execAlive net m s
  | .veto net m => Sys2Proof.Machine.execVeto net m s
  | .prepareSleepAnnouncement net m => Sys2Proof.Machine.execPrepareSleepAnnouncement net m s
  | .tokenHold net => Sys2Proof.Machine.execTokenHold net s
  | .tokenTimeout net => Sys2Proof.Machine.execTokenTimeout net s
  | .pdelayReq p => Sys2Proof.Machine.execPdelayReq p s
  | .announceReceiptTimeout p sel => Sys2Proof.Machine.execAnnounceReceiptTimeout p sel s
  | .needEnds net => Sys2Proof.Machine.execNeedEnds net s
  | .waking5Ms net => Sys2Proof.Machine.execWaking5Ms net s
  | .confirmationNotSent net => Sys2Proof.Machine.execConfirmationNotSent net s
  | .xspiUnknownCommand cmd => Sys2Proof.Machine.execXspiUnknownCommand cmd s

end Sys2Proof.Machine
end

