-- ==== Sys2Proof/WellFormed.lean ====
section
/-! DEFINITION. The ranges the rows' operands have on the part. -/

namespace Sys2Proof

/-- A mailbox call as a slot of MQ0 to MQ2 and its bulk area can spell it (R344, R346, R348): 8-bit tag, 4-bit generation, hop count
in a byte, 48 inline bytes, and bulk parameters within the area. -/
def Call.wf (c : Call) : Bool :=
  decide (c.queue < 3) && decide (c.tag < 256) && decide (c.gen < 16) && decide (c.hops.length < 256) &&
  c.hops.all (fun h => decide (h < 256)) && decide (c.units < 32768) && decide (c.at_ < 65536) &&
  decide (c.params.length = 48) && decide (c.bulk.length ≤ 8 * c.units)

/-- Size and alignment of a write of the Hold window (R318): below 1000h within one naturally aligned 8-byte unit, in the slot areas
within one slot. -/
def windowAccess (off len : Nat) : Bool :=
  if off < 0x1000 then decide (1 ≤ len ∧ off % 8 + len ≤ 8)
  else if off < 0x3000 then decide (1 ≤ len ∧ off % 64 + len ≤ 64)
  else true

/-- A mailbox forward as R370 lays it out. -/
def Forward.wf (m : Forward) : Bool :=
  decide (m.dev < 256) && decide (m.queue < 4) && decide (m.tag < 256) && decide (m.gen < 16) && decide (m.sub < 65536) &&
  decide (m.tokDev < 256) && decide (m.tokQueue < 256) && decide (m.tokTag < 256) && decide (m.tokGen < 256) && decide (m.off < 4294967296) &&
  decide (m.slot.length = 64)

/-- A mailbox answer as R371 lays it out. -/
def Answer.wf (m : Answer) : Bool :=
  decide (m.dev < 256) && decide (m.queue < 4) && decide (m.tag < 256) && decide (m.gen < 16) && decide (m.sub < 65536) &&
  decide (m.off < 4294967296) && decide (m.slot.length = 64)

/-- An atomic message as R372 lays it out. -/
def AtomicMsg.wf (m : AtomicMsg) : Bool :=
  decide (m.kind < 256) && decide (m.sender < 256) && decide (m.tokDev < 256) && decide (m.tokQueue < 256) && decide (m.tokTag < 256) &&
  decide (m.tokGen < 256) && decide (m.tc < 18446744073709551616) && decide (m.status < 256)

/-- Every operand is in the range its row allows. -/
def Instr.wf : Instr → Bool
  | .plotDescribe c => c.wf
  | .plotGroupCreate c => c.wf
  | .plotGroupDelete c => c.wf
  | .plotAttach c => c.wf
  | .plotDetach c => c.wf
  | .fieldJoin c => c.wf
  | .fieldLeave c => c.wf
  | .deviceInfo c => c.wf
  | .rowBind c => c.wf
  | .rowEnable c => c.wf
  | .rowDisable c => c.wf
  | .rowStats c => c.wf
  | .rowFramingSet c => c.wf
  | .routeAdd c => c.wf
  | .routeRemove c => c.wf
  | .routeQuery c => c.wf
  | .routeQueryClear c => c.wf
  | .routeQueryList c => c.wf
  | .lsetWrite c => c.wf
  | .lsetRead c => c.wf
  | .teamSet c => c.wf
  | .teamState c => c.wf
  | .sieveSet c => c.wf
  | .sieveClear c => c.wf
  | .rewriteSet c => c.wf
  | .portConfig c => c.wf
  | .portState c => c.wf
  | .portFilterSet c => c.wf
  | .portFilterClear c => c.wf
  | .portPauseSet c => c.wf
  | .portPreemptSet c => c.wf
  | .portStatsSnap c => c.wf
  | .furrowListWrite c => c.wf
  | .furrowSwitch c => c.wf
  | .furrowListRemove c => c.wf
  | .shaperSet c => c.wf
  | .sheafSet c => c.wf
  | .classMapSet c => c.wf
  | .poolAndGuardSet c => c.wf
  | .timeConfig c => c.wf
  | .timeConfigPort c => c.wf
  | .timeSet c => c.wf
  | .timeSetAtPps c => c.wf
  | .timeAdjustStep c => c.wf
  | .timeAdjustServoInput c => c.wf
  | .timeAdjustFrequency c => c.wf
  | .servoSet c => c.wf
  | .asymSet c => c.wf
  | .timeState c => c.wf
  | .alarmSet c => c.wf
  | .scheduleEntrySet c => c.wf
  | .readRequest opcode c => decide (opcode < 65536) && c.wf
  | .ruleWrite c => c.wf
  | .ruleRead c => c.wf
  | .ruleClear c => c.wf
  | .policerSet c => c.wf
  | .zoneSet c => c.wf
  | .keyInstall c => c.wf
  | .keyActivate c => c.wf
  | .keyErase c => c.wf
  | .saConfig c => c.wf
  | .keyState c => c.wf
  | .zeroizeAll c => c.wf
  | .tallyBind c => c.wf
  | .tallyRelease c => c.wf
  | .tallyState c => c.wf
  | .granaryQuotaSet c => c.wf
  | .granaryState c => c.wf
  | .bankRetire c => c.wf
  | .bankTest c => c.wf
  | .powerPolicySet c => c.wf
  | .fallowPolicySet c => c.wf
  | .fallowEnter c => c.wf
  | .wakeSourcesSet c => c.wf
  | .nmConfig c => c.wf
  | .nmRequest c => c.wf
  | .wakeCause c => c.wf
  | .paceState c => c.wf
  | .fieldPinAssign c => c.wf
  | .canConfig c => c.wf
  | .canRecover c => c.wf
  | .uartConfig c => c.wf
  | .linConfig c => c.wf
  | .mvbConfig c => c.wf
  | .fieldBusState c => c.wf
  | .ringCreate c => c.wf
  | .ringDestroy c => c.wf
  | .ringModeration c => c.wf
  | .selfTest c => c.wf
  | .loopbackSet c => c.wf
  | .eventLogRead c => c.wf
  | .echo c => c.wf
  | .retillBegin c => c.wf
  | .retillCommit c => c.wf
  | .retillAbort c => c.wf
  | .ledgerState c => c.wf
  | .fwStage c => c.wf
  | .fwActivate c => c.wf
  | .opCancel c => c.wf
  | .opProgress c => c.wf
  | .sysResetFabric c => c.wf
  | .sysResetSteward c => c.wf
  | .sysResetFull c => c.wf
  | .gateChallengeRequest c => c.wf
  | .gateChallengeRespond c => c.wf
  | .mqnDoorbell _ q _ => decide (q < 4)
  | .mqnRspHead _ q _ => decide (q < 4)
  | .evPending _ _ => true
  | .evEnable _ _ => true
  | .capture _ => true
  | .armPps _ => true
  | .semTake _ n => decide (n < 32)
  | .semGive _ n => decide (n < 32)
  | .stileCtrl _ => true
  | .stileRegion g reg _ => decide (g < 16) && decide (reg < 4)
  | .stileErrlogValid e => decide (e < 16)
  | .ringTail _ ring _ => decide (ring < 32)
  | .statisticsRead p idx _ => decide (p < 10) && decide (idx < 48)
  | .holdWindowWrite _ a data => decide (a.be < 256 ∧ a.off + data.length ≤ 65536) && windowAccess a.off data.length
  | .msiXEnable _ _ => true
  | .msiXUnmask _ => true
  | .xspiRead _ _ _ _ => true
  | .xspiWrite _ _ _ => true
  | .xspiReadConfiguration => true
  | .xspiWriteConfiguration _ => true
  | .xspiReadIdentification => true
  | .xspiReset => true
  | .poisonedTlp _ => true
  | .unsupportedRequest _ => true
  | .pcieFundamentalReset _ => true
  | .perstn _ => true
  | .pcieLinkChange _ _ _ => true
  | .busMasterEnable _ => true
  | .d3hot _ => true
  | .coalescingWindowEnd n => decide (n < 64)
  | .transmitItemFetch ring _ _ _ => decide (ring < 32)
  | .receiveItemDelivery ring _ _ => decide (ring < 32)
  | .ringWaitLimit ring => decide (ring < 32)
  | .moderationTimeLimit ring => decide (ring < 32)
  | .stewardStep => true
  | .flipInstant => true
  | .mailboxForward m => m.wf
  | .mailboxAnswer m => m.wf
  | .forwardRepeat q tag => decide (q < 4) && decide (tag < 256)
  | .remoteTimeout q tag => decide (q < 4) && decide (tag < 256)
  | .atomicPrepare m => m.wf
  | .atomicCommit m => m.wf
  | .atomicAbort m => m.wf
  | .atomicReady m => m.wf
  | .commitDone m => m.wf
  | .commitRepeat member => decide (member < 64)
  | .prepareHoldExpiry => true
  | .hail _ => true
  | .leaveHail _ => true
  | .hailInterval => true
  | .joiningComplete => true
  | .memberUnreachable d => decide (d < 64)
  | .stileWrite _ a _ => decide (a.be < 256)
  | .stileRead _ a _ => decide (a.be < 256)
  | .farCompletion _ _ _ => true
  | .farTimeout _ => true
  | .stileRequest _ => true
  | .stileCompletion _ => true
  | .stileResend peer => decide (peer < 64)
  | .prefetchExpiry g => decide (g < 16)
  | .uartCharacter u _ => decide (u < 16)
  | .gapTimeout u => decide (u < 16)
  | .idleGapEnd u => decide (u < 16)
  | .grainIssue _ => true
  | .takeCell _ => true
  | .canFrameAccepted k _ => decide (k < 16)
  | .canFrameError k _ => decide (k < 16)
  | .protocolException k => decide (k < 16)
  | .integration k => decide (k < 16)
  | .arbitrationLost k => decide (k < 16)
  | .canTransmitError k _ => decide (k < 16)
  | .recoveryDelay k => decide (k < 16)
  | .busOffRecovery k => decide (k < 16)
  | .canFrameSent k => decide (k < 16)
  | .linFrame k _ => decide (k < 4)
  | .linHeader k id _ => decide (k < 4) && decide (id < 64)
  | .linResponseTimeout k => decide (k < 4)
  | .linBitError k => decide (k < 4)
  | .scheduleSlot k => decide (k < 4)
  | .mvbSlaveFrame k _ => decide (k < 2)
  | .mvbMasterFrame k port => decide (k < 2) && decide (port < 4096)
  | .lineTimeout k _ => decide (k < 2)
  | .freshnessLimit k port => decide (k < 2) && decide (port < 4096)
  | .ethernetFrameReceived p _ => decide (p < 10)
  | .pauseFrame p _ => decide (p < 10)
  | .pauseTimerExpiry p tc => decide (p < 10) && decide (tc < 8)
  | .pauseWatchdog p tc => decide (p < 10) && decide (tc < 8)
  | .recoveryPeriodEnd p tc => decide (p < 10) && decide (tc < 8)
  | .pauseRepeat p => decide (p < 10)
  | .verifyMpacket p => decide (p < 10)
  | .respondMpacket p => decide (p < 10)
  | .verifyTime p => decide (p < 10)
  | .linkUp p _ => decide (p < 10)
  | .linkLoss p => decide (p < 10)
  | .linkDownHoldOff p => decide (p < 10)
  | .sync p _ => decide (p < 10)
  | .pdelayResult p _ => decide (p < 10)
  | .announce p _ => decide (p < 10)
  | .syncInterval p => decide (p < 10)
  | .pdelayInterval p => decide (p < 10)
  | .announceInterval => true
  | .syncReceiptTimeout => true
  | .ppsInMissing => true
  | .holdoverBudget => true
  | .suspectTimeout p => decide (p < 10)
  | .ppsIn _ => true
  | .ppsOut => true
  | .timeAlarm n => decide (n < 8)
  | .timeCapture pin _ _ => decide (pin < 40)
  | .harrowDecision _ _ => true
  | .teamQuietExpiry team row => decide (team < 128) && decide (row < 512)
  | .drillAccept cls => decide (cls < 4)
  | .copyRelease row _ => decide (row < 528)
  | .portFrameSelect p _ => decide (p < 10)
  | .copySent _ => true
  | .egressAgeLimit row => decide (row < 528)
  | .sheafAge dest cls => decide (dest < 64) && decide (cls < 4)
  | .sheafReleaseBoundary dest cls => decide (dest < 64) && decide (cls < 4)
  | .gateChange p => decide (p < 10)
  | .setAndHoldMac p => decide (p < 10)
  | .configurationChangeTime p => decide (p < 10)
  | .fabricCodeFault _ => true
  | .fabricStall _ => true
  | .persistentStall _ => true
  | .fabricResetDone _ => true
  | .paceWindow _ _ _ => true
  | .audit => true
  | .patrol _ => true
  | .drainEnd b => decide (b < 136)
  | .drainLimit b => decide (b < 136)
  | .keyWaitLimit slot => decide (slot < 160)
  | .nonceExpiry => true
  | .startSequence straps => decide (straps < 16)
  | .stewardRestartDone => true
  | .stewardWatchdog => true
  | .lockstepMiscompare => true
  | .resetn _ straps => decide (straps < 16)
  | .vstbyPowerOn => true
  | .vstbyLoss => true
  | .supplyFault _ => true
  | .buckVinLow => true
  | .buckVinRestored => true
  | .phaseCurrentLimit => true
  | .thermalWarn _ => true
  | .wakePin n _ => decide (n < 2)
  | .canWakeUpPattern => true
  | .canSelectiveWake ch _ => decide (ch < 4)
  | .ethernetWakePattern _ => true
  | .wakeTimer => true
  | .falseWakeTimeout => true
  | .backoffEnd _ => true
  | .automaticFallowEntry => true
  | .tKa net => decide (net < 17)
  | .tSleep net => decide (net < 17)
  | .tPrep net => decide (net < 17)
  | .pointOfNoReturn net => decide (net < 17)
  | .tMinSleep net => decide (net < 17)
  | .keepAlive net _ => decide (net < 17)
  | .sleepConfirmation net _ => decide (net < 17)
  | .wakeMessage net _ => decide (net < 17)
  | .token net _ => decide (net < 17)
  | .sleepIndication net _ => decide (net < 17)
  | .alive net _ => decide (net < 17)
  | .veto net _ => decide (net < 17)
  | .prepareSleepAnnouncement net _ => decide (net < 17)
  | .tokenHold net => decide (net < 17)
  | .tokenTimeout net => decide (net < 17)
  | .pdelayReq p => decide (p < 10)
  | .announceReceiptTimeout p _ => decide (p < 10)
  | .needEnds net => decide (net < 17)
  | .waking5Ms net => decide (net < 17)
  | .confirmationNotSent net => decide (net < 17)
  | .xspiUnknownCommand x => decide (x.cmd < 256)

end Sys2Proof
end

