-- ==== Sys2Proof/Safety.lean ====
section
/-! DEFINITION. What counts as a safe run, and the vocabulary of the statements: the invariant of the block, a command that Eulyn
takes and finds in order, and the report of its answer. -/

namespace Sys2Proof.Machine

/-- Every waiting command has operands in the ranges of its row. -/
def QueueWf (s : State) : Prop := ∀ c ∈ s.pending, Instr.wf c = true

/-- The outcome is a next state. -/
def Goes (o : Host.Outcome State Fault Refusal) : Prop := ∃ t, o = .next t

/-! ### The invariant -/

/-- INTn is asserted exactly while an event is pending, enabled and routed (R317). -/
def IntnFollows (e : Events) : Prop := e.intn = ((e.pending &&& e.enable &&& e.route) != 0)

/-- The staging buffer, the mailbox slots and the MSI-X table are in canonical form. -/
def Canonical (s : State) : Prop :=
  Memory.wf s.staging = true ∧ Memory.wf s.hold.slots = true ∧ Memory.wf s.ev.msixTable = true

/-- What every step keeps. -/
def Inv (s : State) : Prop := IntnFollows s.ev ∧ Canonical s

/-- What a law about a function claims of the state it leaves: the commands that wait and, when `inv` is set, the invariant. -/
structure Claim where
  queue : List Instr
  inv : Bool := true

/-- A state is as claimed. -/
def Ok (q : Claim) (s : State) : Prop := s.pending = q.queue ∧ (q.inv = true → Inv s)

/-! ### Mailbox commands -/

/-- The rows of the table that stand for one mailbox command, with what the command's opcode does. -/
def mailboxCmd (i : Instr) : Option (Cmd × Call) :=
  match i with
  | .plotDescribe c => some (cmdPlotDescribe, c)
  | .plotGroupCreate c => some (cmdPlotGroupCreate, c)
  | .plotGroupDelete c => some (cmdPlotGroupDelete, c)
  | .plotAttach c => some (cmdPlotAttach, c)
  | .plotDetach c => some (cmdPlotDetach, c)
  | .fieldJoin c => some (cmdFieldJoin, c)
  | .fieldLeave c => some (cmdFieldLeave, c)
  | .deviceInfo c => some (cmdDeviceInfo, c)
  | .rowBind c => some (cmdRowBind, c)
  | .rowEnable c => some (cmdRowEnable, c)
  | .rowDisable c => some (cmdRowDisable, c)
  | .rowStats c => some (cmdRowStats, c)
  | .rowFramingSet c => some (cmdRowFramingSet, c)
  | .routeAdd c => some (cmdRouteAdd, c)
  | .routeRemove c => some (cmdRouteRemove, c)
  | .routeQuery c => some (cmdRouteQuery, c)
  | .routeQueryClear c => some (cmdRouteQueryClear, c)
  | .routeQueryList c => some (cmdRouteQueryList, c)
  | .lsetWrite c => some (cmdLsetWrite, c)
  | .lsetRead c => some (cmdLsetRead, c)
  | .teamSet c => some (cmdTeamSet, c)
  | .teamState c => some (cmdTeamState, c)
  | .sieveSet c => some (cmdSieveSet, c)
  | .sieveClear c => some (cmdSieveClear, c)
  | .rewriteSet c => some (cmdRewriteSet, c)
  | .portConfig c => some (cmdPortConfig, c)
  | .portState c => some (cmdPortState, c)
  | .portFilterSet c => some (cmdPortFilterSet, c)
  | .portFilterClear c => some (cmdPortFilterClear, c)
  | .portPauseSet c => some (cmdPortPauseSet, c)
  | .portPreemptSet c => some (cmdPortPreemptSet, c)
  | .portStatsSnap c => some (cmdPortStatsSnap, c)
  | .furrowListWrite c => some (cmdFurrowListWrite, c)
  | .furrowSwitch c => some (cmdFurrowSwitch, c)
  | .furrowListRemove c => some (cmdFurrowListRemove, c)
  | .shaperSet c => some (cmdShaperSet, c)
  | .sheafSet c => some (cmdSheafSet, c)
  | .classMapSet c => some (cmdClassMapSet, c)
  | .poolAndGuardSet c => some (cmdPoolAndGuardSet, c)
  | .timeConfig c => some (cmdTimeConfig, c)
  | .timeConfigPort c => some (cmdTimeConfigPort, c)
  | .timeSet c => some (cmdTimeSet, c)
  | .timeSetAtPps c => some (cmdTimeSetAtPps, c)
  | .timeAdjustStep c => some (cmdTimeAdjustStep, c)
  | .timeAdjustServoInput c => some (cmdTimeAdjustServoInput, c)
  | .timeAdjustFrequency c => some (cmdTimeAdjustFrequency, c)
  | .servoSet c => some (cmdServoSet, c)
  | .asymSet c => some (cmdAsymSet, c)
  | .timeState c => some (cmdTimeState, c)
  | .alarmSet c => some (cmdAlarmSet, c)
  | .scheduleEntrySet c => some (cmdScheduleEntrySet, c)
  | .ruleWrite c => some (cmdRuleWrite, c)
  | .ruleRead c => some (cmdRuleRead, c)
  | .ruleClear c => some (cmdRuleClear, c)
  | .policerSet c => some (cmdPolicerSet, c)
  | .zoneSet c => some (cmdZoneSet, c)
  | .keyInstall c => some (cmdKeyInstall, c)
  | .keyActivate c => some (cmdKeyActivate, c)
  | .keyErase c => some (cmdKeyErase, c)
  | .saConfig c => some (cmdSaConfig, c)
  | .keyState c => some (cmdKeyState, c)
  | .zeroizeAll c => some (cmdZeroizeAll, c)
  | .tallyBind c => some (cmdTallyBind, c)
  | .tallyRelease c => some (cmdTallyRelease, c)
  | .tallyState c => some (cmdTallyState, c)
  | .granaryQuotaSet c => some (cmdGranaryQuotaSet, c)
  | .granaryState c => some (cmdGranaryState, c)
  | .bankRetire c => some (cmdBankRetire, c)
  | .bankTest c => some (cmdBankTest, c)
  | .powerPolicySet c => some (cmdPowerPolicySet, c)
  | .fallowPolicySet c => some (cmdFallowPolicySet, c)
  | .fallowEnter c => some (cmdFallowEnter, c)
  | .wakeSourcesSet c => some (cmdWakeSourcesSet, c)
  | .nmConfig c => some (cmdNmConfig, c)
  | .nmRequest c => some (cmdNmRequest, c)
  | .wakeCause c => some (cmdWakeCause, c)
  | .paceState c => some (cmdPaceState, c)
  | .fieldPinAssign c => some (cmdFieldPinAssign, c)
  | .canConfig c => some (cmdCanConfig, c)
  | .canRecover c => some (cmdCanRecover, c)
  | .uartConfig c => some (cmdUartConfig, c)
  | .linConfig c => some (cmdLinConfig, c)
  | .mvbConfig c => some (cmdMvbConfig, c)
  | .fieldBusState c => some (busStateCmd c, c)
  | .ringCreate c => some (cmdRingCreate, c)
  | .ringDestroy c => some (cmdRingDestroy, c)
  | .ringModeration c => some (cmdRingModeration, c)
  | .selfTest c => some (cmdSelfTest, c)
  | .loopbackSet c => some (cmdLoopbackSet, c)
  | .eventLogRead c => some (cmdEventLogRead, c)
  | .echo c => some (cmdEcho, c)
  | .retillBegin c => some (cmdRetillBegin, c)
  | .retillCommit c => some (cmdRetillCommit, c)
  | .retillAbort c => some (cmdRetillAbort, c)
  | .ledgerState c => some (cmdLedgerState, c)
  | .fwStage c => some (cmdFwStage, c)
  | .fwActivate c => some (cmdFwActivate, c)
  | .opCancel c => some (cmdOpCancel, c)
  | .opProgress c => some (cmdOpProgress, c)
  | .sysResetFabric c => some (cmdSysResetFabric, c)
  | .sysResetSteward c => some (cmdSysResetSteward, c)
  | .sysResetFull c => some (cmdSysResetFull, c)
  | .gateChallengeRequest c => some (cmdGateChallengeRequest, c)
  | .gateChallengeRespond c => some (cmdGateChallengeRespond, c)
  | _ => none

/-- The state in which a command acts: its generation is kept under its tag (R352); MQ3 keeps none. -/
def taken (c : Call) (s : State) : State :=
  if c.queue = 3 then s else { s with stw.tags := tset c.tag c.gen s.stw.tags }

/-- Eulyn may take the command, its tag, flags, path bits, bulk area and parameters are in order, its path leads to a plot of this
device, and the device has what the command is for and settings that allow it; it acts at once, in a state that meets the invariant
(R2, R325, R344, R346, R351, R352, R376). -/
def Heard (k : Cmd) (c : Call) (p : Plot) (s : State) : Prop :=
  takeable c.queue s = true ∧ tagCheck c s = .ok ∧ s.hold.bootPhase ≠ 5 ∧ c.atomic = false ∧ c.staged = false ∧
  c.pathReserved = false ∧ areaCheck c (taken c s) = .ok ∧ target c (taken c s) = .at_ p [] ∧
  k.check c (taken c s) = .ok ∧ k.lacks (taken c s) = false ∧ k.own c (taken c s) = .ok ∧ Inv s

/-- The same for a read request: both flags set, which asks for the settings in force (R380). -/
def HeardRead (k : Cmd) (c : Call) (p : Plot) (s : State) : Prop :=
  takeable c.queue s = true ∧ tagCheck c s = .ok ∧ s.hold.bootPhase ≠ 5 ∧ c.atomic = true ∧ c.staged = true ∧
  c.bulkResult = true ∧ k.read.isSome = true ∧
  c.pathReserved = false ∧ areaCheck c (taken c s) = .ok ∧ target c (taken c s) = .at_ p [] ∧ k.lacks (taken c s) = false ∧ Inv s

/-- A direct change of a bank item is counted while a re-till is open (R362). -/
def directNoted (s : State) : State :=
  if s.stw.retill.isSome then { s with stw.directChanges := s.stw.directChanges + 1 } else s

/-- The bulk result of the answer `f` stands in the command's area in the staging buffer, and no other byte of the buffer changed (R347). -/
def BulkWritten (c : Call) (f : Final) (u t : State) : Prop :=
  (∀ a, ¬ (c.bulkResult = true ∧ c.host = false ∧ 8 * c.at_ ≤ a ∧ a < 8 * c.at_ + bulkLen c f) → mget a t.staging = mget a u.staging) ∧
  (c.bulkResult = true ∧ c.queue ≠ 3 ∧ c.host = false → mread (8 * c.at_) (bulkLen c f) t.staging = f.bulk.take (areaLen c))

/-- `t` is `u` with the answer `f` of a command reported, and nothing else changed: the bulk result in its area, the response in
the next slot of the command's queue, RSP_TAIL moved on, and event 0 or 1 pending (R345, R347, R348, R351, R343). A command that
asks for no response gets its bulk result and no response when it ends with ST_OK. -/
def Reports (opcode : Nat) (c : Call) (f : Final) (u t : State) : Prop :=
  BulkWritten c f u t ∧
  if c.noResponse = true ∧ f.status = .ok then t = { u with staging := t.staging, wire := t.wire }
  else
    t = { u with ev := t.ev, wire := t.wire, staging := t.staging
                 hold := { u.hold with slots := t.hold.slots, queues := t.hold.queues, pme := t.hold.pme } } ∧
    mread (responseAddr c.queue u) 64 t.hold.slots = responseImage opcode c f ∧
    (∀ a, a < responseAddr c.queue u ∨ responseAddr c.queue u + 64 ≤ a → mget a t.hold.slots = mget a u.hold.slots) ∧
    queueOf c.queue t = { queueOf c.queue u with rspTail := ((queueOf c.queue u).rspTail + 1) % 32 } ∧
    (∀ q, q ≠ c.queue → queueOf q t = queueOf q u) ∧
    (c.queue ≠ 3 → t.ev.pending.getLsbD (if c.queue = 1 then 1 else 0) = true)

/-- The answer of a command that acted on one plot: whole items of its list only (R378). -/
def answerOf (k : Cmd) (c : Call) (x : Work) : Final :=
  let whole := if k.item = 0 then x.bulk else x.bulk.take (areaLen c / k.item * k.item)
  { status := x.status, inline := x.inline, bulk := whole, opno := x.opno, cut := decide (whole.length < x.bulk.length) }

/-- The command `i` answers a next state: that of its effect, `u`, with the answer `f` reported under its opcode. -/
def Answers (i : Instr) (opcode : Nat) (c : Call) (f : Final) (s u : State) : Prop :=
  ∃ t, exec i s = .next t ∧ Reports opcode c f u t

/-- The command `i` answers a next state in which it is an operation in flight: from its effect so far, `u`, one free value is used
for the progress of its first step, the operation joins the others, and an interim response with ST_IN_PROGRESS is written when one
is asked for and a slot is free beyond those owed (R350, R351, R357, R359). -/
def Starts (i : Instr) (opcode : Nat) (c : Call) (b : OpBody) (n : Nat) (s u : State) : Prop :=
  ∃ t o, exec i s = .next t ∧ o.opcode = opcode ∧ o.call = c ∧ o.body = b ∧ o.opno = n ∧ o.steps = 1 ∧ o.cancel = false ∧
    o.progress < 65536 ∧
    t = { u with free := u.free + 1, ev := t.ev, wire := t.wire
                 hold := { u.hold with slots := t.hold.slots, queues := t.hold.queues, pme := t.hold.pme }
                 stw := { u.stw with ops := u.stw.ops ++ [o] } } ∧
    (if c.noResponse = false ∧ inFlight c.queue t < freeSlots c.queue u then
      mread (responseAddr c.queue u) 64 t.hold.slots =
        responseImage opcode c { status := .inProgress, interim := true, progress := o.progress, opno := n }
     else t.hold.slots = u.hold.slots ∧ t.hold.queues = u.hold.queues)

/-- The turn of the Steward is that of the operation `o` in flight, which has something to do: the fabric takes what the Steward writes,
no lane waits, no command or operation of MQ1 does (R17, R34, R358). -/
def HasTurn (o : Op) (s : State) : Prop :=
  stewardRuns s = true ∧ s.harrow.stalled.contains .steward = false ∧ s.harrow.laneWait = [] ∧ queueReady 1 s = false ∧ (levelOps true s).find? (runnable s) = none ∧
  5 ≤ s.stw.turn ∧ (levelOps false s)[s.stw.turn - 5]? = some o ∧ runnable s o = true

/-- `t` is `u` with the operation `o` done and its answer `f` kept: what is left of it is to close its record and answer (R367). -/
def Done (o : Op) (f : Final) (u t : State) : Prop :=
  t = { u with stw := { u.stw with
    ops := u.stw.ops.map (fun x => if x = o then { o with body := .closing f } else x), turn := t.stw.turn } }

/-- `t` is `u` with the operation `o` of a local queue ended with the answer `f`: it is no longer in flight, its response is the next of
its queue, and event 5 is pending (R345, R350, R351, R357). -/
def Ends (o : Op) (f : Final) (u t : State) : Prop :=
  t = { u with ev := t.ev, wire := t.wire, staging := t.staging
               hold := { u.hold with slots := t.hold.slots, queues := t.hold.queues, pme := t.hold.pme }
               stw := { u.stw with ops := u.stw.ops.filter (· != o), turn := t.stw.turn } } ∧
  t.ev.pending.getLsbD 5 = true ∧
  (o.call.noResponse = false →
    ∃ n, mread (responseAddr o.call.queue u) 64 t.hold.slots = responseImage o.opcode o.call { f with opno := o.opno, progress := n })

/-! ### Events, control Sheafs, agreement messages -/

/-- The newest entry of the event log: event, detail code and object (R453, R572, R573). -/
def Logged (n detail obj : Nat) (t : State) : Prop :=
  t.ev.log.getLast?.map (fun e => (e.event, e.detail, e.object)) = some (n, detail, obj)

/-- `t` is `u` with a control Sheaf to a device sent: when this device is a Member with a roster entry for it and a port towards it, the
message is queued on that port in the Steer series, due at once, and the series is counted (R212, R214, R218). -/
def Sends (dest type : Nat) (body : Bytes) (u t : State) : Prop :=
  t = { u with drill := { u.drill with ports := t.drill.ports }, field := { u.field with txSeq := t.field.txSeq } } ∧
  (u.field.join ≠ 2 → t = u) ∧
  ∀ m p, u.field.join = 2 → tget dest u.field.roster = some m → sheafPort dest u.bank u = some p →
    nextSeq dest 1 t = (nextSeq dest 1 u + 1) % 4294967296 ∧
    ∃ c, tgetD p [] t.drill.ports = insertBy portBefore c (tgetD p [] u.drill.ports) ∧ c.due = true ∧ c.grain.cls = 1 ∧
      c.out.drop 34 = controlMessage type body

/-- The body of an atomic message (R372). -/
def atomicBody (m : AtomicMsg) (s : State) : Bytes :=
  [byte m.kind, byte (ownDev s), byte m.tokDev, byte m.tokQueue, byte m.tokTag, byte m.tokGen, 0, 0] ++ be 8 m.tc ++
    [byte m.status, 0, 0, 0]

/-- `t` is `u` with an agreement message of a network sent: a Steer copy due at once on the network's CAN controller, or a Steward
sentence on the backbone (R550). -/
def SaysNm (net kind dest : Nat) (consent : Bool) (runStart : Nat) (u t : State) : Prop :=
  t = { u with wire := .nm net kind dest consent runStart :: u.wire, ploughs := t.ploughs
               drill := { u.drill with rows := t.drill.rows }, harrow := { u.harrow with rows := t.harrow.rows } } ∧
  (net ≠ 16 → ∀ r, (rowsOf u.bank 0 net).find? (fun r => u.bank.enabled.contains r) = some r →
    ∃ c, tgetD r [] t.drill.rows = insertBy rowBefore c (tgetD r [] u.drill.rows) ∧ c.due = true ∧ c.grain.cls = 1 ∧
      c.out.drop 16 = nmBytes (netOf net u) kind dest consent runStart) ∧
  (net = 16 → ∀ r, agreementRow u = some r →
    ∃ x, (ploughOf .steward t).done = (ploughOf .steward u).done ++ [x] ∧ x.row = r ∧
      x.bytes = nmBytes (netOf net u) kind dest consent runStart)

end Sys2Proof.Machine
end

