-- ==== Sys2Proof/Certificates/Slice0/Obligations.lean ====
section
/-! DEFINITION. The statements for the provers. A mailbox command that is heard in order acts on `taken c s`: the state with its
generation kept under its tag. -/

open Sys2Proof Sys2Proof.Machine

/-! ### The queue -/

/-- A step takes the command at the front of the queue and runs it with the rest of the queue in place. -/
def Obligations.StepRunsFrontCommand : Prop :=
  ∀ (c : Instr) (rest : List Instr) (s : State), step { s with pending := c :: rest } = exec c { s with pending := rest }

/-- Every command of the table answers a next state and leaves the waiting commands as they are: the model stops on none. -/
def Obligations.EveryCommandCompletesAndKeepsTheQueue : Prop :=
  ∀ (i : Instr) (s : State), ∃ t, exec i s = .next t ∧ t.pending = s.pending

/-- With nothing waiting one cycle of the Almanac clock passes (R154; the model's choice of log 16): in a state whose clock runs the
working clock grows by the increment, and only it, the uptime, the standby domain's counter and the driven pins change (R246). -/
def Obligations.IdleStepIsOneClockCycle : Prop :=
  ∀ s : State, s.pending = [] → s.alm.ns < 1000000000 → s.alm.frac < 4294967296 → s.alm.sec < 281474976710656 →
    ∃ t, step s = .next t ∧
      t = { s with alm := { s.alm with sec := t.alm.sec, ns := t.alm.ns, frac := t.alm.frac }
                   power := { s.power with upNs := t.power.upNs, coarse := t.power.coarse }
                   buses := { s.buses with pins := { s.buses.pins with outputs := t.buses.pins.outputs } } } ∧
      (∀ k, k < 40 → t.buses.pins.outputs.getLsbD k = pinLevel (tick s) k) ∧
      (clockRuns s = true → t.power.upNs = s.power.upNs + 4 ∧ t.alm.ns < 1000000000 ∧ t.alm.frac < 4294967296 ∧
        (t.alm.sec * 1000000000 + t.alm.ns) * 4294967296 + t.alm.frac =
          ((s.alm.sec * 1000000000 + s.alm.ns) * 4294967296 + s.alm.frac + s.alm.inc) %
            (281474976710656 * 1000000000 * 4294967296)) ∧
      (clockRuns s = false → t.alm = s.alm ∧ t.power.upNs = s.power.upNs)

/-! ### Invariants -/

/-- R317, R344, R348: from every state whose waiting commands are well formed, in which INTn follows the pending, enabled and routed
events and the memories are in canonical form, a step leads to such a state. -/
def Obligations.StepKeepsInvariant : Prop :=
  ∀ s t : State, QueueWf s → Inv s → step s = .next t → QueueWf t ∧ Inv t

/-- The state after reset meets the invariant. -/
def Obligations.ResetMeetsInvariant : Prop := QueueWf State.reset ∧ Inv State.reset

/-- R155, R169, R238, R313, R322 to R325, R361, R367, R428: what a power-on reset leaves, in the values the manual gives. -/
def Obligations.ResetValues : Prop :=
  State.reset.ev.pending = 0 ∧ State.reset.ev.enable = 0x4080000000000040#64 ∧ State.reset.ev.route = 0 ∧
  State.reset.ev.intn = false ∧ State.reset.hold.resetKind = 0 ∧ State.reset.hold.fallowLeft = 0 ∧ State.reset.hold.firstWake = 7 ∧
  State.reset.hold.wakeSeen = 0b1000000#7 ∧ State.reset.hold.bootPhase = 0 ∧ (∀ q, queueOf q State.reset = {}) ∧
  State.reset.alm.inc = 17179869184 ∧ State.reset.alm.state = .free ∧ State.reset.stw.up = false ∧
  State.reset.stw.ledger = [] ∧ State.reset.stw.nextOpno = 1 ∧ (∀ n, n < 160 → (slotOf n State.reset).state = .empty) ∧
  (∀ p, p < 136 → bankState p State.reset = (if p < 128 then 0 else 1)) ∧ State.reset.bank = {} ∧ State.reset.rings = [] ∧
  State.reset.stile.sems = [] ∧ (∀ a, mget a State.reset.staging = 0)

/-! ### The mailbox -/

/-- A command of a queue that Eulyn may not take from waits: nothing changes (R32, R351, R355). R376: an unknown opcode is answered with
ST_BAD_OPCODE. Read requests carry their opcode, so the row shows it. -/
def Obligations.CommandsThatWaitOrAreUnknown : Prop :=
  (∀ (i : Instr) (k : Cmd) (c : Call) (s : State), mailboxCmd i = some (k, c) → takeable c.queue s = false → exec i s = .next s) ∧
  (∀ (opcode : Nat) (c : Call) (s : State), cmdOf opcode { c with atomic := true, staged := true } = none →
     takeable c.queue s = true → tagCheck c s = .ok → Canonical s →
     Answers (.readRequest opcode c) opcode { c with atomic := true, staged := true } { status := .badOpcode } s (taken c s))

/-- R352: a tag above 47, a tag in flight, or the generation recorded for the tag: the command is not executed, and is answered with
ST_BAD_PARAM, ST_BUSY or ST_STALE; its generation is not recorded. R345, R376: flags an opcode does not take, a reserved path bit, or a
bulk area out of order: the command is answered with ST_BAD_PARAM, or ST_NOT_PERMITTED when it is staged with no re-till open, and its
generation alone is recorded. R2, R54, R376: a path that leads nowhere, or common parameters out of range, or an opcode the device has no
use for: the command acts on no plot and returns the failing status. -/
def Obligations.CommandsAreCheckedInOrder : Prop :=
  (∀ (i : Instr) (k : Cmd) (c : Call) (s : State), mailboxCmd i = some (k, c) → takeable c.queue s = true → c.queue ≠ 3 → Canonical s →
     (47 < c.tag → Answers i k.opcode c { status := .badParam } s s) ∧
     (c.tag ≤ 47 → tagBusy c.tag s = true → Answers i k.opcode c { status := .busy } s s) ∧
     (c.tag ≤ 47 → tagBusy c.tag s = false → tget c.tag s.stw.tags = some c.gen → Answers i k.opcode c { status := .stale } s s)) ∧
  (∀ (i : Instr) (k : Cmd) (c : Call) (s : State), mailboxCmd i = some (k, c) → takeable c.queue s = true → tagCheck c s = .ok →
     s.hold.bootPhase ≠ 5 → Canonical s →
     (c.atomic = true → c.staged = true → (k.read.isNone = true ∨ c.bulkResult = false) →
       Answers i k.opcode c { status := .badParam } s (taken c s)) ∧
     (c.atomic ≠ c.staged → k.bank = false → Answers i k.opcode c { status := .badParam } s (taken c s)) ∧
     (c.atomic = false → c.staged = true → k.bank = true → s.stw.retill = none →
       Answers i k.opcode c { status := .notPermitted } s (taken c s)) ∧
     (c.atomic = false → c.staged = false → c.pathReserved = true → Answers i k.opcode c { status := .badParam } s (taken c s)) ∧
     (c.atomic = false → c.staged = false → c.pathReserved = false → areaCheck c (taken c s) ≠ .ok →
       Answers i k.opcode c { status := .badParam } s (taken c s))) ∧
  (∀ (i : Instr) (k : Cmd) (c : Call) (s : State), mailboxCmd i = some (k, c) → takeable c.queue s = true → tagCheck c s = .ok →
     s.hold.bootPhase ≠ 5 → c.atomic = false → c.staged = false → c.pathReserved = false → areaCheck c (taken c s) = .ok → Canonical s →
     (∀ st, target c (taken c s) = .bad st → Answers i k.opcode c { status := st } s (taken c s)) ∧
     (∀ p rest st, target c (taken c s) = .at_ p rest → firstCheck k c p (taken c s) = st → st ≠ .ok →
       Answers i k.opcode c { status := st } s (taken c s)) ∧
     (∀ p st, target c (taken c s) = .sub p → firstCheck k c p (taken c s) = st → st ≠ .ok →
       Answers i k.opcode c { status := st } s (taken c s)))

/-- R345, R361, R362: a staged command on one plot, with a re-till open, changes the sown bank and not the standing bank, and returns what
its change returns; what it does at the flip beside its settings is noted with the sown bank (R365). R380: a read request for one plot, of
any opcode that takes one, returns the settings in force as its bulk result and changes nothing. -/
def Obligations.StagedCommandsAndReadRequests : Prop :=
  (∀ (i : Instr) (k : Cmd) (c : Call) (p : Plot) (s : State), mailboxCmd i = some (k, c) → k.bank = true → k.journaled = false → k.status = false →
     takeable c.queue s = true → tagCheck c s = .ok → s.hold.bootPhase ≠ 5 → c.atomic = false → c.staged = true →
     s.stw.retill.isSome = true → c.pathReserved = false → areaCheck c (taken c s) = .ok → target c (taken c s) = .at_ p [] →
     k.check c (taken c s) = .ok → k.lacks (taken c s) = false → k.own c (taken c s) = .ok → applies k.scope p = true → Canonical s →
     (k.stage c (plotArg p) (taken c s) s.sown).1 = .ok →
     Answers i k.opcode c { inline := k.staged c (plotArg p) (taken c s) s.sown (k.stage c (plotArg p) (taken c s) s.sown).2 } s
       { taken c s with free := s.free + 1
                        sown := { (k.stage c (plotArg p) (taken c s) s.sown).2 with
                          acts := (k.stage c (plotArg p) (taken c s) s.sown).2.acts ++ k.marks c (taken c s) } }) ∧
  (∀ (opcode : Nat) (k : Cmd) (c : Call) (p : Plot) (s : State) (f : Call → Nat → State → Option Bytes) (d : Bytes),
     cmdOf opcode { c with atomic := true, staged := true } = some k → k.read = some f →
     HeardRead k { c with atomic := true, staged := true } p s → applies k.scope p = true →
     f { c with atomic := true, staged := true } (plotArg p) (taken c s) = some d → k.item = 0 → k.journaled = false →
     Answers (.readRequest opcode c) k.opcode { c with atomic := true, staged := true } { bulk := d } s (taken c s))

/-- R454: ECHO returns its 48 inline parameter bytes, whatever they hold, as its inline result and its bulk parameters as its bulk result. -/
def Obligations.EchoReturnsItsParameters : Prop :=
  ∀ (c : Call) (s : State), Heard cmdEcho c .device s → c.params.length = 48 →
    Answers (.echo c) 0x0E04 c { inline := c.params, bulk := c.bulk } s (taken c s)

/-! ### Plots and rows -/

/-- R381, R43 to R46, R60: PLOT_DESCRIBE of a row of this device answers with the row's reference, no members, the groups that hold it,
its state code and the kind of its endpoint; of a group that was created anew since, it answers ST_STALE. The command changes nothing.
R41, R44, R46, R382 to R384: the group commands on the device plot or a group (`plotArg p` is 0, or the group's number plus one). Creating
puts an empty group of the next generation at the position; deleting empties a group without members and every position that held it;
attaching fills the position with the reference; detaching empties it. A change is kept in flash with the tree. -/
def Obligations.PlotTreeCommands : Prop :=
  (∀ (c : Call) (r : Nat) (s : State), Heard cmdPlotDescribe c .device s → r = u32 c.params 0 → isLocal r (taken c s) = true →
     (refKind r = 0 → refGen r = 0 → refNum r < 512 →
       Answers (.plotDescribe c) 0x0101 c
         { inline := le 4 (mkRef 0 0 (ownDev s) (refNum r)) ++ le 2 0 ++ le 2 (holders (.row (refNum r)) s) ++
             le 1 (rowState (refNum r) s) ++ le 1 (u8 (bindOf (refNum r) s) 0) ++ le 2 0 } s (taken c s)) ∧
     (refKind r = 1 → refNum r < 1024 → (groupOf (refNum r) s).used = true → (groupOf (refNum r) s).gen ≠ refGen r →
       Answers (.plotDescribe c) 0x0101 c { status := .stale } s (taken c s))) ∧
  (∀ (c : Call) (p : Plot) (s : State), p = .device ∨ (∃ g, p = .group g) →
     (∀ n pos, Heard cmdPlotGroupCreate c p s →
       (if u16 c.params 0 = 0xFFFF then firstBelow 1024 (fun g => !(groupOf g s).used) else some (u16 c.params 0)) = some n →
       (if flag c.params 3 0 then freePosition (plotArg p) s else some (u8 c.params 2)) = some pos →
       (plotArg p = 0 → 16 ≤ pos) → (groupOf n s).used = false → posTaken (plotArg p) pos s = false →
       ∃ u, u = putMember (plotArg p) pos (mkRef 1 (((groupOf n s).gen + 1) % 16) 255 n)
             (setPlots { s.plots with groups := tset n { used := true, gen := ((groupOf n s).gen + 1) % 16, members := [] }
                                        s.plots.groups } (taken c s)) ∧
         Answers (.plotGroupCreate c) 0x0102 c { inline := le 4 (mkRef 1 (((groupOf n s).gen + 1) % 16) (ownDev s) n) ++ le 1 pos } s u) ∧
     (∀ g, p = .group g → Heard cmdPlotGroupDelete c p s → (groupOf g s).members = [] →
       Answers (.plotGroupDelete c) 0x0103 c {} s
         (setPlots { top := (dropGroup g s).top
                     groups := tset g { groupOf g s with used := false, members := [] } (dropGroup g s).groups } (taken c s))) ∧
     (∀ pos, Heard cmdPlotAttach c p s → attachCheck (plotArg p) (u32 c.params 4) (taken c s) = .ok →
       (if flag c.params 2 0 then freePosition (plotArg p) s else some (u8 c.params 1)) = some pos →
       (plotArg p = 0 → 16 ≤ pos) → posTaken (plotArg p) pos s = false →
       Answers (.plotAttach c) 0x0104 c {} s (putMember (plotArg p) pos (normRef (u32 c.params 4) s) (taken c s))) ∧
     (Heard cmdPlotDetach c p s → posTaken (plotArg p) (u8 c.params 1) s = true →
       Answers (.plotDetach c) 0x0104 c {} s
         (match p with
           | .group g => setPlots { s.plots with groups := tset g { groupOf g s with members := tdel (u8 c.params 1) (groupOf g s).members }
                                                            s.plots.groups } (taken c s)
           | _ => setPlots { s.plots with top := tdel (u8 c.params 1) s.plots.top } (taken c s))))

/-- R70, R385, R386, R387: FIELD_JOIN of a device that is Alone makes it Joining with the settings, in flight until the join ends;
FIELD_LEAVE of a Member with no atomic command across members, no Stile access and no open Sheaf answers ST_OK and leaves it Alone, with
no Field ID, device ID 255, an empty roster and nothing kept for a rejoin; DEVICE_INFO returns the device's own layout and changes
nothing. -/
def Obligations.FieldAndDeviceCommands : Prop :=
  ∀ (c : Call) (p : Plot) (s : State),
    (Heard cmdFieldJoin c p s → s.field.join = 0 →
      Starts (.fieldJoin c) 0x0105 c .fieldJoin 0 s (startJoin (fit 48 c.params) (keepRejoin c (taken c s)))) ∧
    (Heard cmdFieldLeave c p s → s.field.join = 2 → atomicAcross s = false → (∀ o ∈ s.stw.ops, o.body ≠ .fieldJoin) →
      s.drill.sheafs = [] → s.stile.far = [] → s.stile.near = [] → s.stile.held = [] →
      ∃ u, Answers (.fieldLeave c) 0x0106 c {} s u ∧ u.field.join = 0 ∧ u.field.id = 0 ∧ u.field.dev = 255 ∧ u.field.roster = [] ∧
        u.field.rejoin = false ∧ u.fixed.fieldImg = none ∧ u.plots = s.plots ∧ u.bank = s.bank) ∧
    (Heard cmdDeviceInfo c .device s → Answers (.deviceInfo c) 0x0107 c { inline := deviceBytes s } s (taken c s))

/-- R35, R38, R75, R388, R391: binding a Disabled row stores its binding, kind 0 unbinds it; a framing is stored for a UART talker row
that is Disabled. The change is of the standing bank. R39, R248, R389: enabling a Disabled row puts it among the Enabled rows, and starts
a CAN controller none of whose rows was Enabled: Error active with both error counters zero where it was not stopped in bus-off. Disabling
an Enabled row takes it out. A row that is so already is left as it is. R390: ROW_STATS of one row returns its state, its last instants,
the copies queued and the highest count, with its 32 counters as the bulk result; unless parameter bit 0 is set it clears the counters and
brings the highest count to the present one. -/
def Obligations.RowCommands : Prop :=
  (∀ (c : Call) (r : Nat) (s u : State), u = taken c s → s.bank.enabled.contains r = false →
     (Heard cmdRowBind c (.row r) s → u8 c.params 0 = 0 →
       Answers (.rowBind c) 0x0201 c {} s (directNoted { u with bank.bind := tdel r s.bank.bind })) ∧
     (Heard cmdRowBind c (.row r) s → u8 c.params 0 ≠ 0 → s.bank.bind.any (fun e => e.1 != r && sameEndpoint (imageOf c) e.2) = false →
       (1 ≤ u8 c.params 0 ∧ u8 c.params 0 ≤ 4 → assigned s.bank.pins (u8 c.params 0 - 1) (u8 c.params 2) = true) →
       (u8 c.params 0 = 6 → ringReady (imageOf c) u = true) →
       Answers (.rowBind c) 0x0201 c {} s (directNoted { u with bank.bind := tset r (fit 48 c.params) s.bank.bind })) ∧
     (Heard cmdRowFramingSet c (.row r) s → u8 (tgetD r [] s.bank.bind) 0 = 2 → isTalker (tgetD r [] s.bank.bind) = true →
       Answers (.rowFramingSet c) 0x0205 c {} s (directNoted { u with bank.framing := tset r (fit 48 c.params) s.bank.framing }))) ∧
  (∀ (c : Call) (r : Nat) (s : State), bound r s = true →
     (Heard cmdRowEnable c (.row r) s → s.bank.enabled.contains r = true → Answers (.rowEnable c) 0x0202 c {} s (directNoted (taken c s))) ∧
     (Heard cmdRowEnable c (.row r) s → s.bank.enabled.contains r = false →
       ∃ v, Answers (.rowEnable c) 0x0202 c {} s (directNoted v) ∧
         v.bank = { s.bank with enabled := insertNat r s.bank.enabled } ∧
         (∀ k, rowCtl (tgetD r [] s.bank.bind) = some (0, k) → ctlEnabled s.bank 0 k = false → (canRt k s).state = 5 → (canRt k s).stoppedIn = 0 →
           (canRt k v).state = 0 ∧ (canRt k v).tec = 0 ∧ (canRt k v).rxErr = 0)) ∧
     (Heard cmdRowDisable c (.row r) s → s.bank.enabled.contains r = false →
       Answers (.rowDisable c) 0x0203 c {} s (directNoted (taken c s))) ∧
     (Heard cmdRowDisable c (.row r) s → s.bank.enabled.contains r = true →
       ∃ v, Answers (.rowDisable c) 0x0203 c {} s (directNoted v) ∧
         v.bank = { s.bank with enabled := s.bank.enabled.filter (· != r) } ∧ v.drill.rows = tdel r s.drill.rows)) ∧
  (∀ (c : Call) (r : Nat) (s u : State), u = taken c s → Heard cmdRowStats c (.row r) s →
     Answers (.rowStats c) 0x0204 c
       { inline := fit 8 (le 1 (rowState r s)) ++ le 8 (rowRt r s).lastRx ++ le 8 (rowRt r s).lastTx ++ le 4 (queued r s) ++
           le 4 (rowRt r s).high
         bulk := ((List.range 32).map (fun i => le 8 (tgetD i 0 (rowRt r s).counters))).flatten } s
       (if flag c.params 0 0 = true then u
        else { u with harrow.rows := tset r { rowRt r s with counters := [], high := queued r s } s.harrow.rows }))

/-! ### Routes -/

/-- R121 to R123, R392 to R394: ROUTE_ADD whose names exist writes the entry where Eulyn places it and returns the reference and whether
it replaced or went to the stash; ROUTE_REMOVE takes the named entry out with its counters, or answers that there was none; ROUTE_QUERY
returns the entry, its reference and its seven counters, and in mode 1 clears them; mode 2 lists the row's entries. -/
def Obligations.RouteCommands : Prop :=
  ∀ (c : Call) (r : Nat) (s u : State), u = taken c s →
    (∀ q, Heard cmdRouteAdd c (.row r) s → routeNamesOk (routeImage c r) s.bank s = true →
      placeRoute s.bank.routes s.harrow.routes (callWild c) (u8 c.params 45) (routeImage c r) s.free = some q →
      Answers (.routeAdd c) 0x0301 c { inline := le 2 q.ref ++ le 1 (b2n q.replaced + 2 * b2n (8192 ≤ q.ref && q.ref < 8208)) } s
        (directNoted { u with free := s.free + 1, bank.routes := q.table, harrow.routes := q.rt })) ∧
    (∀ ref e, Heard cmdRouteRemove c (.row r) s → namedRoute c r s.bank = some (ref, e) →
      Answers (.routeRemove c) 0x0302 c { inline := [1] } s
        (directNoted { u with bank.routes := tdel ref s.bank.routes, harrow.routes := tdel ref s.harrow.routes })) ∧
    (Heard cmdRouteRemove c (.row r) s → namedRoute c r s.bank = none →
      Answers (.routeRemove c) 0x0302 c { inline := [0] } s (directNoted u)) ∧
    (∀ ref e, Heard cmdRouteQuery c (.row r) s → namedRoute c r s.bank = some (ref, e) →
      Answers (.routeQuery c) 0x0303 c { inline := fit 44 e ++ le 2 ref ++ [1], bulk := routeCounters (routeRt ref s) } s u) ∧
    (∀ ref e, Heard cmdRouteQueryClear c (.row r) s → namedRoute c r s.bank = some (ref, e) →
      Answers (.routeQueryClear c) 0x0303 c { inline := fit 44 e ++ le 2 ref ++ [1], bulk := routeCounters (routeRt ref s) } s
        { u with harrow.routes := tset ref { count := (routeRt ref s).count, last := (routeRt ref s).last } s.harrow.routes }) ∧
    (Heard cmdRouteQueryList c (.row r) s →
      Answers (.routeQueryList c) 0x0303 c
        (answerOf cmdRouteQueryList c
          { bulk := ((rowRoutes (callWild c) r s.bank).map (fun e => le 2 e.1 ++ le 2 0 ++ fit 44 e.2)).flatten, st := u }) s u)

/-- R132, R135, R146, R395, R398, R399: LSET_WRITE puts the 512-bit bitmap in force in the set's other copy, unless a grain between Harrow
and Drill still names that copy; LSET_READ returns the bitmap in force; SIEVE_SET stores a rule, and clearing one that no route names
removes it with its hysteresis state; REWRITE_SET stores a profile. -/
def Obligations.ListenerSetsSievesAndRewrites : Prop :=
  ∀ (c : Call) (s u : State), u = taken c s →
    (Heard cmdLsetWrite c .device s → lsetNamed (callSet c) (!(lsetOf (callSet c) s.bank).copy) s = false →
      ∃ v, Answers (.lsetWrite c) 0x0304 c {} s (directNoted v) ∧
        v = { u with bank.lsets := tset (callSet c)
                        { cur := BitVec.ofNat 512 (ule c.bulk 0 64), other := (lsetOf (callSet c) s.bank).cur
                          copy := !(lsetOf (callSet c) s.bank).copy } s.bank.lsets }) ∧
    (Heard cmdLsetRead c .device s →
      Answers (.lsetRead c) 0x0304 c { bulk := le 64 (lsetOf (callSet c) s.bank).cur.toNat } s u) ∧
    (Heard cmdSieveSet c .device s →
      Answers (.sieveSet c) 0x0307 c {} s (directNoted { u with bank.sieves := tset (u8 c.params 0) (fit 48 c.params) s.bank.sieves })) ∧
    (Heard cmdSieveClear c .device s → sieveNamed (u8 c.params 0) s.bank = false →
      Answers (.sieveClear c) 0x0307 c {} s
        (directNoted { u with bank.sieves := tdel (u8 c.params 0) s.bank.sieves
                              harrow.sieveFlags := tdel (u8 c.params 0) s.harrow.sieveFlags })) ∧
    (Heard cmdRewriteSet c .device s →
      Answers (.rewriteSet c) 0x0308 c {} s
        (directNoted { u with bank.rewrites := tset (u8 c.params 0) (fit 48 c.params) s.bank.rewrites }))

/-- R139, R142, R144, R396, R397: TEAM_SET with talker rows for members stores the Team, which starts Vacant with every member Unheard
when it had none, and otherwise takes the change in at its next decision; with no members and no route naming it the Team goes; TEAM_STATE
returns its layout and changes nothing. -/
def Obligations.TeamCommands : Prop :=
  ∀ (c : Call) (s u : State), u = taken c s →
    (Heard cmdTeamSet c .device s → u8 c.params 1 ≠ 0 →
      (teamMembers c.params).all (fun m => isTalker (tgetD m.1 [] s.bank.bind) && bankBound m.1 s.bank) = true →
      tget (u8 c.params 0) s.harrow.teams = none →
      Answers (.teamSet c) 0x0305 c {} s
        (directNoted { u with bank.teams := tset (u8 c.params 0) (fit 48 c.params) s.bank.teams
                              harrow.teams := tset (u8 c.params 0)
                                                     { img := fit 48 c.params, state := .vacant
                                                       members := (teamMembers (fit 48 c.params)).map (fun m => { row := m.1, rank := m.2.1, health := .unheard }) }
                                s.harrow.teams })) ∧
    (∀ v, Heard cmdTeamSet c .device s → u8 c.params 1 ≠ 0 →
      (teamMembers c.params).all (fun m => isTalker (tgetD m.1 [] s.bank.bind) && bankBound m.1 s.bank) = true →
      tget (u8 c.params 0) s.harrow.teams = some v →
      Answers (.teamSet c) 0x0305 c {} s
        (directNoted { u with bank.teams := tset (u8 c.params 0) (fit 48 c.params) s.bank.teams
                              harrow.teams := tset (u8 c.params 0) { v with pending := some (fit 48 c.params) } s.harrow.teams })) ∧
    (Heard cmdTeamSet c .device s → u8 c.params 1 = 0 → teamNamed (u8 c.params 0) s.bank = false →
      Answers (.teamSet c) 0x0305 c {} s
        (directNoted { u with bank.teams := tdel (u8 c.params 0) s.bank.teams
                              harrow.teams := tdel (u8 c.params 0) s.harrow.teams })) ∧
    (Heard cmdTeamState c .device s →
      Answers (.teamState c) 0x0306 c (answerOf cmdTeamState c { actTeamState c 0 s with st := u }) s u)

/-! ### Ports and time -/

/-- R276 to R280, R400: PORT_CONFIG of a port that stays enabled or disabled stores its settings and, in flash, the same; enabling it
starts link detection with the link down, where the port is not in internal loopback. A new lane mode while a port of the lane is enabled,
or a speed, length or training change on an enabled port, returns ST_BUSY and changes nothing. R401 to R405: PORT_STATE and
PORT_STATS_SNAP return their layouts; PORT_FILTER_SET writes the exact entry, pattern, hash bit or hash bitmap named and its clear removes
it; PORT_PAUSE_SET and PORT_PREEMPT_SET store their settings. -/
def Obligations.PortCommands : Prop :=
  (∀ (c : Call) (p l : Nat) (old : Img) (s u : State), u = taken c s → p = u8 (fit 48 c.params) 0 → l = laneOf p → old = portCfg p s →
     Heard cmdPortConfig c .device s →
     ((newMode (fit 48 c.params) s ≠ laneMode l s ∧ (lanePorts l).any (fun x => portEnabled x s) = true) ∨
       (portEnabled p s = true ∧ (u8 old 2 ≠ u8 (fit 48 c.params) 2 ∨ u16 old 12 ≠ u16 (fit 48 c.params) 12 ∨
         flag old 3 4 ≠ flag (fit 48 c.params) 3 4)) →
       Answers (.portConfig c) 0x0401 c { status := .busy } s u) ∧
     (newMode (fit 48 c.params) s = laneMode l s → portEnabled p s = flag (patch (fit 48 c.params) 1 [0]) 3 0 → u8 (fit 48 c.params) 1 = 0 →
       u8 old 2 = u8 (fit 48 c.params) 2 → u16 old 12 = u16 (fit 48 c.params) 12 → flag old 3 4 = flag (fit 48 c.params) 3 4 →
       Answers (.portConfig c) 0x0401 c {} s
         { u with ports.config := tset p (patch (fit 48 c.params) 1 [0]) s.ports.config
                  fixed := { s.fixed with portCfg := tset p (patch (fit 48 c.params) 1 [0]) s.ports.config, laneCfg := s.ports.lanes } }) ∧
     (newMode (fit 48 c.params) s = laneMode l s → portEnabled p s = false → looped p s = false → flag (patch (fit 48 c.params) 1 [0]) 3 0 = true →
       ∃ v, Answers (.portConfig c) 0x0401 c {} s v ∧ portCfg p v = patch (fit 48 c.params) 1 [0] ∧
         (portRt p v).link = false ∧ (portRt p v).training = true)) ∧
  (∀ (c : Call) (s u : State), u = taken c s →
     (Heard cmdPortState c .device s →
       Answers (.portState c) 0x0402 c { inline := (actPortState c 0 s).inline, bulk := (actPortState c 0 s).bulk } s
         { u with free := s.free + 1 }) ∧
     (Heard cmdPortFilterSet c .device s → u8 c.params 1 = 0 →
       Answers (.portFilterSet c) 0x0403 c {} s
         { u with ports.exact := tset (32 * u8 c.params 0 + u16 c.params 2) (ofBe (sub c.params 8 6)) s.ports.exact }) ∧
     (Heard cmdPortFilterSet c .device s → u8 c.params 1 = 1 →
       Answers (.portFilterSet c) 0x0403 c {} s
         { u with ports.patterns := tset (64 * u8 c.params 0 + u16 c.params 2) (fit 48 c.params) s.ports.patterns }) ∧
     (Heard cmdPortFilterSet c .device s → u8 c.params 1 = 2 →
       Answers (.portFilterSet c) 0x0403 c {} s
         (setHash (u8 c.params 0) (hashOf (u8 c.params 0) s ||| bitAt 512 (u16 c.params 2)) u)) ∧
     (Heard cmdPortFilterSet c .device s → u8 c.params 1 = 3 →
       Answers (.portFilterSet c) 0x0403 c {} s (setHash (u8 c.params 0) (BitVec.ofNat 512 (ule c.bulk 0 64)) u)) ∧
     (Heard cmdPortFilterClear c .device s → u8 c.params 1 = 0 →
       Answers (.portFilterClear c) 0x0403 c {} s
         { u with ports.exact := tdel (32 * u8 c.params 0 + u16 c.params 2) s.ports.exact }) ∧
     (Heard cmdPortFilterClear c .device s → u8 c.params 1 = 1 →
       Answers (.portFilterClear c) 0x0403 c {} s
         { u with ports.patterns := tdel (64 * u8 c.params 0 + u16 c.params 2) s.ports.patterns }) ∧
     (Heard cmdPortFilterClear c .device s → u8 c.params 1 = 2 →
       Answers (.portFilterClear c) 0x0403 c {} s
         (setHash (u8 c.params 0) (hashOf (u8 c.params 0) s &&& ~~~(bitAt 512 (u16 c.params 2))) u)) ∧
     (Heard cmdPortFilterClear c .device s → u8 c.params 1 = 3 →
       Answers (.portFilterClear c) 0x0403 c {} s (setHash (u8 c.params 0) 0 u)))

/-- R294, R304, R403 to R410: pause, preemption, Sheaf, class map and pool settings are stored; PORT_STATS_SNAP returns the ports'
counters and clears them at the same tick; a Furrow list is stored, and a switch or removal takes place at a cycle start of the list at
least 1 ms ahead, which the command returns; SHAPER_SET stores idleSlope and the flag, and the lengths when asked. -/
def Obligations.PortQueueAndListCommands : Prop :=
  ∀ (c : Call) (q : Img) (p : Nat) (s u : State), u = taken c s → q = fit 48 c.params → p = u8 c.params 0 →
    (Heard cmdPortPauseSet c .device s → ∃ v, Answers (.portPauseSet c) 0x0404 c {} s v ∧
      v.ports.pauseCfg = tset (u8 q 0) q s.ports.pauseCfg ∧
      (u8 (pauseCfg (u8 q 0) s) 1 ≠ u8 q 1 → (portRt (u8 q 0) v).pause = [])) ∧
    (Heard cmdPortPreemptSet c .device s → ∃ v, Answers (.portPreemptSet c) 0x0405 c {} s v ∧
      v.ports.preempt = tset (u8 q 0) q s.ports.preempt) ∧
    (Heard cmdPortStatsSnap c .device s →
      Answers (.portStatsSnap c) 0x0406 c
        (answerOf cmdPortStatsSnap c
          { inline := le 8 (stampOf (nowNs s)), bulk := ((snapPorts c s).map (fun x => snapBytes x s)).flatten, st := u }) s
        { u with ports.counters := s.ports.counters.filter (fun e => !(snapPorts c s).contains (e.1 / 48)) }) ∧
    (Heard cmdFurrowListWrite c .device s → (furrowRt (u8 c.bulk 18) s).change = none →
      Answers (.furrowListWrite c) 0x0501 c {} s (directNoted { u with bank.furrows := tset (u8 c.bulk 18) c.bulk s.bank.furrows })) ∧
    (∀ i, Heard cmdFurrowSwitch c .device s → tget p s.bank.furrows = some i → (furrowRt p s).change = none → (furrowRt p s).remove = none →
      Answers (.furrowSwitch c) 0x0502 c { inline := le 8 (changeTime i (nowNs s + 1000000)) } s
        (setFurrow p { furrowRt p s with change := some (changeTime i (nowNs s + 1000000)) } u)) ∧
    (∀ i, Heard cmdFurrowListRemove c .device s → (furrowRt p s).oper = some i → (furrowRt p s).change = none → (furrowRt p s).remove = none →
      Answers (.furrowListRemove c) 0x0502 c { inline := le 8 (changeTime i (nowNs s + 1000000)) } s
        (setFurrow p { furrowRt p s with remove := some (changeTime i (nowNs s + 1000000)) } u)) ∧
    (Heard cmdShaperSet c .device s → ¬ (flag q 2 0 = true ∧ classTc (u8 q 0) 0 s.bank = u8 q 1) → flag q 2 1 = false →
      ∃ v f, Answers (.shaperSet c) 0x0503 c f s (directNoted v) ∧ f.status = .ok ∧
        v.bank = { s.bank with shapers := tset (8 * u8 q 0 + u8 q 1)
                                (fit 48 (sub q 0 2 ++ [byte (b2n (flag q 2 0)), 0] ++ sub q 4 4)) s.bank.shapers }) ∧
    (Heard cmdSheafSet c .device s → Answers (.sheafSet c) 0x0504 c {} s (directNoted { u with bank.sheaf := some q })) ∧
    (Heard cmdClassMapSet c .device s → preemptable (u8 q 1) (u8 q 4) s = false → shaperOf (u8 q 1) (u8 q 4) s.bank = none →
      ∃ v, Answers (.classMapSet c) 0x0505 c {} s (directNoted v) ∧ v.bank = { s.bank with classMaps := tset (u8 q 1) q s.bank.classMaps }) ∧
    (Heard cmdPoolAndGuardSet c .device s → Answers (.poolAndGuardSet c) 0x0505 c {} s (directNoted { u with bank.pool := some q }))

/-- R155, R158, R159, R411 to R417: time configuration is stored; an exchange of the two domains waits for the next Sync of the new
working domain, other domain numbers are in force at once (log 138); TIME_SET sets the clock to the time given, TIME_ADJUST steps it,
gives the servo an offset or sets the frequency when the servo's source is the one for it, SERVO_SET and ASYM_SET store their settings,
TIME_STATE returns its layout and, when asked, takes out the port's transmit stamps that fit its bulk area; alarms and schedule entries
are set and removed. -/
def Obligations.TimeCommands : Prop :=
  ∀ (c : Call) (q : Img) (s u : State), u = taken c s → q = fit 48 c.params →
    (Heard cmdTimeConfig c .device s → u8 q 1 = s.alm.relayed ∧ u8 q 2 = s.alm.working →
      ∃ v, v = { u with timeCfg := some q, alm.exchange := some (u8 q 1, u8 q 2) } ∧ Answers (.timeConfig c) 0x0601 c {} s v ∧
        (s.alm.utcFromAnnounce = false → utcOffset v = u16 q 6)) ∧
    (Heard cmdTimeConfig c .device s → ¬ (u8 q 1 = s.alm.relayed ∧ u8 q 2 = s.alm.working) →
      ∃ v, Answers (.timeConfig c) 0x0601 c {} s v ∧ v.timeCfg = some q ∧ v.alm.working = u8 q 1 ∧ v.alm.relayed = u8 q 2 ∧
        v.alm.exchange = none ∧ (s.alm.utcFromAnnounce = false → utcOffset v = u16 q 6)) ∧
    (Heard cmdTimeConfigPort c .device s →
      Answers (.timeConfigPort c) 0x0601 c {} s { u with timePorts := tset (u8 q 1) q s.timePorts }) ∧
    (Heard cmdTimeSet c .device s →
      ∃ v, Answers (.timeSet c) 0x0602 c { inline := sleB 8 ((nowNs v : Int) - nowNs s) ++ le 8 (stampOf (nowNs v)) } s v ∧
        v.alm.sec = ule c.params 0 6 ∧ v.alm.ns = u32 c.params 8 ∧ v.alm.frac = 0) ∧
    (Heard cmdTimeSetAtPps c .device s →
      Starts (.timeSetAtPps c) 0x0602 c (.timeSetPps (ule c.params 0 6) (u32 c.params 8) (s.power.upNs + 1500000000)) 0 s u) ∧
    (Heard cmdTimeAdjustStep c .device s → ∃ v, v = stepBy (sle c.params 8 8) u ∧
      Answers (.timeAdjustStep c) 0x0603 c { inline := sleB 4 (roundRat v.alm.a) } s v) ∧
    (Heard cmdTimeAdjustServoInput c .device s → servoSource s = 2 →
      ∃ v, v = takeOffset (sle c.params 8 8) ((u32 c.params 16 : Rat) / 1000000) u ∧
        Answers (.timeAdjustServoInput c) 0x0603 c { inline := sleB 4 (roundRat v.alm.a) } s v) ∧
    (Heard cmdTimeAdjustFrequency c .device s → servoSource s = 3 →
      ∃ v, Answers (.timeAdjustFrequency c) 0x0603 c {} s v ∧ v = setFrequency (sle c.params 20 4) u) ∧
    (Heard cmdServoSet c .device s → ∃ v, Answers (.servoSet c) 0x0604 c {} s v ∧ v.servo = some (patch q 3 [0]) ∧
      (flag q 3 0 = true → v.alm.i = sle q 24 4)) ∧
    (Heard cmdAsymSet c .device s → flag q 1 1 = false →
      ∃ v, Answers (.asymSet c) 0x0605 c {} s v ∧ (flag q 1 0 = true → sub (asymCfg (u8 q 0) v) 4 4 = sub q 4 4) ∧
        (∀ p, p ≠ u8 q 0 → asymCfg p v = asymCfg p s)) ∧
    (Heard cmdTimeState c .device s → flag c.params 0 0 = false →
      Answers (.timeState c) 0x0606 c { inline := timeInline s } s u) ∧
    (Heard cmdTimeState c .device s → flag c.params 0 0 = true →
      Answers (.timeState c) 0x0606 c
        (answerOf cmdTimeState c { inline := timeInline s, bulk := (((tgetD (u8 c.params 1) [] s.alm.txStamps).take (areaLen c / 16)).map stampBytes).flatten, st := u }) s
        { u with alm.txStamps := if (tgetD (u8 c.params 1) [] s.alm.txStamps).length ≤ areaLen c / 16 then tdel (u8 c.params 1) s.alm.txStamps
                                 else tset (u8 c.params 1) ((tgetD (u8 c.params 1) [] s.alm.txStamps).drop (areaLen c / 16)) s.alm.txStamps }) ∧
    (Heard cmdAlarmSet c .device s → flag q 2 7 = true →
      Answers (.alarmSet c) 0x0607 c {} s { u with alm.alarms := tdel (u8 q 1) s.alm.alarms }) ∧
    (Heard cmdAlarmSet c .device s → flag q 2 7 = false → flag q 2 2 = false → flag q 2 3 = false → nowNs s < u64 q 8 →
      ∃ v, Answers (.alarmSet c) 0x0607 c {} s { u with alm.alarms := tset (u8 q 1) v s.alm.alarms } ∧
        v.img = q ∧ v.next = some (u64 q 8) ∧ v.late = false) ∧
    (Heard cmdScheduleEntrySet c .device s → flag q 2 0 = false →
      Answers (.scheduleEntrySet c) 0x0607 c {} s { u with alm.schedule := tset (u8 q 1) q s.alm.schedule }) ∧
    (Heard cmdScheduleEntrySet c .device s → flag q 2 0 = true → entryNamed (u8 q 1) s.bank = false →
      Answers (.scheduleEntrySet c) 0x0607 c {} s { u with alm.schedule := tdel (u8 q 1) s.alm.schedule })

/-! ### Security -/

/-- R418 to R420, R422, R423, R500, R501: RULE_WRITE stores a rule whose policer is on and whose mirror ring exists, with its counters at
zero; RULE_READ returns a rule with its counters; POLICER_SET stores a policer, full when it was off, and returns its two counts and
clears them; ZONE_SET moves the named endpoints into the zone and sets whether grains may pass inside it. -/
def Obligations.HedgerowCommands : Prop :=
  ∀ (c : Call) (z n : Nat) (s u : State), u = taken c s → z = u8 c.params 0 → n = ruleIndex c →
    (Heard cmdRuleWrite c .device s → (rulePolices (fit 88 c.bulk) = true → policerOn (u8 (fit 88 c.bulk) 85) s.bank = true) →
      (ruleMirrors (fit 88 c.bulk) = true → (tget (u8 (fit 88 c.bulk) 86) s.rings).isSome = true) →
      Answers (.ruleWrite c) 0x0701 c {} s
        (directNoted { u with bank.rules := tset n (fit 48 c.params ++ fit 88 c.bulk) s.bank.rules
                              harrow.rules := tdel n s.harrow.rules })) ∧
    (Heard cmdRuleRead c .device s →
      Answers (.ruleRead c) 0x0701 c
        (answerOf cmdRuleRead c
          { inline := le 8 (ruleRt n s).hits ++ le 8 (ruleRt n s).last, bulk := fit 88 ((ruleOf n s.bank).getD []), st := u }) s u) ∧
    (Heard cmdPolicerSet c .device s → flag (policerCfg z s.bank) 1 0 = false → flag c.params 1 2 = false →
      Answers (.policerSet c) 0x0703 c { inline := le 8 (policerRt z s).conform ++ le 8 (policerRt z s).exceed } s
        (directNoted { u with bank.policers := tset z (patch (fit 48 c.params) 1 [byte (u8 c.params 1 % 4)]) s.bank.policers
                              harrow.policers := tset z { policerRt z s with level := (u32 c.params 8 : Nat), at_ := s.power.upNs
                                                                             conform := 0, exceed := 0 } s.harrow.policers })) ∧
    (Heard cmdZoneSet c .device s →
      ∃ b, Answers (.zoneSet c) 0x0704 c { inline := fit 2 [] ++ zoneBytes z b } s (directNoted { u with bank := b }) ∧
        b = { s.bank with zones := (zoneMembers c.params).foldl (fun t e => tset e z t) s.bank.zones
                          within := if flag c.params 9 0 then s.bank.within ||| bitAt 8 z else s.bank.within &&& ~~~(bitAt 8 z) })

/-- R421: RULE_CLEAR of no rule or of a range beyond rule 2047 returns ST_BAD_PARAM and changes nothing; otherwise the rules of the range
are gone with their hit counts, every other rule stays, and the result is the number of those that had been written. -/
def Obligations.RuleClearClearsARange : Prop :=
  ∀ (c : Call) (p : Plot) (rest : List Nat) (f n : Nat) (s : State), f = u16 c.params 0 → n = u16 c.params 2 →
    (takeable c.queue s = true → tagCheck c s = .ok → s.hold.bootPhase ≠ 5 → c.atomic = false → c.staged = false →
      c.pathReserved = false → areaCheck c (taken c s) = .ok → target c (taken c s) = .at_ p rest → (∀ x, p ≠ .remote x) → Canonical s → 2048 < f + n ∨ n = 0 →
      Answers (.ruleClear c) 0x0702 c { status := .badParam } s (taken c s)) ∧
    (Heard cmdRuleClear c .device s →
      f + n ≤ 2048 ∧ 1 ≤ n ∧
      ∃ v, Answers (.ruleClear c) 0x0702 c { inline := le 2 ((s.bank.rules.filter (fun e => decide (f ≤ e.1 ∧ e.1 < f + n))).length) } s v ∧
        v = directNoted { taken c s with bank := { s.bank with rules := v.bank.rules }, harrow := { s.harrow with rules := v.harrow.rules } } ∧
        (∀ r, tget r v.bank.rules = if f ≤ r ∧ r < f + n then none else tget r s.bank.rules) ∧
        (∀ r, tget r v.harrow.rules = if f ≤ r ∧ r < f + n then none else tget r s.harrow.rules))

/-- R2: on the QTL-512E KEY_INSTALL, KEY_ACTIVATE, KEY_ERASE, SA_CONFIG and ZEROIZE_ALL return ST_NOT_PERMITTED and change nothing but the
generation kept under their tag, SA_CONFIG as a read request too; KEY_STATE returns ST_OK and reports zero key slots. -/
def Obligations.CipherCommandsOfTheVariantE : Prop :=
  ∀ (i : Instr) (k : Cmd) (c : Call) (s : State), s.fixed.variantE = true → mailboxCmd i = some (k, c) →
    takeable c.queue s = true → tagCheck c s = .ok → s.hold.bootPhase ≠ 5 → c.pathReserved = false → areaCheck c (taken c s) = .ok →
    target c (taken c s) = .at_ .device [] → Canonical s →
    (c.atomic = false → c.staged = false →
      i = .keyInstall c ∨ i = .keyActivate c ∨ i = .keyErase c ∨ i = .saConfig c ∨ i = .zeroizeAll c → Answers i k.opcode c { status := .notPermitted } s (taken c s)) ∧
    (i = .saConfig c → c.atomic = true → c.staged = true → c.bulkResult = true →
      Answers i k.opcode c { status := .notPermitted } s (taken c s)) ∧
    (i = .keyState c → c.atomic = false → c.staged = false → k.check c (taken c s) = .ok →
      ∃ f, Answers i 0x0805 c f s (taken c s) ∧ f.status = .ok ∧ u16 f.inline 4 = 0)

/-- R2, R424 to R428, R504 to R511: on a QTL-512A with its key-encryption key, KEY_INSTALL of a slot that is not in use stores the
unwrapped key and the slot becomes Installed, or answers ST_BAD_PARAM where the wrapping is not intact; SA_CONFIG stores the association
of such a slot and protects its port; KEY_ACTIVATE makes an Installed receive slot Active, has an Installed transmit slot take over at the
next frame of its port, or makes it Next after the slot it names; KEY_ERASE and ZEROIZE_ALL leave the slots they name empty and raise
event 54; KEY_STATE returns its layout. R463, R515: GATE_CHALLENGE phase 0 from a local queue answers with a nonce (a free value) and the
serial number; a response raises event 53 and uses up the nonce, and a right one starts the opening of the Gate, a wrong one is counted.
The rows KEY_WAIT_LIMIT and NONCE_EXPIRY end a channel's wait and the nonce (R463, R510). -/
def Obligations.KeysAndGate : Prop :=
  (∀ (c : Call) (n : Nat) (q : Img) (s u : State), u = taken c s → n = slotNo c → q = fit 48 c.params → s.fixed.variantE = false →
     (Heard cmdKeyInstall c .device s → s.keys.kek = true → s.keys.otpLocked = false → inUse (slotOf n s) = false →
       (slotOf n s).state ≠ .next →
       match unwrapKey (derivedKey kekText s) (sub q 8 (u8 q 3 + 8)) with
       | none => Answers (.keyInstall c) 0x0801 c { status := .badParam } s u
       | some key => ∃ v, Answers (.keyInstall c) 0x0801 c { inline := le 1 2 } s v ∧
           slotOf n v = { slotOf n s with state := .installed, key, nextPn := saInitial (slotOf n s).sa, used := false, pred := none } ∧
           (∀ m, m ≠ n → slotOf m v = slotOf m s)) ∧
     (Heard cmdKeyActivate c .device s → u8 q 2 = 2 → (slotOf n s).state = .installed → configured (slotOf n s) = true →
       saReceive (slotOf n s).sa = true →
       ∃ v, Answers (.keyActivate c) 0x0802 c {} s v ∧ slotOf n v = { slotOf n s with state := .active } ∧
         (∀ m, m ≠ n → slotOf m v = slotOf m s)) ∧
     (Heard cmdKeyActivate c .device s → u8 q 2 = 0 → (slotOf n s).state = .installed → configured (slotOf n s) = true →
       saReceive (slotOf n s).sa = false →
       Answers (.keyActivate c) 0x0802 c {} s
         { u with keys := { s.keys with switchTo := tset (saPort (slotOf n s).sa) n s.keys.switchTo
                                        waiting := s.keys.waiting.filter (· != saPort (slotOf n s).sa) } }) ∧
     (∀ w, Heard cmdKeyActivate c .device s → u8 q 2 = 1 → w = slotOf (u16 q 4) s → (slotOf n s).state = .installed →
       configured (slotOf n s) = true → saReceive (slotOf n s).sa = false → configured w = true →
       saPort w.sa = saPort (slotOf n s).sa → saSci w.sa = saSci (slotOf n s).sa → saAn w.sa ≠ saAn (slotOf n s).sa →
       ∃ v, Answers (.keyActivate c) 0x0802 c {} s v ∧ slotOf n v = { slotOf n s with state := .next, pred := some (u16 q 4) } ∧
         (∀ m, m ≠ n → slotOf m v = slotOf m s)) ∧
     (Heard cmdKeyErase c .device s → ∃ f v, Answers (.keyErase c) 0x0803 c f s v ∧ f.status = .ok ∧ slotOf n v = {} ∧
       (∀ m, m ≠ n → slotOf m v = slotOf m s) ∧ v.ev.pending.getLsbD 54 = true) ∧
     (Heard cmdSaConfig c .device s → inUse (slotOf n s) = false → (slotOf n s).state ≠ .next → (slotOf n s).used = false →
       saReceive q = false →
       Answers (.saConfig c) 0x0804 c {} s
         { u with keys := { s.keys with slots := tset n { slotOf n s with sa := q ++ fit 16 c.bulk, nextPn := saInitial q, pred := none }
                                                   s.keys.slots
                                        protTx := insertNat (u8 q 2) s.keys.protTx } }) ∧
     (Heard cmdKeyState c .device s → Answers (.keyState c) 0x0805 c { inline := (actKeyState c 0 s).inline } s u) ∧
     (Heard cmdZeroizeAll c .device s → ∃ f v, Answers (.zeroizeAll c) 0x0806 c f s v ∧ f.status = .ok ∧ v.keys.slots = [] ∧
       v.ev.pending.getLsbD 54 = true)) ∧
  (∀ (c : Call) (n : Nat) (s u : State), u = taken c s →
     (Heard cmdGateChallengeRequest c .device s → c.queue ≠ 3 → s.keys.wrong < 3 → s.keys.otpLocked = false →
       Answers (.gateChallengeRequest c) 0x0F0A c { inline := freshNonce s ++ le 8 s.fixed.serial } s
         { u with free := s.free + 1, keys.nonce := some (freshNonce s) }) ∧
     (Heard cmdGateChallengeRespond c .device s → c.queue ≠ 3 → s.keys.otpLocked = false →
       ∃ v, v.keys.nonce = none ∧ v.ev.pending.getLsbD 53 = true ∧
         (if gateRight c s = true then v.keys.wrong = 0 ∧ Starts (.gateChallengeRespond c) 0x0F0A c .gateOpen 0 s v
          else v.keys.wrong = s.keys.wrong + 1 ∧ Answers (.gateChallengeRespond c) 0x0F0A c { status := .notPermitted } s v)) ∧
     exec (.keyWaitLimit n) s =
       .next (if configured (slotOf n s) = true then
         { s with keys.waiting := s.keys.waiting.filter (· != saPort (slotOf n s).sa) } else s) ∧
     exec .nonceExpiry s = .next { s with keys.nonce := none })

/-! ### Tally, Granary and power commands -/

/-- R430, R525: TALLY_BIND of a free unit to a row or route that fits stores the binding; TALLY_RELEASE of a unit not bound changes
nothing, and of a bound one removes the binding; TALLY_STATE returns its layout, and unless bit 0 is set clears the counters. -/
def Obligations.TallyCommands : Prop :=
  ∀ (c : Call) (n : Nat) (s u : State), u = taken c s → n = u8 c.params 0 →
    (Heard cmdTallyBind c .device s → tget n s.bank.tallies = none →
      (if flag c.params 1 0 then tallyRoute c.params s.bank
       else tallyRowOk (flag c.params 1 1) (tgetD (fld c.params 2 0 9) [] s.bank.bind)) = true →
      ∃ v, Answers (.tallyBind c) 0x0901 c {} s (directNoted v) ∧ v.bank = { s.bank with tallies := tset n (fit 48 c.params) s.bank.tallies }) ∧
    (Heard cmdTallyRelease c .device s → tget n s.bank.tallies = none → Answers (.tallyRelease c) 0x0902 c {} s (directNoted u)) ∧
    (∀ i, Heard cmdTallyRelease c .device s → tget n s.bank.tallies = some i → flag i 1 0 = true →
      Answers (.tallyRelease c) 0x0902 c {} s
        (directNoted { u with bank.tallies := tdel n s.bank.tallies
                              harrow.tallies := tset n { tallyRt n s with alive := none } s.harrow.tallies })) ∧
    (Heard cmdTallyState c .device s →
      Answers (.tallyState c) 0x0903 c { inline := (actTallyState c 0 s).inline, bulk := (actTallyState c 0 s).bulk } s
        (if flag c.params 1 0 = true then u
         else { u with harrow.tallies := tset n { alive := (tallyRt n s).alive, aliveShown := (tallyRt n s).aliveShown
                                                  lastMismatch := (tallyRt n s).lastMismatch } s.harrow.tallies }))

/-- R228, R243, R245, R431 to R434: GRANARY_QUOTA_SET stores the quotas; GRANARY_STATE returns its layout and clears the error counts
unless bit 0 is set; BANK_RETIRE of a bank in service with a spare decides its retirement and is in flight until it ends; BANK_TEST opens
its Ledger record and is in flight; at its turn, of a spare or retired bank, it is done with the answer passed or failed (the outcome is a
free value), which its next turn gives. -/
def Obligations.GranaryCommands : Prop :=
  ∀ (c : Call) (b : Nat) (s u : State), u = taken c s → b = u8 c.params 0 →
    (Heard cmdGranaryQuotaSet c .device s →
      Answers (.granaryQuotaSet c) 0x0A01 c {} s { u with gran.quota := some (fit 48 c.params) }) ∧
    (Heard cmdGranaryState c .device s →
      Answers (.granaryState c) 0x0A02 c { inline := (actGranaryState c 0 s).inline, bulk := (actGranaryState c 0 s).bulk } s
        (if flag c.params 0 0 = true then u
         else { u with gran := { s.gran with nCorrected := 0, nUncorrectable := 0, leaked := 0 } })) ∧
    (Heard cmdBankRetire c .device s → bankState b s = 0 → (spareBanks s).isEmpty = false → openCount s.stw.ledger < 16 →
      Starts (.bankRetire c) 0x0A03 c (.bankRetire b) 0 s (fenceBank b u)) ∧
    (Heard cmdBankTest c .device s → openCount s.stw.ledger < 16 →
      Starts (.bankTest c) 0x0A04 c (.journal (refOf .device s)) s.stw.nextOpno s (openRecord 0x0A04 c false u)) ∧
    (∀ o, HasTurn o s → Inv s → o = { opcode := 0x0A04, call := c, body := .journal (refOf .device s), opno := o.opno, interim := o.interim
                                      steps := o.steps, progress := o.progress } →
      c.atomic = false → c.staged = false → o.opno ≠ 0 → [1, 5, 6].contains (bankState b s) = true →
      ∃ f t v, exec .stewardStep s = .next t ∧ Done o f v t ∧ f.status = .ok ∧ (u8 f.inline 0 = 0 ∨ u8 f.inline 0 = 1) ∧
        v = { s with free := v.free, gran := v.gran } ∧ v.gran.cells = s.gran.cells ∧ v.bank = s.bank ∧
        (∀ k, k ≠ b → bankState k v = bankState k s))

/-- R435 to R441: the pace, Fallow and wake settings are stored; FALLOW_ENTER with no Ledger record open and a source that outlives the
state starts an entry; NM_CONFIG of a network keeps the mode and stores the settings, or moves the network to its new mode's state;
NM_REQUEST gives up a need; WAKE_CAUSE and PACE_STATE return their layouts and clear what they are asked to. -/
def Obligations.PowerCommands : Prop :=
  ∀ (c : Call) (q : Img) (s u : State), u = taken c s → q = fit 48 c.params →
    (Heard cmdPowerPolicySet c .device s →
      ∃ v, Answers (.powerPolicySet c) 0x0B01 c { inline := le 4 (paceUp v.power.preq) } s v ∧ v.power.pacePolicy = some q) ∧
    (Heard cmdFallowPolicySet c .device s →
      Answers (.fallowPolicySet c) 0x0B01 c {} s { u with power.fallowPolicy := some q }) ∧
    (Heard cmdFallowEnter c .device s → openCount s.stw.ledger = 0 → entryBusy s = false →
      (survivors (targetState (u8 c.params 0)) s).isEmpty = false → u8 c.params 0 ≠ 1 →
      Starts (.fallowEnter c) 0x0B02 c (.fallow (u8 c.params 0)) 0 s
        { u with power.entering := some (targetState (u8 c.params 0))
                 power.entryStep := if flag c.params 1 0 || netsAsleep s then 2 else 1 }) ∧
    (Heard cmdWakeSourcesSet c .device s →
      Answers (.wakeSourcesSet c) 0x0B03 c {} s
        { u with power.wake := q ++ c.bulk.take (256 * (namedChannels c.params).length) }) ∧
    (Heard cmdNmConfig c .device s → nmMode (netOf (u8 q 0) s) = u8 q 1 →
      Answers (.nmConfig c) 0x0B04 c {} s (setNet (u8 q 0) { netOf (u8 q 0) s with img := q } u)) ∧
    (Heard cmdNmConfig c .device s → nmMode (netOf (u8 q 0) s) = 0 → u8 q 1 = 1 → (netOf (u8 q 0) s).state = 0 →
      ∃ v, Answers (.nmConfig c) 0x0B04 c {} s v ∧ (netOf (u8 q 0) v).img = q ∧
        (netOf (u8 q 0) v).state = (if nmNeeds (netOf (u8 q 0) s) then 1 else 2)) ∧
    (Heard cmdNmRequest c .device s → nmMode (netOf (u8 c.params 0) s) ≠ 0 → u8 c.params 1 = 0 →
      ∃ v, Answers (.nmRequest c) 0x0B05 c { inline := le 1 (netOf (u8 c.params 0) v).state } s v ∧
        (netOf (u8 c.params 0) v).need = false) ∧
    (Heard cmdWakeCause c .device s →
      Answers (.wakeCause c) 0x0B06 c { inline := wakeCauseBytes s } s
        (if flag c.params 0 0 = true then { u with power.seen := 0, power.falseWakes := [] } else u)) ∧
    (Heard cmdPaceState c .device s →
      Answers (.paceState c) 0x0B07 c { inline := paceBytes s } s
        (if flag c.params 0 0 = true then u
         else { u with power.lowPace := none, harrow := { s.harrow with stalls := 0, codeFaults := 0 } }))

/-! ### Field buses -/

/-- R246 to R253, R260, R261, R266, R270, R442 to R446, R482: with the register file not guarded against the firmware by a held semaphore,
FIELD_PIN_ASSIGN stores a legal assignment and drives the outputs; CAN_CONFIG, UART_CONFIG, LIN_CONFIG and MVB_CONFIG store the settings
of a controller with no Enabled row and return the rates in force; the recover bit starts the recovery of a controller held in bus-off,
and otherwise changes no setting; with an Enabled row a change of the CAN rates and mode returns ST_BUSY; a new freshness limit of an MVB
controller clears its stale marks. Each drops what the Stile keeps of the register file (R480). Guarded, CAN_CONFIG returns ST_BUSY and
writes an entry of the error log. R274, R447, R601: FIELD_BUS_STATE returns a controller's layout and its counters, which the read clears
and which re-arms event 22, or keeps when bit 0 is set; for the pins it returns the levels (those of inputs are free values, log 106), and
with bit 1 the capture entries that fit the bulk area, which it takes out. -/
def Obligations.FieldBusCommands : Prop :=
  (∀ (c : Call) (k : Nat) (q : Img) (s u : State), u = taken c s → k = u8 c.params 0 → q = fit 48 c.params →
     (Heard cmdFieldPinAssign c .device s → guarded .firmware 4 0 0 4096 s = false → levelsOnly c = true →
       Answers (.fieldPinAssign c) 0x0C01 c {} s
         (directNoted (dropKept 4 0 0 4096 (drivePins { u with bank.pins := patch (fit 88 s.bank.pins) 40 (sub c.params 40 5) })))) ∧
     (Heard cmdFieldPinAssign c .device s → guarded .firmware 4 0 0 4096 s = false → levelsOnly c = false →
       legalMix (newPins c s.bank.pins) s.power.wake = true → pinsInUse s.bank (newPins c s.bank.pins) = false →
       Answers (.fieldPinAssign c) 0x0C01 c {} s
         (directNoted (dropKept 4 0 0 4096 (drivePins { u with bank.pins := newPins c s.bank.pins })))) ∧
     (Heard cmdCanConfig c .device s → guarded .firmware 0 k 0 4096 s = false → ctlEnabled s.bank 0 k = false →
       Answers (.canConfig c) 0x0C02 c { inline := le 4 (nominalRate c.params) ++ le 4 (dataRate c.params) } s
         (directNoted (dropKept 0 k 0 4096
           (setCan k { canRt k s with forcedManual := false } { u with bank.can := tset k q s.bank.can })))) ∧
     (Heard cmdCanConfig c .device s → guarded .firmware 0 k 0 4096 s = false → ctlEnabled s.bank 0 k = true →
       fit 18 q ≠ fit 18 (canCfg k s.bank) → Answers (.canConfig c) 0x0C02 c { status := .busy } s u) ∧
     (Heard cmdCanConfig c .device s → guarded .firmware 0 k 0 4096 s = true →
       Answers (.canConfig c) 0x0C02 c { status := .busy } s (logError (errEntry .firmware 3 15 0 k 0 48 true false false) u).2) ∧
     (Heard cmdCanRecover c .device s → guarded .firmware 0 k 0 4096 s = false → (canRt k s).state = 4 → ctlEnabled s.bank 0 k = false →
       ∃ v, Answers (.canRecover c) 0x0C02 c { inline := le 4 (nominalRate c.params) ++ le 4 (dataRate c.params) } s
           (directNoted (dropKept 0 k 0 4096 v)) ∧
         v.bank = { s.bank with can := tset k q s.bank.can } ∧ canRt k v = { canRt k s with forcedManual := false, state := 3 }) ∧
     (Heard cmdCanRecover c .device s → guarded .firmware 0 k 0 4096 s = false → (canRt k s).state ≠ 4 →
       Answers (.canRecover c) 0x0C02 c { inline := le 4 (nominalRate (canCfg k s.bank)) ++ le 4 (dataRate (canCfg k s.bank)) } s
         (directNoted (dropKept 0 k 0 4096 u))) ∧
     (Heard cmdUartConfig c .device s → guarded .firmware 1 k 0 4096 s = false → ctlEnabled s.bank 1 k = false →
       Answers (.uartConfig c) 0x0C03 c { inline := le 4 (uartDiv (u32 c.params 4)) ++ le 4 (uartRate100 (u32 c.params 4)) } s
         (directNoted (dropKept 1 k 0 4096 (drivePins { u with bank.uart := tset k q s.bank.uart })))) ∧
     (Heard cmdLinConfig c .device s → guarded .firmware 2 k 0 4096 s = false → ctlEnabled s.bank 2 k = false →
       Answers (.linConfig c) 0x0C04 c {} s
         (directNoted (dropKept 2 k 0 4096 (setLin k { linRt k s with running := none, slot := 0 }
           { u with bank.lin := tset k (linImage c (linCfg k s.bank)) s.bank.lin })))) ∧
     (Heard cmdMvbConfig c .device s → guarded .firmware 3 k 0 4096 s = false → ctlEnabled s.bank 3 k = false → u8 c.params 1 = 0 →
       noRepeat ((callEntries c).map entryPort) = true → (callEntries c).length ≤ 128 →
       ∃ v, v = { u with bank.mvb := tset k (q ++ (callEntries c).flatten) s.bank.mvb } ∧
         Answers (.mvbConfig c) 0x0C05 c {} s (directNoted (dropKept 3 k 0 4096
           (if u16 (mvbCfg k s.bank) 6 = u16 c.params 6 then v else setMvb k { mvbRt k s with stale := [] } v))))) ∧
  (∀ (c : Call) (kind k : Nat) (s u : State), u = taken c s → kind = u8 c.params 0 → k = u8 c.params 1 →
     Heard (busStateCmd c) c .device s →
     (kind < 4 →
       Answers (.fieldBusState c) 0x0C06 c { inline := busInline kind k s, bulk := busCounters kind k s } s
         (if flag c.params 2 0 = true then u else clearCounters kind k u)) ∧
     (kind = 4 → flag c.params 2 1 = false →
       ∃ v, v = drivePins (sampleInputs u) ∧ Answers (.fieldBusState c) 0x0C06 c { inline := le 5 v.buses.pins.inputs.toNat } s v) ∧
     (kind = 4 → flag c.params 2 1 = true →
       ∃ v, v = drivePins (sampleInputs u) ∧ v.buses.pins.captures = s.buses.pins.captures ∧
         Answers (.fieldBusState c) 0x0C06 c
           (answerOf cmdFieldPinState c { inline := le 5 v.buses.pins.inputs.toNat, bulk := (captureBytes s).take (16 * captureRoom c), st := u }) s
           { v with buses.pins.captures := dropCaptures (captureRoom c) s.buses.pins.captures }) ∧
     (kind = 0 → (canRt k (clearCounters kind k u)).counters = [] ∧ (canRt k (clearCounters kind k u)).armed = true) ∧
     (kind = 1 → (uartRt k (clearCounters kind k u)).counters = [] ∧ (uartRt k (clearCounters kind k u)).armed = true) ∧
     (kind = 2 → (linRt k (clearCounters kind k u)).counters = [] ∧ (linRt k (clearCounters kind k u)).armed = true) ∧
     (kind = 3 → (mvbRt k (clearCounters kind k u)).counters = []))

/-- R94, R248 to R252, R255, R601: an error-free CAN frame becomes a record of the controller's talker row with its header and data, and
lowers the receive error counter, or from above 127 to a free value of 119 to 127; an error raises it by 1 or by 8 while it is not above
127 (ISO 11898-1, which no row tells apart: a free value, log 28), is counted under its kind, settles the error state and raises event 22
while it is armed; a protocol exception is counted; 11 recessive bits integrate a started controller. R252 to R254, R256 to R259: a copy
that loses arbitration stays in the buffer, not started, while its row is Enabled, and is discarded otherwise; a transmit error raises TEC
by 8, but not for a missing acknowledge when error passive, and the copy is tried again up to its limit; a row disabled by then loses its
copy; beyond 255 the controller enters bus-off and the copy goes; a frame sent is recorded and lowers TEC, and a controller left without
an Enabled row stops after it (`afterFrame`); automatic recovery runs from the recovery delay to error active with both counters at 0. -/
def Obligations.CanBus : Prop :=
  (∀ (k r : Nat) (f : CanFrame) (e : CanError) (s : State),
     (canOn k s = true → canTakes k f s = true → loopMode 1 k s ≠ 1 →
       ∃ t, exec (.canFrameAccepted k f) s = .next t ∧ (canRt k t).tec = (canRt k s).tec ∧
         (canRt k t).counters = addCtr 0 1 (canRt k s).counters ∧ t.bank = s.bank ∧
         (if (canRt k s).rxErr ≤ 127 then (canRt k t).rxErr = (canRt k s).rxErr - 1
          else 119 ≤ (canRt k t).rxErr ∧ (canRt k t).rxErr ≤ 127) ∧
         (ctlRow 0 k true s = none → t.ploughs = s.ploughs) ∧
         (ctlRow 0 k true s = some r → (f.rtr = false ∨ f.fdf = true ∨ f.xlf = true ∨ flag (bindOf r s) 12 3 = true) →
           s.power.halted = false → spansDisable r f.stamp s = false →
           bufferFill (.can k) s + (canRecord (canNorm f)).length ≤ 4096 →
           ∃ x, (ploughOf (.can k) t).done = (ploughOf (.can k) s).done ++ [x] ∧ x.row = r ∧ x.bytes = canRecord (canNorm f) ∧
             x.stamp = compensated r f.stamp s ∧ x.grain.map (·.key) = some (canKey (canNorm f)))) ∧
     (canOn k s = true →
       ∃ t, exec (.canFrameError k e) s = .next t ∧
         (if 127 < (canRt k s).rxErr then (canRt k t).rxErr = (canRt k s).rxErr
          else (canRt k t).rxErr = (canRt k s).rxErr + 1 ∨ (canRt k t).rxErr = (canRt k s).rxErr + 8) ∧
         (canRt k t).tec = (canRt k s).tec ∧ (canRt k t).counters = addCtr (canErrIndex e) 1 (canRt k s).counters ∧
         (canRt k t).state = canErrorState (canRt k s).tec (canRt k t).rxErr ∧ t.ploughs = s.ploughs ∧
         (canRt k t).armed = false ∧ ((canRt k s).armed = true → t.ev.pending.getLsbD 22 = true)) ∧
     (canOn k s = true → canMode k s.bank ≠ 2 → exec (.protocolException k) s = .next (countCan k 7 s)) ∧
     ((canRt k s).state ≠ 5 → exec (.integration k) s = .next (setCan k { canRt k s with integrated := true } s))) ∧
  (∀ (k r : Nat) (c : Copy) (e : CanError) (s : State),
     (canWireRow k s = some (r, c) → s.bank.enabled.contains r = true →
       exec (.arbitrationLost k) s = .next (afterFrame k (setCan k
         { canRt k s with onBus := false, retry := false, counters := addCtr 8 1 (canRt k s).counters } (putWire r c s)))) ∧
     (canWireRow k s = some (r, c) → s.bank.enabled.contains r = false →
       ∃ t, exec (.arbitrationLost k) s = .next t ∧ tget r t.drill.rowWire = none) ∧
     (canOn k s = true → ctlEnabled s.bank 0 k = true → canWireRow k s = some (r, c) → ¬ (e = .ack ∧ (canRt k s).state = 2) →
       (canRt k s).tec + 8 ≤ 255 →
       s.bank.enabled.contains r = true → (u8 (canCfg k s.bank) 19 = 255 ∨ c.tries < u8 (canCfg k s.bank) 19) →
       ∃ t, exec (.canTransmitError k e) s = .next t ∧ (canRt k t).tec = (canRt k s).tec + 8 ∧ (canRt k t).rxErr = (canRt k s).rxErr ∧
         (canRt k t).state = canErrorState ((canRt k s).tec + 8) (canRt k s).rxErr ∧
         (canRt k t).counters = addCtr (canErrIndex e) 1 (canRt k s).counters ∧
         tget r t.drill.rowWire = some { c with tries := c.tries + 1 } ∧ (canRt k t).retry = true) ∧
     (canOn k s = true → canWireRow k s = some (r, c) → (canRt k s).tec + 8 ≤ 255 → s.bank.enabled.contains r = false →
       ∃ t, exec (.canTransmitError k e) s = .next t ∧ tget r t.drill.rowWire = none) ∧
     (canOn k s = true → ctlEnabled s.bank 0 k = true → canWireRow k s = some (r, c) → ¬ (e = .ack ∧ (canRt k s).state = 2) →
       255 < (canRt k s).tec + 8 →
       ∃ t, exec (.canTransmitError k e) s = .next t ∧ ((canRt k t).state = 3 ∨ (canRt k t).state = 4) ∧ (canRt k t).onBus = false ∧
         tget r t.drill.rowWire = none ∧ t.ev.pending.getLsbD 23 = true ∧ t.bank = s.bank) ∧
     (canOn k s = true → canWireRow k s = some (r, c) → loopMode 1 k s = 0 →
       ∃ u, exec (.canFrameSent k) s = .next (if forwards s then releaseRow r .clean (afterFrame k u) else afterFrame k u) ∧
         u.wire.head? = some (.canSend k (canOut k c s)) ∧ tget r u.drill.rowWire = none ∧ (canRt k u).tec = (canRt k s).tec - 1 ∧
         (canRt k u).onBus = false ∧ (canRt k u).counters = addCtr 1 1 (canRt k s).counters) ∧
     ((canRt k s).state = 4 → flag (canCfg k s.bank) 18 0 = false → (canRt k s).forcedManual = false →
       exec (.recoveryDelay k) s = .next (raise 23 (ctlObj 0 k) (setCan k { canRt k s with state := 3 } s))) ∧
     ((canRt k s).state = 3 →
       exec (.busOffRecovery k) s = .next (raise 23 (ctlObj 0 k)
         (setCan k { canRt k s with tec := 0, rxErr := 0, integrated := true, state := 0 } s))))

/-- R97, R98, R266 to R269: a LIN frame whose checksum holds becomes a record of the talker row, and one whose checksum fails a void
grain; a responder answers a published ID with its buffer, which "once" then empties; the schedule sends the header of its slot and moves
on, and a slot that starts inside a copy's frame waits for its end; errors are counted. R99, R100, R270 to R272: a valid slave frame of a
sink port becomes a record of the talker row, every time or when its data changed, and clears its line's fault; one whose check sequence
fails is counted in the interface only; the master frame of a source port is answered with a fresh buffer, and counted without one; a line
timeout marks the line faulty with event 23; the freshness limit in force makes a buffer stale, and without one none is. -/
def Obligations.LinAndMvbBuses : Prop :=
  (∀ (k r id : Nat) (f : LinFrame) (d : Bytes) (s : State), linOn k s = true →
     ((linRt k s).slotWaiting = 0 → f.parityOk = true → f.checksumOk = true → ctlRow 2 k true s = some r →
       s.power.halted = false → spansDisable r f.stamp s = false → bufferFill (.lin k) s + (linRecord f).length ≤ 4096 →
       ∃ t x, exec (.linFrame k f) s = .next t ∧ (ploughOf (.lin k) t).done = (ploughOf (.lin k) s).done ++ [x] ∧ x.row = r ∧
         x.bytes = linRecord f ∧ x.stamp = compensated r f.stamp s ∧ (linRt k t).busy = false ∧
         (linRt k t).counters = addCtr 0 1 (linRt k s).counters) ∧
     ((linRt k s).slotWaiting = 0 → f.parityOk = true → f.checksumOk = false → ctlRow 2 k true s = some r → s.power.halted = false →
       spansDisable r f.stamp s = false →
       ∃ t x, exec (.linFrame k f) s = .next t ∧ (ploughOf (.lin k) t).done = (ploughOf (.lin k) s).done ++ [x] ∧ x.row = r ∧
         x.bytes = [] ∧ x.grain.map (·.void) = some true ∧ (linRt k t).counters = addCtr 6 1 (addCtr 0 1 (linRt k s).counters)) ∧
     (linResponder k s.bank = true → linPublishes k id s.bank = true → tget id (linRt k s).buffers = some (true, d) →
       ∃ t, exec (.linHeader k id true) s = .next t ∧ t.wire = .linResponse k id (linReply d) :: s.wire ∧
         tget id (linRt k t).buffers = some (!flag (linCfg k s.bank) 1 1, d) ∧
         (linRt k t).counters = addCtr 2 1 (linRt k s).counters) ∧
     ((linRt k s).slotWaiting = 0 → ctlRow 2 k true s = some r →
       ∃ t, exec (.linResponseTimeout k) s = .next t ∧ (rowRt r t).counters = addCtr 7 1 (rowRt r s).counters ∧
         (linRt k t).counters = addCtr 5 1 (linRt k s).counters ∧ (linRt k t).busy = false) ∧
     ((linRt k s).slotWaiting = 0 → ctlWire 2 k s = none →
       ∃ t, exec (.linBitError k) s = .next t ∧ (linRt k t).counters = addCtr 3 1 (linRt k s).counters ∧ (linRt k t).busy = false ∧
         (linRt k t).armed = false ∧ t.drill = s.drill) ∧
     (∀ c, (linRt k s).slotWaiting = 0 → ctlWire 2 k s = some (r, c) →
       ∃ t, exec (.linBitError k) s = .next t ∧ (linRt k t).counters = addCtr 3 1 (linRt k s).counters ∧ (linRt k t).busy = false ∧
         tget r t.drill.rowWire = none) ∧
     (linResponder k s.bank = false → ((ctlWire 2 k s).isSome = true ∨ 0 < (linRt k s).slotWaiting) →
       exec (.scheduleSlot k) s = .next (setLin k { linRt k s with slotWaiting := (linRt k s).slotWaiting + 1 } s)) ∧
     (linResponder k s.bank = false → ctlWire 2 k s = none → (linRt k s).slotWaiting = 0 → (linTable k s).isEmpty = false →
       ∃ t, exec (.scheduleSlot k) s = .next t ∧ t.wire = .linHeader k (u8 (linTable k s) (2 * (linRt k s).slot)) :: s.wire ∧
         (linRt k t).slot = (if (linTable k s).length ≤ 2 * ((linRt k s).slot + 1) then 0 else (linRt k s).slot + 1))) ∧
  (∀ (k r port : Nat) (f : MvbFrame) (e d : Bytes) (n : Nat) (b : Bool) (s : State),
     (mvbOn k s = true → f.valid = true → f.other = none → mvbEntry (mvbCfg k s.bank) f.port = some e → entrySource e = false →
       mvbNew k e f s = true → ctlRow 3 k true s = some r → s.power.halted = false →
       spansDisable r f.stamp s = false → bufferFill (.mvb k) s + (mvbRecord f).length ≤ 4096 →
       ∃ t x, exec (.mvbSlaveFrame k f) s = .next t ∧ (ploughOf (.mvb k) t).done = (ploughOf (.mvb k) s).done ++ [x] ∧ x.row = r ∧
         x.bytes = mvbRecord f ∧ tget f.port (mvbRt k t).lastSink = some f.data ∧
         (if f.lineB then (mvbRt k t).faultB = false else (mvbRt k t).faultA = false)) ∧
     (mvbOn k s = true → f.valid = false →
       exec (.mvbSlaveFrame k f) s = .next (setMvb k { mvbRt k s with badFrames := (mvbRt k s).badFrames + 1 } s)) ∧
     (mvbOn k s = true → mvbEntry (mvbCfg k s.bank) port = some e → entrySource e = true → tget port (mvbRt k s).buffers = some (n, d) →
       (u16 (mvbCfg k s.bank) 6 = 0 ∨
         (mvbRt k s).stale.contains port = false ∧ s.power.upNs ≤ n + 1000000 * u16 (mvbCfg k s.bank) 6) →
       exec (.mvbMasterFrame k port) s = .next { countMvb k 3 s with wire := .mvbAnswer k port d :: s.wire }) ∧
     (mvbOn k s = true → mvbEntry (mvbCfg k s.bank) port = some e → entrySource e = true →
       (tget port (mvbRt k s).buffers = none ∨
         u16 (mvbCfg k s.bank) 6 ≠ 0 ∧ ((mvbRt k s).stale.contains port = true ∨
           tget port (mvbRt k s).buffers = some (n, d) ∧ n + 1000000 * u16 (mvbCfg k s.bank) 6 < s.power.upNs)) →
       exec (.mvbMasterFrame k port) s = .next (countMvb k 4 s)) ∧
     (mvbOn k s = true → (if b then (mvbRt k s).faultB else (mvbRt k s).faultA) = false →
       ∃ t, exec (.lineTimeout k b) s = .next t ∧ (if b then (mvbRt k t).faultB else (mvbRt k t).faultA) = true ∧
         (mvbRt k t).counters = addCtr 6 1 (mvbRt k s).counters ∧ t.ev.pending.getLsbD 23 = true) ∧
     (u16 (mvbCfg k s.bank) 6 ≠ 0 → tget port (mvbRt k s).buffers = some (n, d) →
       exec (.freshnessLimit k port) s = .next (setMvb k { mvbRt k s with stale := insertNat port (mvbRt k s).stale } s)))

/-! ### Ploughs -/

/-- R83, R86 to R92, R113, R262: on an IEC 61162-1 row a starting character in Hunt begins a record with the stamp of its start edge; a
character that the framing takes is stored; one that completes a sentence with a good checksum ends the record with its grain; a character
in error, and a gap longer than the limit, drop the record and count it; in idle-gap framing the gap ends the record. R25, R76 to R80,
R114, R225, R229, R230: while the crossing and the write port have room, the first completed record whose bytes wait for a cell takes one
and is filled into it, goes when its class is refused one, and waits otherwise, or while a Beacon record of another Plough can take one;
the oldest completed record, once all of it is in cells, enters the crossing as its grain, which holds one reference to its first cell; a
Control Sheaf goes to the Steward instead. -/
def Obligations.UartSentencesAndPloughCells : Prop :=
  (∀ (k r : Nat) (ch : UartChar) (x y : Rec) (s : State),
     (s.power.state = .growing → s.power.halted = false → rs485 k s.bank = false → ctlEnabled s.bank 1 k = true → ch.err = none →
       (ploughOf (.uart k) s).cur = none → (ploughOf (.uart k) s).done = [] → ctlRow 1 k true s = some r →
       userFraming (framingOf r s) = false → starter ch.b = true → s.bank.enabled.contains r = true →
       ∃ t z, exec (.uartCharacter k ch) s = .next t ∧ (ploughOf (.uart k) t).cur = some z ∧ z.row = r ∧ z.bytes = [ch.b] ∧
         z.stamp = compensated r ch.edge s ∧ z.iec = (if ch.b = 0x5C then .tag else .address) ∧
         (uartRt k t).counters = addCtr 0 1 (uartRt k s).counters) ∧
     (s.power.state = .growing → s.power.halted = false → rs485 k s.bank = false → ch.err = none →
       (ploughOf (.uart k) s).cur = some x → (ploughOf (.uart k) s).done = [] → userFraming x.framing = false →
       iecStep x ch.b = .go y → y.bytes.length < framingMax x.framing → y.bytes.length < 4096 →
       ∃ t z, exec (.uartCharacter k ch) s = .next t ∧ (ploughOf (.uart k) t).cur = some z ∧ z = { y with written := z.written } ∧
         z.bytes = x.bytes ++ [ch.b]) ∧
     (s.power.state = .growing → s.power.halted = false → rs485 k s.bank = false → ch.err = none →
       (ploughOf (.uart k) s).cur = some x → userFraming x.framing = false → iecStep x ch.b = .done y →
       y.bytes.length ≤ framingMax x.framing → checksumBad y = false → y.tagBad = false → y.csAbsent = false → y.bareLf = false →
       y.disabled = false →
       ∃ t z g, exec (.uartCharacter k ch) s = .next t ∧ (ploughOf (.uart k) t).cur = none ∧
         (ploughOf (.uart k) t).done = (ploughOf (.uart k) s).done ++ [z] ∧ z.bytes = x.bytes ++ [ch.b] ∧ z.row = x.row ∧
         z.grain = some g ∧ g.key = iecKey (talkerMask x.framing) x.addr ∧ g.stamp = x.stamp ∧ g.len = z.bytes.length ∧ g.csBad = false) ∧
     (∀ e, s.power.state = .growing → s.power.halted = false → rs485 k s.bank = false → ch.err = some e →
       (ploughOf (.uart k) s).cur = some x → x.skip = false → userFraming x.framing = false →
       ∃ t, exec (.uartCharacter k ch) s = .next t ∧ (ploughOf (.uart k) t).cur = none ∧
         (ploughOf (.uart k) t).done = (ploughOf (.uart k) s).done ∧
         (rowRt x.row t).counters = addCtr 2 1 (rowRt x.row s).counters ∧
         (uartRt k t).counters = addCtr (errIndex e) 1 (addCtr 0 1 (uartRt k s).counters)) ∧
     ((ploughOf (.uart k) s).cur = some x → u16 x.framing 4 ≠ 0 → x.skip = false →
       ∃ t, exec (.gapTimeout k) s = .next t ∧ (ploughOf (.uart k) t).cur = none ∧
         (ploughOf (.uart k) t).done = (ploughOf (.uart k) s).done ∧ (rowRt x.row t).counters = addCtr 4 1 (rowRt x.row s).counters) ∧
     ((ploughOf (.uart k) s).cur = some x → userFraming x.framing = true → ufEndMode x.framing = 3 → x.skip = false → x.esc = false →
       x.disabled = false →
       ∃ t z g, exec (.idleGapEnd k) s = .next t ∧ (ploughOf (.uart k) t).cur = none ∧
         (ploughOf (.uart k) t).done = (ploughOf (.uart k) s).done ++ [z] ∧ z.bytes = x.bytes ∧ z.grain = some g ∧
         g.key = (ufKey x).1 ∧ g.len = x.bytes.length)) ∧
  (∀ (p : PloughId) (i c : Nat) (r : Rec) (rest : List Rec) (g : Grain) (s s' : State),
     (s.harrow.inReset = true ∨ s.power.halted = true ∨ writeRoom p s = false ∨ 16 ≤ (ploughOf p s).crossing.length →
       exec (.takeCell p) s = .next s) ∧
     (cellRec (ploughOf p s) = some r → r.cls ≠ 0 → beaconCell p s = true → exec (.takeCell p) s = .next s) ∧
     (cellsOpen p s = true → r.cls = 0 ∨ beaconCell p s = false → (ploughOf p s).done.zipIdx.find? (fun e => needsCell e.1) = some (r, i) → takeCell r.cls s = .got c s' →
       ∃ t x, exec (.takeCell p) s = .next t ∧ (ploughOf p t).done = (ploughOf p s).done.set i x ∧ x.cells = r.cells ++ [c] ∧
         x.written = min r.bytes.length (256 * (r.cells.length + 1)) ∧ x.bytes = r.bytes ∧ t.bank = s.bank) ∧
     (cellsOpen p s = true → r.cls = 0 ∨ beaconCell p s = false → (ploughOf p s).done.zipIdx.find? (fun e => needsCell e.1) = some (r, i) → takeCell r.cls s = .refuse →
       ∃ t, exec (.takeCell p) s = .next t ∧ (ploughOf p t).done = (ploughOf p s).done.eraseIdx i ∧
         ((r.grain.map (·.kind) ≠ some 15) → (rowRt r.row t).counters = addCtr 10 1 (rowRt r.row s).counters)) ∧
     (cellsOpen p s = true → r.cls = 0 ∨ beaconCell p s = false → (ploughOf p s).done.zipIdx.find? (fun e => needsCell e.1) = some (r, i) → takeCell r.cls s = .wait →
       ∃ t, exec (.takeCell p) s = .next t ∧ t.ploughs = s.ploughs ∧ t.gran = s.gran) ∧
     (s.harrow.inReset = false → s.power.halted = false →
       (ploughOf p s).done = r :: rest → r.grain = some g → (ploughOf p s).crossing.length < 16 →
       s.harrow.stalled.contains (.plough (ploughKey p)) = false → r.inFifo = false → r.control = false →
       (g.void = true ∨ r.bytes.length ≤ r.written) →
       ∃ t h, exec (.grainIssue p) s = .next t ∧ (ploughOf p t).done = rest ∧ (ploughOf p t).crossing = (ploughOf p s).crossing ++ [h] ∧
         h.key = g.key ∧ h.stamp = g.stamp ∧ h.row = g.row ∧ h.len = g.len ∧ h.cell = (if g.void then 0 else r.cells.headD 0) ∧
         (∀ j l, r.cells = j :: l → (cellOf j t).map (·.copies) = some 1)) ∧
     (s.harrow.inReset = false → s.power.halted = false →
       (ploughOf p s).done = r :: rest → r.grain = some g → (ploughOf p s).crossing.length < 16 →
       s.harrow.stalled.contains (.plough (ploughKey p)) = false → r.inFifo = false → r.control = true →
       (g.void = true ∨ r.bytes.length ≤ r.written) →
       ∃ t, exec (.grainIssue p) s = .next t ∧ (ploughOf p t).done = rest ∧ (ploughOf p t).crossing = (ploughOf p s).crossing ∧
         t.stw.inbox = s.stw.inbox ++ [(r.bytes, r.cells.headD 0)]))

/-- R105, R110, R281, R284, R290, R303: a flawed frame is counted under its kind and, unless flawed frames are delivered, goes; a good
frame that the filters drop is counted; one they pass to the switch becomes a record of the port's Plough, charged to the class of its
priority; MAC control and gPTP frames make no record. -/
def Obligations.EthernetReception : Prop :=
  ∀ (p i : Nat) (f : RxFrame) (s : State), s.power.state = .growing → portUp p s = true → looped p s = false →
    (f.reassemblyErr = true → exec (.ethernetFrameReceived p f) s = .next (countPort p 18 1 s)) ∧
    (f.reassemblyErr = false → f.smdErr = true → exec (.ethernetFrameReceived p f) s = .next (countPort p 19 1 s)) ∧
    (f.reassemblyErr = false → f.smdErr = false → flawCounter p f s = some i → deliverFlawed p s = false →
      ∃ t, exec (.ethernetFrameReceived p f) s = .next t ∧ t = { s with ports := { s.ports with counters := t.ports.counters } } ∧
        tgetD (48 * p + i) 0 t.ports.counters = min (tgetD (48 * p + i) 0 s.ports.counters + 1) 18446744073709551615) ∧
    (f.reassemblyErr = false → f.smdErr = false → flawCounter p f s = none → uncontrolled f.bytes = true →
      ∃ t, exec (.ethernetFrameReceived p f) s = .next t ∧ t = { s with ports := { s.ports with counters := t.ports.counters } }) ∧
    (f.reassemblyErr = false → f.smdErr = false → flawCounter p f s = none → uncontrolled f.bytes = false →
      s.keys.protRx.contains p = false → rxFilter p f.bytes s = .drop →
      ∃ t, exec (.ethernetFrameReceived p f) s = .next t ∧ t = { s with ports := { s.ports with counters := t.ports.counters } } ∧
        tgetD (48 * p + 14) 0 t.ports.counters = min (tgetD (48 * p + 14) 0 s.ports.counters + 1) 18446744073709551615) ∧
    (f.reassemblyErr = false → f.smdErr = false → flawCounter p f s = none → uncontrolled f.bytes = false → f.parityErr = false →
      s.keys.protRx.contains p = false → rxFilter p f.bytes s = .switch → s.power.halted = false →
      bufferFill (.eth p) s + f.bytes.length ≤ 32768 →
      ∃ t x, exec (.ethernetFrameReceived p f) s = .next t ∧ (ploughOf (.eth p) t).done = (ploughOf (.eth p) s).done ++ [x] ∧
        x.bytes = f.bytes ∧ x.cls = rxFrameClass p f.bytes s ∧ x.stamp = rxStamp p f.stamp s ∧ x.grain.map (·.kind) = some 15 ∧
        x.grain.map (·.key) = some (rxFrameKey p f.bytes s) ∧ t.gran = s.gran)

/-! ### Ports -/

/-- R276, R279, R280, R298: a link that comes up at an offered speed makes the port Up with event 16; a loss with no hold-off takes it
Down, one with a hold-off is pending until the hold-off ends; a Verify mPacket is answered, a Respond ends the verify with success, and a
verify time without an answer sends again or, after the last attempt, ends in failure with event 18; a port in internal loopback answers
its own Verify and sends nothing. R292 to R296: a pause frame of the kind the port takes puts each class it names in Paused for its time,
but neither an immune class nor an overridden one; one of the other kind changes no class, nor does any in internal loopback; the timer
returns a class to Running, the watchdog overrides it with event 17 and the recovery period ends that; a pause still needed is sent again,
at once on a free port without a list and at the next boundary otherwise. -/
def Obligations.PortLinkVerifyAndPause : Prop :=
  (∀ (p speed : Nat) (s : State),
     (s.power.state = .growing → portPresent p s = true → portEnabled p s = true → looped p s = false → speed ≠ 0 →
       speedOffered (laneMode (laneOf p) s) speed = true → speedMismatch p speed s = false → (portRt p s).link = false →
       ∃ t, exec (.linkUp p speed) s = .next t ∧ (portRt p t).link = true ∧ (portRt p t).speed = speed ∧ (portRt p t).lossPending = false ∧
         t.ev.pending.getLsbD 16 = true ∧ t.bank = s.bank ∧ ∀ q, q ≠ p → portRt q t = portRt q s) ∧
     (s.power.state = .growing → looped p s = false → (portRt p s).link = true → (portRt p s).lossPending = false → holdOff p s = 0 →
       ∃ t, exec (.linkLoss p) s = .next t ∧ (portRt p t).link = false ∧ (portRt p t).speed = 0 ∧ (portRt p t).pause = [] ∧
         tget p t.drill.portWire = none ∧ t.ev.pending.getLsbD 16 = true) ∧
     (s.power.state = .growing → looped p s = false → (portRt p s).link = true → (portRt p s).lossPending = false → holdOff p s ≠ 0 →
       ∃ t, exec (.linkLoss p) s = .next t ∧ (portRt p t).link = true ∧ (portRt p t).lossPending = true ∧ t.ev.log = s.ev.log) ∧
     ((portRt p s).lossPending = true →
       ∃ t, exec (.linkDownHoldOff p) s = .next t ∧ (portRt p t).link = false ∧ (portRt p t).lossPending = false ∧
         t.ev.pending.getLsbD 16 = true) ∧
     (s.power.state = .growing → portUp p s = true → looped p s = false →
       exec (.verifyMpacket p) s = .next { countPort p 29 1 s with wire := .mpacket p true :: s.wire }) ∧
     ((portRt p s).verify = 2 → looped p s = false → exec (.respondMpacket p) s = .next (setPort p { portRt p s with verify := 0, attempts := 0 } s)) ∧
     ((portRt p s).verify = 2 → portUp p s = true → (portRt p s).attempts = 0 →
       ∃ t, exec (.verifyTime p) s = .next t ∧ (portRt p t).verify = 3 ∧ t.ev.pending.getLsbD 18 = true) ∧
     ((portRt p s).verify = 2 → portUp p s = true → (portRt p s).attempts ≠ 0 → looped p s = true →
       ∃ t, exec (.verifyTime p) s = .next t ∧ (portRt p t).verify = 0 ∧ t.wire = s.wire) ∧
     ((portRt p s).verify = 2 → portUp p s = true → (portRt p s).attempts ≠ 0 → looped p s = false →
       ∃ t, exec (.verifyTime p) s = .next t ∧ (portRt p t).verify = 2 ∧ (portRt p t).attempts = (portRt p s).attempts - 1 ∧
         t.wire = .mpacket p false :: s.wire)) ∧
  (∀ (p c q : Nat) (m : PauseMsg) (s : State),
     (s.power.state = .growing → portUp p s = true → looped p s = false → pauseMode p s = (if m.pfc then 2 else 1) → c < 8 → pauseTime p c m s = some q → q ≠ 0 →
       immune p c s = false → (pauseOf p c s).state ≠ 2 →
       ∃ t, exec (.pauseFrame p m) s = .next t ∧ pauseOf p c t = { state := 1, until_ := s.power.upNs + quantaNs p q s } ∧
         (∀ d, d < 8 → immune p d s = true ∨ pauseTime p d m s = none ∨ (pauseOf p d s).state = 2 → pauseOf p d t = pauseOf p d s)) ∧
     (s.power.state = .growing → looped p s = true → exec (.pauseFrame p m) s = .next s) ∧
     (s.power.state = .growing → portUp p s = true → pauseMode p s ≠ (if m.pfc then 2 else 1) →
       ∃ t, exec (.pauseFrame p m) s = .next t ∧ ∀ d, pauseOf p d t = pauseOf p d s) ∧
     (pauseMode p s ≠ 1 → (pauseOf p c s).state = 1 →
       ∃ t, exec (.pauseTimerExpiry p c) s = .next t ∧ pauseOf p c t = {} ∧ ∀ d, d ≠ c → pauseOf p d t = pauseOf p d s) ∧
     (pauseMode p s ≠ 1 → (pauseOf p c s).state = 1 → u32 (pauseCfg p s) 8 ≠ 0 →
       ∃ t, exec (.pauseWatchdog p c) s = .next t ∧ (pauseOf p c t).state = 2 ∧ t.ev.pending.getLsbD 17 = true ∧
         ∀ d, d ≠ c → pauseOf p d t = pauseOf p d s) ∧
     (pauseMode p s ≠ 1 → (pauseOf p c s).state = 2 →
       ∃ t, exec (.recoveryPeriodEnd p c) s = .next t ∧ pauseOf p c t = {} ∧ ∀ d, d ≠ c → pauseOf p d t = pauseOf p d s) ∧
     (pauseMode p s = 1 → c < 8 → (pauseOf p c s).state = 1 →
       ∃ t, exec (.pauseTimerExpiry p c) s = .next t ∧ ∀ d, d < 8 → (pauseOf p d t).state ≠ 1) ∧
     ((portRt p s).pauseSent ≠ 0 → portUp p s = true → u8 (pauseCfg p s) 2 = 1 → u8 (pauseCfg p s) 6 * 1024 ≤ bufferFill (.eth p) s →
       (tget p s.drill.portWire = none → (furrowRt p s).oper = none → looped p s = false → exec (.pauseRepeat p) s =
         .next { countPort p 25 1 (countPort p 23 1 (countPort p 21 1 (countPort p 20 64 s))) with
                 wire := .pauseFrame p false 255#8 (u16 (pauseCfg p s) 14) :: s.wire }) ∧
       ((tget p s.drill.portWire).isSome = true ∨ (furrowRt p s).oper.isSome = true → exec (.pauseRepeat p) s =
         .next (setPort p { portRt p s with pauseWait := (portRt p s).pauseWait ++ [(false, 255, u16 (pauseCfg p s) 14)] } s))) ∧
     ((portRt p s).pauseSent ≠ 0 → portUp p s = true → u8 (pauseCfg p s) 2 = 2 →
       (portRt p s).pauseSent &&& prioSet p (fun n => decide (u8 (pauseCfg p s) 6 * 1024 ≤ n)) s = q → q ≠ 0 →
       exec (.pauseRepeat p) s = .next (sendPause p true q (u16 (pauseCfg p s) 14) s)))

/-- R200 to R208, R225, R280, R303: at a boundary of a free port the first head that may start goes on the wire; a frame that has left is
recorded, counted and gives up its place; a furrow's start puts its gates in force; hold is asserted and a preemptable frame cut where
preemption is active and both fragments are long enough; at the configuration change time the administrative list becomes operational with
event 21. -/
def Obligations.PortTransmission : Prop :=
  ∀ (p r k : Nat) (c : Copy) (i : Img) (s s1 : State), s1 = countPaused p (sendPauses p (updateCredits p s)) →
    (forwards s = true → portUp p s = true → s.keys.waiting.contains p = false → tget p s.drill.portWire = none →
      tget p s.drill.portHeld = none → nextFrame p s1 = some c → frameLen c ≤ maxLen p c.tc s.bank → s.keys.protTx.contains p = false →
      ∃ t x, exec (.portFrameSelect p .clean) s = .next t ∧ tget p t.drill.portWire = some x ∧ x.grain = c.grain ∧ x.tc = c.tc ∧
        x.slot = c.slot) ∧
    (forwards s = true → portUp p s = true → s.keys.waiting.contains p = true → 
      exec (.portFrameSelect p .clean) s = .next (freeHeld p (sendPauses p (yieldWire p false s)))) ∧
    (forwards s = true → portUp p s = false →
      exec (.portFrameSelect p .clean) s = .next (dropHeads p (if portEnabled p s then s else finishHeld p s))) ∧
    (tget p s.drill.portWire = some c → c.grain.kind = 15 → c.own = false → c.stomp = false → looped p s = false →
      ∃ t, exec (.copySent (.port p)) s = .next t ∧ tget p t.drill.portWire = none ∧
        t.wire.head? = some (.frame p c.out false c.slot.isSome) ∧
        tgetD (48 * p + 21) 0 t.ports.counters = min (tgetD (48 * p + 21) 0 s.ports.counters + 1) 18446744073709551615) ∧
    (tget r s.drill.rowWire = some c → c.ctl = some (1, k) → loopMode 2 k s = 0 →
      ∃ t, exec (.copySent (.row r)) s = .next t ∧ tget r t.drill.rowWire = none ∧ (uartRt k t).sending = false ∧
        (uartRt k t).lastTx = some (nowNs s) ∧ (uartRt k t).counters = addCtr 1 c.out.length (uartRt k s).counters) ∧
    (tget r s.drill.rowWire = some c → c.ctl = some (2, k) → (linRt k s).slotWaiting = 0 →
      ∃ t, exec (.copySent (.row r)) s = .next t ∧ tget r t.drill.rowWire = none ∧ (linRt k t).busy = false ∧
        (linRt k t).counters = addCtr 2 1 (linRt k s).counters) ∧
    ((furrowRt p s).oper = some i → (furrowRt p s).remove = none →
      ∃ t, exec (.gateChange p) s = .next t ∧ (furrowRt p t).gates = gatesAt i (furrowRt p s).change (nowNs s) ∧
        (furrowRt p t).oper = some i) ∧
    (preemptActive p s = true → tget p s.drill.portWire = none →
      exec (.setAndHoldMac p) s = .next (setFurrow p { furrowRt p s with hold := true } s)) ∧
    (preemptActive p s = true → tget p s.drill.portWire = some c → cutReady p c s = false →
      exec (.setAndHoldMac p) s = .next (setFurrow p { furrowRt p s with hold := true } s)) ∧
    (preemptActive p s = true → tget p s.drill.portWire = some c → cutReady p c s = true →
      ∃ t, exec (.setAndHoldMac p) s = .next t ∧ (furrowRt p t).hold = true ∧ tget p t.drill.portWire = none ∧
        tget p t.drill.portHeld =
          some { c with preempted := true, fragSent := min (c.wireLen - 64) (c.fragSent + fragBytes p c s) }) ∧
    ((furrowRt p s).change.isSome = true →
      ∃ t, exec (.configurationChangeTime p) s = .next t ∧ (furrowRt p t).oper = tget p s.bank.furrows ∧ (furrowRt p t).change = none ∧
        (furrowRt p t).remove = none ∧ t.ev.pending.getLsbD 21 = true)

/-! ### Harrow and Drill -/

/-- R117 to R119, R129, R133, R134, R148, R183, R499: with no Hedgerow rule and its zone open to itself, a Tell or Bulk sentence that
finds a route without Sieves, Team and Thinning takes the route's set, class and release time and enters the hand-off of its class,
counted as hit and passed; with the hand-off full it stays where it is; a miss whose action is to drop is counted; a void grain without a
route goes; a frame to a known address goes to its ports but its own; a crossing with no Beacon grain that can go is not decided while one
waits elsewhere. R141, R142, R144: when a member's quiet limit expires the member is Quiet with its run of good sentences at 0; an active
one that was serving gives way to the highest-ranked Healthy member, or to none, as one more failover. -/
def Obligations.HarrowAndTeams : Prop :=
  (∀ (p : PloughId) (g : Grain) (rest : List Grain) (l : List LookupResult) (ref cls : Nat) (e : Img) (s : State),
     (ploughOf p s).crossing = g :: rest → harrowReady p s = true →
     (beaconFirst s [] (g :: rest) = false → beaconWaits s = true → exec (.harrowDecision p l) s = .next s) ∧
     (g.tallyDrop = false → (g.ingress = 0 ∨ beaconWaits s = false) →
     (g.kind ≠ 15 → g.void = false → g.remote = false →
       (l = [] ∨ g.ingress ≠ 0 ∧ l.getD 0 (resultOf (lookup g s.bank)) = resultOf (lookup g s.bank)) → lookup g s.bank = some (ref, e) →
       tget ref s.bank.routes = some e → e.length = 48 → (u8 e 38 / 32 % 2 = 0 ∨ unitWaiting (u8 e 38 % 32) s < 8) →
       cls = reClass e → 2 ≤ cls → reSieves e = 0 → reTeam e = none → reThinMode e = 0 → s.bank.rules = [] →
       ingressZone g s < 8 → s.bank.within.getLsbD (ingressZone g s) = true → releaseOf e g.stamp s ≤ nowNs s + farLimit →
       (handoffRoom cls s = true →
         ∃ t h, exec (.harrowDecision p l) s = .next t ∧ (ploughOf p t).crossing = rest ∧
           handoffOf cls t = handoffOf cls s ++ [h] ∧ (∀ d, d ≠ cls → handoffOf d t = handoffOf d s) ∧
           h.grain = { g with cls, release := releaseField (releaseOf e g.stamp s), lset := reSet e } ∧ h.route = ref ∧ h.due = false ∧
           h.permit = bitAt 8 (ingressZone g s) ∧ h.rewrite = u8 e 37 ∧ h.tally = u8 e 38 ∧
           (routeRt ref t).hits = (routeRt ref s).hits + 1 ∧ (routeRt ref t).passed = (routeRt ref s).passed + 1) ∧
       (handoffRoom cls s = false → ∃ t, exec (.harrowDecision p l) s = .next t ∧ (ploughOf p t).crossing.head? = some g)) ∧
     (g.kind ≠ 15 → g.void = false →
       (l = [] ∨ g.ingress ≠ 0 ∧ l.getD 0 (resultOf (lookup g s.bank)) = resultOf (lookup g s.bank)) → lookup g s.bank = none → tget 0x3FFF s.bank.routes = none →
       u8 (bindOf g.row s) 13 ≠ 1 → u8 (bindOf g.row s) 13 ≠ 2 →
       ∃ t, exec (.harrowDecision p l) s = .next t ∧ (ploughOf p t).crossing = rest ∧ t.harrow.handoff = s.harrow.handoff ∧
         (rowRt g.row t).counters = addCtr 12 1 (rowRt g.row s).counters) ∧
     (g.kind ≠ 15 → g.void = true → lookup g s.bank = none →
       exec (.harrowDecision p l) s = .next (setPlough p { ploughOf p s with crossing := rest } s)) ∧
     (g.kind = 15 → g.reserved = false → g.port < 10 → g.ingress = cls → exactFind s.bank 0 true g.key = some (ref, e) →
       reHostFrame e = false → rePorts e - (rePorts e &&& 2 ^ g.port) ≠ 0 → s.bank.rules = [] → ingressZone g s < 8 →
       s.bank.within.getLsbD (ingressZone g s) = true → handoffRoom cls s = true →
       ∃ t h, exec (.harrowDecision p l) s = .next t ∧ (ploughOf p t).crossing = rest ∧
         handoffOf cls t = handoffOf cls s ++ [h] ∧ h.grain = { g with cls, release := releaseField g.stamp, lset := rePorts e - (rePorts e &&& 2 ^ g.port) } ∧
         h.due = true ∧ h.permit = bitAt 8 (ingressZone g s)))) ∧
  (∀ (k r : Nat) (m : TeamMember) (s : State), (teamOf k s).pending = none →
     (teamOf k s).members.find? (fun x => x.row == r) = some m → m.health ≠ .quiet →
     ∃ t ms, exec (.teamQuietExpiry k r) s = .next t ∧ (teamOf k t).members = ms ∧
       ms = (teamOf k s).members.map (fun x => if x.row = r then { x with health := .quiet, good := 0 } else x) ∧
       ((teamOf k s).state = .serving → (teamOf k s).active = some r →
         (teamOf k t).active = (bestHealthy ms).map (·.row) ∧ (teamOf k t).failovers = (teamOf k s).failovers + 1 ∧
         t.ev.pending.getLsbD 25 = true) ∧
       (¬ ((teamOf k s).state = .serving ∧ (teamOf k s).active = some r) → (teamOf k t).active = (teamOf k s).active) ∧
       (∀ d, d ≠ k → teamOf d t = teamOf d s))

/-- R36, R190, R193 to R197, R214, R217: the Drill takes a grain for one listener row and queues its copy in the row's order, with an
entry of the pool; a free Steward row sends its next due copy, a free CAN controller puts it into its buffer, and a free UART sends it;
the age limit takes out every aged copy; a Sheaf whose age or boundary is reached is closed and queued on its port. -/
def Obligations.DrillQueues : Prop :=
  ∀ (h : HandOff) (rest : List HandOff) (cls r d p : Nat) (b : Bool) (m : Member) (o : OpenSheaf) (c x : Copy) (s : State),
    (handoffOf cls s = h :: rest → s.harrow.inReset = false → s.harrow.stalled.contains (.drill cls) = false → tallyStalled h s = false →
      (cls = 0 ∨ handoffOf 0 s = []) → h.tally / 32 % 2 = 0 → h.grain.kind ≠ 15 → h.missRing = false → namedRows h s = [r] →
      r ≠ h.grain.row → listens r s = true → rowKind r s ≠ 9 → rowKind r s ≠ 5 → h.permit.getLsbD (rowZone r s) = true →
      poolGrant h.grain.cls s = some b →
      ∃ t, exec (.drillAccept cls) s = .next t ∧ handoffOf cls t = rest ∧
        tgetD r [] t.drill.rows = insertBy rowBefore (copyOf h r 15 b 0 s) (tgetD r [] s.drill.rows) ∧
        (∀ q, q ≠ r → tgetD q [] t.drill.rows = tgetD q [] s.drill.rows) ∧
        t.drill.poolRes = (if b then tadd h.grain.cls 1 s.drill.poolRes else s.drill.poolRes) ∧
        t.drill.poolShared = (if b then s.drill.poolShared else tadd h.grain.cls 1 s.drill.poolShared)) ∧
    (forwards s = true → ringOf r s = none → nextCopy r s = some c → tget r s.drill.rowWire = none → rowKind r s = 7 →
      (readCopy c .clean (unqueue r c s)).1 = some x →
      ∃ t, exec (.copyRelease r .clean) s = .next t ∧ t.wire.head? = some (.toEulyn r x.out) ∧ tget r t.drill.rowWire = none ∧
        tgetD r [] t.drill.rows = (tgetD r [] s.drill.rows).erase c) ∧
    (forwards s = true → ringOf r s = none → nextCopy r s = some c → tget r s.drill.rowWire = none → rowKind r s = 1 →
      ctlWire 0 (rowInst r s) s = none → (readCopy c .clean (unqueue r c s)).1 = some x → (canRt (rowInst r s) s).state ≤ 2 →
      fld (canCfg (rowInst r s) s.bank) 1 2 2 = 0 → canSuits (rowInst r s) x.grain x.out s.bank = true →
      ∃ t y, exec (.copyRelease r .clean) s = .next t ∧ tget r t.drill.rowWire = some y ∧ y.grain = x.grain ∧ y.out = x.out ∧
        y.tries = 0 ∧ tgetD r [] t.drill.rows = (tgetD r [] s.drill.rows).erase c) ∧
    (forwards s = true → ringOf r s = none → nextCopy r s = some c → tget r s.drill.rowWire = none → rowKind r s = 2 →
      rs485 (rowInst r s) s.bank = false → wireFree r c.grain.cls s = true → (readCopy c .clean (unqueue r c s)).1 = some x →
      flag (uartCfg (rowInst r s) s.bank) 1 0 = false →
      ∃ t y, exec (.copyRelease r .clean) s = .next t ∧ tget r t.drill.rowWire = some y ∧ y.grain = x.grain ∧ y.out = x.out ∧
        (uartRt (rowInst r s) t).sending = true ∧ tgetD r [] t.drill.rows = (tgetD r [] s.drill.rows).erase c) ∧
    (∃ t, exec (.egressAgeLimit r) s = .next t ∧ tgetD r [] t.drill.rows = (tgetD r [] s.drill.rows).filter (fun y => !aged r s y) ∧
      (∀ q, q ≠ r → tgetD q [] t.drill.rows = tgetD q [] s.drill.rows) ∧ t.bank = s.bank) ∧
    (∃ t, exec (.sheafAge d cls) s = .next t ∧ exec (.sheafReleaseBoundary d cls) s = .next t ∧ tget (4 * d + cls) t.drill.sheafs = none ∧
      t.bank = s.bank) ∧
    (tget (4 * d + cls) s.drill.sheafs = some o → tget d s.field.roster = some m → 
      sheafPort d { s.bank with sheaf := some o.settings } s = some p → portUp p s = true →
      ∃ t y, exec (.sheafAge d cls) s = .next t ∧ exec (.sheafReleaseBoundary d cls) s = .next t ∧
        tget (4 * d + cls) t.drill.sheafs = none ∧ y ∈ tgetD p [] t.drill.ports ∧ y.grains = o.grains ∧ y.rows = o.rows)

/-! ### Time at work -/

/-- R164 to R168: a Sync of the working domain on the slave port completes in every state of the clock, when the source is gPTP: its
offset goes to the servo and the message is relayed. In Locked, within the step threshold and with no suspect and no grandmaster change
open, it moves the integral, the adjustment and the increment as the servo's gains say, both clamped to 200,000 ppb; beyond the threshold
and short of the outlier count it is discarded and counted, and the clock does not move. R158 to R164, R170, R174 to R176: a Sync of the
relayed domain on its slave port is measured; a Sync of the new working domain puts a waiting exchange in force with event 47, and the
roles of the domains change places; peer delays are filtered over four, one beyond the window opens a suspect with event 42, raised again
while it stays open, and four consistent results close it (a result beyond the delay limit changes nothing, the model's choice, log 112);
an Announce puts the selection and a valid UTC offset in force; the intervals send their messages, with their stamps, an Announce once a
port's own interval has passed, with the device's priorities from a grandmaster; losing the source takes Locked to Holdover with events 40
and 46, and an expired budget Holdover to Uncertain. -/
def Obligations.WorkingClock : Prop :=
  (∀ (p : Nat) (m : SyncMsg) (θ T i a : Rat) (s : State),
     s.power.state = .growing → gptpOn p m.domain s = true → s.alm.exchange.map (·.1) ≠ some m.domain → m.domain = s.alm.working →
     s.alm.slavePort = some p → s.alm.grandmaster = false → servoSource s = 0 → θ = syncOffset p m s → T = pow2 (timePort p s) 3 →
     i = clampTo 200000 ((if s.alm.frozen then s.alm.a else s.alm.i) + (u32 (servoCfg s) 8 : Rat) / 65536 * θ / T) →
     a = clampTo 200000 ((u32 (servoCfg s) 4 : Rat) / 65536 * θ / T + i) →
     exec (.sync p m) s = .next (relaySync p false m (takeOffset θ T s)) ∧
     ((gport p s).suspect = false → s.alm.state = .locked → s.alm.gmPending = false →
       (beyondStep θ s = false →
         ∃ t, exec (.sync p m) s = .next t ∧ t.alm.theta = θ ∧ t.alm.i = i ∧ t.alm.a = a ∧ t.alm.inc = increment a ∧ t.alm.outlierRun = 0 ∧
           nowNs t = nowNs s ∧ t.bank = s.bank) ∧
       (beyondStep θ s = true → s.alm.outlierRun + 1 < u8 (servoCfg s) 1 →
         ∃ t, exec (.sync p m) s = .next t ∧ t.alm.theta = θ ∧ t.alm.outliers = s.alm.outliers + 1 ∧
           t.alm.outlierRun = s.alm.outlierRun + 1 ∧ t.alm.inc = s.alm.inc ∧ t.alm.state = .locked ∧ nowNs t = nowNs s))) ∧
  (∀ (p : Nat) (m : SyncMsg) (n : AnnounceMsg) (b : BestMaster) (x y : Int) (w r : Nat) (s : State),
     (s.power.state = .growing → gptpOn p m.domain s = true → s.alm.exchange.map (·.1) ≠ some m.domain → m.domain ≠ s.alm.working →
       m.domain = s.alm.relayed → s.alm.relSlave = some p →
       ∃ t, exec (.sync p m) s = .next t ∧ t.alm = { s.alm with relOffset := roundRat (syncOffset p m s), relRate := m.ratePpb } ∧
         t.ev = s.ev) ∧
     (s.power.state = .growing → gptpOn p m.domain s = true → s.alm.exchange = some (w, r) → m.domain = w →
       s.alm.relSlave ≠ some p →
       ∃ t, exec (.sync p m) s = .next t ∧ t.alm.working = w ∧ t.alm.relayed = r ∧ t.alm.exchange = none ∧ t.alm.gmPending = !s.alm.relGm ∧
         t.alm.grandmaster = s.alm.relGm ∧ t.alm.relGm = s.alm.grandmaster ∧ t.alm.gmId = s.alm.relGmId ∧
         t.alm.slavePort = s.alm.relSlave ∧ t.ev.pending.getLsbD 47 = true) ∧
     (s.power.state = .growing → gptpAny p s = true → x ≤ u32 (timePort p s) 8 → (gport p s).suspect = false →
       (∀ f, (gport p s).filtered = some f → |(x : Rat) - f| ≤ (u16 (asymCfg p s) 8 : Rat)) →
       exec (.pdelayResult p ⟨x, y⟩) s = .next (setGport p { gport p s with
         rate := some y, last := (x :: (gport p s).last).take 4
         delays := (x :: (gport p s).delays).take 4, filtered := some (meanOf ((x :: (gport p s).delays).take 4)) } s)) ∧
     (∀ f, s.power.state = .growing → gptpAny p s = true → x ≤ u32 (timePort p s) 8 → (gport p s).suspect = false →
       (gport p s).filtered = some f → (u16 (asymCfg p s) 8 : Rat) < |(x : Rat) - f| →
       ∃ t, exec (.pdelayResult p ⟨x, y⟩) s = .next t ∧ (gport p t).suspect = true ∧ (gport p t).filtered = some f ∧
         (gport p t).rate = some y ∧ t.ev.pending.getLsbD 42 = true ∧
         (s.alm.slavePort = some p → s.alm.state = .locked → t.alm.state = .uncertain)) ∧
     (s.power.state = .growing → gptpAny p s = true → x ≤ u32 (timePort p s) 8 → (gport p s).suspect = true →
       ((gport p s).since.length < 3 → exec (.pdelayResult p ⟨x, y⟩) s = .next (setGport p { gport p s with
         rate := some y, last := (x :: (gport p s).last).take 4, since := x :: (gport p s).since } s)) ∧
       (3 ≤ (gport p s).since.length → consistent (u8 (asymCfg p s) 10) (x :: (gport p s).since) = true →
         ∃ t, exec (.pdelayResult p ⟨x, y⟩) s = .next t ∧ (gport p t).suspect = false ∧
           (gport p t).filtered = some (meanOf (x :: (gport p s).since))) ∧
       (3 ≤ (gport p s).since.length → consistent (u8 (asymCfg p s) 10) (x :: (gport p s).since) = false →
         exec (.pdelayResult p ⟨x, y⟩) s = .next (setGport p { gport p s with
           rate := some y, last := (x :: (gport p s).last).take 4, since := [] } s))) ∧
     (u32 (timePort p s) 8 < x → exec (.pdelayResult p ⟨x, y⟩) s = .next s) ∧
     ((gport p s).suspect = true → exec (.suspectTimeout p) s = .next (raise 42 p s)) ∧
     (s.power.state = .growing → s.stw.up = true → n.domain = s.alm.working → n.domain ≠ s.alm.relayed → gptpOn p n.domain s = true →
       n.sel.isGm = false → s.alm.grandmaster = false →
       ∃ t, exec (.announce p n) s = .next t ∧ t.alm.gmId = n.sel.gmId ∧ t.alm.slavePort = n.sel.slave ∧
         (∀ q, q < 10 → (gport q t).master = n.sel.masters.contains q) ∧
         (n.utcValid = true → n.sel.slave.isSome = true → t.alm.utc = n.utc ∧ t.alm.utcFromAnnounce = true) ∧
         (n.sel.gmId ≠ s.alm.gmId → t.ev.pending.getLsbD 47 = true)) ∧
     (s.power.state = .growing → s.stw.up = true → n.domain = s.alm.relayed → gptpOn p n.domain s = true →
       ∃ t, exec (.announce p n) s = .next t ∧ t.alm.relSlave = n.sel.slave ∧
         (∀ q, q < 10 → (gport q t).relMaster = n.sel.masters.contains q) ∧ t.alm.slavePort = s.alm.slavePort) ∧
     (s.power.state = .growing → s.stw.up = true → gptpOn p s.alm.working s = true → b.isGm = true → s.alm.grandmaster = false →
       ∃ t, exec (.announceReceiptTimeout p b) s = .next t ∧ t.alm.grandmaster = true ∧ t.alm.slavePort = none ∧
         t.alm.gmId = b.gmId ∧ utcOffset t = configuredUtc s ∧ (servoSource s = 0 → t.alm.state = .locked)) ∧
     (s.power.state = .growing → s.stw.up = true → gptpOn p s.alm.working s = true → b.isGm = false → s.alm.grandmaster = false →
       ∃ t, exec (.announceReceiptTimeout p b) s = .next t ∧ t.alm.grandmaster = false ∧ t.alm.slavePort = b.slave ∧ t.alm.gmId = b.gmId) ∧
     (s.power.state = .growing → s.alm.grandmaster = true → (gport p s).master = true → gptpOn p s.alm.working s = true →
       exec (.syncInterval p) s = .next {
         countPort p 23 1 (countPort p 21 1 (countPort p 20 (gptpLen 1) (countPort p 23 1 (countPort p 21 1 (countPort p 20 (gptpLen 0) s))))) with
         wire := .gptp p 1 s.alm.working (if gptp2011 p s then 0 else 1) (gptpClass p s) { time := some (sfdStamp p s) } ::
           .gptp p 0 s.alm.working (if gptp2011 p s then 0 else 1) (gptpClass p s) { time := some (sfdStamp p s) } :: s.wire }) ∧
     (s.power.state = .growing → gptpAny p s = true →
       exec (.pdelayInterval p) s = .next { countPort p 23 1 (countPort p 21 1 (countPort p 20 (gptpLen 2) s)) with
         wire := .gptp p 2 (pdelayDomain p s) (if gptp2011 p s then 0 else 1) (gptpClass p s) { time := some (sfdStamp p s) } :: s.wire }) ∧
     (s.power.state = .growing → gptpAny p s = true →
       exec (.pdelayReq p) s = .next {
         countPort p 23 1 (countPort p 21 1 (countPort p 20 (gptpLen 5) (countPort p 23 1 (countPort p 21 1 (countPort p 20 (gptpLen 3) s))))) with
         wire := .gptp p 5 (pdelayDomain p s) (if gptp2011 p s then 0 else 1) (gptpClass p s) { time := some (sfdStamp p s) } ::
           .gptp p 3 (pdelayDomain p s) (if gptp2011 p s then 0 else 1) (gptpClass p s) { time := some (sfdStamp p s) } :: s.wire }) ∧
     (s.power.state = .growing → s.stw.up = true → p < 10 → (gport p s).master = true → gptpOn p s.alm.working s = true →
       announceDue p s = true →
       ∃ t, exec .announceInterval s = .next t ∧
         t = { s with wire := t.wire, alm := { s.alm with ports := t.alm.ports }, ports := { s.ports with counters := t.ports.counters } } ∧
         (gport p t).announced = some s.power.upNs ∧
         .gptp p 4 s.alm.working (if gptp2011 p s then 0 else 1) (gptpClass p s)
           { priorities := if s.alm.grandmaster then some (ownPriorities s) else none } ∈ t.wire) ∧
     ((∀ q, q < 10 → announceDue q s = false) → exec .announceInterval s = .next s) ∧
     (servoSource s = 0 → s.alm.state = .locked → s.alm.grandmaster = false →
       ∃ t, exec .syncReceiptTimeout s = .next t ∧ t.alm.state = .holdover ∧ t.ev.pending.getLsbD 40 = true ∧
         t.ev.pending.getLsbD 46 = true) ∧
     (servoSource s = 1 → s.alm.state = .locked → s.alm.grandmaster = false →
       ∃ t, exec .ppsInMissing s = .next t ∧ t.alm.state = .holdover ∧ t.ev.pending.getLsbD 40 = true ∧
         t.ev.pending.getLsbD 46 = true) ∧
     (s.alm.state = .holdover →
       ∃ t, exec .holdoverBudget s = .next t ∧ t.alm.state = .uncertain ∧ t.alm.budgetExpired = true ∧ t.ev.pending.getLsbD 40 = true))

/-- R157, R164, R177 to R179, R273, R442: a PPS_IN edge raises event 43, latches an armed snapshot, is measured when PPS_IN is the source
and sets the time of a TIME_SET that waits for it; one closer than 500 ms to the last counts as a glitch only; PPS_OUT pulses when
synchronised, or always when so set; an alarm raises its event, pulses PPS_OUT under the same condition, and pulses or toggles its pin,
when that is an alarm output, as it says, is done when single and takes its next instant when periodic; a capture pin stamps its edges
into four entries and marks what follows a loss. -/
def Obligations.PpsAlarmsAndCaptures : Prop :=
  ∀ (x n pin : Nat) (up : Bool) (v : Alarm) (y : Nat) (s u : State),
    (s.power.state = .growing →
      u = (if s.hold.snap.armPps then takeSnapshot { s with alm.lastPps := some s.power.upNs } else { s with alm.lastPps := some s.power.upNs }) →
      (u.alm = { s.alm with lastPps := some s.power.upNs }) ∧
      (s.hold.snap.armPps = true → u.hold.snap = { armPps := false, captured := true, state := s.alm.state.code, sec := s.alm.sec
                                                   ns := s.alm.ns, frac := s.alm.frac }) ∧
      ((∀ z, s.alm.lastPps = some z → z + 500000000 ≤ s.power.upNs) → servoSource s ≠ 1 →
        exec (.ppsIn x) s = .next (ppsTimeSets (raise 43 noObject u))) ∧
      ((∀ z, s.alm.lastPps = some z → z + 500000000 ≤ s.power.upNs) → servoSource s = 1 →
        exec (.ppsIn x) s = .next (ppsTimeSets (takeOffset (ppsOffset x s) 1 (raise 43 noObject u)))) ∧
      (s.alm.lastPps = some y → s.power.upNs < y + 500000000 →
        exec (.ppsIn x) s = .next (ppsTimeSets { u with alm.ppsGlitches := s.alm.ppsGlitches + 1 }))) ∧
    ((ppsOn s = false ∨ alarmPulses s = true) → exec .ppsOut s = .next s) ∧
    (s.power.state = .growing → ppsOn s = true → alarmPulses s = false →
      exec .ppsOut s = .next (drivePins { s with alm.ppsUntil := some (s.power.upNs + u32 (timeCfg s) 12)
                                                 wire := .pps (u32 (timeCfg s) 12) :: s.wire })) ∧
    (tget n s.alm.alarms = some v → v.next = some y →
      u = { s with alm.alarms := tset n { v with
        fired := some y
        next := if alarmPeriod v.img = 0 then none else some (seriesAfter (u64 v.img 8) (alarmPeriod v.img) y) } s.alm.alarms } →
      exec (.timeAlarm n) s = .next (fireAlarm n u) ∧
      (u8 v.img 2 = 1 → exec (.timeAlarm n) s = .next (drivePins (raise 44 n u))) ∧
      (u8 v.img 2 = 2 → ppsOn s = false → exec (.timeAlarm n) s = .next (drivePins u)) ∧
      (u8 v.img 2 = 2 → ppsOn s = true → exec (.timeAlarm n) s = .next (drivePins { u with
        alm.ppsUntil := some (s.power.upNs + u32 v.img 4), wire := .pps (u32 v.img 4) :: s.wire })) ∧
      (u8 v.img 2 = 4 → u8 s.bank.pins (u8 v.img 3) = 4 → exec (.timeAlarm n) s = .next (drivePins { u with
        buses.pins.pulses := tset (u8 v.img 3) (s.power.upNs + u32 v.img 4) s.buses.pins.pulses
        wire := .gpioPulse (u8 v.img 3) (u32 v.img 4) :: s.wire })) ∧
      ((u8 v.img 2 = 4 ∨ u8 v.img 2 = 8) → u8 s.bank.pins (u8 v.img 3) ≠ 4 → exec (.timeAlarm n) s = .next (drivePins u)) ∧
      (u8 v.img 2 = 8 → u8 s.bank.pins (u8 v.img 3) = 4 → exec (.timeAlarm n) s = .next (drivePins { u with
        buses.pins.toggles := s.buses.pins.toggles ^^^ bitAt 40 (u8 v.img 3)
        wire := .gpio (u8 v.img 3) ((s.buses.pins.toggles ^^^ bitAt 40 (u8 v.img 3)).getLsbD (u8 v.img 3)) :: s.wire }))) ∧
    (s.power.state = .growing → u8 s.bank.pins pin = 3 → capturesEdge pin up s.bank = true →
      (tgetD pin [] s.buses.pins.captures).length < 4 →
      ∃ t, exec (.timeCapture pin up x) s = .next t ∧
        tgetD pin [] t.buses.pins.captures =
          tgetD pin [] s.buses.pins.captures ++ [(x, up, s.buses.pins.capLost.contains pin)] ∧
        t.buses.pins.capLost.contains pin = false) ∧
    (s.power.state = .growing → u8 s.bank.pins pin = 3 → capturesEdge pin up s.bank = true →
      4 ≤ (tgetD pin [] s.buses.pins.captures).length →
      exec (.timeCapture pin up x) s = .next { s with buses.pins.capLost := insertNat pin s.buses.pins.capLost })

/-! ### Host -/

/-- R448 to R450: RING_CREATE of a ring that does not exist stores its settings and enables it, with its head at 0, and returns ST_BUSY
for one that exists; RING_DESTROY of a ring that no Enabled row and no command in flight names, or that an error has stopped, stops and
removes it, and changes nothing where there is none; RING_MODERATION stores the settings of a ring, and is refused without one (the
model's choice). R309 to R311, R334 to R342: an item fetched from an enabled transmit ring goes to its talker row's Plough, its descriptor
is written back DONE and the head moves on; a descriptor out of order is written back with the descriptor error and stops the ring with
cause 3, a failed fetch with cause 2; an item for the host is written, in writes no longer than the payload the host set, into the
descriptors it needs and leaves the ring's wire, waits while the ring has too few, and a failed write stops the ring, its descriptors
written back with ABORT; a parity failure in the core's buffers raises event 37 and writes an item for the host off with ABORT, the ring
going on; an item that has waited its time is dropped with event 7; the moderation time writes the notification. -/
def Obligations.HostRings : Prop :=
  (∀ (c : Call) (n : Nat) (q : Img) (s u : State), u = taken c s → n = u8 c.params 0 → q = fit 48 c.params →
     (Heard cmdRingCreate c .device s → tget n s.rings = none → (16 ≤ n → flag q 1 0 = true → ringTalker n s = none) →
       (n < 16 → ∀ b, b < 2 → flag q 1 b = true → ∀ e ∈ s.rings, e.1 < 16 → flag e.2.create 1 b = false) →
       Answers (.ringCreate c) 0x0D01 c {} s { u with rings := tset n { create := q, enabled := true } s.rings }) ∧
     (∀ v, Heard cmdRingCreate c .device s → tget n s.rings = some v → Answers (.ringCreate c) 0x0D01 c { status := .busy } s u) ∧
     (Heard cmdRingDestroy c .device s → tget n s.rings = none → Answers (.ringDestroy c) 0x0D02 c {} s u) ∧
     (∀ v, Heard cmdRingDestroy c .device s → tget n s.rings = some v → v.error = false → (ringInUse n s || ringNamed n s) = true →
       Answers (.ringDestroy c) 0x0D02 c { status := .busy } s u) ∧
     (∀ v, Heard cmdRingDestroy c .device s → tget n s.rings = some v → v.error = true ∨ (ringInUse n s || ringNamed n s) = false →
       ∃ w, Answers (.ringDestroy c) 0x0D02 c {} s w ∧ w = { stopRing n 0 u with rings := tdel n (stopRing n 0 u).rings } ∧
         tget n w.rings = none ∧ (16 ≤ n → w = { u with rings := tdel n s.rings })) ∧
     (∀ v, Heard cmdRingModeration c .device s → tget n s.rings = some v →
       Answers (.ringModeration c) 0x0D03 c {} s { u with rings := tset n { v with moder := q } s.rings }) ∧
     (Heard cmdRingModeration c .device s → tget n s.rings = none →
       Answers (.ringModeration c) 0x0D03 c { status := .notPermitted } s u)) ∧
  (∀ (n r : Nat) (h : Bytes) (l : List Bytes) (d : Bytes) (v : Ring) (c : Copy) (s : State), tget n s.rings = some v → dmaOk s = true →
     (16 ≤ n → flag v.create 1 0 = false → v.enabled = true → s.power.state = .growing → s.power.halted = false → s.harrow.inReset = false →
       1 ≤ ringFree v → flag h 28 4 = true →
       (txDescOk true h = true → flag h 28 0 = false → ringTalker n s = some r → fld h 26 0 9 = 511 ∨ fld h 26 0 9 = r →
         s.bank.enabled.contains r = true → 1 ≤ (d.take (u16 h 24)).length → (d.take (u16 h 24)).length ≤ 2080 →
         bufferFill .pcie s + (d.take (u16 h 24)).length ≤ 32768 →
         ∃ t x, exec (.transmitItemFetch n [h] d .clean) s = .next t ∧ (ploughOf .pcie t).done = (ploughOf .pcie s).done ++ [x] ∧
           x.row = r ∧ x.bytes = d.take (u16 h 24) ∧ x.grain.map (fun g => (g.key, g.kind)) = some (u64 h 8, 7) ∧
           (ringAt n t).head = (v.head + 1) % ringSize v ∧ (ringAt n t).enabled = true ∧
           .hostWrite (descAddr v 0) (patch h 31 [1]) ∈ t.wire ∧ t.bank = s.bank ∧ (∀ k, k ≠ n → ringAt k t = ringAt k s)) ∧
       (txDescOk true h = false →
         ∃ t, exec (.transmitItemFetch n [h] d .clean) s = .next t ∧ (ringAt n t).enabled = false ∧ (ringAt n t).error = true ∧
           (ringAt n t).cause = 3 ∧ .hostWrite (descAddr v 0) (patch h 31 [0x43]) ∈ t.wire ∧ t.ploughs = s.ploughs) ∧
       (∀ o, o ≠ .clean → ∃ t, exec (.transmitItemFetch n [h] d o) s = .next t ∧ (ringAt n t).enabled = false ∧ (ringAt n t).error = true ∧
         (ringAt n t).cause = 2 ∧ (ringAt n t).head = (v.head + 1) % ringSize v ∧ t.ploughs = s.ploughs ∧
         .hostWrite (descAddr v 0) (patch h 31 [0x23]) ∈ t.wire ∧ (o = .parity → t.ev.pending.getLsbD 37 = true))) ∧
     (v.enabled = false → ∀ b, exec (.transmitItemFetch n l d b) s = .next s ∧ exec (.receiveItemDelivery n l b) s = .next s) ∧
     (n < 16 → v.enabled = true → tget (512 + n) s.drill.rowWire = some c →
       (ringFree v < ringNeed v c.out.length → exec (.receiveItemDelivery n l .clean) s = .next s) ∧
       (ringNeed v c.out.length ≤ ringFree v → ringNeed v c.out.length = l.length →
         (l.all rxDescOk = true →
           ∃ t, exec (.receiveItemDelivery n l .clean) s = .next t ∧ tget (512 + n) t.drill.rowWire = none ∧
             (ringAt n t).head = (v.head + l.length) % ringSize v ∧ (ringAt n t).waiting = false ∧ (ringAt n t).enabled = true ∧
             (∀ i k, i < l.length → maxPayload s * k < ((c.out.drop (ringUnit v * i)).take (ringUnit v)).length →
               .hostWrite (u64 (l.getD i []) 0 + maxPayload s * k)
                 ((((c.out.drop (ringUnit v * i)).take (ringUnit v)).drop (maxPayload s * k)).take (maxPayload s)) ∈ t.wire) ∧
             (∀ i, i < l.length → .hostWrite (descAddr v i) (rxWriteBack c (if v.waiting then !synced s || c.unsync || c.countedUnsync else c.countedUnsync) i l.length
               (min (ringUnit v) (c.out.length - ringUnit v * i))) ∈ t.wire)) ∧
         (l.all rxDescOk = false →
           ∃ t, exec (.receiveItemDelivery n l .clean) s = .next t ∧ (ringAt n t).enabled = false ∧ (ringAt n t).cause = 3 ∧
             (ringAt n t).head = (v.head + l.length) % ringSize v ∧ tget (512 + n) t.drill.rowWire = none ∧
             ∀ i, i < l.length → .hostWrite (descAddr v i) (patch (rxWriteBack c c.countedUnsync i l.length 0) 31 [9]) ∈ t.wire) ∧
         (l.all rxDescOk = true →
           ∃ t, exec (.receiveItemDelivery n l .parity) s = .next t ∧ (ringAt n t).enabled = true ∧ (ringAt n t).waiting = false ∧
             (ringAt n t).head = (v.head + l.length) % ringSize v ∧ tget (512 + n) t.drill.rowWire = none ∧
             t.ev.pending.getLsbD 37 = true ∧
             ∀ i, i < l.length → .hostWrite (descAddr v i) (patch (rxWriteBack c c.countedUnsync i l.length 0) 31 [9]) ∈ t.wire) ∧
         (∃ t, exec (.receiveItemDelivery n l .error) s = .next t ∧ (ringAt n t).enabled = false ∧ (ringAt n t).cause = 2 ∧
           (ringAt n t).head = (v.head + l.length) % ringSize v ∧ tget (512 + n) t.drill.rowWire = none ∧
           ∀ i, i < l.length → .hostWrite (descAddr v i) (patch (rxWriteBack c c.countedUnsync i l.length 0) 31 [9]) ∈ t.wire))) ∧
     (tget (512 + n) s.drill.rowWire = some c →
       (v.waiting = true →
         ∃ t, exec (.ringWaitLimit n) s = .next t ∧ tget (512 + n) t.drill.rowWire = none ∧
           tget n t.rings = some { v with waiting := false, dropped := v.dropped + 1 } ∧ Logged 7 0 n t) ∧
       (v.waiting = false → exec (.ringWaitLimit n) s = .next s)) ∧
     (v.unnotified = 0 → exec (.moderationTimeLimit n) s = .next s) ∧
     (0 < v.unnotified → flag (moderOf v) 1 1 = true →
       exec (.moderationTimeLimit n) s = .next { s with
         rings := tset n { v with unnotified := 0 } s.rings
         wire := .hostWrite (u64 (moderOf v) 16) (sub (moderOf v) 24 4) :: s.wire }))

/-- R10, R317, R324, R331, R569, R570: a 1 written to EV_PENDING clears its bit unless the event occurs in the same cycle, and opens the
window of a coalesced event; EV_ENABLE takes the written bits, and with MSI-X on sends a vector for an event it newly enables while it is
pending; the end of a window sets the event again when it occurred inside; enabling MSI-X sends every unmasked event pending and enabled
once and marks the masked ones; unmasking sends a vector that waits. R157, R323, R325, R326, R330: CAPTURE latches the working clock and
the time state at once and disarms ARM_PPS, which arms a capture; a doorbell loads the tail unless more than 16 slots would be
outstanding, which is queue error 1, and notifies the queue; a doorbell through the other interface is queue error 2, and of MQ3 queue
error 4; MQn_RSP_HEAD moves the head up to the response tail, and beyond it is queue error 3; a ring tail is loaded from PCIe only, and
one outside the ring stops nothing but sets ERROR with cause 1. -/
def Obligations.EventAndQueueRegisters : Prop :=
  (∀ (v same en : BitVec 64) (n : Nat) (s : State), n < 64 →
     (∃ t, exec (.evPending v same) s = .next t ∧ t = { s with ev := t.ev } ∧ t.ev.enable = s.ev.enable ∧ t.ev.route = s.ev.route ∧
       t.ev.log = s.ev.log ∧
       t.ev.pending.getLsbD n = (s.ev.pending.getLsbD n && (!v.getLsbD n || same.getLsbD n)) ∧
       t.ev.window.getLsbD n =
         (s.ev.window.getLsbD n || (coalesced n && s.ev.pending.getLsbD n && v.getLsbD n && !same.getLsbD n))) ∧
     (∃ t, exec (.evEnable v en) s = .next t ∧ t.ev.pending = s.ev.pending ∧ t.ev.route = s.ev.route ∧ t.ev.log = s.ev.log ∧
       t.ev.enable.getLsbD n = (if en.getLsbD n then v.getLsbD n else s.ev.enable.getLsbD n) ∧
       (s.ev.msixEnable = true → s.ev.fnMask = false → s.ev.mask.getLsbD n = false → s.ev.pending.getLsbD n = true →
         s.ev.enable.getLsbD n = false → en.getLsbD n = true → v.getLsbD n = true → .msix n ∈ t.wire)) ∧
     (s.ev.window.getLsbD n = true → ∃ t, exec (.coalescingWindowEnd n) s = .next t ∧ t.ev.window.getLsbD n = false ∧
       t.ev.inWindow.getLsbD n = false ∧ t.ev.pending.getLsbD n = (s.ev.pending.getLsbD n || s.ev.inWindow.getLsbD n)) ∧
     (s.ev.msixEnable = false → ∃ t, exec (.msiXEnable true false) s = .next t ∧ t.ev.msixEnable = true ∧ t.ev.fnMask = false ∧
       t.ev.pending = s.ev.pending ∧
       (s.ev.pending.getLsbD n = true → s.ev.enable.getLsbD n = true → s.ev.mask.getLsbD n = false →
         t.wire.count (.msix n) = s.wire.count (.msix n) + 1) ∧
       (s.ev.pending.getLsbD n = true → s.ev.enable.getLsbD n = true → s.ev.mask.getLsbD n = true → t.ev.pba.getLsbD n = true)) ∧
     (s.ev.msixEnable = true → s.ev.fnMask = false → s.ev.pba.getLsbD n = true → s.ev.pending.getLsbD n = true →
       ∃ t, exec (.msiXUnmask (some n)) s = .next t ∧ t.ev.mask.getLsbD n = false ∧ t.ev.pba.getLsbD n = false ∧ .msix n ∈ t.wire ∧
         t.ev.pending = s.ev.pending) ∧
     (∃ t, exec (.msiXUnmask none) s = .next t ∧ t.ev.fnMask = false ∧ t.ev.mask = s.ev.mask ∧ t.ev.pending = s.ev.pending)) ∧
  (∀ (arm b : Bool) (q v n : Nat) (w : BitVec 32) (x : Ring) (s : State),
     (exec (.capture arm) s = .next { s with hold.snap := { armPps := false, captured := true, state := s.alm.state.code, sec := s.alm.sec
                                                            ns := s.alm.ns, frac := s.alm.frac } }) ∧
     (exec (.armPps true) s = .next { s with hold.snap.armPps := true, hold.snap.captured := false }) ∧
     (exec (.armPps false) s = .next { s with hold.snap.armPps := false }) ∧
     (q < 3 → w.getLsbD 8 = true → (w.toNat % 32 + 32 - (queueOf q s).cmdHead) % 32 ≤ 16 →
       ∃ t, exec (.mqnDoorbell (queueIface q) q w) s = .next t ∧ (queueOf q t).cmdTail = w.toNat % 32 ∧ (queueOf q t).notified = true ∧
         (s.power.entryStep < 2 → s.power.watchWake = false →
           t = setQueue q { queueOf q s with cmdTail := w.toNat % 32, notified := true } s)) ∧
     (q < 3 → w.getLsbD 8 = true → 16 < (w.toNat % 32 + 32 - (queueOf q s).cmdHead) % 32 →
       ∃ t, exec (.mqnDoorbell (queueIface q) q w) s = .next t ∧ (queueOf q t).cmdTail = (queueOf q s).cmdTail ∧
         (queueOf q t).qerr = true ∧ (queueOf q t).cause = 1 ∧ t.ev.pending.getLsbD 2 = true) ∧
     (q < 3 → exec (.mqnDoorbell (if q = 2 then .pcie else .xspi) q w) s =
       .next (raise 2 q (setQueue q { queueOf q s with qerr := true, cause := 2 } s))) ∧
     (exec (.mqnDoorbell (if b then .pcie else .xspi) 3 w) s =
       .next (raise 2 3 (setQueue 3 { queueOf 3 s with qerr := true, cause := 4 } s))) ∧
     (q < 3 → (v % 32 + 32 - (queueOf q s).rspHead) % 32 ≤ ((queueOf q s).rspTail + 32 - (queueOf q s).rspHead) % 32 →
       exec (.mqnRspHead (queueIface q) q v) s = .next (setQueue q { queueOf q s with rspHead := v % 32 } s)) ∧
     (q < 3 → ((queueOf q s).rspTail + 32 - (queueOf q s).rspHead) % 32 < (v % 32 + 32 - (queueOf q s).rspHead) % 32 →
       exec (.mqnRspHead (queueIface q) q v) s = .next (raise 2 q (setQueue q { queueOf q s with qerr := true, cause := 3 } s))) ∧
     (tget n s.rings = some x → v < ringSize x → x.waiting = false →
       exec (.ringTail .pcie n v) s = .next { s with rings := tset n { x with tail := v } s.rings }) ∧
     (tget n s.rings = some x → ringSize x ≤ v →
       exec (.ringTail .pcie n v) s = .next { s with rings := tset n { x with error := true, cause := 1 } s.rings }) ∧
     (exec (.ringTail .xspi n v) s = .next s))

/-- R305, R307, R310 to R316, R483: a whole xSPI read of the staging buffer returns its bytes, and a write stores them and nothing else;
the configuration register reads back, takes a latency from 8 to 20 and keeps the old one otherwise with event 14; XSPI_RESET sets
1S-1S-1S and latency 8; HOLD_ID identifies; an unknown command raises event 14 and a read by one returns zero bytes; a read of a present
port's counter returns and clears it; poisoned writes and unsupported requests are counted; a change of the PCIe link raises event 15, and
bus mastering and D3hot are kept, and where they end DMA the copy under way on each ring is discarded. R318 to R330, R348: bytes written
into a command slot of MQ0 to MQ2 are stored, and change nothing else; with byte enables only the enabled bytes are; response slots take
no write; a 32-bit write of EV_ROUTE's low half replaces it and keeps the high half, the pending and the enable bits. -/
def Obligations.HostPortsAndHoldWindow : Prop :=
  (∀ (a len ps p idx bar rate width : Nat) (d : Bytes) (v : BitVec 32) (on : Bool) (s : State),
     (0x100000 ≤ a → a + len ≤ 0x180000 → evenRule a len s = true → tooSlow a ps s = false →
       exec (.xspiRead a len ps false) s = .next { s with hostRead := mread (a - 0x100000) len s.staging }) ∧
     (exec (.xspiRead a len ps true) s = .next { raise 14 noObject s with hostRead := List.replicate len 0 }) ∧
     (Memory.wf s.staging = true → 0x100000 ≤ a → a + d.length ≤ 0x180000 → evenRule a d.length s = true →
       ∃ t, exec (.xspiWrite a d false) s = .next t ∧ t = { s with staging := t.staging } ∧ mread (a - 0x100000) d.length t.staging = d ∧
         ∀ b, b < a - 0x100000 ∨ a - 0x100000 + d.length ≤ b → mget b t.staging = mget b s.staging) ∧
     (exec .xspiReadConfiguration s = .next { s with hostRead := le 4 (xspiConfig s) }) ∧
     (8 ≤ v.toNat / 256 % 32 → v.toNat / 256 % 32 ≤ 20 → exec (.xspiWriteConfiguration v) s =
       .next { s with hold.xspi8d := v.getLsbD 0, hold.xspiWait := v.getLsbD 16, hold.xspiLatency := v.toNat / 256 % 32 }) ∧
     (20 < v.toNat / 256 % 32 ∨ v.toNat / 256 % 32 < 8 → exec (.xspiWriteConfiguration v) s =
       .next (raise 14 noObject { s with hold.xspi8d := v.getLsbD 0, hold.xspiWait := v.getLsbD 16 })) ∧
     (exec .xspiReadIdentification s = .next { s with hostRead := le 4 (if s.fixed.variantE then 0x101512 else 0x1512) }) ∧
     (∃ t, exec .xspiReset s = .next t ∧ t.hold.xspi8d = false ∧ t.hold.xspiLatency = 8 ∧ t.bank = s.bank ∧ t.staging = s.staging) ∧
     (exec (.xspiUnknownCommand ⟨idx, len⟩) s = .next { raise 14 noObject s with hostRead := List.replicate len 0 }) ∧
     (portPresent p s = true → idx < 48 →
       ∃ t, exec (.statisticsRead p idx .all) s = .next t ∧ t.hostRead = le 8 (tgetD (48 * p + idx) 0 s.ports.counters) ∧
         tgetD (48 * p + idx) 0 t.ports.counters = 0) ∧
     (bar = 0 ∨ bar = 2 → exec (.poisonedTlp bar) s = .next { s with hold.aerReports := s.hold.aerReports + 1 }) ∧
     (exec (.unsupportedRequest a) s =
       .next { s with hold.unsupported := s.hold.unsupported + 1, wire := .unsupported a :: s.wire }) ∧
     (s.hold.perst = false → s.hold.pcieUp = false → exec (.pcieLinkChange true rate width) s =
       .next (raise 15 noObject { s with hold.pcieUp := true, hold.pcieRate := rate, hold.pcieWidth := width })) ∧
     (s.hold.pcieUp = true → ∃ t, exec (.pcieLinkChange false rate width) s = .next t ∧ t.hold.pcieUp = false ∧ t.hold.pcieRate = 0 ∧
       t.hold.pcieWidth = 0 ∧ t.ev.pending.getLsbD 15 = true) ∧
     (exec (.busMasterEnable on) s = .next (afterDma (dmaOk s) { s with hold.busMaster := on })) ∧
     (exec (.d3hot on) s = .next (afterDma (dmaOk s) { s with hold.d3hot := on, hold.pme := on && s.hold.pme }))) ∧
  (∀ (i : Iface) (q k o : Nat) (d : Bytes) (s : State), Memory.wf s.hold.slots = true → q < 3 → k < 16 →
     (o + d.length ≤ 64 → ∃ t, exec (.holdWindowWrite i ⟨0x1000 + 0x400 * q + 0x40 * k + o, 255⟩ d) s = .next t ∧
       t = { s with hold.slots := t.hold.slots } ∧ mread (0x1000 + 0x400 * q + 0x40 * k + o) d.length t.hold.slots = d ∧
       ∀ b, b < 0x1000 + 0x400 * q + 0x40 * k + o ∨ 0x1000 + 0x400 * q + 0x40 * k + o + d.length ≤ b →
         mget b t.hold.slots = mget b s.hold.slots) ∧
     (d.length = 8 → o % 8 = 0 → o < 64 → ∃ t,
       exec (.holdWindowWrite i ⟨0x1000 + 0x400 * q + 0x40 * k + o, 0xA5⟩ d) s = .next t ∧ t = { s with hold.slots := t.hold.slots } ∧
       ∀ b, mget b t.hold.slots =
         (if b ∈ [0, 2, 5, 7].map (fun j => 0x1000 + 0x400 * q + 0x40 * k + o + j) then
           byte (u8 d (b - (0x1000 + 0x400 * q + 0x40 * k + o))) else mget b s.hold.slots)) ∧
     (o + d.length ≤ 64 → exec (.holdWindowWrite i ⟨0x2000 + 0x400 * q + 0x40 * k + o, 255⟩ d) s = .next s) ∧
     (d.length = 4 → ∃ t, exec (.holdWindowWrite i ⟨0x50, 255⟩ d) s = .next t ∧ t = { s with ev := t.ev } ∧
       t.ev.route.toNat = s.ev.route.toNat / 2 ^ 32 * 2 ^ 32 + u32 d 0 ∧ t.ev.pending = s.ev.pending ∧ t.ev.enable = s.ev.enable))

/-- R310, R331, R483, R564, R567: a fundamental or hot reset takes the rings, queues 0 and 1, the MSI-X table and the function's control
bits, and frees the semaphores of PCIe requesters, with reset kind 3 or 4; the core keeps its bank, its queue 2 and its Stile regions.
PERSTn asserted takes the link down with event 15 and holds the function in reset until it is released. -/
def Obligations.PcieResets : Prop :=
  ∀ (hot : Bool) (s : State),
    (s.stile.near = [] → s.drill.rowWire = [] → s.drill.rows = [] →
      ∃ t, exec (.pcieFundamentalReset hot) s = .next t ∧ t.hold.resetKind = (if hot then 4 else 3) ∧ t.hold.fallowLeft = 0 ∧
        t.rings = [] ∧ t.hold.queues = tdel 1 (tdel 0 s.hold.queues) ∧ t.hold.busMaster = false ∧ t.hold.d3hot = false ∧
        t.hold.pme = false ∧ t.ev.msixTable = [] ∧ t.ev.msixEnable = false ∧ t.ev.mask = BitVec.allOnes 64 ∧ t.ev.pba = 0 ∧
        t.ev.route = s.ev.route ∧ t.ev.enable = s.ev.enable &&& s.ev.route ∧
        (∀ n o, tget n t.stile.sems = some o → isPcie o = false) ∧ t.stile.regions = s.stile.regions ∧ t.bank = s.bank ∧
        t.stw.tags = s.stw.tags ∧ t.stw.ledger = s.stw.ledger ∧ t.power = s.power ∧
        (∀ a, (0x1000 ≤ a ∧ a < 0x1800) ∨ (0x2000 ≤ a ∧ a < 0x2800) → mget a t.hold.slots = 0) ∧
        (∀ a, ¬ ((0x1000 ≤ a ∧ a < 0x1800) ∨ (0x2000 ≤ a ∧ a < 0x2800)) → mget a t.hold.slots = mget a s.hold.slots)) ∧
    (s.hold.pcieUp = true →
      ∃ t, exec (.perstn true) s = .next t ∧ t.hold.perst = true ∧ t.hold.pcieUp = false ∧ t.hold.pcieRate = 0 ∧
        t.hold.pcieWidth = 0 ∧ t.ev.pending.getLsbD 15 = true ∧ (∀ n o, tget n t.stile.sems = some o → isPcie o = false) ∧
        (s.drill.rowWire = [] → t.rings = s.rings) ∧ t.bank = s.bank ∧ t.stw = s.stw) ∧
    (s.hold.pcieUp = false →
      exec (.perstn true) s = .next { s with hold := { s.hold with perst := true, pcieUp := false, pcieRate := 0, pcieWidth := 0 } }) ∧
    exec (.perstn false) s = .next { s with hold := { s.hold with perst := false } }

/-! ### The Stile -/

/-- R327, R329, R464, R466, R471, R472, R481 to R486: SEM_TAKE takes a free semaphore and reads 1, reads 0 of one that is held, and waits
for a PCIe requester while a STRICT write does; the owner's give frees it with event 10, anyone else's is logged; STILE_CTRL and the
region registers take their fields, an ENABLE that is refused reads back clear with bit 31 set, and each write of a region drops what is
kept of it, a read in flight there included; ERRLOG_VALID clears an entry. Takes held behind a STRICT write are made when it ends
(`releaseHeld`). R467 to R480, R485: with nothing under way, a read of a controller's file becomes a far read that holds the file's bytes,
those not enabled as zero, and a read of a counter clears it; a posted write of the pins' live control sets the levels and awaits its
completion; a read outside every region completes with all ones and an entry of kind 1. A far read completes with its data; a stale
completion is counted with event 3; a timeout removes the access with an entry of kind 4; kept data expire. -/
def Obligations.StileSemaphoresAndAccesses : Prop :=
  (∀ (r o : Requester) (n g e : Nat) (v : BitVec 32) (s : State),
     (tget n s.stile.sems = none → (strictPending s && isPcie r) = false →
       exec (.semTake r n) s = .next { s with stile.sems := tset n r s.stile.sems, hostRead := le 4 1 }) ∧
     (tget n s.stile.sems = some o → (strictPending s && isPcie r) = false → exec (.semTake r n) s = .next { s with hostRead := le 4 0 }) ∧
     (strictPending s = true → isPcie r = true → exec (.semTake r n) s = .next { s with stile.held := s.stile.held ++ [(r, n)] }) ∧
     (tget n s.stile.sems = some r → exec (.semGive r n) s = .next (raise 10 n { s with stile.sems := tdel n s.stile.sems })) ∧
     (tget n s.stile.sems ≠ some r → ∃ t, exec (.semGive r n) s = .next t ∧ t.stile.sems = s.stile.sems ∧
       (∀ i, freeEntry s = some i →
         ∃ x, tget i t.stile.errlog = some x ∧ x.kind = 5 ∧ x.addr = giveAddr n ∧ x.seq = s.stile.errSeq)) ∧
     (∃ t, exec (.stileCtrl v) s = .next t ∧ t.stile.strict = v.getLsbD 0 ∧ t.stile.timeoutCa = v.getLsbD 1 ∧
       t.stile.readTimeout = v.toNat / 65536 % 512 ∧ t.bank = s.bank ∧
       (v.getLsbD 0 = s.stile.strict → t.ev = s.ev) ∧ (v.getLsbD 0 ≠ s.stile.strict → t.ev.pending.getLsbD 13 = true)) ∧
     (s.stile.near = [] → s.stile.strictInForce = s.stile.strict →
       exec (.stileRegion g 0 v) s = .next (releaseHeld (dropKeptOf (· == g)
         { s with stile.regions := tset g { regionOf g s with base := v &&& 0x03FFF000#32 } s.stile.regions })) ∧
       exec (.stileRegion g 1 v) s = .next (releaseHeld (dropKeptOf (· == g)
         { s with stile.regions := tset g { regionOf g s with size := v &&& 0x07FFF000#32 } s.stile.regions })) ∧
       exec (.stileRegion g 2 v) s = .next (releaseHeld (dropKeptOf (· == g)
         { s with stile.regions := tset g { regionOf g s with target := v &&& 0xFFFFF000#32 } s.stile.regions })) ∧
       (v.getLsbD 0 = true → enableRefused g { regionOf g s with ctrl := v &&& 0x003F3FFF#32 } s = false →
         exec (.stileRegion g 3 v) s = .next (releaseHeld (dropKeptOf (· == g)
           { s with stile.regions := tset g { regionOf g s with ctrl := v &&& 0x003F3FFF#32 } s.stile.regions }))) ∧
       (v.getLsbD 0 = true → enableRefused g { regionOf g s with ctrl := v &&& 0x003F3FFF#32 } s = true →
         exec (.stileRegion g 3 v) s = .next (releaseHeld (dropKeptOf (· == g)
           { s with stile.regions := tset g { regionOf g s with ctrl := (v &&& 0x003F3FFE#32) ||| 0x80000000#32 } s.stile.regions })))) ∧
     (exec (.stileErrlogValid e) s = .next { s with stile.errlog := tdel e s.stile.errlog })) ∧
  (∀ (r : Requester) (off len g k id : Nat) (d : Bytes) (a : FarAccess) (s : State),
     s.stile.near = [] → s.stile.strictInForce = s.stile.strict →
     (s.stile.far = [] → off + len ≤ 0x3FFF000 → 0 < len → len ≤ 256 → regionAt off s = some g →
       off + len ≤ rBase (regionOf g s) + rSize (regionOf g s) → rKind (regionOf g s) ≤ 4 → rPrefetch (regionOf g s) = false →
       tget g s.stile.prefetch = none → rTarget (regionOf g s) + (off - rBase (regionOf g s)) + len ≤ 256 →
       ∃ t x, exec (.stileRead r ⟨off, 255⟩ len) s = .next t ∧ t.stile.far = [x] ∧ t.stile.near = [] ∧ x.id = s.stile.nextFar ∧
         x.req = r ∧ x.write = false ∧ x.len = len ∧ x.result = none ∧ x.remote = false ∧ x.noKeep = false ∧
         (rKind (regionOf g s) < 4 → t.buses = s.buses) ∧
         x.data = sub (fileImage (rKind (regionOf g s)) (rInst (regionOf g s)) t)
           (rTarget (regionOf g s) + (off - rBase (regionOf g s))) len) ∧
     (s.stile.far = [] → off % 4 = 0 → off + 8 ≤ 0x3FFF000 → regionAt off s = some g →
       off + 8 ≤ rBase (regionOf g s) + rSize (regionOf g s) → rKind (regionOf g s) < 4 → rPrefetch (regionOf g s) = false →
       tget g s.stile.prefetch = none → rBase (regionOf g s) % 4 = 0 → rTarget (regionOf g s) % 4 = 0 →
       rTarget (regionOf g s) + (off - rBase (regionOf g s)) + 8 ≤ 256 →
       ∃ t x, exec (.stileRead r ⟨off, 0xA5⟩ 8) s = .next t ∧ t.stile.far = [x] ∧
         x.data = [0, 1, 2, 3, 4, 5, 6, 7].map (fun j => if j ∈ [0, 2, 5, 7] then
           (fileImage (rKind (regionOf g s)) (rInst (regionOf g s)) s).getD
             (rTarget (regionOf g s) + (off - rBase (regionOf g s)) + j) 0 else 0)) ∧
     (s.stile.far = [] → off + 8 ≤ 0x3FFF000 → regionAt off s = some g → off + 8 ≤ rBase (regionOf g s) + rSize (regionOf g s) →
       rKind (regionOf g s) = 0 → rPrefetch (regionOf g s) = false → tget g s.stile.prefetch = none → k < 13 →
       rTarget (regionOf g s) + (off - rBase (regionOf g s)) = 256 + 8 * k →
       ∃ t x, exec (.stileRead r ⟨off, 255⟩ 8) s = .next t ∧ t.stile.far = [x] ∧
         x.data = le 8 (tgetD k 0 (canRt (rInst (regionOf g s)) s).counters) ∧
         tgetD k 0 (canRt (rInst (regionOf g s)) t).counters = 0 ∧ (canRt (rInst (regionOf g s)) t).armed = true) ∧
     (s.stile.far = [] → s.stile.strict = false → 0 < d.length → off + d.length ≤ 0x3FFF000 → regionAt off s = some g →
       off + d.length ≤ rBase (regionOf g s) + rSize (regionOf g s) → rKind (regionOf g s) = 4 → rPosted (regionOf g s) = true →
       64 ≤ rTarget (regionOf g s) + (off - rBase (regionOf g s)) →
       rTarget (regionOf g s) + (off - rBase (regionOf g s)) + d.length ≤ 69 →
       guarded r 4 (rInst (regionOf g s)) (rTarget (regionOf g s) + (off - rBase (regionOf g s))) d.length s = false →
       ∃ t x, exec (.stileWrite r ⟨off, 255⟩ d) s = .next t ∧ t.stile.far = [x] ∧ x.write = true ∧ x.mode = 0 ∧ x.data = d ∧
         t.bank.pins = patch (fit 88 s.bank.pins) (rTarget (regionOf g s) + (off - rBase (regionOf g s)) - 24) d) ∧
     (s.stile.far = [] → off + len ≤ 0x3FFF000 → 0 < len → len ≤ 256 → (∀ n, n < len → regionAt (off + n) s = none) →
       s.stile.timeoutCa = false →
       ∃ t, exec (.stileRead r ⟨off, 255⟩ len) s = .next t ∧ t.stile.far = [] ∧ .completion r (List.replicate len 0xFF) false ∈ t.wire ∧
         t.ev.pending.getLsbD 9 = true) ∧
     (s.stile.far = [a] → a.write = false → a.remote = false → a.result = none → a.kind ≠ 5 → a.data.length = a.len →
       exec (.farCompletion a.id d 0) s =
         .next (releaseHeld { s with stile.far := [], wire := .completion a.req a.data false :: s.wire })) ∧
     (s.stile.far = [a] → a.write = true → a.remote = false → a.result = none →
       exec (.farCompletion a.id d 0) s = .next (releaseHeld { s with stile.far := [] })) ∧
     ((∀ x ∈ s.stile.far, x.id ≠ id) →
       exec (.farCompletion id d 0) s = .next (raise 3 id { s with stile.staleCount := s.stile.staleCount + 1 })) ∧
     (s.stile.far = [a] → a.write = true → a.remote = false → a.result = none →
       exec (.farTimeout a.id) s = .next (releaseHeld (logRaise 8 (farEntry a 4) { s with stile.far := [] }))) ∧
     (exec (.prefetchExpiry g) s = .next { s with stile.prefetch := tdel g s.stile.prefetch }))

/-- R482, R487 to R492: a first or next request of a member is performed, its completion kept and sent, and the ID expected moves on; in
no region it ends with status 1, in one that takes no member with status 8, and a device that is no Member answers status 7; a kept
request is answered again without effect; a completion's data end its far read; an acknowledgement frees the requests up to its ID; a
resend sends the unacknowledged requests again. -/
def Obligations.StileTransport : Prop :=
  ∀ (q : StileReq) (m : StileCpl) (c : StileCpl) (a : FarAccess) (p : Nat) (s u : State), u = takeControl 6 s →
    ((transportOf q.src s).peerEpoch = none ∨ ((transportOf q.src s).peerEpoch = some q.epoch ∧ (transportOf q.src s).expect = q.id) →
      q.epoch < 16 →
      ∃ t x l, exec (.stileRequest q) s = .next t ∧ (transportOf q.src t).expect = (q.id + 1) % 1024 ∧
        (transportOf q.src t).peerEpoch = some q.epoch ∧ (transportOf q.src t).kept = x :: l ∧ x.id = q.id ∧ x.write = q.write ∧
        (s.field.join ≠ 2 → x.status = 7) ∧
        (s.field.join = 2 → q.semPage = false → q.off < 0x3FFF000 → regionAt q.off s = none → x.status = 1) ∧
        (∀ g, s.field.join = 2 → q.semPage = false → q.off < 0x3FFF000 → regionAt q.off s = some g →
          rRemoteOk (regionOf g s) = false → x.status = 8)) ∧
    ((transportOf q.src s).peerEpoch = some q.epoch → q.epoch < 16 → (transportOf q.src s).expect ≠ q.id →
      (transportOf q.src s).kept.find? (fun x => x.id == q.id) = some c →
      exec (.stileRequest q) s = .next (sendCpl q.src { c with ackId := ((transportOf q.src s).expect + 1023) % 1024 } u)) ∧
    (m.present = true → m.ackValid = false → m.cut = false → m.status = 0 → s.stile.near = [] → s.stile.strictInForce = s.stile.strict →
      s.stile.far = [a] → a.remote = true → a.inst = m.dev → a.txn = m.id → a.epoch = m.ackEpoch → a.result = none → a.write = false →
      m.data.length = a.len →
      exec (.stileCompletion m) s =
        .next (releaseHeld
          { takeControl 7 s with stile := { s.stile with far := [] }, wire := .completion a.req m.data false :: s.wire })) ∧
    (m.present = false → m.ackValid = true → m.ackEpoch = (transportOf m.dev s).epoch → s.stile.near = [] →
      s.stile.strictInForce = s.stile.strict → (transportOf m.dev s).waiting = [] →
      ∃ t, exec (.stileCompletion m) s = .next t ∧
        (transportOf m.dev t).unacked =
          (transportOf m.dev s).unacked.filter (fun x => decide (512 ≤ (m.ackId + 1024 - x.id) % 1024)) ∧
        t.stile.far = s.stile.far) ∧
    (exec (.stileResend p) s = .next ((transportOf p s).unacked.foldl (fun t x => sendControl p 6 (stileReqBody x) t) s))

/-! ### Maintenance -/

/-- R451 to R453: SELF_TEST runs the tests asked for whose resource is free, returns passed, failed and skipped bitmaps (which passed is a
free value) at its turn, under a Ledger record that its next turn closes; LOOPBACK_SET sets the mode of an endpoint and of no other, and
an internal loopback brings an enabled port's link up at its configured speed; EVENT_LOG_READ returns entries of the log and notes which
it returned. -/
def Obligations.DiagnosticCommands : Prop :=
  ∀ (c : Call) (k : Nat) (q : Img) (s u : State), u = taken c s → q = fit 48 c.params → k = 16 * u8 q 0 + u8 q 1 →
    (Heard cmdSelfTest c .device s → openCount s.stw.ledger < 16 →
      Starts (.selfTest c) 0x0E01 c (.journal (refOf .device s)) s.stw.nextOpno s (openRecord 0x0E01 c false u)) ∧
    (∀ o, HasTurn o s → Inv s → o = { opcode := 0x0E01, call := c, body := .journal (refOf .device s), opno := o.opno, interim := o.interim
                                      steps := o.steps, progress := o.progress } →
      c.atomic = false → c.staged = false → o.opno ≠ 0 →
      ∃ f t, exec .stewardStep s = .next t ∧ Done o f (picked s) t ∧ f.status = .ok ∧
        u8 f.inline 0 + u8 f.inline 1 = (u8 q 0 &&& testable s) ∧ u8 f.inline 2 = u8 q 0 - (u8 q 0 &&& testable s)) ∧
    (Heard cmdLoopbackSet c .device s → tgetD k 0 s.buses.loopback = u8 q 2 → Answers (.loopbackSet c) 0x0E02 c {} s u) ∧
    (Heard cmdLoopbackSet c .device s → tgetD k 0 s.buses.loopback ≠ u8 q 2 → u8 q 0 ≠ 0 →
      Answers (.loopbackSet c) 0x0E02 c {} s
        { u with buses.loopback := if u8 q 2 = 0 then tdel k s.buses.loopback else tset k (u8 q 2) s.buses.loopback }) ∧
    (Heard cmdLoopbackSet c .device s → tgetD k 0 s.buses.loopback ≠ u8 q 2 → u8 q 0 = 0 →
      ∃ v, Answers (.loopbackSet c) 0x0E02 c {} s v ∧ tgetD k 0 v.buses.loopback = u8 q 2 ∧
        (∀ m, m ≠ k → tgetD m 0 v.buses.loopback = tgetD m 0 s.buses.loopback) ∧
        (u8 q 2 = 0 → (portRt (u8 q 1) v).link = false) ∧
        (u8 q 2 = 1 → portEnabled (u8 q 1) s = true →
          (portRt (u8 q 1) v).link = true ∧ (portRt (u8 q 1) v).speed = loopSpeed (u8 q 1) s)) ∧
    (Heard cmdEventLogRead c .device s →
      Answers (.eventLogRead c) 0x0E03 c (answerOf cmdEventLogRead c (actLogRead c 0 s)) s
        { u with ev := { s.ev with log := (actLogRead c 0 s).st.ev.log } })

/-- R362, R366, R455 to R458: RETILL_BEGIN without an image opens a re-till with a Ledger record, the sown bank standing as a copy or
empty, and is refused while the sown bank is held; RETILL_COMMIT of a bank that passes its check writes the spare slot, raises the pace
target and waits for its flip, and a bank that fails is named; RETILL_ABORT drops the sown bank and closes the record as cancelled;
LEDGER_STATE returns the records. -/
def Obligations.RetillCommands : Prop :=
  ∀ (c : Call) (n : Nat) (s u : State), u = taken c s →
    (Heard cmdRetillBegin c .device s → sownHeld s = false → openCount s.stw.ledger < 16 → flag c.params 0 1 = false →
      n = s.stw.nextOpno →
      ∃ v, Answers (.retillBegin c) 0x0F01 c { inline := le 4 0 ++ le 4 0xFFFFFFFF ++ le 1 0, opno := n } s v ∧
        v = { openRecord 0x0F01 c (c.queue == 3) u with
              sown := if flag c.params 0 0 then s.bank else {}
              stw := { (openRecord 0x0F01 c (c.queue == 3) u).stw with retill := some n, directChanges := 0 } }) ∧
    (Heard cmdRetillBegin c .device s → sownHeld s = true → Answers (.retillBegin c) 0x0F01 c { status := .busy } s u) ∧
    (Heard cmdRetillCommit c .device s → s.stw.retill = some n → s.stw.committing = false → loading s = false → sownFault s = none →
      ∃ v w, v = raiseTarget (writeSpareSlot n u) ∧
        w = { v with stw := { v.stw with committing := true, flip := some (max (u64 c.params 0) (nowNs s)) } } ∧
        Starts (.retillCommit c) 0x0F02 c (.retillFlip (u64 c.params 0) s.power.upNs) n s w ∧
        w.power.slots = max (demandOf s.bank s).1 (demandOf s.sown s).1 ∧
        w.power.bandwidth = max (demandOf s.bank s).2 (demandOf s.sown s).2 ∧
        (s.fixed.bankSel = 0 → w.fixed.bankB = some (n, { s.sown with acts := [] }) ∧ w.fixed.bankA = s.fixed.bankA)) ∧
    (∀ op i, Heard cmdRetillCommit c .device s → s.stw.retill = some n → s.stw.committing = false → loading s = false →
      sownFault s = some (op, i) →
      Answers (.retillCommit c) 0x0F02 c { status := .badParam, inline := fit 12 [] ++ le 2 op ++ le 2 i, opno := n } s u) ∧
    (Heard cmdRetillCommit c .device s → s.stw.retill = none → Answers (.retillCommit c) 0x0F02 c { status := .notPermitted } s u) ∧
    (Heard cmdRetillAbort c .device s → s.stw.retill = some n → loading s = false → commitOp s = none →
      Answers (.retillAbort c) 0x0F03 c {} s (closeRecord n .cancelled (dropRetill u))) ∧
    (Heard cmdLedgerState c .device s → Answers (.ledgerState c) 0x0F04 c (answerOf cmdLedgerState c (actLedger c 0 s)) s u)

/-- R360, R459 to R461, R519: FW_STAGE takes a first chunk into the slot not running under a Ledger record, and verifies the image at its
last chunk; FW_ACTIVATE opens its record, marks its point of no return at its turn, and at the next writes the selection record of a
verified image; OP_CANCEL asks an operation in flight to stop, and OP_PROGRESS tells how far it is. R462: SYS_RESET at fabric level begins
the fabric reset, and its response follows it; at Steward level the response is written, then the Steward is reset; at full level, from a
local queue, the part resets without a response. -/
def Obligations.FirmwareOperationAndResetCommands : Prop :=
  (∀ (c : Call) (n len : Nat) (i : Bytes) (q : Img) (s u w : State), u = taken c s → q = fit 48 c.params →
     w = openRecord 0x0F05 c (c.queue == 3) u →
     (Heard cmdFwStage c .device s → s.fw.activating = false → u32 q 0 = 0 → u32 q 4 = 0 → len = u32 q 8 → 0 < len → len ≤ 1048576 →
       s.fw.staging = none → openCount s.stw.ledger < 16 → flag q 12 0 = false → c.bulk.length % 8 = 0 → c.bulk.length ≤ len → n = s.stw.nextOpno →
       ∃ v, Answers (.fwStage c) 0x0F05 c { inline := stageResult n len 0, opno := n } s v ∧
         v = { writeImage (1 - s.fw.running) c.bulk w with fw := { s.fw with staging := some (n, len, c.bulk), verified := false } }) ∧
     (Heard cmdFwStage c .device s → s.fw.activating = false → s.fw.staging = some (n, len, i) → u32 q 0 = n → n ≠ 0 →
       u32 q 4 = i.length → u32 q 8 = 0 → flag q 12 0 = true → i.length + c.bulk.length = len →
       ∃ f v, Answers (.fwStage c) 0x0F05 c f s v ∧ f.opno = n ∧ v.fw.staging = none ∧
         (if imageOk (i ++ c.bulk) s = true then
            f.status = .ok ∧ f.inline = stageResult n len 1 ∧ v.fw.verified = true ∧ imageSlot (1 - s.fw.running) v = i ++ c.bulk
          else f.status = .notPermitted ∧ f.inline = stageResult n len 2 ∧ v.fw.verified = false)) ∧
     (Heard cmdFwActivate c .device s → openCount s.stw.ledger < 16 →
       Starts (.fwActivate c) 0x0F06 c (.journal (refOf .device s)) s.stw.nextOpno s (openRecord 0x0F06 c false u)) ∧
     (∀ o, HasTurn o s → Inv s → o = { opcode := 0x0F06, call := c, body := .journal (refOf .device s), opno := o.opno, interim := o.interim
                                       steps := o.steps, progress := o.progress } →
       c.atomic = false → c.staged = false → o.opno ≠ 0 → s.hold.bootPhase ≠ 5 → flag q 0 1 = false → flag q 0 2 = false →
       s.fw.verified = true →
       (beyondPonr o s = false →
         ∃ t, exec .stewardStep s = .next t ∧ t.fixed = s.fixed ∧ t.fw = s.fw ∧
           (∀ r ∈ s.stw.ledger, r.opno = o.opno → r.state = 0 → ∃ r' ∈ t.stw.ledger, r'.opno = o.opno ∧ r'.state = 1)) ∧
       (beyondPonr o s = true →
       ∃ t v, exec .stewardStep s = .next t ∧ Done o { inline := le 1 (1 - s.fw.running), opno := o.opno } v t ∧
         v = { s with fixed := v.fixed, fw := v.fw } ∧ v.fixed.selSlot = 1 - s.fw.running ∧ v.fixed.selTrial = flag q 0 0 ∧ v.fixed.selTried = false ∧ v.fw.activating = true ∧
         v.fw.verified = false)) ∧
     (Heard cmdOpCancel c .device s → namedOp c s = none → Answers (.opCancel c) 0x0F07 c { status := .stale } s u) ∧
     (∀ o, Heard cmdOpCancel c .device s → namedOp c s = some o → beyondPonr o s = false →
       Answers (.opCancel c) 0x0F07 c {} s { u with stw.ops := s.stw.ops.map (fun x => if x = o then { o with cancel := true } else x) }) ∧
     (∀ o, Heard cmdOpProgress c .device s → namedOp c s = some o →
       Answers (.opProgress c) 0x0F08 c { inline := le 2 o.progress ++ fit 2 [] ++ le 4 o.opno ++ le 2 o.steps } s u)) ∧
  (∀ (c : Call) (s u : State), u = taken c s →
     (Heard cmdSysResetFabric c .device s → c.queue ≠ 3 → s.harrow.inReset = false →
       Starts (.sysResetFabric c) 0x0F09 c .fabricReset 0 s (beginFabricReset u)) ∧
     (Heard cmdSysResetSteward c .device s →
       ∃ t, Reports 0x0F09 c {} u t ∧ exec (.sysResetSteward c) s = .next (stewardReset 6 t)) ∧
     (Heard cmdSysResetFull c .device s → c.queue ≠ 3 → exec (.sysResetFull c) s = .next (fullReset 7 u)))

/-! ### The Steward and the Field -/

/-- R17, R34, R325, R344, R358, R367: a Steward that does not run, or whose port to the Harrow is full, makes no step; a lane that waits
for the spare comes first; then an urgent command of MQ1: its step is what the row of the command does, its slot freed; then, in rotation,
the item whose turn it is, if it has something to do; an operation done, cancelled since or not, closes its record and is answered. -/
def Obligations.StewardTakesTheNextStep : Prop :=
  ∀ (i : Instr) (k : Cmd) (c : Call) (n : Nat) (rest : List Nat) (s : State),
    (stewardRuns s = false → exec .stewardStep s = .next s) ∧
    (stewardWaits s = true → exec .stewardStep s = .next s) ∧
    (stewardWaits s = (s.harrow.stalled.contains .steward && decide (4 ≤ s.harrow.stewFifo))) ∧
    (stewardRuns s = true → s.harrow.stalled.contains .steward = false → s.harrow.laneWait = n :: rest →
      (spareFree s = true →
        exec .stewardStep s = .next { s with harrow := { s.harrow with
          lanes := insertNat 4 s.harrow.lanes, laneWait := s.harrow.laneWait.filter (· != n) } }) ∧
      (spareFree s = false →
        ∃ t, exec .stewardStep s = .next t ∧
          t.harrow = { s.harrow with laneWait := s.harrow.laneWait.filter (· != n) } ∧
          t.ev.pending.getLsbD 63 = true ∧ Logged 63 2 noObject t)) ∧
    (stewardRuns s = true → stewardWaits s = false → s.harrow.laneWait = [] → queueReady 1 s = true → c = parseSlot 1 (headSlot 1 s) s →
      mailboxCmd i = some (k, c) → cmdOf (u16 (headSlot 1 s) 0) c = some k →
      ∃ t, exec i (advanceHead 1 s) = .next t ∧ exec .stewardStep s = .next (enterConfig t)) ∧
    (∀ o f, HasTurn o s → o.body = .closing f → f.status ≠ .partial_ → o.from_ = none → o.inner = false → o.mute = false → o.opno ≠ 0 →
      ∃ t, exec .stewardStep s = .next t ∧ Ends o f (closeRecord o.opno f.status s) t) ∧
    (stewardRuns s = true → stewardWaits s = false → s.harrow.laneWait = [] → queueReady 1 s = false → (levelOps true s).find? (runnable s) = none →
      s.stw.turn < 5 + (levelOps false s).length →
      (s.stw.turn = 1 → queueReady 0 s = true → c = parseSlot 0 (headSlot 0 s) s → mailboxCmd i = some (k, c) →
        cmdOf (u16 (headSlot 0 s) 0) c = some k →
        ∃ t, exec i (advanceHead 0 s) = .next t ∧ exec .stewardStep s = .next (enterConfig { t with stw := { t.stw with turn := 2 } })) ∧
      (s.stw.turn = 2 → queueReady 2 s = true → c = parseSlot 2 (headSlot 2 s) s → mailboxCmd i = some (k, c) →
        cmdOf (u16 (headSlot 2 s) 0) c = some k →
        ∃ t, exec i (advanceHead 2 s) = .next t ∧ exec .stewardStep s = .next (enterConfig { t with stw := { t.stw with turn := 3 } })))

/-- R54, R55, R354, R369 to R371: a whole forward new to a Member is put into MQ3 when a slot is free, and a segment is kept; one that
waits already changes nothing; a repeated one is answered again from the answers kept, or with an interim answer while its command is in
flight; an answer nothing waits for is counted as stale; an interim one changes nothing, a whole one ends the wait of its walk; the
forward of a waiting sub-walk is repeated, and after the remote timeout its plot is unreachable with outcome unknown. -/
def Obligations.MailboxTrafficOfMembers : Prop :=
  ∀ (m : Forward) (a : Stored) (x : Answer) (o : Op) (w : Walk) (d ref q tag : Nat) (s u v : State),
    s.stw.up = true → u = takeControl 3 s → v = takeControl 4 s →
    (s.field.join ≠ 2 → exec (.mailboxForward m) s = .next u) ∧
    (s.field.join = 2 →
      s.stw.answers.find? (fun y => y.dev == m.dev && y.queue == m.queue && y.tag == m.tag && y.gen == m.gen && y.sub == m.sub) = some a →
      exec (.mailboxForward m) s = .next (sendAnswer m.dev a.answer u)) ∧
    (s.field.join = 2 →
      s.stw.answers.find? (fun y => y.dev == m.dev && y.queue == m.queue && y.tag == m.tag && y.gen == m.gen && y.sub == m.sub) = none →
      (forwardOp m s = some o → exec (.mailboxForward m) s = .next (sendAnswer m.dev (interimAnswer m o u) u)) ∧
      (forwardOp m s = none → s.stw.mq3.any (sameForward m) = true → exec (.mailboxForward m) s = .next u) ∧
      (forwardOp m s = none → s.stw.mq3.any (sameForward m) = false → s.stw.segments.filter (sameForward m) = [] → m.off = 0 →
        (m.more = true → exec (.mailboxForward m) s = .next { u with stw := { u.stw with segments := s.stw.segments ++ [m] } }) ∧
        (m.more = false → ((queueOf 3 s).cmdTail + 32 - (queueOf 3 s).cmdHead) % 32 < 16 →
          ∃ t, exec (.mailboxForward m) s = .next t ∧ t.stw = { u.stw with mq3 := s.stw.mq3 ++ [m] } ∧
            queueOf 3 t = { queueOf 3 s with cmdTail := ((queueOf 3 s).cmdTail + 1) % 32 } ∧
            (∀ j, j ≠ 3 → queueOf j t = queueOf j s) ∧ t.bank = s.bank) ∧
        (m.more = false → 16 ≤ ((queueOf 3 s).cmdTail + 32 - (queueOf 3 s).cmdHead) % 32 → exec (.mailboxForward m) s = .next u))) ∧
    (awaiting x s = none →
      exec (.mailboxAnswer x) s = .next (raise 3 x.tag { v with stw := { v.stw with staleCount := s.stw.staleCount + 1 } })) ∧
    (awaiting x s = some (o, w, ref) →
      (x.interim = true → exec (.mailboxAnswer x) s = .next v) ∧
      (x.interim = false → s.stw.answerSegs.filter (sameAnswer x) = [] → x.off = 0 →
        (x.more = true → exec (.mailboxAnswer x) s = .next { v with stw := { v.stw with answerSegs := s.stw.answerSegs ++ [x] } }) ∧
        (x.more = false →
          exec (.mailboxAnswer x) s = .next (putOp o { o with body := .walk (joinAnswer o w ref x.slot x.data) } v) ∧
          (joinAnswer o w ref x.slot x.data).await = none ∧ (joinAnswer o w ref x.slot x.data).given = statusOf (u8 x.slot 4) ∧
          (joinAnswer o w ref x.slot x.data).todo = w.todo))) ∧
    (waitingOp q tag s = some o → o.body = .walk w → w.await = some (d, ref) →
      (∃ t, exec (.forwardRepeat q tag) s = .next t ∧
        t = sendForward d o.opcode o.call (walkToken o.call o.from_ s) (w.subs - 1) (forwardHops w ref) s ∧
        t = { s with drill := { s.drill with ports := t.drill.ports }, field := { s.field with txSeq := t.field.txSeq } }) ∧
      (∃ w', exec (.remoteTimeout q tag) s = .next (putOp o { o with body := .walk w' } s) ∧
        w'.await = none ∧ w'.given = .remoteUnreachable ∧ w'.seen = (ref, .remoteUnreachable) :: w.seen ∧ w'.todo = w.todo ∧
        w'.entries = w.entries ++ [{ plot := ref, status := .remoteUnreachable, unknown := true }])) ∧
    (waitingOp q tag s = none → exec (.forwardRepeat q tag) s = .next s ∧ exec (.remoteTimeout q tag) s = .next s)

/-- R63 to R67, R364, R365, R372: a member answers Prepare with Ready while it holds the token staged and Not ready otherwise; Commit sets
its flip to the commit time; Abort discards what is staged and is acknowledged; the holder commits when the last member is ready, at its
clock plus the commit lead, unless it has been cancelled, in which case it ends cancelled, and repeats the decision to a member until it
is acknowledged; the prepare hold time discards what is staged without a decision and gives up a decision not acknowledged; a flip that is
due with the pace met puts the sown bank in force, and one that is not due changes nothing. -/
def Obligations.AtomicCommandsAcrossTheField : Prop :=
  ∀ (m : AtomicMsg) (o : Op) (w w1 : Walk) (k : Cmd) (n : Nat) (s u : State), s.stw.up = true → u = takeControl 5 s →
    w1 = { w with ready := insertNat m.sender w.ready } →
    (stagedHere m s = true →
      (∃ t, exec (.atomicPrepare m) s = .next t ∧ Sends m.sender 5 (atomicBody { m with kind := 4, tc := 0, status := 0 } s) u t) ∧
      (∃ t, exec (.atomicCommit m) s = .next t ∧
        t = { u with stw := { u.stw with staged := some m, tc := some m.tc, flip := some m.tc }
                     power := { s.power with slots := t.power.slots, bandwidth := t.power.bandwidth, preq := t.power.preq } } ∧
        t.power.slots = max (demandOf s.bank s).1 (demandOf s.sown s).1 ∧
        t.power.bandwidth = max (demandOf s.bank s).2 (demandOf s.sown s).2 ∧ t.power.preq = requiredPace t) ∧
      (∃ t, exec (.atomicAbort m) s = .next t ∧ t.sown = {} ∧ t.stw.staged = none ∧ t.stw.tc = none ∧ t.stw.flip = none ∧
        t.bank = s.bank ∧ t.stw.ops = s.stw.ops)) ∧
    (stagedHere m s = false →
      (∃ t, exec (.atomicPrepare m) s = .next t ∧
        Sends m.sender 5 (atomicBody { m with kind := 5, tc := 0, status := Status.abandoned.code } s) u t) ∧
      (∃ t, exec (.atomicAbort m) s = .next t ∧ Sends m.sender 5 (atomicBody { m with kind := 7, tc := 0, status := 0 } s) u t) ∧
      (s.stw.committed.any (sameToken m) = false → exec (.atomicCommit m) s = .next u) ∧
      (s.stw.committed.any (sameToken m) = true →
        ∃ t, exec (.atomicCommit m) s = .next t ∧ Sends m.sender 5 (atomicBody { m with kind := 6, tc := 0, status := 0 } s) u t)) ∧
    (readyOp m s = none →
      exec (.atomicReady m) s = .next (raise 3 m.tokTag { u with stw := { u.stw with staleCount := s.stw.staleCount + 1 } })) ∧
    (readyOp m s = some (o, w) → m.kind = 4 →
      (w.members.all w1.ready.contains = false ∨ o.cancel = true →
        exec (.atomicReady m) s = .next (putOp o { o with body := .atomicReady w1 } u)) ∧
      (w.members.all w1.ready.contains = true → o.cancel = false →
        ∃ t, exec (.atomicReady m) s = .next t ∧
          t.stw.flip = (if w.busy then s.stw.flip else some (nowNs s + commitLead s)) ∧
          t.stw.ops = s.stw.ops.map (fun y => if y = o then { o with body := if w.busy then .atomicDone w1 else .atomicFlip w1 } else y) ∧
          t.stw.decisions = s.stw.decisions ++ (if w.members = [] then []
            else [({ tokenMsg 2 o.call o.from_ s with tc := stampOf (nowNs s + commitLead s) }, w.members)]))) ∧
    (readyOp m s = some (o, w) → m.kind ≠ 4 → bankCmd o.opcode o.call = some k →
      exec (.atomicReady m) s = .next (abortHeld k o (memberEntry m.sender (statusOf m.status) true w)
        (if o.cancel then .cancelled else statusOf m.status) u)) ∧
    (awaited m s = true → exec (.commitDone m) s = .next (acknowledge m u)) ∧
    (awaited m s = false →
      exec (.commitDone m) s = .next (raise 3 m.tokTag { u with stw := { u.stw with staleCount := s.stw.staleCount + 1 } })) ∧
    (∃ t, exec (.commitRepeat n) s = .next t ∧
      t = { s with drill := { s.drill with ports := t.drill.ports }, field := { s.field with txSeq := t.field.txSeq } } ∧
      (s.stw.decisions = [(m, [n])] → Sends n 5 (atomicBody m s) s t)) ∧
    (s.stw.staged.isSome = true → s.stw.tc = none →
      ∃ t, exec .prepareHoldExpiry s = .next t ∧ t.sown = {} ∧ t.stw.staged = none ∧ t.stw.flip = none ∧ t.bank = s.bank) ∧
    (s.stw.staged = none → waitingReady s = some (o, w) → bankCmd o.opcode o.call = some k →
      exec .prepareHoldExpiry s = .next (abortHeld k o ((w.members.filter (fun d => !w.ready.contains d)).foldl
        (fun w d => memberEntry d .remoteUnreachable true w) w) (if o.cancel then .cancelled else .remoteUnreachable) s)) ∧
    (s.stw.staged = none → waitingReady s = none → s.stw.decisions = [] → exec .prepareHoldExpiry s = .next s) ∧
    (∀ l rest, s.stw.staged = none → waitingReady s = none → s.stw.decisions = (m, l) :: rest →
      ∃ t, exec .prepareHoldExpiry s = .next t ∧ t = { s with stw := { s.stw with decisions := rest, ops := t.stw.ops } } ∧
        (m.kind ≠ 2 → t.stw.ops = s.stw.ops)) ∧
    (flipDue s = false → exec .flipInstant s = .next s) ∧
    (flipDue s = true →
      ∃ t, exec .flipInstant s = .next t ∧ t.sown = {} ∧ t.stw.flip = none ∧ t.bank.bind = s.sown.bind ∧
        t.bank.routes = s.sown.routes ∧ t.bank.rules = s.sown.rules ∧ t.bank.teams = s.sown.teams ∧ t.bank.can = s.sown.can ∧
        (∀ r, (tgetD r {} t.bank.lsets).cur = (tgetD r {} s.sown.lsets).cur) ∧
        (s.stw.committing = false → s.stw.staged = none → flipOp s = none → t.stw = { s.stw with flip := none }))

/-- R69 to R74, R219, R385, R386: a hail of this Field under another ID, on a hail port, enters the roster; under this device's own ID the
lower serial keeps it and the other device enters Conflict with event 23; a leave hail takes its sender out; a silent member stays in the
roster as unreachable; three quiet hail intervals make a Joining device a Member under the lowest free ID, or with none free end in
Conflict. -/
def Obligations.FieldMembership : Prop :=
  ∀ (h : HailMsg) (d : Nat) (m x : Member) (s u v : State), u = takeControl 1 s → v = takeControl 2 s →
    x = { serial := h.serial, reachable := true, roster := h.roster, port := h.port, addr := h.addr, joining := h.join = 0 } →
    ((hailPorts s).contains h.port = false ∨ s.field.join = 0 ∨ s.field.join = 3 ∨ h.fieldId ≠ s.field.id →
      exec (.hail h) s = .next u) ∧
    ((hailPorts s).contains h.port = true → (s.field.join = 1 ∨ s.field.join = 2) → h.fieldId = s.field.id → h.join < 2 → h.src ≤ 63 →
      h.serial ≠ s.fixed.serial →
      (h.src ≠ s.field.dev → tget h.src s.field.roster = none → tget h.src s.field.gone = none →
        exec (.hail h) s = .next { u with field := { s.field with
          gone := tdel h.src s.field.gone, roster := tset h.src x s.field.roster
          rosterVer := (s.field.rosterVer + 1) % 4294967296 } }) ∧
      (h.src ≠ s.field.dev → knownSerial h.src s = some h.serial →
        exec (.hail h) s = .next (putRoster h.src x { u with field := { s.field with gone := tdel h.src s.field.gone } })) ∧
      (∀ y, h.src ≠ s.field.dev → knownSerial h.src s = some y → y ≠ h.serial →
        ∃ t, exec (.hail h) s = .next t ∧ tget h.src t.field.roster = some x ∧ (∀ n, tget n t.stile.sems ≠ some (.member h.src)) ∧
          tget h.src t.field.rx = none) ∧
      (h.src = s.field.dev → s.fixed.serial < h.serial → exec (.hail h) s = .next u) ∧
      (h.src = s.field.dev → h.serial < s.fixed.serial →
        ∃ t, exec (.hail h) s = .next t ∧ t.field.join = 3 ∧ t.field.reason = (if 63 ≤ s.field.roster.length then 2 else 1) ∧
          t.field.roster = s.field.roster ∧ t.ev.pending.getLsbD 23 = true ∧ (s.stw.ops = [] → Logged 23 0 conflictObject t))) ∧
    ((hailPorts s).contains h.port = true → tget h.src s.field.roster = some m → m.serial = h.serial → h.fieldId = s.field.id →
      ∃ t, exec (.leaveHail h) s = .next t ∧ tget h.src t.field.roster = none ∧ tget h.src t.field.gone = some m.serial ∧
        (∀ k, k ≠ h.src → tget k t.field.roster = tget k s.field.roster) ∧ t.field.join = s.field.join) ∧
    (tget h.src s.field.roster = none → exec (.leaveHail h) s = .next v) ∧
    (s.field.join = 0 ∨ s.field.join = 3 → exec .hailInterval s = .next s) ∧
    ((s.field.join = 1 ∨ s.field.join = 2) →
      ∃ t, exec .hailInterval s = .next t ∧ nextSeq 255 1 t = (nextSeq 255 1 s + 1) % 4294967296 ∧
        t = { s with drill := { s.drill with ports := t.drill.ports }, field := { s.field with txSeq := t.field.txSeq } } ∧
        (∀ p, mapBit s.field.settings 4 p = false → tgetD p [] t.drill.ports = tgetD p [] s.drill.ports) ∧
        (∀ p, p < 10 → mapBit s.field.settings 4 p = true →
          ∃ c, c ∈ tgetD p [] t.drill.ports ∧ c.due = true ∧ c.out.drop 34 = controlMessage 1 (hailBody s))) ∧
    (s.field.join ≠ 1 → exec .joiningComplete s = .next s) ∧
    (s.field.join = 1 →
      (s.field.dev ≠ 255 → exec .joiningComplete s = .next (becomeMember s.field.dev s)) ∧
      (s.field.dev = 255 → d < 64 → tget d s.field.roster = none → (∀ k, k < d → (tget k s.field.roster).isSome = true) →
        exec .joiningComplete s = .next (becomeMember d s)) ∧
      (s.stw.ops = [] → becomeMember d s = { s with field := { s.field with
        join := 2, dev := d, reason := 0, rosterVer := (s.field.rosterVer + 1) % 4294967296 } }) ∧
      (s.field.dev = 255 → (∀ k, k < 64 → (tget k s.field.roster).isSome = true) →
        ∃ t, exec .joiningComplete s = .next t ∧ t.field.join = 3 ∧ t.field.reason = 2 ∧ t.ev.pending.getLsbD 23 = true)) ∧
    (tget d s.field.roster = some m →
      ∃ t, exec (.memberUnreachable d) s = .next t ∧ tget d t.field.roster = some { m with reachable := false } ∧
        (∀ k, k ≠ d → tget k t.field.roster = tget k s.field.roster) ∧ (∀ n, tget n t.stile.sems ≠ some (.member d))) ∧
    (tget d s.field.roster = none → exec (.memberUnreachable d) s = .next s)

/-! ### Sleep agreement -/

/-- R553 to R555: in Needed a node on CAN says keep-alive every T_ka; T_sleep without one takes Ready to Prepare-sleep; T_prep queues the
confirmation; once it is on the medium the network is in Bus-sleep with event 57 detail 0, and without it with detail 3; a held wake
request is released as the wake message with event 57 detail 2, which counts as a network woken (R32, R548), and 5 ms later the network is
Needed or Ready; the end of a traffic need takes Needed without another need to Ready. No other network changes. -/
def Obligations.NetworkTimers : Prop :=
  ∀ (net : Nat) (v : Nm) (s : State), v = netOf net s →
    (nmMode v = 1 → v.state = 1 → ∃ t, exec (.tKa net) s = .next t ∧ SaysNm net 1 255 false 255 s t) ∧
    (nmMode v = 1 → v.state = 2 → exec (.tSleep net) s = .next (setNet net { v with state := 3 } s)) ∧
    (v.state = 3 → v.confQueued = false →
      ∃ t, SaysNm net 2 255 false 255 s t ∧ exec (.tPrep net) s = .next (setNet net { v with confQueued := true } t)) ∧
    (v.state = 3 → v.confQueued = true →
      (∃ t, exec (.pointOfNoReturn net) s = .next t ∧
        netOf net t = { v with state := 4, confQueued := false, wakeHeld := false, ownNeed := false, token := false } ∧
        (∀ k, k ≠ net → netOf k t = netOf k s) ∧ t.power = { s.power with nets := t.power.nets } ∧ t.drill = s.drill ∧
        t.ev.pending.getLsbD 57 = true ∧ Logged 57 0 net t) ∧
      (∃ t, exec (.confirmationNotSent net) s = .next t ∧
        netOf net t = { v with state := 4, confQueued := false, wakeHeld := false, ownNeed := false, token := false } ∧
        (∀ k, k ≠ net → netOf k t = netOf k s) ∧ t.power = { s.power with nets := t.power.nets } ∧
        (∀ r, r ∉ rowsOf s.bank 0 net → tgetD r [] t.drill.rows = tgetD r [] s.drill.rows) ∧
        t.ev.pending.getLsbD 57 = true ∧ Logged 57 3 net t)) ∧
    (v.state = 4 → v.wakeHeld = true →
      ∃ t, exec (.tMinSleep net) s = .next t ∧ netOf net t = { v with state := 5, wakeHeld := false, waking := true } ∧
        (∀ k, k ≠ net → netOf k t = netOf k s) ∧ t.power.netWoken = true ∧ .nm net 3 255 false 255 ∈ t.wire ∧
        (nmMode v = 2 → .nm net 6 255 false 255 ∈ t.wire) ∧ t.ev.pending.getLsbD 57 = true ∧ Logged 57 2 net t) ∧
    (v.state = 5 →
      ((v.need || v.traffic) = true → nmMode v = 1 →
        ∃ t, exec (.waking5Ms net) s = .next t ∧
          SaysNm net 1 255 false 255 (setNet net { v with waking := false, state := 1, ownNeed := false } s) t) ∧
      ((v.need || v.traffic) = true → nmMode v ≠ 1 →
        exec (.waking5Ms net) s = .next (setNet net { v with waking := false, state := 1, ownNeed := false } s)) ∧
      ((v.need || v.traffic) = false →
        exec (.waking5Ms net) s = .next (setNet net { v with waking := false, state := 2, ownNeed := false } s))) ∧
    exec (.needEnds net) s = .next (setNet net
      { v with traffic := false, state := if v.state = 1 ∧ v.need = false ∧ v.waking = false then 2 else v.state } s)

/-- R547, R550, R553, R554: a node's own message does nothing. Another node's keep-alive or wake message before the point of no return
vetoes the sleep with event 57 detail 1, and in Bus-sleep is held as a wake request or abandons an armed Fallow entry; confirmations and
Alive only note the node heard. On a ring the token goes to its destination, which passes it on with its consent; a run of consents that
returns sends the indication, and one that returns the Prepare-sleep announcement; a node that needs the bus vetoes and keeps the token; a
veto takes the ring back to operation; the lowest-addressed node issues a new token after the timeout. -/
def Obligations.NetworkMessages : Prop :=
  ∀ (net : Nat) (m : NmMsg) (v w : Nm) (s : State), v = netOf net s → w = { v with ring := tset m.source s.power.upNs v.ring } →
    (nmMode v ≠ 0 → m.source = nmAddr v →
      exec (.keepAlive net m) s = .next s ∧ exec (.wakeMessage net m) s = .next s ∧ exec (.sleepConfirmation net m) s = .next s ∧
      exec (.token net m) s = .next s ∧ exec (.sleepIndication net m) s = .next s ∧ exec (.alive net m) s = .next s ∧
      exec (.veto net m) s = .next s ∧ exec (.prepareSleepAnnouncement net m) s = .next s) ∧
    (∀ (u : State) (x : Nm), nmMode v = 1 → m.source ≠ nmAddr v → u = qualify s → x = netOf net u → nmMode x = 1 →
      (x.state ≠ 3 → x.state ≠ 4 → exec (.keepAlive net m) s = .next u ∧ exec (.wakeMessage net m) s = .next u) ∧
      (x.state = 3 →
        ∃ t, exec (.keepAlive net m) s = .next t ∧ exec (.wakeMessage net m) s = .next t ∧
          netOf net t = { x with state := 2, confQueued := false } ∧ (∀ k, k ≠ net → netOf k t = netOf k u) ∧
          t.ev.pending.getLsbD 57 = true ∧ t.power.entering = none ∧ (u.power.entering = none → Logged 57 1 net t)) ∧
      (x.state = 4 → u.power.armedFor = none →
        exec (.keepAlive net m) s = .next (setNet net { x with wakeHeld := true } u) ∧
        exec (.wakeMessage net m) s = .next (setNet net { x with wakeHeld := true } u)) ∧
      (x.state = 4 → u.power.armedFor.isSome = true →
        exec (.keepAlive net m) s = .next (abandonEntry (netSource net) 255 255 (setNet net { x with wakeHeld := true } u)) ∧
        exec (.wakeMessage net m) s = .next (abandonEntry (netSource net) 255 255 (setNet net { x with wakeHeld := true } u)))) ∧
    (nmMode v = 1 → exec (.sleepConfirmation net m) s = .next s) ∧
    (nmMode v = 2 → m.source ≠ nmAddr v →
      exec (.sleepConfirmation net m) s = .next (setNet net w s) ∧ exec (.alive net m) s = .next (setNet net w s) ∧
      (v.state ≠ 4 → v.state ≠ 5 → nmNeeds v = false →
        exec (.prepareSleepAnnouncement net m) s = .next (setNet net { w with state := 3, token := false } s)) ∧
      (v.state ≠ 4 → v.state ≠ 5 → nmNeeds v = true →
        exec (.prepareSleepAnnouncement net m) s = .next (vetoHold net (setNet net w s)) ∧
        ∃ t, exec (.prepareSleepAnnouncement net m) s = .next t ∧
          netOf net t = { w with token := true, consent := false, runStart := 255, state := 1 } ∧
          .nm net 7 255 false 255 ∈ t.wire ∧ t.ev.pending.getLsbD 57 = true ∧ (s.power.entering = none → Logged 57 1 net t)) ∧
      (v.state = 3 ∨ v.state = 6 →
        ∃ t, exec (.veto net m) s = .next t ∧ (netOf net t).state = (if nmNeeds v then 1 else 2) ∧ (netOf net t).confQueued = false ∧
          t.ev.pending.getLsbD 57 = true ∧ (s.power.entering = none → Logged 57 1 net t)) ∧
      (v.state ≠ 3 → v.state ≠ 6 → exec (.veto net m) s = .next (setNet net w s))) ∧
    (∀ (y : State) (z k : Nm), nmMode v = 2 → m.source ≠ nmAddr v → v.state ≠ 4 → y = (if m.consent then s else qualify s) →
      z = netOf net y → nmMode z = 2 → k = { z with ring := tset m.source y.power.upNs z.ring } →
      (z.state ≠ 6 → m.dest ≠ nmAddr z → exec (.token net m) s = .next (setNet net k y)) ∧
      (z.state ≠ 6 → m.dest = nmAddr z →
        exec (.token net m) s = .next (setNet net
          { k with token := true, consent := m.consent, runStart := m.runStart, round := m.round } y)) ∧
      (z.state = 6 → m.dest = nmAddr z →
        exec (.token net m) s = .next (setNet net
          { k with token := true, consent := m.consent, runStart := m.runStart, round := m.round
                   state := if nmNeeds z then 1 else 2 } y)) ∧
      (m.dest ≠ nmAddr z → exec (.sleepIndication net m) s = .next (setNet net k y)) ∧
      (nmNeeds z = false → m.dest = nmAddr z → m.runStart ≠ nmAddr z →
        ∃ t, exec (.sleepIndication net m) s = .next t ∧
          SaysNm net 5 (successor k y.power.upNs) true m.runStart (setNet net { k with state := 6 } y) t) ∧
      (nmNeeds z = false → m.dest = nmAddr z → m.runStart = nmAddr z →
        ∃ t, SaysNm net 8 255 true (nmAddr z) (setNet net k y) t ∧
          exec (.sleepIndication net m) s = .next (setNet net { k with state := 3 } t)) ∧
      (nmNeeds z = true → m.dest = nmAddr z → exec (.sleepIndication net m) s = .next (vetoHold net (setNet net k y)))) ∧
    (∀ n : Nat, nmMode v = 2 → v.state ≠ 4 → v.token = true → n = (if lowest v s.power.upNs then (v.round + 1) % 256 else v.round) →
      (nmNeeds v = true ∨ v.wakeHeld = true →
        ∃ t, exec (.tokenHold net) s = .next t ∧ SaysNm net 4 (successor v s.power.upNs) false 255
          (setNet net { v with token := false, wakeHeld := false, round := n } s) t) ∧
      (nmNeeds v = false → v.wakeHeld = false → v.consent = false →
        ∃ t, exec (.tokenHold net) s = .next t ∧
          SaysNm net 4 (successor v s.power.upNs) true (nmAddr v) (setNet net { v with token := false, round := n } s) t) ∧
      (nmNeeds v = false → v.wakeHeld = false → v.consent = true → v.runStart ≠ nmAddr v →
        ∃ t, exec (.tokenHold net) s = .next t ∧
          SaysNm net 4 (successor v s.power.upNs) true v.runStart (setNet net { v with token := false, round := n } s) t) ∧
      (nmNeeds v = false → v.wakeHeld = false → v.consent = true → v.runStart = nmAddr v →
        ∃ t, exec (.tokenHold net) s = .next t ∧
          SaysNm net 5 (successor v s.power.upNs) true (nmAddr v) (setNet net { v with token := false, state := 6 } s) t)) ∧
    (nmMode v = 2 → v.state ≠ 4 →
      (lowest v s.power.upNs = true →
        ∃ t, exec (.tokenTimeout net) s = .next t ∧ SaysNm net 4 (successor v s.power.upNs) false 255
          (setNet net { v with token := false, round := (v.round + 1) % 256 } s) t) ∧
      (lowest v s.power.upNs = false → exec (.tokenTimeout net) s = .next s))

/-! ### Fallow, start and resets -/

/-- R440, R540 to R546: from Fallow-watch and Fallow-retain the first source that qualifies goes into HOLD_CAUSE with the state left and
starts the part, its reset kind as it was; from Fallow-deep it starts with a clearing reset of kind 1; from Fallow-listen, woken by a
pattern of its port, forwarding resumes at once with event 56; a source that is not enabled there wakes nothing. Between arming and the
state being reached a source abandons the entry. -/
def Obligations.WakeSourcesStartThePart : Prop :=
  ∀ (n ch f : Nat) (up : Bool) (x : WakeFrame) (d : Bytes) (s : State) (w : Nat → Nat → Nat → State),
    s.power.armedFor = none →
    (∀ src ch f, w src ch f = { s with
      hold := { s.hold with fallowLeft := s.power.state.code, firstWake := src, wakeSeen := BitVec.ofNat 7 (2 ^ (src - 1)) }
      power := { s.power with
        state := .starting, startKind := 4, firstWake := src, seen := BitVec.ofNat 7 (2 ^ (src - 1)), wakeChannel := ch, wakeFilter := f
        wakeInstant := s.power.coarse / 1000000 % 4294967296, wakeCoarse := s.power.coarse } }) →
    ((s.power.state = .watch ∨ s.power.state = .retain) →
      (fld (wakeCfg s) 1 (2 * n) 2 = (if up then 0 else 1) ∨ fld (wakeCfg s) 1 (2 * n) 2 = 2 →
        wakesFrom s.power.state (n + 1) s = true → exec (.wakePin n up) s = .next (w (n + 1) 255 255)) ∧
      (wakesFrom s.power.state 4 s = true → exec .canWakeUpPattern s = .next (w 4 255 255)) ∧
      (wakesFrom s.power.state 6 s = true → exec .wakeTimer s = .next (w 6 255 255)) ∧
      (wakesFrom s.power.state 4 s = false → exec .canWakeUpPattern s = .next s)) ∧
    (s.power.state = .watch → (namedChannels (wakeCfg s)).contains ch = true → x.fd = false → wakesFrom .watch 3 s = true →
      (x.error = true → tgetD ch 0 s.power.decodeErr = 31 →
        ∃ t, exec (.canSelectiveWake ch x) s = .next t ∧
          t = { w 3 ch 255 with power := { (w 3 ch 255).power with decodeErr := tset ch 32 s.power.decodeErr } }) ∧
      (x.error = true → tgetD ch 0 s.power.decodeErr ≠ 31 →
        exec (.canSelectiveWake ch x) s =
          .next { s with power := { s.power with decodeErr := tset ch (tgetD ch 0 s.power.decodeErr + 1) s.power.decodeErr } }) ∧
      (x.error = false → firstBelow 8 (fun i => filterHit (wakeFilter (wakeCfg s) ch i) x) = some f →
        ∃ t, exec (.canSelectiveWake ch x) s = .next t ∧
          t = { w 3 ch f with power := { (w 3 ch f).power with decodeErr := tset ch (tgetD ch 0 s.power.decodeErr - 1) s.power.decodeErr } })) ∧
    (s.power.state = .deep → wakesFrom .deep 4 s = true →
      ∃ t, exec .canWakeUpPattern s = .next t ∧ t.power.state = .starting ∧ t.power.startKind = 2 ∧ t.hold.resetKind = 1 ∧
        t.hold.fallowLeft = 4 ∧ t.hold.firstWake = 4 ∧ t.power.firstWake = 4 ∧ t.bank = {} ∧ t.keys.slots = [] ∧ t.fixed = s.fixed) ∧
    (s.power.state = .listen → wakeHit d s = true → wakesFrom .listen 5 s = true →
      ∃ t, exec (.ethernetWakePattern d) s = .next t ∧ t.power.state = .growing ∧ t.power.vcore = 800 ∧ t.hold.fallowLeft = 1 ∧
        t.hold.firstWake = 5 ∧ t.power.watchWake = true ∧ t.power.left = .listen ∧ t.ev.pending.getLsbD 56 = true ∧
        t.bank = s.bank ∧ (s.alm.state = .locked → t.alm.state = .holdover))

/-- R32, R541, R547, R548: a source that qualifies after step 6 ends the entry and the part stays in Growing; a wake without qualifying
traffic is counted against its first source, which is suspended once it has woken the part falsely as often in an hour as the policy says
and another source remains, and the part goes back to the state it left when no network was woken in between; the back-off ends the
suspension; with every network asleep and nothing open the part enters the state its policy names by itself; the step that reaches a state
without the core loses the hardware tables and keeps the flash, the wrapped keys and the Ledger. -/
def Obligations.FallowEntries : Prop :=
  ∀ (src : Nat) (p : PowerState) (back : Bool) (s : State),
    (s.power.armedFor = some p → wakesFrom p 6 s = true → configuredNets s = [] →
      ∃ t, exec .wakeTimer s = .next t ∧ t.power.armedFor = none ∧ t.power.state = s.power.state ∧ t.power.halted = false ∧
        t.stw.notServing = false ∧ t.keys.wrapped = [] ∧ t.hold.resetKind = s.hold.resetKind ∧ t.hold.firstWake = s.hold.firstWake ∧
        t.power.firstWake = 6 ∧ t.ev.pending.getLsbD 56 = true) ∧
    (s.power.state = .growing → s.power.watchWake = true → src = s.power.firstWake →
      back = (!s.power.netWoken && !(configuredNets s).any (fun n => (netOf n s).wakeHeld) && !entryBusy s) →
      ∃ t, exec .falseWakeTimeout s = .next t ∧
        t = { s with power := { s.power with
          watchWake := false, falseWakes := tadd src 1 s.power.falseWakes, falseInstants := (s.power.coarse, src) :: s.power.falseInstants
          falseSince := s.power.falseSince ++ [src]
          suspended := if u8 (fallowPolicy s) 8 ≤ falseInHour src s + 1 ∧ maySuspend src s = true then insertNat src s.power.suspended
            else s.power.suspended
          entering := if back then some s.power.left else s.power.entering
          entryStep := if back then 2 else s.power.entryStep } }) ∧
    exec (.backoffEnd src) s = .next { s with power := { s.power with suspended := s.power.suspended.filter (· != src) } } ∧
    (autoReady s = true → p = targetState (u8 (fallowPolicy s) 1) → (p = .listen → listenUp s = true) → survivors p s ≠ [] →
      exec .automaticFallowEntry s = .next { s with power := { s.power with entering := some p, entryStep := 2 } }) ∧
    (autoReady s = false → exec .automaticFallowEntry s = .next s) ∧
    (s.power.armedFor = some p → p ≠ .listen → stewardRuns s = true → stewardWaits s = false → s.hold.bootPhase = 4 → s.harrow.laneWait = [] → s.stw.ops = [] →
      (∀ q, q < 4 → queueReady q s = false) → s.gran.migration = none → s.gran.queue = [] →
      ∃ t, exec .stewardStep s = .next t ∧ t.power.state = p ∧ t.power.left = p ∧ t.power.armedFor = none ∧ t.power.vcore = 0 ∧
        t.power.inh = false ∧ t.bank = {} ∧ t.harrow = {} ∧ t.drill = {} ∧ t.gran.cells = [] ∧ t.stw.up = false ∧
        t.hold.bootPhase = 0 ∧ t.keys.wrapped = s.keys.wrapped ∧ t.keys.slots = [] ∧ t.fixed = s.fixed ∧ t.stw.ledger = s.stw.ledger ∧
        t.field.session = (s.field.session + 1) % 65536)

/-- R535, R556 to R562, R568: the start sequence runs only from Starting with the supply up; the recovery strap leads to BOOT_PHASE 5; an
image that verifies is run, the standing bank is restored and the part is ready at BOOT_PHASE 4 with event 6, and with event 56 unless a
full reset began it; no image that verifies is BOOT_PHASE 15; after a wake that kept the Steward's memory the keys come back and events 6
and 56 are raised. -/
def Obligations.StartSequence : Prop :=
  ∀ (straps : Nat) (s : State),
    (s.power.state ≠ .starting ∨ s.power.buckLow = true → exec (.startSequence straps) s = .next s) ∧
    (s.power.state = .starting → s.power.buckLow = false →
      (straps % 4 / 2 = 1 →
        ∃ t, exec (.startSequence straps) s = .next t ∧ t.hold.straps = straps % 4 ∧ t.hold.bootPhase = 5 ∧ t.power.state = .growing ∧
          t.power.vcore = 800 ∧ t.bank = s.bank ∧ t.stw = s.stw) ∧
      (straps % 4 / 2 ≠ 1 → s.power.startKind ≠ 4 → s.power.startKind = 3 ∨ (s.power.nets = [] ∧ s.power.falseSince = []) →
        s.fixed.fieldImg = none → s.stw.ops = [] →
        if (bootSelect (latchStraps straps s)).1 = true then
          ∃ t, exec (.startSequence straps) s = .next t ∧ t.hold.bootPhase = 4 ∧ t.stw.up = true ∧ t.stw.notServing = false ∧
            t.power.state = .growing ∧ t.ev.pending.getLsbD 6 = true ∧ (s.power.startKind ≠ 3 → t.ev.pending.getLsbD 56 = true) ∧
            t.fixed.bootNumber = (s.fixed.bootNumber + 1) % 4294967296 ∧ t.bank.routes = (flashBank (markRetill s)).1.routes ∧
            t.bank.bind = (flashBank (markRetill s)).1.bind ∧
            (∀ n b, s.fixed.bankA = some (n, b) → (∃ r ∈ s.stw.flash, r.opcode = 0x0F01 ∧ r.state = 1 ∧ r.opno = n) →
              flashBank (markRetill s) = (b, false, false)) ∧
            t.sown = {} ∧ t.stw.retill = s.stw.retill
        else ∃ t, exec (.startSequence straps) s = .next t ∧ t.hold.bootPhase = 15 ∧ t.bank = s.bank ∧ t.stw = s.stw) ∧
      (straps % 4 / 2 ≠ 1 → s.power.startKind = 4 → s.power.firstWake ≤ 5 →
        ∃ t, exec (.startSequence straps) s = .next t ∧ t.hold.bootPhase = 4 ∧ t.stw.up = true ∧ t.power.state = .growing ∧
          t.ev.pending.getLsbD 6 = true ∧ t.ev.pending.getLsbD 56 = true ∧ t.bank.routes = (flashBank s).1.routes ∧
          t.keys.wrapped = [] ∧ tkeys t.keys.slots = tkeys s.keys.wrapped ∧ t.alm.i = s.power.keptI ∧ t.alm.firstLock = true ∧
          t.stw.ledger = s.stw.ledger))

/-- R322, R535, R567, R591: RESETn held low is a full reset of kind 2 that keeps flash and the Gate, and its release latches the straps
and starts the part; it is ignored while the core is off. The standby domain's power-on clears all but flash, with kind 0 and wake source
7; its loss turns the part off. A low regulator input holds the part in reset until it is back, whatever holds it besides. -/
def Obligations.SuppliesAndResetPin : Prop :=
  ∀ (n : Nat) (b : Bool) (s : State),
    (fallowOff s = true → exec (.resetn b n) s = .next s) ∧
    (fallowOff s = false →
      (∃ t, exec (.resetn true n) s = .next t ∧ t.hold.resetKind = 2 ∧ t.hold.bootPhase = 0 ∧ t.power.state = .held ∧
        t.power.resetHeld = true ∧ t.power.startKind = 3 ∧ t.bank = {} ∧ t.stw.up = false ∧ t.stw.ledger = [] ∧ t.keys.slots = [] ∧
        t.hold.gateOpened = s.hold.gateOpened ∧ t.power.wake = s.power.wake ∧ t.fixed = s.fixed ∧
        t.buses.pins.inputs = s.buses.pins.inputs ∧ t.ev.log = [] ∧ t.field.session = (s.field.session + 1) % 65536) ∧
      (s.power.resetHeld = false → exec (.resetn false n) s = .next s) ∧
      (s.power.resetHeld = true →
        ∃ t, exec (.resetn false n) s = .next t ∧ t.hold.straps = n % 4 ∧ t.power.resetHeld = false ∧
          t.power.state = (if s.power.buckLow then .held else .starting) ∧ t.bank = s.bank ∧ t.fixed = s.fixed ∧
          t.ev.route = (if n % 4 % 2 = 1 then BitVec.allOnes 64 else 0))) ∧
    (s.power.state ≠ .off → exec .vstbyPowerOn s = .next s) ∧
    (s.power.state = .off →
      ∃ t, exec .vstbyPowerOn s = .next t ∧ t.power.state = .starting ∧ t.power.startKind = 1 ∧ t.hold.resetKind = 0 ∧
        t.hold.fallowLeft = 0 ∧ t.hold.firstWake = 7 ∧ t.hold.wakeSeen = 0b1000000#7 ∧ t.hold.gateOpened = false ∧
        t.power.wake = [] ∧ t.keys = {} ∧ t.bank = {} ∧ t.fixed = s.fixed) ∧
    (∃ t, exec .vstbyLoss s = .next t ∧ t.power.state = .off ∧ t.power.inh = false ∧ t.power.vcore = 0 ∧ t.keys = {} ∧
      t.stw.up = false ∧ t.bank = {} ∧ t.fixed = s.fixed) ∧
    (fallowOff s = true → exec .buckVinLow s = .next { s with power := { s.power with buckLow := true, buckFell := true } }) ∧
    (fallowOff s = false →
      ∃ t, exec .buckVinLow s = .next t ∧ t.power.state = .held ∧ t.power.vcore = 0 ∧ t.power.buckLow = true ∧
        t.power.faultSeen60 = true ∧ t.stw.up = false ∧ t.bank = {} ∧ t.fixed = s.fixed) ∧
    (s.power.buckLow = true →
      exec .buckVinRestored s = .next { s with power := { s.power with
        buckLow := false, state := if s.power.state = .held ∧ s.power.resetHeld = false then .starting else s.power.state } }) ∧
    (s.power.buckLow = false → exec .buckVinRestored s = .next s)

/-- R33, R373, R563, R566, R577 to R579: a watchdog expiry or a lockstep miscompare holds the running Steward in reset with kind 8 or 9
and frees the firmware's semaphores, while hardware tables, tags, the Ledger and the commands in flight stay (a retirement not yet
recorded lapses); the restart with an image that verifies serves the queues again and raises event 62, with detail 3 the third time within
ten minutes. -/
def Obligations.StewardResets : Prop :=
  ∀ (i : Instr) (k : Nat) (s : State),
    (((i = .stewardWatchdog ∧ k = 8) ∨ (i = .lockstepMiscompare ∧ k = 9)) →
      (s.stw.up = true →
        ∃ t, exec i s = .next t ∧ t.hold.resetKind = k ∧ t.hold.bootPhase = 6 ∧ t.hold.fallowLeft = 0 ∧ t.hold.firstWake = 0 ∧
          t.stw = { s.stw with up := false, notServing := false, segments := [], answerSegs := [], inbox := []
                               watchdog := s.power.upNs :: s.stw.watchdog } ∧
          t.keys = { s.keys with nonce := none } ∧ t.bank = s.bank ∧ t.harrow = s.harrow ∧ t.drill = s.drill ∧ t.gran.queue = [] ∧
          t.gran.map = s.gran.map ∧ (s.stw.inbox = [] → s.gran.queue = [] → t.gran = s.gran) ∧
          t.alm = s.alm ∧ (∀ n, tget n t.stile.sems = some .firmware → False) ∧ t.power.state = s.power.state ∧ t.power.entering = none) ∧
      (s.stw.up = false → k = 8 → exec i s = .next s)) ∧
    (s.stw.up = false → s.hold.bootPhase = 5 →
      exec .lockstepMiscompare s =
        .next { s with hold := { s.hold with resetKind := 9, fallowLeft := 0, firstWake := 0, wakeSeen := 0 } }) ∧
    (s.hold.bootPhase ≠ 6 → exec .stewardRestartDone s = .next s) ∧
    (s.hold.bootPhase = 6 → s.stw.ops = [] →
      if (bootSelect s).1 = true then
        ∃ t, exec .stewardRestartDone s = .next t ∧ t.hold.bootPhase = 4 ∧ t.stw.up = true ∧ t.stw.ledger = s.stw.ledger ∧
          t.stw.tags = s.stw.tags ∧ t.bank = s.bank ∧ (∀ e, e ∈ t.hold.queues → e.2.notified = true) ∧
          (s.hold.resetKind = 8 ∨ s.hold.resetKind = 9 →
            t.ev.pending.getLsbD 62 = true ∧
            Logged 62 (if 3 ≤ (s.stw.watchdog.filter (fun x => decide (s.power.upNs < x + 600000000000))).length then 3
              else if s.hold.resetKind = 9 then 1 else 2) noObject t)
      else ∃ t, exec .stewardRestartDone s = .next t ∧ t.hold.bootPhase = 15 ∧ t.stw = s.stw ∧ t.bank = s.bank)

/-! ### Upkeep -/

/-- R18 to R20, R213, R241, R565, R573 to R576: a code fault raises event 37 with its cause and is counted, and isolates a lane; a stall
raises event 36 with its site, and outside the lanes stays until the fabric-level reset, which Eulyn makes at most three times in an hour
(then event 63 detail 3): reset kind 5, a new session, nothing left waiting; its end puts the lanes in service and clears the stalls. -/
def Obligations.FabricFaults : Prop :=
  ∀ (n : Nat) (w : FabricSite) (l : List Nat) (s : State),
    (n < 5 → s.harrow.lanes.contains n = true →
      ∃ t, exec (.fabricCodeFault (.lane n)) s = .next t ∧ t.harrow.lanes = s.harrow.lanes.filter (· != n) ∧
        t.harrow.isolated = insertNat n s.harrow.isolated ∧ t.harrow.codeFaults = s.harrow.codeFaults + 1 ∧
        t.ev.pending.getLsbD 37 = true ∧
        (n ≠ 4 → spareFree s = true → t.harrow.laneWait = insertNat n s.harrow.laneWait) ∧
        (n = 4 ∨ spareFree s = false → t.harrow.laneWait = s.harrow.laneWait ∧ t.ev.pending.getLsbD 63 = true)) ∧
    (s.harrow.lanes.contains n = true → s.harrow.stalled.contains (.lane n) = false →
      ∃ t, exec (.fabricStall (.lane n)) s = .next t ∧ t.harrow.lanes = s.harrow.lanes.filter (· != n) ∧
        t.harrow.isolated = insertNat n s.harrow.isolated ∧ t.harrow.stalls = s.harrow.stalls + 1 ∧ t.ev.pending.getLsbD 36 = true ∧
        (n ≠ 4 → spareFree s = true → t.harrow.laneWait = insertNat n s.harrow.laneWait)) ∧
    (s.harrow.lanes.contains n = false → exec (.fabricCodeFault (.lane n)) s = .next s ∧ exec (.fabricStall (.lane n)) s = .next s) ∧
    (∃ t, exec (.fabricCodeFault .steward) s = .next t ∧ t.harrow = { s.harrow with
        codeFaults := s.harrow.codeFaults + 1, stewFifo := s.harrow.stewFifo - 1 } ∧
      t.drill = s.drill ∧ t.ploughs = s.ploughs ∧ t.ev.pending.getLsbD 37 = true ∧ Logged 37 1 0 t) ∧
    ((∀ k, w ≠ .lane k) → s.harrow.stalled.contains w = false →
      ∃ t, exec (.fabricStall w) s = .next t ∧
        t.harrow = { s.harrow with stalls := s.harrow.stalls + 1, stalled := s.harrow.stalled ++ [w] } ∧ t.drill = s.drill ∧
        t.ev.pending.getLsbD 36 = true ∧ Logged 36 (siteDetail w).1 (siteDetail w).2 t) ∧
    (s.harrow.stalled.contains w = true → exec (.fabricStall w) s = .next s) ∧
    (s.harrow.stalled.contains w = true → s.stw.up = true →
      (3 ≤ (s.harrow.fabricResets.filter (fun t => decide (s.power.upNs < t + 3600000000000))).length →
        ∃ t, exec (.persistentStall w) s = .next t ∧ t.harrow = s.harrow ∧ t.drill = s.drill ∧ t.ev.pending.getLsbD 63 = true ∧
          Logged 63 3 noObject t) ∧
      ((s.harrow.fabricResets.filter (fun t => decide (s.power.upNs < t + 3600000000000))).length < 3 →
        ∃ t, exec (.persistentStall w) s = .next t ∧ t.harrow.inReset = true ∧ t.hold.resetKind = 5 ∧ t.ploughs = [] ∧
          t.harrow.handoff = [] ∧ t.drill.rows = [] ∧ t.drill.ports = [] ∧ t.drill.rowWire = [] ∧ t.drill.portWire = [] ∧
          t.drill.sheafs = [] ∧ t.gran.cells = [] ∧ t.field.session = (s.field.session + 1) % 65536 ∧ t.field.txSeq = [] ∧
          t.bank = s.bank ∧ t.stw = s.stw ∧ t.drill.furrows = s.drill.furrows)) ∧
    (s.harrow.inReset = false → exec (.fabricResetDone l) s = .next s) ∧
    (s.harrow.inReset = true → s.stw.ops.filter (fun o => o.body == .fabricReset) = [] →
      (l = [] → exec (.fabricResetDone l) s = .next { s with harrow := { s.harrow with
        inReset := false, stewFifo := 0, stalled := [], lanes := [0, 1, 2, 3], isolated := [], laneWait := [] } }) ∧
      (n < 4 → l = [n] → exec (.fabricResetDone l) s = .next { s with harrow := { s.harrow with
        inReset := false, stewFifo := 0, stalled := [], lanes := (List.range 4).filter (· != n) ++ [4], isolated := [n], laneWait := [] } }) ∧
      (n < 4 → l = [n, 4] →
        ∃ t, exec (.fabricResetDone l) s = .next t ∧ t.harrow = { s.harrow with
          inReset := false, stewFifo := 0, stalled := [], lanes := (List.range 4).filter (· != n), isolated := [n, 4], laneWait := [] } ∧
          t.ev.pending.getLsbD 63 = true ∧ Logged 63 2 noObject t))

/-- R226, R233, R234, R236, R239, R242, R244: the audit frees every cell no grain leads to and counts it as leaked; the patrol counts a
corrected word once, with event 32's threshold retiring the bank, and an uncorrectable one retires its bank with event 33 and poisons the
cell; a spare in error is counted likewise and becomes Faulty; a bank under test is passed over, and every other spare holds the pass's
pattern; a drain that holds nothing ends with event 34 and its logical bank Absent, and at the drain limit it ends whatever it holds. -/
def Obligations.GranaryUpkeep : Prop :=
  ∀ (f : WordFault) (l : Nat) (x : Cell) (s : State),
    (∃ t, exec .audit s = .next t ∧
      t = { s with gran := { s.gran with cells := t.gran.cells, leaked := t.gran.leaked, freePoison := t.gran.freePoison } } ∧
      (∀ e, e ∈ t.gran.cells ↔
        e ∈ s.gran.cells ∧ e.1 ∈ ((referenced s).map (chain s.gran.cells maxChain)).flatten) ∧
      t.gran.leaked + t.gran.cells.length = s.gran.leaked + s.gran.cells.length) ∧
    exec (.patrol []) s = .next { s with gran := { s.gran with
      counted := [], pattern := !s.gran.pattern
      spareTest := ((spareBanks s).filter (fun p => !underTest p s)).map (fun p => (p, !s.gran.pattern)) } } ∧
    (underTest f.bank s = true → exec (.patrol [f]) s = exec (.patrol []) s) ∧
    (underTest f.bank s = false → bankState f.bank s = 1 → logicalOf f.bank s = none →
      ∃ t, exec (.patrol [f]) s = .next t ∧ bankState f.bank t = 6 ∧ t.gran.queue = s.gran.queue ∧
        (uncorrectable f.error = false → t.gran.nCorrected = s.gran.nCorrected + 1) ∧
        (uncorrectable f.error = true → t.gran.nUncorrectable = s.gran.nUncorrectable + 1 ∧ t.ev.pending.getLsbD 33 = true)) ∧
    (underTest f.bank s = false → bankState f.bank s = 0 → uncorrectable f.error = false →
      ∃ t, exec (.patrol [f]) s = .next t ∧ t.gran.nCorrected = s.gran.nCorrected + 1 ∧
        t.gran.counted = [(f.bank, f.word)] ∧
        (u8 (quota s) 12 ≤ correctedInWindow f.bank s + 1 → bankState f.bank t = 2 ∧ t.gran.queue = s.gran.queue ++ [f.bank] ∧
          t.gran.selfDecided.contains f.bank = true) ∧
        (correctedInWindow f.bank s + 1 < u8 (quota s) 12 → bankState f.bank t = 0 ∧ t.gran.queue = s.gran.queue)) ∧
    (underTest f.bank s = false → bankState f.bank s = 0 → uncorrectable f.error = true → logicalOf f.bank s = some l →
      cellOf (256 * l + f.word / 32 % 256) s = some x →
      poisoned (256 * l + f.word / 32 % 256) s = false →
      ∃ t, exec (.patrol [f]) s = .next t ∧ cellOf (256 * l + f.word / 32 % 256) t = some { x with poison := true } ∧
        t.gran.nUncorrectable = s.gran.nUncorrectable + 1 ∧ bankState f.bank t = 2 ∧ t.gran.queue = s.gran.queue ++ [f.bank] ∧
        t.gran.hardRetired = insertNat f.bank s.gran.hardRetired ∧ t.ev.pending.getLsbD 33 = true ∧ Logged 33 0 f.bank t) ∧
    (s.gran.draining.contains f.bank = false → exec (.drainEnd f.bank) s = .next s ∧ exec (.drainLimit f.bank) s = .next s) ∧
    (s.gran.draining.contains f.bank = true → logicalOf f.bank s = some l →
      ((∀ c, c ∈ tkeys s.gran.cells → c / 256 ≠ l) →
        ∃ t, exec (.drainEnd f.bank) s = .next t ∧ physOf l t = 255 ∧ bankState f.bank t = 5 ∧
          t.gran.draining = s.gran.draining.filter (· != f.bank) ∧ t.ev.pending.getLsbD 34 = true) ∧
      ((∃ c, c ∈ tkeys s.gran.cells ∧ c / 256 = l) → exec (.drainEnd f.bank) s = .next s) ∧
      (∃ t, exec (.drainLimit f.bank) s = .next t ∧ physOf l t = 255 ∧ bankState f.bank t = 5 ∧
        t.gran.draining = s.gran.draining.filter (· != f.bank) ∧ t.ev.pending.getLsbD 34 = true))

/-- R23, R27 to R30, R535, R575, R580, R581: a window's reading is kept, and a running Steward computes the requirement anew; the
set-point rises by 10 mV, to at most 0.90 V, while the pace is short of the requirement or a crossing fills beyond its share, falls by 5
mV, to no less than 0.72 V, after the hold time above it, and goes to 0.90 V for good with event 59 on a pace below the floor; the supply
monitors raise event 60 with their detail, and the thermal monitor event 61 once until the junction has cooled by 5 °C. -/
def Obligations.PaceAndMonitors : Prop :=
  ∀ (pace fill : Nat) (tj : Int) (h : Bool) (q : Rat) (s : State), q = (if s.stw.up then requiredPace (computeDemand s) else s.power.preq) →
    (s.power.state ≠ .growing → exec (.paceWindow pace tj fill) s = .next s) ∧
    (s.power.state = .growing → s.power.floorHold = false →
      ∃ t, exec (.paceWindow pace tj fill) s = .next t ∧ t.power.pace = pace ∧ t.power.tj = tj ∧ t.power.fill = fill ∧
        t.power.preq = q ∧ t.power.lowPace = some (min pace (s.power.lowPace.getD pace)) ∧
        (720 ≤ s.power.vcore → (pace : Rat) < floorPace s.power.vcore tj →
          t.power.vcore = 900 ∧ t.power.floorHold = true ∧ (s.power.floorViolation = false → t.ev.pending.getLsbD 59 = true)) ∧
        (floorPace s.power.vcore tj ≤ (pace : Rat) →
          t.power.floorHold = false ∧
          ((pace : Rat) < q ∨ fillLimit s < ((max (crossingFill s) fill : Nat) : Rat) → t.power.vcore = min 900 (s.power.vcore + 10) ∧ t.power.holdUs = 0) ∧
          (q < (pace : Rat) → ((max (crossingFill s) fill : Nat) : Rat) ≤ fillLimit s →
            (s.power.holdUs + 1 < u32 (pacePolicy s) 16 → t.power.vcore = s.power.vcore ∧ t.power.holdUs = s.power.holdUs + 1) ∧
            (u32 (pacePolicy s) 16 ≤ s.power.holdUs + 1 → t.power.vcore = max 720 (s.power.vcore - 5))))) ∧
    (coreOn s = true →
      (∃ t, exec (.supplyFault h) s = .next t ∧ t.power = { s.power with faultSeen60 := true } ∧ t.ev.pending.getLsbD 60 = true ∧
        Logged 60 (if h then 2 else 1) noObject t) ∧
      (∃ t, exec .phaseCurrentLimit s = .next t ∧ t.power = { s.power with faultSeen60 := true } ∧ t.ev.pending.getLsbD 60 = true ∧
        Logged 60 4 noObject t) ∧
      (s.power.thermal ≤ tj → s.power.thermalArmed = true →
        ∃ t, exec (.thermalWarn tj) s = .next t ∧ t.power = { s.power with tj := tj, thermalArmed := false, faultSeen61 := true } ∧
          t.ev.pending.getLsbD 61 = true) ∧
      (s.power.thermal ≤ tj → s.power.thermalArmed = false →
        exec (.thermalWarn tj) s = .next { s with power := { s.power with tj := tj } }) ∧
      (tj ≤ s.power.thermal - 5 →
        exec (.thermalWarn tj) s = .next { s with power := { s.power with tj := tj, thermalArmed := true } })) ∧
    (coreOn s = false → exec (.supplyFault h) s = .next s ∧ exec .phaseCurrentLimit s = .next s)
end

