-- ==== Sys2Proof/Laws/Copies.lean ====
section
/-! SUPPORT. What giving up a copy, its pool entry and its cells can change. -/

namespace Sys2Proof.Machine

/-- A fold of steps that each change the named parts alone changes them alone. -/
theorem foldl_keeps {α β : Type} (P : β → Prop) (f : β → α → β) (hf : ∀ b a, P b → P (f b a)) : ∀ (l : List α) (b : β), P b → P (l.foldl f b)
  | [], _, h => h
  | a :: l, b, h => foldl_keeps P f hf l (f b a) (hf b a h)

/-- `t` is `s` but for row counters, pool entries, cells and the poison kept of freed cells. -/
def SameButCopies (s t : State) : Prop :=
  ∃ rows res sh cells fp, t = { s with harrow.rows := rows, drill.poolRes := res, drill.poolShared := sh, gran.cells := cells, gran.freePoison := fp }

theorem SameButCopies.rfl' (s : State) : SameButCopies s s := ⟨s.harrow.rows, s.drill.poolRes, s.drill.poolShared, s.gran.cells, s.gran.freePoison, rfl⟩

theorem SameButCopies.trans {s t u : State} (h : SameButCopies s t) (g : SameButCopies t u) : SameButCopies s u := by
  obtain ⟨_, _, _, _, _, rfl⟩ := h
  obtain ⟨a, b, c, d, e, rfl⟩ := g
  exact ⟨a, b, c, d, e, rfl⟩

theorem countRow_same (r i n : Nat) (s : State) : SameButCopies s (countRow r i n s) := ⟨_, _, _, _, _, rfl⟩

theorem dropGrain_same (g : Grain) (s : State) : SameButCopies s (dropGrain g s) := by
  unfold dropGrain dropRef freeChain
  repeat' split
  all_goals exact ⟨_, _, _, _, _, rfl⟩

theorem endGrain_same (g : Grain) (b : Bool) (s : State) : SameButCopies s (endGrain g b s) := by
  refine SameButCopies.trans ?_ (dropGrain_same _ _)
  unfold poolReturn
  split <;> exact ⟨_, _, _, _, _, rfl⟩

theorem foldl_same {α : Type} (f : State → α → State) (h : ∀ s a, SameButCopies s (f s a)) (l : List α) (s : State) :
    SameButCopies s (l.foldl f s) :=
  foldl_keeps (fun x => SameButCopies s x) f (fun b a hb => hb.trans (h b a)) l s (SameButCopies.rfl' s)

/-- Discarding a copy changes row counters, pool entries, cells and the poison kept alone. -/
theorem discardCopy_same (i : Nat) (c : Copy) (s : State) : SameButCopies s (discardCopy i c s) := by
  unfold discardCopy
  refine SameButCopies.trans (t := endCopy c s) ?_ ?_
  · unfold endCopy
    split
    · exact foldl_same _ (fun s a => endGrain_same _ _ s) _ _
    · exact endGrain_same _ _ _
  · unfold countCopy
    split
    · exact foldl_same _ (fun s a => countRow_same _ _ _ s) _ _
    · exact countRow_same _ _ _ _

/-- A row's queues empty. -/
theorem flushRow_rows (r i : Nat) (s : State) :
    SameButCopies { s with drill.rows := tdel r s.drill.rows } (flushRow r i s) :=
  foldl_same _ (fun s _ => discardCopy_same _ _ s) _ _

end Sys2Proof.Machine
end

