-- ==== Sys2Proof/Laws/Memory.lean ====
section
/-! SUPPORT. Laws of the sparse tables and of the byte memories: reading after a write, what a write leaves alone, and that
every memory operation keeps the canonical form. -/

namespace Sys2Proof.Machine

/-! ### Tables -/

theorem tget_tset_same {α : Type} (k : Nat) (v : α) (t : Tbl α) : tget k (tset k v t) = some v := by
  induction t with
  | nil => simp [tset, tget]
  | cons e t ih =>
    obtain ⟨i, w⟩ := e
    unfold tset
    split
    · simp [tget]
    · split
      · simp [tget]
      · next h => simp [tget, h, ih]

theorem tget_tset_other {α : Type} {j k : Nat} (h : j ≠ k) (v : α) (t : Tbl α) : tget j (tset k v t) = tget j t := by
  induction t with
  | nil => simp [tset, tget, Ne.symm h]
  | cons e t ih =>
    obtain ⟨i, w⟩ := e
    unfold tset
    split
    · simp [tget, Ne.symm h]
    · split
      · next hi => subst hi; simp [tget, Ne.symm h]
      · simp [tget, ih]

@[simp] theorem tgetD_tset_same {α : Type} (k : Nat) (d v : α) (t : Tbl α) : tgetD k d (tset k v t) = v := by
  simp [tgetD, tget_tset_same]

theorem tgetD_tset_other {α : Type} {j k : Nat} (h : j ≠ k) (d v : α) (t : Tbl α) :
    tgetD j d (tset k v t) = tgetD j d t := by
  simp [tgetD, tget_tset_other h]

theorem tget_tdel_other {α : Type} {j k : Nat} (h : j ≠ k) (t : Tbl α) : tget j (tdel k t) = tget j t := by
  induction t with
  | nil => rfl
  | cons e t ih =>
    obtain ⟨i, w⟩ := e
    by_cases hi : i = k
    · subst hi; simpa [tdel, tget, Ne.symm h] using ih
    · simp only [tdel] at ih ⊢
      rw [List.filter_cons_of_pos (by simpa using hi)]
      simp [tget, ih]

theorem tget_tdel_same {α : Type} (k : Nat) (t : Tbl α) : tget k (tdel k t) = none := by
  induction t with
  | nil => rfl
  | cons e t ih =>
    obtain ⟨i, w⟩ := e
    by_cases hi : i = k
    · subst hi; simpa [tdel] using ih
    · simp only [tdel] at ih ⊢
      rw [List.filter_cons_of_pos (by simpa using hi)]
      simp [tget, hi, ih]

/-! ### Byte memories -/

/-- Every address of a memory lies above `a`. -/
def Above (a : Nat) (m : Memory) : Prop := ∀ e ∈ m, a < e.1

theorem wf_cons {a : Nat} {b : Byte} {m : Memory} : Memory.wf ((a, b) :: m) = true ↔ b ≠ 0 ∧ Above a m ∧ Memory.wf m = true := by
  induction m generalizing a b with
  | nil => simp [Memory.wf, Above]
  | cons e m ih =>
    obtain ⟨a', b'⟩ := e
    simp only [Memory.wf, Bool.and_eq_true, bne_iff_ne, decide_eq_true_eq]
    rw [ih]
    constructor
    · rintro ⟨⟨hb, ha⟩, hb', hab, hw⟩
      refine ⟨hb, ?_, hb', hab, hw⟩
      intro e he
      rcases List.mem_cons.1 he with rfl | he
      · exact ha
      · exact Nat.lt_trans ha (hab e he)
    · rintro ⟨hb, hab, hb', hab', hw⟩
      exact ⟨⟨hb, hab (a', b') (by simp)⟩, hb', hab', hw⟩

theorem above_mset {a i : Nat} {b : Byte} {m : Memory} (h : Above i m) (hi : i < a) : Above i (mset a b m) := by
  induction m with
  | nil => unfold mset; split <;> simp [Above, hi]
  | cons e m ih =>
    obtain ⟨j, c⟩ := e
    have hj : i < j := h (j, c) (by simp)
    have hm : Above i m := fun e he => h e (by simp [he])
    unfold mset
    split
    · split
      · exact h
      · intro e he; rcases List.mem_cons.1 he with rfl | he
        · exact hi
        · exact h e he
    · split
      · split
        · exact hm
        · intro e he; rcases List.mem_cons.1 he with rfl | he
          · exact hi
          · exact hm e he
      · intro e he; rcases List.mem_cons.1 he with rfl | he
        · exact hj
        · exact ih hm e he

/-- A write of one byte keeps the canonical form. -/
theorem mset_wf {a : Nat} {b : Byte} {m : Memory} (h : Memory.wf m = true) : Memory.wf (mset a b m) = true := by
  induction m with
  | nil => unfold mset; split <;> simp_all [Memory.wf]
  | cons e m ih =>
    obtain ⟨i, c⟩ := e
    obtain ⟨hc, hab, hw⟩ := wf_cons.1 h
    unfold mset
    split
    · next hai =>
      split
      · exact h
      · next hb =>
        refine wf_cons.2 ⟨hb, ?_, h⟩
        intro e he
        rcases List.mem_cons.1 he with rfl | he
        · exact hai
        · exact Nat.lt_trans hai (hab e he)
    · split
      · next hai =>
        subst hai
        split
        · exact hw
        · next hb => exact wf_cons.2 ⟨hb, hab, hw⟩
      · next h1 h2 => exact wf_cons.2 ⟨hc, above_mset hab (by omega), ih hw⟩

/-- A write of several bytes keeps the canonical form. -/
theorem mwrite_wf {a : Nat} {d : Bytes} {m : Memory} (h : Memory.wf m = true) : Memory.wf (mwrite a d m) = true := by
  induction d generalizing a m with
  | nil => exact h
  | cons b d ih => exact ih (mset_wf h)

theorem mget_above {a : Nat} {m : Memory} (h : Above a m) : mget a m = 0 := by
  induction m with
  | nil => rfl
  | cons e m ih =>
    obtain ⟨i, c⟩ := e
    have hi : a < i := h (i, c) (by simp)
    have : i ≠ a := by omega
    simp [mget, this, ih (fun e he => h e (by simp [he]))]

/-- Reading the byte just written. -/
theorem mget_mset_same {a : Nat} {b : Byte} {m : Memory} (h : Memory.wf m = true) : mget a (mset a b m) = b := by
  induction m with
  | nil => unfold mset; split <;> simp_all [mget]
  | cons e m ih =>
    obtain ⟨i, c⟩ := e
    obtain ⟨_, hab, hw⟩ := wf_cons.1 h
    unfold mset
    split
    · next hai =>
      split
      · next hb =>
        rw [hb]
        apply mget_above
        intro e he
        rcases List.mem_cons.1 he with rfl | he
        · exact hai
        · exact Nat.lt_trans hai (hab e he)
      · simp [mget]
    · split
      · next hai =>
        subst hai
        split
        · next hb => rw [hb]; exact mget_above hab
        · simp [mget]
      · next h1 h2 =>
        have : i ≠ a := by omega
        simp [mget, this, ih hw]

/-- A write leaves every other address alone. -/
theorem mget_mset_other {a x : Nat} {b : Byte} {m : Memory} (h : x ≠ a) : mget x (mset a b m) = mget x m := by
  induction m with
  | nil => unfold mset; split <;> simp [mget, Ne.symm h]
  | cons e m ih =>
    obtain ⟨i, c⟩ := e
    unfold mset
    split
    · split
      · rfl
      · simp [mget, Ne.symm h]
    · split
      · next hai =>
        subst hai
        split <;> simp [mget, Ne.symm h]
      · simp [mget, ih]

/-- A run of bytes leaves every address outside it alone. -/
theorem mget_mwrite_other {a x : Nat} {d : Bytes} {m : Memory} (h : x < a ∨ a + d.length ≤ x) :
    mget x (mwrite a d m) = mget x m := by
  induction d generalizing a m with
  | nil => rfl
  | cons b d ih =>
    simp only [List.length_cons] at h
    rw [mwrite, ih (by omega), mget_mset_other (by omega)]

/-- Reading a written run gives it back. -/
theorem mread_mwrite_same {a : Nat} {d : Bytes} {m : Memory} (h : Memory.wf m = true) :
    mread a d.length (mwrite a d m) = d := by
  induction d generalizing a m with
  | nil => rfl
  | cons b d ih =>
    simp only [List.length_cons, mread, mwrite]
    rw [ih (mset_wf h), mget_mwrite_other (by omega), mget_mset_same h]

theorem mread_length (a n : Nat) (m : Memory) : (mread a n m).length = n := by
  induction n generalizing a with
  | zero => rfl
  | succ n ih => simp [mread, ih]

/-- Reading a run that a write does not touch. -/
theorem mread_mwrite_other {a x n : Nat} {d : Bytes} {m : Memory} (h : x + n ≤ a ∨ a + d.length ≤ x) :
    mread x n (mwrite a d m) = mread x n m := by
  induction n generalizing x with
  | zero => rfl
  | succ n ih => rw [mread, mread, mget_mwrite_other (by omega), ih (by omega)]

end Sys2Proof.Machine
end

