-- ==== Sys2Proof/Laws/Events.lean ====
section
/-! SUPPORT. What recording an emission, using up a free value and raising an event can do. -/

namespace Sys2Proof.Machine

/-- Raising an event changes the event registers, what the part emits and the PME bit, and nothing else. -/
theorem raiseD_frame (n d o : Nat) (s : State) :
    raiseD n d o s = { s with ev := (raiseD n d o s).ev, wire := (raiseD n d o s).wire, hold.pme := (raiseD n d o s).hold.pme } := by
  unfold raiseD setPending deliver sendVector logEvent emit
  dsimp only
  repeat' split
  all_goals rfl

theorem raise_frame (n o : Nat) (s : State) :
    raise n o s = { s with ev := (raise n o s).ev, wire := (raise n o s).wire, hold.pme := (raise n o s).hold.pme } :=
  raiseD_frame n 0 o s

theorem settle_intn (e : Events) : IntnFollows e.settle := rfl

/-- Raising an event keeps INTn in step and leaves the MSI-X table alone. -/
theorem raiseD_intn {n d o : Nat} {s : State} (h : IntnFollows s.ev) : IntnFollows (raiseD n d o s).ev := by
  unfold raiseD setPending deliver sendVector logEvent emit
  dsimp only
  repeat' split
  all_goals first | exact h | rfl

theorem raiseD_msixTable (n d o : Nat) (s : State) : (raiseD n d o s).ev.msixTable = s.ev.msixTable := by
  unfold raiseD setPending deliver sendVector logEvent emit
  dsimp only
  repeat' split
  all_goals rfl

/-- An event that is not coalesced becomes pending. -/
theorem raiseD_pending {n d o : Nat} {s : State} (hn : n < 64) (hc : coalesced n = false) :
    (raiseD n d o s).ev.pending.getLsbD n = true := by
  have key : ∀ (p : BitVec 64), (p ||| bitAt 64 n).getLsbD n = true := by
    intro p
    rw [bitAt, BitVec.getLsbD_or, BitVec.getLsbD_ofNat]
    simp [hn, Nat.testBit_two_pow_self]
  unfold raiseD setPending deliver sendVector logEvent emit
  simp only [hc, Bool.false_and, Bool.false_eq_true, if_false]
  repeat' split
  all_goals exact key _

/-- An event raised, as one equation: the registers it leaves are some registers with its bit pending. -/
theorem raise_only (n o : Nat) (s : State) :
    ∃ e w b, raise n o s = { s with ev := e, wire := w, hold.pme := b } ∧
      (n < 64 → coalesced n = false → e.pending.getLsbD n = true) :=
  ⟨_, _, _, raise_frame n o s, fun h1 h2 => raiseD_pending h1 h2⟩

end Sys2Proof.Machine
end

