-- ==== Sys2Proof/Laws/Keeps/Base.lean ====
section
/-! SUPPORT. How the invariant and the queue pass through record updates, folds, memory writes and events. Every function of the
model that answers a state has one law of this family, named after it: it keeps `Ok`. -/

namespace Sys2Proof.Machine

/-- The invariant rests on the queue, the event registers, the staging buffer and the mailbox slots alone. -/
theorem ok_parts {q : Claim} {s t : State} (h : Ok q s) (hp : t.pending = s.pending) (he : IntnFollows s.ev → IntnFollows t.ev)
    (hs : Memory.wf s.staging = true → Memory.wf t.staging = true) (hl : Memory.wf s.hold.slots = true → Memory.wf t.hold.slots = true)
    (hm : Memory.wf s.ev.msixTable = true → Memory.wf t.ev.msixTable = true) : Ok q t :=
  ⟨hp.trans h.1, fun hi => ⟨he (h.2 hi).1, hs (h.2 hi).2.1, hl (h.2 hi).2.2.1, hm (h.2 hi).2.2.2⟩⟩

/-- A state that agrees with `s` on all of these. -/
theorem ok_congr {q : Claim} {s t : State} (h : Ok q s) (hp : t.pending = s.pending) (he : t.ev = s.ev)
    (hs : t.staging = s.staging) (hl : t.hold.slots = s.hold.slots) : Ok q t :=
  ok_parts h hp (fun w => he ▸ w) (fun w => hs ▸ w) (fun w => hl ▸ w) (fun w => he ▸ w)

/-- The event registers may change as long as INTn follows and the MSI-X table stays. -/
theorem ok_events {q : Claim} {s t : State} (h : Ok q s) (hp : t.pending = s.pending) (he : IntnFollows s.ev → IntnFollows t.ev)
    (hm : t.ev.msixTable = s.ev.msixTable) (hs : t.staging = s.staging) (hl : t.hold.slots = s.hold.slots) : Ok q t :=
  ok_parts h hp he (fun w => hs ▸ w) (fun w => hl ▸ w) (fun w => hm ▸ w)

/-- A state whose event registers are those of `s`, and whose staging buffer and slots are written in canonical form. -/
theorem ok_memories {q : Claim} {s t : State} (h : Ok q s) (hp : t.pending = s.pending) (he : t.ev = s.ev)
    (hs : Memory.wf s.staging = true → Memory.wf t.staging = true) (hl : Memory.wf s.hold.slots = true → Memory.wf t.hold.slots = true) :
    Ok q t :=
  ok_parts h hp (fun w => he ▸ w) hs hl (fun w => he ▸ w)

theorem intn_congr {e e' : Events} (h : IntnFollows e) (h1 : e'.pending = e.pending) (h2 : e'.enable = e.enable)
    (h3 : e'.route = e.route) (h4 : e'.intn = e.intn) : IntnFollows e' := by
  unfold IntnFollows at *
  rw [h1, h2, h3, h4, h]

theorem ok_ite {q : Claim} {c : Prop} [Decidable c] {a b : State} (ha : Ok q a) (hb : Ok q b) : Ok q (if c then a else b) := by
  split
  · exact ha
  · exact hb

theorem ok_foldl {q : Claim} {α : Type} {f : State → α → State} {l : List α} {s : State} (h : Ok q s)
    (hf : ∀ s a, Ok q s → Ok q (f s a)) : Ok q (l.foldl f s) := by
  induction l generalizing s with
  | nil => exact h
  | cons a l ih => exact ih (hf s a h)

theorem ok_foldr {q : Claim} {α : Type} {f : α → State → State} {l : List α} {s : State} (h : Ok q s)
    (hf : ∀ a s, Ok q s → Ok q (f a s)) : Ok q (l.foldr f s) := by
  induction l with
  | nil => exact h
  | cons a l ih => exact hf a _ ih

/-- A fold whose accumulator carries the state. -/
theorem ok_foldl_of {q : Claim} {α β : Type} {π : β → State} {f : β → α → β} {l : List α} {s : β} (h : Ok q (π s))
    (hf : ∀ s a, Ok q (π s) → Ok q (π (f s a))) : Ok q (π (l.foldl f s)) := by
  induction l generalizing s with
  | nil => exact h
  | cons a l ih => exact ih (hf s a h)

theorem ok_foldl_pair {q : Claim} {α β : Type} {f : β × State → α → β × State} {l : List α} {s : β × State} (h : Ok q s.2)
    (hf : ∀ s a, Ok q s.2 → Ok q (f s a).2) : Ok q (l.foldl f s).2 :=
  ok_foldl_of (π := Prod.snd) h hf

/-- An outcome that goes on, to a state that keeps the invariant. -/
def OkR (q : Claim) (r : Result) : Prop := ∃ t, r = .next t ∧ Ok q t

theorem ok_goes {q : Claim} {s : State} (h : Ok q s) : OkR q (.next s) := ⟨s, rfl, h⟩

/-- The work of an opcode on a plot: its state, and what follows the response. -/
def OkW (q : Claim) (w : Work) : Prop := Ok q w.st ∧ ∀ s, Ok q s → Ok q (w.after s)

theorem okw_mk {q : Claim} {w : Work} (h : Ok q w.st) (ha : ∀ s, Ok q s → Ok q (w.after s)) : OkW q w := ⟨h, ha⟩

/-- An opcode that keeps the invariant wherever it acts. -/
def CmdOk (k : Cmd) : Prop := ∀ q c n s, Ok q s → OkW q (k.act c n s)

end Sys2Proof.Machine
end

