-- ==== Sys2Proof/Laws/Keeps/Ops.lean ====
section
/-! SUPPORT. Every function of Machine/Ops.lean that answers a state keeps the invariant and the queue. -/

namespace Sys2Proof.Machine

theorem tick_ok {q : Claim} {s : State} (h : Ok q s) : Ok q (tick s) := by
  unfold tick
  extract_lets +onlyGivenNames x0
  extract_lets +onlyGivenNames x1
  have hx1 : Ok q x1 := by
    unfold x1
    split
    · refine ok_congr (s := s) ?_ rfl rfl rfl rfl
      assumption
    · assumption
  clear_value x1
  split
  · refine ok_congr (s := x1) ?_ rfl rfl rfl rfl
    assumption
  · assumption

theorem picked_ok {q : Claim} {s : State} (h : Ok q s) : Ok q (picked s) := by
  unfold picked
  refine ok_congr (s := s) ?_ rfl rfl rfl rfl
  assumption

theorem emit_ok {q : Claim} {w : WireItem} {s : State} (h : Ok q s) : Ok q (emit w s) := by
  unfold emit
  refine ok_congr (s := s) ?_ rfl rfl rfl rfl
  assumption

theorem sendVector_ok {q : Claim} {n : ℕ} {s : State} (h : Ok q s) : Ok q (sendVector n s) := by
  unfold sendVector
  split
  · split
    · refine ok_events (s := s) ?_ rfl ?_ rfl rfl rfl
      · assumption
      · exact fun w => intn_congr w rfl rfl rfl rfl
    · refine emit_ok ?_
      assumption
  · assumption

theorem deliver_ok {q : Claim} {n : ℕ} {s : State} (h : Ok q s) : Ok q (deliver n s) := by
  unfold deliver
  extract_lets +onlyGivenNames x0
  have hx0 : Ok q x0 := by
    unfold x0
    refine sendVector_ok ?_
    assumption
  clear_value x0
  split
  · refine emit_ok ?_
    refine ok_congr (s := x0) ?_ rfl rfl rfl rfl
    assumption
  · assumption

theorem setPending_ok {q : Claim} {n : ℕ} {s : State} (h : Ok q s) : Ok q (setPending n s) := by
  unfold setPending
  extract_lets +onlyGivenNames x0
  extract_lets +onlyGivenNames x1
  extract_lets +onlyGivenNames x2
  have hx2 : Ok q x2 := by
    unfold x2
    refine ok_events (s := s) ?_ rfl ?_ rfl rfl rfl
    · assumption
    · exact fun _ => settle_intn _
  clear_value x2
  split
  · refine deliver_ok ?_
    assumption
  · assumption

theorem logEvent_ok {q : Claim} {n : ℕ} {detail : ℕ} {obj : ℕ} {s : State} (h : Ok q s) : Ok q (logEvent n detail obj s) := by
  unfold logEvent
  extract_lets +onlyGivenNames x0
  refine ok_events (s := s) ?_ rfl ?_ rfl rfl rfl
  · assumption
  · exact fun w => intn_congr w rfl rfl rfl rfl

theorem raiseD_ok {q : Claim} {n : ℕ} {detail : ℕ} {obj : ℕ} {s : State} (h : Ok q s) : Ok q (raiseD n detail obj s) := by
  unfold raiseD
  extract_lets +onlyGivenNames x0
  have hx0 : Ok q x0 := by
    unfold x0
    refine logEvent_ok ?_
    assumption
  clear_value x0
  split
  · refine ok_events (s := x0) ?_ rfl ?_ rfl rfl rfl
    · assumption
    · exact fun w => intn_congr w rfl rfl rfl rfl
  · refine setPending_ok ?_
    assumption

theorem raise_ok {q : Claim} {n : ℕ} {obj : ℕ} {s : State} (h : Ok q s) : Ok q (raise n obj s) := by
  unfold raise
  refine raiseD_ok ?_
  assumption


end Sys2Proof.Machine
end

