-- ==== Sys2Proof/Laws/Keeps/Cells.lean ====
section
/-! SUPPORT. Every function of Machine/Cells.lean that answers a state keeps the invariant and the queue. -/

namespace Sys2Proof.Machine

theorem setRowRt_ok {q : Claim} {r : ℕ} {v : RowRt} {s : State} (h : Ok q s) : Ok q (setRowRt r v s) := by
  unfold setRowRt
  refine ok_congr (s := s) ?_ rfl rfl rfl rfl
  assumption

theorem countRow_ok {q : Claim} {r : ℕ} {idx : ℕ} {n : ℕ} {s : State} (h : Ok q s) : Ok q (countRow r idx n s) := by
  unfold countRow
  extract_lets +onlyGivenNames x0
  refine setRowRt_ok ?_
  assumption

theorem countPort_ok {q : Claim} {p : ℕ} {idx : ℕ} {n : ℕ} {s : State} (h : Ok q s) : Ok q (countPort p idx n s) := by
  unfold countPort
  refine ok_congr (s := s) ?_ rfl rfl rfl rfl
  assumption

theorem freeChain_ok {q : Claim} {c : ℕ} {s : State} (h : Ok q s) : Ok q (freeChain c s) := by
  unfold freeChain
  refine ok_congr (s := s) ?_ rfl rfl rfl rfl
  assumption

theorem writeCell_ok {q : Claim} {c : ℕ} {d : Bytes} {s : State} (h : Ok q s) : Ok q (writeCell c d s) := by
  unfold writeCell
  split
  · extract_lets +onlyGivenNames x0
    refine ok_congr (s := s) ?_ rfl rfl rfl rfl
    assumption
  · assumption

theorem dropRef_ok {q : Claim} {c : ℕ} {s : State} (h : Ok q s) : Ok q (dropRef c s) := by
  unfold dropRef
  split
  · assumption
  · split
    · refine freeChain_ok ?_
      assumption
    · refine ok_congr (s := s) ?_ rfl rfl rfl rfl
      assumption

theorem addRefs_ok {q : Claim} {c : ℕ} {n : ℕ} {s : State} (h : Ok q s) : Ok q (addRefs c n s) := by
  unfold addRefs
  split
  · assumption
  · refine ok_congr (s := s) ?_ rfl rfl rfl rfl
    assumption

theorem dropGrain_ok {q : Claim} {g : Grain} {s : State} (h : Ok q s) : Ok q (dropGrain g s) := by
  unfold dropGrain
  split
  · assumption
  · refine dropRef_ok ?_
    assumption

theorem freeRec_ok {q : Claim} {r : Rec} {s : State} (h : Ok q s) : Ok q (freeRec r s) := by
  unfold freeRec
  split
  · assumption
  · refine freeChain_ok ?_
    assumption

theorem dropInbox_ok {q : Claim} {s : State} (h : Ok q s) : Ok q (dropInbox s) := by
  unfold dropInbox
  refine ok_foldl ?_ ?_
  · refine ok_congr (s := s) ?_ rfl rfl rfl rfl
    assumption
  · intro z0 z1 z2
    refine freeChain_ok ?_
    assumption

theorem poolTake_ok {q : Claim} {cls : ℕ} {res : Bool} {s : State} (h : Ok q s) : Ok q (poolTake cls res s) := by
  unfold poolTake
  split
  · refine ok_congr (s := s) ?_ rfl rfl rfl rfl
    assumption
  · refine ok_congr (s := s) ?_ rfl rfl rfl rfl
    assumption

theorem poolReturn_ok {q : Claim} {cls : ℕ} {res : Bool} {s : State} (h : Ok q s) : Ok q (poolReturn cls res s) := by
  unfold poolReturn
  split
  · refine ok_congr (s := s) ?_ rfl rfl rfl rfl
    assumption
  · refine ok_congr (s := s) ?_ rfl rfl rfl rfl
    assumption

theorem endGrain_ok {q : Claim} {g : Grain} {res : Bool} {s : State} (h : Ok q s) : Ok q (endGrain g res s) := by
  unfold endGrain
  refine dropGrain_ok ?_
  refine poolReturn_ok ?_
  assumption

theorem endCopy_ok {q : Claim} {c : Copy} {s : State} (h : Ok q s) : Ok q (endCopy c s) := by
  unfold endCopy
  split
  · refine ok_foldl ?_ ?_
    · assumption
    · intro z0 z1 z2
      refine endGrain_ok ?_
      assumption
  · refine endGrain_ok ?_
    assumption

theorem countCopy_ok {q : Claim} {idx : ℕ} {c : Copy} {s : State} (h : Ok q s) : Ok q (countCopy idx c s) := by
  unfold countCopy
  split
  · refine ok_foldl ?_ ?_
    · assumption
    · intro z0 z1 z2
      refine countRow_ok ?_
      assumption
  · refine countRow_ok ?_
    assumption

theorem discardCopy_ok {q : Claim} {idx : ℕ} {c : Copy} {s : State} (h : Ok q s) : Ok q (discardCopy idx c s) := by
  unfold discardCopy
  refine countCopy_ok ?_
  refine endCopy_ok ?_
  assumption

theorem dropSheafs_ok {q : Claim} {dest : ℕ} {idx : ℕ} {s : State} (h : Ok q s) : Ok q (dropSheafs dest idx s) := by
  unfold dropSheafs
  refine ok_foldl ?_ ?_
  · assumption
  · intro z0 z1 z2
    extract_lets +onlyGivenNames x3
    extract_lets +onlyGivenNames x4
    have hx4 : Ok q x4 := by
      unfold x4
      refine ok_foldl ?_ ?_
      · refine ok_congr (s := z0) ?_ rfl rfl rfl rfl
        assumption
      · intro z5 z6 z7
        refine countRow_ok ?_
        assumption
    clear_value x4
    refine ok_foldl ?_ ?_
    · assumption
    · intro z8 z9 z10
      refine endGrain_ok ?_
      assumption

theorem flushAcf_ok {q : Claim} {r : ℕ} {p : ℕ} {idx : ℕ} {s : State} (h : Ok q s) : Ok q (flushAcf r p idx s) := by
  unfold flushAcf
  extract_lets +onlyGivenNames x0
  extract_lets +onlyGivenNames x1
  refine ok_foldl ?_ ?_
  · refine ok_congr (s := s) ?_ rfl rfl rfl rfl
    assumption
  · intro z2 z3 z4
    refine discardCopy_ok ?_
    assumption

theorem flushRing_ok {q : Claim} {r : ℕ} {n : ℕ} {idx : ℕ} {s : State} (h : Ok q s) : Ok q (flushRing r n idx s) := by
  unfold flushRing
  split
  · split
    · refine discardCopy_ok ?_
      refine ok_congr (s := s) ?_ rfl rfl rfl rfl
      assumption
    · assumption
  · assumption

theorem flushRow_ok {q : Claim} {r : ℕ} {idx : ℕ} {s : State} (h : Ok q s) : Ok q (flushRow r idx s) := by
  unfold flushRow
  extract_lets +onlyGivenNames x0
  refine ok_foldl ?_ ?_
  · refine ok_congr (s := s) ?_ rfl rfl rfl rfl
    assumption
  · intro z1 z2 z3
    refine discardCopy_ok ?_
    assumption


end Sys2Proof.Machine
end

