-- ==== Sys2Proof/Laws/Keeps/Buses.lean ====
section
/-! SUPPORT. Every function of Machine/Buses.lean that answers a state keeps the invariant and the queue. -/

namespace Sys2Proof.Machine

theorem setCan_ok {q : Claim} {k : ℕ} {v : CanRt} {s : State} (h : Ok q s) : Ok q (setCan k v s) := by
  unfold setCan
  refine ok_congr (s := s) ?_ rfl rfl rfl rfl
  assumption

theorem setUart_ok {q : Claim} {k : ℕ} {v : UartRt} {s : State} (h : Ok q s) : Ok q (setUart k v s) := by
  unfold setUart
  refine ok_congr (s := s) ?_ rfl rfl rfl rfl
  assumption

theorem setLin_ok {q : Claim} {k : ℕ} {v : LinRt} {s : State} (h : Ok q s) : Ok q (setLin k v s) := by
  unfold setLin
  refine ok_congr (s := s) ?_ rfl rfl rfl rfl
  assumption

theorem setMvb_ok {q : Claim} {k : ℕ} {v : MvbRt} {s : State} (h : Ok q s) : Ok q (setMvb k v s) := by
  unfold setMvb
  refine ok_congr (s := s) ?_ rfl rfl rfl rfl
  assumption

theorem countCan_ok {q : Claim} {k : ℕ} {idx : ℕ} {s : State} (h : Ok q s) : Ok q (countCan k idx s) := by
  unfold countCan
  refine setCan_ok ?_
  assumption

theorem countUart_ok {q : Claim} {k : ℕ} {idx : ℕ} {s : State} (h : Ok q s) : Ok q (countUart k idx s) := by
  unfold countUart
  refine setUart_ok ?_
  assumption

theorem countLin_ok {q : Claim} {k : ℕ} {idx : ℕ} {s : State} (h : Ok q s) : Ok q (countLin k idx s) := by
  unfold countLin
  refine setLin_ok ?_
  assumption

theorem countMvb_ok {q : Claim} {k : ℕ} {idx : ℕ} {s : State} (h : Ok q s) : Ok q (countMvb k idx s) := by
  unfold countMvb
  refine setMvb_ok ?_
  assumption

theorem busError_ok {q : Claim} {kind : ℕ} {k : ℕ} {s : State} (h : Ok q s) : Ok q (busError kind k s) := by
  unfold busError
  split
  · split
    · refine raise_ok ?_
      refine setCan_ok ?_
      assumption
    · assumption
  · split
    · refine raise_ok ?_
      refine setUart_ok ?_
      assumption
    · assumption
  · split
    · refine raise_ok ?_
      refine setLin_ok ?_
      assumption
    · assumption

theorem canState_ok {q : Claim} {k : ℕ} {st : ℕ} {s : State} (h : Ok q s) : Ok q (canState k st s) := by
  unfold canState
  extract_lets +onlyGivenNames x0
  split
  · assumption
  · refine raise_ok ?_
    refine setCan_ok ?_
    assumption

theorem startCtl_ok {q : Claim} {kind : ℕ} {k : ℕ} {s : State} (h : Ok q s) : Ok q (startCtl kind k s) := by
  unfold startCtl
  split
  · extract_lets +onlyGivenNames x0
    split
    · assumption
    · split
      · refine canState_ok ?_
        refine setCan_ok ?_
        assumption
      · refine canState_ok ?_
        refine setCan_ok ?_
        assumption
  · assumption

theorem stopCtl_ok {q : Claim} {kind : ℕ} {k : ℕ} {s : State} (h : Ok q s) : Ok q (stopCtl kind k s) := by
  unfold stopCtl
  split
  · extract_lets +onlyGivenNames x0
    refine canState_ok ?_
    refine setCan_ok ?_
    assumption
  · refine setLin_ok ?_
    assumption
  · assumption

theorem enableRow_ok {q : Claim} {r : ℕ} {s : State} (h : Ok q s) : Ok q (enableRow r s) := by
  unfold enableRow
  extract_lets +onlyGivenNames x0
  extract_lets +onlyGivenNames x1
  extract_lets +onlyGivenNames x2
  extract_lets +onlyGivenNames x3
  have hx3 : Ok q x3 := by
    unfold x3
    refine ok_congr (s := s) ?_ rfl rfl rfl rfl
    assumption
  clear_value x3
  split
  · extract_lets +onlyGivenNames x4
    extract_lets +onlyGivenNames x5
    have hx5 : Ok q x5 := by
      unfold x5
      split
      · refine setMvb_ok ?_
        assumption
      · assumption
    clear_value x5
    split
    · assumption
    · refine startCtl_ok ?_
      assumption
  · assumption

theorem sofChoice_ok {q : Claim} {r : ℕ} {s : State} (h : Ok q s) : Ok q (sofChoice r s) := by
  unfold sofChoice
  split
  · extract_lets +onlyGivenNames x0
    split
    · assumption
    · split
      · refine setCan_ok ?_
        refine picked_ok ?_
        assumption
      · split
        · assumption
        · refine setCan_ok ?_
          refine picked_ok ?_
          assumption
  · assumption

theorem flushElsewhere_ok {q : Claim} {r : ℕ} {s : State} (h : Ok q s) : Ok q (flushElsewhere r s) := by
  unfold flushElsewhere
  extract_lets +onlyGivenNames x0
  extract_lets +onlyGivenNames x1
  split
  · refine flushAcf_ok ?_
    assumption
  · refine flushRing_ok ?_
    assumption
  · refine dropSheafs_ok ?_
    assumption
  · assumption

theorem settleCtl_ok {q : Claim} {kind : ℕ} {k : ℕ} {s : State} (h : Ok q s) : Ok q (settleCtl kind k s) := by
  unfold settleCtl
  split
  · assumption
  · refine stopCtl_ok ?_
    assumption

theorem quietRow_ok {q : Claim} {r : ℕ} {s : State} (h : Ok q s) : Ok q (quietRow r s) := by
  unfold quietRow
  extract_lets +onlyGivenNames x0
  have hx0 : Ok q x0 := by
    unfold x0
    refine ok_congr (s := s) ?_ rfl rfl rfl rfl
    assumption
  clear_value x0
  extract_lets +onlyGivenNames x1
  have hx1 : Ok q x1 := by
    unfold x1
    refine sofChoice_ok ?_
    refine flushElsewhere_ok ?_
    refine flushRow_ok ?_
    assumption
  clear_value x1
  extract_lets +onlyGivenNames x2
  extract_lets +onlyGivenNames x3
  have hx3 : Ok q x3 := by
    unfold x3
    split
    · split
      · assumption
      · refine discardCopy_ok ?_
        refine ok_congr (s := x1) ?_ rfl rfl rfl rfl
        assumption
    · assumption
  clear_value x3
  split
  · refine settleCtl_ok ?_
    assumption
  · assumption

theorem disableRow_ok {q : Claim} {r : ℕ} {s : State} (h : Ok q s) : Ok q (disableRow r s) := by
  unfold disableRow
  refine quietRow_ok ?_
  refine ok_congr (s := s) ?_ rfl rfl rfl rfl
  assumption


end Sys2Proof.Machine
end

