-- ==== Sys2Proof/Laws/Keeps/Frames.lean ====
section
/-! SUPPORT. Every function of Machine/Frames.lean that answers a state keeps the invariant and the queue. -/

namespace Sys2Proof.Machine

theorem enqueuePort_ok {q : Claim} {p : ℕ} {c : Copy} {s : State} (h : Ok q s) : Ok q (enqueuePort p c s) := by
  unfold enqueuePort
  refine ok_congr (s := s) ?_ rfl rfl rfl rfl
  assumption

theorem countSeq_ok {q : Claim} {dest : ℕ} {cls : ℕ} {s : State} (h : Ok q s) : Ok q (countSeq dest cls s) := by
  unfold countSeq
  refine ok_congr (s := s) ?_ rfl rfl rfl rfl
  assumption

theorem raiseSession_ok {q : Claim} {s : State} (h : Ok q s) : Ok q (raiseSession s) := by
  unfold raiseSession
  refine ok_congr (s := s) ?_ rfl rfl rfl rfl
  assumption

theorem controlOn_ok {q : Claim} {p : ℕ} {dest : ℕ} {mac : ℕ} {type : ℕ} {body : Bytes} {s : State} (h : Ok q s) : Ok q (controlOn p dest mac type body s) := by
  unfold controlOn
  refine enqueuePort_ok ?_
  assumption

theorem sendControl_ok {q : Claim} {dest : ℕ} {type : ℕ} {body : Bytes} {s : State} (h : Ok q s) : Ok q (sendControl dest type body s) := by
  unfold sendControl
  split
  · assumption
  · split
    · refine countSeq_ok ?_
      refine controlOn_ok ?_
      assumption
    · assumption

theorem sendSegments_ok {q : Claim} {dest : ℕ} {type : ℕ} {headLen : ℕ} {head : Bool → ℕ → Bytes} {d : Bytes} {s : State} (h : Ok q s) : Ok q (sendSegments dest type headLen head d s) := by
  unfold sendSegments
  extract_lets +onlyGivenNames x0
  refine ok_foldl ?_ ?_
  · assumption
  · intro z1 z2 z3
    refine sendControl_ok ?_
    assumption

theorem sendHail_ok {q : Claim} {type : ℕ} {s : State} (h : Ok q s) : Ok q (sendHail type s) := by
  unfold sendHail
  extract_lets +onlyGivenNames x0
  refine countSeq_ok ?_
  refine ok_foldl ?_ ?_
  · assumption
  · intro z1 z2 z3
    refine controlOn_ok ?_
    assumption


end Sys2Proof.Machine
end

