-- ==== Sys2Proof/Laws/Keeps/Mailbox.lean ====
section
/-! SUPPORT. Every function of Machine/Mailbox.lean that answers a state keeps the invariant and the queue. -/

namespace Sys2Proof.Machine

theorem setQueue_ok {q : Claim} {a0 : ℕ} {v : Queue} {s : State} (h : Ok q s) : Ok q (setQueue a0 v s) := by
  unfold setQueue
  refine ok_congr (s := s) ?_ rfl rfl rfl rfl
  assumption

theorem splitWrites_ok {q : Claim} {n m a : Nat} {d : Bytes} {s : State} (h : Ok q s) : Ok q (splitWrites n m a d s) := by
  induction m generalizing a d s with
  | zero => exact h
  | succ m ih =>
    unfold splitWrites
    split
    · exact h
    · exact ih (emit_ok h)
theorem hostPut_ok {q : Claim} {a : ℕ} {d : Bytes} {s : State} (h : Ok q s) : Ok q (hostPut a d s) := by
  unfold hostPut
  refine splitWrites_ok ?_
  assumption

theorem writeBulk_ok {q : Claim} {c : Call} {d : Bytes} {s : State} (h : Ok q s) : Ok q (writeBulk c d s) := by
  unfold writeBulk
  split
  · exact h
  · split
    · split
      · exact hostPut_ok h
      · exact h
    · exact ok_memories h rfl rfl (fun w => mwrite_wf w) id
theorem sendAnswer_ok {q : Claim} {dest : ℕ} {a : Answer} {s : State} (h : Ok q s) : Ok q (sendAnswer dest a s) := by
  unfold sendAnswer
  refine sendSegments_ok ?_
  assumption

theorem answerForward_ok {q : Claim} {opcode : ℕ} {c : Call} {w : FwdFrom} {f : Final} {s : State} (h : Ok q s) : Ok q (answerForward opcode c w f s) := by
  unfold answerForward
  extract_lets +onlyGivenNames x0
  extract_lets +onlyGivenNames x1
  have hx1 : Ok q x1 := by
    unfold x1
    refine sendAnswer_ok ?_
    assumption
  clear_value x1
  split
  · assumption
  · extract_lets +onlyGivenNames x2
    extract_lets +onlyGivenNames x3
    refine ok_congr (s := x1) ?_ rfl rfl rfl rfl
    assumption

theorem writeResponse_ok {q : Claim} {opcode : Nat} {c : Call} {f : Final} {s : State} (h : Ok q s) :
    Ok q (writeResponse opcode c f s) := by
  unfold writeResponse
  extract_lets s1 img hold s2 v s3
  have h1 : Ok q s1 := writeBulk_ok h
  clear_value s1 img
  have h2 : Ok q s2 := ok_memories h1 rfl rfl id (fun w => mwrite_wf w)
  have h3 : Ok q s3 := setQueue_ok h2
  clear_value s3
  split
  · exact h3
  · exact raise_ok h3

theorem settled_ok {q : Claim} {f : Final} {s : State} (h : Ok q s) : Ok q (settled f s) := by
  unfold settled
  split
  · refine picked_ok ?_
    assumption
  · assumption

theorem respond_ok {q : Claim} {opcode : ℕ} {c : Call} {from_ : Option FwdFrom} {f : Final} {s : State} (h : Ok q s) : Ok q (respond opcode c from_ f s) := by
  unfold respond
  split
  · extract_lets +onlyGivenNames x0
    have hx0 : Ok q x0 := by
      unfold x0
      refine writeResponse_ok ?_
      assumption
    clear_value x0
    refine answerForward_ok ?_
    refine setQueue_ok ?_
    assumption
  · split
    · assumption
    · split
      · refine writeBulk_ok ?_
        assumption
      · refine writeResponse_ok ?_
        assumption

theorem openRecord_ok {q : Claim} {opcode : ℕ} {c : Call} {remote : Bool} {s : State} (h : Ok q s) : Ok q (openRecord opcode c remote s) := by
  unfold openRecord
  extract_lets +onlyGivenNames x0
  refine ok_congr (s := s) ?_ rfl rfl rfl rfl
  assumption

theorem markRecord_ok {q : Claim} {opno : ℕ} {f : Record → Record} {s : State} (h : Ok q s) : Ok q (markRecord opno f s) := by
  unfold markRecord
  refine ok_congr (s := s) ?_ rfl rfl rfl rfl
  assumption

theorem countStep_ok {q : Claim} {opno : ℕ} {n : ℕ} {s : State} (h : Ok q s) : Ok q (countStep opno n s) := by
  unfold countStep
  refine ok_congr (s := s) ?_ rfl rfl rfl rfl
  assumption

theorem closeRecord_ok {q : Claim} {opno : ℕ} {st : Status} {s : State} (h : Ok q s) : Ok q (closeRecord opno st s) := by
  unfold closeRecord
  extract_lets +onlyGivenNames x0
  refine markRecord_ok ?_
  assumption

theorem passPonr_ok {q : Claim} {opno : ℕ} {s : State} (h : Ok q s) : Ok q (passPonr opno s) := by
  unfold passPonr
  extract_lets +onlyGivenNames x0
  refine markRecord_ok ?_
  assumption

theorem passSixteenths_ok {q : Claim} {old : ℕ} {new : ℕ} {tag : ℕ} {s : State} (h : Ok q s) : Ok q (passSixteenths old new tag s) := by
  unfold passSixteenths
  refine ok_foldl ?_ ?_
  · assumption
  · intro z0 z1 z2
    refine raise_ok ?_
    assumption

theorem finishOp_ok {q : Claim} {o : Op} {f : Final} {s : State} (h : Ok q s) : Ok q (finishOp o f s) := by
  unfold finishOp
  extract_lets +onlyGivenNames x0
  extract_lets +onlyGivenNames x1
  have hx1 : Ok q x1 := by
    unfold x1
    refine settled_ok ?_
    assumption
  clear_value x1
  extract_lets +onlyGivenNames x2
  extract_lets +onlyGivenNames x3
  have hx3 : Ok q x3 := by
    unfold x3
    refine ok_congr (s := x1) ?_ rfl rfl rfl rfl
    assumption
  clear_value x3
  split
  · refine ok_congr (s := x3) ?_ rfl rfl rfl rfl
    assumption
  · extract_lets +onlyGivenNames x4
    have hx4 : Ok q x4 := by
      unfold x4
      refine passSixteenths_ok ?_
      assumption
    clear_value x4
    extract_lets +onlyGivenNames x5
    have hx5 : Ok q x5 := by
      unfold x5
      split
      · assumption
      · refine respond_ok ?_
        assumption
    clear_value x5
    refine raise_ok ?_
    assumption

theorem putOp_ok {q : Claim} {o : Op} {o' : Op} {s : State} (h : Ok q s) : Ok q (putOp o o' s) := by
  unfold putOp
  refine ok_congr (s := s) ?_ rfl rfl rfl rfl
  assumption

theorem endNow_ok {q : Claim} {o : Op} {f : Final} {s : State} (h : Ok q s) : Ok q (endNow o f s) := by
  unfold endNow
  refine finishOp_ok ?_
  split
  · assumption
  · refine closeRecord_ok ?_
    assumption

theorem endOp_ok {q : Claim} {o : Op} {f : Final} {s : State} (h : Ok q s) : Ok q (endOp o f s) := by
  unfold endOp
  split
  · refine finishOp_ok ?_
    assumption
  · refine putOp_ok ?_
    assumption

theorem sendForward_ok {q : Claim} {dest : ℕ} {opcode : ℕ} {c : Call} {tok : ℕ × ℕ × ℕ × ℕ} {subN : ℕ} {hops : List ℕ} {s : State} (h : Ok q s) : Ok q (sendForward dest opcode c tok subN hops s) := by
  unfold sendForward
  refine sendSegments_ok ?_
  assumption

theorem actOn_ok {q : Claim} {k : Cmd} {c : Call} {p : Plot} {s : State} (h : CmdOk k) (h1 : Ok q s) : OkW q (actOn k c p s) := by
  unfold actOn
  extract_lets +onlyGivenNames x0
  split
  · refine okw_mk ?_ ?_
    · dsimp -zeta only
      assumption
    · intro z1 z2
      dsimp -zeta only
      dsimp -zeta only [id]
      assumption
  · split
    · split
      · refine okw_mk ?_ ?_
        · dsimp -zeta only
          assumption
        · intro z3 z4
          dsimp -zeta only
          dsimp -zeta only [id]
          assumption
      · refine okw_mk ?_ ?_
        · dsimp -zeta only
          assumption
        · intro z5 z6
          dsimp -zeta only
          dsimp -zeta only [id]
          assumption
    · split
      · refine okw_mk ?_ ?_
        · dsimp -zeta only
          assumption
        · intro z7 z8
          dsimp -zeta only
          dsimp -zeta only [id]
          assumption
      · split
        · extract_lets +onlyGivenNames x9
          split
          · refine okw_mk ?_ ?_
            · dsimp -zeta only
              refine picked_ok ?_
              refine ok_congr (s := s) ?_ rfl rfl rfl rfl
              assumption
            · intro z10 z11
              dsimp -zeta only
              dsimp -zeta only [id]
              assumption
          · refine okw_mk ?_ ?_
            · dsimp -zeta only
              assumption
            · intro z12 z13
              dsimp -zeta only
              dsimp -zeta only [id]
              assumption
        · refine h _ _ _ _ ?_
          assumption

theorem walkAct_ok {q : Claim} {k : Cmd} {c : Call} {w : Walk} {p : Plot} {s : State} (h : CmdOk k) (h1 : Ok q s) : OkW q (walkAct k c w p s) := by
  unfold walkAct
  split
  · refine okw_mk ?_ ?_
    · dsimp -zeta only
      assumption
    · intro z0 z1
      dsimp -zeta only
      dsimp -zeta only [id]
      assumption
  · refine actOn_ok ?_ ?_
    · assumption
    · assumption

theorem countDirect_ok {q : Claim} {k : Cmd} {c : Call} {st : Status} {s : State} (h : CmdOk k) (h1 : Ok q s) : Ok q (countDirect k c st s) := by
  unfold countDirect
  split
  · refine ok_congr (s := s) ?_ rfl rfl rfl rfl
    assumption
  · assumption

theorem countFirst_ok {q : Claim} {k : Cmd} {c : Call} {w : Walk} {st : Status} {s : State} (h : CmdOk k) (h1 : Ok q s) : Ok q (countFirst k c w st s) := by
  unfold countFirst
  split
  · assumption
  · refine countDirect_ok ?_ ?_
    · assumption
    · assumption

theorem beginInner_ok {q : Claim} {k : Cmd} {c : Call} {from_ : Option FwdFrom} {ref : Nat} {x : Work} {b : OpBody} {w : Walk}
    (h : OkW q x) : Ok q (beginInner k c from_ ref x b w).2 :=
  ok_congr h.1 rfl rfl rfl rfl

theorem walkOn_ok {q : Claim} {k : Cmd} {c : Call} {from_ : Option FwdFrom} {n : Nat} {w : Walk} {s : State} (hk : CmdOk k)
    (h : Ok q s) : Ok q (walkOn k c from_ n w s).2 := by
  induction n generalizing w s with
  | zero => exact h
  | succ n ih =>
    unfold walkOn
    split
    · exact h
    · dsimp only
      split
      · exact ih h
      · split
        · exact ih h
        · split
          · exact sendForward_ok h
          · exact ih h
        · repeat' split
          all_goals first
            | exact ih h
            | exact beginInner_ok (walkAct_ok hk h)
            | exact ih (countFirst_ok hk (walkAct_ok hk h).1)
            | exact ih (walkAct_ok hk h).1

theorem endStep_ok {q : Claim} {o : Op} {s : State} (h : Ok q s) : Ok q (endStep o s).2 := by
  unfold endStep
  extract_lets +onlyGivenNames x0
  extract_lets +onlyGivenNames x1
  dsimp -zeta only
  split
  · refine picked_ok ?_
    assumption
  · refine passSixteenths_ok ?_
    refine picked_ok ?_
    assumption

theorem goLong_ok {q : Claim} {o : Op} {s : State} (h : Ok q s) : Ok q (goLong o s) := by
  unfold goLong
  extract_lets +onlyGivenNames x0
  have hx0 : Ok q x0.2 := by
    unfold x0
    refine endStep_ok ?_
    assumption
  clear_value x0
  extract_lets +onlyGivenNames x1
  extract_lets +onlyGivenNames x2
  have hx2 : Ok q x2 := by
    unfold x2
    assumption
  clear_value x2
  extract_lets +onlyGivenNames x3
  extract_lets +onlyGivenNames x4
  have hx4 : Ok q x4 := by
    unfold x4
    refine ok_congr (s := x2) ?_ rfl rfl rfl rfl
    assumption
  clear_value x4
  split
  · refine respond_ok ?_
    assumption
  · assumption

theorem performSingle_ok {q : Claim} {k : Cmd} {c : Call} {from_ : Option FwdFrom} {p : Plot} {s : State} (h : CmdOk k) (h1 : Ok q s) : Ok q (performSingle k c from_ p s) := by
  unfold performSingle
  extract_lets +onlyGivenNames x0
  have hx0 : OkW q x0 := by
    unfold x0
    refine actOn_ok ?_ ?_
    · assumption
    · assumption
  clear_value x0
  extract_lets +onlyGivenNames x1
  have hx1 : Ok q x1 := by
    unfold x1
    refine countDirect_ok ?_ ?_
    · assumption
    · exact hx0.1
  clear_value x1
  split
  · refine goLong_ok ?_
    assumption
  · split
    · refine hx0.2 _ ?_
      assumption
    · refine hx0.2 _ ?_
      refine respond_ok ?_
      assumption

theorem performJournaled_ok {q : Claim} {k : Cmd} {c : Call} {from_ : Option FwdFrom} {b : OpBody} {s : State} (h : CmdOk k) (h1 : Ok q s) : Ok q (performJournaled k c from_ b s) := by
  unfold performJournaled
  split
  · refine respond_ok ?_
    assumption
  · refine goLong_ok ?_
    refine openRecord_ok ?_
    assumption

theorem keepReached_ok {q : Claim} {c : Call} {from_ : Option FwdFrom} {w : Walk} {s : State} (h : Ok q s) : Ok q (keepReached c from_ w s) := by
  unfold keepReached
  extract_lets +onlyGivenNames x0
  extract_lets +onlyGivenNames x1
  extract_lets +onlyGivenNames x2
  have hx2 : Ok q x2 := by
    unfold x2
    split
    · refine ok_congr (s := s) ?_ rfl rfl rfl rfl
      assumption
    · assumption
  clear_value x2
  split
  · refine ok_congr (s := x2) ?_ rfl rfl rfl rfl
    assumption
  · refine ok_congr (s := x2) ?_ rfl rfl rfl rfl
    assumption

theorem runWalk_ok {q : Claim} {k : Cmd} {c : Call} {from_ : Option FwdFrom} {w : Walk} {s : State} (h : CmdOk k) (h1 : Ok q s) : Ok q (runWalk k c from_ w s).2 := by
  unfold runWalk
  extract_lets +onlyGivenNames x0
  extract_lets +onlyGivenNames x1
  have hx1 : Ok q x1.2 := by
    unfold x1
    refine walkOn_ok ?_ ?_
    · assumption
    · refine picked_ok ?_
      assumption
  clear_value x1
  dsimp -zeta only
  refine keepReached_ok ?_
  assumption

theorem performWalk_ok {q : Claim} {k : Cmd} {c : Call} {from_ : Option FwdFrom} {w : Walk} {s : State} (h : CmdOk k) (h1 : Ok q s) : Ok q (performWalk k c from_ w s) := by
  unfold performWalk
  split
  · refine performJournaled_ok ?_ ?_
    · assumption
    · assumption
  · extract_lets +onlyGivenNames x0
    have hx0 : Ok q x0.2 := by
      unfold x0
      refine runWalk_ok ?_ ?_
      · assumption
      · assumption
    clear_value x0
    extract_lets +onlyGivenNames x1
    extract_lets +onlyGivenNames x2
    split
    · refine respond_ok ?_
      refine settled_ok ?_
      assumption
    · refine goLong_ok ?_
      assumption

theorem holdStaged_ok {q : Claim} {opno : ℕ} {mine : Bool} {busy : Bool} {m : AtomicMsg} {s : State} (h : Ok q s) : Ok q (holdStaged opno mine busy m s) := by
  unfold holdStaged
  split
  · assumption
  · split
    · refine closeRecord_ok ?_
      assumption
    · refine ok_congr (s := s) ?_ rfl rfl rfl rfl
      assumption

theorem performPart_ok {q : Claim} {k : Cmd} {c : Call} {from_ : Option FwdFrom} {w : Walk} {s : State} (h : CmdOk k) (h1 : Ok q s) : Ok q (performPart k c from_ w s) := by
  unfold performPart
  extract_lets +onlyGivenNames x0
  have hx0 : Ok q x0.2 := by
    unfold x0
    refine runWalk_ok ?_ ?_
    · assumption
    · assumption
  clear_value x0
  extract_lets +onlyGivenNames x1
  split
  · refine goLong_ok ?_
    assumption
  · refine respond_ok ?_
    assumption

theorem performAtomic_ok {q : Claim} {k : Cmd} {c : Call} {from_ : Option FwdFrom} {w : Walk} {s : State} (h : CmdOk k) (h1 : Ok q s) : Ok q (performAtomic k c from_ w s) := by
  unfold performAtomic
  extract_lets +onlyGivenNames x0
  extract_lets +onlyGivenNames x1
  split
  · refine performPart_ok ?_ ?_
    · assumption
    · assumption
  · refine performJournaled_ok ?_ ?_
    · assumption
    · split
      · assumption
      · refine ok_congr (s := s) ?_ rfl rfl rfl rfl
        assumption

theorem performAt_ok {q : Claim} {k : Cmd} {c : Call} {from_ : Option FwdFrom} {p : Plot} {rest : List ℕ} {sub : Bool} {s : State} (h : CmdOk k) (h1 : Ok q s) : Ok q (performAt k c from_ p rest sub s) := by
  unfold performAt
  extract_lets +onlyGivenNames x0
  extract_lets +onlyGivenNames x1
  split
  · split
    · refine performJournaled_ok ?_ ?_
      · assumption
      · assumption
    · refine performSingle_ok ?_ ?_
      · assumption
      · assumption
  · split
    · refine respond_ok ?_
      assumption
    · split
      · refine performAtomic_ok ?_ ?_
        · assumption
        · assumption
      · refine performWalk_ok ?_ ?_
        · assumption
        · assumption

theorem perform_ok {q : Claim} {k : Cmd} {c : Call} {from_ : Option FwdFrom} {s : State} (h : CmdOk k) (h1 : Ok q s) : Ok q (perform k c from_ s) := by
  unfold perform
  extract_lets +onlyGivenNames x0
  have hx0 : ∀ a0, Ok q (x0 a0) := by
    intro y1
    dsimp -zeta only [x0]
    refine respond_ok ?_
    assumption
  clear_value x0
  split
  · refine hx0 _
  · split
    · refine hx0 _
    · split
      · refine hx0 _
      · split
        · refine hx0 _
        · split
          · refine hx0 _
          · split
            · refine hx0 _
            · refine performAt_ok ?_ ?_
              · assumption
              · assumption
          · split
            · refine hx0 _
            · refine performAt_ok ?_ ?_
              · assumption
              · assumption

theorem serve_ok {q : Claim} {k : Cmd} {c : Call} {s : State} (h : CmdOk k) (h1 : Ok q s) : Ok q (serve k c s) := by
  unfold serve
  split
  · assumption
  · split
    · refine respond_ok ?_
      assumption
    · extract_lets +onlyGivenNames x0
      extract_lets +onlyGivenNames x1
      have hx1 : Ok q x1 := by
        unfold x1
        split
        · assumption
        · refine ok_congr (s := s) ?_ rfl rfl rfl rfl
          assumption
      clear_value x1
      refine perform_ok ?_ ?_
      · assumption
      · assumption

theorem directAct_ok {q : Claim} {stage : Call → ℕ → State → Bank → Status × Bank} {inl : Call → ℕ → State → Bytes} {after : Call → ℕ → State → State → State} {a3 : Call} {a4 : ℕ} {a5 : State} (h : ∀ b0 b1 b2 b3, Ok q b2 → Ok q b3 → Ok q (after b0 b1 b2 b3)) (h1 : Ok q a5) : OkW q (directAct stage inl after a3 a4 a5) := by
  unfold directAct
  extract_lets +onlyGivenNames x0
  split
  · extract_lets +onlyGivenNames x1
    have hx1 : Ok q x1 := by
      unfold x1
      refine h _ _ _ _ ?_ ?_
      · assumption
      · refine ok_congr (s := a5) ?_ rfl rfl rfl rfl
        assumption
    clear_value x1
    refine okw_mk ?_ ?_
    · dsimp -zeta only
      assumption
    · intro z2 z3
      dsimp -zeta only
      dsimp -zeta only [id]
      assumption
  · refine okw_mk ?_ ?_
    · dsimp -zeta only
      assumption
    · intro z4 z5
      dsimp -zeta only
      dsimp -zeta only [id]
      assumption


end Sys2Proof.Machine
end

