-- ==== Sys2Proof/Laws/Keeps/Plots.lean ====
section
/-! SUPPORT. Every function of Machine/Plots.lean that answers a state keeps the invariant and the queue. -/

namespace Sys2Proof.Machine

theorem setPlots_ok {q : Claim} {p : Plots} {s : State} (h : Ok q s) : Ok q (setPlots p s) := by
  unfold setPlots
  refine ok_congr (s := s) ?_ rfl rfl rfl rfl
  assumption

theorem actPlotDescribe_ok {q : Claim} {c : Call} {a1 : ℕ} {s : State} (h : Ok q s) : OkW q (actPlotDescribe c a1 s) := by
  unfold actPlotDescribe
  extract_lets +onlyGivenNames x0
  split
  · refine okw_mk ?_ ?_
    · dsimp -zeta only
      assumption
    · intro z1 z2
      dsimp -zeta only
      dsimp -zeta only [id]
      assumption
  · split
    · refine okw_mk ?_ ?_
      · dsimp -zeta only
        assumption
      · intro z3 z4
        dsimp -zeta only
        dsimp -zeta only [id]
        assumption
    · split
      · refine okw_mk ?_ ?_
        · dsimp -zeta only
          assumption
        · intro z5 z6
          dsimp -zeta only
          dsimp -zeta only [id]
          assumption
      · extract_lets +onlyGivenNames x7
        extract_lets +onlyGivenNames x8
        extract_lets +onlyGivenNames x9
        refine okw_mk ?_ ?_
        · dsimp -zeta only
          assumption
        · intro z10 z11
          dsimp -zeta only
          dsimp -zeta only [id]
          assumption

theorem cmdPlotDescribe_ok : CmdOk cmdPlotDescribe := by
  intro q c n s h
  unfold cmdPlotDescribe
  dsimp -zeta only
  refine actPlotDescribe_ok ?_
  assumption

theorem execPlotDescribe_ok {q : Claim} {c : Call} {s : State} (h : Ok q s) : OkR q (execPlotDescribe c s) := by
  unfold execPlotDescribe
  refine ok_goes ?_
  refine serve_ok ?_ ?_
  · refine cmdPlotDescribe_ok
  · assumption

theorem putMember_ok {q : Claim} {t : ℕ} {pos : ℕ} {ref : ℕ} {s : State} (h : Ok q s) : Ok q (putMember t pos ref s) := by
  unfold putMember
  split
  · refine setPlots_ok ?_
    assumption
  · extract_lets +onlyGivenNames x0
    refine setPlots_ok ?_
    assumption

theorem actGroupCreate_ok {q : Claim} {c : Call} {t : Nat} {s : State} (h : Ok q s) : OkW q (actGroupCreate c t s) := by
  unfold actGroupCreate
  extract_lets num pos
  clear_value num pos
  cases num <;> cases pos
  · exact okw_mk h (fun _ h => h)
  · exact okw_mk h (fun _ h => h)
  · exact okw_mk h (fun _ h => h)
  · dsimp only
    split
    · exact okw_mk h (fun _ h => h)
    · split
      · exact okw_mk h (fun _ h => h)
      · exact okw_mk (putMember_ok (setPlots_ok h)) (fun _ h => h)

theorem cmdPlotGroupCreate_ok : CmdOk cmdPlotGroupCreate := by
  intro q c n s h
  unfold cmdPlotGroupCreate
  dsimp -zeta only
  refine actGroupCreate_ok ?_
  assumption

theorem execPlotGroupCreate_ok {q : Claim} {c : Call} {s : State} (h : Ok q s) : OkR q (execPlotGroupCreate c s) := by
  unfold execPlotGroupCreate
  refine ok_goes ?_
  refine serve_ok ?_ ?_
  · refine cmdPlotGroupCreate_ok
  · assumption

theorem actGroupDelete_ok {q : Claim} {a0 : Call} {t : ℕ} {s : State} (h : Ok q s) : OkW q (actGroupDelete a0 t s) := by
  unfold actGroupDelete
  split
  · refine okw_mk ?_ ?_
    · dsimp -zeta only
      assumption
    · intro z0 z1
      dsimp -zeta only
      dsimp -zeta only [id]
      assumption
  · split
    · refine okw_mk ?_ ?_
      · dsimp -zeta only
        assumption
      · intro z2 z3
        dsimp -zeta only
        dsimp -zeta only [id]
        assumption
    · extract_lets +onlyGivenNames x4
      refine okw_mk ?_ ?_
      · dsimp -zeta only
        refine setPlots_ok ?_
        assumption
      · intro z5 z6
        dsimp -zeta only
        dsimp -zeta only [id]
        assumption

theorem cmdPlotGroupDelete_ok : CmdOk cmdPlotGroupDelete := by
  intro q c n s h
  unfold cmdPlotGroupDelete
  dsimp -zeta only
  refine actGroupDelete_ok ?_
  assumption

theorem execPlotGroupDelete_ok {q : Claim} {c : Call} {s : State} (h : Ok q s) : OkR q (execPlotGroupDelete c s) := by
  unfold execPlotGroupDelete
  refine ok_goes ?_
  refine serve_ok ?_ ?_
  · refine cmdPlotGroupDelete_ok
  · assumption

theorem actAttach_ok {q : Claim} {c : Call} {t : ℕ} {s : State} (h : Ok q s) : OkW q (actAttach c t s) := by
  unfold actAttach
  extract_lets +onlyGivenNames x0
  extract_lets +onlyGivenNames x1
  split
  · refine okw_mk ?_ ?_
    · dsimp -zeta only
      assumption
    · intro z2 z3
      dsimp -zeta only
      dsimp -zeta only [id]
      assumption
  · split
    · refine okw_mk ?_ ?_
      · dsimp -zeta only
        assumption
      · intro z4 z5
        dsimp -zeta only
        dsimp -zeta only [id]
        assumption
    · split
      · refine okw_mk ?_ ?_
        · dsimp -zeta only
          assumption
        · intro z6 z7
          dsimp -zeta only
          dsimp -zeta only [id]
          assumption
      · split
        · refine okw_mk ?_ ?_
          · dsimp -zeta only
            assumption
          · intro z8 z9
            dsimp -zeta only
            dsimp -zeta only [id]
            assumption
        · refine okw_mk ?_ ?_
          · dsimp -zeta only
            refine putMember_ok ?_
            assumption
          · intro z10 z11
            dsimp -zeta only
            dsimp -zeta only [id]
            assumption

theorem cmdPlotAttach_ok : CmdOk cmdPlotAttach := by
  intro q c n s h
  unfold cmdPlotAttach
  dsimp -zeta only
  refine actAttach_ok ?_
  assumption

theorem execPlotAttach_ok {q : Claim} {c : Call} {s : State} (h : Ok q s) : OkR q (execPlotAttach c s) := by
  unfold execPlotAttach
  refine ok_goes ?_
  refine serve_ok ?_ ?_
  · refine cmdPlotAttach_ok
  · assumption

theorem actDetach_ok {q : Claim} {c : Call} {t : ℕ} {s : State} (h : Ok q s) : OkW q (actDetach c t s) := by
  unfold actDetach
  extract_lets +onlyGivenNames x0
  split
  · refine okw_mk ?_ ?_
    · dsimp -zeta only
      assumption
    · intro z1 z2
      dsimp -zeta only
      dsimp -zeta only [id]
      assumption
  · split
    · refine okw_mk ?_ ?_
      · dsimp -zeta only
        refine setPlots_ok ?_
        assumption
      · intro z3 z4
        dsimp -zeta only
        dsimp -zeta only [id]
        assumption
    · extract_lets +onlyGivenNames x5
      refine okw_mk ?_ ?_
      · dsimp -zeta only
        refine setPlots_ok ?_
        assumption
      · intro z6 z7
        dsimp -zeta only
        dsimp -zeta only [id]
        assumption

theorem cmdPlotDetach_ok : CmdOk cmdPlotDetach := by
  intro q c n s h
  unfold cmdPlotDetach
  dsimp -zeta only
  refine actDetach_ok ?_
  assumption

theorem execPlotDetach_ok {q : Claim} {c : Call} {s : State} (h : Ok q s) : OkR q (execPlotDetach c s) := by
  unfold execPlotDetach
  refine ok_goes ?_
  refine serve_ok ?_ ?_
  · refine cmdPlotDetach_ok
  · assumption

theorem keepRejoin_ok {q : Claim} {c : Call} {s : State} (h : Ok q s) : Ok q (keepRejoin c s) := by
  unfold keepRejoin
  refine ok_congr (s := s) ?_ rfl rfl rfl rfl
  assumption

theorem startJoin_ok {q : Claim} {img : Img} {s : State} (h : Ok q s) : Ok q (startJoin img s) := by
  unfold startJoin
  refine ok_congr (s := s) ?_ rfl rfl rfl rfl
  assumption

theorem actFieldJoin_ok {q : Claim} {c : Call} {a1 : ℕ} {s : State} (h : Ok q s) : OkW q (actFieldJoin c a1 s) := by
  unfold actFieldJoin
  extract_lets +onlyGivenNames x0
  split
  · split
    · extract_lets +onlyGivenNames x1
      extract_lets +onlyGivenNames x2
      have hx2 : Ok q x2 := by
        unfold x2
        refine ok_congr (s := s) ?_ rfl rfl rfl rfl
        assumption
      clear_value x2
      refine okw_mk ?_ ?_
      · dsimp -zeta only
        assumption
      · intro z3 z4
        dsimp -zeta only
        dsimp -zeta only [id]
        assumption
    · refine okw_mk ?_ ?_
      · dsimp -zeta only
        assumption
      · intro z5 z6
        dsimp -zeta only
        dsimp -zeta only [id]
        assumption
  · split
    · refine okw_mk ?_ ?_
      · dsimp -zeta only
        assumption
      · intro z7 z8
        dsimp -zeta only
        dsimp -zeta only [id]
        assumption
    · refine okw_mk ?_ ?_
      · dsimp -zeta only
        refine startJoin_ok ?_
        refine keepRejoin_ok ?_
        assumption
      · intro z9 z10
        dsimp -zeta only
        dsimp -zeta only [id]
        assumption

theorem cmdFieldJoin_ok : CmdOk cmdFieldJoin := by
  intro q c n s h
  unfold cmdFieldJoin
  dsimp -zeta only
  refine actFieldJoin_ok ?_
  assumption

theorem execFieldJoin_ok {q : Claim} {c : Call} {s : State} (h : Ok q s) : OkR q (execFieldJoin c s) := by
  unfold execFieldJoin
  refine ok_goes ?_
  refine serve_ok ?_ ?_
  · refine cmdFieldJoin_ok
  · assumption


end Sys2Proof.Machine
end

