-- ==== Sys2Proof/Laws/Keeps/Rows.lean ====
section
/-! SUPPORT. Every function of Machine/Rows.lean that answers a state keeps the invariant and the queue. -/

namespace Sys2Proof.Machine

theorem cmdRowBind_ok : CmdOk cmdRowBind := by
  intro q c n s h
  unfold cmdRowBind
  dsimp -zeta only
  refine directAct_ok ?_ ?_
  · intro z0 z1 z2 z3
    exact fun _ h => h
  · assumption

theorem execRowBind_ok {q : Claim} {c : Call} {s : State} (h : Ok q s) : OkR q (execRowBind c s) := by
  unfold execRowBind
  refine ok_goes ?_
  refine serve_ok ?_ ?_
  · refine cmdRowBind_ok
  · assumption

theorem actRowEnable_ok {q : Claim} {a0 : Call} {r : ℕ} {s : State} (h : Ok q s) : OkW q (actRowEnable a0 r s) := by
  unfold actRowEnable
  split
  · refine okw_mk ?_ ?_
    · dsimp -zeta only
      assumption
    · intro z0 z1
      dsimp -zeta only
      dsimp -zeta only [id]
      assumption
  · split
    · refine okw_mk ?_ ?_
      · dsimp -zeta only
        assumption
      · intro z2 z3
        dsimp -zeta only
        dsimp -zeta only [id]
        assumption
    · refine okw_mk ?_ ?_
      · dsimp -zeta only
        refine enableRow_ok ?_
        assumption
      · intro z4 z5
        dsimp -zeta only
        dsimp -zeta only [id]
        assumption

theorem cmdRowEnable_ok : CmdOk cmdRowEnable := by
  intro q c n s h
  unfold cmdRowEnable
  dsimp -zeta only
  refine actRowEnable_ok ?_
  assumption

theorem execRowEnable_ok {q : Claim} {c : Call} {s : State} (h : Ok q s) : OkR q (execRowEnable c s) := by
  unfold execRowEnable
  refine ok_goes ?_
  refine serve_ok ?_ ?_
  · refine cmdRowEnable_ok
  · assumption

theorem actRowDisable_ok {q : Claim} {a0 : Call} {r : ℕ} {s : State} (h : Ok q s) : OkW q (actRowDisable a0 r s) := by
  unfold actRowDisable
  split
  · refine okw_mk ?_ ?_
    · dsimp -zeta only
      assumption
    · intro z0 z1
      dsimp -zeta only
      dsimp -zeta only [id]
      assumption
  · split
    · refine okw_mk ?_ ?_
      · dsimp -zeta only
        assumption
      · intro z2 z3
        dsimp -zeta only
        dsimp -zeta only [id]
        assumption
    · refine okw_mk ?_ ?_
      · dsimp -zeta only
        refine disableRow_ok ?_
        assumption
      · intro z4 z5
        dsimp -zeta only
        dsimp -zeta only [id]
        assumption

theorem cmdRowDisable_ok : CmdOk cmdRowDisable := by
  intro q c n s h
  unfold cmdRowDisable
  dsimp -zeta only
  refine actRowDisable_ok ?_
  assumption

theorem execRowDisable_ok {q : Claim} {c : Call} {s : State} (h : Ok q s) : OkR q (execRowDisable c s) := by
  unfold execRowDisable
  refine ok_goes ?_
  refine serve_ok ?_ ?_
  · refine cmdRowDisable_ok
  · assumption

theorem actRowStats_ok {q : Claim} {c : Call} {r : ℕ} {s : State} (h : Ok q s) : OkW q (actRowStats c r s) := by
  unfold actRowStats
  extract_lets +onlyGivenNames x0
  extract_lets +onlyGivenNames x1
  refine okw_mk ?_ ?_
  · dsimp -zeta only
    split
    · assumption
    · refine setRowRt_ok ?_
      assumption
  · intro z2 z3
    dsimp -zeta only
    dsimp -zeta only [id]
    assumption

theorem cmdRowStats_ok : CmdOk cmdRowStats := by
  intro q c n s h
  unfold cmdRowStats
  dsimp -zeta only
  refine actRowStats_ok ?_
  assumption

theorem execRowStats_ok {q : Claim} {c : Call} {s : State} (h : Ok q s) : OkR q (execRowStats c s) := by
  unfold execRowStats
  refine ok_goes ?_
  refine serve_ok ?_ ?_
  · refine cmdRowStats_ok
  · assumption

theorem cmdRowFramingSet_ok : CmdOk cmdRowFramingSet := by
  intro q c n s h
  unfold cmdRowFramingSet
  dsimp -zeta only
  refine directAct_ok ?_ ?_
  · intro z0 z1 z2 z3
    exact fun _ h => h
  · assumption

theorem execRowFramingSet_ok {q : Claim} {c : Call} {s : State} (h : Ok q s) : OkR q (execRowFramingSet c s) := by
  unfold execRowFramingSet
  refine ok_goes ?_
  refine serve_ok ?_ ?_
  · refine cmdRowFramingSet_ok
  · assumption


end Sys2Proof.Machine
end

