-- ==== Sys2Proof/Laws/Keeps/Semaphores.lean ====
section
/-! SUPPORT. Every function of Machine/Semaphores.lean that answers a state keeps the invariant and the queue. -/

namespace Sys2Proof.Machine

theorem logError_ok {q : Claim} {e : ErrEntry} {s : State} (h : Ok q s) : Ok q (logError e s).2 := by
  unfold logError
  extract_lets +onlyGivenNames x0
  extract_lets +onlyGivenNames x1
  extract_lets +onlyGivenNames x2
  have hx2 : Ok q x2 := by
    unfold x2
    refine ok_congr (s := s) ?_ rfl rfl rfl rfl
    assumption
  clear_value x2
  split
  · dsimp -zeta only
    refine ok_congr (s := x2) ?_ rfl rfl rfl rfl
    assumption
  · extract_lets +onlyGivenNames x3
    extract_lets +onlyGivenNames x4
    have hx4 : Ok q x4 := by
      unfold x4
      refine ok_congr (s := x2) ?_ rfl rfl rfl rfl
      assumption
    dsimp -zeta only
    split
    · refine raise_ok ?_
      assumption
    · assumption

theorem logRaise_ok {q : Claim} {event : ℕ} {e : ErrEntry} {s : State} (h : Ok q s) : Ok q (logRaise event e s) := by
  unfold logRaise
  extract_lets +onlyGivenNames x0
  have hx0 : Ok q x0.2 := by
    unfold x0
    refine logError_ok ?_
    assumption
  clear_value x0
  refine raise_ok ?_
  assumption

theorem semTake_ok {q : Claim} {r : Requester} {n : ℕ} {s : State} (h : Ok q s) : Ok q (semTake r n s).2 := by
  unfold semTake
  split
  · dsimp -zeta only
    assumption
  · dsimp -zeta only
    refine ok_congr (s := s) ?_ rfl rfl rfl rfl
    assumption

theorem semGive_ok {q : Claim} {r : Requester} {n : ℕ} {s : State} (h : Ok q s) : Ok q (semGive r n s) := by
  unfold semGive
  split
  · refine raise_ok ?_
    refine ok_congr (s := s) ?_ rfl rfl rfl rfl
    assumption
  · refine logError_ok ?_
    assumption

theorem freeSems_ok {q : Claim} {own : Requester → Bool} {s : State} (h : Ok q s) : Ok q (freeSems own s) := by
  unfold freeSems
  refine ok_foldl ?_ ?_
  · assumption
  · intro z0 z1 z2
    refine raise_ok ?_
    refine ok_congr (s := z0) ?_ rfl rfl rfl rfl
    assumption

theorem dropKeptOf_ok {q : Claim} {hit : ℕ → Bool} {s : State} (h : Ok q s) : Ok q (dropKeptOf hit s) := by
  unfold dropKeptOf
  refine ok_congr (s := s) ?_ rfl rfl rfl rfl
  assumption

theorem dropKept_ok {q : Claim} {kind : ℕ} {k : ℕ} {addr : ℕ} {len : ℕ} {s : State} (h : Ok q s) : Ok q (dropKept kind k addr len s) := by
  unfold dropKept
  refine ok_congr (s := s) ?_ rfl rfl rfl rfl
  assumption


end Sys2Proof.Machine
end

