-- ==== Sys2Proof/Laws/Keeps/FieldCmds.lean ====
section
/-! SUPPORT. Every function of Machine/FieldCmds.lean that answers a state keeps the invariant and the queue. -/

namespace Sys2Proof.Machine

theorem guardAct_ok {q : Claim} {kind : ℕ} {inst : Call → ℕ} {act : Call → ℕ → State → Work} {c : Call} {t : ℕ} {s : State} (h : ∀ b0 b1 b2, Ok q b2 → OkW q (act b0 b1 b2)) (h1 : Ok q s) : OkW q (guardAct kind inst act c t s) := by
  unfold guardAct
  split
  · refine okw_mk ?_ ?_
    · dsimp -zeta only
      refine logError_ok ?_
      assumption
    · intro z0
      intro z1
      dsimp -zeta only
      dsimp -zeta only [id]
      assumption
  · extract_lets +onlyGivenNames x2
    have hx2 : OkW q x2 := by
      unfold x2
      refine h _ _ _ ?_
      assumption
    clear_value x2
    split
    · refine okw_mk ?_ ?_
      · dsimp -zeta only
        refine dropKept_ok ?_
        exact hx2.1
      · intro z3
        intro z4
        dsimp -zeta only
        refine hx2.2 _ ?_
        assumption
    · assumption

theorem drivePins_ok {q : Claim} {s : State} (h : Ok q s) : Ok q (drivePins s) := by
  unfold drivePins
  refine ok_congr (s := s) ?_ rfl rfl rfl rfl
  assumption

theorem idle_ok {q : Claim} {s : State} (h : Ok q s) : Ok q (idle s) := by
  unfold idle
  refine drivePins_ok ?_
  refine tick_ok ?_
  assumption

theorem cmdFieldPinAssign_ok : CmdOk cmdFieldPinAssign := by
  intro q c n s h
  unfold cmdFieldPinAssign
  dsimp -zeta only
  refine guardAct_ok ?_ ?_
  · intro z0 z1 z2 z3
    refine directAct_ok ?_ ?_
    · intro z4 z5 z6 z7 z8 z9
      refine drivePins_ok ?_
      assumption
    · assumption
  · assumption

theorem execFieldPinAssign_ok {q : Claim} {c : Call} {s : State} (h : Ok q s) : OkR q (execFieldPinAssign c s) := by
  unfold execFieldPinAssign
  refine ok_goes ?_
  refine serve_ok ?_ ?_
  · refine cmdFieldPinAssign_ok
  · assumption

theorem canRecover_ok {q : Claim} {k : ℕ} {s : State} (h : Ok q s) : Ok q (canRecover k s) := by
  unfold canRecover
  split
  · refine canState_ok ?_
    assumption
  · assumption

theorem afterCan_ok {q : Claim} {c : Call} {a1 : ℕ} {old : State} {s : State} (h : Ok q old) (h1 : Ok q s) : Ok q (afterCan c a1 old s) := by
  unfold afterCan
  extract_lets +onlyGivenNames x0
  split
  · assumption
  · extract_lets +onlyGivenNames x1
    extract_lets +onlyGivenNames x2
    have hx2 : Ok q x2 := by
      unfold x2
      refine setCan_ok ?_
      assumption
    clear_value x2
    split
    · refine canRecover_ok ?_
      assumption
    · assumption

theorem cmdCanConfig_ok : CmdOk cmdCanConfig := by
  intro q c n s h
  unfold cmdCanConfig
  dsimp -zeta only
  refine guardAct_ok ?_ ?_
  · intro z0 z1 z2 z3
    refine directAct_ok ?_ ?_
    · intro z4 z5 z6 z7 z8 z9
      refine afterCan_ok ?_ ?_
      · assumption
      · assumption
    · assumption
  · assumption

theorem execCanConfig_ok {q : Claim} {c : Call} {s : State} (h : Ok q s) : OkR q (execCanConfig c s) := by
  unfold execCanConfig
  refine ok_goes ?_
  refine serve_ok ?_ ?_
  · refine cmdCanConfig_ok
  · assumption

theorem cmdCanRecover_ok : CmdOk cmdCanRecover := by
  intro q c n s h
  unfold cmdCanRecover
  dsimp -zeta only
  refine guardAct_ok ?_ ?_
  · intro z0 z1 z2 z3
    refine directAct_ok ?_ ?_
    · intro z4 z5 z6 z7 z8 z9
      refine afterCan_ok ?_ ?_
      · assumption
      · assumption
    · assumption
  · assumption

theorem execCanRecover_ok {q : Claim} {c : Call} {s : State} (h : Ok q s) : OkR q (execCanRecover c s) := by
  unfold execCanRecover
  refine ok_goes ?_
  refine serve_ok ?_ ?_
  · refine cmdCanRecover_ok
  · assumption

theorem cmdUartConfig_ok : CmdOk cmdUartConfig := by
  intro q c n s h
  unfold cmdUartConfig
  dsimp -zeta only
  refine guardAct_ok ?_ ?_
  · intro z0 z1 z2 z3
    refine directAct_ok ?_ ?_
    · intro z4 z5 z6 z7 z8 z9
      refine drivePins_ok ?_
      assumption
    · assumption
  · assumption

theorem execUartConfig_ok {q : Claim} {c : Call} {s : State} (h : Ok q s) : OkR q (execUartConfig c s) := by
  unfold execUartConfig
  refine ok_goes ?_
  refine serve_ok ?_ ?_
  · refine cmdUartConfig_ok
  · assumption

theorem afterLin_ok {q : Claim} {c : Call} {a1 : ℕ} {old : State} {s : State} (h : Ok q old) (h1 : Ok q s) : Ok q (afterLin c a1 old s) := by
  unfold afterLin
  extract_lets +onlyGivenNames x0
  split
  · refine setLin_ok ?_
    assumption
  · refine setLin_ok ?_
    assumption

theorem cmdLinConfig_ok : CmdOk cmdLinConfig := by
  intro q c n s h
  unfold cmdLinConfig
  dsimp -zeta only
  refine guardAct_ok ?_ ?_
  · intro z0 z1 z2 z3
    refine directAct_ok ?_ ?_
    · intro z4 z5 z6 z7 z8 z9
      refine afterLin_ok ?_ ?_
      · assumption
      · assumption
    · assumption
  · assumption

theorem execLinConfig_ok {q : Claim} {c : Call} {s : State} (h : Ok q s) : OkR q (execLinConfig c s) := by
  unfold execLinConfig
  refine ok_goes ?_
  refine serve_ok ?_ ?_
  · refine cmdLinConfig_ok
  · assumption

theorem afterMvb_ok {q : Claim} {c : Call} {a1 : ℕ} {old : State} {s : State} (h : Ok q old) (h1 : Ok q s) : Ok q (afterMvb c a1 old s) := by
  unfold afterMvb
  extract_lets +onlyGivenNames x0
  split
  · assumption
  · refine setMvb_ok ?_
    assumption

theorem cmdMvbConfig_ok : CmdOk cmdMvbConfig := by
  intro q c n s h
  unfold cmdMvbConfig
  dsimp -zeta only
  refine guardAct_ok ?_ ?_
  · intro z0
    intro z1
    intro z2
    intro z3
    refine directAct_ok ?_ ?_
    · intro z4
      intro z5
      intro z6
      intro z7
      intro z8
      intro z9
      refine afterMvb_ok ?_ ?_
      · assumption
      · assumption
    · assumption
  · assumption

theorem execMvbConfig_ok {q : Claim} {c : Call} {s : State} (h : Ok q s) : OkR q (execMvbConfig c s) := by
  unfold execMvbConfig
  refine ok_goes ?_
  refine serve_ok ?_ ?_
  · refine cmdMvbConfig_ok
  · assumption

theorem clearCounters_ok {q : Claim} {kind : ℕ} {k : ℕ} {s : State} (h : Ok q s) : Ok q (clearCounters kind k s) := by
  unfold clearCounters
  split
  · refine setCan_ok ?_
    assumption
  · refine setUart_ok ?_
    assumption
  · refine setLin_ok ?_
    assumption
  · refine setMvb_ok ?_
    assumption
  · assumption

theorem sampleInputs_ok {q : Claim} {s : State} (h : Ok q s) : Ok q (sampleInputs s) := by
  unfold sampleInputs
  extract_lets +onlyGivenNames x0
  have hx0 : Ok q x0 := by
    unfold x0
    refine picked_ok ?_
    assumption
  clear_value x0
  refine ok_congr (s := x0) ?_ rfl rfl rfl rfl
  assumption

theorem actBusState_ok {q : Claim} {c : Call} {a1 : ℕ} {s : State} (h : Ok q s) : OkW q (actBusState c a1 s) := by
  unfold actBusState
  extract_lets +onlyGivenNames x0
  extract_lets +onlyGivenNames x1
  split
  · extract_lets +onlyGivenNames x2
    have hx2 : Ok q x2 := by
      unfold x2
      refine drivePins_ok ?_
      refine sampleInputs_ok ?_
      assumption
    clear_value x2
    split
    · extract_lets +onlyGivenNames x3
      refine okw_mk ?_ ?_
      · dsimp -zeta only
        refine ok_congr (s := x2) ?_ rfl rfl rfl rfl
        assumption
      · intro z4 z5
        dsimp -zeta only
        dsimp -zeta only [id]
        assumption
    · refine okw_mk ?_ ?_
      · dsimp -zeta only
        assumption
      · intro z6 z7
        dsimp -zeta only
        dsimp -zeta only [id]
        assumption
  · refine okw_mk ?_ ?_
    · dsimp -zeta only
      split
      · assumption
      · refine clearCounters_ok ?_
        assumption
    · intro z8 z9
      dsimp -zeta only
      dsimp -zeta only [id]
      assumption

theorem cmdFieldBusState_ok : CmdOk cmdFieldBusState := by
  intro q c n s h
  unfold cmdFieldBusState
  dsimp -zeta only
  refine actBusState_ok ?_
  assumption

theorem cmdFieldPinState_ok : CmdOk cmdFieldPinState := by
  intro q c n s h
  exact cmdFieldBusState_ok q c n s h

theorem busStateCmd_ok {c : Call} : CmdOk (busStateCmd c) := by
  unfold busStateCmd
  split
  · exact cmdFieldPinState_ok
  · exact cmdFieldBusState_ok

theorem execFieldBusState_ok {q : Claim} {c : Call} {s : State} (h : Ok q s) : OkR q (execFieldBusState c s) :=
  ok_goes (serve_ok busStateCmd_ok h)


end Sys2Proof.Machine
end

