-- ==== Sys2Proof/Laws/Keeps/Ports.lean ====
section
/-! SUPPORT. Every function of Machine/Ports.lean that answers a state keeps the invariant and the queue. -/

namespace Sys2Proof.Machine

theorem setPort_ok {q : Claim} {p : ℕ} {v : PortRt} {s : State} (h : Ok q s) : Ok q (setPort p v s) := by
  unfold setPort
  refine ok_congr (s := s) ?_ rfl rfl rfl rfl
  assumption

theorem sendMpacket_ok {q : Claim} {p : ℕ} {respond : Bool} {s : State} (h : Ok q s) : Ok q (sendMpacket p respond s) := by
  unfold sendMpacket
  split
  · refine emit_ok ?_
    refine countPort_ok ?_
    assumption
  · split
    · refine countPort_ok ?_
      assumption
    · extract_lets +onlyGivenNames x0
      have hx0 : Ok q x0 := by
        unfold x0
        refine countPort_ok ?_
        assumption
      clear_value x0
      split
      · refine setPort_ok ?_
        assumption
      · assumption

theorem startVerify_ok {q : Claim} {p : ℕ} {s : State} (h : Ok q s) : Ok q (startVerify p s) := by
  unfold startVerify
  extract_lets +onlyGivenNames x0
  split
  · split
    · refine sendMpacket_ok ?_
      refine setPort_ok ?_
      assumption
    · refine setPort_ok ?_
      assumption
  · refine setPort_ok ?_
    assumption

theorem goDown_ok {q : Claim} {p : ℕ} {s : State} (h : Ok q s) : Ok q (goDown p s) := by
  unfold goDown
  refine raise_ok ?_
  refine setPort_ok ?_
  assumption

theorem goUp_ok {q : Claim} {p : ℕ} {speed : ℕ} {s : State} (h : Ok q s) : Ok q (goUp p speed s) := by
  unfold goUp
  refine startVerify_ok ?_
  refine raise_ok ?_
  refine setPort_ok ?_
  assumption

theorem flushOne_ok {q : Claim} {p : ℕ} {s : State} {c : Copy} (h : Ok q s) : Ok q (flushOne p s c) := by
  unfold flushOne
  refine discardCopy_ok ?_
  refine countPort_ok ?_
  assumption

theorem flushPortQueues_ok {q : Claim} {p : ℕ} {s : State} (h : Ok q s) : Ok q (flushPortQueues p s) := by
  unfold flushPortQueues
  refine ok_foldl ?_ ?_
  · refine ok_congr (s := s) ?_ rfl rfl rfl rfl
    assumption
  · intro z0 z1 z2
    refine flushOne_ok ?_
    assumption

theorem finishHeld_ok {q : Claim} {p : ℕ} {s : State} (h : Ok q s) : Ok q (finishHeld p s) := by
  unfold finishHeld
  split
  · refine countPort_ok ?_
    refine ok_congr (s := s) ?_ rfl rfl rfl rfl
    assumption
  · assumption

theorem dropLink_ok {q : Claim} {p : ℕ} {s : State} (h : Ok q s) : Ok q (dropLink p s) := by
  unfold dropLink
  extract_lets +onlyGivenNames x0
  extract_lets +onlyGivenNames x1
  have hx1 : Ok q x1 := by
    unfold x1
    split
    · refine countPort_ok ?_
      refine endCopy_ok ?_
      refine ok_congr (s := s) ?_ rfl rfl rfl rfl
      assumption
    · assumption
  clear_value x1
  extract_lets +onlyGivenNames x2
  extract_lets +onlyGivenNames x3
  have hx3 : Ok q x3 := by
    unfold x3
    split
    · refine countPort_ok ?_
      refine endCopy_ok ?_
      refine ok_congr (s := x1) ?_ rfl rfl rfl rfl
      assumption
    · assumption
  clear_value x3
  extract_lets +onlyGivenNames x4
  extract_lets +onlyGivenNames x5
  extract_lets +onlyGivenNames x6
  extract_lets +onlyGivenNames x7
  have hx7 : Ok q x7 := by
    unfold x7
    refine setPort_ok ?_
    refine ok_congr (s := x3) ?_ rfl rfl rfl rfl
    assumption
  clear_value x7
  split
  · refine setPort_ok ?_
    assumption
  · assumption

theorem takePort_ok {q : Claim} {p : ℕ} {i : Img} {s : State} (h : Ok q s) : Ok q (takePort p i s) := by
  unfold takePort
  extract_lets +onlyGivenNames x0
  extract_lets +onlyGivenNames x1
  extract_lets +onlyGivenNames x2
  extract_lets +onlyGivenNames x3
  extract_lets +onlyGivenNames x4
  have hx4 : Ok q x4 := by
    unfold x4
    refine ok_congr (s := s) ?_ rfl rfl rfl rfl
    assumption
  clear_value x4
  extract_lets +onlyGivenNames x5
  split
  · split
    · refine goUp_ok ?_
      assumption
    · refine startVerify_ok ?_
      refine setPort_ok ?_
      assumption
  · split
    · extract_lets +onlyGivenNames x6
      have hx6 : Ok q x6 := by
        unfold x6
        refine finishHeld_ok ?_
        refine flushPortQueues_ok ?_
        assumption
      clear_value x6
      refine setPort_ok ?_
      assumption
    · assumption

theorem actPortConfig_ok {q : Claim} {c : Call} {a1 : ℕ} {s : State} (h : Ok q s) : OkW q (actPortConfig c a1 s) := by
  unfold actPortConfig
  extract_lets +onlyGivenNames x0
  extract_lets +onlyGivenNames x1
  extract_lets +onlyGivenNames x2
  extract_lets +onlyGivenNames x3
  extract_lets +onlyGivenNames x4
  split
  · refine okw_mk ?_ ?_
    · dsimp -zeta only
      assumption
    · intro z5 z6
      dsimp -zeta only
      dsimp -zeta only [id]
      assumption
  · split
    · refine okw_mk ?_ ?_
      · dsimp -zeta only
        assumption
      · intro z7 z8
        dsimp -zeta only
        dsimp -zeta only [id]
        assumption
    · extract_lets +onlyGivenNames x9
      refine okw_mk ?_ ?_
      · dsimp -zeta only
        refine takePort_ok ?_
        refine ok_congr (s := s) ?_ rfl rfl rfl rfl
        assumption
      · intro z10 z11
        dsimp -zeta only
        dsimp -zeta only [id]
        assumption

theorem cmdPortConfig_ok : CmdOk cmdPortConfig := by
  intro q c n s h
  unfold cmdPortConfig
  dsimp -zeta only
  refine actPortConfig_ok ?_
  assumption

theorem execPortConfig_ok {q : Claim} {c : Call} {s : State} (h : Ok q s) : OkR q (execPortConfig c s) := by
  unfold execPortConfig
  refine ok_goes ?_
  refine serve_ok ?_ ?_
  · refine cmdPortConfig_ok
  · assumption

theorem setFurrow_ok {q : Claim} {p : ℕ} {v : FurrowRt} {s : State} (h : Ok q s) : Ok q (setFurrow p v s) := by
  unfold setFurrow
  refine ok_congr (s := s) ?_ rfl rfl rfl rfl
  assumption

theorem actPortState_ok {q : Claim} {c : Call} {a1 : ℕ} {s : State} (h : Ok q s) : OkW q (actPortState c a1 s) := by
  unfold actPortState
  extract_lets +onlyGivenNames x0
  extract_lets +onlyGivenNames x1
  extract_lets +onlyGivenNames x2
  extract_lets +onlyGivenNames x3
  extract_lets +onlyGivenNames x4
  refine okw_mk ?_ ?_
  · dsimp -zeta only
    refine picked_ok ?_
    assumption
  · intro z5 z6
    dsimp -zeta only
    dsimp -zeta only [id]
    assumption

theorem cmdPortState_ok : CmdOk cmdPortState := by
  intro q c n s h
  unfold cmdPortState
  dsimp -zeta only
  refine actPortState_ok ?_
  assumption

theorem execPortState_ok {q : Claim} {c : Call} {s : State} (h : Ok q s) : OkR q (execPortState c s) := by
  unfold execPortState
  refine ok_goes ?_
  refine serve_ok ?_ ?_
  · refine cmdPortState_ok
  · assumption

theorem setHash_ok {q : Claim} {p : ℕ} {v : BitVec 512} {s : State} (h : Ok q s) : Ok q (setHash p v s) := by
  unfold setHash
  refine ok_congr (s := s) ?_ rfl rfl rfl rfl
  assumption

theorem actFilterSet_ok {q : Claim} {c : Call} {a1 : ℕ} {s : State} (h : Ok q s) : OkW q (actFilterSet c a1 s) := by
  unfold actFilterSet
  extract_lets +onlyGivenNames x0
  extract_lets +onlyGivenNames x1
  extract_lets +onlyGivenNames x2
  refine okw_mk ?_ ?_
  · dsimp -zeta only
    split
    · refine ok_congr (s := s) ?_ rfl rfl rfl rfl
      assumption
    · refine ok_congr (s := s) ?_ rfl rfl rfl rfl
      assumption
    · refine setHash_ok ?_
      assumption
    · refine setHash_ok ?_
      assumption
  · intro z3 z4
    dsimp -zeta only
    dsimp -zeta only [id]
    assumption

theorem actFilterClear_ok {q : Claim} {c : Call} {a1 : ℕ} {s : State} (h : Ok q s) : OkW q (actFilterClear c a1 s) := by
  unfold actFilterClear
  extract_lets +onlyGivenNames x0
  extract_lets +onlyGivenNames x1
  extract_lets +onlyGivenNames x2
  refine okw_mk ?_ ?_
  · dsimp -zeta only
    split
    · refine ok_congr (s := s) ?_ rfl rfl rfl rfl
      assumption
    · refine ok_congr (s := s) ?_ rfl rfl rfl rfl
      assumption
    · refine setHash_ok ?_
      assumption
    · refine setHash_ok ?_
      assumption
  · intro z3 z4
    dsimp -zeta only
    dsimp -zeta only [id]
    assumption

theorem cmdPortFilterSet_ok : CmdOk cmdPortFilterSet := by
  intro q c n s h
  unfold cmdPortFilterSet
  dsimp -zeta only
  refine actFilterSet_ok ?_
  assumption

theorem execPortFilterSet_ok {q : Claim} {c : Call} {s : State} (h : Ok q s) : OkR q (execPortFilterSet c s) := by
  unfold execPortFilterSet
  refine ok_goes ?_
  refine serve_ok ?_ ?_
  · refine cmdPortFilterSet_ok
  · assumption

theorem cmdPortFilterClear_ok : CmdOk cmdPortFilterClear := by
  intro q c n s h
  unfold cmdPortFilterClear
  dsimp -zeta only
  refine actFilterClear_ok ?_
  assumption

theorem execPortFilterClear_ok {q : Claim} {c : Call} {s : State} (h : Ok q s) : OkR q (execPortFilterClear c s) := by
  unfold execPortFilterClear
  refine ok_goes ?_
  refine serve_ok ?_ ?_
  · refine cmdPortFilterClear_ok
  · assumption

theorem updateCredit_ok {q : Claim} {p : ℕ} {tc : ℕ} {s : State} (h : Ok q s) : Ok q (updateCredit p tc s) := by
  unfold updateCredit
  split
  · assumption
  · extract_lets +onlyGivenNames x0
    extract_lets +onlyGivenNames x1
    extract_lets +onlyGivenNames x2
    extract_lets +onlyGivenNames x3
    extract_lets +onlyGivenNames x4
    extract_lets +onlyGivenNames x5
    extract_lets +onlyGivenNames x6
    extract_lets +onlyGivenNames x7
    refine ok_congr (s := s) ?_ rfl rfl rfl rfl
    assumption

theorem updateCredits_ok {q : Claim} {p : ℕ} {s : State} (h : Ok q s) : Ok q (updateCredits p s) := by
  unfold updateCredits
  refine ok_foldl ?_ ?_
  · assumption
  · intro z0 z1 z2
    refine updateCredit_ok ?_
    assumption

theorem actPause_ok {q : Claim} {c : Call} {a1 : ℕ} {s : State} (h : Ok q s) : OkW q (actPause c a1 s) := by
  unfold actPause
  extract_lets +onlyGivenNames x0
  extract_lets +onlyGivenNames x1
  extract_lets +onlyGivenNames x2
  extract_lets +onlyGivenNames x3
  extract_lets +onlyGivenNames x4
  have hx4 : Ok q x4 := by
    unfold x4
    refine ok_congr (s := s) ?_ rfl rfl rfl rfl
    assumption
  clear_value x4
  refine okw_mk ?_ ?_
  · dsimp -zeta only
    split
    · extract_lets +onlyGivenNames x5
      have hx5 : Ok q x5 := by
        unfold x5
        refine updateCredits_ok ?_
        assumption
      clear_value x5
      refine setPort_ok ?_
      assumption
    · assumption
  · intro z6 z7
    dsimp -zeta only
    dsimp -zeta only [id]
    assumption

theorem clearImmune_ok {q : Claim} {s : State} (h : Ok q s) : Ok q (clearImmune s) := by
  unfold clearImmune
  extract_lets +onlyGivenNames x0
  refine ok_congr (s := s) ?_ rfl rfl rfl rfl
  assumption

theorem cmdPortPauseSet_ok : CmdOk cmdPortPauseSet := by
  intro q c n s h
  unfold cmdPortPauseSet
  dsimp -zeta only
  refine actPause_ok ?_
  assumption

theorem execPortPauseSet_ok {q : Claim} {c : Call} {s : State} (h : Ok q s) : OkR q (execPortPauseSet c s) := by
  unfold execPortPauseSet
  refine ok_goes ?_
  refine serve_ok ?_ ?_
  · refine cmdPortPauseSet_ok
  · assumption

theorem actPreempt_ok {q : Claim} {c : Call} {a1 : ℕ} {s : State} (h : Ok q s) : OkW q (actPreempt c a1 s) := by
  unfold actPreempt
  extract_lets +onlyGivenNames x0
  extract_lets +onlyGivenNames x1
  refine okw_mk ?_ ?_
  · dsimp -zeta only
    refine startVerify_ok ?_
    refine ok_congr (s := s) ?_ rfl rfl rfl rfl
    assumption
  · intro z2 z3
    dsimp -zeta only
    dsimp -zeta only [id]
    assumption

theorem cmdPortPreemptSet_ok : CmdOk cmdPortPreemptSet := by
  intro q c n s h
  unfold cmdPortPreemptSet
  dsimp -zeta only
  refine actPreempt_ok ?_
  assumption

theorem execPortPreemptSet_ok {q : Claim} {c : Call} {s : State} (h : Ok q s) : OkR q (execPortPreemptSet c s) := by
  unfold execPortPreemptSet
  refine ok_goes ?_
  refine serve_ok ?_ ?_
  · refine cmdPortPreemptSet_ok
  · assumption

theorem actSnap_ok {q : Claim} {c : Call} {a1 : ℕ} {s : State} (h : Ok q s) : OkW q (actSnap c a1 s) := by
  unfold actSnap
  extract_lets +onlyGivenNames x0
  refine okw_mk ?_ ?_
  · dsimp -zeta only
    refine ok_congr (s := s) ?_ rfl rfl rfl rfl
    assumption
  · intro z1 z2
    dsimp -zeta only
    dsimp -zeta only [id]
    assumption

theorem cmdPortStatsSnap_ok : CmdOk cmdPortStatsSnap := by
  intro q c n s h
  unfold cmdPortStatsSnap
  dsimp -zeta only
  refine actSnap_ok ?_
  assumption

theorem execPortStatsSnap_ok {q : Claim} {c : Call} {s : State} (h : Ok q s) : OkR q (execPortStatsSnap c s) := by
  unfold execPortStatsSnap
  refine ok_goes ?_
  refine serve_ok ?_ ?_
  · refine cmdPortStatsSnap_ok
  · assumption


end Sys2Proof.Machine
end

