-- ==== Sys2Proof/Laws/Keeps/Gates.lean ====
section
/-! SUPPORT. Every function of Machine/Gates.lean that answers a state keeps the invariant and the queue. -/

namespace Sys2Proof.Machine

theorem cutFrame_ok {q : Claim} {p : ℕ} {c : Copy} {s : State} (h : Ok q s) : Ok q (cutFrame p c s) := by
  unfold cutFrame
  refine countPort_ok ?_
  refine ok_congr (s := s) ?_ rfl rfl rfl rfl
  assumption

theorem gateOverrun_ok {q : Claim} {p : ℕ} {idle : Bool} {s : State} (h : Ok q s) : Ok q (gateOverrun p idle s) := by
  unfold gateOverrun
  split
  · assumption
  · split
    · assumption
    · split
      · refine cutFrame_ok ?_
        assumption
      · split
        · assumption
        · refine raise_ok ?_
          refine countPort_ok ?_
          refine ok_congr (s := s) ?_ rfl rfl rfl rfl
          assumption

theorem setGates_ok {q : Claim} {p : ℕ} {s : State} (h : Ok q s) : Ok q (setGates p s) := by
  unfold setGates
  extract_lets +onlyGivenNames x0
  split
  · refine setFurrow_ok ?_
    assumption
  · extract_lets +onlyGivenNames x1
    extract_lets +onlyGivenNames x2
    extract_lets +onlyGivenNames x3
    extract_lets +onlyGivenNames x4
    have hx4 : Ok q x4 := by
      unfold x4
      refine setFurrow_ok ?_
      assumption
    clear_value x4
    refine gateOverrun_ok ?_
    assumption

theorem resetGates_ok {q : Claim} {s : State} (h : Ok q s) : Ok q (resetGates s) := by
  unfold resetGates
  refine ok_foldl ?_ ?_
  · assumption
  · intro z0 z1 z2
    refine setGates_ok ?_
    assumption


end Sys2Proof.Machine
end

