-- ==== Sys2Proof/Laws/Keeps/Almanac.lean ====
section
/-! SUPPORT. Every function of Machine/Almanac.lean that answers a state keeps the invariant and the queue. -/

namespace Sys2Proof.Machine

theorem sendGptp_ok {q : Claim} {p : ℕ} {kind : ℕ} {dom : ℕ} {m : GptpOut} {s : State} (h : Ok q s) : Ok q (sendGptp p kind dom m s) := by
  unfold sendGptp
  refine emit_ok ?_
  refine ok_foldl ?_ ?_
  · assumption
  · intro z0
    intro z1
    intro z2
    refine countPort_ok ?_
    assumption

theorem setGport_ok {q : Claim} {p : ℕ} {v : GptpPort} {s : State} (h : Ok q s) : Ok q (setGport p v s) := by
  unfold setGport
  refine ok_congr (s := s) ?_ rfl rfl rfl rfl
  assumption

theorem setFrequency_ok {q : Claim} {a : ℚ} {s : State} (h : Ok q s) : Ok q (setFrequency a s) := by
  unfold setFrequency
  refine ok_congr (s := s) ?_ rfl rfl rfl rfl
  assumption

theorem setTimeState_ok {q : Claim} {st : TimeState} {s : State} (h : Ok q s) : Ok q (setTimeState st s) := by
  unfold setTimeState
  split
  · assumption
  · refine raise_ok ?_
    refine ok_congr (s := s) ?_ rfl rfl rfl rfl
    assumption

theorem fireAlarm_ok {q : Claim} {n : ℕ} {s : State} (h : Ok q s) : Ok q (fireAlarm n s) := by
  unfold fireAlarm
  split
  · assumption
  · extract_lets +onlyGivenNames x0
    extract_lets +onlyGivenNames x1
    extract_lets +onlyGivenNames x2
    extract_lets +onlyGivenNames x3
    have hx3 : Ok q x3 := by
      unfold x3
      split
      · refine raise_ok ?_
        assumption
      · assumption
    clear_value x3
    extract_lets +onlyGivenNames x4
    extract_lets +onlyGivenNames x5
    extract_lets +onlyGivenNames x6
    have hx6 : Ok q x6 := by
      unfold x6
      split
      · refine emit_ok ?_
        refine ok_congr (s := x3) ?_ rfl rfl rfl rfl
        assumption
      · assumption
    clear_value x6
    extract_lets +onlyGivenNames x7
    extract_lets +onlyGivenNames x8
    extract_lets +onlyGivenNames x9
    have hx9 : Ok q x9 := by
      unfold x9
      split
      · refine emit_ok ?_
        refine ok_congr (s := x6) ?_ rfl rfl rfl rfl
        assumption
      · assumption
    clear_value x9
    extract_lets +onlyGivenNames x10
    extract_lets +onlyGivenNames x11
    extract_lets +onlyGivenNames x12
    extract_lets +onlyGivenNames x13
    have hx13 : Ok q x13 := by
      unfold x13
      split
      · refine emit_ok ?_
        refine ok_congr (s := x9) ?_ rfl rfl rfl rfl
        assumption
      · assumption
    clear_value x13
    refine drivePins_ok ?_
    assumption

theorem setAlarm_ok {q : Claim} {n : ℕ} {f : Alarm → Alarm} {s : State} (h : Ok q s) : Ok q (setAlarm n f s) := by
  unfold setAlarm
  split
  · refine ok_congr (s := s) ?_ rfl rfl rfl rfl
    assumption
  · assumption

theorem stepAlarms_ok {q : Claim} {old : ℕ} {new : ℕ} {s : State} (h : Ok q s) : Ok q (stepAlarms old new s) := by
  unfold stepAlarms
  refine ok_foldl ?_ ?_
  · assumption
  · intro z0 z1 z2
    split
    · split
      · refine fireAlarm_ok ?_
        refine setAlarm_ok ?_
        assumption
      · assumption
    · assumption

theorem moveInstants_ok {q : Claim} {d : ℤ} {s : State} (h : Ok q s) : Ok q (moveInstants d s) := by
  unfold moveInstants
  refine ok_congr (s := s) ?_ rfl rfl rfl rfl
  assumption

theorem stepTo_ok {q : Claim} {sec : ℕ} {ns : ℕ} {frac : ℕ} {s : State} (h : Ok q s) : Ok q (stepTo sec ns frac s) := by
  unfold stepTo
  extract_lets +onlyGivenNames x0
  have hx0 : Ok q x0 := by
    unfold x0
    refine ok_foldl ?_ ?_
    · assumption
    · intro z1
      intro z2
      intro z3
      refine updateCredits_ok ?_
      assumption
  clear_value x0
  extract_lets +onlyGivenNames x4
  extract_lets +onlyGivenNames x5
  extract_lets +onlyGivenNames x6
  have hx6 : Ok q x6 := by
    unfold x6
    refine ok_congr (s := x0) ?_ rfl rfl rfl rfl
    assumption
  clear_value x6
  extract_lets +onlyGivenNames x7
  extract_lets +onlyGivenNames x8
  extract_lets +onlyGivenNames x9
  extract_lets +onlyGivenNames x10
  have hx10 : Ok q x10 := by
    unfold x10
    refine moveInstants_ok ?_
    refine ok_congr (s := x6) ?_ rfl rfl rfl rfl
    assumption
  clear_value x10
  refine resetGates_ok ?_
  refine stepAlarms_ok ?_
  refine ok_congr (s := x10) ?_ rfl rfl rfl rfl
  assumption

theorem stepUnits_ok {q : Claim} {d : ℤ} {s : State} (h : Ok q s) : Ok q (stepUnits d s) := by
  unfold stepUnits
  extract_lets +onlyGivenNames x0
  extract_lets +onlyGivenNames x1
  refine stepTo_ok ?_
  assumption

theorem stepBy_ok {q : Claim} {d : ℤ} {s : State} (h : Ok q s) : Ok q (stepBy d s) := by
  unfold stepBy
  refine stepUnits_ok ?_
  assumption

theorem freeze_ok {q : Claim} {s : State} (h : Ok q s) : Ok q (freeze s) := by
  unfold freeze
  split
  · assumption
  · extract_lets +onlyGivenNames x0
    extract_lets +onlyGivenNames x1
    have hx1 : Ok q x1 := by
      unfold x1
      refine ok_congr (s := s) ?_ rfl rfl rfl rfl
      assumption
    clear_value x1
    split
    · refine setFrequency_ok ?_
      assumption
    · refine setFrequency_ok ?_
      assumption

theorem resume_ok {q : Claim} {s : State} (h : Ok q s) : Ok q (resume s) := by
  unfold resume
  split
  · refine ok_congr (s := s) ?_ rfl rfl rfl rfl
    assumption
  · assumption

theorem servoUpdate_ok {q : Claim} {θ : ℚ} {T : ℚ} {s : State} (h : Ok q s) : Ok q (servoUpdate θ T s) := by
  unfold servoUpdate
  extract_lets +onlyGivenNames x0
  have hx0 : Ok q x0 := by
    unfold x0
    refine resume_ok ?_
    assumption
  clear_value x0
  extract_lets +onlyGivenNames x1
  extract_lets +onlyGivenNames x2
  extract_lets +onlyGivenNames x3
  extract_lets +onlyGivenNames x4
  extract_lets +onlyGivenNames x5
  extract_lets +onlyGivenNames x6
  extract_lets +onlyGivenNames x7
  extract_lets +onlyGivenNames x8
  extract_lets +onlyGivenNames x9
  have hx9 : Ok q x9 := by
    unfold x9
    refine setFrequency_ok ?_
    refine ok_congr (s := x0) ?_ rfl rfl rfl rfl
    assumption
  clear_value x9
  split
  · refine raise_ok ?_
    assumption
  · assumption

theorem servoStep_ok {q : Claim} {θ : ℚ} {s : State} (h : Ok q s) : Ok q (servoStep θ s) := by
  unfold servoStep
  refine raise_ok ?_
  refine stepUnits_ok ?_
  assumption

theorem clampCheck_ok {q : Claim} {s : State} (h : Ok q s) : Ok q (clampCheck s) := by
  unfold clampCheck
  split
  · refine raise_ok ?_
    refine setTimeState_ok ?_
    assumption
  · assumption

theorem acquire_ok {q : Claim} {θ : ℚ} {T : ℚ} {counts : Bool} {s : State} (h : Ok q s) : Ok q (acquire θ T counts s) := by
  unfold acquire
  split
  · refine servoStep_ok ?_
    refine ok_congr (s := s) ?_ rfl rfl rfl rfl
    assumption
  · extract_lets +onlyGivenNames x0
    have hx0 : Ok q x0 := by
      unfold x0
      refine servoUpdate_ok ?_
      assumption
    clear_value x0
    extract_lets +onlyGivenNames x1
    split
    · refine clampCheck_ok ?_
      refine setTimeState_ok ?_
      refine ok_congr (s := x0) ?_ rfl rfl rfl rfl
      assumption
    · refine clampCheck_ok ?_
      refine ok_congr (s := x0) ?_ rfl rfl rfl rfl
      assumption

theorem track_ok {q : Claim} {θ : ℚ} {T : ℚ} {s : State} (h : Ok q s) : Ok q (track θ T s) := by
  unfold track
  split
  · split
    · refine setTimeState_ok ?_
      refine servoStep_ok ?_
      assumption
    · refine ok_congr (s := s) ?_ rfl rfl rfl rfl
      assumption
  · refine clampCheck_ok ?_
    refine servoUpdate_ok ?_
    refine ok_congr (s := s) ?_ rfl rfl rfl rfl
    assumption

theorem takeOffset_ok {q : Claim} {θ : ℚ} {T : ℚ} {s : State} (h : Ok q s) : Ok q (takeOffset θ T s) := by
  unfold takeOffset
  split
  · assumption
  · extract_lets +onlyGivenNames x0
    extract_lets +onlyGivenNames x1
    have hx1 : Ok q x1 := by
      unfold x1
      refine ok_congr (s := s) ?_ rfl rfl rfl rfl
      assumption
    clear_value x1
    split
    · assumption
    · extract_lets +onlyGivenNames x2
      extract_lets +onlyGivenNames x3
      extract_lets +onlyGivenNames x4
      extract_lets +onlyGivenNames x5
      have hx5 : Ok q x5 := by
        unfold x5
        refine ok_congr (s := x1) ?_ rfl rfl rfl rfl
        assumption
      clear_value x5
      split
      · refine acquire_ok ?_
        refine setTimeState_ok ?_
        assumption
      · refine acquire_ok ?_
        assumption
      · split
        · refine acquire_ok ?_
          refine setTimeState_ok ?_
          assumption
        · refine track_ok ?_
          assumption
      · split
        · refine track_ok ?_
          refine setTimeState_ok ?_
          assumption
        · refine acquire_ok ?_
          refine setTimeState_ok ?_
          assumption
      · split
        · refine acquire_ok ?_
          refine setTimeState_ok ?_
          assumption
        · refine servoUpdate_ok ?_
          assumption

theorem distrust_ok {q : Claim} {s : State} (h : Ok q s) : Ok q (distrust s) := by
  unfold distrust
  extract_lets +onlyGivenNames x0
  have hx0 : Ok q x0 := by
    unfold x0
    refine freeze_ok ?_
    assumption
  clear_value x0
  split
  · refine setTimeState_ok ?_
    refine ok_congr (s := x0) ?_ rfl rfl rfl rfl
    assumption
  · assumption

theorem openSuspect_ok {q : Claim} {p : ℕ} {s : State} (h : Ok q s) : Ok q (openSuspect p s) := by
  unfold openSuspect
  extract_lets +onlyGivenNames x0
  extract_lets +onlyGivenNames x1
  have hx1 : Ok q x1 := by
    unfold x1
    refine raise_ok ?_
    refine setGport_ok ?_
    assumption
  clear_value x1
  split
  · refine distrust_ok ?_
    assumption
  · assumption

theorem closeSuspect_ok {q : Claim} {p : ℕ} {mean : Option ℚ} {s : State} (h : Ok q s) : Ok q (closeSuspect p mean s) := by
  unfold closeSuspect
  extract_lets +onlyGivenNames x0
  extract_lets +onlyGivenNames x1
  have hx1 : Ok q x1 := by
    unfold x1
    refine setGport_ok ?_
    assumption
  clear_value x1
  split
  · extract_lets +onlyGivenNames x2
    have hx2 : Ok q x2 := by
      unfold x2
      refine resume_ok ?_
      assumption
    clear_value x2
    split
    · refine setTimeState_ok ?_
      assumption
    · assumption
  · assumption

theorem execPdelayResult_ok {q : Claim} {p : ℕ} {m : PdelayMsg} {s : State} (h : Ok q s) : OkR q (execPdelayResult p m s) := by
  unfold execPdelayResult
  split
  · refine ok_goes ?_
    assumption
  · extract_lets +onlyGivenNames x0
    extract_lets +onlyGivenNames x1
    split
    · extract_lets +onlyGivenNames x2
      split
      · refine ok_goes ?_
        refine setGport_ok ?_
        assumption
      · split
        · refine ok_goes ?_
          refine closeSuspect_ok ?_
          refine setGport_ok ?_
          assumption
        · refine ok_goes ?_
          refine setGport_ok ?_
          assumption
    · extract_lets +onlyGivenNames x3
      split
      · refine ok_goes ?_
        refine openSuspect_ok ?_
        refine setGport_ok ?_
        assumption
      · extract_lets +onlyGivenNames x4
        refine ok_goes ?_
        refine setGport_ok ?_
        assumption

theorem execSuspectTimeout_ok {q : Claim} {p : ℕ} {s : State} (h : Ok q s) : OkR q (execSuspectTimeout p s) := by
  unfold execSuspectTimeout
  split
  · refine ok_goes ?_
    refine raise_ok ?_
    assumption
  · refine ok_goes ?_
    assumption

theorem gmState_ok {q : Claim} {was : Bool} {s : State} (h : Ok q s) : Ok q (gmState was s) := by
  unfold gmState
  split
  · split
    · refine setTimeState_ok ?_
      assumption
    · assumption
  · split
    · refine setTimeState_ok ?_
      assumption
    · assumption

theorem freezeSuspect_ok {q : Claim} {s : State} (h : Ok q s) : Ok q (freezeSuspect s) := by
  unfold freezeSuspect
  split
  · refine freeze_ok ?_
    assumption
  · assumption

theorem takeExchange_ok {q : Claim} {dom : ℕ} {s : State} (h : Ok q s) : Ok q (takeExchange dom s) := by
  unfold takeExchange
  split
  · split
    · extract_lets +onlyGivenNames x0
      extract_lets +onlyGivenNames x1
      refine freezeSuspect_ok ?_
      refine gmState_ok ?_
      refine raise_ok ?_
      refine ok_congr (s := s) ?_ rfl rfl rfl rfl
      assumption
    · assumption
  · assumption

theorem relaySync_ok {q : Claim} {from_ : ℕ} {rel : Bool} {m : SyncMsg} {s : State} (h : Ok q s) : Ok q (relaySync from_ rel m s) := by
  unfold relaySync
  refine ok_foldl ?_ ?_
  · assumption
  · intro z0 z1 z2
    refine sendGptp_ok ?_
    refine sendGptp_ok ?_
    refine picked_ok ?_
    assumption

theorem execSync_ok {q : Claim} {p : ℕ} {m : SyncMsg} {s : State} (h : Ok q s) : OkR q (execSync p m s) := by
  unfold execSync
  split
  · refine ok_goes ?_
    assumption
  · extract_lets +onlyGivenNames x0
    have hx0 : Ok q x0 := by
      unfold x0
      refine takeExchange_ok ?_
      assumption
    clear_value x0
    extract_lets +onlyGivenNames x1
    extract_lets +onlyGivenNames x2
    have hx2 : Ok q x2 := by
      unfold x2
      split
      · split
        · refine relaySync_ok ?_
          split
          · refine takeOffset_ok ?_
            assumption
          · assumption
        · assumption
      · split
        · refine relaySync_ok ?_
          refine ok_congr (s := x0) ?_ rfl rfl rfl rfl
          assumption
        · assumption
    clear_value x2
    refine ok_goes ?_
    assumption

theorem loseSource_ok {q : Claim} {s : State} (h : Ok q s) : Ok q (loseSource s) := by
  unfold loseSource
  split
  · refine raise_ok ?_
    refine setTimeState_ok ?_
    refine freeze_ok ?_
    assumption
  · assumption

theorem execSyncReceiptTimeout_ok {q : Claim} {s : State} (h : Ok q s) : OkR q (execSyncReceiptTimeout s) := by
  unfold execSyncReceiptTimeout
  refine ok_goes ?_
  split
  · refine loseSource_ok ?_
    assumption
  · assumption

theorem execPpsInMissing_ok {q : Claim} {s : State} (h : Ok q s) : OkR q (execPpsInMissing s) := by
  unfold execPpsInMissing
  refine ok_goes ?_
  split
  · refine loseSource_ok ?_
    assumption
  · assumption

theorem execHoldoverBudget_ok {q : Claim} {s : State} (h : Ok q s) : OkR q (execHoldoverBudget s) := by
  unfold execHoldoverBudget
  refine ok_goes ?_
  split
  · refine setTimeState_ok ?_
    refine ok_congr (s := s) ?_ rfl rfl rfl rfl
    assumption
  · assumption

theorem execSyncInterval_ok {q : Claim} {p : ℕ} {s : State} (h : Ok q s) : OkR q (execSyncInterval p s) := by
  unfold execSyncInterval
  refine ok_goes ?_
  split
  · refine sendGptp_ok ?_
    refine sendGptp_ok ?_
    assumption
  · assumption

theorem execPdelayInterval_ok {q : Claim} {p : ℕ} {s : State} (h : Ok q s) : OkR q (execPdelayInterval p s) := by
  unfold execPdelayInterval
  refine ok_goes ?_
  split
  · refine emit_ok ?_
    assumption
  · assumption

theorem execPdelayReq_ok {q : Claim} {p : ℕ} {s : State} (h : Ok q s) : OkR q (execPdelayReq p s) := by
  unfold execPdelayReq
  refine ok_goes ?_
  split
  · refine sendGptp_ok ?_
    refine sendGptp_ok ?_
    assumption
  · assumption

theorem sendAnnounce_ok {q : Claim} {p : ℕ} {rel : Bool} {s : State} (h : Ok q s) : Ok q (sendAnnounce p rel s) := by
  unfold sendAnnounce
  split
  · refine sendGptp_ok ?_
    assumption
  · assumption

theorem announcePort_ok {q : Claim} {p : ℕ} {s : State} (h : Ok q s) : Ok q (announcePort s p) := by
  unfold announcePort
  split
  · refine setGport_ok ?_
    refine sendAnnounce_ok ?_
    refine sendAnnounce_ok ?_
    assumption
  · assumption

theorem execAnnounceInterval_ok {q : Claim} {s : State} (h : Ok q s) : OkR q (execAnnounceInterval s) := by
  unfold execAnnounceInterval
  split
  · refine ok_goes ?_
    assumption
  · refine ok_goes ?_
    refine ok_foldl h ?_
    intro s p h
    exact announcePort_ok h

theorem becomeGm_ok {q : Claim} {s : State} (h : Ok q s) : Ok q (becomeGm s) := by
  unfold becomeGm
  refine gmState_ok ?_
  refine ok_congr (s := s) ?_ rfl rfl rfl rfl
  assumption

theorem leaveGm_ok {q : Claim} {slave : Option ℕ} {s : State} (h : Ok q s) : Ok q (leaveGm slave s) := by
  unfold leaveGm
  refine freezeSuspect_ok ?_
  refine gmState_ok ?_
  refine ok_congr (s := s) ?_ rfl rfl rfl rfl
  assumption

theorem moveSlave_ok {q : Claim} {slave : Option ℕ} {s : State} (h : Ok q s) : Ok q (moveSlave slave s) := by
  unfold moveSlave
  split
  · refine ok_congr (s := s) ?_ rfl rfl rfl rfl
    assumption
  · extract_lets +onlyGivenNames x0
    extract_lets +onlyGivenNames x1
    have hx1 : Ok q x1 := by
      unfold x1
      refine ok_congr (s := s) ?_ rfl rfl rfl rfl
      assumption
    clear_value x1
    split
    · refine openSuspect_ok ?_
      assumption
    · refine freezeSuspect_ok ?_
      assumption

theorem setMasters_ok {q : Claim} {rel : Bool} {l : List ℕ} {s : State} (h : Ok q s) : Ok q (setMasters rel l s) := by
  unfold setMasters
  refine ok_congr (s := s) ?_ rfl rfl rfl rfl
  assumption

theorem applyRelayed_ok {q : Claim} {m : BestMaster} {s : State} (h : Ok q s) : Ok q (applyRelayed m s) := by
  unfold applyRelayed
  extract_lets +onlyGivenNames x0
  have hx0 : Ok q x0 := by
    unfold x0
    refine setMasters_ok ?_
    assumption
  clear_value x0
  refine ok_congr (s := x0) ?_ rfl rfl rfl rfl
  assumption

theorem applySelection_ok {q : Claim} {m : BestMaster} {s : State} (h : Ok q s) : Ok q (applySelection m s) := by
  unfold applySelection
  extract_lets +onlyGivenNames x0
  have hx0 : Ok q x0 := by
    unfold x0
    refine setMasters_ok ?_
    assumption
  clear_value x0
  extract_lets +onlyGivenNames x1
  extract_lets +onlyGivenNames x2
  extract_lets +onlyGivenNames x3
  have hx3 : Ok q x3 := by
    unfold x3
    refine ok_congr (s := x0) ?_ rfl rfl rfl rfl
    assumption
  clear_value x3
  extract_lets +onlyGivenNames x4
  have hx4 : Ok q x4 := by
    unfold x4
    split
    · split
      · refine gmState_ok ?_
        assumption
      · refine becomeGm_ok ?_
        assumption
    · split
      · refine leaveGm_ok ?_
        assumption
      · refine moveSlave_ok ?_
        assumption
  clear_value x4
  split
  · refine raise_ok ?_
    refine ok_congr (s := x4) ?_ rfl rfl rfl rfl
    assumption
  · assumption

theorem takeUtc_ok {q : Claim} {m : AnnounceMsg} {s : State} (h : Ok q s) : Ok q (takeUtc m s) := by
  unfold takeUtc
  split
  · refine ok_congr (s := s) ?_ rfl rfl rfl rfl
    assumption
  · assumption

theorem execAnnounce_ok {q : Claim} {p : ℕ} {m : AnnounceMsg} {s : State} (h : Ok q s) : OkR q (execAnnounce p m s) := by
  unfold execAnnounce
  split
  · refine ok_goes ?_
    assumption
  · split
    · refine ok_goes ?_
      refine applyRelayed_ok ?_
      assumption
    · split
      · refine ok_goes ?_
        assumption
      · refine ok_goes ?_
        refine takeUtc_ok ?_
        refine applySelection_ok ?_
        assumption

theorem execAnnounceReceiptTimeout_ok {q : Claim} {p : ℕ} {sel : BestMaster} {s : State} (h : Ok q s) : OkR q (execAnnounceReceiptTimeout p sel s) := by
  unfold execAnnounceReceiptTimeout
  split
  · refine ok_goes ?_
    assumption
  · refine ok_goes ?_
    refine applySelection_ok ?_
    assumption

theorem takeSnapshot_ok {q : Claim} {s : State} (h : Ok q s) : Ok q (takeSnapshot s) := by
  unfold takeSnapshot
  refine ok_congr (s := s) ?_ rfl rfl rfl rfl
  assumption

theorem endTimeSet_ok {q : Claim} {o : Op} {sec : ℕ} {ns : ℕ} {s : State} (h : Ok q s) : Ok q (endTimeSet o sec ns s) := by
  unfold endTimeSet
  extract_lets +onlyGivenNames x0
  extract_lets +onlyGivenNames x1
  have hx1 : Ok q x1 := by
    unfold x1
    refine stepTo_ok ?_
    assumption
  clear_value x1
  refine endOp_ok ?_
  assumption

theorem ppsTimeSets_ok {q : Claim} {s : State} (h : Ok q s) : Ok q (ppsTimeSets s) := by
  unfold ppsTimeSets
  refine ok_foldl ?_ ?_
  · assumption
  · intro z0 z1 z2
    split
    · refine endTimeSet_ok ?_
      assumption
    · assumption

theorem execPpsIn_ok {q : Claim} {stamp : ℕ} {s : State} (h : Ok q s) : OkR q (execPpsIn stamp s) := by
  unfold execPpsIn
  split
  · refine ok_goes ?_
    assumption
  · extract_lets +onlyGivenNames x0
    extract_lets +onlyGivenNames x1
    extract_lets +onlyGivenNames x2
    have hx2 : Ok q x2 := by
      unfold x2
      refine ok_congr (s := s) ?_ rfl rfl rfl rfl
      assumption
    clear_value x2
    extract_lets +onlyGivenNames x3
    have hx3 : Ok q x3 := by
      unfold x3
      split
      · refine takeSnapshot_ok ?_
        assumption
      · assumption
    clear_value x3
    extract_lets +onlyGivenNames x4
    extract_lets +onlyGivenNames x5
    have hx5 : Ok q x5 := by
      unfold x5
      refine raise_ok ?_
      assumption
    clear_value x5
    extract_lets +onlyGivenNames x6
    have hx6 : Ok q x6 := by
      unfold x6
      split
      · refine ok_congr (s := x3) ?_ rfl rfl rfl rfl
        assumption
      · split
        · refine takeOffset_ok ?_
          assumption
        · assumption
    clear_value x6
    refine ok_goes ?_
    refine ppsTimeSets_ok ?_
    assumption

theorem execPpsOut_ok {q : Claim} {s : State} (h : Ok q s) : OkR q (execPpsOut s) := by
  unfold execPpsOut
  extract_lets +onlyGivenNames x0
  refine ok_goes ?_
  split
  · refine drivePins_ok ?_
    refine emit_ok ?_
    refine ok_congr (s := s) ?_ rfl rfl rfl rfl
    assumption
  · assumption

theorem execTimeAlarm_ok {q : Claim} {n : ℕ} {s : State} (h : Ok q s) : OkR q (execTimeAlarm n s) := by
  unfold execTimeAlarm
  split
  · refine ok_goes ?_
    refine fireAlarm_ok ?_
    refine setAlarm_ok ?_
    assumption
  · refine ok_goes ?_
    assumption

theorem execTimeCapture_ok {q : Claim} {pin : ℕ} {rising : Bool} {stamp : ℕ} {s : State} (h : Ok q s) : OkR q (execTimeCapture pin rising stamp s) := by
  unfold execTimeCapture
  split
  · refine ok_goes ?_
    assumption
  · extract_lets +onlyGivenNames x0
    split
    · refine ok_goes ?_
      refine ok_congr (s := s) ?_ rfl rfl rfl rfl
      assumption
    · refine ok_goes ?_
      refine ok_congr (s := s) ?_ rfl rfl rfl rfl
      assumption


end Sys2Proof.Machine
end

