-- ==== Sys2Proof/Laws/Keeps/Keys.lean ====
section
/-! SUPPORT. Every function of Machine/Keys.lean that answers a state keeps the invariant and the queue. -/

namespace Sys2Proof.Machine

theorem putSlot_ok {q : Claim} {n : ℕ} {v : KeySlot} {s : State} (h : Ok q s) : Ok q (putSlot n v s) := by
  unfold putSlot
  refine ok_congr (s := s) ?_ rfl rfl rfl rfl
  assumption

theorem slotState_ok {q : Claim} {n : ℕ} {st : SlotState} {s : State} (h : Ok q s) : Ok q (slotState n st s) := by
  unfold slotState
  extract_lets +onlyGivenNames x0
  split
  · assumption
  · refine raise_ok ?_
    refine putSlot_ok ?_
    assumption

theorem activateNow_ok {q : Claim} {n : ℕ} {s : State} (h : Ok q s) : Ok q (activateNow n s) := by
  unfold activateNow
  extract_lets +onlyGivenNames x0
  extract_lets +onlyGivenNames x1
  have hx1 : Ok q x1 := by
    unfold x1
    split
    · split
      · assumption
      · refine slotState_ok ?_
        assumption
    · assumption
  clear_value x1
  refine slotState_ok ?_
  refine ok_congr (s := x1) ?_ rfl rfl rfl rfl
  assumption

theorem chooseSlot_ok {q : Claim} {p : ℕ} {s : State} (h : Ok q s) : Ok q (chooseSlot p s).2 := by
  unfold chooseSlot
  split
  · dsimp -zeta only
    refine activateNow_ok ?_
    refine ok_congr (s := s) ?_ rfl rfl rfl rfl
    assumption
  · split
    · dsimp -zeta only
      assumption
    · split
      · dsimp -zeta only
        refine activateNow_ok ?_
        assumption
      · dsimp -zeta only
        assumption

theorem useSlot_ok {q : Claim} {n : ℕ} {s : State} (h : Ok q s) : Ok q (useSlot n s) := by
  unfold useSlot
  extract_lets +onlyGivenNames x0
  extract_lets +onlyGivenNames x1
  extract_lets +onlyGivenNames x2
  have hx2 : Ok q x2 := by
    unfold x2
    refine putSlot_ok ?_
    assumption
  clear_value x2
  split
  · refine slotState_ok ?_
    refine raise_ok ?_
    assumption
  · split
    · refine slotState_ok ?_
      refine raise_ok ?_
      assumption
    · assumption

theorem limitDrop_ok {q : Claim} {p : ℕ} {s : State} (h : Ok q s) : Ok q (limitDrop p s) := by
  unfold limitDrop
  split
  · refine putSlot_ok ?_
    assumption
  · assumption

theorem onCipher_ok {q : Claim} {f : State → Work} {s : State} (h : ∀ b0, Ok q b0 → OkW q (f b0)) (h1 : Ok q s) : OkW q (onCipher f s) := by
  unfold onCipher
  split
  · refine h _ ?_
    assumption
  · refine okw_mk ?_ ?_
    · dsimp -zeta only
      assumption
    · intro z0 z1
      dsimp -zeta only
      dsimp -zeta only [id]
      assumption

theorem loseNext_ok {q : Claim} {n : ℕ} {s : State} (h : Ok q s) : Ok q (loseNext n s) := by
  unfold loseNext
  refine putSlot_ok ?_
  assumption

theorem forceWait_ok {q : Claim} {v : KeySlot} {s : State} (h : Ok q s) : Ok q (forceWait v s) := by
  unfold forceWait
  split
  · refine ok_congr (s := s) ?_ rfl rfl rfl rfl
    assumption
  · assumption

theorem actKeyInstall_ok {q : Claim} {c : Call} {a1 : ℕ} {s : State} (h : Ok q s) : OkW q (actKeyInstall c a1 s) := by
  unfold actKeyInstall
  extract_lets +onlyGivenNames x0
  extract_lets +onlyGivenNames x1
  extract_lets +onlyGivenNames x2
  refine onCipher_ok ?_ ?_
  · intro z3 z4
    split
    · refine okw_mk ?_ ?_
      · dsimp -zeta only
        assumption
      · intro z5 z6
        dsimp -zeta only
        dsimp -zeta only [id]
        assumption
    · extract_lets +onlyGivenNames x7
      split
      · refine okw_mk ?_ ?_
        · dsimp -zeta only
          assumption
        · intro z8 z9
          dsimp -zeta only
          dsimp -zeta only [id]
          assumption
      · split
        · refine okw_mk ?_ ?_
          · dsimp -zeta only
            assumption
          · intro z10 z11
            dsimp -zeta only
            dsimp -zeta only [id]
            assumption
        · extract_lets +onlyGivenNames x12
          have hx12 : Ok q x12 := by
            unfold x12
            refine forceWait_ok ?_
            assumption
          clear_value x12
          extract_lets +onlyGivenNames x13
          extract_lets +onlyGivenNames x14
          have hx14 : Ok q x14 := by
            unfold x14
            refine putSlot_ok ?_
            assumption
          clear_value x14
          extract_lets +onlyGivenNames x15
          have hx15 : Ok q x15 := by
            unfold x15
            refine loseNext_ok ?_
            refine slotState_ok ?_
            assumption
          clear_value x15
          refine okw_mk ?_ ?_
          · dsimp -zeta only
            assumption
          · intro z16 z17
            dsimp -zeta only
            dsimp -zeta only [id]
            assumption
  · assumption

theorem cmdKeyInstall_ok : CmdOk cmdKeyInstall := by
  intro q c n s h
  unfold cmdKeyInstall
  dsimp -zeta only
  refine actKeyInstall_ok ?_
  assumption

theorem execKeyInstall_ok {q : Claim} {c : Call} {s : State} (h : Ok q s) : OkR q (execKeyInstall c s) := by
  unfold execKeyInstall
  refine ok_goes ?_
  refine serve_ok ?_ ?_
  · refine cmdKeyInstall_ok
  · assumption

theorem endWait_ok {q : Claim} {p : ℕ} {s : State} (h : Ok q s) : Ok q (endWait p s) := by
  unfold endWait
  refine ok_congr (s := s) ?_ rfl rfl rfl rfl
  assumption

theorem switchAt_ok {q : Claim} {n : ℕ} {s : State} (h : Ok q s) : Ok q (switchAt n s) := by
  unfold switchAt
  extract_lets +onlyGivenNames x0
  refine endWait_ok ?_
  refine ok_congr (s := s) ?_ rfl rfl rfl rfl
  assumption

theorem actKeyActivate_ok {q : Claim} {c : Call} {a1 : ℕ} {s : State} (h : Ok q s) : OkW q (actKeyActivate c a1 s) := by
  unfold actKeyActivate
  extract_lets +onlyGivenNames x0
  extract_lets +onlyGivenNames x1
  extract_lets +onlyGivenNames x2
  extract_lets +onlyGivenNames x3
  refine onCipher_ok ?_ ?_
  · intro z4 z5
    split
    · refine okw_mk ?_ ?_
      · dsimp -zeta only
        assumption
      · intro z6 z7
        dsimp -zeta only
        dsimp -zeta only [id]
        assumption
    · split
      · split
        · refine okw_mk ?_ ?_
          · dsimp -zeta only
            refine switchAt_ok ?_
            assumption
          · intro z8 z9
            dsimp -zeta only
            dsimp -zeta only [id]
            assumption
        · refine okw_mk ?_ ?_
          · dsimp -zeta only
            assumption
          · intro z10 z11
            dsimp -zeta only
            dsimp -zeta only [id]
            assumption
      · split
        · refine okw_mk ?_ ?_
          · dsimp -zeta only
            assumption
          · intro z12 z13
            dsimp -zeta only
            dsimp -zeta only [id]
            assumption
        · split
          · extract_lets +onlyGivenNames x14
            have hx14 : Ok q x14 := by
              unfold x14
              refine slotState_ok ?_
              assumption
            clear_value x14
            refine okw_mk ?_ ?_
            · dsimp -zeta only
              refine endWait_ok ?_
              refine putSlot_ok ?_
              assumption
            · intro z15 z16
              dsimp -zeta only
              dsimp -zeta only [id]
              assumption
          · refine okw_mk ?_ ?_
            · dsimp -zeta only
              assumption
            · intro z17 z18
              dsimp -zeta only
              dsimp -zeta only [id]
              assumption
      · split
        · refine okw_mk ?_ ?_
          · dsimp -zeta only
            refine slotState_ok ?_
            assumption
          · intro z19 z20
            dsimp -zeta only
            dsimp -zeta only [id]
            assumption
        · refine okw_mk ?_ ?_
          · dsimp -zeta only
            assumption
          · intro z21 z22
            dsimp -zeta only
            dsimp -zeta only [id]
            assumption
      · split
        · refine okw_mk ?_ ?_
          · dsimp -zeta only
            refine slotState_ok ?_
            assumption
          · intro z23 z24
            dsimp -zeta only
            dsimp -zeta only [id]
            assumption
        · refine okw_mk ?_ ?_
          · dsimp -zeta only
            assumption
          · intro z25 z26
            dsimp -zeta only
            dsimp -zeta only [id]
            assumption
  · assumption

theorem cmdKeyActivate_ok : CmdOk cmdKeyActivate := by
  intro q c n s h
  unfold cmdKeyActivate
  dsimp -zeta only
  refine actKeyActivate_ok ?_
  assumption

theorem execKeyActivate_ok {q : Claim} {c : Call} {s : State} (h : Ok q s) : OkR q (execKeyActivate c s) := by
  unfold execKeyActivate
  refine ok_goes ?_
  refine serve_ok ?_ ?_
  · refine cmdKeyActivate_ok
  · assumption

theorem stompFrames_ok {q : Claim} {hit : ℕ → Bool} {s : State} (h : Ok q s) : Ok q (stompFrames hit s) := by
  unfold stompFrames
  extract_lets +onlyGivenNames x0
  refine ok_foldl ?_ ?_
  · refine ok_congr (s := s) ?_ rfl rfl rfl rfl
    assumption
  · intro z1 z2 z3
    refine countPort_ok ?_
    assumption

theorem eraseSlot_ok {q : Claim} {n : ℕ} {s : State} (h : Ok q s) : Ok q (eraseSlot n s) := by
  unfold eraseSlot
  extract_lets +onlyGivenNames x0
  have hx0 : Ok q x0 := by
    unfold x0
    refine slotState_ok ?_
    assumption
  clear_value x0
  refine ok_congr (s := x0) ?_ rfl rfl rfl rfl
  assumption

theorem actKeyErase_ok {q : Claim} {c : Call} {a1 : ℕ} {s : State} (h : Ok q s) : OkW q (actKeyErase c a1 s) := by
  unfold actKeyErase
  refine onCipher_ok ?_ ?_
  · intro z0 z1
    extract_lets +onlyGivenNames x2
    extract_lets +onlyGivenNames x3
    refine okw_mk ?_ ?_
    · dsimp -zeta only
      refine raise_ok ?_
      refine stompFrames_ok ?_
      refine eraseSlot_ok ?_
      assumption
    · intro z4 z5
      dsimp -zeta only
      dsimp -zeta only [id]
      assumption
  · assumption

theorem cmdKeyErase_ok : CmdOk cmdKeyErase := by
  intro q c n s h
  unfold cmdKeyErase
  dsimp -zeta only
  refine actKeyErase_ok ?_
  assumption

theorem execKeyErase_ok {q : Claim} {c : Call} {s : State} (h : Ok q s) : OkR q (execKeyErase c s) := by
  unfold execKeyErase
  refine ok_goes ?_
  refine serve_ok ?_ ?_
  · refine cmdKeyErase_ok
  · assumption

theorem eraseAll_ok {q : Claim} {s : State} (h : Ok q s) : Ok q (eraseAll s) := by
  unfold eraseAll
  refine stompFrames_ok ?_
  refine ok_foldl ?_ ?_
  · assumption
  · intro z0 z1 z2
    refine eraseSlot_ok ?_
    assumption

theorem actZeroize_ok {q : Claim} {a0 : Call} {a1 : ℕ} {s : State} (h : Ok q s) : OkW q (actZeroize a0 a1 s) := by
  unfold actZeroize
  refine onCipher_ok ?_ ?_
  · intro z0 z1
    extract_lets +onlyGivenNames x2
    refine okw_mk ?_ ?_
    · dsimp -zeta only
      refine raise_ok ?_
      refine eraseAll_ok ?_
      assumption
    · intro z3 z4
      dsimp -zeta only
      dsimp -zeta only [id]
      assumption
  · assumption

theorem cmdZeroizeAll_ok : CmdOk cmdZeroizeAll := by
  intro q c n s h
  unfold cmdZeroizeAll
  dsimp -zeta only
  refine actZeroize_ok ?_
  assumption

theorem execZeroizeAll_ok {q : Claim} {c : Call} {s : State} (h : Ok q s) : OkR q (execZeroizeAll c s) := by
  unfold execZeroizeAll
  refine ok_goes ?_
  refine serve_ok ?_ ?_
  · refine cmdZeroizeAll_ok
  · assumption

theorem actSaConfig_ok {q : Claim} {c : Call} {a1 : ℕ} {s : State} (h : Ok q s) : OkW q (actSaConfig c a1 s) := by
  unfold actSaConfig
  extract_lets +onlyGivenNames x0
  extract_lets +onlyGivenNames x1
  extract_lets +onlyGivenNames x2
  refine onCipher_ok ?_ ?_
  · intro z3 z4
    extract_lets +onlyGivenNames x5
    split
    · refine okw_mk ?_ ?_
      · dsimp -zeta only
        assumption
      · intro z6 z7
        dsimp -zeta only
        dsimp -zeta only [id]
        assumption
    · split
      · refine okw_mk ?_ ?_
        · dsimp -zeta only
          assumption
        · intro z8 z9
          dsimp -zeta only
          dsimp -zeta only [id]
          assumption
      · split
        · refine okw_mk ?_ ?_
          · dsimp -zeta only
            assumption
          · intro z10 z11
            dsimp -zeta only
            dsimp -zeta only [id]
            assumption
        · extract_lets +onlyGivenNames x12
          have hx12 : Ok q x12 := by
            unfold x12
            refine putSlot_ok ?_
            assumption
          clear_value x12
          refine okw_mk ?_ ?_
          · dsimp -zeta only
            split
            · refine ok_congr (s := x12) ?_ rfl rfl rfl rfl
              assumption
            · refine ok_congr (s := x12) ?_ rfl rfl rfl rfl
              assumption
          · intro z13 z14
            dsimp -zeta only
            dsimp -zeta only [id]
            assumption
  · assumption

theorem cmdSaConfig_ok : CmdOk cmdSaConfig := by
  intro q c n s h
  unfold cmdSaConfig
  dsimp -zeta only
  refine actSaConfig_ok ?_
  assumption

theorem execSaConfig_ok {q : Claim} {c : Call} {s : State} (h : Ok q s) : OkR q (execSaConfig c s) := by
  unfold execSaConfig
  refine ok_goes ?_
  refine serve_ok ?_ ?_
  · refine cmdSaConfig_ok
  · assumption

theorem actKeyState_ok {q : Claim} {c : Call} {a1 : ℕ} {s : State} (h : Ok q s) : OkW q (actKeyState c a1 s) := by
  unfold actKeyState
  extract_lets +onlyGivenNames x0
  extract_lets +onlyGivenNames x1
  extract_lets +onlyGivenNames x2
  split
  · refine okw_mk ?_ ?_
    · dsimp -zeta only
      assumption
    · intro z3 z4
      dsimp -zeta only
      dsimp -zeta only [id]
      assumption
  · refine okw_mk ?_ ?_
    · dsimp -zeta only
      assumption
    · intro z5 z6
      dsimp -zeta only
      dsimp -zeta only [id]
      assumption

theorem cmdKeyState_ok : CmdOk cmdKeyState := by
  intro q c n s h
  unfold cmdKeyState
  dsimp -zeta only
  refine actKeyState_ok ?_
  assumption

theorem execKeyState_ok {q : Claim} {c : Call} {s : State} (h : Ok q s) : OkR q (execKeyState c s) := by
  unfold execKeyState
  refine ok_goes ?_
  refine serve_ok ?_ ?_
  · refine cmdKeyState_ok
  · assumption

theorem execKeyWaitLimit_ok {q : Claim} {slot : ℕ} {s : State} (h : Ok q s) : OkR q (execKeyWaitLimit slot s) := by
  unfold execKeyWaitLimit
  extract_lets +onlyGivenNames x0
  refine ok_goes ?_
  split
  · refine ok_congr (s := s) ?_ rfl rfl rfl rfl
    assumption
  · assumption

theorem actGateRequest_ok {q : Claim} {c : Call} {a1 : ℕ} {s : State} (h : Ok q s) : OkW q (actGateRequest c a1 s) := by
  unfold actGateRequest
  split
  · refine okw_mk ?_ ?_
    · dsimp -zeta only
      assumption
    · intro z0 z1
      dsimp -zeta only
      dsimp -zeta only [id]
      assumption
  · refine okw_mk ?_ ?_
    · dsimp -zeta only
      refine picked_ok ?_
      refine ok_congr (s := s) ?_ rfl rfl rfl rfl
      assumption
    · intro z2 z3
      dsimp -zeta only
      dsimp -zeta only [id]
      assumption

theorem cmdGateChallengeRequest_ok : CmdOk cmdGateChallengeRequest := by
  intro q c n s h
  unfold cmdGateChallengeRequest
  dsimp -zeta only
  refine actGateRequest_ok ?_
  assumption

theorem execGateChallengeRequest_ok {q : Claim} {c : Call} {s : State} (h : Ok q s) : OkR q (execGateChallengeRequest c s) := by
  unfold execGateChallengeRequest
  refine ok_goes ?_
  refine serve_ok ?_ ?_
  · refine cmdGateChallengeRequest_ok
  · assumption

theorem actGateRespond_ok {q : Claim} {c : Call} {a1 : ℕ} {s : State} (h : Ok q s) : OkW q (actGateRespond c a1 s) := by
  unfold actGateRespond
  split
  · refine okw_mk ?_ ?_
    · dsimp -zeta only
      refine raise_ok ?_
      assumption
    · intro z0
      intro z1
      dsimp -zeta only
      dsimp -zeta only [id]
      assumption
  · extract_lets +onlyGivenNames x2
    extract_lets +onlyGivenNames x3
    extract_lets +onlyGivenNames x4
    have hx4 : Ok q x4 := by
      unfold x4
      refine raise_ok ?_
      refine ok_congr (s := s) ?_ rfl rfl rfl rfl
      assumption
    clear_value x4
    split
    · refine okw_mk ?_ ?_
      · dsimp -zeta only
        refine ok_congr (s := x4) ?_ rfl rfl rfl rfl
        assumption
      · intro z5
        intro z6
        dsimp -zeta only
        dsimp -zeta only [id]
        assumption
    · refine okw_mk ?_ ?_
      · dsimp -zeta only
        refine ok_congr (s := x4) ?_ rfl rfl rfl rfl
        assumption
      · intro z7
        intro z8
        dsimp -zeta only
        dsimp -zeta only [id]
        assumption

theorem cmdGateChallengeRespond_ok : CmdOk cmdGateChallengeRespond := by
  intro q c n s h
  unfold cmdGateChallengeRespond
  dsimp -zeta only
  refine actGateRespond_ok ?_
  assumption

theorem execGateChallengeRespond_ok {q : Claim} {c : Call} {s : State} (h : Ok q s) : OkR q (execGateChallengeRespond c s) := by
  unfold execGateChallengeRespond
  refine ok_goes ?_
  refine serve_ok ?_ ?_
  · refine cmdGateChallengeRespond_ok
  · assumption

theorem execNonceExpiry_ok {q : Claim} {s : State} (h : Ok q s) : OkR q (execNonceExpiry s) := by
  unfold execNonceExpiry
  refine ok_goes ?_
  refine ok_congr (s := s) ?_ rfl rfl rfl rfl
  assumption


end Sys2Proof.Machine
end

