-- ==== Sys2Proof/Laws/Keeps/Granary.lean ====
section
/-! SUPPORT. Every function of Machine/Granary.lean that answers a state keeps the invariant and the queue. -/

namespace Sys2Proof.Machine

theorem setBank_ok {q : Claim} {p : ℕ} {code : ℕ} {s : State} (h : Ok q s) : Ok q (setBank p code s) := by
  unfold setBank
  refine ok_congr (s := s) ?_ rfl rfl rfl rfl
  assumption

theorem allocCell_ok {q : Claim} {cls c : ℕ} {res : Bool} {s t : State} (h : Ok q s) (ht : allocCell cls res s = .got c t) : Ok q t := by
  unfold allocCell at ht
  split at ht
  · injection ht with h1 h2
    subst h2
    exact ok_congr (s := s) h rfl rfl rfl rfl
  · split at ht <;> cases ht

theorem takeCell_ok {q : Claim} {cls c : ℕ} {s t : State} (h : Ok q s) (ht : takeCell cls s = .got c t) : Ok q t := by
  unfold takeCell at ht
  repeat' split at ht
  all_goals first | exact allocCell_ok h ht | cases ht

theorem moveCharge_ok {q : Claim} {g : Grain} {cls : ℕ} {s : State} (h : Ok q s) : Ok q (moveCharge g cls s) := by
  unfold moveCharge
  refine ok_congr (s := s) ?_ rfl rfl rfl rfl
  assumption

theorem fenceBank_ok {q : Claim} {p : ℕ} {s : State} (h : Ok q s) : Ok q (fenceBank p s) := by
  unfold fenceBank
  refine setBank_ok ?_
  refine ok_congr (s := s) ?_ rfl rfl rfl rfl
  assumption

theorem decideRetire_ok {q : Claim} {p : ℕ} {s : State} (h : Ok q s) : Ok q (decideRetire p s) := by
  unfold decideRetire
  extract_lets +onlyGivenNames x0
  have hx0 : Ok q x0 := by
    unfold x0
    split
    · refine fenceBank_ok ?_
      assumption
    · assumption
  clear_value x0
  split
  · refine ok_congr (s := x0) ?_ rfl rfl rfl rfl
    assumption
  · assumption

theorem lapseRetirements_ok {q : Claim} {s : State} (h : Ok q s) : Ok q (lapseRetirements s) := by
  unfold lapseRetirements
  refine ok_foldl ?_ ?_
  · refine ok_congr (s := s) ?_ rfl rfl rfl rfl
    assumption
  · intro z0 z1 z2
    refine setBank_ok ?_
    assumption

theorem correctedWord_ok {q : Claim} {p : ℕ} {word : ℕ} {s : State} (h : Ok q s) : Ok q (correctedWord p word s) := by
  unfold correctedWord
  split
  · assumption
  · extract_lets +onlyGivenNames x0
    extract_lets +onlyGivenNames x1
    have hx1 : Ok q x1 := by
      unfold x1
      refine ok_congr (s := s) ?_ rfl rfl rfl rfl
      assumption
    clear_value x1
    extract_lets +onlyGivenNames x2
    have hx2 : Ok q x2 := by
      unfold x2
      refine raise_ok ?_
      assumption
    clear_value x2
    split
    · refine decideRetire_ok ?_
      assumption
    · assumption

theorem uncorrectableWord_ok {q : Claim} {p : ℕ} {cell : Option ℕ} {s : State} (h : Ok q s) : Ok q (uncorrectableWord p cell s) := by
  unfold uncorrectableWord
  split
  · assumption
  · extract_lets +onlyGivenNames x0
    extract_lets +onlyGivenNames x1
    have hx1 : Ok q x1 := by
      unfold x1
      split
      · split
        · refine ok_congr (s := s) ?_ rfl rfl rfl rfl
          assumption
        · refine ok_congr (s := s) ?_ rfl rfl rfl rfl
          assumption
      · assumption
    clear_value x1
    extract_lets +onlyGivenNames x2
    extract_lets +onlyGivenNames x3
    have hx3 : Ok q x3 := by
      unfold x3
      refine ok_congr (s := x1) ?_ rfl rfl rfl rfl
      assumption
    clear_value x3
    refine decideRetire_ok ?_
    refine raise_ok ?_
    assumption

theorem patrolFind_ok {q : Claim} {s : State} {f : WordFault} (h : Ok q s) : Ok q (patrolFind s f) := by
  unfold patrolFind
  extract_lets +onlyGivenNames x0
  extract_lets +onlyGivenNames x1
  have hx1 : Ok q x1 := by
    unfold x1
    split
    · refine uncorrectableWord_ok ?_
      assumption
    · refine correctedWord_ok ?_
      assumption
  clear_value x1
  split
  · assumption
  · assumption
  · assumption
  · refine setBank_ok ?_
    assumption
  · assumption

theorem writePattern_ok {q : Claim} {s : State} (h : Ok q s) : Ok q (writePattern s) := by
  unfold writePattern
  refine ok_congr (s := s) ?_ rfl rfl rfl rfl
  assumption

theorem execPatrol_ok {q : Claim} {finds : List WordFault} {s : State} (h : Ok q s) : OkR q (execPatrol finds s) := by
  unfold execPatrol
  refine ok_goes ?_
  refine ok_foldl ?_ ?_
  · refine ok_congr (s := s) ?_ rfl rfl rfl rfl
    assumption
  · intro z0 z1 z2
    refine patrolFind_ok ?_
    assumption

theorem execAudit_ok {q : Claim} {s : State} (h : Ok q s) : OkR q (execAudit s) := by
  unfold execAudit
  extract_lets +onlyGivenNames x0
  extract_lets +onlyGivenNames x1
  refine ok_goes ?_
  refine ok_congr (s := s) ?_ rfl rfl rfl rfl
  assumption

theorem finishRetire_ok {q : Claim} {p : ℕ} {spare : ℕ} {s : State} (h : Ok q s) : Ok q (finishRetire p spare s) := by
  unfold finishRetire
  extract_lets +onlyGivenNames x0
  extract_lets +onlyGivenNames x1
  have hx1 : Ok q x1 := by
    unfold x1
    refine ok_congr (s := s) ?_ rfl rfl rfl rfl
    assumption
  clear_value x1
  refine ok_foldl ?_ ?_
  · assumption
  · intro z2
    intro z3
    intro z4
    refine endNow_ok ?_
    assumption

theorem checkDegraded_ok {q : Claim} {s : State} (h : Ok q s) : Ok q (checkDegraded s) := by
  unfold checkDegraded
  split
  · refine raiseD_ok ?_
    refine ok_congr (s := s) ?_ rfl rfl rfl rfl
    assumption
  · assumption

theorem endDrain_ok {q : Claim} {p : ℕ} {s : State} (h : Ok q s) : Ok q (endDrain p s) := by
  unfold endDrain
  extract_lets +onlyGivenNames x0
  extract_lets +onlyGivenNames x1
  have hx1 : Ok q x1 := by
    unfold x1
    split
    · refine ok_congr (s := s) ?_ rfl rfl rfl rfl
      assumption
    · assumption
  clear_value x1
  extract_lets +onlyGivenNames x2
  extract_lets +onlyGivenNames x3
  have hx3 : Ok q x3 := by
    unfold x3
    refine setBank_ok ?_
    refine ok_congr (s := x1) ?_ rfl rfl rfl rfl
    assumption
  clear_value x3
  refine finishRetire_ok ?_
  refine checkDegraded_ok ?_
  refine raise_ok ?_
  assumption

theorem execDrainEnd_ok {q : Claim} {b : ℕ} {s : State} (h : Ok q s) : OkR q (execDrainEnd b s) := by
  unfold execDrainEnd
  refine ok_goes ?_
  split
  · refine endDrain_ok ?_
    assumption
  · assumption

theorem discardRecs_ok {q : Claim} {held : List ℕ} {s : State} (h : Ok q s) : Ok q (discardRecs held s) := by
  unfold discardRecs
  refine ok_foldl ?_ ?_
  · assumption
  · intro z0 z1 z2
    extract_lets +onlyGivenNames x3
    extract_lets +onlyGivenNames x4
    split
    · split
      · refine freeRec_ok ?_
        refine ok_congr (s := z0) ?_ rfl rfl rfl rfl
        assumption
      · refine ok_congr (s := z0) ?_ rfl rfl rfl rfl
        assumption
    · refine ok_congr (s := z0) ?_ rfl rfl rfl rfl
      assumption

theorem cutSheafs_ok {q : Claim} {hit : Grain → Bool} {idx : ℕ} {s : State} (h : Ok q s) : Ok q (cutSheafs hit idx s) := by
  unfold cutSheafs
  refine ok_foldl ?_ ?_
  · assumption
  · intro z0 z1 z2
    extract_lets +onlyGivenNames x3
    extract_lets +onlyGivenNames x4
    extract_lets +onlyGivenNames x5
    extract_lets +onlyGivenNames x6
    have hx6 : Ok q x6 := by
      unfold x6
      refine ok_congr (s := z0) ?_ rfl rfl rfl rfl
      assumption
    clear_value x6
    refine ok_foldl ?_ ?_
    · assumption
    · intro z7 z8 z9
      refine countRow_ok ?_
      refine endGrain_ok ?_
      assumption

theorem dropUnsent_ok {q : Claim} {hit : Grain → Bool} {s : State} (h : Ok q s) : Ok q (dropUnsent hit s) := by
  unfold dropUnsent
  refine ok_foldl ?_ ?_
  · assumption
  · intro z0
    intro z1
    intro z2
    extract_lets +onlyGivenNames x3
    have hx3 : Ok q x3 := by
      unfold x3
      refine sofChoice_ok ?_
      assumption
    clear_value x3
    split
    · split
      · assumption
      · refine discardCopy_ok ?_
        refine ok_congr (s := x3) ?_ rfl rfl rfl rfl
        assumption
    · assumption

theorem discardHeld_ok {q : Claim} {held : List ℕ} {s : State} (h : Ok q s) : Ok q (discardHeld held s) := by
  unfold discardHeld
  extract_lets +onlyGivenNames x0
  extract_lets +onlyGivenNames x1
  have hx1 : Ok q x1 := by
    unfold x1
    refine dropUnsent_ok ?_
    assumption
  clear_value x1
  extract_lets +onlyGivenNames x2
  extract_lets +onlyGivenNames x3
  extract_lets +onlyGivenNames x4
  extract_lets +onlyGivenNames x5
  extract_lets +onlyGivenNames x6
  extract_lets +onlyGivenNames x7
  extract_lets +onlyGivenNames x8
  have hx8 : Ok q x8 := by
    unfold x8
    refine ok_congr (s := x1) ?_ rfl rfl rfl rfl
    assumption
  clear_value x8
  extract_lets +onlyGivenNames x9
  have hx9 : Ok q x9 := by
    unfold x9
    refine ok_foldl ?_ ?_
    · refine ok_foldl ?_ ?_
      · assumption
      · intro z10
        intro z11
        intro z12
        refine countRow_ok ?_
        assumption
    · intro z13
      intro z14
      intro z15
      refine countCopy_ok ?_
      assumption
  clear_value x9
  refine cutSheafs_ok ?_
  refine discardRecs_ok ?_
  refine ok_foldl ?_ ?_
  · refine ok_foldl ?_ ?_
    · assumption
    · intro z16
      intro z17
      intro z18
      refine discardCopy_ok ?_
      assumption
  · intro z19
    intro z20
    intro z21
    refine dropGrain_ok ?_
    assumption

theorem execDrainLimit_ok {q : Claim} {b : ℕ} {s : State} (h : Ok q s) : OkR q (execDrainLimit b s) := by
  unfold execDrainLimit
  refine ok_goes ?_
  split
  · refine endDrain_ok ?_
    refine discardHeld_ok ?_
    assumption
  · assumption

theorem startDrain_ok {q : Claim} {p : ℕ} {s : State} (h : Ok q s) : Ok q (startDrain p s) := by
  unfold startDrain
  refine raise_ok ?_
  refine setBank_ok ?_
  refine ok_congr (s := s) ?_ rfl rfl rfl rfl
  assumption

theorem startMigration_ok {q : Claim} {p : ℕ} {s : State} (h : Ok q s) : Ok q (startMigration p s) := by
  unfold startMigration
  split
  · exact ok_congr (s := s) h rfl rfl rfl rfl
  · extract_lets +onlyGivenNames opno own t
    have ht : Ok q t := by
      unfold t
      clear_value own
      cases own
      · exact openRecord_ok h
      · exact putOp_ok (openRecord_ok h)
    clear_value t
    exact ok_congr (s := t) ht rfl rfl rfl rfl

theorem testStep_ok {q : Claim} {m : Migration} {s : State} (h : Ok q s) : Ok q (testStep m s) := by
  unfold testStep
  split
  · split
    · refine startDrain_ok ?_
      refine closeRecord_ok ?_
      refine ok_congr (s := s) ?_ rfl rfl rfl rfl
      assumption
    · refine setBank_ok ?_
      refine ok_congr (s := s) ?_ rfl rfl rfl rfl
      assumption
  · split
    · refine ok_congr (s := s) ?_ rfl rfl rfl rfl
      assumption
    · split
      · extract_lets +onlyGivenNames x0
        have hx0 : Ok q x0 := by
          unfold x0
          refine picked_ok ?_
          assumption
        clear_value x0
        refine ok_congr (s := x0) ?_ rfl rfl rfl rfl
        assumption
      · refine setBank_ok ?_
        extract_lets +onlyGivenNames x1
        have hx1 : Ok q x1 := by
          unfold x1
          refine picked_ok ?_
          assumption
        clear_value x1
        refine ok_congr (s := x1) ?_ rfl rfl rfl rfl
        assumption

theorem migrationRead_ok {q : Claim} {m : Migration} {s : State} (h : Ok q s) : Ok q (migrationRead m s) := by
  unfold migrationRead
  extract_lets +onlyGivenNames x0
  extract_lets +onlyGivenNames x1
  have hx1 : Ok q x1 := by
    unfold x1
    refine picked_ok ?_
    assumption
  clear_value x1
  split
  · refine uncorrectableWord_ok ?_
    assumption
  · split
    · refine correctedWord_ok ?_
      assumption
    · assumption

theorem flipMap_ok {q : Claim} {m : Migration} {s : State} (h : Ok q s) : Ok q (flipMap m s) := by
  unfold flipMap
  refine ok_congr (s := s) ?_ rfl rfl rfl rfl
  assumption

theorem stopRetire_ok {q : Claim} {p : ℕ} {s : State} (h : Ok q s) : Ok q (stopRetire p s) := by
  unfold stopRetire
  split
  · assumption
  · extract_lets +onlyGivenNames x0
    extract_lets +onlyGivenNames x1
    have hx1 : Ok q x1 := by
      unfold x1
      split
      · split
        · split
          · refine setBank_ok ?_
            refine ok_congr (s := s) ?_ rfl rfl rfl rfl
            assumption
          · refine ok_congr (s := s) ?_ rfl rfl rfl rfl
            assumption
        · assumption
      · assumption
    clear_value x1
    refine setBank_ok ?_
    refine ok_congr (s := x1) ?_ rfl rfl rfl rfl
    assumption

theorem migrationStep_ok {q : Claim} {s : State} (h : Ok q s) : Ok q (migrationStep s) := by
  unfold migrationStep
  split
  · split
    · assumption
    · split
      · refine startDrain_ok ?_
        assumption
      · refine startMigration_ok ?_
        assumption
  · extract_lets +onlyGivenNames x0
    have hx0 : Ok q x0 := by
      unfold x0
      refine countStep_ok ?_
      assumption
    clear_value x0
    split
    · refine testStep_ok ?_
      assumption
    · refine ok_congr (s := x0) ?_ rfl rfl rfl rfl
      assumption
    · extract_lets +onlyGivenNames x1
      have hx1 : Ok q x1 := by
        unfold x1
        refine migrationRead_ok ?_
        assumption
      clear_value x1
      extract_lets +onlyGivenNames x2
      refine ok_congr (s := x1) ?_ rfl rfl rfl rfl
      assumption
    · split
      · extract_lets +onlyGivenNames x3
        have hx3 : Ok q x3 := by
          unfold x3
          refine passPonr_ok ?_
          assumption
        clear_value x3
        refine ok_congr (s := x3) ?_ rfl rfl rfl rfl
        assumption
      · refine flipMap_ok ?_
        assumption
    · extract_lets +onlyGivenNames x4
      split
      · refine raise_ok ?_
        refine setBank_ok ?_
        refine setBank_ok ?_
        refine ok_congr (s := x0) ?_ rfl rfl rfl rfl
        assumption
      · refine finishRetire_ok ?_
        refine closeRecord_ok ?_
        refine ok_congr (s := x0) ?_ rfl rfl rfl rfl
        assumption

theorem cmdGranaryQuotaSet_ok : CmdOk cmdGranaryQuotaSet := by
  intro q c n s h
  unfold cmdGranaryQuotaSet
  dsimp -zeta only
  refine okw_mk ?_ ?_
  · dsimp -zeta only
    refine ok_congr (s := s) ?_ rfl rfl rfl rfl
    assumption
  · intro z0 z1
    dsimp -zeta only
    dsimp -zeta only [id]
    assumption

theorem execGranaryQuotaSet_ok {q : Claim} {c : Call} {s : State} (h : Ok q s) : OkR q (execGranaryQuotaSet c s) := by
  unfold execGranaryQuotaSet
  refine ok_goes ?_
  refine serve_ok ?_ ?_
  · refine cmdGranaryQuotaSet_ok
  · assumption

theorem actGranaryState_ok {q : Claim} {c : Call} {a1 : ℕ} {s : State} (h : Ok q s) : OkW q (actGranaryState c a1 s) := by
  unfold actGranaryState
  extract_lets +onlyGivenNames x0
  refine okw_mk ?_ ?_
  · dsimp -zeta only
    split
    · assumption
    · refine ok_congr (s := s) ?_ rfl rfl rfl rfl
      assumption
  · intro z1 z2
    dsimp -zeta only
    dsimp -zeta only [id]
    assumption

theorem cmdGranaryState_ok : CmdOk cmdGranaryState := by
  intro q c n s h
  unfold cmdGranaryState
  dsimp -zeta only
  refine actGranaryState_ok ?_
  assumption

theorem execGranaryState_ok {q : Claim} {c : Call} {s : State} (h : Ok q s) : OkR q (execGranaryState c s) := by
  unfold execGranaryState
  refine ok_goes ?_
  refine serve_ok ?_ ?_
  · refine cmdGranaryState_ok
  · assumption

theorem actBankRetire_ok {q : Claim} {c : Call} {a1 : ℕ} {s : State} (h : Ok q s) : OkW q (actBankRetire c a1 s) := by
  unfold actBankRetire
  extract_lets +onlyGivenNames x0
  split
  · refine okw_mk ?_ ?_
    · dsimp -zeta only
      assumption
    · intro z1
      intro z2
      dsimp -zeta only
      dsimp -zeta only [id]
      assumption
  · split
    · refine okw_mk ?_ ?_
      · dsimp -zeta only
        assumption
      · intro z3
        intro z4
        dsimp -zeta only
        dsimp -zeta only [id]
        assumption
    · split
      · refine okw_mk ?_ ?_
        · dsimp -zeta only
          assumption
        · intro z5
          intro z6
          dsimp -zeta only
          dsimp -zeta only [id]
          assumption
      · split
        · refine okw_mk ?_ ?_
          · dsimp -zeta only
            assumption
          · intro z7
            intro z8
            dsimp -zeta only
            dsimp -zeta only [id]
            assumption
        · refine okw_mk ?_ ?_
          · dsimp -zeta only
            refine fenceBank_ok ?_
            assumption
          · intro z9
            intro z10
            dsimp -zeta only
            dsimp -zeta only [id]
            assumption

theorem cmdBankRetire_ok : CmdOk cmdBankRetire := by
  intro q c n s h
  unfold cmdBankRetire
  dsimp -zeta only
  refine actBankRetire_ok ?_
  assumption

theorem execBankRetire_ok {q : Claim} {c : Call} {s : State} (h : Ok q s) : OkR q (execBankRetire c s) := by
  unfold execBankRetire
  refine ok_goes ?_
  refine serve_ok ?_ ?_
  · refine cmdBankRetire_ok
  · assumption

theorem actBankTest_ok {q : Claim} {c : Call} {a1 : ℕ} {s : State} (h : Ok q s) : OkW q (actBankTest c a1 s) := by
  unfold actBankTest
  extract_lets +onlyGivenNames x0
  extract_lets +onlyGivenNames x1
  split
  · refine okw_mk ?_ ?_
    · dsimp -zeta only
      assumption
    · intro z2 z3
      dsimp -zeta only
      dsimp -zeta only [id]
      assumption
  · split
    · extract_lets +onlyGivenNames x4
      extract_lets +onlyGivenNames x5
      have hx5 : Ok q x5 := by
        unfold x5
        split
        · refine setBank_ok ?_
          refine ok_congr (s := s) ?_ rfl rfl rfl rfl
          assumption
        · assumption
      clear_value x5
      refine okw_mk ?_ ?_
      · dsimp -zeta only
        refine picked_ok ?_
        assumption
      · intro z6 z7
        dsimp -zeta only
        dsimp -zeta only [id]
        assumption
    · extract_lets +onlyGivenNames x8
      have hx8 : Ok q x8 := by
        unfold x8
        split
        · refine setBank_ok ?_
          assumption
        · assumption
      clear_value x8
      refine okw_mk ?_ ?_
      · dsimp -zeta only
        refine picked_ok ?_
        assumption
      · intro z9 z10
        dsimp -zeta only
        dsimp -zeta only [id]
        assumption

theorem cmdBankTest_ok : CmdOk cmdBankTest := by
  intro q c n s h
  unfold cmdBankTest
  dsimp -zeta only
  refine actBankTest_ok ?_
  assumption

theorem execBankTest_ok {q : Claim} {c : Call} {s : State} (h : Ok q s) : OkR q (execBankTest c s) := by
  unfold execBankTest
  refine ok_goes ?_
  refine serve_ok ?_ ?_
  · refine cmdBankTest_ok
  · assumption


end Sys2Proof.Machine
end

