-- ==== Sys2Proof/Laws/Keeps/Routes.lean ====
section
/-! SUPPORT. Every function of Machine/Routes.lean that answers a state keeps the invariant and the queue. -/

namespace Sys2Proof.Machine

theorem actRouteAdd_ok {q : Claim} {c : Call} {r : ℕ} {s : State} (h : Ok q s) : OkW q (actRouteAdd c r s) := by
  unfold actRouteAdd
  extract_lets +onlyGivenNames x0
  split
  · refine okw_mk ?_ ?_
    · dsimp -zeta only
      assumption
    · intro z1 z2
      dsimp -zeta only
      dsimp -zeta only [id]
      assumption
  · split
    · refine okw_mk ?_ ?_
      · dsimp -zeta only
        refine picked_ok ?_
        assumption
      · intro z3 z4
        dsimp -zeta only
        dsimp -zeta only [id]
        assumption
    · refine okw_mk ?_ ?_
      · dsimp -zeta only
        extract_lets +onlyGivenNames x5
        have hx5 : Ok q x5 := by
          unfold x5
          refine picked_ok ?_
          assumption
        clear_value x5
        refine ok_congr (s := x5) ?_ rfl rfl rfl rfl
        assumption
      · intro z6 z7
        dsimp -zeta only
        dsimp -zeta only [id]
        assumption

theorem cmdRouteAdd_ok : CmdOk cmdRouteAdd := by
  intro q c n s h
  unfold cmdRouteAdd
  dsimp -zeta only
  refine actRouteAdd_ok ?_
  assumption

theorem execRouteAdd_ok {q : Claim} {c : Call} {s : State} (h : Ok q s) : OkR q (execRouteAdd c s) := by
  unfold execRouteAdd
  refine ok_goes ?_
  refine serve_ok ?_ ?_
  · refine cmdRouteAdd_ok
  · assumption

theorem actRouteRemove_ok {q : Claim} {c : Call} {r : ℕ} {s : State} (h : Ok q s) : OkW q (actRouteRemove c r s) := by
  unfold actRouteRemove
  split
  · refine okw_mk ?_ ?_
    · dsimp -zeta only
      refine ok_congr (s := s) ?_ rfl rfl rfl rfl
      assumption
    · intro z0 z1
      dsimp -zeta only
      dsimp -zeta only [id]
      assumption
  · refine okw_mk ?_ ?_
    · dsimp -zeta only
      assumption
    · intro z2 z3
      dsimp -zeta only
      dsimp -zeta only [id]
      assumption

theorem cmdRouteRemove_ok : CmdOk cmdRouteRemove := by
  intro q c n s h
  unfold cmdRouteRemove
  dsimp -zeta only
  refine actRouteRemove_ok ?_
  assumption

theorem execRouteRemove_ok {q : Claim} {c : Call} {s : State} (h : Ok q s) : OkR q (execRouteRemove c s) := by
  unfold execRouteRemove
  refine ok_goes ?_
  refine serve_ok ?_ ?_
  · refine cmdRouteRemove_ok
  · assumption

theorem actRouteQuery_ok {q : Claim} {clear : Bool} {c : Call} {r : ℕ} {s : State} (h : Ok q s) : OkW q (actRouteQuery clear c r s) := by
  unfold actRouteQuery
  split
  · refine okw_mk ?_ ?_
    · dsimp -zeta only
      split
      · refine ok_congr (s := s) ?_ rfl rfl rfl rfl
        assumption
      · assumption
    · intro z0 z1
      dsimp -zeta only
      dsimp -zeta only [id]
      assumption
  · refine okw_mk ?_ ?_
    · dsimp -zeta only
      assumption
    · intro z2 z3
      dsimp -zeta only
      dsimp -zeta only [id]
      assumption

theorem cmdRouteQuery_ok : CmdOk cmdRouteQuery := by
  intro q c n s h
  unfold cmdRouteQuery
  dsimp -zeta only
  refine actRouteQuery_ok ?_
  assumption

theorem execRouteQuery_ok {q : Claim} {c : Call} {s : State} (h : Ok q s) : OkR q (execRouteQuery c s) := by
  unfold execRouteQuery
  refine ok_goes ?_
  refine serve_ok ?_ ?_
  · refine cmdRouteQuery_ok
  · assumption

theorem cmdRouteQueryClear_ok : CmdOk cmdRouteQueryClear := by
  intro q c n s h
  unfold cmdRouteQueryClear
  dsimp -zeta only
  refine actRouteQuery_ok ?_
  assumption

theorem execRouteQueryClear_ok {q : Claim} {c : Call} {s : State} (h : Ok q s) : OkR q (execRouteQueryClear c s) := by
  unfold execRouteQueryClear
  refine ok_goes ?_
  refine serve_ok ?_ ?_
  · refine cmdRouteQueryClear_ok
  · assumption

theorem actRouteList_ok {q : Claim} {c : Call} {r : ℕ} {s : State} (h : Ok q s) : OkW q (actRouteList c r s) := by
  unfold actRouteList
  refine okw_mk ?_ ?_
  · dsimp -zeta only
    assumption
  · intro z0 z1
    dsimp -zeta only
    dsimp -zeta only [id]
    assumption

theorem cmdRouteQueryList_ok : CmdOk cmdRouteQueryList := by
  intro q c n s h
  unfold cmdRouteQueryList
  dsimp -zeta only
  refine actRouteList_ok ?_
  assumption

theorem execRouteQueryList_ok {q : Claim} {c : Call} {s : State} (h : Ok q s) : OkR q (execRouteQueryList c s) := by
  unfold execRouteQueryList
  refine ok_goes ?_
  refine serve_ok ?_ ?_
  · refine cmdRouteQueryList_ok
  · assumption

theorem actLsetWrite_ok {q : Claim} {c : Call} {a1 : ℕ} {s : State} (h : Ok q s) : OkW q (actLsetWrite c a1 s) := by
  unfold actLsetWrite
  extract_lets +onlyGivenNames x0
  split
  · refine okw_mk ?_ ?_
    · dsimp -zeta only
      assumption
    · intro z1 z2
      dsimp -zeta only
      dsimp -zeta only [id]
      assumption
  · refine okw_mk ?_ ?_
    · dsimp -zeta only
      refine ok_congr (s := s) ?_ rfl rfl rfl rfl
      assumption
    · intro z3 z4
      dsimp -zeta only
      dsimp -zeta only [id]
      assumption

theorem cmdLsetWrite_ok : CmdOk cmdLsetWrite := by
  intro q c n s h
  unfold cmdLsetWrite
  dsimp -zeta only
  refine actLsetWrite_ok ?_
  assumption

theorem execLsetWrite_ok {q : Claim} {c : Call} {s : State} (h : Ok q s) : OkR q (execLsetWrite c s) := by
  unfold execLsetWrite
  refine ok_goes ?_
  refine serve_ok ?_ ?_
  · refine cmdLsetWrite_ok
  · assumption

theorem cmdLsetRead_ok : CmdOk cmdLsetRead := by
  intro q c n s h
  unfold cmdLsetRead
  dsimp -zeta only
  refine okw_mk ?_ ?_
  · dsimp -zeta only
    assumption
  · intro z0 z1
    dsimp -zeta only
    dsimp -zeta only [id]
    assumption

theorem execLsetRead_ok {q : Claim} {c : Call} {s : State} (h : Ok q s) : OkR q (execLsetRead c s) := by
  unfold execLsetRead
  refine ok_goes ?_
  refine serve_ok ?_ ?_
  · refine cmdLsetRead_ok
  · assumption

theorem afterTeam_ok {q : Claim} {c : Call} {a1 : ℕ} {a2 : State} {s : State} (h : Ok q a2) (h1 : Ok q s) : Ok q (afterTeam c a1 a2 s) := by
  unfold afterTeam
  extract_lets +onlyGivenNames x0
  split
  · refine ok_congr (s := s) ?_ rfl rfl rfl rfl
    assumption
  · split
    · refine ok_congr (s := s) ?_ rfl rfl rfl rfl
      assumption
    · refine ok_congr (s := s) ?_ rfl rfl rfl rfl
      assumption

theorem cmdTeamSet_ok : CmdOk cmdTeamSet := by
  intro q c n s h
  unfold cmdTeamSet
  dsimp -zeta only
  refine directAct_ok ?_ ?_
  · intro z0 z1 z2 z3 z4 z5
    refine afterTeam_ok ?_ ?_
    · assumption
    · assumption
  · assumption

theorem execTeamSet_ok {q : Claim} {c : Call} {s : State} (h : Ok q s) : OkR q (execTeamSet c s) := by
  unfold execTeamSet
  refine ok_goes ?_
  refine serve_ok ?_ ?_
  · refine cmdTeamSet_ok
  · assumption

theorem actTeamState_ok {q : Claim} {c : Call} {a1 : ℕ} {s : State} (h : Ok q s) : OkW q (actTeamState c a1 s) := by
  unfold actTeamState
  extract_lets +onlyGivenNames x0
  extract_lets +onlyGivenNames x1
  refine okw_mk ?_ ?_
  · dsimp -zeta only
    assumption
  · intro z2 z3
    dsimp -zeta only
    dsimp -zeta only [id]
    assumption

theorem cmdTeamState_ok : CmdOk cmdTeamState := by
  intro q c n s h
  unfold cmdTeamState
  dsimp -zeta only
  refine actTeamState_ok ?_
  assumption

theorem execTeamState_ok {q : Claim} {c : Call} {s : State} (h : Ok q s) : OkR q (execTeamState c s) := by
  unfold execTeamState
  refine ok_goes ?_
  refine serve_ok ?_ ?_
  · refine cmdTeamState_ok
  · assumption

theorem cmdSieveSet_ok : CmdOk cmdSieveSet := by
  intro q c n s h
  unfold cmdSieveSet
  dsimp -zeta only
  refine directAct_ok ?_ ?_
  · intro z0 z1 z2 z3
    exact fun _ h => h
  · assumption

theorem execSieveSet_ok {q : Claim} {c : Call} {s : State} (h : Ok q s) : OkR q (execSieveSet c s) := by
  unfold execSieveSet
  refine ok_goes ?_
  refine serve_ok ?_ ?_
  · refine cmdSieveSet_ok
  · assumption

theorem cmdSieveClear_ok : CmdOk cmdSieveClear := by
  intro q c n s h
  unfold cmdSieveClear
  dsimp -zeta only
  refine directAct_ok ?_ ?_
  · intro z0 z1 z2 z3 z4 z5
    refine ok_congr (s := z3) ?_ rfl rfl rfl rfl
    assumption
  · assumption

theorem execSieveClear_ok {q : Claim} {c : Call} {s : State} (h : Ok q s) : OkR q (execSieveClear c s) := by
  unfold execSieveClear
  refine ok_goes ?_
  refine serve_ok ?_ ?_
  · refine cmdSieveClear_ok
  · assumption

theorem cmdRewriteSet_ok : CmdOk cmdRewriteSet := by
  intro q c n s h
  unfold cmdRewriteSet
  dsimp -zeta only
  refine directAct_ok ?_ ?_
  · intro z0 z1 z2 z3
    exact fun _ h => h
  · assumption

theorem execRewriteSet_ok {q : Claim} {c : Call} {s : State} (h : Ok q s) : OkR q (execRewriteSet c s) := by
  unfold execRewriteSet
  refine ok_goes ?_
  refine serve_ok ?_ ?_
  · refine cmdRewriteSet_ok
  · assumption


end Sys2Proof.Machine
end

