-- ==== Sys2Proof/Laws/Keeps/Hedgerow.lean ====
section
/-! SUPPORT. Every function of Machine/Hedgerow.lean that answers a state keeps the invariant and the queue. -/

namespace Sys2Proof.Machine

theorem hitRule_ok {q : Claim} {n : ℕ} {s : State} (h : Ok q s) : Ok q (hitRule n s) := by
  unfold hitRule
  refine ok_congr (s := s) ?_ rfl rfl rfl rfl
  assumption

theorem chargePolicer_ok {q : Claim} {n : ℕ} {g : Grain} {a : Permit} (h : Ok q a.st) : Ok q (chargePolicer n g a).2.st := by
  unfold chargePolicer
  split
  · dsimp -zeta only
    assumption
  · split
    · dsimp -zeta only
      assumption
    · extract_lets +onlyGivenNames x0
      dsimp -zeta only
      extract_lets +onlyGivenNames x1
      have hx1 : Ok q x1 := by
        unfold x1
        assumption
      clear_value x1
      refine ok_congr (s := x1) ?_ rfl rfl rfl rfl
      assumption

theorem zoneStep_ok {q : Claim} {g : Grain} {f : Bytes} {zi : ℕ} {a : Permit} {z : ℕ} (h : Ok q a.st) : Ok q (zoneStep g f zi a z).st := by
  unfold zoneStep
  split
  · split
    · dsimp -zeta only
      assumption
    · assumption
  · extract_lets +onlyGivenNames x0
    have hx0 : Ok q x0.2.st := by
      unfold x0
      split
      · refine chargePolicer_ok ?_
        assumption
      · dsimp -zeta only
        assumption
    clear_value x0
    extract_lets +onlyGivenNames x1
    extract_lets +onlyGivenNames x2
    extract_lets +onlyGivenNames x3
    have hx3 : Ok q x3.st := by
      unfold x3
      assumption
    clear_value x3
    extract_lets +onlyGivenNames x4
    have hx4 : Ok q x4.st := by
      unfold x4
      split
      · dsimp -zeta only
        refine hitRule_ok ?_
        assumption
      · assumption
    clear_value x4
    extract_lets +onlyGivenNames x5
    have hx5 : Ok q x5.st := by
      unfold x5
      dsimp -zeta only
      assumption
    clear_value x5
    split
    · dsimp -zeta only
      assumption
    · assumption

theorem hedgerow_ok {q : Claim} {g : Grain} {s : State} (h : Ok q s) : Ok q (hedgerow g s).st := by
  unfold hedgerow
  extract_lets +onlyGivenNames x0
  refine ok_foldl_of (π := Sys2Proof.Machine.Permit.st) ?_ ?_
  · dsimp -zeta only
    assumption
  · intro z1 z2 z3
    refine zoneStep_ok ?_
    assumption

theorem afterRule_ok {q : Claim} {c : Call} {a1 : ℕ} {a2 : State} {s : State} (h : Ok q a2) (h1 : Ok q s) : Ok q (afterRule c a1 a2 s) := by
  unfold afterRule
  refine ok_congr (s := s) ?_ rfl rfl rfl rfl
  assumption

theorem cmdRuleWrite_ok : CmdOk cmdRuleWrite := by
  intro q c n s h
  unfold cmdRuleWrite
  dsimp -zeta only
  refine directAct_ok ?_ ?_
  · intro z0 z1 z2 z3 z4 z5
    refine afterRule_ok ?_ ?_
    · assumption
    · assumption
  · assumption

theorem execRuleWrite_ok {q : Claim} {c : Call} {s : State} (h : Ok q s) : OkR q (execRuleWrite c s) := by
  unfold execRuleWrite
  refine ok_goes ?_
  refine serve_ok ?_ ?_
  · refine cmdRuleWrite_ok
  · assumption

theorem actRuleRead_ok {q : Claim} {c : Call} {a1 : ℕ} {s : State} (h : Ok q s) : OkW q (actRuleRead c a1 s) := by
  unfold actRuleRead
  extract_lets +onlyGivenNames x0
  refine okw_mk ?_ ?_
  · dsimp -zeta only
    assumption
  · intro z1 z2
    dsimp -zeta only
    dsimp -zeta only [id]
    assumption

theorem cmdRuleRead_ok : CmdOk cmdRuleRead := by
  intro q c n s h
  unfold cmdRuleRead
  dsimp -zeta only
  refine actRuleRead_ok ?_
  assumption

theorem execRuleRead_ok {q : Claim} {c : Call} {s : State} (h : Ok q s) : OkR q (execRuleRead c s) := by
  unfold execRuleRead
  refine ok_goes ?_
  refine serve_ok ?_ ?_
  · refine cmdRuleRead_ok
  · assumption

theorem actRuleClear_ok {q : Claim} {c : Call} {a1 : ℕ} {s : State} (h : Ok q s) : OkW q (actRuleClear c a1 s) := by
  unfold actRuleClear
  refine okw_mk ?_ ?_
  · dsimp -zeta only
    refine ok_congr (s := s) ?_ rfl rfl rfl rfl
    assumption
  · intro z0 z1
    dsimp -zeta only
    dsimp -zeta only [id]
    assumption

theorem cmdRuleClear_ok : CmdOk cmdRuleClear := by
  intro q c n s h
  unfold cmdRuleClear
  dsimp -zeta only
  refine actRuleClear_ok ?_
  assumption

theorem execRuleClear_ok {q : Claim} {c : Call} {s : State} (h : Ok q s) : OkR q (execRuleClear c s) := by
  unfold execRuleClear
  refine ok_goes ?_
  refine serve_ok ?_ ?_
  · refine cmdRuleClear_ok
  · assumption

theorem actPolicer_ok {q : Claim} {c : Call} {a1 : ℕ} {s : State} (h : Ok q s) : OkW q (actPolicer c a1 s) := by
  unfold actPolicer
  extract_lets +onlyGivenNames x0
  extract_lets +onlyGivenNames x1
  extract_lets +onlyGivenNames x2
  extract_lets +onlyGivenNames x3
  extract_lets +onlyGivenNames x4
  extract_lets +onlyGivenNames x5
  extract_lets +onlyGivenNames x6
  extract_lets +onlyGivenNames x7
  refine okw_mk ?_ ?_
  · dsimp -zeta only
    refine ok_congr (s := s) ?_ rfl rfl rfl rfl
    assumption
  · intro z8 z9
    dsimp -zeta only
    dsimp -zeta only [id]
    assumption

theorem cmdPolicerSet_ok : CmdOk cmdPolicerSet := by
  intro q c n s h
  unfold cmdPolicerSet
  dsimp -zeta only
  refine actPolicer_ok ?_
  assumption

theorem execPolicerSet_ok {q : Claim} {c : Call} {s : State} (h : Ok q s) : OkR q (execPolicerSet c s) := by
  unfold execPolicerSet
  refine ok_goes ?_
  refine serve_ok ?_ ?_
  · refine cmdPolicerSet_ok
  · assumption

theorem cmdZoneSet_ok : CmdOk cmdZoneSet := by
  intro q c n s h
  unfold cmdZoneSet
  dsimp -zeta only
  refine directAct_ok ?_ ?_
  · intro z0 z1 z2 z3
    exact fun _ h => h
  · assumption

theorem execZoneSet_ok {q : Claim} {c : Call} {s : State} (h : Ok q s) : OkR q (execZoneSet c s) := by
  unfold execZoneSet
  refine ok_goes ?_
  refine serve_ok ?_ ?_
  · refine cmdZoneSet_ok
  · assumption


end Sys2Proof.Machine
end

