-- ==== Sys2Proof/Laws/Keeps/Queues.lean ====
section
/-! SUPPORT. Every function of Machine/Queues.lean that answers a state keeps the invariant and the queue. -/

namespace Sys2Proof.Machine

theorem setPlough_ok {q : Claim} {p : PloughId} {v : Plough} {s : State} (h : Ok q s) : Ok q (setPlough p v s) := by
  unfold setPlough
  refine ok_congr (s := s) ?_ rfl rfl rfl rfl
  assumption

theorem finishRec_ok {q : Claim} {p : PloughId} {r : Rec} {s : State} (h : Ok q s) : Ok q (finishRec p r s) := by
  unfold finishRec
  refine setPlough_ok ?_
  assumption

theorem enterFifo_ok {q : Claim} {p : PloughId} {s : State} (h : Ok q s) : Ok q (enterFifo p s) := by
  unfold enterFifo
  split
  · refine ok_congr (s := s) ?_ rfl rfl rfl rfl
    assumption
  · assumption

theorem enqueueRow_ok {q : Claim} {r : ℕ} {c : Copy} {s : State} (h : Ok q s) : Ok q (enqueueRow r c s) := by
  unfold enqueueRow
  extract_lets +onlyGivenNames x0
  extract_lets +onlyGivenNames x1
  extract_lets +onlyGivenNames x2
  have hx2 : Ok q x2 := by
    unfold x2
    refine ok_congr (s := s) ?_ rfl rfl rfl rfl
    assumption
  clear_value x2
  refine setRowRt_ok ?_
  assumption

theorem stewardSentence_ok {q : Claim} {r : ℕ} {key : ℕ} {d : Bytes} {s : State} (h : Ok q s) : Ok q (stewardSentence r key d s) := by
  unfold stewardSentence
  extract_lets +onlyGivenNames x0
  extract_lets +onlyGivenNames x1
  extract_lets +onlyGivenNames x2
  refine finishRec_ok ?_
  assumption


end Sys2Proof.Machine
end

