-- ==== Sys2Proof/Laws/Keeps/Nm.lean ====
section
/-! SUPPORT. Every function of Machine/Nm.lean that answers a state keeps the invariant and the queue. -/

namespace Sys2Proof.Machine

theorem setNet_ok {q : Claim} {n : ℕ} {v : Nm} {s : State} (h : Ok q s) : Ok q (setNet n v s) := by
  unfold setNet
  refine ok_congr (s := s) ?_ rfl rfl rfl rfl
  assumption

theorem agreementEvent_ok {q : Claim} {net : ℕ} {detail : ℕ} {s : State} (h : Ok q s) : Ok q (agreementEvent net detail s) := by
  unfold agreementEvent
  refine raiseD_ok ?_
  assumption

theorem sendNm_ok {q : Claim} {net : ℕ} {kind : ℕ} {dest : ℕ} {consent : Bool} {runStart : ℕ} {s : State} (h : Ok q s) : Ok q (sendNm net kind dest consent runStart s) := by
  unfold sendNm
  extract_lets +onlyGivenNames x0
  extract_lets +onlyGivenNames x1
  extract_lets +onlyGivenNames x2
  have hx2 : Ok q x2 := by
    unfold x2
    refine emit_ok ?_
    assumption
  clear_value x2
  split
  · split
    · refine stewardSentence_ok ?_
      assumption
    · assumption
  · split
    · extract_lets +onlyGivenNames x3
      extract_lets +onlyGivenNames x4
      extract_lets +onlyGivenNames x5
      refine enqueueRow_ok ?_
      assumption
    · assumption

theorem withdraw_ok {q : Claim} {net : ℕ} {s : State} (h : Ok q s) : Ok q (withdraw net s) := by
  unfold withdraw
  extract_lets +onlyGivenNames x0
  extract_lets +onlyGivenNames x1
  extract_lets +onlyGivenNames x2
  refine setNet_ok ?_
  refine ok_congr (s := s) ?_ rfl rfl rfl rfl
  assumption

theorem cancelEntry_ok {q : Claim} {s : State} (h : Ok q s) : Ok q (cancelEntry s) := by
  unfold cancelEntry
  split
  · assumption
  · extract_lets +onlyGivenNames x0
    extract_lets +onlyGivenNames x1
    extract_lets +onlyGivenNames x2
    have hx2 : Ok q x2 := by
      unfold x2
      refine ok_congr (s := s) ?_ rfl rfl rfl rfl
      assumption
    clear_value x2
    split
    · refine endOp_ok ?_
      assumption
    · assumption

theorem cancelOnDoorbell_ok {q : Claim} {s : State} (h : Ok q s) : Ok q (cancelOnDoorbell s) := by
  unfold cancelOnDoorbell
  split
  · refine cancelEntry_ok ?_
    assumption
  · assumption

theorem vetoed_ok {q : Claim} {net : ℕ} {s : State} (h : Ok q s) : Ok q (vetoed net s) := by
  unfold vetoed
  refine cancelEntry_ok ?_
  refine agreementEvent_ok ?_
  assumption

theorem needArises_ok {q : Claim} {net : ℕ} {s : State} (h : Ok q s) : Ok q (needArises net s) := by
  unfold needArises
  extract_lets +onlyGivenNames x0
  have hx0 : Ok q x0 := by
    unfold x0
    split
    · refine cancelEntry_ok ?_
      assumption
    · assumption
  clear_value x0
  extract_lets +onlyGivenNames x1
  split
  · split
    · refine setNet_ok ?_
      refine sendNm_ok ?_
      assumption
    · refine vetoed_ok ?_
      extract_lets +onlyGivenNames x2
      have hx2 : Ok q x2 := by
        unfold x2
        refine withdraw_ok ?_
        assumption
      clear_value x2
      refine setNet_ok ?_
      refine sendNm_ok ?_
      assumption
    · refine setNet_ok ?_
      assumption
    · refine setNet_ok ?_
      assumption
    · assumption
  · split
    · split
      · refine setNet_ok ?_
        assumption
      · refine setNet_ok ?_
        assumption
      · refine vetoed_ok ?_
        extract_lets +onlyGivenNames x3
        have hx3 : Ok q x3 := by
          unfold x3
          refine withdraw_ok ?_
          assumption
        clear_value x3
        refine setNet_ok ?_
        refine sendNm_ok ?_
        assumption
      · refine setNet_ok ?_
        assumption
      · refine setNet_ok ?_
        assumption
      · assumption
    · assumption

theorem needChecked_ok {q : Claim} {net : ℕ} {s : State} (h : Ok q s) : Ok q (needChecked net s) := by
  unfold needChecked
  extract_lets +onlyGivenNames x0
  split
  · refine setNet_ok ?_
    assumption
  · assumption

theorem wakeRequest_ok {q : Claim} {net : ℕ} {s : State} (h : Ok q s) : Ok q (wakeRequest net s) := by
  unfold wakeRequest
  extract_lets +onlyGivenNames x0
  have hx0 : Ok q x0 := by
    unfold x0
    split
    · refine cancelEntry_ok ?_
      assumption
    · assumption
  clear_value x0
  extract_lets +onlyGivenNames x1
  split
  · assumption
  · split
    · refine sendNm_ok ?_
      assumption
    · refine setNet_ok ?_
      assumption
  · split
    · refine vetoed_ok ?_
      refine setNet_ok ?_
      refine sendNm_ok ?_
      assumption
    · refine vetoed_ok ?_
      extract_lets +onlyGivenNames x2
      have hx2 : Ok q x2 := by
        unfold x2
        refine withdraw_ok ?_
        assumption
      clear_value x2
      refine setNet_ok ?_
      refine sendNm_ok ?_
      assumption
  · split
    · refine vetoed_ok ?_
      refine setNet_ok ?_
      refine sendNm_ok ?_
      assumption
    · refine vetoed_ok ?_
      refine setNet_ok ?_
      refine sendNm_ok ?_
      assumption
  · refine setNet_ok ?_
    assumption
  · assumption

theorem wakeNets_ok {q : Claim} {s : State} (h : Ok q s) : Ok q (wakeNets s) := by
  unfold wakeNets
  refine ok_foldl ?_ ?_
  · assumption
  · intro z0 z1 z2
    refine wakeRequest_ok ?_
    assumption

theorem reportFalse_ok {q : Claim} {s : State} (h : Ok q s) : Ok q (reportFalse s) := by
  unfold reportFalse
  refine ok_foldl ?_ ?_
  · refine ok_congr (s := s) ?_ rfl rfl rfl rfl
    assumption
  · intro z0 z1 z2
    refine raise_ok ?_
    assumption

theorem trueWake_ok {q : Claim} {s : State} (h : Ok q s) : Ok q (trueWake s) := by
  unfold trueWake
  refine wakeNets_ok ?_
  refine reportFalse_ok ?_
  refine ok_congr (s := s) ?_ rfl rfl rfl rfl
  assumption

theorem qualify_ok {q : Claim} {s : State} (h : Ok q s) : Ok q (qualify s) := by
  unfold qualify
  split
  · refine trueWake_ok ?_
    assumption
  · assumption

theorem trafficNeed_ok {q : Claim} {s : State} (h : Ok q s) : Ok q (trafficNeed s) := by
  unfold trafficNeed
  refine qualify_ok ?_
  refine ok_foldl ?_ ?_
  · assumption
  · intro z0 z1 z2
    extract_lets +onlyGivenNames x3
    extract_lets +onlyGivenNames x4
    extract_lets +onlyGivenNames x5
    have hx5 : Ok q x5 := by
      unfold x5
      refine setNet_ok ?_
      assumption
    clear_value x5
    split
    · assumption
    · refine needArises_ok ?_
      assumption

theorem recordWake_ok {q : Claim} {src : ℕ} {ch : ℕ} {filter : ℕ} {s : State} (h : Ok q s) : Ok q (recordWake src ch filter s) := by
  unfold recordWake
  refine ok_congr (s := s) ?_ rfl rfl rfl rfl
  assumption

theorem abandonEntry_ok {q : Claim} {src : ℕ} {ch : ℕ} {filter : ℕ} {s : State} (h : Ok q s) : Ok q (abandonEntry src ch filter s) := by
  unfold abandonEntry
  extract_lets +onlyGivenNames x0
  extract_lets +onlyGivenNames x1
  extract_lets +onlyGivenNames x2
  extract_lets +onlyGivenNames x3
  have hx3 : Ok q x3 := by
    unfold x3
    refine recordWake_ok ?_
    refine ok_congr (s := s) ?_ rfl rfl rfl rfl
    assumption
  clear_value x3
  refine wakeNets_ok ?_
  refine raise_ok ?_
  refine ok_congr (s := x3) ?_ rfl rfl rfl rfl
  assumption

theorem actNmConfig_ok {q : Claim} {c : Call} {a1 : ℕ} {s : State} (h : Ok q s) : OkW q (actNmConfig c a1 s) := by
  unfold actNmConfig
  extract_lets +onlyGivenNames x0
  extract_lets +onlyGivenNames x1
  extract_lets +onlyGivenNames x2
  split
  · refine okw_mk ?_ ?_
    · dsimp -zeta only
      assumption
    · intro z3 z4
      dsimp -zeta only
      dsimp -zeta only [id]
      assumption
  · split
    · refine okw_mk ?_ ?_
      · dsimp -zeta only
        refine setNet_ok ?_
        assumption
      · intro z5 z6
        dsimp -zeta only
        dsimp -zeta only [id]
        assumption
    · extract_lets +onlyGivenNames x7
      extract_lets +onlyGivenNames x8
      have hx8 : Ok q x8 := by
        unfold x8
        refine setNet_ok ?_
        assumption
      clear_value x8
      refine okw_mk ?_ ?_
      · dsimp -zeta only
        split
        · refine sendNm_ok ?_
          assumption
        · assumption
      · intro z9 z10
        dsimp -zeta only
        dsimp -zeta only [id]
        assumption

theorem cmdNmConfig_ok : CmdOk cmdNmConfig := by
  intro q c n s h
  unfold cmdNmConfig
  dsimp -zeta only
  refine actNmConfig_ok ?_
  assumption

theorem execNmConfig_ok {q : Claim} {c : Call} {s : State} (h : Ok q s) : OkR q (execNmConfig c s) := by
  unfold execNmConfig
  refine ok_goes ?_
  refine serve_ok ?_ ?_
  · refine cmdNmConfig_ok
  · assumption

theorem actNmRequest_ok {q : Claim} {c : Call} {a1 : ℕ} {s : State} (h : Ok q s) : OkW q (actNmRequest c a1 s) := by
  unfold actNmRequest
  extract_lets +onlyGivenNames x0
  extract_lets +onlyGivenNames x1
  split
  · refine okw_mk ?_ ?_
    · dsimp -zeta only
      assumption
    · intro z2 z3
      dsimp -zeta only
      dsimp -zeta only [id]
      assumption
  · extract_lets +onlyGivenNames x4
    have hx4 : Ok q x4 := by
      unfold x4
      refine setNet_ok ?_
      assumption
    clear_value x4
    extract_lets +onlyGivenNames x5
    have hx5 : Ok q x5 := by
      unfold x5
      split
      · refine needChecked_ok ?_
        refine setNet_ok ?_
        assumption
      · split
        · assumption
        · refine needArises_ok ?_
          assumption
      · refine wakeRequest_ok ?_
        assumption
    clear_value x5
    refine okw_mk ?_ ?_
    · dsimp -zeta only
      assumption
    · intro z6 z7
      dsimp -zeta only
      dsimp -zeta only [id]
      assumption

theorem cmdNmRequest_ok : CmdOk cmdNmRequest := by
  intro q c n s h
  unfold cmdNmRequest
  dsimp -zeta only
  refine actNmRequest_ok ?_
  assumption

theorem execNmRequest_ok {q : Claim} {c : Call} {s : State} (h : Ok q s) : OkR q (execNmRequest c s) := by
  unfold execNmRequest
  refine ok_goes ?_
  refine serve_ok ?_ ?_
  · refine cmdNmRequest_ok
  · assumption

theorem execTKa_ok {q : Claim} {net : ℕ} {s : State} (h : Ok q s) : OkR q (execTKa net s) := by
  unfold execTKa
  extract_lets +onlyGivenNames x0
  refine ok_goes ?_
  split
  · refine sendNm_ok ?_
    assumption
  · assumption

theorem execTSleep_ok {q : Claim} {net : ℕ} {s : State} (h : Ok q s) : OkR q (execTSleep net s) := by
  unfold execTSleep
  extract_lets +onlyGivenNames x0
  refine ok_goes ?_
  split
  · refine setNet_ok ?_
    assumption
  · assumption

theorem execTPrep_ok {q : Claim} {net : ℕ} {s : State} (h : Ok q s) : OkR q (execTPrep net s) := by
  unfold execTPrep
  extract_lets +onlyGivenNames x0
  refine ok_goes ?_
  split
  · refine setNet_ok ?_
    refine sendNm_ok ?_
    assumption
  · assumption

theorem execPointOfNoReturn_ok {q : Claim} {net : ℕ} {s : State} (h : Ok q s) : OkR q (execPointOfNoReturn net s) := by
  unfold execPointOfNoReturn
  extract_lets +onlyGivenNames x0
  refine ok_goes ?_
  split
  · refine agreementEvent_ok ?_
    refine setNet_ok ?_
    assumption
  · assumption

theorem execConfirmationNotSent_ok {q : Claim} {net : ℕ} {s : State} (h : Ok q s) : OkR q (execConfirmationNotSent net s) := by
  unfold execConfirmationNotSent
  extract_lets +onlyGivenNames x0
  refine ok_goes ?_
  split
  · extract_lets +onlyGivenNames x1
    have hx1 : Ok q x1 := by
      unfold x1
      refine withdraw_ok ?_
      assumption
    clear_value x1
    refine agreementEvent_ok ?_
    refine setNet_ok ?_
    assumption
  · assumption

theorem execTMinSleep_ok {q : Claim} {net : ℕ} {s : State} (h : Ok q s) : OkR q (execTMinSleep net s) := by
  unfold execTMinSleep
  extract_lets +onlyGivenNames x0
  refine ok_goes ?_
  split
  · extract_lets +onlyGivenNames x1
    extract_lets +onlyGivenNames x2
    have hx2 : Ok q x2 := by
      unfold x2
      refine setNet_ok ?_
      refine ok_congr (s := s) ?_ rfl rfl rfl rfl
      assumption
    clear_value x2
    extract_lets +onlyGivenNames x3
    have hx3 : Ok q x3 := by
      unfold x3
      refine sendNm_ok ?_
      assumption
    clear_value x3
    extract_lets +onlyGivenNames x4
    have hx4 : Ok q x4 := by
      unfold x4
      split
      · refine sendNm_ok ?_
        assumption
      · assumption
    clear_value x4
    refine agreementEvent_ok ?_
    assumption
  · assumption

theorem execWaking5Ms_ok {q : Claim} {net : ℕ} {s : State} (h : Ok q s) : OkR q (execWaking5Ms net s) := by
  unfold execWaking5Ms
  extract_lets +onlyGivenNames x0
  extract_lets +onlyGivenNames x1
  refine ok_goes ?_
  split
  · split
    · extract_lets +onlyGivenNames x2
      have hx2 : Ok q x2 := by
        unfold x2
        refine setNet_ok ?_
        assumption
      clear_value x2
      split
      · refine sendNm_ok ?_
        assumption
      · assumption
    · refine setNet_ok ?_
      assumption
  · assumption

theorem execNeedEnds_ok {q : Claim} {net : ℕ} {s : State} (h : Ok q s) : OkR q (execNeedEnds net s) := by
  unfold execNeedEnds
  refine ok_goes ?_
  refine needChecked_ok ?_
  refine setNet_ok ?_
  assumption

theorem hear_ok {q : Claim} {net : ℕ} {node : ℕ} {s : State} (h : Ok q s) : Ok q (hear net node s) := by
  unfold hear
  extract_lets +onlyGivenNames x0
  split
  · refine setNet_ok ?_
    assumption
  · assumption

theorem otherAwake_ok {q : Claim} {net : ℕ} {s : State} (h : Ok q s) : Ok q (otherAwake net s) := by
  unfold otherAwake
  extract_lets +onlyGivenNames x0
  split
  · refine vetoed_ok ?_
    extract_lets +onlyGivenNames x1
    have hx1 : Ok q x1 := by
      unfold x1
      refine withdraw_ok ?_
      assumption
    clear_value x1
    refine setNet_ok ?_
    assumption
  · extract_lets +onlyGivenNames x2
    have hx2 : Ok q x2 := by
      unfold x2
      refine setNet_ok ?_
      assumption
    clear_value x2
    split
    · refine abandonEntry_ok ?_
      assumption
    · assumption
  · assumption

theorem execKeepAlive_ok {q : Claim} {net : ℕ} {m : NmMsg} {s : State} (h : Ok q s) : OkR q (execKeepAlive net m s) := by
  unfold execKeepAlive
  extract_lets +onlyGivenNames x0
  refine ok_goes ?_
  split
  · assumption
  · refine otherAwake_ok ?_
    refine hear_ok ?_
    refine qualify_ok ?_
    assumption

theorem execWakeMessage_ok {q : Claim} {net : ℕ} {m : NmMsg} {s : State} (h : Ok q s) : OkR q (execWakeMessage net m s) := by
  unfold execWakeMessage
  extract_lets +onlyGivenNames x0
  refine ok_goes ?_
  split
  · assumption
  · refine otherAwake_ok ?_
    refine hear_ok ?_
    refine qualify_ok ?_
    assumption

theorem execSleepConfirmation_ok {q : Claim} {net : ℕ} {m : NmMsg} {s : State} (h : Ok q s) : OkR q (execSleepConfirmation net m s) := by
  unfold execSleepConfirmation
  extract_lets +onlyGivenNames x0
  refine ok_goes ?_
  split
  · assumption
  · refine hear_ok ?_
    assumption

theorem passToken_ok {q : Claim} {net : ℕ} {consent : Bool} {runStart : ℕ} {s : State} (h : Ok q s) : Ok q (passToken net consent runStart s) := by
  unfold passToken
  extract_lets +onlyGivenNames x0
  extract_lets +onlyGivenNames x1
  refine sendNm_ok ?_
  refine setNet_ok ?_
  assumption

theorem execToken_ok {q : Claim} {net : ℕ} {m : NmMsg} {s : State} (h : Ok q s) : OkR q (execToken net m s) := by
  unfold execToken
  extract_lets +onlyGivenNames x0
  refine ok_goes ?_
  split
  · assumption
  · extract_lets +onlyGivenNames x1
    have hx1 : Ok q x1 := by
      unfold x1
      split
      · assumption
      · refine qualify_ok ?_
        assumption
    clear_value x1
    extract_lets +onlyGivenNames x2
    have hx2 : Ok q x2 := by
      unfold x2
      refine hear_ok ?_
      assumption
    clear_value x2
    extract_lets +onlyGivenNames x3
    extract_lets +onlyGivenNames x4
    refine setNet_ok ?_
    assumption

theorem execTokenHold_ok {q : Claim} {net : ℕ} {s : State} (h : Ok q s) : OkR q (execTokenHold net s) := by
  unfold execTokenHold
  extract_lets +onlyGivenNames x0
  refine ok_goes ?_
  split
  · assumption
  · split
    · refine passToken_ok ?_
      assumption
    · split
      · refine passToken_ok ?_
        assumption
      · split
        · refine sendNm_ok ?_
          refine setNet_ok ?_
          assumption
        · refine passToken_ok ?_
          assumption

theorem vetoHold_ok {q : Claim} {net : ℕ} {s : State} (h : Ok q s) : Ok q (vetoHold net s) := by
  unfold vetoHold
  extract_lets +onlyGivenNames x0
  refine vetoed_ok ?_
  refine sendNm_ok ?_
  refine setNet_ok ?_
  assumption

theorem execSleepIndication_ok {q : Claim} {net : ℕ} {m : NmMsg} {s : State} (h : Ok q s) : OkR q (execSleepIndication net m s) := by
  unfold execSleepIndication
  extract_lets +onlyGivenNames x0
  refine ok_goes ?_
  split
  · assumption
  · extract_lets +onlyGivenNames x1
    have hx1 : Ok q x1 := by
      unfold x1
      refine hear_ok ?_
      split
      · assumption
      · refine qualify_ok ?_
        assumption
    clear_value x1
    extract_lets +onlyGivenNames x2
    split
    · assumption
    · split
      · refine vetoHold_ok ?_
        assumption
      · split
        · refine setNet_ok ?_
          refine sendNm_ok ?_
          assumption
        · refine sendNm_ok ?_
          refine setNet_ok ?_
          assumption

theorem execAlive_ok {q : Claim} {net : ℕ} {m : NmMsg} {s : State} (h : Ok q s) : OkR q (execAlive net m s) := by
  unfold execAlive
  extract_lets +onlyGivenNames x0
  refine ok_goes ?_
  split
  · assumption
  · refine hear_ok ?_
    assumption

theorem execVeto_ok {q : Claim} {net : ℕ} {m : NmMsg} {s : State} (h : Ok q s) : OkR q (execVeto net m s) := by
  unfold execVeto
  extract_lets +onlyGivenNames x0
  refine ok_goes ?_
  split
  · assumption
  · extract_lets +onlyGivenNames x1
    have hx1 : Ok q x1 := by
      unfold x1
      refine hear_ok ?_
      assumption
    clear_value x1
    extract_lets +onlyGivenNames x2
    split
    · extract_lets +onlyGivenNames x3
      extract_lets +onlyGivenNames x4
      have hx4 : Ok q x4 := by
        unfold x4
        refine withdraw_ok ?_
        assumption
      clear_value x4
      extract_lets +onlyGivenNames x5
      extract_lets +onlyGivenNames x6
      have hx6 : Ok q x6 := by
        unfold x6
        refine setNet_ok ?_
        assumption
      clear_value x6
      extract_lets +onlyGivenNames x7
      have hx7 : Ok q x7 := by
        unfold x7
        refine vetoed_ok ?_
        assumption
      clear_value x7
      split
      · refine passToken_ok ?_
        assumption
      · assumption
    · assumption

theorem execPrepareSleepAnnouncement_ok {q : Claim} {net : ℕ} {m : NmMsg} {s : State} (h : Ok q s) : OkR q (execPrepareSleepAnnouncement net m s) := by
  unfold execPrepareSleepAnnouncement
  extract_lets +onlyGivenNames x0
  refine ok_goes ?_
  split
  · assumption
  · extract_lets +onlyGivenNames x1
    have hx1 : Ok q x1 := by
      unfold x1
      refine hear_ok ?_
      assumption
    clear_value x1
    split
    · refine vetoHold_ok ?_
      assumption
    · refine setNet_ok ?_
      assumption

theorem execTokenTimeout_ok {q : Claim} {net : ℕ} {s : State} (h : Ok q s) : OkR q (execTokenTimeout net s) := by
  unfold execTokenTimeout
  extract_lets +onlyGivenNames x0
  refine ok_goes ?_
  split
  · refine passToken_ok ?_
    assumption
  · assumption


end Sys2Proof.Machine
end

