-- ==== Sys2Proof/Laws/Keeps/Tally.lean ====
section
/-! SUPPORT. Every function of Machine/Tally.lean that answers a state keeps the invariant and the queue. -/

namespace Sys2Proof.Machine

theorem setTally_ok {q : Claim} {u : ℕ} {v : TallyRt} {s : State} (h : Ok q s) : Ok q (setTally u v s) := by
  unfold setTally
  refine ok_congr (s := s) ?_ rfl rfl rfl rfl
  assumption

theorem tallySkip_ok {q : Claim} {u : ℕ} {s : State} (h : Ok q s) : Ok q (tallySkip u s) := by
  unfold tallySkip
  refine setTally_ok ?_
  assumption

theorem tallyVerify_ok {q : Claim} {u : ℕ} {i : Img} {kind : ℕ} {framing : Img} {d : Bytes} {s : State} (h : Ok q s) : Ok q (tallyVerify u i kind framing d s).2 := by
  unfold tallyVerify
  extract_lets +onlyGivenNames x0
  extract_lets +onlyGivenNames x1
  extract_lets +onlyGivenNames x2
  extract_lets +onlyGivenNames x3
  extract_lets +onlyGivenNames x4
  extract_lets +onlyGivenNames x5
  have hx5 : Ok q x5 := by
    unfold x5
    refine setTally_ok ?_
    assumption
  clear_value x5
  dsimp -zeta only
  split
  · assumption
  · refine raise_ok ?_
    assumption

theorem rowVerify_ok {q : Claim} {r : ℕ} {kind : ℕ} {skip : List ℕ} {framing : Img} {d : Bytes} {s : State} (h : Ok q s) : Ok q (rowVerify r kind skip framing d s).2 := by
  unfold rowVerify
  refine ok_foldl_of (π := Prod.snd) ?_ ?_
  · dsimp -zeta only
    assumption
  · intro z0 z1 z2
    extract_lets +onlyGivenNames x3
    have hx3 : Ok q x3.2 := by
      unfold x3
      refine tallyVerify_ok ?_
      assumption
    clear_value x3
    dsimp -zeta only
    assumption

theorem tallyGenerate_ok {q : Claim} {u : ℕ} {i : Img} {eth : Bool} {kind : ℕ} {framing : Img} {d : Bytes} {s : State} (h : Ok q s) : Ok q (tallyGenerate u i eth kind framing d s).2 := by
  unfold tallyGenerate
  extract_lets +onlyGivenNames x0
  split
  · dsimp -zeta only
    refine tallySkip_ok ?_
    assumption
  · split
    · dsimp -zeta only
      refine tallySkip_ok ?_
      assumption
    · extract_lets +onlyGivenNames x1
      extract_lets +onlyGivenNames x2
      extract_lets +onlyGivenNames x3
      dsimp -zeta only
      refine setTally_ok ?_
      assumption

theorem rowGenerate_ok {q : Claim} {r : ℕ} {eth : Bool} {kind : ℕ} {framing : Img} {d : Bytes} {s : State} (h : Ok q s) : Ok q (rowGenerate r eth kind framing d s).2 := by
  unfold rowGenerate
  refine ok_foldl_of (π := Prod.snd) ?_ ?_
  · dsimp -zeta only
    assumption
  · intro z0 z1 z2
    refine tallyGenerate_ok ?_
    assumption

theorem skipRecords_ok {q : Claim} {u : ℕ} {r : ℕ} {s : State} (h : Ok q s) : Ok q (skipRecords u r s) := by
  unfold skipRecords
  refine ok_congr (s := s) ?_ rfl rfl rfl rfl
  assumption

theorem skipHandoffs_ok {q : Claim} {u : ℕ} {s : State} (h : Ok q s) : Ok q (skipHandoffs u s) := by
  unfold skipHandoffs
  refine ok_congr (s := s) ?_ rfl rfl rfl rfl
  assumption

theorem afterTallyBind_ok {q : Claim} {c : Call} {a1 : ℕ} {a2 : State} {s : State} (h : Ok q a2) (h1 : Ok q s) : Ok q (afterTallyBind c a1 a2 s) := by
  unfold afterTallyBind
  extract_lets +onlyGivenNames x0
  extract_lets +onlyGivenNames x1
  extract_lets +onlyGivenNames x2
  have hx2 : Ok q x2 := by
    unfold x2
    refine setTally_ok ?_
    assumption
  clear_value x2
  split
  · split
    · assumption
    · refine skipHandoffs_ok ?_
      assumption
  · refine skipRecords_ok ?_
    assumption

theorem cmdTallyBind_ok : CmdOk cmdTallyBind := by
  intro q c n s h
  unfold cmdTallyBind
  dsimp -zeta only
  refine directAct_ok ?_ ?_
  · intro z0 z1 z2 z3 z4 z5
    refine afterTallyBind_ok ?_ ?_
    · assumption
    · assumption
  · assumption

theorem execTallyBind_ok {q : Claim} {c : Call} {s : State} (h : Ok q s) : OkR q (execTallyBind c s) := by
  unfold execTallyBind
  refine ok_goes ?_
  refine serve_ok ?_ ?_
  · refine cmdTallyBind_ok
  · assumption

theorem actTallyRelease_ok {q : Claim} {c : Call} {a1 : ℕ} {s : State} (h : Ok q s) : OkW q (actTallyRelease c a1 s) := by
  unfold actTallyRelease
  extract_lets +onlyGivenNames x0
  split
  · refine okw_mk ?_ ?_
    · dsimp -zeta only
      assumption
    · intro z1 z2
      dsimp -zeta only
      dsimp -zeta only [id]
      assumption
  · extract_lets +onlyGivenNames x3
    extract_lets +onlyGivenNames x4
    extract_lets +onlyGivenNames x5
    have hx5 : Ok q x5 := by
      unfold x5
      refine setTally_ok ?_
      refine ok_congr (s := s) ?_ rfl rfl rfl rfl
      assumption
    clear_value x5
    extract_lets +onlyGivenNames x6
    refine okw_mk ?_ ?_
    · dsimp -zeta only
      split
      · refine tallySkip_ok ?_
        assumption
      · assumption
    · intro z7 z8
      dsimp -zeta only
      dsimp -zeta only [id]
      assumption

theorem cmdTallyRelease_ok : CmdOk cmdTallyRelease := by
  intro q c n s h
  unfold cmdTallyRelease
  dsimp -zeta only
  refine actTallyRelease_ok ?_
  assumption

theorem execTallyRelease_ok {q : Claim} {c : Call} {s : State} (h : Ok q s) : OkR q (execTallyRelease c s) := by
  unfold execTallyRelease
  refine ok_goes ?_
  refine serve_ok ?_ ?_
  · refine cmdTallyRelease_ok
  · assumption

theorem actTallyState_ok {q : Claim} {c : Call} {a1 : ℕ} {s : State} (h : Ok q s) : OkW q (actTallyState c a1 s) := by
  unfold actTallyState
  extract_lets +onlyGivenNames x0
  extract_lets +onlyGivenNames x1
  extract_lets +onlyGivenNames x2
  extract_lets +onlyGivenNames x3
  refine okw_mk ?_ ?_
  · dsimp -zeta only
    split
    · assumption
    · refine setTally_ok ?_
      assumption
  · intro z4 z5
    dsimp -zeta only
    dsimp -zeta only [id]
    assumption

theorem cmdTallyState_ok : CmdOk cmdTallyState := by
  intro q c n s h
  unfold cmdTallyState
  dsimp -zeta only
  refine actTallyState_ok ?_
  assumption

theorem execTallyState_ok {q : Claim} {c : Call} {s : State} (h : Ok q s) : OkR q (execTallyState c s) := by
  unfold execTallyState
  refine ok_goes ?_
  refine serve_ok ?_ ?_
  · refine cmdTallyState_ok
  · assumption


end Sys2Proof.Machine
end

