-- ==== Sys2Proof/Laws/Keeps/Harrow.lean ====
section
/-! SUPPORT. Every function of Machine/Harrow.lean that answers a state keeps the invariant and the queue. -/

namespace Sys2Proof.Machine

theorem sieveStage_ok {q : Claim} {e : Img} {lf : Bool} {d : Bytes} {s : State} (h : Ok q s) : Ok q (sieveStage e lf d s).2 := by
  unfold sieveStage
  extract_lets l hits hw s1
  have h1 : Ok q s1 := ok_congr (s := s) h rfl rfl rfl rfl
  clear_value s1 hits
  cases hits with
  | nil => exact h1
  | cons n t => exact raise_ok h1

theorem setTeam_ok {q : Claim} {t : ℕ} {v : TeamRt} {s : State} (h : Ok q s) : Ok q (setTeam t v s) := by
  unfold setTeam
  refine ok_congr (s := s) ?_ rfl rfl rfl rfl
  assumption

theorem changeActive_ok {q : Claim} {t : ℕ} {st : TeamState} {k : Option ℕ} {s : State} (h : Ok q s) : Ok q (changeActive t st k s) := by
  unfold changeActive
  extract_lets +onlyGivenNames x0
  refine raise_ok ?_
  refine setTeam_ok ?_
  assumption

theorem failOver_ok {q : Claim} {t : ℕ} {s : State} (h : Ok q s) : Ok q (failOver t s) := by
  unfold failOver
  split
  · refine changeActive_ok ?_
    assumption
  · refine changeActive_ok ?_
    assumption

theorem silentCheck_ok {q : Claim} {t : ℕ} {s : State} (h : Ok q s) : Ok q (silentCheck t s) := by
  unfold silentCheck
  extract_lets +onlyGivenNames x0
  split
  · refine raise_ok ?_
    refine setTeam_ok ?_
    assumption
  · assumption

theorem applyChange_ok {q : Claim} {t : ℕ} {s : State} (h : Ok q s) : Ok q (applyChange t s) := by
  unfold applyChange
  extract_lets +onlyGivenNames x0
  split
  · assumption
  · extract_lets +onlyGivenNames x1
    have hx1 : Ok q x1 := by
      unfold x1
      refine setTeam_ok ?_
      assumption
    clear_value x1
    extract_lets +onlyGivenNames x2
    refine silentCheck_ok ?_
    split
    · refine failOver_ok ?_
      assumption
    · assumption

theorem teamStep_ok {q : Claim} {t : ℕ} {c : TeamClass} {m : TeamMember} {s : State} (h : Ok q s) : Ok q (teamStep t c m s).2 := by
  unfold teamStep
  extract_lets +onlyGivenNames x0
  extract_lets +onlyGivenNames x1
  extract_lets +onlyGivenNames x2
  split
  · split
    · dsimp -zeta only
      refine setTeam_ok ?_
      assumption
    · dsimp -zeta only
      assumption
  · split
    · split
      · dsimp -zeta only
        assumption
      · dsimp -zeta only
        refine failOver_ok ?_
        assumption
    · extract_lets +onlyGivenNames x3
      split
      · dsimp -zeta only
        refine changeActive_ok ?_
        assumption
      · dsimp -zeta only
        assumption
  · split
    · dsimp -zeta only
      refine changeActive_ok ?_
      assumption
    · dsimp -zeta only
      assumption
  · split
    · dsimp -zeta only
      refine changeActive_ok ?_
      assumption
    · dsimp -zeta only
      assumption

theorem teamGrain_ok {q : Claim} {t : ℕ} {g : Grain} {r : SieveResult} {s : State} (h : Ok q s) : Ok q (teamGrain t g r s).2 := by
  unfold teamGrain
  extract_lets +onlyGivenNames x0
  have hx0 : Ok q x0 := by
    unfold x0
    refine applyChange_ok ?_
    assumption
  clear_value x0
  extract_lets +onlyGivenNames x1
  split
  · dsimp -zeta only
    refine countRow_ok ?_
    refine setTeam_ok ?_
    assumption
  · extract_lets +onlyGivenNames x2
    extract_lets +onlyGivenNames x3
    extract_lets +onlyGivenNames x4
    have hx4 : Ok q x4 := by
      unfold x4
      refine setTeam_ok ?_
      assumption
    clear_value x4
    extract_lets +onlyGivenNames x5
    have hx5 : Ok q x5.2 := by
      unfold x5
      refine teamStep_ok ?_
      assumption
    clear_value x5
    dsimp -zeta only
    refine silentCheck_ok ?_
    assumption

theorem execTeamQuietExpiry_ok {q : Claim} {team : ℕ} {row : ℕ} {s : State} (h : Ok q s) : OkR q (execTeamQuietExpiry team row s) := by
  unfold execTeamQuietExpiry
  extract_lets +onlyGivenNames x0
  have hx0 : Ok q x0 := by
    unfold x0
    refine applyChange_ok ?_
    assumption
  clear_value x0
  extract_lets +onlyGivenNames x1
  split
  · refine ok_goes ?_
    assumption
  · split
    · refine ok_goes ?_
      assumption
    · extract_lets +onlyGivenNames x2
      have hx2 : Ok q x2 := by
        unfold x2
        refine setTeam_ok ?_
        assumption
      clear_value x2
      refine ok_goes ?_
      refine silentCheck_ok ?_
      split
      · refine failOver_ok ?_
        assumption
      · assumption

theorem laneFails_ok {q : Claim} {n : ℕ} {s : State} (h : Ok q s) : Ok q (laneFails n s) := by
  unfold laneFails
  split
  · extract_lets +onlyGivenNames x0
    extract_lets +onlyGivenNames x1
    extract_lets +onlyGivenNames x2
    have hx2 : Ok q x2 := by
      unfold x2
      refine ok_congr (s := s) ?_ rfl rfl rfl rfl
      assumption
    clear_value x2
    split
    · refine ok_congr (s := x2) ?_ rfl rfl rfl rfl
      assumption
    · refine raiseD_ok ?_
      assumption
  · assumption

theorem dropCrossing_ok {q : Claim} {k : ℕ} {s : State} (h : Ok q s) : Ok q (dropCrossing k s) := by
  unfold dropCrossing
  extract_lets +onlyGivenNames x0
  split
  · assumption
  · refine dropGrain_ok ?_
    refine ok_congr (s := s) ?_ rfl rfl rfl rfl
    assumption

theorem countLane_ok {q : Claim} {s : State} (h : Ok q s) : Ok q (countLane s) := by
  unfold countLane
  refine ok_congr (s := s) ?_ rfl rfl rfl rfl
  assumption

theorem dropWaiting_ok {q : Claim} {s : State} {cls : ℕ} (h : Ok q s) : Ok q (dropWaiting s cls) := by
  unfold dropWaiting
  extract_lets +onlyGivenNames x0
  extract_lets +onlyGivenNames x1
  split
  · assumption
  · extract_lets +onlyGivenNames x2
    split
    · refine dropGrain_ok ?_
      refine countLane_ok ?_
      extract_lets +onlyGivenNames x3
      have hx3 : Ok q x3 := by
        unfold x3
        refine picked_ok ?_
        assumption
      clear_value x3
      refine ok_congr (s := x3) ?_ rfl rfl rfl rfl
      assumption
    · refine picked_ok ?_
      assumption

theorem dropInLane_ok {q : Claim} {spare : Bool} {s : State} (h : Ok q s) : Ok q (dropInLane spare s) := by
  unfold dropInLane
  extract_lets +onlyGivenNames x0
  have hx0 : Ok q x0 := by
    unfold x0
    refine ok_foldl ?_ ?_
    · assumption
    · intro z1
      intro z2
      intro z3
      refine dropWaiting_ok ?_
      assumption
  clear_value x0
  extract_lets +onlyGivenNames x4
  split
  · refine dropCrossing_ok ?_
    refine countLane_ok ?_
    refine picked_ok ?_
    assumption
  · refine picked_ok ?_
    assumption

theorem compareFault_ok {q : Claim} {n : ℕ} {s : State} (h : Ok q s) : Ok q (compareFault n s) := by
  unfold compareFault
  refine laneFails_ok ?_
  refine dropInLane_ok ?_
  refine raiseD_ok ?_
  refine ok_congr (s := s) ?_ rfl rfl rfl rfl
  assumption

theorem beaconCompare_ok {q : Claim} {lookups : List LookupResult} {true_ : LookupResult} {s : State} (h : Ok q s) : Ok q (beaconCompare lookups true_ s).st := by
  unfold beaconCompare
  extract_lets +onlyGivenNames x0
  split
  · dsimp -zeta only
    assumption
  · extract_lets +onlyGivenNames x1
    extract_lets +onlyGivenNames x2
    extract_lets +onlyGivenNames x3
    extract_lets +onlyGivenNames x4
    extract_lets +onlyGivenNames x5
    extract_lets +onlyGivenNames x6
    dsimp -zeta only
    split
    · refine picked_ok ?_
      assumption
    · refine ok_foldl ?_ ?_
      · refine picked_ok ?_
        assumption
      · intro z7 z8 z9
        refine compareFault_ok ?_
        assumption

theorem countRoute_ok {q : Claim} {ref : ℕ} {f : RouteRt → RouteRt} {s : State} (h : Ok q s) : Ok q (countRoute ref f s) := by
  unfold countRoute
  split
  · assumption
  · refine ok_congr (s := s) ?_ rfl rfl rfl rfl
    assumption

theorem mirrorCopy_ok {q : Claim} {g : Grain} {ring : ℕ} {s : State} (h : Ok q s) : Ok q (mirrorCopy g ring s) := by
  unfold mirrorCopy
  split
  · assumption
  · split
    · refine ok_congr (s := s) ?_ rfl rfl rfl rfl
      assumption
    · refine enqueueRow_ok ?_
      refine addRefs_ok ?_
      refine poolTake_ok ?_
      assumption

theorem queueUnit_ok {q : Claim} {a0 : HandOff} {s : State} (h : Ok q s) : Ok q (queueUnit a0 s).2 := by
  unfold queueUnit
  split
  · split
    · dsimp -zeta only
      refine tallySkip_ok ?_
      assumption
    · dsimp -zeta only
      assumption
  · dsimp -zeta only
    assumption

theorem decideVoid_ok {q : Claim} {g : Grain} {s : State} (h : Ok q s) : Ok q (decideVoid g s) := by
  unfold decideVoid
  split
  · assumption
  · extract_lets +onlyGivenNames x0
    have hx0 : Ok q x0 := by
      unfold x0
      refine countRoute_ok ?_
      assumption
    clear_value x0
    split
    · refine teamGrain_ok ?_
      assumption
    · assumption

/-- A decision that takes the grain keeps the invariant. -/
def OkO (q : Claim) (o : Option State) : Prop := ∀ t, o = some t → Ok q t

theorem oko_some {q : Claim} {s : State} (h : Ok q s) : OkO q (some s) := fun _ ht => by
  injection ht with ht
  exact ht ▸ h

theorem oko_ite {q : Claim} {c : Prop} [Decidable c] {a b : Option State} (ha : OkO q a) (hb : OkO q b) : OkO q (if c then a else b) := by
  split
  · exact ha
  · exact hb

theorem drop_oko {q : Claim} {g : Grain} {s : State} (h : Ok q s) : OkO q (drop g s) := oko_some (dropGrain_ok h)

theorem handOff_oko {q : Claim} {far : Bool} {g : Grain} {x : HandOff} {s : State} (h : Ok q s) : OkO q (handOff far g x s) := by
  have ha : Ok q (hedgerow g s).st := hedgerow_ok h
  unfold handOff
  extract_lets +onlyGivenNames a cls g' u
  have hu : Ok q u := by
    unfold u
    split
    · exact mirrorCopy_ok ha
    · exact ha
  clear_value u g' cls
  refine oko_ite (oko_some (dropGrain_ok (raise_ok (countRoute_ok hu)))) (oko_ite (oko_some (dropGrain_ok (countRoute_ok hu)))
    (oko_ite (fun _ ht => by cases ht) ?_))
  extract_lets +onlyGivenNames v w z
  have hw : Ok q w := countRoute_ok (ok_ite hu (moveCharge_ok hu))
  clear_value w
  have hz : Ok q z.2 := queueUnit_ok hw
  clear_value z
  exact oko_some (ok_congr (s := z.2) hz rfl rfl rfl rfl)

theorem miss_oko {q : Claim} {g : Grain} {b : Bool} {s : State} (h : Ok q s) : OkO q (miss g b s) := by
  unfold miss
  extract_lets +onlyGivenNames i u x
  have hu : Ok q u := raise_ok (countRow_ok h)
  clear_value u i x
  split
  · exact oko_ite (handOff_oko hu) (drop_oko hu)
  · exact handOff_oko hu
  · exact drop_oko hu

theorem fallback_oko {q : Claim} {g : Grain} {s : State} (h : Ok q s) : OkO q (fallback g s) := by
  unfold fallback
  exact oko_ite (handOff_oko h) (drop_oko (ok_congr (s := s) h rfl rfl rfl rfl))

theorem decidePassed_oko {q : Claim} {g : Grain} {ref : ℕ} {e : Img} {retried : Bool} {s : State} (h : Ok q s) :
    OkO q (decidePassed g ref e retried s) := by
  unfold decidePassed
  extract_lets +onlyGivenNames cls v r u0 u
  have hu : Ok q u := ok_congr (s := s) h rfl rfl rfl rfl
  clear_value u
  refine oko_ite (drop_oko (countRoute_ok hu)) ?_
  extract_lets +onlyGivenNames t g'
  exact handOff_oko hu

theorem decideRoute_oko {q : Claim} {g : Grain} {ref : ℕ} {e : Img} {retried : Bool} {s : State} (h : Ok q s) :
    OkO q (decideRoute g ref e retried s) := by
  unfold decideRoute
  extract_lets +onlyGivenNames u v r sieved teamed
  have hv : Ok q v := ok_ite (trafficNeed_ok (countRoute_ok h)) (countRoute_ok h)
  clear_value v
  have hr : Ok q r.2 := sieveStage_ok hv
  clear_value r
  split
  · exact oko_ite (decidePassed_oko hr) (drop_oko (countRoute_ok hr))
  · rename_i t _
    have ho : Ok q (teamGrain t g r.1 r.2).2 := teamGrain_ok hr
    extract_lets +onlyGivenNames o
    change Ok q o.2 at ho
    clear_value o
    split
    · exact drop_oko (countRoute_ok ho)
    · exact decidePassed_oko ho
    · exact drop_oko (ok_ite (countRoute_ok ho) (countRoute_ok ho))

theorem decideSentence_oko {q : Claim} {g : Grain} {lookups : List LookupResult} {s : State} (h : Ok q s) : OkO q (decideSentence g lookups s) := by
  unfold decideSentence
  extract_lets +onlyGivenNames e beacon c
  have hc : Ok q c.st := by
    unfold c
    split
    · exact beaconCompare_ok h
    · exact h
  clear_value c
  split
  · exact fallback_oko hc
  · split
    · exact decideRoute_oko hc
    · exact miss_oko hc

theorem decideFrame_oko {q : Claim} {g : Grain} {s : State} (h : Ok q s) : OkO q (decideFrame g s) := by
  unfold decideFrame
  extract_lets +onlyGivenNames e ref u cfg own sel ports g'
  have hu : Ok q u := countRoute_ok h
  clear_value u
  exact oko_ite (drop_oko hu) (handOff_oko hu)

theorem decideGrain_oko {q : Claim} {g : Grain} {lookups : List LookupResult} {s : State} (h : Ok q s) : OkO q (decideGrain g lookups s) := by
  unfold decideGrain
  exact oko_ite (drop_oko h) (oko_ite (decideFrame_oko h) (oko_ite (oko_some (decideVoid_ok h)) (decideSentence_oko h)))

theorem decideFirst_oko {q : Claim} {p : PloughId} {lookups : List LookupResult} {s : State} {a b : List Grain} (h : Ok q s) :
    OkO q (decideFirst p lookups s a b) := by
  induction b generalizing a with
  | nil => exact fun _ ht => by cases ht
  | cons g l ih =>
    rw [decideFirst]
    split
    · exact ih
    · split
      · rename_i hs
        exact fun t ht => by
          cases ht
          exact decideGrain_oko (setPlough_ok h) _ hs
      · exact ih

theorem execHarrowDecision_ok {q : Claim} {p : PloughId} {lookups : List LookupResult} {s : State} (h : Ok q s) :
    OkR q (execHarrowDecision p lookups s) := by
  unfold execHarrowDecision
  split
  · exact ok_goes h
  · split
    · exact ok_goes h
    · rename_i g rest _ _
      refine ok_goes ?_
      cases hd : decideFirst p lookups s [] (g :: rest) with
      | none => exact h
      | some t => exact decideFirst_oko h t hd


end Sys2Proof.Machine
end

