-- ==== Sys2Proof/Laws/Keeps/Rewrite.lean ====
section
/-! SUPPORT. Every function of Machine/Rewrite.lean that answers a state keeps the invariant and the queue. -/

namespace Sys2Proof.Machine

theorem rewrite_ok {q : Claim} {byte37 : ℕ} {r : ℕ} {g : Grain} {d : Bytes} {s : State} (h : Ok q s) : Ok q (rewrite byte37 r g d s).2.2 := by
  unfold rewrite
  split
  · dsimp -zeta only
    assumption
  · split
    · dsimp -zeta only
      refine countRow_ok ?_
      assumption
    · extract_lets +onlyGivenNames x0
      extract_lets +onlyGivenNames x1
      extract_lets +onlyGivenNames x2
      split
      · dsimp -zeta only
        refine countRow_ok ?_
        assumption
      · dsimp -zeta only
        refine picked_ok ?_
        assumption


end Sys2Proof.Machine
end

