-- ==== Sys2Proof/Laws/Keeps/Drill.lean ====
section
/-! SUPPORT. Every function of Machine/Drill.lean that answers a state keeps the invariant and the queue. -/

namespace Sys2Proof.Machine

theorem sendSheaf_ok {q : Claim} {dest : ℕ} {cls : ℕ} {o : OpenSheaf} {s : State} (h : Ok q s) : Ok q (sendSheaf dest cls o s) := by
  unfold sendSheaf
  extract_lets +onlyGivenNames x0
  extract_lets +onlyGivenNames x1
  split
  · extract_lets +onlyGivenNames x2
    extract_lets +onlyGivenNames x3
    refine countSeq_ok ?_
    refine enqueuePort_ok ?_
    assumption
  · extract_lets +onlyGivenNames x4
    have hx4 : Ok q x4 := by
      unfold x4
      refine ok_foldl ?_ ?_
      · assumption
      · intro z5
        intro z6
        intro z7
        refine countRow_ok ?_
        assumption
    clear_value x4
    refine ok_foldl ?_ ?_
    · assumption
    · intro z8
      intro z9
      intro z10
      refine endGrain_ok ?_
      assumption

theorem closeSheaf_ok {q : Claim} {dest : ℕ} {cls : ℕ} {s : State} (h : Ok q s) : Ok q (closeSheaf dest cls s) := by
  unfold closeSheaf
  split
  · assumption
  · refine sendSheaf_ok ?_
    refine ok_congr (s := s) ?_ rfl rfl rfl rfl
    assumption

theorem discardSheafs_ok {q : Claim} {dest : ℕ} {s : State} (h : Ok q s) : Ok q (discardSheafs dest s) := by
  unfold discardSheafs
  refine ok_foldl ?_ ?_
  · assumption
  · intro z0 z1 z2
    extract_lets +onlyGivenNames x3
    extract_lets +onlyGivenNames x4
    have hx4 : Ok q x4 := by
      unfold x4
      refine ok_foldl ?_ ?_
      · refine ok_congr (s := z0) ?_ rfl rfl rfl rfl
        assumption
      · intro z5 z6 z7
        refine countRow_ok ?_
        assumption
    clear_value x4
    refine ok_foldl ?_ ?_
    · assumption
    · intro z8 z9 z10
      refine endGrain_ok ?_
      assumption

theorem bundle_ok {q : Claim} {r : ℕ} {dest : ℕ} {g : Grain} {res : Bool} {s : State} (h : Ok q s) : Ok q (bundle r dest g res s) := by
  unfold bundle
  extract_lets +onlyGivenNames x0
  extract_lets +onlyGivenNames x1
  extract_lets +onlyGivenNames x2
  split
  · refine sendSheaf_ok ?_
    assumption
  · extract_lets +onlyGivenNames x3
    extract_lets +onlyGivenNames x4
    have hx4 : Ok q x4 := by
      unfold x4
      split
      · split
        · refine closeSheaf_ok ?_
          assumption
        · assumption
      · assumption
    clear_value x4
    extract_lets +onlyGivenNames x5
    extract_lets +onlyGivenNames x6
    extract_lets +onlyGivenNames x7
    have hx7 : Ok q x7 := by
      unfold x7
      refine ok_congr (s := x4) ?_ rfl rfl rfl rfl
      assumption
    clear_value x7
    split
    · refine closeSheaf_ok ?_
      assumption
    · assumption

theorem refused_ok {q : Claim} {a : Accept} {r : ℕ} (h : Ok q a.st) : Ok q (a.refused r).st := countRow_ok h

theorem makes_ok {q : Claim} {a : Accept} {s : State} (h : Ok q s) : Ok q (a.makes s).st := h

theorem countLate_ok {q : Claim} {r : ℕ} {late : Bool} {s : State} (h : Ok q s) : Ok q (countLate r late s) := by
  unfold countLate
  split
  · refine raise_ok ?_
    refine countRow_ok ?_
    assumption
  · assumption

theorem acceptRemote_ok {q : Claim} {a0 : HandOff} {r : ℕ} {a : Accept} (h : Ok q a.st) : Ok q (acceptRemote a0 r a).st := by
  unfold acceptRemote
  extract_lets +onlyGivenNames x0
  have hx0 : Ok q x0 := by
    unfold x0
    assumption
  clear_value x0
  extract_lets +onlyGivenNames x1
  extract_lets +onlyGivenNames x2
  split
  · dsimp -zeta only
    refine raise_ok ?_
    refine countRow_ok ?_
    assumption
  · split
    · refine refused_ok ?_
      assumption
    · refine makes_ok ?_
      refine bundle_ok ?_
      refine countLate_ok ?_
      refine addRefs_ok ?_
      refine poolTake_ok ?_
      assumption

theorem acceptAcf_ok {q : Claim} {a0 : HandOff} {r : ℕ} {a : Accept} (h : Ok q a.st) : Ok q (acceptAcf a0 r a).st := by
  unfold acceptAcf
  extract_lets +onlyGivenNames x0
  have hx0 : Ok q x0 := by
    unfold x0
    assumption
  clear_value x0
  extract_lets +onlyGivenNames x1
  extract_lets +onlyGivenNames x2
  split
  · dsimp -zeta only
    refine countRow_ok ?_
    assumption
  · split
    · dsimp -zeta only
      refine countRow_ok ?_
      assumption
    · split
      · refine refused_ok ?_
        assumption
      · extract_lets +onlyGivenNames x3
        refine makes_ok ?_
        refine countLate_ok ?_
        refine enqueuePort_ok ?_
        refine addRefs_ok ?_
        refine poolTake_ok ?_
        assumption

theorem acceptOwn_ok {q : Claim} {a0 : HandOff} {r : ℕ} {a : Accept} (h : Ok q a.st) : Ok q (acceptOwn a0 r a).st := by
  unfold acceptOwn
  extract_lets +onlyGivenNames x0
  have hx0 : Ok q x0 := by
    unfold x0
    assumption
  clear_value x0
  extract_lets +onlyGivenNames x1
  split
  · refine refused_ok ?_
    assumption
  · extract_lets +onlyGivenNames x2
    refine makes_ok ?_
    refine countLate_ok ?_
    refine enqueueRow_ok ?_
    refine addRefs_ok ?_
    refine poolTake_ok ?_
    assumption

theorem acceptRow_ok {q : Claim} {a0 : HandOff} {a : Accept} {r : ℕ} (h : Ok q a.st) : Ok q (acceptRow a0 a r).st := by
  unfold acceptRow
  extract_lets +onlyGivenNames x0
  have hx0 : Ok q x0 := by
    unfold x0
    assumption
  clear_value x0
  extract_lets +onlyGivenNames x1
  split
  · assumption
  · split
    · dsimp -zeta only
      refine ok_congr (s := x0) ?_ rfl rfl rfl rfl
      assumption
    · split
      · split
        · dsimp -zeta only
          refine countRow_ok ?_
          assumption
        · split
          · dsimp -zeta only
            refine countRow_ok ?_
            assumption
          · split
            · dsimp -zeta only
              assumption
            · refine acceptRemote_ok ?_
              assumption
      · split
        · dsimp -zeta only
          assumption
        · split
          · refine acceptAcf_ok ?_
            assumption
          · refine acceptOwn_ok ?_
            assumption

theorem acceptPort_ok {q : Claim} {a0 : HandOff} {a : Accept} {p : ℕ} (h : Ok q a.st) : Ok q (acceptPort a0 a p).st := by
  unfold acceptPort
  extract_lets +onlyGivenNames x0
  have hx0 : Ok q x0 := by
    unfold x0
    assumption
  clear_value x0
  extract_lets +onlyGivenNames x1
  split
  · dsimp -zeta only
    assumption
  · split
    · assumption
    · split
      · dsimp -zeta only
        refine countPort_ok ?_
        assumption
      · split
        · assumption
        · extract_lets +onlyGivenNames x2
          extract_lets +onlyGivenNames x3
          refine makes_ok ?_
          refine enqueuePort_ok ?_
          refine addRefs_ok ?_
          refine poolTake_ok ?_
          assumption

theorem acceptRole_ok {q : Claim} {a0 : HandOff} {role : ℕ} {a : Accept} (h : Ok q a.st) : Ok q (acceptRole a0 role a).st := by
  unfold acceptRole
  split
  · dsimp -zeta only
    assumption
  · split
    · refine acceptOwn_ok ?_
      assumption
    · assumption

theorem replicate_ok {q : Claim} {a0 : HandOff} {s : State} (h : Ok q s) : Ok q (replicate a0 s).st := by
  unfold replicate
  extract_lets +onlyGivenNames x0
  have hx0 : Ok q x0.st := by
    unfold x0
    dsimp -zeta only
    assumption
  clear_value x0
  split
  · extract_lets +onlyGivenNames x1
    have hx1 : Ok q x1.st := by
      unfold x1
      refine ok_foldl_of (π := Sys2Proof.Machine.Accept.st) ?_ ?_
      · assumption
      · intro z2 z3 z4
        refine acceptPort_ok ?_
        assumption
    clear_value x1
    split
    · refine acceptRole_ok ?_
      assumption
    · assumption
  · split
    · refine acceptRole_ok ?_
      assumption
    · refine ok_foldl_of (π := Sys2Proof.Machine.Accept.st) ?_ ?_
      · assumption
      · intro z5 z6 z7
        refine acceptRow_ok ?_
        assumption

theorem routeVerify_ok {q : Claim} {a0 : HandOff} {s : State} (h : Ok q s) : Ok q (routeVerify a0 s).2 := by
  unfold routeVerify
  split
  · refine tallyVerify_ok ?_
    assumption
  · dsimp -zeta only
    refine tallySkip_ok ?_
    assumption
  · dsimp -zeta only
    assumption

theorem acceptGrain_ok {q : Claim} {a0 : HandOff} {s : State} (h : Ok q s) : Ok q (acceptGrain a0 s) := by
  unfold acceptGrain
  extract_lets +onlyGivenNames x0
  have hx0 : Ok q x0.2 := by
    unfold x0
    refine routeVerify_ok ?_
    assumption
  clear_value x0
  split
  · refine dropGrain_ok ?_
    assumption
  · extract_lets +onlyGivenNames x1
    extract_lets +onlyGivenNames x2
    extract_lets +onlyGivenNames x3
    have hx3 : Ok q x3.st := by
      unfold x3
      refine replicate_ok ?_
      assumption
    clear_value x3
    extract_lets +onlyGivenNames x4
    have hx4 : Ok q x4 := by
      unfold x4
      split
      · refine raise_ok ?_
        refine countRoute_ok ?_
        assumption
      · assumption
    clear_value x4
    refine dropGrain_ok ?_
    assumption

theorem execDrillAccept_ok {q : Claim} {cls : ℕ} {s : State} (h : Ok q s) : OkR q (execDrillAccept cls s) := by
  unfold execDrillAccept
  split
  · refine ok_goes ?_
    assumption
  · split
    · refine ok_goes ?_
      assumption
    · refine ok_goes ?_
      refine acceptGrain_ok ?_
      refine ok_congr (s := s) ?_ rfl rfl rfl rfl
      assumption

theorem execSheafAge_ok {q : Claim} {dest : ℕ} {cls : ℕ} {s : State} (h : Ok q s) : OkR q (execSheafAge dest cls s) := by
  unfold execSheafAge
  refine ok_goes ?_
  refine closeSheaf_ok ?_
  assumption

theorem execSheafReleaseBoundary_ok {q : Claim} {dest : ℕ} {cls : ℕ} {s : State} (h : Ok q s) : OkR q (execSheafReleaseBoundary dest cls s) := by
  unfold execSheafReleaseBoundary
  refine ok_goes ?_
  refine closeSheaf_ok ?_
  assumption

theorem cutChain_ok {q : Claim} {i : ℕ} {s : State} (h : Ok q s) : Ok q (cutChain i s) := by
  unfold cutChain
  split
  · refine ok_congr (s := s) ?_ rfl rfl rfl rfl
    assumption
  · assumption

theorem readEffects_ok {q : Claim} {rd : ReadOutcome} {parityObj : ℕ} {cells : List ℕ} {s : State} (h : Ok q s) : Ok q (readEffects rd parityObj cells s).2 := by
  unfold readEffects
  extract_lets +onlyGivenNames x0
  split
  · dsimp -zeta only
    assumption
  · split
    · dsimp -zeta only
      assumption
    · split
      · dsimp -zeta only
        refine uncorrectableWord_ok ?_
        assumption
      · dsimp -zeta only
        refine correctedWord_ok ?_
        assumption
  · split
    · dsimp -zeta only
      refine cutChain_ok ?_
      assumption
    · dsimp -zeta only
      assumption
  · dsimp -zeta only
    refine raiseD_ok ?_
    assumption

theorem readCopy_ok {q : Claim} {c : Copy} {rd : ReadOutcome} {s : State} (h : Ok q s) : Ok q (readCopy c rd s).2 := by
  unfold readCopy
  split
  · dsimp -zeta only
    assumption
  · extract_lets +onlyGivenNames x0
    have hx0 : Ok q x0.2 := by
      unfold x0
      refine readEffects_ok ?_
      assumption
    clear_value x0
    split
    · dsimp -zeta only
      refine discardCopy_ok ?_
      assumption
    · extract_lets +onlyGivenNames x1
      extract_lets +onlyGivenNames x2
      extract_lets +onlyGivenNames x3
      extract_lets +onlyGivenNames x4
      have hx4 : Ok q x4.2 := by
        unfold x4
        split
        · refine rowVerify_ok ?_
          assumption
        · dsimp -zeta only
          assumption
      clear_value x4
      split
      · dsimp -zeta only
        refine endCopy_ok ?_
        assumption
      · extract_lets +onlyGivenNames x5
        have hx5 : Ok q x5.2.2 := by
          unfold x5
          refine rewrite_ok ?_
          assumption
        clear_value x5
        extract_lets +onlyGivenNames x6
        have hx6 : Ok q x6.2 := by
          unfold x6
          split
          · refine tallyGenerate_ok ?_
            assumption
          · dsimp -zeta only
            assumption
        clear_value x6
        extract_lets +onlyGivenNames x7
        have hx7 : Ok q x7.2 := by
          unfold x7
          split
          · refine rowGenerate_ok ?_
            assumption
          · assumption
        clear_value x7
        dsimp -zeta only
        assumption

theorem unqueue_ok {q : Claim} {r : ℕ} {c : Copy} {s : State} (h : Ok q s) : Ok q (unqueue r c s) := by
  unfold unqueue
  refine ok_congr (s := s) ?_ rfl rfl rfl rfl
  assumption

theorem requeueHead_ok {q : Claim} {c : Copy} {s : State} (h : Ok q s) : Ok q (requeueHead c s) := by
  unfold requeueHead
  extract_lets +onlyGivenNames x0
  extract_lets +onlyGivenNames x1
  extract_lets +onlyGivenNames x2
  refine ok_congr (s := s) ?_ rfl rfl rfl rfl
  assumption

theorem markStart_ok {q : Claim} {r : ℕ} {c : Copy} {deferred : Bool} {s : State} (h : Ok q s) : Ok q (markStart r c deferred s).2 := by
  unfold markStart
  extract_lets +onlyGivenNames x0
  extract_lets +onlyGivenNames x1
  extract_lets +onlyGivenNames x2
  have hx2 : Ok q x2 := by
    unfold x2
    split
    · refine countRow_ok ?_
      assumption
    · assumption
  clear_value x2
  extract_lets +onlyGivenNames x3
  have hx3 : Ok q x3 := by
    unfold x3
    split
    · refine countRow_ok ?_
      assumption
    · assumption
  clear_value x3
  dsimp -zeta only
  assumption

theorem beginCopy_ok {q : Claim} {r : ℕ} {c : Copy} {s : State} (h : Ok q s) : Ok q (beginCopy r c s).2 := by
  unfold beginCopy
  refine markStart_ok ?_
  assumption

theorem sentCopy_ok {q : Claim} {r : ℕ} {c : Copy} {s : State} (h : Ok q s) : Ok q (sentCopy r c s) := by
  unfold sentCopy
  extract_lets +onlyGivenNames x0
  have hx0 : Ok q x0 := by
    unfold x0
    refine countRow_ok ?_
    refine countRow_ok ?_
    assumption
  clear_value x0
  refine endCopy_ok ?_
  refine setRowRt_ok ?_
  assumption

theorem putWire_ok {q : Claim} {r : ℕ} {c : Copy} {s : State} (h : Ok q s) : Ok q (putWire r c s) := by
  unfold putWire
  refine ok_congr (s := s) ?_ rfl rfl rfl rfl
  assumption

theorem startCan_ok {q : Claim} {r : ℕ} {k : ℕ} {c : Copy} {s : State} (h : Ok q s) : Ok q (startCan r k c s) := by
  unfold startCan
  split
  · refine discardCopy_ok ?_
    refine countCan_ok ?_
    assumption
  · split
    · refine endCopy_ok ?_
      refine countCan_ok ?_
      assumption
    · split
      · refine discardCopy_ok ?_
        assumption
      · extract_lets +onlyGivenNames x0
        extract_lets +onlyGivenNames x1
        have hx1 : Ok q x1.2 := by
          unfold x1
          refine beginCopy_ok ?_
          refine setCan_ok ?_
          assumption
        clear_value x1
        refine putWire_ok ?_
        assumption

theorem startUart_ok {q : Claim} {r : ℕ} {k : ℕ} {c : Copy} {s : State} (h : Ok q s) : Ok q (startUart r k c s) := by
  unfold startUart
  split
  · refine discardCopy_ok ?_
    assumption
  · extract_lets +onlyGivenNames x0
    have hx0 : Ok q x0.2 := by
      unfold x0
      refine beginCopy_ok ?_
      assumption
    clear_value x0
    extract_lets +onlyGivenNames x1
    extract_lets +onlyGivenNames x2
    have hx2 : Ok q x2 := by
      unfold x2
      refine putWire_ok ?_
      refine setUart_ok ?_
      assumption
    clear_value x2
    refine drivePins_ok ?_
    split
    · assumption
    · refine emit_ok ?_
      assumption

theorem startLin_ok {q : Claim} {r : ℕ} {k : ℕ} {c : Copy} {s : State} (h : Ok q s) : Ok q (startLin r k c s) := by
  unfold startLin
  extract_lets +onlyGivenNames x0
  split
  · refine discardCopy_ok ?_
    assumption
  · split
    · split
      · extract_lets +onlyGivenNames x1
        have hx1 : Ok q x1.2 := by
          unfold x1
          refine beginCopy_ok ?_
          assumption
        clear_value x1
        refine sentCopy_ok ?_
        refine setLin_ok ?_
        assumption
      · refine discardCopy_ok ?_
        refine countLin_ok ?_
        assumption
    · extract_lets +onlyGivenNames x2
      have hx2 : Ok q x2.2 := by
        unfold x2
        refine beginCopy_ok ?_
        assumption
      clear_value x2
      extract_lets +onlyGivenNames x3
      extract_lets +onlyGivenNames x4
      have hx4 : Ok q x4 := by
        unfold x4
        refine setLin_ok ?_
        assumption
      clear_value x4
      refine emit_ok ?_
      refine emit_ok ?_
      refine putWire_ok ?_
      refine countLin_ok ?_
      assumption

theorem startMvb_ok {q : Claim} {r : ℕ} {k : ℕ} {c : Copy} {s : State} (h : Ok q s) : Ok q (startMvb r k c s) := by
  unfold startMvb
  split
  · extract_lets +onlyGivenNames x0
    extract_lets +onlyGivenNames x1
    have hx1 : Ok q x1.2 := by
      unfold x1
      refine beginCopy_ok ?_
      assumption
    clear_value x1
    extract_lets +onlyGivenNames x2
    have hx2 : Ok q x2 := by
      unfold x2
      assumption
    clear_value x2
    extract_lets +onlyGivenNames x3
    refine sentCopy_ok ?_
    refine setMvb_ok ?_
    assumption
  · refine discardCopy_ok ?_
    refine countMvb_ok ?_
    assumption

theorem startSteward_ok {q : Claim} {r : ℕ} {c : Copy} {s : State} (h : Ok q s) : Ok q (startSteward r c s) := by
  unfold startSteward
  extract_lets +onlyGivenNames x0
  have hx0 : Ok q x0.2 := by
    unfold x0
    refine beginCopy_ok ?_
    assumption
  clear_value x0
  refine sentCopy_ok ?_
  refine emit_ok ?_
  assumption

theorem startCopy_ok {q : Claim} {r : ℕ} {c : Copy} {s : State} (h : Ok q s) : Ok q (startCopy r c s) := by
  unfold startCopy
  split
  · refine startCan_ok ?_
    assumption
  · refine startUart_ok ?_
    assumption
  · refine startLin_ok ?_
    assumption
  · refine startMvb_ok ?_
    assumption
  · refine startSteward_ok ?_
    assumption
  · assumption

theorem hearsNow_ok {q : Claim} {r : ℕ} {s : State} (h : Ok q s) : Ok q (hearsNow r s).2 := by
  unfold hearsNow
  split
  · dsimp -zeta only
    refine picked_ok ?_
    assumption
  · dsimp -zeta only
    assumption

theorem deferCopy_ok {q : Claim} {r : ℕ} {c : Copy} {hears : Bool} {s : State} (h : Ok q s) : Ok q (deferCopy r c hears s) := by
  unfold deferCopy
  split
  · assumption
  · extract_lets +onlyGivenNames x0
    have hx0 : Ok q x0 := by
      unfold x0
      split
      · refine countUart_ok ?_
        assumption
      · assumption
    clear_value x0
    refine ok_congr (s := x0) ?_ rfl rfl rfl rfl
    assumption

theorem releaseRow_ok {q : Claim} {r : ℕ} {rd : ReadOutcome} {s : State} (h : Ok q s) : Ok q (releaseRow r rd s) := by
  unfold releaseRow
  split
  · assumption
  · extract_lets +onlyGivenNames x0
    have hx0 : Ok q x0.2 := by
      unfold x0
      refine hearsNow_ok ?_
      refine sofChoice_ok ?_
      assumption
    clear_value x0
    extract_lets +onlyGivenNames x1
    have hx1 : Ok q x1 := by
      unfold x1
      assumption
    clear_value x1
    split
    · refine deferCopy_ok ?_
      assumption
    · extract_lets +onlyGivenNames x2
      have hx2 : Ok q x2 := by
        unfold x2
        refine unqueue_ok ?_
        assumption
      clear_value x2
      extract_lets +onlyGivenNames x3
      extract_lets +onlyGivenNames x4
      have hx4 : Ok q x4 := by
        unfold x4
        split
        · refine requeueHead_ok ?_
          refine ok_congr (s := x2) ?_ rfl rfl rfl rfl
          assumption
        · assumption
      clear_value x4
      extract_lets +onlyGivenNames x5
      have hx5 : Ok q x5.2 := by
        unfold x5
        refine readCopy_ok ?_
        assumption
      clear_value x5
      split
      · refine startCopy_ok ?_
        assumption
      · assumption

theorem ringDrop_ok {q : Claim} {n : ℕ} {c : Copy} {s : State} (h : Ok q s) : Ok q (ringDrop n c s) := by
  unfold ringDrop
  extract_lets +onlyGivenNames x0
  have hx0 : Ok q x0 := by
    unfold x0
    refine endCopy_ok ?_
    assumption
  clear_value x0
  refine ok_congr (s := x0) ?_ rfl rfl rfl rfl
  assumption

theorem releaseRing_ok {q : Claim} {n : ℕ} {rd : ReadOutcome} {s : State} (h : Ok q s) : Ok q (releaseRing n rd s) := by
  unfold releaseRing
  extract_lets +onlyGivenNames w v takes
  split
  · split
    · exact ringDrop_ok (unqueue_ok h)
    · clear_value takes v w
      extract_lets +onlyGivenNames x
      have hx : Ok q x := unqueue_ok h
      clear_value x
      extract_lets +onlyGivenNames d y o
      have hy : Ok q y := by
        unfold y
        split
        · exact requeueHead_ok (ok_congr (s := x) hx rfl rfl rfl rfl)
        · exact hx
      have ho : Ok q o.2 := readCopy_ok hy
      clear_value o
      split
      · exact ho
      · rename_i c' _
        extract_lets +onlyGivenNames z t waits b
        have hb : Ok q b.2 := by
          unfold b
          split
          · exact ho
          · exact beginCopy_ok ho
        clear_value b
        exact ok_congr (s := putWire (512 + n) { b.1 with waitFrom := some t } b.2) (putWire_ok hb) rfl rfl rfl rfl
  · exact h

theorem readAhead_ok {q : Claim} {c : Option Copy} {s : State} (h : Ok q s) : Ok q (readAhead c s) := by
  unfold readAhead
  split
  · split
    · refine ok_congr (s := s) ?_ rfl rfl rfl rfl
      assumption
    · assumption
  · assumption

theorem execCopyRelease_ok {q : Claim} {row : ℕ} {rd : ReadOutcome} {s : State} (h : Ok q s) : OkR q (execCopyRelease row rd s) := by
  unfold execCopyRelease
  split
  · refine ok_goes ?_
    refine readAhead_ok ?_
    assumption
  · split
    · refine ok_goes ?_
      refine releaseRing_ok ?_
      assumption
    · refine ok_goes ?_
      refine releaseRow_ok ?_
      assumption

theorem ageCopy_ok {q : Claim} {row : ℕ} {s : State} {c : Copy} (h : Ok q s) : Ok q (ageCopy row s c) := by
  unfold ageCopy
  refine discardCopy_ok ?_
  split
  · assumption
  · refine countRow_ok ?_
    assumption

theorem ageWire_ok {q : Claim} {r : ℕ} {w : ℕ} {s : State} (h : Ok q s) : Ok q (ageWire r w s) := by
  unfold ageWire
  split
  · extract_lets +onlyGivenNames x0
    split
    · extract_lets +onlyGivenNames x1
      refine ageCopy_ok ?_
      refine ok_congr (s := s) ?_ rfl rfl rfl rfl
      assumption
    · assumption
  · assumption

theorem execEgressAgeLimit_ok {q : Claim} {row : ℕ} {s : State} (h : Ok q s) : OkR q (execEgressAgeLimit row s) := by
  unfold execEgressAgeLimit
  extract_lets +onlyGivenNames x0
  extract_lets +onlyGivenNames x1
  extract_lets +onlyGivenNames x2
  have hx2 : Ok q x2 := by
    unfold x2
    refine ok_congr (s := s) ?_ rfl rfl rfl rfl
    assumption
  clear_value x2
  extract_lets +onlyGivenNames x3
  have hx3 : Ok q x3 := by
    unfold x3
    refine ok_foldl ?_ ?_
    · assumption
    · intro z4 z5 z6
      refine ageCopy_ok ?_
      assumption
  clear_value x3
  extract_lets +onlyGivenNames x7
  extract_lets +onlyGivenNames x8
  extract_lets +onlyGivenNames x9
  extract_lets +onlyGivenNames x10
  extract_lets +onlyGivenNames x11
  extract_lets +onlyGivenNames x12
  have hx12 : Ok q x12 := by
    unfold x12
    split
    · refine ok_congr (s := x3) ?_ rfl rfl rfl rfl
      assumption
    · assumption
  clear_value x12
  extract_lets +onlyGivenNames x13
  have hx13 : Ok q x13 := by
    unfold x13
    split
    · refine ok_foldl ?_ ?_
      · assumption
      · intro z14 z15 z16
        refine ageCopy_ok ?_
        assumption
    · assumption
  clear_value x13
  refine ok_goes ?_
  refine ageWire_ok ?_
  refine ageWire_ok ?_
  refine sofChoice_ok ?_
  assumption


end Sys2Proof.Machine
end

