-- ==== Sys2Proof/Laws/Keeps/Plough.lean ====
section
/-! SUPPORT. Every function of Machine/Plough.lean that answers a state keeps the invariant and the queue. -/

namespace Sys2Proof.Machine

theorem setPause_ok {q : Claim} {p : ℕ} {tc : ℕ} {v : PauseRt} {s : State} (h : Ok q s) : Ok q (setPause p tc v s) := by
  unfold setPause
  refine setPort_ok ?_
  assumption

theorem pauseClass_ok {q : Claim} {p : ℕ} {tc : ℕ} {a2 : ℕ} {s : State} (h : Ok q s) : Ok q (pauseClass p tc a2 s) := by
  unfold pauseClass
  split
  · assumption
  · split
    · refine setPause_ok ?_
      assumption
    · split
      · refine setPause_ok ?_
        assumption
      · assumption

theorem applyPause_ok {q : Claim} {p : ℕ} {m : PauseMsg} {s : State} (h : Ok q s) : Ok q (applyPause p m s) := by
  unfold applyPause
  extract_lets +onlyGivenNames x0
  extract_lets +onlyGivenNames x1
  extract_lets +onlyGivenNames x2
  extract_lets +onlyGivenNames x3
  have hx3 : Ok q x3 := by
    unfold x3
    split
    · assumption
    · refine countPort_ok ?_
      assumption
  clear_value x3
  refine ok_foldl ?_ ?_
  · assumption
  · intro z4 z5 z6
    refine pauseClass_ok ?_
    assumption

theorem receivePause_ok {q : Claim} {p : ℕ} {m : PauseMsg} {s : State} (h : Ok q s) : Ok q (receivePause p m s) := by
  unfold receivePause
  extract_lets +onlyGivenNames x0
  have hx0 : Ok q x0 := by
    unfold x0
    refine ok_foldl ?_ ?_
    · refine updateCredits_ok ?_
      assumption
    · intro z1
      intro z2
      intro z3
      refine countPort_ok ?_
      assumption
  clear_value x0
  split
  · split
    · refine applyPause_ok ?_
      assumption
    · refine countPort_ok ?_
      assumption
  · split
    · refine applyPause_ok ?_
      assumption
    · refine countPort_ok ?_
      assumption

theorem putPause_ok {q : Claim} {p : ℕ} {pfc : Bool} {set : ℕ} {time : ℕ} {s : State} (h : Ok q s) : Ok q (putPause p pfc set time s) := by
  unfold putPause
  extract_lets +onlyGivenNames x0
  have hx0 : Ok q x0 := by
    unfold x0
    refine ok_foldl ?_ ?_
    · assumption
    · intro z1
      intro z2
      intro z3
      refine countPort_ok ?_
      assumption
  clear_value x0
  split
  · refine receivePause_ok ?_
    assumption
  · refine emit_ok ?_
    assumption

theorem sendPause_ok {q : Claim} {p : ℕ} {pfc : Bool} {set : ℕ} {time : ℕ} {s : State} (h : Ok q s) : Ok q (sendPause p pfc set time s) := by
  unfold sendPause
  split
  · refine putPause_ok ?_
    assumption
  · refine setPort_ok ?_
    assumption

theorem settlePause_ok {q : Claim} {p : ℕ} {s : State} (h : Ok q s) : Ok q (settlePause p s) := by
  unfold settlePause
  extract_lets +onlyGivenNames x0
  extract_lets +onlyGivenNames x1
  extract_lets +onlyGivenNames x2
  extract_lets +onlyGivenNames x3
  split
  · assumption
  · split
    · extract_lets +onlyGivenNames x4
      split
      · refine sendPause_ok ?_
        refine setPort_ok ?_
        assumption
      · split
        · refine sendPause_ok ?_
          refine setPort_ok ?_
          assumption
        · assumption
    · extract_lets +onlyGivenNames x5
      extract_lets +onlyGivenNames x6
      extract_lets +onlyGivenNames x7
      have hx7 : Ok q x7 := by
        unfold x7
        refine setPort_ok ?_
        assumption
      clear_value x7
      extract_lets +onlyGivenNames x8
      have hx8 : Ok q x8 := by
        unfold x8
        split
        · assumption
        · refine sendPause_ok ?_
          assumption
      clear_value x8
      split
      · assumption
      · refine sendPause_ok ?_
        assumption
    · assumption

theorem refill_ok {q : Claim} {p : PloughId} {s : State} (h : Ok q s) : Ok q (refill p s) := by
  unfold refill
  split
  · refine settlePause_ok ?_
    assumption
  · assumption

theorem fillCells_ok {q : Claim} {r : Rec} {s : State} (h : Ok q s) : Ok q (fillCells r s).2 := by
  unfold fillCells
  dsimp -zeta only
  refine ok_foldl ?_ ?_
  · assumption
  · intro z0 z1 z2
    refine writeCell_ok ?_
    assumption

theorem linkCell_ok {q : Claim} {r : Rec} {c : ℕ} {s : State} (h : Ok q s) : Ok q (linkCell r c s).2 := by
  unfold linkCell
  extract_lets +onlyGivenNames x0
  extract_lets +onlyGivenNames x1
  have hx1 : Ok q x1 := by
    unfold x1
    split
    · refine ok_congr (s := s) ?_ rfl rfl rfl rfl
      assumption
    · assumption
  clear_value x1
  refine fillCells_ok ?_
  assumption

theorem setCur_ok {q : Claim} {p : PloughId} {r : Option Rec} {s : State} (h : Ok q s) : Ok q (setCur p r s) := by
  unfold setCur
  refine setPlough_ok ?_
  assumption

theorem dropCur_ok {q : Claim} {p : PloughId} {r : Rec} {idx : ℕ} {s : State} (h : Ok q s) : Ok q (dropCur p r idx s) := by
  unfold dropCur
  refine setCur_ok ?_
  refine countRow_ok ?_
  refine freeRec_ok ?_
  assumption

theorem overrun_ok {q : Claim} {p : PloughId} {r : Rec} {s : State} (h : Ok q s) : Ok q (overrun p r s) := by
  unfold overrun
  refine raise_ok ?_
  refine dropCur_ok ?_
  assumption

theorem completeCur_ok {q : Claim} {p : PloughId} {r : Rec} {g : Grain} {s : State} (h : Ok q s) : Ok q (completeCur p r g s) := by
  unfold completeCur
  extract_lets +onlyGivenNames x0
  have hx0 : Ok q x0 := by
    unfold x0
    refine setCur_ok ?_
    assumption
  clear_value x0
  split
  · refine countRow_ok ?_
    refine freeRec_ok ?_
    assumption
  · refine finishRec_ok ?_
    assumption

theorem refuseRec_ok {q : Claim} {p : PloughId} {r : Rec} {s : State} (h : Ok q s) : Ok q (refuseRec p r s) := by
  unfold refuseRec
  extract_lets +onlyGivenNames x0
  have hx0 : Ok q x0 := by
    unfold x0
    refine freeRec_ok ?_
    assumption
  clear_value x0
  extract_lets +onlyGivenNames x1
  have hx1 : Ok q x1 := by
    unfold x1
    split
    · refine countPort_ok ?_
      assumption
    · assumption
  clear_value x1
  split
  · assumption
  · refine countRow_ok ?_
    assumption

theorem takeForDone_ok {q : Claim} {p : PloughId} {i : ℕ} {r : Rec} {s : State} (h : Ok q s) : Ok q (takeForDone p i r s) := by
  unfold takeForDone
  split
  · exact h
  · exact refuseRec_ok (setPlough_ok h)
  · rename_i c s' hc
    exact setPlough_ok (linkCell_ok (enterFifo_ok (takeCell_ok h hc)))

theorem takeForCur_ok {q : Claim} {p : PloughId} {r : Rec} {s : State} (h : Ok q s) : Ok q (takeForCur p r s) := by
  unfold takeForCur
  split
  · exact h
  · exact dropCur_ok h
  · rename_i c s' hc
    exact setCur_ok (linkCell_ok (enterFifo_ok (takeCell_ok h hc)))

theorem execTakeCell_ok {q : Claim} {p : PloughId} {s : State} (h : Ok q s) : OkR q (execTakeCell p s) := by
  unfold execTakeCell
  extract_lets +onlyGivenNames x0
  split
  · refine ok_goes ?_
    assumption
  · split
    · refine ok_goes ?_
      refine refill_ok ?_
      refine takeForDone_ok ?_
      assumption
    · split
      · split
        · refine ok_goes ?_
          refine takeForCur_ok ?_
          assumption
        · refine ok_goes ?_
          assumption
      · refine ok_goes ?_
        assumption

theorem talkerVerify_ok {q : Claim} {r : Rec} {g : Grain} {s : State} (h : Ok q s) : Ok q (talkerVerify r g s).2 := by
  unfold talkerVerify
  split
  · dsimp -zeta only
    assumption
  · extract_lets +onlyGivenNames x0
    have hx0 : Ok q x0.2 := by
      unfold x0
      refine rowVerify_ok ?_
      assumption
    clear_value x0
    dsimp -zeta only
    assumption

theorem countIssue_ok {q : Claim} {g : Grain} {arrival : ℕ} {s : State} (h : Ok q s) : Ok q (countIssue g arrival s) := by
  unfold countIssue
  split
  · assumption
  · extract_lets +onlyGivenNames x0
    extract_lets +onlyGivenNames x1
    have hx1 : Ok q x1 := by
      unfold x1
      refine setRowRt_ok ?_
      assumption
    clear_value x1
    split
    · assumption
    · refine countRow_ok ?_
      refine countRow_ok ?_
      assumption

theorem issue_ok {q : Claim} {p : PloughId} {r : Rec} {g : Grain} {s : State} (h : Ok q s) : Ok q (issue p r g s) := by
  unfold issue
  extract_lets +onlyGivenNames x0
  extract_lets +onlyGivenNames x1
  extract_lets +onlyGivenNames x2
  have hx2 : Ok q x2 := by
    unfold x2
    split
    · assumption
    · refine ok_congr (s := s) ?_ rfl rfl rfl rfl
      assumption
  clear_value x2
  extract_lets +onlyGivenNames x3
  have hx3 : Ok q x3.2 := by
    unfold x3
    refine talkerVerify_ok ?_
    assumption
  clear_value x3
  extract_lets +onlyGivenNames x4
  have hx4 : Ok q x4 := by
    unfold x4
    refine countIssue_ok ?_
    assumption
  clear_value x4
  refine setPlough_ok ?_
  assumption

theorem execGrainIssue_ok {q : Claim} {p : PloughId} {s : State} (h : Ok q s) : OkR q (execGrainIssue p s) := by
  unfold execGrainIssue
  extract_lets +onlyGivenNames x0
  split
  · refine ok_goes ?_
    assumption
  · split
    · refine ok_goes ?_
      assumption
    · split
      · refine ok_goes ?_
        refine freeRec_ok ?_
        refine setPlough_ok ?_
        assumption
      · split
        · refine ok_goes ?_
          assumption
        · split
          · refine ok_goes ?_
            extract_lets +onlyGivenNames x1
            have hx1 : Ok q x1 := by
              unfold x1
              refine setPlough_ok ?_
              assumption
            clear_value x1
            refine ok_congr (s := x1) ?_ rfl rfl rfl rfl
            assumption
          · refine ok_goes ?_
            refine issue_ok ?_
            refine setPlough_ok ?_
            assumption

theorem dropDisabled_ok {q : Claim} {kind : ℕ} {k : ℕ} {stamp : ℕ} {s : State} (h : Ok q s) : Ok q (dropDisabled kind k stamp s) := by
  unfold dropDisabled
  split
  · refine countRow_ok ?_
    assumption
  · assumption

theorem receiveWhole_ok {q : Claim} {p : PloughId} {r : ℕ} {kind : ℕ} {key : ℕ} {stamp : ℕ} {d : Bytes} {f : Grain → Grain} {s : State} (h : Ok q s) : Ok q (receiveWhole p r kind key stamp d f s) := by
  unfold receiveWhole
  extract_lets +onlyGivenNames x0
  extract_lets +onlyGivenNames x1
  split
  · assumption
  · split
    · refine countRow_ok ?_
      assumption
    · split
      · refine raise_ok ?_
        refine countRow_ok ?_
        assumption
      · refine finishRec_ok ?_
        assumption

theorem receiveVoid_ok {q : Claim} {p : PloughId} {r : ℕ} {kind : ℕ} {key : ℕ} {stamp : ℕ} {s : State} (h : Ok q s) : Ok q (receiveVoid p r kind key stamp s) := by
  unfold receiveVoid
  extract_lets +onlyGivenNames x0
  extract_lets +onlyGivenNames x1
  split
  · assumption
  · split
    · refine countRow_ok ?_
      assumption
    · refine finishRec_ok ?_
      assumption


end Sys2Proof.Machine
end

