-- ==== Sys2Proof/Laws/Keeps/EthPlough.lean ====
section
/-! SUPPORT. Every function of Machine/EthPlough.lean that answers a state keeps the invariant and the queue. -/

namespace Sys2Proof.Machine

theorem ethRecord_ok {q : Claim} {p : ℕ} {r : Rec} {s : State} (h : Ok q s) : Ok q (ethRecord p r s) := by
  unfold ethRecord
  split
  · assumption
  · split
    · split
      · refine countPort_ok ?_
        assumption
      · refine raise_ok ?_
        refine countRow_ok ?_
        assumption
    · refine settlePause_ok ?_
      refine finishRec_ok ?_
      assumption

theorem frameRecord_ok {q : Claim} {p : ℕ} {cls : ℕ} {stamp : ℕ} {reserved : Bool} {d : Bytes} {s : State} (h : Ok q s) : Ok q (frameRecord p cls stamp reserved d s) := by
  unfold frameRecord
  refine ethRecord_ok ?_
  assumption

theorem storeBulk_ok {q : Claim} {n : ℕ} {r x : Rec} {s t : State} (h : Ok q s) (ht : storeBulk n r s = some (x, t)) : Ok q t := by
  induction n generalizing r s with
  | zero => cases ht; exact h
  | succ n ih =>
    unfold storeBulk at ht
    split at ht
    · rename_i hc
      exact ih (linkCell_ok (takeCell_ok h hc)) ht
    · cases ht

theorem deliverFlaw_ok {q : Claim} {p ring : ℕ} {f : RxFrame} {s : State} (h : Ok q s) : Ok q (deliverFlaw p ring f s) := by
  unfold deliverFlaw
  extract_lets +onlyGivenNames d t
  split
  · rename_i res r u _ hb
    have hu : Ok q u := storeBulk_ok h hb
    extract_lets +onlyGivenNames c g v0 v
    have hv : Ok q v := ok_congr (s := u) hu rfl rfl rfl rfl
    clear_value v
    exact enqueueRow_ok (poolTake_ok hv)
  · exact countPort_ok h

theorem flawedFrame_ok {q : Claim} {p : ℕ} {idx : ℕ} {f : RxFrame} {s : State} (h : Ok q s) : Ok q (flawedFrame p idx f s) := by
  unfold flawedFrame
  extract_lets +onlyGivenNames x0
  have hx0 : Ok q x0 := by
    unfold x0
    refine countPort_ok ?_
    assumption
  clear_value x0
  split
  · split
    · refine deliverFlaw_ok ?_
      assumption
    · assumption
  · assumption

theorem verifySec_ok {q : Claim} {p : ℕ} {f : RxFrame} {s : State} (h : Ok q s) : Ok q (verifySec p f s).2 := by
  unfold verifySec
  split
  · dsimp -zeta only
    assumption
  · split
    · dsimp -zeta only
      refine countPort_ok ?_
      assumption
    · extract_lets +onlyGivenNames x0
      split
      · dsimp -zeta only
        refine countPort_ok ?_
        assumption
      · split
        · dsimp -zeta only
          refine raise_ok ?_
          refine countPort_ok ?_
          refine putSlot_ok ?_
          assumption
        · dsimp -zeta only
          refine putSlot_ok ?_
          assumption

theorem dropSheaf_ok {q : Claim} {s : State} (h : Ok q s) : Ok q (dropSheaf s) := by
  unfold dropSheaf
  refine ok_congr (s := s) ?_ rfl rfl rfl rfl
  assumption

theorem dropOrigin_ok {q : Claim} {s : State} (h : Ok q s) : Ok q (dropOrigin s) := by
  unfold dropOrigin
  refine ok_congr (s := s) ?_ rfl rfl rfl rfl
  assumption

theorem countOrigin_ok {q : Claim} {dev : ℕ} {s : State} (h : Ok q s) : Ok q (countOrigin dev s) := by
  unfold countOrigin
  refine ok_foldl ?_ ?_
  · assumption
  · intro z0 z1 z2
    refine countRow_ok ?_
    assumption

theorem carriedGrain_ok {q : Claim} {p : ℕ} {stamp : ℕ} {pcp : ℕ} {unsync : Bool} {s : State} {e : Bytes × Bytes} (h : Ok q s) : Ok q (carriedGrain p stamp pcp unsync s e) := by
  unfold carriedGrain
  extract_lets +onlyGivenNames x0
  extract_lets +onlyGivenNames x1
  extract_lets +onlyGivenNames x2
  split
  · refine raise_ok ?_
    refine dropOrigin_ok ?_
    assumption
  · split
    · refine countRow_ok ?_
      assumption
    · split
      · assumption
      · extract_lets +onlyGivenNames x3
        refine ethRecord_ok ?_
        assumption

theorem controlRecord_ok {q : Claim} {p : ℕ} {stamp : ℕ} {pcp : ℕ} {d : Bytes} {s : State} (h : Ok q s) : Ok q (controlRecord p stamp pcp d s) := by
  unfold controlRecord
  split
  · assumption
  · split
    · refine dropSheaf_ok ?_
      assumption
    · refine settlePause_ok ?_
      refine finishRec_ok ?_
      assumption

theorem acceptSheaf_ok {q : Claim} {p : ℕ} {stamp : ℕ} {pcp : ℕ} {a3 : SheafHead} {x : Bytes × List (Bytes × Bytes)} {s : State} (h : Ok q s) : Ok q (acceptSheaf p stamp pcp a3 x s) := by
  unfold acceptSheaf
  split
  · split
    · refine controlRecord_ok ?_
      assumption
    · refine raise_ok ?_
      refine dropSheaf_ok ?_
      assumption
  · refine ok_foldl ?_ ?_
    · assumption
    · intro z0 z1 z2
      refine carriedGrain_ok ?_
      assumption

theorem sheafPath_ok {q : Claim} {p : ℕ} {stamp : ℕ} {pcp : ℕ} {short : Bool} {b : Bytes} {s : State} (h : Ok q s) : Ok q (sheafPath p stamp pcp short b s) := by
  unfold sheafPath
  extract_lets +onlyGivenNames x0
  split
  · refine dropSheaf_ok ?_
    assumption
  · split
    · refine raise_ok ?_
      refine dropSheaf_ok ?_
      assumption
    · split
      · refine raise_ok ?_
        refine dropSheaf_ok ?_
        assumption
      · split
        · refine raise_ok ?_
          refine dropSheaf_ok ?_
          assumption
        · split
          · refine dropSheaf_ok ?_
            assumption
          · split
            · refine countOrigin_ok ?_
              refine dropSheaf_ok ?_
              refine ok_congr (s := s) ?_ rfl rfl rfl rfl
              assumption
            · extract_lets +onlyGivenNames x1
              extract_lets +onlyGivenNames x2
              have hx2 : Ok q x2 := by
                unfold x2
                refine ok_congr (s := s) ?_ rfl rfl rfl rfl
                assumption
              clear_value x2
              extract_lets +onlyGivenNames x3
              extract_lets +onlyGivenNames x4
              have hx4 : Ok q x4 := by
                unfold x4
                split
                · refine raise_ok ?_
                  refine countOrigin_ok ?_
                  refine ok_congr (s := x2) ?_ rfl rfl rfl rfl
                  assumption
                · assumption
              clear_value x4
              refine acceptSheaf_ok ?_
              assumption

theorem acfMessage_ok {q : Claim} {p : ℕ} {r : ℕ} {stamp : ℕ} {pcp : ℕ} {s : State} {m : AcfMsg} (h : Ok q s) : Ok q (acfMessage p r stamp pcp s m) := by
  unfold acfMessage
  split
  · refine setRowRt_ok ?_
    assumption
  · split
    · refine countRow_ok ?_
      assumption
    · extract_lets +onlyGivenNames x0
      extract_lets +onlyGivenNames x1
      extract_lets +onlyGivenNames x2
      extract_lets +onlyGivenNames x3
      refine ethRecord_ok ?_
      assumption

theorem acfPath_ok {q : Claim} {p : ℕ} {r : ℕ} {stamp : ℕ} {pcp : ℕ} {a : AcfBody} {s : State} (h : Ok q s) : Ok q (acfPath p r stamp pcp a s) := by
  unfold acfPath
  split
  · refine countRow_ok ?_
    assumption
  · split
    · assumption
    · extract_lets +onlyGivenNames x0
      extract_lets +onlyGivenNames x1
      extract_lets +onlyGivenNames x2
      have hx2 : Ok q x2 := by
        unfold x2
        refine setRowRt_ok ?_
        assumption
      clear_value x2
      refine ok_foldl ?_ ?_
      · assumption
      · intro z3 z4 z5
        refine acfMessage_ok ?_
        assumption

theorem recognise_ok {q : Claim} {p : ℕ} {f : RxFrame} {r : Filter} {s : State} (h : Ok q s) : Ok q (recognise p f r s) := by
  unfold recognise
  extract_lets +onlyGivenNames x0
  extract_lets +onlyGivenNames x1
  extract_lets +onlyGivenNames x2
  extract_lets +onlyGivenNames x3
  have hx3 : Ok q x3 := by
    unfold x3
    refine frameRecord_ok ?_
    assumption
  clear_value x3
  split
  · assumption
  · split
    · split
      · refine sheafPath_ok ?_
        assumption
      · assumption
    · split
      · assumption
      · split
        · refine acfPath_ok ?_
          assumption
        · assumption

theorem goodFrame_ok {q : Claim} {p : ℕ} {f : RxFrame} {s : State} (h : Ok q s) : Ok q (goodFrame p f s) := by
  unfold goodFrame
  extract_lets +onlyGivenNames x0
  extract_lets +onlyGivenNames x1
  have hx1 : Ok q x1 := by
    unfold x1
    refine countPort_ok ?_
    refine countPort_ok ?_
    refine countPort_ok ?_
    assumption
  clear_value x1
  split
  · assumption
  · extract_lets +onlyGivenNames x2
    have hx2 : Ok q x2.2 := by
      unfold x2
      refine verifySec_ok ?_
      assumption
    clear_value x2
    split
    · assumption
    · split
      · refine countPort_ok ?_
        assumption
      · split
        · refine raiseD_ok ?_
          assumption
        · refine recognise_ok ?_
          assumption

theorem rxFrame_ok {q : Claim} {p : ℕ} {f : RxFrame} {s : State} (h : Ok q s) : Ok q (rxFrame p f s) := by
  unfold rxFrame
  split
  · refine countPort_ok ?_
    assumption
  · split
    · refine countPort_ok ?_
      assumption
    · extract_lets +onlyGivenNames x0
      have hx0 : Ok q x0 := by
        unfold x0
        split
        · refine countPort_ok ?_
          assumption
        · assumption
      clear_value x0
      split
      · refine flawedFrame_ok ?_
        assumption
      · refine goodFrame_ok ?_
        assumption

theorem execEthernetFrameReceived_ok {q : Claim} {p : ℕ} {f : RxFrame} {s : State} (h : Ok q s) : OkR q (execEthernetFrameReceived p f s) := by
  unfold execEthernetFrameReceived
  split
  · refine ok_goes ?_
    assumption
  · refine ok_goes ?_
    refine rxFrame_ok ?_
    assumption


end Sys2Proof.Machine
end

