-- ==== Sys2Proof/Laws/Keeps/BusPlough.lean ====
section
/-! SUPPORT. Every function of Machine/BusPlough.lean that answers a state keeps the invariant and the queue. -/

namespace Sys2Proof.Machine

theorem canSettle_ok {q : Claim} {k : ℕ} {s : State} (h : Ok q s) : Ok q (canSettle k s) := by
  unfold canSettle
  refine canState_ok ?_
  assumption

theorem recOk_ok {q : Claim} {k : ℕ} {s : State} (h : Ok q s) : Ok q (recOk k s) := by
  unfold recOk
  extract_lets +onlyGivenNames x0
  refine canSettle_ok ?_
  split
  · assumption
  · split
    · refine setCan_ok ?_
      assumption
    · refine setCan_ok ?_
      refine picked_ok ?_
      assumption

theorem recError_ok {q : Claim} {k : ℕ} {s : State} (h : Ok q s) : Ok q (recError k s) := by
  unfold recError
  extract_lets +onlyGivenNames x0
  refine canSettle_ok ?_
  split
  · assumption
  · refine setCan_ok ?_
    refine picked_ok ?_
    assumption

theorem afterFrame_ok {q : Claim} {k : ℕ} {s : State} (h : Ok q s) : Ok q (afterFrame k s) := by
  unfold afterFrame
  refine settleCtl_ok ?_
  assumption

theorem canSentence_ok {q : Claim} {k : ℕ} {f : CanFrame} {s : State} (h : Ok q s) : Ok q (canSentence k f s) := by
  unfold canSentence
  extract_lets +onlyGivenNames x0
  split
  · refine dropDisabled_ok ?_
    assumption
  · split
    · refine countRow_ok ?_
      assumption
    · refine receiveWhole_ok ?_
      assumption

theorem execCanFrameAccepted_ok {q : Claim} {k : ℕ} {f : CanFrame} {s : State} (h : Ok q s) : OkR q (execCanFrameAccepted k f s) := by
  unfold execCanFrameAccepted
  split
  · refine ok_goes ?_
    assumption
  · split
    · refine ok_goes ?_
      refine dropDisabled_ok ?_
      assumption
    · refine ok_goes ?_
      refine canSentence_ok ?_
      refine recOk_ok ?_
      refine countCan_ok ?_
      assumption

theorem execCanFrameError_ok {q : Claim} {k : ℕ} {e : CanError} {s : State} (h : Ok q s) : OkR q (execCanFrameError k e s) := by
  unfold execCanFrameError
  split
  · refine ok_goes ?_
    assumption
  · refine ok_goes ?_
    refine busError_ok ?_
    refine recError_ok ?_
    refine countCan_ok ?_
    assumption

theorem execProtocolException_ok {q : Claim} {k : ℕ} {s : State} (h : Ok q s) : OkR q (execProtocolException k s) := by
  unfold execProtocolException
  split
  · refine ok_goes ?_
    assumption
  · refine ok_goes ?_
    refine countCan_ok ?_
    assumption

theorem execIntegration_ok {q : Claim} {k : ℕ} {s : State} (h : Ok q s) : OkR q (execIntegration k s) := by
  unfold execIntegration
  split
  · refine ok_goes ?_
    assumption
  · refine ok_goes ?_
    refine setCan_ok ?_
    assumption

theorem unwire_ok {q : Claim} {r : ℕ} {s : State} (h : Ok q s) : Ok q (unwire r s) := by
  unfold unwire
  refine ok_congr (s := s) ?_ rfl rfl rfl rfl
  assumption

theorem keepOrDrop_ok {q : Claim} {k : ℕ} {r : ℕ} {c : Copy} {started : Bool} {s : State} (h : Ok q s) : Ok q (keepOrDrop k r c started s) := by
  unfold keepOrDrop
  split
  · refine setCan_ok ?_
    refine putWire_ok ?_
    assumption
  · refine discardCopy_ok ?_
    refine unwire_ok ?_
    assumption

theorem execArbitrationLost_ok {q : Claim} {k : ℕ} {s : State} (h : Ok q s) : OkR q (execArbitrationLost k s) := by
  unfold execArbitrationLost
  split
  · refine ok_goes ?_
    refine afterFrame_ok ?_
    refine keepOrDrop_ok ?_
    refine countCan_ok ?_
    assumption
  · refine ok_goes ?_
    assumption

theorem enterBusOff_ok {q : Claim} {k : ℕ} {s : State} (h : Ok q s) : Ok q (enterBusOff k s) := by
  unfold enterBusOff
  extract_lets +onlyGivenNames x0
  have hx0 : Ok q x0 := by
    unfold x0
    refine countCan_ok ?_
    assumption
  clear_value x0
  extract_lets +onlyGivenNames x1
  have hx1 : Ok q x1 := by
    unfold x1
    split
    · refine discardCopy_ok ?_
      refine countCan_ok ?_
      refine unwire_ok ?_
      assumption
    · assumption
  clear_value x1
  extract_lets +onlyGivenNames x2
  extract_lets +onlyGivenNames x3
  extract_lets +onlyGivenNames x4
  extract_lets +onlyGivenNames x5
  extract_lets +onlyGivenNames x6
  extract_lets +onlyGivenNames x7
  have hx7 : Ok q x7 := by
    unfold x7
    refine setCan_ok ?_
    assumption
  clear_value x7
  extract_lets +onlyGivenNames x8
  have hx8 : Ok q x8 := by
    unfold x8
    split
    · refine raise_ok ?_
      assumption
    · assumption
  clear_value x8
  refine canState_ok ?_
  assumption

theorem canRetry_ok {q : Claim} {k : ℕ} {r : ℕ} {c : Copy} {s : State} (h : Ok q s) : Ok q (canRetry k r c s) := by
  unfold canRetry
  extract_lets +onlyGivenNames x0
  split
  · refine keepOrDrop_ok ?_
    assumption
  · split
    · refine busError_ok ?_
      refine countCan_ok ?_
      refine setCan_ok ?_
      refine endCopy_ok ?_
      refine unwire_ok ?_
      assumption
    · refine keepOrDrop_ok ?_
      assumption

theorem tecError_ok {q : Claim} {k : ℕ} {e : CanError} {s : State} (h : Ok q s) : Ok q (tecError k e s) := by
  unfold tecError
  extract_lets +onlyGivenNames x0
  split
  · assumption
  · refine setCan_ok ?_
    assumption

theorem execCanTransmitError_ok {q : Claim} {k : ℕ} {e : CanError} {s : State} (h : Ok q s) : OkR q (execCanTransmitError k e s) := by
  unfold execCanTransmitError
  split
  · refine ok_goes ?_
    assumption
  · split
    · refine ok_goes ?_
      assumption
    · extract_lets +onlyGivenNames x0
      have hx0 : Ok q x0 := by
        unfold x0
        refine tecError_ok ?_
        refine busError_ok ?_
        refine countCan_ok ?_
        assumption
      clear_value x0
      refine ok_goes ?_
      refine afterFrame_ok ?_
      split
      · refine enterBusOff_ok ?_
        assumption
      · refine canRetry_ok ?_
        refine canSettle_ok ?_
        assumption

theorem execCanFrameSent_ok {q : Claim} {k : ℕ} {s : State} (h : Ok q s) : OkR q (execCanFrameSent k s) := by
  unfold execCanFrameSent
  split
  · refine ok_goes ?_
    assumption
  · split
    · refine ok_goes ?_
      assumption
    · extract_lets +onlyGivenNames x0
      extract_lets +onlyGivenNames x1
      have hx1 : Ok q x1 := by
        unfold x1
        refine picked_ok ?_
        assumption
      clear_value x1
      extract_lets +onlyGivenNames x2
      extract_lets +onlyGivenNames x3
      have hx3 : Ok q x3 := by
        unfold x3
        refine canSettle_ok ?_
        refine setCan_ok ?_
        assumption
      clear_value x3
      extract_lets +onlyGivenNames x4
      have hx4 : Ok q x4 := by
        unfold x4
        refine sentCopy_ok ?_
        refine unwire_ok ?_
        refine countCan_ok ?_
        assumption
      clear_value x4
      extract_lets +onlyGivenNames x5
      have hx5 : Ok q x5 := by
        unfold x5
        split
        · assumption
        · refine emit_ok ?_
          assumption
      clear_value x5
      extract_lets +onlyGivenNames x6
      have hx6 : Ok q x6 := by
        unfold x6
        split
        · assumption
        · refine canSentence_ok ?_
          refine countCan_ok ?_
          assumption
      clear_value x6
      refine ok_goes ?_
      split
      · refine releaseRow_ok ?_
        refine afterFrame_ok ?_
        assumption
      · refine afterFrame_ok ?_
        assumption

theorem execRecoveryDelay_ok {q : Claim} {k : ℕ} {s : State} (h : Ok q s) : OkR q (execRecoveryDelay k s) := by
  unfold execRecoveryDelay
  split
  · refine ok_goes ?_
    refine canState_ok ?_
    assumption
  · refine ok_goes ?_
    assumption

theorem execBusOffRecovery_ok {q : Claim} {k : ℕ} {s : State} (h : Ok q s) : OkR q (execBusOffRecovery k s) := by
  unfold execBusOffRecovery
  split
  · refine ok_goes ?_
    refine canState_ok ?_
    refine setCan_ok ?_
    assumption
  · refine ok_goes ?_
    assumption

theorem sendSlot_ok {q : Claim} {k : ℕ} {s : State} (h : Ok q s) : Ok q (sendSlot k s) := by
  unfold sendSlot
  extract_lets +onlyGivenNames x0
  extract_lets +onlyGivenNames x1
  split
  · refine setLin_ok ?_
    assumption
  · extract_lets +onlyGivenNames x2
    extract_lets +onlyGivenNames x3
    have hx3 : Ok q x3 := by
      unfold x3
      refine setLin_ok ?_
      assumption
    clear_value x3
    refine emit_ok ?_
    refine countLin_ok ?_
    assumption

theorem linIdle_ok {q : Claim} {k : ℕ} {s : State} (h : Ok q s) : Ok q (linIdle k s) := by
  unfold linIdle
  extract_lets +onlyGivenNames x0
  extract_lets +onlyGivenNames x1
  have hx1 : Ok q x1 := by
    unfold x1
    refine setLin_ok ?_
    assumption
  clear_value x1
  split
  · refine sendSlot_ok ?_
    assumption
  · assumption

theorem linSeen_ok {q : Claim} {k : ℕ} {s : State} (h : Ok q s) : Ok q (linSeen k s) := by
  unfold linSeen
  refine setLin_ok ?_
  assumption

theorem execLinFrame_ok {q : Claim} {k : ℕ} {f : LinFrame} {s : State} (h : Ok q s) : OkR q (execLinFrame k f s) := by
  unfold execLinFrame
  split
  · refine ok_goes ?_
    refine dropDisabled_ok ?_
    assumption
  · extract_lets +onlyGivenNames x0
    have hx0 : Ok q x0 := by
      unfold x0
      refine linIdle_ok ?_
      refine linSeen_ok ?_
      refine countLin_ok ?_
      assumption
    clear_value x0
    split
    · refine ok_goes ?_
      refine countLin_ok ?_
      assumption
    · extract_lets +onlyGivenNames x1
      have hx1 : Ok q x1 := by
        unfold x1
        split
        · assumption
        · refine countLin_ok ?_
          assumption
      clear_value x1
      split
      · refine ok_goes ?_
        refine dropDisabled_ok ?_
        assumption
      · split
        · refine ok_goes ?_
          refine receiveWhole_ok ?_
          assumption
        · refine ok_goes ?_
          refine receiveVoid_ok ?_
          refine raise_ok ?_
          refine countRow_ok ?_
          assumption

theorem execLinHeader_ok {q : Claim} {k : ℕ} {id : ℕ} {parityOk : Bool} {s : State} (h : Ok q s) : OkR q (execLinHeader k id parityOk s) := by
  unfold execLinHeader
  split
  · refine ok_goes ?_
    assumption
  · extract_lets +onlyGivenNames x0
    have hx0 : Ok q x0 := by
      unfold x0
      refine linSeen_ok ?_
      assumption
    clear_value x0
    split
    · refine ok_goes ?_
      refine countLin_ok ?_
      assumption
    · split
      · refine ok_goes ?_
        assumption
      · split
        · extract_lets +onlyGivenNames x1
          extract_lets +onlyGivenNames x2
          extract_lets +onlyGivenNames x3
          have hx3 : Ok q x3 := by
            unfold x3
            refine setLin_ok ?_
            assumption
          clear_value x3
          refine ok_goes ?_
          refine emit_ok ?_
          refine countLin_ok ?_
          assumption
        · refine ok_goes ?_
          assumption

theorem execLinResponseTimeout_ok {q : Claim} {k : ℕ} {s : State} (h : Ok q s) : OkR q (execLinResponseTimeout k s) := by
  unfold execLinResponseTimeout
  split
  · refine ok_goes ?_
    assumption
  · extract_lets +onlyGivenNames x0
    have hx0 : Ok q x0 := by
      unfold x0
      refine linIdle_ok ?_
      refine countLin_ok ?_
      assumption
    clear_value x0
    split
    · refine ok_goes ?_
      refine countRow_ok ?_
      assumption
    · refine ok_goes ?_
      assumption

theorem execLinBitError_ok {q : Claim} {k : ℕ} {s : State} (h : Ok q s) : OkR q (execLinBitError k s) := by
  unfold execLinBitError
  split
  · refine ok_goes ?_
    assumption
  · extract_lets +onlyGivenNames x0
    have hx0 : Ok q x0 := by
      unfold x0
      refine busError_ok ?_
      refine countLin_ok ?_
      assumption
    clear_value x0
    split
    · refine ok_goes ?_
      refine linIdle_ok ?_
      refine endCopy_ok ?_
      refine unwire_ok ?_
      assumption
    · refine ok_goes ?_
      refine linIdle_ok ?_
      assumption

theorem execScheduleSlot_ok {q : Claim} {k : ℕ} {s : State} (h : Ok q s) : OkR q (execScheduleSlot k s) := by
  unfold execScheduleSlot
  split
  · refine ok_goes ?_
    assumption
  · split
    · refine ok_goes ?_
      refine setLin_ok ?_
      assumption
    · refine ok_goes ?_
      refine sendSlot_ok ?_
      assumption

theorem lineSeen_ok {q : Claim} {k : ℕ} {b : Bool} {s : State} (h : Ok q s) : Ok q (lineSeen k b s) := by
  unfold lineSeen
  extract_lets +onlyGivenNames x0
  have hx0 : Ok q x0 := by
    unfold x0
    refine countMvb_ok ?_
    assumption
  clear_value x0
  split
  · refine setMvb_ok ?_
    assumption
  · refine setMvb_ok ?_
    assumption

theorem execMvbSlaveFrame_ok {q : Claim} {k : ℕ} {f : MvbFrame} {s : State} (h : Ok q s) : OkR q (execMvbSlaveFrame k f s) := by
  unfold execMvbSlaveFrame
  split
  · refine ok_goes ?_
    split
    · refine setMvb_ok ?_
      assumption
    · assumption
  · split
    · refine ok_goes ?_
      split
      · refine dropDisabled_ok ?_
        assumption
      · assumption
    · extract_lets +onlyGivenNames x0
      have hx0 : Ok q x0 := by
        unfold x0
        refine lineSeen_ok ?_
        assumption
      clear_value x0
      extract_lets +onlyGivenNames x1
      have hx1 : Ok q x1 := by
        unfold x1
        refine lineSeen_ok ?_
        assumption
      clear_value x1
      extract_lets +onlyGivenNames x2
      have hx2 : Ok q x2 := by
        unfold x2
        split
        · split
          · assumption
          · refine countMvb_ok ?_
            assumption
        · assumption
      clear_value x2
      split
      · split
        · refine ok_goes ?_
          assumption
        · extract_lets +onlyGivenNames x3
          extract_lets +onlyGivenNames x4
          have hx4 : Ok q x4 := by
            unfold x4
            refine setMvb_ok ?_
            assumption
          clear_value x4
          refine ok_goes ?_
          refine receiveWhole_ok ?_
          assumption
      · refine ok_goes ?_
        split
        · refine dropDisabled_ok ?_
          assumption
        · assumption

theorem execMvbMasterFrame_ok {q : Claim} {k : ℕ} {port : ℕ} {s : State} (h : Ok q s) : OkR q (execMvbMasterFrame k port s) := by
  unfold execMvbMasterFrame
  split
  · refine ok_goes ?_
    assumption
  · split
    · split
      · refine ok_goes ?_
        assumption
      · split
        · split
          · refine ok_goes ?_
            refine countMvb_ok ?_
            assumption
          · refine ok_goes ?_
            refine emit_ok ?_
            refine countMvb_ok ?_
            assumption
        · refine ok_goes ?_
          refine countMvb_ok ?_
          assumption
    · refine ok_goes ?_
      assumption

theorem execLineTimeout_ok {q : Claim} {k : ℕ} {lineB : Bool} {s : State} (h : Ok q s) : OkR q (execLineTimeout k lineB s) := by
  unfold execLineTimeout
  extract_lets +onlyGivenNames x0
  split
  · split
    · refine ok_goes ?_
      assumption
    · extract_lets +onlyGivenNames x1
      have hx1 : Ok q x1 := by
        unfold x1
        refine setMvb_ok ?_
        assumption
      clear_value x1
      refine ok_goes ?_
      refine raise_ok ?_
      refine countMvb_ok ?_
      assumption
  · split
    · refine ok_goes ?_
      assumption
    · extract_lets +onlyGivenNames x2
      have hx2 : Ok q x2 := by
        unfold x2
        refine setMvb_ok ?_
        assumption
      clear_value x2
      refine ok_goes ?_
      refine raise_ok ?_
      refine countMvb_ok ?_
      assumption

theorem execFreshnessLimit_ok {q : Claim} {k : ℕ} {port : ℕ} {s : State} (h : Ok q s) : OkR q (execFreshnessLimit k port s) := by
  unfold execFreshnessLimit
  extract_lets +onlyGivenNames x0
  split
  · refine ok_goes ?_
    assumption
  · refine ok_goes ?_
    refine setMvb_ok ?_
    assumption


end Sys2Proof.Machine
end

