-- ==== Sys2Proof/Laws/Keeps/UartPlough.lean ====
section
/-! SUPPORT. Every function of Machine/UartPlough.lean that answers a state keeps the invariant and the queue. -/

namespace Sys2Proof.Machine

theorem iecComplete_ok {q : Claim} {p : PloughId} {r : Rec} {s : State} (h : Ok q s) : Ok q (iecComplete p r s) := by
  unfold iecComplete
  extract_lets +onlyGivenNames x0
  extract_lets +onlyGivenNames x1
  extract_lets +onlyGivenNames x2
  extract_lets +onlyGivenNames x3
  have hx3 : Ok q x3 := by
    unfold x3
    split
    · refine countRow_ok ?_
      assumption
    · assumption
  clear_value x3
  extract_lets +onlyGivenNames x4
  have hx4 : Ok q x4 := by
    unfold x4
    split
    · refine countRow_ok ?_
      assumption
    · assumption
  clear_value x4
  extract_lets +onlyGivenNames x5
  have hx5 : Ok q x5 := by
    unfold x5
    split
    · refine raise_ok ?_
      refine countRow_ok ?_
      assumption
    · assumption
  clear_value x5
  extract_lets +onlyGivenNames x6
  split
  · split
    · extract_lets +onlyGivenNames x7
      have hx7 : Ok q x7 := by
        unfold x7
        refine freeRec_ok ?_
        refine setCur_ok ?_
        assumption
      clear_value x7
      refine finishRec_ok ?_
      assumption
    · split
      · refine countRow_ok ?_
        refine freeRec_ok ?_
        refine setCur_ok ?_
        assumption
      · refine freeRec_ok ?_
        refine setCur_ok ?_
        assumption
  · refine completeCur_ok ?_
    assumption

theorem keepCur_ok {q : Claim} {p : PloughId} {r : Rec} {s : State} (h : Ok q s) : Ok q (keepCur p r s) := by
  unfold keepCur
  extract_lets +onlyGivenNames x0
  have hx0 : Ok q x0.2 := by
    unfold x0
    refine fillCells_ok ?_
    assumption
  clear_value x0
  extract_lets +onlyGivenNames x1
  have hx1 : Ok q x1 := by
    unfold x1
    refine setCur_ok ?_
    assumption
  clear_value x1
  split
  · refine overrun_ok ?_
    assumption
  · assumption

theorem iecHunt_ok {q : Claim} {p : PloughId} {r : ℕ} {ch : UartChar} {s : State} (h : Ok q s) : Ok q (iecHunt p r ch s) := by
  unfold iecHunt
  split
  · refine keepCur_ok ?_
    assumption
  · assumption

theorem iecChar_ok {q : Claim} {p : PloughId} {r : ℕ} {ch : UartChar} {s : State} (h : Ok q s) : Ok q (iecChar p r ch s) := by
  unfold iecChar
  split
  · refine iecHunt_ok ?_
    assumption
  · split
    · split
      · refine dropCur_ok ?_
        assumption
      · extract_lets +onlyGivenNames x0
        have hx0 : Ok q x0.2 := by
          unfold x0
          refine fillCells_ok ?_
          assumption
        clear_value x0
        refine iecComplete_ok ?_
        assumption
    · split
      · refine dropCur_ok ?_
        assumption
      · refine keepCur_ok ?_
        assumption
    · extract_lets +onlyGivenNames x1
      have hx1 : Ok q x1 := by
        unfold x1
        refine dropCur_ok ?_
        assumption
      clear_value x1
      split
      · refine iecHunt_ok ?_
        assumption
      · assumption

theorem ufComplete_ok {q : Claim} {p : PloughId} {r : Rec} {s : State} (h : Ok q s) : Ok q (ufComplete p r s) := by
  unfold ufComplete
  extract_lets +onlyGivenNames x0
  extract_lets +onlyGivenNames x1
  have hx1 : Ok q x1.2 := by
    unfold x1
    refine fillCells_ok ?_
    assumption
  clear_value x1
  refine completeCur_ok ?_
  assumption

theorem ufHunt_ok {q : Claim} {p : PloughId} {r : ℕ} {ch : UartChar} {s : State} (h : Ok q s) : Ok q (ufHunt p r ch s) := by
  unfold ufHunt
  split
  · assumption
  · extract_lets +onlyGivenNames x0
    extract_lets +onlyGivenNames x1
    split
    · split
      · refine keepCur_ok ?_
        assumption
      · assumption
    · split
      · refine keepCur_ok ?_
        assumption
      · refine keepCur_ok ?_
        assumption

theorem ufKeep_ok {q : Claim} {p : PloughId} {y : Rec} {s : State} (h : Ok q s) : Ok q (ufKeep p y s) := by
  unfold ufKeep
  extract_lets +onlyGivenNames x0
  split
  · split
    · refine dropCur_ok ?_
      assumption
    · refine keepCur_ok ?_
      assumption
  · split
    · refine dropCur_ok ?_
      assumption
    · refine keepCur_ok ?_
      assumption

theorem ufStored_ok {q : Claim} {p : PloughId} {y : Rec} {s : State} (h : Ok q s) : Ok q (ufStored p y s) := by
  unfold ufStored
  split
  · refine dropCur_ok ?_
    assumption
  · split
    · split
      · refine dropCur_ok ?_
        assumption
      · refine ufComplete_ok ?_
        assumption
    · refine ufKeep_ok ?_
      assumption

theorem ufChar_ok {q : Claim} {p : PloughId} {r : ℕ} {ch : UartChar} {s : State} (h : Ok q s) : Ok q (ufChar p r ch s) := by
  unfold ufChar
  split
  · refine ufHunt_ok ?_
    assumption
  · extract_lets +onlyGivenNames x0
    extract_lets +onlyGivenNames x1
    extract_lets +onlyGivenNames x2
    split
    · assumption
    · split
      · split
        · refine dropCur_ok ?_
          assumption
        · refine ufStored_ok ?_
          assumption
      · split
        · refine ufKeep_ok ?_
          assumption
        · split
          · refine ufHunt_ok ?_
            refine setCur_ok ?_
            refine dropCur_ok ?_
            assumption
          · split
            · split
              · refine dropCur_ok ?_
                assumption
              · split
                · refine dropCur_ok ?_
                  assumption
                · refine ufComplete_ok ?_
                  assumption
            · refine ufStored_ok ?_
              assumption

theorem ploughChar_ok {q : Claim} {u : ℕ} {ch : UartChar} {s : State} (h : Ok q s) : Ok q (ploughChar u ch s) := by
  unfold ploughChar
  extract_lets +onlyGivenNames x0
  split
  · assumption
  · extract_lets +onlyGivenNames x1
    split
    · split
      · split
        · assumption
        · refine dropCur_ok ?_
          assumption
      · assumption
    · split
      · refine ufChar_ok ?_
        assumption
      · refine iecChar_ok ?_
        assumption

theorem uartChar_ok {q : Claim} {u : ℕ} {ch : UartChar} {s : State} (h : Ok q s) : Ok q (uartChar u ch s) := by
  unfold uartChar
  extract_lets +onlyGivenNames x0
  extract_lets +onlyGivenNames x1
  have hx1 : Ok q x1 := by
    unfold x1
    refine countUart_ok ?_
    refine setUart_ok ?_
    assumption
  clear_value x1
  extract_lets +onlyGivenNames x2
  have hx2 : Ok q x2 := by
    unfold x2
    split
    · refine busError_ok ?_
      refine countUart_ok ?_
      assumption
    · assumption
  clear_value x2
  extract_lets +onlyGivenNames x3
  have hx3 : Ok q x3 := by
    unfold x3
    split
    · refine busError_ok ?_
      refine countUart_ok ?_
      assumption
    · assumption
  clear_value x3
  split
  · assumption
  · refine ploughChar_ok ?_
    assumption

theorem execUartCharacter_ok {q : Claim} {u : ℕ} {ch : UartChar} {s : State} (h : Ok q s) : OkR q (execUartCharacter u ch s) := by
  unfold execUartCharacter
  split
  · refine ok_goes ?_
    assumption
  · refine ok_goes ?_
    refine uartChar_ok ?_
    assumption

theorem execGapTimeout_ok {q : Claim} {u : ℕ} {s : State} (h : Ok q s) : OkR q (execGapTimeout u s) := by
  unfold execGapTimeout
  split
  · split
    · refine ok_goes ?_
      assumption
    · split
      · refine ok_goes ?_
        refine setCur_ok ?_
        assumption
      · refine ok_goes ?_
        refine setCur_ok ?_
        refine dropCur_ok ?_
        assumption
  · refine ok_goes ?_
    assumption

theorem execIdleGapEnd_ok {q : Claim} {u : ℕ} {s : State} (h : Ok q s) : OkR q (execIdleGapEnd u s) := by
  unfold execIdleGapEnd
  split
  · split
    · refine ok_goes ?_
      assumption
    · split
      · refine ok_goes ?_
        refine setCur_ok ?_
        assumption
      · split
        · refine ok_goes ?_
          refine setCur_ok ?_
          refine dropCur_ok ?_
          assumption
        · refine ok_goes ?_
          refine ufComplete_ok ?_
          assumption
  · refine ok_goes ?_
    assumption


end Sys2Proof.Machine
end

