-- ==== Sys2Proof/Laws/Keeps/Egress.lean ====
section
/-! SUPPORT. Every function of Machine/Egress.lean that answers a state keeps the invariant and the queue. -/

namespace Sys2Proof.Machine

theorem unqueuePort_ok {q : Claim} {p : ℕ} {c : Copy} {s : State} (h : Ok q s) : Ok q (unqueuePort p c s) := by
  unfold unqueuePort
  refine ok_congr (s := s) ?_ rfl rfl rfl rfl
  assumption

theorem countPaused_ok {q : Claim} {p : ℕ} {s : State} (h : Ok q s) : Ok q (countPaused p s) := by
  unfold countPaused
  extract_lets +onlyGivenNames x0
  extract_lets +onlyGivenNames x1
  refine countPort_ok ?_
  refine ok_congr (s := s) ?_ rfl rfl rfl rfl
  assumption

theorem readPort_ok {q : Claim} {p : ℕ} {c : Copy} {rd : ReadOutcome} {s : State} (h : Ok q s) : Ok q (readPort p c rd s).2 := by
  unfold readPort
  extract_lets +onlyGivenNames x0
  have hx0 : Ok q x0.2 := by
    unfold x0
    refine readEffects_ok ?_
    assumption
  clear_value x0
  extract_lets +onlyGivenNames x1
  have hx1 : Ok q x1 := by
    unfold x1
    assumption
  clear_value x1
  extract_lets +onlyGivenNames x2
  extract_lets +onlyGivenNames x3
  extract_lets +onlyGivenNames x4
  have hx4 : Ok q x4.2.2 := by
    unfold x4
    split
    · refine rewrite_ok ?_
      assumption
    · dsimp -zeta only
      assumption
  clear_value x4
  extract_lets +onlyGivenNames x5
  have hx5 : Ok q x5.2 := by
    unfold x5
    split
    · refine tallyGenerate_ok ?_
      assumption
    · dsimp -zeta only
      assumption
  clear_value x5
  extract_lets +onlyGivenNames x6
  have hx6 : Ok q x6.2 := by
    unfold x6
    split
    · dsimp -zeta only
      assumption
    · split
      · refine rowGenerate_ok ?_
        assumption
      · assumption
  clear_value x6
  extract_lets +onlyGivenNames x7
  have hx7 : Ok q x7 := by
    unfold x7
    split
    · refine countPort_ok ?_
      assumption
    · assumption
  clear_value x7
  dsimp -zeta only
  assumption

theorem sendPauses_ok {q : Claim} {p : ℕ} {s : State} (h : Ok q s) : Ok q (sendPauses p s) := by
  unfold sendPauses
  extract_lets +onlyGivenNames x0
  extract_lets +onlyGivenNames x1
  split
  · assumption
  · refine ok_foldl ?_ ?_
    · refine setPort_ok ?_
      assumption
    · intro z2 z3 z4
      refine putPause_ok ?_
      assumption

theorem putFrame_ok {q : Claim} {p : ℕ} {c : Copy} {s : State} (h : Ok q s) : Ok q (putFrame p c s) := by
  unfold putFrame
  refine ok_congr (s := s) ?_ rfl rfl rfl rfl
  assumption

theorem takeWire_ok {q : Claim} {p : ℕ} {c : Copy} {rd : ReadOutcome} {s : State} (h : Ok q s) : Ok q (takeWire p c rd s) := by
  unfold takeWire
  extract_lets +onlyGivenNames x0
  extract_lets +onlyGivenNames x1
  have hx1 : Ok q x1.2 := by
    unfold x1
    split
    · refine beginCopy_ok ?_
      assumption
    · dsimp -zeta only
      assumption
  clear_value x1
  extract_lets +onlyGivenNames x2
  have hx2 : Ok q x2.2 := by
    unfold x2
    refine readPort_ok ?_
    assumption
  clear_value x2
  refine putFrame_ok ?_
  assumption

theorem startFrame_ok {q : Claim} {p : ℕ} {c : Copy} {rd : ReadOutcome} {s t : State} (h : Ok q s) (ht : startFrame p c rd s = some t) :
    Ok q t := by
  unfold startFrame at ht
  split at ht
  · have hk : Ok q (chooseSlot p s).2 := chooseSlot_ok h
    extract_lets +onlyGivenNames k at ht
    change Ok q k.2 at hk
    clear_value k
    split at ht
    · cases ht
    · injection ht with ht
      exact ht ▸ takeWire_ok (useSlot_ok hk)
  · injection ht with ht
    exact ht ▸ takeWire_ok h

theorem selectFrame_ok {q : Claim} {p : ℕ} {rd : ReadOutcome} {k : ℕ} {s : State} (h : Ok q s) : Ok q (selectFrame p rd k s) := by
  induction k generalizing s with
  | zero => exact h
  | succ k ih =>
    unfold selectFrame
    split
    · exact h
    · rename_i c _
      have hu : Ok q (unqueuePort p c s) := unqueuePort_ok h
      extract_lets +onlyGivenNames u
      change Ok q u at hu
      clear_value u
      split
      · exact ih (countPort_ok (endCopy_ok hu))
      · split
        · rename_i t ht
          exact startFrame_ok hu ht
        · exact ih (limitDrop_ok (endCopy_ok hu))

theorem resumeFrame_ok {q : Claim} {p : ℕ} {c : Copy} {s t : State} (h : Ok q s) (ht : resumeFrame p c s = some t) : Ok q t := by
  unfold resumeFrame at ht
  extract_lets +onlyGivenNames x at ht
  clear_value x
  split at ht
  · injection ht with ht
    exact ht ▸ putFrame_ok (countPort_ok (ok_congr (s := s) h rfl rfl rfl rfl))
  · cases ht

theorem dropHeads_ok {q : Claim} {p : ℕ} {s : State} (h : Ok q s) : Ok q (dropHeads p s) := by
  unfold dropHeads
  refine ok_foldl ?_ ?_
  · assumption
  · intro z0 z1 z2
    refine countPort_ok ?_
    refine endCopy_ok ?_
    refine unqueuePort_ok ?_
    assumption

theorem freeWire_ok {q : Claim} {p : ℕ} {rd : ReadOutcome} {s : State} (h : Ok q s) : Ok q (freeWire p rd s) := by
  unfold freeWire
  extract_lets +onlyGivenNames x n
  have hx : Ok q x := countPaused_ok h
  clear_value x n
  split
  · rename_i c _
    cases hr : resumeFrame p c x with
    | none => exact selectFrame_ok hx
    | some t => exact resumeFrame_ok hx hr
  · exact selectFrame_ok hx

theorem freeHeld_ok {q : Claim} {p : ℕ} {s : State} (h : Ok q s) : Ok q (freeHeld p s) := by
  unfold freeHeld
  split
  · rename_i c _ _
    cases hr : resumeFrame p c s with
    | none => exact h
    | some t => exact resumeFrame_ok h hr
  · exact h

theorem yieldWire_ok {q : Claim} {p : ℕ} {express : Bool} {s : State} (h : Ok q s) : Ok q (yieldWire p express s) := by
  unfold yieldWire
  split
  · split
    · refine cutFrame_ok ?_
      assumption
    · assumption
  · assumption

theorem execPortFrameSelect_ok {q : Claim} {p : ℕ} {rd : ReadOutcome} {s : State} (h : Ok q s) : OkR q (execPortFrameSelect p rd s) := by
  unfold execPortFrameSelect
  split
  · exact ok_goes (readAhead_ok h)
  · split
    · refine ok_goes (dropHeads_ok ?_)
      split
      · exact h
      · exact finishHeld_ok h
    · split
      · exact ok_goes (freeHeld_ok (sendPauses_ok (yieldWire_ok h)))
      · extract_lets +onlyGivenNames t
        have ht : Ok q t := sendPauses_ok (yieldWire_ok (updateCredits_ok h))
        clear_value t
        refine ok_goes ?_
        split
        · exact freeWire_ok ht
        · exact ht

theorem writeStamp_ok {q : Claim} {p : ℕ} {c : Copy} {s : State} (h : Ok q s) : Ok q (writeStamp p c s) := by
  unfold writeStamp
  split
  · assumption
  · extract_lets +onlyGivenNames x0
    split
    · refine ok_congr (s := s) ?_ rfl rfl rfl rfl
      assumption
    · extract_lets +onlyGivenNames x1
      extract_lets +onlyGivenNames x2
      extract_lets +onlyGivenNames x3
      extract_lets +onlyGivenNames x4
      have hx4 : Ok q x4 := by
        unfold x4
        refine ok_congr (s := s) ?_ rfl rfl rfl rfl
        assumption
      clear_value x4
      split
      · refine raise_ok ?_
        assumption
      · assumption

theorem outFrame_ok {q : Claim} {p : ℕ} {c : Copy} {s : State} (h : Ok q s) : Ok q (outFrame p c s) := by
  unfold outFrame
  split
  · refine rxFrame_ok ?_
    assumption
  · split
    · split
      · assumption
      · refine emit_ok ?_
        assumption
    · refine emit_ok ?_
      assumption

theorem frameSent_ok {q : Claim} {p : ℕ} {c : Copy} {s : State} (h : Ok q s) : Ok q (frameSent p c s) := by
  unfold frameSent
  extract_lets +onlyGivenNames x0
  have hx0 : Ok q x0 := by
    unfold x0
    refine updateCredits_ok ?_
    assumption
  clear_value x0
  extract_lets +onlyGivenNames x1
  extract_lets +onlyGivenNames x2
  have hx2 : Ok q x2 := by
    unfold x2
    refine ok_congr (s := x0) ?_ rfl rfl rfl rfl
    assumption
  clear_value x2
  extract_lets +onlyGivenNames x3
  have hx3 : Ok q x3 := by
    unfold x3
    refine countPort_ok ?_
    assumption
  clear_value x3
  extract_lets +onlyGivenNames x4
  have hx4 : Ok q x4 := by
    unfold x4
    refine countPort_ok ?_
    refine countPort_ok ?_
    assumption
  clear_value x4
  extract_lets +onlyGivenNames x5
  have hx5 : Ok q x5 := by
    unfold x5
    split
    · refine countPort_ok ?_
      assumption
    · assumption
  clear_value x5
  extract_lets +onlyGivenNames x6
  have hx6 : Ok q x6 := by
    unfold x6
    split
    · assumption
    · split
      · refine countPort_ok ?_
        assumption
      · assumption
  clear_value x6
  extract_lets +onlyGivenNames x7
  have hx7 : Ok q x7 := by
    unfold x7
    refine writeStamp_ok ?_
    assumption
  clear_value x7
  split
  · extract_lets +onlyGivenNames x8
    have hx8 : Ok q x8 := by
      unfold x8
      split
      · assumption
      · refine countRow_ok ?_
        refine countRow_ok ?_
        assumption
    clear_value x8
    refine outFrame_ok ?_
    refine endCopy_ok ?_
    refine setRowRt_ok ?_
    assumption
  · refine outFrame_ok ?_
    refine endCopy_ok ?_
    assumption

theorem uartLoop_ok {q : Claim} {k : ℕ} {d : Bytes} {s : State} (h : Ok q s) : Ok q (uartLoop k d s) := by
  unfold uartLoop
  split
  · assumption
  · extract_lets +onlyGivenNames x0
    refine ok_foldl ?_ ?_
    · assumption
    · intro z1 z2 z3
      refine ploughChar_ok ?_
      refine countUart_ok ?_
      assumption

theorem rowSent_ok {q : Claim} {r : ℕ} {c : Copy} {s : State} (h : Ok q s) : Ok q (rowSent r c s) := by
  unfold rowSent
  split
  · extract_lets +onlyGivenNames x0
    extract_lets +onlyGivenNames x1
    have hx1 : Ok q x1 := by
      unfold x1
      refine unwire_ok ?_
      refine setUart_ok ?_
      assumption
    clear_value x1
    refine uartLoop_ok ?_
    refine drivePins_ok ?_
    refine sentCopy_ok ?_
    assumption
  · refine linIdle_ok ?_
    refine sentCopy_ok ?_
    refine unwire_ok ?_
    refine countLin_ok ?_
    assumption
  · assumption

theorem execCopySent_ok {q : Claim} {w : WireId} {s : State} (h : Ok q s) : OkR q (execCopySent w s) := by
  unfold execCopySent
  split
  · refine ok_goes ?_
    split
    · refine frameSent_ok ?_
      assumption
    · assumption
  · refine ok_goes ?_
    split
    · refine rowSent_ok ?_
      assumption
    · assumption

theorem takeRemoval_ok {q : Claim} {p : ℕ} {s : State} (h : Ok q s) : Ok q (takeRemoval p s) := by
  unfold takeRemoval
  extract_lets +onlyGivenNames x0
  split
  · split
    · refine setFurrow_ok ?_
      assumption
    · assumption
  · assumption

theorem execGateChange_ok {q : Claim} {p : ℕ} {s : State} (h : Ok q s) : OkR q (execGateChange p s) := by
  unfold execGateChange
  refine ok_goes ?_
  refine setGates_ok ?_
  refine takeRemoval_ok ?_
  refine updateCredits_ok ?_
  assumption

theorem execSetAndHoldMac_ok {q : Claim} {p : ℕ} {s : State} (h : Ok q s) : OkR q (execSetAndHoldMac p s) := by
  unfold execSetAndHoldMac
  split
  · refine ok_goes ?_
    assumption
  · extract_lets +onlyGivenNames x0
    extract_lets +onlyGivenNames x1
    have hx1 : Ok q x1 := by
      unfold x1
      refine setFurrow_ok ?_
      assumption
    clear_value x1
    split
    · refine ok_goes ?_
      split
      · refine cutFrame_ok ?_
        assumption
      · assumption
    · refine ok_goes ?_
      assumption

theorem execConfigurationChangeTime_ok {q : Claim} {p : ℕ} {s : State} (h : Ok q s) : OkR q (execConfigurationChangeTime p s) := by
  unfold execConfigurationChangeTime
  extract_lets +onlyGivenNames x0
  split
  · refine ok_goes ?_
    assumption
  · extract_lets +onlyGivenNames x1
    have hx1 : Ok q x1 := by
      unfold x1
      refine updateCredits_ok ?_
      assumption
    clear_value x1
    refine ok_goes ?_
    refine setGates_ok ?_
    refine raise_ok ?_
    refine setFurrow_ok ?_
    assumption


end Sys2Proof.Machine
end

