-- ==== Sys2Proof/Laws/Keeps/DrillCmds.lean ====
section
/-! SUPPORT. Every function of Machine/DrillCmds.lean that answers a state keeps the invariant and the queue. -/

namespace Sys2Proof.Machine

theorem cmdFurrowListWrite_ok : CmdOk cmdFurrowListWrite := by
  intro q c n s h
  unfold cmdFurrowListWrite
  dsimp -zeta only
  refine directAct_ok ?_ ?_
  · intro z0 z1 z2 z3
    exact fun _ h => h
  · assumption

theorem execFurrowListWrite_ok {q : Claim} {c : Call} {s : State} (h : Ok q s) : OkR q (execFurrowListWrite c s) := by
  unfold execFurrowListWrite
  refine ok_goes ?_
  refine serve_ok ?_ ?_
  · refine cmdFurrowListWrite_ok
  · assumption

theorem actFurrowSwitch_ok {q : Claim} {c : Call} {a1 : ℕ} {s : State} (h : Ok q s) : OkW q (actFurrowSwitch c a1 s) := by
  unfold actFurrowSwitch
  extract_lets +onlyGivenNames x0
  extract_lets +onlyGivenNames x1
  split
  · refine okw_mk ?_ ?_
    · dsimp -zeta only
      assumption
    · intro z2 z3
      dsimp -zeta only
      dsimp -zeta only [id]
      assumption
  · split
    · refine okw_mk ?_ ?_
      · dsimp -zeta only
        assumption
      · intro z4 z5
        dsimp -zeta only
        dsimp -zeta only [id]
        assumption
    · extract_lets +onlyGivenNames x6
      refine okw_mk ?_ ?_
      · dsimp -zeta only
        refine setFurrow_ok ?_
        assumption
      · intro z7 z8
        dsimp -zeta only
        dsimp -zeta only [id]
        assumption

theorem cmdFurrowSwitch_ok : CmdOk cmdFurrowSwitch := by
  intro q c n s h
  unfold cmdFurrowSwitch
  dsimp -zeta only
  refine actFurrowSwitch_ok ?_
  assumption

theorem execFurrowSwitch_ok {q : Claim} {c : Call} {s : State} (h : Ok q s) : OkR q (execFurrowSwitch c s) := by
  unfold execFurrowSwitch
  refine ok_goes ?_
  refine serve_ok ?_ ?_
  · refine cmdFurrowSwitch_ok
  · assumption

theorem actFurrowRemove_ok {q : Claim} {c : Call} {a1 : ℕ} {s : State} (h : Ok q s) : OkW q (actFurrowRemove c a1 s) := by
  unfold actFurrowRemove
  extract_lets +onlyGivenNames x0
  extract_lets +onlyGivenNames x1
  split
  · refine okw_mk ?_ ?_
    · dsimp -zeta only
      assumption
    · intro z2 z3
      dsimp -zeta only
      dsimp -zeta only [id]
      assumption
  · split
    · refine okw_mk ?_ ?_
      · dsimp -zeta only
        assumption
      · intro z4 z5
        dsimp -zeta only
        dsimp -zeta only [id]
        assumption
    · extract_lets +onlyGivenNames x6
      refine okw_mk ?_ ?_
      · dsimp -zeta only
        refine setFurrow_ok ?_
        assumption
      · intro z7 z8
        dsimp -zeta only
        dsimp -zeta only [id]
        assumption

theorem cmdFurrowListRemove_ok : CmdOk cmdFurrowListRemove := by
  intro q c n s h
  unfold cmdFurrowListRemove
  dsimp -zeta only
  refine actFurrowRemove_ok ?_
  assumption

theorem execFurrowListRemove_ok {q : Claim} {c : Call} {s : State} (h : Ok q s) : OkR q (execFurrowListRemove c s) := by
  unfold execFurrowListRemove
  refine ok_goes ?_
  refine serve_ok ?_ ?_
  · refine cmdFurrowListRemove_ok
  · assumption

theorem afterShaper_ok {q : Claim} {c : Call} {a1 : ℕ} {old : State} {s : State} (h : Ok q old) (h1 : Ok q s) : Ok q (afterShaper c a1 old s) := by
  unfold afterShaper
  refine ok_congr (s := s) ?_ rfl rfl rfl rfl
  assumption

theorem cmdShaperSet_ok : CmdOk cmdShaperSet := by
  intro q c n s h
  unfold cmdShaperSet
  dsimp -zeta only
  refine directAct_ok ?_ ?_
  · intro z0 z1 z2 z3 z4 z5
    refine afterShaper_ok ?_ ?_
    · assumption
    · assumption
  · assumption

theorem execShaperSet_ok {q : Claim} {c : Call} {s : State} (h : Ok q s) : OkR q (execShaperSet c s) := by
  unfold execShaperSet
  refine ok_goes ?_
  refine serve_ok ?_ ?_
  · refine cmdShaperSet_ok
  · assumption

theorem cmdSheafSet_ok : CmdOk cmdSheafSet := by
  intro q c n s h
  unfold cmdSheafSet
  dsimp -zeta only
  refine directAct_ok ?_ ?_
  · intro z0 z1 z2 z3
    exact fun _ h => h
  · assumption

theorem execSheafSet_ok {q : Claim} {c : Call} {s : State} (h : Ok q s) : OkR q (execSheafSet c s) := by
  unfold execSheafSet
  refine ok_goes ?_
  refine serve_ok ?_ ?_
  · refine cmdSheafSet_ok
  · assumption

theorem cmdClassMapSet_ok : CmdOk cmdClassMapSet := by
  intro q c n s h
  unfold cmdClassMapSet
  dsimp -zeta only
  refine directAct_ok ?_ ?_
  · intro z0 z1 z2 z3 z4 z5
    refine clearImmune_ok ?_
    assumption
  · assumption

theorem execClassMapSet_ok {q : Claim} {c : Call} {s : State} (h : Ok q s) : OkR q (execClassMapSet c s) := by
  unfold execClassMapSet
  refine ok_goes ?_
  refine serve_ok ?_ ?_
  · refine cmdClassMapSet_ok
  · assumption

theorem cmdPoolAndGuardSet_ok : CmdOk cmdPoolAndGuardSet := by
  intro q c n s h
  unfold cmdPoolAndGuardSet
  dsimp -zeta only
  refine directAct_ok ?_ ?_
  · intro z0 z1 z2 z3
    exact fun _ h => h
  · assumption

theorem execPoolAndGuardSet_ok {q : Claim} {c : Call} {s : State} (h : Ok q s) : OkR q (execPoolAndGuardSet c s) := by
  unfold execPoolAndGuardSet
  refine ok_goes ?_
  refine serve_ok ?_ ?_
  · refine cmdPoolAndGuardSet_ok
  · assumption


end Sys2Proof.Machine
end

