-- ==== Sys2Proof/Laws/Keeps/Stile.lean ====
section
/-! SUPPORT. Every function of Machine/Stile.lean that answers a state keeps the invariant and the queue. -/

namespace Sys2Proof.Machine

/-- Reading a run of counters keeps the invariant. -/
def RcOk (c : RcSet) : Prop :=
  (∀ q i s, Ok q s → Ok q (c.clear i s)) ∧ (∀ q i v s, Ok q s → Ok q (c.setShadow i v s))

theorem rcCounter_ok {q : Claim} {c : RcSet} {i lo hi : Nat} {s : State} (hc : RcOk c) (h : Ok q s) :
    Ok q (rcCounter c i lo hi s).2 := by
  unfold rcCounter
  dsimp only
  repeat' split
  · exact hc.1 _ _ _ h
  · exact hc.2 _ _ _ _ (hc.1 _ _ _ h)
  · exact h
  · exact hc.2 _ _ _ _ h

theorem rcRead_ok {q : Claim} {c : RcSet} {o len : Nat} {s : State} (hc : RcOk c) (h : Ok q s) : Ok q (rcRead c o len s).2 := by
  unfold rcRead
  split
  · exact h
  · exact ok_foldl_pair h (fun _ _ h => rcCounter_ok hc h)

theorem clearBusCounter_ok {q : Claim} {kind : ℕ} {k : ℕ} {i : ℕ} {s : State} (h : Ok q s) : Ok q (clearBusCounter kind k i s) := by
  unfold clearBusCounter
  split
  · assumption
  · split
    · refine setCan_ok ?_
      assumption
    · refine setUart_ok ?_
      assumption
    · refine setLin_ok ?_
      assumption
    · refine setMvb_ok ?_
      assumption
    · assumption

theorem busRc_ok (kind k : Nat) : RcOk (busRc kind k) :=
  ⟨fun _ _ _ h => clearBusCounter_ok h, fun _ _ _ s h => ok_congr (s := s) h rfl rfl rfl rfl⟩

theorem readFile_ok {q : Claim} {kind : ℕ} {k : ℕ} {o : ℕ} {len : ℕ} {s : State} (h : Ok q s) : Ok q (readFile kind k o len s).2 := by
  unfold readFile
  extract_lets +onlyGivenNames x0
  have hx0 : Ok q x0 := by
    unfold x0
    split
    · refine drivePins_ok ?_
      refine sampleInputs_ok ?_
      assumption
    · assumption
  clear_value x0
  extract_lets +onlyGivenNames x1
  extract_lets +onlyGivenNames x2
  extract_lets +onlyGivenNames x3
  extract_lets +onlyGivenNames x4
  extract_lets +onlyGivenNames x5
  have hx5 : Ok q x5.2 := by
    unfold x5
    refine rcRead_ok ?_ ?_
    · refine busRc_ok ?_ ?_
    · assumption
  clear_value x5
  extract_lets +onlyGivenNames x6
  dsimp -zeta only
  assumption

theorem writeFile_ok {q : Claim} {kind : ℕ} {k : ℕ} {o : ℕ} {d : Bytes} {s : State} (h : Ok q s) : Ok q (writeFile kind k o d s).2 := by
  unfold writeFile
  extract_lets +onlyGivenNames x0
  extract_lets +onlyGivenNames x1
  have hx1 : ∀ a0, Ok q a0 → Ok q (x1 a0) := by
    intro y2 y3
    dsimp -zeta only [x1]
    split
    · refine ok_congr (s := y2) ?_ rfl rfl rfl rfl
      assumption
    · assumption
  clear_value x1
  split
  · extract_lets +onlyGivenNames x4
    extract_lets +onlyGivenNames x5
    extract_lets +onlyGivenNames x6
    extract_lets +onlyGivenNames x7
    extract_lets +onlyGivenNames x8
    split
    · dsimp -zeta only
      assumption
    · split
      · dsimp -zeta only
        assumption
      · dsimp -zeta only
        refine afterCan_ok ?_ ?_
        · assumption
        · extract_lets +onlyGivenNames x9
          have hx9 : Ok q x9 := by
            unfold x9
            refine hx1 _ ?_
            assumption
          clear_value x9
          refine ok_congr (s := x9) ?_ rfl rfl rfl rfl
          assumption
  · split
    · dsimp -zeta only
      refine drivePins_ok ?_
      extract_lets +onlyGivenNames x10
      have hx10 : Ok q x10 := by
        unfold x10
        refine hx1 _ ?_
        assumption
      clear_value x10
      refine ok_congr (s := x10) ?_ rfl rfl rfl rfl
      assumption
    · split
      · dsimp -zeta only
        assumption
      · dsimp -zeta only
        assumption

theorem freeBytes_ok {q : Claim} {n : ℕ} {s : State} (h : Ok q s) : Ok q (freeBytes n s).2 := by
  unfold freeBytes
  dsimp -zeta only
  refine ok_congr (s := s) ?_ rfl rfl rfl rfl
  assumption

theorem localRead_ok {q : Claim} {kind : ℕ} {k : ℕ} {addr : ℕ} {len : ℕ} {s : State} (h : Ok q s) : Ok q (localRead kind k addr len s).2 := by
  unfold localRead
  split
  · refine freeBytes_ok ?_
    assumption
  · refine readFile_ok ?_
    assumption

theorem localWrite_ok {q : Claim} {r : Requester} {kind : ℕ} {k : ℕ} {addr : ℕ} {d : Bytes} {s : State} (h : Ok q s) : Ok q (localWrite r kind k addr d s).2 := by
  unfold localWrite
  split
  · dsimp -zeta only
    assumption
  · split
    · dsimp -zeta only
      assumption
    · refine writeFile_ok ?_
      assumption

theorem readRuns_ok {q : Claim} {rd : ℕ → ℕ → State → Bytes × State} {off : ℕ} {len : ℕ} {en : ℕ} {s : State} (h : ∀ b0 b1 b2, Ok q b2 → Ok q (rd b0 b1 b2).2) (h1 : Ok q s) : Ok q (readRuns rd off len en s).2 := by
  unfold readRuns
  refine ok_foldl_of (π := Prod.snd) ?_ ?_
  · dsimp -zeta only
    assumption
  · intro z0
    intro z1
    intro z2
    extract_lets +onlyGivenNames x3
    have hx3 : Ok q x3.2 := by
      unfold x3
      refine h _ _ _ ?_
      assumption
    clear_value x3
    dsimp -zeta only
    assumption

theorem writeRuns_ok {q : Claim} {wr : ℕ → Bytes → State → ℕ × State} {off : ℕ} {len : ℕ} {en : ℕ} {d : Bytes} {s : State} (h : ∀ b0 b1 b2, Ok q b2 → Ok q (wr b0 b1 b2).2) (h1 : Ok q s) : Ok q (writeRuns wr off len en d s).2 := by
  unfold writeRuns
  refine ok_foldl_of (π := Prod.snd) ?_ ?_
  · dsimp -zeta only
    assumption
  · intro z0
    intro z1
    intro z2
    split
    · assumption
    · refine h _ _ _ ?_
      assumption

theorem setTransport_ok {q : Claim} {d : ℕ} {v : Transport} {s : State} (h : Ok q s) : Ok q (setTransport d v s) := by
  unfold setTransport
  refine ok_congr (s := s) ?_ rfl rfl rfl rfl
  assumption

theorem sendWaiting_ok {q : Claim} {d : ℕ} {s : State} (h : Ok q s) : Ok q (sendWaiting d s) := by
  unfold sendWaiting
  extract_lets +onlyGivenNames x0
  extract_lets +onlyGivenNames x1
  refine ok_foldl ?_ ?_
  · refine setTransport_ok ?_
    assumption
  · intro z2 z3 z4
    refine sendControl_ok ?_
    assumption

theorem sendRequest_ok {q : Claim} {d : ℕ} {a1 : StileReq} {s : State} (h : Ok q s) : Ok q (sendRequest d a1 s) := by
  unfold sendRequest
  extract_lets +onlyGivenNames x0
  refine sendWaiting_ok ?_
  refine setTransport_ok ?_
  assumption

theorem flushGroup_ok {q : Claim} {g n : Nat} {s : State} (h : Ok q s) : Ok q (flushGroup g n s) := by
  induction n generalizing s with
  | zero => exact h
  | succ n ih =>
    unfold flushGroup
    split
    · split
      · exact ih (emit_ok (ok_congr h rfl rfl rfl rfl))
      · exact h
    · exact h

theorem answerRead_ok {q : Claim} {a : FarAccess} {d : Bytes} {err : Bool} {s : State} (h : Ok q s) : Ok q (answerRead a d err s) := by
  unfold answerRead
  extract_lets +onlyGivenNames x0
  refine flushGroup_ok ?_
  refine ok_congr (s := s) ?_ rfl rfl rfl rfl
  assumption

theorem removeFar_ok {q : Claim} {a : FarAccess} {s : State} (h : Ok q s) : Ok q (removeFar a s) := by
  unfold removeFar
  refine ok_congr (s := s) ?_ rfl rfl rfl rfl
  assumption

theorem failFar_ok {q : Claim} {a : FarAccess} {kind : ℕ} {s : State} (h : Ok q s) : Ok q (failFar a kind s) := by
  unfold failFar
  split
  · refine logRaise_ok ?_
    refine removeFar_ok ?_
    assumption
  · extract_lets +onlyGivenNames x0
    have hx0 : Ok q x0 := by
      unfold x0
      refine logRaise_ok ?_
      assumption
    clear_value x0
    extract_lets +onlyGivenNames x1
    refine answerRead_ok ?_
    assumption

theorem succeedFar_ok {q : Claim} {a : FarAccess} {d : Bytes} {s : State} (h : Ok q s) : Ok q (succeedFar a d s) := by
  unfold succeedFar
  split
  · refine removeFar_ok ?_
    assumption
  · extract_lets +onlyGivenNames x0
    extract_lets +onlyGivenNames x1
    extract_lets +onlyGivenNames x2
    have hx2 : Ok q x2 := by
      unfold x2
      split
      · assumption
      · refine ok_congr (s := s) ?_ rfl rfl rfl rfl
        assumption
    clear_value x2
    refine answerRead_ok ?_
    assumption

theorem refusePiece_ok {q : Claim} {a0 : NearReq} {len : ℕ} {kind : ℕ} {g : ℕ} {s : State} (h : Ok q s) : Ok q (refusePiece a0 len kind g s) := by
  unfold refusePiece
  extract_lets +onlyGivenNames x0
  extract_lets +onlyGivenNames x1
  extract_lets +onlyGivenNames x2
  extract_lets +onlyGivenNames x3
  refine failFar_ok ?_
  refine ok_congr (s := s) ?_ rfl rfl rfl rfl
  assumption

theorem startRemote_ok {q : Claim} {a : FarAccess} {s : State} (h : Ok q s) : Ok q (startRemote a s) := by
  unfold startRemote
  extract_lets +onlyGivenNames x0
  split
  · refine failFar_ok ?_
    refine ok_congr (s := s) ?_ rfl rfl rfl rfl
    assumption
  · extract_lets +onlyGivenNames x1
    extract_lets +onlyGivenNames x2
    refine sendRequest_ok ?_
    refine ok_congr (s := s) ?_ rfl rfl rfl rfl
    assumption

theorem startLocal_ok {q : Claim} {a : FarAccess} {s : State} (h : Ok q s) : Ok q (startLocal a s) := by
  unfold startLocal
  split
  · extract_lets +onlyGivenNames x0
    have hx0 : Ok q x0.2 := by
      unfold x0
      refine writeRuns_ok ?_ ?_
      · intro z1
        intro z2
        intro z3
        intro z4
        refine localWrite_ok ?_
        assumption
      · assumption
    clear_value x0
    extract_lets +onlyGivenNames x5
    have hx5 : Ok q x5 := by
      unfold x5
      refine dropKept_ok ?_
      assumption
    clear_value x5
    split
    · refine ok_congr (s := x5) ?_ rfl rfl rfl rfl
      assumption
    · refine failFar_ok ?_
      refine ok_congr (s := x5) ?_ rfl rfl rfl rfl
      assumption
  · split
    · refine ok_congr (s := s) ?_ rfl rfl rfl rfl
      assumption
    · extract_lets +onlyGivenNames x6
      have hx6 : Ok q x6.2 := by
        unfold x6
        refine readRuns_ok ?_ ?_
        · intro z7
          intro z8
          intro z9
          intro z10
          refine localRead_ok ?_
          assumption
        · assumption
      clear_value x6
      extract_lets +onlyGivenNames x11
      have hx11 : Ok q x11.2 := by
        unfold x11
        split
        · dsimp -zeta only
          assumption
        · refine localRead_ok ?_
          assumption
      clear_value x11
      extract_lets +onlyGivenNames x12
      have hx12 : Ok q x12 := by
        unfold x12
        assumption
      clear_value x12
      refine ok_congr (s := x12) ?_ rfl rfl rfl rfl
      assumption

theorem takePiece_ok {q : Claim} {a0 : NearReq} {g : ℕ} {len : ℕ} {s : State} (h : Ok q s) : Ok q (takePiece a0 g len s) := by
  unfold takePiece
  extract_lets +onlyGivenNames x0
  extract_lets +onlyGivenNames x1
  extract_lets +onlyGivenNames x2
  extract_lets +onlyGivenNames x3
  extract_lets +onlyGivenNames x4
  extract_lets +onlyGivenNames x5
  have hx5 : Ok q x5 := by
    unfold x5
    refine ok_congr (s := s) ?_ rfl rfl rfl rfl
    assumption
  clear_value x5
  extract_lets +onlyGivenNames x6
  extract_lets +onlyGivenNames x7
  have hx7 : Ok q x7 := by
    unfold x7
    split
    · refine raise_ok ?_
      refine ok_congr (s := x5) ?_ rfl rfl rfl rfl
      assumption
    · assumption
  clear_value x7
  split
  · refine answerRead_ok ?_
    refine ok_congr (s := x7) ?_ rfl rfl rfl rfl
    assumption
  · split
    · refine startRemote_ok ?_
      split
      · refine dropKept_ok ?_
        assumption
      · assumption
    · refine startLocal_ok ?_
      assumption

theorem writeSemPage_ok {q : Claim} {r : Requester} {o : ℕ} {d : Bytes} {s : State} (h : Ok q s) : Ok q (writeSemPage r o d s) := by
  unfold writeSemPage
  refine ok_foldl ?_ ?_
  · assumption
  · intro z0 z1 z2
    extract_lets +onlyGivenNames x3
    split
    · refine semGive_ok ?_
      assumption
    · assumption

theorem readSemPage_ok {q : Claim} {r : Requester} {o : ℕ} {len : ℕ} {s : State} (h : Ok q s) : Ok q (readSemPage r o len s).2 := by
  unfold readSemPage
  refine ok_foldl_of (π := Prod.snd) ?_ ?_
  · dsimp -zeta only
    assumption
  · intro z0 z1 z2
    extract_lets +onlyGivenNames x3
    extract_lets +onlyGivenNames x4
    split
    · assumption
    · split
      · extract_lets +onlyGivenNames x5
        have hx5 : Ok q x5.2 := by
          unfold x5
          split
          · refine semTake_ok ?_
            assumption
          · dsimp -zeta only
            assumption
        clear_value x5
        dsimp -zeta only
        assumption
      · dsimp -zeta only
        assumption

theorem takeSem_ok {q : Claim} {a0 : NearReq} {s : State} (h : Ok q s) : Ok q (takeSem a0 s) := by
  unfold takeSem
  extract_lets +onlyGivenNames x0
  split
  · refine writeRuns_ok ?_ ?_
    · intro z1
      intro z2
      intro z3
      intro z4
      dsimp -zeta only
      refine writeSemPage_ok ?_
      assumption
    · assumption
  · extract_lets +onlyGivenNames x5
    have hx5 : Ok q x5.2 := by
      unfold x5
      refine readRuns_ok ?_ ?_
      · intro z6
        intro z7
        intro z8
        intro z9
        refine readSemPage_ok ?_
        assumption
      · assumption
    clear_value x5
    extract_lets +onlyGivenNames x10
    refine answerRead_ok ?_
    extract_lets +onlyGivenNames x11
    have hx11 : Ok q x11 := by
      unfold x11
      assumption
    clear_value x11
    refine ok_congr (s := x11) ?_ rfl rfl rfl rfl
    assumption

theorem takeNear_ok {q : Claim} {i : ℕ} {a1 : NearReq} {s : State} (h : Ok q s) : Ok q (takeNear i a1 s) := by
  unfold takeNear
  split
  · refine takeSem_ok ?_
    refine ok_congr (s := s) ?_ rfl rfl rfl rfl
    assumption
  · split
    · extract_lets +onlyGivenNames x0
      refine refusePiece_ok ?_
      refine ok_congr (s := s) ?_ rfl rfl rfl rfl
      assumption
    · extract_lets +onlyGivenNames x1
      refine takePiece_ok ?_
      refine ok_congr (s := s) ?_ rfl rfl rfl rfl
      assumption

theorem settleStrict_ok {q : Claim} {s : State} (h : Ok q s) : Ok q (settleStrict s) := by
  unfold settleStrict
  split
  · assumption
  · refine ok_congr (s := s) ?_ rfl rfl rfl rfl
    assumption

theorem pumpNear_ok {q : Claim} {n : Nat} {s : State} (h : Ok q s) : Ok q (pumpNear n s) := by
  induction n generalizing s with
  | zero => exact h
  | succ n ih =>
    unfold pumpNear
    split
    · exact ih (takeNear_ok h)
    · exact settleStrict_ok h

theorem releaseHeld_ok {q : Claim} {s : State} (h : Ok q s) : Ok q (releaseHeld s) := by
  unfold releaseHeld
  split
  · assumption
  · refine ok_foldl ?_ ?_
    · refine ok_congr (s := s) ?_ rfl rfl rfl rfl
      assumption
    · intro z0 z1 z2
      extract_lets +onlyGivenNames x3
      have hx3 : Ok q x3.2 := by
        unfold x3
        refine semTake_ok ?_
        assumption
      clear_value x3
      extract_lets +onlyGivenNames x4
      have hx4 : Ok q x4 := by
        unfold x4
        assumption
      clear_value x4
      refine ok_congr (s := x4) ?_ rfl rfl rfl rfl
      assumption

theorem pump_ok {q : Claim} {s : State} (h : Ok q s) : Ok q (pump s) := by
  unfold pump
  refine releaseHeld_ok ?_
  refine pumpNear_ok ?_
  assumption

theorem receiveNear_ok {q : Claim} {l : List NearReq} {s : State} (h : Ok q s) : Ok q (receiveNear l s) := by
  unfold receiveNear
  refine pump_ok ?_
  refine ok_congr (s := s) ?_ rfl rfl rfl rfl
  assumption

theorem execStileWrite_ok {q : Claim} {r : Requester} {off : NearAt} {data : Bytes} {s : State} (h : Ok q s) : OkR q (execStileWrite r off data s) := by
  unfold execStileWrite
  split
  · refine ok_goes ?_
    assumption
  · refine ok_goes ?_
    refine receiveNear_ok ?_
    assumption

theorem execStileRead_ok {q : Claim} {r : Requester} {off : NearAt} {len : ℕ} {s : State} (h : Ok q s) : OkR q (execStileRead r off len s) := by
  unfold execStileRead
  refine ok_goes ?_
  refine receiveNear_ok ?_
  assumption

theorem staleFar_ok {q : Claim} {id : ℕ} {s : State} (h : Ok q s) : Ok q (staleFar id s) := by
  unfold staleFar
  refine raise_ok ?_
  refine ok_congr (s := s) ?_ rfl rfl rfl rfl
  assumption

theorem execFarCompletion_ok {q : Claim} {id : ℕ} {data : Bytes} {err : ℕ} {s : State} (h : Ok q s) : OkR q (execFarCompletion id data err s) := by
  unfold execFarCompletion
  split
  · refine ok_goes ?_
    refine staleFar_ok ?_
    assumption
  · split
    · refine ok_goes ?_
      refine pump_ok ?_
      refine failFar_ok ?_
      assumption
    · refine ok_goes ?_
      refine pump_ok ?_
      refine succeedFar_ok ?_
      assumption

theorem dropRequest_ok {q : Claim} {d : ℕ} {txn : ℕ} {epoch : ℕ} {s : State} (h : Ok q s) : Ok q (dropRequest d txn epoch s) := by
  unfold dropRequest
  extract_lets +onlyGivenNames x0
  extract_lets +onlyGivenNames x1
  refine setTransport_ok ?_
  assumption

theorem execFarTimeout_ok {q : Claim} {id : ℕ} {s : State} (h : Ok q s) : OkR q (execFarTimeout id s) := by
  unfold execFarTimeout
  split
  · refine ok_goes ?_
    assumption
  · refine ok_goes ?_
    refine pump_ok ?_
    refine failFar_ok ?_
    split
    · refine sendWaiting_ok ?_
      refine dropRequest_ok ?_
      assumption
    · assumption

theorem execPrefetchExpiry_ok {q : Claim} {g : ℕ} {s : State} (h : Ok q s) : OkR q (execPrefetchExpiry g s) := by
  unfold execPrefetchExpiry
  refine ok_goes ?_
  refine ok_congr (s := s) ?_ rfl rfl rfl rfl
  assumption

theorem takeControl_ok {q : Claim} {type : ℕ} {s : State} (h : Ok q s) : Ok q (takeControl type s) := by
  unfold takeControl
  split
  · refine ok_congr (s := s) ?_ rfl rfl rfl rfl
    assumption
  · assumption

theorem logServed_ok {q : Claim} {a0 : StileReq} {kind : ℕ} {s : State} (h : Ok q s) : Ok q (logServed a0 kind s) := by
  unfold logServed
  extract_lets +onlyGivenNames x0
  extract_lets +onlyGivenNames x1
  refine logRaise_ok ?_
  assumption

theorem performPiece_ok {q : Claim} {a0 : StileReq} {s : State} (h : Ok q s) : Ok q (performPiece a0 s).2.2.2 := by
  unfold performPiece
  extract_lets +onlyGivenNames x0
  extract_lets +onlyGivenNames x1
  have hx1 : ∀ a0 a1, Ok q a1 → Ok q (x1 a0 a1).2.2.2 := by
    intro y2 y3 y4
    dsimp -zeta only [x1]
    split
    · refine logServed_ok ?_
      assumption
    · assumption
  clear_value x1
  extract_lets +onlyGivenNames x5
  split
  · split
    · dsimp -zeta only
      refine writeRuns_ok ?_ ?_
      · intro z6
        intro z7
        intro z8
        intro z9
        dsimp -zeta only
        refine writeSemPage_ok ?_
        assumption
      · assumption
    · extract_lets +onlyGivenNames x10
      have hx10 : Ok q x10.2 := by
        unfold x10
        refine readRuns_ok ?_ ?_
        · intro z11
          intro z12
          intro z13
          intro z14
          refine readSemPage_ok ?_
          assumption
        · assumption
      clear_value x10
      dsimp -zeta only
      assumption
  · split
    · refine hx1 _ _ ?_
      assumption
    · extract_lets +onlyGivenNames x15
      extract_lets +onlyGivenNames x16
      split
      · refine hx1 _ _ ?_
        assumption
      · split
        · extract_lets +onlyGivenNames x17
          have hx17 : Ok q x17.2 := by
            unfold x17
            refine writeRuns_ok ?_ ?_
            · intro z18
              intro z19
              intro z20
              intro z21
              refine localWrite_ok ?_
              assumption
            · assumption
          clear_value x17
          extract_lets +onlyGivenNames x22
          have hx22 : Ok q x22 := by
            unfold x22
            refine dropKept_ok ?_
            assumption
          clear_value x22
          split
          · dsimp -zeta only
            assumption
          · refine hx1 _ _ ?_
            assumption
        · extract_lets +onlyGivenNames x23
          have hx23 : Ok q x23.2 := by
            unfold x23
            refine readRuns_ok ?_ ?_
            · intro z24
              intro z25
              intro z26
              intro z27
              refine localRead_ok ?_
              assumption
            · assumption
          clear_value x23
          extract_lets +onlyGivenNames x28
          extract_lets +onlyGivenNames x29
          have hx29 : Ok q x29.2 := by
            unfold x29
            split
            · dsimp -zeta only
              assumption
            · refine localRead_ok ?_
              assumption
          clear_value x29
          dsimp -zeta only
          assumption

theorem performPieces_ok {q : Claim} {a0 : StileReq} {n d : Nat} {s : State} (h : Ok q s) : Ok q (performPieces a0 n d s).2.2.2 := by
  induction n generalizing d s with
  | zero => exact h
  | succ n ih =>
    unfold performPieces
    extract_lets +onlyGivenNames x0 x1 x2 x3 x4
    have h4 : Ok q x4.2.2.2 := performPiece_ok h
    clear_value x4
    split
    · exact h4
    · exact ih h4

theorem performRequest_ok {q : Claim} {a0 : StileReq} {s : State} (h : Ok q s) : Ok q (performRequest a0 s).2.2.2 := by
  unfold performRequest
  split
  · dsimp -zeta only
    split
    · refine logServed_ok ?_
      assumption
    · assumption
  · extract_lets +onlyGivenNames x0
    have hx0 : Ok q x0.2.2.2 := by
      unfold x0
      refine performPieces_ok ?_
      assumption
    clear_value x0
    dsimp -zeta only
    assumption

theorem sendCpl_ok {q : Claim} {d : ℕ} {m : StileCpl} {s : State} (h : Ok q s) : Ok q (sendCpl d m s) := by
  unfold sendCpl
  refine sendControl_ok ?_
  assumption

theorem serveRequest_ok {q : Claim} {a0 : StileReq} {s : State} (h : Ok q s) : Ok q (serveRequest a0 s) := by
  unfold serveRequest
  extract_lets +onlyGivenNames x0
  have hx0 : Ok q x0.2.2.2 := by
    unfold x0
    refine performRequest_ok ?_
    assumption
  clear_value x0
  extract_lets +onlyGivenNames x1
  have hx1 : Ok q x1 := by
    unfold x1
    assumption
  clear_value x1
  extract_lets +onlyGivenNames x2
  extract_lets +onlyGivenNames x3
  have hx3 : Ok q x3 := by
    unfold x3
    refine setTransport_ok ?_
    assumption
  clear_value x3
  extract_lets +onlyGivenNames x4
  extract_lets +onlyGivenNames x5
  extract_lets +onlyGivenNames x6
  refine sendCpl_ok ?_
  refine setTransport_ok ?_
  assumption

theorem execStileRequest_ok {q : Claim} {a0 : StileReq} {s : State} (h : Ok q s) : OkR q (execStileRequest a0 s) := by
  unfold execStileRequest
  extract_lets +onlyGivenNames x0
  have hx0 : Ok q x0 := by
    unfold x0
    refine takeControl_ok ?_
    assumption
  clear_value x0
  extract_lets +onlyGivenNames x1
  extract_lets +onlyGivenNames x2
  split
  · refine ok_goes ?_
    refine serveRequest_ok ?_
    refine setTransport_ok ?_
    assumption
  · split
    · refine ok_goes ?_
      refine staleFar_ok ?_
      assumption
    · split
      · refine ok_goes ?_
        refine serveRequest_ok ?_
        assumption
      · split
        · refine ok_goes ?_
          refine sendCpl_ok ?_
          assumption
        · refine ok_goes ?_
          refine sendCpl_ok ?_
          assumption

theorem takeAck_ok {q : Claim} {m : StileCpl} {s : State} (h : Ok q s) : Ok q (takeAck m s) := by
  unfold takeAck
  extract_lets +onlyGivenNames x0
  split
  · assumption
  · extract_lets +onlyGivenNames x1
    refine sendWaiting_ok ?_
    refine setTransport_ok ?_
    assumption

theorem takeCpl_ok {q : Claim} {m : StileCpl} {s : State} (h : Ok q s) : Ok q (takeCpl m s) := by
  unfold takeCpl
  split
  · refine staleFar_ok ?_
    assumption
  · extract_lets +onlyGivenNames x0
    extract_lets +onlyGivenNames x1
    have hx1 : Ok q x1 := by
      unfold x1
      split
      · refine raise_ok ?_
        refine ok_congr (s := s) ?_ rfl rfl rfl rfl
        assumption
      · assumption
    clear_value x1
    split
    · refine failFar_ok ?_
      assumption
    · refine succeedFar_ok ?_
      assumption

theorem execStileCompletion_ok {q : Claim} {m : StileCpl} {s : State} (h : Ok q s) : OkR q (execStileCompletion m s) := by
  unfold execStileCompletion
  extract_lets +onlyGivenNames x0
  have hx0 : Ok q x0 := by
    unfold x0
    refine takeAck_ok ?_
    refine takeControl_ok ?_
    assumption
  clear_value x0
  refine ok_goes ?_
  refine pump_ok ?_
  split
  · refine takeCpl_ok ?_
    assumption
  · assumption

theorem execStileResend_ok {q : Claim} {peer : ℕ} {s : State} (h : Ok q s) : OkR q (execStileResend peer s) := by
  unfold execStileResend
  refine ok_goes ?_
  refine ok_foldl ?_ ?_
  · assumption
  · intro z0 z1 z2
    refine sendControl_ok ?_
    assumption

theorem newEpoch_ok {q : Claim} {d : ℕ} {s : State} (h : Ok q s) : Ok q (newEpoch d s) := by
  unfold newEpoch
  extract_lets +onlyGivenNames x0
  extract_lets +onlyGivenNames x1
  have hx1 : Ok q x1 := by
    unfold x1
    refine setTransport_ok ?_
    assumption
  clear_value x1
  refine pump_ok ?_
  refine ok_foldl ?_ ?_
  · assumption
  · intro z2 z3 z4
    refine failFar_ok ?_
    assumption

theorem execSemTake_ok {q : Claim} {r : Requester} {n : ℕ} {s : State} (h : Ok q s) : OkR q (execSemTake r n s) := by
  unfold execSemTake
  split
  · refine ok_goes ?_
    assumption
  · extract_lets +onlyGivenNames x0
    have hx0 : Ok q x0.2 := by
      unfold x0
      refine semTake_ok ?_
      assumption
    clear_value x0
    refine ok_goes ?_
    extract_lets +onlyGivenNames x1
    have hx1 : Ok q x1 := by
      unfold x1
      assumption
    clear_value x1
    refine ok_congr (s := x1) ?_ rfl rfl rfl rfl
    assumption

theorem execSemGive_ok {q : Claim} {r : Requester} {n : ℕ} {s : State} (h : Ok q s) : OkR q (execSemGive r n s) := by
  unfold execSemGive
  refine ok_goes ?_
  refine semGive_ok ?_
  assumption

theorem writeStileCtrl_ok {q : Claim} {v : BitVec 32} {s : State} (h : Ok q s) : Ok q (writeStileCtrl v s) := by
  unfold writeStileCtrl
  extract_lets +onlyGivenNames x0
  extract_lets +onlyGivenNames x1
  extract_lets +onlyGivenNames x2
  extract_lets +onlyGivenNames x3
  have hx3 : Ok q x3 := by
    unfold x3
    refine settleStrict_ok ?_
    refine ok_congr (s := s) ?_ rfl rfl rfl rfl
    assumption
  clear_value x3
  split
  · refine raise_ok ?_
    assumption
  · assumption

theorem execStileCtrl_ok {q : Claim} {v : BitVec 32} {s : State} (h : Ok q s) : OkR q (execStileCtrl v s) := by
  unfold execStileCtrl
  refine ok_goes ?_
  refine writeStileCtrl_ok ?_
  assumption

theorem writeRegion_ok {q : Claim} {g : ℕ} {reg : ℕ} {v : BitVec 32} {s : State} (h : Ok q s) : Ok q (writeRegion g reg v s) := by
  unfold writeRegion
  extract_lets +onlyGivenNames x0
  extract_lets +onlyGivenNames x1
  extract_lets +onlyGivenNames x2
  have hx2 : ∀ a0, Ok q (x2 a0) := by
    intro y3
    dsimp -zeta only [x2]
    refine ok_congr (s := s) ?_ rfl rfl rfl rfl
    assumption
  clear_value x2
  split
  · refine hx2 _
  · refine hx2 _
  · refine hx2 _
  · extract_lets +onlyGivenNames x4
    extract_lets +onlyGivenNames x5
    split
    · refine hx2 _
    · split
      · refine hx2 _
      · refine hx2 _

theorem execStileRegion_ok {q : Claim} {g : ℕ} {reg : ℕ} {v : BitVec 32} {s : State} (h : Ok q s) : OkR q (execStileRegion g reg v s) := by
  unfold execStileRegion
  refine ok_goes ?_
  refine pump_ok ?_
  refine writeRegion_ok ?_
  assumption

theorem execStileErrlogValid_ok {q : Claim} {e : ℕ} {s : State} (h : Ok q s) : OkR q (execStileErrlogValid e s) := by
  unfold execStileErrlogValid
  refine ok_goes ?_
  refine ok_congr (s := s) ?_ rfl rfl rfl rfl
  assumption


end Sys2Proof.Machine
end

