-- ==== Sys2Proof/Laws/Keeps/Host.lean ====
section
/-! SUPPORT. Every function of Machine/Host.lean that answers a state keeps the invariant and the queue. -/

namespace Sys2Proof.Machine

theorem forBits_ok {q : Claim} {v : BitVec 64} {f : ℕ → State → State} {s : State} (h : ∀ b0 b1, Ok q b1 → Ok q (f b0 b1)) (h1 : Ok q s) : Ok q (forBits v f s) := by
  unfold forBits
  refine ok_foldl ?_ ?_
  · assumption
  · intro z0 z1 z2
    refine h _ _ ?_
    assumption

theorem clearPending_ok {q : Claim} {v : BitVec 64} {same : BitVec 64} {s : State} (h : Ok q s) : Ok q (clearPending v same s) := by
  unfold clearPending
  extract_lets +onlyGivenNames x0
  refine ok_events (s := s) ?_ rfl ?_ rfl rfl rfl
  · assumption
  · exact fun _ => settle_intn _

theorem execEvPending_ok {q : Claim} {v : BitVec 64} {same : BitVec 64} {s : State} (h : Ok q s) : OkR q (execEvPending v same s) := by
  unfold execEvPending
  refine ok_goes ?_
  refine clearPending_ok ?_
  assumption

theorem writeEnable_ok {q : Claim} {v : BitVec 64} {en : BitVec 64} {s : State} (h : Ok q s) : Ok q (writeEnable v en s) := by
  unfold writeEnable
  extract_lets +onlyGivenNames x0
  extract_lets +onlyGivenNames x1
  extract_lets +onlyGivenNames x2
  extract_lets +onlyGivenNames x3
  have hx3 : Ok q x3 := by
    unfold x3
    refine ok_events (s := s) ?_ rfl ?_ rfl rfl rfl
    · assumption
    · exact fun _ => settle_intn _
  clear_value x3
  refine forBits_ok ?_ ?_
  · intro z4 z5 z6
    refine deliver_ok ?_
    assumption
  · assumption

theorem execEvEnable_ok {q : Claim} {v : BitVec 64} {en : BitVec 64} {s : State} (h : Ok q s) : OkR q (execEvEnable v en s) := by
  unfold execEvEnable
  refine ok_goes ?_
  refine writeEnable_ok ?_
  assumption

theorem writeRoute_ok {q : Claim} {v : BitVec 64} {en : BitVec 64} {s : State} (h : Ok q s) : Ok q (writeRoute v en s) := by
  unfold writeRoute
  refine ok_events (s := s) ?_ rfl ?_ rfl rfl rfl
  · assumption
  · exact fun _ => settle_intn _

theorem execCoalescingWindowEnd_ok {q : Claim} {n : ℕ} {s : State} (h : Ok q s) : OkR q (execCoalescingWindowEnd n s) := by
  unfold execCoalescingWindowEnd
  extract_lets +onlyGivenNames x0
  split
  · refine ok_goes ?_
    assumption
  · extract_lets +onlyGivenNames x1
    extract_lets +onlyGivenNames x2
    extract_lets +onlyGivenNames x3
    have hx3 : Ok q x3 := by
      unfold x3
      refine ok_events (s := s) ?_ rfl ?_ rfl rfl rfl
      · assumption
      · exact fun w => intn_congr w rfl rfl rfl rfl
    clear_value x3
    refine ok_goes ?_
    split
    · refine setPending_ok ?_
      assumption
    · assumption

theorem flushPba_ok {q : Claim} {s : State} (h : Ok q s) : Ok q (flushPba s) := by
  unfold flushPba
  split
  · assumption
  · extract_lets +onlyGivenNames x0
    refine forBits_ok ?_ ?_
    · intro z1 z2 z3
      refine emit_ok ?_
      assumption
    · refine ok_events (s := s) ?_ rfl ?_ rfl rfl rfl
      · assumption
      · exact fun w => intn_congr w rfl rfl rfl rfl

theorem execMsiXEnable_ok {q : Claim} {en : Bool} {fnMask : Bool} {s : State} (h : Ok q s) : OkR q (execMsiXEnable en fnMask s) := by
  unfold execMsiXEnable
  extract_lets +onlyGivenNames x0
  extract_lets +onlyGivenNames x1
  extract_lets +onlyGivenNames x2
  have hx2 : Ok q x2 := by
    unfold x2
    refine ok_events (s := s) ?_ rfl ?_ rfl rfl rfl
    · assumption
    · exact fun w => intn_congr w rfl rfl rfl rfl
  clear_value x2
  refine ok_goes ?_
  refine flushPba_ok ?_
  split
  · refine forBits_ok ?_ ?_
    · intro z3 z4 z5
      refine sendVector_ok ?_
      assumption
    · assumption
  · assumption

theorem maskVector_ok {q : Claim} {n : ℕ} {m : Bool} {s : State} (h : Ok q s) : Ok q (maskVector n m s) := by
  unfold maskVector
  extract_lets +onlyGivenNames x0
  refine flushPba_ok ?_
  refine ok_events (s := s) ?_ rfl ?_ rfl rfl rfl
  · assumption
  · exact fun w => intn_congr w rfl rfl rfl rfl

theorem execMsiXUnmask_ok {q : Claim} {v : Option ℕ} {s : State} (h : Ok q s) : OkR q (execMsiXUnmask v s) := by
  unfold execMsiXUnmask
  split
  · refine ok_goes ?_
    refine maskVector_ok ?_
    assumption
  · refine ok_goes ?_
    refine flushPba_ok ?_
    refine ok_events (s := s) ?_ rfl ?_ rfl rfl rfl
    · assumption
    · exact fun w => intn_congr w rfl rfl rfl rfl

theorem writeSnap_ok {q : Claim} {capture : Bool} {arm : Bool} {s : State} (h : Ok q s) : Ok q (writeSnap capture arm s) := by
  unfold writeSnap
  split
  · refine takeSnapshot_ok ?_
    refine ok_congr (s := s) ?_ rfl rfl rfl rfl
    assumption
  · split
    · refine ok_congr (s := s) ?_ rfl rfl rfl rfl
      assumption
    · refine ok_congr (s := s) ?_ rfl rfl rfl rfl
      assumption

theorem execCapture_ok {q : Claim} {arm : Bool} {s : State} (h : Ok q s) : OkR q (execCapture arm s) := by
  unfold execCapture
  refine ok_goes ?_
  refine writeSnap_ok ?_
  assumption

theorem execArmPps_ok {q : Claim} {v : Bool} {s : State} (h : Ok q s) : OkR q (execArmPps v s) := by
  unfold execArmPps
  refine ok_goes ?_
  refine writeSnap_ok ?_
  assumption

theorem queueError_ok {q : Claim} {a0 : ℕ} {cause : ℕ} {s : State} (h : Ok q s) : Ok q (queueError a0 cause s) := by
  unfold queueError
  refine raise_ok ?_
  refine setQueue_ok ?_
  assumption

theorem loadTail_ok {q : Claim} {a0 : ℕ} {v : ℕ} {s : State} (h : Ok q s) : Ok q (loadTail a0 v s) := by
  unfold loadTail
  extract_lets +onlyGivenNames x0
  split
  · refine queueError_ok ?_
    assumption
  · refine setQueue_ok ?_
    assumption

theorem doorbell_ok {q : Claim} {i : Iface} {a1 : ℕ} {v : BitVec 32} {s : State} (h : Ok q s) : Ok q (doorbell i a1 v s) := by
  unfold doorbell
  split
  · refine queueError_ok ?_
    assumption
  · split
    · refine queueError_ok ?_
      assumption
    · extract_lets +onlyGivenNames x0
      have hx0 : Ok q x0 := by
        unfold x0
        split
        · refine loadTail_ok ?_
          assumption
        · assumption
      clear_value x0
      refine qualify_ok ?_
      refine cancelOnDoorbell_ok ?_
      refine setQueue_ok ?_
      assumption

theorem execMqnDoorbell_ok {q : Claim} {i : Iface} {a1 : ℕ} {v : BitVec 32} {s : State} (h : Ok q s) : OkR q (execMqnDoorbell i a1 v s) := by
  unfold execMqnDoorbell
  refine ok_goes ?_
  refine doorbell_ok ?_
  assumption

theorem loadRspHead_ok {q : Claim} {a0 : ℕ} {v : ℕ} {s : State} (h : Ok q s) : Ok q (loadRspHead a0 v s) := by
  unfold loadRspHead
  extract_lets +onlyGivenNames x0
  split
  · refine queueError_ok ?_
    assumption
  · split
    · refine queueError_ok ?_
      assumption
    · refine setQueue_ok ?_
      assumption

theorem execMqnRspHead_ok {q : Claim} {a0 : Iface} {a1 : ℕ} {v : ℕ} {s : State} (h : Ok q s) : OkR q (execMqnRspHead a0 a1 v s) := by
  unfold execMqnRspHead
  refine ok_goes ?_
  refine loadRspHead_ok ?_
  assumption

theorem loadRingTail_ok {q : Claim} {i : Iface} {ring : ℕ} {v : ℕ} {s : State} (h : Ok q s) : Ok q (loadRingTail i ring v s) := by
  unfold loadRingTail
  split
  · split
    · refine ok_congr (s := s) ?_ rfl rfl rfl rfl
      assumption
    · extract_lets +onlyGivenNames x0
      extract_lets +onlyGivenNames x1
      refine ok_congr (s := s) ?_ rfl rfl rfl rfl
      assumption
  · assumption

theorem execRingTail_ok {q : Claim} {i : Iface} {ring : ℕ} {v : ℕ} {s : State} (h : Ok q s) : OkR q (execRingTail i ring v s) := by
  unfold execRingTail
  refine ok_goes ?_
  refine loadRingTail_ok ?_
  assumption

theorem holdRead_ok {q : Claim} {r : Requester} {a : ℕ} {n : ℕ} {s : State} (h : Ok q s) : Ok q (holdRead r a n s).2 := by
  induction n generalizing a s with
  | zero => exact h
  | succ n ih =>
    unfold holdRead
    split
    · refine ih ?_
      split
      · exact semTake_ok h
      · exact h
    · exact ih h

theorem writeQueueReg_ok {q : Claim} {i : Iface} {a1 : ℕ} {w : ℕ} {m : BitVec 32} {v : BitVec 32} {s : State} (h : Ok q s) : Ok q (writeQueueReg i a1 w m v s) := by
  unfold writeQueueReg
  split
  · refine queueError_ok ?_
    assumption
  · split
    · split
      · refine loadTail_ok ?_
        assumption
      · assumption
    · refine doorbell_ok ?_
      assumption
    · split
      · refine loadRspHead_ok ?_
        assumption
      · assumption
    · split
      · refine setQueue_ok ?_
        assumption
      · assumption
    · assumption

theorem writeWord_ok {q : Claim} {i : Iface} {w : ℕ} {m : BitVec 32} {v : BitVec 32} {s : State} (h : Ok q s) : Ok q (writeWord i w m v s) := by
  unfold writeWord
  extract_lets +onlyGivenNames o
  clear_value o
  refine ok_ite (ok_ite (writeSnap_ok h) h) (ok_ite (clearPending_ok h) (ok_ite (writeEnable_ok h) (ok_ite (writeRoute_ok h)
    (ok_ite (writeQueueReg_ok h) (ok_ite (writeStileCtrl_ok h) (ok_ite (ok_ite (ok_congr h rfl rfl rfl rfl) h)
    (ok_ite (ok_ite (semGive_ok h) h) (ok_ite (pump_ok (writeRegion_ok h)) (ok_ite (ok_ite (ok_congr h rfl rfl rfl rfl) h)
    (ok_ite ?_ h))))))))))
  extract_lets +onlyGivenNames n
  clear_value n
  exact ok_ite (ok_ite h (loadRingTail_ok h)) (ok_ite (ok_ite (ok_congr h rfl rfl rfl rfl) h) h)

theorem writeSlot_ok {q : Claim} {a : ℕ} {d : Bytes} {s : State} (h : Ok q s) : Ok q (writeSlot a d s) := by
  unfold writeSlot
  extract_lets +onlyGivenNames x
  clear_value x
  split
  · exact queueError_ok h
  · split
    · exact ok_memories (s := s) h rfl rfl id (fun w => mwrite_wf w)
    · exact h

theorem writeMsix_ok {q : Claim} {a : ℕ} {b : Byte} {s : State} (h : Ok q s) : Ok q (writeMsix a b s) := by
  have h' : Ok q { s with ev.msixTable := mset a (if a % 16 = 12 then b &&& 0xFE#8 else b) s.ev.msixTable } := 
    ok_parts (s := s) h rfl id id id (fun w => mset_wf w)
  exact ok_ite (maskVector_ok h') h'

theorem writeRegs_ok {q : Claim} {i : Iface} {off : ℕ} {d : Bytes} {s : State} (h : Ok q s) : Ok q (writeRegs i off d s) := by
  unfold writeRegs
  split
  · exact h
  · exact ok_foldl h (fun s a hs => writeWord_ok hs)

theorem holdWrite_ok {q : Claim} {i : Iface} {off : ℕ} {d : Bytes} {s : State} (h : Ok q s) : Ok q (holdWrite i off d s) := by
  unfold holdWrite
  extract_lets +onlyGivenNames x0
  extract_lets +onlyGivenNames x1
  extract_lets +onlyGivenNames x2
  have hx2 : Ok q x2 := by
    unfold x2
    refine writeRegs_ok ?_
    assumption
  clear_value x2
  extract_lets +onlyGivenNames x3
  extract_lets +onlyGivenNames x4
  have hx4 : Ok q x4 := by
    unfold x4
    refine ok_foldl ?_ ?_
    · assumption
    · intro z5 z6 z7
      extract_lets +onlyGivenNames x8
      extract_lets +onlyGivenNames x9
      extract_lets +onlyGivenNames x10
      split
      · refine writeSlot_ok ?_
        assumption
      · assumption
  clear_value x4
  extract_lets +onlyGivenNames x11
  refine ok_foldl ?_ ?_
  · assumption
  · intro z12 z13 z14
    refine writeMsix_ok ?_
    assumption

theorem execHoldWindowWrite_ok {q : Claim} {i : Iface} {off : NearAt} {data : Bytes} {s : State} (h : Ok q s) : OkR q (execHoldWindowWrite i off data s) := by
  unfold execHoldWindowWrite
  refine ok_goes ?_
  refine writeRuns_ok ?_ ?_
  · intro z0
    intro z1
    intro z2
    intro z3
    dsimp -zeta only
    refine holdWrite_ok ?_
    assumption
  · assumption

theorem portRc_ok (p : Nat) : RcOk (portRc p) :=
  ⟨fun _ _ s h => ok_congr (s := s) h rfl rfl rfl rfl, fun _ _ _ s h => ok_congr (s := s) h rfl rfl rfl rfl⟩

theorem execStatisticsRead_ok {q : Claim} {p : ℕ} {idx : ℕ} {part : StatPart} {s : State} (h : Ok q s) : OkR q (execStatisticsRead p idx part s) := by
  unfold execStatisticsRead
  extract_lets +onlyGivenNames n
  clear_value n
  split
  · exact ok_goes (ok_congr (s := s) h rfl rfl rfl rfl)
  · exact ok_goes (ok_congr (s := (rcRead (portRc p) (8 * idx + n.1) n.2 s).2) (rcRead_ok (portRc_ok p) h) rfl rfl rfl rfl)

theorem xspiError_ok {q : Claim} {s : State} (h : Ok q s) : Ok q (xspiError s) := by
  unfold xspiError
  refine raise_ok ?_
  assumption

theorem xspiBytes_ok {q : Claim} {a : ℕ} {len : ℕ} {s : State} (h : Ok q s) : Ok q (xspiBytes a len s).2 := by
  unfold xspiBytes
  extract_lets +onlyGivenNames x0
  extract_lets +onlyGivenNames x1
  extract_lets +onlyGivenNames x2
  extract_lets +onlyGivenNames x3
  extract_lets +onlyGivenNames x4
  have hx4 : Ok q x4.2 := by
    unfold x4
    split
    · dsimp -zeta only
      assumption
    · refine holdRead_ok ?_
      assumption
  clear_value x4
  dsimp -zeta only
  assumption

theorem execXspiRead_ok {q : Claim} {addr : ℕ} {len : ℕ} {clkPs : ℕ} {broken : Bool} {s : State} (h : Ok q s) : OkR q (execXspiRead addr len clkPs broken s) := by
  unfold execXspiRead
  split
  · refine ok_goes ?_
    extract_lets +onlyGivenNames x0
    have hx0 : Ok q x0 := by
      unfold x0
      refine xspiError_ok ?_
      assumption
    clear_value x0
    refine ok_congr (s := x0) ?_ rfl rfl rfl rfl
    assumption
  · extract_lets +onlyGivenNames x1
    have hx1 : Ok q x1.2 := by
      unfold x1
      refine xspiBytes_ok ?_
      assumption
    clear_value x1
    refine ok_goes ?_
    extract_lets +onlyGivenNames x2
    have hx2 : Ok q x2 := by
      unfold x2
      assumption
    clear_value x2
    refine ok_congr (s := x2) ?_ rfl rfl rfl rfl
    assumption

theorem xspiPut_ok {q : Claim} {a : ℕ} {d : Bytes} {s : State} (h : Ok q s) : Ok q (xspiPut a d s) := by
  unfold xspiPut
  extract_lets +onlyGivenNames w lo b t
  have ht : Ok q t := by
    unfold t
    split
    · exact h
    · exact holdWrite_ok h
  clear_value t
  split
  · exact ht
  · exact ok_memories (s := t) ht rfl rfl (fun w => mwrite_wf w) id

theorem execXspiWrite_ok {q : Claim} {addr : ℕ} {data : Bytes} {broken : Bool} {s : State} (h : Ok q s) : OkR q (execXspiWrite addr data broken s) := by
  unfold execXspiWrite
  split
  · refine ok_goes ?_
    refine xspiError_ok ?_
    assumption
  · extract_lets +onlyGivenNames x0
    extract_lets +onlyGivenNames x1
    have hx1 : Ok q x1 := by
      unfold x1
      refine xspiPut_ok ?_
      assumption
    clear_value x1
    refine ok_goes ?_
    split
    · refine xspiError_ok ?_
      assumption
    · assumption

theorem execXspiReadConfiguration_ok {q : Claim} {s : State} (h : Ok q s) : OkR q (execXspiReadConfiguration s) := by
  unfold execXspiReadConfiguration
  refine ok_goes ?_
  refine ok_congr (s := s) ?_ rfl rfl rfl rfl
  assumption

theorem execXspiWriteConfiguration_ok {q : Claim} {v : BitVec 32} {s : State} (h : Ok q s) : OkR q (execXspiWriteConfiguration v s) := by
  unfold execXspiWriteConfiguration
  extract_lets +onlyGivenNames x0
  extract_lets +onlyGivenNames x1
  extract_lets +onlyGivenNames x2
  extract_lets +onlyGivenNames x3
  have hx3 : Ok q x3 := by
    unfold x3
    refine ok_congr (s := s) ?_ rfl rfl rfl rfl
    assumption
  clear_value x3
  refine ok_goes ?_
  split
  · assumption
  · refine xspiError_ok ?_
    assumption

theorem execXspiReadIdentification_ok {q : Claim} {s : State} (h : Ok q s) : OkR q (execXspiReadIdentification s) := by
  unfold execXspiReadIdentification
  refine ok_goes ?_
  refine ok_congr (s := s) ?_ rfl rfl rfl rfl
  assumption

theorem execXspiReset_ok {q : Claim} {s : State} (h : Ok q s) : OkR q (execXspiReset s) := by
  unfold execXspiReset
  refine ok_goes ?_
  refine freeSems_ok ?_
  refine ok_congr (s := s) ?_ rfl rfl rfl rfl
  assumption

theorem execXspiUnknownCommand_ok {q : Claim} {x : XspiUnknown} {s : State} (h : Ok q s) : OkR q (execXspiUnknownCommand x s) := by
  unfold execXspiUnknownCommand
  refine ok_goes ?_
  extract_lets +onlyGivenNames x0
  have hx0 : Ok q x0 := by
    unfold x0
    refine xspiError_ok ?_
    assumption
  clear_value x0
  refine ok_congr (s := x0) ?_ rfl rfl rfl rfl
  assumption

theorem execPoisonedTlp_ok {q : Claim} {bar : ℕ} {s : State} (h : Ok q s) : OkR q (execPoisonedTlp bar s) := by
  unfold execPoisonedTlp
  split
  · refine ok_goes ?_
    refine ok_congr (s := s) ?_ rfl rfl rfl rfl
    assumption
  · refine ok_goes ?_
    assumption

theorem execUnsupportedRequest_ok {q : Claim} {addr : ℕ} {s : State} (h : Ok q s) : OkR q (execUnsupportedRequest addr s) := by
  unfold execUnsupportedRequest
  refine ok_goes ?_
  refine emit_ok ?_
  refine ok_congr (s := s) ?_ rfl rfl rfl rfl
  assumption

theorem pauseRings_ok {q : Claim} {s : State} (h : Ok q s) : Ok q (pauseRings s) := by
  unfold pauseRings
  refine ok_foldl ?_ ?_
  · assumption
  · intro z0 z1 z2
    split
    · split
      · assumption
      · refine ringDrop_ok ?_
        refine ok_congr (s := z0) ?_ rfl rfl rfl rfl
        assumption
    · assumption

theorem afterDma_ok {q : Claim} {was : Bool} {s : State} (h : Ok q s) : Ok q (afterDma was s) := by
  unfold afterDma
  split
  · refine pauseRings_ok ?_
    assumption
  · assumption

theorem execPcieLinkChange_ok {q : Claim} {up : Bool} {rate : ℕ} {width : ℕ} {s : State} (h : Ok q s) : OkR q (execPcieLinkChange up rate width s) := by
  unfold execPcieLinkChange
  split
  · refine ok_goes ?_
    assumption
  · split
    · refine ok_goes ?_
      assumption
    · extract_lets +onlyGivenNames x0
      extract_lets +onlyGivenNames x1
      extract_lets +onlyGivenNames x2
      have hx2 : Ok q x2 := by
        unfold x2
        refine ok_congr (s := s) ?_ rfl rfl rfl rfl
        assumption
      clear_value x2
      extract_lets +onlyGivenNames x3
      have hx3 : Ok q x3 := by
        unfold x3
        refine raise_ok ?_
        assumption
      clear_value x3
      refine ok_goes ?_
      split
      · refine pauseRings_ok ?_
        refine freeSems_ok ?_
        assumption
      · assumption

theorem execBusMasterEnable_ok {q : Claim} {v : Bool} {s : State} (h : Ok q s) : OkR q (execBusMasterEnable v s) := by
  unfold execBusMasterEnable
  refine ok_goes ?_
  refine afterDma_ok ?_
  refine ok_congr (s := s) ?_ rfl rfl rfl rfl
  assumption

theorem execD3hot_ok {q : Claim} {v : Bool} {s : State} (h : Ok q s) : OkR q (execD3hot v s) := by
  unfold execD3hot
  refine ok_goes ?_
  refine afterDma_ok ?_
  refine ok_congr (s := s) ?_ rfl rfl rfl rfl
  assumption


end Sys2Proof.Machine
end

