-- ==== Sys2Proof/Laws/Keeps/Rings.lean ====
section
/-! SUPPORT. Every function of Machine/Rings.lean that answers a state keeps the invariant and the queue. -/

namespace Sys2Proof.Machine

theorem setRing_ok {q : Claim} {n : ℕ} {v : Ring} {s : State} (h : Ok q s) : Ok q (setRing n v s) := by
  unfold setRing
  refine ok_congr (s := s) ?_ rfl rfl rfl rfl
  assumption

theorem notify_ok {q : Claim} {n : ℕ} {s : State} (h : Ok q s) : Ok q (notify n s) := by
  unfold notify
  extract_lets +onlyGivenNames x0
  split
  · refine emit_ok ?_
    refine setRing_ok ?_
    assumption
  · assumption

theorem ringCompleted_ok {q : Claim} {n : ℕ} {err : Bool} {s : State} (h : Ok q s) : Ok q (ringCompleted n err s) := by
  unfold ringCompleted
  extract_lets +onlyGivenNames x0
  extract_lets +onlyGivenNames x1
  extract_lets +onlyGivenNames x2
  extract_lets +onlyGivenNames x3
  have hx3 : Ok q x3 := by
    unfold x3
    refine setRing_ok ?_
    assumption
  clear_value x3
  extract_lets +onlyGivenNames x4
  have hx4 : Ok q x4 := by
    unfold x4
    split
    · refine emit_ok ?_
      assumption
    · assumption
  clear_value x4
  split
  · refine notify_ok ?_
    assumption
  · assumption

theorem execModerationTimeLimit_ok {q : Claim} {ring : ℕ} {s : State} (h : Ok q s) : OkR q (execModerationTimeLimit ring s) := by
  unfold execModerationTimeLimit
  refine ok_goes ?_
  split
  · refine notify_ok ?_
    assumption
  · assumption

theorem emptyRing_ok {q : Claim} {n : ℕ} {s : State} (h : Ok q s) : Ok q (emptyRing n s) := by
  unfold emptyRing
  extract_lets +onlyGivenNames x0
  extract_lets +onlyGivenNames x1
  have hx1 : Ok q x1 := by
    unfold x1
    split
    · refine ringDrop_ok ?_
      refine ok_congr (s := s) ?_ rfl rfl rfl rfl
      assumption
    · assumption
  clear_value x1
  refine ok_foldl ?_ ?_
  · assumption
  · intro z2 z3 z4
    refine ok_foldl ?_ ?_
    · refine ok_congr (s := z2) ?_ rfl rfl rfl rfl
      assumption
    · intro z5 z6 z7
      refine ringDrop_ok ?_
      assumption

theorem stopRing_ok {q : Claim} {n : ℕ} {cause : ℕ} {s : State} (h : Ok q s) : Ok q (stopRing n cause s) := by
  unfold stopRing
  extract_lets +onlyGivenNames x0
  have hx0 : Ok q x0 := by
    unfold x0
    split
    · refine emptyRing_ok ?_
      assumption
    · assumption
  clear_value x0
  extract_lets +onlyGivenNames x1
  refine setRing_ok ?_
  assumption

theorem actRingCreate_ok {q : Claim} {c : Call} {a1 : ℕ} {s : State} (h : Ok q s) : OkW q (actRingCreate c a1 s) := by
  unfold actRingCreate
  extract_lets +onlyGivenNames x0
  extract_lets +onlyGivenNames x1
  extract_lets +onlyGivenNames x2
  split
  · refine okw_mk ?_ ?_
    · dsimp -zeta only
      assumption
    · intro z3
      intro z4
      dsimp -zeta only
      dsimp -zeta only [id]
      assumption
  · split
    · refine okw_mk ?_ ?_
      · dsimp -zeta only
        assumption
      · intro z5
        intro z6
        dsimp -zeta only
        dsimp -zeta only [id]
        assumption
    · refine okw_mk ?_ ?_
      · dsimp -zeta only
        refine setRing_ok ?_
        assumption
      · intro z7
        intro z8
        dsimp -zeta only
        dsimp -zeta only [id]
        assumption

theorem cmdRingCreate_ok : CmdOk cmdRingCreate := by
  intro q c n s h
  unfold cmdRingCreate
  dsimp -zeta only
  refine actRingCreate_ok ?_
  assumption

theorem execRingCreate_ok {q : Claim} {c : Call} {s : State} (h : Ok q s) : OkR q (execRingCreate c s) := by
  unfold execRingCreate
  refine ok_goes ?_
  refine serve_ok ?_ ?_
  · refine cmdRingCreate_ok
  · assumption

theorem actRingDestroy_ok {q : Claim} {c : Call} {a1 : ℕ} {s : State} (h : Ok q s) : OkW q (actRingDestroy c a1 s) := by
  unfold actRingDestroy
  extract_lets +onlyGivenNames x0
  split
  · refine okw_mk ?_ ?_
    · dsimp -zeta only
      assumption
    · intro z1 z2
      dsimp -zeta only
      dsimp -zeta only [id]
      assumption
  · split
    · refine okw_mk ?_ ?_
      · dsimp -zeta only
        assumption
      · intro z3 z4
        dsimp -zeta only
        dsimp -zeta only [id]
        assumption
    · extract_lets +onlyGivenNames x5
      have hx5 : Ok q x5 := by
        unfold x5
        refine stopRing_ok ?_
        assumption
      clear_value x5
      refine okw_mk ?_ ?_
      · dsimp -zeta only
        refine ok_congr (s := x5) ?_ rfl rfl rfl rfl
        assumption
      · intro z6 z7
        dsimp -zeta only
        dsimp -zeta only [id]
        assumption

theorem cmdRingDestroy_ok : CmdOk cmdRingDestroy := by
  intro q c n s h
  unfold cmdRingDestroy
  dsimp -zeta only
  refine actRingDestroy_ok ?_
  assumption

theorem execRingDestroy_ok {q : Claim} {c : Call} {s : State} (h : Ok q s) : OkR q (execRingDestroy c s) := by
  unfold execRingDestroy
  refine ok_goes ?_
  refine serve_ok ?_ ?_
  · refine cmdRingDestroy_ok
  · assumption

theorem actModeration_ok {q : Claim} {c : Call} {a1 : ℕ} {s : State} (h : Ok q s) : OkW q (actModeration c a1 s) := by
  unfold actModeration
  split
  · refine okw_mk ?_ ?_
    · dsimp -zeta only
      assumption
    · intro z0 z1
      dsimp -zeta only
      dsimp -zeta only [id]
      assumption
  · refine okw_mk ?_ ?_
    · dsimp -zeta only
      refine setRing_ok ?_
      assumption
    · intro z2 z3
      dsimp -zeta only
      dsimp -zeta only [id]
      assumption

theorem cmdRingModeration_ok : CmdOk cmdRingModeration := by
  intro q c n s h
  unfold cmdRingModeration
  dsimp -zeta only
  refine actModeration_ok ?_
  assumption

theorem execRingModeration_ok {q : Claim} {c : Call} {s : State} (h : Ok q s) : OkR q (execRingModeration c s) := by
  unfold execRingModeration
  refine ok_goes ?_
  refine serve_ok ?_ ?_
  · refine cmdRingModeration_ok
  · assumption

theorem hostEnter_ok {q : Claim} {r : Rec} {s : State} (h : Ok q s) : Ok q (hostEnter r s).2 := by
  unfold hostEnter
  split
  · dsimp -zeta only
    split
    · assumption
    · refine raise_ok ?_
      refine countRow_ok ?_
      assumption
  · dsimp -zeta only
    refine finishRec_ok ?_
    assumption

theorem takeNewest_ok {q : Claim} {n : ℕ} {s : State} (h : Ok q s) : Ok q (takeNewest n s).2 := by
  induction n generalizing s with
  | zero => exact h
  | succ n ih =>
    unfold takeNewest
    extract_lets +onlyGivenNames d
    clear_value d
    split
    · rename_i r _
      split
      · exact h
      · have hx : Ok q (takeForDone .pcie (d.length - 1) r s) := takeForDone_ok h
        extract_lets +onlyGivenNames y
        change Ok q y at hx
        clear_value y
        split
        · exact hx
        · exact ih hx
    · exact h

theorem issueSegments_ok {q : Claim} {stamp : ℕ} {carried : Bool} {req : Option (ℕ × ℕ)} {l : List Bytes} {s : State} (h : Ok q s) :
    Ok q (issueSegments stamp carried req l s).2.2 := by
  unfold issueSegments
  refine ok_foldl_of (π := fun a : Nat × Nat × State => a.2.2) h ?_
  intro a e ha
  extract_lets +onlyGivenNames r x t
  have hx : Ok q x.2 := hostEnter_ok ha
  have ht : Ok q t.2 := by
    unfold t
    split
    · exact takeNewest_ok hx
    · exact hx
  clear_value t
  by_cases hc : t.1 = true
  · rw [if_pos hc]
    exact ht
  · rw [if_neg hc]
    exact ht

theorem hostSentence_ok {q : Claim} {r : ℕ} {key : ℕ} {stamp : ℕ} {carried : Bool} {d : Bytes} {s : State} (h : Ok q s) : Ok q (hostSentence r key stamp carried d s) := by
  unfold hostSentence
  split
  · refine countRow_ok ?_
    assumption
  · extract_lets +onlyGivenNames x0
    refine hostEnter_ok ?_
    assumption

theorem issueItem_ok {q : Claim} {n : ℕ} {endIdx : ℕ} {a2 : Bytes} {d : Bytes} {s : State} (h : Ok q s) : Ok q (issueItem n endIdx a2 d s).st := by
  unfold issueItem
  extract_lets +onlyGivenNames x0
  extract_lets +onlyGivenNames x1
  extract_lets +onlyGivenNames x2
  extract_lets +onlyGivenNames x3
  extract_lets +onlyGivenNames x4
  split
  · split
    · dsimp -zeta only
      assumption
    · split
      · split
        · dsimp -zeta only
          assumption
        · extract_lets +onlyGivenNames x5
          have hx5 : Ok q x5.2.2 := by
            unfold x5
            refine issueSegments_ok ?_
            assumption
          clear_value x5
          dsimp -zeta only
          assumption
      · split
        · dsimp -zeta only
          assumption
        · dsimp -zeta only
          refine hostEnter_ok ?_
          assumption
  · split
    · dsimp -zeta only
      assumption
    · split
      · dsimp -zeta only
        assumption
      · split
        · dsimp -zeta only
          assumption
        · dsimp -zeta only
          refine hostSentence_ok ?_
          assumption

theorem writeBackTx_ok {q : Claim} {v : Ring} {descs : List Bytes} {bits : ℕ} {seg : Option (ℕ × ℕ)} {s : State} (h : Ok q s) : Ok q (writeBackTx v descs bits seg s) := by
  unfold writeBackTx
  refine ok_foldl ?_ ?_
  · assumption
  · intro z0 z1 z2
    extract_lets +onlyGivenNames x3
    refine emit_ok ?_
    assumption

theorem bufferParity_ok {q : Claim} {ring : ℕ} {dma : DmaOutcome} {s : State} (h : Ok q s) : Ok q (bufferParity ring dma s) := by
  unfold bufferParity
  split
  · refine raiseD_ok ?_
    assumption
  · assumption

theorem execTransmitItemFetch_ok {q : Claim} {ring : ℕ} {descs : List Bytes} {data : Bytes} {dma : DmaOutcome} {s : State} (h : Ok q s) : OkR q (execTransmitItemFetch ring descs data dma s) := by
  unfold execTransmitItemFetch
  split
  · refine ok_goes ?_
    assumption
  · extract_lets +onlyGivenNames x0
    extract_lets +onlyGivenNames x1
    split
    · refine ok_goes ?_
      assumption
    · extract_lets +onlyGivenNames x2
      have hx2 : ∀ a0, Ok q a0 → Ok q (x2 a0) := by
        intro y3 y4
        dsimp -zeta only [x2]
        refine setRing_ok ?_
        assumption
      clear_value x2
      split
      · refine ok_goes ?_
        refine ringCompleted_ok ?_
        refine stopRing_ok ?_
        refine hx2 _ ?_
        refine writeBackTx_ok ?_
        refine bufferParity_ok ?_
        assumption
      · split
        · refine ok_goes ?_
          refine ringCompleted_ok ?_
          refine hx2 _ ?_
          refine writeBackTx_ok ?_
          assumption
        · split
          · refine ok_goes ?_
            refine ringCompleted_ok ?_
            refine stopRing_ok ?_
            refine hx2 _ ?_
            refine writeBackTx_ok ?_
            assumption
          · extract_lets +onlyGivenNames x5
            extract_lets +onlyGivenNames x6
            extract_lets +onlyGivenNames x7
            have hx7 : Ok q x7.st := by
              unfold x7
              refine issueItem_ok ?_
              assumption
            clear_value x7
            refine ok_goes ?_
            refine ringCompleted_ok ?_
            refine hx2 _ ?_
            refine writeBackTx_ok ?_
            assumption

theorem writeItem_ok {q : Claim} {v : Ring} {c : Copy} {descs : List Bytes} {unsync : Bool} {s : State} (h : Ok q s) : Ok q (writeItem v c descs unsync s) := by
  unfold writeItem
  extract_lets +onlyGivenNames x0
  extract_lets +onlyGivenNames x1
  extract_lets +onlyGivenNames x2
  have hx2 : Ok q x2 := by
    unfold x2
    refine ok_foldl ?_ ?_
    · assumption
    · intro z3
      intro z4
      intro z5
      refine hostPut_ok ?_
      assumption
  clear_value x2
  refine ok_foldl ?_ ?_
  · assumption
  · intro z6
    intro z7
    intro z8
    refine emit_ok ?_
    assumption

theorem abortItem_ok {q : Claim} {v : Ring} {c : Copy} {n : ℕ} {s : State} (h : Ok q s) : Ok q (abortItem v c n s) := by
  unfold abortItem
  refine ok_foldl ?_ ?_
  · assumption
  · intro z0 z1 z2
    refine emit_ok ?_
    assumption

theorem execReceiveItemDelivery_ok {q : Claim} {ring : ℕ} {descs : List Bytes} {dma : DmaOutcome} {s : State} (h : Ok q s) : OkR q (execReceiveItemDelivery ring descs dma s) := by
  unfold execReceiveItemDelivery
  split
  · extract_lets +onlyGivenNames x0
    extract_lets +onlyGivenNames x1
    split
    · refine ok_goes ?_
      assumption
    · split
      · refine ok_goes ?_
        refine ringCompleted_ok ?_
        refine stopRing_ok ?_
        refine setRing_ok ?_
        refine abortItem_ok ?_
        assumption
      · split
        · refine ok_goes ?_
          refine ringCompleted_ok ?_
          refine stopRing_ok ?_
          refine setRing_ok ?_
          refine abortItem_ok ?_
          assumption
        · split
          · extract_lets +onlyGivenNames x2
            have hx2 : Ok q x2 := by
              unfold x2
              refine setRing_ok ?_
              refine abortItem_ok ?_
              refine bufferParity_ok ?_
              assumption
            clear_value x2
            refine ok_goes ?_
            refine ringCompleted_ok ?_
            refine endCopy_ok ?_
            refine ok_congr (s := x2) ?_ rfl rfl rfl rfl
            assumption
          · extract_lets +onlyGivenNames x3
            have hx3 : Ok q x3.2 := by
              unfold x3
              split
              · refine markStart_ok ?_
                assumption
              · dsimp -zeta only
                assumption
            clear_value x3
            extract_lets +onlyGivenNames x4
            have hx4 : Ok q x4 := by
              unfold x4
              split
              · refine raise_ok ?_
                refine countPort_ok ?_
                assumption
              · assumption
            clear_value x4
            extract_lets +onlyGivenNames x5
            have hx5 : Ok q x5 := by
              unfold x5
              refine writeItem_ok ?_
              assumption
            clear_value x5
            extract_lets +onlyGivenNames x6
            have hx6 : Ok q x6 := by
              unfold x6
              refine setRing_ok ?_
              assumption
            clear_value x6
            extract_lets +onlyGivenNames x7
            extract_lets +onlyGivenNames x8
            have hx8 : Ok q x8 := by
              unfold x8
              refine sentCopy_ok ?_
              refine ok_congr (s := x6) ?_ rfl rfl rfl rfl
              assumption
            clear_value x8
            refine ok_goes ?_
            refine ringCompleted_ok ?_
            assumption
  · refine ok_goes ?_
    assumption

theorem execRingWaitLimit_ok {q : Claim} {ring : ℕ} {s : State} (h : Ok q s) : OkR q (execRingWaitLimit ring s) := by
  unfold execRingWaitLimit
  split
  · split
    · refine ok_goes ?_
      assumption
    · extract_lets +onlyGivenNames x0
      extract_lets +onlyGivenNames x1
      have hx1 : Ok q x1 := by
        unfold x1
        refine ringDrop_ok ?_
        refine ok_congr (s := s) ?_ rfl rfl rfl rfl
        assumption
      clear_value x1
      refine ok_goes ?_
      refine raise_ok ?_
      refine setRing_ok ?_
      assumption
  · refine ok_goes ?_
    assumption

theorem recordReset_ok {q : Claim} {kind : ℕ} {s : State} (h : Ok q s) : Ok q (recordReset kind s) := by
  unfold recordReset
  refine ok_congr (s := s) ?_ rfl rfl rfl rfl
  assumption

theorem dropPcieReads_ok {q : Claim} {s : State} (h : Ok q s) : Ok q (dropPcieReads s) := by
  unfold dropPcieReads
  refine ok_congr (s := s) ?_ rfl rfl rfl rfl
  assumption

theorem mclear_above {a lo hi : ℕ} {m : Memory} (h : Above a m) : Above a (mclear lo hi m) := by
  unfold mclear
  intro e he
  exact h e (List.mem_of_mem_filter he)

theorem mclear_wf {lo hi : ℕ} {m : Memory} (h : Memory.wf m = true) : Memory.wf (mclear lo hi m) = true := by
  induction m with
  | nil => rfl
  | cons e m ih =>
    obtain ⟨a, b⟩ := e
    rw [wf_cons] at h
    have h2 := ih h.2.2
    have h3 : Above a (mclear lo hi m) := mclear_above h.2.1
    unfold mclear at h2 h3 ⊢
    rw [List.filter_cons]
    split
    · rw [wf_cons]
      exact ⟨h.1, h3, h2⟩
    · exact h2

theorem pcieReset_ok {q : Claim} {kind : ℕ} {s : State} (h : Ok q s) : Ok q (pcieReset kind s) := by
  unfold pcieReset
  have h0 : Ok q (recordReset kind s) := recordReset_ok h
  extract_lets +onlyGivenNames x y0 y1 y z z0 w0 w1 w
  have hx : Ok q x := h0
  clear_value x
  have hy : Ok q y := ok_memories (s := x) hx rfl rfl id (fun w => mclear_wf (mclear_wf w))
  clear_value y
  have hz : Ok q z := by
    have hf : Ok q ((tkeys y.rings).foldl (fun s n => stopRing n 0 s) y) := ok_foldl hy (fun s a hs => stopRing_ok hs)
    exact ok_congr hf rfl rfl rfl rfl
  clear_value z
  have hw : Ok q w := ok_parts (s := z) hz rfl (fun _ => settle_intn _) id id (fun _ => rfl)
  clear_value w
  exact pump_ok (freeSems_ok (dropPcieReads_ok hw))

theorem execPcieFundamentalReset_ok {q : Claim} {hot : Bool} {s : State} (h : Ok q s) : OkR q (execPcieFundamentalReset hot s) := by
  unfold execPcieFundamentalReset
  refine ok_goes ?_
  refine pcieReset_ok ?_
  assumption

theorem execPerstn_ok {q : Claim} {asserted : Bool} {s : State} (h : Ok q s) : OkR q (execPerstn asserted s) := by
  unfold execPerstn
  split
  · extract_lets +onlyGivenNames x0
    extract_lets +onlyGivenNames x1
    extract_lets +onlyGivenNames x2
    have hx2 : Ok q x2 := by
      unfold x2
      refine ok_congr (s := s) ?_ rfl rfl rfl rfl
      assumption
    clear_value x2
    refine ok_goes ?_
    split
    · refine pauseRings_ok ?_
      refine freeSems_ok ?_
      refine raise_ok ?_
      assumption
    · assumption
  · refine ok_goes ?_
    refine ok_congr (s := s) ?_ rfl rfl rfl rfl
    assumption


end Sys2Proof.Machine
end

