-- ==== Sys2Proof/Laws/Keeps/Fabric.lean ====
section
/-! SUPPORT. Every function of Machine/Fabric.lean that answers a state keeps the invariant and the queue. -/

namespace Sys2Proof.Machine

theorem dropHandoff_ok {q : Claim} {cls : ℕ} {f : HandOff → Bool} {s : State} (h : Ok q s) : Ok q (dropHandoff cls f s) := by
  unfold dropHandoff
  extract_lets +onlyGivenNames x0
  split
  · refine dropGrain_ok ?_
    refine ok_congr (s := s) ?_ rfl rfl rfl rfl
    assumption
  · assumption

theorem spoilRec_ok {q : Claim} {x : ℕ × ℕ × Rec} {s : State} (h : Ok q s) : Ok q (spoilRec x s) := by
  unfold spoilRec
  extract_lets +onlyGivenNames x0
  extract_lets +onlyGivenNames x1
  split
  · refine ok_congr (s := s) ?_ rfl rfl rfl rfl
    assumption
  · refine freeRec_ok ?_
    refine ok_congr (s := s) ?_ rfl rfl rfl rfl
    assumption

theorem dropCopy_ok {q : Claim} {c : Copy} {s : State} (h : Ok q s) : Ok q (dropCopy c s) := by
  unfold dropCopy
  refine endCopy_ok ?_
  refine ok_congr (s := s) ?_ rfl rfl rfl rfl
  assumption

theorem dropUnread_ok {q : Claim} {c : Copy} {s : State} (h : Ok q s) : Ok q (dropUnread c s) := by
  unfold dropUnread
  refine endCopy_ok ?_
  refine ok_congr (s := s) ?_ rfl rfl rfl rfl
  assumption

theorem dropTally_ok {q : Claim} {u : ℕ} {s : State} (h : Ok q s) : Ok q (dropTally u s) := by
  unfold dropTally
  extract_lets +onlyGivenNames x0
  extract_lets +onlyGivenNames x1
  extract_lets +onlyGivenNames x2
  split
  · split
    · refine dropHandoff_ok ?_
      assumption
    · split
      · refine dropUnread_ok ?_
        assumption
      · assumption
  · split
    · refine dropCopy_ok ?_
      assumption
    · refine dropUnread_ok ?_
      assumption
    · split
      · refine spoilRec_ok ?_
        assumption
      · assumption

theorem dropGranary_ok {q : Claim} {i : ℕ} {s : State} (h : Ok q s) : Ok q (dropGranary i s) := by
  unfold dropGranary
  split
  · extract_lets +onlyGivenNames x0
    split
    · refine dropUnread_ok ?_
      refine picked_ok ?_
      assumption
    · refine picked_ok ?_
      assumption
  · extract_lets +onlyGivenNames x1
    split
    · refine spoilRec_ok ?_
      refine picked_ok ?_
      assumption
    · refine picked_ok ?_
      assumption

theorem dropToken_ok {q : Claim} {w : FabricSite} {s : State} (h : Ok q s) : Ok q (dropToken w s) := by
  unfold dropToken
  split
  · refine dropInLane_ok ?_
    assumption
  · refine dropCrossing_ok ?_
    assumption
  · refine dropHandoff_ok ?_
    assumption
  · refine dropGranary_ok ?_
    assumption
  · refine ok_congr (s := s) ?_ rfl rfl rfl rfl
    assumption
  · refine dropTally_ok ?_
    assumption

theorem isolate_ok {q : Claim} {w : FabricSite} {s : State} (h : Ok q s) : Ok q (isolate w s) := by
  unfold isolate
  split
  · refine laneFails_ok ?_
    assumption
  · assumption

theorem execFabricCodeFault_ok {q : Claim} {w : FabricSite} {s : State} (h : Ok q s) : OkR q (execFabricCodeFault w s) := by
  unfold execFabricCodeFault
  split
  · refine ok_goes ?_
    assumption
  · extract_lets +onlyGivenNames x0
    extract_lets +onlyGivenNames x1
    extract_lets +onlyGivenNames x2
    have hx2 : Ok q x2 := by
      unfold x2
      refine raiseD_ok ?_
      refine ok_congr (s := s) ?_ rfl rfl rfl rfl
      assumption
    clear_value x2
    refine ok_goes ?_
    refine isolate_ok ?_
    refine dropToken_ok ?_
    assumption

theorem execFabricStall_ok {q : Claim} {w : FabricSite} {s : State} (h : Ok q s) : OkR q (execFabricStall w s) := by
  unfold execFabricStall
  split
  · refine ok_goes ?_
    assumption
  · extract_lets +onlyGivenNames x0
    extract_lets +onlyGivenNames x1
    extract_lets +onlyGivenNames x2
    have hx2 : Ok q x2 := by
      unfold x2
      refine raiseD_ok ?_
      refine ok_congr (s := s) ?_ rfl rfl rfl rfl
      assumption
    clear_value x2
    refine ok_goes ?_
    split
    · refine laneFails_ok ?_
      refine dropInLane_ok ?_
      assumption
    · refine ok_congr (s := x2) ?_ rfl rfl rfl rfl
      assumption

theorem clearTraffic_ok {q : Claim} {s : State} (h : Ok q s) : Ok q (clearTraffic s) := by
  unfold clearTraffic
  extract_lets +onlyGivenNames x0
  have hx0 : Ok q x0 := by
    unfold x0
    refine ok_foldl ?_ ?_
    · assumption
    · intro z1 z2 z3
      refine countCopy_ok ?_
      assumption
  clear_value x0
  extract_lets +onlyGivenNames x4
  have hx4 : Ok q x4 := by
    unfold x4
    refine ok_foldl ?_ ?_
    · assumption
    · intro z5 z6 z7
      refine countRow_ok ?_
      assumption
  clear_value x4
  refine ok_congr (s := x4) ?_ rfl rfl rfl rfl
  assumption

theorem restartTeams_ok {q : Claim} {s : State} (h : Ok q s) : Ok q (restartTeams s) := by
  unfold restartTeams
  refine ok_congr (s := s) ?_ rfl rfl rfl rfl
  assumption

theorem beginFabricReset_ok {q : Claim} {s : State} (h : Ok q s) : Ok q (beginFabricReset s) := by
  unfold beginFabricReset
  extract_lets +onlyGivenNames x0
  have hx0 : Ok q x0 := by
    unfold x0
    refine restartTeams_ok ?_
    refine clearTraffic_ok ?_
    refine raiseSession_ok ?_
    refine recordReset_ok ?_
    assumption
  clear_value x0
  refine ok_congr (s := x0) ?_ rfl rfl rfl rfl
  assumption

theorem execPersistentStall_ok {q : Claim} {w : FabricSite} {s : State} (h : Ok q s) : OkR q (execPersistentStall w s) := by
  unfold execPersistentStall
  split
  · refine ok_goes ?_
    assumption
  · extract_lets +onlyGivenNames x0
    split
    · refine ok_goes ?_
      refine beginFabricReset_ok ?_
      refine ok_congr (s := s) ?_ rfl rfl rfl rfl
      assumption
    · refine ok_goes ?_
      refine raiseD_ok ?_
      assumption

theorem setLanes_ok {q : Claim} {failed : List ℕ} {s : State} (h : Ok q s) : Ok q (setLanes failed s) := by
  unfold setLanes
  extract_lets +onlyGivenNames x0
  extract_lets +onlyGivenNames x1
  extract_lets +onlyGivenNames x2
  extract_lets +onlyGivenNames x3
  extract_lets +onlyGivenNames x4
  have hx4 : Ok q x4 := by
    unfold x4
    refine ok_congr (s := s) ?_ rfl rfl rfl rfl
    assumption
  clear_value x4
  refine ok_foldl ?_ ?_
  · assumption
  · intro z5 z6 z7
    refine raiseD_ok ?_
    assumption

theorem execFabricResetDone_ok {q : Claim} {failedLanes : List ℕ} {s : State} (h : Ok q s) : OkR q (execFabricResetDone failedLanes s) := by
  unfold execFabricResetDone
  split
  · refine ok_goes ?_
    assumption
  · extract_lets +onlyGivenNames x0
    extract_lets +onlyGivenNames x1
    have hx1 : Ok q x1 := by
      unfold x1
      refine setLanes_ok ?_
      refine ok_congr (s := s) ?_ rfl rfl rfl rfl
      assumption
    clear_value x1
    refine ok_goes ?_
    refine ok_foldl ?_ ?_
    · assumption
    · intro z2 z3 z4
      refine endOp_ok ?_
      assumption


end Sys2Proof.Machine
end

