-- ==== Sys2Proof/Laws/Keeps/Field.lean ====
section
/-! SUPPORT. Every function of Machine/Field.lean that answers a state keeps the invariant and the queue. -/

namespace Sys2Proof.Machine

theorem putRoster_ok {q : Claim} {d : ℕ} {m : Member} {s : State} (h : Ok q s) : Ok q (putRoster d m s) := by
  unfold putRoster
  extract_lets +onlyGivenNames x0
  extract_lets +onlyGivenNames x1
  refine ok_congr (s := s) ?_ rfl rfl rfl rfl
  assumption

theorem dropRoster_ok {q : Claim} {d : ℕ} {s : State} (h : Ok q s) : Ok q (dropRoster d s) := by
  unfold dropRoster
  split
  · assumption
  · refine ok_congr (s := s) ?_ rfl rfl rfl rfl
    assumption

theorem freeMember_ok {q : Claim} {d : ℕ} {s : State} (h : Ok q s) : Ok q (freeMember d s) := by
  unfold freeMember
  refine freeSems_ok ?_
  assumption

theorem discardAllSheafs_ok {q : Claim} {s : State} (h : Ok q s) : Ok q (discardAllSheafs s) := by
  unfold discardAllSheafs
  refine ok_foldl ?_ ?_
  · assumption
  · intro z0 z1 z2
    refine discardSheafs_ok ?_
    assumption

theorem forgetDevice_ok {q : Claim} {d : ℕ} {s : State} (h : Ok q s) : Ok q (forgetDevice d s) := by
  unfold forgetDevice
  refine ok_congr (s := s) ?_ rfl rfl rfl rfl
  assumption

theorem newDevice_ok {q : Claim} {d : ℕ} {s : State} (h : Ok q s) : Ok q (newDevice d s) := by
  unfold newDevice
  extract_lets +onlyGivenNames x0
  extract_lets +onlyGivenNames x1
  have hx1 : Ok q x1 := by
    unfold x1
    refine ok_congr (s := s) ?_ rfl rfl rfl rfl
    assumption
  clear_value x1
  extract_lets +onlyGivenNames x2
  refine freeMember_ok ?_
  refine newEpoch_ok ?_
  refine forgetDevice_ok ?_
  refine ok_congr (s := x1) ?_ rfl rfl rfl rfl
  assumption

theorem endJoin_ok {q : Claim} {st : Status} {s : State} (h : Ok q s) : Ok q (endJoin st s) := by
  unfold endJoin
  split
  · refine endOp_ok ?_
    assumption
  · assumption

theorem enterConflict_ok {q : Claim} {reason : ℕ} {s : State} (h : Ok q s) : Ok q (enterConflict reason s) := by
  unfold enterConflict
  extract_lets +onlyGivenNames x0
  extract_lets +onlyGivenNames x1
  have hx1 : Ok q x1 := by
    unfold x1
    refine discardAllSheafs_ok ?_
    refine ok_congr (s := s) ?_ rfl rfl rfl rfl
    assumption
  clear_value x1
  refine endJoin_ok ?_
  refine raise_ok ?_
  assumption

theorem contest_ok {q : Claim} {a0 : HailMsg} {s : State} (h : Ok q s) : Ok q (contest a0 s) := by
  unfold contest
  split
  · assumption
  · refine enterConflict_ok ?_
    assumption

theorem acceptHail_ok {q : Claim} {a0 : HailMsg} {s : State} (h : Ok q s) : Ok q (acceptHail a0 s) := by
  unfold acceptHail
  extract_lets +onlyGivenNames x0
  extract_lets +onlyGivenNames x1
  have hx1 : Ok q x1 := by
    unfold x1
    split
    · split
      · assumption
      · refine newDevice_ok ?_
        assumption
    · assumption
  clear_value x1
  refine putRoster_ok ?_
  assumption

theorem takeHail_ok {q : Claim} {a0 : HailMsg} {s : State} (h : Ok q s) : Ok q (takeHail a0 s) := by
  unfold takeHail
  split
  · assumption
  · split
    · assumption
    · split
      · refine contest_ok ?_
        assumption
      · refine acceptHail_ok ?_
        assumption

theorem execHail_ok {q : Claim} {a0 : HailMsg} {s : State} (h : Ok q s) : OkR q (execHail a0 s) := by
  unfold execHail
  refine ok_goes ?_
  refine takeHail_ok ?_
  refine takeControl_ok ?_
  assumption

theorem takeLeave_ok {q : Claim} {a0 : HailMsg} {s : State} (h : Ok q s) : Ok q (takeLeave a0 s) := by
  unfold takeLeave
  split
  · split
    · refine freeMember_ok ?_
      refine discardSheafs_ok ?_
      refine dropRoster_ok ?_
      assumption
    · assumption
  · assumption

theorem execLeaveHail_ok {q : Claim} {a0 : HailMsg} {s : State} (h : Ok q s) : OkR q (execLeaveHail a0 s) := by
  unfold execLeaveHail
  refine ok_goes ?_
  refine takeLeave_ok ?_
  refine takeControl_ok ?_
  assumption

theorem execHailInterval_ok {q : Claim} {s : State} (h : Ok q s) : OkR q (execHailInterval s) := by
  unfold execHailInterval
  refine ok_goes ?_
  split
  · refine sendHail_ok ?_
    assumption
  · assumption

theorem becomeMember_ok {q : Claim} {d : ℕ} {s : State} (h : Ok q s) : Ok q (becomeMember d s) := by
  unfold becomeMember
  refine endJoin_ok ?_
  refine ok_congr (s := s) ?_ rfl rfl rfl rfl
  assumption

theorem execJoiningComplete_ok {q : Claim} {s : State} (h : Ok q s) : OkR q (execJoiningComplete s) := by
  unfold execJoiningComplete
  refine ok_goes ?_
  split
  · assumption
  · split
    · refine becomeMember_ok ?_
      assumption
    · split
      · refine becomeMember_ok ?_
        assumption
      · refine enterConflict_ok ?_
        assumption

theorem endReads_ok {q : Claim} {d : ℕ} {s : State} (h : Ok q s) : Ok q (endReads d s) := by
  unfold endReads
  refine pump_ok ?_
  refine ok_foldl ?_ ?_
  · assumption
  · intro z0
    intro z1
    intro z2
    refine failFar_ok ?_
    refine sendWaiting_ok ?_
    refine dropRequest_ok ?_
    assumption

theorem loseMember_ok {q : Claim} {d : ℕ} {s : State} (h : Ok q s) : Ok q (loseMember d s) := by
  unfold loseMember
  split
  · refine endReads_ok ?_
    refine freeMember_ok ?_
    refine discardSheafs_ok ?_
    refine putRoster_ok ?_
    assumption
  · assumption

theorem execMemberUnreachable_ok {q : Claim} {d : ℕ} {s : State} (h : Ok q s) : OkR q (execMemberUnreachable d s) := by
  unfold execMemberUnreachable
  refine ok_goes ?_
  refine loseMember_ok ?_
  assumption

theorem endRemote_ok {q : Claim} {s : State} (h : Ok q s) : Ok q (endRemote s) := by
  unfold endRemote
  extract_lets +onlyGivenNames x0
  extract_lets +onlyGivenNames x1
  extract_lets +onlyGivenNames x2
  have hx2 : Ok q x2 := by
    unfold x2
    refine ok_congr (s := s) ?_ rfl rfl rfl rfl
    assumption
  clear_value x2
  refine pump_ok ?_
  refine ok_foldl ?_ ?_
  · assumption
  · intro z3 z4 z5
    refine failFar_ok ?_
    assumption

theorem leaveField_ok {q : Claim} {s : State} (h : Ok q s) : Ok q (leaveField s) := by
  unfold leaveField
  extract_lets +onlyGivenNames x0
  have hx0 : Ok q x0 := by
    unfold x0
    split
    · assumption
    · refine sendHail_ok ?_
      assumption
  clear_value x0
  extract_lets +onlyGivenNames x1
  extract_lets +onlyGivenNames x2
  have hx2 : Ok q x2 := by
    unfold x2
    refine discardAllSheafs_ok ?_
    refine ok_congr (s := x0) ?_ rfl rfl rfl rfl
    assumption
  clear_value x2
  refine endRemote_ok ?_
  refine ok_congr (s := x2) ?_ rfl rfl rfl rfl
  assumption

theorem actFieldLeave_ok {q : Claim} {a0 : Call} {a1 : ℕ} {s : State} (h : Ok q s) : OkW q (actFieldLeave a0 a1 s) := by
  unfold actFieldLeave
  split
  · refine okw_mk ?_ ?_
    · dsimp -zeta only
      assumption
    · intro z0 z1
      dsimp -zeta only
      dsimp -zeta only [id]
      assumption
  · split
    · refine okw_mk ?_ ?_
      · dsimp -zeta only
        assumption
      · intro z2 z3
        dsimp -zeta only
        dsimp -zeta only [id]
        assumption
    · refine okw_mk ?_ ?_
      · dsimp -zeta only
        refine endJoin_ok ?_
        refine leaveField_ok ?_
        assumption
      · intro z4 z5
        dsimp -zeta only
        dsimp -zeta only [id]
        assumption

theorem cmdFieldLeave_ok : CmdOk cmdFieldLeave := by
  intro q c n s h
  unfold cmdFieldLeave
  dsimp -zeta only
  refine actFieldLeave_ok ?_
  assumption

theorem execFieldLeave_ok {q : Claim} {c : Call} {s : State} (h : Ok q s) : OkR q (execFieldLeave c s) := by
  unfold execFieldLeave
  refine ok_goes ?_
  refine serve_ok ?_ ?_
  · refine cmdFieldLeave_ok
  · assumption


end Sys2Proof.Machine
end

