-- ==== Sys2Proof/Laws/Keeps/Power.lean ====
section
/-! SUPPORT. Every function of Machine/Power.lean that answers a state keeps the invariant and the queue. -/

namespace Sys2Proof.Machine

theorem takeDemand_ok {q : Claim} {d : ℕ × ℕ} {s : State} (h : Ok q s) : Ok q (takeDemand d s) := by
  unfold takeDemand
  refine ok_congr (s := s) ?_ rfl rfl rfl rfl
  assumption

theorem computeDemand_ok {q : Claim} {s : State} (h : Ok q s) : Ok q (computeDemand s) := by
  unfold computeDemand
  refine takeDemand_ok ?_
  assumption

theorem retarget_ok {q : Claim} {s : State} (h : Ok q s) : Ok q (retarget s) := by
  unfold retarget
  refine ok_congr (s := s) ?_ rfl rfl rfl rfl
  assumption

theorem actPace_ok {q : Claim} {c : Call} {a1 : ℕ} {s : State} (h : Ok q s) : OkW q (actPace c a1 s) := by
  unfold actPace
  extract_lets +onlyGivenNames x0
  extract_lets +onlyGivenNames x1
  have hx1 : Ok q x1 := by
    unfold x1
    refine retarget_ok ?_
    refine computeDemand_ok ?_
    refine ok_congr (s := s) ?_ rfl rfl rfl rfl
    assumption
  clear_value x1
  refine okw_mk ?_ ?_
  · dsimp -zeta only
    assumption
  · intro z2 z3
    dsimp -zeta only
    dsimp -zeta only [id]
    assumption

theorem cmdPowerPolicySet_ok : CmdOk cmdPowerPolicySet := by
  intro q c n s h
  unfold cmdPowerPolicySet
  dsimp -zeta only
  refine actPace_ok ?_
  assumption

theorem execPowerPolicySet_ok {q : Claim} {c : Call} {s : State} (h : Ok q s) : OkR q (execPowerPolicySet c s) := by
  unfold execPowerPolicySet
  refine ok_goes ?_
  refine serve_ok ?_ ?_
  · refine cmdPowerPolicySet_ok
  · assumption

theorem cmdFallowPolicySet_ok : CmdOk cmdFallowPolicySet := by
  intro q c n s h
  unfold cmdFallowPolicySet
  dsimp -zeta only
  refine okw_mk ?_ ?_
  · dsimp -zeta only
    refine ok_congr (s := s) ?_ rfl rfl rfl rfl
    assumption
  · intro z0 z1
    dsimp -zeta only
    dsimp -zeta only [id]
    assumption

theorem execFallowPolicySet_ok {q : Claim} {c : Call} {s : State} (h : Ok q s) : OkR q (execFallowPolicySet c s) := by
  unfold execFallowPolicySet
  refine ok_goes ?_
  refine serve_ok ?_ ?_
  · refine cmdFallowPolicySet_ok
  · assumption

theorem cmdWakeSourcesSet_ok : CmdOk cmdWakeSourcesSet := by
  intro q c n s h
  unfold cmdWakeSourcesSet
  dsimp -zeta only
  refine okw_mk ?_ ?_
  · dsimp -zeta only
    refine ok_congr (s := s) ?_ rfl rfl rfl rfl
    assumption
  · intro z0 z1
    dsimp -zeta only
    dsimp -zeta only [id]
    assumption

theorem execWakeSourcesSet_ok {q : Claim} {c : Call} {s : State} (h : Ok q s) : OkR q (execWakeSourcesSet c s) := by
  unfold execWakeSourcesSet
  refine ok_goes ?_
  refine serve_ok ?_ ?_
  · refine cmdWakeSourcesSet_ok
  · assumption

theorem cmdWakeCause_ok : CmdOk cmdWakeCause := by
  intro q c n s h
  unfold cmdWakeCause
  dsimp -zeta only
  refine okw_mk ?_ ?_
  · dsimp -zeta only
    split
    · refine ok_congr (s := s) ?_ rfl rfl rfl rfl
      assumption
    · assumption
  · intro z0 z1
    dsimp -zeta only
    dsimp -zeta only [id]
    assumption

theorem execWakeCause_ok {q : Claim} {c : Call} {s : State} (h : Ok q s) : OkR q (execWakeCause c s) := by
  unfold execWakeCause
  refine ok_goes ?_
  refine serve_ok ?_ ?_
  · refine cmdWakeCause_ok
  · assumption

theorem cmdPaceState_ok : CmdOk cmdPaceState := by
  intro q c n s h
  unfold cmdPaceState
  dsimp -zeta only
  refine okw_mk ?_ ?_
  · dsimp -zeta only
    split
    · assumption
    · refine ok_congr (s := s) ?_ rfl rfl rfl rfl
      assumption
  · intro z0 z1
    dsimp -zeta only
    dsimp -zeta only [id]
    assumption

theorem execPaceState_ok {q : Claim} {c : Call} {s : State} (h : Ok q s) : OkR q (execPaceState c s) := by
  unfold execPaceState
  refine ok_goes ?_
  refine serve_ok ?_ ?_
  · refine cmdPaceState_ok
  · assumption

theorem rearm_ok {q : Claim} {tj : ℤ} {s : State} (h : Ok q s) : Ok q (rearm tj s) := by
  unfold rearm
  split
  · refine ok_congr (s := s) ?_ rfl rfl rfl rfl
    assumption
  · assumption

theorem paceAlarms_ok {q : Claim} {s : State} (h : Ok q s) : Ok q (paceAlarms s) := by
  unfold paceAlarms
  extract_lets +onlyGivenNames x0
  extract_lets +onlyGivenNames x1
  extract_lets +onlyGivenNames x2
  extract_lets +onlyGivenNames x3
  have hx3 : Ok q x3 := by
    unfold x3
    split
    · refine raiseD_ok ?_
      assumption
    · assumption
  clear_value x3
  extract_lets +onlyGivenNames x4
  have hx4 : Ok q x4 := by
    unfold x4
    split
    · refine raiseD_ok ?_
      assumption
    · assumption
  clear_value x4
  refine ok_congr (s := x4) ?_ rfl rfl rfl rfl
  assumption

theorem moveVcore_ok {q : Claim} {s : State} (h : Ok q s) : Ok q (moveVcore s) := by
  unfold moveVcore
  extract_lets +onlyGivenNames x0
  extract_lets +onlyGivenNames x1
  split
  · refine ok_congr (s := s) ?_ rfl rfl rfl rfl
    assumption
  · split
    · refine ok_congr (s := s) ?_ rfl rfl rfl rfl
      assumption
    · split
      · refine ok_congr (s := s) ?_ rfl rfl rfl rfl
        assumption
      · split
        · refine ok_congr (s := s) ?_ rfl rfl rfl rfl
          assumption
        · refine ok_congr (s := s) ?_ rfl rfl rfl rfl
          assumption

theorem execPaceWindow_ok {q : Claim} {pace : ℕ} {tj : ℤ} {fill : ℕ} {s : State} (h : Ok q s) : OkR q (execPaceWindow pace tj fill s) := by
  unfold execPaceWindow
  split
  · refine ok_goes ?_
    assumption
  · extract_lets +onlyGivenNames x0
    extract_lets +onlyGivenNames x1
    have hx1 : Ok q x1 := by
      unfold x1
      refine ok_congr (s := s) ?_ rfl rfl rfl rfl
      assumption
    clear_value x1
    extract_lets +onlyGivenNames x2
    have hx2 : Ok q x2 := by
      unfold x2
      refine rearm_ok ?_
      assumption
    clear_value x2
    refine ok_goes ?_
    refine moveVcore_ok ?_
    refine paceAlarms_ok ?_
    split
    · refine retarget_ok ?_
      refine computeDemand_ok ?_
      assumption
    · assumption

theorem execSupplyFault_ok {q : Claim} {high : Bool} {s : State} (h : Ok q s) : OkR q (execSupplyFault high s) := by
  unfold execSupplyFault
  refine ok_goes ?_
  split
  · refine raiseD_ok ?_
    refine ok_congr (s := s) ?_ rfl rfl rfl rfl
    assumption
  · assumption

theorem execPhaseCurrentLimit_ok {q : Claim} {s : State} (h : Ok q s) : OkR q (execPhaseCurrentLimit s) := by
  unfold execPhaseCurrentLimit
  refine ok_goes ?_
  split
  · refine raiseD_ok ?_
    refine ok_congr (s := s) ?_ rfl rfl rfl rfl
    assumption
  · assumption

theorem execThermalWarn_ok {q : Claim} {tj : ℤ} {s : State} (h : Ok q s) : OkR q (execThermalWarn tj s) := by
  unfold execThermalWarn
  extract_lets +onlyGivenNames x0
  extract_lets +onlyGivenNames x1
  have hx1 : Ok q x1 := by
    unfold x1
    refine rearm_ok ?_
    refine ok_congr (s := s) ?_ rfl rfl rfl rfl
    assumption
  clear_value x1
  refine ok_goes ?_
  split
  · refine raise_ok ?_
    refine ok_congr (s := x1) ?_ rfl rfl rfl rfl
    assumption
  · assumption


end Sys2Proof.Machine
end

