-- ==== Sys2Proof/Laws/Keeps/Reset.lean ====
section
/-! SUPPORT. Every function of Machine/Reset.lean that answers a state keeps the invariant and the queue. -/

namespace Sys2Proof.Machine

theorem clearHold_ok {q : Claim} {s : State} (h : Ok q s) : Ok q (clearHold s) := by
  have hx : Ok q (freeSems (fun _ => true) s) := freeSems_ok h
  unfold clearHold
  extract_lets +onlyGivenNames x y z w v
  have hx' : Ok q x := hx
  clear_value x
  refine ok_parts (s := x) hx' rfl (fun _ => ?_) id (fun _ => rfl) (fun _ => rfl)
  show IntnFollows w
  unfold IntnFollows w
  simp

theorem clearing_ok {q : Claim} {g : ℕ} {s : State} (h : Ok q s) : Ok q (clearing g s) := by
  have hx : Ok q (clearHold { s with ev.log := [], ev.nextSeq := 0, ev.lost := 0 }) := by
    exact clearHold_ok (ok_events (s := s) h rfl (fun w => intn_congr w rfl rfl rfl rfl) rfl rfl rfl)
  unfold clearing
  extract_lets +onlyGivenNames x0 x z y
  change Ok q x at hx
  clear_value x
  refine raiseSession_ok ?_
  refine ok_parts (s := x) hx rfl (fun w => intn_congr w rfl rfl rfl rfl) (fun _ => rfl) (fun w => ?_) id
  show Memory.wf y.slots = true
  unfold y
  split
  · exact w
  · exact w

theorem powerOnCause_ok {q : Claim} {s : State} (h : Ok q s) : Ok q (powerOnCause s) := by
  unfold powerOnCause
  refine ok_congr (s := s) ?_ rfl rfl rfl rfl
  assumption

theorem fullReset_ok {q : Claim} {kind : ℕ} {s : State} (h : Ok q s) : Ok q (fullReset kind s) := by
  unfold fullReset
  refine clearing_ok ?_
  refine recordReset_ok ?_
  assumption

theorem execResetn_ok {q : Claim} {asserted : Bool} {straps : ℕ} {s : State} (h : Ok q s) : OkR q (execResetn asserted straps s) := by
  unfold execResetn
  split
  · refine ok_goes ?_
    assumption
  · split
    · refine ok_goes ?_
      extract_lets +onlyGivenNames x0
      have hx0 : Ok q x0 := by
        unfold x0
        refine fullReset_ok ?_
        assumption
      clear_value x0
      refine ok_congr (s := x0) ?_ rfl rfl rfl rfl
      assumption
    · split
      · refine ok_goes ?_
        assumption
      · refine ok_goes ?_
        refine clearHold_ok ?_
        refine ok_congr (s := s) ?_ rfl rfl rfl rfl
        assumption

theorem execVstbyPowerOn_ok {q : Claim} {s : State} (h : Ok q s) : OkR q (execVstbyPowerOn s) := by
  unfold execVstbyPowerOn
  split
  · refine ok_goes ?_
    extract_lets +onlyGivenNames x0
    have hx0 : Ok q x0 := by
      unfold x0
      refine powerOnCause_ok ?_
      refine clearing_ok ?_
      assumption
    clear_value x0
    refine ok_congr (s := x0) ?_ rfl rfl rfl rfl
    assumption
  · refine ok_goes ?_
    assumption

theorem execVstbyLoss_ok {q : Claim} {s : State} (h : Ok q s) : OkR q (execVstbyLoss s) := by
  unfold execVstbyLoss
  extract_lets +onlyGivenNames x0
  have hx0 : Ok q x0 := by
    unfold x0
    refine clearing_ok ?_
    assumption
  clear_value x0
  refine ok_goes ?_
  refine ok_congr (s := x0) ?_ rfl rfl rfl rfl
  assumption

theorem execBuckVinLow_ok {q : Claim} {s : State} (h : Ok q s) : OkR q (execBuckVinLow s) := by
  unfold execBuckVinLow
  extract_lets +onlyGivenNames x0
  extract_lets +onlyGivenNames x1
  have hx1 : Ok q x1 := by
    unfold x1
    refine ok_congr (s := s) ?_ rfl rfl rfl rfl
    assumption
  clear_value x1
  split
  · refine ok_goes ?_
    assumption
  · extract_lets +onlyGivenNames x2
    extract_lets +onlyGivenNames x3
    have hx3 : Ok q x3 := by
      unfold x3
      refine raiseD_ok ?_
      refine ok_congr (s := x1) ?_ rfl rfl rfl rfl
      assumption
    clear_value x3
    refine ok_goes ?_
    extract_lets +onlyGivenNames x4
    have hx4 : Ok q x4 := by
      unfold x4
      refine fullReset_ok ?_
      refine picked_ok ?_
      assumption
    clear_value x4
    refine ok_congr (s := x4) ?_ rfl rfl rfl rfl
    assumption

theorem execBuckVinRestored_ok {q : Claim} {s : State} (h : Ok q s) : OkR q (execBuckVinRestored s) := by
  unfold execBuckVinRestored
  split
  · refine ok_goes ?_
    assumption
  · split
    · refine ok_goes ?_
      refine ok_congr (s := s) ?_ rfl rfl rfl rfl
      assumption
    · refine ok_goes ?_
      refine ok_congr (s := s) ?_ rfl rfl rfl rfl
      assumption

theorem stewardReset_ok {q : Claim} {kind : ℕ} {s : State} (h : Ok q s) : Ok q (stewardReset kind s) := by
  unfold stewardReset
  extract_lets +onlyGivenNames x0
  have hx0 : Ok q x0 := by
    unfold x0
    refine lapseRetirements_ok ?_
    refine dropInbox_ok ?_
    refine freeSems_ok ?_
    refine recordReset_ok ?_
    assumption
  clear_value x0
  refine ok_congr (s := x0) ?_ rfl rfl rfl rfl
  assumption

theorem execStewardWatchdog_ok {q : Claim} {s : State} (h : Ok q s) : OkR q (execStewardWatchdog s) := by
  unfold execStewardWatchdog
  refine ok_goes ?_
  split
  · refine stewardReset_ok ?_
    assumption
  · assumption

theorem execLockstepMiscompare_ok {q : Claim} {s : State} (h : Ok q s) : OkR q (execLockstepMiscompare s) := by
  unfold execLockstepMiscompare
  refine ok_goes ?_
  split
  · refine stewardReset_ok ?_
    assumption
  · split
    · refine recordReset_ok ?_
      assumption
    · assumption


end Sys2Proof.Machine
end

