-- ==== Sys2Proof/Laws/Keeps/TimeCmds.lean ====
section
/-! SUPPORT. Every function of Machine/TimeCmds.lean that answers a state keeps the invariant and the queue. -/

namespace Sys2Proof.Machine

theorem actTimeConfig_ok {q : Claim} {c : Call} {a1 : ℕ} {s : State} (h : Ok q s) : OkW q (actTimeConfig c a1 s) := by
  unfold actTimeConfig
  extract_lets +onlyGivenNames x0
  extract_lets +onlyGivenNames x1
  extract_lets +onlyGivenNames x2
  split
  · refine okw_mk ?_ ?_
    · dsimp -zeta only
      refine ok_congr (s := s) ?_ rfl rfl rfl rfl
      assumption
    · intro z3
      intro z4
      dsimp -zeta only
      dsimp -zeta only [id]
      assumption
  · refine okw_mk ?_ ?_
    · dsimp -zeta only
      refine ok_congr (s := s) ?_ rfl rfl rfl rfl
      assumption
    · intro z5
      intro z6
      dsimp -zeta only
      dsimp -zeta only [id]
      assumption

theorem cmdTimeConfig_ok : CmdOk cmdTimeConfig := by
  intro q c n s h
  unfold cmdTimeConfig
  dsimp -zeta only
  refine actTimeConfig_ok ?_
  assumption

theorem execTimeConfig_ok {q : Claim} {c : Call} {s : State} (h : Ok q s) : OkR q (execTimeConfig c s) := by
  unfold execTimeConfig
  refine ok_goes ?_
  refine serve_ok ?_ ?_
  · refine cmdTimeConfig_ok
  · assumption

theorem actTimePort_ok {q : Claim} {c : Call} {a1 : ℕ} {s : State} (h : Ok q s) : OkW q (actTimePort c a1 s) := by
  unfold actTimePort
  extract_lets +onlyGivenNames x0
  refine okw_mk ?_ ?_
  · dsimp -zeta only
    refine ok_congr (s := s) ?_ rfl rfl rfl rfl
    assumption
  · intro z1 z2
    dsimp -zeta only
    dsimp -zeta only [id]
    assumption

theorem cmdTimeConfigPort_ok : CmdOk cmdTimeConfigPort := by
  intro q c n s h
  unfold cmdTimeConfigPort
  dsimp -zeta only
  refine actTimePort_ok ?_
  assumption

theorem execTimeConfigPort_ok {q : Claim} {c : Call} {s : State} (h : Ok q s) : OkR q (execTimeConfigPort c s) := by
  unfold execTimeConfigPort
  refine ok_goes ?_
  refine serve_ok ?_ ?_
  · refine cmdTimeConfigPort_ok
  · assumption

theorem actTimeSet_ok {q : Claim} {c : Call} {a1 : ℕ} {s : State} (h : Ok q s) : OkW q (actTimeSet c a1 s) := by
  unfold actTimeSet
  extract_lets +onlyGivenNames x0
  extract_lets +onlyGivenNames x1
  have hx1 : Ok q x1 := by
    unfold x1
    refine stepTo_ok ?_
    assumption
  clear_value x1
  refine okw_mk ?_ ?_
  · dsimp -zeta only
    assumption
  · intro z2 z3
    dsimp -zeta only
    dsimp -zeta only [id]
    assumption

theorem cmdTimeSet_ok : CmdOk cmdTimeSet := by
  intro q c n s h
  unfold cmdTimeSet
  dsimp -zeta only
  refine actTimeSet_ok ?_
  assumption

theorem execTimeSet_ok {q : Claim} {c : Call} {s : State} (h : Ok q s) : OkR q (execTimeSet c s) := by
  unfold execTimeSet
  refine ok_goes ?_
  refine serve_ok ?_ ?_
  · refine cmdTimeSet_ok
  · assumption

theorem actTimeSetAtPps_ok {q : Claim} {c : Call} {a1 : ℕ} {s : State} (h : Ok q s) : OkW q (actTimeSetAtPps c a1 s) := by
  unfold actTimeSetAtPps
  refine okw_mk ?_ ?_
  · dsimp -zeta only
    assumption
  · intro z0 z1
    dsimp -zeta only
    dsimp -zeta only [id]
    assumption

theorem cmdTimeSetAtPps_ok : CmdOk cmdTimeSetAtPps := by
  intro q c n s h
  unfold cmdTimeSetAtPps
  dsimp -zeta only
  refine actTimeSetAtPps_ok ?_
  assumption

theorem execTimeSetAtPps_ok {q : Claim} {c : Call} {s : State} (h : Ok q s) : OkR q (execTimeSetAtPps c s) := by
  unfold execTimeSetAtPps
  refine ok_goes ?_
  refine serve_ok ?_ ?_
  · refine cmdTimeSetAtPps_ok
  · assumption

theorem actAdjustStep_ok {q : Claim} {c : Call} {a1 : ℕ} {s : State} (h : Ok q s) : OkW q (actAdjustStep c a1 s) := by
  unfold actAdjustStep
  extract_lets +onlyGivenNames x0
  have hx0 : Ok q x0 := by
    unfold x0
    refine stepBy_ok ?_
    assumption
  clear_value x0
  refine okw_mk ?_ ?_
  · dsimp -zeta only
    assumption
  · intro z1 z2
    dsimp -zeta only
    dsimp -zeta only [id]
    assumption

theorem cmdTimeAdjustStep_ok : CmdOk cmdTimeAdjustStep := by
  intro q c n s h
  unfold cmdTimeAdjustStep
  dsimp -zeta only
  refine actAdjustStep_ok ?_
  assumption

theorem execTimeAdjustStep_ok {q : Claim} {c : Call} {s : State} (h : Ok q s) : OkR q (execTimeAdjustStep c s) := by
  unfold execTimeAdjustStep
  refine ok_goes ?_
  refine serve_ok ?_ ?_
  · refine cmdTimeAdjustStep_ok
  · assumption

theorem actAdjustServo_ok {q : Claim} {c : Call} {a1 : ℕ} {s : State} (h : Ok q s) : OkW q (actAdjustServo c a1 s) := by
  unfold actAdjustServo
  split
  · refine okw_mk ?_ ?_
    · dsimp -zeta only
      assumption
    · intro z0 z1
      dsimp -zeta only
      dsimp -zeta only [id]
      assumption
  · extract_lets +onlyGivenNames x2
    have hx2 : Ok q x2 := by
      unfold x2
      refine takeOffset_ok ?_
      assumption
    clear_value x2
    refine okw_mk ?_ ?_
    · dsimp -zeta only
      assumption
    · intro z3 z4
      dsimp -zeta only
      dsimp -zeta only [id]
      assumption

theorem cmdTimeAdjustServoInput_ok : CmdOk cmdTimeAdjustServoInput := by
  intro q c n s h
  unfold cmdTimeAdjustServoInput
  dsimp -zeta only
  refine actAdjustServo_ok ?_
  assumption

theorem execTimeAdjustServoInput_ok {q : Claim} {c : Call} {s : State} (h : Ok q s) : OkR q (execTimeAdjustServoInput c s) := by
  unfold execTimeAdjustServoInput
  refine ok_goes ?_
  refine serve_ok ?_ ?_
  · refine cmdTimeAdjustServoInput_ok
  · assumption

theorem actAdjustFrequency_ok {q : Claim} {c : Call} {a1 : ℕ} {s : State} (h : Ok q s) : OkW q (actAdjustFrequency c a1 s) := by
  unfold actAdjustFrequency
  split
  · refine okw_mk ?_ ?_
    · dsimp -zeta only
      assumption
    · intro z0 z1
      dsimp -zeta only
      dsimp -zeta only [id]
      assumption
  · refine okw_mk ?_ ?_
    · dsimp -zeta only
      refine setFrequency_ok ?_
      assumption
    · intro z2 z3
      dsimp -zeta only
      dsimp -zeta only [id]
      assumption

theorem cmdTimeAdjustFrequency_ok : CmdOk cmdTimeAdjustFrequency := by
  intro q c n s h
  unfold cmdTimeAdjustFrequency
  dsimp -zeta only
  refine actAdjustFrequency_ok ?_
  assumption

theorem execTimeAdjustFrequency_ok {q : Claim} {c : Call} {s : State} (h : Ok q s) : OkR q (execTimeAdjustFrequency c s) := by
  unfold execTimeAdjustFrequency
  refine ok_goes ?_
  refine serve_ok ?_ ?_
  · refine cmdTimeAdjustFrequency_ok
  · assumption

theorem sourceState_ok {q : Claim} {s : State} (h : Ok q s) : Ok q (sourceState s) := by
  unfold sourceState
  extract_lets +onlyGivenNames x0
  split
  · split
    · refine setTimeState_ok ?_
      assumption
    · assumption
  · split
    · refine setTimeState_ok ?_
      assumption
    · assumption

theorem actServo_ok {q : Claim} {c : Call} {a1 : ℕ} {s : State} (h : Ok q s) : OkW q (actServo c a1 s) := by
  unfold actServo
  extract_lets +onlyGivenNames x0
  extract_lets +onlyGivenNames x1
  extract_lets +onlyGivenNames x2
  have hx2 : Ok q x2 := by
    unfold x2
    split
    · refine ok_congr (s := s) ?_ rfl rfl rfl rfl
      assumption
    · assumption
  clear_value x2
  refine okw_mk ?_ ?_
  · dsimp -zeta only
    refine sourceState_ok ?_
    refine ok_congr (s := x2) ?_ rfl rfl rfl rfl
    assumption
  · intro z3 z4
    dsimp -zeta only
    dsimp -zeta only [id]
    assumption

theorem cmdServoSet_ok : CmdOk cmdServoSet := by
  intro q c n s h
  unfold cmdServoSet
  dsimp -zeta only
  refine actServo_ok ?_
  assumption

theorem execServoSet_ok {q : Claim} {c : Call} {s : State} (h : Ok q s) : OkR q (execServoSet c s) := by
  unfold execServoSet
  refine ok_goes ?_
  refine serve_ok ?_ ?_
  · refine cmdServoSet_ok
  · assumption

theorem actAsym_ok {q : Claim} {c : Call} {a1 : ℕ} {s : State} (h : Ok q s) : OkW q (actAsym c a1 s) := by
  unfold actAsym
  extract_lets +onlyGivenNames x0
  extract_lets +onlyGivenNames x1
  extract_lets +onlyGivenNames x2
  extract_lets +onlyGivenNames x3
  extract_lets +onlyGivenNames x4
  extract_lets +onlyGivenNames x5
  have hx5 : Ok q x5 := by
    unfold x5
    refine ok_congr (s := s) ?_ rfl rfl rfl rfl
    assumption
  clear_value x5
  refine okw_mk ?_ ?_
  · dsimp -zeta only
    split
    · refine closeSuspect_ok ?_
      assumption
    · assumption
  · intro z6 z7
    dsimp -zeta only
    dsimp -zeta only [id]
    assumption

theorem cmdAsymSet_ok : CmdOk cmdAsymSet := by
  intro q c n s h
  unfold cmdAsymSet
  dsimp -zeta only
  refine actAsym_ok ?_
  assumption

theorem execAsymSet_ok {q : Claim} {c : Call} {s : State} (h : Ok q s) : OkR q (execAsymSet c s) := by
  unfold execAsymSet
  refine ok_goes ?_
  refine serve_ok ?_ ?_
  · refine cmdAsymSet_ok
  · assumption

theorem actTimeState_ok {q : Claim} {c : Call} {a1 : ℕ} {s : State} (h : Ok q s) : OkW q (actTimeState c a1 s) := by
  unfold actTimeState
  split
  · extract_lets +onlyGivenNames x0
    extract_lets +onlyGivenNames x1
    extract_lets +onlyGivenNames x2
    refine okw_mk ?_ ?_
    · dsimp -zeta only
      refine ok_congr (s := s) ?_ rfl rfl rfl rfl
      assumption
    · intro z3 z4
      dsimp -zeta only
      dsimp -zeta only [id]
      assumption
  · refine okw_mk ?_ ?_
    · dsimp -zeta only
      assumption
    · intro z5 z6
      dsimp -zeta only
      dsimp -zeta only [id]
      assumption

theorem cmdTimeState_ok : CmdOk cmdTimeState := by
  intro q c n s h
  unfold cmdTimeState
  dsimp -zeta only
  refine actTimeState_ok ?_
  assumption

theorem execTimeState_ok {q : Claim} {c : Call} {s : State} (h : Ok q s) : OkR q (execTimeState c s) := by
  unfold execTimeState
  refine ok_goes ?_
  refine serve_ok ?_ ?_
  · refine cmdTimeState_ok
  · assumption

theorem startAlarm_ok {q : Claim} {n : ℕ} {a1 : Img} {s : State} (h : Ok q s) : Ok q (startAlarm n a1 s) := by
  unfold startAlarm
  extract_lets +onlyGivenNames x0
  extract_lets +onlyGivenNames x1
  extract_lets +onlyGivenNames x2
  extract_lets +onlyGivenNames x3
  extract_lets +onlyGivenNames x4
  have hx4 : ∀ a0, Ok q (x4 a0) := by
    intro y5
    dsimp -zeta only [x4]
    refine ok_congr (s := s) ?_ rfl rfl rfl rfl
    assumption
  clear_value x4
  split
  · refine hx4 _
  · split
    · refine fireAlarm_ok ?_
      refine hx4 _
    · refine hx4 _

theorem actAlarm_ok {q : Claim} {c : Call} {a1 : ℕ} {s : State} (h : Ok q s) : OkW q (actAlarm c a1 s) := by
  unfold actAlarm
  extract_lets +onlyGivenNames x0
  extract_lets +onlyGivenNames x1
  split
  · refine okw_mk ?_ ?_
    · dsimp -zeta only
      refine ok_congr (s := s) ?_ rfl rfl rfl rfl
      assumption
    · intro z2 z3
      dsimp -zeta only
      dsimp -zeta only [id]
      assumption
  · split
    · refine okw_mk ?_ ?_
      · dsimp -zeta only
        assumption
      · intro z4 z5
        dsimp -zeta only
        dsimp -zeta only [id]
        assumption
    · refine okw_mk ?_ ?_
      · dsimp -zeta only
        refine startAlarm_ok ?_
        assumption
      · intro z6 z7
        dsimp -zeta only
        dsimp -zeta only [id]
        assumption

theorem cmdAlarmSet_ok : CmdOk cmdAlarmSet := by
  intro q c n s h
  unfold cmdAlarmSet
  dsimp -zeta only
  refine actAlarm_ok ?_
  assumption

theorem execAlarmSet_ok {q : Claim} {c : Call} {s : State} (h : Ok q s) : OkR q (execAlarmSet c s) := by
  unfold execAlarmSet
  refine ok_goes ?_
  refine serve_ok ?_ ?_
  · refine cmdAlarmSet_ok
  · assumption

theorem actEntry_ok {q : Claim} {c : Call} {a1 : ℕ} {s : State} (h : Ok q s) : OkW q (actEntry c a1 s) := by
  unfold actEntry
  extract_lets +onlyGivenNames x0
  extract_lets +onlyGivenNames x1
  split
  · split
    · refine okw_mk ?_ ?_
      · dsimp -zeta only
        assumption
      · intro z2 z3
        dsimp -zeta only
        dsimp -zeta only [id]
        assumption
    · refine okw_mk ?_ ?_
      · dsimp -zeta only
        refine ok_congr (s := s) ?_ rfl rfl rfl rfl
        assumption
      · intro z4 z5
        dsimp -zeta only
        dsimp -zeta only [id]
        assumption
  · refine okw_mk ?_ ?_
    · dsimp -zeta only
      refine ok_congr (s := s) ?_ rfl rfl rfl rfl
      assumption
    · intro z6 z7
      dsimp -zeta only
      dsimp -zeta only [id]
      assumption

theorem cmdScheduleEntrySet_ok : CmdOk cmdScheduleEntrySet := by
  intro q c n s h
  unfold cmdScheduleEntrySet
  dsimp -zeta only
  refine actEntry_ok ?_
  assumption

theorem execScheduleEntrySet_ok {q : Claim} {c : Call} {s : State} (h : Ok q s) : OkR q (execScheduleEntrySet c s) := by
  unfold execScheduleEntrySet
  refine ok_goes ?_
  refine serve_ok ?_ ?_
  · refine cmdScheduleEntrySet_ok
  · assumption


end Sys2Proof.Machine
end

