-- ==== Sys2Proof/Laws/Keeps/Start.lean ====
section
/-! SUPPORT. Every function of Machine/Start.lean that answers a state keeps the invariant and the queue. -/

namespace Sys2Proof.Machine

theorem selectSlot_ok {q : Claim} {s : State} (h : Ok q s) : Ok q (selectSlot s) := by
  unfold selectSlot
  split
  · refine ok_congr (s := s) ?_ rfl rfl rfl rfl
    assumption
  · split
    · refine ok_congr (s := s) ?_ rfl rfl rfl rfl
      assumption
    · refine ok_congr (s := s) ?_ rfl rfl rfl rfl
      assumption

theorem runSlot_ok {q : Claim} {n : ℕ} {failed : Bool} {s : State} (h : Ok q s) : Ok q (runSlot n failed s) := by
  unfold runSlot
  refine ok_congr (s := s) ?_ rfl rfl rfl rfl
  assumption

theorem bootSelect_ok {q : Claim} {s : State} (h : Ok q s) : Ok q (bootSelect s).2 := by
  unfold bootSelect
  extract_lets +onlyGivenNames x0
  extract_lets +onlyGivenNames x1
  have hx1 : Ok q x1 := by
    unfold x1
    refine selectSlot_ok ?_
    refine ok_congr (s := s) ?_ rfl rfl rfl rfl
    assumption
  clear_value x1
  extract_lets +onlyGivenNames x2
  split
  · dsimp -zeta only
    refine runSlot_ok ?_
    assumption
  · extract_lets +onlyGivenNames x3
    extract_lets +onlyGivenNames x4
    have hx4 : Ok q x4 := by
      unfold x4
      refine raise_ok ?_
      refine ok_congr (s := x1) ?_ rfl rfl rfl rfl
      assumption
    clear_value x4
    split
    · dsimp -zeta only
      refine runSlot_ok ?_
      assumption
    · dsimp -zeta only
      assumption

theorem confirmImage_ok {q : Claim} {s : State} (h : Ok q s) : Ok q (confirmImage s) := by
  unfold confirmImage
  extract_lets +onlyGivenNames x0
  extract_lets +onlyGivenNames x1
  refine ok_congr (s := s) ?_ rfl rfl rfl rfl
  assumption

theorem confirmAtBoot_ok {q : Claim} {s : State} (h : Ok q s) : Ok q (confirmAtBoot s) := by
  unfold confirmAtBoot
  split
  · assumption
  · refine confirmImage_ok ?_
    assumption

theorem bootSpare_ok {q : Claim} {old l : ℕ} {b : List ℕ} {s : State} (h : Ok q s) : Ok q (bootSpare old l b s) := by
  induction b generalizing s with
  | nil => exact endDrain_ok (raise_ok h)
  | cons t rest ih =>
    unfold bootSpare
    split
    · exact setBank_ok (setBank_ok (ok_congr (s := picked s) (picked_ok h) rfl rfl rfl rfl))
    · exact ih (setBank_ok (picked_ok h))

theorem bootMigration_ok {q : Claim} {s : State} (h : Ok q s) : Ok q (bootMigration s) := by
  unfold bootMigration
  split
  · assumption
  · extract_lets +onlyGivenNames x0
    extract_lets +onlyGivenNames x1
    have hx1 : Ok q x1 := by
      unfold x1
      refine ok_congr (s := s) ?_ rfl rfl rfl rfl
      assumption
    clear_value x1
    split
    · refine setBank_ok ?_
      refine setBank_ok ?_
      assumption
    · refine bootSpare_ok ?_
      assumption

theorem restoreBanks_ok {q : Claim} {s : State} (h : Ok q s) : Ok q (restoreBanks s) := by
  unfold restoreBanks
  extract_lets +onlyGivenNames x0
  have hx0 : Ok q x0 := by
    unfold x0
    refine bootMigration_ok ?_
    refine lapseRetirements_ok ?_
    assumption
  clear_value x0
  refine ok_foldl ?_ ?_
  · assumption
  · intro z1 z2 z3
    refine endDrain_ok ?_
    assumption

theorem markRetill_ok {q : Claim} {s : State} (h : Ok q s) : Ok q (markRetill s) := by
  unfold markRetill
  extract_lets +onlyGivenNames x0
  split
  · refine ok_congr (s := s) ?_ rfl rfl rfl rfl
    assumption
  · split
    · refine ok_congr (s := s) ?_ rfl rfl rfl rfl
      assumption
    · assumption

theorem restoreLedger_ok {q : Claim} {s : State} (h : Ok q s) : Ok q (restoreLedger s).2 := by
  unfold restoreLedger
  extract_lets +onlyGivenNames x0
  extract_lets +onlyGivenNames x1
  extract_lets +onlyGivenNames x2
  have hx2 : Ok q x2 := by
    unfold x2
    refine markRetill_ok ?_
    assumption
  clear_value x2
  dsimp -zeta only
  refine ok_congr (s := x2) ?_ rfl rfl rfl rfl
  assumption

theorem fillPolicers_ok {q : Claim} {s : State} (h : Ok q s) : Ok q (fillPolicers s) := by
  unfold fillPolicers
  refine ok_congr (s := s) ?_ rfl rfl rfl rfl
  assumption

theorem loadBank_ok {q : Claim} {s : State} (h : Ok q s) : Ok q (loadBank s) := by
  unfold loadBank
  extract_lets +onlyGivenNames x0
  have hx0 : Ok q x0 := by
    unfold x0
    refine restartTeams_ok ?_
    refine ok_congr (s := s) ?_ rfl rfl rfl rfl
    assumption
  clear_value x0
  extract_lets +onlyGivenNames x1
  refine ok_congr (s := x0) ?_ rfl rfl rfl rfl
  assumption

theorem startControllers_ok {q : Claim} {s : State} (h : Ok q s) : Ok q (startControllers s) := by
  unfold startControllers
  extract_lets +onlyGivenNames x0
  extract_lets +onlyGivenNames x1
  have hx1 : Ok q x1 := by
    unfold x1
    refine ok_foldl ?_ ?_
    · refine ok_congr (s := s) ?_ rfl rfl rfl rfl
      assumption
    · intro z2 z3 z4
      refine enableRow_ok ?_
      assumption
  clear_value x1
  refine drivePins_ok ?_
  assumption

theorem startPorts_ok {q : Claim} {s : State} (h : Ok q s) : Ok q (startPorts s) := by
  unfold startPorts
  extract_lets +onlyGivenNames x0
  extract_lets +onlyGivenNames x1
  have hx1 : Ok q x1 := by
    unfold x1
    refine ok_congr (s := s) ?_ rfl rfl rfl rfl
    assumption
  clear_value x1
  refine ok_foldl ?_ ?_
  · assumption
  · intro z2 z3 z4
    split
    · refine startVerify_ok ?_
      refine setPort_ok ?_
      assumption
    · assumption

theorem rejoinField_ok {q : Claim} {s : State} (h : Ok q s) : Ok q (rejoinField s) := by
  unfold rejoinField
  split
  · refine startJoin_ok ?_
    refine ok_congr (s := s) ?_ rfl rfl rfl rfl
    assumption
  · assumption

theorem bootReport_ok {q : Claim} {recs : List Record} {faults : ℕ} {s : State} (h : Ok q s) : Ok q (bootReport recs faults s) := by
  unfold bootReport
  refine raise_ok ?_
  generalize reportBytes recs faults _ = d
  exact ok_memories (s := s) h rfl rfl (fun w => mwrite_wf w) id

theorem wakeReported_ok {q : Claim} {left : PowerState} {s : State} (h : Ok q s) : Ok q (wakeReported left s) := by
  unfold wakeReported
  extract_lets +onlyGivenNames x0
  extract_lets +onlyGivenNames x1
  have hx1 : Ok q x1 := by
    unfold x1
    refine raise_ok ?_
    refine ok_congr (s := s) ?_ rfl rfl rfl rfl
    assumption
  clear_value x1
  split
  · refine trueWake_ok ?_
    assumption
  · assumption

theorem reachReady_ok {q : Claim} {s : State} (h : Ok q s) : Ok q (reachReady s) := by
  unfold reachReady
  refine ok_congr (s := s) ?_ rfl rfl rfl rfl
  assumption

theorem latchStraps_ok {q : Claim} {straps : ℕ} {s : State} (h : Ok q s) : Ok q (latchStraps straps s) := by
  unfold latchStraps
  refine clearHold_ok ?_
  refine ok_congr (s := s) ?_ rfl rfl rfl rfl
  assumption

theorem recoveryBoot_ok {q : Claim} {s : State} (h : Ok q s) : Ok q (recoveryBoot s) := by
  unfold recoveryBoot
  refine ok_congr (s := s) ?_ rfl rfl rfl rfl
  assumption

theorem fullStart_ok {q : Claim} {s : State} (h : Ok q s) : Ok q (fullStart s) := by
  unfold fullStart
  extract_lets +onlyGivenNames x0
  have hx0 : Ok q x0.2 := by
    unfold x0
    refine bootSelect_ok ?_
    assumption
  clear_value x0
  split
  · extract_lets +onlyGivenNames x1
    have hx1 : Ok q x1 := by
      unfold x1
      assumption
    clear_value x1
    refine ok_congr (s := x1) ?_ rfl rfl rfl rfl
    assumption
  · extract_lets +onlyGivenNames x2
    have hx2 : Ok q x2.2 := by
      unfold x2
      refine restoreLedger_ok ?_
      refine restoreBanks_ok ?_
      assumption
    clear_value x2
    extract_lets +onlyGivenNames x3
    extract_lets +onlyGivenNames x4
    have hx4 : Ok q x4 := by
      unfold x4
      refine startPorts_ok ?_
      refine startControllers_ok ?_
      refine loadBank_ok ?_
      assumption
    clear_value x4
    extract_lets +onlyGivenNames x5
    have hx5 : Ok q x5 := by
      unfold x5
      refine confirmAtBoot_ok ?_
      refine reachReady_ok ?_
      assumption
    clear_value x5
    extract_lets +onlyGivenNames x6
    extract_lets +onlyGivenNames x7
    have hx7 : Ok q x7 := by
      unfold x7
      refine rejoinField_ok ?_
      refine bootReport_ok ?_
      assumption
    clear_value x7
    split
    · assumption
    · refine wakeReported_ok ?_
      assumption

theorem seedTime_ok {q : Claim} {s : State} (h : Ok q s) : Ok q (seedTime s) := by
  unfold seedTime
  extract_lets +onlyGivenNames x0
  refine setTimeState_ok ?_
  refine ok_congr (s := s) ?_ rfl rfl rfl rfl
  assumption

theorem restoreKeys_ok {q : Claim} {s : State} (h : Ok q s) : Ok q (restoreKeys s) := by
  unfold restoreKeys
  extract_lets +onlyGivenNames x0
  refine ok_foldl ?_ ?_
  · refine ok_congr (s := s) ?_ rfl rfl rfl rfl
    assumption
  · intro z1 z2 z3
    refine raise_ok ?_
    assumption

theorem wakeStart_ok {q : Claim} {s : State} (h : Ok q s) : Ok q (wakeStart s) := by
  unfold wakeStart
  extract_lets +onlyGivenNames x0
  extract_lets +onlyGivenNames x1
  have hx1 : Ok q x1 := by
    unfold x1
    refine restoreKeys_ok ?_
    refine seedTime_ok ?_
    refine startPorts_ok ?_
    refine startControllers_ok ?_
    refine loadBank_ok ?_
    assumption
  clear_value x1
  extract_lets +onlyGivenNames x2
  have hx2 : Ok q x2 := by
    unfold x2
    refine reachReady_ok ?_
    assumption
  clear_value x2
  refine wakeReported_ok ?_
  refine bootReport_ok ?_
  assumption

theorem execStartSequence_ok {q : Claim} {straps : ℕ} {s : State} (h : Ok q s) : OkR q (execStartSequence straps s) := by
  unfold execStartSequence
  split
  · refine ok_goes ?_
    assumption
  · extract_lets +onlyGivenNames x0
    have hx0 : Ok q x0 := by
      unfold x0
      refine latchStraps_ok ?_
      assumption
    clear_value x0
    refine ok_goes ?_
    split
    · refine recoveryBoot_ok ?_
      assumption
    · split
      · refine wakeStart_ok ?_
        assumption
      · refine fullStart_ok ?_
        assumption


end Sys2Proof.Machine
end

