-- ==== Sys2Proof/Laws/Keeps/Restart.lean ====
section
/-! SUPPORT. Every function of Machine/Restart.lean that answers a state keeps the invariant and the queue. -/

namespace Sys2Proof.Machine

theorem zeroKeys_ok {q : Claim} {s : State} (h : Ok q s) : Ok q (zeroKeys s) := by
  unfold zeroKeys
  extract_lets +onlyGivenNames x0
  extract_lets +onlyGivenNames x1
  have hx1 : Ok q x1 := by
    unfold x1
    refine raise_ok ?_
    refine eraseAll_ok ?_
    refine ok_congr (s := s) ?_ rfl rfl rfl rfl
    assumption
  clear_value x1
  refine ok_congr (s := x1) ?_ rfl rfl rfl rfl
  assumption

theorem zeroSteward_ok {q : Claim} {s : State} (h : Ok q s) : Ok q (zeroSteward s) := by
  unfold zeroSteward
  extract_lets +onlyGivenNames x0
  have hx0 : Ok q x0 := by
    unfold x0
    refine stewardReset_ok ?_
    assumption
  clear_value x0
  refine ok_events (s := x0) ?_ rfl ?_ rfl rfl rfl
  · assumption
  · exact fun w => intn_congr w rfl rfl rfl rfl

theorem openGate_ok {q : Claim} {s : State} (h : Ok q s) : Ok q (openGate s) := by
  unfold openGate
  extract_lets +onlyGivenNames x0
  extract_lets +onlyGivenNames x1
  have hx1 : Ok q x1 := by
    unfold x1
    refine raiseSession_ok ?_
    refine clearTraffic_ok ?_
    refine zeroKeys_ok ?_
    assumption
  clear_value x1
  extract_lets +onlyGivenNames x2
  have hx2 : Ok q x2 := by
    unfold x2
    refine zeroSteward_ok ?_
    assumption
  clear_value x2
  refine ok_congr (s := x2) ?_ rfl rfl rfl rfl
  assumption

theorem dropInner_ok {q : Claim} {s : State} (h : Ok q s) : Ok q (dropInner s) := by
  unfold dropInner
  refine ok_congr (s := s) ?_ rfl rfl rfl rfl
  assumption

theorem abandonOp_ok {q : Claim} {s : State} {o : Op} (h : Ok q s) : Ok q (abandonOp s o) := by
  unfold abandonOp
  split
  · refine endNow_ok ?_
    assumption
  · split
    · assumption
    · refine finishOp_ok ?_
      assumption

theorem settleOp_ok {q : Claim} {s : State} {o : Op} (h : Ok q s) : Ok q (settleOp s o) := by
  unfold settleOp
  split
  · refine finishOp_ok ?_
    assumption
  · split
    · refine finishOp_ok ?_
      assumption
    · refine abandonOp_ok ?_
      assumption

theorem reopen_ok {q : Claim} {s : State} (h : Ok q s) : Ok q (reopen s) := by
  unfold reopen
  extract_lets +onlyGivenNames x0
  have hx0 : Ok q x0 := by
    unfold x0
    refine restoreLedger_ok ?_
    assumption
  clear_value x0
  extract_lets +onlyGivenNames x1
  have hx1 : Ok q x1 := by
    unfold x1
    refine startControllers_ok ?_
    refine loadBank_ok ?_
    assumption
  clear_value x1
  refine ok_foldl ?_ ?_
  · assumption
  · intro z2 z3 z4
    refine settleOp_ok ?_
    assumption

theorem faultEvent_ok {q : Claim} {s : State} (h : Ok q s) : Ok q (faultEvent s) := by
  unfold faultEvent
  extract_lets +onlyGivenNames x0
  extract_lets +onlyGivenNames x1
  extract_lets +onlyGivenNames x2
  have hx2 : Ok q x2 := by
    unfold x2
    refine ok_congr (s := s) ?_ rfl rfl rfl rfl
    assumption
  split
  · refine raiseD_ok ?_
    assumption
  · assumption

theorem scanQueues_ok {q : Claim} {s : State} (h : Ok q s) : Ok q (scanQueues s) := by
  unfold scanQueues
  refine ok_congr (s := s) ?_ rfl rfl rfl rfl
  assumption

theorem execStewardRestartDone_ok {q : Claim} {s : State} (h : Ok q s) : OkR q (execStewardRestartDone s) := by
  unfold execStewardRestartDone
  split
  · refine ok_goes ?_
    assumption
  · extract_lets +onlyGivenNames x0
    have hx0 : Ok q x0.2 := by
      unfold x0
      refine bootSelect_ok ?_
      assumption
    clear_value x0
    split
    · refine ok_goes ?_
      extract_lets +onlyGivenNames x1
      have hx1 : Ok q x1 := by
        unfold x1
        assumption
      clear_value x1
      refine ok_congr (s := x1) ?_ rfl rfl rfl rfl
      assumption
    · extract_lets +onlyGivenNames x2
      have hx2 : Ok q x2 := by
        unfold x2
        assumption
      clear_value x2
      extract_lets +onlyGivenNames x3
      extract_lets +onlyGivenNames x4
      extract_lets +onlyGivenNames x5
      have hx5 : Ok q x5 := by
        unfold x5
        refine scanQueues_ok ?_
        refine confirmAtBoot_ok ?_
        refine ok_congr (s := x2) ?_ rfl rfl rfl rfl
        assumption
      clear_value x5
      split
      · refine ok_goes ?_
        refine reopen_ok ?_
        assumption
      · refine ok_goes ?_
        refine ok_foldl ?_ ?_
        · refine faultEvent_ok ?_
          assumption
        · intro z6 z7 z8
          refine abandonOp_ok ?_
          assumption


end Sys2Proof.Machine
end

