-- ==== Sys2Proof/Laws/Keeps/Fallow.lean ====
section
/-! SUPPORT. Every function of Machine/Fallow.lean that answers a state keeps the invariant and the queue. -/

namespace Sys2Proof.Machine

theorem actFallowEnter_ok {q : Claim} {c : Call} {a1 : ℕ} {s : State} (h : Ok q s) : OkW q (actFallowEnter c a1 s) := by
  unfold actFallowEnter
  extract_lets +onlyGivenNames x0
  split
  · refine okw_mk ?_ ?_
    · dsimp -zeta only
      assumption
    · intro z1 z2
      dsimp -zeta only
      dsimp -zeta only [id]
      assumption
  · split
    · refine okw_mk ?_ ?_
      · dsimp -zeta only
        assumption
      · intro z3 z4
        dsimp -zeta only
        dsimp -zeta only [id]
        assumption
    · extract_lets +onlyGivenNames x5
      refine okw_mk ?_ ?_
      · dsimp -zeta only
        refine ok_congr (s := s) ?_ rfl rfl rfl rfl
        assumption
      · intro z6 z7
        dsimp -zeta only
        dsimp -zeta only [id]
        assumption

theorem cmdFallowEnter_ok : CmdOk cmdFallowEnter := by
  intro q c n s h
  unfold cmdFallowEnter
  dsimp -zeta only
  refine actFallowEnter_ok ?_
  assumption

theorem execFallowEnter_ok {q : Claim} {c : Call} {s : State} (h : Ok q s) : OkR q (execFallowEnter c s) := by
  unfold execFallowEnter
  refine ok_goes ?_
  refine serve_ok ?_ ?_
  · refine cmdFallowEnter_ok
  · assumption

theorem dropLater_ok {q : Claim} {t : ℕ} {s : State} (h : Ok q s) : Ok q (dropLater t s) := by
  unfold dropLater
  extract_lets +onlyGivenNames x0
  refine ok_foldl ?_ ?_
  · refine ok_congr (s := s) ?_ rfl rfl rfl rfl
    assumption
  · intro z1 z2 z3
    refine discardCopy_ok ?_
    assumption

theorem beginDrain_ok {q : Claim} {s : State} (h : Ok q s) : Ok q (beginDrain s) := by
  unfold beginDrain
  extract_lets +onlyGivenNames x0
  refine dropLater_ok ?_
  refine ok_congr (s := s) ?_ rfl rfl rfl rfl
  assumption

theorem keepForWake_ok {q : Claim} {s : State} (h : Ok q s) : Ok q (keepForWake s) := by
  unfold keepForWake
  refine ok_congr (s := s) ?_ rfl rfl rfl rfl
  assumption

theorem arm_ok {q : Claim} {t : PowerState} {s : State} (h : Ok q s) : Ok q (arm t s) := by
  unfold arm
  extract_lets +onlyGivenNames x0
  have hx0 : Ok q x0 := by
    unfold x0
    refine ok_foldl ?_ ?_
    · assumption
    · intro z1 z2 z3
      refine stopRing_ok ?_
      assumption
  clear_value x0
  extract_lets +onlyGivenNames x4
  have hx4 : Ok q x4 := by
    unfold x4
    refine keepForWake_ok ?_
    assumption
  clear_value x4
  extract_lets +onlyGivenNames x5
  extract_lets +onlyGivenNames x6
  have hx6 : Ok q x6 := by
    unfold x6
    refine ok_congr (s := x4) ?_ rfl rfl rfl rfl
    assumption
  clear_value x6
  split
  · refine endOp_ok ?_
    assumption
  · assumption

theorem enterListen_ok {q : Claim} {s : State} (h : Ok q s) : Ok q (enterListen s) := by
  unfold enterListen
  extract_lets +onlyGivenNames x0
  extract_lets +onlyGivenNames x1
  have hx1 : Ok q x1 := by
    unfold x1
    split
    · refine freeze_ok ?_
      assumption
    · assumption
  clear_value x1
  refine ok_congr (s := x1) ?_ rfl rfl rfl rfl
  assumption

theorem enterOff_ok {q : Claim} {s : State} (h : Ok q s) : Ok q (enterOff s) :=
  ok_memories (s := s) h rfl rfl (fun _ => rfl) id

theorem reach_ok {q : Claim} {t : PowerState} {s : State} (h : Ok q s) : Ok q (reach t s) := by
  unfold reach
  extract_lets +onlyGivenNames x0
  have hx0 : Ok q x0 := by
    unfold x0
    refine clearHold_ok ?_
    refine clearTraffic_ok ?_
    refine raiseSession_ok ?_
    assumption
  clear_value x0
  extract_lets +onlyGivenNames x1
  extract_lets +onlyGivenNames x2
  have hx2 : Ok q x2 := by
    unfold x2
    refine ok_congr (s := x0) ?_ rfl rfl rfl rfl
    assumption
  clear_value x2
  split
  · refine enterListen_ok ?_
    assumption
  · refine enterOff_ok ?_
    assumption

theorem entryStep_ok {q : Claim} {s : State} (h : Ok q s) : Ok q (entryStep s) := by
  unfold entryStep
  split
  · refine reach_ok ?_
    assumption
  · assumption
  · split
    · split
      · refine ok_congr (s := s) ?_ rfl rfl rfl rfl
        assumption
      · assumption
    · split
      · refine beginDrain_ok ?_
        assumption
      · refine ok_congr (s := s) ?_ rfl rfl rfl rfl
        assumption
    · split
      · refine arm_ok ?_
        assumption
      · assumption

theorem wakeCause_ok {q : Claim} {t : PowerState} {src : ℕ} {s : State} (h : Ok q s) : Ok q (wakeCause t src s) := by
  unfold wakeCause
  refine ok_congr (s := s) ?_ rfl rfl rfl rfl
  assumption

theorem resumeListen_ok {q : Claim} {s : State} (h : Ok q s) : Ok q (resumeListen s) := by
  unfold resumeListen
  extract_lets +onlyGivenNames x0
  extract_lets +onlyGivenNames x1
  have hx1 : Ok q x1 := by
    unfold x1
    refine ok_foldl ?_ ?_
    · assumption
    · intro z2 z3 z4
      split
      · refine startVerify_ok ?_
        refine setPort_ok ?_
        assumption
      · assumption
  clear_value x1
  extract_lets +onlyGivenNames x5
  have hx5 : Ok q x5 := by
    unfold x5
    refine restoreKeys_ok ?_
    split
    · refine setTimeState_ok ?_
      assumption
    · assumption
  clear_value x5
  refine wakeReported_ok ?_
  refine ok_congr (s := x5) ?_ rfl rfl rfl rfl
  assumption

theorem beginWake_ok {q : Claim} {t : PowerState} {src : ℕ} {ch : ℕ} {filter : ℕ} {s : State} (h : Ok q s) : Ok q (beginWake t src ch filter s) := by
  unfold beginWake
  extract_lets +onlyGivenNames x0
  have hx0 : Ok q x0 := by
    unfold x0
    refine wakeCause_ok ?_
    refine recordWake_ok ?_
    assumption
  clear_value x0
  split
  · refine resumeListen_ok ?_
    assumption
  · extract_lets +onlyGivenNames x1
    have hx1 : Ok q x1 := by
      unfold x1
      refine clearing_ok ?_
      assumption
    clear_value x1
    refine ok_congr (s := x1) ?_ rfl rfl rfl rfl
    assumption
  · refine ok_congr (s := x0) ?_ rfl rfl rfl rfl
    assumption

theorem seeWake_ok {q : Claim} {src : ℕ} {ch : ℕ} {filter : ℕ} {s : State} (h : Ok q s) : Ok q (seeWake src ch filter s) := by
  unfold seeWake
  extract_lets +onlyGivenNames x0
  extract_lets +onlyGivenNames x1
  extract_lets +onlyGivenNames x2
  extract_lets +onlyGivenNames x3
  extract_lets +onlyGivenNames x4
  have hx4 : Ok q x4 := by
    unfold x4
    refine ok_congr (s := s) ?_ rfl rfl rfl rfl
    assumption
  clear_value x4
  split
  · refine ok_congr (s := x4) ?_ rfl rfl rfl rfl
    assumption
  · assumption

theorem wakeFrom_ok {q : Claim} {src : ℕ} {ch : ℕ} {filter : ℕ} {s : State} (h : Ok q s) : Ok q (wakeFrom src ch filter s) := by
  unfold wakeFrom
  split
  · split
    · refine abandonEntry_ok ?_
      assumption
    · assumption
  · extract_lets +onlyGivenNames x0
    split
    · refine beginWake_ok ?_
      assumption
    · split
      · refine seeWake_ok ?_
        assumption
      · assumption

theorem execWakePin_ok {q : Claim} {n : ℕ} {rising : Bool} {s : State} (h : Ok q s) : OkR q (execWakePin n rising s) := by
  unfold execWakePin
  extract_lets +onlyGivenNames x0
  refine ok_goes ?_
  split
  · refine wakeFrom_ok ?_
    assumption
  · assumption

theorem execCanWakeUpPattern_ok {q : Claim} {s : State} (h : Ok q s) : OkR q (execCanWakeUpPattern s) := by
  unfold execCanWakeUpPattern
  refine ok_goes ?_
  refine wakeFrom_ok ?_
  assumption

theorem execWakeTimer_ok {q : Claim} {s : State} (h : Ok q s) : OkR q (execWakeTimer s) := by
  unfold execWakeTimer
  refine ok_goes ?_
  refine wakeFrom_ok ?_
  assumption

theorem execEthernetWakePattern_ok {q : Claim} {frame : Bytes} {s : State} (h : Ok q s) : OkR q (execEthernetWakePattern frame s) := by
  unfold execEthernetWakePattern
  refine ok_goes ?_
  split
  · refine wakeFrom_ok ?_
    assumption
  · assumption

theorem selectiveFrame_ok {q : Claim} {ch : ℕ} {f : WakeFrame} {s : State} (h : Ok q s) : Ok q (selectiveFrame ch f s) := by
  unfold selectiveFrame
  extract_lets +onlyGivenNames x0
  split
  · extract_lets +onlyGivenNames x1
    extract_lets +onlyGivenNames x2
    have hx2 : Ok q x2 := by
      unfold x2
      refine ok_congr (s := s) ?_ rfl rfl rfl rfl
      assumption
    clear_value x2
    split
    · refine wakeFrom_ok ?_
      assumption
    · assumption
  · extract_lets +onlyGivenNames x3
    extract_lets +onlyGivenNames x4
    have hx4 : Ok q x4 := by
      unfold x4
      refine ok_congr (s := s) ?_ rfl rfl rfl rfl
      assumption
    clear_value x4
    split
    · refine wakeFrom_ok ?_
      assumption
    · assumption

theorem execCanSelectiveWake_ok {q : Claim} {ch : ℕ} {f : WakeFrame} {s : State} (h : Ok q s) : OkR q (execCanSelectiveWake ch f s) := by
  unfold execCanSelectiveWake
  refine ok_goes ?_
  split
  · refine selectiveFrame_ok ?_
    assumption
  · assumption

theorem countFalse_ok {q : Claim} {src : ℕ} {s : State} (h : Ok q s) : Ok q (countFalse src s) := by
  unfold countFalse
  extract_lets +onlyGivenNames x0
  extract_lets +onlyGivenNames x1
  have hx1 : Ok q x1 := by
    unfold x1
    refine ok_congr (s := s) ?_ rfl rfl rfl rfl
    assumption
  clear_value x1
  split
  · refine ok_congr (s := x1) ?_ rfl rfl rfl rfl
    assumption
  · assumption

theorem execFalseWakeTimeout_ok {q : Claim} {s : State} (h : Ok q s) : OkR q (execFalseWakeTimeout s) := by
  unfold execFalseWakeTimeout
  split
  · refine ok_goes ?_
    assumption
  · extract_lets +onlyGivenNames x0
    have hx0 : Ok q x0 := by
      unfold x0
      refine countFalse_ok ?_
      assumption
    clear_value x0
    refine ok_goes ?_
    split
    · refine ok_congr (s := x0) ?_ rfl rfl rfl rfl
      assumption
    · assumption

theorem execBackoffEnd_ok {q : Claim} {src : ℕ} {s : State} (h : Ok q s) : OkR q (execBackoffEnd src s) := by
  unfold execBackoffEnd
  refine ok_goes ?_
  refine ok_congr (s := s) ?_ rfl rfl rfl rfl
  assumption

theorem autoTarget_ok {q : Claim} {s : State} (h : Ok q s) : Ok q (autoTarget s).2 := by
  unfold autoTarget
  extract_lets +onlyGivenNames x0
  split
  · dsimp -zeta only
    refine agreementEvent_ok ?_
    assumption
  · dsimp -zeta only
    assumption

theorem execAutomaticFallowEntry_ok {q : Claim} {s : State} (h : Ok q s) : OkR q (execAutomaticFallowEntry s) := by
  unfold execAutomaticFallowEntry
  split
  · refine ok_goes ?_
    assumption
  · extract_lets +onlyGivenNames x0
    have hx0 : Ok q x0.2 := by
      unfold x0
      refine autoTarget_ok ?_
      assumption
    clear_value x0
    refine ok_goes ?_
    split
    · assumption
    · extract_lets +onlyGivenNames x1
      have hx1 : Ok q x1 := by
        unfold x1
        assumption
      clear_value x1
      refine ok_congr (s := x1) ?_ rfl rfl rfl rfl
      assumption


end Sys2Proof.Machine
end

