-- ==== Sys2Proof/Laws/Keeps/Loader.lean ====
section
/-! SUPPORT. Every function of Machine/Loader.lean that answers a state keeps the invariant and the queue. -/

namespace Sys2Proof.Machine

theorem variant_ok {a b : Cmd} {n : ℕ} {k : Cmd} (ha : CmdOk a) (hb : CmdOk b) (h : variant [a, b] n = some k) : CmdOk k := by
  match n, h with
  | 0, h => injection h with h; exact h ▸ ha
  | 1, h => injection h with h; exact h ▸ hb
  | n + 2, h => injection h with h; exact h ▸ ha

theorem bankCmd_ok {op : ℕ} {c : Call} {k : Cmd} (h : bankCmd op c = some k) : CmdOk k := by
  unfold bankCmd at h
  split at h
  all_goals first
    | (injection h with h; subst h; first
      | exact cmdRowBind_ok | exact cmdRowEnable_ok | exact cmdRowDisable_ok | exact cmdRowFramingSet_ok | exact cmdRouteAdd_ok
      | exact cmdRouteRemove_ok | exact cmdTeamSet_ok | exact cmdRewriteSet_ok | exact cmdFurrowListWrite_ok | exact cmdShaperSet_ok
      | exact cmdSheafSet_ok | exact cmdRuleClear_ok | exact cmdPolicerSet_ok | exact cmdZoneSet_ok | exact cmdTallyBind_ok
      | exact cmdTallyRelease_ok | exact cmdFieldPinAssign_ok | exact cmdUartConfig_ok | exact cmdLinConfig_ok | exact cmdMvbConfig_ok)
    | exact variant_ok cmdSieveSet_ok cmdSieveClear_ok h
    | exact variant_ok cmdClassMapSet_ok cmdPoolAndGuardSet_ok h
    | exact variant_ok cmdRuleWrite_ok cmdRuleRead_ok h
    | exact variant_ok cmdCanConfig_ok cmdCanRecover_ok h
    | exact variant_ok cmdLsetWrite_ok cmdLsetRead_ok h
    | cases h

theorem stageRecord_ok {q : Claim} {k : Cmd} {c : Call} {p : Plot} {s : State} (h : CmdOk k) (h1 : Ok q s) : Ok q (stageRecord k c p s).2 := by
  unfold stageRecord
  split
  · extract_lets +onlyGivenNames x0
    have hx0 : OkW q x0 := by
      unfold x0
      refine actOn_ok ?_ ?_
      · assumption
      · assumption
    clear_value x0
    dsimp -zeta only
    exact hx0.1
  · split
    · dsimp -zeta only
      assumption
    · extract_lets +onlyGivenNames x1
      extract_lets +onlyGivenNames x2
      have hx2 : Ok q x2.2 := by
        unfold x2
        refine walkOn_ok ?_ ?_
        · assumption
        · refine ok_congr (s := s) ?_ rfl rfl rfl rfl
          assumption
      clear_value x2
      dsimp -zeta only
      extract_lets +onlyGivenNames x3
      have hx3 : Ok q x3 := by
        unfold x3
        assumption
      clear_value x3
      refine ok_congr (s := x3) ?_ rfl rfl rfl rfl
      assumption

theorem applyRecord_ok {q : Claim} {c : Call} {r : Bytes} {s : State} (h : Ok q s) : Ok q (applyRecord c r s).2 := by
  unfold applyRecord
  extract_lets +onlyGivenNames d
  clear_value d
  split
  · exact h
  · rename_i k hk
    split
    · exact h
    · split
      · exact h
      all_goals
        rename_i p _
        by_cases hc : k.check d s ≠ .ok
        · rw [if_pos hc]
          exact h
        · rw [if_neg hc]
          exact stageRecord_ok (bankCmd_ok hk) h

theorem loadWithin_ok {q : Claim} {c : Call} {n room k : ℕ} {rest : Bytes} {s : State} (h : Ok q s) :
    Ok q (loadWithin c n room rest k s).st := by
  induction n generalizing room rest k s with
  | zero => exact h
  | succ n ih =>
    have hx : Ok q (applyRecord c rest s).2 := applyRecord_ok h
    unfold loadWithin
    extract_lets +onlyGivenNames len x
    change Ok q x.2 at hx
    clear_value len x
    split
    · exact h
    split
    · exact h
    split
    · exact h
    split
    · exact hx
    · exact ih hx

theorem loadRecords_ok {q : Claim} {upTo : ℕ} {c : Call} {rest : Bytes} {applied : ℕ} {s : State} (h : Ok q s) : Ok q (loadRecords upTo c rest applied s).st := by
  unfold loadRecords
  refine loadWithin_ok ?_
  assumption


end Sys2Proof.Machine
end

