-- ==== Sys2Proof/Laws/Keeps/PortEvents.lean ====
section
/-! SUPPORT. Every function of Machine/PortEvents.lean that answers a state keeps the invariant and the queue. -/

namespace Sys2Proof.Machine

theorem execPauseFrame_ok {q : Claim} {p : ℕ} {m : PauseMsg} {s : State} (h : Ok q s) : OkR q (execPauseFrame p m s) := by
  unfold execPauseFrame
  refine ok_goes ?_
  split
  · assumption
  · refine receivePause_ok ?_
    assumption

theorem movePause_ok {q : Claim} {p : ℕ} {tc : ℕ} {old : ℕ} {v : PauseRt} {s : State} (h : Ok q s) : Ok q (movePause p tc old v s) := by
  unfold movePause
  refine ok_foldl ?_ ?_
  · assumption
  · intro z0 z1 z2
    refine setPause_ok ?_
    assumption

theorem execPauseTimerExpiry_ok {q : Claim} {p : ℕ} {tc : ℕ} {s : State} (h : Ok q s) : OkR q (execPauseTimerExpiry p tc s) := by
  unfold execPauseTimerExpiry
  refine ok_goes ?_
  refine movePause_ok ?_
  refine updateCredits_ok ?_
  assumption

theorem execPauseWatchdog_ok {q : Claim} {p : ℕ} {tc : ℕ} {s : State} (h : Ok q s) : OkR q (execPauseWatchdog p tc s) := by
  unfold execPauseWatchdog
  split
  · refine ok_goes ?_
    assumption
  · refine ok_goes ?_
    refine raise_ok ?_
    refine countPort_ok ?_
    refine countPort_ok ?_
    refine movePause_ok ?_
    refine updateCredits_ok ?_
    assumption

theorem execRecoveryPeriodEnd_ok {q : Claim} {p : ℕ} {tc : ℕ} {s : State} (h : Ok q s) : OkR q (execRecoveryPeriodEnd p tc s) := by
  unfold execRecoveryPeriodEnd
  refine ok_goes ?_
  refine movePause_ok ?_
  refine updateCredits_ok ?_
  assumption

theorem execPauseRepeat_ok {q : Claim} {p : ℕ} {s : State} (h : Ok q s) : OkR q (execPauseRepeat p s) := by
  unfold execPauseRepeat
  extract_lets +onlyGivenNames x0
  extract_lets +onlyGivenNames x1
  extract_lets +onlyGivenNames x2
  split
  · refine ok_goes ?_
    assumption
  · split
    · refine ok_goes ?_
      split
      · refine sendPause_ok ?_
        assumption
      · assumption
    · extract_lets +onlyGivenNames x3
      refine ok_goes ?_
      split
      · assumption
      · refine sendPause_ok ?_
        assumption
    · refine ok_goes ?_
      assumption

theorem execVerifyMpacket_ok {q : Claim} {p : ℕ} {s : State} (h : Ok q s) : OkR q (execVerifyMpacket p s) := by
  unfold execVerifyMpacket
  split
  · refine ok_goes ?_
    refine sendMpacket_ok ?_
    assumption
  · refine ok_goes ?_
    assumption

theorem execRespondMpacket_ok {q : Claim} {p : ℕ} {s : State} (h : Ok q s) : OkR q (execRespondMpacket p s) := by
  unfold execRespondMpacket
  split
  · refine ok_goes ?_
    refine setPort_ok ?_
    assumption
  · refine ok_goes ?_
    assumption

theorem execVerifyTime_ok {q : Claim} {p : ℕ} {s : State} (h : Ok q s) : OkR q (execVerifyTime p s) := by
  unfold execVerifyTime
  extract_lets +onlyGivenNames x0
  split
  · refine ok_goes ?_
    assumption
  · split
    · refine ok_goes ?_
      refine sendMpacket_ok ?_
      refine setPort_ok ?_
      assumption
    · refine ok_goes ?_
      refine raise_ok ?_
      refine countPort_ok ?_
      refine setPort_ok ?_
      assumption

theorem takeDown_ok {q : Claim} {p : ℕ} {s : State} (h : Ok q s) : Ok q (takeDown p s) := by
  unfold takeDown
  refine goDown_ok ?_
  refine dropLink_ok ?_
  refine countPort_ok ?_
  refine updateCredits_ok ?_
  assumption

theorem execLinkUp_ok {q : Claim} {p : ℕ} {speed : ℕ} {s : State} (h : Ok q s) : OkR q (execLinkUp p speed s) := by
  unfold execLinkUp
  extract_lets +onlyGivenNames x0
  split
  · refine ok_goes ?_
    assumption
  · split
    · extract_lets +onlyGivenNames x1
      have hx1 : Ok q x1 := by
        unfold x1
        split
        · refine takeDown_ok ?_
          assumption
        · assumption
      clear_value x1
      refine ok_goes ?_
      refine setPort_ok ?_
      assumption
    · split
      · refine ok_goes ?_
        refine goUp_ok ?_
        assumption
      · split
        · refine ok_goes ?_
          refine goUp_ok ?_
          refine takeDown_ok ?_
          assumption
        · split
          · refine ok_goes ?_
            refine startVerify_ok ?_
            refine setPort_ok ?_
            assumption
          · refine ok_goes ?_
            assumption

theorem execLinkLoss_ok {q : Claim} {p : ℕ} {s : State} (h : Ok q s) : OkR q (execLinkLoss p s) := by
  unfold execLinkLoss
  extract_lets +onlyGivenNames x0
  split
  · refine ok_goes ?_
    assumption
  · extract_lets +onlyGivenNames x1
    have hx1 : Ok q x1 := by
      unfold x1
      refine dropLink_ok ?_
      refine countPort_ok ?_
      refine updateCredits_ok ?_
      assumption
    clear_value x1
    split
    · refine ok_goes ?_
      refine goDown_ok ?_
      assumption
    · refine ok_goes ?_
      refine setPort_ok ?_
      assumption

theorem execLinkDownHoldOff_ok {q : Claim} {p : ℕ} {s : State} (h : Ok q s) : OkR q (execLinkDownHoldOff p s) := by
  unfold execLinkDownHoldOff
  split
  · refine ok_goes ?_
    refine goDown_ok ?_
    assumption
  · refine ok_goes ?_
    assumption


end Sys2Proof.Machine
end

