-- ==== Sys2Proof/Laws/Keeps/Maintenance.lean ====
section
/-! SUPPORT. Every function of Machine/Maintenance.lean that answers a state keeps the invariant and the queue. -/

namespace Sys2Proof.Machine

theorem cmdDeviceInfo_ok : CmdOk cmdDeviceInfo := by
  intro q c n s h
  unfold cmdDeviceInfo
  dsimp -zeta only
  refine okw_mk ?_ ?_
  · dsimp -zeta only
    assumption
  · intro z0 z1
    dsimp -zeta only
    dsimp -zeta only [id]
    assumption

theorem execDeviceInfo_ok {q : Claim} {c : Call} {s : State} (h : Ok q s) : OkR q (execDeviceInfo c s) := by
  unfold execDeviceInfo
  refine ok_goes ?_
  refine serve_ok ?_ ?_
  · refine cmdDeviceInfo_ok
  · assumption

theorem actSelfTest_ok {q : Claim} {c : Call} {a1 : ℕ} {s : State} (h : Ok q s) : OkW q (actSelfTest c a1 s) := by
  unfold actSelfTest
  extract_lets +onlyGivenNames x0
  extract_lets +onlyGivenNames x1
  extract_lets +onlyGivenNames x2
  refine okw_mk ?_ ?_
  · dsimp -zeta only
    refine picked_ok ?_
    assumption
  · intro z3 z4
    dsimp -zeta only
    dsimp -zeta only [id]
    assumption

theorem cmdSelfTest_ok : CmdOk cmdSelfTest := by
  intro q c n s h
  unfold cmdSelfTest
  dsimp -zeta only
  refine actSelfTest_ok ?_
  assumption

theorem execSelfTest_ok {q : Claim} {c : Call} {s : State} (h : Ok q s) : OkR q (execSelfTest c s) := by
  unfold execSelfTest
  refine ok_goes ?_
  refine serve_ok ?_ ?_
  · refine cmdSelfTest_ok
  · assumption

theorem loopPort_ok {q : Claim} {p : ℕ} {mode : ℕ} {s : State} (h : Ok q s) : Ok q (loopPort p mode s) := by
  unfold loopPort
  extract_lets +onlyGivenNames x0
  have hx0 : Ok q x0 := by
    unfold x0
    split
    · refine takeDown_ok ?_
      assumption
    · assumption
  clear_value x0
  extract_lets +onlyGivenNames x1
  extract_lets +onlyGivenNames x2
  have hx2 : Ok q x2 := by
    unfold x2
    refine ok_congr (s := x0) ?_ rfl rfl rfl rfl
    assumption
  clear_value x2
  split
  · refine goUp_ok ?_
    assumption
  · assumption

theorem actLoopback_ok {q : Claim} {c : Call} {a1 : ℕ} {s : State} (h : Ok q s) : OkW q (actLoopback c a1 s) := by
  unfold actLoopback
  extract_lets +onlyGivenNames x0
  extract_lets +onlyGivenNames x1
  extract_lets +onlyGivenNames x2
  split
  · refine okw_mk ?_ ?_
    · dsimp -zeta only
      assumption
    · intro z3 z4
      dsimp -zeta only
      dsimp -zeta only [id]
      assumption
  · split
    · refine okw_mk ?_ ?_
      · dsimp -zeta only
        refine loopPort_ok ?_
        assumption
      · intro z5 z6
        dsimp -zeta only
        dsimp -zeta only [id]
        assumption
    · refine okw_mk ?_ ?_
      · dsimp -zeta only
        refine ok_congr (s := s) ?_ rfl rfl rfl rfl
        assumption
      · intro z7 z8
        dsimp -zeta only
        dsimp -zeta only [id]
        assumption

theorem cmdLoopbackSet_ok : CmdOk cmdLoopbackSet := by
  intro q c n s h
  unfold cmdLoopbackSet
  dsimp -zeta only
  refine actLoopback_ok ?_
  assumption

theorem execLoopbackSet_ok {q : Claim} {c : Call} {s : State} (h : Ok q s) : OkR q (execLoopbackSet c s) := by
  unfold execLoopbackSet
  refine ok_goes ?_
  refine serve_ok ?_ ?_
  · refine cmdLoopbackSet_ok
  · assumption

theorem actLogRead_ok {q : Claim} {c : Call} {n : ℕ} {s : State} (h : Ok q s) : OkW q (actLogRead c n s) := by
  unfold actLogRead
  extract_lets +onlyGivenNames first given got oldest
  clear_value got
  exact ⟨ok_events (s := s) h rfl (fun hi => intn_congr hi rfl rfl rfl rfl) rfl rfl rfl, fun _ h => h⟩

theorem cmdEventLogRead_ok : CmdOk cmdEventLogRead := by
  intro q c n s h
  unfold cmdEventLogRead
  dsimp -zeta only
  refine actLogRead_ok ?_
  assumption

theorem execEventLogRead_ok {q : Claim} {c : Call} {s : State} (h : Ok q s) : OkR q (execEventLogRead c s) := by
  unfold execEventLogRead
  refine ok_goes ?_
  refine serve_ok ?_ ?_
  · refine cmdEventLogRead_ok
  · assumption

theorem cmdEcho_ok : CmdOk cmdEcho := by
  intro q c n s h
  unfold cmdEcho
  dsimp -zeta only
  refine okw_mk ?_ ?_
  · dsimp -zeta only
    assumption
  · intro z0 z1
    dsimp -zeta only
    dsimp -zeta only [id]
    assumption

theorem execEcho_ok {q : Claim} {c : Call} {s : State} (h : Ok q s) : OkR q (execEcho c s) := by
  unfold execEcho
  refine ok_goes ?_
  refine serve_ok ?_ ?_
  · refine cmdEcho_ok
  · assumption

theorem dropRetill_ok {q : Claim} {s : State} (h : Ok q s) : Ok q (dropRetill s) := by
  unfold dropRetill
  refine ok_congr (s := s) ?_ rfl rfl rfl rfl
  assumption

theorem actRetillBegin_ok {q : Claim} {c : Call} {a1 : ℕ} {s : State} (h : Ok q s) : OkW q (actRetillBegin c a1 s) := by
  unfold actRetillBegin
  extract_lets +onlyGivenNames x0
  split
  · refine okw_mk ?_ ?_
    · dsimp -zeta only
      assumption
    · intro z1 z2
      dsimp -zeta only
      dsimp -zeta only [id]
      assumption
  · split
    · refine okw_mk ?_ ?_
      · dsimp -zeta only
        assumption
      · intro z3 z4
        dsimp -zeta only
        dsimp -zeta only [id]
        assumption
    · extract_lets +onlyGivenNames x5
      extract_lets +onlyGivenNames x6
      have hx6 : Ok q x6 := by
        unfold x6
        refine openRecord_ok ?_
        assumption
      clear_value x6
      extract_lets +onlyGivenNames x7
      extract_lets +onlyGivenNames x8
      have hx8 : Ok q x8 := by
        unfold x8
        refine ok_congr (s := x6) ?_ rfl rfl rfl rfl
        assumption
      clear_value x8
      split
      · refine okw_mk ?_ ?_
        · dsimp -zeta only
          assumption
        · intro z9 z10
          dsimp -zeta only
          dsimp -zeta only [id]
          assumption
      · extract_lets +onlyGivenNames x11
        have hx11 : Ok q x11.st := by
          unfold x11
          refine loadRecords_ok ?_
          assumption
        clear_value x11
        split
        · refine okw_mk ?_ ?_
          · dsimp -zeta only
            refine closeRecord_ok ?_
            refine dropRetill_ok ?_
            assumption
          · intro z12 z13
            dsimp -zeta only
            dsimp -zeta only [id]
            assumption
        · split
          · refine okw_mk ?_ ?_
            · dsimp -zeta only
              assumption
            · intro z14 z15
              dsimp -zeta only
              dsimp -zeta only [id]
              assumption
          · refine okw_mk ?_ ?_
            · dsimp -zeta only
              assumption
            · intro z16 z17
              dsimp -zeta only
              dsimp -zeta only [id]
              assumption

theorem cmdRetillBegin_ok : CmdOk cmdRetillBegin := by
  intro q c n s h
  unfold cmdRetillBegin
  dsimp -zeta only
  refine actRetillBegin_ok ?_
  assumption

theorem execRetillBegin_ok {q : Claim} {c : Call} {s : State} (h : Ok q s) : OkR q (execRetillBegin c s) := by
  unfold execRetillBegin
  refine ok_goes ?_
  refine serve_ok ?_ ?_
  · refine cmdRetillBegin_ok
  · assumption

theorem writeSpareSlot_ok {q : Claim} {n : ℕ} {s : State} (h : Ok q s) : Ok q (writeSpareSlot n s) := by
  unfold writeSpareSlot
  split
  · refine ok_congr (s := s) ?_ rfl rfl rfl rfl
    assumption
  · refine ok_congr (s := s) ?_ rfl rfl rfl rfl
    assumption

theorem markSpare_ok {q : Claim} {s : State} (h : Ok q s) : Ok q (markSpare s) := by
  unfold markSpare
  refine ok_congr (s := s) ?_ rfl rfl rfl rfl
  assumption

theorem raiseTarget_ok {q : Claim} {s : State} (h : Ok q s) : Ok q (raiseTarget s) := by
  unfold raiseTarget
  refine retarget_ok ?_
  refine takeDemand_ok ?_
  assumption

theorem actRetillCommit_ok {q : Claim} {c : Call} {a1 : ℕ} {s : State} (h : Ok q s) : OkW q (actRetillCommit c a1 s) := by
  unfold actRetillCommit
  split
  · refine okw_mk ?_ ?_
    · dsimp -zeta only
      assumption
    · intro z0 z1
      dsimp -zeta only
      dsimp -zeta only [id]
      assumption
  · split
    · refine okw_mk ?_ ?_
      · dsimp -zeta only
        assumption
      · intro z2 z3
        dsimp -zeta only
        dsimp -zeta only [id]
        assumption
    · split
      · refine okw_mk ?_ ?_
        · dsimp -zeta only
          assumption
        · intro z4 z5
          dsimp -zeta only
          dsimp -zeta only [id]
          assumption
      · extract_lets +onlyGivenNames x6
        extract_lets +onlyGivenNames x7
        have hx7 : Ok q x7 := by
          unfold x7
          refine raiseTarget_ok ?_
          refine writeSpareSlot_ok ?_
          assumption
        clear_value x7
        refine okw_mk ?_ ?_
        · dsimp -zeta only
          refine ok_congr (s := x7) ?_ rfl rfl rfl rfl
          assumption
        · intro z8 z9
          dsimp -zeta only
          dsimp -zeta only [id]
          assumption

theorem cmdRetillCommit_ok : CmdOk cmdRetillCommit := by
  intro q c n s h
  unfold cmdRetillCommit
  dsimp -zeta only
  refine actRetillCommit_ok ?_
  assumption

theorem execRetillCommit_ok {q : Claim} {c : Call} {s : State} (h : Ok q s) : OkR q (execRetillCommit c s) := by
  unfold execRetillCommit
  refine ok_goes ?_
  refine serve_ok ?_ ?_
  · refine cmdRetillCommit_ok
  · assumption

theorem stopLoading_ok {q : Claim} {s : State} (h : Ok q s) : Ok q (stopLoading s) := by
  unfold stopLoading
  refine ok_congr (s := s) ?_ rfl rfl rfl rfl
  assumption

theorem actRetillAbort_ok {q : Claim} {a0 : Call} {a1 : ℕ} {s : State} (h : Ok q s) : OkW q (actRetillAbort a0 a1 s) := by
  unfold actRetillAbort
  split
  · refine okw_mk ?_ ?_
    · dsimp -zeta only
      assumption
    · intro z0 z1
      dsimp -zeta only
      dsimp -zeta only [id]
      assumption
  · split
    · refine okw_mk ?_ ?_
      · dsimp -zeta only
        refine stopLoading_ok ?_
        assumption
      · intro z2 z3
        dsimp -zeta only
        dsimp -zeta only [id]
        assumption
    · split
      · refine okw_mk ?_ ?_
        · dsimp -zeta only
          refine endOp_ok ?_
          refine dropRetill_ok ?_
          assumption
        · intro z4 z5
          dsimp -zeta only
          dsimp -zeta only [id]
          assumption
      · refine okw_mk ?_ ?_
        · dsimp -zeta only
          refine closeRecord_ok ?_
          refine dropRetill_ok ?_
          assumption
        · intro z6 z7
          dsimp -zeta only
          dsimp -zeta only [id]
          assumption

theorem cmdRetillAbort_ok : CmdOk cmdRetillAbort := by
  intro q c n s h
  unfold cmdRetillAbort
  dsimp -zeta only
  refine actRetillAbort_ok ?_
  assumption

theorem execRetillAbort_ok {q : Claim} {c : Call} {s : State} (h : Ok q s) : OkR q (execRetillAbort c s) := by
  unfold execRetillAbort
  refine ok_goes ?_
  refine serve_ok ?_ ?_
  · refine cmdRetillAbort_ok
  · assumption

theorem actLedger_ok {q : Claim} {c : Call} {a1 : ℕ} {s : State} (h : Ok q s) : OkW q (actLedger c a1 s) := by
  unfold actLedger
  extract_lets +onlyGivenNames x0
  refine okw_mk ?_ ?_
  · dsimp -zeta only
    assumption
  · intro z1 z2
    dsimp -zeta only
    dsimp -zeta only [id]
    assumption

theorem cmdLedgerState_ok : CmdOk cmdLedgerState := by
  intro q c n s h
  unfold cmdLedgerState
  dsimp -zeta only
  refine actLedger_ok ?_
  assumption

theorem execLedgerState_ok {q : Claim} {c : Call} {s : State} (h : Ok q s) : OkR q (execLedgerState c s) := by
  unfold execLedgerState
  refine ok_goes ?_
  refine serve_ok ?_ ?_
  · refine cmdLedgerState_ok
  · assumption

theorem writeImage_ok {q : Claim} {n : ℕ} {i : Bytes} {s : State} (h : Ok q s) : Ok q (writeImage n i s) := by
  unfold writeImage
  split
  · refine ok_congr (s := s) ?_ rfl rfl rfl rfl
    assumption
  · refine ok_congr (s := s) ?_ rfl rfl rfl rfl
    assumption

theorem endStaging_ok {q : Claim} {n : ℕ} {i : Bytes} {s : State} (h : Ok q s) : OkW q (endStaging n i s) := by
  unfold endStaging
  extract_lets +onlyGivenNames x0
  extract_lets +onlyGivenNames x1
  have hx1 : Ok q x1 := by
    unfold x1
    refine ok_congr (s := s) ?_ rfl rfl rfl rfl
    assumption
  clear_value x1
  split
  · refine okw_mk ?_ ?_
    · dsimp -zeta only
      refine closeRecord_ok ?_
      extract_lets +onlyGivenNames x2
      have hx2 : Ok q x2 := by
        unfold x2
        refine writeImage_ok ?_
        assumption
      clear_value x2
      refine ok_congr (s := x2) ?_ rfl rfl rfl rfl
      assumption
    · intro z3 z4
      dsimp -zeta only
      dsimp -zeta only [id]
      assumption
  · refine okw_mk ?_ ?_
    · dsimp -zeta only
      refine closeRecord_ok ?_
      extract_lets +onlyGivenNames x5
      have hx5 : Ok q x5 := by
        unfold x5
        refine writeImage_ok ?_
        assumption
      clear_value x5
      refine ok_congr (s := x5) ?_ rfl rfl rfl rfl
      assumption
    · intro z6 z7
      dsimp -zeta only
      dsimp -zeta only [id]
      assumption

theorem takeChunk_ok {q : Claim} {n : ℕ} {len : ℕ} {have_ : Bytes} {c : Call} {s : State} (h : Ok q s) : OkW q (takeChunk n len have_ c s) := by
  unfold takeChunk
  extract_lets +onlyGivenNames x0
  extract_lets +onlyGivenNames x1
  split
  · refine okw_mk ?_ ?_
    · dsimp -zeta only
      assumption
    · intro z2 z3
      dsimp -zeta only
      dsimp -zeta only [id]
      assumption
  · extract_lets +onlyGivenNames x4
    split
    · refine endStaging_ok ?_
      assumption
    · refine okw_mk ?_ ?_
      · dsimp -zeta only
        extract_lets +onlyGivenNames x5
        have hx5 : Ok q x5 := by
          unfold x5
          refine writeImage_ok ?_
          assumption
        clear_value x5
        refine ok_congr (s := x5) ?_ rfl rfl rfl rfl
        assumption
      · intro z6 z7
        dsimp -zeta only
        dsimp -zeta only [id]
        assumption

theorem firstChunk_ok {q : Claim} {c : Call} {s : State} (h : Ok q s) : OkW q (firstChunk c s) := by
  unfold firstChunk
  extract_lets +onlyGivenNames x0
  split
  · refine okw_mk ?_ ?_
    · dsimp -zeta only
      assumption
    · intro z1 z2
      dsimp -zeta only
      dsimp -zeta only [id]
      assumption
  · split
    · refine okw_mk ?_ ?_
      · dsimp -zeta only
        assumption
      · intro z3 z4
        dsimp -zeta only
        dsimp -zeta only [id]
        assumption
    · extract_lets +onlyGivenNames x5
      extract_lets +onlyGivenNames x6
      have hx6 : Ok q x6 := by
        unfold x6
        split
        · refine closeRecord_ok ?_
          refine ok_congr (s := s) ?_ rfl rfl rfl rfl
          assumption
        · assumption
      clear_value x6
      split
      · refine okw_mk ?_ ?_
        · dsimp -zeta only
          assumption
        · intro z7 z8
          dsimp -zeta only
          dsimp -zeta only [id]
          assumption
      · extract_lets +onlyGivenNames x9
        extract_lets +onlyGivenNames x10
        have hx10 : OkW q x10 := by
          unfold x10
          refine takeChunk_ok ?_
          refine openRecord_ok ?_
          assumption
        clear_value x10
        split
        · refine okw_mk ?_ ?_
          · dsimp -zeta only
            assumption
          · intro z11 z12
            dsimp -zeta only
            dsimp -zeta only [id]
            assumption
        · assumption

theorem actFwStage_ok {q : Claim} {c : Call} {a1 : ℕ} {s : State} (h : Ok q s) : OkW q (actFwStage c a1 s) := by
  unfold actFwStage
  split
  · refine okw_mk ?_ ?_
    · dsimp -zeta only
      assumption
    · intro z0 z1
      dsimp -zeta only
      dsimp -zeta only [id]
      assumption
  · split
    · refine firstChunk_ok ?_
      assumption
    · split
      · split
        · refine okw_mk ?_ ?_
          · dsimp -zeta only
            assumption
          · intro z2 z3
            dsimp -zeta only
            dsimp -zeta only [id]
            assumption
        · refine takeChunk_ok ?_
          assumption
      · refine okw_mk ?_ ?_
        · dsimp -zeta only
          assumption
        · intro z4 z5
          dsimp -zeta only
          dsimp -zeta only [id]
          assumption

theorem cmdFwStage_ok : CmdOk cmdFwStage := by
  intro q c n s h
  unfold cmdFwStage
  dsimp -zeta only
  refine actFwStage_ok ?_
  assumption

theorem execFwStage_ok {q : Claim} {c : Call} {s : State} (h : Ok q s) : OkR q (execFwStage c s) := by
  unfold execFwStage
  refine ok_goes ?_
  refine serve_ok ?_ ?_
  · refine cmdFwStage_ok
  · assumption

theorem thenReset_ok {q : Claim} {c : Call} {now : Bool} {w : Work} (h : OkW q w) : OkW q (thenReset c now w) := by
  unfold thenReset
  split
  · exact h
  split
  · exact okw_mk h.1 (fun _ hs => fullReset_ok hs)
  · exact okw_mk h.1 (fun _ hs => fullReset_ok hs)

theorem selectImage_ok {q : Claim} {n : ℕ} {trial : Bool} {s : State} (h : Ok q s) : Ok q (selectImage n trial s) := by
  unfold selectImage
  refine ok_congr (s := s) ?_ rfl rfl rfl rfl
  assumption

theorem actFwActivate_ok {q : Claim} {c : Call} {a1 : ℕ} {s : State} (h : Ok q s) : OkW q (actFwActivate c a1 s) := by
  unfold actFwActivate
  extract_lets +onlyGivenNames x0
  extract_lets +onlyGivenNames x1
  split
  · split
    · refine thenReset_ok ?_
      refine okw_mk ?_ ?_
      · dsimp -zeta only
        refine confirmImage_ok ?_
        assumption
      · intro z2
        intro z3
        dsimp -zeta only
        dsimp -zeta only [id]
        assumption
    · refine okw_mk ?_ ?_
      · dsimp -zeta only
        assumption
      · intro z4
        intro z5
        dsimp -zeta only
        dsimp -zeta only [id]
        assumption
  · split
    · refine okw_mk ?_ ?_
      · dsimp -zeta only
        assumption
      · intro z6
        intro z7
        dsimp -zeta only
        dsimp -zeta only [id]
        assumption
    · refine thenReset_ok ?_
      refine okw_mk ?_ ?_
      · dsimp -zeta only
        refine selectImage_ok ?_
        assumption
      · intro z8
        intro z9
        dsimp -zeta only
        dsimp -zeta only [id]
        assumption

theorem cmdFwActivate_ok : CmdOk cmdFwActivate := by
  intro q c n s h
  unfold cmdFwActivate
  dsimp -zeta only
  refine actFwActivate_ok ?_
  assumption

theorem execFwActivate_ok {q : Claim} {c : Call} {s : State} (h : Ok q s) : OkR q (execFwActivate c s) := by
  unfold execFwActivate
  refine ok_goes ?_
  refine serve_ok ?_ ?_
  · refine cmdFwActivate_ok
  · assumption

theorem actOpCancel_ok {q : Claim} {c : Call} {a1 : ℕ} {s : State} (h : Ok q s) : OkW q (actOpCancel c a1 s) := by
  unfold actOpCancel
  split
  · refine okw_mk ?_ ?_
    · dsimp -zeta only
      assumption
    · intro z0 z1
      dsimp -zeta only
      dsimp -zeta only [id]
      assumption
  · split
    · refine okw_mk ?_ ?_
      · dsimp -zeta only
        assumption
      · intro z2 z3
        dsimp -zeta only
        dsimp -zeta only [id]
        assumption
    · refine okw_mk ?_ ?_
      · dsimp -zeta only
        refine putOp_ok ?_
        assumption
      · intro z4 z5
        dsimp -zeta only
        dsimp -zeta only [id]
        assumption

theorem cmdOpCancel_ok : CmdOk cmdOpCancel := by
  intro q c n s h
  unfold cmdOpCancel
  dsimp -zeta only
  refine actOpCancel_ok ?_
  assumption

theorem execOpCancel_ok {q : Claim} {c : Call} {s : State} (h : Ok q s) : OkR q (execOpCancel c s) := by
  unfold execOpCancel
  refine ok_goes ?_
  refine serve_ok ?_ ?_
  · refine cmdOpCancel_ok
  · assumption

theorem actOpProgress_ok {q : Claim} {c : Call} {a1 : ℕ} {s : State} (h : Ok q s) : OkW q (actOpProgress c a1 s) := by
  unfold actOpProgress
  split
  · refine okw_mk ?_ ?_
    · dsimp -zeta only
      assumption
    · intro z0 z1
      dsimp -zeta only
      dsimp -zeta only [id]
      assumption
  · refine okw_mk ?_ ?_
    · dsimp -zeta only
      assumption
    · intro z2 z3
      dsimp -zeta only
      dsimp -zeta only [id]
      assumption

theorem cmdOpProgress_ok : CmdOk cmdOpProgress := by
  intro q c n s h
  unfold cmdOpProgress
  dsimp -zeta only
  refine actOpProgress_ok ?_
  assumption

theorem execOpProgress_ok {q : Claim} {c : Call} {s : State} (h : Ok q s) : OkR q (execOpProgress c s) := by
  unfold execOpProgress
  refine ok_goes ?_
  refine serve_ok ?_ ?_
  · refine cmdOpProgress_ok
  · assumption

theorem unlessRecovery_ok {q : Claim} {f : State → Work} {s : State} (h : ∀ b0, Ok q b0 → OkW q (f b0)) (h1 : Ok q s) : OkW q (unlessRecovery f s) := by
  unfold unlessRecovery
  split
  · refine okw_mk ?_ ?_
    · dsimp -zeta only
      assumption
    · intro z0 z1
      dsimp -zeta only
      dsimp -zeta only [id]
      assumption
  · refine h _ ?_
    assumption

theorem actResetFabric_ok {q : Claim} {c : Call} {a1 : ℕ} {s : State} (h : Ok q s) : OkW q (actResetFabric c a1 s) := by
  unfold actResetFabric
  refine unlessRecovery_ok ?_ ?_
  · intro z0 z1
    split
    · refine okw_mk ?_ ?_
      · dsimp -zeta only
        assumption
      · intro z2 z3
        dsimp -zeta only
        refine beginFabricReset_ok ?_
        assumption
    · refine okw_mk ?_ ?_
      · dsimp -zeta only
        split
        · assumption
        · refine beginFabricReset_ok ?_
          assumption
      · intro z4 z5
        dsimp -zeta only
        dsimp -zeta only [id]
        assumption
  · assumption

theorem cmdSysResetFabric_ok : CmdOk cmdSysResetFabric := by
  intro q c n s h
  unfold cmdSysResetFabric
  dsimp -zeta only
  refine actResetFabric_ok ?_
  assumption

theorem execSysResetFabric_ok {q : Claim} {c : Call} {s : State} (h : Ok q s) : OkR q (execSysResetFabric c s) := by
  unfold execSysResetFabric
  refine ok_goes ?_
  refine serve_ok ?_ ?_
  · refine cmdSysResetFabric_ok
  · assumption

theorem actResetSteward_ok {q : Claim} {a0 : Call} {a1 : ℕ} {s : State} (h : Ok q s) : OkW q (actResetSteward a0 a1 s) := by
  unfold actResetSteward
  refine unlessRecovery_ok ?_ ?_
  · intro z0 z1
    refine okw_mk ?_ ?_
    · dsimp -zeta only
      assumption
    · intro z2 z3
      dsimp -zeta only
      refine stewardReset_ok ?_
      assumption
  · assumption

theorem cmdSysResetSteward_ok : CmdOk cmdSysResetSteward := by
  intro q c n s h
  unfold cmdSysResetSteward
  dsimp -zeta only
  refine actResetSteward_ok ?_
  assumption

theorem execSysResetSteward_ok {q : Claim} {c : Call} {s : State} (h : Ok q s) : OkR q (execSysResetSteward c s) := by
  unfold execSysResetSteward
  refine ok_goes ?_
  refine serve_ok ?_ ?_
  · refine cmdSysResetSteward_ok
  · assumption

theorem actResetFull_ok {q : Claim} {c : Call} {a1 : ℕ} {s : State} (h : Ok q s) : OkW q (actResetFull c a1 s) := by
  unfold actResetFull
  refine thenReset_ok ?_
  refine okw_mk ?_ ?_
  · dsimp -zeta only
    assumption
  · intro z0 z1
    dsimp -zeta only
    dsimp -zeta only [id]
    assumption

theorem cmdSysResetFull_ok : CmdOk cmdSysResetFull := by
  intro q c n s h
  unfold cmdSysResetFull
  dsimp -zeta only
  refine actResetFull_ok ?_
  assumption

theorem execSysResetFull_ok {q : Claim} {c : Call} {s : State} (h : Ok q s) : OkR q (execSysResetFull c s) := by
  unfold execSysResetFull
  refine ok_goes ?_
  refine serve_ok ?_ ?_
  · refine cmdSysResetFull_ok
  · assumption


end Sys2Proof.Machine
end

