-- ==== Sys2Proof/Laws/Keeps/Flip.lean ====
section
/-! SUPPORT. Every function of Machine/Flip.lean that answers a state keeps the invariant and the queue. -/

namespace Sys2Proof.Machine

theorem freshControllers_ok {q : Claim} {a : Bank} {b : Bank} {s : State} (h : Ok q s) : Ok q (freshControllers a b s) := by
  unfold freshControllers
  extract_lets +onlyGivenNames x0
  have hx0 : Ok q x0 := by
    unfold x0
    refine ok_foldl ?_ ?_
    · assumption
    · intro z1
      intro z2
      intro z3
      split
      · refine setMvb_ok ?_
        assumption
      · assumption
  clear_value x0
  extract_lets +onlyGivenNames x4
  have hx4 : Ok q x4 := by
    unfold x4
    refine ok_foldl ?_ ?_
    · assumption
    · intro z5
      intro z6
      intro z7
      refine canRecover_ok ?_
      refine setCan_ok ?_
      assumption
  clear_value x4
  extract_lets +onlyGivenNames x8
  have hx8 : Ok q x8 := by
    unfold x8
    refine ok_foldl ?_ ?_
    · assumption
    · intro z9
      intro z10
      intro z11
      split
      · refine setCan_ok ?_
        assumption
      · assumption
  clear_value x8
  refine ok_foldl ?_ ?_
  · assumption
  · intro z12
    intro z13
    intro z14
    split
    · refine setLin_ok ?_
      assumption
    · assumption

theorem flipFurrow_ok {q : Claim} {a : Bank} {b : Bank} {s : State} {p : ℕ} (h : Ok q s) : Ok q (flipFurrow a b s p) := by
  unfold flipFurrow
  split
  · assumption
  · extract_lets +onlyGivenNames x0
    extract_lets +onlyGivenNames x1
    split
    · refine setFurrow_ok ?_
      assumption
    · refine setFurrow_ok ?_
      assumption

theorem flipTally_ok {q : Claim} {a : Bank} {b : Bank} {s : State} {u : ℕ} (h : Ok q s) : Ok q (flipTally a b s u) := by
  unfold flipTally
  split
  · assumption
  · extract_lets +onlyGivenNames x0
    extract_lets +onlyGivenNames x1
    have hx1 : Ok q x1 := by
      unfold x1
      split
      · refine tallySkip_ok ?_
        assumption
      · assumption
    clear_value x1
    extract_lets +onlyGivenNames x2
    extract_lets +onlyGivenNames x3
    have hx3 : Ok q x3 := by
      unfold x3
      refine setTally_ok ?_
      assumption
    clear_value x3
    split
    · split
      · split
        · assumption
        · refine skipHandoffs_ok ?_
          assumption
      · refine skipRecords_ok ?_
        assumption
    · assumption

theorem clearCounts_ok {q : Claim} {s : State} {n : ℕ} (h : Ok q s) : Ok q (clearCounts s n) := by
  unfold clearCounts
  refine ok_congr (s := s) ?_ rfl rfl rfl rfl
  assumption

theorem flipPolicer_ok {q : Claim} {a : Bank} {b : Bank} {s : State} {n : ℕ} (h : Ok q s) : Ok q (flipPolicer a b s n) := by
  unfold flipPolicer
  split
  · assumption
  · extract_lets +onlyGivenNames x0
    extract_lets +onlyGivenNames x1
    extract_lets +onlyGivenNames x2
    refine ok_congr (s := s) ?_ rfl rfl rfl rfl
    assumption

theorem flipHits_ok {q : Claim} {a : Bank} {b : Bank} {s : State} (h : Ok q s) : Ok q (flipHits a b s) := by
  unfold flipHits
  refine ok_congr (s := s) ?_ rfl rfl rfl rfl
  assumption

theorem flipShaper_ok {q : Claim} {a : Bank} {b : Bank} {s : State} {k : ℕ} (h : Ok q s) : Ok q (flipShaper a b s k) := by
  unfold flipShaper
  split
  · assumption
  · refine updateCredit_ok ?_
    assumption

theorem beforeFlip_ok {q : Claim} {b : Bank} {s : State} (h : Ok q s) : Ok q (beforeFlip b s) := by
  unfold beforeFlip
  extract_lets +onlyGivenNames x0
  extract_lets +onlyGivenNames x1
  have hx1 : Ok q x1 := by
    unfold x1
    refine ok_foldl ?_ ?_
    · assumption
    · intro z2
      intro z3
      intro z4
      refine disableRow_ok ?_
      assumption
  clear_value x1
  extract_lets +onlyGivenNames x5
  have hx5 : Ok q x5 := by
    unfold x5
    refine ok_foldl ?_ ?_
    · assumption
    · intro z6
      intro z7
      intro z8
      refine flipShaper_ok ?_
      assumption
  clear_value x5
  extract_lets +onlyGivenNames x9
  have hx9 : Ok q x9 := by
    unfold x9
    refine ok_foldl ?_ ?_
    · assumption
    · intro z10
      intro z11
      intro z12
      refine flipPolicer_ok ?_
      assumption
  clear_value x9
  extract_lets +onlyGivenNames x13
  have hx13 : Ok q x13 := by
    unfold x13
    refine ok_foldl ?_ ?_
    · assumption
    · intro z14
      intro z15
      intro z16
      refine clearCounts_ok ?_
      assumption
  clear_value x13
  refine flipHits_ok ?_
  refine ok_foldl ?_ ?_
  · assumption
  · intro z17
    intro z18
    intro z19
    refine flipTally_ok ?_
    assumption

theorem afterFlip_ok {q : Claim} {a : Bank} {b : Bank} {s : State} (h : Ok q s) : Ok q (afterFlip a b s) := by
  unfold afterFlip
  extract_lets +onlyGivenNames x0
  have hx0 : Ok q x0 := by
    unfold x0
    refine freshControllers_ok ?_
    assumption
  clear_value x0
  extract_lets +onlyGivenNames x1
  have hx1 : Ok q x1 := by
    unfold x1
    refine ok_foldl ?_ ?_
    · assumption
    · intro z2 z3 z4
      refine enableRow_ok ?_
      assumption
  clear_value x1
  extract_lets +onlyGivenNames x5
  have hx5 : Ok q x5 := by
    unfold x5
    refine ok_foldl ?_ ?_
    · assumption
    · intro z6 z7 z8
      refine flipFurrow_ok ?_
      assumption
  clear_value x5
  refine drivePins_ok ?_
  refine clearImmune_ok ?_
  assumption

theorem flipTo_ok {q : Claim} {b : Bank} {s : State} (h : Ok q s) : Ok q (flipTo b s) := by
  unfold flipTo
  extract_lets +onlyGivenNames x0
  extract_lets +onlyGivenNames x1
  have hx1 : Ok q x1 := by
    unfold x1
    refine beforeFlip_ok ?_
    assumption
  clear_value x1
  refine afterFlip_ok ?_
  refine ok_congr (s := x1) ?_ rfl rfl rfl rfl
  assumption

theorem lowerTarget_ok {q : Claim} {s : State} (h : Ok q s) : Ok q (lowerTarget s) := by
  unfold lowerTarget
  refine retarget_ok ?_
  refine computeDemand_ok ?_
  assumption

theorem closeRetill_ok {q : Claim} {t : ℕ} {s : State} (h : Ok q s) : Ok q (closeRetill t s) := by
  unfold closeRetill
  extract_lets +onlyGivenNames op n u
  have hu : Ok q u := ok_congr (s := passPonr n s) (passPonr_ok h) rfl rfl rfl rfl
  clear_value op u
  cases op
  · exact closeRecord_ok (lowerTarget_ok (markSpare_ok hu))
  · exact putOp_ok hu

theorem endAtomic_ok {q : Claim} {o : Op} {w : Walk} {s : State} (h : Ok q s) : Ok q (endAtomic o w s) := by
  unfold endAtomic
  split
  · refine endOp_ok ?_
    assumption
  · refine endOp_ok ?_
    assumption

theorem closeAtomic_ok {q : Claim} {o : Op} {w : Walk} {s : State} (h : Ok q s) : Ok q (closeAtomic o w s) := by
  unfold closeAtomic
  extract_lets +onlyGivenNames x0
  have hx0 : Ok q x0 := by
    unfold x0
    refine lowerTarget_ok ?_
    assumption
  clear_value x0
  extract_lets +onlyGivenNames x1
  have hx1 : Ok q x1 := by
    unfold x1
    split
    · refine passPonr_ok ?_
      assumption
    · assumption
  clear_value x1
  split
  · refine endAtomic_ok ?_
    assumption
  · refine putOp_ok ?_
    assumption

theorem sendAtomic_ok {q : Claim} {d : ℕ} {m : AtomicMsg} {s : State} (h : Ok q s) : Ok q (sendAtomic d m s) := by
  unfold sendAtomic
  refine sendControl_ok ?_
  assumption

theorem closeMember_ok {q : Claim} {m : AtomicMsg} {s : State} (h : Ok q s) : Ok q (closeMember m s) := by
  unfold closeMember
  extract_lets +onlyGivenNames x0
  have hx0 : Ok q x0 := by
    unfold x0
    refine closeRecord_ok ?_
    refine passPonr_ok ?_
    refine lowerTarget_ok ?_
    assumption
  clear_value x0
  refine sendAtomic_ok ?_
  refine ok_congr (s := x0) ?_ rfl rfl rfl rfl
  assumption

theorem countsAtFlip_ok {q : Claim} {s : State} (h : Ok q s) : Ok q (countsAtFlip s) := by
  unfold countsAtFlip
  split
  · split
    · refine putOp_ok ?_
      assumption
    · assumption
  · assumption

theorem flipNow_ok {q : Claim} {s : State} (h : Ok q s) : Ok q (flipNow s) := by
  unfold flipNow
  extract_lets +onlyGivenNames x0
  extract_lets +onlyGivenNames x1
  have hx1 : Ok q x1 := by
    unfold x1
    refine countsAtFlip_ok ?_
    assumption
  clear_value x1
  extract_lets +onlyGivenNames x2
  have hx2 : Ok q x2 := by
    unfold x2
    refine flipTo_ok ?_
    assumption
  clear_value x2
  split
  · refine closeRetill_ok ?_
    assumption
  · split
    · refine closeMember_ok ?_
      assumption
    · split
      · refine closeAtomic_ok ?_
        assumption
      · assumption

theorem execFlipInstant_ok {q : Claim} {s : State} (h : Ok q s) : OkR q (execFlipInstant s) := by
  unfold execFlipInstant
  refine ok_goes ?_
  split
  · refine flipNow_ok ?_
    assumption
  · assumption


end Sys2Proof.Machine
end

