-- ==== Sys2Proof/Laws/Keeps/Atomic.lean ====
section
/-! SUPPORT. Every function of Machine/Atomic.lean that answers a state keeps the invariant and the queue. -/

namespace Sys2Proof.Machine

theorem sendAll_ok {q : Claim} {l : List ℕ} {m : AtomicMsg} {s : State} (h : Ok q s) : Ok q (sendAll l m s) := by
  unfold sendAll
  refine ok_foldl ?_ ?_
  · assumption
  · intro z0 z1 z2
    refine sendAtomic_ok ?_
    assumption

theorem decide__ok {q : Claim} {m : AtomicMsg} {l : List ℕ} {s : State} (h : Ok q s) : Ok q (decide_ m l s) := by
  unfold decide_
  split
  · assumption
  · refine sendAll_ok ?_
    refine ok_congr (s := s) ?_ rfl rfl rfl rfl
    assumption

theorem abortHeld_ok {q : Claim} {k : Cmd} {o : Op} {w : Walk} {st : Status} {s : State} (h : CmdOk k) (h1 : Ok q s) : Ok q (abortHeld k o w st s) := by
  unfold abortHeld
  extract_lets +onlyGivenNames x0
  have hx0 : Ok q x0 := by
    unfold x0
    refine decide__ok ?_
    assumption
  clear_value x0
  refine endOp_ok ?_
  split
  · assumption
  · refine ok_congr (s := x0) ?_ rfl rfl rfl rfl
    assumption

theorem decideCommit_ok {q : Claim} {o : Op} {w : Walk} {s : State} (h : Ok q s) : Ok q (decideCommit o w s) := by
  unfold decideCommit
  extract_lets +onlyGivenNames x0
  extract_lets +onlyGivenNames x1
  have hx1 : Ok q x1 := by
    unfold x1
    refine markRecord_ok ?_
    refine passPonr_ok ?_
    assumption
  clear_value x1
  extract_lets +onlyGivenNames x2
  extract_lets +onlyGivenNames x3
  have hx3 : Ok q x3 := by
    unfold x3
    refine decide__ok ?_
    assumption
  clear_value x3
  split
  · refine putOp_ok ?_
    assumption
  · refine putOp_ok ?_
    extract_lets +onlyGivenNames x4
    have hx4 : Ok q x4 := by
      unfold x4
      refine raiseTarget_ok ?_
      assumption
    clear_value x4
    refine ok_congr (s := x4) ?_ rfl rfl rfl rfl
    assumption

theorem prepareHeld_ok {q : Claim} {o : Op} {w : Walk} {s : State} (h : Ok q s) : Ok q (prepareHeld o w s) := by
  unfold prepareHeld
  extract_lets +onlyGivenNames x0
  split
  · refine putOp_ok ?_
    refine raiseTarget_ok ?_
    refine ok_congr (s := s) ?_ rfl rfl rfl rfl
    assumption
  · refine sendAll_ok ?_
    refine putOp_ok ?_
    refine ok_congr (s := s) ?_ rfl rfl rfl rfl
    assumption

theorem finishAtomic_ok {q : Claim} {k : Cmd} {o : Op} {w : Walk} {s : State} (h : CmdOk k) (h1 : Ok q s) : Ok q (finishAtomic k o w s) := by
  unfold finishAtomic
  extract_lets +onlyGivenNames x0
  split
  · split
    · refine prepareHeld_ok ?_
      assumption
    · refine abortHeld_ok ?_ ?_
      · assumption
      · assumption
  · split
    · refine finishOp_ok ?_
      refine holdStaged_ok ?_
      assumption
    · refine endOp_ok ?_
      split
      · assumption
      · refine ok_congr (s := s) ?_ rfl rfl rfl rfl
        assumption

theorem finishWalk_ok {q : Claim} {k : Cmd} {o : Op} {w : Walk} {s : State} (h : CmdOk k) (h1 : Ok q s) : Ok q (finishWalk k o w s) := by
  unfold finishWalk
  split
  · refine finishAtomic_ok ?_ ?_
    · assumption
    · assumption
  · split
    · refine fullReset_ok ?_
      assumption
    · split
      · refine fullReset_ok ?_
        refine endNow_ok ?_
        assumption
      · refine endOp_ok ?_
        assumption

theorem execAtomicPrepare_ok {q : Claim} {m : AtomicMsg} {s : State} (h : Ok q s) : OkR q (execAtomicPrepare m s) := by
  unfold execAtomicPrepare
  split
  · refine ok_goes ?_
    assumption
  · extract_lets +onlyGivenNames x0
    have hx0 : Ok q x0 := by
      unfold x0
      refine takeControl_ok ?_
      assumption
    clear_value x0
    refine ok_goes ?_
    split
    · refine sendAtomic_ok ?_
      assumption
    · refine sendAtomic_ok ?_
      assumption

theorem execAtomicCommit_ok {q : Claim} {m : AtomicMsg} {s : State} (h : Ok q s) : OkR q (execAtomicCommit m s) := by
  unfold execAtomicCommit
  split
  · refine ok_goes ?_
    assumption
  · extract_lets +onlyGivenNames x0
    have hx0 : Ok q x0 := by
      unfold x0
      refine takeControl_ok ?_
      assumption
    clear_value x0
    split
    · refine ok_goes ?_
      refine raiseTarget_ok ?_
      refine ok_congr (s := x0) ?_ rfl rfl rfl rfl
      assumption
    · split
      · refine ok_goes ?_
        refine sendAtomic_ok ?_
        assumption
      · refine ok_goes ?_
        assumption

theorem discardStaged_ok {q : Claim} {s : State} (h : Ok q s) : Ok q (discardStaged s) := by
  unfold discardStaged
  extract_lets +onlyGivenNames x0
  have hx0 : Ok q x0 := by
    unfold x0
    refine closeRecord_ok ?_
    assumption
  clear_value x0
  refine ok_congr (s := x0) ?_ rfl rfl rfl rfl
  assumption

theorem execAtomicAbort_ok {q : Claim} {m : AtomicMsg} {s : State} (h : Ok q s) : OkR q (execAtomicAbort m s) := by
  unfold execAtomicAbort
  split
  · refine ok_goes ?_
    assumption
  · extract_lets +onlyGivenNames x0
    have hx0 : Ok q x0 := by
      unfold x0
      refine takeControl_ok ?_
      assumption
    clear_value x0
    extract_lets +onlyGivenNames x1
    have hx1 : Ok q x1 := by
      unfold x1
      split
      · refine discardStaged_ok ?_
        assumption
      · assumption
    clear_value x1
    refine ok_goes ?_
    refine sendAtomic_ok ?_
    assumption

theorem staleAnswer_ok {q : Claim} {tag : ℕ} {s : State} (h : Ok q s) : Ok q (staleAnswer tag s) := by
  unfold staleAnswer
  refine raise_ok ?_
  refine ok_congr (s := s) ?_ rfl rfl rfl rfl
  assumption

theorem execAtomicReady_ok {q : Claim} {m : AtomicMsg} {s : State} (h : Ok q s) : OkR q (execAtomicReady m s) := by
  unfold execAtomicReady
  split
  · exact ok_goes h
  · have hx : Ok q (takeControl 5 s) := takeControl_ok h
    extract_lets +onlyGivenNames x
    change Ok q x at hx
    clear_value x
    split
    · exact ok_goes (staleAnswer_ok hx)
    · split
      · extract_lets +onlyGivenNames w
        exact ok_goes (ok_ite (decideCommit_ok hx) (putOp_ok hx))
      · split
        · rename_i k hk
          exact ok_goes (abortHeld_ok (bankCmd_ok hk) hx)
        · exact ok_goes hx

theorem acknowledge_ok {q : Claim} {m : AtomicMsg} {s : State} (h : Ok q s) : Ok q (acknowledge m s) := by
  unfold acknowledge
  extract_lets +onlyGivenNames x0
  extract_lets +onlyGivenNames x1
  refine ok_congr (s := s) ?_ rfl rfl rfl rfl
  assumption

theorem execCommitDone_ok {q : Claim} {m : AtomicMsg} {s : State} (h : Ok q s) : OkR q (execCommitDone m s) := by
  unfold execCommitDone
  split
  · refine ok_goes ?_
    assumption
  · extract_lets +onlyGivenNames x0
    have hx0 : Ok q x0 := by
      unfold x0
      refine takeControl_ok ?_
      assumption
    clear_value x0
    refine ok_goes ?_
    split
    · refine acknowledge_ok ?_
      assumption
    · refine staleAnswer_ok ?_
      assumption

theorem execCommitRepeat_ok {q : Claim} {member : ℕ} {s : State} (h : Ok q s) : OkR q (execCommitRepeat member s) := by
  unfold execCommitRepeat
  refine ok_goes ?_
  split
  · refine ok_foldl ?_ ?_
    · assumption
    · intro z0 z1 z2
      refine sendAtomic_ok ?_
      assumption
  · assumption

theorem dropDecision_ok {q : Claim} {s : State} (h : Ok q s) : Ok q (dropDecision s) := by
  unfold dropDecision
  split
  · assumption
  · refine ok_congr (s := s) ?_ rfl rfl rfl rfl
    assumption

theorem execPrepareHoldExpiry_ok {q : Claim} {s : State} (h : Ok q s) : OkR q (execPrepareHoldExpiry s) := by
  unfold execPrepareHoldExpiry
  split
  · exact ok_goes h
  split
  · exact ok_goes (discardStaged_ok h)
  split
  · split
    · rename_i k hk
      exact ok_goes (abortHeld_ok (bankCmd_ok hk) h)
    · exact ok_goes h
  · exact ok_goes (dropDecision_ok h)


end Sys2Proof.Machine
end

