-- ==== Sys2Proof/Laws/Keeps/Commands.lean ====
section
/-! SUPPORT. Every function of Machine/Commands.lean that answers a state keeps the invariant and the queue. -/

namespace Sys2Proof.Machine

theorem variant3_ok {a b d : Cmd} {n : ℕ} {k : Cmd} (ha : CmdOk a) (hb : CmdOk b) (hd : CmdOk d) (h : variant [a, b, d] n = some k) : CmdOk k := by
  match n, h with
  | 0, h => injection h with h; exact h ▸ ha
  | 1, h => injection h with h; exact h ▸ hb
  | 2, h => injection h with h; exact h ▸ hd
  | n + 3, h => injection h with h; exact h ▸ ha

theorem cmdOf06_ok {op : ℕ} {c : Call} {k : Cmd} (h : cmdOf06 op c = some k) : CmdOk k := by
  unfold cmdOf06 at h
  split at h
  · injection h with h; exact h ▸ cmdPlotDescribe_ok
  · injection h with h; exact h ▸ cmdPlotGroupCreate_ok
  · injection h with h; exact h ▸ cmdPlotGroupDelete_ok
  · exact variant_ok cmdPlotAttach_ok cmdPlotDetach_ok h
  · injection h with h; exact h ▸ cmdFieldJoin_ok
  · injection h with h; exact h ▸ cmdFieldLeave_ok
  · injection h with h; exact h ▸ cmdDeviceInfo_ok
  · injection h with h; exact h ▸ cmdRowStats_ok
  · exact variant3_ok cmdRouteQuery_ok cmdRouteQueryClear_ok cmdRouteQueryList_ok h
  · injection h with h; exact h ▸ cmdTeamState_ok
  · injection h with h; exact h ▸ cmdPortConfig_ok
  · injection h with h; exact h ▸ cmdPortState_ok
  · exact variant_ok cmdPortFilterSet_ok cmdPortFilterClear_ok h
  · injection h with h; exact h ▸ cmdPortPauseSet_ok
  · injection h with h; exact h ▸ cmdPortPreemptSet_ok
  · injection h with h; exact h ▸ cmdPortStatsSnap_ok
  · exact variant_ok cmdFurrowSwitch_ok cmdFurrowListRemove_ok h
  · exact variant_ok cmdTimeConfig_ok cmdTimeConfigPort_ok h
  · exact variant_ok cmdTimeSet_ok cmdTimeSetAtPps_ok h
  · exact variant3_ok cmdTimeAdjustStep_ok cmdTimeAdjustServoInput_ok cmdTimeAdjustFrequency_ok h
  · injection h with h; exact h ▸ cmdServoSet_ok
  · injection h with h; exact h ▸ cmdAsymSet_ok
  · injection h with h; exact h ▸ cmdTimeState_ok
  · exact variant_ok cmdAlarmSet_ok cmdScheduleEntrySet_ok h
  · cases h

theorem cmdOf0B_ok {op : ℕ} {c : Call} {k : Cmd} (h : cmdOf0B op c = some k) : CmdOk k := by
  unfold cmdOf0B at h
  split at h
  · injection h with h; exact h ▸ cmdKeyInstall_ok
  · injection h with h; exact h ▸ cmdKeyActivate_ok
  · injection h with h; exact h ▸ cmdKeyErase_ok
  · injection h with h; exact h ▸ cmdSaConfig_ok
  · injection h with h; exact h ▸ cmdKeyState_ok
  · injection h with h; exact h ▸ cmdZeroizeAll_ok
  · injection h with h; exact h ▸ cmdTallyState_ok
  · injection h with h; exact h ▸ cmdGranaryQuotaSet_ok
  · injection h with h; exact h ▸ cmdGranaryState_ok
  · injection h with h; exact h ▸ cmdBankRetire_ok
  · injection h with h; exact h ▸ cmdBankTest_ok
  · exact variant_ok cmdPowerPolicySet_ok cmdFallowPolicySet_ok h
  · injection h with h; exact h ▸ cmdFallowEnter_ok
  · injection h with h; exact h ▸ cmdWakeSourcesSet_ok
  · injection h with h; exact h ▸ cmdNmConfig_ok
  · injection h with h; exact h ▸ cmdNmRequest_ok
  · injection h with h; exact h ▸ cmdWakeCause_ok
  · injection h with h; exact h ▸ cmdPaceState_ok
  · cases h

theorem cmdOf0F_ok {op : ℕ} {c : Call} {k : Cmd} (h : cmdOf0F op c = some k) : CmdOk k := by
  unfold cmdOf0F at h
  split at h
  · injection h with h; exact h ▸ busStateCmd_ok
  · injection h with h; exact h ▸ cmdRingCreate_ok
  · injection h with h; exact h ▸ cmdRingDestroy_ok
  · injection h with h; exact h ▸ cmdRingModeration_ok
  · injection h with h; exact h ▸ cmdSelfTest_ok
  · injection h with h; exact h ▸ cmdLoopbackSet_ok
  · injection h with h; exact h ▸ cmdEventLogRead_ok
  · injection h with h; exact h ▸ cmdEcho_ok
  · injection h with h; exact h ▸ cmdRetillBegin_ok
  · injection h with h; exact h ▸ cmdRetillCommit_ok
  · injection h with h; exact h ▸ cmdRetillAbort_ok
  · injection h with h; exact h ▸ cmdLedgerState_ok
  · injection h with h; exact h ▸ cmdFwStage_ok
  · injection h with h; exact h ▸ cmdFwActivate_ok
  · injection h with h; exact h ▸ cmdOpCancel_ok
  · injection h with h; exact h ▸ cmdOpProgress_ok
  · exact variant3_ok cmdSysResetFabric_ok cmdSysResetSteward_ok cmdSysResetFull_ok h
  · exact variant_ok cmdGateChallengeRequest_ok cmdGateChallengeRespond_ok h
  · cases h

theorem cmdOf_ok {op : ℕ} {c : Call} {k : Cmd} (h : cmdOf op c = some k) : CmdOk k := by
  unfold cmdOf at h
  rcases Option.or_eq_some_iff.1 h with h | ⟨_, h⟩
  · rcases Option.or_eq_some_iff.1 h with h | ⟨_, h⟩
    · exact bankCmd_ok h
    · exact cmdOf06_ok h
  · rcases Option.or_eq_some_iff.1 h with h | ⟨_, h⟩
    · exact cmdOf0B_ok h
    · exact cmdOf0F_ok h

theorem serveOpcode_ok {q : Claim} {op : ℕ} {c : Call} {s : State} (h : Ok q s) : Ok q (serveOpcode op c s) := by
  unfold serveOpcode
  split
  · rename_i k hk
    exact serve_ok (cmdOf_ok hk) h
  · exact ok_ite h (ok_ite (respond_ok h) (respond_ok (ok_ite h (ok_congr (s := s) h rfl rfl rfl rfl))))

theorem execReadRequest_ok {q : Claim} {opcode : ℕ} {c : Call} {s : State} (h : Ok q s) : OkR q (execReadRequest opcode c s) := by
  unfold execReadRequest
  refine ok_goes ?_
  refine serveOpcode_ok ?_
  assumption


end Sys2Proof.Machine
end

