-- ==== Sys2Proof/Laws/Keeps/Steward.lean ====
section
/-! SUPPORT. Every function of Machine/Steward.lean that answers a state keeps the invariant and the queue. -/

namespace Sys2Proof.Machine

theorem advanceHead_ok {q : Claim} {a0 : ℕ} {s : State} (h : Ok q s) : Ok q (advanceHead a0 s) := by
  unfold advanceHead
  extract_lets +onlyGivenNames x0
  extract_lets +onlyGivenNames x1
  refine setQueue_ok ?_
  assumption

theorem takeSlot_ok {q : Claim} {a0 : ℕ} {s : State} (h : Ok q s) : Ok q (takeSlot a0 s) := by
  unfold takeSlot
  extract_lets +onlyGivenNames x0
  refine serveOpcode_ok ?_
  refine advanceHead_ok ?_
  assumption

theorem takeForward_ok {q : Claim} {s : State} (h : Ok q s) : Ok q (takeForward s) := by
  unfold takeForward
  extract_lets +onlyGivenNames x
  have hx : Ok q x := advanceHead_ok h
  clear_value x
  split
  · exact hx
  · rename_i m t _
    extract_lets +onlyGivenNames w c0 c y0 y
    have hy : Ok q y := ok_congr (s := x) hx rfl rfl rfl rfl
    clear_value w c y
    split
    · rename_i k hk
      exact perform_ok (cmdOf_ok hk) hy
    · exact respond_ok hy

theorem stepClosing_ok {q : Claim} {o : Op} {f : Final} {s : State} (h : Ok q s) : Ok q (stepClosing o f s) := by
  unfold stepClosing
  refine endNow_ok ?_
  assumption

theorem cancelInner_ok {q : Claim} {o : Op} {s : State} (h : Ok q s) : Ok q (cancelInner o s) := by
  unfold cancelInner
  refine ok_congr (s := s) ?_ rfl rfl rfl rfl
  assumption

theorem cancelWalk_ok {q : Claim} {k : Cmd} {o : Op} {w : Walk} {s : State} (h : CmdOk k) (h1 : Ok q s) : Ok q (cancelWalk k o w s) := by
  unfold cancelWalk
  extract_lets +onlyGivenNames x0
  split
  · refine abortHeld_ok ?_ ?_
    · assumption
    · assumption
  · refine cancelInner_ok ?_
    refine endOp_ok ?_
    assumption

theorem cancelOp_ok {q : Claim} {o : Op} {s : State} (h : Ok q s) : Ok q (cancelOp o s) := by
  unfold cancelOp
  extract_lets +onlyGivenNames f
  clear_value f
  split
  · exact stepClosing_ok h
  · rename_i hk
    exact cancelWalk_ok (cmdOf_ok hk) h
  · rename_i hk
    exact abortHeld_ok (cmdOf_ok hk) h
  · rename_i hk
    exact abortHeld_ok (cmdOf_ok hk) h
  · exact endOp_ok (ok_congr (s := s) h rfl rfl rfl rfl)
  · exact endOp_ok (ok_congr (s := s) h rfl rfl rfl rfl)
  · exact endOp_ok (dropRetill_ok h)
  · exact endOp_ok (dropRetill_ok h)
  · exact endOp_ok (stopRetire_ok h)
  · exact endOp_ok h

theorem goOn_ok {q : Claim} {o : Op} {o' : Op} {s : State} (h : Ok q s) : Ok q (goOn o o' s) := by
  unfold goOn
  extract_lets +onlyGivenNames x0
  have hx0 : Ok q x0.2 := by
    unfold x0
    refine endStep_ok ?_
    assumption
  clear_value x0
  extract_lets +onlyGivenNames x1
  have hx1 : Ok q x1 := by
    unfold x1
    refine putOp_ok ?_
    assumption
  clear_value x1
  split
  · assumption
  · refine ok_congr (s := x1) ?_ rfl rfl rfl rfl
    assumption

theorem stepWalk_ok {q : Claim} {k : Cmd} {o : Op} {w : Walk} {s : State} (h : CmdOk k) (h1 : Ok q s) : Ok q (stepWalk k o w s) := by
  unfold stepWalk
  extract_lets +onlyGivenNames x0
  have hx0 : Ok q x0.2 := by
    unfold x0
    refine runWalk_ok ?_ ?_
    · assumption
    · assumption
  clear_value x0
  split
  · refine finishWalk_ok ?_ ?_
    · assumption
    · assumption
  · refine goOn_ok ?_
    assumption

theorem stepLoad_ok {q : Claim} {o : Op} {rest : Bytes} {n : ℕ} {s : State} (h : Ok q s) : Ok q (stepLoad o rest n s) := by
  unfold stepLoad
  extract_lets +onlyGivenNames x0
  have hx0 : Ok q x0.st := by
    unfold x0
    refine loadRecords_ok ?_
    assumption
  clear_value x0
  split
  · refine endOp_ok ?_
    refine dropRetill_ok ?_
    assumption
  · split
    · refine finishOp_ok ?_
      assumption
    · refine goOn_ok ?_
      assumption

theorem commitTimeout_ok {q : Claim} {o : Op} {s : State} (h : Ok q s) : Ok q (commitTimeout o s) := by
  unfold commitTimeout
  refine finishOp_ok ?_
  refine ok_congr (s := s) ?_ rfl rfl rfl rfl
  assumption

theorem stepJournal_ok {q : Claim} {k : Cmd} {o : Op} {ref : ℕ} {s : State} (h : CmdOk k) (h1 : Ok q s) : Ok q (stepJournal k o ref s) := by
  unfold stepJournal
  extract_lets +onlyGivenNames x0
  extract_lets +onlyGivenNames x1
  have hx1 : OkW q x1 := by
    unfold x1
    refine actOn_ok ?_ ?_
    · assumption
    · assumption
  clear_value x1
  extract_lets +onlyGivenNames x2
  split
  · refine hx1.2 _ ?_
    exact hx1.1
  · split
    · refine hx1.2 _ ?_
      refine endNow_ok ?_
      exact hx1.1
    · refine hx1.2 _ ?_
      refine endOp_ok ?_
      exact hx1.1

theorem stepClose_ok {q : Claim} {o : Op} {t : ℕ} {s : State} (h : Ok q s) : Ok q (stepClose o t s) := by
  unfold stepClose
  refine endOp_ok ?_
  refine lowerTarget_ok ?_
  refine markSpare_ok ?_
  assumption

theorem retireTurn_ok {q : Claim} {s : State} (h : Ok q s) : Ok q (retireTurn s) := by
  unfold retireTurn
  extract_lets +onlyGivenNames x0
  extract_lets +onlyGivenNames x1
  have hx1 : Ok q x1 := by
    unfold x1
    refine migrationStep_ok ?_
    assumption
  clear_value x1
  refine ok_foldl ?_ ?_
  · assumption
  · intro z2
    intro z3
    intro z4
    refine goOn_ok ?_
    assumption

theorem entryTurn_ok {q : Claim} {s : State} (h : Ok q s) : Ok q (entryTurn s) := by
  unfold entryTurn
  extract_lets +onlyGivenNames x0
  have hx0 : Ok q x0 := by
    unfold x0
    refine entryStep_ok ?_
    assumption
  clear_value x0
  refine ok_foldl ?_ ?_
  · assumption
  · intro z1
    intro z2
    intro z3
    refine goOn_ok ?_
    assumption

theorem stepOp_ok {q : Claim} {o : Op} {s : State} (h : Ok q s) : Ok q (stepOp o s) := by
  unfold stepOp
  split
  · exact cancelOp_ok h
  · split
    · rename_i hk
      exact ok_ite (goOn_ok (passPonr_ok h)) (stepWalk_ok (cmdOf_ok hk) h)
    · rename_i hk
      exact ok_ite (goOn_ok (passPonr_ok h)) (stepJournal_ok (cmdOf_ok hk) h)
    · exact stepClose_ok h
    · exact stepClosing_ok h
    · exact retireTurn_ok h
    · exact entryTurn_ok h
    · rename_i hk
      exact abortHeld_ok (cmdOf_ok hk) h
    · exact goOn_ok (raiseTarget_ok (ok_congr (s := s) h rfl rfl rfl rfl))
    · exact endAtomic_ok h
    · exact endOp_ok h
    · exact stepLoad_ok h
    · exact commitTimeout_ok h
    · exact openGate_ok h
    · exact h

theorem switchLane_ok {q : Claim} {n : ℕ} {s : State} (h : Ok q s) : Ok q (switchLane n s) := by
  unfold switchLane
  extract_lets +onlyGivenNames x0
  extract_lets +onlyGivenNames x1
  have hx1 : Ok q x1 := by
    unfold x1
    refine ok_congr (s := s) ?_ rfl rfl rfl rfl
    assumption
  clear_value x1
  split
  · refine ok_congr (s := x1) ?_ rfl rfl rfl rfl
    assumption
  · refine raiseD_ok ?_
    assumption

theorem runItem_ok {q : Claim} {n : ℕ} {s : State} (h : Ok q s) : Ok q (runItem n s) := by
  unfold runItem
  split
  · refine takeForward_ok ?_
    assumption
  · refine takeSlot_ok ?_
    assumption
  · refine takeSlot_ok ?_
    assumption
  · refine retireTurn_ok ?_
    assumption
  · refine entryTurn_ok ?_
    assumption
  · split
    · refine stepOp_ok ?_
      assumption
    · assumption

theorem normalStep_ok {q : Claim} {s : State} (h : Ok q s) : Ok q (normalStep s) := by
  unfold normalStep
  extract_lets +onlyGivenNames x0
  split
  · assumption
  · extract_lets +onlyGivenNames x1
    have hx1 : Ok q x1 := by
      unfold x1
      refine runItem_ok ?_
      assumption
    clear_value x1
    extract_lets +onlyGivenNames x2
    refine ok_congr (s := x1) ?_ rfl rfl rfl rfl
    assumption

theorem urgentOp_ok {q : Claim} {o : Op} {s : State} (h : Ok q s) : Ok q (urgentOp o s) := by
  unfold urgentOp
  extract_lets +onlyGivenNames x0
  have hx0 : Ok q x0 := by
    unfold x0
    refine stepOp_ok ?_
    assumption
  clear_value x0
  refine ok_congr (s := x0) ?_ rfl rfl rfl rfl
  assumption

theorem nextStep_ok {q : Claim} {s : State} (h : Ok q s) : Ok q (nextStep s) := by
  unfold nextStep
  split
  · refine takeSlot_ok ?_
    assumption
  · split
    · refine urgentOp_ok ?_
      assumption
    · refine normalStep_ok ?_
      assumption

theorem enterConfig_ok {q : Claim} {s : State} (h : Ok q s) : Ok q (enterConfig s) := by
  unfold enterConfig
  split
  · refine ok_congr (s := s) ?_ rfl rfl rfl rfl
    assumption
  · assumption

theorem execStewardStep_ok {q : Claim} {s : State} (h : Ok q s) : OkR q (execStewardStep s) := by
  unfold execStewardStep
  refine ok_goes ?_
  split
  · assumption
  · refine enterConfig_ok ?_
    split
    · refine switchLane_ok ?_
      assumption
    · refine nextStep_ok ?_
      assumption

theorem placeForward_ok {q : Claim} {m : Forward} {s : State} (h : Ok q s) : Ok q (placeForward m s) := by
  have key : ∀ a d t, Ok q { s with stw.mq3 := t, hold.slots := mwrite a d s.hold.slots } := fun a d t => 
    ok_parts (s := s) h rfl id id (fun w => mwrite_wf w) id
  unfold placeForward
  generalize 0x1C00 + 0x40 * ((queueOf 3 s).cmdTail % 16) = a
  generalize fit 64 m.slot = d
  extract_lets +onlyGivenNames v
  clear_value v
  split
  · exact h
  · extract_lets +onlyGivenNames x0 x1 x
    have hx : Ok q x := key _ _ _
    clear_value x
    exact setQueue_ok hx

theorem newForward_ok {q : Claim} {m : Forward} {s : State} (h : Ok q s) : Ok q (newForward m s) := by
  unfold newForward
  extract_lets +onlyGivenNames x0
  extract_lets +onlyGivenNames x1
  split
  · refine placeForward_ok ?_
    refine ok_congr (s := s) ?_ rfl rfl rfl rfl
    assumption
  · refine ok_congr (s := s) ?_ rfl rfl rfl rfl
    assumption

theorem execMailboxForward_ok {q : Claim} {m : Forward} {s : State} (h : Ok q s) : OkR q (execMailboxForward m s) := by
  unfold execMailboxForward
  split
  · refine ok_goes ?_
    assumption
  · extract_lets +onlyGivenNames x0
    have hx0 : Ok q x0 := by
      unfold x0
      refine takeControl_ok ?_
      assumption
    clear_value x0
    split
    · refine ok_goes ?_
      assumption
    · split
      · refine ok_goes ?_
        refine sendAnswer_ok ?_
        assumption
      · split
        · refine ok_goes ?_
          refine sendAnswer_ok ?_
          assumption
        · refine ok_goes ?_
          split
          · assumption
          · refine newForward_ok ?_
            assumption

theorem takeAnswer_ok {q : Claim} {m : Answer} {o : Op} {w : Walk} {ref : ℕ} {s : State} (h : Ok q s) : Ok q (takeAnswer m o w ref s) := by
  unfold takeAnswer
  extract_lets +onlyGivenNames x0
  extract_lets +onlyGivenNames x1
  split
  · refine putOp_ok ?_
    refine ok_congr (s := s) ?_ rfl rfl rfl rfl
    assumption
  · refine ok_congr (s := s) ?_ rfl rfl rfl rfl
    assumption

theorem execMailboxAnswer_ok {q : Claim} {m : Answer} {s : State} (h : Ok q s) : OkR q (execMailboxAnswer m s) := by
  unfold execMailboxAnswer
  split
  · refine ok_goes ?_
    assumption
  · extract_lets +onlyGivenNames x0
    have hx0 : Ok q x0 := by
      unfold x0
      refine takeControl_ok ?_
      assumption
    clear_value x0
    split
    · refine ok_goes ?_
      refine staleAnswer_ok ?_
      assumption
    · refine ok_goes ?_
      split
      · assumption
      · refine takeAnswer_ok ?_
        assumption

theorem execForwardRepeat_ok {q : Claim} {a0 : ℕ} {tag : ℕ} {s : State} (h : Ok q s) : OkR q (execForwardRepeat a0 tag s) := by
  unfold execForwardRepeat
  split
  · split
    · split
      · refine ok_goes ?_
        split
        · refine sendForward_ok ?_
          assumption
        · assumption
      · refine ok_goes ?_
        assumption
    · refine ok_goes ?_
      assumption
  · refine ok_goes ?_
    assumption

theorem execRemoteTimeout_ok {q : Claim} {a0 : ℕ} {tag : ℕ} {s : State} (h : Ok q s) : OkR q (execRemoteTimeout a0 tag s) := by
  unfold execRemoteTimeout
  split
  · refine ok_goes ?_
    split
    · refine putOp_ok ?_
      assumption
    · assumption
  · refine ok_goes ?_
    assumption


end Sys2Proof.Machine
end

