-- ==== Sys2Proof/Laws/Keeps/Dispatch.lean ====
section
/-! SUPPORT. Every function of Machine/Dispatch.lean that answers a state keeps the invariant and the queue. -/

namespace Sys2Proof.Machine

theorem exec_ok {q : Claim} {i : Instr} {s : State} (h : Ok q s) : OkR q (exec i s) := by
  unfold exec
  split
  · refine execPlotDescribe_ok ?_
    assumption
  · refine execPlotGroupCreate_ok ?_
    assumption
  · refine execPlotGroupDelete_ok ?_
    assumption
  · refine execPlotAttach_ok ?_
    assumption
  · refine execPlotDetach_ok ?_
    assumption
  · refine execFieldJoin_ok ?_
    assumption
  · refine execFieldLeave_ok ?_
    assumption
  · refine execDeviceInfo_ok ?_
    assumption
  · refine execRowBind_ok ?_
    assumption
  · refine execRowEnable_ok ?_
    assumption
  · refine execRowDisable_ok ?_
    assumption
  · refine execRowStats_ok ?_
    assumption
  · refine execRowFramingSet_ok ?_
    assumption
  · refine execRouteAdd_ok ?_
    assumption
  · refine execRouteRemove_ok ?_
    assumption
  · refine execRouteQuery_ok ?_
    assumption
  · refine execRouteQueryClear_ok ?_
    assumption
  · refine execRouteQueryList_ok ?_
    assumption
  · refine execLsetWrite_ok ?_
    assumption
  · refine execLsetRead_ok ?_
    assumption
  · refine execTeamSet_ok ?_
    assumption
  · refine execTeamState_ok ?_
    assumption
  · refine execSieveSet_ok ?_
    assumption
  · refine execSieveClear_ok ?_
    assumption
  · refine execRewriteSet_ok ?_
    assumption
  · refine execPortConfig_ok ?_
    assumption
  · refine execPortState_ok ?_
    assumption
  · refine execPortFilterSet_ok ?_
    assumption
  · refine execPortFilterClear_ok ?_
    assumption
  · refine execPortPauseSet_ok ?_
    assumption
  · refine execPortPreemptSet_ok ?_
    assumption
  · refine execPortStatsSnap_ok ?_
    assumption
  · refine execFurrowListWrite_ok ?_
    assumption
  · refine execFurrowSwitch_ok ?_
    assumption
  · refine execFurrowListRemove_ok ?_
    assumption
  · refine execShaperSet_ok ?_
    assumption
  · refine execSheafSet_ok ?_
    assumption
  · refine execClassMapSet_ok ?_
    assumption
  · refine execPoolAndGuardSet_ok ?_
    assumption
  · refine execTimeConfig_ok ?_
    assumption
  · refine execTimeConfigPort_ok ?_
    assumption
  · refine execTimeSet_ok ?_
    assumption
  · refine execTimeSetAtPps_ok ?_
    assumption
  · refine execTimeAdjustStep_ok ?_
    assumption
  · refine execTimeAdjustServoInput_ok ?_
    assumption
  · refine execTimeAdjustFrequency_ok ?_
    assumption
  · refine execServoSet_ok ?_
    assumption
  · refine execAsymSet_ok ?_
    assumption
  · refine execTimeState_ok ?_
    assumption
  · refine execAlarmSet_ok ?_
    assumption
  · refine execScheduleEntrySet_ok ?_
    assumption
  · refine execReadRequest_ok ?_
    assumption
  · refine execRuleWrite_ok ?_
    assumption
  · refine execRuleRead_ok ?_
    assumption
  · refine execRuleClear_ok ?_
    assumption
  · refine execPolicerSet_ok ?_
    assumption
  · refine execZoneSet_ok ?_
    assumption
  · refine execKeyInstall_ok ?_
    assumption
  · refine execKeyActivate_ok ?_
    assumption
  · refine execKeyErase_ok ?_
    assumption
  · refine execSaConfig_ok ?_
    assumption
  · refine execKeyState_ok ?_
    assumption
  · refine execZeroizeAll_ok ?_
    assumption
  · refine execTallyBind_ok ?_
    assumption
  · refine execTallyRelease_ok ?_
    assumption
  · refine execTallyState_ok ?_
    assumption
  · refine execGranaryQuotaSet_ok ?_
    assumption
  · refine execGranaryState_ok ?_
    assumption
  · refine execBankRetire_ok ?_
    assumption
  · refine execBankTest_ok ?_
    assumption
  · refine execPowerPolicySet_ok ?_
    assumption
  · refine execFallowPolicySet_ok ?_
    assumption
  · refine execFallowEnter_ok ?_
    assumption
  · refine execWakeSourcesSet_ok ?_
    assumption
  · refine execNmConfig_ok ?_
    assumption
  · refine execNmRequest_ok ?_
    assumption
  · refine execWakeCause_ok ?_
    assumption
  · refine execPaceState_ok ?_
    assumption
  · refine execFieldPinAssign_ok ?_
    assumption
  · refine execCanConfig_ok ?_
    assumption
  · refine execCanRecover_ok ?_
    assumption
  · refine execUartConfig_ok ?_
    assumption
  · refine execLinConfig_ok ?_
    assumption
  · refine execMvbConfig_ok ?_
    assumption
  · refine execFieldBusState_ok ?_
    assumption
  · refine execRingCreate_ok ?_
    assumption
  · refine execRingDestroy_ok ?_
    assumption
  · refine execRingModeration_ok ?_
    assumption
  · refine execSelfTest_ok ?_
    assumption
  · refine execLoopbackSet_ok ?_
    assumption
  · refine execEventLogRead_ok ?_
    assumption
  · refine execEcho_ok ?_
    assumption
  · refine execRetillBegin_ok ?_
    assumption
  · refine execRetillCommit_ok ?_
    assumption
  · refine execRetillAbort_ok ?_
    assumption
  · refine execLedgerState_ok ?_
    assumption
  · refine execFwStage_ok ?_
    assumption
  · refine execFwActivate_ok ?_
    assumption
  · refine execOpCancel_ok ?_
    assumption
  · refine execOpProgress_ok ?_
    assumption
  · refine execSysResetFabric_ok ?_
    assumption
  · refine execSysResetSteward_ok ?_
    assumption
  · refine execSysResetFull_ok ?_
    assumption
  · refine execGateChallengeRequest_ok ?_
    assumption
  · refine execGateChallengeRespond_ok ?_
    assumption
  · refine execMqnDoorbell_ok ?_
    assumption
  · refine execMqnRspHead_ok ?_
    assumption
  · refine execEvPending_ok ?_
    assumption
  · refine execEvEnable_ok ?_
    assumption
  · refine execCapture_ok ?_
    assumption
  · refine execArmPps_ok ?_
    assumption
  · refine execSemTake_ok ?_
    assumption
  · refine execSemGive_ok ?_
    assumption
  · refine execStileCtrl_ok ?_
    assumption
  · refine execStileRegion_ok ?_
    assumption
  · refine execStileErrlogValid_ok ?_
    assumption
  · refine execRingTail_ok ?_
    assumption
  · refine execStatisticsRead_ok ?_
    assumption
  · refine execHoldWindowWrite_ok ?_
    assumption
  · refine execMsiXEnable_ok ?_
    assumption
  · refine execMsiXUnmask_ok ?_
    assumption
  · refine execXspiRead_ok ?_
    assumption
  · refine execXspiWrite_ok ?_
    assumption
  · refine execXspiReadConfiguration_ok ?_
    assumption
  · refine execXspiWriteConfiguration_ok ?_
    assumption
  · refine execXspiReadIdentification_ok ?_
    assumption
  · refine execXspiReset_ok ?_
    assumption
  · refine execPoisonedTlp_ok ?_
    assumption
  · refine execUnsupportedRequest_ok ?_
    assumption
  · refine execPcieFundamentalReset_ok ?_
    assumption
  · refine execPerstn_ok ?_
    assumption
  · refine execPcieLinkChange_ok ?_
    assumption
  · refine execBusMasterEnable_ok ?_
    assumption
  · refine execD3hot_ok ?_
    assumption
  · refine execCoalescingWindowEnd_ok ?_
    assumption
  · refine execTransmitItemFetch_ok ?_
    assumption
  · refine execReceiveItemDelivery_ok ?_
    assumption
  · refine execRingWaitLimit_ok ?_
    assumption
  · refine execModerationTimeLimit_ok ?_
    assumption
  · refine execStewardStep_ok ?_
    assumption
  · refine execFlipInstant_ok ?_
    assumption
  · refine execMailboxForward_ok ?_
    assumption
  · refine execMailboxAnswer_ok ?_
    assumption
  · refine execForwardRepeat_ok ?_
    assumption
  · refine execRemoteTimeout_ok ?_
    assumption
  · refine execAtomicPrepare_ok ?_
    assumption
  · refine execAtomicCommit_ok ?_
    assumption
  · refine execAtomicAbort_ok ?_
    assumption
  · refine execAtomicReady_ok ?_
    assumption
  · refine execCommitDone_ok ?_
    assumption
  · refine execCommitRepeat_ok ?_
    assumption
  · refine execPrepareHoldExpiry_ok ?_
    assumption
  · refine execHail_ok ?_
    assumption
  · refine execLeaveHail_ok ?_
    assumption
  · refine execHailInterval_ok ?_
    assumption
  · refine execJoiningComplete_ok ?_
    assumption
  · refine execMemberUnreachable_ok ?_
    assumption
  · refine execStileWrite_ok ?_
    assumption
  · refine execStileRead_ok ?_
    assumption
  · refine execFarCompletion_ok ?_
    assumption
  · refine execFarTimeout_ok ?_
    assumption
  · refine execStileRequest_ok ?_
    assumption
  · refine execStileCompletion_ok ?_
    assumption
  · refine execStileResend_ok ?_
    assumption
  · refine execPrefetchExpiry_ok ?_
    assumption
  · refine execUartCharacter_ok ?_
    assumption
  · refine execGapTimeout_ok ?_
    assumption
  · refine execIdleGapEnd_ok ?_
    assumption
  · refine execGrainIssue_ok ?_
    assumption
  · refine execTakeCell_ok ?_
    assumption
  · refine execCanFrameAccepted_ok ?_
    assumption
  · refine execCanFrameError_ok ?_
    assumption
  · refine execProtocolException_ok ?_
    assumption
  · refine execIntegration_ok ?_
    assumption
  · refine execArbitrationLost_ok ?_
    assumption
  · refine execCanTransmitError_ok ?_
    assumption
  · refine execRecoveryDelay_ok ?_
    assumption
  · refine execBusOffRecovery_ok ?_
    assumption
  · refine execCanFrameSent_ok ?_
    assumption
  · refine execLinFrame_ok ?_
    assumption
  · refine execLinHeader_ok ?_
    assumption
  · refine execLinResponseTimeout_ok ?_
    assumption
  · refine execLinBitError_ok ?_
    assumption
  · refine execScheduleSlot_ok ?_
    assumption
  · refine execMvbSlaveFrame_ok ?_
    assumption
  · refine execMvbMasterFrame_ok ?_
    assumption
  · refine execLineTimeout_ok ?_
    assumption
  · refine execFreshnessLimit_ok ?_
    assumption
  · refine execEthernetFrameReceived_ok ?_
    assumption
  · refine execPauseFrame_ok ?_
    assumption
  · refine execPauseTimerExpiry_ok ?_
    assumption
  · refine execPauseWatchdog_ok ?_
    assumption
  · refine execRecoveryPeriodEnd_ok ?_
    assumption
  · refine execPauseRepeat_ok ?_
    assumption
  · refine execVerifyMpacket_ok ?_
    assumption
  · refine execRespondMpacket_ok ?_
    assumption
  · refine execVerifyTime_ok ?_
    assumption
  · refine execLinkUp_ok ?_
    assumption
  · refine execLinkLoss_ok ?_
    assumption
  · refine execLinkDownHoldOff_ok ?_
    assumption
  · refine execSync_ok ?_
    assumption
  · refine execPdelayResult_ok ?_
    assumption
  · refine execAnnounce_ok ?_
    assumption
  · refine execSyncInterval_ok ?_
    assumption
  · refine execPdelayInterval_ok ?_
    assumption
  · refine execAnnounceInterval_ok ?_
    assumption
  · refine execSyncReceiptTimeout_ok ?_
    assumption
  · refine execPpsInMissing_ok ?_
    assumption
  · refine execHoldoverBudget_ok ?_
    assumption
  · refine execSuspectTimeout_ok ?_
    assumption
  · refine execPpsIn_ok ?_
    assumption
  · refine execPpsOut_ok ?_
    assumption
  · refine execTimeAlarm_ok ?_
    assumption
  · refine execTimeCapture_ok ?_
    assumption
  · refine execHarrowDecision_ok ?_
    assumption
  · refine execTeamQuietExpiry_ok ?_
    assumption
  · refine execDrillAccept_ok ?_
    assumption
  · refine execCopyRelease_ok ?_
    assumption
  · refine execPortFrameSelect_ok ?_
    assumption
  · refine execCopySent_ok ?_
    assumption
  · refine execEgressAgeLimit_ok ?_
    assumption
  · refine execSheafAge_ok ?_
    assumption
  · refine execSheafReleaseBoundary_ok ?_
    assumption
  · refine execGateChange_ok ?_
    assumption
  · refine execSetAndHoldMac_ok ?_
    assumption
  · refine execConfigurationChangeTime_ok ?_
    assumption
  · refine execFabricCodeFault_ok ?_
    assumption
  · refine execFabricStall_ok ?_
    assumption
  · refine execPersistentStall_ok ?_
    assumption
  · refine execFabricResetDone_ok ?_
    assumption
  · refine execPaceWindow_ok ?_
    assumption
  · refine execAudit_ok ?_
    assumption
  · refine execPatrol_ok ?_
    assumption
  · refine execDrainEnd_ok ?_
    assumption
  · refine execDrainLimit_ok ?_
    assumption
  · refine execKeyWaitLimit_ok ?_
    assumption
  · refine execNonceExpiry_ok ?_
    assumption
  · refine execStartSequence_ok ?_
    assumption
  · refine execStewardRestartDone_ok ?_
    assumption
  · refine execStewardWatchdog_ok ?_
    assumption
  · refine execLockstepMiscompare_ok ?_
    assumption
  · refine execResetn_ok ?_
    assumption
  · refine execVstbyPowerOn_ok ?_
    assumption
  · refine execVstbyLoss_ok ?_
    assumption
  · refine execSupplyFault_ok ?_
    assumption
  · refine execBuckVinLow_ok ?_
    assumption
  · refine execBuckVinRestored_ok ?_
    assumption
  · refine execPhaseCurrentLimit_ok ?_
    assumption
  · refine execThermalWarn_ok ?_
    assumption
  · refine execWakePin_ok ?_
    assumption
  · refine execCanWakeUpPattern_ok ?_
    assumption
  · refine execCanSelectiveWake_ok ?_
    assumption
  · refine execEthernetWakePattern_ok ?_
    assumption
  · refine execWakeTimer_ok ?_
    assumption
  · refine execFalseWakeTimeout_ok ?_
    assumption
  · refine execBackoffEnd_ok ?_
    assumption
  · refine execAutomaticFallowEntry_ok ?_
    assumption
  · refine execTKa_ok ?_
    assumption
  · refine execTSleep_ok ?_
    assumption
  · refine execTPrep_ok ?_
    assumption
  · refine execPointOfNoReturn_ok ?_
    assumption
  · refine execTMinSleep_ok ?_
    assumption
  · refine execKeepAlive_ok ?_
    assumption
  · refine execSleepConfirmation_ok ?_
    assumption
  · refine execWakeMessage_ok ?_
    assumption
  · refine execToken_ok ?_
    assumption
  · refine execSleepIndication_ok ?_
    assumption
  · refine execAlive_ok ?_
    assumption
  · refine execVeto_ok ?_
    assumption
  · refine execPrepareSleepAnnouncement_ok ?_
    assumption
  · refine execTokenHold_ok ?_
    assumption
  · refine execTokenTimeout_ok ?_
    assumption
  · refine execPdelayReq_ok ?_
    assumption
  · refine execAnnounceReceiptTimeout_ok ?_
    assumption
  · refine execNeedEnds_ok ?_
    assumption
  · refine execWaking5Ms_ok ?_
    assumption
  · refine execConfirmationNotSent_ok ?_
    assumption
  · refine execXspiUnknownCommand_ok ?_
    assumption

end Sys2Proof.Machine
end

