-- ==== Sys2Proof/Laws/Layouts.lean ====
section
/-! SUPPORT. What reading a byte layout gives: cut or zero-filled layouts, and the image a setting is stored as. -/

namespace Sys2Proof.Machine

theorem sub_getD (i : Img) (o n k : Nat) (h : k < n) : (sub i o n).getD k 0 = i.getD (o + k) 0 := by
  induction n generalizing o k with
  | zero => omega
  | succ n ih =>
    cases k with
    | zero => rfl
    | succ k =>
      have := ih (o + 1) k (by omega)
      simpa [sub, Nat.add_assoc, Nat.add_comm 1 k] using this

theorem sub_congr (i j : Img) (o n : Nat) (h : ∀ k, k < n → i.getD (o + k) 0 = j.getD (o + k) 0) : sub i o n = sub j o n := by
  induction n generalizing o with
  | zero => rfl
  | succ n ih =>
    have h0 := h 0 (by omega)
    simp only [Nat.add_zero] at h0
    simp only [sub]
    rw [h0, ih (o + 1) (fun k hk => by simpa [Nat.add_assoc, Nat.add_comm 1 k] using h (k + 1) (by omega))]

theorem sub_zero_length (i : Img) (o n : Nat) : (sub i o n).length = n := by
  induction n generalizing o with
  | zero => rfl
  | succ n ih => simp [sub, ih]

theorem imageOf_getD (c : Call) (k : Nat) (h : k < 48) : (imageOf c).getD k 0 = c.params.getD k 0 := by
  unfold imageOf
  rw [List.getD_append _ _ _ _ (by rw [fit, sub_zero_length]; exact h), fit, sub_getD _ _ _ _ h, Nat.zero_add]

/-- The inline part of a stored image is the command's inline parameters. -/
theorem fit_imageOf (c : Call) : fit 48 (imageOf c) = fit 48 c.params := by
  apply sub_congr; intro k hk; simpa using imageOf_getD c k hk

theorem u8_imageOf (c : Call) (k : Nat) (h : k < 48) : u8 (imageOf c) k = u8 c.params k := by
  unfold u8; rw [imageOf_getD c k h]

end Sys2Proof.Machine
end

