-- ==== Sys2Proof/Laws/Mailbox.lean ====
section
/-! SUPPORT. What answering a command and serving one on a single plot do. -/

namespace Sys2Proof.Machine

/-! ### Layout lengths -/

@[simp] theorem le_length (n v : Nat) : (le n v).length = n := by
  induction n generalizing v with
  | zero => rfl
  | succ n ih => simp [le, ih]

@[simp] theorem sub_length (i : Img) (o n : Nat) : (sub i o n).length = n := by
  induction n generalizing o with
  | zero => rfl
  | succ n ih => simp [sub, ih]

@[simp] theorem fit_length (n : Nat) (b : Bytes) : (fit n b).length = n := sub_length b 0 n

@[simp] theorem responseImage_length (opcode : Nat) (c : Call) (f : Final) : (responseImage opcode c f).length = 64 := by
  simp [responseImage]

theorem bulkLen_eq (c : Call) (f : Final) (h : c.bulkResult = true) : bulkLen c f = (f.bulk.take (areaLen c)).length := by
  simp [bulkLen, h, Nat.min_comm]

/-! ### Answering -/

/-- Writes to host memory change what the part emits only. -/
theorem splitWrites_frame (n m a : Nat) (d : Bytes) (s : State) : ∃ w, splitWrites n m a d s = { s with wire := w } := by
  induction m generalizing a d s with
  | zero => exact ⟨s.wire, rfl⟩
  | succ m ih =>
    unfold splitWrites
    split
    · exact ⟨s.wire, rfl⟩
    · obtain ⟨w, hw⟩ := ih (a + n) (d.drop n) (emit (.hostWrite a (d.take n)) s)
      exact ⟨w, by rw [hw]; rfl⟩

theorem hostPut_frame (a : Nat) (d : Bytes) (s : State) : ∃ w, hostPut a d s = { s with wire := w } := splitWrites_frame _ _ a d s

/-- What writing a bulk result does. -/
theorem writeBulk_does (c : Call) (f : Final) (u : State) (hs : Memory.wf u.staging = true) :
    ∃ st w, writeBulk c f.bulk u = { u with staging := st, wire := w } ∧
      (∀ a, ¬ (c.bulkResult = true ∧ c.host = false ∧ 8 * c.at_ ≤ a ∧ a < 8 * c.at_ + bulkLen c f) → mget a st = mget a u.staging) ∧
      (c.bulkResult = true ∧ c.queue ≠ 3 ∧ c.host = false → mread (8 * c.at_) (bulkLen c f) st = f.bulk.take (areaLen c)) := by
  unfold writeBulk
  split
  · next hq =>
    refine ⟨u.staging, u.wire, rfl, fun a _ => rfl, ?_⟩
    rintro ⟨h1, h2, -⟩
    simp [h1, h2] at hq
  · next hq =>
    simp only [Bool.or_eq_true, Bool.not_eq_true', beq_iff_eq, not_or, Bool.not_eq_false] at hq
    split
    · next hh =>
      split
      · obtain ⟨w, hw⟩ := hostPut_frame c.hostAddr (f.bulk.take (areaLen c)) u
        exact ⟨u.staging, w, hw, fun a _ => rfl, by simp [hh]⟩
      · exact ⟨u.staging, u.wire, rfl, fun a _ => rfl, by simp [hh]⟩
    · next hh =>
      refine ⟨_, u.wire, rfl, ?_, ?_⟩
      · intro a ha
        apply mget_mwrite_other
        rw [← bulkLen_eq c f hq.1]
        simp only [Bool.not_eq_true] at hh
        simp only [hq.1, hh, true_and, not_and, Nat.not_lt] at ha
        omega
      · intro _
        rw [bulkLen_eq c f hq.1]
        exact mread_mwrite_same hs

/-- What writing a response does, on a state whose memories are canonical. -/
theorem writeResponse_reports (opcode : Nat) (c : Call) (f : Final) (u : State) (h : Canonical u) (hf : ¬ (c.noResponse = true ∧ f.status = .ok)) :
    Reports opcode c f u (writeResponse opcode c f u) := by
  obtain ⟨hs, hsl, -⟩ := h
  unfold Reports BulkWritten
  rw [if_neg hf]
  obtain ⟨st, w, hw, hout, hin⟩ := writeBulk_does c f u hs
  have m1 : mread (responseAddr c.queue u) 64 (mwrite (responseAddr c.queue u) (responseImage opcode c f) u.hold.slots)
      = responseImage opcode c f := by
    have := mread_mwrite_same (a := responseAddr c.queue u) (d := responseImage opcode c f) hsl
    rwa [responseImage_length] at this
  have m2 : ∀ a, a < responseAddr c.queue u ∨ responseAddr c.queue u + 64 ≤ a →
      mget a (mwrite (responseAddr c.queue u) (responseImage opcode c f) u.hold.slots) = mget a u.hold.slots := by
    intro a ha
    exact mget_mwrite_other (by rw [responseImage_length]; exact ha)
  have e : writeResponse opcode c f u =
      (if c.queue = 3 then id else raise (if c.queue = 1 then 1 else 0) c.queue)
        { u with staging := st, wire := w
                 hold := { u.hold with
                   slots := mwrite (responseAddr c.queue u) (responseImage opcode c f) u.hold.slots
                   queues := tset c.queue { queueOf c.queue u with rspTail := ((queueOf c.queue u).rspTail + 1) % 32 } u.hold.queues } } := by
    have ra : responseAddr c.queue { u with staging := st, wire := w } = responseAddr c.queue u := by
      simp only [responseAddr, queueOf]
    unfold writeResponse
    rw [hw]
    dsimp only
    rw [ra]
    generalize responseAddr c.queue u = ad
    generalize responseImage opcode c f = im
    split <;> rfl
  rw [e]
  generalize responseImage opcode c f = img at *
  generalize mwrite (responseAddr c.queue u) img u.hold.slots = sl at *
  generalize hQ : tset c.queue { queueOf c.queue u with rspTail := ((queueOf c.queue u).rspTail + 1) % 32 } u.hold.queues = qs
  have h3 : tgetD c.queue {} qs = { queueOf c.queue u with rspTail := ((queueOf c.queue u).rspTail + 1) % 32 } := by
    rw [← hQ, tgetD_tset_same]
  have h4 : ∀ q, q ≠ c.queue → tgetD q {} qs = queueOf q u := by
    intro q hq
    rw [← hQ, tgetD_tset_other hq]; rfl
  clear hQ
  by_cases h3q : c.queue = 3
  · rw [if_pos h3q]
    exact ⟨⟨hout, hin⟩, rfl, m1, m2, h3, h4, fun h => absurd h3q h⟩
  · rw [if_neg h3q]
    obtain ⟨e, w', b, fr, hp⟩ := raise_only (if c.queue = 1 then 1 else 0) c.queue
      { u with staging := st, wire := w, hold := { u.hold with slots := sl, queues := qs } }
    rw [fr]
    refine ⟨⟨hout, hin⟩, rfl, m1, m2, h3, h4, fun _ => ?_⟩
    apply hp
    · split <;> decide
    · split <;> decide

/-- Answering a command of this device's queues. -/
theorem respond_reports (opcode : Nat) (c : Call) (f : Final) (u : State) (h : Canonical u) (hi : f.interim = false) :
    Reports opcode c f u (respond opcode c none f u) := by
  unfold respond
  simp only [hi, Bool.and_false, Bool.false_eq_true, if_false]
  by_cases hn : c.noResponse = true ∧ f.status = .ok
  · obtain ⟨st, w, hw, hout, hin⟩ := writeBulk_does c f u h.1
    rw [if_pos (by simpa using hn), hw]
    exact ⟨⟨hout, hin⟩, by rw [if_pos hn]⟩
  · rw [if_neg (by simpa using hn)]
    exact writeResponse_reports opcode c f u h hn

/-! ### Long operations -/

/-- Progress events change the event registers, what the part emits and the PME bit only. -/
theorem passSixteenths_frame (a b n : Nat) (s : State) :
    ∃ e w m, passSixteenths a b n s = { s with ev := e, wire := w, hold.pme := m } := by
  unfold passSixteenths
  generalize (List.range 16).filter _ = l
  induction l generalizing s with
  | nil => exact ⟨s.ev, s.wire, s.hold.pme, rfl⟩
  | cons k l ih =>
    obtain ⟨e, w, m, h⟩ := ih (raise 4 n s)
    refine ⟨e, w, m, ?_⟩
    rw [List.foldl_cons, h, raise_frame]

theorem passSixteenths_msixTable (a b n : Nat) (s : State) : (passSixteenths a b n s).ev.msixTable = s.ev.msixTable := by
  unfold passSixteenths
  generalize (List.range 16).filter _ = l
  induction l generalizing s with
  | nil => rfl
  | cons k l ih => rw [List.foldl_cons, ih]; exact raiseD_msixTable 4 0 n s

theorem estimate_small (o : Op) (s : State) (h : o.progress < 65535) : estimate o s < 65535 := by
  unfold estimate
  split
  · omega
  · have := Nat.mod_lt (pick s) (show 0 < 65535 - o.progress by omega); omega

theorem writeResponse_staging (opcode : Nat) (c : Call) (f : Final) (s : State) (h : f.bulk = []) :
    (writeResponse opcode c f s).staging = s.staging := by
  have hw : (writeBulk c f.bulk s).staging = s.staging := by
    rw [h]; unfold writeBulk
    split
    · rfl
    · split
      · split
        · obtain ⟨w, hw⟩ := hostPut_frame c.hostAddr (([] : Bytes).take (areaLen c)) s
          rw [hw]
        · rfl
      · simp [mwrite]
  have hr : ∀ (n o : Nat) (x : State), (raise n o x).staging = x.staging := fun n o x => by rw [raise_frame]
  unfold writeResponse
  dsimp only
  split
  · exact hw
  · rw [hr]; exact hw

/-- A command put in flight. -/
theorem goLong_starts {i : Instr} {opcode : Nat} {c : Call} {b : OpBody} {n : Nat} {s u : State}
    (he : exec i s = .next (goLong { opcode := opcode, call := c, body := b, opno := n, interim := true } u)) (hc : Canonical u) :
    Starts i opcode c b n s u := by
  refine ⟨_, (endStep { opcode := opcode, call := c, body := b, opno := n, interim := true } u).1, he, rfl, rfl, rfl, rfl, rfl, rfl, ?_, ?_⟩
  · exact Nat.lt_succ_of_lt (estimate_small _ _ (show (0 : Nat) < 65535 by decide))
  unfold goLong
  generalize ho : endStep { opcode := opcode, call := c, body := b, opno := n, interim := true } u = r
  obtain ⟨e, w, m, hf⟩ := passSixteenths_frame 0 (estimate { opcode := opcode, call := c, body := b, opno := n, interim := true, steps := 1 } u) c.tag (picked u)
  have hm := passSixteenths_msixTable 0 (estimate { opcode := opcode, call := c, body := b, opno := n, interim := true, steps := 1 } u) c.tag (picked u)
  rw [hf] at hm
  have h1 : r.1 = { opcode := opcode, call := c, body := b, opno := n, interim := true, steps := 1, progress := r.1.progress } := by rw [← ho]; rfl
  have h2 : r.2 = { u with free := u.free + 1, ev := e, wire := w, hold.pme := m } := by
    rw [← ho]; unfold endStep; exact hf
  generalize hp : r.1.progress = pr at h1
  obtain ⟨o1, s1⟩ := r
  simp only at h1 h2 hp ⊢
  subst h2
  have hcc : Canonical { u with free := u.free + 1, ev := e, wire := w, hold.pme := m } := ⟨hc.1, hc.2.1, by rw [show e.msixTable = u.ev.msixTable from hm]; exact hc.2.2⟩
  clear hf hm ho
  have hoc : o1.call = c := by rw [h1]
  have hop : o1.opcode = opcode := by rw [h1]
  have hof : o1.from_ = none := by rw [h1]
  have hon : o1.opno = n := by rw [h1]
  simp only [hoc, hop, hof, hon]
  generalize hU : ({ u with free := u.free + 1, ev := e, wire := w, hold.pme := m, stw.ops := u.stw.ops ++ [o1] } : State) = U
  have hUc : Canonical U := by rw [← hU]; exact hcc
  have hfree : freeSlots c.queue U = freeSlots c.queue u := by rw [← hU]; rfl
  by_cases hcond : (!c.noResponse && decide (inFlight c.queue U < freeSlots c.queue U)) = true
  · rw [if_pos hcond]
    have R := writeResponse_reports opcode c { status := .inProgress, interim := true, progress := o1.progress, opno := n } U hUc (by simp)
    have hrw : respond opcode c none { status := .inProgress, interim := true, progress := o1.progress, opno := n } U =
        writeResponse opcode c { status := .inProgress, interim := true, progress := o1.progress, opno := n } U := by
      simp only [Bool.and_eq_true, Bool.not_eq_true'] at hcond
      simp [respond, hcond.1]
    rw [hrw]
    have hst := writeResponse_staging opcode c { status := .inProgress, interim := true, progress := o1.progress, opno := n } U rfl
    generalize writeResponse opcode c { status := .inProgress, interim := true, progress := o1.progress, opno := n } U = T at R hst ⊢
    rw [Reports, if_neg (by simp)] at R
    obtain ⟨-, R1, R2, -⟩ := R
    have hops : T.stw.ops = U.stw.ops := by rw [R1]
    have hif : inFlight c.queue T = inFlight c.queue U := by unfold inFlight; rw [hops]
    refine ⟨?_, ?_⟩
    · rw [R1, hst, ← hU]
    · rw [if_pos (by rw [hif, ← hfree]; simpa using hcond)]
      have : responseAddr c.queue U = responseAddr c.queue u := by rw [← hU]; rfl
      rw [this] at R2; rw [← hp]; exact R2
  · rw [if_neg hcond]
    refine ⟨by rw [← hU], ?_⟩
    rw [if_neg (by rw [← hfree]; simpa using hcond)]
    rw [← hU]; exact ⟨rfl, rfl⟩

/-! ### Serving a command on one plot -/

theorem taken_takes (k : Cmd) (c : Call) (s : State) (h1 : takeable c.queue s = true) (h2 : tagCheck c s = .ok) :
    serve k c s = perform k c none (taken c s) := by
  unfold serve
  simp [h1, h2, taken]

theorem taken_bootPhase (c : Call) (s : State) : (taken c s).hold.bootPhase = s.hold.bootPhase := by
  unfold taken; split <;> rfl

theorem taken_canonical (c : Call) (s : State) (h : Canonical s) : Canonical (taken c s) := by
  unfold taken; split <;> exact h

/-- The check before a command acts passes on a command heard in order. -/
theorem Heard.firstCheck {k : Cmd} {c : Call} {p : Plot} {s : State} (h : Heard k c p s) : firstCheck k c p (taken c s) = .ok := by
  obtain ⟨-, -, -, h4, -, -, -, -, h9, h10, -⟩ := h
  unfold Machine.firstCheck
  simp only [isRead, h4, h10, h9, Bool.false_and, Bool.false_eq_true, if_false, ite_self]
  split <;> rfl

/-- A command heard in order that acts on its plot does its own work there. -/
theorem Heard.actOn {k : Cmd} {c : Call} {p : Plot} {s : State} (h : Heard k c p s) :
    actOn k c p (taken c s) = k.act c (plotArg p) (taken c s) := by
  obtain ⟨-, -, -, h4, h5, -, -, -, -, h10, h11, -⟩ := h
  simp [Machine.actOn, isRead, h4, h5, h10, h11]

/-- A command heard in order acts on its plot. -/
theorem serve_heard {k : Cmd} {c : Call} {p : Plot} {s : State} (h : Heard k c p s) :
    serve k c s = performAt k c none p [] false (taken c s) := by
  have hf := h.firstCheck
  obtain ⟨h1, h2, h3, h4, h5, h6, h7, h8, -⟩ := h
  rw [taken_takes k c s h1 h2]
  unfold perform
  simp [taken_bootPhase, h3, flagCheck, isRead, h4, h5, h6, h7, h8, hf]

/-- A command that acts on one plot at once: its work, then its answer, then what follows the response. -/
theorem serve_single {k : Cmd} {c : Call} {p : Plot} {s : State} (h : Heard k c p s) (ha : applies k.scope p = true ∨ k.scope = .field)
    (hj : k.journaled = false) (hl : (k.act c (plotArg p) (taken c s)).long = none)
    (hq : (k.act c (plotArg p) (taken c s)).quiet = false) :
    serve k c s = (k.act c (plotArg p) (taken c s)).after
      (respond k.opcode c none (answerOf k c (k.act c (plotArg p) (taken c s)))
        (countDirect k c (k.act c (plotArg p) (taken c s)).status (k.act c (plotArg p) (taken c s)).st)) := by
  rw [serve_heard h]
  have ho := h.actOn
  obtain ⟨-, -, -, h4, h5, -⟩ := h
  have hs : (applies k.scope p || decide (k.scope = .field)) = true := by simpa using ha
  unfold performAt performSingle
  simp [hs, h4, h5, hj, isRead, ho, hl, hq, singleFinal, answerOf]

theorem countDirect_plain {k : Cmd} (h : k.bank = false ∨ k.status = true) (c : Call) (st : Status) (s : State) : countDirect k c st s = s := by
  rcases h with h | h <;> simp [countDirect, h]

theorem countDirect_bank {k : Cmd} {c : Call} (hb : k.bank = true) (hk : k.status = false) (ha : c.atomic = false) (hs : c.staged = false) (s : State) :
    countDirect k c .ok s = directNoted s := by
  simp [countDirect, directNoted, hb, hk, ha, hs]

/-- A command that acts on one plot at once answers with its work. -/
theorem answers_single {i : Instr} {k : Cmd} {c : Call} {p : Plot} {s : State} (x : Work) (he : exec i s = .next (serve k c s))
    (h : Heard k c p s) (ha : applies k.scope p = true ∨ k.scope = .field) (hj : k.journaled = false)
    (hx : k.act c (plotArg p) (taken c s) = x) (hl : x.long = none) (hq : x.quiet = false) (hf : x.after = id)
    (hc : Canonical (countDirect k c x.status x.st)) :
    Answers i k.opcode c (answerOf k c x) s (countDirect k c x.status x.st) := by
  refine ⟨_, he, ?_⟩
  rw [serve_single h ha hj (by rw [hx]; exact hl) (by rw [hx]; exact hq), hx, hf]
  exact respond_reports _ _ _ _ hc rfl

/-- The same for a command that is not a bank item. -/
theorem answers_ok {i : Instr} {k : Cmd} {op : Nat} {c : Call} {p : Plot} {s u : State} {f : Final} (h : Heard k c p s) (x : Work)
    (ho : k.opcode = op) (he : exec i s = .next (serve k c s)) (ha : applies k.scope p = true ∨ k.scope = .field)
    (hj : k.journaled = false) (hb : k.bank = false ∨ k.status = true)
    (hx : k.act c (plotArg p) (taken c s) = x) (hl : x.long = none) (hq : x.quiet = false) (hf : x.after = id)
    (hu : x.st = u) (hff : answerOf k c x = f) (hc : Canonical u) :
    Answers i op c f s u := by
  subst hu hff ho
  have := answers_single x he h ha hj hx hl hq hf (by rw [countDirect_plain hb]; exact hc)
  rwa [countDirect_plain hb] at this

/-- A bank item changed directly: the change is counted while a re-till is open (R362). -/
theorem answers_bank {i : Instr} {k : Cmd} {op : Nat} {c : Call} {p : Plot} {s u : State} {f : Final} (h : Heard k c p s) (x : Work)
    (ho : k.opcode = op) (he : exec i s = .next (serve k c s)) (ha : applies k.scope p = true ∨ k.scope = .field)
    (hj : k.journaled = false) (hb : k.bank = true ∧ k.status = false)
    (hx : k.act c (plotArg p) (taken c s) = x) (hl : x.long = none) (hq : x.quiet = false) (hf : x.after = id)
    (hp : x.status = .ok) (hu : x.st = u) (hff : answerOf k c x = f) (hc : Canonical u) :
    Answers i op c f s (directNoted u) := by
  subst hu hff ho
  have hd : countDirect k c x.status x.st = directNoted x.st := by
    rw [hp]; exact countDirect_bank hb.1 hb.2 h.2.2.2.1 h.2.2.2.2.1 _
  have := answers_single x he h ha hj hx hl hq hf (by
    rw [hd]; unfold directNoted; split <;> exact hc)
  rwa [hd] at this

/-- A result that is no list of items is answered whole. -/
theorem answerOf_plain {k : Cmd} {c : Call} {x : Work} (h : k.item = 0) :
    answerOf k c x = { status := x.status, inline := x.inline, bulk := x.bulk, opno := x.opno } := by
  simp [answerOf, h]

/-- A generation kept under a tag changes nothing else. -/
theorem taken_eq (c : Call) (s : State) : ∃ g, taken c s = { s with stw.tags := g } := by
  unfold taken; split
  · exact ⟨s.stw.tags, rfl⟩
  · exact ⟨_, rfl⟩

theorem Heard.inv {k : Cmd} {c : Call} {p : Plot} {s : State} (h : Heard k c p s) : Inv s := h.2.2.2.2.2.2.2.2.2.2.2

theorem Heard.canonical {k : Cmd} {c : Call} {p : Plot} {s : State} (h : Heard k c p s) : Canonical s := h.inv.2

/-- The state a command acts on meets the invariant with the queue as it is. -/
theorem Heard.ok {k : Cmd} {c : Call} {p : Plot} {s : State} (h : Heard k c p s) : Ok { queue := s.pending } (taken c s) := by
  obtain ⟨g, hg⟩ := taken_eq c s
  rw [hg]; exact ⟨rfl, fun _ => h.inv⟩

theorem Heard.taken_canonical {k : Cmd} {c : Call} {p : Plot} {s : State} (h : Heard k c p s) : Canonical (taken c s) :=
  Machine.taken_canonical c s h.canonical

/-- A command that goes long. -/
theorem starts_ok {i : Instr} {k : Cmd} {op : Nat} {c : Call} {p : Plot} {s u : State} {b : OpBody} {n : Nat} (h : Heard k c p s) (x : Work)
    (ho : k.opcode = op) (he : exec i s = .next (serve k c s)) (ha : applies k.scope p = true ∨ k.scope = .field)
    (hj : k.journaled = false) (hb : k.bank = false ∨ k.status = true)
    (hx : k.act c (plotArg p) (taken c s) = x) (hl : x.long = some b) (hn : x.opno = n) (hu : x.st = u) (hc : Canonical u) :
    Starts i op c b n s u := by
  subst ho
  apply goLong_starts _ hc
  rw [he, serve_heard h]
  have ha' := h.actOn
  obtain ⟨-, -, -, h4, h5, -⟩ := h
  have hs : (applies k.scope p || decide (k.scope = .field)) = true := by simpa using ha
  rw [hx] at ha'
  unfold performAt performSingle
  simp [hs, h4, h5, hj, isRead, ha', hl, countDirect_plain hb, hn, hu]

/-- A command with a Ledger record of its own is put in flight with its record opened, and acts at its next step. -/
theorem starts_journaled {i : Instr} {k : Cmd} {op : Nat} {c : Call} {p : Plot} {s : State} (h : Heard k c p s)
    (ho : k.opcode = op) (he : exec i s = .next (serve k c s)) (ha : applies k.scope p = true ∨ k.scope = .field)
    (hj : k.journaled = true) (hr : openCount s.stw.ledger < 16) :
    Starts i op c (.journal (refOf p s)) s.stw.nextOpno s (openRecord op c false (taken c s)) := by
  subst ho
  obtain ⟨g, hg⟩ := taken_eq c s
  have hr' : ¬ (16 ≤ openCount (taken c s).stw.ledger) := by rw [hg]; exact Nat.not_le.2 hr
  have hn' : (taken c s).stw.nextOpno = s.stw.nextOpno := by rw [hg]
  have hp' : refOf p (taken c s) = refOf p s := by rw [hg]; cases p <;> rfl
  refine goLong_starts ?_ h.taken_canonical
  rw [he, serve_heard h]
  obtain ⟨-, -, -, h4, h5, -⟩ := h
  have hs : (applies k.scope p || decide (k.scope = .field)) = true := by simpa using ha
  unfold performAt performJournaled
  simp [hs, h4, h5, hj, isRead, if_neg hr', hn', hp']

end Sys2Proof.Machine
end

