-- ==== Sys2Proof/Laws/State.lean ====
section
/-! SUPPORT. One lemma for each field of State under each named update: what an update writes, and that it leaves every other
field. -/

namespace Sys2Proof.Machine

variable (s : State)

/-! ### emit -/

@[simp] theorem emit_pending (w : WireItem) : (emit w s).pending = s.pending := rfl
@[simp] theorem emit_free (w : WireItem) : (emit w s).free = s.free := rfl
@[simp] theorem emit_wire (w : WireItem) : (emit w s).wire = w :: s.wire := rfl
@[simp] theorem emit_hostRead (w : WireItem) : (emit w s).hostRead = s.hostRead := rfl
@[simp] theorem emit_alm (w : WireItem) : (emit w s).alm = s.alm := rfl
@[simp] theorem emit_ev (w : WireItem) : (emit w s).ev = s.ev := rfl
@[simp] theorem emit_hold (w : WireItem) : (emit w s).hold = s.hold := rfl
@[simp] theorem emit_staging (w : WireItem) : (emit w s).staging = s.staging := rfl
@[simp] theorem emit_stile (w : WireItem) : (emit w s).stile = s.stile := rfl
@[simp] theorem emit_rings (w : WireItem) : (emit w s).rings = s.rings := rfl
@[simp] theorem emit_stw (w : WireItem) : (emit w s).stw = s.stw := rfl
@[simp] theorem emit_bank (w : WireItem) : (emit w s).bank = s.bank := rfl
@[simp] theorem emit_sown (w : WireItem) : (emit w s).sown = s.sown := rfl
@[simp] theorem emit_plots (w : WireItem) : (emit w s).plots = s.plots := rfl
@[simp] theorem emit_field (w : WireItem) : (emit w s).field = s.field := rfl
@[simp] theorem emit_ploughs (w : WireItem) : (emit w s).ploughs = s.ploughs := rfl
@[simp] theorem emit_harrow (w : WireItem) : (emit w s).harrow = s.harrow := rfl
@[simp] theorem emit_drill (w : WireItem) : (emit w s).drill = s.drill := rfl
@[simp] theorem emit_gran (w : WireItem) : (emit w s).gran = s.gran := rfl
@[simp] theorem emit_buses (w : WireItem) : (emit w s).buses = s.buses := rfl
@[simp] theorem emit_ports (w : WireItem) : (emit w s).ports = s.ports := rfl
@[simp] theorem emit_keys (w : WireItem) : (emit w s).keys = s.keys := rfl
@[simp] theorem emit_fixed (w : WireItem) : (emit w s).fixed = s.fixed := rfl
@[simp] theorem emit_fw (w : WireItem) : (emit w s).fw = s.fw := rfl
@[simp] theorem emit_power (w : WireItem) : (emit w s).power = s.power := rfl
@[simp] theorem emit_timeCfg (w : WireItem) : (emit w s).timeCfg = s.timeCfg := rfl
@[simp] theorem emit_timePorts (w : WireItem) : (emit w s).timePorts = s.timePorts := rfl
@[simp] theorem emit_servo (w : WireItem) : (emit w s).servo = s.servo := rfl
@[simp] theorem emit_asym (w : WireItem) : (emit w s).asym = s.asym := rfl

/-! ### picked -/

@[simp] theorem picked_pending : (picked s).pending = s.pending := rfl
@[simp] theorem picked_free : (picked s).free = s.free + 1 := rfl
@[simp] theorem picked_wire : (picked s).wire = s.wire := rfl
@[simp] theorem picked_hostRead : (picked s).hostRead = s.hostRead := rfl
@[simp] theorem picked_alm : (picked s).alm = s.alm := rfl
@[simp] theorem picked_ev : (picked s).ev = s.ev := rfl
@[simp] theorem picked_hold : (picked s).hold = s.hold := rfl
@[simp] theorem picked_staging : (picked s).staging = s.staging := rfl
@[simp] theorem picked_stile : (picked s).stile = s.stile := rfl
@[simp] theorem picked_rings : (picked s).rings = s.rings := rfl
@[simp] theorem picked_stw : (picked s).stw = s.stw := rfl
@[simp] theorem picked_bank : (picked s).bank = s.bank := rfl
@[simp] theorem picked_sown : (picked s).sown = s.sown := rfl
@[simp] theorem picked_plots : (picked s).plots = s.plots := rfl
@[simp] theorem picked_field : (picked s).field = s.field := rfl
@[simp] theorem picked_ploughs : (picked s).ploughs = s.ploughs := rfl
@[simp] theorem picked_harrow : (picked s).harrow = s.harrow := rfl
@[simp] theorem picked_drill : (picked s).drill = s.drill := rfl
@[simp] theorem picked_gran : (picked s).gran = s.gran := rfl
@[simp] theorem picked_buses : (picked s).buses = s.buses := rfl
@[simp] theorem picked_ports : (picked s).ports = s.ports := rfl
@[simp] theorem picked_keys : (picked s).keys = s.keys := rfl
@[simp] theorem picked_fixed : (picked s).fixed = s.fixed := rfl
@[simp] theorem picked_fw : (picked s).fw = s.fw := rfl
@[simp] theorem picked_power : (picked s).power = s.power := rfl
@[simp] theorem picked_timeCfg : (picked s).timeCfg = s.timeCfg := rfl
@[simp] theorem picked_timePorts : (picked s).timePorts = s.timePorts := rfl
@[simp] theorem picked_servo : (picked s).servo = s.servo := rfl
@[simp] theorem picked_asym : (picked s).asym = s.asym := rfl

/-! ### setGport -/

@[simp] theorem setGport_pending (p : Nat) (v : GptpPort) : (setGport p v s).pending = s.pending := rfl
@[simp] theorem setGport_free (p : Nat) (v : GptpPort) : (setGport p v s).free = s.free := rfl
@[simp] theorem setGport_wire (p : Nat) (v : GptpPort) : (setGport p v s).wire = s.wire := rfl
@[simp] theorem setGport_hostRead (p : Nat) (v : GptpPort) : (setGport p v s).hostRead = s.hostRead := rfl
@[simp] theorem setGport_alm_sec (p : Nat) (v : GptpPort) : (setGport p v s).alm.sec = s.alm.sec := rfl
@[simp] theorem setGport_alm_ns (p : Nat) (v : GptpPort) : (setGport p v s).alm.ns = s.alm.ns := rfl
@[simp] theorem setGport_alm_frac (p : Nat) (v : GptpPort) : (setGport p v s).alm.frac = s.alm.frac := rfl
@[simp] theorem setGport_alm_inc (p : Nat) (v : GptpPort) : (setGport p v s).alm.inc = s.alm.inc := rfl
@[simp] theorem setGport_alm_utc (p : Nat) (v : GptpPort) : (setGport p v s).alm.utc = s.alm.utc := rfl
@[simp] theorem setGport_alm_utcFromAnnounce (p : Nat) (v : GptpPort) : (setGport p v s).alm.utcFromAnnounce = s.alm.utcFromAnnounce := rfl
@[simp] theorem setGport_alm_working (p : Nat) (v : GptpPort) : (setGport p v s).alm.working = s.alm.working := rfl
@[simp] theorem setGport_alm_relayed (p : Nat) (v : GptpPort) : (setGport p v s).alm.relayed = s.alm.relayed := rfl
@[simp] theorem setGport_alm_exchange (p : Nat) (v : GptpPort) : (setGport p v s).alm.exchange = s.alm.exchange := rfl
@[simp] theorem setGport_alm_i (p : Nat) (v : GptpPort) : (setGport p v s).alm.i = s.alm.i := rfl
@[simp] theorem setGport_alm_a (p : Nat) (v : GptpPort) : (setGport p v s).alm.a = s.alm.a := rfl
@[simp] theorem setGport_alm_theta (p : Nat) (v : GptpPort) : (setGport p v s).alm.theta = s.alm.theta := rfl
@[simp] theorem setGport_alm_outlierRun (p : Nat) (v : GptpPort) : (setGport p v s).alm.outlierRun = s.alm.outlierRun := rfl
@[simp] theorem setGport_alm_lockRun (p : Nat) (v : GptpPort) : (setGport p v s).alm.lockRun = s.alm.lockRun := rfl
@[simp] theorem setGport_alm_clampRun (p : Nat) (v : GptpPort) : (setGport p v s).alm.clampRun = s.alm.clampRun := rfl
@[simp] theorem setGport_alm_limitArmed (p : Nat) (v : GptpPort) : (setGport p v s).alm.limitArmed = s.alm.limitArmed := rfl
@[simp] theorem setGport_alm_iHistory (p : Nat) (v : GptpPort) : (setGport p v s).alm.iHistory = s.alm.iHistory := rfl
@[simp] theorem setGport_alm_frozen (p : Nat) (v : GptpPort) : (setGport p v s).alm.frozen = s.alm.frozen := rfl
@[simp] theorem setGport_alm_state (p : Nat) (v : GptpPort) : (setGport p v s).alm.state = s.alm.state := rfl
@[simp] theorem setGport_alm_grandmaster (p : Nat) (v : GptpPort) : (setGport p v s).alm.grandmaster = s.alm.grandmaster := rfl
@[simp] theorem setGport_alm_gmId (p : Nat) (v : GptpPort) : (setGport p v s).alm.gmId = s.alm.gmId := rfl
@[simp] theorem setGport_alm_slavePort (p : Nat) (v : GptpPort) : (setGport p v s).alm.slavePort = s.alm.slavePort := rfl
@[simp] theorem setGport_alm_lastSlave (p : Nat) (v : GptpPort) : (setGport p v s).alm.lastSlave = s.alm.lastSlave := rfl
@[simp] theorem setGport_alm_relSlave (p : Nat) (v : GptpPort) : (setGport p v s).alm.relSlave = s.alm.relSlave := rfl
@[simp] theorem setGport_alm_relGm (p : Nat) (v : GptpPort) : (setGport p v s).alm.relGm = s.alm.relGm := rfl
@[simp] theorem setGport_alm_relGmId (p : Nat) (v : GptpPort) : (setGport p v s).alm.relGmId = s.alm.relGmId := rfl
@[simp] theorem setGport_alm_gmPending (p : Nat) (v : GptpPort) : (setGport p v s).alm.gmPending = s.alm.gmPending := rfl
@[simp] theorem setGport_alm_budgetExpired (p : Nat) (v : GptpPort) : (setGport p v s).alm.budgetExpired = s.alm.budgetExpired := rfl
@[simp] theorem setGport_alm_firstLock (p : Nat) (v : GptpPort) : (setGport p v s).alm.firstLock = s.alm.firstLock := rfl
@[simp] theorem setGport_alm_relOffset (p : Nat) (v : GptpPort) : (setGport p v s).alm.relOffset = s.alm.relOffset := rfl
@[simp] theorem setGport_alm_relRate (p : Nat) (v : GptpPort) : (setGport p v s).alm.relRate = s.alm.relRate := rfl
@[simp] theorem setGport_alm_lockLog (p : Nat) (v : GptpPort) : (setGport p v s).alm.lockLog = s.alm.lockLog := rfl
@[simp] theorem setGport_alm_lastStep (p : Nat) (v : GptpPort) : (setGport p v s).alm.lastStep = s.alm.lastStep := rfl
@[simp] theorem setGport_alm_steps (p : Nat) (v : GptpPort) : (setGport p v s).alm.steps = s.alm.steps := rfl
@[simp] theorem setGport_alm_outliers (p : Nat) (v : GptpPort) : (setGport p v s).alm.outliers = s.alm.outliers := rfl
@[simp] theorem setGport_alm_steppedReleases (p : Nat) (v : GptpPort) : (setGport p v s).alm.steppedReleases = s.alm.steppedReleases := rfl
@[simp] theorem setGport_alm_ports (p : Nat) (v : GptpPort) : (setGport p v s).alm.ports = tset p v s.alm.ports := rfl
@[simp] theorem setGport_alm_alarms (p : Nat) (v : GptpPort) : (setGport p v s).alm.alarms = s.alm.alarms := rfl
@[simp] theorem setGport_alm_schedule (p : Nat) (v : GptpPort) : (setGport p v s).alm.schedule = s.alm.schedule := rfl
@[simp] theorem setGport_alm_ppsUntil (p : Nat) (v : GptpPort) : (setGport p v s).alm.ppsUntil = s.alm.ppsUntil := rfl
@[simp] theorem setGport_alm_lastPps (p : Nat) (v : GptpPort) : (setGport p v s).alm.lastPps = s.alm.lastPps := rfl
@[simp] theorem setGport_alm_ppsGlitches (p : Nat) (v : GptpPort) : (setGport p v s).alm.ppsGlitches = s.alm.ppsGlitches := rfl
@[simp] theorem setGport_alm_txStamps (p : Nat) (v : GptpPort) : (setGport p v s).alm.txStamps = s.alm.txStamps := rfl
@[simp] theorem setGport_alm_txStampLost (p : Nat) (v : GptpPort) : (setGport p v s).alm.txStampLost = s.alm.txStampLost := rfl
@[simp] theorem setGport_alm_txStampOver (p : Nat) (v : GptpPort) : (setGport p v s).alm.txStampOver = s.alm.txStampOver := rfl
@[simp] theorem setGport_ev (p : Nat) (v : GptpPort) : (setGport p v s).ev = s.ev := rfl
@[simp] theorem setGport_hold (p : Nat) (v : GptpPort) : (setGport p v s).hold = s.hold := rfl
@[simp] theorem setGport_staging (p : Nat) (v : GptpPort) : (setGport p v s).staging = s.staging := rfl
@[simp] theorem setGport_stile (p : Nat) (v : GptpPort) : (setGport p v s).stile = s.stile := rfl
@[simp] theorem setGport_rings (p : Nat) (v : GptpPort) : (setGport p v s).rings = s.rings := rfl
@[simp] theorem setGport_stw (p : Nat) (v : GptpPort) : (setGport p v s).stw = s.stw := rfl
@[simp] theorem setGport_bank (p : Nat) (v : GptpPort) : (setGport p v s).bank = s.bank := rfl
@[simp] theorem setGport_sown (p : Nat) (v : GptpPort) : (setGport p v s).sown = s.sown := rfl
@[simp] theorem setGport_plots (p : Nat) (v : GptpPort) : (setGport p v s).plots = s.plots := rfl
@[simp] theorem setGport_field (p : Nat) (v : GptpPort) : (setGport p v s).field = s.field := rfl
@[simp] theorem setGport_ploughs (p : Nat) (v : GptpPort) : (setGport p v s).ploughs = s.ploughs := rfl
@[simp] theorem setGport_harrow (p : Nat) (v : GptpPort) : (setGport p v s).harrow = s.harrow := rfl
@[simp] theorem setGport_drill (p : Nat) (v : GptpPort) : (setGport p v s).drill = s.drill := rfl
@[simp] theorem setGport_gran (p : Nat) (v : GptpPort) : (setGport p v s).gran = s.gran := rfl
@[simp] theorem setGport_buses (p : Nat) (v : GptpPort) : (setGport p v s).buses = s.buses := rfl
@[simp] theorem setGport_ports (p : Nat) (v : GptpPort) : (setGport p v s).ports = s.ports := rfl
@[simp] theorem setGport_keys (p : Nat) (v : GptpPort) : (setGport p v s).keys = s.keys := rfl
@[simp] theorem setGport_fixed (p : Nat) (v : GptpPort) : (setGport p v s).fixed = s.fixed := rfl
@[simp] theorem setGport_fw (p : Nat) (v : GptpPort) : (setGport p v s).fw = s.fw := rfl
@[simp] theorem setGport_power (p : Nat) (v : GptpPort) : (setGport p v s).power = s.power := rfl
@[simp] theorem setGport_timeCfg (p : Nat) (v : GptpPort) : (setGport p v s).timeCfg = s.timeCfg := rfl
@[simp] theorem setGport_timePorts (p : Nat) (v : GptpPort) : (setGport p v s).timePorts = s.timePorts := rfl
@[simp] theorem setGport_servo (p : Nat) (v : GptpPort) : (setGport p v s).servo = s.servo := rfl
@[simp] theorem setGport_asym (p : Nat) (v : GptpPort) : (setGport p v s).asym = s.asym := rfl

/-! ### setCan -/

@[simp] theorem setCan_pending (k : Nat) (v : CanRt) : (setCan k v s).pending = s.pending := rfl
@[simp] theorem setCan_free (k : Nat) (v : CanRt) : (setCan k v s).free = s.free := rfl
@[simp] theorem setCan_wire (k : Nat) (v : CanRt) : (setCan k v s).wire = s.wire := rfl
@[simp] theorem setCan_hostRead (k : Nat) (v : CanRt) : (setCan k v s).hostRead = s.hostRead := rfl
@[simp] theorem setCan_alm (k : Nat) (v : CanRt) : (setCan k v s).alm = s.alm := rfl
@[simp] theorem setCan_ev (k : Nat) (v : CanRt) : (setCan k v s).ev = s.ev := rfl
@[simp] theorem setCan_hold (k : Nat) (v : CanRt) : (setCan k v s).hold = s.hold := rfl
@[simp] theorem setCan_staging (k : Nat) (v : CanRt) : (setCan k v s).staging = s.staging := rfl
@[simp] theorem setCan_stile (k : Nat) (v : CanRt) : (setCan k v s).stile = s.stile := rfl
@[simp] theorem setCan_rings (k : Nat) (v : CanRt) : (setCan k v s).rings = s.rings := rfl
@[simp] theorem setCan_stw (k : Nat) (v : CanRt) : (setCan k v s).stw = s.stw := rfl
@[simp] theorem setCan_bank (k : Nat) (v : CanRt) : (setCan k v s).bank = s.bank := rfl
@[simp] theorem setCan_sown (k : Nat) (v : CanRt) : (setCan k v s).sown = s.sown := rfl
@[simp] theorem setCan_plots (k : Nat) (v : CanRt) : (setCan k v s).plots = s.plots := rfl
@[simp] theorem setCan_field (k : Nat) (v : CanRt) : (setCan k v s).field = s.field := rfl
@[simp] theorem setCan_ploughs (k : Nat) (v : CanRt) : (setCan k v s).ploughs = s.ploughs := rfl
@[simp] theorem setCan_harrow (k : Nat) (v : CanRt) : (setCan k v s).harrow = s.harrow := rfl
@[simp] theorem setCan_drill (k : Nat) (v : CanRt) : (setCan k v s).drill = s.drill := rfl
@[simp] theorem setCan_gran (k : Nat) (v : CanRt) : (setCan k v s).gran = s.gran := rfl
@[simp] theorem setCan_buses_can (k : Nat) (v : CanRt) : (setCan k v s).buses.can = tset k v s.buses.can := rfl
@[simp] theorem setCan_buses_uart (k : Nat) (v : CanRt) : (setCan k v s).buses.uart = s.buses.uart := rfl
@[simp] theorem setCan_buses_lin (k : Nat) (v : CanRt) : (setCan k v s).buses.lin = s.buses.lin := rfl
@[simp] theorem setCan_buses_mvb (k : Nat) (v : CanRt) : (setCan k v s).buses.mvb = s.buses.mvb := rfl
@[simp] theorem setCan_buses_pins (k : Nat) (v : CanRt) : (setCan k v s).buses.pins = s.buses.pins := rfl
@[simp] theorem setCan_buses_loopback (k : Nat) (v : CanRt) : (setCan k v s).buses.loopback = s.buses.loopback := rfl
@[simp] theorem setCan_ports (k : Nat) (v : CanRt) : (setCan k v s).ports = s.ports := rfl
@[simp] theorem setCan_keys (k : Nat) (v : CanRt) : (setCan k v s).keys = s.keys := rfl
@[simp] theorem setCan_fixed (k : Nat) (v : CanRt) : (setCan k v s).fixed = s.fixed := rfl
@[simp] theorem setCan_fw (k : Nat) (v : CanRt) : (setCan k v s).fw = s.fw := rfl
@[simp] theorem setCan_power (k : Nat) (v : CanRt) : (setCan k v s).power = s.power := rfl
@[simp] theorem setCan_timeCfg (k : Nat) (v : CanRt) : (setCan k v s).timeCfg = s.timeCfg := rfl
@[simp] theorem setCan_timePorts (k : Nat) (v : CanRt) : (setCan k v s).timePorts = s.timePorts := rfl
@[simp] theorem setCan_servo (k : Nat) (v : CanRt) : (setCan k v s).servo = s.servo := rfl
@[simp] theorem setCan_asym (k : Nat) (v : CanRt) : (setCan k v s).asym = s.asym := rfl

/-! ### setUart -/

@[simp] theorem setUart_pending (k : Nat) (v : UartRt) : (setUart k v s).pending = s.pending := rfl
@[simp] theorem setUart_free (k : Nat) (v : UartRt) : (setUart k v s).free = s.free := rfl
@[simp] theorem setUart_wire (k : Nat) (v : UartRt) : (setUart k v s).wire = s.wire := rfl
@[simp] theorem setUart_hostRead (k : Nat) (v : UartRt) : (setUart k v s).hostRead = s.hostRead := rfl
@[simp] theorem setUart_alm (k : Nat) (v : UartRt) : (setUart k v s).alm = s.alm := rfl
@[simp] theorem setUart_ev (k : Nat) (v : UartRt) : (setUart k v s).ev = s.ev := rfl
@[simp] theorem setUart_hold (k : Nat) (v : UartRt) : (setUart k v s).hold = s.hold := rfl
@[simp] theorem setUart_staging (k : Nat) (v : UartRt) : (setUart k v s).staging = s.staging := rfl
@[simp] theorem setUart_stile (k : Nat) (v : UartRt) : (setUart k v s).stile = s.stile := rfl
@[simp] theorem setUart_rings (k : Nat) (v : UartRt) : (setUart k v s).rings = s.rings := rfl
@[simp] theorem setUart_stw (k : Nat) (v : UartRt) : (setUart k v s).stw = s.stw := rfl
@[simp] theorem setUart_bank (k : Nat) (v : UartRt) : (setUart k v s).bank = s.bank := rfl
@[simp] theorem setUart_sown (k : Nat) (v : UartRt) : (setUart k v s).sown = s.sown := rfl
@[simp] theorem setUart_plots (k : Nat) (v : UartRt) : (setUart k v s).plots = s.plots := rfl
@[simp] theorem setUart_field (k : Nat) (v : UartRt) : (setUart k v s).field = s.field := rfl
@[simp] theorem setUart_ploughs (k : Nat) (v : UartRt) : (setUart k v s).ploughs = s.ploughs := rfl
@[simp] theorem setUart_harrow (k : Nat) (v : UartRt) : (setUart k v s).harrow = s.harrow := rfl
@[simp] theorem setUart_drill (k : Nat) (v : UartRt) : (setUart k v s).drill = s.drill := rfl
@[simp] theorem setUart_gran (k : Nat) (v : UartRt) : (setUart k v s).gran = s.gran := rfl
@[simp] theorem setUart_buses_can (k : Nat) (v : UartRt) : (setUart k v s).buses.can = s.buses.can := rfl
@[simp] theorem setUart_buses_uart (k : Nat) (v : UartRt) : (setUart k v s).buses.uart = tset k v s.buses.uart := rfl
@[simp] theorem setUart_buses_lin (k : Nat) (v : UartRt) : (setUart k v s).buses.lin = s.buses.lin := rfl
@[simp] theorem setUart_buses_mvb (k : Nat) (v : UartRt) : (setUart k v s).buses.mvb = s.buses.mvb := rfl
@[simp] theorem setUart_buses_pins (k : Nat) (v : UartRt) : (setUart k v s).buses.pins = s.buses.pins := rfl
@[simp] theorem setUart_buses_loopback (k : Nat) (v : UartRt) : (setUart k v s).buses.loopback = s.buses.loopback := rfl
@[simp] theorem setUart_ports (k : Nat) (v : UartRt) : (setUart k v s).ports = s.ports := rfl
@[simp] theorem setUart_keys (k : Nat) (v : UartRt) : (setUart k v s).keys = s.keys := rfl
@[simp] theorem setUart_fixed (k : Nat) (v : UartRt) : (setUart k v s).fixed = s.fixed := rfl
@[simp] theorem setUart_fw (k : Nat) (v : UartRt) : (setUart k v s).fw = s.fw := rfl
@[simp] theorem setUart_power (k : Nat) (v : UartRt) : (setUart k v s).power = s.power := rfl
@[simp] theorem setUart_timeCfg (k : Nat) (v : UartRt) : (setUart k v s).timeCfg = s.timeCfg := rfl
@[simp] theorem setUart_timePorts (k : Nat) (v : UartRt) : (setUart k v s).timePorts = s.timePorts := rfl
@[simp] theorem setUart_servo (k : Nat) (v : UartRt) : (setUart k v s).servo = s.servo := rfl
@[simp] theorem setUart_asym (k : Nat) (v : UartRt) : (setUart k v s).asym = s.asym := rfl

/-! ### setLin -/

@[simp] theorem setLin_pending (k : Nat) (v : LinRt) : (setLin k v s).pending = s.pending := rfl
@[simp] theorem setLin_free (k : Nat) (v : LinRt) : (setLin k v s).free = s.free := rfl
@[simp] theorem setLin_wire (k : Nat) (v : LinRt) : (setLin k v s).wire = s.wire := rfl
@[simp] theorem setLin_hostRead (k : Nat) (v : LinRt) : (setLin k v s).hostRead = s.hostRead := rfl
@[simp] theorem setLin_alm (k : Nat) (v : LinRt) : (setLin k v s).alm = s.alm := rfl
@[simp] theorem setLin_ev (k : Nat) (v : LinRt) : (setLin k v s).ev = s.ev := rfl
@[simp] theorem setLin_hold (k : Nat) (v : LinRt) : (setLin k v s).hold = s.hold := rfl
@[simp] theorem setLin_staging (k : Nat) (v : LinRt) : (setLin k v s).staging = s.staging := rfl
@[simp] theorem setLin_stile (k : Nat) (v : LinRt) : (setLin k v s).stile = s.stile := rfl
@[simp] theorem setLin_rings (k : Nat) (v : LinRt) : (setLin k v s).rings = s.rings := rfl
@[simp] theorem setLin_stw (k : Nat) (v : LinRt) : (setLin k v s).stw = s.stw := rfl
@[simp] theorem setLin_bank (k : Nat) (v : LinRt) : (setLin k v s).bank = s.bank := rfl
@[simp] theorem setLin_sown (k : Nat) (v : LinRt) : (setLin k v s).sown = s.sown := rfl
@[simp] theorem setLin_plots (k : Nat) (v : LinRt) : (setLin k v s).plots = s.plots := rfl
@[simp] theorem setLin_field (k : Nat) (v : LinRt) : (setLin k v s).field = s.field := rfl
@[simp] theorem setLin_ploughs (k : Nat) (v : LinRt) : (setLin k v s).ploughs = s.ploughs := rfl
@[simp] theorem setLin_harrow (k : Nat) (v : LinRt) : (setLin k v s).harrow = s.harrow := rfl
@[simp] theorem setLin_drill (k : Nat) (v : LinRt) : (setLin k v s).drill = s.drill := rfl
@[simp] theorem setLin_gran (k : Nat) (v : LinRt) : (setLin k v s).gran = s.gran := rfl
@[simp] theorem setLin_buses_can (k : Nat) (v : LinRt) : (setLin k v s).buses.can = s.buses.can := rfl
@[simp] theorem setLin_buses_uart (k : Nat) (v : LinRt) : (setLin k v s).buses.uart = s.buses.uart := rfl
@[simp] theorem setLin_buses_lin (k : Nat) (v : LinRt) : (setLin k v s).buses.lin = tset k v s.buses.lin := rfl
@[simp] theorem setLin_buses_mvb (k : Nat) (v : LinRt) : (setLin k v s).buses.mvb = s.buses.mvb := rfl
@[simp] theorem setLin_buses_pins (k : Nat) (v : LinRt) : (setLin k v s).buses.pins = s.buses.pins := rfl
@[simp] theorem setLin_buses_loopback (k : Nat) (v : LinRt) : (setLin k v s).buses.loopback = s.buses.loopback := rfl
@[simp] theorem setLin_ports (k : Nat) (v : LinRt) : (setLin k v s).ports = s.ports := rfl
@[simp] theorem setLin_keys (k : Nat) (v : LinRt) : (setLin k v s).keys = s.keys := rfl
@[simp] theorem setLin_fixed (k : Nat) (v : LinRt) : (setLin k v s).fixed = s.fixed := rfl
@[simp] theorem setLin_fw (k : Nat) (v : LinRt) : (setLin k v s).fw = s.fw := rfl
@[simp] theorem setLin_power (k : Nat) (v : LinRt) : (setLin k v s).power = s.power := rfl
@[simp] theorem setLin_timeCfg (k : Nat) (v : LinRt) : (setLin k v s).timeCfg = s.timeCfg := rfl
@[simp] theorem setLin_timePorts (k : Nat) (v : LinRt) : (setLin k v s).timePorts = s.timePorts := rfl
@[simp] theorem setLin_servo (k : Nat) (v : LinRt) : (setLin k v s).servo = s.servo := rfl
@[simp] theorem setLin_asym (k : Nat) (v : LinRt) : (setLin k v s).asym = s.asym := rfl

/-! ### setMvb -/

@[simp] theorem setMvb_pending (k : Nat) (v : MvbRt) : (setMvb k v s).pending = s.pending := rfl
@[simp] theorem setMvb_free (k : Nat) (v : MvbRt) : (setMvb k v s).free = s.free := rfl
@[simp] theorem setMvb_wire (k : Nat) (v : MvbRt) : (setMvb k v s).wire = s.wire := rfl
@[simp] theorem setMvb_hostRead (k : Nat) (v : MvbRt) : (setMvb k v s).hostRead = s.hostRead := rfl
@[simp] theorem setMvb_alm (k : Nat) (v : MvbRt) : (setMvb k v s).alm = s.alm := rfl
@[simp] theorem setMvb_ev (k : Nat) (v : MvbRt) : (setMvb k v s).ev = s.ev := rfl
@[simp] theorem setMvb_hold (k : Nat) (v : MvbRt) : (setMvb k v s).hold = s.hold := rfl
@[simp] theorem setMvb_staging (k : Nat) (v : MvbRt) : (setMvb k v s).staging = s.staging := rfl
@[simp] theorem setMvb_stile (k : Nat) (v : MvbRt) : (setMvb k v s).stile = s.stile := rfl
@[simp] theorem setMvb_rings (k : Nat) (v : MvbRt) : (setMvb k v s).rings = s.rings := rfl
@[simp] theorem setMvb_stw (k : Nat) (v : MvbRt) : (setMvb k v s).stw = s.stw := rfl
@[simp] theorem setMvb_bank (k : Nat) (v : MvbRt) : (setMvb k v s).bank = s.bank := rfl
@[simp] theorem setMvb_sown (k : Nat) (v : MvbRt) : (setMvb k v s).sown = s.sown := rfl
@[simp] theorem setMvb_plots (k : Nat) (v : MvbRt) : (setMvb k v s).plots = s.plots := rfl
@[simp] theorem setMvb_field (k : Nat) (v : MvbRt) : (setMvb k v s).field = s.field := rfl
@[simp] theorem setMvb_ploughs (k : Nat) (v : MvbRt) : (setMvb k v s).ploughs = s.ploughs := rfl
@[simp] theorem setMvb_harrow (k : Nat) (v : MvbRt) : (setMvb k v s).harrow = s.harrow := rfl
@[simp] theorem setMvb_drill (k : Nat) (v : MvbRt) : (setMvb k v s).drill = s.drill := rfl
@[simp] theorem setMvb_gran (k : Nat) (v : MvbRt) : (setMvb k v s).gran = s.gran := rfl
@[simp] theorem setMvb_buses_can (k : Nat) (v : MvbRt) : (setMvb k v s).buses.can = s.buses.can := rfl
@[simp] theorem setMvb_buses_uart (k : Nat) (v : MvbRt) : (setMvb k v s).buses.uart = s.buses.uart := rfl
@[simp] theorem setMvb_buses_lin (k : Nat) (v : MvbRt) : (setMvb k v s).buses.lin = s.buses.lin := rfl
@[simp] theorem setMvb_buses_mvb (k : Nat) (v : MvbRt) : (setMvb k v s).buses.mvb = tset k v s.buses.mvb := rfl
@[simp] theorem setMvb_buses_pins (k : Nat) (v : MvbRt) : (setMvb k v s).buses.pins = s.buses.pins := rfl
@[simp] theorem setMvb_buses_loopback (k : Nat) (v : MvbRt) : (setMvb k v s).buses.loopback = s.buses.loopback := rfl
@[simp] theorem setMvb_ports (k : Nat) (v : MvbRt) : (setMvb k v s).ports = s.ports := rfl
@[simp] theorem setMvb_keys (k : Nat) (v : MvbRt) : (setMvb k v s).keys = s.keys := rfl
@[simp] theorem setMvb_fixed (k : Nat) (v : MvbRt) : (setMvb k v s).fixed = s.fixed := rfl
@[simp] theorem setMvb_fw (k : Nat) (v : MvbRt) : (setMvb k v s).fw = s.fw := rfl
@[simp] theorem setMvb_power (k : Nat) (v : MvbRt) : (setMvb k v s).power = s.power := rfl
@[simp] theorem setMvb_timeCfg (k : Nat) (v : MvbRt) : (setMvb k v s).timeCfg = s.timeCfg := rfl
@[simp] theorem setMvb_timePorts (k : Nat) (v : MvbRt) : (setMvb k v s).timePorts = s.timePorts := rfl
@[simp] theorem setMvb_servo (k : Nat) (v : MvbRt) : (setMvb k v s).servo = s.servo := rfl
@[simp] theorem setMvb_asym (k : Nat) (v : MvbRt) : (setMvb k v s).asym = s.asym := rfl

/-! ### setRowRt -/

@[simp] theorem setRowRt_pending (r : Nat) (v : RowRt) : (setRowRt r v s).pending = s.pending := rfl
@[simp] theorem setRowRt_free (r : Nat) (v : RowRt) : (setRowRt r v s).free = s.free := rfl
@[simp] theorem setRowRt_wire (r : Nat) (v : RowRt) : (setRowRt r v s).wire = s.wire := rfl
@[simp] theorem setRowRt_hostRead (r : Nat) (v : RowRt) : (setRowRt r v s).hostRead = s.hostRead := rfl
@[simp] theorem setRowRt_alm (r : Nat) (v : RowRt) : (setRowRt r v s).alm = s.alm := rfl
@[simp] theorem setRowRt_ev (r : Nat) (v : RowRt) : (setRowRt r v s).ev = s.ev := rfl
@[simp] theorem setRowRt_hold (r : Nat) (v : RowRt) : (setRowRt r v s).hold = s.hold := rfl
@[simp] theorem setRowRt_staging (r : Nat) (v : RowRt) : (setRowRt r v s).staging = s.staging := rfl
@[simp] theorem setRowRt_stile (r : Nat) (v : RowRt) : (setRowRt r v s).stile = s.stile := rfl
@[simp] theorem setRowRt_rings (r : Nat) (v : RowRt) : (setRowRt r v s).rings = s.rings := rfl
@[simp] theorem setRowRt_stw (r : Nat) (v : RowRt) : (setRowRt r v s).stw = s.stw := rfl
@[simp] theorem setRowRt_bank (r : Nat) (v : RowRt) : (setRowRt r v s).bank = s.bank := rfl
@[simp] theorem setRowRt_sown (r : Nat) (v : RowRt) : (setRowRt r v s).sown = s.sown := rfl
@[simp] theorem setRowRt_plots (r : Nat) (v : RowRt) : (setRowRt r v s).plots = s.plots := rfl
@[simp] theorem setRowRt_field (r : Nat) (v : RowRt) : (setRowRt r v s).field = s.field := rfl
@[simp] theorem setRowRt_ploughs (r : Nat) (v : RowRt) : (setRowRt r v s).ploughs = s.ploughs := rfl
@[simp] theorem setRowRt_harrow_routes (r : Nat) (v : RowRt) : (setRowRt r v s).harrow.routes = s.harrow.routes := rfl
@[simp] theorem setRowRt_harrow_teams (r : Nat) (v : RowRt) : (setRowRt r v s).harrow.teams = s.harrow.teams := rfl
@[simp] theorem setRowRt_harrow_sieveFlags (r : Nat) (v : RowRt) : (setRowRt r v s).harrow.sieveFlags = s.harrow.sieveFlags := rfl
@[simp] theorem setRowRt_harrow_policers (r : Nat) (v : RowRt) : (setRowRt r v s).harrow.policers = s.harrow.policers := rfl
@[simp] theorem setRowRt_harrow_rules (r : Nat) (v : RowRt) : (setRowRt r v s).harrow.rules = s.harrow.rules := rfl
@[simp] theorem setRowRt_harrow_tallies (r : Nat) (v : RowRt) : (setRowRt r v s).harrow.tallies = s.harrow.tallies := rfl
@[simp] theorem setRowRt_harrow_rows (r : Nat) (v : RowRt) : (setRowRt r v s).harrow.rows = tset r v s.harrow.rows := rfl
@[simp] theorem setRowRt_harrow_lsetSkips (r : Nat) (v : RowRt) : (setRowRt r v s).harrow.lsetSkips = s.harrow.lsetSkips := rfl
@[simp] theorem setRowRt_harrow_lanes (r : Nat) (v : RowRt) : (setRowRt r v s).harrow.lanes = s.harrow.lanes := rfl
@[simp] theorem setRowRt_harrow_isolated (r : Nat) (v : RowRt) : (setRowRt r v s).harrow.isolated = s.harrow.isolated := rfl
@[simp] theorem setRowRt_harrow_laneWait (r : Nat) (v : RowRt) : (setRowRt r v s).harrow.laneWait = s.harrow.laneWait := rfl
@[simp] theorem setRowRt_harrow_laneDiscards (r : Nat) (v : RowRt) : (setRowRt r v s).harrow.laneDiscards = s.harrow.laneDiscards := rfl
@[simp] theorem setRowRt_harrow_stalled (r : Nat) (v : RowRt) : (setRowRt r v s).harrow.stalled = s.harrow.stalled := rfl
@[simp] theorem setRowRt_harrow_fabricResets (r : Nat) (v : RowRt) : (setRowRt r v s).harrow.fabricResets = s.harrow.fabricResets := rfl
@[simp] theorem setRowRt_harrow_stalls (r : Nat) (v : RowRt) : (setRowRt r v s).harrow.stalls = s.harrow.stalls := rfl
@[simp] theorem setRowRt_harrow_codeFaults (r : Nat) (v : RowRt) : (setRowRt r v s).harrow.codeFaults = s.harrow.codeFaults := rfl
@[simp] theorem setRowRt_harrow_inReset (r : Nat) (v : RowRt) : (setRowRt r v s).harrow.inReset = s.harrow.inReset := rfl
@[simp] theorem setRowRt_harrow_portFifo (r : Nat) (v : RowRt) : (setRowRt r v s).harrow.portFifo = s.harrow.portFifo := rfl
@[simp] theorem setRowRt_harrow_readFifo (r : Nat) (v : RowRt) : (setRowRt r v s).harrow.readFifo = s.harrow.readFifo := rfl
@[simp] theorem setRowRt_harrow_stewFifo (r : Nat) (v : RowRt) : (setRowRt r v s).harrow.stewFifo = s.harrow.stewFifo := rfl
@[simp] theorem setRowRt_harrow_handoff (r : Nat) (v : RowRt) : (setRowRt r v s).harrow.handoff = s.harrow.handoff := rfl
@[simp] theorem setRowRt_harrow_beaconDrops (r : Nat) (v : RowRt) : (setRowRt r v s).harrow.beaconDrops = s.harrow.beaconDrops := rfl
@[simp] theorem setRowRt_harrow_unknownOrigin (r : Nat) (v : RowRt) : (setRowRt r v s).harrow.unknownOrigin = s.harrow.unknownOrigin := rfl
@[simp] theorem setRowRt_drill (r : Nat) (v : RowRt) : (setRowRt r v s).drill = s.drill := rfl
@[simp] theorem setRowRt_gran (r : Nat) (v : RowRt) : (setRowRt r v s).gran = s.gran := rfl
@[simp] theorem setRowRt_buses (r : Nat) (v : RowRt) : (setRowRt r v s).buses = s.buses := rfl
@[simp] theorem setRowRt_ports (r : Nat) (v : RowRt) : (setRowRt r v s).ports = s.ports := rfl
@[simp] theorem setRowRt_keys (r : Nat) (v : RowRt) : (setRowRt r v s).keys = s.keys := rfl
@[simp] theorem setRowRt_fixed (r : Nat) (v : RowRt) : (setRowRt r v s).fixed = s.fixed := rfl
@[simp] theorem setRowRt_fw (r : Nat) (v : RowRt) : (setRowRt r v s).fw = s.fw := rfl
@[simp] theorem setRowRt_power (r : Nat) (v : RowRt) : (setRowRt r v s).power = s.power := rfl
@[simp] theorem setRowRt_timeCfg (r : Nat) (v : RowRt) : (setRowRt r v s).timeCfg = s.timeCfg := rfl
@[simp] theorem setRowRt_timePorts (r : Nat) (v : RowRt) : (setRowRt r v s).timePorts = s.timePorts := rfl
@[simp] theorem setRowRt_servo (r : Nat) (v : RowRt) : (setRowRt r v s).servo = s.servo := rfl
@[simp] theorem setRowRt_asym (r : Nat) (v : RowRt) : (setRowRt r v s).asym = s.asym := rfl

/-! ### setTeam -/

@[simp] theorem setTeam_pending (t : Nat) (v : TeamRt) : (setTeam t v s).pending = s.pending := rfl
@[simp] theorem setTeam_free (t : Nat) (v : TeamRt) : (setTeam t v s).free = s.free := rfl
@[simp] theorem setTeam_wire (t : Nat) (v : TeamRt) : (setTeam t v s).wire = s.wire := rfl
@[simp] theorem setTeam_hostRead (t : Nat) (v : TeamRt) : (setTeam t v s).hostRead = s.hostRead := rfl
@[simp] theorem setTeam_alm (t : Nat) (v : TeamRt) : (setTeam t v s).alm = s.alm := rfl
@[simp] theorem setTeam_ev (t : Nat) (v : TeamRt) : (setTeam t v s).ev = s.ev := rfl
@[simp] theorem setTeam_hold (t : Nat) (v : TeamRt) : (setTeam t v s).hold = s.hold := rfl
@[simp] theorem setTeam_staging (t : Nat) (v : TeamRt) : (setTeam t v s).staging = s.staging := rfl
@[simp] theorem setTeam_stile (t : Nat) (v : TeamRt) : (setTeam t v s).stile = s.stile := rfl
@[simp] theorem setTeam_rings (t : Nat) (v : TeamRt) : (setTeam t v s).rings = s.rings := rfl
@[simp] theorem setTeam_stw (t : Nat) (v : TeamRt) : (setTeam t v s).stw = s.stw := rfl
@[simp] theorem setTeam_bank (t : Nat) (v : TeamRt) : (setTeam t v s).bank = s.bank := rfl
@[simp] theorem setTeam_sown (t : Nat) (v : TeamRt) : (setTeam t v s).sown = s.sown := rfl
@[simp] theorem setTeam_plots (t : Nat) (v : TeamRt) : (setTeam t v s).plots = s.plots := rfl
@[simp] theorem setTeam_field (t : Nat) (v : TeamRt) : (setTeam t v s).field = s.field := rfl
@[simp] theorem setTeam_ploughs (t : Nat) (v : TeamRt) : (setTeam t v s).ploughs = s.ploughs := rfl
@[simp] theorem setTeam_harrow_routes (t : Nat) (v : TeamRt) : (setTeam t v s).harrow.routes = s.harrow.routes := rfl
@[simp] theorem setTeam_harrow_teams (t : Nat) (v : TeamRt) : (setTeam t v s).harrow.teams = tset t v s.harrow.teams := rfl
@[simp] theorem setTeam_harrow_sieveFlags (t : Nat) (v : TeamRt) : (setTeam t v s).harrow.sieveFlags = s.harrow.sieveFlags := rfl
@[simp] theorem setTeam_harrow_policers (t : Nat) (v : TeamRt) : (setTeam t v s).harrow.policers = s.harrow.policers := rfl
@[simp] theorem setTeam_harrow_rules (t : Nat) (v : TeamRt) : (setTeam t v s).harrow.rules = s.harrow.rules := rfl
@[simp] theorem setTeam_harrow_tallies (t : Nat) (v : TeamRt) : (setTeam t v s).harrow.tallies = s.harrow.tallies := rfl
@[simp] theorem setTeam_harrow_rows (t : Nat) (v : TeamRt) : (setTeam t v s).harrow.rows = s.harrow.rows := rfl
@[simp] theorem setTeam_harrow_lsetSkips (t : Nat) (v : TeamRt) : (setTeam t v s).harrow.lsetSkips = s.harrow.lsetSkips := rfl
@[simp] theorem setTeam_harrow_lanes (t : Nat) (v : TeamRt) : (setTeam t v s).harrow.lanes = s.harrow.lanes := rfl
@[simp] theorem setTeam_harrow_isolated (t : Nat) (v : TeamRt) : (setTeam t v s).harrow.isolated = s.harrow.isolated := rfl
@[simp] theorem setTeam_harrow_laneWait (t : Nat) (v : TeamRt) : (setTeam t v s).harrow.laneWait = s.harrow.laneWait := rfl
@[simp] theorem setTeam_harrow_laneDiscards (t : Nat) (v : TeamRt) : (setTeam t v s).harrow.laneDiscards = s.harrow.laneDiscards := rfl
@[simp] theorem setTeam_harrow_stalled (t : Nat) (v : TeamRt) : (setTeam t v s).harrow.stalled = s.harrow.stalled := rfl
@[simp] theorem setTeam_harrow_fabricResets (t : Nat) (v : TeamRt) : (setTeam t v s).harrow.fabricResets = s.harrow.fabricResets := rfl
@[simp] theorem setTeam_harrow_stalls (t : Nat) (v : TeamRt) : (setTeam t v s).harrow.stalls = s.harrow.stalls := rfl
@[simp] theorem setTeam_harrow_codeFaults (t : Nat) (v : TeamRt) : (setTeam t v s).harrow.codeFaults = s.harrow.codeFaults := rfl
@[simp] theorem setTeam_harrow_inReset (t : Nat) (v : TeamRt) : (setTeam t v s).harrow.inReset = s.harrow.inReset := rfl
@[simp] theorem setTeam_harrow_portFifo (t : Nat) (v : TeamRt) : (setTeam t v s).harrow.portFifo = s.harrow.portFifo := rfl
@[simp] theorem setTeam_harrow_readFifo (t : Nat) (v : TeamRt) : (setTeam t v s).harrow.readFifo = s.harrow.readFifo := rfl
@[simp] theorem setTeam_harrow_stewFifo (t : Nat) (v : TeamRt) : (setTeam t v s).harrow.stewFifo = s.harrow.stewFifo := rfl
@[simp] theorem setTeam_harrow_handoff (t : Nat) (v : TeamRt) : (setTeam t v s).harrow.handoff = s.harrow.handoff := rfl
@[simp] theorem setTeam_harrow_beaconDrops (t : Nat) (v : TeamRt) : (setTeam t v s).harrow.beaconDrops = s.harrow.beaconDrops := rfl
@[simp] theorem setTeam_harrow_unknownOrigin (t : Nat) (v : TeamRt) : (setTeam t v s).harrow.unknownOrigin = s.harrow.unknownOrigin := rfl
@[simp] theorem setTeam_drill (t : Nat) (v : TeamRt) : (setTeam t v s).drill = s.drill := rfl
@[simp] theorem setTeam_gran (t : Nat) (v : TeamRt) : (setTeam t v s).gran = s.gran := rfl
@[simp] theorem setTeam_buses (t : Nat) (v : TeamRt) : (setTeam t v s).buses = s.buses := rfl
@[simp] theorem setTeam_ports (t : Nat) (v : TeamRt) : (setTeam t v s).ports = s.ports := rfl
@[simp] theorem setTeam_keys (t : Nat) (v : TeamRt) : (setTeam t v s).keys = s.keys := rfl
@[simp] theorem setTeam_fixed (t : Nat) (v : TeamRt) : (setTeam t v s).fixed = s.fixed := rfl
@[simp] theorem setTeam_fw (t : Nat) (v : TeamRt) : (setTeam t v s).fw = s.fw := rfl
@[simp] theorem setTeam_power (t : Nat) (v : TeamRt) : (setTeam t v s).power = s.power := rfl
@[simp] theorem setTeam_timeCfg (t : Nat) (v : TeamRt) : (setTeam t v s).timeCfg = s.timeCfg := rfl
@[simp] theorem setTeam_timePorts (t : Nat) (v : TeamRt) : (setTeam t v s).timePorts = s.timePorts := rfl
@[simp] theorem setTeam_servo (t : Nat) (v : TeamRt) : (setTeam t v s).servo = s.servo := rfl
@[simp] theorem setTeam_asym (t : Nat) (v : TeamRt) : (setTeam t v s).asym = s.asym := rfl

/-! ### setTally -/

@[simp] theorem setTally_pending (u : Nat) (v : TallyRt) : (setTally u v s).pending = s.pending := rfl
@[simp] theorem setTally_free (u : Nat) (v : TallyRt) : (setTally u v s).free = s.free := rfl
@[simp] theorem setTally_wire (u : Nat) (v : TallyRt) : (setTally u v s).wire = s.wire := rfl
@[simp] theorem setTally_hostRead (u : Nat) (v : TallyRt) : (setTally u v s).hostRead = s.hostRead := rfl
@[simp] theorem setTally_alm (u : Nat) (v : TallyRt) : (setTally u v s).alm = s.alm := rfl
@[simp] theorem setTally_ev (u : Nat) (v : TallyRt) : (setTally u v s).ev = s.ev := rfl
@[simp] theorem setTally_hold (u : Nat) (v : TallyRt) : (setTally u v s).hold = s.hold := rfl
@[simp] theorem setTally_staging (u : Nat) (v : TallyRt) : (setTally u v s).staging = s.staging := rfl
@[simp] theorem setTally_stile (u : Nat) (v : TallyRt) : (setTally u v s).stile = s.stile := rfl
@[simp] theorem setTally_rings (u : Nat) (v : TallyRt) : (setTally u v s).rings = s.rings := rfl
@[simp] theorem setTally_stw (u : Nat) (v : TallyRt) : (setTally u v s).stw = s.stw := rfl
@[simp] theorem setTally_bank (u : Nat) (v : TallyRt) : (setTally u v s).bank = s.bank := rfl
@[simp] theorem setTally_sown (u : Nat) (v : TallyRt) : (setTally u v s).sown = s.sown := rfl
@[simp] theorem setTally_plots (u : Nat) (v : TallyRt) : (setTally u v s).plots = s.plots := rfl
@[simp] theorem setTally_field (u : Nat) (v : TallyRt) : (setTally u v s).field = s.field := rfl
@[simp] theorem setTally_ploughs (u : Nat) (v : TallyRt) : (setTally u v s).ploughs = s.ploughs := rfl
@[simp] theorem setTally_harrow_routes (u : Nat) (v : TallyRt) : (setTally u v s).harrow.routes = s.harrow.routes := rfl
@[simp] theorem setTally_harrow_teams (u : Nat) (v : TallyRt) : (setTally u v s).harrow.teams = s.harrow.teams := rfl
@[simp] theorem setTally_harrow_sieveFlags (u : Nat) (v : TallyRt) : (setTally u v s).harrow.sieveFlags = s.harrow.sieveFlags := rfl
@[simp] theorem setTally_harrow_policers (u : Nat) (v : TallyRt) : (setTally u v s).harrow.policers = s.harrow.policers := rfl
@[simp] theorem setTally_harrow_rules (u : Nat) (v : TallyRt) : (setTally u v s).harrow.rules = s.harrow.rules := rfl
@[simp] theorem setTally_harrow_tallies (u : Nat) (v : TallyRt) : (setTally u v s).harrow.tallies = tset u v s.harrow.tallies := rfl
@[simp] theorem setTally_harrow_rows (u : Nat) (v : TallyRt) : (setTally u v s).harrow.rows = s.harrow.rows := rfl
@[simp] theorem setTally_harrow_lsetSkips (u : Nat) (v : TallyRt) : (setTally u v s).harrow.lsetSkips = s.harrow.lsetSkips := rfl
@[simp] theorem setTally_harrow_lanes (u : Nat) (v : TallyRt) : (setTally u v s).harrow.lanes = s.harrow.lanes := rfl
@[simp] theorem setTally_harrow_isolated (u : Nat) (v : TallyRt) : (setTally u v s).harrow.isolated = s.harrow.isolated := rfl
@[simp] theorem setTally_harrow_laneWait (u : Nat) (v : TallyRt) : (setTally u v s).harrow.laneWait = s.harrow.laneWait := rfl
@[simp] theorem setTally_harrow_laneDiscards (u : Nat) (v : TallyRt) : (setTally u v s).harrow.laneDiscards = s.harrow.laneDiscards := rfl
@[simp] theorem setTally_harrow_stalled (u : Nat) (v : TallyRt) : (setTally u v s).harrow.stalled = s.harrow.stalled := rfl
@[simp] theorem setTally_harrow_fabricResets (u : Nat) (v : TallyRt) : (setTally u v s).harrow.fabricResets = s.harrow.fabricResets := rfl
@[simp] theorem setTally_harrow_stalls (u : Nat) (v : TallyRt) : (setTally u v s).harrow.stalls = s.harrow.stalls := rfl
@[simp] theorem setTally_harrow_codeFaults (u : Nat) (v : TallyRt) : (setTally u v s).harrow.codeFaults = s.harrow.codeFaults := rfl
@[simp] theorem setTally_harrow_inReset (u : Nat) (v : TallyRt) : (setTally u v s).harrow.inReset = s.harrow.inReset := rfl
@[simp] theorem setTally_harrow_portFifo (u : Nat) (v : TallyRt) : (setTally u v s).harrow.portFifo = s.harrow.portFifo := rfl
@[simp] theorem setTally_harrow_readFifo (u : Nat) (v : TallyRt) : (setTally u v s).harrow.readFifo = s.harrow.readFifo := rfl
@[simp] theorem setTally_harrow_stewFifo (u : Nat) (v : TallyRt) : (setTally u v s).harrow.stewFifo = s.harrow.stewFifo := rfl
@[simp] theorem setTally_harrow_handoff (u : Nat) (v : TallyRt) : (setTally u v s).harrow.handoff = s.harrow.handoff := rfl
@[simp] theorem setTally_harrow_beaconDrops (u : Nat) (v : TallyRt) : (setTally u v s).harrow.beaconDrops = s.harrow.beaconDrops := rfl
@[simp] theorem setTally_harrow_unknownOrigin (u : Nat) (v : TallyRt) : (setTally u v s).harrow.unknownOrigin = s.harrow.unknownOrigin := rfl
@[simp] theorem setTally_drill (u : Nat) (v : TallyRt) : (setTally u v s).drill = s.drill := rfl
@[simp] theorem setTally_gran (u : Nat) (v : TallyRt) : (setTally u v s).gran = s.gran := rfl
@[simp] theorem setTally_buses (u : Nat) (v : TallyRt) : (setTally u v s).buses = s.buses := rfl
@[simp] theorem setTally_ports (u : Nat) (v : TallyRt) : (setTally u v s).ports = s.ports := rfl
@[simp] theorem setTally_keys (u : Nat) (v : TallyRt) : (setTally u v s).keys = s.keys := rfl
@[simp] theorem setTally_fixed (u : Nat) (v : TallyRt) : (setTally u v s).fixed = s.fixed := rfl
@[simp] theorem setTally_fw (u : Nat) (v : TallyRt) : (setTally u v s).fw = s.fw := rfl
@[simp] theorem setTally_power (u : Nat) (v : TallyRt) : (setTally u v s).power = s.power := rfl
@[simp] theorem setTally_timeCfg (u : Nat) (v : TallyRt) : (setTally u v s).timeCfg = s.timeCfg := rfl
@[simp] theorem setTally_timePorts (u : Nat) (v : TallyRt) : (setTally u v s).timePorts = s.timePorts := rfl
@[simp] theorem setTally_servo (u : Nat) (v : TallyRt) : (setTally u v s).servo = s.servo := rfl
@[simp] theorem setTally_asym (u : Nat) (v : TallyRt) : (setTally u v s).asym = s.asym := rfl

/-! ### putWire -/

@[simp] theorem putWire_pending (r : Nat) (c : Copy) : (putWire r c s).pending = s.pending := rfl
@[simp] theorem putWire_free (r : Nat) (c : Copy) : (putWire r c s).free = s.free := rfl
@[simp] theorem putWire_wire (r : Nat) (c : Copy) : (putWire r c s).wire = s.wire := rfl
@[simp] theorem putWire_hostRead (r : Nat) (c : Copy) : (putWire r c s).hostRead = s.hostRead := rfl
@[simp] theorem putWire_alm (r : Nat) (c : Copy) : (putWire r c s).alm = s.alm := rfl
@[simp] theorem putWire_ev (r : Nat) (c : Copy) : (putWire r c s).ev = s.ev := rfl
@[simp] theorem putWire_hold (r : Nat) (c : Copy) : (putWire r c s).hold = s.hold := rfl
@[simp] theorem putWire_staging (r : Nat) (c : Copy) : (putWire r c s).staging = s.staging := rfl
@[simp] theorem putWire_stile (r : Nat) (c : Copy) : (putWire r c s).stile = s.stile := rfl
@[simp] theorem putWire_rings (r : Nat) (c : Copy) : (putWire r c s).rings = s.rings := rfl
@[simp] theorem putWire_stw (r : Nat) (c : Copy) : (putWire r c s).stw = s.stw := rfl
@[simp] theorem putWire_bank (r : Nat) (c : Copy) : (putWire r c s).bank = s.bank := rfl
@[simp] theorem putWire_sown (r : Nat) (c : Copy) : (putWire r c s).sown = s.sown := rfl
@[simp] theorem putWire_plots (r : Nat) (c : Copy) : (putWire r c s).plots = s.plots := rfl
@[simp] theorem putWire_field (r : Nat) (c : Copy) : (putWire r c s).field = s.field := rfl
@[simp] theorem putWire_ploughs (r : Nat) (c : Copy) : (putWire r c s).ploughs = s.ploughs := rfl
@[simp] theorem putWire_harrow (r : Nat) (c : Copy) : (putWire r c s).harrow = s.harrow := rfl
@[simp] theorem putWire_drill_rows (r : Nat) (c : Copy) : (putWire r c s).drill.rows = s.drill.rows := rfl
@[simp] theorem putWire_drill_rowWire (r : Nat) (c : Copy) : (putWire r c s).drill.rowWire = tset r { c with ctl := c.ctl.or (rowCtl (bindOf r s)) } s.drill.rowWire := rfl
@[simp] theorem putWire_drill_ports (r : Nat) (c : Copy) : (putWire r c s).drill.ports = s.drill.ports := rfl
@[simp] theorem putWire_drill_portWire (r : Nat) (c : Copy) : (putWire r c s).drill.portWire = s.drill.portWire := rfl
@[simp] theorem putWire_drill_portHeld (r : Nat) (c : Copy) : (putWire r c s).drill.portHeld = s.drill.portHeld := rfl
@[simp] theorem putWire_drill_sheafs (r : Nat) (c : Copy) : (putWire r c s).drill.sheafs = s.drill.sheafs := rfl
@[simp] theorem putWire_drill_furrows (r : Nat) (c : Copy) : (putWire r c s).drill.furrows = s.drill.furrows := rfl
@[simp] theorem putWire_drill_poolRes (r : Nat) (c : Copy) : (putWire r c s).drill.poolRes = s.drill.poolRes := rfl
@[simp] theorem putWire_drill_poolShared (r : Nat) (c : Copy) : (putWire r c s).drill.poolShared = s.drill.poolShared := rfl
@[simp] theorem putWire_drill_credit (r : Nat) (c : Copy) : (putWire r c s).drill.credit = s.drill.credit := rfl
@[simp] theorem putWire_drill_creditAt (r : Nat) (c : Copy) : (putWire r c s).drill.creditAt = s.drill.creditAt := rfl
@[simp] theorem putWire_gran (r : Nat) (c : Copy) : (putWire r c s).gran = s.gran := rfl
@[simp] theorem putWire_buses (r : Nat) (c : Copy) : (putWire r c s).buses = s.buses := rfl
@[simp] theorem putWire_ports (r : Nat) (c : Copy) : (putWire r c s).ports = s.ports := rfl
@[simp] theorem putWire_keys (r : Nat) (c : Copy) : (putWire r c s).keys = s.keys := rfl
@[simp] theorem putWire_fixed (r : Nat) (c : Copy) : (putWire r c s).fixed = s.fixed := rfl
@[simp] theorem putWire_fw (r : Nat) (c : Copy) : (putWire r c s).fw = s.fw := rfl
@[simp] theorem putWire_power (r : Nat) (c : Copy) : (putWire r c s).power = s.power := rfl
@[simp] theorem putWire_timeCfg (r : Nat) (c : Copy) : (putWire r c s).timeCfg = s.timeCfg := rfl
@[simp] theorem putWire_timePorts (r : Nat) (c : Copy) : (putWire r c s).timePorts = s.timePorts := rfl
@[simp] theorem putWire_servo (r : Nat) (c : Copy) : (putWire r c s).servo = s.servo := rfl
@[simp] theorem putWire_asym (r : Nat) (c : Copy) : (putWire r c s).asym = s.asym := rfl

/-! ### unwire -/

@[simp] theorem unwire_pending (r : Nat) : (unwire r s).pending = s.pending := rfl
@[simp] theorem unwire_free (r : Nat) : (unwire r s).free = s.free := rfl
@[simp] theorem unwire_wire (r : Nat) : (unwire r s).wire = s.wire := rfl
@[simp] theorem unwire_hostRead (r : Nat) : (unwire r s).hostRead = s.hostRead := rfl
@[simp] theorem unwire_alm (r : Nat) : (unwire r s).alm = s.alm := rfl
@[simp] theorem unwire_ev (r : Nat) : (unwire r s).ev = s.ev := rfl
@[simp] theorem unwire_hold (r : Nat) : (unwire r s).hold = s.hold := rfl
@[simp] theorem unwire_staging (r : Nat) : (unwire r s).staging = s.staging := rfl
@[simp] theorem unwire_stile (r : Nat) : (unwire r s).stile = s.stile := rfl
@[simp] theorem unwire_rings (r : Nat) : (unwire r s).rings = s.rings := rfl
@[simp] theorem unwire_stw (r : Nat) : (unwire r s).stw = s.stw := rfl
@[simp] theorem unwire_bank (r : Nat) : (unwire r s).bank = s.bank := rfl
@[simp] theorem unwire_sown (r : Nat) : (unwire r s).sown = s.sown := rfl
@[simp] theorem unwire_plots (r : Nat) : (unwire r s).plots = s.plots := rfl
@[simp] theorem unwire_field (r : Nat) : (unwire r s).field = s.field := rfl
@[simp] theorem unwire_ploughs (r : Nat) : (unwire r s).ploughs = s.ploughs := rfl
@[simp] theorem unwire_harrow (r : Nat) : (unwire r s).harrow = s.harrow := rfl
@[simp] theorem unwire_drill_rows (r : Nat) : (unwire r s).drill.rows = s.drill.rows := rfl
@[simp] theorem unwire_drill_rowWire (r : Nat) : (unwire r s).drill.rowWire = tdel r s.drill.rowWire := rfl
@[simp] theorem unwire_drill_ports (r : Nat) : (unwire r s).drill.ports = s.drill.ports := rfl
@[simp] theorem unwire_drill_portWire (r : Nat) : (unwire r s).drill.portWire = s.drill.portWire := rfl
@[simp] theorem unwire_drill_portHeld (r : Nat) : (unwire r s).drill.portHeld = s.drill.portHeld := rfl
@[simp] theorem unwire_drill_sheafs (r : Nat) : (unwire r s).drill.sheafs = s.drill.sheafs := rfl
@[simp] theorem unwire_drill_furrows (r : Nat) : (unwire r s).drill.furrows = s.drill.furrows := rfl
@[simp] theorem unwire_drill_poolRes (r : Nat) : (unwire r s).drill.poolRes = s.drill.poolRes := rfl
@[simp] theorem unwire_drill_poolShared (r : Nat) : (unwire r s).drill.poolShared = s.drill.poolShared := rfl
@[simp] theorem unwire_drill_credit (r : Nat) : (unwire r s).drill.credit = s.drill.credit := rfl
@[simp] theorem unwire_drill_creditAt (r : Nat) : (unwire r s).drill.creditAt = s.drill.creditAt := rfl
@[simp] theorem unwire_gran (r : Nat) : (unwire r s).gran = s.gran := rfl
@[simp] theorem unwire_buses (r : Nat) : (unwire r s).buses = s.buses := rfl
@[simp] theorem unwire_ports (r : Nat) : (unwire r s).ports = s.ports := rfl
@[simp] theorem unwire_keys (r : Nat) : (unwire r s).keys = s.keys := rfl
@[simp] theorem unwire_fixed (r : Nat) : (unwire r s).fixed = s.fixed := rfl
@[simp] theorem unwire_fw (r : Nat) : (unwire r s).fw = s.fw := rfl
@[simp] theorem unwire_power (r : Nat) : (unwire r s).power = s.power := rfl
@[simp] theorem unwire_timeCfg (r : Nat) : (unwire r s).timeCfg = s.timeCfg := rfl
@[simp] theorem unwire_timePorts (r : Nat) : (unwire r s).timePorts = s.timePorts := rfl
@[simp] theorem unwire_servo (r : Nat) : (unwire r s).servo = s.servo := rfl
@[simp] theorem unwire_asym (r : Nat) : (unwire r s).asym = s.asym := rfl

/-! ### putFrame -/

@[simp] theorem putFrame_pending (p : Nat) (c : Copy) : (putFrame p c s).pending = s.pending := rfl
@[simp] theorem putFrame_free (p : Nat) (c : Copy) : (putFrame p c s).free = s.free := rfl
@[simp] theorem putFrame_wire (p : Nat) (c : Copy) : (putFrame p c s).wire = s.wire := rfl
@[simp] theorem putFrame_hostRead (p : Nat) (c : Copy) : (putFrame p c s).hostRead = s.hostRead := rfl
@[simp] theorem putFrame_alm (p : Nat) (c : Copy) : (putFrame p c s).alm = s.alm := rfl
@[simp] theorem putFrame_ev (p : Nat) (c : Copy) : (putFrame p c s).ev = s.ev := rfl
@[simp] theorem putFrame_hold (p : Nat) (c : Copy) : (putFrame p c s).hold = s.hold := rfl
@[simp] theorem putFrame_staging (p : Nat) (c : Copy) : (putFrame p c s).staging = s.staging := rfl
@[simp] theorem putFrame_stile (p : Nat) (c : Copy) : (putFrame p c s).stile = s.stile := rfl
@[simp] theorem putFrame_rings (p : Nat) (c : Copy) : (putFrame p c s).rings = s.rings := rfl
@[simp] theorem putFrame_stw (p : Nat) (c : Copy) : (putFrame p c s).stw = s.stw := rfl
@[simp] theorem putFrame_bank (p : Nat) (c : Copy) : (putFrame p c s).bank = s.bank := rfl
@[simp] theorem putFrame_sown (p : Nat) (c : Copy) : (putFrame p c s).sown = s.sown := rfl
@[simp] theorem putFrame_plots (p : Nat) (c : Copy) : (putFrame p c s).plots = s.plots := rfl
@[simp] theorem putFrame_field (p : Nat) (c : Copy) : (putFrame p c s).field = s.field := rfl
@[simp] theorem putFrame_ploughs (p : Nat) (c : Copy) : (putFrame p c s).ploughs = s.ploughs := rfl
@[simp] theorem putFrame_harrow (p : Nat) (c : Copy) : (putFrame p c s).harrow = s.harrow := rfl
@[simp] theorem putFrame_drill_rows (p : Nat) (c : Copy) : (putFrame p c s).drill.rows = s.drill.rows := rfl
@[simp] theorem putFrame_drill_rowWire (p : Nat) (c : Copy) : (putFrame p c s).drill.rowWire = s.drill.rowWire := rfl
@[simp] theorem putFrame_drill_ports (p : Nat) (c : Copy) : (putFrame p c s).drill.ports = s.drill.ports := rfl
@[simp] theorem putFrame_drill_portWire (p : Nat) (c : Copy) : (putFrame p c s).drill.portWire = tset p c s.drill.portWire := rfl
@[simp] theorem putFrame_drill_portHeld (p : Nat) (c : Copy) : (putFrame p c s).drill.portHeld = s.drill.portHeld := rfl
@[simp] theorem putFrame_drill_sheafs (p : Nat) (c : Copy) : (putFrame p c s).drill.sheafs = s.drill.sheafs := rfl
@[simp] theorem putFrame_drill_furrows (p : Nat) (c : Copy) : (putFrame p c s).drill.furrows = s.drill.furrows := rfl
@[simp] theorem putFrame_drill_poolRes (p : Nat) (c : Copy) : (putFrame p c s).drill.poolRes = s.drill.poolRes := rfl
@[simp] theorem putFrame_drill_poolShared (p : Nat) (c : Copy) : (putFrame p c s).drill.poolShared = s.drill.poolShared := rfl
@[simp] theorem putFrame_drill_credit (p : Nat) (c : Copy) : (putFrame p c s).drill.credit = s.drill.credit := rfl
@[simp] theorem putFrame_drill_creditAt (p : Nat) (c : Copy) : (putFrame p c s).drill.creditAt = s.drill.creditAt := rfl
@[simp] theorem putFrame_gran (p : Nat) (c : Copy) : (putFrame p c s).gran = s.gran := rfl
@[simp] theorem putFrame_buses (p : Nat) (c : Copy) : (putFrame p c s).buses = s.buses := rfl
@[simp] theorem putFrame_ports (p : Nat) (c : Copy) : (putFrame p c s).ports = s.ports := rfl
@[simp] theorem putFrame_keys (p : Nat) (c : Copy) : (putFrame p c s).keys = s.keys := rfl
@[simp] theorem putFrame_fixed (p : Nat) (c : Copy) : (putFrame p c s).fixed = s.fixed := rfl
@[simp] theorem putFrame_fw (p : Nat) (c : Copy) : (putFrame p c s).fw = s.fw := rfl
@[simp] theorem putFrame_power (p : Nat) (c : Copy) : (putFrame p c s).power = s.power := rfl
@[simp] theorem putFrame_timeCfg (p : Nat) (c : Copy) : (putFrame p c s).timeCfg = s.timeCfg := rfl
@[simp] theorem putFrame_timePorts (p : Nat) (c : Copy) : (putFrame p c s).timePorts = s.timePorts := rfl
@[simp] theorem putFrame_servo (p : Nat) (c : Copy) : (putFrame p c s).servo = s.servo := rfl
@[simp] theorem putFrame_asym (p : Nat) (c : Copy) : (putFrame p c s).asym = s.asym := rfl

/-! ### setFurrow -/

@[simp] theorem setFurrow_pending (p : Nat) (v : FurrowRt) : (setFurrow p v s).pending = s.pending := rfl
@[simp] theorem setFurrow_free (p : Nat) (v : FurrowRt) : (setFurrow p v s).free = s.free := rfl
@[simp] theorem setFurrow_wire (p : Nat) (v : FurrowRt) : (setFurrow p v s).wire = s.wire := rfl
@[simp] theorem setFurrow_hostRead (p : Nat) (v : FurrowRt) : (setFurrow p v s).hostRead = s.hostRead := rfl
@[simp] theorem setFurrow_alm (p : Nat) (v : FurrowRt) : (setFurrow p v s).alm = s.alm := rfl
@[simp] theorem setFurrow_ev (p : Nat) (v : FurrowRt) : (setFurrow p v s).ev = s.ev := rfl
@[simp] theorem setFurrow_hold (p : Nat) (v : FurrowRt) : (setFurrow p v s).hold = s.hold := rfl
@[simp] theorem setFurrow_staging (p : Nat) (v : FurrowRt) : (setFurrow p v s).staging = s.staging := rfl
@[simp] theorem setFurrow_stile (p : Nat) (v : FurrowRt) : (setFurrow p v s).stile = s.stile := rfl
@[simp] theorem setFurrow_rings (p : Nat) (v : FurrowRt) : (setFurrow p v s).rings = s.rings := rfl
@[simp] theorem setFurrow_stw (p : Nat) (v : FurrowRt) : (setFurrow p v s).stw = s.stw := rfl
@[simp] theorem setFurrow_bank (p : Nat) (v : FurrowRt) : (setFurrow p v s).bank = s.bank := rfl
@[simp] theorem setFurrow_sown (p : Nat) (v : FurrowRt) : (setFurrow p v s).sown = s.sown := rfl
@[simp] theorem setFurrow_plots (p : Nat) (v : FurrowRt) : (setFurrow p v s).plots = s.plots := rfl
@[simp] theorem setFurrow_field (p : Nat) (v : FurrowRt) : (setFurrow p v s).field = s.field := rfl
@[simp] theorem setFurrow_ploughs (p : Nat) (v : FurrowRt) : (setFurrow p v s).ploughs = s.ploughs := rfl
@[simp] theorem setFurrow_harrow (p : Nat) (v : FurrowRt) : (setFurrow p v s).harrow = s.harrow := rfl
@[simp] theorem setFurrow_drill_rows (p : Nat) (v : FurrowRt) : (setFurrow p v s).drill.rows = s.drill.rows := rfl
@[simp] theorem setFurrow_drill_rowWire (p : Nat) (v : FurrowRt) : (setFurrow p v s).drill.rowWire = s.drill.rowWire := rfl
@[simp] theorem setFurrow_drill_ports (p : Nat) (v : FurrowRt) : (setFurrow p v s).drill.ports = s.drill.ports := rfl
@[simp] theorem setFurrow_drill_portWire (p : Nat) (v : FurrowRt) : (setFurrow p v s).drill.portWire = s.drill.portWire := rfl
@[simp] theorem setFurrow_drill_portHeld (p : Nat) (v : FurrowRt) : (setFurrow p v s).drill.portHeld = s.drill.portHeld := rfl
@[simp] theorem setFurrow_drill_sheafs (p : Nat) (v : FurrowRt) : (setFurrow p v s).drill.sheafs = s.drill.sheafs := rfl
@[simp] theorem setFurrow_drill_furrows (p : Nat) (v : FurrowRt) : (setFurrow p v s).drill.furrows = tset p v s.drill.furrows := rfl
@[simp] theorem setFurrow_drill_poolRes (p : Nat) (v : FurrowRt) : (setFurrow p v s).drill.poolRes = s.drill.poolRes := rfl
@[simp] theorem setFurrow_drill_poolShared (p : Nat) (v : FurrowRt) : (setFurrow p v s).drill.poolShared = s.drill.poolShared := rfl
@[simp] theorem setFurrow_drill_credit (p : Nat) (v : FurrowRt) : (setFurrow p v s).drill.credit = s.drill.credit := rfl
@[simp] theorem setFurrow_drill_creditAt (p : Nat) (v : FurrowRt) : (setFurrow p v s).drill.creditAt = s.drill.creditAt := rfl
@[simp] theorem setFurrow_gran (p : Nat) (v : FurrowRt) : (setFurrow p v s).gran = s.gran := rfl
@[simp] theorem setFurrow_buses (p : Nat) (v : FurrowRt) : (setFurrow p v s).buses = s.buses := rfl
@[simp] theorem setFurrow_ports (p : Nat) (v : FurrowRt) : (setFurrow p v s).ports = s.ports := rfl
@[simp] theorem setFurrow_keys (p : Nat) (v : FurrowRt) : (setFurrow p v s).keys = s.keys := rfl
@[simp] theorem setFurrow_fixed (p : Nat) (v : FurrowRt) : (setFurrow p v s).fixed = s.fixed := rfl
@[simp] theorem setFurrow_fw (p : Nat) (v : FurrowRt) : (setFurrow p v s).fw = s.fw := rfl
@[simp] theorem setFurrow_power (p : Nat) (v : FurrowRt) : (setFurrow p v s).power = s.power := rfl
@[simp] theorem setFurrow_timeCfg (p : Nat) (v : FurrowRt) : (setFurrow p v s).timeCfg = s.timeCfg := rfl
@[simp] theorem setFurrow_timePorts (p : Nat) (v : FurrowRt) : (setFurrow p v s).timePorts = s.timePorts := rfl
@[simp] theorem setFurrow_servo (p : Nat) (v : FurrowRt) : (setFurrow p v s).servo = s.servo := rfl
@[simp] theorem setFurrow_asym (p : Nat) (v : FurrowRt) : (setFurrow p v s).asym = s.asym := rfl

/-! ### setBank -/

@[simp] theorem setBank_pending (p code : Nat) : (setBank p code s).pending = s.pending := rfl
@[simp] theorem setBank_free (p code : Nat) : (setBank p code s).free = s.free := rfl
@[simp] theorem setBank_wire (p code : Nat) : (setBank p code s).wire = s.wire := rfl
@[simp] theorem setBank_hostRead (p code : Nat) : (setBank p code s).hostRead = s.hostRead := rfl
@[simp] theorem setBank_alm (p code : Nat) : (setBank p code s).alm = s.alm := rfl
@[simp] theorem setBank_ev (p code : Nat) : (setBank p code s).ev = s.ev := rfl
@[simp] theorem setBank_hold (p code : Nat) : (setBank p code s).hold = s.hold := rfl
@[simp] theorem setBank_staging (p code : Nat) : (setBank p code s).staging = s.staging := rfl
@[simp] theorem setBank_stile (p code : Nat) : (setBank p code s).stile = s.stile := rfl
@[simp] theorem setBank_rings (p code : Nat) : (setBank p code s).rings = s.rings := rfl
@[simp] theorem setBank_stw (p code : Nat) : (setBank p code s).stw = s.stw := rfl
@[simp] theorem setBank_bank (p code : Nat) : (setBank p code s).bank = s.bank := rfl
@[simp] theorem setBank_sown (p code : Nat) : (setBank p code s).sown = s.sown := rfl
@[simp] theorem setBank_plots (p code : Nat) : (setBank p code s).plots = s.plots := rfl
@[simp] theorem setBank_field (p code : Nat) : (setBank p code s).field = s.field := rfl
@[simp] theorem setBank_ploughs (p code : Nat) : (setBank p code s).ploughs = s.ploughs := rfl
@[simp] theorem setBank_harrow (p code : Nat) : (setBank p code s).harrow = s.harrow := rfl
@[simp] theorem setBank_drill (p code : Nat) : (setBank p code s).drill = s.drill := rfl
@[simp] theorem setBank_gran_cells (p code : Nat) : (setBank p code s).gran.cells = s.gran.cells := rfl
@[simp] theorem setBank_gran_freePoison (p code : Nat) : (setBank p code s).gran.freePoison = s.gran.freePoison := rfl
@[simp] theorem setBank_gran_quota (p code : Nat) : (setBank p code s).gran.quota = s.gran.quota := rfl
@[simp] theorem setBank_gran_map (p code : Nat) : (setBank p code s).gran.map = s.gran.map := rfl
@[simp] theorem setBank_gran_state (p code : Nat) : (setBank p code s).gran.state = tset p code s.gran.state := rfl
@[simp] theorem setBank_gran_rotation (p code : Nat) : (setBank p code s).gran.rotation = s.gran.rotation := rfl
@[simp] theorem setBank_gran_corrected (p code : Nat) : (setBank p code s).gran.corrected = s.gran.corrected := rfl
@[simp] theorem setBank_gran_counted (p code : Nat) : (setBank p code s).gran.counted = s.gran.counted := rfl
@[simp] theorem setBank_gran_nCorrected (p code : Nat) : (setBank p code s).gran.nCorrected = s.gran.nCorrected := rfl
@[simp] theorem setBank_gran_nUncorrectable (p code : Nat) : (setBank p code s).gran.nUncorrectable = s.gran.nUncorrectable := rfl
@[simp] theorem setBank_gran_leaked (p code : Nat) : (setBank p code s).gran.leaked = s.gran.leaked := rfl
@[simp] theorem setBank_gran_queue (p code : Nat) : (setBank p code s).gran.queue = s.gran.queue := rfl
@[simp] theorem setBank_gran_migration (p code : Nat) : (setBank p code s).gran.migration = s.gran.migration := rfl
@[simp] theorem setBank_gran_draining (p code : Nat) : (setBank p code s).gran.draining = s.gran.draining := rfl
@[simp] theorem setBank_gran_selfDecided (p code : Nat) : (setBank p code s).gran.selfDecided = s.gran.selfDecided := rfl
@[simp] theorem setBank_gran_hardRetired (p code : Nat) : (setBank p code s).gran.hardRetired = s.gran.hardRetired := rfl
@[simp] theorem setBank_gran_reinstated (p code : Nat) : (setBank p code s).gran.reinstated = s.gran.reinstated := rfl
@[simp] theorem setBank_gran_degraded (p code : Nat) : (setBank p code s).gran.degraded = s.gran.degraded := rfl
@[simp] theorem setBank_gran_pattern (p code : Nat) : (setBank p code s).gran.pattern = s.gran.pattern := rfl
@[simp] theorem setBank_gran_spareTest (p code : Nat) : (setBank p code s).gran.spareTest = s.gran.spareTest := rfl
@[simp] theorem setBank_buses (p code : Nat) : (setBank p code s).buses = s.buses := rfl
@[simp] theorem setBank_ports (p code : Nat) : (setBank p code s).ports = s.ports := rfl
@[simp] theorem setBank_keys (p code : Nat) : (setBank p code s).keys = s.keys := rfl
@[simp] theorem setBank_fixed (p code : Nat) : (setBank p code s).fixed = s.fixed := rfl
@[simp] theorem setBank_fw (p code : Nat) : (setBank p code s).fw = s.fw := rfl
@[simp] theorem setBank_power (p code : Nat) : (setBank p code s).power = s.power := rfl
@[simp] theorem setBank_timeCfg (p code : Nat) : (setBank p code s).timeCfg = s.timeCfg := rfl
@[simp] theorem setBank_timePorts (p code : Nat) : (setBank p code s).timePorts = s.timePorts := rfl
@[simp] theorem setBank_servo (p code : Nat) : (setBank p code s).servo = s.servo := rfl
@[simp] theorem setBank_asym (p code : Nat) : (setBank p code s).asym = s.asym := rfl

/-! ### putSlot -/

@[simp] theorem putSlot_pending (n : Nat) (v : KeySlot) : (putSlot n v s).pending = s.pending := rfl
@[simp] theorem putSlot_free (n : Nat) (v : KeySlot) : (putSlot n v s).free = s.free := rfl
@[simp] theorem putSlot_wire (n : Nat) (v : KeySlot) : (putSlot n v s).wire = s.wire := rfl
@[simp] theorem putSlot_hostRead (n : Nat) (v : KeySlot) : (putSlot n v s).hostRead = s.hostRead := rfl
@[simp] theorem putSlot_alm (n : Nat) (v : KeySlot) : (putSlot n v s).alm = s.alm := rfl
@[simp] theorem putSlot_ev (n : Nat) (v : KeySlot) : (putSlot n v s).ev = s.ev := rfl
@[simp] theorem putSlot_hold (n : Nat) (v : KeySlot) : (putSlot n v s).hold = s.hold := rfl
@[simp] theorem putSlot_staging (n : Nat) (v : KeySlot) : (putSlot n v s).staging = s.staging := rfl
@[simp] theorem putSlot_stile (n : Nat) (v : KeySlot) : (putSlot n v s).stile = s.stile := rfl
@[simp] theorem putSlot_rings (n : Nat) (v : KeySlot) : (putSlot n v s).rings = s.rings := rfl
@[simp] theorem putSlot_stw (n : Nat) (v : KeySlot) : (putSlot n v s).stw = s.stw := rfl
@[simp] theorem putSlot_bank (n : Nat) (v : KeySlot) : (putSlot n v s).bank = s.bank := rfl
@[simp] theorem putSlot_sown (n : Nat) (v : KeySlot) : (putSlot n v s).sown = s.sown := rfl
@[simp] theorem putSlot_plots (n : Nat) (v : KeySlot) : (putSlot n v s).plots = s.plots := rfl
@[simp] theorem putSlot_field (n : Nat) (v : KeySlot) : (putSlot n v s).field = s.field := rfl
@[simp] theorem putSlot_ploughs (n : Nat) (v : KeySlot) : (putSlot n v s).ploughs = s.ploughs := rfl
@[simp] theorem putSlot_harrow (n : Nat) (v : KeySlot) : (putSlot n v s).harrow = s.harrow := rfl
@[simp] theorem putSlot_drill (n : Nat) (v : KeySlot) : (putSlot n v s).drill = s.drill := rfl
@[simp] theorem putSlot_gran (n : Nat) (v : KeySlot) : (putSlot n v s).gran = s.gran := rfl
@[simp] theorem putSlot_buses (n : Nat) (v : KeySlot) : (putSlot n v s).buses = s.buses := rfl
@[simp] theorem putSlot_ports (n : Nat) (v : KeySlot) : (putSlot n v s).ports = s.ports := rfl
@[simp] theorem putSlot_keys_slots (n : Nat) (v : KeySlot) : (putSlot n v s).keys.slots = tset n v s.keys.slots := rfl
@[simp] theorem putSlot_keys_protTx (n : Nat) (v : KeySlot) : (putSlot n v s).keys.protTx = s.keys.protTx := rfl
@[simp] theorem putSlot_keys_protRx (n : Nat) (v : KeySlot) : (putSlot n v s).keys.protRx = s.keys.protRx := rfl
@[simp] theorem putSlot_keys_waiting (n : Nat) (v : KeySlot) : (putSlot n v s).keys.waiting = s.keys.waiting := rfl
@[simp] theorem putSlot_keys_lastActive (n : Nat) (v : KeySlot) : (putSlot n v s).keys.lastActive = s.keys.lastActive := rfl
@[simp] theorem putSlot_keys_switchTo (n : Nat) (v : KeySlot) : (putSlot n v s).keys.switchTo = s.keys.switchTo := rfl
@[simp] theorem putSlot_keys_kek (n : Nat) (v : KeySlot) : (putSlot n v s).keys.kek = s.keys.kek := rfl
@[simp] theorem putSlot_keys_wrapped (n : Nat) (v : KeySlot) : (putSlot n v s).keys.wrapped = s.keys.wrapped := rfl
@[simp] theorem putSlot_keys_nonce (n : Nat) (v : KeySlot) : (putSlot n v s).keys.nonce = s.keys.nonce := rfl
@[simp] theorem putSlot_keys_wrong (n : Nat) (v : KeySlot) : (putSlot n v s).keys.wrong = s.keys.wrong := rfl
@[simp] theorem putSlot_keys_gateDebug (n : Nat) (v : KeySlot) : (putSlot n v s).keys.gateDebug = s.keys.gateDebug := rfl
@[simp] theorem putSlot_keys_otpLocked (n : Nat) (v : KeySlot) : (putSlot n v s).keys.otpLocked = s.keys.otpLocked := rfl
@[simp] theorem putSlot_fixed (n : Nat) (v : KeySlot) : (putSlot n v s).fixed = s.fixed := rfl
@[simp] theorem putSlot_fw (n : Nat) (v : KeySlot) : (putSlot n v s).fw = s.fw := rfl
@[simp] theorem putSlot_power (n : Nat) (v : KeySlot) : (putSlot n v s).power = s.power := rfl
@[simp] theorem putSlot_timeCfg (n : Nat) (v : KeySlot) : (putSlot n v s).timeCfg = s.timeCfg := rfl
@[simp] theorem putSlot_timePorts (n : Nat) (v : KeySlot) : (putSlot n v s).timePorts = s.timePorts := rfl
@[simp] theorem putSlot_servo (n : Nat) (v : KeySlot) : (putSlot n v s).servo = s.servo := rfl
@[simp] theorem putSlot_asym (n : Nat) (v : KeySlot) : (putSlot n v s).asym = s.asym := rfl

/-! ### setQueue -/

@[simp] theorem setQueue_pending (q : Nat) (v : Queue) : (setQueue q v s).pending = s.pending := rfl
@[simp] theorem setQueue_free (q : Nat) (v : Queue) : (setQueue q v s).free = s.free := rfl
@[simp] theorem setQueue_wire (q : Nat) (v : Queue) : (setQueue q v s).wire = s.wire := rfl
@[simp] theorem setQueue_hostRead (q : Nat) (v : Queue) : (setQueue q v s).hostRead = s.hostRead := rfl
@[simp] theorem setQueue_alm (q : Nat) (v : Queue) : (setQueue q v s).alm = s.alm := rfl
@[simp] theorem setQueue_ev (q : Nat) (v : Queue) : (setQueue q v s).ev = s.ev := rfl
@[simp] theorem setQueue_hold_snap (q : Nat) (v : Queue) : (setQueue q v s).hold.snap = s.hold.snap := rfl
@[simp] theorem setQueue_hold_queues (q : Nat) (v : Queue) : (setQueue q v s).hold.queues = tset q v s.hold.queues := rfl
@[simp] theorem setQueue_hold_slots (q : Nat) (v : Queue) : (setQueue q v s).hold.slots = s.hold.slots := rfl
@[simp] theorem setQueue_hold_bootPhase (q : Nat) (v : Queue) : (setQueue q v s).hold.bootPhase = s.hold.bootPhase := rfl
@[simp] theorem setQueue_hold_image (q : Nat) (v : Queue) : (setQueue q v s).hold.image = s.hold.image := rfl
@[simp] theorem setQueue_hold_secureBootFail (q : Nat) (v : Queue) : (setQueue q v s).hold.secureBootFail = s.hold.secureBootFail := rfl
@[simp] theorem setQueue_hold_gateOpened (q : Nat) (v : Queue) : (setQueue q v s).hold.gateOpened = s.hold.gateOpened := rfl
@[simp] theorem setQueue_hold_straps (q : Nat) (v : Queue) : (setQueue q v s).hold.straps = s.hold.straps := rfl
@[simp] theorem setQueue_hold_resetKind (q : Nat) (v : Queue) : (setQueue q v s).hold.resetKind = s.hold.resetKind := rfl
@[simp] theorem setQueue_hold_fallowLeft (q : Nat) (v : Queue) : (setQueue q v s).hold.fallowLeft = s.hold.fallowLeft := rfl
@[simp] theorem setQueue_hold_firstWake (q : Nat) (v : Queue) : (setQueue q v s).hold.firstWake = s.hold.firstWake := rfl
@[simp] theorem setQueue_hold_wakeSeen (q : Nat) (v : Queue) : (setQueue q v s).hold.wakeSeen = s.hold.wakeSeen := rfl
@[simp] theorem setQueue_hold_xspi8d (q : Nat) (v : Queue) : (setQueue q v s).hold.xspi8d = s.hold.xspi8d := rfl
@[simp] theorem setQueue_hold_xspiLatency (q : Nat) (v : Queue) : (setQueue q v s).hold.xspiLatency = s.hold.xspiLatency := rfl
@[simp] theorem setQueue_hold_xspiWait (q : Nat) (v : Queue) : (setQueue q v s).hold.xspiWait = s.hold.xspiWait := rfl
@[simp] theorem setQueue_hold_pcieUp (q : Nat) (v : Queue) : (setQueue q v s).hold.pcieUp = s.hold.pcieUp := rfl
@[simp] theorem setQueue_hold_pcieRate (q : Nat) (v : Queue) : (setQueue q v s).hold.pcieRate = s.hold.pcieRate := rfl
@[simp] theorem setQueue_hold_pcieWidth (q : Nat) (v : Queue) : (setQueue q v s).hold.pcieWidth = s.hold.pcieWidth := rfl
@[simp] theorem setQueue_hold_busMaster (q : Nat) (v : Queue) : (setQueue q v s).hold.busMaster = s.hold.busMaster := rfl
@[simp] theorem setQueue_hold_deviceControl (q : Nat) (v : Queue) : (setQueue q v s).hold.deviceControl = s.hold.deviceControl := rfl
@[simp] theorem setQueue_hold_d3hot (q : Nat) (v : Queue) : (setQueue q v s).hold.d3hot = s.hold.d3hot := rfl
@[simp] theorem setQueue_hold_perst (q : Nat) (v : Queue) : (setQueue q v s).hold.perst = s.hold.perst := rfl
@[simp] theorem setQueue_hold_pme (q : Nat) (v : Queue) : (setQueue q v s).hold.pme = s.hold.pme := rfl
@[simp] theorem setQueue_hold_aerReports (q : Nat) (v : Queue) : (setQueue q v s).hold.aerReports = s.hold.aerReports := rfl
@[simp] theorem setQueue_hold_unsupported (q : Nat) (v : Queue) : (setQueue q v s).hold.unsupported = s.hold.unsupported := rfl
@[simp] theorem setQueue_hold_statShadow (q : Nat) (v : Queue) : (setQueue q v s).hold.statShadow = s.hold.statShadow := rfl
@[simp] theorem setQueue_staging (q : Nat) (v : Queue) : (setQueue q v s).staging = s.staging := rfl
@[simp] theorem setQueue_stile (q : Nat) (v : Queue) : (setQueue q v s).stile = s.stile := rfl
@[simp] theorem setQueue_rings (q : Nat) (v : Queue) : (setQueue q v s).rings = s.rings := rfl
@[simp] theorem setQueue_stw (q : Nat) (v : Queue) : (setQueue q v s).stw = s.stw := rfl
@[simp] theorem setQueue_bank (q : Nat) (v : Queue) : (setQueue q v s).bank = s.bank := rfl
@[simp] theorem setQueue_sown (q : Nat) (v : Queue) : (setQueue q v s).sown = s.sown := rfl
@[simp] theorem setQueue_plots (q : Nat) (v : Queue) : (setQueue q v s).plots = s.plots := rfl
@[simp] theorem setQueue_field (q : Nat) (v : Queue) : (setQueue q v s).field = s.field := rfl
@[simp] theorem setQueue_ploughs (q : Nat) (v : Queue) : (setQueue q v s).ploughs = s.ploughs := rfl
@[simp] theorem setQueue_harrow (q : Nat) (v : Queue) : (setQueue q v s).harrow = s.harrow := rfl
@[simp] theorem setQueue_drill (q : Nat) (v : Queue) : (setQueue q v s).drill = s.drill := rfl
@[simp] theorem setQueue_gran (q : Nat) (v : Queue) : (setQueue q v s).gran = s.gran := rfl
@[simp] theorem setQueue_buses (q : Nat) (v : Queue) : (setQueue q v s).buses = s.buses := rfl
@[simp] theorem setQueue_ports (q : Nat) (v : Queue) : (setQueue q v s).ports = s.ports := rfl
@[simp] theorem setQueue_keys (q : Nat) (v : Queue) : (setQueue q v s).keys = s.keys := rfl
@[simp] theorem setQueue_fixed (q : Nat) (v : Queue) : (setQueue q v s).fixed = s.fixed := rfl
@[simp] theorem setQueue_fw (q : Nat) (v : Queue) : (setQueue q v s).fw = s.fw := rfl
@[simp] theorem setQueue_power (q : Nat) (v : Queue) : (setQueue q v s).power = s.power := rfl
@[simp] theorem setQueue_timeCfg (q : Nat) (v : Queue) : (setQueue q v s).timeCfg = s.timeCfg := rfl
@[simp] theorem setQueue_timePorts (q : Nat) (v : Queue) : (setQueue q v s).timePorts = s.timePorts := rfl
@[simp] theorem setQueue_servo (q : Nat) (v : Queue) : (setQueue q v s).servo = s.servo := rfl
@[simp] theorem setQueue_asym (q : Nat) (v : Queue) : (setQueue q v s).asym = s.asym := rfl

/-! ### setNet -/

@[simp] theorem setNet_pending (n : Nat) (v : Nm) : (setNet n v s).pending = s.pending := rfl
@[simp] theorem setNet_free (n : Nat) (v : Nm) : (setNet n v s).free = s.free := rfl
@[simp] theorem setNet_wire (n : Nat) (v : Nm) : (setNet n v s).wire = s.wire := rfl
@[simp] theorem setNet_hostRead (n : Nat) (v : Nm) : (setNet n v s).hostRead = s.hostRead := rfl
@[simp] theorem setNet_alm (n : Nat) (v : Nm) : (setNet n v s).alm = s.alm := rfl
@[simp] theorem setNet_ev (n : Nat) (v : Nm) : (setNet n v s).ev = s.ev := rfl
@[simp] theorem setNet_hold (n : Nat) (v : Nm) : (setNet n v s).hold = s.hold := rfl
@[simp] theorem setNet_staging (n : Nat) (v : Nm) : (setNet n v s).staging = s.staging := rfl
@[simp] theorem setNet_stile (n : Nat) (v : Nm) : (setNet n v s).stile = s.stile := rfl
@[simp] theorem setNet_rings (n : Nat) (v : Nm) : (setNet n v s).rings = s.rings := rfl
@[simp] theorem setNet_stw (n : Nat) (v : Nm) : (setNet n v s).stw = s.stw := rfl
@[simp] theorem setNet_bank (n : Nat) (v : Nm) : (setNet n v s).bank = s.bank := rfl
@[simp] theorem setNet_sown (n : Nat) (v : Nm) : (setNet n v s).sown = s.sown := rfl
@[simp] theorem setNet_plots (n : Nat) (v : Nm) : (setNet n v s).plots = s.plots := rfl
@[simp] theorem setNet_field (n : Nat) (v : Nm) : (setNet n v s).field = s.field := rfl
@[simp] theorem setNet_ploughs (n : Nat) (v : Nm) : (setNet n v s).ploughs = s.ploughs := rfl
@[simp] theorem setNet_harrow (n : Nat) (v : Nm) : (setNet n v s).harrow = s.harrow := rfl
@[simp] theorem setNet_drill (n : Nat) (v : Nm) : (setNet n v s).drill = s.drill := rfl
@[simp] theorem setNet_gran (n : Nat) (v : Nm) : (setNet n v s).gran = s.gran := rfl
@[simp] theorem setNet_buses (n : Nat) (v : Nm) : (setNet n v s).buses = s.buses := rfl
@[simp] theorem setNet_ports (n : Nat) (v : Nm) : (setNet n v s).ports = s.ports := rfl
@[simp] theorem setNet_keys (n : Nat) (v : Nm) : (setNet n v s).keys = s.keys := rfl
@[simp] theorem setNet_fixed (n : Nat) (v : Nm) : (setNet n v s).fixed = s.fixed := rfl
@[simp] theorem setNet_fw (n : Nat) (v : Nm) : (setNet n v s).fw = s.fw := rfl
@[simp] theorem setNet_power_state (n : Nat) (v : Nm) : (setNet n v s).power.state = s.power.state := rfl
@[simp] theorem setNet_power_inh (n : Nat) (v : Nm) : (setNet n v s).power.inh = s.power.inh := rfl
@[simp] theorem setNet_power_vcore (n : Nat) (v : Nm) : (setNet n v s).power.vcore = s.power.vcore := rfl
@[simp] theorem setNet_power_pace (n : Nat) (v : Nm) : (setNet n v s).power.pace = s.power.pace := rfl
@[simp] theorem setNet_power_lowPace (n : Nat) (v : Nm) : (setNet n v s).power.lowPace = s.power.lowPace := rfl
@[simp] theorem setNet_power_preq (n : Nat) (v : Nm) : (setNet n v s).power.preq = s.power.preq := rfl
@[simp] theorem setNet_power_slots (n : Nat) (v : Nm) : (setNet n v s).power.slots = s.power.slots := rfl
@[simp] theorem setNet_power_bandwidth (n : Nat) (v : Nm) : (setNet n v s).power.bandwidth = s.power.bandwidth := rfl
@[simp] theorem setNet_power_tj (n : Nat) (v : Nm) : (setNet n v s).power.tj = s.power.tj := rfl
@[simp] theorem setNet_power_fill (n : Nat) (v : Nm) : (setNet n v s).power.fill = s.power.fill := rfl
@[simp] theorem setNet_power_pacePolicy (n : Nat) (v : Nm) : (setNet n v s).power.pacePolicy = s.power.pacePolicy := rfl
@[simp] theorem setNet_power_fallowPolicy (n : Nat) (v : Nm) : (setNet n v s).power.fallowPolicy = s.power.fallowPolicy := rfl
@[simp] theorem setNet_power_holdUs (n : Nat) (v : Nm) : (setNet n v s).power.holdUs = s.power.holdUs := rfl
@[simp] theorem setNet_power_ceiling (n : Nat) (v : Nm) : (setNet n v s).power.ceiling = s.power.ceiling := rfl
@[simp] theorem setNet_power_floorViolation (n : Nat) (v : Nm) : (setNet n v s).power.floorViolation = s.power.floorViolation := rfl
@[simp] theorem setNet_power_floorHold (n : Nat) (v : Nm) : (setNet n v s).power.floorHold = s.power.floorHold := rfl
@[simp] theorem setNet_power_thermalArmed (n : Nat) (v : Nm) : (setNet n v s).power.thermalArmed = s.power.thermalArmed := rfl
@[simp] theorem setNet_power_thermal (n : Nat) (v : Nm) : (setNet n v s).power.thermal = s.power.thermal := rfl
@[simp] theorem setNet_power_buckLow (n : Nat) (v : Nm) : (setNet n v s).power.buckLow = s.power.buckLow := rfl
@[simp] theorem setNet_power_buckFell (n : Nat) (v : Nm) : (setNet n v s).power.buckFell = s.power.buckFell := rfl
@[simp] theorem setNet_power_faultSeen60 (n : Nat) (v : Nm) : (setNet n v s).power.faultSeen60 = s.power.faultSeen60 := rfl
@[simp] theorem setNet_power_faultSeen61 (n : Nat) (v : Nm) : (setNet n v s).power.faultSeen61 = s.power.faultSeen61 := rfl
@[simp] theorem setNet_power_wake (n : Nat) (v : Nm) : (setNet n v s).power.wake = s.power.wake := rfl
@[simp] theorem setNet_power_falseWakes (n : Nat) (v : Nm) : (setNet n v s).power.falseWakes = s.power.falseWakes := rfl
@[simp] theorem setNet_power_falseInstants (n : Nat) (v : Nm) : (setNet n v s).power.falseInstants = s.power.falseInstants := rfl
@[simp] theorem setNet_power_suspended (n : Nat) (v : Nm) : (setNet n v s).power.suspended = s.power.suspended := rfl
@[simp] theorem setNet_power_falseSince (n : Nat) (v : Nm) : (setNet n v s).power.falseSince = s.power.falseSince := rfl
@[simp] theorem setNet_power_firstWake (n : Nat) (v : Nm) : (setNet n v s).power.firstWake = s.power.firstWake := rfl
@[simp] theorem setNet_power_seen (n : Nat) (v : Nm) : (setNet n v s).power.seen = s.power.seen := rfl
@[simp] theorem setNet_power_wakeChannel (n : Nat) (v : Nm) : (setNet n v s).power.wakeChannel = s.power.wakeChannel := rfl
@[simp] theorem setNet_power_wakeFilter (n : Nat) (v : Nm) : (setNet n v s).power.wakeFilter = s.power.wakeFilter := rfl
@[simp] theorem setNet_power_wakeInstant (n : Nat) (v : Nm) : (setNet n v s).power.wakeInstant = s.power.wakeInstant := rfl
@[simp] theorem setNet_power_resumed (n : Nat) (v : Nm) : (setNet n v s).power.resumed = s.power.resumed := rfl
@[simp] theorem setNet_power_decodeErr (n : Nat) (v : Nm) : (setNet n v s).power.decodeErr = s.power.decodeErr := rfl
@[simp] theorem setNet_power_coarse (n : Nat) (v : Nm) : (setNet n v s).power.coarse = s.power.coarse := rfl
@[simp] theorem setNet_power_watchWake (n : Nat) (v : Nm) : (setNet n v s).power.watchWake = s.power.watchWake := rfl
@[simp] theorem setNet_power_netWoken (n : Nat) (v : Nm) : (setNet n v s).power.netWoken = s.power.netWoken := rfl
@[simp] theorem setNet_power_left (n : Nat) (v : Nm) : (setNet n v s).power.left = s.power.left := rfl
@[simp] theorem setNet_power_entering (n : Nat) (v : Nm) : (setNet n v s).power.entering = s.power.entering := rfl
@[simp] theorem setNet_power_entryStep (n : Nat) (v : Nm) : (setNet n v s).power.entryStep = s.power.entryStep := rfl
@[simp] theorem setNet_power_entryUntil (n : Nat) (v : Nm) : (setNet n v s).power.entryUntil = s.power.entryUntil := rfl
@[simp] theorem setNet_power_halted (n : Nat) (v : Nm) : (setNet n v s).power.halted = s.power.halted := rfl
@[simp] theorem setNet_power_armedFor (n : Nat) (v : Nm) : (setNet n v s).power.armedFor = s.power.armedFor := rfl
@[simp] theorem setNet_power_nets (n : Nat) (v : Nm) : (setNet n v s).power.nets = tset n v s.power.nets := rfl
@[simp] theorem setNet_power_keptSec (n : Nat) (v : Nm) : (setNet n v s).power.keptSec = s.power.keptSec := rfl
@[simp] theorem setNet_power_keptNs (n : Nat) (v : Nm) : (setNet n v s).power.keptNs = s.power.keptNs := rfl
@[simp] theorem setNet_power_keptI (n : Nat) (v : Nm) : (setNet n v s).power.keptI = s.power.keptI := rfl
@[simp] theorem setNet_power_keptCoarse (n : Nat) (v : Nm) : (setNet n v s).power.keptCoarse = s.power.keptCoarse := rfl
@[simp] theorem setNet_power_resetHeld (n : Nat) (v : Nm) : (setNet n v s).power.resetHeld = s.power.resetHeld := rfl
@[simp] theorem setNet_power_wakeCoarse (n : Nat) (v : Nm) : (setNet n v s).power.wakeCoarse = s.power.wakeCoarse := rfl
@[simp] theorem setNet_power_upNs (n : Nat) (v : Nm) : (setNet n v s).power.upNs = s.power.upNs := rfl
@[simp] theorem setNet_power_startKind (n : Nat) (v : Nm) : (setNet n v s).power.startKind = s.power.startKind := rfl
@[simp] theorem setNet_timeCfg (n : Nat) (v : Nm) : (setNet n v s).timeCfg = s.timeCfg := rfl
@[simp] theorem setNet_timePorts (n : Nat) (v : Nm) : (setNet n v s).timePorts = s.timePorts := rfl
@[simp] theorem setNet_servo (n : Nat) (v : Nm) : (setNet n v s).servo = s.servo := rfl
@[simp] theorem setNet_asym (n : Nat) (v : Nm) : (setNet n v s).asym = s.asym := rfl

/-! ### setPort -/

@[simp] theorem setPort_pending (p : Nat) (v : PortRt) : (setPort p v s).pending = s.pending := rfl
@[simp] theorem setPort_free (p : Nat) (v : PortRt) : (setPort p v s).free = s.free := rfl
@[simp] theorem setPort_wire (p : Nat) (v : PortRt) : (setPort p v s).wire = s.wire := rfl
@[simp] theorem setPort_hostRead (p : Nat) (v : PortRt) : (setPort p v s).hostRead = s.hostRead := rfl
@[simp] theorem setPort_alm (p : Nat) (v : PortRt) : (setPort p v s).alm = s.alm := rfl
@[simp] theorem setPort_ev (p : Nat) (v : PortRt) : (setPort p v s).ev = s.ev := rfl
@[simp] theorem setPort_hold (p : Nat) (v : PortRt) : (setPort p v s).hold = s.hold := rfl
@[simp] theorem setPort_staging (p : Nat) (v : PortRt) : (setPort p v s).staging = s.staging := rfl
@[simp] theorem setPort_stile (p : Nat) (v : PortRt) : (setPort p v s).stile = s.stile := rfl
@[simp] theorem setPort_rings (p : Nat) (v : PortRt) : (setPort p v s).rings = s.rings := rfl
@[simp] theorem setPort_stw (p : Nat) (v : PortRt) : (setPort p v s).stw = s.stw := rfl
@[simp] theorem setPort_bank (p : Nat) (v : PortRt) : (setPort p v s).bank = s.bank := rfl
@[simp] theorem setPort_sown (p : Nat) (v : PortRt) : (setPort p v s).sown = s.sown := rfl
@[simp] theorem setPort_plots (p : Nat) (v : PortRt) : (setPort p v s).plots = s.plots := rfl
@[simp] theorem setPort_field (p : Nat) (v : PortRt) : (setPort p v s).field = s.field := rfl
@[simp] theorem setPort_ploughs (p : Nat) (v : PortRt) : (setPort p v s).ploughs = s.ploughs := rfl
@[simp] theorem setPort_harrow (p : Nat) (v : PortRt) : (setPort p v s).harrow = s.harrow := rfl
@[simp] theorem setPort_drill (p : Nat) (v : PortRt) : (setPort p v s).drill = s.drill := rfl
@[simp] theorem setPort_gran (p : Nat) (v : PortRt) : (setPort p v s).gran = s.gran := rfl
@[simp] theorem setPort_buses (p : Nat) (v : PortRt) : (setPort p v s).buses = s.buses := rfl
@[simp] theorem setPort_ports_config (p : Nat) (v : PortRt) : (setPort p v s).ports.config = s.ports.config := rfl
@[simp] theorem setPort_ports_lanes (p : Nat) (v : PortRt) : (setPort p v s).ports.lanes = s.ports.lanes := rfl
@[simp] theorem setPort_ports_pauseCfg (p : Nat) (v : PortRt) : (setPort p v s).ports.pauseCfg = s.ports.pauseCfg := rfl
@[simp] theorem setPort_ports_preempt (p : Nat) (v : PortRt) : (setPort p v s).ports.preempt = s.ports.preempt := rfl
@[simp] theorem setPort_ports_exact (p : Nat) (v : PortRt) : (setPort p v s).ports.exact = s.ports.exact := rfl
@[simp] theorem setPort_ports_patterns (p : Nat) (v : PortRt) : (setPort p v s).ports.patterns = s.ports.patterns := rfl
@[simp] theorem setPort_ports_hash (p : Nat) (v : PortRt) : (setPort p v s).ports.hash = s.ports.hash := rfl
@[simp] theorem setPort_ports_rt (p : Nat) (v : PortRt) : (setPort p v s).ports.rt = tset p v s.ports.rt := rfl
@[simp] theorem setPort_ports_counters (p : Nat) (v : PortRt) : (setPort p v s).ports.counters = s.ports.counters := rfl
@[simp] theorem setPort_keys (p : Nat) (v : PortRt) : (setPort p v s).keys = s.keys := rfl
@[simp] theorem setPort_fixed (p : Nat) (v : PortRt) : (setPort p v s).fixed = s.fixed := rfl
@[simp] theorem setPort_fw (p : Nat) (v : PortRt) : (setPort p v s).fw = s.fw := rfl
@[simp] theorem setPort_power (p : Nat) (v : PortRt) : (setPort p v s).power = s.power := rfl
@[simp] theorem setPort_timeCfg (p : Nat) (v : PortRt) : (setPort p v s).timeCfg = s.timeCfg := rfl
@[simp] theorem setPort_timePorts (p : Nat) (v : PortRt) : (setPort p v s).timePorts = s.timePorts := rfl
@[simp] theorem setPort_servo (p : Nat) (v : PortRt) : (setPort p v s).servo = s.servo := rfl
@[simp] theorem setPort_asym (p : Nat) (v : PortRt) : (setPort p v s).asym = s.asym := rfl

/-! ### setPlough -/

@[simp] theorem setPlough_pending (p : PloughId) (v : Plough) : (setPlough p v s).pending = s.pending := rfl
@[simp] theorem setPlough_free (p : PloughId) (v : Plough) : (setPlough p v s).free = s.free := rfl
@[simp] theorem setPlough_wire (p : PloughId) (v : Plough) : (setPlough p v s).wire = s.wire := rfl
@[simp] theorem setPlough_hostRead (p : PloughId) (v : Plough) : (setPlough p v s).hostRead = s.hostRead := rfl
@[simp] theorem setPlough_alm (p : PloughId) (v : Plough) : (setPlough p v s).alm = s.alm := rfl
@[simp] theorem setPlough_ev (p : PloughId) (v : Plough) : (setPlough p v s).ev = s.ev := rfl
@[simp] theorem setPlough_hold (p : PloughId) (v : Plough) : (setPlough p v s).hold = s.hold := rfl
@[simp] theorem setPlough_staging (p : PloughId) (v : Plough) : (setPlough p v s).staging = s.staging := rfl
@[simp] theorem setPlough_stile (p : PloughId) (v : Plough) : (setPlough p v s).stile = s.stile := rfl
@[simp] theorem setPlough_rings (p : PloughId) (v : Plough) : (setPlough p v s).rings = s.rings := rfl
@[simp] theorem setPlough_stw (p : PloughId) (v : Plough) : (setPlough p v s).stw = s.stw := rfl
@[simp] theorem setPlough_bank (p : PloughId) (v : Plough) : (setPlough p v s).bank = s.bank := rfl
@[simp] theorem setPlough_sown (p : PloughId) (v : Plough) : (setPlough p v s).sown = s.sown := rfl
@[simp] theorem setPlough_plots (p : PloughId) (v : Plough) : (setPlough p v s).plots = s.plots := rfl
@[simp] theorem setPlough_field (p : PloughId) (v : Plough) : (setPlough p v s).field = s.field := rfl
@[simp] theorem setPlough_ploughs (p : PloughId) (v : Plough) : (setPlough p v s).ploughs = tset (ploughKey p) v s.ploughs := rfl
@[simp] theorem setPlough_harrow (p : PloughId) (v : Plough) : (setPlough p v s).harrow = s.harrow := rfl
@[simp] theorem setPlough_drill (p : PloughId) (v : Plough) : (setPlough p v s).drill = s.drill := rfl
@[simp] theorem setPlough_gran (p : PloughId) (v : Plough) : (setPlough p v s).gran = s.gran := rfl
@[simp] theorem setPlough_buses (p : PloughId) (v : Plough) : (setPlough p v s).buses = s.buses := rfl
@[simp] theorem setPlough_ports (p : PloughId) (v : Plough) : (setPlough p v s).ports = s.ports := rfl
@[simp] theorem setPlough_keys (p : PloughId) (v : Plough) : (setPlough p v s).keys = s.keys := rfl
@[simp] theorem setPlough_fixed (p : PloughId) (v : Plough) : (setPlough p v s).fixed = s.fixed := rfl
@[simp] theorem setPlough_fw (p : PloughId) (v : Plough) : (setPlough p v s).fw = s.fw := rfl
@[simp] theorem setPlough_power (p : PloughId) (v : Plough) : (setPlough p v s).power = s.power := rfl
@[simp] theorem setPlough_timeCfg (p : PloughId) (v : Plough) : (setPlough p v s).timeCfg = s.timeCfg := rfl
@[simp] theorem setPlough_timePorts (p : PloughId) (v : Plough) : (setPlough p v s).timePorts = s.timePorts := rfl
@[simp] theorem setPlough_servo (p : PloughId) (v : Plough) : (setPlough p v s).servo = s.servo := rfl
@[simp] theorem setPlough_asym (p : PloughId) (v : Plough) : (setPlough p v s).asym = s.asym := rfl

/-! ### setRing -/

@[simp] theorem setRing_pending (n : Nat) (v : Ring) : (setRing n v s).pending = s.pending := rfl
@[simp] theorem setRing_free (n : Nat) (v : Ring) : (setRing n v s).free = s.free := rfl
@[simp] theorem setRing_wire (n : Nat) (v : Ring) : (setRing n v s).wire = s.wire := rfl
@[simp] theorem setRing_hostRead (n : Nat) (v : Ring) : (setRing n v s).hostRead = s.hostRead := rfl
@[simp] theorem setRing_alm (n : Nat) (v : Ring) : (setRing n v s).alm = s.alm := rfl
@[simp] theorem setRing_ev (n : Nat) (v : Ring) : (setRing n v s).ev = s.ev := rfl
@[simp] theorem setRing_hold (n : Nat) (v : Ring) : (setRing n v s).hold = s.hold := rfl
@[simp] theorem setRing_staging (n : Nat) (v : Ring) : (setRing n v s).staging = s.staging := rfl
@[simp] theorem setRing_stile (n : Nat) (v : Ring) : (setRing n v s).stile = s.stile := rfl
@[simp] theorem setRing_rings (n : Nat) (v : Ring) : (setRing n v s).rings = tset n v s.rings := rfl
@[simp] theorem setRing_stw (n : Nat) (v : Ring) : (setRing n v s).stw = s.stw := rfl
@[simp] theorem setRing_bank (n : Nat) (v : Ring) : (setRing n v s).bank = s.bank := rfl
@[simp] theorem setRing_sown (n : Nat) (v : Ring) : (setRing n v s).sown = s.sown := rfl
@[simp] theorem setRing_plots (n : Nat) (v : Ring) : (setRing n v s).plots = s.plots := rfl
@[simp] theorem setRing_field (n : Nat) (v : Ring) : (setRing n v s).field = s.field := rfl
@[simp] theorem setRing_ploughs (n : Nat) (v : Ring) : (setRing n v s).ploughs = s.ploughs := rfl
@[simp] theorem setRing_harrow (n : Nat) (v : Ring) : (setRing n v s).harrow = s.harrow := rfl
@[simp] theorem setRing_drill (n : Nat) (v : Ring) : (setRing n v s).drill = s.drill := rfl
@[simp] theorem setRing_gran (n : Nat) (v : Ring) : (setRing n v s).gran = s.gran := rfl
@[simp] theorem setRing_buses (n : Nat) (v : Ring) : (setRing n v s).buses = s.buses := rfl
@[simp] theorem setRing_ports (n : Nat) (v : Ring) : (setRing n v s).ports = s.ports := rfl
@[simp] theorem setRing_keys (n : Nat) (v : Ring) : (setRing n v s).keys = s.keys := rfl
@[simp] theorem setRing_fixed (n : Nat) (v : Ring) : (setRing n v s).fixed = s.fixed := rfl
@[simp] theorem setRing_fw (n : Nat) (v : Ring) : (setRing n v s).fw = s.fw := rfl
@[simp] theorem setRing_power (n : Nat) (v : Ring) : (setRing n v s).power = s.power := rfl
@[simp] theorem setRing_timeCfg (n : Nat) (v : Ring) : (setRing n v s).timeCfg = s.timeCfg := rfl
@[simp] theorem setRing_timePorts (n : Nat) (v : Ring) : (setRing n v s).timePorts = s.timePorts := rfl
@[simp] theorem setRing_servo (n : Nat) (v : Ring) : (setRing n v s).servo = s.servo := rfl
@[simp] theorem setRing_asym (n : Nat) (v : Ring) : (setRing n v s).asym = s.asym := rfl

/-! ### setTransport -/

@[simp] theorem setTransport_pending (d : Nat) (v : Transport) : (setTransport d v s).pending = s.pending := rfl
@[simp] theorem setTransport_free (d : Nat) (v : Transport) : (setTransport d v s).free = s.free := rfl
@[simp] theorem setTransport_wire (d : Nat) (v : Transport) : (setTransport d v s).wire = s.wire := rfl
@[simp] theorem setTransport_hostRead (d : Nat) (v : Transport) : (setTransport d v s).hostRead = s.hostRead := rfl
@[simp] theorem setTransport_alm (d : Nat) (v : Transport) : (setTransport d v s).alm = s.alm := rfl
@[simp] theorem setTransport_ev (d : Nat) (v : Transport) : (setTransport d v s).ev = s.ev := rfl
@[simp] theorem setTransport_hold (d : Nat) (v : Transport) : (setTransport d v s).hold = s.hold := rfl
@[simp] theorem setTransport_staging (d : Nat) (v : Transport) : (setTransport d v s).staging = s.staging := rfl
@[simp] theorem setTransport_stile_strict (d : Nat) (v : Transport) : (setTransport d v s).stile.strict = s.stile.strict := rfl
@[simp] theorem setTransport_stile_timeoutCa (d : Nat) (v : Transport) : (setTransport d v s).stile.timeoutCa = s.stile.timeoutCa := rfl
@[simp] theorem setTransport_stile_readTimeout (d : Nat) (v : Transport) : (setTransport d v s).stile.readTimeout = s.stile.readTimeout := rfl
@[simp] theorem setTransport_stile_logOverflow (d : Nat) (v : Transport) : (setTransport d v s).stile.logOverflow = s.stile.logOverflow := rfl
@[simp] theorem setTransport_stile_strictInForce (d : Nat) (v : Transport) : (setTransport d v s).stile.strictInForce = s.stile.strictInForce := rfl
@[simp] theorem setTransport_stile_sems (d : Nat) (v : Transport) : (setTransport d v s).stile.sems = s.stile.sems := rfl
@[simp] theorem setTransport_stile_regions (d : Nat) (v : Transport) : (setTransport d v s).stile.regions = s.stile.regions := rfl
@[simp] theorem setTransport_stile_errlog (d : Nat) (v : Transport) : (setTransport d v s).stile.errlog = s.stile.errlog := rfl
@[simp] theorem setTransport_stile_errSeq (d : Nat) (v : Transport) : (setTransport d v s).stile.errSeq = s.stile.errSeq := rfl
@[simp] theorem setTransport_stile_far (d : Nat) (v : Transport) : (setTransport d v s).stile.far = s.stile.far := rfl
@[simp] theorem setTransport_stile_near (d : Nat) (v : Transport) : (setTransport d v s).stile.near = s.stile.near := rfl
@[simp] theorem setTransport_stile_nextFar (d : Nat) (v : Transport) : (setTransport d v s).stile.nextFar = s.stile.nextFar := rfl
@[simp] theorem setTransport_stile_transports (d : Nat) (v : Transport) : (setTransport d v s).stile.transports = tset d v s.stile.transports := rfl
@[simp] theorem setTransport_stile_prefetch (d : Nat) (v : Transport) : (setTransport d v s).stile.prefetch = s.stile.prefetch := rfl
@[simp] theorem setTransport_stile_prefetchStops (d : Nat) (v : Transport) : (setTransport d v s).stile.prefetchStops = s.stile.prefetchStops := rfl
@[simp] theorem setTransport_stile_staleCount (d : Nat) (v : Transport) : (setTransport d v s).stile.staleCount = s.stile.staleCount := rfl
@[simp] theorem setTransport_stile_nextGroup (d : Nat) (v : Transport) : (setTransport d v s).stile.nextGroup = s.stile.nextGroup := rfl
@[simp] theorem setTransport_stile_shadow (d : Nat) (v : Transport) : (setTransport d v s).stile.shadow = s.stile.shadow := rfl
@[simp] theorem setTransport_stile_held (d : Nat) (v : Transport) : (setTransport d v s).stile.held = s.stile.held := rfl
@[simp] theorem setTransport_rings (d : Nat) (v : Transport) : (setTransport d v s).rings = s.rings := rfl
@[simp] theorem setTransport_stw (d : Nat) (v : Transport) : (setTransport d v s).stw = s.stw := rfl
@[simp] theorem setTransport_bank (d : Nat) (v : Transport) : (setTransport d v s).bank = s.bank := rfl
@[simp] theorem setTransport_sown (d : Nat) (v : Transport) : (setTransport d v s).sown = s.sown := rfl
@[simp] theorem setTransport_plots (d : Nat) (v : Transport) : (setTransport d v s).plots = s.plots := rfl
@[simp] theorem setTransport_field (d : Nat) (v : Transport) : (setTransport d v s).field = s.field := rfl
@[simp] theorem setTransport_ploughs (d : Nat) (v : Transport) : (setTransport d v s).ploughs = s.ploughs := rfl
@[simp] theorem setTransport_harrow (d : Nat) (v : Transport) : (setTransport d v s).harrow = s.harrow := rfl
@[simp] theorem setTransport_drill (d : Nat) (v : Transport) : (setTransport d v s).drill = s.drill := rfl
@[simp] theorem setTransport_gran (d : Nat) (v : Transport) : (setTransport d v s).gran = s.gran := rfl
@[simp] theorem setTransport_buses (d : Nat) (v : Transport) : (setTransport d v s).buses = s.buses := rfl
@[simp] theorem setTransport_ports (d : Nat) (v : Transport) : (setTransport d v s).ports = s.ports := rfl
@[simp] theorem setTransport_keys (d : Nat) (v : Transport) : (setTransport d v s).keys = s.keys := rfl
@[simp] theorem setTransport_fixed (d : Nat) (v : Transport) : (setTransport d v s).fixed = s.fixed := rfl
@[simp] theorem setTransport_fw (d : Nat) (v : Transport) : (setTransport d v s).fw = s.fw := rfl
@[simp] theorem setTransport_power (d : Nat) (v : Transport) : (setTransport d v s).power = s.power := rfl
@[simp] theorem setTransport_timeCfg (d : Nat) (v : Transport) : (setTransport d v s).timeCfg = s.timeCfg := rfl
@[simp] theorem setTransport_timePorts (d : Nat) (v : Transport) : (setTransport d v s).timePorts = s.timePorts := rfl
@[simp] theorem setTransport_servo (d : Nat) (v : Transport) : (setTransport d v s).servo = s.servo := rfl
@[simp] theorem setTransport_asym (d : Nat) (v : Transport) : (setTransport d v s).asym = s.asym := rfl

/-! ### removeFar -/

@[simp] theorem removeFar_pending (a : FarAccess) : (removeFar a s).pending = s.pending := rfl
@[simp] theorem removeFar_free (a : FarAccess) : (removeFar a s).free = s.free := rfl
@[simp] theorem removeFar_wire (a : FarAccess) : (removeFar a s).wire = s.wire := rfl
@[simp] theorem removeFar_hostRead (a : FarAccess) : (removeFar a s).hostRead = s.hostRead := rfl
@[simp] theorem removeFar_alm (a : FarAccess) : (removeFar a s).alm = s.alm := rfl
@[simp] theorem removeFar_ev (a : FarAccess) : (removeFar a s).ev = s.ev := rfl
@[simp] theorem removeFar_hold (a : FarAccess) : (removeFar a s).hold = s.hold := rfl
@[simp] theorem removeFar_staging (a : FarAccess) : (removeFar a s).staging = s.staging := rfl
@[simp] theorem removeFar_stile_strict (a : FarAccess) : (removeFar a s).stile.strict = s.stile.strict := rfl
@[simp] theorem removeFar_stile_timeoutCa (a : FarAccess) : (removeFar a s).stile.timeoutCa = s.stile.timeoutCa := rfl
@[simp] theorem removeFar_stile_readTimeout (a : FarAccess) : (removeFar a s).stile.readTimeout = s.stile.readTimeout := rfl
@[simp] theorem removeFar_stile_logOverflow (a : FarAccess) : (removeFar a s).stile.logOverflow = s.stile.logOverflow := rfl
@[simp] theorem removeFar_stile_strictInForce (a : FarAccess) : (removeFar a s).stile.strictInForce = s.stile.strictInForce := rfl
@[simp] theorem removeFar_stile_sems (a : FarAccess) : (removeFar a s).stile.sems = s.stile.sems := rfl
@[simp] theorem removeFar_stile_regions (a : FarAccess) : (removeFar a s).stile.regions = s.stile.regions := rfl
@[simp] theorem removeFar_stile_errlog (a : FarAccess) : (removeFar a s).stile.errlog = s.stile.errlog := rfl
@[simp] theorem removeFar_stile_errSeq (a : FarAccess) : (removeFar a s).stile.errSeq = s.stile.errSeq := rfl
@[simp] theorem removeFar_stile_far (a : FarAccess) : (removeFar a s).stile.far = s.stile.far.filter (fun x => x.id != a.id) := rfl
@[simp] theorem removeFar_stile_near (a : FarAccess) : (removeFar a s).stile.near = s.stile.near := rfl
@[simp] theorem removeFar_stile_nextFar (a : FarAccess) : (removeFar a s).stile.nextFar = s.stile.nextFar := rfl
@[simp] theorem removeFar_stile_transports (a : FarAccess) : (removeFar a s).stile.transports = s.stile.transports := rfl
@[simp] theorem removeFar_stile_prefetch (a : FarAccess) : (removeFar a s).stile.prefetch = s.stile.prefetch := rfl
@[simp] theorem removeFar_stile_prefetchStops (a : FarAccess) : (removeFar a s).stile.prefetchStops = s.stile.prefetchStops := rfl
@[simp] theorem removeFar_stile_staleCount (a : FarAccess) : (removeFar a s).stile.staleCount = s.stile.staleCount := rfl
@[simp] theorem removeFar_stile_nextGroup (a : FarAccess) : (removeFar a s).stile.nextGroup = s.stile.nextGroup := rfl
@[simp] theorem removeFar_stile_shadow (a : FarAccess) : (removeFar a s).stile.shadow = s.stile.shadow := rfl
@[simp] theorem removeFar_stile_held (a : FarAccess) : (removeFar a s).stile.held = s.stile.held := rfl
@[simp] theorem removeFar_rings (a : FarAccess) : (removeFar a s).rings = s.rings := rfl
@[simp] theorem removeFar_stw (a : FarAccess) : (removeFar a s).stw = s.stw := rfl
@[simp] theorem removeFar_bank (a : FarAccess) : (removeFar a s).bank = s.bank := rfl
@[simp] theorem removeFar_sown (a : FarAccess) : (removeFar a s).sown = s.sown := rfl
@[simp] theorem removeFar_plots (a : FarAccess) : (removeFar a s).plots = s.plots := rfl
@[simp] theorem removeFar_field (a : FarAccess) : (removeFar a s).field = s.field := rfl
@[simp] theorem removeFar_ploughs (a : FarAccess) : (removeFar a s).ploughs = s.ploughs := rfl
@[simp] theorem removeFar_harrow (a : FarAccess) : (removeFar a s).harrow = s.harrow := rfl
@[simp] theorem removeFar_drill (a : FarAccess) : (removeFar a s).drill = s.drill := rfl
@[simp] theorem removeFar_gran (a : FarAccess) : (removeFar a s).gran = s.gran := rfl
@[simp] theorem removeFar_buses (a : FarAccess) : (removeFar a s).buses = s.buses := rfl
@[simp] theorem removeFar_ports (a : FarAccess) : (removeFar a s).ports = s.ports := rfl
@[simp] theorem removeFar_keys (a : FarAccess) : (removeFar a s).keys = s.keys := rfl
@[simp] theorem removeFar_fixed (a : FarAccess) : (removeFar a s).fixed = s.fixed := rfl
@[simp] theorem removeFar_fw (a : FarAccess) : (removeFar a s).fw = s.fw := rfl
@[simp] theorem removeFar_power (a : FarAccess) : (removeFar a s).power = s.power := rfl
@[simp] theorem removeFar_timeCfg (a : FarAccess) : (removeFar a s).timeCfg = s.timeCfg := rfl
@[simp] theorem removeFar_timePorts (a : FarAccess) : (removeFar a s).timePorts = s.timePorts := rfl
@[simp] theorem removeFar_servo (a : FarAccess) : (removeFar a s).servo = s.servo := rfl
@[simp] theorem removeFar_asym (a : FarAccess) : (removeFar a s).asym = s.asym := rfl

/-! ### The clock -/

/-- An idle cycle moves the working clock, the uptime and the coarse counter, and nothing else. -/
theorem tick_frame : tick s = { s with alm := (tick s).alm, power := { s.power with coarse := (tick s).power.coarse, upNs := (tick s).power.upNs } } := by
  have h (n : Nat) : clockRuns { s with power.coarse := n } = clockRuns s := rfl
  cases h1 : coarseRuns s <;> cases h2 : clockRuns s <;> simp [tick, h, h1, h2]

end Sys2Proof.Machine
end

