-- ==== Sys2Proof/Tests/Slice0.lean ====
section
/-! SUPPORT. Tests of the model: a refused ill-formed operand for every check of WellFormed, states and operands that meet the hypotheses
of the statements, and worked examples of the manual. -/

namespace Sys2Proof.Tests

open Sys2Proof Sys2Proof.Machine

set_option Elab.async false

/-! ### Small states and commands -/

/-- A part that has started: Growing, Steward up, BOOT_PHASE 4. -/
def upPart : State :=
  { State.reset with power := { State.reset.power with state := .growing }, hold := { State.reset.hold with bootPhase := 4 }
                     stw := { State.reset.stw with up := true } }

/-- A command of MQ0 under tag 0 with inline parameters that begin as given. -/
def cmd (params : List Nat) (hops : List Nat := []) (bulk : List Nat := []) : Call :=
  { queue := 0, tag := 0, gen := 1, hops, params := fit 48 (params.map byte), units := (bulk.length + 7) / 8, bulk := bulk.map byte }

/-- `n` bytes of a number, least significant first. -/
def w (n v : Nat) : List Nat := (List.range n).map (fun i => v / 256 ^ i % 256)

/-- Inline parameters with bytes at the offsets given and zero elsewhere. -/
def pm (l : List (Nat × List Nat)) : List Nat := l.foldl (fun a e => a.take e.1 ++ e.2 ++ a.drop (e.1 + e.2.length)) (List.replicate 48 0)

/-- A parameter image of 48 bytes. -/
def img (l : List (Nat × List Nat)) : Img := (pm l).map byte

/-- The command with a bulk result of up to `n` units. -/
def wants (n : Nat) (c : Call) : Call := { c with bulkResult := true, units := n }

/-- `upPart` with settings in the standing bank. -/
def withBank (b : Bank) : State := { upPart with bank := b }

/-- The invariant as a test that computes. -/
def fine (s : State) : Bool :=
  (s.ev.intn == ((s.ev.pending &&& s.ev.enable &&& s.ev.route) != 0)) && Memory.wf s.staging && Memory.wf s.hold.slots &&
  Memory.wf s.ev.msixTable

/-- `Heard` as a test that computes. -/
def hears (k : Cmd) (c : Call) (p : Plot) (s : State) : Bool :=
  takeable c.queue s && decide (tagCheck c s = .ok) && decide (s.hold.bootPhase ≠ 5) && !c.atomic && !c.staged && !c.pathReserved &&
  decide (areaCheck c (taken c s) = .ok) && decide (target c (taken c s) = .at_ p []) && decide (k.check c (taken c s) = .ok) &&
  !k.lacks (taken c s) && decide (k.own c (taken c s) = .ok) && fine s

/-- `fine` decides the invariant. -/
theorem inv_of_fine {s : State} (h : fine s = true) : Inv s := by
  simp only [fine, Bool.and_eq_true, beq_iff_eq] at h
  obtain ⟨⟨⟨h1, h2⟩, h3⟩, h4⟩ := h
  exact ⟨h1, h2, h3, h4⟩

/-- A command that `hears` accepts is heard. -/
theorem heard_of_hears {k : Cmd} {c : Call} {p : Plot} {s : State} (h : hears k c p s = true) : Heard k c p s := by
  simp only [hears, Bool.and_eq_true, decide_eq_true_eq, Bool.not_eq_true'] at h
  obtain ⟨⟨⟨⟨⟨⟨⟨⟨⟨⟨⟨h1, h2⟩, h3⟩, h4⟩, h5⟩, h6⟩, h7⟩, h8⟩, h9⟩, h10⟩, h11⟩, h12⟩ := h
  exact ⟨h1, h2, h3, h4, h5, h6, h7, h8, h9, h10, h11, inv_of_fine h12⟩

/-! ### The queue, invariants, the mailbox -/

theorem witness_IdleStepIsOneClockCycle :
    (upPart.pending = [] ∧ upPart.alm.ns < 1000000000 ∧ upPart.alm.frac < 4294967296 ∧ upPart.alm.sec < 281474976710656 ∧
      clockRuns upPart = true) ∧
    (({ upPart with power.state := .held } : State).pending = [] ∧ State.reset.alm.ns < 1000000000 ∧ State.reset.alm.frac < 4294967296 ∧
      State.reset.alm.sec < 281474976710656 ∧ clockRuns { upPart with power.state := .held } = false) := by decide +kernel

theorem witness_StepKeepsInvariant :
    QueueWf { upPart with pending := [.echo (cmd [])] } ∧ Inv { upPart with pending := [.echo (cmd [])] } ∧
    ∃ t, step { upPart with pending := [.echo (cmd [])] } = .next t :=
  ⟨by unfold QueueWf; decide +kernel, inv_of_fine (by decide +kernel), _, rfl⟩

theorem witness_CommandsThatWaitOrAreUnknown :
    (mailboxCmd (.echo (cmd [])) = some (cmdEcho, cmd []) ∧ takeable 0 State.reset = false) ∧
    ((cmdOf 0x0E05 (cmd [])).isNone = true ∧ takeable 0 upPart = true ∧ tagCheck (cmd []) upPart = .ok ∧ Inv upPart) :=
  ⟨⟨rfl, by decide +kernel⟩, by decide +kernel, by decide +kernel, by decide +kernel, inv_of_fine (by decide +kernel)⟩

/-- A part with a command in flight under tag 0, generation 7 known under tag 1. -/
def busyPart : State :=
  { upPart with stw := { upPart.stw with tags := [(1, 7)], ops := [{ opcode := 0x0E01, call := cmd [], body := .fieldJoin }] } }

theorem witness_CommandsAreCheckedInOrder :
    (takeable 0 busyPart = true ∧ (cmd []).queue ≠ 3 ∧ Inv busyPart) ∧
    (47 < ({ cmd [] with tag := 48 } : Call).tag ∧ (cmd []).tag ≤ 47 ∧ tagBusy 0 busyPart = true ∧ tagBusy 1 busyPart = false ∧
      tget 1 busyPart.stw.tags = some 7) ∧
    (tagCheck (cmd []) upPart = .ok ∧ upPart.hold.bootPhase ≠ 5 ∧ (cmd []).bulkResult = false ∧ cmdEcho.bank = false ∧
      cmdRowBind.bank = true ∧ upPart.stw.retill = none ∧ areaCheck { cmd [] with units := 1, at_ := 65536 } upPart ≠ .ok) ∧
    (target (cmd [] [0, 0, 0]) (taken (cmd [] [0, 0, 0]) upPart) = .bad .badPlot ∧
      target (cmd [1]) (taken (cmd [1]) upPart) = .at_ .device [] ∧ firstCheck cmdDeviceInfo (cmd [1]) .device (taken (cmd [1]) upPart) = .badParam) ∧
    (let c : Call := { cmd [1] [2, 0, 0, 16] with queue := 3 }
     takeable 3 upPart = true ∧ tagCheck c upPart = .ok ∧ areaCheck c (taken c upPart) = .ok ∧
      target c (taken c upPart) = .sub (resolveRef (mkRef 0 1 255 0) upPart) ∧
      firstCheck cmdDeviceInfo c (resolveRef (mkRef 0 1 255 0) upPart) (taken c upPart) = .badParam) :=
  ⟨⟨by decide +kernel, by decide +kernel, inv_of_fine (by decide +kernel)⟩, by decide +kernel, by decide +kernel, by decide +kernel, by decide +kernel⟩

/-- A re-till is open. -/
def tillPart : State := { upPart with stw := { upPart.stw with retill := some 1 } }

/-- A staged command. -/
def staged (c : Call) : Call := { c with staged := true }

theorem witness_StagedCommandsAndReadRequests :
    (cmdRowBind.bank = true ∧ cmdRowBind.journaled = false ∧ takeable 0 tillPart = true ∧ tagCheck (staged (cmd [0] [0, 255])) tillPart = .ok ∧
      areaCheck (staged (cmd [0] [0, 255])) (taken (cmd [0] [0, 255]) tillPart) = .ok ∧
      target (staged (cmd [0] [0, 255])) (taken (cmd [0] [0, 255]) tillPart) = .at_ (.row 255) [] ∧
      cmdRowBind.check (staged (cmd [0] [0, 255])) (taken (cmd [0] [0, 255]) tillPart) = .ok ∧ applies cmdRowBind.scope (.row 255) = true ∧
      cmdRowBind.lacks (taken (cmd [0] [0, 255]) tillPart) = false ∧ cmdRowBind.own (staged (cmd [0] [0, 255])) (taken (cmd [0] [0, 255]) tillPart) = .ok ∧
      (cmdRowBind.stage (staged (cmd [0] [0, 255])) 255 (taken (cmd [0] [0, 255]) tillPart) tillPart.sown).1 = .ok) ∧
    (let c : Call := { cmd [0, 0, 0] with atomic := true, staged := true, bulkResult := true, units := 8 }
     takeable 0 upPart = true ∧ tagCheck c upPart = .ok ∧ cmdLsetRead.read.isSome = true ∧ areaCheck c (taken c upPart) = .ok ∧
      target c (taken c upPart) = .at_ .device [] ∧ ((cmdOf 0x0304 c).map (·.opcode)) = some 0x0304 ∧ applies cmdLsetRead.scope .device = true ∧
      cmdLsetRead.lacks (taken c upPart) = false ∧ cmdLsetRead.journaled = false ∧ fine upPart = true ∧ cmdLsetRead.item = 0 ∧ (readLset c 0 (taken c upPart)).isSome = true) := by decide +kernel

theorem witness_EchoReturnsItsParameters : hears cmdEcho (cmd (List.replicate 48 255)) .device upPart = true ∧
    (cmd (List.replicate 48 255)).params.length = 48 := by decide +kernel

/-! ### Plots, rows, routes -/

/-- Two groups: group 0 at position 16 of the device plot, without members; group 1023 with the last row at position 255. -/
def groupPart : State :=
  { upPart with plots := { groups := [(0, { used := true, gen := 1, members := [] }), (1023, { used := true, gen := 15, members := [(255, mkRef 0 0 255 511)] })]
                           top := [(16, mkRef 1 1 255 0), (255, mkRef 1 15 255 1023)] } }

theorem witness_PlotTreeCommands :
    (hears cmdPlotDescribe (cmd (w 4 (mkRef 0 0 255 511))) .device upPart = true ∧ isLocal (mkRef 0 0 255 511) upPart = true ∧
      refKind (u32 (cmd (w 4 (mkRef 0 0 255 511))).params 0) = 0 ∧ refGen (mkRef 0 0 255 511) = 0 ∧ refNum (mkRef 0 0 255 511) < 512) ∧
    (hears cmdPlotDescribe (cmd (w 4 (mkRef 1 14 255 1023))) .device groupPart = true ∧ isLocal (mkRef 1 14 255 1023) groupPart = true ∧
      refKind (mkRef 1 14 255 1023) = 1 ∧ refNum (mkRef 1 14 255 1023) < 1024 ∧ (groupOf 1023 groupPart).used = true ∧
      (groupOf 1023 groupPart).gen ≠ refGen (mkRef 1 14 255 1023)) ∧
    (hears cmdPlotGroupCreate (cmd (w 2 0xFFFF ++ [255, 1])) .device groupPart = true ∧
      firstBelow 1024 (fun g => !(groupOf g groupPart).used) = some 1 ∧ freePosition 0 groupPart = some 17 ∧
      posTaken 0 17 groupPart = false) ∧
    (hears cmdPlotGroupCreate (cmd (w 2 1022 ++ [255, 0]) [16]) (.group 0) groupPart = true ∧ posTaken 1 255 groupPart = false ∧
      (groupOf 1022 groupPart).used = false) ∧
    (hears cmdPlotGroupDelete (cmd [] [16]) (.group 0) groupPart = true ∧ (groupOf 0 groupPart).members = []) ∧
    (hears cmdPlotAttach (cmd ([0, 255, 0, 0] ++ w 4 (mkRef 0 0 255 511)) [16]) (.group 0) groupPart = true ∧
      attachCheck 1 (mkRef 0 0 255 511) groupPart = .ok ∧ posTaken 1 255 groupPart = false) ∧
    (hears cmdPlotDetach (cmd [1, 255] [255]) (.group 1023) groupPart = true ∧ posTaken 1024 255 groupPart = true) ∧
    (hears cmdPlotDetach (cmd [1, 16]) .device groupPart = true ∧ posTaken 0 16 groupPart = true) := by decide +kernel

theorem witness_FieldAndDeviceCommands :
    (hears cmdFieldJoin (cmd (pm [(0, w 2 0xFFFE), (2, [255]), (4, w 2 1023), (6, w 2 10), (8, w 2 1), (10, w 2 1), (12, w 4 10)])) .device upPart = true ∧
      upPart.field.join = 0) ∧
    (hears cmdFieldLeave (cmd []) .device { upPart with field := { join := 2, id := 1, dev := 0 } } = true ∧
      atomicAcross { upPart with field := { join := 2, id := 1, dev := 0 } } = false ∧ upPart.stw.ops = [] ∧ upPart.drill.sheafs = [] ∧
      upPart.stile.far = [] ∧ upPart.stile.near = [] ∧ upPart.stile.held = []) ∧
    hears cmdDeviceInfo (cmd []) .device upPart = true := by decide +kernel

/-- Row 255 bound as talker of UART 15, row 0 as listener of CAN 15, enabled. -/
def rowPart : State :=
  withBank { bind := [(0, img [(0, [1, 2, 15])]), (255, img [(0, [2, 1, 15])])], enabled := [0] }

theorem witness_RowCommands :
    (hears cmdRowBind (cmd [0] [0, 255]) (.row 255) rowPart = true ∧ rowPart.bank.enabled.contains 255 = false) ∧
    (hears cmdRowBind (cmd (pm [(0, [7, 3, 7]), (18, w 2 0xFFFF)]) [0, 255]) (.row 255) rowPart = true ∧
      rowPart.bank.bind.any (fun e => e.1 != 255 && sameEndpoint (imageOf (cmd (pm [(0, [7, 3, 7]), (18, w 2 0xFFFF)]) [0, 255])) e.2) = false) ∧
    (hears cmdRowFramingSet (cmd (pm [(0, [0, 0]), (2, w 2 2080)]) [0, 255]) (.row 255) rowPart = true ∧
      u8 (tgetD 255 [] rowPart.bank.bind) 0 = 2 ∧ isTalker (tgetD 255 [] rowPart.bank.bind) = true ∧ rowPart.bank.enabled.contains 255 = false) ∧
    (hears cmdRowEnable (cmd [] [0, 0]) (.row 0) rowPart = true ∧ bound 0 rowPart = true ∧ rowPart.bank.enabled.contains 0 = true) ∧
    (hears cmdRowEnable (cmd [] [0, 255]) (.row 255) rowPart = true ∧ bound 255 rowPart = true) ∧
    (hears cmdRowEnable (cmd [] [0, 0]) (.row 0) { rowPart with bank.enabled := [] } = true ∧
      bound 0 rowPart = true ∧ (canRt 15 rowPart).state = 5 ∧ rowCtl (tgetD 0 [] rowPart.bank.bind) = some (0, 15) ∧ ctlEnabled ({ rowPart with bank.enabled := [] } : State).bank 0 15 = false ∧
      (canRt 15 rowPart).stoppedIn = 0) ∧
    (hears cmdRowDisable (cmd [] [0, 255]) (.row 255) rowPart = true ∧ hears cmdRowDisable (cmd [] [0, 0]) (.row 0) rowPart = true) ∧
    hears cmdRowStats (cmd [1] [0, 255]) (.row 255) rowPart = true ∧ hears cmdRowStats (cmd [] [0, 0]) (.row 0) rowPart = true := by
  decide +kernel

/-- A wildcard entry of row 0 in the table. -/
def routePart : State := { rowPart with bank.routes := [(8224, img [])] }

theorem witness_RouteCommands :
    (hears cmdRouteAdd (cmd (pm [(44, [1, 0])]) [0, 0]) (.row 0) rowPart = true ∧
      routeNamesOk (routeImage (cmd (pm [(44, [1, 0])])) 0) rowPart.bank rowPart = true ∧
      (placeRoute rowPart.bank.routes rowPart.harrow.routes true 0 (routeImage (cmd (pm [(44, [1, 0])])) 0) rowPart.free).isSome = true) ∧
    (hears cmdRouteRemove (cmd (pm [(44, [1, 0])]) [0, 0]) (.row 0) routePart = true ∧
      namedRoute (cmd (pm [(44, [1, 0])])) 0 routePart.bank = some (8224, img [])) ∧
    (hears cmdRouteRemove (cmd (pm [(44, [1, 255])]) [0, 0]) (.row 0) routePart = true ∧
      namedRoute (cmd (pm [(44, [1, 255])])) 0 routePart.bank = none) ∧
    hears cmdRouteQuery (cmd (pm [(44, [1, 0, 0])]) [0, 0]) (.row 0) routePart = true ∧
    hears cmdRouteQueryClear (cmd (pm [(44, [1, 0, 1])]) [0, 0]) (.row 0) routePart = true ∧
    hears cmdRouteQueryList (cmd (pm [(44, [1, 0, 2])]) [0, 0]) (.row 0) routePart = true := by decide +kernel

theorem witness_ListenerSetsSievesAndRewrites :
    (hears cmdLsetWrite (cmd (w 2 1023 ++ [0]) [] (List.replicate 64 255)) .device upPart = true ∧
      lsetNamed 1023 (!(lsetOf 1023 upPart.bank).copy) upPart = false) ∧
    hears cmdLsetRead (cmd (w 2 1023 ++ [1])) .device upPart = true ∧
    hears cmdSieveSet (cmd (pm [(0, [63, 0]), (16, [1]), (18, w 2 255), (20, [8, 12])])) .device upPart = true ∧
    (hears cmdSieveClear (cmd [63, 1]) .device upPart = true ∧ sieveNamed 63 upPart.bank = false) ∧
    hears cmdRewriteSet (cmd (pm [(0, [63])])) .device upPart = true := by decide +kernel

/-- The parameters of a Team 127 with row 255 as its only member. -/
def teamParams : List Nat := pm [(0, [127, 1, 0, 1, 15, 1]), (8, w 4 600000), (16, w 2 255 ++ [3, 0] ++ w 4 60000)]

theorem witness_TeamCommands :
    (hears cmdTeamSet (cmd teamParams) .device rowPart = true ∧ u8 (cmd teamParams).params 1 ≠ 0 ∧
      (teamMembers (cmd teamParams).params).all (fun m => isTalker (tgetD m.1 [] rowPart.bank.bind) && bankBound m.1 rowPart.bank) = true ∧
      tget 127 rowPart.harrow.teams = none) ∧
    (hears cmdTeamSet (cmd teamParams) .device { rowPart with harrow.teams := [(127, {})] } = true) ∧
    (hears cmdTeamSet (cmd [127, 0]) .device rowPart = true ∧ teamNamed 127 rowPart.bank = false) ∧
    hears cmdTeamState (cmd [127]) .device rowPart = true := by decide +kernel

/-! ### Ports, queues and lists, time -/

/-- Settings of a port: enabled or not, any speed offered, largest frame 1522. -/
def portParams (p mode en frame : Nat) : List Nat := pm [(0, [p, mode, 0, en]), (12, w 2 frame), (14, w 2 1)]

/-- Port 1 is enabled with these settings. -/
def portPart : State := { upPart with ports := { upPart.ports with config := [(1, img [(0, [1, 0, 0, 1]), (12, w 2 1522), (14, w 2 1)])] } }

theorem witness_PortCommands :
    (hears cmdPortConfig (cmd (portParams 1 2 1 1522)) .device portPart = true ∧
      newMode (fit 48 (cmd (portParams 1 2 1 1522)).params) portPart ≠ laneMode 1 portPart ∧ (lanePorts 1).any (fun x => portEnabled x portPart) = true) ∧
    (hears cmdPortConfig (cmd (portParams 1 0 1 9054)) .device portPart = true ∧ portEnabled 1 portPart = true ∧
      u16 (portCfg 1 portPart) 12 ≠ 9054) ∧
    (hears cmdPortConfig (cmd (portParams 1 0 1 1522)) .device portPart = true ∧
      newMode (fit 48 (cmd (portParams 1 0 1 1522)).params) portPart = laneMode 1 portPart ∧
      portEnabled 1 portPart = flag (patch (fit 48 (cmd (portParams 1 0 1 1522)).params) 1 [0]) 3 0 ∧ u8 (portCfg 1 portPart) 2 = 0 ∧
      u16 (portCfg 1 portPart) 12 = 1522 ∧ flag (portCfg 1 portPart) 3 4 = false) ∧
    (hears cmdPortConfig (cmd (portParams 0 0 1 64)) .device portPart = true ∧ portEnabled 0 portPart = false ∧ looped 0 portPart = false) ∧
    hears cmdPortState (wants 100 (cmd [1])) .device portPart = true ∧
    hears cmdPortFilterSet (cmd (pm [(0, [1, 0]), (2, w 2 31), (8, [1, 2, 3, 4, 5, 6])])) .device portPart = true ∧
    hears cmdPortFilterSet (cmd (pm [(0, [1, 1]), (2, w 2 63)])) .device portPart = true ∧
    hears cmdPortFilterSet (cmd (pm [(0, [1, 2]), (2, w 2 511)])) .device portPart = true ∧
    hears cmdPortFilterSet (cmd [1, 3] [] (List.replicate 64 255)) .device portPart = true ∧
    hears cmdPortFilterClear (cmd (pm [(0, [1, 0]), (2, w 2 2), (4, [1])])) .device portPart = true ∧
    hears cmdPortFilterClear (cmd (pm [(0, [1, 1]), (2, w 2 2), (4, [1])])) .device portPart = true ∧
    hears cmdPortFilterClear (cmd (pm [(0, [1, 2]), (2, w 2 0), (4, [1])])) .device portPart = true ∧
    hears cmdPortFilterClear (cmd (pm [(0, [1, 3]), (4, [1])])) .device portPart = true := by decide +kernel

/-- A Furrow list of one entry for port 1. -/
def furrowList : List Nat := w 8 0 ++ w 4 1000000000 ++ w 4 1000000000 ++ w 2 1 ++ [1, 0, 0, 0, 0, 0] ++ [255, 0, 0, 0] ++ w 4 128

theorem witness_PortQueueAndListCommands :
    (hears cmdPortPauseSet (cmd (pm [(0, [1, 1, 0, 255, 0, 30, 2]), (8, w 4 10000), (12, w 2 1), (14, w 2 65535)])) .device portPart = true ∧
      u8 (pauseCfg 1 portPart) 1 ≠ 1) ∧
    hears cmdPortPreemptSet (cmd [1, 3, 1, 1, 128, 0]) .device portPart = true ∧
    hears cmdPortStatsSnap (wants 480 (cmd [255])) .device portPart = true ∧
    (hears cmdFurrowListWrite (cmd [] [] furrowList) .device portPart = true ∧ u8 (cmd [] [] furrowList).bulk 18 = 1 ∧
      (furrowRt 1 portPart).change = none) ∧
    (hears cmdFurrowSwitch (cmd [1, 0]) .device { portPart with bank.furrows := [(1, furrowList.map byte)] } = true) ∧
    (hears cmdFurrowListRemove (cmd [1, 1]) .device { portPart with drill.furrows := [(1, { oper := some (furrowList.map byte) })] } = true ∧
      (furrowRt 1 { portPart with drill.furrows := [(1, { oper := some (furrowList.map byte) })] }).change = none ∧
      (furrowRt 1 { portPart with drill.furrows := [(1, { oper := some (furrowList.map byte) })] }).remove = none) ∧
    (hears cmdShaperSet (cmd (pm [(0, [1, 7, 1]), (4, w 4 1000)])) .device portPart = true ∧
      flag (fit 48 (cmd (pm [(0, [1, 7, 1]), (4, w 4 1000)])).params) 2 1 = false ∧
      ¬ classTc 1 0 portPart.bank = 0) ∧
    hears cmdSheafSet (cmd (pm [(6, w 2 0x600), (8, w 2 4094), (10, w 2 1500), (12, w 2 5), (14, w 2 1000), (16, w 2 5), (20, w 4 10000)])) .device
      portPart = true ∧
    (hears cmdClassMapSet (cmd (pm [(0, [0, 1]), (4, [7])])) .device portPart = true ∧ preemptable 1 7 portPart = false ∧
      shaperOf 1 7 portPart.bank = none) ∧
    hears cmdPoolAndGuardSet (cmd (pm [(0, [1]), (4, w 4 1000000), (8, w 2 4096), (10, w 2 8192), (16, w 2 16384), (18, w 2 16384)])) .device
      portPart = true := by decide +kernel

theorem witness_TimeCommands :
    (hears cmdTimeConfig (cmd (pm [(0, [0, 127, 126, 0]), (6, w 2 255), (12, w 4 500000000)])) .device upPart = true ∧
      ¬ (127 = upPart.alm.relayed ∧ 126 = upPart.alm.working) ∧ upPart.alm.utcFromAnnounce = false) ∧
    (hears cmdTimeConfig (cmd (pm [(0, [0, 1, 0, 0]), (6, w 2 255), (12, w 4 500000000)])) .device upPart = true ∧
      1 = upPart.alm.relayed ∧ 0 = upPart.alm.working) ∧
    hears cmdTimeConfigPort (cmd (pm [(0, [1, 9, 3, 251, 0, 0, 2]), (8, w 4 100)])) .device upPart = true ∧
    hears cmdTimeSet (cmd (pm [(0, w 6 281474976710655), (8, w 4 999999999)])) .device upPart = true ∧
    hears cmdTimeSetAtPps (cmd (pm [(8, w 4 999999999), (12, [1])])) .device upPart = true ∧
    hears cmdTimeAdjustStep (cmd (pm [(8, w 8 1000000000)])) .device upPart = true ∧
    (hears cmdTimeAdjustServoInput (cmd (pm [(0, [1]), (8, w 8 1000), (16, w 4 60000000)])) .device
        { upPart with servo := some (img [(0, [2])]) } = true ∧ servoSource { upPart with servo := some (img [(0, [2])]) } = 2) ∧
    (hears cmdTimeAdjustFrequency (cmd (pm [(0, [2]), (20, w 4 200000)])) .device { upPart with servo := some (img [(0, [3])]) } = true ∧
      servoSource { upPart with servo := some (img [(0, [3])]) } = 3) ∧
    hears cmdServoSet (cmd (pm [(0, [3, 15, 64, 1]), (4, w 4 130416), (8, w 4 65536), (12, w 4 100), (16, w 4 1000), (20, w 4 60000), (24, w 4 200000)]))
      .device upPart = true ∧
    hears cmdAsymSet (cmd (pm [(0, [9, 5]), (4, w 4 1048575), (8, w 2 1000 ++ [100, 120])])) .device upPart = true ∧
    hears cmdTimeState (cmd [0]) .device upPart = true ∧ hears cmdTimeState (wants 8 (cmd [1, 9])) .device upPart = true ∧
    hears cmdAlarmSet (cmd (pm [(0, [0, 7, 128])])) .device upPart = true ∧
    (hears cmdAlarmSet (cmd (pm [(0, [0, 7, 0, 255]), (4, w 4 100), (8, w 8 1)])) .device upPart = true ∧ nowNs upPart < 1) ∧
    hears cmdScheduleEntrySet (cmd (pm [(0, [1, 63, 0]), (16, w 8 86400000000000)])) .device upPart = true ∧
    (hears cmdScheduleEntrySet (cmd (pm [(0, [1, 63, 1])])) .device upPart = true ∧ entryNamed 63 upPart.bank = false) := by decide +kernel

/-! ### Security, Tally, Granary, power commands, buses' commands -/

/-- A rule that takes every sentence and endpoint: with a source prefix of 32 bits enabled. -/
def ruleBulk : List Nat := [0x80, 0, 255, 255] ++ List.replicate 36 0 ++ [4, 0, 32, 0] ++ List.replicate 44 0

theorem witness_HedgerowCommands :
    (hears cmdRuleWrite (cmd (w 2 2047 ++ [0]) [] ruleBulk) .device upPart = true ∧
      rulePolices (fit 88 (cmd [] [] ruleBulk).bulk) = false ∧ ruleMirrors (fit 88 (cmd [] [] ruleBulk).bulk) = false) ∧
    hears cmdRuleRead (cmd (w 2 2047 ++ [1])) .device upPart = true ∧
    (hears cmdPolicerSet (cmd (pm [(0, [255, 3]), (4, w 4 40000000), (8, w 4 16777216)])) .device upPart = true ∧
      flag (policerCfg 255 upPart.bank) 1 0 = false) ∧
    hears cmdZoneSet (cmd (pm [(0, [5]), (2, w 2 1023), (8, [63, 1])])) .device upPart = true := by decide +kernel

theorem witness_RuleClearClearsARange :
    hears cmdRuleClear (cmd (w 2 0 ++ w 2 2048)) .device upPart = true ∧
    (tagCheck (cmd (w 2 2047 ++ w 2 2)) upPart = .ok ∧ areaCheck (cmd (w 2 2047 ++ w 2 2)) (taken (cmd []) upPart) = .ok ∧
      target (cmd (w 2 2047 ++ w 2 2)) (taken (cmd []) upPart) = .at_ .device [] ∧
      (∀ x, Plot.device ≠ .remote x) ∧
      2048 < u16 (cmd (w 2 2047 ++ w 2 2)).params 0 + u16 (cmd (w 2 2047 ++ w 2 2)).params 2) :=
  ⟨by decide +kernel, by decide +kernel, by decide +kernel, by decide +kernel, by simp, by decide +kernel⟩

/-- A QTL-512E. -/
def ePart : State := { upPart with fixed.variantE := true }

theorem witness_CipherCommandsOfTheVariantE :
    (mailboxCmd (.keyErase (cmd [])) = some (cmdKeyErase, cmd []) ∧ mailboxCmd (.keyState (cmd [])) = some (cmdKeyState, cmd [])) ∧
    (ePart.fixed.variantE = true ∧ takeable 0 ePart = true ∧ tagCheck (cmd []) ePart = .ok ∧ areaCheck (cmd []) (taken (cmd []) ePart) = .ok ∧
      target (cmd []) (taken (cmd []) ePart) = .at_ .device [] ∧ fine ePart = true ∧ cmdKeyState.check (cmd []) (taken (cmd []) ePart) = .ok) ∧
    (let c : Call := { cmd [0] with atomic := true, staged := true, bulkResult := true, units := 8 }
     takeable 0 ePart = true ∧ tagCheck c ePart = .ok ∧ areaCheck c (taken c ePart) = .ok ∧ target c (taken c ePart) = .at_ .device []) :=
  ⟨⟨rfl, rfl⟩, by decide +kernel, by decide +kernel⟩

/-- Slot 159 is Installed with a receive association of port 9; slot 0 is empty. -/
def keyPart : State :=
  { upPart with keys := { slots := [(159, { state := .installed, sa := img [(0, w 2 159 ++ [9, 1])] })], nonce := some [1, 2, 3, 4] } }

theorem witness_KeysAndGate :
    (keyPart.fixed.variantE = false ∧
      hears cmdKeyInstall (cmd (pm [(0, w 2 159 ++ [0, 32])])) .device keyPart = true ∧ keyPart.keys.kek = true ∧ keyPart.keys.otpLocked = false ∧
      inUse (slotOf 159 keyPart) = false ∧ (slotOf 159 keyPart).state ≠ .next) ∧
    (hears cmdKeyActivate (cmd (w 2 159 ++ [2])) .device keyPart = true ∧ (slotOf 159 keyPart).state = .installed ∧
      configured (slotOf 159 keyPart) = true ∧ saReceive (slotOf 159 keyPart).sa = true) ∧
    hears cmdKeyErase (cmd (w 2 159)) .device keyPart = true ∧
    (hears cmdSaConfig (cmd (pm [(0, w 2 159 ++ [9, 0]), (16, w 8 1), (24, w 8 0xFFFFFFFF)])) .device keyPart = true ∧
      saReceive (fit 48 (cmd (pm [(0, w 2 159 ++ [9, 0])])).params) = false ∧ (slotOf 159 keyPart).used = false) ∧
    hears cmdKeyState (cmd (w 2 159)) .device keyPart = true ∧
    hears cmdZeroizeAll (cmd (w 4 0x5A45524F)) .device keyPart = true ∧
    (hears cmdGateChallengeRequest (cmd [0]) .device keyPart = true ∧ (cmd [0]).queue ≠ 3 ∧ keyPart.keys.wrong < 3) ∧
    hears cmdGateChallengeRespond (cmd [1]) .device keyPart = true := by decide +kernel

theorem witness_TallyCommands :
    (hears cmdTallyBind (cmd (pm [(0, [31, 0]), (2, w 2 255), (4, [64])])) .device (withBank { bind := [(255, img [(0, [2, 1, 15])])] }) = true ∧
      tallyRowOk false (img [(0, [2, 1, 15])]) = true) ∧
    (hears cmdTallyRelease (cmd [31]) .device upPart = true ∧ tget 31 upPart.bank.tallies = none) ∧
    (hears cmdTallyRelease (cmd [31]) .device (withBank { tallies := [(31, img [(0, [31, 1])])] }) = true ∧ flag (img [(0, [31, 1])]) 1 0 = true) ∧
    hears cmdTallyState (cmd [31, 1]) .device upPart = true ∧ hears cmdTallyState (cmd [0, 0]) .device upPart = true := by decide +kernel

theorem witness_GranaryCommands :
    hears cmdGranaryQuotaSet (cmd (pm [(0, w 2 512 ++ w 2 0 ++ w 2 4096 ++ w 2 4096 ++ w 2 0 ++ w 2 0 ++ [1]), (14, w 2 1 ++ w 2 1 ++ w 2 100 ++ w 4 10)]))
      .device upPart = true ∧
    hears cmdGranaryState (cmd [1]) .device upPart = true ∧ hears cmdGranaryState (cmd [0]) .device upPart = true ∧
    (hears cmdBankRetire (cmd [127, 0]) .device upPart = true ∧ bankState 127 upPart = 0 ∧ (spareBanks upPart).isEmpty = false ∧
      openCount upPart.stw.ledger < 16) ∧
    (hears cmdBankTest (cmd [135, 0]) .device upPart = true ∧ [1, 5, 6].contains (bankState 135 upPart) = true ∧
      openCount upPart.stw.ledger < 16) := by decide +kernel

/-- Network 16 off; network 0 in direct mode, Ready. -/
def netPart : State := { upPart with power.nets := [(0, { img := img [(0, [0, 1])], state := 2 })] }

/-- Settings of a network. -/
def netParams (n mode : Nat) : List Nat :=
  pm [(0, [n, mode, 0, 1]), (8, w 2 10 ++ w 2 100 ++ w 2 10 ++ w 2 1 ++ w 2 1000)]

theorem witness_PowerCommands :
    hears cmdPowerPolicySet (cmd (pm [(0, [0, 50, 6]), (4, w 4 10000), (16, w 4 100000 ++ w 2 500)])) .device upPart = true ∧
    hears cmdFallowPolicySet (cmd (pm [(0, [1, 4, 1]), (4, w 4 60000 ++ w 4 255 ++ w 4 1440 ++ w 4 604800)])) .device upPart = true ∧
    (hears cmdFallowEnter (cmd [4, 1]) .device { upPart with power.wake := img [(0, [1])] } = true ∧ openCount upPart.stw.ledger = 0 ∧
      entryBusy { upPart with power.wake := img [(0, [1])] } = false ∧
      (survivors (targetState 4) { upPart with power.wake := img [(0, [1])] }).isEmpty = false) ∧
    hears cmdWakeSourcesSet (cmd [63, 10, 255, 255, 255, 255, 9, 255]) .device upPart = true ∧
    (hears cmdNmConfig (cmd (netParams 0 1)) .device netPart = true ∧ nmMode (netOf 0 netPart) = 1) ∧
    (hears cmdNmConfig (cmd (netParams 16 1)) .device netPart = true ∧ nmMode (netOf 16 netPart) = 0 ∧ (netOf 16 netPart).state = 0) ∧
    hears cmdNmRequest (cmd [0, 0]) .device netPart = true ∧
    hears cmdWakeCause (cmd [1]) .device upPart = true ∧ hears cmdPaceState (cmd [1]) .device upPart = true := by decide +kernel

/-- CAN 15 and UART 15 and the other controllers off, CAN 0 with an enabled row. -/
def busPart : State := withBank { bind := [(0, img [(0, [1, 1, 0])])], enabled := [0] }

/-- CAN settings of a controller: classical, 1 Mbit/s. -/
def canParams (k mode : Nat) : List Nat := pm [(0, [k, mode, 8, 1]), (4, w 2 15 ++ [4, 4, 1, 3, 1, 0])]

theorem witness_FieldBusCommands :
    (hears cmdFieldPinAssign (cmd (pm [(40, [255, 255, 255, 255, 255, 1])])) .device busPart = true ∧ guarded .firmware 4 0 0 4096 busPart = false ∧
      levelsOnly (cmd (pm [(45, [1])])) = true) ∧
    (hears cmdFieldPinAssign (cmd (List.replicate 40 0)) .device busPart = true ∧ levelsOnly (cmd []) = false ∧
      legalMix (newPins (cmd []) busPart.bank.pins) busPart.power.wake = true ∧
      pinsInUse busPart.bank (newPins (cmd []) busPart.bank.pins) = false) ∧
    (hears cmdCanConfig (cmd (canParams 15 0)) .device busPart = true ∧ guarded .firmware 0 15 0 4096 busPart = false ∧ ctlEnabled busPart.bank 0 15 = false) ∧
    (hears cmdCanConfig (cmd (canParams 0 0)) .device busPart = true ∧ guarded .firmware 0 0 0 4096 busPart = false ∧
      ctlEnabled busPart.bank 0 0 = true ∧ fit 18 (fit 48 (cmd (canParams 0 0)).params) ≠ fit 18 (canCfg 0 busPart.bank)) ∧
    (hears cmdCanRecover (cmd (canParams 15 128)) .device busPart = true ∧ (canRt 15 busPart).state ≠ 4 ∧
      hears cmdCanRecover (cmd (canParams 15 128)) .device { busPart with buses.can := [(15, { state := 4 })] } = true ∧
      (canRt 15 { busPart with buses.can := [(15, { state := 4 })] }).state = 4 ∧
      guarded .firmware 0 15 0 4096 { busPart with buses.can := [(15, { state := 4 })] } = false ∧ ctlEnabled busPart.bank 0 15 = false) ∧
    (hears cmdUartConfig (cmd (pm [(0, [15]), (4, w 4 12000000)])) .device busPart = true ∧ guarded .firmware 1 15 0 4096 busPart = false ∧
      ctlEnabled busPart.bank 1 15 = false) ∧
    (hears cmdLinConfig (cmd (pm [(0, [3]), (2, w 2 20000), (4, [13, 10, 10])])) .device busPart = true ∧ guarded .firmware 2 3 0 4096 busPart = false ∧
      ctlEnabled busPart.bank 2 3 = false) ∧
    (hears cmdMvbConfig (cmd (pm [(0, [1, 0]), (4, w 2 10)]) [] (w 4 4095)) .device busPart = true ∧ guarded .firmware 3 1 0 4096 busPart = false ∧
      ctlEnabled busPart.bank 3 1 = false ∧ noRepeat ((callEntries (cmd [] [] (w 4 4095))).map entryPort) = true) ∧
    (hears cmdFieldBusState (cmd [0, 15, 0]) .device busPart = true ∧ hears cmdFieldBusState (cmd [1, 15, 1]) .device busPart = true ∧
      hears cmdFieldBusState (cmd [2, 3]) .device busPart = true ∧ hears cmdFieldBusState (cmd [3, 1]) .device busPart = true ∧
      hears cmdFieldBusState (cmd [4, 0, 0]) .device busPart = true ∧ hears cmdFieldBusState (cmd [4, 0, 2]) .device busPart = true) := by decide +kernel

/-- A semaphore held by the PCIe host guards CAN 0 against the firmware. -/
theorem witness_FieldBusCommands_guarded :
    ∃ s : State, hears cmdCanConfig (cmd (canParams 0 0)) .device s = true ∧ guarded .firmware 0 0 0 4096 s = true :=
  ⟨{ busPart with stile.sems := [(31, .pcie 0)]
                  stile.regions := [(0, { size := 4096, ctrl := 0x3F0001 })] }, by decide +kernel⟩

/-! ### Buses, Ploughs, reception -/

/-- A grain and a copy of it for a row. -/
def grain : Grain := { key := 1, stamp := 10, row := 1, len := 8, kind := 1 }
def copy (r : Nat) : Copy := { grain, row := r, release := 20, due := false }

/-- CAN 15: row 0 talker, row 1 listener, both enabled; LIN 3, MVB 1 and UART 15 with talker rows 2, 3, 4. -/
def busesPart : State :=
  { upPart with
    bank := { bind := [(0, img [(0, [1, 1, 15])]), (1, img [(0, [1, 2, 15])]), (2, img [(0, [3, 3, 3])]), (3, img [(0, [4, 1, 1])]),
                       (4, img [(0, [2, 1, 15])])]
              enabled := [0, 1, 2, 3, 4] }
    buses := { can := [(15, { state := 0, integrated := true })] } }

/-- A copy that CAN 15 has taken. -/
def canCopy : Copy := { copy 1 with ctl := some (0, 15) }

/-- The same with a copy on CAN 15's wire, its error counter as given. -/
def sendingPart (tec : Nat) : State :=
  { busesPart with drill.rowWire := [(1, canCopy)], buses := { can := [(15, { state := 0, integrated := true, tec })] } }

/-- A frame of CAN 15. -/
def canFrame : CanFrame := { id := 2047, dlc := 8, data := List.replicate 8 255, stamp := 100 }

theorem witness_CanBus :
    (canOn 15 busesPart = true ∧ canTakes 15 canFrame busesPart = true ∧ loopMode 1 15 busesPart ≠ 1 ∧ ctlRow 0 15 true busesPart = some 0 ∧
      canFrame.rtr = false ∧ busesPart.power.halted = false ∧ spansDisable 0 canFrame.stamp busesPart = false ∧
      bufferFill (.can 15) busesPart + (canRecord (canNorm canFrame)).length ≤ 4096) ∧
    ((canRt 0 busesPart).state = 5 ∧ canMode 15 busesPart.bank ≠ 2 ∧ (canRt 15 busesPart).state ≠ 5) ∧
    (canWireRow 15 (sendingPart 0) = some (1, canCopy) ∧ (sendingPart 0).bank.enabled.contains 1 = true ∧
      canWireRow 15 { sendingPart 0 with bank.enabled := [0] } = some (1, canCopy)) ∧
    (canOn 15 (sendingPart 247) = true ∧ (canRt 15 (sendingPart 247)).tec + 8 ≤ 255 ∧
      (u8 (canCfg 15 (sendingPart 247).bank) 19 = 255 ∨ canCopy.tries < u8 (canCfg 15 (sendingPart 247).bank) 19) ∧
      ctlEnabled (sendingPart 247).bank 0 15 = true ∧ ctlEnabled (sendingPart 248).bank 0 15 = true) ∧
    (canOn 15 (sendingPart 248) = true ∧ 255 < (canRt 15 (sendingPart 248)).tec + 8) ∧
    (let s := { sendingPart 247 with bank.enabled := [0] }
     canOn 15 s = true ∧ canWireRow 15 s = some (1, canCopy) ∧ (canRt 15 s).tec + 8 ≤ 255 ∧ s.bank.enabled.contains 1 = false) ∧
    (127 < (canRt 15 { busesPart with buses := { can := [(15, { state := 0, integrated := true, rxErr := 128 })] } }).rxErr ∧
      canOn 15 { busesPart with buses := { can := [(15, { state := 0, integrated := true, rxErr := 128 })] } } = true) ∧
    (canOn 15 (sendingPart 0) = true ∧ loopMode 1 15 (sendingPart 0) = 0) ∧
    (let s : State := { busesPart with buses := { can := [(15, { state := 4 })] }, bank.can := [(15, img [])] }
     (canRt 15 s).state = 4 ∧ flag (canCfg 15 s.bank) 18 0 = false ∧ (canRt 15 s).forcedManual = false) ∧
    (canRt 15 { busesPart with buses := { can := [(15, { state := 3 })] } }).state = 3 := by decide +kernel

/-- A LIN frame of ID 63. -/
def linFrame (ok : Bool) : LinFrame := { id := 63, parityOk := true, enhanced := true, data := List.replicate 8 1, checksumOk := ok, stamp := 100 }

/-- LIN 3 a commander with a schedule of one slot, or a responder that publishes ID 63. -/
def linPart (responder : Nat) : State :=
  { busesPart with bank.lin := [(3, img [(0, [3, responder]), (8, List.replicate 8 255)] ++ [63, 10])]
                   buses := { lin := [(3, { buffers := [(63, (true, List.replicate 12 1))] })] } }

/-- MVB 1 with sink port 4095 and source port 0. -/
def mvbPart : State :=
  { busesPart with bank.mvb := [(1, img [(0, [1]), (6, w 2 10)] ++ [0xFF, 0x0F, 0, 0, 0, 0x10, 0, 0])]
                   buses := { mvb := [(1, { buffers := [(0, (0, [1, 2]))] })] } }

/-- A slave frame of port 4095. -/
def mvbFrame : MvbFrame := { lineB := true, port := 4095, fcode := 0, data := [1, 2], other := none, stamp := 100 }

theorem witness_LinAndMvbBuses :
    (linOn 3 (linPart 0) = true ∧ (linRt 3 (linPart 0)).slotWaiting = 0 ∧ ctlRow 2 3 true (linPart 0) = some 2 ∧
      (linPart 0).power.halted = false ∧ spansDisable 2 100 (linPart 0) = false ∧ bufferFill (.lin 3) (linPart 0) + (linRecord (linFrame true)).length ≤ 4096) ∧
    ((linFrame true).parityOk = true ∧ (linFrame true).checksumOk = true ∧ (linFrame false).checksumOk = false) ∧
    (linOn 3 (linPart 1) = true ∧ linResponder 3 (linPart 1).bank = true ∧ linPublishes 3 63 (linPart 1).bank = true ∧
      tget 63 (linRt 3 (linPart 1)).buffers = some (true, List.replicate 12 1)) ∧
    (linResponder 3 (linPart 0).bank = false ∧ ctlWire 2 3 (linPart 0) = none ∧
      ctlWire 2 3 { linPart 0 with drill.rowWire := [(2, { copy 2 with ctl := some (2, 3) })] } = some (2, { copy 2 with ctl := some (2, 3) }) ∧
      (linTable 3 (linPart 0)).isEmpty = false ∧
      0 < (linRt 3 { linPart 0 with buses := { lin := [(3, { slotWaiting := 2 })] } }).slotWaiting ∧
      linOn 3 { linPart 0 with buses := { lin := [(3, { slotWaiting := 2 })] } } = true) ∧
    (mvbOn 1 mvbPart = true ∧ mvbFrame.valid = true ∧ spansDisable 3 100 mvbPart = false ∧ mvbFrame.other = none ∧ mvbEntry (mvbCfg 1 mvbPart.bank) 4095 = some [0xFF, 0x0F, 0, 0] ∧
      entrySource [0xFF, 0x0F, 0, 0] = false ∧ mvbNew 1 [0xFF, 0x0F, 0, 0] mvbFrame mvbPart = true ∧ ctlRow 3 1 true mvbPart = some 3 ∧
      mvbPart.power.halted = false ∧ bufferFill (.mvb 1) mvbPart + (mvbRecord mvbFrame).length ≤ 4096) ∧
    (mvbEntry (mvbCfg 1 mvbPart.bank) 0 = some [0, 0x10, 0, 0] ∧ entrySource [0, 0x10, 0, 0] = true ∧
      tget 0 (mvbRt 1 mvbPart).buffers = some (0, [1, 2]) ∧ (mvbRt 1 mvbPart).stale.contains 0 = false ∧
      mvbPart.power.upNs ≤ 0 + 1000000 * u16 (mvbCfg 1 mvbPart.bank) 6 ∧
      0 + 1000000 * u16 (mvbCfg 1 mvbPart.bank) 6 < { mvbPart with power.upNs := 10000001 }.power.upNs ∧
      (mvbRt 1 { mvbPart with buses := { mvb := [(1, { buffers := [(0, (0, [1, 2]))], stale := [0] })] } }).stale.contains 0 = true) ∧
    tget 0 (mvbRt 1 { mvbPart with buses := {} }).buffers = none ∧
    ((mvbRt 1 mvbPart).faultA = false ∧ (mvbRt 1 mvbPart).faultB = false) ∧ u16 (mvbCfg 1 mvbPart.bank) 6 ≠ 0 := by decide +kernel

/-- UART 15 with a record of row 4 in progress. -/
def charPart (r : Rec) : State := { busesPart with ploughs := [(ploughKey (.uart 15), { cur := some r })] }

/-- "$GPGLL,1*4D" and CR, without its LF. -/
def nearlyDone : Rec :=
  { row := 4, stamp := 50, iec := .end_, bytes := [0x24, 0x47, 0x50, 0x47, 0x4C, 0x4C, 0x2C, 0x31, 0x2A, 0x34, 0x44, 0x0D]
    xor := 0x4D, digits := [4, 13], addr := [0x24, 0x47, 0x50, 0x47, 0x4C, 0x4C], framing := defaultFraming }

/-- A record in idle-gap framing. -/
def gapRec : Rec := { row := 4, stamp := 50, bytes := [1, 2], framing := img [(0, [1]), (2, w 2 2080), (6, [12])] }

/-- A record that waits for its only cell, and one that has it. -/
def waitingRec (cls : Nat) : Rec := { row := 4, stamp := 50, bytes := [1, 2, 3], cls, grain := some { grain with row := 4, len := 3 } }
def filledRec : Rec := { waitingRec 2 with cells := [32767], written := 3 }
def cellPart (r : Rec) : State := { busesPart with ploughs := [(ploughKey (.uart 15), { done := [r] })] }

def gets : Take → Bool
  | .got _ _ => true
  | _ => false

theorem take_of_gets {t : Take} (h : gets t = true) : ∃ c s, t = .got c s := by
  cases t with
  | got c s => exact ⟨c, s, rfl⟩
  | wait => cases h
  | refuse => cases h

def refuses : Take → Bool
  | .refuse => true
  | _ => false

def waits : Take → Bool
  | .wait => true
  | _ => false

/-- Every cell of the shared part is charged to the Bulk class; or no bank is in service. -/
def noBanks : State := { busesPart with gran.map := (List.range 128).map (fun l => (l, 255)), gran.state := [] }

theorem witness_UartSentencesAndPloughCells :
    (busesPart.power.state = .growing ∧ busesPart.power.halted = false ∧ rs485 15 busesPart.bank = false ∧ ctlEnabled busesPart.bank 1 15 = true ∧
      (ploughOf (.uart 15) busesPart).cur = none ∧ (ploughOf (.uart 15) busesPart).done = [] ∧ ctlRow 1 15 true busesPart = some 4 ∧
      userFraming (framingOf 4 busesPart) = false ∧ starter 0x5C = true ∧ starter 0x24 = true) ∧
    ((ploughOf (.uart 15) (charPart nearlyDone)).cur = some nearlyDone ∧ userFraming nearlyDone.framing = false ∧
      iecStep nearlyDone 0x0A = .done { nearlyDone with bytes := nearlyDone.bytes ++ [0x0A] } ∧
      nearlyDone.bytes.length < framingMax nearlyDone.framing ∧ checksumBad nearlyDone = false ∧ nearlyDone.tagBad = false ∧ nearlyDone.csAbsent = false ∧
      nearlyDone.bareLf = false ∧ nearlyDone.disabled = false ∧ nearlyDone.skip = false) ∧
    (iecStep { nearlyDone with iec := .body } 0x2C = .go { nearlyDone with iec := .body, xor := 0x61, bytes := nearlyDone.bytes ++ [0x2C] } ∧
      (nearlyDone.bytes ++ [0x2C]).length < framingMax nearlyDone.framing) ∧
    u16 (patch nearlyDone.framing 4 (le 2 1000)) 4 ≠ 0 ∧
    ((ploughOf (.uart 15) (charPart gapRec)).cur = some gapRec ∧ userFraming gapRec.framing = true ∧ ufEndMode gapRec.framing = 3 ∧
      gapRec.skip = false ∧ gapRec.esc = false ∧ gapRec.disabled = false) ∧
    (busesPart.harrow.inReset = false ∧ cellsOpen (.uart 15) (cellPart (waitingRec 0)) = true ∧
      (ploughOf (.uart 15) (cellPart (waitingRec 0))).done.zipIdx.find? (fun e => needsCell e.1) = some (waitingRec 0, 0) ∧
      gets (takeCell 0 (cellPart (waitingRec 0))) = true) ∧
    (∀ c, c = 0 ∨ c = 3 → let s : State := { noBanks with ploughs := (cellPart (waitingRec c)).ploughs }
      cellsOpen (.uart 15) s = true ∧ (c = 0 ∨ beaconCell (.uart 15) s = false) ∧
      (ploughOf (.uart 15) s).done.zipIdx.find? (fun e => needsCell e.1) = some (waitingRec c, 0) ∧
      (if c = 3 then refuses (takeCell 3 s) else waits (takeCell 0 s)) = true) ∧
    (let s : State := { cellPart (waitingRec 2) with ploughs := [(ploughKey (.uart 15), { done := [waitingRec 2] }), (ploughKey (.uart 14), { done := [waitingRec 0] })] }
     cellRec (ploughOf (.uart 15) s) = some (waitingRec 2) ∧ (waitingRec 2).cls ≠ 0 ∧ beaconCell (.uart 15) s = true) ∧
    ((waitingRec 3).cls ≠ 0 ∧ beaconCell (.uart 15) (cellPart (waitingRec 3)) = false ∧
      16 ≤ (ploughOf (.uart 15) { busesPart with ploughs := [(ploughKey (.uart 15), { crossing := List.replicate 16 grain })] }).crossing.length) ∧
    ((ploughOf (.uart 15) (cellPart filledRec)).done = [filledRec] ∧ filledRec.grain = some { grain with row := 4, len := 3 } ∧
      (ploughOf (.uart 15) (cellPart filledRec)).crossing.length < 16 ∧ filledRec.bytes.length ≤ filledRec.written ∧ filledRec.inFifo = false ∧
      filledRec.control = false ∧ { filledRec with control := true }.control = true ∧ (cellPart filledRec).harrow.stalled.contains (.plough (ploughKey (.uart 15))) = false) := by
  refine ⟨by decide +kernel, by decide +kernel, by decide +kernel, by decide +kernel, by decide +kernel, by decide +kernel, ?_, by decide +kernel, by decide +kernel, by decide +kernel⟩
  rintro c (rfl | rfl) <;> decide +kernel

/-- Port 1 Up. -/
def rxPart : State :=
  { upPart with ports := { config := [(1, img [(0, [1, 0, 0, 1]), (12, w 2 1522), (14, w 2 1)])], rt := [(1, { link := true, speed := 5 })] } }

/-- A unicast frame of 60 bytes. -/
def rxFrame : RxFrame := { bytes := [2, 0, 0, 0, 0, 1, 2, 0, 0, 0, 0, 2, 0x08, 0] ++ List.replicate 46 0, wireLen := 64, stamp := 100 }

theorem witness_EthernetReception :
    (rxPart.power.state = .growing ∧ portUp 1 rxPart = true ∧ looped 1 rxPart = false) ∧
    (flawCounter 1 { rxFrame with wireLen := 63 } rxPart = some 7 ∧ deliverFlawed 1 rxPart = false) ∧
    (flawCounter 1 rxFrame rxPart = none ∧ uncontrolled rxFrame.bytes = false ∧ rxPart.keys.protRx.contains 1 = false ∧ rxFrame.parityErr = false ∧
      (match rxFilter 1 rxFrame.bytes rxPart with | .switch => true | _ => false) = true ∧ rxPart.power.halted = false ∧
      bufferFill (.eth 1) rxPart + rxFrame.bytes.length ≤ 32768) ∧
    uncontrolled ([1, 0x80, 0xC2, 0, 0, 1, 2, 0, 0, 0, 0, 2, 0x88, 0x08]) = true ∧
    (let s : State := { rxPart with ports := { rxPart.ports with config := [(1, img [(0, [1, 0, 0, 5]), (12, w 2 1522), (14, w 2 1)])] } }
     portUp 1 s = true ∧ (match rxFilter 1 rxFrame.bytes s with | .drop => true | _ => false) = true) := by decide +kernel

/-! ### Ports, Harrow and Drill, the working clock -/

/-- Port 9 enabled in lane mode 5 with a hold-off, its pause settings and its runtime as given. -/
def linkPart (hold : Nat) (pause : List (Nat × List Nat)) (r : PortRt) : State :=
  { upPart with ports := { config := [(9, img [(0, [9, 0, 0, 1]), (12, w 2 1522), (14, w 2 1), (20, w 2 hold)])], lanes := [(6, 5)]
                           pauseCfg := [(9, img (pause ++ [(0, [9])]))], rt := [(9, r)] } }

/-- A priority-based pause message that names every priority. -/
def pfcMsg : PauseMsg := { pfc := true, enables := 255, times := List.replicate 8 65535 }

theorem witness_PortLinkVerifyAndPause :
    (let s := linkPart 0 [] {}
     s.power.state = .growing ∧ portPresent 9 s = true ∧ portEnabled 9 s = true ∧ looped 9 s = false ∧ speedOffered (laneMode (laneOf 9) s) 3 = true ∧
      speedMismatch 9 3 s = false ∧ (portRt 9 s).link = false) ∧
    (let s := linkPart 0 [] { link := true, speed := 3 }
     (portRt 9 s).link = true ∧ (portRt 9 s).lossPending = false ∧ holdOff 9 s = 0) ∧
    (let s := linkPart 65535 [] { link := true, speed := 3 }
     (portRt 9 s).link = true ∧ (portRt 9 s).lossPending = false ∧ holdOff 9 s ≠ 0) ∧
    (portRt 9 (linkPart 1 [] { link := true, lossPending := true })).lossPending = true ∧
    portUp 9 (linkPart 0 [] { link := true }) = true ∧
    (let s := linkPart 0 [] { link := true, verify := 2 }
     (portRt 9 s).verify = 2 ∧ portUp 9 s = true ∧ (portRt 9 s).attempts = 0) ∧
    (let s := linkPart 0 [] { link := true, verify := 2, attempts := 1 }
     (portRt 9 s).verify = 2 ∧ portUp 9 s = true ∧ (portRt 9 s).attempts ≠ 0 ∧ looped 9 s = false ∧
      looped 9 { s with buses.loopback := [(9, 1)] } = true ∧ portUp 9 { s with buses.loopback := [(9, 1)] } = true) ∧
    (let s := linkPart 0 [(1, [2]), (3, [255])] { link := true, speed := 3 }
     portUp 9 s = true ∧ looped 9 s = false ∧ pauseMode 9 s = (if pfcMsg.pfc then 2 else 1) ∧ pauseTime 9 7 pfcMsg s = some 65535 ∧ immune 9 7 s = false ∧
      (pauseOf 9 7 s).state ≠ 2 ∧ pauseMode 9 s ≠ 1) ∧
    (let s := linkPart 0 [(1, [1]), (3, [255])] { link := true, speed := 3 }
     portUp 9 s = true ∧ pauseMode 9 s = 1 ∧ pauseTime 9 0 { pfcMsg with pfc := false } s = some 65535 ∧ immune 9 0 s = false ∧
      pauseMode 9 s ≠ (if pfcMsg.pfc then 2 else 1)) ∧
    (let s := linkPart 0 [(1, [2]), (8, w 4 1)] { pause := [(7, { state := 1 })] }
     pauseMode 9 s ≠ 1 ∧ (pauseOf 9 7 s).state = 1 ∧ u32 (pauseCfg 9 s) 8 ≠ 0) ∧
    (pauseOf 9 0 (linkPart 0 [(1, [2])] { pause := [(0, { state := 2 })] })).state = 2 ∧
    (let s := linkPart 0 [(1, [1])] { pause := [(7, { state := 1 })] }
     pauseMode 9 s = 1 ∧ (pauseOf 9 7 s).state = 1) ∧
    (let s := linkPart 0 [(2, [1]), (6, [0])] { link := true, pauseSent := 255 }
     (portRt 9 s).pauseSent ≠ 0 ∧ portUp 9 s = true ∧ u8 (pauseCfg 9 s) 2 = 1 ∧ u8 (pauseCfg 9 s) 6 * 1024 ≤ bufferFill (.eth 9) s ∧
      tget 9 s.drill.portWire = none ∧ looped 9 s = false ∧ (furrowRt 9 s).oper = none ∧ (furrowRt 9 (setFurrow 9 { oper := some [] } s)).oper.isSome = true ∧
      (portRt 9 (setFurrow 9 { oper := some [] } s)).pauseSent ≠ 0) ∧
    (let s := linkPart 0 [(2, [2]), (6, [0])] { link := true, pauseSent := 128 }
     (portRt 9 s).pauseSent ≠ 0 ∧ portUp 9 s = true ∧ u8 (pauseCfg 9 s) 2 = 2 ∧
      (portRt 9 s).pauseSent &&& prioSet 9 (fun n => decide (u8 (pauseCfg 9 s) 6 * 1024 ≤ n)) s = 128) := by
  decide +kernel

/-- A frame of 60 bytes that waits for port 1 in class 7, or is on its wire. -/
def frameCopy : Copy :=
  { grain := { key := 9, stamp := 0, row := 0, len := 60, kind := 15 }, row := 512, port := 1, release := 0, due := true, tc := 7 }

/-- Port 1 Up, preemption on without verify for class 7, a Furrow list in force. -/
def txPart : State :=
  { upPart with ports := { config := [(1, img [(0, [1, 0, 0, 1]), (12, w 2 1522), (14, w 2 1)])], preempt := [(1, img [(0, [1, 1, 128])])]
                           rt := [(1, { link := true, speed := 5 })] } }

/-- A Furrow list of one entry. -/
def oneFurrow : Img := img [(8, w 4 1000000000), (12, w 4 1000000000), (16, w 2 1)] ++ ([255, 0, 0, 0] ++ w 4 128).map byte

/-- UART 15's talker row 5, sending. -/
def uartCopy : Copy := { grain := { key := 1, stamp := 0, row := 5, len := 3, kind := 5 }, row := 5, release := 0, due := true, out := [1, 2, 3], ctl := some (1, 15) }

theorem witness_PortTransmission :
    (let s := { txPart with drill := { ports := [(1, [frameCopy])] } }
     let s1 := countPaused 1 (sendPauses 1 (updateCredits 1 s))
     forwards s = true ∧ portUp 1 s = true ∧ s.keys.waiting.contains 1 = false ∧ tget 1 s.drill.portWire = none ∧ tget 1 s.drill.portHeld = none ∧
      nextFrame 1 s1 = some frameCopy ∧ frameLen frameCopy ≤ maxLen 1 7 s.bank ∧ s.keys.protTx.contains 1 = false) ∧
    (forwards { txPart with keys.waiting := [1] } = true ∧ portUp 1 { txPart with keys.waiting := [1] } = true) ∧
    (forwards upPart = true ∧ portUp 1 upPart = false) ∧
    (let s := { txPart with drill := { portWire := [(1, { frameCopy with out := [1] })] } }
     tget 1 s.drill.portWire = some { frameCopy with out := [1] } ∧ looped 1 s = false ∧ frameCopy.own = false ∧ frameCopy.stomp = false ∧
      preemptActive 1 s = true ∧ cutReady 1 { frameCopy with out := [1] } s = false) ∧
    (let c : Copy := { frameCopy with out := [1], wireLen := 1522 }
     let s := { txPart with drill := { portWire := [(1, c)] }, alm := { ns := 500 } }
     preemptActive 1 s = true ∧ tget 1 s.drill.portWire = some c ∧ cutReady 1 c s = true) ∧
    (let s := { txPart with drill := { portWire := [(1, { frameCopy with tc := 6 })] } }
     preemptActive 1 s = true ∧ tget 1 s.drill.portWire = some { frameCopy with tc := 6 } ∧ cutReady 1 { frameCopy with tc := 6 } s = false) ∧
    (let s : State := { upPart with bank := { bind := [(5, img [(0, [2, 2, 15])])], enabled := [5] }, drill := { rowWire := [(5, uartCopy)] } }
     tget 5 s.drill.rowWire = some uartCopy ∧ uartCopy.ctl = some (1, 15) ∧ loopMode 2 15 s = 0) ∧
    (let c : Copy := { uartCopy with ctl := some (2, 3) }
     let s : State := { upPart with drill := { rowWire := [(5, c)] } }
     tget 5 s.drill.rowWire = some c ∧ (linRt 3 s).slotWaiting = 0) ∧
    (let s := setFurrow 1 { oper := some oneFurrow } txPart
     (furrowRt 1 s).oper = some oneFurrow ∧ (furrowRt 1 s).remove = none) ∧
    (preemptActive 1 txPart = true ∧ tget 1 txPart.drill.portWire = none) ∧
    (furrowRt 1 (setFurrow 1 { change := some 0 } txPart)).change.isSome = true := by decide +kernel

/-- A grain of row 255 with key 7 at the head of UART 15's crossing FIFO. -/
def crossGrain : Grain := { key := 7, stamp := 100, row := 255, len := 3, kind := 5, ingress := 2 }

/-- A route of row 255 and key 7: set 1023, class Bulk. -/
def bulkRoute : Img := img [(0, w 8 7), (16, w 2 255), (20, [255, 3, 3])]

/-- UART 15's Plough hands over one grain. -/
def crossing (g : Grain) (routes : Tbl Img) : State :=
  { upPart with bank := { bind := [(255, img [(0, [2, 1, 15])])], enabled := [255], routes }
                ploughs := [(ploughKey (.uart 15), { crossing := [g] })] }

/-- A frame for a station known on port 9, received on port 1. -/
def frameGrain : Grain := { key := 7, stamp := 100, row := 0, len := 60, kind := 15, ingress := 3, port := 1 }

/-- Its entry: frame flag, port 9. -/
def frameRoute : Img := img [(0, w 8 7), (17, [2]), (20, [0, 2, 0])]

/-- Team 63 serves through row 511; row 0 stands by. -/
def servingTeam : TeamRt :=
  { state := .serving, active := some 511, members := [{ row := 511, rank := 0, health := .healthy }, { row := 0, rank := 1, health := .healthy }] }
def teamPart : State := { upPart with harrow.teams := [(63, servingTeam)] }

theorem witness_HarrowAndTeams :
    (let s := crossing crossGrain [(0, bulkRoute)]
     (ploughOf (.uart 15) s).crossing = [crossGrain] ∧ harrowReady (.uart 15) s = true ∧ lookup crossGrain s.bank = some (0, bulkRoute) ∧
      tget 0 s.bank.routes = some bulkRoute ∧ reClass bulkRoute = 3 ∧ reSieves bulkRoute = 0 ∧ reTeam bulkRoute = none ∧ reThinMode bulkRoute = 0 ∧
      s.bank.rules = [] ∧ ingressZone crossGrain s < 8 ∧ s.bank.within.getLsbD (ingressZone crossGrain s) = true ∧
      releaseOf bulkRoute 100 s ≤ nowNs s + farLimit ∧ handoffRoom 3 s = true ∧ beaconWaits s = false ∧ crossGrain.tallyDrop = false ∧
      bulkRoute.length = 48 ∧ u8 bulkRoute 38 / 32 % 2 = 0 ∧
      handoffRoom 3 { s with harrow.handoff := [(3, List.replicate 70 { grain := crossGrain, route := 0, copy := false, due := true, permit := 255 })] } = false) ∧
    (let s := { crossing crossGrain [] with ploughs := [(ploughKey (.uart 15), { crossing := [crossGrain] }),
                                                        (ploughKey (.can 0), { crossing := [{ crossGrain with ingress := 0 }] })] }
     (ploughOf (.uart 15) s).crossing = [crossGrain] ∧ harrowReady (.uart 15) s = true ∧ crossGrain.ingress ≠ 0 ∧ beaconWaits s = true ∧
      beaconFirst s [] [crossGrain] = false) ∧
    (crossGrain.remote = false ∧ crossGrain.ingress ≠ 0 ∧
      [(⟨0, sub bulkRoute 16 28⟩ : LookupResult)].getD 0 (resultOf (lookup crossGrain (crossing crossGrain [(0, bulkRoute)]).bank)) =
        resultOf (lookup crossGrain (crossing crossGrain [(0, bulkRoute)]).bank)) ∧
    (let s := crossing crossGrain []
     lookup crossGrain s.bank = none ∧ tget 0x3FFF s.bank.routes = none ∧ u8 (bindOf 255 s) 13 ≠ 1 ∧ u8 (bindOf 255 s) 13 ≠ 2 ∧ harrowReady (.uart 15) s = true) ∧
    (let s := crossing { crossGrain with void := true } []
     lookup { crossGrain with void := true } s.bank = none) ∧
    (let s := { crossing crossGrain [(0, frameRoute)] with ploughs := [(ploughKey (.eth 1), { crossing := [frameGrain] })] }
     (ploughOf (.eth 1) s).crossing = [frameGrain] ∧ harrowReady (.eth 1) s = true ∧ exactFind s.bank 0 true 7 = some (0, frameRoute) ∧
      reHostFrame frameRoute = false ∧ rePorts frameRoute - (rePorts frameRoute &&& 2 ^ 1) ≠ 0 ∧ ingressZone frameGrain s < 8 ∧
      s.bank.within.getLsbD (ingressZone frameGrain s) = true ∧ handoffRoom 3 s = true ∧ beaconWaits s = false ∧ frameGrain.reserved = false) ∧
    (let s := teamPart
     (teamOf 63 s).pending = none ∧ ((teamOf 63 s).members.find? (fun x => x.row == 511)) = some { row := 511, rank := 0, health := .healthy } ∧
      ((teamOf 63 s).members.find? (fun x => x.row == 0)) = some { row := 0, rank := 1, health := .healthy } ∧ (teamOf 63 s).state = .serving ∧
      (teamOf 63 s).active = some 511) := by decide +kernel

/-- A hand-off for set 1, which names row 511. -/
def handed : HandOff := { grain := { crossGrain with cls := 3, lset := 1 }, route := 0, copy := false, due := true, permit := 255 }

/-- Row 511 a listener of Eulyn (kind 7), row 510 of CAN 15. -/
def drillPart : State :=
  { upPart with bank := { bind := [(510, img [(0, [1, 2, 15])]), (511, img [(0, [7, 2])])], enabled := [510, 511]
                          lsets := [(1, { cur := BitVec.ofNat 512 (2 ^ 511) })] }
                harrow.handoff := [(3, [handed])] }

/-- A due copy for a row with its bytes read out. -/
def dueCopy (r : Nat) : Copy :=
  { grain := { crossGrain with cls := 3, kind := 1 }, row := r, release := 0, due := true, out := [0, 0, 0, 1] ++ List.replicate 13 0 }

/-- The pool has an entry for row 511 in class Bulk. -/
theorem witness_DrillQueues :
    (let s := drillPart
     handoffOf 3 s = [handed] ∧ tallyStalled handed s = false ∧ handoffOf 0 s = [] ∧ namedRows handed s = [511] ∧ listens 511 s = true ∧
      rowKind 511 s ≠ 9 ∧ rowKind 511 s ≠ 5 ∧ handed.permit.getLsbD (rowZone 511 s) = true ∧ s.harrow.inReset = false ∧
      s.harrow.stalled.contains (.drill 3) = false ∧ handed.tally / 32 % 2 = 0 ∧ handed.missRing = false ∧ handed.grain.row ≠ 511 ∧ poolGrant 3 s = some false) ∧
    (let s := { drillPart with drill := { rows := [(511, [dueCopy 511])] } }
     forwards s = true ∧ ringOf 511 s = none ∧ nextCopy 511 s = some (dueCopy 511) ∧ tget 511 s.drill.rowWire = none ∧ rowKind 511 s = 7 ∧
      (readCopy (dueCopy 511) .clean (unqueue 511 (dueCopy 511) s)).1 = some (dueCopy 511)) ∧
    (let s := { drillPart with drill := { rows := [(510, [dueCopy 510])] }, buses := { can := [(15, { state := 2, integrated := true })] } }
     ringOf 510 s = none ∧ nextCopy 510 s = some (dueCopy 510) ∧ rowKind 510 s = 1 ∧ ctlWire 0 (rowInst 510 s) s = none ∧
      (readCopy (dueCopy 510) .clean (unqueue 510 (dueCopy 510) s)).1 = some (dueCopy 510) ∧ (canRt (rowInst 510 s) s).state ≤ 2 ∧
      fld (canCfg (rowInst 510 s) s.bank) 1 2 2 = 0 ∧ canSuits (rowInst 510 s) (dueCopy 510).grain (dueCopy 510).out s.bank = true) ∧
    (let s := { drillPart with drill := { rows := [(509, [dueCopy 509])] }
                               bank := { drillPart.bank with bind := [(509, img [(0, [2, 2, 15])])], enabled := [509] } }
     ringOf 509 s = none ∧ nextCopy 509 s = some (dueCopy 509) ∧ tget 509 s.drill.rowWire = none ∧ rowKind 509 s = 2 ∧
      rs485 (rowInst 509 s) s.bank = false ∧ wireFree 509 (dueCopy 509).grain.cls s = true ∧
      (readCopy (dueCopy 509) .clean (unqueue 509 (dueCopy 509) s)).1 = some (dueCopy 509) ∧ flag (uartCfg (rowInst 509 s) s.bank) 1 0 = false) ∧
    (let s := { txPart with field.roster := [(63, { serial := 1, port := 1, addr := 5 })], drill := { sheafs := [(4 * 63 + 2, {})] } }
     tget (4 * 63 + 2) s.drill.sheafs = some {} ∧ tget 63 s.field.roster = some { serial := 1, port := 1, addr := 5 } ∧
      sheafPort 63 { s.bank with sheaf := some ({} : OpenSheaf).settings } s = some 1 ∧ portUp 1 s = true) := by decide +kernel

/-! ### Time at work, rings, event and queue registers -/

/-- Ports 8 and 9 Up in lane mode 5, port 9 the slave port of domain 0, the clock as given. -/
def clockPart (a : Almanac) : State :=
  { upPart with ports := { config := [(8, img [(0, [8, 0, 0, 1])]), (9, img [(0, [9, 0, 0, 1])])], lanes := [(6, 5)]
                           rt := [(8, { link := true, speed := 3 }), (9, { link := true, speed := 3 })] }
                alm := a }

/-- A Sync of a domain with an origin that lies `θ` behind its receipt. -/
def syncMsg (dom : Nat) (θ : Int) : SyncMsg := { domain := dom, t2 := 1000000000, origin := 1000000000 - θ, correction := 0, ratePpb := 0 }

/-- A selection that makes port 9 the slave port and port 8 a master port. -/
def sel : BestMaster := { isGm := false, gmId := 77, slave := some 9, masters := [8] }

/-- A suspect open on port 9, with the results since. -/
def suspectPart (l : List Int) : State := clockPart { ports := [(9, { suspect := true, since := l })] }

theorem witness_WorkingClock :
    (let s := clockPart { state := .locked, slavePort := some 9 }
     s.power.state = .growing ∧ gptpOn 9 0 s = true ∧ s.alm.exchange.map (·.1) ≠ some 0 ∧ s.alm.working = 0 ∧ s.alm.slavePort = some 9 ∧
      s.alm.grandmaster = false ∧ servoSource s = 0 ∧ (gport 9 s).suspect = false ∧ s.alm.gmPending = false ∧
      beyondStep (syncOffset 9 (syncMsg 0 1000) s) s = false ∧ beyondStep (syncOffset 9 (syncMsg 0 1001) s) s = true ∧
      s.alm.outlierRun + 1 < u8 (servoCfg s) 1) ∧
    (let s := clockPart { relSlave := some 9 }
     gptpOn 9 1 s = true ∧ s.alm.exchange.map (·.1) ≠ some 1 ∧ (1 : Nat) ≠ s.alm.working ∧ s.alm.relayed = 1 ∧ s.alm.relSlave = some 9) ∧
    (let s := clockPart { exchange := some (1, 0) }
     gptpOn 9 1 s = true ∧ s.alm.exchange = some (1, 0) ∧ s.alm.relSlave ≠ some 9) ∧
    (let s := clockPart {}
     gptpAny 9 s = true ∧ (800 : Int) ≤ u32 (timePort 9 s) 8 ∧ (gport 9 s).suspect = false ∧ (gport 9 s).filtered = none) ∧
    (let s := clockPart { ports := [(9, { filtered := some 100 })], slavePort := some 9, state := .locked }
     (gport 9 s).filtered = some 100 ∧ (gport 9 s).suspect = false ∧ (u16 (asymCfg 9 s) 8 : Rat) < |((151 : Int) : Rat) - 100| ∧
      (151 : Int) ≤ u32 (timePort 9 s) 8 ∧ s.alm.slavePort = some 9 ∧ s.alm.state = .locked) ∧
    (gptpAny 9 (suspectPart []) = true ∧ (103 : Int) ≤ u32 (timePort 9 (suspectPart [])) 8 ∧ (gport 9 (suspectPart [])).suspect = true ∧
      (gport 9 (suspectPart [])).since.length < 3 ∧
      3 ≤ (gport 9 (suspectPart [100, 101, 102])).since.length ∧
      consistent (u8 (asymCfg 9 (suspectPart [100, 101, 102])) 10) (103 :: (gport 9 (suspectPart [100, 101, 102])).since) = true ∧
      consistent (u8 (asymCfg 9 (suspectPart [100, 200, 300])) 10) (103 :: (gport 9 (suspectPart [100, 200, 300])).since) = false) := by decide +kernel

theorem witness_WorkingClock_announces :
    u32 (timePort 9 (clockPart {})) 8 < (801 : Int) ∧
    (let s := clockPart {}
     s.stw.up = true ∧ s.alm.working = 0 ∧ (0 : Nat) ≠ s.alm.relayed ∧ gptpOn 9 0 s = true ∧ sel.isGm = false ∧ s.alm.grandmaster = false ∧
      s.alm.relayed = 1 ∧ gptpOn 9 1 s = true ∧ gptpAny 9 s = true) ∧
    (let s := clockPart {}
     gptpOn 9 s.alm.working s = true ∧ ({ sel with isGm := true } : BestMaster).isGm = true ∧ s.alm.grandmaster = false ∧ servoSource s = 0) ∧
    (let s := clockPart { grandmaster := true, ports := [(9, { master := true })] }
     s.alm.grandmaster = true ∧ (gport 9 s).master = true ∧ gptpOn 9 s.alm.working s = true ∧ s.stw.up = true ∧ announceDue 9 s = true) ∧
    (let s := clockPart { ports := (List.range 10).map (fun q => (q, { announced := some 0 })) }
     ∀ q, q < 10 → announceDue q s = false) ∧
    (let s := clockPart { state := .locked }
     servoSource s = 0 ∧ s.alm.state = .locked ∧ s.alm.grandmaster = false) ∧
    (let s := { clockPart { state := .locked } with servo := some (img [(0, [1])]) }
     servoSource s = 1 ∧ s.alm.state = .locked ∧ s.alm.grandmaster = false) ∧
    (clockPart { state := .holdover }).alm.state = .holdover := by decide +kernel

/-- Alarm 0 single or with a period, armed at 5; pin 39 captures both edges, with as many entries as given. -/
def pinPart (period entries : Nat) (acts : Nat := 1) : State :=
  { upPart with alm := { lastPps := some 0, state := .holdover, alarms := [(0, { img := img [(2, [acts, 5]), (16, w 8 period)], next := some 5 })] }
                bank.pins := List.replicate 39 0 ++ [3#8] ++ List.replicate 47 0 ++ [16#8]
                buses.pins.captures := [(39, List.replicate entries (1, true, false))] }

theorem witness_PpsAlarmsAndCaptures :
    (upPart.power.state = .growing ∧ upPart.stw.ops = [] ∧ upPart.alm.lastPps = none ∧ servoSource upPart ≠ 1) ∧
    (upPart.alm.lastPps = none ∧ servoSource { upPart with servo := some (img [(0, [1])]) } = 1) ∧
    ((pinPart 0 0).alm.lastPps = some 0 ∧ (pinPart 0 0).power.upNs < 0 + 500000000 ∧ synced (pinPart 0 0) = true ∧ ppsOn (pinPart 0 0) = true ∧ ppsOn upPart = false ∧ alarmPulses (pinPart 0 0) = false) ∧
    (∀ a, a ∈ [1, 2, 4, 8] → ∀ per, per ∈ [0, 1000] →
      tget 0 (pinPart per 0 a).alm.alarms = some { img := img [(2, [a, 5]), (16, w 8 per)], next := some 5 } ∧
      u8 (img [(2, [a, 5]), (16, w 8 per)]) 2 = a) ∧
    (u8 (pinPart 0 0 4).bank.pins (u8 (img [(2, [4, 5])]) 3) ≠ 4 ∧
      u8 { pinPart 0 0 4 with bank.pins := List.replicate 5 0 ++ [4] }.bank.pins (u8 (img [(2, [4, 5])]) 3) = 4) ∧
    (u8 (pinPart 0 3).bank.pins 39 = 3 ∧ capturesEdge 39 true (pinPart 0 3).bank = true ∧
      (tgetD 39 [] (pinPart 0 3).buses.pins.captures).length < 4) ∧
    (u8 (pinPart 0 4).bank.pins 39 = 3 ∧ capturesEdge 39 true (pinPart 0 4).bank = true ∧
      4 ≤ (tgetD 39 [] (pinPart 0 4).buses.pins.captures).length) := by decide +kernel

/-- Settings of a ring of 64 descriptors, in buffers of 256 bytes where it receives. -/
def ringParams (n unit : Nat) : List Nat := pm [(0, [n, 0]), (2, w 2 64), (4, w 4 unit), (8, w 8 4096)]

/-- Transmit ring 16 with one descriptor, receive ring 15 with the descriptors given and a copy on its wire; row 511 talks through 16. -/
def ringPart (free : Nat) : State :=
  { upPart with
    rings := [(15, { create := img [(2, w 2 64), (4, w 4 256)], enabled := true, head := 63, tail := (63 + free) % 64 })
              , (16, { create := img [(2, w 2 64)], enabled := true, head := 63, tail := 0 })]
    hold := { upPart.hold with pcieUp := true, busMaster := true }
    bank := { bind := [(511, img [(0, [6, 1, 0])])], enabled := [511] }
    drill := { rowWire := [(527, { copy511 with out := List.replicate 257 1 })] } }
where copy511 : Copy := { grain := { key := 1, stamp := 0, row := 1, len := 257, kind := 1 }, row := 527, release := 0, due := true }

/-- The item on ring 15's wire. -/
def ringCopy : Copy := { ringPart.copy511 with out := List.replicate 257 1 }

/-- A transmit descriptor: one item of 3 bytes that ends here; and receive descriptors. -/
def txDesc : Bytes := fit 32 (img [(8, w 8 9), (24, w 2 3), (26, w 2 511), (28, [16])])
def rxDesc : Bytes := List.replicate 32 0

/-- A ring that waits, and one with completed items that were not notified. -/
def waitingRing : Ring := { create := img [(2, w 2 64), (4, w 4 256)], enabled := true, waiting := true }
def dueRing : Ring := { create := img [(2, w 2 64), (4, w 4 256)], enabled := true, unnotified := 1, moder := img [(1, [2])] }

theorem witness_HostRings :
    (hears cmdRingCreate (cmd (ringParams 15 256)) .device upPart = true ∧ tget 15 upPart.rings = none) ∧
    (hears cmdRingCreate (cmd (ringParams 31 0)) .device upPart = true ∧ tget 31 upPart.rings = none ∧ ringTalker 31 upPart = none) ∧
    (hears cmdRingCreate (cmd (ringParams 15 256)) .device (ringPart 1) = true ∧ (tget 15 (ringPart 1).rings).isSome = true) ∧
    (hears cmdRingDestroy (cmd [31]) .device upPart = true ∧ tget 31 upPart.rings = none) ∧
    (hears cmdRingDestroy (cmd [16]) .device (ringPart 1) = true ∧ (tget 16 (ringPart 1).rings).isSome = true ∧
      (ringInUse 16 (ringPart 1) || ringNamed 16 (ringPart 1)) = true) ∧
    (hears cmdRingDestroy (cmd [15]) .device (ringPart 1) = true ∧ (tget 15 (ringPart 1).rings).isSome = true ∧
      (ringInUse 15 (ringPart 1) || ringNamed 15 (ringPart 1)) = false) ∧
    (hears cmdRingModeration (cmd (pm [(0, [15, 1]), (2, w 2 1), (4, w 4 1), (28, w 4 10)])) .device (ringPart 1) = true ∧
      hears cmdRingModeration (cmd (pm [(0, [15, 1]), (2, w 2 1), (4, w 4 1), (28, w 4 10)])) .device upPart = true) ∧
    (let s := ringPart 0
     let v := ringAt 16 s
     tget 16 s.rings = some v ∧ dmaOk s = true ∧ flag v.create 1 0 = false ∧ v.enabled = true ∧ s.power.state = .growing ∧
      s.power.halted = false ∧ s.harrow.inReset = false ∧ 1 ≤ ringFree v ∧ flag txDesc 28 4 = true ∧ txDescOk true txDesc = true ∧
      flag txDesc 28 0 = false ∧ ringTalker 16 s = some 511 ∧ fld txDesc 26 0 9 = 511 ∧ s.bank.enabled.contains 511 = true ∧
      (List.take (u16 txDesc 24) ([1, 2, 3, 4] : Bytes)).length = 3 ∧ bufferFill .pcie s + 3 ≤ 32768 ∧ flag (patch txDesc 29 [1]) 28 4 = true ∧
      txDescOk true (patch txDesc 29 [1]) = false) ∧
    (let s := ringPart 1
     let v := ringAt 15 s
     tget 15 s.rings = some v ∧ v.enabled = true ∧ tget 527 s.drill.rowWire = some ringCopy ∧ ringFree v < ringNeed v ringCopy.out.length) ∧
    (let s := ringPart 2
     let v := ringAt 15 s
     tget 15 s.rings = some v ∧ dmaOk s = true ∧ v.enabled = true ∧ tget 527 s.drill.rowWire = some ringCopy ∧
      ringNeed v ringCopy.out.length ≤ ringFree v ∧ ringNeed v ringCopy.out.length = [rxDesc, rxDesc].length ∧
      [rxDesc, rxDesc].all rxDescOk = true ∧ maxPayload s * 1 < ((ringCopy.out.drop (ringUnit v * 0)).take (ringUnit v)).length ∧ [rxDesc, patch rxDesc 31 [1]].all rxDescOk = false) ∧
    (let s := { ringPart 1 with rings := [(15, waitingRing), (16, { waitingRing with enabled := false })] }
     tget 15 s.rings = some waitingRing ∧ tget 527 s.drill.rowWire = some ringCopy ∧ waitingRing.waiting = true ∧ dmaOk s = true) ∧
    (let s := { ringPart 1 with rings := [(15, dueRing)] }
     tget 15 s.rings = some dueRing ∧ tget 527 s.drill.rowWire = some ringCopy ∧ dueRing.waiting = false ∧ 0 < dueRing.unnotified ∧
      flag (moderOf dueRing) 1 1 = true ∧ dmaOk s = true) := by decide +kernel

/-- Ring 16 stopped by an error. -/
def stoppedPart : State := { ringPart 1 with rings := [(16, { create := img [(2, w 2 64)], error := true, cause := 2 })] }

theorem witness_HostRings_stopped :
    hears cmdRingDestroy (cmd [16]) .device stoppedPart = true ∧ (tget 16 stoppedPart.rings).map (·.error) = some true ∧
    (tget 16 (ringPart 1).rings).map (·.error) = some false := by decide +kernel

/-- Events pending, MSI-X as given, queue registers as given. -/
def evPart (on : Bool) : State :=
  { upPart with ev := { pending := BitVec.allOnes 64, enable := 1, window := BitVec.allOnes 64, msixEnable := on, mask := 1, pba := 1 }
                hold.queues := [(2, { cmdHead := 31, rspHead := 31, rspTail := 0 })], rings := [(31, { create := img [(2, w 2 64)] })] }

theorem witness_EventAndQueueRegisters :
    (63 < 64 ∧ (evPart true).ev.window.getLsbD 63 = true ∧ (evPart false).ev.msixEnable = false ∧ (evPart true).ev.msixEnable = true ∧
      (evPart true).ev.fnMask = false ∧ (evPart true).ev.mask.getLsbD 63 = false ∧ (evPart true).ev.pending.getLsbD 63 = true ∧
      (evPart true).ev.enable.getLsbD 63 = false ∧ (evPart false).ev.enable.getLsbD 0 = true ∧ (evPart false).ev.mask.getLsbD 0 = true ∧
      (evPart true).ev.pba.getLsbD 0 = true ∧ (evPart true).ev.pending.getLsbD 0 = true) ∧
    ((0x10F : BitVec 32).getLsbD 8 = true ∧ ((0x10F : BitVec 32).toNat % 32 + 32 - (queueOf 2 (evPart true)).cmdHead) % 32 ≤ 16 ∧
      (0x110 : BitVec 32).getLsbD 8 = true ∧ 16 < ((0x110 : BitVec 32).toNat % 32 + 32 - (queueOf 2 (evPart true)).cmdHead) % 32 ∧
      upPart.power.entryStep < 2 ∧ upPart.power.watchWake = false) ∧
    ((0 % 32 + 32 - (queueOf 2 (evPart true)).rspHead) % 32 ≤
        ((queueOf 2 (evPart true)).rspTail + 32 - (queueOf 2 (evPart true)).rspHead) % 32 ∧
      ((queueOf 2 (evPart true)).rspTail + 32 - (queueOf 2 (evPart true)).rspHead) % 32 <
        (1 % 32 + 32 - (queueOf 2 (evPart true)).rspHead) % 32) ∧
    (tget 31 (evPart true).rings = some { create := img [(2, w 2 64)] } ∧ 63 < ringSize { create := img [(2, w 2 64)] } ∧
      ringSize { create := img [(2, w 2 64)] } ≤ 64) := by decide +kernel

/-! ### Host ports, the Stile, maintenance -/

/-- Port 9 present, 8D-8D-8D in use, a PCIe link up. -/
def hostPart : State :=
  { upPart with ports := { config := [(9, img [(0, [9, 0, 0, 1])])], lanes := [(6, 5)] }
                hold := { upPart.hold with xspi8d := true, xspiWait := true, pcieUp := true, queues := [(0, {}), (2, {})] }
                stile := { sems := [(0, .pcie 0), (31, .xspi)] } }

theorem witness_HostPortsAndHoldWindow :
    (evenRule 0x17FFFE 2 hostPart = true ∧ tooSlow 0x17FFFE 5000 hostPart = false ∧ evenRule 0x100000 2 hostPart = true ∧
      Memory.wf hostPart.staging = true ∧ 0x17FFFE + ([1, 2] : Bytes).length ≤ 0x180000) ∧
    (8 ≤ (0x800 : BitVec 32).toNat / 256 % 32 ∧ (0x1400 : BitVec 32).toNat / 256 % 32 ≤ 20 ∧ 20 < (0x1500 : BitVec 32).toNat / 256 % 32 ∧
      (0x700 : BitVec 32).toNat / 256 % 32 < 8) ∧
    (portPresent 9 hostPart = true ∧ 47 < 48) ∧ (upPart.hold.perst = false ∧ upPart.hold.pcieUp = false) ∧ hostPart.hold.pcieUp = true ∧
    (Memory.wf hostPart.hold.slots = true ∧ 63 + ([1] : Bytes).length ≤ 64 ∧ ([1, 2, 3, 4] : Bytes).length = 4 ∧
      ([1, 2, 3, 4, 5, 6, 7, 8] : Bytes).length = 8 ∧ 56 % 8 = 0 ∧ 56 < 64) := by decide +kernel

theorem witness_PcieResets :
    (hostPart.stile.near = [] ∧ hostPart.drill.rowWire = [] ∧ hostPart.drill.rows = []) ∧ hostPart.hold.pcieUp = true ∧
    upPart.hold.pcieUp = false := by decide +kernel

/-- A region of the kind, at the base, with the control bits; without far accesses, STRICT as given. -/
def regionPart (strict : Bool) (base ctrl : BitVec 32) (far : List FarAccess) : State :=
  { upPart with stile := { strict, strictInForce := strict, far
                           regions := [(15, { base, size := 4096, target := 0, ctrl })] } }

/-- A far access of the host. -/
def farOf (write : Bool) (mode : Nat) : FarAccess :=
  { id := 3, req := .pcie 0, write, mode, region := 15, kind := 0, inst := 15, addr := 0, len := 4, data := [1, 2, 3, 4], sideEffect := false }

theorem witness_StileSemaphoresAndAccesses :
    (let s := { regionPart true 0 1 [] with stile.sems := [(31, .xspi)] }
     tget 0 s.stile.sems = none ∧ (strictPending s && isPcie (.pcie 0)) = false ∧ tget 31 s.stile.sems = some .xspi ∧
      tget 0 s.stile.sems ≠ some .xspi ∧ freeEntry s = some 0 ∧ s.stile.near = [] ∧ s.stile.strictInForce = s.stile.strict) ∧
    (strictPending (regionPart true 0 1 [farOf true 2]) = true ∧ isPcie (.pcie 0) = true) ∧
    ((0x1 : BitVec 32).getLsbD 0 = upPart.stile.strict ∧ (0x0 : BitVec 32).getLsbD 0 ≠ upPart.stile.strict) ∧
    (enableRefused 0 { base := 0x1000, size := 4096, target := 0, ctrl := 0x1 &&& 0x003F3FFF#32 } (regionPart true 0 1 []) = false ∧
      enableRefused 0 { base := 0, size := 4096, target := 0, ctrl := 0x1 &&& 0x003F3FFF#32 } (regionPart true 0 1 []) = true) ∧
    (let s := regionPart false 0x3FFE000 0xF1 []
     s.stile.near = [] ∧ s.stile.strictInForce = s.stile.strict ∧ s.stile.far = [] ∧ regionAt 0x3FFE000 s = some 15 ∧
      0x3FFE000 + 256 ≤ rBase (regionOf 15 s) + rSize (regionOf 15 s) ∧ rKind (regionOf 15 s) ≤ 4 ∧ rPrefetch (regionOf 15 s) = false ∧
      tget 15 s.stile.prefetch = none ∧ rTarget (regionOf 15 s) + (0x3FFE000 - rBase (regionOf 15 s)) + 256 ≤ 256 ∧
      0x3FFE000 % 4 = 0 ∧ 0x3FFE000 + 8 ≤ 0x3FFF000 ∧ rBase (regionOf 15 s) % 4 = 0 ∧ rTarget (regionOf 15 s) % 4 = 0 ∧
      rKind (regionOf 15 s) = 0 ∧ regionAt 0x3FFE160 s = some 15 ∧
      rTarget (regionOf 15 s) + (0x3FFE160 - rBase (regionOf 15 s)) = 256 + 8 * 12) ∧
    (let s := regionPart false 0x1000 0x409 []
     s.stile.far = [] ∧ s.stile.strict = false ∧ regionAt 0x1044 s = some 15 ∧ 0x1044 + 1 ≤ rBase (regionOf 15 s) + rSize (regionOf 15 s) ∧
      rKind (regionOf 15 s) = 4 ∧ rPosted (regionOf 15 s) = true ∧ 64 ≤ rTarget (regionOf 15 s) + (0x1044 - rBase (regionOf 15 s)) ∧
      rTarget (regionOf 15 s) + (0x1044 - rBase (regionOf 15 s)) + 1 ≤ 69 ∧
      guarded .xspi 4 (rInst (regionOf 15 s)) (rTarget (regionOf 15 s) + (0x1044 - rBase (regionOf 15 s))) 1 s = false) ∧
    (let s := upPart
     s.stile.near = [] ∧ s.stile.strictInForce = s.stile.strict ∧ s.stile.far = [] ∧ s.stile.timeoutCa = false ∧ s.stile.regions = [] ∧
      (List.range 4).all (fun n => (regionAt (0x3FFEFFC + n) s).isNone) = true) ∧
    (let s := regionPart false 0 1 [farOf false 1]
     s.stile.far = [farOf false 1] ∧ (farOf false 1).remote = false ∧ (farOf false 1).result = none ∧ (farOf false 1).kind ≠ 5 ∧
      (farOf false 1).data.length = (farOf false 1).len ∧ s.stile.far.all (fun x => x.id != 4) = true) ∧
    (let s := regionPart false 0 1 [farOf true 1]
     s.stile.far = [farOf true 1] ∧ (farOf true 1).write = true ∧ (farOf true 1).remote = false ∧ (farOf true 1).result = none) := by
  decide +kernel

/-- A request of member 63 for one word. -/
def stileReq : StileReq :=
  { src := 63, write := false, nonPosted := true, semPage := false, id := 1023, epoch := 15, off := 0x1000, len := 4, be := 15, reqKind := 1, reqId := 0
    span := 0, data := [] }

/-- A completion of member 63. -/
def stileCpl : StileCpl :=
  { dev := 63, present := true, write := false, cut := false, id := 5, ackId := 5, ackEpoch := 2, ackValid := false, status := 0, data := [1, 2, 3, 4] }

/-- A Member that talks to member 63. -/
def peerPart (t : Transport) (far : List FarAccess) (ctrl : BitVec 32) : State :=
  { upPart with field := { join := 2, id := 1, dev := 0, roster := [(63, { serial := 9 })] }
                stile := { transports := [(63, t)], far, regions := [(0, { base := 0x1000, size := 4096, ctrl })] } }

theorem witness_StileTransport :
    (let s := peerPart {} [] 0
     (transportOf 63 s).peerEpoch = none ∧ stileReq.off < 0x3FFF000 ∧ stileReq.epoch < 16 ∧ s.field.join = 2 ∧ stileReq.semPage = false ∧ regionAt stileReq.off s = none) ∧
    (let s := peerPart { peerEpoch := some 15, expect := 1023 } [] 1
     (transportOf 63 s).peerEpoch = some stileReq.epoch ∧ (transportOf 63 s).expect = stileReq.id ∧ regionAt stileReq.off s = some 0 ∧
      rRemoteOk (regionOf 0 s) = false) ∧
    upPart.field.join ≠ 2 ∧
    (let s := peerPart { peerEpoch := some 15, expect := 0, kept := [{ stileCpl with id := 1023 }] } [] 0
     (transportOf 63 s).peerEpoch = some stileReq.epoch ∧ (transportOf 63 s).expect ≠ stileReq.id ∧
      (transportOf 63 s).kept.find? (fun x => x.id == stileReq.id) = some { stileCpl with id := 1023 }) ∧
    (let a : FarAccess := { farOf false 1 with kind := 7, inst := 63, remote := true, txn := 5, epoch := 2 }
     let s := peerPart { epoch := 2 } [a] 0
     s.stile.near = [] ∧ s.stile.strictInForce = s.stile.strict ∧ s.stile.far = [a] ∧ stileCpl.present = true ∧ stileCpl.ackValid = false ∧
      stileCpl.cut = false ∧ stileCpl.status = 0 ∧ a.remote = true ∧ a.inst = stileCpl.dev ∧ a.txn = stileCpl.id ∧ a.epoch = stileCpl.ackEpoch ∧
      a.result = none ∧ a.write = false ∧ stileCpl.data.length = a.len) ∧
    (let s := peerPart { epoch := 2, unacked := [stileReq] } [] 0
     s.stile.near = [] ∧ s.stile.strictInForce = s.stile.strict ∧ stileCpl.ackEpoch = (transportOf 63 s).epoch ∧
      (transportOf 63 s).waiting = []) := by decide +kernel

theorem witness_DiagnosticCommands :
    (hears cmdSelfTest (cmd [31]) .device upPart = true ∧ openCount upPart.stw.ledger < 16) ∧
    (hears cmdLoopbackSet (cmd [0, 1, 0]) .device upPart = true ∧ tgetD 1 0 upPart.buses.loopback = 0) ∧
    (hears cmdLoopbackSet (cmd [2, 15, 2]) .device upPart = true ∧ tgetD 47 0 upPart.buses.loopback ≠ 2) ∧
    (hears cmdLoopbackSet (cmd [0, 9, 1]) .device hostPart = true ∧ tgetD 9 0 hostPart.buses.loopback ≠ 1 ∧ portEnabled 9 hostPart = true) ∧
    (hears cmdLoopbackSet (cmd [0, 9, 0]) .device { hostPart with buses.loopback := [(9, 1)] } = true ∧
      tgetD 9 0 ({ hostPart with buses.loopback := [(9, 1)] } : State).buses.loopback ≠ 0) ∧
    hears cmdEventLogRead (wants 512 (cmd [])) .device upPart = true := by decide +kernel

/-- A journaled command in flight, its record opened under number 1 and the turn its own. -/
def turnOp (opcode : Nat) (c : Call) : Op := { opcode, call := c, body := .journal (refOf .device upPart), opno := 1 }
def turnPart (opcode : Nat) (c : Call) : State := { upPart with stw := { upPart.stw with ops := [turnOp opcode c], turn := 5 } }

/-- Its record with the point of no return passed. -/
def passedRec : Record := 
  { opno := 1, opcode := 0x0F06, origin := 0, tag := 0, gen := 0, state := 1, fromFlash := true, steps := 0, status := 0, start := 0, ponr := 0 }

theorem witness_journaledTurns :
    (∀ e ∈ [(0x0A04, cmd [135, 0]), (0x0E01, cmd [31])],
      HasTurn (turnOp e.1 e.2) (turnPart e.1 e.2) ∧ fine (turnPart e.1 e.2) = true ∧ e.2.atomic = false ∧ e.2.staged = false) ∧
    [1, 5, 6].contains (bankState 135 (turnPart 0x0A04 (cmd [135, 0]))) = true ∧ (turnOp 0x0E01 (cmd [31])).opno ≠ 0 ∧
    (let s := { turnPart 0x0F06 (cmd [1]) with fw.verified := true }
     HasTurn (turnOp 0x0F06 (cmd [1])) s ∧ fine s = true ∧ s.hold.bootPhase ≠ 5 ∧ flag (img [(0, [1])]) 0 1 = false ∧
      flag (img [(0, [1])]) 0 2 = false ∧ s.fw.verified = true ∧ beyondPonr (turnOp 0x0F06 (cmd [1])) s = false) ∧
    (let s := { turnPart 0x0F06 (cmd [1]) with fw.verified := true
                                               stw := { (turnPart 0x0F06 (cmd [1])).stw with ledger := [passedRec] } }
     HasTurn (turnOp 0x0F06 (cmd [1])) s ∧ beyondPonr (turnOp 0x0F06 (cmd [1])) s = true) := by
  unfold HasTurn; decide +kernel

/-- A re-till open; with a pin mix in the sown bank that is not legal. -/
def openTill : State := { upPart with stw := { upPart.stw with retill := some 1 } }
def badTill : State := { openTill with sown.pins := [9] }

theorem witness_RetillCommands :
    (hears cmdRetillBegin (cmd [0]) .device upPart = true ∧ hears cmdRetillBegin (cmd [1]) .device upPart = true ∧ sownHeld upPart = false ∧
      openCount upPart.stw.ledger < 16 ∧ flag (cmd [1]).params 0 1 = false) ∧
    (hears cmdRetillBegin (cmd [0]) .device openTill = true ∧ sownHeld openTill = true) ∧
    (hears cmdRetillCommit (cmd (w 8 86400000000000)) .device openTill = true ∧ openTill.stw.retill = some 1 ∧ openTill.stw.committing = false ∧
      loading openTill = false ∧ sownFault openTill = none ∧ { openTill with fixed.bankSel := 0 }.fixed.bankSel = 0 ∧
      hears cmdRetillCommit (cmd (w 8 86400000000000)) .device { openTill with fixed.bankSel := 0 } = true) ∧
    (hears cmdRetillCommit (cmd []) .device badTill = true ∧ badTill.stw.retill = some 1 ∧ badTill.stw.committing = false ∧
      loading badTill = false ∧ sownFault badTill = some (0x0C01, 0)) ∧
    (hears cmdRetillCommit (cmd []) .device upPart = true ∧ upPart.stw.retill = none) ∧
    (hears cmdRetillAbort (cmd []) .device openTill = true ∧ commitOp openTill = none) ∧
    hears cmdLedgerState (wants 512 (cmd [])) .device upPart = true := by decide +kernel

/-- An operation in flight of MQ0 under tag 1. -/
def flyingOp : Op := { opcode := 0x0E01, call := { cmd [] with tag := 1 }, body := .gateOpen }

theorem witness_FirmwareOperationAndResetCommands :
    (hears cmdFwStage (cmd (pm [(8, w 4 16)]) [] (List.replicate 16 1)) .device upPart = true ∧ upPart.fw.activating = false ∧
      upPart.fw.staging = none ∧ openCount upPart.stw.ledger < 16 ∧
      (cmd (pm [(8, w 4 16)]) [] (List.replicate 16 1)).bulk.length ≤ 16) ∧
    (let s : State := { upPart with fw.staging := some (1, 16, List.replicate 8 1) }
     let c := cmd (pm [(0, w 4 1), (4, w 4 8), (12, [1])]) [] (List.replicate 8 1)
     hears cmdFwStage c .device s = true ∧ s.fw.staging = some (1, 16, List.replicate 8 1) ∧ u32 c.params 0 = 1 ∧
      u32 c.params 4 = (List.replicate 8 (1 : Byte)).length ∧ u32 c.params 8 = 0 ∧ flag c.params 12 0 = true ∧
      (List.replicate 8 (1 : Byte)).length + c.bulk.length = 16) ∧
    (hears cmdFwActivate (cmd [1]) .device { upPart with fw.verified := true } = true ∧ flag (cmd [1]).params 0 1 = false ∧
      flag (cmd [1]).params 0 2 = false) ∧
    (hears cmdOpCancel (cmd [0, 1, 1]) .device upPart = true ∧ namedOp (cmd [0, 1, 1]) upPart = none) ∧
    (let s : State := { upPart with stw := { upPart.stw with ops := [flyingOp] } }
     hears cmdOpCancel (cmd [0, 1, 1]) .device s = true ∧ hears cmdOpProgress (cmd [0, 1, 1]) .device s = true ∧
      namedOp (cmd [0, 1, 1]) s = some flyingOp ∧ beyondPonr flyingOp s = false) ∧
    (hears cmdSysResetFabric (cmd (pm [(4, w 4 0x0F09A55A)])) .device upPart = true ∧
      (cmd (pm [(4, w 4 0x0F09A55A)])).queue ≠ 3 ∧ upPart.harrow.inReset = false) ∧
    hears cmdSysResetSteward (cmd (pm [(0, [1]), (4, w 4 0x0F09A55A)])) .device upPart = true ∧
    hears cmdSysResetFull (cmd (pm [(0, [2]), (4, w 4 0x0F09A55A)])) .device upPart = true := by decide +kernel

/-! ### The Steward, the Field, the sleep agreement -/

/-- A DEVICE_INFO command under tag 5, generation 1, in slot 0 of a queue, and the queue's turn. -/
def slotPart (q turn : Nat) : State :=
  { upPart with hold := { upPart.hold with slots := mwrite (0x1000 + 0x400 * q) (img [(0, w 2 0x0107), (2, [5, 1])]) []
                                           queues := [(q, { cmdTail := 1, notified := true })] }
                stw := { upPart.stw with turn } }

theorem deviceInfo_cmdOf (q : Nat) (c : Call) (h : u16 (headSlot q (slotPart q q)) 0 = 0x0107) :
    cmdOf (u16 (headSlot q (slotPart q q)) 0) c = some cmdDeviceInfo := by rw [h]; rfl

theorem witness_StewardTakesTheNextStep :
    stewardRuns State.reset = false ∧
    (let s : State := { upPart with harrow := { lanes := [0, 1, 2], isolated := [3], laneWait := [3] } }
     stewardRuns s = true ∧ s.harrow.laneWait = [3] ∧ spareFree s = true ∧
      spareFree { s with harrow := { s.harrow with lanes := [0, 1, 2, 4] } } = false) ∧
    (stewardRuns (slotPart 1 1) = true ∧ (slotPart 1 1).harrow.laneWait = [] ∧ queueReady 1 (slotPart 1 1) = true ∧
      u16 (headSlot 1 (slotPart 1 1)) 0 = 0x0107) ∧
    (stewardRuns (slotPart 0 1) = true ∧ queueReady 1 (slotPart 0 1) = false ∧ (levelOps true (slotPart 0 1)).find? (runnable (slotPart 0 1)) = none ∧
      (slotPart 0 1).stw.turn < 5 + (levelOps false (slotPart 0 1)).length ∧ queueReady 0 (slotPart 0 1) = true ∧
      u16 (headSlot 0 (slotPart 0 1)) 0 = 0x0107) ∧
    (stewardRuns (slotPart 2 2) = true ∧ queueReady 1 (slotPart 2 2) = false ∧ (levelOps true (slotPart 2 2)).find? (runnable (slotPart 2 2)) = none ∧
      (slotPart 2 2).stw.turn < 5 + (levelOps false (slotPart 2 2)).length ∧ queueReady 2 (slotPart 2 2) = true ∧
      u16 (headSlot 2 (slotPart 2 2)) 0 = 0x0107) := by decide +kernel

/-- An operation done, cancelled since, whose turn it is; and the Steward port stalled and full. -/
def closingOp : Op := { opcode := 0x0E01, call := cmd [], body := .closing {}, opno := 1, cancel := true }

theorem witness_StewardTakesTheNextStep_closing :
    (let s : State := { upPart with stw := { upPart.stw with ops := [closingOp], turn := 5 } }
     HasTurn closingOp s ∧ closingOp.body = .closing {} ∧ ({} : Final).status ≠ .partial_ ∧ closingOp.from_ = none ∧ closingOp.inner = false ∧
      closingOp.mute = false ∧ closingOp.opno ≠ 0) ∧
    stewardWaits { upPart with harrow := { stalled := [.steward], stewFifo := 4 } } = true ∧
    stewardWaits { upPart with harrow := { stalled := [.steward], stewFifo := 3 } } = false := by unfold HasTurn; decide +kernel

theorem witness_StewardTakesTheNextStep_command (c : Call) :
    mailboxCmd (.deviceInfo c) = some (cmdDeviceInfo, c) ∧ cmdOf 0x0107 c = some cmdDeviceInfo := ⟨rfl, rfl⟩

/-- A whole forward of member 63, and the last segment of an answer of its. -/
def forward : Forward :=
  { dev := 63, queue := 2, tag := 47, gen := 15, more := false, sub := 0, tokDev := 63, tokQueue := 2, tokTag := 47, tokGen := 15, off := 0
    slot := List.replicate 64 0, bulk := [] }
def answer : Answer :=
  { dev := 63, queue := 0, tag := 0, gen := 1, interim := false, more := false, sub := 0, off := 0, slot := List.replicate 64 0, data := [] }

/-- A walk that awaits member 63. -/
def waitingWalk : Walk := { await := some (63, mkRef 0 0 63 0), subs := 1 }
def waitingOp0 : Op := { opcode := 0x0107, call := cmd [], body := .walk waitingWalk }

/-- A Member with a command in flight. -/
def memberPart : State :=
  { upPart with field := { join := 2, id := 1, dev := 0, roster := [(63, { serial := 9, port := 1, addr := 5 })] }
                stw := { upPart.stw with ops := [waitingOp0] } }

theorem witness_MailboxTrafficOfMembers :
    (memberPart.stw.up = true ∧ memberPart.field.join = 2 ∧ memberPart.stw.answers = [] ∧
      forwardOp forward memberPart = none ∧ memberPart.stw.mq3.any (sameForward forward) = false ∧
      memberPart.stw.segments.filter (sameForward forward) = [] ∧ forward.off = 0 ∧ forward.more = false ∧
      ((queueOf 3 memberPart).cmdTail + 32 - (queueOf 3 memberPart).cmdHead) % 32 < 16 ∧
      16 ≤ ((queueOf 3 (setQueue 3 { cmdTail := 16 } memberPart)).cmdTail + 32 - (queueOf 3 (setQueue 3 { cmdTail := 16 } memberPart)).cmdHead) % 32) ∧
    (let s := { memberPart with stw := { memberPart.stw with mq3 := [forward] } }
     forwardOp forward s = none ∧ s.stw.mq3.any (sameForward forward) = true) ∧
    (let o : Op := { opcode := 0x0107, call := { cmd [] with queue := 3, tag := 47, gen := 15 }, body := .gateOpen
                     from_ := some { dev := 63, queue := 2, sub := 0, tokDev := 63, tokQueue := 2, tokTag := 47, tokGen := 15 } }
     let s := { memberPart with stw := { memberPart.stw with ops := [o] } }
     forwardOp forward s = some o ∧ s.stw.answers = []) ∧
    ([({ dev := 63, queue := 2, tag := 47, gen := 15, sub := 0, answer } : Stored)].all
      (fun a => a.dev == forward.dev && a.queue == forward.queue && a.tag == forward.tag && a.gen == forward.gen && a.sub == forward.sub) = true) ∧
    (upPart.field.join ≠ 2 ∧ awaiting answer upPart = none) ∧
    (awaiting answer memberPart = some (waitingOp0, waitingWalk, mkRef 0 0 63 0) ∧
      memberPart.stw.answerSegs.filter (sameAnswer answer) = [] ∧ answer.off = 0 ∧ answer.more = false ∧ answer.interim = false ∧
      awaiting { answer with interim := true } memberPart = some (waitingOp0, waitingWalk, mkRef 0 0 63 0)) ∧
    (waitingOp 0 0 memberPart = some waitingOp0 ∧ waitingOp0.body = .walk waitingWalk ∧ waitingWalk.await = some (63, mkRef 0 0 63 0)) ∧
    waitingOp 0 1 memberPart = none := by decide +kernel

/-- An atomic message of member 63. -/
def atomicMsg (kind : Nat) : AtomicMsg :=
  { kind, sender := 63, tokDev := 0, tokQueue := 0, tokTag := 0, tokGen := 1, tc := 1000, status := 0 }

/-- The operation that waits for the Ready of member 63, and of 62 beside. -/
def readyWalk (l r : List Nat) : Walk := { members := l, ready := r }
def readyOp0 (l r : List Nat) : Op := { opcode := 0x0201, call := { cmd [] with atomic := true }, body := .atomicReady (readyWalk l r) }

/-- A Member with Steward settings as given. -/
def atomicPart (stw : Steward) : State := { memberPart with stw := { stw with up := true } }

theorem witness_AtomicCommandsAcrossTheField :
    (let s := atomicPart { staged := some (atomicMsg 1) }
     s.stw.up = true ∧ stagedHere (atomicMsg 1) s = true ∧ s.stw.staged.isSome = true ∧ s.stw.tc = none) ∧
    (let s := atomicPart { committed := some (atomicMsg 2) }
     stagedHere (atomicMsg 2) s = false ∧ s.stw.committed.any (sameToken (atomicMsg 2)) = true ∧ stagedHere (atomicMsg 1) (atomicPart {}) = false ∧
      (atomicPart {}).stw.committed.any (sameToken (atomicMsg 2)) = false) ∧
    readyOp (atomicMsg 4) (atomicPart {}) = none ∧
    (let s := atomicPart { ops := [readyOp0 [62, 63] []] }
     readyOp (atomicMsg 4) s = some (readyOp0 [62, 63] [], readyWalk [62, 63] []) ∧ (atomicMsg 4).kind = 4 ∧
      [62, 63].all (insertNat 63 []).contains = false ∧ s.stw.staged = none ∧
      waitingReady s = some (readyOp0 [62, 63] [], readyWalk [62, 63] [])) ∧
    (let s := atomicPart { ops := [readyOp0 [62, 63] [62]] }
     readyOp (atomicMsg 4) s = some (readyOp0 [62, 63] [62], readyWalk [62, 63] [62]) ∧ [62, 63].all (insertNat 63 [62]).contains = true ∧
      (readyOp0 [62, 63] [62]).cancel = false ∧ readyOp (atomicMsg 5) s = some (readyOp0 [62, 63] [62], readyWalk [62, 63] [62]) ∧
      (atomicMsg 5).kind ≠ 4 ∧ { readyOp0 [62, 63] [62] with cancel := true }.cancel = true ∧ (bankCmd 0x0201 (readyOp0 [62, 63] [62]).call).isSome = true) ∧
    (awaited (atomicMsg 6) (atomicPart { decisions := [(atomicMsg 2, [63])] }) = true ∧ awaited (atomicMsg 6) (atomicPart {}) = false ∧
      (atomicPart { decisions := [(atomicMsg 2, [63])] }).stw.decisions = [(atomicMsg 2, [63])] ∧
      (atomicPart { decisions := [(atomicMsg 3, [63])] }).stw.staged = none ∧ waitingReady (atomicPart { decisions := [(atomicMsg 3, [63])] }) = none ∧
      (atomicMsg 3).kind ≠ 2 ∧ waitingReady (atomicPart {}) = none) ∧
    flipDue (atomicPart {}) = false ∧
    (let s := atomicPart { flip := some 0 }
     flipDue s = true ∧ s.stw.committing = false ∧ s.stw.staged = none ∧ flipOp s = none) := by decide +kernel

/-- A hail of another device. -/
def hail (src serial : Nat) : HailMsg := { src, fieldId := 1, serial, roster := 1, join := 1, synced := true, port := 1, addr := 5 }

/-- A device of Field 1, joining or Member, with its ID and a roster that holds the IDs below `n`. -/
def fieldPart (join dev n : Nat) : State :=
  { upPart with field := { join, id := 1, dev, settings := img [(4, [2, 0])], roster := (List.range n).map (fun k => (k, { serial := 100 + k })) }
                fixed := { upPart.fixed with serial := 50 } }

theorem witness_FieldMembership :
    ((hailPorts upPart).contains 1 = false ∧ upPart.field.join = 0 ∧ (fieldPart 3 0 0).field.join = 3 ∧ (hail 1 1).fieldId ≠ upPart.field.id) ∧
    (let s := fieldPart 1 255 0
     (hailPorts s).contains (hail 63 1).port = true ∧ s.field.join = 1 ∧ (hail 63 1).fieldId = s.field.id ∧ (hail 63 1).src ≤ 63 ∧ (hail 63 1).join < 2 ∧ (hail 63 1).serial ≠ s.fixed.serial ∧
      (hail 63 1).src ≠ s.field.dev ∧ tget 63 s.field.roster = none ∧ tget 63 s.field.gone = none) ∧
    (let s := fieldPart 2 5 1
     (hailPorts s).contains 1 = true ∧ knownSerial 0 s = some 100 ∧ (100 : Nat) ≠ (hail 0 101).serial ∧ (hail 0 100).serial = 100 ∧ s.field.dev ≠ 0) ∧
    (let s := fieldPart 2 63 63
     s.field.join = 2 ∧ (hail 63 49).fieldId = s.field.id ∧ (hail 63 49).src = s.field.dev ∧ (hail 63 49).serial < s.fixed.serial ∧
      s.fixed.serial < (hail 63 51).serial ∧ s.drill.sheafs = [] ∧ s.stw.ops = []) ∧
    (let s := fieldPart 2 63 1
     tget 0 s.field.roster = some { serial := 100 } ∧ ({ serial := 100 } : Member).serial = (hail 0 100).serial ∧
      (hail 0 100).fieldId = s.field.id ∧ tget 1 s.field.roster = none ∧ mapBit s.field.settings 4 1 = true ∧
      mapBit s.field.settings 4 0 = false) ∧
    (let s := fieldPart 1 5 0
     s.field.join = 1 ∧ s.stw.ops = [] ∧ s.field.dev ≠ 255) ∧
    (let s := fieldPart 1 255 63
     s.field.join = 1 ∧ s.field.dev = 255 ∧ tget 63 s.field.roster = none ∧ (List.range 63).all (fun k => (tget k s.field.roster).isSome) = true) ∧
    (let s := fieldPart 1 255 64
     s.field.join = 1 ∧ s.field.dev = 255 ∧ (List.range 64).all (fun k => (tget k s.field.roster).isSome) = true ∧ s.drill.sheafs = []) := by
  decide +kernel

/-- Network 16 in a mode with its runtime; own ring address 5. -/
def nmPart (mode : Nat) (v : Nm) : State := { upPart with power := { upPart.power with nets := [(16, { v with img := img [(0, [16, mode, 5])] })] } }

theorem witness_NetworkTimers :
    (nmMode (netOf 16 (nmPart 1 { state := 1 })) = 1 ∧ (netOf 16 (nmPart 1 { state := 1 })).state = 1) ∧
    ((netOf 16 (nmPart 1 { state := 2 })).state = 2) ∧
    ((netOf 16 (nmPart 1 { state := 3 })).state = 3 ∧ (netOf 16 (nmPart 1 { state := 3 })).confQueued = false) ∧
    (netOf 16 (nmPart 1 { state := 3, confQueued := true })).confQueued = true ∧
    ((netOf 16 (nmPart 2 { state := 4, wakeHeld := true })).state = 4 ∧ (netOf 16 (nmPart 2 { state := 4, wakeHeld := true })).wakeHeld = true ∧
      nmMode (netOf 16 (nmPart 2 { state := 4, wakeHeld := true })) = 2) ∧
    (let v := netOf 16 (nmPart 1 { state := 5, need := true })
     v.state = 5 ∧ (v.need || v.traffic) = true ∧ nmMode v = 1) ∧
    (let v := netOf 16 (nmPart 2 { state := 5, traffic := true })
     (v.need || v.traffic) = true ∧ nmMode v ≠ 1) ∧
    (let v := netOf 16 (nmPart 2 { state := 5 })
     v.state = 5 ∧ (v.need || v.traffic) = false) := by decide +kernel

/-- A message to the destination whose run of consents began at `run`. -/
def nmMsg (dest run : Nat) : NmMsg := { source := 6, dest, consent := true, runStart := run, round := 1 }

theorem witness_NetworkMessages :
    (let s := nmPart 2 { state := 1 }
     s.power.watchWake = false ∧ s.power.entering = none ∧ nmMode (netOf 16 s) ≠ 0 ∧ ({ nmMsg 0 0 with source := 5 } : NmMsg).source = nmAddr (netOf 16 s)) ∧
    (let s := nmPart 1 { state := 3 }
     nmMode (netOf 16 s) = 1 ∧ (nmMsg 0 0).source ≠ nmAddr (netOf 16 s) ∧ (netOf 16 s).state = 3) ∧
    (let s := nmPart 1 { state := 4 }
     nmMode (netOf 16 s) = 1 ∧ (netOf 16 s).state = 4 ∧ (qualify s).power.armedFor = none ∧ netOf 16 (qualify s) = netOf 16 s) ∧
    (let s := { nmPart 1 { state := 4 } with power := { (nmPart 1 { state := 4 }).power with armedFor := some .listen, entering := some .listen } }
     (qualify s).power.armedFor.isSome = true ∧ nmMode (netOf 16 (qualify s)) = 1 ∧ (netOf 16 (qualify s)).state = 4) ∧
    (let s := nmPart 2 { state := 2 }
     nmMode (netOf 16 s) = 2 ∧ (nmMsg 5 5).source ≠ nmAddr (netOf 16 s) ∧ (netOf 16 s).state ≠ 4 ∧ (netOf 16 s).state ≠ 6 ∧ (netOf 16 s).state ≠ 5 ∧
      (nmMsg 6 6).dest ≠ nmAddr (netOf 16 s) ∧ (nmMsg 5 6).dest = nmAddr (netOf 16 s) ∧ nmNeeds (netOf 16 s) = false ∧
      (nmMsg 5 6).runStart ≠ nmAddr (netOf 16 s) ∧ netOf 16 (qualify s) = netOf 16 s ∧ (nmMsg 5 5).runStart = nmAddr (netOf 16 s)) ∧
    (let s := nmPart 2 { state := 3, need := true }
     (netOf 16 s).state = 3 ∧ nmNeeds (netOf 16 s) = true) ∧
    (netOf 16 (nmPart 2 { state := 6 })).state = 6 ∧
    (let s := nmPart 2 { state := 1, need := true, token := true, ring := [(4, 0), (6, 0)] }
     (netOf 16 s).token = true ∧ lowest (netOf 16 s) s.power.upNs = false ∧ nmNeeds (netOf 16 s) = true ∧ (netOf 16 s).state ≠ 4) ∧
    (let s := nmPart 2 { state := 2, token := true, ring := [(4, 0), (6, 0)] }
     (netOf 16 s).token = true ∧ lowest (netOf 16 s) s.power.upNs = false ∧ nmNeeds (netOf 16 s) = false ∧ (netOf 16 s).wakeHeld = false ∧ (netOf 16 s).consent = false) ∧
    (let s := nmPart 2 { state := 2, token := true, consent := true, runStart := 5, ring := [(4, 0), (6, 0)] }
     (netOf 16 s).consent = true ∧ (netOf 16 s).runStart = nmAddr (netOf 16 s) ∧ nmNeeds (netOf 16 s) = false ∧ (netOf 16 s).token = true) ∧
    (netOf 16 (nmPart 2 { state := 2, token := true, consent := true, runStart := 6, ring := [(4, 0)] })).runStart ≠ 5 ∧
    lowest (netOf 16 (nmPart 2 { state := 2, ring := [(6, 0)] })) (nmPart 2 {}).power.upNs = true ∧
    lowest (netOf 16 (nmPart 2 { state := 2, ring := [(4, 0)] })) (nmPart 2 {}).power.upNs = false := by decide +kernel

/-! ### Fallow, start, resets, upkeep -/

/-- Every wake source enabled, channel CAN 0 named with a filter that takes any frame as its last; the pattern wakes of port 1. -/
def wakeImage : Img :=
  fit 272 (img [(0, [63, 6, 0, 255, 255, 255, 0, 0])]) ++ fit 32 (img [(8, [2])])

/-- Filter 63 of port 1 hits data that begins with 0. -/
def wakePattern : Img := patch (patch (fit 40 (img [(16, [1])])) 32 (le 4 (crc32 [0]))) 36 [128]

/-- The part in a Fallow state. -/
def sleepPart (p : PowerState) (err : Nat) : State :=
  { upPart with power := { upPart.power with state := p, wake := wakeImage, fallowPolicy := some (img [(0, [1, 1, 1]), (16, w 4 1)])
                                             decodeErr := [(0, err)] }
                ports := { patterns := [(64 + 63, wakePattern)] } }

/-- A CAN frame, decoded or not. -/
def wakeFrame (error : Bool) : WakeFrame := { error, fd := false, ide := false, rtr := false, id := 5, dlc := 8, data := [] }

theorem witness_WakeSourcesStartThePart :
    (let s := sleepPart .watch 0
     s.power.armedFor = none ∧ s.power.state = .watch ∧ fld (wakeCfg s) 1 (2 * 0) 2 = 2 ∧ fld (wakeCfg s) 1 (2 * 1) 2 = (if false then 0 else 1) ∧
      wakesFrom .watch 1 s = true ∧ wakesFrom .watch 2 s = true ∧ wakesFrom .watch 4 s = true ∧ wakesFrom .watch 6 s = true ∧
      (namedChannels (wakeCfg s)).contains 0 = true ∧ (wakeFrame true).fd = false ∧ wakesFrom .watch 3 s = true ∧
      tgetD 0 0 s.power.decodeErr ≠ 31 ∧ firstBelow 8 (fun i => filterHit (wakeFilter (wakeCfg s) 0 i) (wakeFrame false)) = some 7) ∧
    tgetD 0 0 (sleepPart .watch 31).power.decodeErr = 31 ∧
    (let s := sleepPart .retain 0
     s.power.state = .retain ∧ wakesFrom .retain 2 s = true ∧ wakesFrom .retain 4 s = true ∧ wakesFrom .retain 6 s = true) ∧
    (let s : State := { upPart with power := { upPart.power with state := .retain } }
     s.power.state = .retain ∧ wakesFrom .retain 4 s = false) ∧
    ((sleepPart .deep 0).power.state = .deep ∧ wakesFrom .deep 4 (sleepPart .deep 0) = true) ∧
    ((sleepPart .listen 0).power.state = .listen ∧ wakeHit [0, 1] (sleepPart .listen 0) = true ∧ wakesFrom .listen 5 (sleepPart .listen 0) = true) := by
  decide +kernel

/-- Two sources enabled, the part Growing after a wake by the first of them; a network as given. -/
def wokenPart (nets : Tbl Nm) (p : Power) : State :=
  { upPart with power := { p with state := .growing, wake := wakeImage, fallowPolicy := some (img [(0, [1, 4, 1]), (16, w 4 1)]), nets } }

theorem witness_FallowEntries :
    (let s := wokenPart [] { armedFor := some .watch }
     s.power.armedFor = some .watch ∧ wakesFrom .watch 6 s = true ∧ configuredNets s = []) ∧
    (let s := wokenPart [] { watchWake := true, firstWake := 4, left := .watch }
     s.power.state = .growing ∧ s.power.watchWake = true ∧ s.power.firstWake = 4 ∧ s.power.netWoken = false ∧ configuredNets s = [] ∧ entryBusy s = false ∧
      { s with power.netWoken := true }.power.netWoken = true) ∧
    (let s := wokenPart [(0, { img := img [(0, [0, 1])], state := 4 })] {}
     autoReady s = true ∧ targetState (u8 (fallowPolicy s) 1) = .deep ∧ survivors .deep s ≠ []) ∧
    autoReady upPart = false ∧
    (let s := wokenPart [] { armedFor := some .deep }
     s.power.armedFor = some .deep ∧ stewardWaits s = false ∧ stewardRuns s = true ∧ s.hold.bootPhase = 4 ∧ s.harrow.laneWait = [] ∧ s.stw.ops = [] ∧
      (List.range 4).all (fun q => !queueReady q s) = true ∧ s.gran.migration = none ∧ s.gran.queue = []) := by decide +kernel

/-- Starting, with the start kind and the supply as given. -/
def startPart (kind : Nat) (low : Bool) : State := { State.reset with power := { State.reset.power with startKind := kind, buckLow := low } }

/-- The record of a re-till past its point of no return. -/
def closingRetill : Record :=
  { opno := 1, opcode := 0x0F01, origin := 0, tag := 0, gen := 0, state := 1, fromFlash := true, steps := 0, status := 0, start := 0, ponr := 0 }

theorem witness_StartSequence :
    (upPart.power.state ≠ .starting ∧ (startPart 1 true).power.buckLow = true) ∧
    ((startPart 1 false).power.state = .starting ∧ (startPart 1 false).power.buckLow = false ∧ 3 % 4 / 2 = 1 ∧ 1 % 4 / 2 ≠ 1 ∧
      (startPart 1 false).power.startKind ≠ 4 ∧ (startPart 1 false).power.nets = [] ∧ (startPart 1 false).power.falseSince = [] ∧
      (startPart 1 false).fixed.fieldImg = none ∧ (startPart 1 false).stw.ops = []) ∧
    (let s : State := { startPart 1 false with fixed.bankA := some (1, {}), stw.flash := [closingRetill] }
     s.fixed.bankA = some (1, {}) ∧ s.stw.flash.any (fun r => r.opcode == 0x0F01 && r.state == 1 && r.opno == 1) = true) ∧
    (startPart 3 false).power.startKind = 3 ∧
    (let s : State := { startPart 4 false with power := { (startPart 4 false).power with firstWake := 5 } }
     s.power.state = .starting ∧ s.power.buckLow = false ∧ s.power.startKind = 4 ∧ s.power.firstWake ≤ 5) := by decide +kernel

theorem witness_SuppliesAndResetPin :
    (fallowOff (sleepPart .deep 0) = true ∧ fallowOff { upPart with power := { upPart.power with state := .off } } = true) ∧
    (fallowOff upPart = false ∧ upPart.power.resetHeld = false ∧
      fallowOff { upPart with power := { upPart.power with state := .held, resetHeld := true } } = false) ∧
    (upPart.power.state ≠ .off ∧ ({ upPart with power := { upPart.power with state := .off } } : State).power.state = .off) ∧
    ((startPart 1 true).power.buckLow = true ∧ upPart.power.buckLow = false) := by decide +kernel

theorem witness_StewardResets :
    (upPart.stw.up = true ∧ State.reset.stw.up = false) ∧
    (let s : State := { State.reset with hold := { State.reset.hold with bootPhase := 5 } }
     s.stw.up = false ∧ s.hold.bootPhase = 5 ∧ s.hold.bootPhase ≠ 6) ∧
    (let s : State := { State.reset with hold := { State.reset.hold with bootPhase := 6, resetKind := 9 } }
     s.hold.bootPhase = 6 ∧ s.stw.ops = [] ∧ s.hold.resetKind = 9) := by decide +kernel

/-- A stall of the Plough of UART 15 stands; fabric-level resets at these instants. -/
def stallPart (resets : List Nat) : State := { upPart with harrow := { stalled := [.plough 47], fabricResets := resets } }

theorem witness_FabricFaults :
    (upPart.harrow.lanes.contains 3 = true ∧ upPart.harrow.stalled.contains (.lane 3) = false ∧ upPart.ploughs = [] ∧ spareFree upPart = true ∧
      ({ upPart with harrow := { lanes := [0, 1, 2, 4] } } : State).harrow.lanes.contains 4 = true ∧
      spareFree { upPart with harrow := { lanes := [0, 1, 2, 4] } } = false) ∧
    upPart.harrow.lanes.contains 4 = false ∧
    (upPart.harrow.stalled.contains (.plough 47) = false ∧ (stallPart []).harrow.stalled.contains (.plough 47) = true ∧
      (stallPart []).stw.up = true) ∧
    (3 ≤ ((stallPart [0, 0, 0]).harrow.fabricResets.filter (fun t => decide ((stallPart []).power.upNs < t + 3600000000000))).length ∧
      ((stallPart [0, 0]).harrow.fabricResets.filter (fun t => decide ((stallPart []).power.upNs < t + 3600000000000))).length < 3) ∧
    (upPart.harrow.inReset = false ∧ ({ upPart with harrow.inReset := true } : State).harrow.inReset = true ∧
      ({ upPart with harrow.inReset := true } : State).stw.ops.filter (fun o => o.body == .fabricReset) = []) := by decide +kernel

/-- A cell in logical bank 127, which drains where it says so; bank 0 corrected so often. -/
def cellBank (draining : Bool) (cell corrected : Nat) : State :=
  { upPart with gran := { cells := [(cell, { copies := 1 })], draining := if draining then [127] else []
                          corrected := [(127, List.replicate corrected 0)] } }

theorem witness_GranaryUpkeep :
    (underTest 135 upPart = false ∧
      underTest 135 { upPart with stw := { upPart.stw with ops := [{ opcode := 0x0A04, call := cmd [135, 0], body := .journal 0 }] } } = true) ∧
    (bankState 135 upPart = 1 ∧ logicalOf 135 upPart = none) ∧
    (underTest 127 (cellBank false 32512 7) = false ∧ bankState 127 (cellBank false 32512 7) = 0 ∧ u8 (quota (cellBank false 32512 7)) 12 ≤ correctedInWindow 127 (cellBank false 32512 7) + 1 ∧
      correctedInWindow 127 (cellBank false 32512 6) + 1 < u8 (quota upPart) 12) ∧
    (logicalOf 127 (cellBank false 32512 0) = some 127 ∧
      cellOf (256 * 127 + 0 / 32 % 256) (cellBank false 32512 0) = some { copies := 1 } ∧ poisoned 32512 (cellBank false 32512 0) = false ∧
      bankState 127 (cellBank false 32512 0) = 0) ∧
    (upPart.gran.draining.contains 127 = false ∧ (cellBank true 32511 0).gran.draining.contains 127 = true ∧
      logicalOf 127 (cellBank true 32511 0) = some 127 ∧ (tkeys (cellBank true 32511 0).gran.cells).all (fun c => c / 256 != 127) = true ∧
      (tkeys (cellBank true 32767 0).gran.cells).any (fun c => c / 256 == 127) = true) := by decide +kernel

/-- The Steward does not run, the required pace as it left it; the hold time is 1 s. -/
def pacePart (preq mv hold : Nat) : State :=
  { upPart with stw := {}, power := { upPart.power with vcore := mv, holdUs := hold, preq := (preq : Rat), pacePolicy := some (fit 48 ([0, 15, 2, 0] ++ le 4 0 ++ le 4 0 ++ le 4 0 ++ le 4 1000 ++ le 2 20)) } }

theorem witness_PaceAndMonitors :
    State.reset.power.state ≠ .growing ∧
    ((pacePart 0 900 0).power.state = .growing ∧ (pacePart 0 900 0).stw.up = false ∧ (pacePart 0 900 0).power.floorHold = false) ∧
    (720 ≤ (pacePart 0 720 0).power.vcore ∧ ((479 : Nat) : Rat) < floorPace 720 125 ∧ (pacePart 0 720 0).power.floorViolation = false) ∧
    (floorPace 900 25 ≤ ((925 : Nat) : Rat) ∧ ((925 : Nat) : Rat) < (pacePart 926 900 0).power.preq) ∧
    ((pacePart 924 900 0).power.preq < ((925 : Nat) : Rat) ∧ ((max (crossingFill (pacePart 924 900 0)) 25 : Nat) : Rat) ≤ fillLimit (pacePart 924 900 0) ∧
      fillLimit (pacePart 924 900 0) < ((max (crossingFill (pacePart 924 900 0)) 26 : Nat) : Rat) ∧
      (pacePart 0 900 998).power.holdUs + 1 < u32 (pacePolicy (pacePart 0 900 998)) 16 ∧
      u32 (pacePolicy (pacePart 0 900 999)) 16 ≤ (pacePart 0 900 999).power.holdUs + 1) ∧
    (coreOn upPart = true ∧ upPart.power.thermal ≤ 115 ∧ upPart.power.thermalArmed = true ∧
      ({ upPart with power := { upPart.power with thermalArmed := false } } : State).power.thermalArmed = false ∧ 110 ≤ upPart.power.thermal - 5) ∧
    coreOn (sleepPart .deep 0) = false := by decide +kernel

/-! ### Well-formedness: one operand beyond each check is refused, the last one allowed is taken -/

/-- A forward, an answer and an atomic message at the top of every range. -/
def topForward : Forward :=
  { dev := 255, queue := 3, tag := 255, gen := 15, more := true, sub := 65535, tokDev := 255, tokQueue := 255, tokTag := 255, tokGen := 255
    off := 4294967295, slot := List.replicate 64 0, bulk := [] }
def topAnswer : Answer :=
  { dev := 255, queue := 3, tag := 255, gen := 15, interim := true, more := true, sub := 65535, off := 4294967295, slot := List.replicate 64 0, data := [] }
def topAtomic : AtomicMsg :=
  { kind := 255, sender := 255, tokDev := 255, tokQueue := 255, tokTag := 255, tokGen := 255, tc := 18446744073709551615, status := 255 }

theorem test_wf_call : (cmd []).wf = true ∧ ({ cmd [] with queue := 3 } : Call).wf = false ∧ ({ cmd [] with tag := 256 } : Call).wf = false ∧
    ({ cmd [] with gen := 16 } : Call).wf = false ∧ ({ cmd [] with hops := List.replicate 256 0 } : Call).wf = false ∧
    ({ cmd [] with hops := [256] } : Call).wf = false ∧ ({ cmd [] with units := 32768 } : Call).wf = false ∧
    ({ cmd [] with at_ := 65536 } : Call).wf = false ∧ ({ cmd [] with params := [] } : Call).wf = false ∧
    ({ cmd [] with bulk := [1] } : Call).wf = false ∧ (Instr.echo { cmd [] with queue := 3 }).wf = false ∧
    (Instr.readRequest 65536 (cmd [])).wf = false ∧ (Instr.readRequest 65535 (cmd [])).wf = true := by decide +kernel

theorem test_wf_messages : topForward.wf = true ∧ topAnswer.wf = true ∧ topAtomic.wf = true ∧
    ({ topForward with dev := 256 } : Forward).wf = false ∧ ({ topForward with queue := 4 } : Forward).wf = false ∧
    ({ topForward with tag := 256 } : Forward).wf = false ∧ ({ topForward with gen := 16 } : Forward).wf = false ∧
    ({ topForward with sub := 65536 } : Forward).wf = false ∧ ({ topForward with tokDev := 256 } : Forward).wf = false ∧
    ({ topForward with tokQueue := 256 } : Forward).wf = false ∧ ({ topForward with tokTag := 256 } : Forward).wf = false ∧
    ({ topForward with tokGen := 256 } : Forward).wf = false ∧ ({ topForward with off := 4294967296 } : Forward).wf = false ∧
    (Instr.mailboxForward { topForward with slot := [] }).wf = false ∧ ({ topAnswer with dev := 256 } : Answer).wf = false ∧
    ({ topAnswer with queue := 4 } : Answer).wf = false ∧ ({ topAnswer with tag := 256 } : Answer).wf = false ∧
    ({ topAnswer with gen := 16 } : Answer).wf = false ∧ ({ topAnswer with sub := 65536 } : Answer).wf = false ∧
    ({ topAnswer with off := 4294967296 } : Answer).wf = false ∧ (Instr.mailboxAnswer { topAnswer with slot := [] }).wf = false ∧
    ({ topAtomic with kind := 256 } : AtomicMsg).wf = false ∧ ({ topAtomic with sender := 256 } : AtomicMsg).wf = false ∧
    ({ topAtomic with tokDev := 256 } : AtomicMsg).wf = false ∧ ({ topAtomic with tokQueue := 256 } : AtomicMsg).wf = false ∧
    ({ topAtomic with tokTag := 256 } : AtomicMsg).wf = false ∧ ({ topAtomic with tokGen := 256 } : AtomicMsg).wf = false ∧
    ({ topAtomic with tc := 18446744073709551616 } : AtomicMsg).wf = false ∧ (Instr.commitDone { topAtomic with status := 256 }).wf = false := by
  decide +kernel

theorem test_wf_registers : (Instr.mqnDoorbell .pcie 4 0).wf = false ∧ (Instr.mqnRspHead .pcie 4 0).wf = false ∧ (Instr.semTake .xspi 32).wf = false ∧
    (Instr.semGive .xspi 32).wf = false ∧ (Instr.stileRegion 16 0 0).wf = false ∧ (Instr.stileRegion 15 4 0).wf = false ∧
    (Instr.stileErrlogValid 16).wf = false ∧ (Instr.ringTail .pcie 32 0).wf = false ∧ (Instr.statisticsRead 10 0 .all).wf = false ∧
    (Instr.statisticsRead 9 48 .all).wf = false ∧ (Instr.holdWindowWrite .pcie ⟨65535, 255⟩ [0, 0]).wf = false ∧
    (Instr.holdWindowWrite .pcie ⟨0x44, 255⟩ [0, 0, 0, 0, 0]).wf = false ∧ (Instr.holdWindowWrite .pcie ⟨0x44, 255⟩ [0, 0, 0, 0]).wf = true ∧
    (Instr.holdWindowWrite .pcie ⟨0x44, 256⟩ [0]).wf = false ∧ (Instr.holdWindowWrite .pcie ⟨0x103F, 255⟩ [0, 0]).wf = false ∧
    (Instr.stileRead .xspi ⟨0, 256⟩ 1).wf = false ∧ (Instr.stileWrite .xspi ⟨0, 256⟩ [0]).wf = false ∧ (Instr.coalescingWindowEnd 64).wf = false ∧
    (Instr.transmitItemFetch 32 [] [] .clean).wf = false ∧ (Instr.forwardRepeat 4 0).wf = false ∧ (Instr.remoteTimeout 0 256).wf = false ∧
    (Instr.commitRepeat 64).wf = false ∧ (Instr.stileResend 64).wf = false ∧ (Instr.prefetchExpiry 16).wf = false ∧
    (Instr.xspiUnknownCommand ⟨256, 0⟩).wf = false := by decide +kernel

theorem test_wf_buses_and_ports : (Instr.gapTimeout 16).wf = false ∧ (Instr.integration 16).wf = false ∧ (Instr.linHeader 4 0 true).wf = false ∧
    (Instr.linHeader 3 64 true).wf = false ∧ (Instr.mvbMasterFrame 2 0).wf = false ∧ (Instr.freshnessLimit 1 4096).wf = false ∧
    (Instr.linkLoss 10).wf = false ∧ (Instr.pdelayResult 10 ⟨0, 0⟩).wf = false ∧ (Instr.pauseTimerExpiry 9 8).wf = false ∧ (Instr.timeAlarm 8).wf = false ∧
    (Instr.timeCapture 40 true 0).wf = false ∧ (Instr.teamQuietExpiry 128 0).wf = false ∧ (Instr.teamQuietExpiry 0 512).wf = false ∧
    (Instr.drillAccept 4).wf = false ∧ (Instr.copyRelease 528 .clean).wf = false ∧ (Instr.sheafAge 64 0).wf = false ∧ (Instr.sheafAge 0 4).wf = false ∧
    (Instr.drainEnd 136).wf = false ∧ (Instr.keyWaitLimit 160).wf = false ∧ (Instr.startSequence 16).wf = false ∧ (Instr.wakePin 2 true).wf = false ∧
    (Instr.canSelectiveWake 4 ⟨false, false, false, false, 0, 0, []⟩).wf = false ∧ (Instr.tKa 17).wf = false ∧ (Instr.tKa 16).wf = true := by
  decide +kernel

/-! ### Worked examples of the manual -/

/-- 05_almanac_time, after R155: a crystal 18 ppm fast, and the servo update under R167. -/
theorem test_increment : increment 18000 = 17179559946 ∧ increment 18320 = 17179554449 ∧ increment 0 = 17179869184 := by decide +kernel

/-- 05_almanac_time, R167: I = 18,000 ppb, θ = 40 ns and T = 0.125 s give I = 18,096 and a = 18,320 ppb. -/
theorem test_servo_update :
    (match exec (.sync 9 { domain := 0, t2 := 1000000040, origin := 1000000000, correction := 0, ratePpb := 0 })
        { upPart with ports := { config := [(9, img [(0, [9, 0, 0, 1])])], lanes := [(6, 5)], rt := [(9, { link := true, speed := 3 })] }
                      alm := { state := .locked, slavePort := some 9, i := 18000 } } with
      | .next t => (t.alm.i.floor, t.alm.a, t.alm.inc)
      | _ => (0, 0, 0)) = (18096, 18320, 17179554449) := by decide +kernel

/-- 01_architecture, the latency target: 300 ns with a margin of 15 % asks for 802.9 Mtok/s; slow silicon at 85 °C gives 720 and 810. -/
theorem test_latency_target :
    (requiredPace { State.reset with power := { State.reset.power with pacePolicy := some (fit 48 ([0, 15, 2, 0] ++ le 4 300)) } } * 10).floor = 8029 ∧
    floorPace 800 85 = 720 ∧ floorPace 850 85 = 810 := by decide +kernel

/-- 02_rows_and_plots, encoding two paths: /0/40 is row 40, /1/44 is row 300; R45 references. -/
theorem test_paths : target (cmd [] [0, 40]) upPart = .at_ (.row 40) [] ∧ target (cmd [] [1, 44]) upPart = .at_ (.row 300) [] ∧
    target (cmd [] []) upPart = .at_ .device [] := by decide +kernel

/-- 03_plough_ingress, one heading sentence: the keys of GNHDT, and the checksum 2Fh. -/
theorem test_heading_sentence :
    iecKey false [0x24, 0x47, 0x4E, 0x48, 0x44, 0x54] = 0x15474E4844540000 ∧ iecKey true [0x24, 0x47, 0x4E, 0x48, 0x44, 0x54] = 0x1500004844540000 ∧
    xorSum [0x47, 0x4E, 0x48, 0x44, 0x54, 0x2C, 0x31, 0x32, 0x33, 0x2E, 0x34, 0x2C, 0x54] = 0x2F := by decide +kernel

/-- 03_plough_ingress, a door controller frame: key 2102_0000_0000_0000h over the unescaped sequence 21h 02h 05h 00h. -/
theorem test_door_frame :
    ufKey { row := 0, stamp := 0, unesc := [0x21, 0x02, 0x05, 0x00], framing := img [(0, [1]), (14, [2]), (16, [0, 1])] } = (0x2102000000000000, false) ∧
    (unescape (some 0x10) 0x20 1 [0x21, 0x10, 0x22, 0x05, 0x00]).map (·.2) = [0x21, 0x02, 0x05, 0x00] := by decide +kernel

/-- The stored sentence `$GNHDT,123.4,T*2F` CR LF, its grain, and the profile of 04_harrow_routing's rewrite example. -/
def heading : Bytes := [0x24, 0x47, 0x4E, 0x48, 0x44, 0x54, 0x2C, 0x31, 0x32, 0x33, 0x2E, 0x34, 0x2C, 0x54, 0x2A, 0x32, 0x46, 0x0D, 0x0A]
def headingGrain : Grain := { key := 0x15474E4844540000, stamp := 1750000037250000000, row := 2, len := 19, kind := 0 }
def rewritePart : State := { upPart with field := { join := 2, dev := 1 }, bank := { rewrites := [(0, img [(1, [0x0D]), (2, [0x47, 0x50])])] } }

/-- 04_harrow_routing, rewrite output: `\s:Q01R002,c:1750000000*0F\$GPHDT,123.4,T*31` CR LF, 46 bytes. -/
theorem test_rewrite_output :
    (rewrite 0x40 7 headingGrain heading rewritePart).1 =
      [0x5C, 0x73, 0x3A, 0x51, 0x30, 0x31, 0x52, 0x30, 0x30, 0x32, 0x2C, 0x63, 0x3A, 0x31, 0x37, 0x35, 0x30, 0x30, 0x30, 0x30, 0x30, 0x30, 0x30, 0x2A,
       0x30, 0x46, 0x5C, 0x24, 0x47, 0x50, 0x48, 0x44, 0x54, 0x2C, 0x31, 0x32, 0x33, 0x2E, 0x34, 0x2C, 0x54, 0x2A, 0x33, 0x31, 0x0D, 0x0A] := by
  decide +kernel

/-- 16_integrity_and_tally, a legacy RS-485 frame: CRC-8 of 21h 05h is A0h, of 21h 04h A7h; the frame passes or mismatches. -/
def legacyUnit : Img := img [(4, [8]), (16, [7]), (40, [0, 0, 0x01, 0x80, 0x01, 0x80])]
def legacyFraming : Img := img [(0, [1]), (6, [1]), (7, [2, 3])]

theorem test_legacy_crc : crc 8 7 0 false false 0 [0x21, 0x05] = 0xA0 ∧ crc 8 7 0 false false 0 [0x21, 0x04] = 0xA7 ∧
    tyVerify legacyUnit none 5 legacyFraming [2, 0x21, 0x05, 0xA0, 3] = (.good, none) ∧
    tyVerify legacyUnit none 5 legacyFraming [2, 0x21, 0x04, 0xA0, 3] = (.mismatch, none) := by decide +kernel

/-- 16_integrity_and_tally, an alive counter: field 2E09h, window 2, on the last byte of a CAN record. -/
def aliveUnit : Img := img [(46, [0x09, 0x2E])]
def aliveFrame (n : Nat) : Bytes := List.replicate 23 0 ++ [byte n]

theorem test_alive_counter : tyVerify aliveUnit (some 5) 1 [] (aliveFrame 6) = (.good, some 6) ∧ tyVerify aliveUnit (some 7) 1 [] (aliveFrame 7) = (.repeat_, some 7) ∧
    tyVerify aliveUnit (some 7) 1 [] (aliveFrame 9) = (.good, some 9) ∧ tyVerify aliveUnit (some 9) 1 [] (aliveFrame 14) = (.jump, some 14) ∧
    tyVerify aliveUnit (some 15) 1 [] (aliveFrame 0) = (.good, some 0) := by decide +kernel

/-- 09_backbone_ports, a log upload over TCP: an 18-byte Ethernet header with a VLAN tag, IPv4, TCP with 12 bytes of options. -/
def tcpHeader : Bytes :=
  List.replicate 12 0 ++ [0x81, 0, 0, 1, 8, 0] ++ [0x45, 0, 0, 0, 0x3A, 0x10, 0, 0, 64, 6, 0, 0, 10, 0, 0, 1, 10, 0, 0, 2] ++
  [0, 80, 0, 80, 0, 0x0F, 0x42, 0x40, 0, 0, 0, 0, 0x80, 0x18, 0, 0, 0, 0, 0, 0] ++ List.replicate 12 1

/-- Seven segments: six frames of 1518 bytes before the FCS and one of 1382; the last carries identification 3A16h, sequence number
1,008,688 and PSH with ACK, the first ACK alone. -/
theorem test_segmentation :
    ((segments 70 1448 (tcpHeader ++ List.replicate 10000 0)).getD []).map List.length = [1518, 1518, 1518, 1518, 1518, 1518, 1382] ∧
    (((segments 70 1448 (tcpHeader ++ List.replicate 10000 0)).getD []).map (fun f => (ofBe (sub f 20 4) / 65536, ofBe (sub f 22 2), ofBe (sub f 42 4), u8 f 51)))
      = [(1500, 0x3A10, 1000000, 0x10), (1500, 0x3A11, 1001448, 0x10), (1500, 0x3A12, 1002896, 0x10), (1500, 0x3A13, 1004344, 0x10),
         (1500, 0x3A14, 1005792, 0x10), (1500, 0x3A15, 1007240, 0x10), (1364, 0x3A16, 1008688, 0x18)] := by decide +kernel

/-- 10_host_interfaces, reading EV_PENDING at 200 MHz: bit 0 in the first byte. -/
theorem test_read_ev_pending :
    (match exec (.xspiRead 0x40 8 5000 false) { upPart with ev := { pending := 1, intn := false }, hold := { upPart.hold with xspi8d := true } } with
      | .next t => t.hostRead
      | _ => []) = [1, 0, 0, 0, 0, 0, 0, 0] := by decide +kernel

/-- 10_host_interfaces, R317: HOLD_ID reads 1512h. -/
theorem test_hold_id : (match exec (.xspiRead 0 4 5000 false) upPart with
    | .next t => t.hostRead
    | _ => []) = [0x12, 0x15, 0, 0] := by decide +kernel

/-- 10_host_interfaces, after R337: a flawed frame of 9022 bytes needs 5 descriptors of 2 KiB, a 46-byte sentence one. -/
theorem test_ring_need : ringNeed { create := img [(4, w 4 2048)] } 9022 = 5 ∧ ringNeed { create := img [(4, w 4 2048)] } 46 = 1 := by
  decide +kernel

/-- 12_commands_configuration, one Team route slot: opcode 0301h, tag 9, generation 1, path /0/2 (row 2). -/
def teamSlot : Bytes := fit 64 ([0x01, 0x03, 0x09, 0x01, 2, 0, 0, 2, 0, 0, 0, 0, 0, 0, 0, 0] ++ [0, 0, 0x43, 0x4D, 0x52, 0, 0, 0x15])

theorem test_team_slot : u16 teamSlot 0 = 0x0301 ∧ (parseSlot 0 teamSlot upPart).tag = 9 ∧ (parseSlot 0 teamSlot upPart).gen = 1 ∧
    (parseSlot 0 teamSlot upPart).hops = [0, 2] ∧ target (parseSlot 0 teamSlot upPart) upPart = .at_ (.row 2) [] ∧
    u64 (parseSlot 0 teamSlot upPart).params 0 = 0x15000052_4D430000 := by decide +kernel

/-- 14_stile_bridge, a remote counter read: window offset 300_2150h falls in region 3, whose target base is 10_0000h. -/
theorem test_remote_offset :
    (let s : State := { upPart with stile := { regions := [(3, { base := 0x3000000, size := 0x100000, target := 0x100000, ctrl := 0x0000008F })] } }
     regionAt 0x3002150 s = some 3 ∧ rTarget (regionOf 3 s) + (0x3002150 - rBase (regionOf 3 s)) = 0x102150) := by decide +kernel

/-- 19_events_and_faults, two lane faults: a stall of lane 1 isolates it, and lane 4 comes into service with the Steward's step. -/
theorem test_lane_fault :
    (match exec (.fabricStall (.lane 1)) upPart with
      | .next t => match exec .stewardStep t with
        | .next u => (u.harrow.lanes, u.harrow.isolated, u.ev.pending)
        | _ => ([], [], 0)
      | _ => ([], [], 0)) = ([0, 2, 3, 4], [1], (BitVec.ofNat 64 (2 ^ 36))) := by decide +kernel

/-- 04_harrow_routing, after R145: an interval of 950 ms passes stamps 0, 1000 ms and 2000 ms of a 10 Hz source and thins those between. -/
theorem test_thinning_interval : (thin (img [(24, w 4 (950000 + 2 * 2 ^ 30))]) 1000000000 { last := some 0 }).1 = true ∧
    (thin (img [(24, w 4 (950000 + 2 * 2 ^ 30))]) 900000000 { last := some 0 }).1 = false ∧
    (thin (img [(24, w 4 (10 + 2 ^ 30))]) 0 { count := 9 }) = (false, { count := 0 }) ∧ (thin (img [(24, w 4 (10 + 2 ^ 30))]) 0 {}).1 = true := by
  decide +kernel

/-- 06_release_and_drill, bundling: an entry of a 19-byte Tell sentence takes 52 bytes, and 28 of them fill an MTU of 1500. -/
theorem test_sheaf_entry : (sheafEntry headingGrain heading upPart).length = 52 ∧ (1500 - 16) / (sheafEntry headingGrain heading upPart).length = 28 := by
  decide +kernel

/-- R209, R210, R219: the frame of a hail is 18 bytes of Ethernet with its tag, a Sheaf header of 16, then the message of type 1. -/
def hailPart : State := { upPart with field := { join := 1, id := 1, settings := img [(4, [2, 0])] } }

theorem test_hail_frame :
    (match exec .hailInterval hailPart with
      | .next t => (tgetD 1 [] t.drill.ports).map (fun (c : Copy) => (c.out.drop 34 == controlMessage 1 (hailBody hailPart), u8 c.out 34))
      | _ => []) = [(true, 1)] := by decide +kernel

/-- The digest of "abc" in FIPS 180-4. -/
theorem test_sha256 : sha256 [0x61, 0x62, 0x63] = be 32 0xba7816bf8f01cfea414140de5dae2223b00361a396177a9cb410ff61f20015ad := by decide +kernel

/-- R154: at nominal increment one cycle of the working clock is 4 ns. -/
theorem test_idle_step : (match step upPart with
    | .next t => (t.alm.ns, t.pending)
    | _ => (0, [])) = (4, []) := by decide +kernel

end Sys2Proof.Tests
end

section
/-! PROOF. The statements of the family of 00_scope.md: every command completes (O2), the cipher commands of the two variants and the
Gate (O22, O23), the event and queue registers (O39). -/

namespace Sys2Proof.Machine

/-! ### Every command completes -/

/-- Settles O2: `exec_ok` with the claim that names the queue alone. -/
theorem everyCommandCompletesAndKeepsTheQueue : Obligations.EveryCommandCompletesAndKeepsTheQueue := by
  intro i s
  have h : Ok { queue := s.pending, inv := false } s := ⟨rfl, by simp⟩
  obtain ⟨t, ht, hq, -⟩ := exec_ok (i := i) h
  exact ⟨t, ht, hq⟩

/-! ### Commands that reach a plot of this device -/

/-- A generation kept under a tag leaves the rest of the state alone. -/
@[simp] theorem taken_keys (c : Call) (s : State) : (taken c s).keys = s.keys := by unfold taken; split <;> rfl
@[simp] theorem taken_fixed (c : Call) (s : State) : (taken c s).fixed = s.fixed := by unfold taken; split <;> rfl
@[simp] theorem taken_free (c : Call) (s : State) : (taken c s).free = s.free := by unfold taken; split <;> rfl

/-- Eulyn takes the command, and its tag, path bits and bulk area are in order; its path leads to the plot `p` (R346, R351, R352). -/
structure Reaches (c : Call) (p : Plot) (s : State) : Prop where
  takeable : takeable c.queue s = true
  tag : tagCheck c s = .ok
  boot : s.hold.bootPhase ≠ 5
  path : c.pathReserved = false
  area : areaCheck c (taken c s) = .ok
  target : target c (taken c s) = .at_ p []

/-- Past its flags, such a command is refused by the check before the act, or acts. -/
theorem Reaches.serve {k : Cmd} {c : Call} {p : Plot} {s : State} (h : Reaches c p s) (hf : flagCheck k c (taken c s) = .ok) :
    serve k c s = if firstCheck k c p (taken c s) = .ok then performAt k c none p [] false (taken c s)
      else respond k.opcode c none { status := firstCheck k c p (taken c s) } (taken c s) := by
  rw [taken_takes k c s h.takeable h.tag]
  simp only [perform, taken_bootPhase, h.boot, hf, h.path, h.area, h.target]
  by_cases hc : firstCheck k c p (taken c s) = .ok <;> simp [hc]

theorem flagCheck_plain (k : Cmd) {c : Call} (s : State) (ha : c.atomic = false) (hs : c.staged = false) : flagCheck k c s = .ok := by
  simp [flagCheck, isRead, ha, hs]

/-- A command that acts on the device at once does its work there and answers with it. -/
theorem performAt_device {k : Cmd} {c : Call} (s : State) (hd : applies k.scope .device = true) (hj : k.journaled = false)
    (hw : c.atomic = false ∨ c.staged = true) : performAt k c none .device [] false s = performSingle k c none .device s := by
  rcases hw with hw | hw <;> simp [performAt, hd, hj, hw]

/-- R2: a command whose device lacks what it is for answers ST_NOT_PERMITTED and does nothing. -/
theorem answers_lacking {i : Instr} {k : Cmd} {c : Call} {s : State} (he : exec i s = .next (serve k c s)) (h : Reaches c .device s)
    (hc : Canonical s) (ha : c.atomic = false) (hs : c.staged = false) (hd : applies k.scope .device = true)
    (hl : k.lacks (taken c s) = true) : Answers i k.opcode c { status := .notPermitted } s (taken c s) := by
  have hk : firstCheck k c .device (taken c s) = .notPermitted := by simp [firstCheck, isRead, ha, hl, hd]
  refine ⟨_, he, ?_⟩
  rw [h.serve (flagCheck_plain k _ ha hs), hk, if_neg (by decide)]
  exact respond_reports _ _ _ _ (taken_canonical c s hc) rfl

/-- The same of its read request, which is checked where the command would act. -/
theorem answers_read_lacking {i : Instr} {k : Cmd} {c : Call} {s : State} (he : exec i s = .next (serve k c s)) (h : Reaches c .device s)
    (hc : Canonical s) (ha : c.atomic = true) (hs : c.staged = true) (hb : c.bulkResult = true) (hr : k.read.isSome = true)
    (hj : k.journaled = false) (hd : applies k.scope .device = true) (hl : k.lacks (taken c s) = true) :
    Answers i k.opcode c { status := .notPermitted } s (taken c s) := by
  have hf : flagCheck k c (taken c s) = .ok := by simp [flagCheck, isRead, ha, hs, hb, hr]
  have hk : firstCheck k c .device (taken c s) = .ok := by simp [firstCheck, isRead, ha, hs]
  have hx : actOn k c .device (taken c s) = { status := .notPermitted, st := taken c s } := by simp [actOn, hl]
  have hp : performSingle k c none .device (taken c s) =
      respond k.opcode c none { status := .notPermitted } (taken c s) := by
    simp [performSingle, hx, countDirect, singleFinal, isRead, ha, hs]
  refine ⟨_, he, ?_⟩
  rw [h.serve hf, if_pos hk, performAt_device _ hd hj (.inr hs), hp]
  exact respond_reports _ _ _ _ (taken_canonical c s hc) rfl

/-! ### The cipher commands on the QTL-512E -/

theorem noCipher_of_variantE {s : State} (c : Call) (h : s.fixed.variantE = true) : noCipher (taken c s) = true := by
  simp [noCipher, cipherPresent, h]

/-- R2: without a cipher engine KEY_STATE reports zero key slots. -/
theorem actKeyState_variantE (c : Call) (n : Nat) {s : State} (h : s.fixed.variantE = true) :
    actKeyState c n s = { inline := fit 4 [] ++ le 2 0 ++ fit 26 [] ++ keySummary s, st := s } := by
  simp [actKeyState, cipherPresent, h]

/-- KEY_STATE on the QTL-512E passes every check of its own and answers. -/
theorem keyState_answers_variantE {c : Call} {s : State} (h : Reaches c .device s) (hv : s.fixed.variantE = true) (hc : Canonical s)
    (ha : c.atomic = false) (hs : c.staged = false) (hk : cmdKeyState.check c (taken c s) = .ok) :
    Answers (.keyState c) 0x0805 c { inline := fit 4 [] ++ le 2 0 ++ fit 26 [] ++ keySummary (taken c s) } s (taken c s) := by
  have hf : firstCheck cmdKeyState c .device (taken c s) = .ok := by
    simp only [firstCheck, isRead, ha, hk, Bool.false_and, Bool.false_eq_true, if_false]; rfl
  have ho : cmdKeyState.own c (taken c s) = .ok := by simp [cmdKeyState, need, cipherPresent, hv]
  have hx : actOn cmdKeyState c .device (taken c s) = actKeyState c 0 (taken c s) := by
    simp only [actOn, isRead, ha, hs, ho]; rfl
  have hp : performSingle cmdKeyState c none .device (taken c s) =
      respond 0x0805 c none { inline := fit 4 [] ++ le 2 0 ++ fit 26 [] ++ keySummary (taken c s) } (taken c s) := by
    rw [performSingle, hx, actKeyState_variantE c 0 (by simpa using hv)]; rfl
  refine ⟨_, show exec (.keyState c) s = .next (serve cmdKeyState c s) from rfl, ?_⟩
  rw [h.serve (flagCheck_plain _ _ ha hs), if_pos hf, performAt_device _ rfl rfl (.inl ha), hp]
  exact respond_reports _ _ _ _ (taken_canonical c s hc) rfl

/-- Settles O22: the check of R2 comes before the act, and KEY_STATE is the one key command without it. -/
theorem cipherCommandsOfTheVariantE : Obligations.CipherCommandsOfTheVariantE := by
  intro i k c s hv hm h1 h2 h3 h4 h5 h6 hc
  have h : Reaches c .device s := ⟨h1, h2, h3, h4, h5, h6⟩
  have hl := noCipher_of_variantE c hv
  refine ⟨fun ha hs hi => ?_, fun hi ha hs hb => ?_, fun hi ha hs hk => ?_⟩
  · rcases hi with rfl | rfl | rfl | rfl | rfl <;> cases hm <;> exact answers_lacking rfl h hc ha hs rfl hl
  · subst hi; cases hm
    exact answers_read_lacking rfl h hc ha hs hb rfl rfl rfl hl
  · subst hi; cases hm
    exact ⟨_, keyState_answers_variantE h hv hc ha hs hk, rfl, rfl⟩

end Sys2Proof.Machine
end

section
/-! PROOF. The key commands of the QTL-512A, the Gate and its timers (R424 to R428, R463, R504 to R515). -/

namespace Sys2Proof.Machine

/-! ### Key slots -/

@[simp] theorem raise_keys (n o : Nat) (s : State) : (raise n o s).keys = s.keys := by rw [raise_frame]

theorem raise_pending {n : Nat} (o : Nat) (s : State) (hn : n < 64) (hc : coalesced n = false) :
    (raise n o s).ev.pending.getLsbD n = true := raiseD_pending hn hc

theorem slotOf_congr {s t : State} (h : t.keys = s.keys) (n : Nat) : slotOf n t = slotOf n s := by unfold slotOf; rw [h]

@[simp] theorem slotOf_taken (n : Nat) (c : Call) (s : State) : slotOf n (taken c s) = slotOf n s := slotOf_congr (taken_keys c s) n

@[simp] theorem slotOf_raise (m n o : Nat) (s : State) : slotOf m (raise n o s) = slotOf m s := slotOf_congr (raise_keys n o s) m

@[simp] theorem slotOf_putSlot_same (n : Nat) (v : KeySlot) (s : State) : slotOf n (putSlot n v s) = v := tgetD_tset_same ..

theorem slotOf_putSlot_other {m n : Nat} (h : m ≠ n) (v : KeySlot) (s : State) : slotOf m (putSlot n v s) = slotOf m s :=
  tgetD_tset_other h ..

theorem slotState_eq (n : Nat) (st : SlotState) (s : State) : slotState n st s =
    if (slotOf n s).state = st then s else raise 50 n (putSlot n { slotOf n s with state := st } s) := rfl

@[simp] theorem slotOf_slotState_same (n : Nat) (st : SlotState) (s : State) :
    slotOf n (slotState n st s) = { slotOf n s with state := st } := by
  rw [slotState_eq]
  split
  · next h => rw [← h]
  · simp

theorem slotOf_slotState_other {m n : Nat} (h : m ≠ n) (st : SlotState) (s : State) : slotOf m (slotState n st s) = slotOf m s := by
  rw [slotState_eq]
  split
  · rfl
  · rw [slotOf_raise, slotOf_putSlot_other h]

theorem slotOf_loseNext_same (n : Nat) (s : State) : slotOf n (loseNext n s) = { slotOf n s with pred := none } := slotOf_putSlot_same ..

theorem slotOf_loseNext_other {m n : Nat} (h : m ≠ n) (s : State) : slotOf m (loseNext n s) = slotOf m s := slotOf_putSlot_other h ..

/-! ### Erasing -/

/-- Stomping the frames under a key touches the ports, not the keys. -/
@[simp] theorem stompFrames_keys (hit : Nat → Bool) (s : State) : (stompFrames hit s).keys = s.keys := by
  have fold (l : List Nat) (t : State) : (l.foldl (fun s p => countPort p 30 1 s) t).keys = t.keys := by
    induction l generalizing t with
    | nil => rfl
    | cons p l ih => exact ih _
  exact fold _ _

theorem slotOf_eraseSlot_same (n : Nat) (s : State) : slotOf n (eraseSlot n s) = {} := by
  simp [slotOf, eraseSlot, tgetD, tget_tdel_same]

theorem slotOf_eraseSlot_other {m n : Nat} (h : m ≠ n) (s : State) : slotOf m (eraseSlot n s) = slotOf m s := by
  rw [← slotOf_slotState_other h .empty s]
  simp [slotOf, eraseSlot, tgetD, tget_tdel_other h]

theorem mem_tkeys_tset {α : Type} {m k : Nat} {v : α} {t : Tbl α} (h : m ∈ tkeys (tset k v t)) : m = k ∨ m ∈ tkeys t := by
  induction t with
  | nil => exact .inl (by simpa [tset, tkeys] using h)
  | cons e t ih =>
    obtain ⟨i, w⟩ := e
    simp only [tkeys, List.map_cons, List.mem_cons] at ih ⊢
    unfold tset at h
    split at h
    · simpa [tkeys] using h
    · split at h
      · next hi => subst hi; simp only [tkeys, List.map_cons, List.mem_cons] at h; tauto
      · simp only [tkeys, List.map_cons, List.mem_cons] at h; tauto

theorem mem_tkeys_tdel {α : Type} {m k : Nat} {t : Tbl α} (h : m ∈ tkeys (tdel k t)) : m ∈ tkeys t ∧ m ≠ k := by
  simp only [tkeys, tdel, List.mem_map, List.mem_filter, bne_iff_ne] at h
  obtain ⟨e, ⟨he, hk⟩, rfl⟩ := h
  exact ⟨List.mem_map_of_mem he, hk⟩

/-- Erasing a slot takes it out of the table and adds none. -/
theorem mem_slots_eraseSlot {m n : Nat} {s : State} (h : m ∈ tkeys (eraseSlot n s).keys.slots) :
    m ∈ tkeys s.keys.slots ∧ m ≠ n := by
  obtain ⟨hm, hn⟩ := mem_tkeys_tdel h
  refine ⟨?_, hn⟩
  rw [slotState_eq] at hm
  split at hm
  · exact hm
  · rw [raise_keys] at hm
    exact (mem_tkeys_tset hm).resolve_left hn

theorem mem_slots_eraseSlots {m : Nat} {l : List Nat} {s : State}
    (h : m ∈ tkeys (l.foldl (fun s n => eraseSlot n s) s).keys.slots) :
    m ∈ tkeys s.keys.slots ∧ m ∉ l := by
  induction l generalizing s with
  | nil => exact ⟨h, by simp⟩
  | cons n l ih =>
    obtain ⟨hs, hl⟩ := ih h
    obtain ⟨hs, hn⟩ := mem_slots_eraseSlot hs
    exact ⟨hs, by simp [hn, hl]⟩

theorem eraseAll_slots (s : State) : (eraseAll s).keys.slots = [] := by
  have h (m : Nat) : m ∉ tkeys (eraseAll s).keys.slots := by
    rw [eraseAll, stompFrames_keys]
    intro hm
    exact (mem_slots_eraseSlots hm).2 (mem_slots_eraseSlots hm).1
  exact List.map_eq_nil_iff.1 (List.eq_nil_iff_forall_not_mem.2 h)

/-! ### What the key commands do -/

theorem onCipher_variantA {s : State} (h : s.fixed.variantE = false) (f : State → Work) : onCipher f s = f s := by
  simp [onCipher, cipherPresent, h]

@[simp] theorem derivedKey_taken (text : Bytes) (c : Call) (s : State) : derivedKey text (taken c s) = derivedKey text s := by
  simp [derivedKey]

/-- A key put into a slot: the slot is Installed, its PN starts anew, and it is no slot's successor. -/
def installKey (n : Nat) (key : Bytes) (s : State) : State :=
  loseNext n (slotState n .installed (putSlot n { slotOf n s with key, nextPn := saInitial (slotOf n s).sa, used := false } s))

theorem slotOf_installKey_same (n : Nat) (key : Bytes) (s : State) : slotOf n (installKey n key s) =
    { slotOf n s with state := .installed, key, nextPn := saInitial (slotOf n s).sa, used := false, pred := none } := by
  simp [installKey, slotOf_loseNext_same]

theorem slotOf_installKey_other {m n : Nat} (h : m ≠ n) (key : Bytes) (s : State) : slotOf m (installKey n key s) = slotOf m s := by
  rw [installKey, slotOf_loseNext_other h, slotOf_slotState_other h, slotOf_putSlot_other h]

section
variable {c : Call} {s : State} (hv : s.fixed.variantE = false) (hk : s.keys.kek = true) (ho : s.keys.otpLocked = false)
  (hu : inUse (slotOf (slotNo c) s) = false) (hn : (slotOf (slotNo c) s).state ≠ .next)
include hv hk ho hu hn

/-- KEY_INSTALL of a slot not in use with a wrapping that is not intact. -/
theorem actKeyInstall_broken (hw : unwrapKey (derivedKey kekText s) (sub (fit 48 c.params) 8 (u8 (fit 48 c.params) 3 + 8)) = none) :
    actKeyInstall c 0 s = { status := .badParam, st := s } := by
  unfold actKeyInstall
  rw [onCipher_variantA hv]
  simp [hk, ho, hu, hn, hw]

/-- The same with an intact wrapping: the key goes into the slot, and no channel is left waiting. -/
theorem actKeyInstall_intact {key : Bytes}
    (hw : unwrapKey (derivedKey kekText s) (sub (fit 48 c.params) 8 (u8 (fit 48 c.params) 3 + 8)) = some key) :
    actKeyInstall c 0 s = { inline := le 1 2, st := installKey (slotNo c) key s } := by
  have hf : forceWait (slotOf (slotNo c) s) s = s := by simp [forceWait, hu]
  have hst : (slotOf (slotNo c) (installKey (slotNo c) key s)).state.code = 2 := by rw [slotOf_installKey_same]; rfl
  unfold installKey at hst
  unfold actKeyInstall installKey
  rw [onCipher_variantA hv]
  simp [hk, ho, hu, hn, hw, hf, hst]

end

/-- Role 1: an Installed slot becomes the Next slot after slot `p`, and its channel waits no more. -/
def becomeNext (n p : Nat) (s : State) : State :=
  endWait (saPort (slotOf n s).sa) (putSlot n { slotOf n s with state := .next, pred := some p } (slotState n .next s))

theorem slotOf_becomeNext_same (n p : Nat) (s : State) :
    slotOf n (becomeNext n p s) = { slotOf n s with state := .next, pred := some p } := slotOf_putSlot_same ..

theorem slotOf_becomeNext_other {m n : Nat} (h : m ≠ n) (p : Nat) (s : State) : slotOf m (becomeNext n p s) = slotOf m s := by
  rw [← slotOf_slotState_other h .next s]
  exact slotOf_putSlot_other h ..

theorem actKeyActivate_switch {c : Call} {s : State} (hv : s.fixed.variantE = false) (hr : u8 (fit 48 c.params) 2 = 0)
    (hi : (slotOf (slotNo c) s).state = .installed) (hc : configured (slotOf (slotNo c) s) = true)
    (hx : saReceive (slotOf (slotNo c) s).sa = false) : actKeyActivate c 0 s = { st := switchAt (slotNo c) s } := by
  unfold actKeyActivate
  rw [onCipher_variantA hv]
  simp [hr, hi, hc, hx]

theorem actKeyActivate_next {c : Call} {s : State} {w : KeySlot} (hv : s.fixed.variantE = false)
    (hr : u8 (fit 48 c.params) 2 = 1) (hw : w = slotOf (u16 (fit 48 c.params) 4) s)
    (hi : (slotOf (slotNo c) s).state = .installed) (hc : configured (slotOf (slotNo c) s) = true)
    (hx : saReceive (slotOf (slotNo c) s).sa = false) (hcw : configured w = true)
    (hp : saPort w.sa = saPort (slotOf (slotNo c) s).sa) (hs : saSci w.sa = saSci (slotOf (slotNo c) s).sa)
    (ha : saAn w.sa ≠ saAn (slotOf (slotNo c) s).sa) :
    actKeyActivate c 0 s = { st := becomeNext (slotNo c) (u16 (fit 48 c.params) 4) s } := by
  subst hw
  unfold actKeyActivate
  rw [onCipher_variantA hv]
  simp [hr, hi, hc, hx, hcw, hp, hs, ha, becomeNext]

theorem actKeyActivate_receive {c : Call} {s : State} (hv : s.fixed.variantE = false) (hr : u8 (fit 48 c.params) 2 = 2)
    (hi : (slotOf (slotNo c) s).state = .installed) (hc : configured (slotOf (slotNo c) s) = true)
    (hx : saReceive (slotOf (slotNo c) s).sa = true) : actKeyActivate c 0 s = { st := slotState (slotNo c) .active s } := by
  unfold actKeyActivate
  rw [onCipher_variantA hv]
  simp [hr, hi, hc, hx]

theorem actKeyErase_variantA {c : Call} {s : State} (hv : s.fixed.variantE = false) :
    actKeyErase c 0 s = { inline := le 4 (stompPorts (fun m => m == slotNo c) s).length
                          st := raise 54 (slotNo c) (stompFrames (fun m => m == slotNo c) (eraseSlot (slotNo c) s)) } :=
  onCipher_variantA hv _

theorem actZeroize_variantA {c : Call} {s : State} (hv : s.fixed.variantE = false) :
    actZeroize c 0 s = { inline := le 4 (stompPorts (fun _ => true) s).length, st := raise 54 noObject (eraseAll s) } :=
  onCipher_variantA hv _

/-- SA_CONFIG of a transmit association in a slot that is not in use and has sent no frame. -/
theorem actSaConfig_transmit {c : Call} {s : State} (hv : s.fixed.variantE = false)
    (hu : inUse (slotOf (slotNo c) s) = false) (hn : (slotOf (slotNo c) s).state ≠ .next)
    (hf : (slotOf (slotNo c) s).used = false) (hx : saReceive (fit 48 c.params) = false) :
    actSaConfig c 0 s = { st := { s with keys := { s.keys with
      slots := tset (slotNo c) { slotOf (slotNo c) s with
        sa := fit 48 c.params ++ fit 16 c.bulk, nextPn := saInitial (fit 48 c.params), pred := none } s.keys.slots
      protTx := insertNat (u8 (fit 48 c.params) 2) s.keys.protTx } } } := by
  unfold actSaConfig
  rw [onCipher_variantA hv]
  simp [hu, hn, hf, hx, putSlot]

/-- KEY_STATE reads the keys and the variant alone. -/
theorem actKeyState_taken (c : Call) (n : Nat) (s : State) :
    actKeyState c n (taken c s) = { inline := (actKeyState c n s).inline, st := taken c s } := by
  have hp : cipherPresent (taken c s) = cipherPresent s := by simp [cipherPresent]
  have hs : keySummary (taken c s) = keySummary s := by simp [keySummary, slotsIn]
  simp only [actKeyState, slotOf_taken, hp, hs]
  split <;> rfl

@[simp] theorem freshNonce_taken (c : Call) (s : State) : freshNonce (taken c s) = freshNonce s := by simp [freshNonce, pick]

theorem actGateRequest_local {c : Call} {s : State} (hq : c.queue ≠ 3) (hw : s.keys.wrong < 3) (ho : s.keys.otpLocked = false) :
    actGateRequest c 0 s = { inline := freshNonce s ++ le 8 s.fixed.serial
                             st := { s with free := s.free + 1, keys.nonce := some (freshNonce s) } } := by
  simp [actGateRequest, hq, ho, Nat.not_le.2 hw, picked]

@[simp] theorem gateRight_taken (c : Call) (s : State) : gateRight c (taken c s) = gateRight c s := by simp [gateRight]

/-- A response from a local queue raises event 53 and uses up the nonce. -/
def responded (s : State) : State := raise 53 noObject { s with keys.nonce := none }

theorem responded_keys (s : State) : (responded s).keys = { s.keys with nonce := none } := raise_keys ..

theorem responded_pending (s : State) : (responded s).ev.pending.getLsbD 53 = true := raise_pending _ _ (by decide) (by decide)

theorem actGateRespond_right {c : Call} {s : State} (hq : c.queue ≠ 3) (ho : s.keys.otpLocked = false)
    (hr : gateRight c s = true) :
    actGateRespond c 0 s = { long := some .gateOpen, st := { responded s with keys.wrong := 0 } } := by
  have hl : (responded s).keys.otpLocked = false := by rw [responded_keys]; exact ho
  unfold responded at hl ⊢
  simp only [actGateRespond, hq, hr, hl, if_false]
  rfl

theorem actGateRespond_wrong {c : Call} {s : State} (hq : c.queue ≠ 3) (hr : gateRight c s = false) :
    actGateRespond c 0 s =
      { status := .notPermitted, st := { responded s with keys.wrong := (responded s).keys.wrong + 1 } } := by
  simp only [actGateRespond, hq, hr, if_false]
  rfl

/-! ### The commands heard on the device -/

/-- A command that acts on the device at once and answers with a result of its own layout. -/
structure DeviceCmd (k : Cmd) : Prop where
  scope : applies k.scope .device = true
  unjournaled : k.journaled = false
  notBank : k.bank = false
  whole : k.item = 0
  keeps : CmdOk k

/-- The state in which such a command leaves the part has canonical memories. -/
theorem DeviceCmd.canonical {k : Cmd} (hk : DeviceCmd k) {c : Call} {s : State} {x : Work} (h : Heard k c .device s)
    (hx : k.act c 0 (taken c s) = x) : Canonical x.st := by
  subst hx
  exact ((hk.keeps _ c 0 _ h.ok).1.2 rfl).2

theorem DeviceCmd.answers {k : Cmd} (hk : DeviceCmd k) {i : Instr} {op : Nat} {c : Call} {s u : State} {st : Status} {b : Bytes}
    (h : Heard k c .device s) (ho : k.opcode = op) (he : exec i s = .next (serve k c s))
    (hx : k.act c 0 (taken c s) = { status := st, inline := b, st := u }) : Answers i op c { status := st, inline := b } s u :=
  answers_ok h _ ho he (.inl hk.scope) hk.unjournaled (.inl hk.notBank) hx rfl rfl rfl rfl (answerOf_plain hk.whole) (hk.canonical h hx)

theorem keyInstall_device : DeviceCmd cmdKeyInstall := ⟨rfl, rfl, rfl, rfl, cmdKeyInstall_ok⟩
theorem keyActivate_device : DeviceCmd cmdKeyActivate := ⟨rfl, rfl, rfl, rfl, cmdKeyActivate_ok⟩
theorem keyErase_device : DeviceCmd cmdKeyErase := ⟨rfl, rfl, rfl, rfl, cmdKeyErase_ok⟩
theorem saConfig_device : DeviceCmd cmdSaConfig := ⟨rfl, rfl, rfl, rfl, cmdSaConfig_ok⟩
theorem keyState_device : DeviceCmd cmdKeyState := ⟨rfl, rfl, rfl, rfl, cmdKeyState_ok⟩
theorem zeroizeAll_device : DeviceCmd cmdZeroizeAll := ⟨rfl, rfl, rfl, rfl, cmdZeroizeAll_ok⟩
theorem gateRequest_device : DeviceCmd cmdGateChallengeRequest := ⟨rfl, rfl, rfl, rfl, cmdGateChallengeRequest_ok⟩
theorem gateRespond_device : DeviceCmd cmdGateChallengeRespond := ⟨rfl, rfl, rfl, rfl, cmdGateChallengeRespond_ok⟩

section
variable {c : Call} {s : State}

theorem keyState_answers (h : Heard cmdKeyState c .device s) :
    Answers (.keyState c) 0x0805 c { inline := (actKeyState c 0 s).inline } s (taken c s) :=
  keyState_device.answers h rfl rfl (actKeyState_taken c 0 s)

theorem gateRespond_answers (h : Heard cmdGateChallengeRespond c .device s) (hq : c.queue ≠ 3) (ho : s.keys.otpLocked = false) :
    ∃ v, v.keys.nonce = none ∧ v.ev.pending.getLsbD 53 = true ∧
      (if gateRight c s = true then v.keys.wrong = 0 ∧ Starts (.gateChallengeRespond c) 0x0F0A c .gateOpen 0 s v
       else v.keys.wrong = s.keys.wrong + 1 ∧ Answers (.gateChallengeRespond c) 0x0F0A c { status := .notPermitted } s v) := by
  have hkeys := responded_keys (taken c s)
  have hpend := responded_pending (taken c s)
  by_cases hr : gateRight c s = true
  · have hx := actGateRespond_right hq (s := taken c s) (by simpa using ho) (by simpa using hr)
    refine ⟨{ responded (taken c s) with keys.wrong := 0 }, by simp [hkeys], hpend, ?_⟩
    rw [if_pos hr]
    exact ⟨rfl, starts_ok h _ rfl rfl (.inl rfl) rfl (.inl rfl) hx rfl rfl rfl (gateRespond_device.canonical h hx)⟩
  · have hx := actGateRespond_wrong hq (s := taken c s) (by simpa using hr)
    refine ⟨{ responded (taken c s) with keys.wrong := (responded (taken c s)).keys.wrong + 1 }, by simp [hkeys], hpend, ?_⟩
    rw [if_neg hr]
    exact ⟨by simp [hkeys], gateRespond_device.answers h rfl rfl hx⟩

end

/-- Settles O23: each command's act on the state taken, and what it leaves in its slot and the others. -/
theorem keysAndGate : Obligations.KeysAndGate := by
  refine ⟨?_, ?_⟩
  · rintro c n q s u rfl rfl rfl hv
    have hvt : (taken c s).fixed.variantE = false := by simpa using hv
    refine ⟨?_, ?_, ?_, ?_, ?_, ?_, keyState_answers, ?_⟩
    · intro h hk ho hu hn
      have hkt : (taken c s).keys.kek = true := by rwa [taken_keys]
      have hot : (taken c s).keys.otpLocked = false := by rwa [taken_keys]
      rw [← slotOf_taken (slotNo c) c s] at hu hn
      cases hw : unwrapKey (derivedKey kekText s) (sub (fit 48 c.params) 8 (u8 (fit 48 c.params) 3 + 8)) with
      | none =>
        rw [← derivedKey_taken kekText c s] at hw
        exact keyInstall_device.answers h rfl rfl (actKeyInstall_broken hvt hkt hot hu hn hw)
      | some key =>
        rw [← derivedKey_taken kekText c s] at hw
        exact ⟨_, keyInstall_device.answers h rfl rfl (actKeyInstall_intact hvt hkt hot hu hn hw), by simp [slotOf_installKey_same],
          fun m hm => by simp [slotOf_installKey_other hm]⟩
    · intro h hr hi hc hx
      rw [← slotOf_taken (slotNo c) c s] at hi hc hx
      have ha := actKeyActivate_receive hvt hr hi hc hx
      exact ⟨_, keyActivate_device.answers h rfl rfl ha, by simp, fun m hm => by simp [slotOf_slotState_other hm]⟩
    · intro h hr hi hc hx
      have ha := actKeyActivate_switch hvt hr (by rwa [slotOf_taken]) (by rwa [slotOf_taken]) (by rwa [slotOf_taken])
      have hu : switchAt (slotNo c) (taken c s) = { taken c s with keys := { s.keys with
          switchTo := tset (saPort (slotOf (slotNo c) s).sa) (slotNo c) s.keys.switchTo
          waiting := s.keys.waiting.filter (· != saPort (slotOf (slotNo c) s).sa) } } := by simp [switchAt, endWait]
      rw [hu] at ha
      exact keyActivate_device.answers h rfl rfl ha
    · intro w h hr hw hi hc hx hcw hp hs ha
      rw [← slotOf_taken _ c s] at hw hi hc hx hp hs ha
      have ha := actKeyActivate_next hvt hr hw hi hc hx hcw hp hs ha
      exact ⟨_, keyActivate_device.answers h rfl rfl ha, by simp [slotOf_becomeNext_same],
        fun m hm => by simp [slotOf_becomeNext_other hm]⟩
    · intro h
      refine ⟨_, _, keyErase_device.answers h rfl rfl (actKeyErase_variantA hvt), rfl, ?_, fun m hm => ?_, ?_⟩
      · rw [slotOf_raise, slotOf_congr (stompFrames_keys ..), slotOf_eraseSlot_same]
      · rw [slotOf_raise, slotOf_congr (stompFrames_keys ..), slotOf_eraseSlot_other hm, slotOf_taken]
      · exact raise_pending _ _ (by decide) (by decide)
    · intro h hu hn hf hx
      have ha := actSaConfig_transmit hvt (by rwa [slotOf_taken]) (by rwa [slotOf_taken]) (by rwa [slotOf_taken]) hx
      rw [slotOf_taken, taken_keys] at ha
      exact saConfig_device.answers h rfl rfl ha
    · intro h
      refine ⟨_, _, zeroizeAll_device.answers h rfl rfl (actZeroize_variantA (c := c) hvt), rfl, ?_, ?_⟩
      · rw [raise_keys, eraseAll_slots]
      · exact raise_pending _ _ (by decide) (by decide)
  · rintro c n s u rfl
    refine ⟨fun h hq hw ho => ?_, fun h hq ho => gateRespond_answers h hq ho, rfl, rfl⟩
    have ha := actGateRequest_local (s := taken c s) hq (by rwa [taken_keys]) (by rwa [taken_keys])
    rw [← freshNonce_taken c s, ← taken_fixed c s, ← taken_free c s]
    exact gateRequest_device.answers h rfl rfl ha

end Sys2Proof.Machine
end

section
/-! PROOF. Event registers, MSI-X, the snapshot registers, the doorbells and heads of the queues and the ring tails (R10, R157, R317,
R323 to R331, R569, R570). -/

namespace Sys2Proof.Machine

/-! ### Bits -/

theorem bitAt_getLsbD {n : Nat} (hn : n < 64) (k : Nat) : (bitAt 64 n).getLsbD k = decide (k = n) := by
  rw [bitAt, BitVec.getLsbD_ofNat, Nat.testBit_two_pow]
  by_cases h : k = n
  · subst h; simp [hn]
  · simp [h, Ne.symm h]

/-- A word with no bit in common with bit `n` has that bit clear. -/
theorem and_bitAt_eq_zero {n : Nat} (hn : n < 64) (v : BitVec 64) : v &&& bitAt 64 n = 0 ↔ v.getLsbD n = false := by
  constructor
  · intro h
    have hb := congrArg (fun w => w.getLsbD n) h
    simpa [bitAt_getLsbD hn] using hb
  · intro h
    apply BitVec.eq_of_getLsbD_eq
    intro k _
    by_cases hk : k = n
    · subst hk; simp [h]
    · simp [bitAt_getLsbD hn, hk]

theorem testBit_ofBits (l : List Bool) (n : Nat) : (ofBits l).testBit n = l.getD n false := by
  induction l generalizing n with
  | nil => simp [ofBits]
  | cons b l ih =>
    cases n with
    | zero => cases b <;> simp [ofBits, Nat.testBit_zero, Nat.add_mod]
    | succ n =>
      have hd : ofBits (b :: l) / 2 = ofBits l := by cases b <;> simp [ofBits]; omega
      rw [Nat.testBit_succ, hd, ih]
      rfl

theorem coalescedMask_getLsbD {n : Nat} (hn : n < 64) : coalescedMask.getLsbD n = coalesced n := by
  rw [coalescedMask, BitVec.getLsbD_ofNat, testBit_ofBits]
  simp [hn]

/-- The numbers of the bits set in a word, lowest first. -/
def bitsOf (v : BitVec 64) : List Nat := (List.range 64).filter (fun n => v.getLsbD n)

theorem mem_bitsOf {v : BitVec 64} {n : Nat} (hn : n < 64) : n ∈ bitsOf v ↔ v.getLsbD n = true := by simp [bitsOf, hn]

theorem lt_of_mem_bitsOf {v : BitVec 64} {n : Nat} (h : n ∈ bitsOf v) : n < 64 := by simp [bitsOf] at h; exact h.1

theorem bitsOf_nodup (v : BitVec 64) : (bitsOf v).Nodup := List.nodup_range.filter _

theorem forBits_eq (v : BitVec 64) (f : Nat → State → State) (s : State) : forBits v f s = (bitsOf v).foldl (fun s n => f n s) s := rfl

/-! ### Sending vectors -/

/-- Vectors and PMEs went out, at most: of the event registers only the PBA changed. -/
structure OnlySends (s t : State) : Prop where
  ev : t.ev = { s.ev with pba := t.ev.pba }
  wire : s.wire ⊆ t.wire

theorem OnlySends.refl (s : State) : OnlySends s s := ⟨rfl, List.Subset.refl _⟩

theorem OnlySends.trans {s t u : State} (h : OnlySends s t) (h' : OnlySends t u) : OnlySends s u :=
  ⟨by rw [h'.ev, h.ev], List.Subset.trans h.wire h'.wire⟩

theorem sendVector_onlySends (n : Nat) (s : State) : OnlySends s (sendVector n s) := by
  unfold sendVector
  split
  · split
    · exact ⟨rfl, List.Subset.refl _⟩
    · exact ⟨rfl, List.subset_cons_self ..⟩
  · exact .refl s

theorem deliver_onlySends (n : Nat) (s : State) : OnlySends s (deliver n s) := by
  refine (sendVector_onlySends n s).trans ?_
  show OnlySends _ (if (sendVector n s).hold.d3hot then _ else _)
  split
  · exact ⟨rfl, List.subset_cons_self ..⟩
  · exact .refl _

theorem foldl_onlySends {f : Nat → State → State} (hf : ∀ n s, OnlySends s (f n s)) (l : List Nat) (s : State) :
    OnlySends s (l.foldl (fun s n => f n s) s) := by
  induction l generalizing s with
  | nil => exact .refl s
  | cons n l ih => exact (hf n s).trans (ih _)

/-- What one bit's turn puts on the wire is there after all turns. -/
theorem forBits_sends {f : Nat → State → State} {v : BitVec 64} {n : Nat} {s : State} {x : WireItem}
    (hf : ∀ n s, OnlySends s (f n s)) (hn : n < 64) (hv : v.getLsbD n = true) (hx : ∀ t, OnlySends s t → x ∈ (f n t).wire) :
    x ∈ (forBits v f s).wire := by
  obtain ⟨l, r, hl⟩ := List.append_of_mem ((mem_bitsOf hn).2 hv)
  rw [forBits_eq, hl, List.foldl_append, List.foldl_cons]
  exact (foldl_onlySends hf r _).wire (hx _ (foldl_onlySends hf l s))

/-- A vector goes out at once when MSI-X is on and neither it nor the function is masked. -/
theorem sendVector_unmasked {n : Nat} {s : State} (he : s.ev.msixEnable = true) (hf : s.ev.fnMask = false)
    (hm : s.ev.mask.getLsbD n = false) : sendVector n s = emit (.msix n) s := by
  simp [sendVector, he, hf, hm]

theorem sendVector_masked {n : Nat} {s : State} (he : s.ev.msixEnable = true) (hm : s.ev.mask.getLsbD n = true) :
    sendVector n s = { s with ev.pba := s.ev.pba ||| bitAt 64 n } := by
  simp [sendVector, he, hm]

theorem deliver_unmasked {n : Nat} {s : State} (he : s.ev.msixEnable = true) (hf : s.ev.fnMask = false)
    (hm : s.ev.mask.getLsbD n = false) : .msix n ∈ (deliver n s).wire := by
  unfold deliver
  rw [sendVector_unmasked he hf hm]
  dsimp only
  split <;> simp

/-- With MSI-X on, the vectors of a word go out lowest first, and those masked are marked in the PBA. -/
theorem forBits_sendVector (v : BitVec 64) {s : State} (he : s.ev.msixEnable = true) (hf : s.ev.fnMask = false) :
    ∃ p, forBits v sendVector s = { s with
        ev.pba := p, wire := (((bitsOf v).filter (fun n => !s.ev.mask.getLsbD n)).map WireItem.msix).reverse ++ s.wire } ∧
      ∀ n, n < 64 → p.getLsbD n = (s.ev.pba.getLsbD n || (s.ev.mask.getLsbD n && v.getLsbD n)) := by
  have fold (l : List Nat) (hl : ∀ k ∈ l, k < 64) (t : State) (het : t.ev.msixEnable = true) (hft : t.ev.fnMask = false) :
      ∃ p, l.foldl (fun s n => sendVector n s) t = { t with
          ev.pba := p, wire := ((l.filter (fun n => !t.ev.mask.getLsbD n)).map WireItem.msix).reverse ++ t.wire } ∧
        ∀ n, p.getLsbD n = (t.ev.pba.getLsbD n || (t.ev.mask.getLsbD n && decide (n ∈ l))) := by
    induction l generalizing t with
    | nil => exact ⟨t.ev.pba, rfl, by simp⟩
    | cons k l ih =>
      have hk := hl k (by simp)
      have ih := ih (fun j hj => hl j (by simp [hj]))
      rw [List.foldl_cons]
      cases hm : t.ev.mask.getLsbD k with
      | false =>
        obtain ⟨p, hp, hb⟩ := ih (emit (.msix k) t) het hft
        rw [sendVector_unmasked het hft hm, hp]
        refine ⟨p, by simp [hm, emit], fun n => ?_⟩
        rw [hb]
        by_cases hn : n = k
        · subst hn; simp [hm]
        · simp [hn]
      | true =>
        obtain ⟨p, hp, hb⟩ := ih { t with ev.pba := t.ev.pba ||| bitAt 64 k } het hft
        rw [sendVector_masked het hm, hp]
        refine ⟨p, by simp [hm], fun n => ?_⟩
        rw [hb]
        by_cases hn : n = k
        · subst hn; simp [hm, bitAt_getLsbD hk]
        · simp [hn, bitAt_getLsbD hk]
  obtain ⟨p, hp, hb⟩ := fold (bitsOf v) (fun _ => lt_of_mem_bitsOf) s he hf
  refine ⟨p, hp, fun n hn => ?_⟩
  rw [hb]
  simp [mem_bitsOf hn]

theorem forBits_emit (v : BitVec 64) (s : State) :
    forBits v (fun n s => emit (.msix n) s) s = { s with wire := ((bitsOf v).map WireItem.msix).reverse ++ s.wire } := by
  have fold (l : List Nat) (t : State) :
      l.foldl (fun s n => emit (.msix n) s) t = { t with wire := (l.map WireItem.msix).reverse ++ t.wire } := by
    induction l generalizing t with
    | nil => rfl
    | cons k l ih => rw [List.foldl_cons, ih]; simp [emit]
  exact fold _ s

/-- The vectors whose PBA bit is set, unmasked, and whose event is pending. -/
def waitingVectors (s : State) : BitVec 64 := s.ev.pba &&& ~~~s.ev.mask &&& s.ev.pending

/-- With MSI-X on and the function unmasked, the vectors that wait go out. -/
theorem flushPba_on {s : State} (he : s.ev.msixEnable = true) (hf : s.ev.fnMask = false) : flushPba s =
    { s with ev.pba := s.ev.pba &&& ~~~waitingVectors s
             wire := ((bitsOf (waitingVectors s)).map WireItem.msix).reverse ++ s.wire } := by
  unfold flushPba
  simp only [he, hf, Bool.not_true, Bool.or_self, Bool.false_eq_true, if_false]
  exact forBits_emit _ _

theorem flushPba_ev (s : State) : (flushPba s).ev = { s.ev with pba := (flushPba s).ev.pba } := by
  unfold flushPba
  split
  · rfl
  · dsimp only
    rw [forBits_emit]

/-- The vector of one event among those of a word's bits. -/
theorem count_msix (l : List Nat) (n : Nat) : (l.map WireItem.msix).count (.msix n) = l.count n :=
  List.count_map_of_injective l _ (fun _ _ h => WireItem.msix.inj h) n

/-! ### The event registers -/

/-- The registers after an event has become pending. -/
theorem setPending_ev (n : Nat) (s : State) :
    (setPending n s).ev = { Events.settle { s.ev with pending := s.ev.pending ||| bitAt 64 n } with pba := (setPending n s).ev.pba } := by
  unfold setPending
  dsimp only
  split
  · exact (deliver_onlySends n _).ev
  · rfl

theorem setPending_pending (n : Nat) (s : State) : (setPending n s).ev.pending = s.ev.pending ||| bitAt 64 n := by
  rw [setPending_ev]
  rfl

theorem clearPending_bits {n : Nat} (hn : n < 64) (v same : BitVec 64) (s : State) :
    (clearPending v same s).ev.pending.getLsbD n = (s.ev.pending.getLsbD n && (!v.getLsbD n || same.getLsbD n)) ∧
    (clearPending v same s).ev.window.getLsbD n =
      (s.ev.window.getLsbD n || (coalesced n && s.ev.pending.getLsbD n && v.getLsbD n && !same.getLsbD n)) := by
  constructor
  · simp only [clearPending, Events.settle, BitVec.getLsbD_and, BitVec.getLsbD_not, hn]
    cases s.ev.pending.getLsbD n <;> cases v.getLsbD n <;> simp
  · simp only [clearPending, Events.settle, BitVec.getLsbD_or, BitVec.getLsbD_and, BitVec.getLsbD_not, hn, coalescedMask_getLsbD hn]
    cases coalesced n <;> simp

/-- R324: under its byte enables EV_ENABLE takes the written bits; what is newly enabled and pending is delivered, and nothing else
but the PBA and INTn changes in the event registers. -/
theorem writeEnable_bits {n : Nat} (hn : n < 64) (v en : BitVec 64) (s : State) :
    (writeEnable v en s).ev.pending = s.ev.pending ∧ (writeEnable v en s).ev.route = s.ev.route ∧
    (writeEnable v en s).ev.log = s.ev.log ∧
    (writeEnable v en s).ev.enable.getLsbD n = (if en.getLsbD n then v.getLsbD n else s.ev.enable.getLsbD n) := by
  have h : OnlySends _ (writeEnable v en s) := foldl_onlySends deliver_onlySends _ _
  rw [h.ev]
  refine ⟨rfl, rfl, rfl, ?_⟩
  simp only [Events.settle, BitVec.getLsbD_or, BitVec.getLsbD_and, BitVec.getLsbD_not, hn]
  cases en.getLsbD n <;> simp

theorem writeEnable_sends {n : Nat} (hn : n < 64) {v en : BitVec 64} {s : State} (he : s.ev.msixEnable = true)
    (hf : s.ev.fnMask = false) (hm : s.ev.mask.getLsbD n = false) (hp : s.ev.pending.getLsbD n = true)
    (ho : s.ev.enable.getLsbD n = false) (hen : en.getLsbD n = true) (hv : v.getLsbD n = true) :
    .msix n ∈ (writeEnable v en s).wire := by
  refine forBits_sends deliver_onlySends hn ?_ (fun t ht => ?_)
  · simp [-BitVec.getLsbD_eq_getElem, Events.settle, hn, hp, ho, hen, hv]
  · refine deliver_unmasked ?_ ?_ ?_ <;> rw [ht.ev]
    · exact he
    · exact hf
    · exact hm

/-- R570: at the end of its window a coalesced event that occurred inside is set again. -/
theorem coalescingWindowEnd_open {n : Nat} (hn : n < 64) {s : State} (hw : s.ev.window.getLsbD n = true) :
    ∃ t, exec (.coalescingWindowEnd n) s = .next t ∧ t.ev.window.getLsbD n = false ∧ t.ev.inWindow.getLsbD n = false ∧
      t.ev.pending.getLsbD n = (s.ev.pending.getLsbD n || s.ev.inWindow.getLsbD n) := by
  have h0 : ¬ (s.ev.window &&& bitAt 64 n = 0) := by rw [and_bitAt_eq_zero hn, hw]; decide
  have he : exec (.coalescingWindowEnd n) s = execCoalescingWindowEnd n s := rfl
  rw [he, execCoalescingWindowEnd]
  simp only [if_neg h0]
  refine ⟨_, rfl, ?_⟩
  cases hi : s.ev.inWindow.getLsbD n with
  | false =>
    have hz := (and_bitAt_eq_zero hn _).2 hi
    simp [-BitVec.getLsbD_eq_getElem, hz, hi, hn, bitAt_getLsbD hn]
  | true =>
    have hz : ¬ (s.ev.inWindow &&& bitAt 64 n = 0) := by rw [and_bitAt_eq_zero hn, hi]; decide
    have hb : (s.ev.inWindow &&& bitAt 64 n != 0) = true := by simpa using hz
    rw [if_pos hb, setPending_ev]
    simp [-BitVec.getLsbD_eq_getElem, Events.settle, hn, bitAt_getLsbD hn]

/-- R331: MSI-X becoming enabled sends each live vector once, or marks it when it is masked. -/
theorem msiXEnable_live {n : Nat} (hn : n < 64) {s : State} (he : s.ev.msixEnable = false) :
    ∃ t, exec (.msiXEnable true false) s = .next t ∧ t.ev.msixEnable = true ∧ t.ev.fnMask = false ∧ t.ev.pending = s.ev.pending ∧
      (s.ev.pending.getLsbD n = true → s.ev.enable.getLsbD n = true → s.ev.mask.getLsbD n = false →
        t.wire.count (.msix n) = s.wire.count (.msix n) + 1) ∧
      (s.ev.pending.getLsbD n = true → s.ev.enable.getLsbD n = true → s.ev.mask.getLsbD n = true → t.ev.pba.getLsbD n = true) := by
  obtain ⟨p, hp, hb⟩ := forBits_sendVector (liveEvents s) (s := { s with
    ev.msixEnable := true, ev.fnMask := false, ev.pba := s.ev.pba &&& ~~~liveEvents s }) rfl rfl
  have hb := hb n hn
  have hx : exec (.msiXEnable true false) s = .next (flushPba (forBits (liveEvents s) sendVector { s with
      ev.msixEnable := true, ev.fnMask := false, ev.pba := s.ev.pba &&& ~~~liveEvents s })) := by
    show execMsiXEnable true false s = _
    simp only [execMsiXEnable, he, Bool.not_false, Bool.and_self, if_true]
    rfl
  rw [hx, hp, flushPba_on rfl rfl]
  refine ⟨_, rfl, rfl, rfl, rfl, fun h1 h2 h3 => ?_, fun h1 h2 h3 => ?_⟩
  · have hl : (liveEvents s).getLsbD n = true := by simp [-BitVec.getLsbD_eq_getElem, liveEvents, h1, h2]
    have hpn : p.getLsbD n = false := by rw [hb]; simp [-BitVec.getLsbD_eq_getElem, h3, hl, hn]
    have hsent : ((bitsOf (liveEvents s)).filter (fun n => !s.ev.mask.getLsbD n)).count n = 1 :=
      List.count_eq_one_of_mem ((bitsOf_nodup _).filter _) (by simp [-BitVec.getLsbD_eq_getElem, mem_bitsOf hn, hl, h3])
    have hnone : n ∉ bitsOf (p &&& ~~~s.ev.mask &&& s.ev.pending) := by simp [-BitVec.getLsbD_eq_getElem, mem_bitsOf hn, hpn]
    simp only [waitingVectors, List.count_append, List.count_reverse, count_msix, hsent, List.count_eq_zero.2 hnone]
    omega
  · have hl : (liveEvents s).getLsbD n = true := by simp [-BitVec.getLsbD_eq_getElem, liveEvents, h1, h2]
    have hpn : p.getLsbD n = true := by rw [hb]; simp [-BitVec.getLsbD_eq_getElem, h3, hl]
    simp [-BitVec.getLsbD_eq_getElem, waitingVectors, hn, hpn, h3]

/-- R331: a vector unmasked while it waits goes out, and waits no more. -/
theorem msiXUnmask_waiting {n : Nat} (hn : n < 64) {s : State} (he : s.ev.msixEnable = true) (hf : s.ev.fnMask = false)
    (hb : s.ev.pba.getLsbD n = true) (hp : s.ev.pending.getLsbD n = true) :
    ∃ t, exec (.msiXUnmask (some n)) s = .next t ∧ t.ev.mask.getLsbD n = false ∧ t.ev.pba.getLsbD n = false ∧ .msix n ∈ t.wire ∧
      t.ev.pending = s.ev.pending := by
  have hx : exec (.msiXUnmask (some n)) s = .next (flushPba { s with ev.mask := s.ev.mask &&& ~~~bitAt 64 n }) := rfl
  rw [hx, flushPba_on (s := { s with ev.mask := s.ev.mask &&& ~~~bitAt 64 n }) he hf]
  have hw : (waitingVectors { s with ev.mask := s.ev.mask &&& ~~~bitAt 64 n }).getLsbD n = true := by
    simp [-BitVec.getLsbD_eq_getElem, waitingVectors, hn, hb, hp, bitAt_getLsbD hn]
  refine ⟨_, rfl, ?_, ?_, ?_, rfl⟩
  · simp [-BitVec.getLsbD_eq_getElem, hn, bitAt_getLsbD hn]
  · simp [-BitVec.getLsbD_eq_getElem, hn, hw]
  · simp [-BitVec.getLsbD_eq_getElem, mem_bitsOf hn, hw]

/-! ### What a doorbell leaves of the queues -/

theorem tset_tset {α : Type} (k : Nat) (v w : α) (t : Tbl α) : tset k v (tset k w t) = tset k v t := by
  induction t with
  | nil => simp [tset]
  | cons e t ih =>
    obtain ⟨i, x⟩ := e
    by_cases h1 : k < i
    · simp [tset, h1]
    · by_cases h2 : i = k
      · simp [tset, h2]
      · simp [tset, h1, h2, ih]

@[simp] theorem queueOf_setQueue_same (q : Nat) (v : Queue) (s : State) : queueOf q (setQueue q v s) = v := tgetD_tset_same ..

theorem queueOf_setQueue_other {p q : Nat} (h : p ≠ q) (v : Queue) (s : State) : queueOf p (setQueue q v s) = queueOf p s :=
  tgetD_tset_other h ..

theorem setQueue_setQueue (q : Nat) (v w : Queue) (s : State) : setQueue q v (setQueue q w s) = setQueue q v s := by
  simp [setQueue, tset_tset]

/-- Every queue's command tail, notification and error are those of `s`, and no event pending in `s` has been cleared. -/
structure Held (s t : State) : Prop where
  tail : ∀ q, (queueOf q t).cmdTail = (queueOf q s).cmdTail
  notified : ∀ q, (queueOf q t).notified = (queueOf q s).notified
  qerr : ∀ q, (queueOf q t).qerr = (queueOf q s).qerr
  cause : ∀ q, (queueOf q t).cause = (queueOf q s).cause
  pending : ∀ n, s.ev.pending.getLsbD n = true → t.ev.pending.getLsbD n = true

theorem Held.refl (s : State) : Held s s := ⟨fun _ => rfl, fun _ => rfl, fun _ => rfl, fun _ => rfl, fun _ h => h⟩

theorem Held.trans {s t u : State} (h : Held s t) (h' : Held t u) : Held s u where
  tail q := (h'.tail q).trans (h.tail q)
  notified q := (h'.notified q).trans (h.notified q)
  qerr q := (h'.qerr q).trans (h.qerr q)
  cause q := (h'.cause q).trans (h.cause q)
  pending n hn := h'.pending n (h.pending n hn)

/-- A change of anything but the queues and the pending events. -/
theorem Held.same {s t u : State} (h : Held s t) (hq : u.hold.queues = t.hold.queues) (he : u.ev = t.ev) : Held s u := by
  have e (q : Nat) : queueOf q u = queueOf q t := by unfold queueOf; rw [hq]
  refine h.trans ⟨fun q => ?_, fun q => ?_, fun q => ?_, fun q => ?_, fun n hn => ?_⟩
  all_goals simp only [e, he]
  exact hn

theorem held_foldl {α : Type} {f : State → α → State} (hf : ∀ s t a, Held s t → Held s (f t a)) {s t : State} (h : Held s t)
    (l : List α) :
    Held s (l.foldl f t) := by
  induction l generalizing t with
  | nil => exact h
  | cons a l ih => exact ih (hf _ _ a h)

/-- An event raised becomes pending, or is noted inside its window. -/
theorem raiseD_pending_cases (n d o : Nat) (s : State) :
    (raiseD n d o s).ev.pending = s.ev.pending ∨ (raiseD n d o s).ev.pending = s.ev.pending ||| bitAt 64 n := by
  have hl : (logEvent n d o s).ev.pending = s.ev.pending := by simp only [logEvent]
  unfold raiseD
  generalize logEvent n d o s = u at hl
  dsimp only
  split
  · exact .inl hl
  · exact .inr (by rw [setPending_pending, hl])

theorem raiseD_pending_mono (n d o : Nat) (s : State) (k : Nat) (h : s.ev.pending.getLsbD k = true) :
    (raiseD n d o s).ev.pending.getLsbD k = true := by
  rcases raiseD_pending_cases n d o s with hp | hp <;> simp only [hp, BitVec.getLsbD_or, h, Bool.true_or]

section
variable {s t : State}

theorem raiseD_held (h : Held s t) (n d o : Nat) : Held s (raiseD n d o t) := by
  have hq (q : Nat) : queueOf q (raiseD n d o t) = queueOf q t := by rw [raiseD_frame]; rfl
  refine h.trans ⟨fun q => ?_, fun q => ?_, fun q => ?_, fun q => ?_, raiseD_pending_mono n d o t⟩
  all_goals rw [hq]

theorem raise_held (h : Held s t) (n o : Nat) : Held s (raise n o t) := raiseD_held h n 0 o

/-- A queue's registers written as they were but for its head and its response pointers. -/
theorem setQueue_held (h : Held s t) {q : Nat} {v : Queue} (ht : v.cmdTail = (queueOf q t).cmdTail)
    (hn : v.notified = (queueOf q t).notified) (he : v.qerr = (queueOf q t).qerr) (hc : v.cause = (queueOf q t).cause) :
    Held s (setQueue q v t) := by
  refine h.trans ⟨fun p => ?_, fun p => ?_, fun p => ?_, fun p => ?_, fun n hn => hn⟩
  all_goals
    by_cases hp : p = q
    · subst hp; rwa [queueOf_setQueue_same]
    · rw [queueOf_setQueue_other hp]

theorem sendControl_held (h : Held s t) (dest type : Nat) (body : Bytes) : Held s (sendControl dest type body t) := by
  unfold sendControl
  split
  · exact h
  · split
    · exact h.same rfl rfl
    · exact h

theorem sendAnswer_held (h : Held s t) (dest : Nat) (a : Answer) : Held s (sendAnswer dest a t) :=
  held_foldl (fun _ _ _ h => sendControl_held h _ _ _) h _

theorem answerForward_held (h : Held s t) (op : Nat) (c : Call) (w : FwdFrom) (f : Final) : Held s (answerForward op c w f t) := by
  unfold answerForward
  dsimp only
  split
  · exact sendAnswer_held h _ _
  · exact (sendAnswer_held h _ _).same rfl rfl

theorem writeBulk_held (h : Held s t) (c : Call) (d : Bytes) : Held s (writeBulk c d t) := by
  unfold writeBulk
  split
  · exact h
  · split
    · split
      · obtain ⟨w, hw⟩ := hostPut_frame c.hostAddr (d.take (areaLen c)) t
        rw [hw]
        exact h.same rfl rfl
      · exact h
    · exact h.same rfl rfl

theorem writeResponse_held (h : Held s t) (op : Nat) (c : Call) (f : Final) : Held s (writeResponse op c f t) := by
  have h1 : Held s (writeBulk c f.bulk t) := writeBulk_held h c f.bulk
  unfold writeResponse
  dsimp only
  generalize writeBulk c f.bulk t = u at h1 ⊢
  have h2 : Held s { u with hold.slots := mwrite (responseAddr c.queue u) (responseImage op c f) u.hold.slots } := h1.same rfl rfl
  generalize { u with hold.slots := mwrite (responseAddr c.queue u) (responseImage op c f) u.hold.slots } = x at h2 ⊢
  have h3 : Held s (setQueue c.queue { queueOf c.queue x with rspTail := ((queueOf c.queue x).rspTail + 1) % 32 } x) :=
    setQueue_held h2 rfl rfl rfl rfl
  split
  · exact h3
  · exact raise_held h3 _ _

theorem respond_held (h : Held s t) (op : Nat) (c : Call) (w : Option FwdFrom) (f : Final) : Held s (respond op c w f t) := by
  unfold respond
  split
  · refine answerForward_held (setQueue_held (writeResponse_held h op c f) ?_ ?_ ?_ ?_) _ _ _ _ <;> rfl
  · split
    · exact h
    · split
      · exact writeBulk_held h _ _
      · exact writeResponse_held h _ _ _

theorem passSixteenths_held (h : Held s t) (a b n : Nat) : Held s (passSixteenths a b n t) :=
  held_foldl (fun _ _ _ h => raise_held h 4 n) h _

theorem settled_held (h : Held s t) (f : Final) : Held s (settled f t) := by
  unfold settled
  split
  · exact h.same rfl rfl
  · exact h

theorem finishOp_held (h : Held s t) (o : Op) (f : Final) : Held s (finishOp o f t) := by
  have h1 : Held s { settled f t with stw.ops := t.stw.ops.filter (fun x => x != o) } := (settled_held h f).same rfl rfl
  unfold finishOp
  dsimp only
  split
  · exact (settled_held h f).same rfl rfl
  · have h2 := passSixteenths_held h1 o.progress (if (finalOf o f t).status = .ok then 65535 else (finalOf o f t).progress) o.call.tag
    refine raise_held ?_ _ _
    split
    · exact h2
    · exact respond_held h2 _ _ _ _

theorem endOp_held (h : Held s t) (o : Op) (f : Final) : Held s (endOp o f t) := by
  unfold endOp
  split
  · exact finishOp_held h o f
  · exact h.same rfl rfl

theorem cancelEntry_held (h : Held s t) : Held s (cancelEntry t) := by
  unfold cancelEntry
  split
  · exact h
  · have h1 : Held s { t with power.entering := none, power.entryStep := 0, power.halted := false, stw.notServing := false } :=
      h.same rfl rfl
    dsimp only
    split
    · exact endOp_held h1 _ _
    · exact h1

theorem cancelOnDoorbell_held (h : Held s t) : Held s (cancelOnDoorbell t) := by
  unfold cancelOnDoorbell
  split
  · exact cancelEntry_held h
  · exact h

theorem sendNm_held (h : Held s t) (net kind dest : Nat) (consent : Bool) (run : Nat) : Held s (sendNm net kind dest consent run t) := by
  unfold sendNm
  dsimp only
  split
  · split <;> exact h.same rfl rfl
  · split <;> exact h.same rfl rfl

theorem setNet_held (h : Held s t) (net : Nat) (v : Nm) : Held s (setNet net v t) := h.same rfl rfl

theorem withdraw_held (h : Held s t) (net : Nat) : Held s (withdraw net t) := h.same rfl rfl

theorem vetoed_held (h : Held s t) (net : Nat) : Held s (vetoed net t) := cancelEntry_held (raiseD_held h _ _ _)

/-- A wake request that vetoes a network about to sleep. -/
theorem vetoedWake_held (h : Held s t) (net kind : Nat) (v : Nm) :
    Held s (vetoed net (setNet net v (sendNm net kind 255 false 255 t))) :=
  vetoed_held (setNet_held (sendNm_held h ..) ..) _

/-- A wake request's answer by the state its network is in. -/
theorem wakeRequest_held (h : Held s t) (net : Nat) : Held s (wakeRequest net t) := by
  have h1 : Held s (if beforePonr (netOf net t) then cancelEntry t else t) := by
    split
    · exact cancelEntry_held h
    · exact h
  unfold wakeRequest
  generalize (if beforePonr (netOf net t) then cancelEntry t else t) = u at h1 ⊢
  dsimp only
  split
  · exact h1
  · split
    · exact sendNm_held h1 ..
    · exact setNet_held h1 ..
  · next hs =>
    rw [if_neg (by rw [hs]; decide)]
    exact vetoedWake_held (withdraw_held h1 _) ..
  · next hs =>
    rw [if_pos hs]
    exact vetoedWake_held h1 ..
  · exact setNet_held h1 ..
  · exact h1

theorem reportFalse_held (h : Held s t) : Held s (reportFalse t) := by
  have h1 : Held s { t with power.falseSince := [] } := h.same rfl rfl
  exact held_foldl (fun _ _ c h => raise_held h 58 c) h1 _

theorem wakeNets_held (h : Held s t) : Held s (wakeNets t) := held_foldl (fun _ _ _ h => wakeRequest_held h _) h _

theorem qualify_held (h : Held s t) : Held s (qualify t) := by
  unfold qualify
  split
  · exact wakeNets_held (reportFalse_held (h.same rfl rfl))
  · exact h

end

/-- A doorbell's after-effects leave the queues' tails, errors and pending events. -/
theorem afterDoorbell_held (s : State) : Held s (qualify (cancelOnDoorbell s)) := qualify_held (cancelOnDoorbell_held (.refl s))

/-! ### Doorbells and heads -/

section
variable {q : Nat} {w : BitVec 32} {s : State}

/-- R325: a doorbell of a queue's own interface. -/
theorem doorbell_own (hq : q < 3) (hb : w.getLsbD 8 = true) : doorbell (queueIface q) q w s =
    qualify (cancelOnDoorbell
      (setQueue q { queueOf q (loadTail q (w.toNat % 32) s) with notified := true } (loadTail q (w.toNat % 32) s))) := by
  have h3 : q ≠ 3 := by omega
  simp [doorbell, h3, hb]

theorem loadTail_within (h : (w.toNat % 32 + 32 - (queueOf q s).cmdHead) % 32 ≤ 16) :
    loadTail q (w.toNat % 32) s = setQueue q { queueOf q s with cmdTail := w.toNat % 32 } s := by
  simp [loadTail, Nat.not_lt.2 h]

theorem loadTail_beyond (h : 16 < (w.toNat % 32 + 32 - (queueOf q s).cmdHead) % 32) :
    loadTail q (w.toNat % 32) s = queueError q 1 s := by
  simp [loadTail, h]

theorem queueOf_queueError (q cause : Nat) (s : State) :
    queueOf q (queueError q cause s) = { queueOf q s with qerr := true, cause } := by
  have h (t : State) : queueOf q (raise 2 q t) = queueOf q t := by rw [raise_frame]; rfl
  rw [queueError, h, queueOf_setQueue_same]

theorem doorbell_loads (hq : q < 3) (hb : w.getLsbD 8 = true) (h : (w.toNat % 32 + 32 - (queueOf q s).cmdHead) % 32 ≤ 16) :
    ∃ t, exec (.mqnDoorbell (queueIface q) q w) s = .next t ∧ (queueOf q t).cmdTail = w.toNat % 32 ∧ (queueOf q t).notified = true ∧
      (s.power.entryStep < 2 → s.power.watchWake = false →
        t = setQueue q { queueOf q s with cmdTail := w.toNat % 32, notified := true } s) := by
  have hx : exec (.mqnDoorbell (queueIface q) q w) s = .next (doorbell (queueIface q) q w s) := rfl
  rw [hx, doorbell_own hq hb, loadTail_within h, queueOf_setQueue_same, setQueue_setQueue]
  have hh := afterDoorbell_held (setQueue q { queueOf q s with cmdTail := w.toNat % 32, notified := true } s)
  refine ⟨_, rfl, by rw [hh.tail]; simp, by rw [hh.notified]; simp, fun he hw => ?_⟩
  have hc (t : State) (ht : t.power = s.power) : qualify (cancelOnDoorbell t) = t := by
    simp [cancelOnDoorbell, qualify, ht, Nat.not_le.2 he, hw]
  exact hc _ rfl

theorem doorbell_beyond (hq : q < 3) (hb : w.getLsbD 8 = true) (h : 16 < (w.toNat % 32 + 32 - (queueOf q s).cmdHead) % 32) :
    ∃ t, exec (.mqnDoorbell (queueIface q) q w) s = .next t ∧ (queueOf q t).cmdTail = (queueOf q s).cmdTail ∧
      (queueOf q t).qerr = true ∧ (queueOf q t).cause = 1 ∧ t.ev.pending.getLsbD 2 = true := by
  have hx : exec (.mqnDoorbell (queueIface q) q w) s = .next (doorbell (queueIface q) q w s) := rfl
  rw [hx, doorbell_own hq hb, loadTail_beyond h, queueOf_queueError]
  have hh := afterDoorbell_held
    (setQueue q { { queueOf q s with qerr := true, cause := 1 } with notified := true } (queueError q 1 s))
  refine ⟨_, rfl, by rw [hh.tail]; simp, by rw [hh.qerr]; simp, by rw [hh.cause]; simp, hh.pending 2 ?_⟩
  exact raise_pending _ _ (by decide) (by decide)

theorem doorbell_foreign (hq : q < 3) : exec (.mqnDoorbell (if q = 2 then .pcie else .xspi) q w) s =
    .next (raise 2 q (setQueue q { queueOf q s with qerr := true, cause := 2 } s)) := by
  have h3 : q ≠ 3 := by omega
  have hi : (if q = 2 then Iface.pcie else .xspi) ≠ queueIface q := by unfold queueIface; split <;> decide
  have hx (i : Iface) : exec (.mqnDoorbell i q w) s = .next (doorbell i q w s) := rfl
  rw [hx, doorbell, if_neg h3, if_pos hi]
  rfl

theorem loadRspHead_within (hq : q < 3) {v : Nat}
    (h : (v % 32 + 32 - (queueOf q s).rspHead) % 32 ≤ ((queueOf q s).rspTail + 32 - (queueOf q s).rspHead) % 32) :
    loadRspHead q v s = setQueue q { queueOf q s with rspHead := v % 32 } s := by
  have h3 : q ≠ 3 := by omega
  simp [loadRspHead, h3, Nat.not_lt.2 h]

theorem loadRspHead_beyond (hq : q < 3) {v : Nat}
    (h : ((queueOf q s).rspTail + 32 - (queueOf q s).rspHead) % 32 < (v % 32 + 32 - (queueOf q s).rspHead) % 32) :
    loadRspHead q v s = queueError q 3 s := by
  have h3 : q ≠ 3 := by omega
  simp [loadRspHead, h3, h]

end

/-! ### Ring tails -/

theorem loadRingTail_inside {n v : Nat} {x : Ring} {s : State} (hx : tget n s.rings = some x) (hv : v < ringSize x)
    (hw : x.waiting = false) : loadRingTail .pcie n v s = { s with rings := tset n { x with tail := v } s.rings } := by
  simp [loadRingTail, hx, Nat.not_le.2 hv, hw]

theorem loadRingTail_outside {n v : Nat} {x : Ring} {s : State} (hx : tget n s.rings = some x) (hv : ringSize x ≤ v) :
    loadRingTail .pcie n v s = { s with rings := tset n { x with error := true, cause := 1 } s.rings } := by
  simp [loadRingTail, hx, hv]

/-- Settles O39: each register's write by its own lemma. -/
theorem eventAndQueueRegisters : Obligations.EventAndQueueRegisters := by
  refine ⟨?_, ?_⟩
  · intro v same en n s hn
    obtain ⟨hpend, hwin⟩ := clearPending_bits hn v same s
    obtain ⟨ep, er, el, ee⟩ := writeEnable_bits hn v en s
    refine ⟨⟨clearPending v same s, rfl, rfl, rfl, rfl, rfl, hpend, hwin⟩,
      ⟨writeEnable v en s, rfl, ep, er, el, ee, writeEnable_sends hn⟩,
      coalescingWindowEnd_open hn, msiXEnable_live hn, msiXUnmask_waiting hn, ⟨_, rfl, ?_⟩⟩
    rw [flushPba_ev]
    exact ⟨rfl, rfl, rfl⟩
  · intro arm b q v n w x s
    refine ⟨rfl, rfl, rfl, doorbell_loads, doorbell_beyond, doorbell_foreign, ?_, fun hq h => ?_, fun hq h => ?_, fun hx hv hw => ?_,
      fun hx hv => ?_, rfl⟩
    · cases b <;> rfl
    · exact congrArg Host.Outcome.next (loadRspHead_within hq h)
    · exact congrArg Host.Outcome.next (loadRspHead_beyond hq h)
    · exact congrArg Host.Outcome.next (loadRingTail_inside hx hv hw)
    · exact congrArg Host.Outcome.next (loadRingTail_outside hx hv)

end Sys2Proof.Machine
end

section
/-! PROOF. Commands that wait or are unknown (R32, R351, R355, R376). -/

namespace Sys2Proof.Machine

/-- A row of the table that stands for a mailbox command serves that command. -/
theorem exec_of_mailboxCmd {i : Instr} {k : Cmd} {c : Call} (h : mailboxCmd i = some (k, c)) (s : State) :
    exec i s = .next (serve k c s) := by
  unfold mailboxCmd at h
  split at h
  all_goals cases h
  all_goals rfl

theorem serve_untakeable (k : Cmd) {c : Call} {s : State} (h : takeable c.queue s = false) : serve k c s = s := by
  simp [serve, h]

/-- R376: an opcode that names no command is answered once its tag is in order. -/
theorem serveOpcode_unknown {op : Nat} {c : Call} {s : State} (h : cmdOf op c = none) (ht : takeable c.queue s = true)
    (hg : tagCheck c s = .ok) : serveOpcode op c s = respond op c none { status := .badOpcode } (taken c s) := by
  simp [serveOpcode, h, ht, hg, taken]

/-- Settles O7: a row of a mailbox command serves it, and serving takes nothing from a queue that may not be taken from; an opcode
without a command is answered in the state that has taken the command. -/
theorem commandsThatWaitOrAreUnknown : Obligations.CommandsThatWaitOrAreUnknown := by
  refine ⟨fun i k c s hi hw => ?_, fun op c s hu ht hg hc => ?_⟩
  · rw [exec_of_mailboxCmd hi, serve_untakeable k hw]
  · refine ⟨_, rfl, ?_⟩
    rw [serveOpcode_unknown hu ht hg]
    exact respond_reports _ _ _ _ (taken_canonical c s hc) rfl

end Sys2Proof.Machine
end

section
/-! PROOF. What raising an event leaves of the state, and its entry in the log (R453, R572). -/

namespace Sys2Proof.Machine

section
variable (n d o : Nat) (s : State)

@[simp] theorem raiseD_harrow : (raiseD n d o s).harrow = s.harrow := by rw [raiseD_frame]
@[simp] theorem raiseD_drill : (raiseD n d o s).drill = s.drill := by rw [raiseD_frame]
@[simp] theorem raiseD_ploughs : (raiseD n d o s).ploughs = s.ploughs := by rw [raiseD_frame]
@[simp] theorem raiseD_stw : (raiseD n d o s).stw = s.stw := by rw [raiseD_frame]
@[simp] theorem raiseD_bank : (raiseD n d o s).bank = s.bank := by rw [raiseD_frame]
@[simp] theorem raiseD_bootPhase : (raiseD n d o s).hold.bootPhase = s.hold.bootPhase := by rw [raiseD_frame]
@[simp] theorem raiseD_queues : (raiseD n d o s).hold.queues = s.hold.queues := by rw [raiseD_frame]

theorem raiseD_log : (raiseD n d o s).ev.log = (logEvent n d o s).ev.log := by
  unfold raiseD
  generalize logEvent n d o s = u
  dsimp only
  split
  · rfl
  · rw [setPending_ev]
    rfl

/-- An event raised is the newest entry of the log: what makes room for it is older. -/
theorem raiseD_logged : Logged n d o (raiseD n d o s) := by
  simp [Logged, raiseD_log, logEvent, List.getLast?_drop]

end

end Sys2Proof.Machine
end

section
/-! PROOF. Fabric faults and the fabric-level reset (R18 to R20, R213, R241, R565, R573 to R576). -/

namespace Sys2Proof.Machine

/-! ### What a lane carries -/

/-- Of `s`, `t` keeps the lanes, their faults and the event registers. -/
structure KeepsLanes (s t : State) : Prop where
  lanes : t.harrow.lanes = s.harrow.lanes
  isolated : t.harrow.isolated = s.harrow.isolated
  laneWait : t.harrow.laneWait = s.harrow.laneWait
  codeFaults : t.harrow.codeFaults = s.harrow.codeFaults
  stalls : t.harrow.stalls = s.harrow.stalls
  ev : t.ev = s.ev

theorem KeepsLanes.trans {s t u : State} (h : KeepsLanes s t) (g : KeepsLanes t u) : KeepsLanes s u :=
  ⟨g.lanes.trans h.lanes, g.isolated.trans h.isolated, g.laneWait.trans h.laneWait, g.codeFaults.trans h.codeFaults,
    g.stalls.trans h.stalls, g.ev.trans h.ev⟩

theorem KeepsLanes.dropGrain {s t : State} (h : KeepsLanes s t) (g : Grain) : KeepsLanes s (dropGrain g t) := by
  obtain ⟨_, _, _, _, _, hg⟩ := dropGrain_same g t
  rw [hg]
  exact ⟨h.lanes, h.isolated, h.laneWait, h.codeFaults, h.stalls, h.ev⟩

theorem dropWaiting_keepsLanes (s : State) (cls : Nat) : KeepsLanes s (dropWaiting s cls) := by
  unfold dropWaiting
  dsimp only
  split
  · exact ⟨rfl, rfl, rfl, rfl, rfl, rfl⟩
  · split
    · refine KeepsLanes.dropGrain ?_ _
      exact ⟨rfl, rfl, rfl, rfl, rfl, rfl⟩
    · exact ⟨rfl, rfl, rfl, rfl, rfl, rfl⟩

theorem dropCrossing_keepsLanes (k : Nat) (s : State) : KeepsLanes s (dropCrossing k s) := by
  unfold dropCrossing
  dsimp only
  split
  · exact ⟨rfl, rfl, rfl, rfl, rfl, rfl⟩
  · refine KeepsLanes.dropGrain ?_ _
    exact ⟨rfl, rfl, rfl, rfl, rfl, rfl⟩

theorem dropInLane_keepsLanes (spare : Bool) (s : State) : KeepsLanes s (dropInLane spare s) := by
  have hw : KeepsLanes s ([0, 1, 2, 3].foldl dropWaiting s) :=
    foldl_keeps (KeepsLanes s) _ (fun _ c h => h.trans (dropWaiting_keepsLanes _ c)) _ _ ⟨rfl, rfl, rfl, rfl, rfl, rfl⟩
  unfold dropInLane
  generalize [0, 1, 2, 3].foldl dropWaiting s = t at hw ⊢
  dsimp only
  split
  · refine KeepsLanes.trans ?_ (dropCrossing_keepsLanes _ _)
    exact ⟨hw.lanes, hw.isolated, hw.laneWait, hw.codeFaults, hw.stalls, hw.ev⟩
  · exact ⟨hw.lanes, hw.isolated, hw.laneWait, hw.codeFaults, hw.stalls, hw.ev⟩

/-! ### A lane that fails -/

/-- The state once lane `n` carries nothing more. -/
def laneOut (n : Nat) (s : State) : State :=
  { s with harrow.lanes := s.harrow.lanes.filter (· != n), harrow.isolated := insertNat n s.harrow.isolated }

section
variable {n : Nat} {s : State}

theorem laneFails_spare (hc : s.harrow.lanes.contains n = true) (hn : n ≠ 4) (hs : spareFree s = true) :
    laneFails n s = { laneOut n s with harrow.laneWait := insertNat n s.harrow.laneWait } := by
  simp only [laneFails, hc, hs, bne_iff_ne.2 hn, Bool.and_self, if_true]
  rfl

theorem laneFails_noSpare (hc : s.harrow.lanes.contains n = true) (hs : n = 4 ∨ spareFree s = false) :
    laneFails n s = raiseD 63 2 noObject (laneOut n s) := by
  have hf : (spareFree s && n != 4) = false := by rcases hs with h | h <;> simp [h]
  simp only [laneFails, hc, hf, if_true, Bool.false_eq_true, if_false]
  rfl

end

/-- What a fault of lane `n` raised as event `k` leaves: the lane isolated, and the spare asked for or event 63. -/
structure LaneLost (n k : Nat) (s t : State) : Prop where
  lanes : t.harrow.lanes = s.harrow.lanes.filter (· != n)
  isolated : t.harrow.isolated = insertNat n s.harrow.isolated
  codeFaults : t.harrow.codeFaults = s.harrow.codeFaults
  stalls : t.harrow.stalls = s.harrow.stalls
  raised : t.ev.pending.getLsbD k = true
  waits : n ≠ 4 → spareFree s = true → t.harrow.laneWait = insertNat n s.harrow.laneWait
  noSpare : n = 4 ∨ spareFree s = false → t.harrow.laneWait = s.harrow.laneWait ∧ t.ev.pending.getLsbD 63 = true

theorem laneFails_lost {n k : Nat} {s u : State} (h : KeepsLanes s u) (hc : s.harrow.lanes.contains n = true)
    (hk : s.ev.pending.getLsbD k = true) : LaneLost n k s (laneFails n u) := by
  have hcu : u.harrow.lanes.contains n = true := by rw [h.lanes]; exact hc
  have hsu : spareFree u = spareFree s := by simp [spareFree, h.lanes, h.isolated]
  have hku : u.ev.pending.getLsbD k = true := by rw [h.ev]; exact hk
  by_cases hf : n ≠ 4 ∧ spareFree s = true
  · obtain ⟨hn, hs⟩ := hf
    rw [laneFails_spare hcu hn (hsu.trans hs)]
    refine ⟨by simp [laneOut, h.lanes], by simp [laneOut, h.isolated], h.codeFaults, h.stalls, hku, fun _ _ => by simp [h.laneWait], ?_⟩
    rintro (rfl | h4)
    · exact absurd rfl hn
    · simp [hs] at h4
  · have hf' : n = 4 ∨ spareFree s = false := by
      rw [not_and_or, not_ne_iff, Bool.not_eq_true] at hf
      exact hf
    rw [laneFails_noSpare hcu (by rwa [hsu])]
    refine ⟨by simp [laneOut, h.lanes], by simp [laneOut, h.isolated], by simp [laneOut, h.codeFaults], by simp [laneOut, h.stalls],
      raiseD_pending_mono _ _ _ _ _ hku, fun hn hs => absurd ⟨hn, hs⟩ hf, fun _ => ⟨by simp [laneOut, h.laneWait], ?_⟩⟩
    exact raiseD_pending (by decide) (by decide)

/-! ### Code faults and stalls -/

section
variable {n : Nat} {w : FabricSite} {s : State}

theorem fabricCodeFault_lane (hc : s.harrow.lanes.contains n = true) : ∃ t, exec (.fabricCodeFault (.lane n)) s = .next t ∧
    LaneLost n 37 (raiseD 37 0 n { s with harrow.codeFaults := s.harrow.codeFaults + 1 }) t := by
  refine ⟨_, ?_, laneFails_lost (dropInLane_keepsLanes false _) (by simpa using hc) (raiseD_pending (by decide) (by decide))⟩
  show execFabricCodeFault (.lane n) s = _
  simp only [execFabricCodeFault, siteActive, hc, Bool.not_true, Bool.false_eq_true, if_false]
  rfl

theorem fabricStall_lane (hc : s.harrow.lanes.contains n = true) (hs : s.harrow.stalled.contains (.lane n) = false) :
    ∃ t, exec (.fabricStall (.lane n)) s = .next t ∧
      LaneLost n 36 (raiseD 36 0 n { s with harrow.stalls := s.harrow.stalls + 1 }) t := by
  refine ⟨_, ?_, laneFails_lost (dropInLane_keepsLanes true _) (by simpa using hc) (raiseD_pending (by decide) (by decide))⟩
  show execFabricStall (.lane n) s = _
  simp only [execFabricStall, siteActive, hc, hs, Bool.not_true, Bool.or_self, Bool.false_eq_true, if_false]
  rfl

theorem fabricFault_inactive (hc : s.harrow.lanes.contains n = false) :
    exec (.fabricCodeFault (.lane n)) s = .next s ∧ exec (.fabricStall (.lane n)) s = .next s := by
  constructor
  · show execFabricCodeFault (.lane n) s = _
    simp only [execFabricCodeFault, siteActive, hc, Bool.not_false, if_true]
  · show execFabricStall (.lane n) s = _
    simp only [execFabricStall, siteActive, hc, Bool.not_false, Bool.true_or, if_true]

theorem fabricStall_stalled (hs : s.harrow.stalled.contains w = true) : exec (.fabricStall w) s = .next s := by
  show execFabricStall w s = _
  simp only [execFabricStall, hs, Bool.or_true, if_true]

/-- Outside the lanes a channel stays stalled. -/
theorem fabricStall_channel (hw : ∀ k, w ≠ .lane k) (hs : s.harrow.stalled.contains w = false) :
    ∃ u, u = raiseD 36 (siteDetail w).1 (siteDetail w).2 { s with harrow.stalls := s.harrow.stalls + 1 } ∧
      exec (.fabricStall w) s = .next { u with harrow.stalled := u.harrow.stalled ++ [w] } := by
  refine ⟨_, rfl, ?_⟩
  show execFabricStall w s = _
  cases w with
  | lane k => exact absurd rfl (hw k)
  | _ => simp only [execFabricStall, siteActive, hs, Bool.not_true, Bool.or_self, Bool.false_eq_true, if_false]

end

/-! ### The fabric-level reset -/

/-- What clearing the traffic of the fabric leaves. -/
structure Cleared (s t : State) : Prop where
  ploughs : t.ploughs = []
  handoff : t.harrow.handoff = []
  drill : t.drill = { furrows := s.drill.furrows, credit := s.drill.credit, creditAt := s.drill.creditAt }
  cells : t.gran.cells = []
  hold : t.hold = s.hold
  field : t.field = s.field
  bank : t.bank = s.bank
  stw : t.stw = s.stw

theorem countCopy_same (i : Nat) (c : Copy) (s : State) : SameButCopies s (countCopy i c s) := by
  unfold countCopy
  split
  · exact foldl_same _ (fun s a => countRow_same _ _ _ s) _ _
  · exact countRow_same _ _ _ _

theorem clearTraffic_cleared (s : State) : Cleared s (clearTraffic s) := by
  have h1 := foldl_same (fun s c => countCopy 22 c s) (fun s c => countCopy_same 22 c s) (allCopies s) s
  dsimp only [clearTraffic]
  generalize (allCopies s).foldl (fun s c => countCopy 22 c s) s = u at h1 ⊢
  have h2 := h1.trans (foldl_same (fun s r => countRow r 22 1 s) (fun s r => countRow_same r 22 1 s)
    (u.drill.sheafs.map (fun e => e.2.rows)).flatten u)
  generalize (u.drill.sheafs.map (fun e => e.2.rows)).flatten.foldl (fun s r => countRow r 22 1 s) u = v at h2 ⊢
  obtain ⟨_, _, _, _, _, rfl⟩ := h2
  exact ⟨rfl, rfl, rfl, rfl, rfl, rfl, rfl, rfl⟩

/-- Lanes after the restart test: none failed; one, which the spare replaces; one and the spare. -/
theorem setLanes_none (s : State) :
    setLanes [] s = { s with harrow := { s.harrow with lanes := [0, 1, 2, 3], isolated := [], laneWait := [] } } := rfl

theorem setLanes_one {n : Nat} (hn : n < 4) (s : State) : setLanes [n] s =
    { s with harrow := { s.harrow with lanes := (List.range 4).filter (· != n) ++ [4], isolated := [n], laneWait := [] } } := by
  interval_cases n <;> rfl

theorem setLanes_withSpare {n : Nat} (hn : n < 4) (s : State) : setLanes [n, 4] s = raiseD 63 2 noObject
    { s with harrow := { s.harrow with lanes := (List.range 4).filter (· != n), isolated := [n, 4], laneWait := [] } } := by
  interval_cases n <;> rfl

section
variable {w : FabricSite} {l : List Nat} {s : State}

/-- The fabric-level resets of the last hour. -/
def recentResets (s : State) : List Nat := s.harrow.fabricResets.filter (fun t => decide (s.power.upNs < t + 3600000000000))

theorem persistentStall_resets (hw : s.harrow.stalled.contains w = true) (hu : s.stw.up = true) (hr : (recentResets s).length < 3) :
    exec (.persistentStall w) s =
      .next (beginFabricReset { s with harrow.fabricResets := s.power.upNs :: recentResets s }) := by
  show execPersistentStall w s = _
  unfold recentResets at hr
  simp only [execPersistentStall, hw, hu, hr, Bool.not_true, Bool.or_self, Bool.false_eq_true, if_false, if_true]
  rfl

theorem persistentStall_exhausted (hw : s.harrow.stalled.contains w = true) (hu : s.stw.up = true) (hr : 3 ≤ (recentResets s).length) :
    exec (.persistentStall w) s = .next (raiseD 63 3 noObject s) := by
  show execPersistentStall w s = _
  unfold recentResets at hr
  simp only [execPersistentStall, hw, hu, Nat.not_lt.2 hr, Bool.not_true, Bool.or_self, Bool.false_eq_true, if_false]

theorem fabricResetDone_running (hr : s.harrow.inReset = false) : exec (.fabricResetDone l) s = .next s := by
  show execFabricResetDone l s = _
  simp [execFabricResetDone, hr]

/-- The end of a reset that no command in flight has asked for. -/
theorem fabricResetDone_unasked (hr : s.harrow.inReset = true) (ho : s.stw.ops.filter (fun o => o.body == .fabricReset) = [])
    (hl : (setLanes l { s with harrow.inReset := false, harrow.stalled := [], harrow.stewFifo := 0 }).stw = s.stw) :
    exec (.fabricResetDone l) s =
      .next (setLanes l { s with harrow.inReset := false, harrow.stalled := [], harrow.stewFifo := 0 }) := by
  show execFabricResetDone l s = _
  simp only [execFabricResetDone, hr, Bool.not_true, Bool.false_eq_true, if_false]
  rw [hl, ho]
  rfl

end

/-- Settles O58: a fault of a lane is `laneFails` after the lane's grains are discarded; the reset is `clearTraffic` between
`recordReset` and `restartTeams`; its end is `setLanes`. -/
theorem fabricFaults : Obligations.FabricFaults := by
  intro n w l s
  refine ⟨fun _ hc => ?_, fun hc hs => ?_, fabricFault_inactive, ?_, fun hw hs => ?_, fabricStall_stalled,
    fun hw hu => ⟨fun hr => ?_, fun hr => ?_⟩, fabricResetDone_running, fun hr ho => ⟨?_, ?_, ?_⟩⟩
  · obtain ⟨t, ht, hl⟩ := fabricCodeFault_lane hc
    exact ⟨t, ht, by simpa using hl.lanes, by simpa using hl.isolated, by simpa using hl.codeFaults, hl.raised,
      by simpa [spareFree] using hl.waits, by simpa [spareFree] using hl.noSpare⟩
  · obtain ⟨t, ht, hl⟩ := fabricStall_lane hc hs
    exact ⟨t, ht, by simpa using hl.lanes, by simpa using hl.isolated, by simpa using hl.stalls, hl.raised,
      by simpa [spareFree] using hl.waits⟩
  · refine ⟨_, rfl, ?_, ?_, ?_, raiseD_pending (by decide) (by decide), raiseD_logged 37 1 0 _⟩ <;> simp [dropToken, isolate, siteDetail]
  · obtain ⟨u, rfl, hu⟩ := fabricStall_channel hw hs
    refine ⟨_, hu, by simp, by simp, raiseD_pending (by decide) (by decide), raiseD_logged ..⟩
  · exact ⟨_, persistentStall_exhausted hw hu hr, by simp, by simp, raiseD_pending (by decide) (by decide), raiseD_logged ..⟩
  · have hc := clearTraffic_cleared (raiseSession (recordReset 5 { s with harrow.fabricResets := s.power.upNs :: recentResets s }))
    refine ⟨_, persistentStall_resets hw hu hr, rfl, ?_⟩
    simp only [beginFabricReset, restartTeams, hc.ploughs, hc.handoff, hc.drill, hc.cells, hc.hold, hc.field, hc.bank, hc.stw]
    simp [raiseSession, recordReset]
  · rintro rfl
    rw [fabricResetDone_unasked hr ho (by rw [setLanes_none]), setLanes_none]
  · rintro hn rfl
    rw [fabricResetDone_unasked hr ho (by rw [setLanes_one hn]), setLanes_one hn]
  · rintro hn rfl
    rw [fabricResetDone_unasked hr ho (by rw [setLanes_withSpare hn]; simp), setLanes_withSpare hn]
    exact ⟨_, rfl, by simp, raiseD_pending (by decide) (by decide), raiseD_logged ..⟩

end Sys2Proof.Machine
end

section
/-! PROOF. Steward-level resets and the restart of the Steward (R33, R373, R563, R566, R577 to R579). -/

namespace Sys2Proof.Machine

/-! ### What a Steward-level reset frees -/

/-- Semaphores freed one by one: each leaves the table and raises event 10. -/
theorem foldl_freed (l : Tbl Requester) (s : State) :
    ∃ e w b, l.foldl (fun s e => raise 10 e.1 { s with stile.sems := tdel e.1 s.stile.sems }) s =
      { s with ev := e, wire := w, hold.pme := b, stile.sems := l.foldl (fun t e => tdel e.1 t) s.stile.sems } := by
  induction l generalizing s with
  | nil => exact ⟨s.ev, s.wire, s.hold.pme, rfl⟩
  | cons x l ih =>
    obtain ⟨e, w, b, h⟩ := ih (raise 10 x.1 { s with stile.sems := tdel x.1 s.stile.sems })
    refine ⟨e, w, b, ?_⟩
    rw [List.foldl_cons, h, raise_frame]
    rfl

theorem mem_foldl_tdel {α β : Type} {x : Nat × α} (l : Tbl β) (t : Tbl α) :
    x ∈ l.foldl (fun t e => tdel e.1 t) t ↔ x ∈ t ∧ x.1 ∉ tkeys l := by
  induction l generalizing t with
  | nil => simp [tkeys]
  | cons y l ih =>
    rw [List.foldl_cons, ih]
    simp [tkeys, tdel, and_assoc]

theorem mem_of_tget {α : Type} {k : Nat} {v : α} {t : Tbl α} (h : tget k t = some v) : (k, v) ∈ t := by
  induction t with
  | nil => simp [tget] at h
  | cons x t ih =>
    obtain ⟨i, u⟩ := x
    by_cases hi : i = k
    · subst hi
      simp only [tget, if_true, Option.some.injEq] at h
      simp [h]
    · simp only [tget, hi, if_false] at h
      exact List.mem_cons_of_mem _ (ih h)

/-- R483: no semaphore stays with an owner whose semaphores are freed, and beside events nothing else changes. -/
theorem freeSems_frees (own : Requester → Bool) (s : State) :
    ∃ e w b m, freeSems own s = { s with ev := e, wire := w, hold.pme := b, stile.sems := m } ∧
      ∀ n r, own r = true → tget n m ≠ some r := by
  obtain ⟨e, w, b, h⟩ := foldl_freed (s.stile.sems.filter (fun e => own e.2)) s
  refine ⟨e, w, b, _, h, fun n r hr ht => ?_⟩
  obtain ⟨hm, hn⟩ := (mem_foldl_tdel _ _).1 (mem_of_tget ht)
  exact hn (List.mem_map_of_mem (f := (·.1)) (List.mem_filter.2 ⟨hm, hr⟩))

/-- Control messages dropped: their cells alone are freed with them. -/
theorem dropInbox_frees (s : State) :
    ∃ c p, dropInbox s = { s with stw.inbox := [], gran.cells := c, gran.freePoison := p } ∧
      (s.stw.inbox = [] → c = s.gran.cells ∧ p = s.gran.freePoison) := by
  have fold (l : List (Bytes × Nat)) (t : State) :
      ∃ c p, l.foldl (fun s e => freeChain e.2 s) t = { t with gran.cells := c, gran.freePoison := p } ∧
        (l = [] → c = t.gran.cells ∧ p = t.gran.freePoison) := by
    induction l generalizing t with
    | nil => exact ⟨_, _, rfl, fun _ => ⟨rfl, rfl⟩⟩
    | cons x l ih =>
      obtain ⟨c, p, h, -⟩ := ih (freeChain x.2 t)
      exact ⟨c, p, by rw [List.foldl_cons, h]; rfl, by simp⟩
  exact fold s.stw.inbox { s with stw.inbox := [] }

/-- R239: the decided retirements lapse, which changes the Granary's records of its banks alone. -/
theorem lapseRetirements_lapses (s : State) :
    ∃ st d h, lapseRetirements s =
        { s with gran.queue := [], gran.state := st, gran.selfDecided := d, gran.hardRetired := h } ∧
      (s.gran.queue = [] → st = s.gran.state ∧ d = s.gran.selfDecided ∧ h = s.gran.hardRetired) := by
  have fold (l : List Nat) (t : State) :
      l.foldl (fun s p => setBank p 0 s) t = { t with gran.state := l.foldl (fun m p => tset p 0 m) t.gran.state } := by
    induction l generalizing t with
    | nil => rfl
    | cons p l ih => rw [List.foldl_cons, ih]; rfl
  refine ⟨_, _, _, fold _ _, fun hq => ?_⟩
  simp [hq]

/-- What a Steward-level reset of kind `k` leaves (R33, R373, R563). -/
theorem stewardReset_leaves (k : Nat) (s : State) : ∃ ev wire sems gran pme,
    stewardReset k s = { s with
      ev, wire, gran, stile.sems := sems, keys.nonce := none
      hold := { s.hold with pme, bootPhase := 6, resetKind := k, fallowLeft := 0, firstWake := 0, wakeSeen := 0 }
      stw := { s.stw with up := false, notServing := false, segments := [], answerSegs := [], inbox := []
                          watchdog := if k = 8 ∨ k = 9 then s.power.upNs :: s.stw.watchdog else s.stw.watchdog }
      power := { s.power with entering := none, entryStep := 0, halted := false, armedFor := none } } ∧
    (∀ n, tget n sems ≠ some .firmware) ∧ gran.queue = [] ∧ gran.map = s.gran.map ∧
    (s.stw.inbox = [] → s.gran.queue = [] → gran = s.gran) := by
  obtain ⟨e, w, b, m, hm, hf⟩ := freeSems_frees (fun o => o == .firmware) (recordReset k s)
  obtain ⟨c, p, hc, hc0⟩ := dropInbox_frees (freeSems (fun o => o == .firmware) (recordReset k s))
  obtain ⟨st, d, h, hl, hl0⟩ := lapseRetirements_lapses (dropInbox (freeSems (fun o => o == .firmware) (recordReset k s)))
  rw [hc] at hl hl0
  rw [hm] at hl hl0 hc0
  refine ⟨e, w, m, { s.gran with cells := c, freePoison := p, queue := [], state := st, selfDecided := d, hardRetired := h }, b, ?_,
    fun n => hf n _ rfl, rfl, rfl, fun hi hq => ?_⟩
  · unfold stewardReset
    rw [hc, hm, hl]
    rfl
  · obtain ⟨rfl, rfl⟩ := hc0 hi
    obtain ⟨rfl, rfl, rfl⟩ := hl0 hq
    simp only [recordReset]
    rw [← hq]

theorem stewardFault_up {i : Instr} {k : Nat} {s : State} (h : (i = .stewardWatchdog ∧ k = 8) ∨ (i = .lockstepMiscompare ∧ k = 9))
    (hu : s.stw.up = true) : exec i s = .next (stewardReset k s) := by
  rcases h with ⟨rfl, rfl⟩ | ⟨rfl, rfl⟩
  · show execStewardWatchdog s = _
    simp only [execStewardWatchdog, hu, if_true]
  · show execLockstepMiscompare s = _
    simp only [execLockstepMiscompare, hu, if_true]

/-! ### The restart -/

/-- The boot ROM's choice of an image keeps the Steward, the bank, the queues, the record of the reset and the clock. -/
structure KeepsBoot (s t : State) : Prop where
  stw : t.stw = s.stw
  bank : t.bank = s.bank
  resetKind : t.hold.resetKind = s.hold.resetKind
  power : t.power = s.power

theorem selectSlot_keepsBoot (s : State) : KeepsBoot s (selectSlot s) := by
  unfold selectSlot
  split
  · exact ⟨rfl, rfl, rfl, rfl⟩
  · split <;> exact ⟨rfl, rfl, rfl, rfl⟩

theorem bootSelect_keepsBoot (s : State) : KeepsBoot s (bootSelect s).2 := by
  have hs := selectSlot_keepsBoot { s with hold.secureBootFail := false }
  unfold bootSelect
  generalize selectSlot { s with hold.secureBootFail := false } = u at hs ⊢
  dsimp only
  split
  · exact ⟨hs.stw, hs.bank, hs.resetKind, hs.power⟩
  · rw [raise_frame]
    split <;> exact ⟨hs.stw, hs.bank, hs.resetKind, hs.power⟩

theorem confirmAtBoot_keepsBoot (s : State) : KeepsBoot s (confirmAtBoot s) ∧ (confirmAtBoot s).hold = s.hold := by
  unfold confirmAtBoot
  split
  · exact ⟨⟨rfl, rfl, rfl, rfl⟩, rfl⟩
  · exact ⟨⟨rfl, rfl, rfl, rfl⟩, rfl⟩

/-- The Steward back in service with the image chosen, before it looks at what was in flight. -/
def restarted (s : State) : State := scanQueues (confirmAtBoot { (bootSelect s).2 with hold.bootPhase := 4, stw.up := true })

/-- What a restart leaves before any command in flight is settled. -/
structure Restarted (s t : State) : Prop where
  stw : t.stw = { s.stw with up := true }
  bank : t.bank = s.bank
  bootPhase : t.hold.bootPhase = 4
  resetKind : t.hold.resetKind = s.hold.resetKind
  power : t.power = s.power
  notified : ∀ e ∈ t.hold.queues, e.2.notified = true

theorem restarted_leaves (s : State) : Restarted s (restarted s) := by
  have hb := bootSelect_keepsBoot s
  obtain ⟨hc, hh⟩ := confirmAtBoot_keepsBoot { (bootSelect s).2 with hold.bootPhase := 4, stw.up := true }
  unfold restarted scanQueues
  refine ⟨hc.stw.trans ?_, hc.bank.trans hb.bank, ?_, hc.resetKind.trans hb.resetKind, hc.power.trans hb.power, ?_⟩
  · dsimp only
    rw [hb.stw]
  · dsimp only
    rw [hh]
  · intro e he
    obtain ⟨x, -, rfl⟩ := List.mem_map.1 he
    rfl

/-- R579: the Steward faults of the last 10 minutes are kept, and after such a fault event 62 tells which. -/
theorem faultEvent_leaves (s : State) :
    (faultEvent s).stw = { s.stw with watchdog := s.stw.watchdog.filter (fun t => decide (s.power.upNs < t + 600000000000)) } ∧
    (faultEvent s).bank = s.bank ∧ (faultEvent s).hold.bootPhase = s.hold.bootPhase ∧ (faultEvent s).hold.queues = s.hold.queues ∧
    (s.hold.resetKind = 8 ∨ s.hold.resetKind = 9 →
      (faultEvent s).ev.pending.getLsbD 62 = true ∧
      Logged 62 (if 3 ≤ (s.stw.watchdog.filter (fun t => decide (s.power.upNs < t + 600000000000))).length then 3
        else if s.hold.resetKind = 9 then 1 else 2) noObject (faultEvent s)) := by
  unfold faultEvent
  dsimp only
  split
  · exact ⟨by simp, by simp, by simp, by simp, fun _ => ⟨raiseD_pending (by decide) (by decide), raiseD_logged ..⟩⟩
  · next hk => exact ⟨rfl, rfl, rfl, rfl, fun h => absurd h hk⟩

section
variable {s : State}

theorem stewardRestartDone_running (h : s.hold.bootPhase ≠ 6) : exec .stewardRestartDone s = .next s := by
  show execStewardRestartDone s = _
  rw [execStewardRestartDone, if_pos h]

theorem stewardRestartDone_noImage (h : s.hold.bootPhase = 6) (hb : ¬ (bootSelect s).1 = true) :
    exec .stewardRestartDone s = .next { (bootSelect s).2 with hold.bootPhase := 15 } := by
  show execStewardRestartDone s = _
  rw [execStewardRestartDone, if_neg (by simp [h])]
  simp only [hb, Bool.not_false, if_true]

/-- With no command in flight the restart ends with the event of the fault. -/
theorem stewardRestartDone_idle (h : s.hold.bootPhase = 6) (ho : s.stw.ops = []) (hb : (bootSelect s).1 = true) :
    exec .stewardRestartDone s = .next (faultEvent (restarted s)) := by
  have hr : (restarted s).stw.ops = [] := by rw [(restarted_leaves s).stw]; exact ho
  have hd : dropInner (restarted s) = restarted s := by simp only [dropInner, hr, List.filter_nil]; rw [← hr]
  have hg : openingGate (restarted s) = false := by simp [openingGate, hr]
  have hf : (faultEvent (restarted s)).stw.ops = [] := by rw [(faultEvent_leaves _).1]; exact hr
  show execStewardRestartDone s = _
  rw [execStewardRestartDone, if_neg (by simp [h])]
  simp only [hb, Bool.not_true, Bool.false_eq_true, if_false]
  change (if openingGate (restarted s) = true then _ else
    Host.Outcome.next ((faultEvent (dropInner (restarted s))).stw.ops.foldl abandonOp (faultEvent (dropInner (restarted s))))) = _
  rw [hg, hd, hf]
  rfl

end

/-- Settles O57: both faults are a `stewardReset`; a restart with nothing in flight is `restarted` and then `faultEvent`. -/
theorem stewardResets : Obligations.StewardResets := by
  intro i k s
  refine ⟨fun h => ⟨fun hu => ?_, fun hu hk => ?_⟩, fun hu h5 => ?_, stewardRestartDone_running, fun h6 ho => ?_⟩
  · obtain ⟨ev, wire, sems, gran, pme, ht, hs, hq, hm, hg⟩ := stewardReset_leaves k s
    have hk : k = 8 ∨ k = 9 := h.imp And.right And.right
    rw [if_pos hk] at ht
    refine ⟨_, stewardFault_up h hu, ?_⟩
    rw [ht]
    exact ⟨rfl, rfl, rfl, rfl, rfl, rfl, rfl, rfl, rfl, hq, hm, hg, rfl, hs, rfl, rfl⟩
  · obtain ⟨rfl, -⟩ | ⟨-, rfl⟩ := h
    · show execStewardWatchdog s = _
      simp [execStewardWatchdog, hu]
    · exact absurd hk (by decide)
  · show execLockstepMiscompare s = _
    rw [execLockstepMiscompare, if_neg (by simp [hu]), if_pos h5]
    rfl
  · split
    · next hb =>
      have hr := restarted_leaves s
      obtain ⟨hstw, hbank, hphase, hqueues, hfault⟩ := faultEvent_leaves (restarted s)
      rw [hr.resetKind, hr.power, hr.stw] at hfault
      exact ⟨_, stewardRestartDone_idle h6 ho hb, hphase.trans hr.bootPhase, by rw [hstw, hr.stw], by rw [hstw, hr.stw],
        by rw [hstw, hr.stw], hbank.trans hr.bank, by rw [hqueues]; exact hr.notified, hfault⟩
    · next hb =>
      have hk := bootSelect_keepsBoot s
      exact ⟨_, stewardRestartDone_noImage h6 hb, rfl, hk.stw, hk.bank⟩

end Sys2Proof.Machine
end

section
/-! PROOF. The step of an operation whose turn it is (R358, R367); it does not answer as claimed when the response slots are in no
canonical form (R348). -/

namespace Sys2Proof.Machine

/-! ### An operation's turn -/

/-- The normal item in turn, when it has something to do, has its step. -/
theorem normalStep_inTurn {s : State} (hlt : s.stw.turn < 5 + (levelOps false s).length) (hi : itemReady s.stw.turn s = true) :
    ∃ m, normalStep s = { runItem s.stw.turn s with stw.turn := m } := by
  have hfirst : ((List.range (5 + (levelOps false s).length)).map
      (fun i => (s.stw.turn + i) % (5 + (levelOps false s).length))).find? (fun i => itemReady i s) = some s.stw.turn := by
    have hmod : s.stw.turn % (5 + (levelOps false s).length) = s.stw.turn := Nat.mod_eq_of_lt hlt
    have hn : 5 + (levelOps false s).length = (4 + (levelOps false s).length) + 1 := by omega
    generalize 5 + (levelOps false s).length = n at hmod hn
    subst hn
    rw [List.range_succ_eq_map]
    simp [hmod, hi]
  dsimp only [normalStep]
  rw [hfirst]
  exact ⟨_, rfl⟩

/-- The Steward's step is that of the operation whose turn it is. -/
theorem HasTurn.stewardStep {o : Op} {s : State} (h : HasTurn o s) :
    ∃ m, exec .stewardStep s = .next (enterConfig { stepOp o s with stw.turn := m }) := by
  obtain ⟨hruns, hport, hlane, hq, hu, h5, ho, hr⟩ := h
  have hk : s.stw.turn = s.stw.turn - 5 + 5 := by omega
  have hi : itemReady s.stw.turn s = true := by
    rw [hk, itemReady, ho]
    exact hr
  have hrun : runItem s.stw.turn s = stepOp o s := by
    rw [hk, runItem, ho]
  obtain ⟨hlen, -⟩ := List.getElem?_eq_some_iff.1 ho
  obtain ⟨m, hm⟩ := normalStep_inTurn (by omega) hi
  refine ⟨m, ?_⟩
  have hw : stewardWaits s = false := by simp only [stewardWaits, hport, Bool.false_and]
  show execStewardStep s = _
  rw [execStewardStep, if_neg (by simp [hruns, hw]), hlane]
  simp only [nextStep, hq, hu, hm, hrun, Bool.false_eq_true, if_false]

/-- An operation that is done, cancelled since or not, closes its record and ends. -/
theorem stepOp_closing {o : Op} {f : Final} (hb : o.body = .closing f) (s : State) : stepOp o s = endNow o f s := by
  unfold stepOp cancelOp
  rw [hb]
  split <;> rfl

/-- A response changes event registers, mailbox and staging buffer alone, and stands in the next slot when one is asked for. -/
theorem respond_changes (op : Nat) (c : Call) (f : Final) {u : State} (hc : Canonical u) :
    ∃ e w g sl q b, respond op c none f u =
        { u with ev := e, wire := w, staging := g, hold := { u.hold with slots := sl, queues := q, pme := b } } ∧
      (c.noResponse = false → mread (responseAddr c.queue u) 64 sl = responseImage op c f) := by
  by_cases hn : c.noResponse = true ∧ (f.interim = true ∨ f.status = .ok)
  · obtain ⟨hnr, hn⟩ := hn
    by_cases hi : f.interim = true
    · refine ⟨u.ev, u.wire, u.staging, u.hold.slots, u.hold.queues, u.hold.pme, ?_, by simp [hnr]⟩
      simp [respond, hnr, hi]
    · obtain ⟨g, w, hw, -⟩ := writeBulk_does c f u hc.1
      refine ⟨u.ev, w, g, u.hold.slots, u.hold.queues, u.hold.pme, ?_, by simp [hnr]⟩
      simp [respond, hnr, hi, hn.resolve_left hi, hw]
  · have hr : respond op c none f u = writeResponse op c f u := by
      simp only [not_and_or, not_or] at hn
      rcases hn with hn | ⟨hi, hs⟩
      · simp [respond, hn]
      · simp [respond, hi, hs]
    have hf : ¬ (c.noResponse = true ∧ f.status = .ok) := fun h => hn ⟨h.1, .inr h.2⟩
    have R := writeResponse_reports op c f u hc hf
    rw [Reports, if_neg hf] at R
    obtain ⟨-, heq, hslot, -⟩ := R
    rw [hr]
    exact ⟨_, _, _, _, _, _, heq, fun _ => hslot⟩

/-- An operation of this device's queues ends with its answer, on a state whose memories are canonical (R345, R357). -/
theorem finishOp_ends {o : Op} {f : Final} {u : State} (hc : Canonical u) (hf : f.status ≠ .partial_)
    (hfrom : o.from_ = none) (hin : o.inner = false) (hm : o.mute = false) (m : Nat) :
    Ends o f u { finishOp o f u with stw.turn := m } := by
  have hg : finalOf o f u = { f with opno := o.opno, progress := max f.progress o.progress } := by simp [finalOf, estimated, hf]
  have hs : settled f u = u := by simp [settled, hf]
  have hfin : finishOp o f u = raise 5 o.call.tag (respond o.opcode o.call none
      { f with opno := o.opno, progress := max f.progress o.progress } (passSixteenths o.progress
        (if f.status = .ok then 65535 else max f.progress o.progress) o.call.tag
        { u with stw.ops := u.stw.ops.filter (fun x => x != o) })) := by
    unfold finishOp
    rw [hg, hs, hfrom]
    simp only [hin, hm, Bool.false_eq_true, if_false]
  rw [hfin]
  generalize (if f.status = .ok then 65535 else max f.progress o.progress) = p
  have hmx := passSixteenths_msixTable o.progress p o.call.tag { u with stw.ops := u.stw.ops.filter (fun x => x != o) }
  obtain ⟨e, w, b, hp⟩ := passSixteenths_frame o.progress p o.call.tag { u with stw.ops := u.stw.ops.filter (fun x => x != o) }
  rw [hp] at hmx ⊢
  obtain ⟨hst, hsl, hmt⟩ := hc
  obtain ⟨e', w', g, sl, q, b', hr, hslot⟩ := respond_changes o.opcode o.call
    { f with opno := o.opno, progress := max f.progress o.progress }
    (u := { u with stw.ops := u.stw.ops.filter (fun x => x != o), ev := e, wire := w, hold.pme := b })
    ⟨hst, hsl, by rw [hmx]; exact hmt⟩
  rw [hr]
  refine ⟨?_, raise_pending _ _ (by decide) (by decide), fun hn => ⟨max f.progress o.progress, ?_⟩⟩
  · rw [raise_frame]
  · rw [raise_frame]
    exact hslot hn

/-- The Steward's step of an operation that is done, on a state whose memories are canonical: it ends with its answer. -/
theorem HasTurn.ends {o : Op} {f : Final} {s : State} (h : HasTurn o s) (hc : Canonical s) (hb : o.body = .closing f)
    (hf : f.status ≠ .partial_) (hfrom : o.from_ = none) (hin : o.inner = false) (hm : o.mute = false) (hn : o.opno ≠ 0) :
    ∃ t, exec .stewardStep s = .next t ∧ Ends o f (closeRecord o.opno f.status s) t := by
  obtain ⟨m, hx⟩ := h.stewardStep
  have he := finishOp_ends (u := closeRecord o.opno f.status s) hc hf hfrom hin hm m
  refine ⟨_, ?_, he⟩
  obtain ⟨-, hport, -⟩ := h
  rw [hx, stepOp_closing hb, endNow, if_neg hn]
  generalize finishOp o f (closeRecord o.opno f.status s) = t at he ⊢
  have hcongr := congrArg State.harrow he.1
  have hh : t.harrow = s.harrow := hcongr
  rw [enterConfig, if_neg (by rw [hh, hport]; decide)]

/-! ### Slots in no canonical form -/

/-- An operation of MQ0 that is done: what is left of it is to close its record and answer. -/
def doneOp : Op := { opcode := 0x0E01, call := { queue := 0, tag := 0, gen := 1 }, body := .closing {}, opno := 1 }

/-- A Steward whose turn is that of `doneOp`, over mailbox slots whose addresses do not rise: the stale byte at 2005h, the reserved
one of the next response, stands behind a byte at 9000h. -/
def unsortedPart : State :=
  { power := { state := .growing }, hold := { bootPhase := 4, slots := [(0x9000, 1), (0x2005, 1)] }
    stw := { up := true, ops := [doneOp], turn := 5 } }

theorem doneOp_hasTurn : HasTurn doneOp unsortedPart := by unfold HasTurn; decide +kernel

/-- Writing a zero deletes an address only where a canonical memory would hold it, so the step leaves the stale byte. -/
theorem stewardStep_leaves_staleByte {t : State} (h : exec .stewardStep unsortedPart = .next t) : mget 0x2005 t.hold.slots = 1 := by
  have hs : ∃ u, exec .stewardStep unsortedPart = .next u ∧ mget 0x2005 u.hold.slots = 1 := ⟨_, rfl, by decide +kernel⟩
  obtain ⟨u, hu, hb⟩ := hs
  rw [hu] at h
  cases h
  exact hb

/-- R348: byte 5 of a response is reserved, zero. -/
theorem responseImage_reserved (op : Nat) (c : Call) (f : Final) : (responseImage op c f)[5]? = some 0 := rfl

/-- Refutes O47: its clause for an operation that is done has no premise that the mailbox slots are canonical. In `unsortedPart` the
response of `doneOp` reads 1 at its reserved byte, where its image holds 0; `HasTurn.ends` is the clause with that premise. -/
theorem not_stewardTakesTheNextStep : ¬ Obligations.StewardTakesTheNextStep := by
  intro h
  obtain ⟨-, -, -, -, -, hclosing, -⟩ := h .stewardStep cmdEcho doneOp.call 0 [] unsortedPart
  obtain ⟨t, ht, -, -, hanswer⟩ := hclosing doneOp {} doneOp_hasTurn rfl (by decide) rfl rfl rfl (by decide)
  obtain ⟨n, hread⟩ := hanswer rfl
  have hbyte : (mread 0x2000 64 t.hold.slots)[5]? = some 0 := by
    rw [show mread 0x2000 64 t.hold.slots = _ from hread]
    exact responseImage_reserved ..
  have hstale : (mread 0x2000 64 t.hold.slots)[5]? = some 1 := congrArg some (stewardStep_leaves_staleByte ht)
  rw [hstale] at hbyte
  exact absurd hbyte (by decide)

end Sys2Proof.Machine
end

section
/-! PROOF. The Drill takes grains, starts copies, ages them and closes Sheafs (R36, R190, R193 to R197, R214, R217). -/

namespace Sys2Proof.Machine

/-! ### The queues of the Drill -/

/-- Of `s`, `t` keeps the settings, the bus controllers, the copies in queues and on wires, and the open Sheafs. -/
structure KeepsQueues (s t : State) : Prop where
  bank : t.bank = s.bank
  buses : t.buses = s.buses
  rows : t.drill.rows = s.drill.rows
  rowWire : t.drill.rowWire = s.drill.rowWire
  ports : t.drill.ports = s.drill.ports
  sheafs : t.drill.sheafs = s.drill.sheafs

section
variable {s t u : State}

theorem KeepsQueues.refl (s : State) : KeepsQueues s s := ⟨rfl, rfl, rfl, rfl, rfl, rfl⟩

theorem KeepsQueues.trans (h : KeepsQueues s t) (g : KeepsQueues t u) : KeepsQueues s u :=
  ⟨g.bank.trans h.bank, g.buses.trans h.buses, g.rows.trans h.rows, g.rowWire.trans h.rowWire, g.ports.trans h.ports,
    g.sheafs.trans h.sheafs⟩

theorem KeepsQueues.rowKind (h : KeepsQueues s t) (r : Nat) : rowKind r t = rowKind r s := by
  unfold Machine.rowKind bindOf; rw [h.bank]

theorem KeepsQueues.rowInst (h : KeepsQueues s t) (r : Nat) : rowInst r t = rowInst r s := by
  unfold Machine.rowInst bindOf; rw [h.bank]

theorem SameButCopies.keepsQueues (h : SameButCopies s t) : KeepsQueues s t := by
  obtain ⟨_, _, _, _, _, rfl⟩ := h
  exact ⟨rfl, rfl, rfl, rfl, rfl, rfl⟩

end

theorem endCopy_same (c : Copy) (s : State) : SameButCopies s (endCopy c s) := by
  unfold endCopy
  split
  · exact foldl_same _ (fun s _ => endGrain_same _ _ s) _ _
  · exact endGrain_same _ _ _

theorem raiseD_keepsQueues (n d o : Nat) (s : State) : KeepsQueues s (raiseD n d o s) := by
  rw [raiseD_frame]
  exact ⟨rfl, rfl, rfl, rfl, rfl, rfl⟩

theorem setTally_keepsQueues (u : Nat) (v : TallyRt) (s : State) : KeepsQueues s (setTally u v s) := ⟨rfl, rfl, rfl, rfl, rfl, rfl⟩

theorem tallyVerify_keepsQueues (u : Nat) (i : Img) (kind : Nat) (framing : Img) (d : Bytes) (s : State) :
    KeepsQueues s (tallyVerify u i kind framing d s).2 := by
  unfold tallyVerify
  dsimp only
  split
  · exact setTally_keepsQueues ..
  · exact (setTally_keepsQueues ..).trans (raiseD_keepsQueues ..)

theorem rowVerify_keepsQueues (r kind : Nat) (skip : List Nat) (framing : Img) (d : Bytes) (s : State) :
    KeepsQueues s (rowVerify r kind skip framing d s).2 := by
  refine foldl_keeps (fun a : Nat × State => KeepsQueues s a.2) _ (fun a e h => ?_) _ (2, s) (.refl s)
  exact h.trans (tallyVerify_keepsQueues ..)

theorem tallyGenerate_keepsQueues (u : Nat) (i : Img) (eth : Bool) (kind : Nat) (framing : Img) (d : Bytes) (s : State) :
    KeepsQueues s (tallyGenerate u i eth kind framing d s).2 := by
  unfold tallyGenerate
  dsimp only
  split
  · exact setTally_keepsQueues ..
  · split <;> exact setTally_keepsQueues ..

theorem rowGenerate_keepsQueues (r : Nat) (eth : Bool) (kind : Nat) (framing : Img) (d : Bytes) (s : State) :
    KeepsQueues s (rowGenerate r eth kind framing d s).2 :=
  foldl_keeps (fun a : Bytes × State => KeepsQueues s a.2) _ (fun _ _ h => h.trans (tallyGenerate_keepsQueues ..)) _ _ (.refl s)

theorem rewrite_keepsQueues (b r : Nat) (g : Grain) (d : Bytes) (s : State) : KeepsQueues s (rewrite b r g d s).2.2 := by
  unfold rewrite
  dsimp only
  repeat' split
  all_goals exact ⟨rfl, rfl, rfl, rfl, rfl, rfl⟩

/-- Reading a copy whose cells meet no new fault leaves every queue as it is. -/
theorem readCopy_keepsQueues (c : Copy) (s : State) : KeepsQueues s (readCopy c .clean s).2 := by
  unfold readCopy readEffects
  dsimp only
  split
  · exact .refl s
  split
  · exact (discardCopy_same ..).keepsQueues
  have hv : KeepsQueues s (if c.row < 512 then rowVerify c.row c.grain.kind [] (framingOf c.grain.row s)
      (payload c.grain.cell c.grain.len s) s else (2, s)).2 := by
    split
    · exact rowVerify_keepsQueues ..
    · exact .refl s
  generalize (if c.row < 512 then rowVerify c.row c.grain.kind [] (framingOf c.grain.row s)
      (payload c.grain.cell c.grain.len s) s else (2, s)) = v at hv ⊢
  split
  · exact hv.trans (endCopy_same ..).keepsQueues
  dsimp only
  have hw := hv.trans (rewrite_keepsQueues c.rewrite c.row c.grain (payload c.grain.cell c.grain.len s) v.2)
  generalize rewrite c.rewrite c.row c.grain (payload c.grain.cell c.grain.len s) v.2 = w at hw ⊢
  split
  · split
    · exact (hw.trans (tallyGenerate_keepsQueues ..)).trans (rowGenerate_keepsQueues ..)
    · exact hw.trans (rowGenerate_keepsQueues ..)
  · split
    · exact hw.trans (tallyGenerate_keepsQueues ..)
    · exact hw

/-! ### A copy that starts -/

section
variable {r : Nat} {c x : Copy} {s v : State}

/-- Starting a copy counts it and marks it, and nothing else. -/
theorem beginCopy_does (r : Nat) (x : Copy) (v : State) : SameButCopies v (beginCopy r x v).2 ∧
    ∃ d u, (beginCopy r x v).1 = { x with countedDeferred := d, countedUnsync := u } := by
  refine ⟨?_, _, _, rfl⟩
  simp only [beginCopy, markStart]
  split <;> split <;> exact ⟨_, _, _, _, _, rfl⟩

theorem sentCopy_same (r : Nat) (x : Copy) (v : State) : SameButCopies v (sentCopy r x v) :=
  SameButCopies.trans ⟨_, _, _, _, _, rfl⟩ (endCopy_same x _)

@[simp] theorem drivePins_drill (v : State) : (drivePins v).drill = v.drill := by simp only [drivePins]

@[simp] theorem uartRt_drivePins (k : Nat) (v : State) : uartRt k (drivePins v) = uartRt k v := by simp only [uartRt, drivePins]

theorem sofChoice_of_noWire (hw : tget r s.drill.rowWire = none) : sofChoice r s = s := by
  simp [sofChoice, wireCan, hw]

theorem hearsNow_of_plain (h : rowKind r s = 2 → rs485 (rowInst r s) s.bank = false) : hearsNow r s = (false, s) := by
  by_cases hk : rowKind r s = 2
  · simp [hearsNow, hk, h hk]
  · simp [hearsNow, hk]

/-- R197: a free wire takes the next copy, which is read and starts on the row's endpoint. -/
theorem copyRelease_starts (hf : forwards s = true) (hr : ringOf r s = none) (hn : nextCopy r s = some c)
    (hw : tget r s.drill.rowWire = none) (hp : rowKind r s = 2 → rs485 (rowInst r s) s.bank = false)
    (hfree : wireFree r c.grain.cls s = true) (hx : (readCopy c .clean (unqueue r c s)).1 = some x) :
    exec (.copyRelease r .clean) s = .next (startCopy r x (readCopy c .clean (unqueue r c s)).2) := by
  have hwu : tget r (unqueue r c s).drill.rowWire = none := hw
  have hrow : releaseRow r .clean s = startCopy r x (readCopy c .clean (unqueue r c s)).2 := by
    simp only [releaseRow, hn, sofChoice_of_noWire hw, hearsNow_of_plain hp, hfree, hwu, hx, Bool.not_true, Bool.or_self,
      Bool.false_eq_true, if_false]
  show execCopyRelease r .clean s = _
  simp only [execCopyRelease, hf, hr, hrow, Bool.not_true, Bool.false_eq_true, if_false]

theorem startCopy_steward (hk : rowKind r v = 7) : SameButCopies (emit (.toEulyn r x.out) v) (startCopy r x v) := by
  have hb := (beginCopy_does r x v).1
  have hx : startCopy r x v = startSteward r x v := by simp only [startCopy, hk]
  rw [hx]
  refine SameButCopies.trans ?_ (sentCopy_same r _ _)
  obtain ⟨_, _, _, _, _, h⟩ := hb
  rw [h]
  exact ⟨_, _, _, _, _, rfl⟩

theorem startCopy_can (hk : rowKind r v = 1) (hs : (canRt (rowInst r v) v).state ≤ 2) (hm : fld (canCfg (rowInst r v) v.bank) 1 2 2 = 0)
    (hfit : canSuits (rowInst r v) x.grain x.out v.bank = true) : (startCopy r x v).drill.rows = v.drill.rows ∧
      ∃ y, tget r (startCopy r x v).drill.rowWire = some y ∧ y.grain = x.grain ∧ y.out = x.out ∧ y.tries = 0 := by
  have hbus : ¬ ((canRt (rowInst r v) v).state = 3 ∨ (canRt (rowInst r v) v).state = 4) := by omega
  have hx : startCopy r x v = startCan r (rowInst r v) x v := by simp only [startCopy, hk]
  simp only [hx, startCan, hbus, hm, hfit, ne_eq, not_true_eq_false, if_false, Bool.not_true, Bool.false_eq_true]
  obtain ⟨hb, d, u, he⟩ := beginCopy_does r { x with tries := 0, waitFrom := some (nowNs v) }
    (setCan (rowInst r v) { canRt (rowInst r v) v with onBus := false, retry := false } v)
  rw [he]
  exact ⟨hb.keepsQueues.rows, _, tget_tset_same .., rfl, rfl, rfl⟩

theorem startCopy_uart (hk : rowKind r v = 2) (hp : flag (uartCfg (rowInst r v) v.bank) 1 0 = false) :
    (startCopy r x v).drill.rows = v.drill.rows ∧ (uartRt (rowInst r v) (startCopy r x v)).sending = true ∧
      ∃ y, tget r (startCopy r x v).drill.rowWire = some y ∧ y.grain = x.grain ∧ y.out = x.out := by
  have hx : startCopy r x v = startUart r (rowInst r v) x v := by simp only [startCopy, hk]
  obtain ⟨hb, d, u, he⟩ := beginCopy_does r x v
  simp only [hx, startUart, hp, Bool.false_and, Bool.false_eq_true, if_false]
  rw [uartRt_drivePins, drivePins_drill, he]
  split <;> exact ⟨hb.keepsQueues.rows, by simp [uartRt], _, tget_tset_same .., rfl, rfl⟩

end

/-! ### A grain taken -/

section
variable (g : Grain) (c n : Nat) (s : State)

@[simp] theorem dropGrain_drill : (dropGrain g s).drill = s.drill := by
  unfold dropGrain dropRef freeChain
  repeat' split
  all_goals rfl

@[simp] theorem dropGrain_harrow : (dropGrain g s).harrow = s.harrow := by
  unfold dropGrain dropRef freeChain
  repeat' split
  all_goals rfl

@[simp] theorem addRefs_drill : (addRefs c n s).drill = s.drill := by unfold addRefs; split <;> rfl

@[simp] theorem addRefs_harrow : (addRefs c n s).harrow = s.harrow := by unfold addRefs; split <;> rfl

end

section
variable {h : HandOff} {r : Nat} {b : Bool} {s : State}

/-- R525: a hand-off that names no unit is taken unchecked. -/
theorem routeVerify_unbound (ht : h.tally / 32 % 2 = 0) : routeVerify h s = (2, s) := by
  simp [routeVerify, routeUnit, ht]

theorem countLate_drill (late : Bool) : (countLate r late s).drill = s.drill ∧ (countLate r late s).harrow.handoff = s.harrow.handoff := by
  unfold countLate
  split
  · rw [raise_frame]; exact ⟨rfl, rfl⟩
  · exact ⟨rfl, rfl⟩

/-- The copy of a grain for a row's own queue: it has an entry of the pool and its place in the row's order (R196, R197). -/
theorem acceptOwn_granted (hg : poolGrant h.grain.cls s = some b) : (acceptOwn h r { st := s }).denied = false ∧
    (acceptOwn h r { st := s }).st.harrow.handoff = s.harrow.handoff ∧
    (acceptOwn h r { st := s }).st.drill = { s.drill with
      rows := tset r (insertBy rowBefore (copyOf h r 15 b 0 s) (tgetD r [] s.drill.rows)) s.drill.rows
      poolRes := if b then tadd h.grain.cls 1 s.drill.poolRes else s.drill.poolRes
      poolShared := if b then s.drill.poolShared else tadd h.grain.cls 1 s.drill.poolShared } := by
  simp only [acceptOwn, hg, Accept.makes, (countLate_drill _).1, (countLate_drill _).2]
  cases b <;> simp [enqueueRow, poolTake]

/-- R193: a grain for one listener row that is none of its own talker's. -/
theorem acceptGrain_oneRow (ht : h.tally / 32 % 2 = 0) (hk : h.grain.kind ≠ 15) (hm : h.missRing = false) (hn : namedRows h s = [r])
    (hr : r ≠ h.grain.row) (hl : listens r s = true) (h9 : rowKind r s ≠ 9) (h5 : rowKind r s ≠ 5)
    (hz : h.permit.getLsbD (rowZone r s) = true) (hg : poolGrant h.grain.cls s = some b) :
    acceptGrain h s = dropGrain h.grain (acceptOwn h r { st := s }).st := by
  have hrep : replicate h s = acceptOwn h r { st := s } := by
    simp [replicate, hk, hm, hn, acceptRow, hr, hl, h9, h5, hz]
  simp [acceptGrain, routeVerify_unbound ht, hrep, (acceptOwn_granted hg).1]

/-- The state with `rest` left of a class's hand-offs. -/
def leaveHandoffs (cls : Nat) (rest : List HandOff) (s : State) : State := { s with harrow.handoff := tset cls rest s.harrow.handoff }

/-- R194: a class takes its oldest hand-off, Beacon before the others. -/
theorem drillAccept_takes {cls : Nat} {rest : List HandOff} (hh : handoffOf cls s = h :: rest) (hreset : s.harrow.inReset = false)
    (hstall : s.harrow.stalled.contains (.drill cls) = false) (htally : tallyStalled h s = false) (hbeacon : cls = 0 ∨ handoffOf 0 s = []) :
    exec (.drillAccept cls) s = .next (acceptGrain h (leaveHandoffs cls rest s)) := by
  have hb : (decide (cls ≠ 0) && !(handoffOf 0 s).isEmpty) = false := by rcases hbeacon with h | h <;> simp [h]
  show execDrillAccept cls s = _
  simp only [execDrillAccept, hh]
  rw [if_neg (by simp only [hreset, hstall, htally, hb, Bool.or_self, Bool.false_eq_true, not_false_eq_true])]
  rfl

end

/-! ### Ages and open Sheafs -/

/-- Of `s`, `t` keeps the settings, the Steward and the queues of the rows. -/
structure KeepsRows (s t : State) : Prop where
  bank : t.bank = s.bank
  sown : t.sown = s.sown
  stw : t.stw = s.stw
  rows : t.drill.rows = s.drill.rows

theorem KeepsRows.trans {s t u : State} (h : KeepsRows s t) (g : KeepsRows t u) : KeepsRows s u :=
  ⟨g.bank.trans h.bank, g.sown.trans h.sown, g.stw.trans h.stw, g.rows.trans h.rows⟩

theorem SameButCopies.keepsRows {s t : State} (h : SameButCopies s t) : KeepsRows s t := by
  obtain ⟨_, _, _, _, _, rfl⟩ := h
  exact ⟨rfl, rfl, rfl, rfl⟩

theorem ageCopy_same (r : Nat) (s : State) (c : Copy) : SameButCopies s (ageCopy r s c) := by
  unfold ageCopy
  refine SameButCopies.trans ?_ (discardCopy_same 18 c _)
  split
  · exact .rfl' s
  · exact countRow_same ..

theorem sofChoice_keepsRows (r : Nat) (s : State) : KeepsRows s (sofChoice r s) := by
  unfold sofChoice
  dsimp only
  repeat' split
  all_goals exact ⟨rfl, rfl, rfl, rfl⟩

/-- A copy aged off a wire or a ring. -/
theorem ageCopy_offWire (r : Nat) (s : State) (w : Tbl Copy) (n : Tbl Ring) (c : Copy) :
    KeepsRows s (ageCopy r { s with drill.rowWire := w, rings := n } c) := by
  have h := (ageCopy_same r { s with drill.rowWire := w, rings := n } c).keepsRows
  exact ⟨h.bank, h.sown, h.stw, h.rows⟩

theorem ageWire_keepsRows (r w : Nat) (s : State) : KeepsRows s (ageWire r w s) := by
  unfold ageWire
  split
  · exact iteInduction (motive := KeepsRows s) (fun _ => ageCopy_offWire ..) (fun _ => ⟨rfl, rfl, rfl, rfl⟩)
  · exact ⟨rfl, rfl, rfl, rfl⟩

/-- R190: the aged copies go from the row's queue; what happens on its port and wire leaves every row's queue as it is. -/
theorem egressAgeLimit_rows (r : Nat) (s : State) : ∃ t, exec (.egressAgeLimit r) s = .next t ∧
    KeepsRows { s with drill.rows := tset r ((tgetD r [] s.drill.rows).filter (fun c => !aged r s c)) s.drill.rows } t := by
  refine ⟨_, rfl, KeepsRows.trans ?_ (((sofChoice_keepsRows r _).trans (ageWire_keepsRows ..)).trans (ageWire_keepsRows ..))⟩
  have hage (l : List Copy) (u : State) : KeepsRows u (l.foldl (ageCopy r) u) := (foldl_same _ (ageCopy_same r) l u).keepsRows
  have hq := hage ((tgetD r [] s.drill.rows).filter (aged r s))
    { s with drill.rows := tset r ((tgetD r [] s.drill.rows).filter (fun c => !aged r s c)) s.drill.rows }
  dsimp only
  generalize ((tgetD r [] s.drill.rows).filter (aged r s)).foldl (ageCopy r) _ = u at hq ⊢
  split
  · refine hq.trans (KeepsRows.trans ?_ (hage _ _))
    exact ⟨rfl, rfl, rfl, rfl⟩
  · exact hq

section
variable {d cls : Nat} {o : OpenSheaf} {s : State}

/-- A Sheaf sent or discarded leaves the settings and the open Sheafs as they are. -/
theorem sendSheaf_keeps (d cls : Nat) (o : OpenSheaf) (s : State) :
    (sendSheaf d cls o s).bank = s.bank ∧ (sendSheaf d cls o s).drill.sheafs = s.drill.sheafs := by
  unfold sendSheaf
  dsimp only
  split
  · exact ⟨rfl, rfl⟩
  · have h := (foldl_same (fun s r => countRow r 25 1 s) (fun s r => countRow_same r 25 1 s) o.rows s).trans
      (foldl_same (fun s e => endGrain e.1 e.2 s) (fun s e => endGrain_same e.1 e.2 s) o.grains _)
    exact ⟨h.keepsQueues.bank, h.keepsQueues.sheafs⟩

/-- R214: a closed Sheaf is no longer open. -/
theorem closeSheaf_closed (d cls : Nat) (s : State) :
    (closeSheaf d cls s).bank = s.bank ∧ tget (4 * d + cls) (closeSheaf d cls s).drill.sheafs = none := by
  unfold closeSheaf
  split
  · next h => exact ⟨rfl, h⟩
  · rw [(sendSheaf_keeps ..).1, (sendSheaf_keeps ..).2]
    exact ⟨rfl, tget_tdel_same ..⟩

theorem mem_insertBy (before : Copy → Copy → Bool) (c : Copy) (l : List Copy) : c ∈ insertBy before c l := by
  induction l with
  | nil => simp [insertBy]
  | cons x l ih => unfold insertBy; split <;> simp [ih]

/-- R214: a closed Sheaf with a port that is up waits there with its grains and their rows. -/
theorem closeSheaf_queued {m : Member} {p : Nat} (ho : tget (4 * d + cls) s.drill.sheafs = some o) (hm : tget d s.field.roster = some m)
    (hp : sheafPort d { s.bank with sheaf := some o.settings } s = some p) (hu : portUp p s = true) :
    ∃ y, y ∈ tgetD p [] (closeSheaf d cls s).drill.ports ∧ y.grains = o.grains ∧ y.rows = o.rows := by
  have hp' : (sheafPort d { s.bank with sheaf := some o.settings } { s with drill.sheafs := tdel (4 * d + cls) s.drill.sheafs }).filter
      (fun p => portUp p { s with drill.sheafs := tdel (4 * d + cls) s.drill.sheafs }) = some p := by
    rw [show sheafPort d _ { s with drill.sheafs := tdel (4 * d + cls) s.drill.sheafs } = some p from hp]
    exact Option.filter_some_pos hu
  simp only [closeSheaf, ho, sendSheaf, hm, hp', countSeq, enqueuePort, tgetD_tset_same]
  exact ⟨_, mem_insertBy .., rfl, rfl⟩

end

theorem row_erased {r : Nat} {c : Copy} {s t : State} (h : t.drill.rows = (unqueue r c s).drill.rows) :
    tgetD r [] t.drill.rows = (tgetD r [] s.drill.rows).erase c := by
  rw [h]; exact tgetD_tset_same ..

/-- Settles O35: `drillAccept_takes` and `acceptGrain_oneRow` for a grain taken, `copyRelease_starts` with what each endpoint's start does,
`egressAgeLimit_rows` for the age limit, and `closeSheaf` for both ends of a Sheaf. -/
theorem drillQueues : Obligations.DrillQueues := by
  intro h rest cls r d p b m o c x s
  refine ⟨?_, ?_, ?_, ?_, ?_, ?_, ?_⟩
  · intro hh hreset hstall htally hbeacon ht hk hm hn hr hl h9 h5 hz hg
    have hgrain := acceptGrain_oneRow (s := leaveHandoffs cls rest s) ht hk hm hn hr hl h9 h5 hz hg
    obtain ⟨-, hhand, hdrill⟩ := acceptOwn_granted (r := r) (s := leaveHandoffs cls rest s) hg
    refine ⟨_, drillAccept_takes hh hreset hstall htally hbeacon, ?_⟩
    rw [hgrain, handoffOf, dropGrain_harrow, dropGrain_drill, hhand, hdrill]
    exact ⟨tgetD_tset_same .., tgetD_tset_same .., fun q hq => tgetD_tset_other hq .., rfl, rfl⟩
  · intro hf hr hn hw hk hx
    have hc : rowCtl (bindOf r s) = none := by simp [rowCtl, show u8 (bindOf r s) 0 = 7 from hk]
    have hfree : wireFree r c.grain.cls s = true := by simp [wireFree, wireOf, hw, hc, hk]
    have hread := readCopy_keepsQueues c (unqueue r c s)
    have hsent := startCopy_steward (x := x) (v := (readCopy c .clean (unqueue r c s)).2) (r := r) (by rw [hread.rowKind]; exact hk)
    refine ⟨_, copyRelease_starts hf hr hn hw (by simp [hk]) hfree hx, ?_, ?_, row_erased ?_⟩
    · obtain ⟨_, _, _, _, _, he⟩ := hsent
      rw [he]; rfl
    · rw [hsent.keepsQueues.rowWire, emit_drill, hread.rowWire]; exact hw
    · rw [hsent.keepsQueues.rows, emit_drill, hread.rows]
  · intro hf hr hn hw hk hcw hx hs hm hfit
    have hc : rowCtl (bindOf r s) = some (0, rowInst r s) := by simp [rowCtl, rowInst, show u8 (bindOf r s) 0 = 1 from hk]
    have hfree : wireFree r c.grain.cls s = true := by simp [wireFree, wireOf, hw, hc, hk, hcw]
    have hread := readCopy_keepsQueues c (unqueue r c s)
    have hi := hread.rowInst r
    have := startCopy_can (x := x) (v := (readCopy c .clean (unqueue r c s)).2) (r := r) (by rw [hread.rowKind]; exact hk)
      (by rw [hi, canRt, hread.buses]; exact hs) (by rw [hi, hread.bank]; exact hm) (by rw [hi, hread.bank]; exact hfit)
    obtain ⟨hrows, y, hy, hg, hout, htries⟩ := this
    exact ⟨_, y, copyRelease_starts hf hr hn hw (by simp [hk]) hfree hx, hy, hg, hout, htries, row_erased (hrows.trans hread.rows)⟩
  · intro hf hr hn hw hk hrs hfree hx hseven
    have hread := readCopy_keepsQueues c (unqueue r c s)
    have hi := hread.rowInst r
    obtain ⟨hrows, hsend, y, hy, hg, hout⟩ := startCopy_uart (x := x) (v := (readCopy c .clean (unqueue r c s)).2) (r := r)
      (by rw [hread.rowKind]; exact hk) (by rw [hi, hread.bank]; exact hseven)
    rw [hi] at hsend
    exact ⟨_, y, copyRelease_starts hf hr hn hw (fun _ => hrs) hfree hx, hy, hg, hout, hsend, row_erased (hrows.trans hread.rows)⟩
  · obtain ⟨t, ht, hk⟩ := egressAgeLimit_rows r s
    refine ⟨t, ht, ?_, fun q hq => ?_, hk.bank⟩
    · rw [hk.rows]; exact tgetD_tset_same ..
    · rw [hk.rows]; exact tgetD_tset_other hq ..
  · exact ⟨_, rfl, rfl, (closeSheaf_closed d cls s).2, (closeSheaf_closed d cls s).1⟩
  · intro ho hm hp hu
    obtain ⟨y, hy, hg, hr⟩ := closeSheaf_queued ho hm hp hu
    exact ⟨_, y, rfl, rfl, (closeSheaf_closed d cls s).2, hy, hg, hr⟩

end Sys2Proof.Machine
end

section
/-! PROOF. Joining and leaving a Field, the device's layout, and the commands of rows (R35, R38, R39, R70, R75, R385 to R391). -/

namespace Sys2Proof.Machine

/-! ### A command that has done its work -/

/-- A command heard in order leaves canonical memories where its act is one of those that keep them. -/
theorem Heard.act_canonical {k : Cmd} {c : Call} {p : Plot} {s : State} {x : Work} (h : Heard k c p s) (hk : CmdOk k)
    (hx : k.act c (plotArg p) (taken c s) = x) : Canonical x.st := by
  subst hx
  exact ((hk _ c _ _ h.ok).1.2 rfl).2

/-- A plain command whose whole effect is its next state. -/
theorem answers_done {i : Instr} {k : Cmd} {op : Nat} {c : Call} {p : Plot} {s u : State} (h : Heard k c p s) (ho : k.opcode = op)
    (he : exec i s = .next (serve k c s)) (ha : applies k.scope p = true ∨ k.scope = .field) (hj : k.journaled = false)
    (hb : k.bank = false ∨ k.status = true) (hi : k.item = 0) (hk : CmdOk k)
    (hx : k.act c (plotArg p) (taken c s) = { st := u }) : Answers i op c {} s u :=
  answers_ok h { st := u } ho he ha hj hb hx rfl rfl rfl rfl (answerOf_plain hi) (h.act_canonical hk hx)

/-- A bank item that is changed at once. -/
structure DirectItem (k : Cmd) : Prop where
  bank : k.bank = true
  unjournaled : k.journaled = false
  direct : k.status = false
  whole : k.item = 0
  keeps : CmdOk k

theorem DirectItem.answers {k : Cmd} (hk : DirectItem k) {i : Instr} {op : Nat} {c : Call} {p : Plot} {s u : State}
    (h : Heard k c p s) (ha : applies k.scope p = true) (ho : k.opcode = op) (he : exec i s = .next (serve k c s))
    (hx : k.act c (plotArg p) (taken c s) = { st := u }) : Answers i op c {} s (directNoted u) :=
  answers_bank h _ ho he (.inl ha) hk.unjournaled ⟨hk.bank, hk.direct⟩ hx rfl rfl rfl rfl rfl (answerOf_plain hk.whole)
    (h.act_canonical hk.keeps hx)

theorem rowBind_item : DirectItem cmdRowBind := ⟨rfl, rfl, rfl, rfl, cmdRowBind_ok⟩
theorem rowFramingSet_item : DirectItem cmdRowFramingSet := ⟨rfl, rfl, rfl, rfl, cmdRowFramingSet_ok⟩
theorem rowEnable_item : DirectItem cmdRowEnable := ⟨rfl, rfl, rfl, rfl, cmdRowEnable_ok⟩
theorem rowDisable_item : DirectItem cmdRowDisable := ⟨rfl, rfl, rfl, rfl, cmdRowDisable_ok⟩

/-- What a bank item stages is its direct change. -/
theorem directAct_staged {f : Call → Nat → State → Bank → Status × Bank} {c : Call} {n : Nat} {s : State} {b : Bank}
    (h : f c n s s.bank = (.ok, b)) : directAct f (fun _ _ _ => []) (fun _ _ _ s => s) c n s = { st := { s with bank := b } } := by
  simp [directAct, h]

/-! ### Leaving the Field -/

/-- `t` is `s` with frames queued on ports and counted in their series. -/
def OnlyPosts (s t : State) : Prop := ∃ p q, t = { s with drill.ports := p, field.txSeq := q }

theorem OnlyPosts.refl (s : State) : OnlyPosts s s := ⟨_, _, rfl⟩

theorem OnlyPosts.trans {s t u : State} (h : OnlyPosts s t) (g : OnlyPosts t u) : OnlyPosts s u := by
  obtain ⟨_, _, rfl⟩ := h
  obtain ⟨_, _, rfl⟩ := g
  exact ⟨_, _, rfl⟩

theorem OnlyPosts.eq {s t : State} (h : OnlyPosts s t) :
    t = { s with drill := { s.drill with ports := t.drill.ports }, field := { s.field with txSeq := t.field.txSeq } } := by
  obtain ⟨_, _, rfl⟩ := h
  rfl

theorem countSeq_posts (dest cls : Nat) (s : State) : OnlyPosts s (countSeq dest cls s) := ⟨s.drill.ports, _, rfl⟩

theorem controlOn_posts (p dest mac type : Nat) (body : Bytes) (s : State) : OnlyPosts s (controlOn p dest mac type body s) :=
  ⟨_, s.field.txSeq, rfl⟩

/-- A fold of steps that only post only posts. -/
theorem foldl_posts {α : Type} {f : State → α → State} (hf : ∀ s a, OnlyPosts s (f s a)) (l : List α) (s : State) :
    OnlyPosts s (l.foldl f s) :=
  foldl_keeps (fun t => OnlyPosts s t) f (fun _ _ h => h.trans (hf _ _)) l s (.refl s)

theorem sendHail_posts (type : Nat) (s : State) : OnlyPosts s (sendHail type s) :=
  (foldl_posts (fun _ _ => controlOn_posts ..) _ _).trans (countSeq_posts ..)

/-- With nothing near and nothing held the Stile has nothing to take. -/
theorem pump_idle {s : State} (hn : s.stile.near = []) (hh : s.stile.held = []) : ∃ v, pump s = { s with stile := v } := by
  have hnear : pumpNear (pumpFuel s) s = { s with stile.strictInForce := s.stile.strict } := by
    simp [pumpFuel, hn, pumpNear, settleStrict]
  rw [pump, hnear, releaseHeld]
  split
  · exact ⟨_, rfl⟩
  · simp only [hh, List.foldl_nil]; exact ⟨_, rfl⟩

theorem endRemote_idle {s : State} (hf : s.stile.far = []) (hn : s.stile.near = []) (hh : s.stile.held = []) :
    ∃ v, endRemote s = { s with stile := v } := by
  have hnone : s.stile.far.filter (fun a => a.remote && a.result.isNone) = [] := by rw [hf]; rfl
  unfold endRemote
  dsimp only
  rw [hnone]
  exact pump_idle hn hh

theorem discardAllSheafs_none {s : State} (h : s.drill.sheafs = []) : discardAllSheafs s = s := by simp [discardAllSheafs, h]

/-- What a device that has left its Field is (R74, R386). -/
structure LeftField (s t : State) : Prop where
  join : t.field.join = 0
  id : t.field.id = 0
  dev : t.field.dev = 255
  roster : t.field.roster = []
  rejoin : t.field.rejoin = false
  kept : t.fixed.fieldImg = none
  plots : t.plots = s.plots
  bank : t.bank = s.bank
  ops : t.stw.ops = s.stw.ops.map (failAwait none false)

theorem LeftField.endRemote {s u : State} (h : LeftField s u) (hf : u.stile.far = []) (hn : u.stile.near = []) (hh : u.stile.held = []) :
    LeftField s (endRemote u) := by
  obtain ⟨v, hv⟩ := endRemote_idle hf hn hh
  rw [hv]
  exact ⟨h.join, h.id, h.dev, h.roster, h.rejoin, h.kept, h.plots, h.bank, h.ops⟩

theorem leaveField_leaves {s : State} (hs : s.drill.sheafs = []) (hf : s.stile.far = []) (hn : s.stile.near = [])
    (hh : s.stile.held = []) : LeftField s (leaveField s) := by
  have hail : OnlyPosts s (if s.field.join = 3 then s else sendHail 2 s) := by
    split
    · exact .refl s
    · exact sendHail_posts 2 s
  obtain ⟨p, q, hail⟩ := hail
  rw [leaveField, hail]
  dsimp only
  rw [discardAllSheafs_none (by exact hs)]
  exact LeftField.endRemote ⟨rfl, rfl, rfl, rfl, rfl, rfl, rfl, rfl, rfl⟩ hf hn hh

/-- R386: with no FIELD_JOIN in flight nothing ends with the membership. -/
theorem endJoin_none {st : Status} {s : State} (h : ∀ o ∈ s.stw.ops, o.body ≠ .fieldJoin) : endJoin st s = s := by
  have hf : s.stw.ops.find? (fun o => o.body == .fieldJoin) = none := by simpa using h
  simp [endJoin, hf]

theorem failAwait_fieldJoin {d : Option Nat} {b : Bool} {o : Op} (h : o.body ≠ .fieldJoin) : (failAwait d b o).body ≠ .fieldJoin := by
  unfold failAwait
  split
  · split
    · split
      · simp
      · exact h
    · exact h
  · exact h

/-- Settles O12: FIELD_JOIN goes long in `startJoin`, FIELD_LEAVE answers after `leaveField`, DEVICE_INFO reads. -/
theorem fieldAndDeviceCommands : Obligations.FieldAndDeviceCommands := by
  intro c p s
  obtain ⟨g, hg⟩ := taken_eq c s
  refine ⟨fun h hj => ?_, fun h hj ha hops hsh hf hn hh => ?_, fun h => ?_⟩
  · have hx : actFieldJoin c (plotArg p) (taken c s) =
        { long := some .fieldJoin, st := startJoin (fit 48 c.params) (keepRejoin c (taken c s)) } := by
      simp [actFieldJoin, hg, hj]
    exact starts_ok h _ rfl rfl (.inr rfl) rfl (.inl rfl) hx rfl rfl rfl (h.act_canonical cmdFieldJoin_ok hx)
  · have hl := leaveField_leaves (s := taken c s) (by rw [hg]; exact hsh) (by rw [hg]; exact hf) (by rw [hg]; exact hn) (by rw [hg]; exact hh)
    have hat : atomicAcross (taken c s) = false := by rw [hg]; exact ha
    have hend : endJoin .cancelled (leaveField (taken c s)) = leaveField (taken c s) := by
      refine endJoin_none fun o ho => ?_
      rw [hl.ops, hg] at ho
      obtain ⟨o', ho', rfl⟩ := List.mem_map.1 ho
      exact failAwait_fieldJoin (hops o' ho')
    have hx : actFieldLeave c (plotArg p) (taken c s) = { st := leaveField (taken c s) } := by
      have hj' : (taken c s).field.join = 2 := by rw [hg]; exact hj
      simp [actFieldLeave, hj', hat, hend]
    have hans : Answers (.fieldLeave c) 0x0106 c {} s (leaveField (taken c s)) :=
      answers_done h rfl rfl (.inr rfl) rfl (.inl rfl) rfl cmdFieldLeave_ok hx
    refine ⟨_, hans, hl.join, hl.id, hl.dev, hl.roster, hl.rejoin, hl.kept, ?_, ?_⟩
    · rw [hl.plots, hg]
    · rw [hl.bank, hg]
  · have hx : cmdDeviceInfo.act c (plotArg .device) (taken c s) = { inline := deviceBytes s, st := taken c s } := by rw [hg]; rfl
    exact answers_ok h _ rfl rfl (.inl rfl) rfl (.inl rfl) hx rfl rfl rfl rfl (answerOf_plain rfl) h.taken_canonical

/-! ### Rows and their controllers -/

theorem KeepsRows.refl (s : State) : KeepsRows s s := ⟨rfl, rfl, rfl, rfl⟩

/-- What is kept from `t` on is kept from a state that `t` agrees with. -/
theorem KeepsRows.after {s t u : State} (h : KeepsRows t u) (hb : t.bank = s.bank) (hs : t.sown = s.sown) (hw : t.stw = s.stw)
    (hr : t.drill.rows = s.drill.rows) : KeepsRows s u :=
  .trans ⟨hb, hs, hw, hr⟩ h

theorem canRt_setCan (k : Nat) (v : CanRt) (s : State) : canRt k (setCan k v s) = v := by
  simp [canRt, setCan]

theorem raiseD_sown (n d o : Nat) (s : State) : (raiseD n d o s).sown = s.sown := by rw [raiseD_frame]

theorem canState_keepsRows (k st : Nat) (s : State) : KeepsRows s (canState k st s) := by
  unfold canState
  dsimp only
  split
  · exact .refl s
  · exact ⟨raiseD_bank .., raiseD_sown .., raiseD_stw .., congrArg (·.rows) (raiseD_drill ..)⟩

theorem canRt_canState (k st : Nat) (s : State) : canRt k (canState k st s) = { canRt k s with state := st } := by
  unfold canState
  dsimp only
  split
  next h => rw [← h]
  next => rw [raise, canRt, (raiseD_keepsQueues ..).buses]; exact canRt_setCan ..

theorem startCtl_keepsRows (kind k : Nat) (s : State) : KeepsRows s (startCtl kind k s) := by
  unfold startCtl
  split
  · dsimp only
    split
    · exact .refl s
    · split
      · exact (canState_keepsRows ..).after rfl rfl rfl rfl
      · exact (canState_keepsRows ..).after rfl rfl rfl rfl
  · exact .refl s

/-- R248: a CAN controller stopped outside bus-off starts Error active with both error counters zero. -/
theorem startCtl_can {k : Nat} {s : State} (h5 : (canRt k s).state = 5) (h0 : (canRt k s).stoppedIn = 0) :
    canRt k (startCtl 0 k s) = { canRt k s with tec := 0, rxErr := 0, integrated := false, state := 0 } := by
  simp only [startCtl, h5, h0, ne_eq, not_true_eq_false, if_false]
  rw [canRt_canState, canRt_setCan]

/-- A row enabled joins the Enabled rows; its controller's start keeps the settings and every queue. -/
theorem enableRow_keepsRows (r : Nat) (s : State) :
    KeepsRows { s with bank.enabled := insertNat r s.bank.enabled } (enableRow r s) := by
  unfold enableRow
  dsimp only
  cases rowCtl (tgetD r [] s.bank.bind) with
  | none => exact ⟨rfl, rfl, rfl, rfl⟩
  | some e =>
    dsimp only
    split
    · split <;> exact ⟨rfl, rfl, rfl, rfl⟩
    · split <;> exact (startCtl_keepsRows ..).after rfl rfl rfl rfl

/-- R248: a row that is the first of a CAN controller to be Enabled starts it. -/
theorem enableRow_startsCan {r k : Nat} {s : State} (hc : rowCtl (tgetD r [] s.bank.bind) = some (0, k))
    (hw : ctlEnabled s.bank 0 k = false) (h5 : (canRt k s).state = 5) (h0 : (canRt k s).stoppedIn = 0) :
    canRt k (enableRow r s) = { canRt k s with tec := 0, rxErr := 0, integrated := false, state := 0 } := by
  have hstart : enableRow r s = startCtl 0 k { s with bank.enabled := insertNat r s.bank.enabled } := by simp [enableRow, hc, hw]
  rw [hstart]
  exact startCtl_can (s := { s with bank.enabled := insertNat r s.bank.enabled }) h5 h0

theorem stopCtl_keepsRows (kind k : Nat) (s : State) : KeepsRows s (stopCtl kind k s) := by
  unfold stopCtl
  split
  · exact (canState_keepsRows ..).after rfl rfl rfl rfl
  · exact ⟨rfl, rfl, rfl, rfl⟩
  · exact .refl s

theorem settleCtl_keepsRows (kind k : Nat) (s : State) : KeepsRows s (settleCtl kind k s) :=
  iteInduction (motive := KeepsRows s) (fun _ => .refl s) (fun _ => stopCtl_keepsRows ..)

theorem foldl_keepsRows {α : Type} {f : State → α → State} (hf : ∀ s a, KeepsRows s (f s a)) (l : List α) (s : State) :
    KeepsRows s (l.foldl f s) :=
  foldl_keeps (fun t => KeepsRows s t) f (fun _ _ h => h.trans (hf _ _)) l s (.refl s)

theorem discardCopy_keepsRows (i : Nat) (s : State) (c : Copy) : KeepsRows s (discardCopy i c s) := (discardCopy_same i c s).keepsRows

theorem flushAcf_keepsRows (r p i : Nat) (s : State) : KeepsRows s (flushAcf r p i s) :=
  (foldl_keepsRows (discardCopy_keepsRows i) _ _).after rfl rfl rfl rfl

theorem flushRing_keepsRows (r n i : Nat) (s : State) : KeepsRows s (flushRing r n i s) := by
  unfold flushRing
  split
  · split
    · exact (discardCopy_keepsRows ..).after rfl rfl rfl rfl
    · exact .refl s
  · exact .refl s

theorem dropSheafs_keepsRows (d i : Nat) (s : State) : KeepsRows s (dropSheafs d i s) := by
  refine foldl_keepsRows (fun s e => ?_) _ s
  have hcount := foldl_keepsRows (fun s r => (countRow_same r i 1 s).keepsRows) e.2.rows { s with drill.sheafs := tdel e.1 s.drill.sheafs }
  exact .trans (s := s) (hcount.after rfl rfl rfl rfl) (foldl_keepsRows (fun s (x : Grain × Bool) => (endGrain_same x.1 x.2 s).keepsRows) e.2.grains _)

theorem flushElsewhere_keepsRows (r : Nat) (s : State) : KeepsRows s (flushElsewhere r s) := by
  unfold flushElsewhere
  dsimp only
  split
  · exact flushAcf_keepsRows ..
  · exact flushRing_keepsRows ..
  · exact dropSheafs_keepsRows ..
  · exact .refl s

/-- What `quietRow` does with the copy on the row's wire: one that is not busy is discarded. -/
def dropIdleWire (r : Nat) (s : State) : State :=
  match tget r s.drill.rowWire with
  | some c => if wireBusy r s then s else discardCopy 22 c { s with drill.rowWire := tdel r s.drill.rowWire }
  | none => s

/-- What `quietRow` does with the row's controller. -/
def settleRow (r : Nat) (s : State) : State :=
  match rowCtl (tgetD r [] s.bank.bind) with
  | some (kind, k) => settleCtl kind k s
  | none => s

theorem quietRow_eq (r : Nat) (s : State) : quietRow r s =
    settleRow r (dropIdleWire r (sofChoice r (flushElsewhere r (flushRow r 22 { s with ploughs := disableRecords r s.ploughs })))) := by
  unfold quietRow dropIdleWire settleRow
  rfl

theorem dropIdleWire_keepsRows (r : Nat) (s : State) : KeepsRows s (dropIdleWire r s) := by
  unfold dropIdleWire
  split
  · split
    · exact .refl s
    · exact (discardCopy_keepsRows ..).after rfl rfl rfl rfl
  · exact .refl s

theorem settleRow_keepsRows (r : Nat) (s : State) : KeepsRows s (settleRow r s) := by
  unfold settleRow
  split
  · exact settleCtl_keepsRows ..
  · exact .refl s

/-- R39: a row that leaves Enabled loses its queued copies; every other row keeps its own, and the settings stay. -/
theorem quietRow_rows (r : Nat) (s : State) : KeepsRows { s with drill.rows := tdel r s.drill.rows } (quietRow r s) := by
  have hflush : KeepsRows { s with drill.rows := tdel r s.drill.rows } (flushRow r 22 { s with ploughs := disableRecords r s.ploughs }) :=
    (flushRow_rows ..).keepsRows.after rfl rfl rfl rfl
  rw [quietRow_eq]
  exact (((hflush.trans (flushElsewhere_keepsRows r _)).trans (sofChoice_keepsRows r _)).trans (dropIdleWire_keepsRows r _)).trans
    (settleRow_keepsRows r _)

theorem disableRow_keepsRows (r : Nat) (s : State) :
    KeepsRows { s with bank.enabled := s.bank.enabled.filter (· != r), drill.rows := tdel r s.drill.rows } (disableRow r s) := by
  unfold disableRow setRowRt
  exact (quietRow_rows ..).after rfl rfl rfl rfl

theorem stageRowBind_unbind {c : Call} {r : Nat} {s : State} {b : Bank} (he : b.enabled.contains r = false) (h0 : u8 c.params 0 = 0) :
    stageRowBind c r s b = (.ok, { b with bind := tdel r b.bind }) := by
  have h0' : u8 (imageOf c) 0 = 0 := by rw [u8_imageOf c 0 (by decide), h0]
  simp only [stageRowBind, he, h0', Bool.false_eq_true, if_false, if_true]

theorem stageRowBind_bind {c : Call} {r : Nat} {s : State} {b : Bank} (he : b.enabled.contains r = false) (h0 : u8 c.params 0 ≠ 0)
    (hany : b.bind.any (fun e => e.1 != r && sameEndpoint (imageOf c) e.2) = false)
    (hpins : 1 ≤ u8 c.params 0 ∧ u8 c.params 0 ≤ 4 → assigned b.pins (u8 c.params 0 - 1) (u8 c.params 2) = true)
    (hring : u8 c.params 0 = 6 → ringReady (imageOf c) s = true) :
    stageRowBind c r s b = (.ok, { b with bind := tset r (fit 48 c.params) b.bind }) := by
  have hp : (within 1 (u8 c.params 0) 4 && !assigned b.pins (u8 c.params 0 - 1) (u8 c.params 2)) = false := by
    by_cases hk : 1 ≤ u8 c.params 0 ∧ u8 c.params 0 ≤ 4
    · simp [hpins hk]
    · simp [within, hk]
  have hr : (u8 c.params 0 == 6 && !ringReady (imageOf c) s) = false := by
    by_cases hk : u8 c.params 0 = 6
    · simp [hring hk]
    · simp [hk]
  simp only [stageRowBind, u8_imageOf c 0 (by decide), u8_imageOf c 2 (by decide), fit_imageOf, he, h0, hany, hp, hr, Bool.false_eq_true,
    if_false]

theorem stageFraming_uart {c : Call} {r : Nat} {s : State} {b : Bank} (he : b.enabled.contains r = false)
    (hu : u8 (tgetD r [] b.bind) 0 = 2) (ht : isTalker (tgetD r [] b.bind) = true) :
    stageFraming c r s b = (.ok, { b with framing := tset r (fit 48 c.params) b.framing }) := by
  simp only [stageFraming, he, hu, ht, fit_imageOf, and_self, decide_true, Bool.not_true, Bool.false_and, Bool.false_eq_true, if_false]

/-- A command taken leaves its effect on settings, copies and controllers to its act. -/
theorem taken_bank (c : Call) (s : State) : (taken c s).bank = s.bank := by
  obtain ⟨_, h⟩ := taken_eq c s; rw [h]

theorem taken_drill (c : Call) (s : State) : (taken c s).drill = s.drill := by
  obtain ⟨_, h⟩ := taken_eq c s; rw [h]

theorem taken_canRt (c : Call) (k : Nat) (s : State) : canRt k (taken c s) = canRt k s := by
  obtain ⟨_, h⟩ := taken_eq c s; rw [h]; rfl

theorem taken_bound (c : Call) (r : Nat) (s : State) : bound r (taken c s) = bound r s := by
  obtain ⟨_, h⟩ := taken_eq c s; rw [h]; rfl

section
variable (c : Call) {r : Nat} {s : State} (hb : bound r s = true)
include hb

theorem actRowEnable_standing (he : s.bank.enabled.contains r = true) : actRowEnable c r s = { st := s } := by
  simp only [actRowEnable, hb, he, Bool.not_true, Bool.false_eq_true, if_false, if_true]

theorem actRowEnable_disabled (he : s.bank.enabled.contains r = false) : actRowEnable c r s = { st := enableRow r s } := by
  simp only [actRowEnable, hb, he, Bool.not_true, Bool.false_eq_true, if_false]

theorem actRowDisable_standing (he : s.bank.enabled.contains r = false) : actRowDisable c r s = { st := s } := by
  simp only [actRowDisable, hb, he, Bool.not_true, Bool.not_false, Bool.false_eq_true, if_false, if_true]

theorem actRowDisable_enabled (he : s.bank.enabled.contains r = true) : actRowDisable c r s = { st := disableRow r s } := by
  simp only [actRowDisable, hb, he, Bool.not_true, Bool.false_eq_true, if_false]

end

theorem rowStats_answers {c : Call} {r : Nat} {s : State} (h : Heard cmdRowStats c (.row r) s) :
    Answers (.rowStats c) 0x0204 c
      { inline := fit 8 (le 1 (rowState r s)) ++ le 8 (rowRt r s).lastRx ++ le 8 (rowRt r s).lastTx ++ le 4 (queued r s) ++
          le 4 (rowRt r s).high
        bulk := ((List.range 32).map (fun i => le 8 (tgetD i 0 (rowRt r s).counters))).flatten } s
      (if flag c.params 0 0 = true then taken c s
       else { taken c s with harrow.rows := tset r { rowRt r s with counters := [], high := queued r s } s.harrow.rows }) := by
  obtain ⟨g, hg⟩ := taken_eq c s
  have hx : cmdRowStats.act c (plotArg (.row r)) (taken c s) = actRowStats c r { s with stw.tags := g } := by rw [hg]; rfl
  refine answers_ok h _ rfl rfl (.inl rfl) rfl (.inl rfl) hx rfl rfl rfl ?_ (answerOf_plain rfl) ?_
  · rw [hg]; rfl
  · have hcan := h.act_canonical cmdRowStats_ok hx
    rw [hg]; exact hcan

/-- Settles O13: ROW_BIND and ROW_FRAMING_SET store what their staging gives, ROW_ENABLE and ROW_DISABLE act through `enableRow` and
`disableRow`, ROW_STATS reads and clears. -/
theorem rowCommands : Obligations.RowCommands := by
  refine ⟨fun c r s u hu he => ?_, fun c r s hb => ?_, fun c r s u hu h => ?_⟩
  · subst hu
    have hbank := taken_bank c s
    rw [← hbank] at he ⊢
    exact ⟨fun h h0 => rowBind_item.answers h rfl rfl rfl (directAct_staged (stageRowBind_unbind he h0)),
      fun h h0 hany hpins hring => rowBind_item.answers h rfl rfl rfl (directAct_staged (stageRowBind_bind he h0 hany hpins hring)),
      fun h hk ht => rowFramingSet_item.answers h rfl rfl rfl (directAct_staged (stageFraming_uart he hk ht))⟩
  · rw [← taken_bound c] at hb
    have hbank := taken_bank c s
    refine ⟨fun h he => ?_, fun h he => ?_, fun h he => ?_, fun h he => ?_⟩ <;> rw [← hbank] at he
    · exact rowEnable_item.answers h rfl rfl rfl (actRowEnable_standing c hb he)
    · refine ⟨enableRow r (taken c s), rowEnable_item.answers h rfl rfl rfl (actRowEnable_disabled c hb he),
        by rw [(enableRow_keepsRows ..).bank, hbank], fun k hc hw h5 h0 => ?_⟩
      rw [← hbank] at hc hw
      rw [← taken_canRt c] at h5 h0
      rw [enableRow_startsCan hc hw h5 h0]
      exact ⟨rfl, rfl, rfl⟩
    · exact rowDisable_item.answers h rfl rfl rfl (actRowDisable_standing c hb he)
    · exact ⟨disableRow r (taken c s), rowDisable_item.answers h rfl rfl rfl (actRowDisable_enabled c hb he),
        by rw [(disableRow_keepsRows ..).bank, hbank], by rw [(disableRow_keepsRows ..).rows, taken_drill]⟩
  · subst hu
    exact rowStats_answers h

end Sys2Proof.Machine
end

section
/-! PROOF. Messages between members: forwards, their answers, repeats and the remote timeout (R54, R55, R354, R369 to R371). -/

namespace Sys2Proof.Machine

/-! ### A control message taken from the inbox -/

/-- A control message taken leaves the inbox, and its cells are freed. -/
theorem takeControl_eq (n : Nat) (s : State) : ∃ i g, takeControl n s = { s with stw.inbox := i, gran := g } := by
  unfold takeControl
  split
  · exact ⟨_, _, rfl⟩
  · exact ⟨s.stw.inbox, s.gran, rfl⟩

section
variable (n : Nat) (s : State)

@[simp] theorem takeControl_field : (takeControl n s).field = s.field := by
  obtain ⟨_, _, h⟩ := takeControl_eq n s; rw [h]
@[simp] theorem takeControl_bank : (takeControl n s).bank = s.bank := by
  obtain ⟨_, _, h⟩ := takeControl_eq n s; rw [h]
@[simp] theorem takeControl_hold : (takeControl n s).hold = s.hold := by
  obtain ⟨_, _, h⟩ := takeControl_eq n s; rw [h]
@[simp] theorem takeControl_ops : (takeControl n s).stw.ops = s.stw.ops := by
  obtain ⟨_, _, h⟩ := takeControl_eq n s; rw [h]
@[simp] theorem takeControl_answers : (takeControl n s).stw.answers = s.stw.answers := by
  obtain ⟨_, _, h⟩ := takeControl_eq n s; rw [h]
@[simp] theorem takeControl_mq3 : (takeControl n s).stw.mq3 = s.stw.mq3 := by
  obtain ⟨_, _, h⟩ := takeControl_eq n s; rw [h]
@[simp] theorem takeControl_segments : (takeControl n s).stw.segments = s.stw.segments := by
  obtain ⟨_, _, h⟩ := takeControl_eq n s; rw [h]
@[simp] theorem takeControl_answerSegs : (takeControl n s).stw.answerSegs = s.stw.answerSegs := by
  obtain ⟨_, _, h⟩ := takeControl_eq n s; rw [h]
@[simp] theorem takeControl_staleCount : (takeControl n s).stw.staleCount = s.stw.staleCount := by
  obtain ⟨_, _, h⟩ := takeControl_eq n s; rw [h]

end

/-! ### Control Sheafs sent -/

theorem sendControl_posts (dest type : Nat) (body : Bytes) (s : State) : OnlyPosts s (sendControl dest type body s) := by
  unfold sendControl
  split
  · exact .refl s
  · split
    · exact (controlOn_posts ..).trans (countSeq_posts ..)
    · exact .refl s

theorem sendSegments_posts (dest type headLen : Nat) (head : Bool → Nat → Bytes) (d : Bytes) (s : State) :
    OnlyPosts s (sendSegments dest type headLen head d s) :=
  foldl_posts (fun _ _ => sendControl_posts ..) _ _

theorem sendForward_posts (dest opcode : Nat) (c : Call) (tok : Nat × Nat × Nat × Nat) (n : Nat) (hops : List Nat) (s : State) :
    OnlyPosts s (sendForward dest opcode c tok n hops s) := sendSegments_posts ..

/-! ### Messages in one segment -/

section
variable {α : Type} {same : α → Bool}

/-- Of a message no segment is kept: the others are all there are. -/
theorem filter_others {l : List α} (h : l.filter same = []) : l.filter (fun x => !same x) = l := by
  refine List.filter_eq_self.2 fun x hx => ?_
  simpa using List.filter_eq_nil_iff.1 h x hx

/-- R369: a first segment is whole, or waits for more. -/
theorem assembled_single (off : α → Nat) (data : α → Bytes) (more : α → Bool) {x : α} (h : off x = 0) :
    assembled off data more 0 [x] = if more x then none else some (data x) := by
  simp [assembled, h]

end

section
variable {m : Forward} {s : State} (hseg : s.stw.segments.filter (sameForward m) = []) (hoff : m.off = 0)
include hseg hoff

theorem newForward_segment (h : m.more = true) : newForward m s = { s with stw.segments := s.stw.segments ++ [m] } := by
  simp only [newForward, hseg, insertSeg, assembled_single _ _ _ hoff, h, if_true, filter_others hseg]

theorem newForward_whole (h : m.more = false) : newForward m s = placeForward m s := by
  have hm : { m with off := 0, more := false, bulk := m.bulk } = m := by rw [← hoff, ← h]
  simp only [newForward, hseg, insertSeg, assembled_single _ _ _ hoff, h, Bool.false_eq_true, if_false, filter_others hseg, hm]

end

/-- R369: with MQ3 full a whole forward waits to be repeated. -/
theorem placeForward_full {m : Forward} {s : State} (h : 16 ≤ ((queueOf 3 s).cmdTail + 32 - (queueOf 3 s).cmdHead) % 32) :
    placeForward m s = s := by
  simp [placeForward, h]

theorem placeForward_placed {m : Forward} {s : State} (h : ((queueOf 3 s).cmdTail + 32 - (queueOf 3 s).cmdHead) % 32 < 16) :
    (placeForward m s).stw = { s.stw with mq3 := s.stw.mq3 ++ [m] } ∧
      queueOf 3 (placeForward m s) = { queueOf 3 s with cmdTail := ((queueOf 3 s).cmdTail + 1) % 32 } ∧
      (∀ j, j ≠ 3 → queueOf j (placeForward m s) = queueOf j s) ∧ (placeForward m s).bank = s.bank := by
  simp only [placeForward, if_neg (Nat.not_le.2 h)]
  exact ⟨rfl, tgetD_tset_same .., fun j hj => tgetD_tset_other hj .., rfl⟩

/-! ### What a received forward does -/

section
variable {m : Forward} {s : State} (hup : s.stw.up = true)
include hup

theorem forward_outside (h : s.field.join ≠ 2) : exec (.mailboxForward m) s = .next (takeControl 3 s) := by
  show execMailboxForward m s = _
  simp [execMailboxForward, hup, h]

variable (hj : s.field.join = 2)
include hj

theorem forward_answered {a : Stored}
    (h : s.stw.answers.find? (fun y => y.dev == m.dev && y.queue == m.queue && y.tag == m.tag && y.gen == m.gen && y.sub == m.sub) = some a) :
    exec (.mailboxForward m) s = .next (sendAnswer m.dev a.answer (takeControl 3 s)) := by
  show execMailboxForward m s = _
  simp [execMailboxForward, hup, hj, h]

variable
  (ha : s.stw.answers.find? (fun y => y.dev == m.dev && y.queue == m.queue && y.tag == m.tag && y.gen == m.gen && y.sub == m.sub) = none)
include ha

theorem forward_inFlight {o : Op} (h : forwardOp m s = some o) :
    exec (.mailboxForward m) s = .next (sendAnswer m.dev (interimAnswer m o (takeControl 3 s)) (takeControl 3 s)) := by
  have h' : forwardOp m (takeControl 3 s) = some o := by simpa [forwardOp] using h
  show execMailboxForward m s = _
  simp [execMailboxForward, hup, hj, ha, h']

theorem forward_new (h : forwardOp m s = none) : exec (.mailboxForward m) s =
    .next (if s.stw.mq3.any (sameForward m) = true then takeControl 3 s else newForward m (takeControl 3 s)) := by
  have h' : forwardOp m (takeControl 3 s) = none := by simpa [forwardOp] using h
  show execMailboxForward m s = _
  simp only [execMailboxForward, hup, hj, ha, h', takeControl_field, takeControl_answers, takeControl_mq3, Bool.not_true,
    Bool.false_eq_true, ne_eq, not_true_eq_false, if_false]

end

/-! ### What a received answer does -/

section
variable {x : Answer} {s : State} (hup : s.stw.up = true)
include hup

theorem answer_stale (h : awaiting x s = none) : exec (.mailboxAnswer x) s = .next (staleAnswer x.tag (takeControl 4 s)) := by
  have h' : awaiting x (takeControl 4 s) = none := by simpa [awaiting] using h
  show execMailboxAnswer x s = _
  simp [execMailboxAnswer, hup, h']

theorem answer_awaited {o : Op} {w : Walk} {ref : Nat} (h : awaiting x s = some (o, w, ref)) : exec (.mailboxAnswer x) s =
    .next (if x.interim = true then takeControl 4 s else takeAnswer x o w ref (takeControl 4 s)) := by
  have h' : awaiting x (takeControl 4 s) = some (o, w, ref) := by unfold awaiting at h ⊢; rw [takeControl_ops]; exact h
  show execMailboxAnswer x s = _
  simp [execMailboxAnswer, hup, h']

end

section
variable {x : Answer} {o : Op} {w : Walk} {ref : Nat} {s : State} (hseg : s.stw.answerSegs.filter (sameAnswer x) = []) (hoff : x.off = 0)
include hseg hoff

theorem takeAnswer_segment (h : x.more = true) : takeAnswer x o w ref s = { s with stw.answerSegs := s.stw.answerSegs ++ [x] } := by
  simp only [takeAnswer, hseg, insertSeg, assembled_single _ _ _ hoff, h, if_true, filter_others hseg]

theorem takeAnswer_whole (h : x.more = false) :
    takeAnswer x o w ref s = putOp o { o with body := .walk (joinAnswer o w ref x.slot x.data) } s := by
  simp only [takeAnswer, hseg, insertSeg, assembled_single _ _ _ hoff, h, Bool.false_eq_true, if_false, filter_others hseg]

end

/-! ### What an answer leaves of its walk -/

/-- Of a walk, what an answer's data do not change. -/
structure KeepsTurn (w v : Walk) : Prop where
  await : v.await = w.await
  given : v.given = w.given
  todo : v.todo = w.todo

theorem KeepsTurn.trans {w v u : Walk} (h : KeepsTurn w v) (g : KeepsTurn v u) : KeepsTurn w u :=
  ⟨g.await.trans h.await, g.given.trans h.given, g.todo.trans h.todo⟩

theorem addEntry_keepsTurn (e : Entry) (w : Walk) : KeepsTurn w (addEntry e w) := ⟨rfl, rfl, rfl⟩

theorem foldl_addEntry_keepsTurn (l : List Entry) (w : Walk) : KeepsTurn w (l.foldl (fun w e => addEntry e w) w) :=
  foldl_keeps (KeepsTurn w) (fun w e => addEntry e w) (fun _ _ h => h.trans (addEntry_keepsTurn ..)) l w ⟨rfl, rfl, rfl⟩

theorem joinEntries_keepsTurn (ref : Nat) (st : Status) (inline d : Bytes) (w : Walk) : KeepsTurn w (joinEntries ref st inline d w) := by
  unfold joinEntries
  dsimp only
  refine KeepsTurn.trans ?_ (foldl_addEntry_keepsTurn ..)
  exact ⟨rfl, rfl, rfl⟩

theorem joinBulk_keepsTurn (k : Cmd) (c : Call) (d : Bytes) (w : Walk) : KeepsTurn w (joinBulk k c d w) := by
  unfold joinBulk
  dsimp only
  repeat' split
  all_goals exact ⟨rfl, rfl, rfl⟩

theorem joinResults_keepsTurn (k : Cmd) (c : Call) (ref : Nat) (st : Status) (inline d : Bytes) (w : Walk) :
    KeepsTurn w (joinResults k c ref st inline d w) := by
  obtain ⟨ha, hg, ht⟩ := joinBulk_keepsTurn k c d w
  unfold joinResults
  split
  · split
    · exact ⟨rfl, rfl, rfl⟩
    · exact ⟨rfl, rfl, rfl⟩
  · exact ⟨ha, hg, ht⟩

theorem joinAnswer_keepsTurn (o : Op) (w : Walk) (ref : Nat) (slot d : Bytes) :
    KeepsTurn { w with await := none, given := statusOf (u8 slot 4) } (joinAnswer o w ref slot d) := by
  unfold joinAnswer
  dsimp only
  repeat' split
  · exact joinResults_keepsTurn ..
  · exact joinEntries_keepsTurn ..
  · exact ⟨rfl, rfl, rfl⟩

/-! ### Repeats and the remote timeout -/

section
variable {o : Op} {w : Walk} {d ref q tag : Nat} {s : State} (hup : s.stw.up = true) (hq : waitingOp q tag s = some o)
  (hw : o.body = .walk w) (ha : w.await = some (d, ref))
include hup hq hw ha

theorem forwardRepeat_sends : exec (.forwardRepeat q tag) s =
    .next (sendForward d o.opcode o.call (walkToken o.call o.from_ s) (w.subs - 1) (forwardHops w ref) s) := by
  show execForwardRepeat q tag s = _
  simp [execForwardRepeat, hup, hq, hw, ha]

theorem remoteTimeout_fails : exec (.remoteTimeout q tag) s =
    .next (putOp o { o with body := .walk (addEntry { plot := ref, status := .remoteUnreachable, unknown := true }
      { w with await := none, given := .remoteUnreachable, seen := (ref, .remoteUnreachable) :: w.seen }) } s) := by
  show execRemoteTimeout q tag s = _
  simp [execRemoteTimeout, failAwait, hup, hq, hw, ha]

end

/-- Settles O48: each clause is one case of what a received message, a repeat or a timeout does. -/
theorem mailboxTrafficOfMembers : Obligations.MailboxTrafficOfMembers := by
  intro m a x o w d ref q tag s u v hup hu hv
  subst hu hv
  refine ⟨forward_outside hup, fun hj ha => forward_answered hup hj ha, fun hj ha => ⟨forward_inFlight hup hj ha, ?_, ?_⟩, ?_, ?_, ?_, ?_⟩
  · intro ho hmq
    rw [forward_new hup hj ha ho, if_pos hmq]
  · intro ho hmq hseg hoff
    have hseg' : (takeControl 3 s).stw.segments.filter (sameForward m) = [] := by rw [takeControl_segments]; exact hseg
    have hq : queueOf 3 (takeControl 3 s) = queueOf 3 s := by simp [queueOf]
    rw [forward_new hup hj ha ho, if_neg (by simp [hmq])]
    refine ⟨fun hmore => ?_, fun hmore hfree => ⟨_, rfl, ?_⟩, fun hmore hfull => ?_⟩
    · rw [newForward_segment hseg' hoff hmore, takeControl_segments]
    · rw [newForward_whole hseg' hoff hmore]
      obtain ⟨hstw, h3, hother, hbank⟩ := placeForward_placed (m := m) (s := takeControl 3 s) (by rw [hq]; exact hfree)
      rw [takeControl_mq3] at hstw
      rw [hq] at h3
      exact ⟨hstw, h3, fun j hj => (hother j hj).trans (by simp [queueOf]), hbank.trans (takeControl_bank ..)⟩
    · rw [newForward_whole hseg' hoff hmore, placeForward_full (by rw [hq]; exact hfull)]
  · intro h
    rw [answer_stale hup h, staleAnswer, takeControl_staleCount]
  · intro h
    have hall := answer_awaited hup h
    refine ⟨fun hi => by rw [hall, if_pos hi], fun hi hseg hoff => ?_⟩
    have hseg' : (takeControl 4 s).stw.answerSegs.filter (sameAnswer x) = [] := by rw [takeControl_answerSegs]; exact hseg
    rw [hall, if_neg (by simp [hi])]
    obtain ⟨hawait, hgiven, htodo⟩ := joinAnswer_keepsTurn o w ref x.slot x.data
    refine ⟨fun hmore => ?_, fun hmore => ⟨?_, hawait, hgiven, htodo⟩⟩
    · rw [takeAnswer_segment hseg' hoff hmore, takeControl_answerSegs]
    · rw [takeAnswer_whole hseg' hoff hmore]
  · intro ho hw ha
    exact ⟨⟨_, forwardRepeat_sends hup ho hw ha, rfl, (sendForward_posts ..).eq⟩,
      ⟨_, remoteTimeout_fails hup ho hw ha, rfl, rfl, rfl, rfl, rfl⟩⟩
  · intro ho
    constructor
    · show execForwardRepeat q tag s = _
      simp [execForwardRepeat, ho]
    · show execRemoteTimeout q tag s = _
      simp [execRemoteTimeout, ho]

end Sys2Proof.Machine
end

section
/-! PROOF. Atomic commands across the members of a Field (R63 to R67, R364, R365, R372). -/

namespace Sys2Proof.Machine

/-! ### A control Sheaf sent -/

theorem be_length (n v : Nat) : (be n v).length = n := by simp [be]

theorem sheafHeader_length (a b c : Bool) (cls dest n : Nat) (s : State) : (sheafHeader a b c cls dest n s).length = 16 := by
  simp [sheafHeader, be_length]

/-- R210, R218: the body of a tagged Sheaf stands behind 34 bytes of headers. -/
theorem taggedFrame_drop {mac pcp : Nat} {h d : Bytes} {b : Bank} (hh : h.length = 16) : (taggedFrame mac pcp (h ++ d) b).drop 34 = d := by
  have hlen : (be 6 mac ++ be 6 (stationAddr b) ++ be 2 0x8100 ++ be 2 (pcp * 8192 + sheafVid b) ++ be 2 (sheafType b) ++ h).length = 34 := by
    simp [be_length, hh]
  rw [taggedFrame, ← List.append_assoc, ← hlen, List.drop_left]

theorem nextSeq_countSeq (dest cls : Nat) (s : State) : nextSeq dest cls (countSeq dest cls s) = (nextSeq dest cls s + 1) % 4294967296 :=
  tgetD_tset_same ..

theorem sendControl_sends (dest type : Nat) (body : Bytes) (s : State) : Sends dest type body s (sendControl dest type body s) := by
  refine ⟨(sendControl_posts ..).eq, fun hj => by simp [sendControl, hj], fun m p hj hm hp => ?_⟩
  simp only [sendControl, hj, hm, hp, ne_eq, not_true_eq_false, if_false]
  exact ⟨nextSeq_countSeq .., _, tgetD_tset_same .., rfl, rfl, taggedFrame_drop (sheafHeader_length ..)⟩

theorem le_one (v : Nat) : le 1 v = [byte v] := rfl

theorem sendAtomic_eq (d : Nat) (m : AtomicMsg) (s : State) : sendAtomic d m s = sendControl d 5 (atomicBody m s) s := by
  simp only [sendAtomic, atomicBody, le_one, List.append_assoc, List.cons_append, List.nil_append]
  rfl

/-- A message whose body is made of what the state before names is sent from a state with the same device ID. -/
theorem sendAtomic_sends (d : Nat) (m : AtomicMsg) {s u : State} (h : u.field = s.field) : Sends d 5 (atomicBody m s) u (sendAtomic d m u) := by
  have hbody : atomicBody m s = atomicBody m u := by simp only [atomicBody, ownDev, h]
  rw [sendAtomic_eq, hbody]
  exact sendControl_sends ..

theorem sendAtomic_posts (d : Nat) (m : AtomicMsg) (s : State) : OnlyPosts s (sendAtomic d m s) := by
  rw [sendAtomic_eq]; exact sendControl_posts ..

/-! ### What a member and the holder do with an atomic message -/

section
variable (n : Nat) (m : AtomicMsg) (s : State)

@[simp] theorem takeControl_committed : (takeControl n s).stw.committed = s.stw.committed := by
  obtain ⟨_, _, h⟩ := takeControl_eq n s; rw [h]
@[simp] theorem takeControl_decisions : (takeControl n s).stw.decisions = s.stw.decisions := by
  obtain ⟨_, _, h⟩ := takeControl_eq n s; rw [h]
@[simp] theorem takeControl_flip : (takeControl n s).stw.flip = s.stw.flip := by
  obtain ⟨_, _, h⟩ := takeControl_eq n s; rw [h]
@[simp] theorem takeControl_nowNs : nowNs (takeControl n s) = nowNs s := by
  obtain ⟨_, _, h⟩ := takeControl_eq n s; rw [h]; rfl
@[simp] theorem takeControl_commitLead : commitLead (takeControl n s) = commitLead s := by
  obtain ⟨_, _, h⟩ := takeControl_eq n s; rw [h]; rfl
@[simp] theorem takeControl_tokenMsg (k : Nat) (c : Call) (f : Option FwdFrom) : tokenMsg k c f (takeControl n s) = tokenMsg k c f s := by
  obtain ⟨_, _, h⟩ := takeControl_eq n s; rw [h]; rfl
@[simp] theorem takeControl_stagedHere : stagedHere m (takeControl n s) = stagedHere m s := by
  obtain ⟨_, _, h⟩ := takeControl_eq n s; rw [h]; rfl
@[simp] theorem takeControl_readyOp : readyOp m (takeControl n s) = readyOp m s := by
  obtain ⟨_, _, h⟩ := takeControl_eq n s; rw [h]; rfl
@[simp] theorem takeControl_awaited : awaited m (takeControl n s) = awaited m s := by
  obtain ⟨_, _, h⟩ := takeControl_eq n s; rw [h]; rfl

end

theorem OnlyPosts.bank {s t : State} (h : OnlyPosts s t) : t.bank = s.bank := by obtain ⟨_, _, rfl⟩ := h; rfl
theorem OnlyPosts.sown {s t : State} (h : OnlyPosts s t) : t.sown = s.sown := by obtain ⟨_, _, rfl⟩ := h; rfl
theorem OnlyPosts.stw {s t : State} (h : OnlyPosts s t) : t.stw = s.stw := by obtain ⟨_, _, rfl⟩ := h; rfl

section
variable {m : AtomicMsg} {s : State} (hup : s.stw.up = true)
include hup

theorem prepare_sends : exec (.atomicPrepare m) s = .next (sendAtomic m.sender
    (if stagedHere m s = true then { m with kind := 4, tc := 0, status := 0 }
     else { m with kind := 5, tc := 0, status := Status.abandoned.code }) (takeControl 5 s)) := by
  show execAtomicPrepare m s = _
  simp only [execAtomicPrepare, hup, takeControl_stagedHere, Bool.not_true, Bool.false_eq_true, if_false]
  split <;> rfl

theorem commit_staged (h : stagedHere m s = true) : exec (.atomicCommit m) s =
    .next (raiseTarget { takeControl 5 s with stw.staged := some m, stw.tc := some m.tc, stw.flip := some m.tc }) := by
  show execAtomicCommit m s = _
  simp only [execAtomicCommit, hup, takeControl_stagedHere, h, Bool.not_true, Bool.false_eq_true, if_false, if_true]

theorem commit_notStaged (h : stagedHere m s = false) : exec (.atomicCommit m) s =
    .next (if s.stw.committed.any (sameToken m) = true then sendAtomic m.sender { m with kind := 6, tc := 0, status := 0 } (takeControl 5 s)
      else takeControl 5 s) := by
  show execAtomicCommit m s = _
  simp only [execAtomicCommit, hup, takeControl_stagedHere, takeControl_committed, h, Bool.not_true, Bool.false_eq_true, if_false]
  split <;> rfl

theorem abort_sends : exec (.atomicAbort m) s = .next (sendAtomic m.sender { m with kind := 7, tc := 0, status := 0 }
    (if stagedHere m s = true then discardStaged (takeControl 5 s) else takeControl 5 s)) := by
  show execAtomicAbort m s = _
  simp only [execAtomicAbort, hup, takeControl_stagedHere, Bool.not_true, Bool.false_eq_true, if_false]

theorem ready_stale (h : readyOp m s = none) : exec (.atomicReady m) s = .next (staleAnswer m.tokTag (takeControl 5 s)) := by
  show execAtomicReady m s = _
  simp only [execAtomicReady, hup, takeControl_readyOp, h, Bool.not_true, Bool.false_eq_true, if_false]

theorem ready_yes {o : Op} {w w1 : Walk} (h : readyOp m s = some (o, w)) (h1 : w1 = { w with ready := insertNat m.sender w.ready })
    (hk : m.kind = 4) : exec (.atomicReady m) s =
    .next (if (w.members.all w1.ready.contains && !o.cancel) = true then decideCommit o w1 (takeControl 5 s)
      else putOp o { o with body := .atomicReady w1 } (takeControl 5 s)) := by
  subst h1
  show execAtomicReady m s = _
  simp only [execAtomicReady, hup, takeControl_readyOp, h, hk, Bool.not_true, Bool.false_eq_true, if_false, if_true]

theorem ready_no {o : Op} {w : Walk} {k : Cmd} (h : readyOp m s = some (o, w)) (hk : m.kind ≠ 4) (hb : bankCmd o.opcode o.call = some k) :
    exec (.atomicReady m) s = .next (abortHeld k o (memberEntry m.sender (statusOf m.status) true w)
      (if o.cancel then .cancelled else statusOf m.status) (takeControl 5 s)) := by
  show execAtomicReady m s = _
  simp only [execAtomicReady, hup, takeControl_readyOp, h, hk, hb, Bool.not_true, Bool.false_eq_true, if_false]

theorem commitDone_does : exec (.commitDone m) s =
    .next (if awaited m s = true then acknowledge m (takeControl 5 s) else staleAnswer m.tokTag (takeControl 5 s)) := by
  show execCommitDone m s = _
  simp only [execCommitDone, hup, takeControl_awaited, Bool.not_true, Bool.false_eq_true, if_false]

theorem commitRepeat_sends (n : Nat) : exec (.commitRepeat n) s =
    .next ((s.stw.decisions.filter (fun d => d.2.contains n)).foldl (fun s d => sendAtomic n d.1 s) s) := by
  show execCommitRepeat n s = _
  simp only [execCommitRepeat, hup, if_true]

theorem holdExpiry_staged (h : s.stw.staged.isSome = true) (ht : s.stw.tc = none) :
    exec .prepareHoldExpiry s = .next (discardStaged s) := by
  show execPrepareHoldExpiry s = _
  simp [execPrepareHoldExpiry, hup, h, ht]

theorem holdExpiry_silent (h : s.stw.staged = none) {o : Op} {w : Walk} {k : Cmd} (hw : waitingReady s = some (o, w))
    (hb : bankCmd o.opcode o.call = some k) :
    exec .prepareHoldExpiry s = .next (abortHeld k o ((w.members.filter (fun d => !w.ready.contains d)).foldl
      (fun w d => memberEntry d .remoteUnreachable true w) w) (if o.cancel then .cancelled else .remoteUnreachable) s) := by
  show execPrepareHoldExpiry s = _
  simp only [execPrepareHoldExpiry, hup, h, hw, hb, Option.isSome_none, Bool.false_and, Bool.not_true, Bool.false_eq_true, if_false]

theorem holdExpiry_decision (h : s.stw.staged = none) (hw : waitingReady s = none) :
    exec .prepareHoldExpiry s = .next (dropDecision s) := by
  show execPrepareHoldExpiry s = _
  simp only [execPrepareHoldExpiry, hup, h, hw, Option.isSome_none, Bool.false_and, Bool.not_true, Bool.false_eq_true, if_false]

end

/-- A decision is kept for its members, and posted to each of them. -/
theorem decide_posts (m : AtomicMsg) (l : List Nat) (s : State) :
    OnlyPosts { s with stw.decisions := s.stw.decisions ++ (if l = [] then [] else [(m, l)]) } (decide_ m l s) := by
  unfold decide_
  cases l with
  | nil => exact ⟨s.drill.ports, s.field.txSeq, by simp⟩
  | cons d l => exact foldl_posts (fun _ _ => sendAtomic_posts ..) _ _

theorem requiredPace_preq (q : Rat) (s : State) : requiredPace { s with power.preq := q } = requiredPace s := rfl

theorem retarget_eq (s : State) : retarget s = { s with power.preq := requiredPace (retarget s) } := by
  rw [show requiredPace (retarget s) = requiredPace s from requiredPace_preq ..]
  rfl

/-- A demand taken and the pace it requires: nothing else of the state moves. -/
theorem retarget_takeDemand (d : Nat × Nat) (s : State) : retarget (takeDemand d s) = { s with power := { s.power with
    slots := d.1, bandwidth := d.2, preq := requiredPace (retarget (takeDemand d s)) } } := by
  have h := retarget_eq (takeDemand d s)
  generalize requiredPace (retarget (takeDemand d s)) = q at h ⊢
  rw [h]
  rfl

theorem retarget_takeDemand_stw (d : Nat × Nat) (s : State) : (retarget (takeDemand d s)).stw = s.stw := by
  rw [retarget_takeDemand]

theorem raiseTarget_stw (s : State) : (raiseTarget s).stw = s.stw := by
  rw [raiseTarget, retarget_takeDemand_stw]

/-- R31, R365: the target is raised to the larger demand, and nothing else of the state moves. -/
theorem raiseTarget_does (s : State) :
    raiseTarget s = { s with power := { s.power with
      slots := (raiseTarget s).power.slots, bandwidth := (raiseTarget s).power.bandwidth, preq := (raiseTarget s).power.preq } } ∧
    (raiseTarget s).power.slots = max (demandOf s.bank s).1 (demandOf s.sown s).1 ∧
    (raiseTarget s).power.bandwidth = max (demandOf s.bank s).2 (demandOf s.sown s).2 ∧
    (raiseTarget s).power.preq = requiredPace (raiseTarget s) := by
  rw [raiseTarget, maxDemand]
  generalize max (demandOf s.bank s).1 (demandOf s.sown s).1 = n
  generalize max (demandOf s.bank s).2 (demandOf s.sown s).2 = k
  have h := retarget_takeDemand (n, k) s
  generalize retarget (takeDemand (n, k) s) = t at h ⊢
  generalize requiredPace t = q at h ⊢
  subst h
  exact ⟨rfl, rfl, rfl, rfl⟩

theorem putOp_stw (o o' : Op) (s : State) : (putOp o o' s).stw = { s.stw with ops := s.stw.ops.map (fun x => if x = o then o' else x) } := rfl

/-- What a commit decision leaves of the Steward: the decision, the flip's time where this device has staged, and the next form of the
operation. -/
theorem decideCommit_eq (o : Op) (w : Walk) (s : State) :
    ∃ g f, (decideCommit o w s).stw = { s.stw with
      ledger := g, flash := f, flip := if w.busy then s.stw.flip else some (nowNs s + commitLead s)
      ops := s.stw.ops.map (fun y => if y = o then { o with body := if w.busy then .atomicDone w else .atomicFlip w } else y)
      decisions := s.stw.decisions ++ (if w.members = [] then []
        else [({ tokenMsg 2 o.call o.from_ s with tc := stampOf (nowNs s + commitLead s) }, w.members)]) } := by
  have hmark : ∃ g f, markRecord o.opno (fun r => { r with across := true }) (passPonr o.opno s) = { s with stw.ledger := g, stw.flash := f } :=
    ⟨_, _, rfl⟩
  obtain ⟨g, f, hmark⟩ := hmark
  refine ⟨g, f, ?_⟩
  unfold decideCommit
  dsimp only
  rw [hmark]
  have hstw := (decide_posts { tokenMsg 2 o.call o.from_ s with tc := stampOf (nowNs s + commitLead s) } w.members
    { s with stw.ledger := g, stw.flash := f }).stw
  rw [show tokenMsg 2 o.call o.from_ { s with stw.ledger := g, stw.flash := f } = tokenMsg 2 o.call o.from_ s from rfl]
  generalize decide_ _ _ _ = u at hstw ⊢
  split
  next hb => rw [putOp_stw, hstw]
  next hb => rw [putOp_stw, raiseTarget_stw, hstw]

/-- R65: a decision given up is repeated no more; a commit's is noted in the walk that waits. -/
theorem dropDecision_does {m : AtomicMsg} {l : List Nat} {rest : List (AtomicMsg × List Nat)} {s : State}
    (h : s.stw.decisions = (m, l) :: rest) :
    dropDecision s = { s with stw.decisions := rest, stw.ops := (dropDecision s).stw.ops } ∧
      (m.kind ≠ 2 → (dropDecision s).stw.ops = s.stw.ops) := by
  have hdrop : dropDecision s = { s with stw.decisions := rest, stw.ops := if m.kind = 2 then s.stw.ops.map (undelivered m l s) else s.stw.ops } := by
    simp only [dropDecision, h]
  rw [hdrop]
  exact ⟨rfl, fun hk => if_neg hk⟩

/-! ### What a flip leaves of the settings and the Steward -/

/-- Of `s`, `t` keeps the settings but for the rows that are Enabled, and the Steward. -/
structure KeepsBanks (s t : State) : Prop where
  bank : t.bank = { s.bank with enabled := t.bank.enabled }
  sown : t.sown = s.sown
  stw : t.stw = s.stw

theorem KeepsBanks.refl (s : State) : KeepsBanks s s := ⟨rfl, rfl, rfl⟩

theorem KeepsBanks.trans {s t u : State} (h : KeepsBanks s t) (g : KeepsBanks t u) : KeepsBanks s u :=
  ⟨by rw [g.bank, h.bank], g.sown.trans h.sown, g.stw.trans h.stw⟩

theorem KeepsRows.keepsBanks {s t : State} (h : KeepsRows s t) : KeepsBanks s t := ⟨by rw [h.bank], h.sown, h.stw⟩

theorem foldl_keepsBanks {α : Type} {f : State → α → State} (hf : ∀ s a, KeepsBanks s (f s a)) (l : List α) (s : State) :
    KeepsBanks s (l.foldl f s) :=
  foldl_keeps (fun t => KeepsBanks s t) f (fun _ _ h => h.trans (hf _ _)) l s (.refl s)

theorem disableRow_keepsBanks (s : State) (r : Nat) : KeepsBanks s (disableRow r s) := by
  have h := disableRow_keepsRows r s
  exact ⟨by rw [h.bank], h.sown, h.stw⟩

theorem updateCredit_keepsBanks (p tc : Nat) (s : State) : KeepsBanks s (updateCredit p tc s) := by
  unfold updateCredit
  split
  · exact .refl s
  · exact ⟨rfl, rfl, rfl⟩

theorem flipShaper_keepsBanks (a b : Bank) (s : State) (k : Nat) : KeepsBanks s (flipShaper a b s k) :=
  iteInduction (motive := KeepsBanks s) (fun _ => .refl s) (fun _ => updateCredit_keepsBanks ..)

theorem flipPolicer_keepsBanks (a b : Bank) (s : State) (n : Nat) : KeepsBanks s (flipPolicer a b s n) :=
  iteInduction (motive := KeepsBanks s) (fun _ => .refl s) (fun _ => ⟨rfl, rfl, rfl⟩)

theorem flipTally_keepsBanks (a b : Bank) (s : State) (u : Nat) : KeepsBanks s (flipTally a b s u) := by
  unfold flipTally
  split
  · exact .refl s
  · dsimp only
    repeat' split
    all_goals exact ⟨rfl, rfl, rfl⟩

theorem flipHits_keepsBanks (a b : Bank) (s : State) : KeepsBanks s (flipHits a b s) := ⟨rfl, rfl, rfl⟩

theorem beforeFlip_keepsBanks (b : Bank) (s : State) : KeepsBanks s (beforeFlip b s) := by
  have hrows := foldl_keepsBanks disableRow_keepsBanks (flipStops s.bank b) s
  have hshapers := hrows.trans (foldl_keepsBanks (flipShaper_keepsBanks s.bank b) (bothKeys s.bank.shapers b.shapers) _)
  have hpolicers := hshapers.trans (foldl_keepsBanks (flipPolicer_keepsBanks s.bank b) (bothKeys s.bank.policers b.policers) _)
  have hcounts := hpolicers.trans (foldl_keepsBanks (f := clearCounts) (fun _ _ => ⟨rfl, rfl, rfl⟩) (marked 1 b) _)
  have htallies := hcounts.trans (foldl_keepsBanks (flipTally_keepsBanks s.bank b) (bothKeys s.bank.tallies b.tallies) _)
  exact htallies.trans (flipHits_keepsBanks ..)

theorem canRecover_keepsBanks (k : Nat) (s : State) : KeepsBanks s (canRecover k s) :=
  iteInduction (motive := KeepsBanks s) (fun _ => (canState_keepsRows ..).keepsBanks) (fun _ => .refl s)

theorem freshControllers_keepsBanks (a b : Bank) (s : State) : KeepsBanks s (freshControllers a b s) := by
  refine .trans (.trans (.trans (foldl_keepsBanks (fun s k => ?_) _ s) (foldl_keepsBanks (fun s k => ?_) _ _))
    (foldl_keepsBanks (fun s k => ?_) _ _)) (foldl_keepsBanks (fun s k => ?_) _ _)
  · exact iteInduction (motive := KeepsBanks s) (fun _ => ⟨rfl, rfl, rfl⟩) (fun _ => .refl s)
  · exact .trans (t := setCan k { canRt k s with forcedManual := false } s) ⟨rfl, rfl, rfl⟩ (canRecover_keepsBanks ..)
  · exact iteInduction (motive := KeepsBanks s) (fun _ => ⟨rfl, rfl, rfl⟩) (fun _ => .refl s)
  · exact iteInduction (motive := KeepsBanks s) (fun _ => ⟨rfl, rfl, rfl⟩) (fun _ => .refl s)

theorem enableRow_keepsBanks (s : State) (r : Nat) : KeepsBanks s (enableRow r s) := by
  have h := enableRow_keepsRows r s
  exact ⟨by rw [h.bank], h.sown, h.stw⟩

theorem flipFurrow_keepsBanks (a b : Bank) (s : State) (p : Nat) : KeepsBanks s (flipFurrow a b s p) := by
  unfold flipFurrow
  split
  · exact .refl s
  · dsimp only
    split <;> exact ⟨rfl, rfl, rfl⟩

theorem clearImmune_keepsBanks (s : State) : KeepsBanks s (clearImmune s) := ⟨rfl, rfl, rfl⟩

theorem drivePins_keepsBanks (s : State) : KeepsBanks s (drivePins s) := by
  simp only [drivePins]
  exact ⟨rfl, rfl, rfl⟩

theorem afterFlip_keepsBanks (a b : Bank) (s : State) : KeepsBanks s (afterFlip a b s) := by
  have hctl := freshControllers_keepsBanks a b s
  have hrows := hctl.trans (foldl_keepsBanks enableRow_keepsBanks
    (b.enabled.filter (fun r => !(freshControllers a b s).bank.enabled.contains r)) _)
  have hlists := hrows.trans (foldl_keepsBanks (flipFurrow_keepsBanks a b) (bothKeys a.furrows b.furrows) _)
  exact (hlists.trans (clearImmune_keepsBanks _)).trans (drivePins_keepsBanks _)

/-- `t` is `s` with the bank `b` in force after `a`: its settings but those that a flip takes over on their own, and no flip waits. -/
structure Flipped (a b : Bank) (s t : State) : Prop where
  bank : t.bank = { b with pins := flipPins a b, enabled := t.bank.enabled, lsets := flipLsets a.lsets b.lsets, acts := [] }
  sown : t.sown = {}
  stw : t.stw = { s.stw with flip := none }

theorem Flipped.trans {a b : Bank} {s t u : State} (h : Flipped a b s t) (g : KeepsBanks t u) : Flipped a b s u :=
  ⟨by rw [g.bank, h.bank], g.sown.trans h.sown, g.stw.trans h.stw⟩

/-- R63: the pointer changes, and the sown bank is empty again. -/
theorem flipTo_flipped (b : Bank) (s : State) : Flipped s.bank b s (flipTo b s) := by
  have hbefore := (beforeFlip_keepsBanks b s).stw
  unfold flipTo
  dsimp only
  generalize beforeFlip b s = u at hbefore ⊢
  exact Flipped.trans ⟨rfl, rfl, congrArg (fun w => { w with flip := none }) hbefore⟩ (afterFlip_keepsBanks ..)

/-! ### Listener sets in force after a flip -/

theorem mem_insertNat {k n : Nat} {l : List Nat} : k ∈ insertNat n l ↔ k = n ∨ k ∈ l := by
  induction l with
  | nil => simp [insertNat]
  | cons m l ih =>
    unfold insertNat
    split
    · simp
    · split
      next h => subst h; simp
      next => simp only [List.mem_cons, ih]; tauto

theorem mem_foldl_insertNat {k : Nat} (l acc : List Nat) : k ∈ l.foldl (fun l k => insertNat k l) acc ↔ k ∈ l ∨ k ∈ acc := by
  induction l generalizing acc with
  | nil => simp
  | cons n l ih => simp only [List.foldl_cons, ih, mem_insertNat, List.mem_cons]; tauto

theorem tget_map {α : Type} (f : Nat → α) (k : Nat) (l : List Nat) : tget k (l.map (fun n => (n, f n))) = if k ∈ l then some (f k) else none := by
  induction l with
  | nil => rfl
  | cons n l ih =>
    by_cases h : n = k
    · subst h; simp [tget]
    · simp [tget, h, ih, Ne.symm h]

theorem tget_of_not_mem {α : Type} {k : Nat} {t : Tbl α} (h : k ∉ tkeys t) : tget k t = none := by
  induction t with
  | nil => rfl
  | cons e t ih =>
    simp only [tkeys, List.map_cons, List.mem_cons, not_or] at h
    simp only [tget, Ne.symm h.1, if_false]
    exact ih h.2

theorem flipLset_cur (a b : Lset) : (flipLset a b).cur = b.cur := by
  unfold flipLset
  split
  next h => exact h
  next => rfl

/-- R132: every set's contents are those of the new bank. -/
theorem flipLsets_cur (a b : Tbl Lset) (r : Nat) : (tgetD r {} (flipLsets a b)).cur = (tgetD r {} b).cur := by
  unfold flipLsets
  by_cases h : r ∈ bothKeys a b
  · rw [tgetD, tget_map, if_pos h]; exact flipLset_cur ..
  · have hb : r ∉ tkeys b := fun hb => h ((mem_foldl_insertNat ..).2 (.inl (List.mem_append_right _ hb)))
    rw [tgetD, tget_map, if_neg h, tgetD, tget_of_not_mem hb]

/-! ### What a flip completes -/

/-- Of `s`, `t` keeps both banks and the flip that waits. -/
structure KeepsFlip (s t : State) : Prop where
  bank : t.bank = s.bank
  sown : t.sown = s.sown
  flip : t.stw.flip = s.stw.flip

theorem KeepsFlip.refl (s : State) : KeepsFlip s s := ⟨rfl, rfl, rfl⟩

theorem KeepsFlip.trans {s t u : State} (h : KeepsFlip s t) (g : KeepsFlip t u) : KeepsFlip s u :=
  ⟨g.bank.trans h.bank, g.sown.trans h.sown, g.flip.trans h.flip⟩

theorem OnlyPosts.keepsFlip {s t : State} (h : OnlyPosts s t) : KeepsFlip s t := ⟨h.bank, h.sown, by rw [h.stw]⟩

theorem raise_keepsFlip (n o : Nat) (s : State) : KeepsFlip s (raise n o s) :=
  ⟨raiseD_bank .., raiseD_sown .., congrArg (·.flip) (raiseD_stw ..)⟩

theorem writeBulk_keepsFlip (c : Call) (d : Bytes) (s : State) : KeepsFlip s (writeBulk c d s) := by
  unfold writeBulk
  split
  · exact .refl s
  · split
    · split
      · obtain ⟨w, hw⟩ := hostPut_frame c.hostAddr (d.take (areaLen c)) s
        rw [hw]
        exact ⟨rfl, rfl, rfl⟩
      · exact .refl s
    · exact ⟨rfl, rfl, rfl⟩

theorem writeResponse_keepsFlip (op : Nat) (c : Call) (f : Final) (s : State) : KeepsFlip s (writeResponse op c f s) := by
  refine (writeBulk_keepsFlip c f.bulk s).trans ?_
  unfold writeResponse
  generalize writeBulk c f.bulk s = u
  dsimp only
  split
  · exact ⟨rfl, rfl, rfl⟩
  · refine .trans ?_ (raise_keepsFlip ..)
    exact ⟨rfl, rfl, rfl⟩

theorem sendAnswer_posts (dest : Nat) (a : Answer) (s : State) : OnlyPosts s (sendAnswer dest a s) := sendSegments_posts ..

theorem answerForward_keepsFlip (op : Nat) (c : Call) (w : FwdFrom) (f : Final) (s : State) : KeepsFlip s (answerForward op c w f s) := by
  unfold answerForward
  dsimp only
  split
  · exact (sendAnswer_posts ..).keepsFlip
  · exact ⟨(sendAnswer_posts ..).bank, (sendAnswer_posts ..).sown, congrArg (·.flip) (sendAnswer_posts ..).stw⟩

theorem respond_keepsFlip (op : Nat) (c : Call) (w : Option FwdFrom) (f : Final) (s : State) : KeepsFlip s (respond op c w f s) := by
  unfold respond
  split
  · refine (writeResponse_keepsFlip op c f s).trans (.trans ?_ (answerForward_keepsFlip ..))
    exact ⟨rfl, rfl, rfl⟩
  · split
    · exact .refl s
    · split
      · exact writeBulk_keepsFlip ..
      · exact writeResponse_keepsFlip ..

theorem passSixteenths_keepsFlip (a b n : Nat) (s : State) : KeepsFlip s (passSixteenths a b n s) :=
  foldl_keeps (KeepsFlip s) _ (fun _ _ h => h.trans (raise_keepsFlip ..)) _ s (.refl s)

theorem finishOp_keepsFlip (o : Op) (f : Final) (s : State) : KeepsFlip s (finishOp o f s) := by
  have hsettled : KeepsFlip s { settled f s with stw.ops := s.stw.ops.filter (fun x => x != o) } := by
    unfold settled
    split <;> exact ⟨rfl, rfl, rfl⟩
  unfold finishOp
  dsimp only
  split
  · exact ⟨hsettled.bank, hsettled.sown, hsettled.flip⟩
  · refine .trans ?_ (raise_keepsFlip ..)
    split
    · exact hsettled.trans (passSixteenths_keepsFlip ..)
    · exact (hsettled.trans (passSixteenths_keepsFlip ..)).trans (respond_keepsFlip ..)

theorem putOp_keepsFlip (o o' : Op) (s : State) : KeepsFlip s (putOp o o' s) := ⟨rfl, rfl, rfl⟩

theorem endOp_keepsFlip (o : Op) (f : Final) (s : State) : KeepsFlip s (endOp o f s) :=
  iteInduction (motive := KeepsFlip s) (fun _ => finishOp_keepsFlip ..) (fun _ => putOp_keepsFlip ..)

theorem markRecord_keepsFlip (n : Nat) (f : Record → Record) (s : State) : KeepsFlip s (markRecord n f s) := ⟨rfl, rfl, rfl⟩

theorem lowerTarget_keepsFlip (s : State) : KeepsFlip s (lowerTarget s) := by
  unfold lowerTarget computeDemand
  rw [retarget_takeDemand]
  exact ⟨rfl, rfl, rfl⟩

theorem endAtomic_keepsFlip (o : Op) (w : Walk) (s : State) : KeepsFlip s (endAtomic o w s) := by
  unfold endAtomic
  split <;> exact endOp_keepsFlip ..

theorem closeAtomic_keepsFlip (o : Op) (w : Walk) (s : State) : KeepsFlip s (closeAtomic o w s) := by
  refine (lowerTarget_keepsFlip s).trans ?_
  unfold closeAtomic
  generalize lowerTarget s = u
  have hponr : KeepsFlip u (if w.members.isEmpty then passPonr o.opno u else u) :=
    iteInduction (motive := KeepsFlip u) (fun _ => markRecord_keepsFlip ..) (fun _ => .refl u)
  dsimp only
  generalize (if w.members.isEmpty then passPonr o.opno u else u) = v at hponr ⊢
  refine hponr.trans ?_
  split
  · exact endAtomic_keepsFlip ..
  · exact putOp_keepsFlip ..

theorem closeMember_keepsFlip (m : AtomicMsg) (s : State) : KeepsFlip s (closeMember m s) := by
  refine (lowerTarget_keepsFlip s).trans ?_
  unfold closeMember
  generalize lowerTarget s = u
  refine .trans ?_ (sendAtomic_posts ..).keepsFlip
  exact ⟨rfl, rfl, rfl⟩

theorem closeRetill_keepsFlip (t : Nat) (s : State) : KeepsFlip s (closeRetill t s) := by
  unfold closeRetill
  dsimp only
  split
  · exact ⟨rfl, rfl, rfl⟩
  · refine .trans ?_ (markRecord_keepsFlip ..)
    refine .trans ?_ (lowerTarget_keepsFlip _)
    exact ⟨rfl, rfl, rfl⟩

theorem countsAtFlip_keepsFlip (s : State) : KeepsFlip s (countsAtFlip s) := by
  unfold countsAtFlip
  split
  · exact iteInduction (motive := KeepsFlip s) (fun _ => putOp_keepsFlip ..) (fun _ => .refl s)
  · exact .refl s

/-- R63, R64: the flip, with what it completes, leaves the banks as the change of the pointer does. -/
theorem flipNow_keepsFlip (s : State) : KeepsFlip (flipTo (countsAtFlip s).sown (countsAtFlip s)) (flipNow s) := by
  unfold flipNow
  dsimp only
  generalize flipTo (countsAtFlip s).sown (countsAtFlip s) = u
  split
  · exact closeRetill_keepsFlip ..
  · split
    · exact closeMember_keepsFlip ..
    · split
      · exact closeAtomic_keepsFlip ..
      · exact .refl u

theorem flipNow_bank (s : State) : ∃ e, (flipNow s).bank = { s.sown with
    pins := flipPins s.bank s.sown, enabled := e, lsets := flipLsets s.bank.lsets s.sown.lsets, acts := [] } := by
  obtain ⟨hbank, hsown, -⟩ := countsAtFlip_keepsFlip s
  have hflip := (flipTo_flipped (countsAtFlip s).sown (countsAtFlip s)).bank
  rw [← (flipNow_keepsFlip s).bank, hbank, hsown] at hflip
  exact ⟨_, hflip⟩

theorem flipNow_sown (s : State) : (flipNow s).sown = {} := (flipNow_keepsFlip s).sown.trans (flipTo_flipped ..).sown

theorem flipNow_flip (s : State) : (flipNow s).stw.flip = none :=
  (flipNow_keepsFlip s).flip.trans (congrArg (·.flip) (flipTo_flipped ..).stw)

/-- A flip that completes no command leaves the Steward's other state as it is. -/
theorem flipNow_alone {s : State} (hc : s.stw.committing = false) (hs : s.stw.staged = none) (ho : flipOp s = none) :
    (flipNow s).stw = { s.stw with flip := none } := by
  have hcounts : countsAtFlip s = s := by simp only [countsAtFlip, ho]
  have hstw := (flipTo_flipped s.sown s).stw
  have ho' : flipOp (flipTo s.sown s) = none := by simpa only [flipOp, hstw] using ho
  have hc' : (flipTo s.sown s).stw.committing = false := by rw [hstw]; exact hc
  have hs' : (flipTo s.sown s).stw.staged = none := by rw [hstw]; exact hs
  have hnow : flipNow s = flipTo s.sown s := by simp only [flipNow, hcounts, hc', hs', ho', Bool.false_eq_true, if_false]
  rw [hnow, hstw]

/-! ### The settlement -/

/-- R66: a member discards what it has staged for another device. -/
theorem discardStaged_keeps (s : State) : (discardStaged s).sown = {} ∧ (discardStaged s).stw.staged = none ∧ (discardStaged s).stw.tc = none ∧
    (discardStaged s).stw.flip = none ∧ (discardStaged s).bank = s.bank ∧ (discardStaged s).stw.ops = s.stw.ops ∧
    (discardStaged s).field = s.field := ⟨rfl, rfl, rfl, rfl, rfl, rfl, rfl⟩

/-- R65: a member that holds the token staged. -/
theorem member_staged {m : AtomicMsg} {s : State} (hup : s.stw.up = true) (h : stagedHere m s = true) :
    (∃ t, exec (.atomicPrepare m) s = .next t ∧
      Sends m.sender 5 (atomicBody { m with kind := 4, tc := 0, status := 0 } s) (takeControl 5 s) t) ∧
    (∃ t, exec (.atomicCommit m) s = .next t ∧
      t = { takeControl 5 s with stw := { (takeControl 5 s).stw with staged := some m, tc := some m.tc, flip := some m.tc }
                                 power := { s.power with slots := t.power.slots, bandwidth := t.power.bandwidth, preq := t.power.preq } } ∧
      t.power.slots = max (demandOf s.bank s).1 (demandOf s.sown s).1 ∧
      t.power.bandwidth = max (demandOf s.bank s).2 (demandOf s.sown s).2 ∧ t.power.preq = requiredPace t) ∧
    (∃ t, exec (.atomicAbort m) s = .next t ∧ t.sown = {} ∧ t.stw.staged = none ∧ t.stw.tc = none ∧ t.stw.flip = none ∧
      t.bank = s.bank ∧ t.stw.ops = s.stw.ops) := by
  refine ⟨⟨_, prepare_sends hup, ?_⟩, ⟨_, commit_staged hup h, ?_⟩, ⟨_, abort_sends hup, ?_⟩⟩
  · rw [if_pos h]; exact sendAtomic_sends _ _ (takeControl_field ..)
  · obtain ⟨i, g, hu⟩ := takeControl_eq 5 s
    rw [hu]
    exact raiseTarget_does { s with stw.inbox := i, gran := g, stw.staged := some m, stw.tc := some m.tc, stw.flip := some m.tc }
  · rw [if_pos h]
    have hp := sendAtomic_posts m.sender { m with kind := 7, tc := 0, status := 0 } (discardStaged (takeControl 5 s))
    obtain ⟨hsown, hstaged, htc, hflip, hbank, hops, -⟩ := discardStaged_keeps (takeControl 5 s)
    rw [hp.sown, hp.stw, hp.bank]
    exact ⟨hsown, hstaged, htc, hflip, hbank.trans (takeControl_bank ..), hops.trans (takeControl_ops ..)⟩

theorem member_notStaged {m : AtomicMsg} {s : State} (hup : s.stw.up = true) (h : stagedHere m s = false) :
    (∃ t, exec (.atomicPrepare m) s = .next t ∧
      Sends m.sender 5 (atomicBody { m with kind := 5, tc := 0, status := Status.abandoned.code } s) (takeControl 5 s) t) ∧
    (∃ t, exec (.atomicAbort m) s = .next t ∧
      Sends m.sender 5 (atomicBody { m with kind := 7, tc := 0, status := 0 } s) (takeControl 5 s) t) ∧
    (s.stw.committed.any (sameToken m) = false → exec (.atomicCommit m) s = .next (takeControl 5 s)) ∧
    (s.stw.committed.any (sameToken m) = true → ∃ t, exec (.atomicCommit m) s = .next t ∧
      Sends m.sender 5 (atomicBody { m with kind := 6, tc := 0, status := 0 } s) (takeControl 5 s) t) := by
  have hne : ¬ stagedHere m s = true := by simp [h]
  refine ⟨⟨_, prepare_sends hup, ?_⟩, ⟨_, abort_sends hup, ?_⟩, fun hc => ?_, fun hc => ⟨_, commit_notStaged hup h, ?_⟩⟩
  · rw [if_neg hne]; exact sendAtomic_sends _ _ (takeControl_field ..)
  · rw [if_neg hne]; exact sendAtomic_sends _ _ (takeControl_field ..)
  · rw [commit_notStaged hup h, if_neg (by simp [hc])]
  · rw [if_pos hc]; exact sendAtomic_sends _ _ (takeControl_field ..)

/-- R64, R67: the last Ready decides, unless the command has been cancelled. -/
theorem holder_ready {m : AtomicMsg} {o : Op} {w w1 : Walk} {s : State} (hup : s.stw.up = true)
    (h1 : w1 = { w with ready := insertNat m.sender w.ready }) (h : readyOp m s = some (o, w)) (hk : m.kind = 4) :
    (w.members.all w1.ready.contains = false ∨ o.cancel = true →
      exec (.atomicReady m) s = .next (putOp o { o with body := .atomicReady w1 } (takeControl 5 s))) ∧
    (w.members.all w1.ready.contains = true → o.cancel = false →
      ∃ t, exec (.atomicReady m) s = .next t ∧
        t.stw.flip = (if w.busy then s.stw.flip else some (nowNs s + commitLead s)) ∧
        t.stw.ops = s.stw.ops.map (fun y => if y = o then { o with body := if w.busy then .atomicDone w1 else .atomicFlip w1 } else y) ∧
        t.stw.decisions = s.stw.decisions ++ (if w.members = [] then []
          else [({ tokenMsg 2 o.call o.from_ s with tc := stampOf (nowNs s + commitLead s) }, w.members)])) := by
  refine ⟨fun hwait => ?_, fun hall hcancel => ⟨decideCommit o w1 (takeControl 5 s), ?_, ?_⟩⟩
  · rw [ready_yes hup h h1 hk, if_neg]
    rcases hwait with hw | hc
    · rw [hw]; exact Bool.false_ne_true
    · rw [hc, Bool.not_true, Bool.and_false]; exact Bool.false_ne_true
  · rw [ready_yes hup h h1 hk, if_pos (by rw [hall, hcancel]; rfl)]
  · obtain ⟨g, f, hstw⟩ := decideCommit_eq o w1 (takeControl 5 s)
    have hbusy : w1.busy = w.busy := by rw [h1]
    have hmembers : w1.members = w.members := by rw [h1]
    rw [hstw]
    simp only [hbusy, hmembers, takeControl_flip, takeControl_nowNs, takeControl_commitLead, takeControl_ops, takeControl_decisions,
      takeControl_tokenMsg, and_self]

/-- R65: a decision not acknowledged goes to its member again. -/
theorem commitRepeat_does (m : AtomicMsg) (n : Nat) {s : State} (hup : s.stw.up = true) :
    ∃ t, exec (.commitRepeat n) s = .next t ∧
      t = { s with drill := { s.drill with ports := t.drill.ports }, field := { s.field with txSeq := t.field.txSeq } } ∧
      (s.stw.decisions = [(m, [n])] → Sends n 5 (atomicBody m s) s t) := by
  refine ⟨_, commitRepeat_sends hup n, (foldl_posts (fun _ _ => sendAtomic_posts ..) _ _).eq, fun h => ?_⟩
  have hone : s.stw.decisions.filter (fun d => d.2.contains n) = [(m, [n])] := by simp [h]
  rw [hone]
  exact sendAtomic_sends n m rfl

/-- R63, R153, R365: a flip that is due. -/
theorem flipInstant_due {s : State} (h : flipDue s = true) :
    ∃ t, exec .flipInstant s = .next t ∧ t.sown = {} ∧ t.stw.flip = none ∧ t.bank.bind = s.sown.bind ∧
      t.bank.routes = s.sown.routes ∧ t.bank.rules = s.sown.rules ∧ t.bank.teams = s.sown.teams ∧ t.bank.can = s.sown.can ∧
      (∀ r, (tgetD r {} t.bank.lsets).cur = (tgetD r {} s.sown.lsets).cur) ∧
      (s.stw.committing = false → s.stw.staged = none → flipOp s = none → t.stw = { s.stw with flip := none }) := by
  have hexec : exec .flipInstant s = .next (flipNow s) := by
    show execFlipInstant s = _
    rw [execFlipInstant, if_pos h]
  obtain ⟨e, hbank⟩ := flipNow_bank s
  refine ⟨_, hexec, flipNow_sown s, flipNow_flip s, ?_, ?_, ?_, ?_, ?_, fun r => ?_, flipNow_alone⟩
  all_goals rw [hbank]
  exact flipLsets_cur ..

/-- Settles O49: the member's part by the token it holds, the holder's by the operation that waits, the flip by what `flipTo` and the
ends it brings leave of both banks. -/
theorem atomicCommandsAcrossTheField : Obligations.AtomicCommandsAcrossTheField := by
  intro m o w w1 k n s u hup hu h1
  subst hu
  refine ⟨member_staged hup, member_notStaged hup, fun h => ?_, fun h hk => holder_ready hup h1 h hk, fun h hk hb => ready_no hup h hk hb,
    fun h => ?_, fun h => ?_, commitRepeat_does m n hup, fun h ht => ⟨_, holdExpiry_staged hup h ht, ?_⟩,
    fun h hw hb => holdExpiry_silent hup h hw hb, fun h hw hd => ?_, fun l rest h hw hd => ⟨_, holdExpiry_decision hup h hw, dropDecision_does hd⟩,
    fun h => ?_, flipInstant_due⟩
  · rw [ready_stale hup h, staleAnswer, takeControl_staleCount]
  · rw [commitDone_does hup, if_pos h]
  · rw [commitDone_does hup, if_neg (by simp [h]), staleAnswer, takeControl_staleCount]
  · obtain ⟨hsown, hstaged, -, hflip, hbank, -⟩ := discardStaged_keeps s
    exact ⟨hsown, hstaged, hflip, hbank⟩
  · rw [holdExpiry_decision hup h hw, dropDecision, hd]
  · show execFlipInstant s = _
    rw [execFlipInstant, if_neg (by simp [h])]

end Sys2Proof.Machine
end

section
/-! PROOF. Hails and the membership of a Field (R69 to R74, R219, R385, R386). -/

namespace Sys2Proof.Machine

/-- A device whose roster lists device 1, with a read of SEM_TAKE 0 by that member held in the Stile. -/
def heldTakePart : State :=
  { power := { state := .growing }, field := { join := 2, roster := [(1, { serial := 7 })] }, stile := { held := [(.member 1, 0)] } }

/-- The member falls silent: the semaphores it owns are freed first, and the Stile then serves what it holds. -/
theorem heldTake_served {t : State} (h : exec (.memberUnreachable 1) heldTakePart = .next t) : tget 0 t.stile.sems = some (.member 1) := by
  have hs : ∃ u, exec (.memberUnreachable 1) heldTakePart = .next u ∧ tget 0 u.stile.sems = some (.member 1) := ⟨_, rfl, by decide +kernel⟩
  obtain ⟨u, hu, hsem⟩ := hs
  rw [hu] at h
  cases h
  exact hsem

/-- Refutes O50: its clause for a member that falls silent has no premise that the Stile holds no request of that member. In
`heldTakePart` the held read of SEM_TAKE 0 is served once the member's semaphores are freed, and the silent member owns semaphore 0. -/
theorem not_fieldMembership : ¬ Obligations.FieldMembership := by
  intro h
  obtain ⟨-, -, -, -, -, -, -, -, hsilent, -⟩ :=
    h { port := 0, addr := 0, fieldId := 0, src := 0, serial := 0, join := 0, roster := 0, synced := false } 1 { serial := 7 } _ heldTakePart _ _ rfl rfl rfl
  obtain ⟨t, ht, -, -, hfree⟩ := hsilent (by decide)
  exact hfree 0 (heldTake_served ht)

end Sys2Proof.Machine
end

section
/-! PROOF. What a change to the field-bus controllers leaves of the rest of the state, and what a sentence received whole does (R39, R76 to
R79, R82, R91). -/

namespace Sys2Proof.Machine

/-! ### Controllers, events and emissions alone -/

/-- `t` is `s` but for the field-bus controllers, the events, what the part emits and the free values used up. -/
def OnlyBuses (s t : State) : Prop :=
  ∃ can uart lin mvb ev wire pme free, t = { s with
    buses.can := can, buses.uart := uart, buses.lin := lin, buses.mvb := mvb, ev, wire, hold.pme := pme, free }

section
variable {s t u : State}

theorem OnlyBuses.refl (s : State) : OnlyBuses s s := ⟨_, _, _, _, _, _, _, _, rfl⟩

theorem OnlyBuses.trans (h : OnlyBuses s t) (g : OnlyBuses t u) : OnlyBuses s u := by
  obtain ⟨_, _, _, _, _, _, _, _, rfl⟩ := h
  obtain ⟨_, _, _, _, _, _, _, _, rfl⟩ := g
  exact ⟨_, _, _, _, _, _, _, _, rfl⟩

theorem OnlyBuses.bank (h : OnlyBuses s t) : t.bank = s.bank := by obtain ⟨_, _, _, _, _, _, _, _, rfl⟩ := h; rfl
theorem OnlyBuses.ploughs (h : OnlyBuses s t) : t.ploughs = s.ploughs := by obtain ⟨_, _, _, _, _, _, _, _, rfl⟩ := h; rfl
theorem OnlyBuses.drill (h : OnlyBuses s t) : t.drill = s.drill := by obtain ⟨_, _, _, _, _, _, _, _, rfl⟩ := h; rfl
theorem OnlyBuses.power (h : OnlyBuses s t) : t.power = s.power := by obtain ⟨_, _, _, _, _, _, _, _, rfl⟩ := h; rfl

theorem OnlyBuses.spansDisable (h : OnlyBuses s t) (r edge : Nat) : spansDisable r edge t = spansDisable r edge s := by
  obtain ⟨_, _, _, _, _, _, _, _, rfl⟩ := h
  rfl

end

section
variable (k n o : Nat) (s : State)

theorem setCan_onlyBuses (v : CanRt) : OnlyBuses s (setCan k v s) := ⟨_, _, _, _, _, _, _, _, rfl⟩
theorem setUart_onlyBuses (v : UartRt) : OnlyBuses s (setUart k v s) := ⟨_, _, _, _, _, _, _, _, rfl⟩
theorem setLin_onlyBuses (v : LinRt) : OnlyBuses s (setLin k v s) := ⟨_, _, _, _, _, _, _, _, rfl⟩
theorem setMvb_onlyBuses (v : MvbRt) : OnlyBuses s (setMvb k v s) := ⟨_, _, _, _, _, _, _, _, rfl⟩
theorem picked_onlyBuses : OnlyBuses s (picked s) := ⟨_, _, _, _, _, _, _, _, rfl⟩

theorem raise_onlyBuses : OnlyBuses s (raise n o s) := by
  rw [raise_frame]
  exact ⟨_, _, _, _, _, _, _, _, rfl⟩

theorem busError_onlyBuses (kind : Nat) : OnlyBuses s (busError kind k s) := by
  unfold busError
  split
  · split
    · exact (setCan_onlyBuses ..).trans (raise_onlyBuses ..)
    · exact .refl s
  · split
    · exact (setUart_onlyBuses ..).trans (raise_onlyBuses ..)
    · exact .refl s
  · split
    · exact (setLin_onlyBuses ..).trans (raise_onlyBuses ..)
    · exact .refl s

@[simp] theorem raise_buses : (raise n o s).buses = s.buses := by rw [raise_frame]

end

/-! ### Reading a table entry after it was written -/

section
variable (k : Nat) (s : State)

@[simp] theorem uartRt_setUart_same (v : UartRt) : uartRt k (setUart k v s) = v := tgetD_tset_same ..
@[simp] theorem linRt_setLin_same (v : LinRt) : linRt k (setLin k v s) = v := tgetD_tset_same ..
@[simp] theorem mvbRt_setMvb_same (v : MvbRt) : mvbRt k (setMvb k v s) = v := tgetD_tset_same ..
@[simp] theorem rowRt_setRowRt_same (v : RowRt) : rowRt k (setRowRt k v s) = v := tgetD_tset_same ..
@[simp] theorem ploughOf_setPlough_same (p : PloughId) (v : Plough) : ploughOf p (setPlough p v s) = v := tgetD_tset_same ..

theorem setCan_setCan (v w : CanRt) : setCan k v (setCan k w s) = setCan k v s := by simp only [setCan, tset_tset]
theorem setLin_setLin (v w : LinRt) : setLin k v (setLin k w s) = setLin k v s := by simp only [setLin, tset_tset]

/-- A count on a row adds to its counter and leaves the rest of its statistics. -/
theorem rowRt_countRow (i n : Nat) : rowRt k (countRow k i n s) = { rowRt k s with counters := addCtr i n (rowRt k s).counters } :=
  rowRt_setRowRt_same ..

/-- A count on a row leaves the instant at which a row was last disabled. -/
theorem spansDisable_countRow (r i n edge : Nat) : spansDisable r edge (countRow k i n s) = spansDisable r edge s := by
  have h : (rowRt r (countRow k i n s)).disabledAt = (rowRt r s).disabledAt := by
    by_cases hr : r = k
    · subst hr; rw [rowRt_countRow]
    · exact congrArg RowRt.disabledAt (tgetD_tset_other hr ..)
  simp only [spansDisable, h]
  rfl

end

/-! ### Sentences received whole -/

section
variable {p : PloughId} {r kind key edge : Nat} {d : Bytes} {f : Grain → Grain} {s : State}

theorem dropDisabled_same (kind k stamp : Nat) (s : State) : SameButCopies s (dropDisabled kind k stamp s) := by
  unfold dropDisabled
  split
  · exact countRow_same ..
  · exact .rfl' s

theorem dropDisabled_ploughs (kind k stamp : Nat) (s : State) : (dropDisabled kind k stamp s).ploughs = s.ploughs := by
  obtain ⟨_, _, _, _, _, h⟩ := dropDisabled_same kind k stamp s
  rw [h]

theorem finishRec_done (p : PloughId) (x : Rec) (s : State) : (ploughOf p (finishRec p x s)).done = (ploughOf p s).done ++ [x] := by
  simp [finishRec]

theorem receiveWhole_keepsQueues : KeepsQueues s (receiveWhole p r kind key edge d f s) := by
  unfold receiveWhole
  dsimp only
  split
  · exact .refl s
  split
  · exact (countRow_same ..).keepsQueues
  split
  · exact (countRow_same ..).keepsQueues.trans (raiseD_keepsQueues ..)
  · exact ⟨rfl, rfl, rfl, rfl, rfl, rfl⟩

theorem receiveVoid_keepsQueues : KeepsQueues s (receiveVoid p r kind key edge s) := by
  unfold receiveVoid
  dsimp only
  split
  · exact .refl s
  split
  · exact (countRow_same ..).keepsQueues
  · exact ⟨rfl, rfl, rfl, rfl, rfl, rfl⟩

/-- R76, R78, R82: with room in the input buffer a sentence received whole is a completed record of its row. -/
theorem receiveWhole_takes (hp : s.power.halted = false) (hd : spansDisable r edge s = false) (hb : bufferFill p s + d.length ≤ bufferSize p) :
    ∃ x, (ploughOf p (receiveWhole p r kind key edge d id s)).done = (ploughOf p s).done ++ [x] ∧ x.row = r ∧ x.bytes = d ∧
      x.stamp = compensated r edge s ∧ x.grain.map (·.key) = some key := by
  have hroom : ¬ bufferSize p < bufferFill p s + d.length := by omega
  simp only [receiveWhole, hp, hd, hroom, Bool.false_eq_true, if_false]
  exact ⟨_, finishRec_done .., rfl, rfl, rfl, rfl⟩

/-- R91: a void grain is a record without bytes. -/
theorem receiveVoid_takes (hp : s.power.halted = false) (hd : spansDisable r edge s = false) :
    ∃ x, (ploughOf p (receiveVoid p r kind key edge s)).done = (ploughOf p s).done ++ [x] ∧ x.row = r ∧ x.bytes = [] ∧
      x.grain.map (·.void) = some true := by
  simp only [receiveVoid, hp, hd, Bool.false_eq_true, if_false]
  exact ⟨_, finishRec_done .., rfl, rfl, rfl⟩

end

end Sys2Proof.Machine
end

section
/-! PROOF. CAN controllers: reception, transmission, the error counters and bus-off recovery (R94, R248 to R259, R601). -/

namespace Sys2Proof.Machine

/-! ### Error counters and states -/

section
variable (k i : Nat) (s : State)

theorem canState_onlyBuses (st : Nat) : OnlyBuses s (canState k st s) := by
  unfold canState
  dsimp only
  split
  · exact .refl s
  · exact (setCan_onlyBuses ..).trans (raise_onlyBuses ..)

/-- R252: a change of the state raises event 23. -/
theorem canState_changes {st : Nat} (h : (canRt k s).state ≠ st) :
    canState k st s = raise 23 (ctlObj 0 k) (setCan k { canRt k s with state := st } s) := if_neg h

theorem canSettle_onlyBuses : OnlyBuses s (canSettle k s) := canState_onlyBuses ..

theorem canRt_canSettle : canRt k (canSettle k s) = { canRt k s with state := canErrorState (canRt k s).tec (canRt k s).rxErr } :=
  canRt_canState ..

@[simp] theorem canRt_countCan : canRt k (countCan k i s) = { canRt k s with counters := addCtr i 1 (canRt k s).counters } :=
  canRt_setCan ..

theorem countCan_onlyBuses : OnlyBuses s (countCan k i s) := setCan_onlyBuses ..

/-- R601: the first error after a clearing uses up the arming of event 22. -/
@[simp] theorem canRt_busError : canRt k (busError 0 k s) = { canRt k s with armed := false } := by
  have hb : busError 0 k s = if (canRt k s).armed then raise 22 (ctlObj 0 k) (setCan k { canRt k s with armed := false } s) else s := rfl
  rw [hb]
  split
  · rw [canRt, raise_buses]
    exact canRt_setCan ..
  next h => rw [← Bool.eq_false_of_not_eq_true h]

theorem busError_pending (h : (canRt k s).armed = true) : (busError 0 k s).ev.pending.getLsbD 22 = true := by
  simp only [busError, h, if_true]
  exact raise_pending _ _ (by decide) (by decide)

theorem recOk_onlyBuses : OnlyBuses s (recOk k s) := by
  unfold recOk
  dsimp only
  refine OnlyBuses.trans ?_ (canSettle_onlyBuses ..)
  split
  · exact .refl s
  split
  · exact setCan_onlyBuses ..
  · exact (picked_onlyBuses s).trans (setCan_onlyBuses ..)

theorem recError_onlyBuses : OnlyBuses s (recError k s) := by
  unfold recError
  dsimp only
  refine OnlyBuses.trans ?_ (canSettle_onlyBuses ..)
  split
  · exact .refl s
  · exact (picked_onlyBuses s).trans (setCan_onlyBuses ..)

/-- ISO 11898-1, log 28: an error-free frame lowers the receive error counter by one, or from above 127 to a value of 119 to 127. -/
theorem canRt_recOk : ∃ n st, canRt k (recOk k s) = { canRt k s with rxErr := n, state := st } ∧
    (if (canRt k s).rxErr ≤ 127 then n = (canRt k s).rxErr - 1 else 119 ≤ n ∧ n ≤ 127) := by
  simp only [recOk, canRt_canSettle]
  by_cases h0 : (canRt k s).rxErr = 0
  · exact ⟨_, _, by rw [if_pos h0], by simp [h0]⟩
  by_cases h1 : (canRt k s).rxErr ≤ 127
  · simp only [if_neg h0, if_pos h1, canRt_setCan]
    exact ⟨_, _, rfl, rfl⟩
  · simp only [if_neg h0, if_neg h1, canRt_setCan]
    exact ⟨_, _, rfl, by omega⟩

/-- ISO 11898-1, log 28: an error raises the receive error counter by 1 or by 8 while it is not above 127; the state follows. -/
theorem canRt_recError : ∃ n, canRt k (recError k s) = { canRt k s with rxErr := n, state := canErrorState (canRt k s).tec n } ∧
    (if 127 < (canRt k s).rxErr then n = (canRt k s).rxErr else n = (canRt k s).rxErr + 1 ∨ n = (canRt k s).rxErr + 8) := by
  simp only [recError, canRt_canSettle]
  by_cases h : 127 < (canRt k s).rxErr
  · exact ⟨_, by rw [if_pos h], by rw [if_pos h]⟩
  · simp only [if_neg h, canRt_setCan]
    exact ⟨_, rfl, by split <;> simp⟩

theorem tecError_onlyBuses (e : CanError) : OnlyBuses s (tecError k e s) := by
  unfold tecError
  dsimp only
  split
  · exact .refl s
  · exact setCan_onlyBuses ..

/-- R252: a transmit error counts 8, but for a missing acknowledge when error passive. -/
theorem canRt_tecError {e : CanError} {s : State} (h : ¬ (e = .ack ∧ (canRt k s).state = 2)) :
    canRt k (tecError k e s) = { canRt k s with tec := (canRt k s).tec + 8 } := by
  simp only [tecError, if_neg h, canRt_setCan]

theorem tec_tecError_le (e : CanError) : (canRt k (tecError k e s)).tec ≤ (canRt k s).tec + 8 := by
  by_cases h : e = .ack ∧ (canRt k s).state = 2
  · simp only [tecError, if_pos h]; omega
  · rw [canRt_tecError k h]

end

/-! ### Receiving -/

section
variable {k r : Nat} {f : CanFrame} {e : CanError} {s : State}

theorem canSentence_keepsQueues : KeepsQueues s (canSentence k f s) := by
  unfold canSentence
  dsimp only
  split
  · exact (dropDisabled_same ..).keepsQueues
  · split
    · exact (countRow_same ..).keepsQueues
    · exact receiveWhole_keepsQueues

theorem canSentence_noTalker (h : ctlRow 0 k true s = none) : (canSentence k f s).ploughs = s.ploughs := by
  simp only [canSentence, h]
  exact dropDisabled_ploughs ..

/-- Frames of no format carry a remote request and the XL format at once. -/
theorem canNorm_plain {b : Bool} (h : f.rtr = false ∨ f.fdf = true ∨ f.xlf = true ∨ b = true) :
    ((canNorm f).rtr && !(canNorm f).fdf && !(canNorm f).xlf && !b) = false := by
  unfold canNorm
  split
  · rfl
  next hx =>
    rcases h with h | h | h | h
    · simp [h]
    · simp [h]
    · exact absurd h hx
    · simp [h]

theorem canNorm_stamp (f : CanFrame) : (canNorm f).stamp = f.stamp := by
  unfold canNorm
  split <;> rfl

/-- R94, R255: an error-free frame that the talker row takes is a completed record with its header and data. -/
theorem canSentence_takes (hr : ctlRow 0 k true s = some r)
    (hf : f.rtr = false ∨ f.fdf = true ∨ f.xlf = true ∨ flag (bindOf r s) 12 3 = true)
    (hp : s.power.halted = false) (hd : spansDisable r f.stamp s = false) (hb : bufferFill (.can k) s + (canRecord (canNorm f)).length ≤ 4096) :
    ∃ x, (ploughOf (.can k) (canSentence k f s)).done = (ploughOf (.can k) s).done ++ [x] ∧ x.row = r ∧ x.bytes = canRecord (canNorm f) ∧
      x.stamp = compensated r f.stamp s ∧ x.grain.map (·.key) = some (canKey (canNorm f)) := by
  simp only [canSentence, hr, canNorm_plain hf, canNorm_stamp, Bool.false_eq_true, if_false]
  exact receiveWhole_takes hp hd hb

theorem canFrameAccepted_does (ho : canOn k s = true) (ht : canTakes k f s = true) (hl : loopMode 1 k s ≠ 1) :
    exec (.canFrameAccepted k f) s = .next (canSentence k f (recOk k (countCan k 0 s))) := by
  show execCanFrameAccepted k f s = _
  simp [execCanFrameAccepted, ho, ht, hl]

theorem canFrameAccepted_counts (ho : canOn k s = true) (ht : canTakes k f s = true) (hl : loopMode 1 k s ≠ 1) :
    ∃ t, exec (.canFrameAccepted k f) s = .next t ∧ (canRt k t).tec = (canRt k s).tec ∧
      (canRt k t).counters = addCtr 0 1 (canRt k s).counters ∧ t.bank = s.bank ∧
      (if (canRt k s).rxErr ≤ 127 then (canRt k t).rxErr = (canRt k s).rxErr - 1
       else 119 ≤ (canRt k t).rxErr ∧ (canRt k t).rxErr ≤ 127) ∧
      (ctlRow 0 k true s = none → t.ploughs = s.ploughs) ∧
      (ctlRow 0 k true s = some r → (f.rtr = false ∨ f.fdf = true ∨ f.xlf = true ∨ flag (bindOf r s) 12 3 = true) →
        s.power.halted = false → spansDisable r f.stamp s = false →
        bufferFill (.can k) s + (canRecord (canNorm f)).length ≤ 4096 →
        ∃ x, (ploughOf (.can k) t).done = (ploughOf (.can k) s).done ++ [x] ∧ x.row = r ∧ x.bytes = canRecord (canNorm f) ∧
          x.stamp = compensated r f.stamp s ∧ x.grain.map (·.key) = some (canKey (canNorm f))) := by
  refine ⟨_, canFrameAccepted_does ho ht hl, ?_⟩
  have hu : OnlyBuses s (recOk k (countCan k 0 s)) := (countCan_onlyBuses ..).trans (recOk_onlyBuses ..)
  obtain ⟨n, st, hrt, hn⟩ := canRt_recOk k (countCan k 0 s)
  generalize recOk k (countCan k 0 s) = u at hu hrt ⊢
  have hq : KeepsQueues u (canSentence k f u) := canSentence_keepsQueues
  have hc : canRt k (canSentence k f u) = canRt k u := by simp only [canRt, hq.buses]
  rw [canRt_countCan] at hrt hn
  rw [hc, hrt]
  refine ⟨rfl, rfl, hq.bank.trans hu.bank, hn, ?_⟩
  have hnone := canSentence_noTalker (k := k) (f := f) (s := u)
  have hsome := canSentence_takes (k := k) (r := r) (f := f) (s := u)
  obtain ⟨_, _, _, _, _, _, _, _, rfl⟩ := hu
  exact ⟨hnone, hsome⟩

theorem canFrameError_counts (ho : canOn k s = true) :
    ∃ t, exec (.canFrameError k e) s = .next t ∧
      (if 127 < (canRt k s).rxErr then (canRt k t).rxErr = (canRt k s).rxErr
       else (canRt k t).rxErr = (canRt k s).rxErr + 1 ∨ (canRt k t).rxErr = (canRt k s).rxErr + 8) ∧
      (canRt k t).tec = (canRt k s).tec ∧ (canRt k t).counters = addCtr (canErrIndex e) 1 (canRt k s).counters ∧
      (canRt k t).state = canErrorState (canRt k s).tec (canRt k t).rxErr ∧ t.ploughs = s.ploughs ∧
      (canRt k t).armed = false ∧ ((canRt k s).armed = true → t.ev.pending.getLsbD 22 = true) := by
  have hexec : exec (.canFrameError k e) s = .next (busError 0 k (recError k (countCan k (canErrIndex e) s))) := by
    show execCanFrameError k e s = _
    simp [execCanFrameError, ho]
  have hu : OnlyBuses s (recError k (countCan k (canErrIndex e) s)) := (countCan_onlyBuses ..).trans (recError_onlyBuses ..)
  obtain ⟨n, hrt, hn⟩ := canRt_recError k (countCan k (canErrIndex e) s)
  refine ⟨_, hexec, ?_⟩
  generalize recError k (countCan k (canErrIndex e) s) = u at hu hrt ⊢
  simp only [canRt_countCan] at hn hrt
  rw [canRt_busError, hrt]
  exact ⟨hn, rfl, rfl, rfl, (hu.trans (busError_onlyBuses ..)).ploughs, rfl, fun h => busError_pending k u (by rw [hrt]; exact h)⟩

theorem protocolException_counts (ho : canOn k s = true) (hm : canMode k s.bank ≠ 2) :
    exec (.protocolException k) s = .next (countCan k 7 s) := by
  show execProtocolException k s = _
  simp [execProtocolException, ho, hm]

theorem integration_done (h : (canRt k s).state ≠ 5) :
    exec (.integration k) s = .next (setCan k { canRt k s with integrated := true } s) := by
  show execIntegration k s = _
  rw [execIntegration, if_neg h]

end

/-! ### Transmitting -/

section
variable {k r : Nat} {c : Copy} {e : CanError} {s u : State}

/-- A copy found in a controller's buffer names the controller. -/
theorem ctl_of_canWireRow (h : canWireRow k s = some (r, c)) : c.ctl = some (0, k) := by
  simpa using List.find?_some h

theorem OnlyBuses.canWireRow (h : OnlyBuses s u) (k : Nat) : canWireRow k u = canWireRow k s := by
  simp only [Machine.canWireRow, ctlWire, h.drill]

theorem stopCtl_drill (k : Nat) (s : State) : (stopCtl 0 k s).drill = s.drill :=
  ((setCan_onlyBuses ..).trans (canState_onlyBuses ..)).drill

theorem afterFrame_drill (k : Nat) (s : State) : (afterFrame k s).drill = s.drill :=
  iteInduction (motive := fun t : State => t.drill = s.drill) (fun _ => rfl) (fun _ => stopCtl_drill k s)

/-- R259: a controller with an Enabled row goes on. -/
theorem afterFrame_enabled (h : ctlEnabled s.bank 0 k = true) : afterFrame k s = s := by
  simp [afterFrame, settleCtl, h]

theorem keepOrDrop_keeps {b : Bool} (h : s.bank.enabled.contains r = true) :
    keepOrDrop k r c b s = setCan k { canRt k s with onBus := b, retry := b } (putWire r c s) := if_pos h

/-- R258, R259: the copy of a row that was disabled is gone. -/
theorem keepOrDrop_drops {b : Bool} (h : s.bank.enabled.contains r = false) : tget r (keepOrDrop k r c b s).drill.rowWire = none := by
  have hq := (discardCopy_same 22 c (unwire r (setCan k { canRt k s with onBus := false, retry := false } s))).keepsQueues
  rw [keepOrDrop, if_neg (by rw [h]; exact Bool.false_ne_true), hq.rowWire]
  exact tget_tdel_same ..

theorem arbitrationLost_does (hw : canWireRow k s = some (r, c)) :
    exec (.arbitrationLost k) s = .next (afterFrame k (keepOrDrop k r c false (countCan k 8 s))) := by
  show execArbitrationLost k s = _
  simp only [execArbitrationLost, hw]

/-- R257: a copy of an Enabled row that loses arbitration stays in the buffer, not started. -/
theorem arbitrationLost_enabled (hw : canWireRow k s = some (r, c)) (he : s.bank.enabled.contains r = true) :
    exec (.arbitrationLost k) s = .next (afterFrame k (setCan k
      { canRt k s with onBus := false, retry := false, counters := addCtr 8 1 (canRt k s).counters } (putWire r c s))) := by
  have hswap : putWire r c (countCan k 8 s) = countCan k 8 (putWire r c s) := rfl
  rw [arbitrationLost_does hw, keepOrDrop_keeps (s := countCan k 8 s) he, canRt_countCan, hswap, countCan, setCan_setCan]

theorem arbitrationLost_disabled (hw : canWireRow k s = some (r, c)) (he : s.bank.enabled.contains r = false) :
    ∃ t, exec (.arbitrationLost k) s = .next t ∧ tget r t.drill.rowWire = none :=
  ⟨_, arbitrationLost_does hw, by rw [afterFrame_drill]; exact keepOrDrop_drops (s := countCan k 8 s) he⟩

/-- What a transmit error does before the copy's fate is decided. -/
def transmitError (k : Nat) (e : CanError) (s : State) : State := tecError k e (busError 0 k (countCan k (canErrIndex e) s))

theorem transmitError_onlyBuses (k : Nat) (e : CanError) (s : State) : OnlyBuses s (transmitError k e s) :=
  ((countCan_onlyBuses ..).trans (busError_onlyBuses ..)).trans (tecError_onlyBuses ..)

theorem canRt_transmitError (h : ¬ (e = .ack ∧ (canRt k s).state = 2)) : canRt k (transmitError k e s) =
    { canRt k s with tec := (canRt k s).tec + 8, counters := addCtr (canErrIndex e) 1 (canRt k s).counters, armed := false } := by
  rw [transmitError, canRt_tecError k (by simpa using h), canRt_busError, canRt_countCan]

theorem canTransmitError_does (ho : canOn k s = true) (hw : canWireRow k s = some (r, c)) : exec (.canTransmitError k e) s =
    .next (afterFrame k (if 255 < (canRt k (transmitError k e s)).tec then enterBusOff k (transmitError k e s)
      else canRetry k r c (canSettle k (transmitError k e s)))) := by
  show execCanTransmitError k e s = _
  simp only [execCanTransmitError, hw, ho, Bool.not_true, Bool.false_eq_true, if_false]
  rfl

/-- R258: a copy of an Enabled row with tries left waits for its next one. -/
theorem canRetry_again (he : s.bank.enabled.contains r = true)
    (hl : u8 (canCfg k s.bank) 19 = 255 ∨ c.tries < u8 (canCfg k s.bank) 19) :
    canRetry k r c s = setCan k { canRt k s with onBus := true, retry := true } (putWire r { c with tries := c.tries + 1 } s) := by
  have hlim : ¬ (u8 (canCfg k s.bank) 19 ≠ 255 ∧ u8 (canCfg k s.bank) 19 ≤ c.tries) := by omega
  simp only [canRetry, he, hlim, Bool.not_true, Bool.false_eq_true, if_false]
  exact keepOrDrop_keeps he

theorem canTransmitError_retried (ho : canOn k s = true) (hc : ctlEnabled s.bank 0 k = true) (hw : canWireRow k s = some (r, c))
    (ha : ¬ (e = .ack ∧ (canRt k s).state = 2)) (ht : (canRt k s).tec + 8 ≤ 255) (he : s.bank.enabled.contains r = true)
    (hl : u8 (canCfg k s.bank) 19 = 255 ∨ c.tries < u8 (canCfg k s.bank) 19) :
    ∃ t, exec (.canTransmitError k e) s = .next t ∧ (canRt k t).tec = (canRt k s).tec + 8 ∧ (canRt k t).rxErr = (canRt k s).rxErr ∧
      (canRt k t).state = canErrorState ((canRt k s).tec + 8) (canRt k s).rxErr ∧
      (canRt k t).counters = addCtr (canErrIndex e) 1 (canRt k s).counters ∧
      tget r t.drill.rowWire = some { c with tries := c.tries + 1 } ∧ (canRt k t).retry = true := by
  have hrt := canRt_transmitError (k := k) (e := e) ha
  have hno : ¬ 255 < (canRt k (transmitError k e s)).tec := by rw [hrt]; exact Nat.not_lt.2 ht
  have hu : OnlyBuses s (canSettle k (transmitError k e s)) := (transmitError_onlyBuses ..).trans (canSettle_onlyBuses ..)
  have hset : canRt k (canSettle k (transmitError k e s)) = { canRt k s with
      tec := (canRt k s).tec + 8, counters := addCtr (canErrIndex e) 1 (canRt k s).counters, armed := false
      state := canErrorState ((canRt k s).tec + 8) (canRt k s).rxErr } := by rw [canRt_canSettle, hrt]
  refine ⟨_, canTransmitError_does ho hw, ?_⟩
  rw [if_neg hno]
  generalize canSettle k (transmitError k e s) = u at hu hset ⊢
  rw [canRetry_again (by rw [hu.bank]; exact he) (by rw [hu.bank]; exact hl), afterFrame_enabled (by rw [← hu.bank] at hc; exact hc),
    canRt_setCan, hset]
  refine ⟨rfl, rfl, rfl, rfl, ?_, rfl⟩
  simp [tget_tset_same, ctl_of_canWireRow hw]

theorem canTransmitError_disabled (ho : canOn k s = true) (hw : canWireRow k s = some (r, c)) (ht : (canRt k s).tec + 8 ≤ 255)
    (he : s.bank.enabled.contains r = false) : ∃ t, exec (.canTransmitError k e) s = .next t ∧ tget r t.drill.rowWire = none := by
  have hle : (canRt k (transmitError k e s)).tec ≤ (canRt k s).tec + 8 := by
    have h := tec_tecError_le k (busError 0 k (countCan k (canErrIndex e) s)) e
    rwa [canRt_busError, canRt_countCan] at h
  have hu : OnlyBuses s (canSettle k (transmitError k e s)) := (transmitError_onlyBuses ..).trans (canSettle_onlyBuses ..)
  have he' : (canSettle k (transmitError k e s)).bank.enabled.contains r = false := by rw [hu.bank]; exact he
  refine ⟨_, canTransmitError_does ho hw, ?_⟩
  rw [if_neg (by omega), afterFrame_drill, canRetry, if_pos (by rw [he']; rfl)]
  exact keepOrDrop_drops he'

/-- R253, R254: once the copy in its buffer is discarded, the controller's state follows the recovery mode: recovering or held. -/
theorem enterBusOff_eq (hw : canWireRow k s = some (r, c)) : ∃ st w, enterBusOff k s = canState k st w ∧ (st = 3 ∨ st = 4) ∧
    OnlyBuses (discardCopy 29 c (countCan k 11 (unwire r (countCan k 10 s)))) w ∧ (canRt k w).state = (canRt k s).state ∧
    (canRt k w).onBus = false := by
  have hw' : canWireRow k (countCan k 10 s) = some (r, c) := hw
  have hrt : (canRt k (discardCopy 29 c (countCan k 11 (unwire r (countCan k 10 s))))).state = (canRt k s).state := by
    have hq := (discardCopy_same 29 c (countCan k 11 (unwire r (countCan k 10 s)))).keepsQueues
    have hun : canRt k (unwire r (countCan k 10 s)) = canRt k (countCan k 10 s) := rfl
    rw [canRt, hq.buses, ← canRt, canRt_countCan, hun, canRt_countCan]
  simp only [enterBusOff, hw']
  refine ⟨_, _, rfl, by split <;> simp, ?_⟩
  generalize discardCopy 29 c (countCan k 11 (unwire r (countCan k 10 s))) = u at hrt ⊢
  split
  · refine ⟨(setCan_onlyBuses ..).trans (raise_onlyBuses ..), ?_⟩
    simp only [canRt, raise_buses]
    rw [← canRt, canRt_setCan]
    exact ⟨hrt, rfl⟩
  · refine ⟨setCan_onlyBuses .., ?_⟩
    rw [canRt_setCan]
    exact ⟨hrt, rfl⟩

theorem enterBusOff_does (hw : canWireRow k s = some (r, c)) (hst : (canRt k s).state ≤ 2) :
    ((canRt k (enterBusOff k s)).state = 3 ∨ (canRt k (enterBusOff k s)).state = 4) ∧ (canRt k (enterBusOff k s)).onBus = false ∧
      tget r (enterBusOff k s).drill.rowWire = none ∧ (enterBusOff k s).ev.pending.getLsbD 23 = true ∧ (enterBusOff k s).bank = s.bank := by
  obtain ⟨st, w, heq, hoff, hw, hstate, hbus⟩ := enterBusOff_eq hw
  have hq := (discardCopy_same 29 c (countCan k 11 (unwire r (countCan k 10 s)))).keepsQueues
  have hon := canState_onlyBuses k w st
  have hne : (canRt k w).state ≠ st := by omega
  rw [heq]
  refine ⟨by rw [canRt_canState]; exact hoff, by rw [canRt_canState]; exact hbus, ?_, ?_, ?_⟩
  · rw [hon.drill, hw.drill, hq.rowWire]
    exact tget_tdel_same ..
  · rw [canState_changes k w hne]
    exact raise_pending _ _ (by decide) (by decide)
  · rw [hon.bank, hw.bank, hq.bank]
    rfl

theorem canTransmitError_busOff (ho : canOn k s = true) (hc : ctlEnabled s.bank 0 k = true) (hw : canWireRow k s = some (r, c))
    (ha : ¬ (e = .ack ∧ (canRt k s).state = 2)) (ht : 255 < (canRt k s).tec + 8) :
    ∃ t, exec (.canTransmitError k e) s = .next t ∧ ((canRt k t).state = 3 ∨ (canRt k t).state = 4) ∧ (canRt k t).onBus = false ∧
      tget r t.drill.rowWire = none ∧ t.ev.pending.getLsbD 23 = true ∧ t.bank = s.bank := by
  have hu := transmitError_onlyBuses k e s
  have hrt := canRt_transmitError (k := k) (e := e) ha
  have hlow : (canRt k s).state ≤ 2 := by simp [canOn] at ho; exact ho.2
  refine ⟨_, canTransmitError_does ho hw, ?_⟩
  rw [if_pos (by rw [hrt]; exact ht)]
  generalize transmitError k e s = u at hu hrt ⊢
  obtain ⟨hstate, hbus, hrow, hev, hbank⟩ := enterBusOff_does (k := k) (s := u) ((hu.canWireRow k).trans hw) (by rw [hrt]; exact hlow)
  rw [afterFrame_enabled (by rw [hbank, hu.bank]; exact hc)]
  exact ⟨hstate, hbus, hrow, hev, hbank.trans hu.bank⟩

/-- R252: the controller when its frame was sent, TEC lowered. -/
def tecSent (k : Nat) (s : State) : State :=
  countCan k 1 (canSettle k (setCan k { canRt k (picked s) with tec := (canRt k (picked s)).tec - 1, onBus := false, retry := false } (picked s)))

theorem tecSent_onlyBuses (k : Nat) (s : State) : OnlyBuses s (tecSent k s) :=
  (((picked_onlyBuses s).trans (setCan_onlyBuses ..)).trans (canSettle_onlyBuses ..)).trans (countCan_onlyBuses ..)

theorem canRt_tecSent (k : Nat) (s : State) : (canRt k (tecSent k s)).tec = (canRt k s).tec - 1 ∧
    (canRt k (tecSent k s)).onBus = false ∧ (canRt k (tecSent k s)).counters = addCtr 1 1 (canRt k s).counters := by
  rw [tecSent, canRt_countCan, canRt_canSettle, canRt_setCan]
  exact ⟨rfl, rfl, rfl⟩

/-- The same with the copy gone from its row's wire. -/
def canSent (k r : Nat) (c : Copy) (s : State) : State := sentCopy r c (unwire r (tecSent k s))

theorem canSent_leaves (k r : Nat) (c : Copy) (s : State) : (canSent k r c s).buses = (tecSent k s).buses ∧
    (canSent k r c s).buses.loopback = s.buses.loopback ∧ forwards (canSent k r c s) = forwards s ∧
    tget r (canSent k r c s).drill.rowWire = none := by
  have hu := tecSent_onlyBuses k s
  unfold canSent
  generalize tecSent k s = u at hu ⊢
  have hs := sentCopy_same r c (unwire r u)
  rw [hs.keepsQueues.buses, hs.keepsQueues.rowWire]
  obtain ⟨_, _, _, _, _, h⟩ := hs
  rw [h]
  obtain ⟨_, _, _, _, _, _, _, _, rfl⟩ := hu
  exact ⟨rfl, rfl, rfl, tget_tdel_same ..⟩

/-- R187, R252: a frame sent outside loopback goes out as the controller's own. -/
theorem canFrameSent_does (ho : canOn k s = true) (hw : canWireRow k s = some (r, c)) (hl : loopMode 1 k s = 0) :
    ∃ u, exec (.canFrameSent k) s = .next (if forwards s then releaseRow r .clean (afterFrame k u) else afterFrame k u) ∧
      u.wire.head? = some (.canSend k (canOut k c s)) ∧ tget r u.drill.rowWire = none ∧ (canRt k u).tec = (canRt k s).tec - 1 ∧
      (canRt k u).onBus = false ∧ (canRt k u).counters = addCtr 1 1 (canRt k s).counters := by
  obtain ⟨hbuses, hloop, hfwd, hrow⟩ := canSent_leaves k r c s
  have hrt : canRt k (emit (.canSend k (canOut k c s)) (canSent k r c s)) = canRt k (tecSent k s) := by
    simp only [canRt, emit_buses, hbuses]
  refine ⟨emit (.canSend k (canOut k c s)) (canSent k r c s), ?_, rfl, hrow, by rw [hrt]; exact canRt_tecSent k s⟩
  have hout : loopMode 1 k (canSent k r c s) = 0 := by rw [loopMode, hloop]; exact hl
  have hemit : loopMode 1 k (emit (.canSend k (canOut k c s)) (canSent k r c s)) = 0 := hout
  show execCanFrameSent k s = _
  rw [← hfwd]
  generalize hv : canSent k r c s = v at hout hemit ⊢
  simp only [canSent, tecSent] at hv
  simp only [execCanFrameSent, hw, ho, hv, hout, hemit, Bool.not_true, Bool.false_eq_true, if_false, if_true, Nat.zero_ne_one]
  rfl

end

/-! ### Bus-off recovery -/

section
variable {k : Nat} {s : State}

theorem recoveryDelay_recovers (h4 : (canRt k s).state = 4) (hm : flag (canCfg k s.bank) 18 0 = false) (hf : (canRt k s).forcedManual = false) :
    exec (.recoveryDelay k) s = .next (raise 23 (ctlObj 0 k) (setCan k { canRt k s with state := 3 } s)) := by
  show execRecoveryDelay k s = _
  rw [execRecoveryDelay, if_pos ⟨h4, by simp [hm, hf]⟩, canState_changes k s (by simp [h4])]

theorem busOffRecovery_ends (h3 : (canRt k s).state = 3) :
    exec (.busOffRecovery k) s = .next (raise 23 (ctlObj 0 k)
      (setCan k { canRt k s with tec := 0, rxErr := 0, integrated := true, state := 0 } s)) := by
  show execBusOffRecovery k s = _
  rw [execBusOffRecovery, if_pos h3, canState_changes _ _ (by simp [canRt_setCan, h3]), canRt_setCan, setCan_setCan]

end

/-- Settles O28: reception by `canSentence_takes` over `recOk` and `recError`, transmission by what becomes of the copy in the buffer. -/
theorem canBus : Obligations.CanBus := by
  refine ⟨fun k r f e s => ⟨canFrameAccepted_counts, canFrameError_counts, protocolException_counts, integration_done⟩,
    fun k r c e s => ⟨arbitrationLost_enabled, arbitrationLost_disabled, canTransmitError_retried, canTransmitError_disabled,
      canTransmitError_busOff, canFrameSent_does, recoveryDelay_recovers, busOffRecovery_ends⟩⟩

end Sys2Proof.Machine
end

section
/-! PROOF. LIN controllers and MVB interfaces (R97 to R100, R266 to R272). -/

namespace Sys2Proof.Machine

/-! ### LIN -/

section
variable {k r port : Nat} {c : Copy} {f : LinFrame} {d : Bytes} {s : State}

@[simp] theorem linRt_countLin (k i : Nat) (s : State) :
    linRt k (countLin k i s) = { linRt k s with counters := addCtr i 1 (linRt k s).counters } := linRt_setLin_same ..

theorem countLin_onlyBuses (k i : Nat) (s : State) : OnlyBuses s (countLin k i s) := setLin_onlyBuses ..

@[simp] theorem linRt_emit (k : Nat) (w : WireItem) (s : State) : linRt k (emit w s) = linRt k s := rfl

@[simp] theorem linRt_linSeen (k : Nat) (s : State) : linRt k (linSeen k s) = { linRt k s with lastTraffic := some s.power.upNs } :=
  linRt_setLin_same ..

@[simp] theorem linRt_busError (k : Nat) (s : State) : linRt k (busError 2 k s) = { linRt k s with armed := false } := by
  have hb : busError 2 k s = if (linRt k s).armed then raise 22 (ctlObj 2 k) (setLin k { linRt k s with armed := false } s) else s := rfl
  rw [hb]
  split
  · rw [linRt, raise_buses]
    exact linRt_setLin_same ..
  next h => rw [← Bool.eq_false_of_not_eq_true h]

/-- R267: with no slot waiting the end of a frame leaves the bus free and sends nothing. -/
theorem linIdle_noSlot (h : (linRt k s).slotWaiting = 0) : linIdle k s = setLin k { linRt k s with busy := false } s := by
  simp [linIdle, h]

/-- The controller after a frame that no slot waits for: counted, its instant noted, the bus free. -/
def linTaken (k : Nat) (s : State) : State :=
  setLin k { linRt k s with counters := addCtr 0 1 (linRt k s).counters, lastTraffic := some s.power.upNs, busy := false } s

theorem linTaken_eq (h : (linRt k s).slotWaiting = 0) : linIdle k (linSeen k (countLin k 0 s)) = linTaken k s := by
  rw [linIdle_noSlot (by simpa using h)]
  simp only [linRt_linSeen, linRt_countLin]
  simp only [linSeen, countLin, setLin_setLin, linTaken]
  rfl

@[simp] theorem linRt_linTaken (k : Nat) (s : State) : linRt k (linTaken k s) =
    { linRt k s with counters := addCtr 0 1 (linRt k s).counters, lastTraffic := some s.power.upNs, busy := false } := linRt_setLin_same ..

theorem KeepsQueues.linRt {t : State} (h : KeepsQueues s t) (k : Nat) : linRt k t = linRt k s := by simp only [Machine.linRt, h.buses]

theorem linFrame_does (ho : linOn k s = true) (hs : (linRt k s).slotWaiting = 0) (hp : f.parityOk = true) (hr : ctlRow 2 k true s = some r) :
    exec (.linFrame k f) s = .next (if f.checksumOk then receiveWhole (.lin k) r 3 (linKey f.id) f.stamp (linRecord f) id (linTaken k s)
      else receiveVoid (.lin k) r 3 (linKey f.id) f.stamp (raise 24 r (countRow r 6 1 (countLin k 6 (linTaken k s))))) := by
  have h1 : ctlRow 2 k true (linTaken k s) = some r := hr
  have h2 : ctlRow 2 k true (countLin k 6 (linTaken k s)) = some r := hr
  show execLinFrame k f s = _
  simp only [execLinFrame, ho, linTaken_eq hs, hp, Bool.not_true, Bool.false_eq_true, if_false]
  cases f.checksumOk
  · simp only [Bool.false_eq_true, if_false, h2]
  · simp only [if_true, h1]

/-- R97, R98: a LIN frame with a good checksum is a sentence of the talker row. -/
theorem linFrame_good (ho : linOn k s = true) (hs : (linRt k s).slotWaiting = 0) (hp : f.parityOk = true) (hc : f.checksumOk = true)
    (hr : ctlRow 2 k true s = some r) (hh : s.power.halted = false) (hd : spansDisable r f.stamp s = false)
    (hb : bufferFill (.lin k) s + (linRecord f).length ≤ 4096) :
    ∃ t x, exec (.linFrame k f) s = .next t ∧ (ploughOf (.lin k) t).done = (ploughOf (.lin k) s).done ++ [x] ∧ x.row = r ∧
      x.bytes = linRecord f ∧ x.stamp = compensated r f.stamp s ∧ (linRt k t).busy = false ∧
      (linRt k t).counters = addCtr 0 1 (linRt k s).counters := by
  obtain ⟨x, hdone, hrow, hbytes, hstamp, -⟩ := receiveWhole_takes (p := .lin k) (r := r) (kind := 3) (key := linKey f.id)
    (edge := f.stamp) (d := linRecord f) (s := linTaken k s) hh hd hb
  refine ⟨_, x, linFrame_does ho hs hp hr, ?_⟩
  rw [if_pos hc, receiveWhole_keepsQueues.linRt, linRt_linTaken]
  exact ⟨hdone, hrow, hbytes, hstamp, rfl, rfl⟩

/-- R98: one whose checksum fails is a void grain, counted for the row and the controller. -/
theorem linFrame_bad (ho : linOn k s = true) (hs : (linRt k s).slotWaiting = 0) (hp : f.parityOk = true) (hc : f.checksumOk = false)
    (hr : ctlRow 2 k true s = some r) (hh : s.power.halted = false) (hd : spansDisable r f.stamp s = false) :
    ∃ t x, exec (.linFrame k f) s = .next t ∧ (ploughOf (.lin k) t).done = (ploughOf (.lin k) s).done ++ [x] ∧ x.row = r ∧
      x.bytes = [] ∧ x.grain.map (·.void) = some true ∧ (linRt k t).counters = addCtr 6 1 (addCtr 0 1 (linRt k s).counters) := by
  have hu : OnlyBuses (countRow r 6 1 (countLin k 6 (linTaken k s))) (raise 24 r (countRow r 6 1 (countLin k 6 (linTaken k s)))) :=
    raise_onlyBuses ..
  have hd' : spansDisable r f.stamp (countRow r 6 1 (countLin k 6 (linTaken k s))) = false := by rw [spansDisable_countRow]; exact hd
  have hrt : linRt k (raise 24 r (countRow r 6 1 (countLin k 6 (linTaken k s)))) = linRt k (countLin k 6 (linTaken k s)) := by
    simp only [linRt, raise_buses]; rfl
  obtain ⟨x, hdone, hrow, hbytes, hvoid⟩ := receiveVoid_takes (p := .lin k) (kind := 3) (key := linKey f.id)
    ((congrArg Power.halted hu.power).trans hh) ((hu.spansDisable r f.stamp).trans hd')
  refine ⟨_, x, linFrame_does ho hs hp hr, ?_⟩
  rw [if_neg (by rw [hc]; exact Bool.false_ne_true), hdone, receiveVoid_keepsQueues.linRt, hrt, linRt_countLin, linRt_linTaken, ploughOf, hu.ploughs]
  exact ⟨rfl, hrow, hbytes, hvoid, rfl⟩

/-- R268: a responder answers a published ID with its buffer, which "once" then empties. -/
theorem linHeader_answered {id : Nat} (ho : linOn k s = true) (hr : linResponder k s.bank = true) (hp : linPublishes k id s.bank = true)
    (hb : tget id (linRt k s).buffers = some (true, d)) :
    ∃ t, exec (.linHeader k id true) s = .next t ∧ t.wire = .linResponse k id (linReply d) :: s.wire ∧
      tget id (linRt k t).buffers = some (!flag (linCfg k s.bank) 1 1, d) ∧
      (linRt k t).counters = addCtr 2 1 (linRt k s).counters := by
  have hr' : linResponder k (linSeen k s).bank = true := hr
  have hp' : linPublishes k id (linSeen k s).bank = true := hp
  have hb' : tget id (linRt k (linSeen k s)).buffers = some (true, d) := by rw [linRt_linSeen]; exact hb
  have hexec : exec (.linHeader k id true) s = .next (emit (.linResponse k id (linReply d)) (countLin k 2 (setLin k { linRt k (linSeen k s) with
      buffers := if flag (linCfg k s.bank) 1 1 then tset id (false, d) (linRt k (linSeen k s)).buffers else (linRt k (linSeen k s)).buffers }
      (linSeen k s)))) := by
    show execLinHeader k id true s = _
    simp only [execLinHeader, ho, hr', hp', hb', Bool.not_true, Bool.or_self, Bool.false_eq_true, if_false]
    rfl
  refine ⟨_, hexec, rfl, ?_⟩
  simp only [linRt_emit, linRt_countLin, linRt_setLin_same, linRt_linSeen, and_true]
  cases flag (linCfg k s.bank) 1 1
  · exact hb
  · exact tget_tset_same ..

theorem linResponseTimeout_counts (ho : linOn k s = true) (hs : (linRt k s).slotWaiting = 0) (hr : ctlRow 2 k true s = some r) :
    ∃ t, exec (.linResponseTimeout k) s = .next t ∧ (rowRt r t).counters = addCtr 7 1 (rowRt r s).counters ∧
      (linRt k t).counters = addCtr 5 1 (linRt k s).counters ∧ (linRt k t).busy = false := by
  have hexec : exec (.linResponseTimeout k) s = .next (countRow r 7 1 (setLin k { linRt k (countLin k 5 s) with busy := false } (countLin k 5 s))) := by
    show execLinResponseTimeout k s = _
    have hr' : ctlRow 2 k true (setLin k { linRt k (countLin k 5 s) with busy := false } (countLin k 5 s)) = some r := hr
    simp only [execLinResponseTimeout, ho, Bool.not_true, Bool.false_eq_true, if_false]
    rw [linIdle_noSlot (by simpa using hs), hr']
  refine ⟨_, hexec, ?_⟩
  rw [rowRt_countRow, ((countRow_same ..).keepsQueues).linRt, linRt_setLin_same, linRt_countLin]
  exact ⟨rfl, rfl, rfl⟩

/-- The controller after a bit error: counted, event 22 raised while it was armed. -/
def linError (k : Nat) (s : State) : State := busError 2 k (countLin k 3 s)

theorem linError_onlyBuses (k : Nat) (s : State) : OnlyBuses s (linError k s) := (countLin_onlyBuses ..).trans (busError_onlyBuses ..)

theorem linRt_linError (k : Nat) (s : State) :
    linRt k (linError k s) = { linRt k s with counters := addCtr 3 1 (linRt k s).counters, armed := false } := by
  rw [linError, linRt_busError, linRt_countLin]

theorem OnlyBuses.ctlWire {t : State} (h : OnlyBuses s t) (kind k : Nat) : ctlWire kind k t = ctlWire kind k s := by
  simp only [Machine.ctlWire, h.drill]

/-- R269: a bit error with no copy on the wire ends the frame. -/
theorem linBitError_idle (ho : linOn k s = true) (hs : (linRt k s).slotWaiting = 0) (hw : ctlWire 2 k s = none) :
    ∃ t, exec (.linBitError k) s = .next t ∧ (linRt k t).counters = addCtr 3 1 (linRt k s).counters ∧ (linRt k t).busy = false ∧
      (linRt k t).armed = false ∧ t.drill = s.drill := by
  have hw' : ctlWire 2 k (busError 2 k (countLin k 3 s)) = none := ((linError_onlyBuses k s).ctlWire 2 k).trans hw
  have hexec : exec (.linBitError k) s = .next (linIdle k (linError k s)) := by
    show execLinBitError k s = _
    simp only [execLinBitError, ho, hw', Bool.not_true, Bool.false_eq_true, if_false]
    rfl
  refine ⟨_, hexec, ?_⟩
  rw [linIdle_noSlot (by rw [linRt_linError]; exact hs), linRt_setLin_same, linRt_linError]
  exact ⟨rfl, rfl, rfl, (linError_onlyBuses k s).drill⟩

/-- R269: a copy whose frame meets a bit error is not tried again. -/
theorem linBitError_copy (ho : linOn k s = true) (hs : (linRt k s).slotWaiting = 0) (hw : ctlWire 2 k s = some (r, c)) :
    ∃ t, exec (.linBitError k) s = .next t ∧ (linRt k t).counters = addCtr 3 1 (linRt k s).counters ∧ (linRt k t).busy = false ∧
      tget r t.drill.rowWire = none := by
  have hw' : ctlWire 2 k (busError 2 k (countLin k 3 s)) = some (r, c) := ((linError_onlyBuses k s).ctlWire 2 k).trans hw
  have hexec : exec (.linBitError k) s = .next (linIdle k (endCopy c (unwire r (linError k s)))) := by
    show execLinBitError k s = _
    simp only [execLinBitError, ho, hw', Bool.not_true, Bool.false_eq_true, if_false]
    rfl
  have hq := (endCopy_same c (unwire r (linError k s))).keepsQueues
  have hrt : linRt k (endCopy c (unwire r (linError k s))) =
      { linRt k s with counters := addCtr 3 1 (linRt k s).counters, armed := false } := (hq.linRt k).trans (linRt_linError k s)
  refine ⟨_, hexec, ?_⟩
  rw [linIdle_noSlot (by rw [hrt]; exact hs), linRt_setLin_same, hrt]
  refine ⟨rfl, rfl, ?_⟩
  show tget r (endCopy c (unwire r (linError k s))).drill.rowWire = none
  rw [hq.rowWire]
  exact tget_tdel_same ..

theorem scheduleSlot_waits (ho : linOn k s = true) (hr : linResponder k s.bank = false)
    (hw : (ctlWire 2 k s).isSome = true ∨ 0 < (linRt k s).slotWaiting) :
    exec (.scheduleSlot k) s = .next (setLin k { linRt k s with slotWaiting := (linRt k s).slotWaiting + 1 } s) := by
  have hc : ((ctlWire 2 k s).isSome || decide (0 < (linRt k s).slotWaiting)) = true := by simpa using hw
  show execScheduleSlot k s = _
  simp only [execScheduleSlot, ho, hr, hc, Bool.not_true, Bool.or_self, Bool.false_eq_true, if_false, if_true]

theorem scheduleSlot_sends (ho : linOn k s = true) (hr : linResponder k s.bank = false) (hw : ctlWire 2 k s = none)
    (hs : (linRt k s).slotWaiting = 0) (ht : (linTable k s).isEmpty = false) :
    ∃ t, exec (.scheduleSlot k) s = .next t ∧ t.wire = .linHeader k (u8 (linTable k s) (2 * (linRt k s).slot)) :: s.wire ∧
      (linRt k t).slot = (if (linTable k s).length ≤ 2 * ((linRt k s).slot + 1) then 0 else (linRt k s).slot + 1) := by
  have hexec : exec (.scheduleSlot k) s = .next (sendSlot k s) := by
    show execScheduleSlot k s = _
    simp [execScheduleSlot, ho, hr, hw, hs]
  refine ⟨_, hexec, ?_⟩
  simp only [sendSlot, ht, Bool.false_eq_true, if_false]
  refine ⟨rfl, ?_⟩
  simp only [linRt_emit, linRt_countLin, linRt_setLin_same, decide_eq_true_eq]

end

/-! ### MVB -/

section
variable {k r port : Nat} {f : MvbFrame} {e d : Bytes} {n : Nat} {b : Bool} {s : State}

@[simp] theorem mvbRt_countMvb (k i : Nat) (s : State) :
    mvbRt k (countMvb k i s) = { mvbRt k s with counters := addCtr i 1 (mvbRt k s).counters } := mvbRt_setMvb_same ..

theorem lineSeen_onlyBuses (k : Nat) (b : Bool) (s : State) : OnlyBuses s (lineSeen k b s) := by
  unfold lineSeen
  dsimp only
  split <;> exact (setMvb_onlyBuses ..).trans (setMvb_onlyBuses ..)

/-- A line that carries a valid frame is counted and not faulty; the data last seen stay. -/
theorem mvbRt_lineSeen (k : Nat) (b : Bool) (s : State) : (mvbRt k (lineSeen k b s)).lastSink = (mvbRt k s).lastSink ∧
    (if b then (mvbRt k (lineSeen k b s)).faultB = false else (mvbRt k (lineSeen k b s)).faultA = false) := by
  cases b
  · simp [lineSeen]
  · simp [lineSeen]

theorem mvbSlaveFrame_takes (ho : mvbOn k s = true) (hv : f.valid = true) (hot : f.other = none)
    (he : mvbEntry (mvbCfg k s.bank) f.port = some e) (hsrc : entrySource e = false) (hn : mvbNew k e f s = true)
    (hr : ctlRow 3 k true s = some r) (hh : s.power.halted = false) (hd : spansDisable r f.stamp s = false)
    (hb : bufferFill (.mvb k) s + (mvbRecord f).length ≤ 4096) :
    ∃ t x, exec (.mvbSlaveFrame k f) s = .next t ∧ (ploughOf (.mvb k) t).done = (ploughOf (.mvb k) s).done ++ [x] ∧ x.row = r ∧
      x.bytes = mvbRecord f ∧ tget f.port (mvbRt k t).lastSink = some f.data ∧
      (if f.lineB then (mvbRt k t).faultB = false else (mvbRt k t).faultA = false) := by
  have hu := lineSeen_onlyBuses k f.lineB s
  obtain ⟨hsink, hfault⟩ := mvbRt_lineSeen k f.lineB s
  have hexec : exec (.mvbSlaveFrame k f) s = .next (receiveWhole (.mvb k) r 4 (mvbKey f.port) f.stamp (mvbRecord f) id
      (setMvb k { mvbRt k (lineSeen k f.lineB s) with lastSink := tset f.port f.data (mvbRt k (lineSeen k f.lineB s)).lastSink }
        (lineSeen k f.lineB s))) := by
    have hr' : ctlRow 3 k true (lineSeen k f.lineB s) = some r := by rw [ctlRow, hu.bank]; exact hr
    have hn' : mvbNew k e f (lineSeen k f.lineB s) = true := by rw [mvbNew, hsink]; exact hn
    show execMvbSlaveFrame k f s = _
    simp only [execMvbSlaveFrame, ho, hv, hot, hu.bank, he, hr', hsrc, hn', Bool.not_true, Bool.or_self, Bool.false_eq_true, if_false]
  generalize lineSeen k f.lineB s = u at hu hsink hfault hexec
  have hw : OnlyBuses s (setMvb k { mvbRt k u with lastSink := tset f.port f.data (mvbRt k u).lastSink } u) := hu.trans (setMvb_onlyBuses ..)
  have hrt := mvbRt_setMvb_same k u { mvbRt k u with lastSink := tset f.port f.data (mvbRt k u).lastSink }
  generalize setMvb k { mvbRt k u with lastSink := tset f.port f.data (mvbRt k u).lastSink } u = w at hw hrt hexec
  obtain ⟨x, hdone, hrow, hbytes, -⟩ := receiveWhole_takes (p := .mvb k) (kind := 4) (key := mvbKey f.port) (d := mvbRecord f) (s := w)
    ((congrArg Power.halted hw.power).trans hh) ((hw.spansDisable r f.stamp).trans hd) (by rw [bufferFill, ploughOf, hw.ploughs]; exact hb)
  have hkeep : mvbRt k (receiveWhole (.mvb k) r 4 (mvbKey f.port) f.stamp (mvbRecord f) id w) = mvbRt k w := by
    simp only [mvbRt, receiveWhole_keepsQueues.buses]
  refine ⟨_, x, hexec, ?_⟩
  rw [hdone, hkeep, hrt, ploughOf, hw.ploughs]
  exact ⟨rfl, hrow, hbytes, tget_tset_same .., hfault⟩

theorem mvbSlaveFrame_invalid (ho : mvbOn k s = true) (hv : f.valid = false) :
    exec (.mvbSlaveFrame k f) s = .next (setMvb k { mvbRt k s with badFrames := (mvbRt k s).badFrames + 1 } s) := by
  show execMvbSlaveFrame k f s = _
  simp [execMvbSlaveFrame, ho, hv]

theorem mvbMasterFrame_fresh (ho : mvbOn k s = true) (he : mvbEntry (mvbCfg k s.bank) port = some e) (hsrc : entrySource e = true)
    (hb : tget port (mvbRt k s).buffers = some (n, d))
    (hf : u16 (mvbCfg k s.bank) 6 = 0 ∨
      (mvbRt k s).stale.contains port = false ∧ s.power.upNs ≤ n + 1000000 * u16 (mvbCfg k s.bank) 6) :
    exec (.mvbMasterFrame k port) s = .next { countMvb k 3 s with wire := .mvbAnswer k port d :: s.wire } := by
  have hst : mvbStale k port n s = false := by
    rcases hf with h | ⟨h1, h2⟩
    · simp [mvbStale, h]
    · simp only [mvbStale, h1, decide_eq_false (Nat.not_lt.2 h2), Bool.or_self, Bool.and_false]
  show execMvbMasterFrame k port s = _
  simp only [execMvbMasterFrame, ho, he, hsrc, hb, hst, Bool.not_true, Bool.false_eq_true, if_false]
  rfl

theorem mvbMasterFrame_unanswered (ho : mvbOn k s = true) (he : mvbEntry (mvbCfg k s.bank) port = some e) (hsrc : entrySource e = true)
    (hf : tget port (mvbRt k s).buffers = none ∨ u16 (mvbCfg k s.bank) 6 ≠ 0 ∧ ((mvbRt k s).stale.contains port = true ∨
      tget port (mvbRt k s).buffers = some (n, d) ∧ n + 1000000 * u16 (mvbCfg k s.bank) 6 < s.power.upNs)) :
    exec (.mvbMasterFrame k port) s = .next (countMvb k 4 s) := by
  show execMvbMasterFrame k port s = _
  simp only [execMvbMasterFrame, ho, he, hsrc, Bool.not_true, Bool.false_eq_true, if_false]
  cases hbuf : tget port (mvbRt k s).buffers with
  | none => rfl
  | some x =>
    obtain ⟨m, y⟩ := x
    have hst : mvbStale k port m s = true := by
      rw [hbuf] at hf
      rcases hf with h | ⟨h0, h1 | ⟨h1, h2⟩⟩
      · cases h
      · simp only [mvbStale, h1, Bool.true_or, Bool.and_true]
        exact bne_iff_ne.2 h0
      · cases h1
        simp [mvbStale, h0, h2]
    simp only [hst, if_true]

theorem lineTimeout_marks (ho : mvbOn k s = true) (hf : (if b then (mvbRt k s).faultB else (mvbRt k s).faultA) = false) :
    ∃ t, exec (.lineTimeout k b) s = .next t ∧ (if b then (mvbRt k t).faultB else (mvbRt k t).faultA) = true ∧
      (mvbRt k t).counters = addCtr 6 1 (mvbRt k s).counters ∧ t.ev.pending.getLsbD 23 = true := by
  have hexec : exec (.lineTimeout k b) s = .next (raise 23 (ctlObj 3 k) (countMvb k 6
      (setMvb k (if b then { mvbRt k s with faultB := true } else { mvbRt k s with faultA := true }) s))) := by
    show execLineTimeout k b s = _
    simp only [execLineTimeout, ho, hf, Bool.not_true, Bool.or_self, Bool.false_eq_true, if_false]
  refine ⟨_, hexec, ?_, ?_, raise_pending _ _ (by decide) (by decide)⟩
  · rw [mvbRt, raise_buses, ← mvbRt, mvbRt_countMvb, mvbRt_setMvb_same]
    cases b <;> rfl
  · rw [mvbRt, raise_buses, ← mvbRt, mvbRt_countMvb, mvbRt_setMvb_same]
    cases b <;> rfl

theorem freshnessLimit_stale (hl : u16 (mvbCfg k s.bank) 6 ≠ 0) (hb : tget port (mvbRt k s).buffers = some (n, d)) :
    exec (.freshnessLimit k port) s = .next (setMvb k { mvbRt k s with stale := insertNat port (mvbRt k s).stale } s) := by
  show execFreshnessLimit k port s = _
  simp [execFreshnessLimit, hl, hb]

end

/-- Settles O29: LIN by what a frame, a header, an error and a slot do to a controller, MVB by `lineSeen` and the port's buffer. -/
theorem linAndMvbBuses : Obligations.LinAndMvbBuses := by
  refine ⟨fun k r id f d s ho => ⟨linFrame_good ho, linFrame_bad ho, linHeader_answered ho, linResponseTimeout_counts ho, linBitError_idle ho,
      fun c => linBitError_copy ho, scheduleSlot_waits ho, scheduleSlot_sends ho⟩,
    fun k r port f e d n b s => ⟨mvbSlaveFrame_takes, mvbSlaveFrame_invalid, mvbMasterFrame_fresh, mvbMasterFrame_unanswered,
      lineTimeout_marks, freshnessLimit_stale⟩⟩

end Sys2Proof.Machine
end

section
/-! PROOF. The records of a UART: characters, gaps and ends (R83, R86 to R92, R102, R103, R113, R262). -/

namespace Sys2Proof.Machine

/-! ### Cells and free values alone -/

/-- `t` is `s` but for the Granary and the free values used up. -/
def OnlyCells (s t : State) : Prop := ∃ gran free, t = { s with gran, free }

section
variable {s t u : State}

theorem OnlyCells.refl (s : State) : OnlyCells s s := ⟨_, _, rfl⟩

theorem OnlyCells.trans (h : OnlyCells s t) (g : OnlyCells t u) : OnlyCells s u := by
  obtain ⟨_, _, rfl⟩ := h
  obtain ⟨_, _, rfl⟩ := g
  exact ⟨_, _, rfl⟩

theorem OnlyCells.ploughs (h : OnlyCells s t) : t.ploughs = s.ploughs := by obtain ⟨_, _, rfl⟩ := h; rfl
theorem OnlyCells.harrow (h : OnlyCells s t) : t.harrow = s.harrow := by obtain ⟨_, _, rfl⟩ := h; rfl
theorem OnlyCells.buses (h : OnlyCells s t) : t.buses = s.buses := by obtain ⟨_, _, rfl⟩ := h; rfl
theorem OnlyCells.bank (h : OnlyCells s t) : t.bank = s.bank := by obtain ⟨_, _, rfl⟩ := h; rfl

theorem OnlyCells.ploughOf (h : OnlyCells s t) (p : PloughId) : ploughOf p t = ploughOf p s := by rw [Machine.ploughOf, h.ploughs, Machine.ploughOf]

theorem OnlyCells.rowRt (h : OnlyCells s t) (r : Nat) : rowRt r t = rowRt r s := by rw [Machine.rowRt, h.harrow, Machine.rowRt]

end

theorem writeCell_onlyCells (c : Nat) (d : Bytes) (s : State) : OnlyCells s (writeCell c d s) := by
  unfold writeCell
  split
  · exact ⟨_, _, rfl⟩
  · exact .refl s

theorem fillCells_onlyCells (r : Rec) (s : State) : OnlyCells s (fillCells r s).2 :=
  foldl_keeps (OnlyCells s) _ (fun _ _ h => h.trans (writeCell_onlyCells ..)) _ _ (.refl s)

theorem freeRec_onlyCells (r : Rec) (s : State) : OnlyCells s (freeRec r s) := by
  unfold freeRec
  split
  · exact .refl s
  · exact ⟨_, _, rfl⟩

/-! ### Ends of a record -/

section
variable (p : PloughId) (r x : Rec) (i : Nat) (g : Grain) (s : State)

@[simp] theorem ploughOf_setCur (v : Option Rec) : ploughOf p (setCur p v s) = { ploughOf p s with cur := v } := ploughOf_setPlough_same ..

/-- R113: a dropped record leaves the completed ones and counts against its row. -/
theorem dropCur_leaves : ploughOf p (dropCur p x i s) = { ploughOf p s with cur := remains x } ∧
    rowRt x.row (dropCur p x i s) = { rowRt x.row s with counters := addCtr i 1 (rowRt x.row s).counters } ∧
    (dropCur p x i s).buses = s.buses := by
  have hc := freeRec_onlyCells x s
  refine ⟨?_, ?_, ?_⟩
  · rw [dropCur, ploughOf_setCur, ← hc.ploughOf p]
    rfl
  · rw [← hc.rowRt]
    exact rowRt_countRow ..
  · exact hc.buses

/-- What stays of a dropped record belongs to user framing. -/
theorem remains_iec {x : Rec} (h : userFraming x.framing = false) : remains x = none := by
  have h0 : u8 x.framing 0 ≠ 1 := of_decide_eq_false h
  simp [remains, h0]

/-- R79: a complete record joins the completed ones with its grain. -/
theorem completeCur_joins {r : Rec} (h : r.disabled = false) : ploughOf p (completeCur p r g s) =
    { ploughOf p s with cur := none, done := (ploughOf p s).done ++ [{ r with grain := some g }] } := by
  simp [completeCur, h, finishRec]

/-- R90 to R92: a sentence with good checksums ends with a grain of its key. -/
theorem iecComplete_good {r : Rec} (hb : checksumBad r = false) (ht : r.tagBad = false) (ha : r.csAbsent = false) (hl : r.bareLf = false) :
    ∃ g, iecComplete p r s = completeCur p r g s ∧ g.key = iecKey (talkerMask r.framing) r.addr ∧ g.stamp = r.stamp ∧
      g.len = r.bytes.length ∧ g.csBad = false := by
  simp only [iecComplete, hb, ht, ha, hl, Bool.or_self, Bool.false_and, Bool.false_eq_true, if_false]
  exact ⟨_, rfl, rfl, rfl, rfl, rfl⟩

/-- R102, R104: a user-framed record ends with a grain of its key bytes. -/
theorem ufComplete_eq : ∃ g, ufComplete p r s = completeCur p (fillCells r s).1 g (fillCells r s).2 ∧ g.key = (ufKey r).1 ∧
    g.len = r.bytes.length := ⟨_, rfl, rfl, rfl⟩

/-- R78: a record that the input buffer holds stays in reception. -/
theorem keepCur_stores (hd : (ploughOf p s).done = []) (hl : r.bytes.length < bufferSize p) :
    (ploughOf p (keepCur p r s)).cur = some (fillCells r s).1 ∧ (keepCur p r s).buses = s.buses := by
  have hc := fillCells_onlyCells r s
  have hfill : bufferFill p (setCur p (some (fillCells r s).1) (fillCells r s).2) ≤ r.bytes.length := by
    simp only [bufferFill, ploughOf_setCur, hc.ploughOf, hd]
    simp [unwritten, fillCells]
  have hroom : ¬ bufferSize p ≤ bufferFill p (setCur p (some (fillCells r s).1) (fillCells r s).2) := by omega
  have hkeep : keepCur p r s = setCur p (some (fillCells r s).1) (fillCells r s).2 := by simp only [keepCur, hroom, if_false]
  rw [hkeep, ploughOf_setCur]
  exact ⟨rfl, hc.buses⟩

end

/-! ### Characters -/

section
variable {k r : Nat} {ch : UartChar} {x y : Rec} {e : UartErr} {s u : State}

/-- A character is stored before its state is left (R86). -/
theorem iecStep_go {b : Byte} (h : iecStep x b = .go y) : y.bytes = x.bytes ++ [b] := by
  simp only [iecStep, bareEnd] at h
  repeat' split at h
  all_goals cases h
  all_goals rfl

/-- A sentence ends with its last character stored; its start, key characters and framing are those of the record. -/
theorem iecStep_done {b : Byte} (h : iecStep x b = .done y) :
    y.bytes = x.bytes ++ [b] ∧ y.row = x.row ∧ y.framing = x.framing ∧ y.addr = x.addr ∧ y.stamp = x.stamp := by
  simp only [iecStep, bareEnd] at h
  repeat' split at h
  all_goals cases h
  all_goals exact ⟨rfl, rfl, rfl, rfl, rfl⟩

/-- The UART's own part of a character: counted, its instant noted. -/
def uartHeard (k : Nat) (s : State) : State := countUart k 0 (setUart k { uartRt k s with lastRx := some (nowNs s) } s)

theorem uartRt_uartHeard (k : Nat) (s : State) : (uartRt k (uartHeard k s)).counters = addCtr 0 1 (uartRt k s).counters := by
  simp [uartHeard, countUart]

/-- A line outside RS-485 mode hears no echo (R265). -/
theorem notSuppressed (h : rs485 k u.bank = false) : suppressed k ch u = false ∧ collides k ch u = false := by
  simp [suppressed, collides, h]

theorem uartCharacter_does (hg : s.power.state = .growing) (hp : s.power.halted = false)
    (hc : ctlEnabled s.bank 1 k = true ∨ (ploughOf (.uart k) s).cur.isSome = true) :
    exec (.uartCharacter k ch) s = .next (uartChar k ch s) := by
  have hstop : (!ctlEnabled s.bank 1 k && (ploughOf (.uart k) s).cur.isNone) = false := by
    rcases hc with h | h
    · simp [h]
    · simp [Option.isNone_eq_false_iff.2 h]
  show execUartCharacter k ch s = _
  simp [execUartCharacter, hg, hp, hstop]

theorem uartChar_clean (hs : rs485 k s.bank = false) (he : ch.err = none) : uartChar k ch s = ploughChar k ch (uartHeard k s) := by
  obtain ⟨h1, h2⟩ := notSuppressed (ch := ch) (u := uartHeard k s) hs
  simp only [uartHeard] at h1 h2
  simp only [uartChar, he, h1, h2, Bool.false_eq_true, if_false]
  rfl

/-- The UART's part of a character in error. -/
def uartFlawed (k : Nat) (e : UartErr) (s : State) : State := busError 1 k (countUart k (errIndex e) (uartHeard k s))

theorem uartFlawed_onlyBuses (k : Nat) (e : UartErr) (s : State) : OnlyBuses s (uartFlawed k e s) :=
  (((setUart_onlyBuses ..).trans (setUart_onlyBuses ..)).trans (setUart_onlyBuses ..)).trans (busError_onlyBuses ..)

theorem uartRt_busError (k : Nat) (s : State) : uartRt k (busError 1 k s) = { uartRt k s with armed := false } := by
  have hb : busError 1 k s = if (uartRt k s).armed then raise 22 (ctlObj 1 k) (setUart k { uartRt k s with armed := false } s) else s := rfl
  rw [hb]
  split
  · rw [uartRt, raise_buses]
    exact uartRt_setUart_same ..
  next h => rw [← Bool.eq_false_of_not_eq_true h]

theorem uartRt_uartFlawed (k : Nat) (e : UartErr) (s : State) :
    (uartRt k (uartFlawed k e s)).counters = addCtr (errIndex e) 1 (addCtr 0 1 (uartRt k s).counters) := by
  rw [uartFlawed, uartRt_busError, countUart, uartRt_setUart_same, uartRt_uartHeard]

theorem uartChar_flawed (hs : rs485 k s.bank = false) (he : ch.err = some e) : uartChar k ch s = ploughChar k ch (uartFlawed k e s) := by
  obtain ⟨h1, h2⟩ := notSuppressed (ch := ch) (u := uartFlawed k e s) (by rw [(uartFlawed_onlyBuses k e s).bank]; exact hs)
  simp only [uartFlawed, uartHeard] at h1 h2
  simp only [uartChar, he, h1, h2, Bool.false_eq_true, if_false]
  rfl

/-- A character of a record in an IEC 61162-1 row. -/
theorem ploughChar_iec (he : ch.err = none) (hc : (ploughOf (.uart k) u).cur = some x) (hf : userFraming x.framing = false) :
    ploughChar k ch u = iecChar (.uart k) x.row ch u := by
  simp only [ploughChar, uartTalker, hc, he, hf, Bool.false_eq_true, if_false]

/-- R83, R86: a starting character in Hunt begins a record, stamped at its start edge. -/
theorem uartCharacter_begins (hg : s.power.state = .growing) (hp : s.power.halted = false) (hs : rs485 k s.bank = false)
    (hc : ctlEnabled s.bank 1 k = true) (he : ch.err = none) (hcur : (ploughOf (.uart k) s).cur = none)
    (hd : (ploughOf (.uart k) s).done = []) (hr : ctlRow 1 k true s = some r) (hf : userFraming (framingOf r s) = false)
    (hst : starter ch.b = true) (hen : s.bank.enabled.contains r = true) :
    ∃ t z, exec (.uartCharacter k ch) s = .next t ∧ (ploughOf (.uart k) t).cur = some z ∧ z.row = r ∧ z.bytes = [ch.b] ∧
      z.stamp = compensated r ch.edge s ∧ z.iec = (if ch.b = 0x5C then .tag else .address) ∧
      (uartRt k t).counters = addCtr 0 1 (uartRt k s).counters := by
  have hbegin : ploughChar k ch (uartHeard k s) = keepCur (.uart k) (newRec r ch (uartHeard k s)) (uartHeard k s) := by
    have hcur' : (ploughOf (.uart k) (uartHeard k s)).cur = none := hcur
    have hr' : ctlRow 1 k true (uartHeard k s) = some r := hr
    have hf' : userFraming (framingOf r (uartHeard k s)) = false := hf
    have hen' : (starter ch.b && (uartHeard k s).bank.enabled.contains r) = true := by
      rw [hst]
      exact hen
    simp only [ploughChar, uartTalker, iecChar, iecHunt, hcur', hr', he, hf', hen', Bool.false_eq_true, if_false, if_true]
  obtain ⟨hkeep, hbuses⟩ := keepCur_stores (.uart k) (newRec r ch (uartHeard k s)) (uartHeard k s) hd (show 1 < 4096 by decide)
  refine ⟨_, _, by rw [uartCharacter_does hg hp (.inl hc), uartChar_clean hs he, hbegin], hkeep, rfl, rfl, rfl, rfl, ?_⟩
  rw [uartRt, hbuses, ← uartRt, uartRt_uartHeard]

/-- R86 to R88: a character that the framing takes is stored. -/
theorem uartCharacter_stores (hg : s.power.state = .growing) (hp : s.power.halted = false) (hs : rs485 k s.bank = false) (he : ch.err = none)
    (hcur : (ploughOf (.uart k) s).cur = some x) (hd : (ploughOf (.uart k) s).done = []) (hf : userFraming x.framing = false)
    (hi : iecStep x ch.b = .go y) (hm : y.bytes.length < framingMax x.framing) (hb : y.bytes.length < 4096) :
    ∃ t z, exec (.uartCharacter k ch) s = .next t ∧ (ploughOf (.uart k) t).cur = some z ∧ z = { y with written := z.written } ∧
      z.bytes = x.bytes ++ [ch.b] := by
  have hcur' : (ploughOf (.uart k) (uartHeard k s)).cur = some x := hcur
  have hstep : iecChar (.uart k) x.row ch (uartHeard k s) = keepCur (.uart k) y (uartHeard k s) := by
    simp only [iecChar, hcur', hi, Nat.not_le.2 hm, if_false]
  have hkeep := (keepCur_stores (.uart k) y (uartHeard k s) hd hb).1
  have hexec : exec (.uartCharacter k ch) s = .next (keepCur (.uart k) y (uartHeard k s)) := by
    rw [uartCharacter_does hg hp (.inr (by rw [hcur]; rfl)), uartChar_clean hs he, ploughChar_iec he hcur' hf, hstep]
  exact ⟨_, (fillCells y (uartHeard k s)).1, hexec, hkeep, rfl, (iecStep_go hi : y.bytes = _)⟩

/-- R86, R90: a character that completes a sentence with a good checksum ends the record with its grain. -/
theorem uartCharacter_ends (hg : s.power.state = .growing) (hp : s.power.halted = false) (hs : rs485 k s.bank = false) (he : ch.err = none)
    (hcur : (ploughOf (.uart k) s).cur = some x) (hf : userFraming x.framing = false) (hi : iecStep x ch.b = .done y)
    (hm : y.bytes.length ≤ framingMax x.framing) (hc : checksumBad y = false) (ht : y.tagBad = false) (ha : y.csAbsent = false)
    (hl : y.bareLf = false) (hdis : y.disabled = false) :
    ∃ t z g, exec (.uartCharacter k ch) s = .next t ∧ (ploughOf (.uart k) t).cur = none ∧
      (ploughOf (.uart k) t).done = (ploughOf (.uart k) s).done ++ [z] ∧ z.bytes = x.bytes ++ [ch.b] ∧ z.row = x.row ∧
      z.grain = some g ∧ g.key = iecKey (talkerMask x.framing) x.addr ∧ g.stamp = x.stamp ∧ g.len = z.bytes.length ∧ g.csBad = false := by
  have hcur' : (ploughOf (.uart k) (uartHeard k s)).cur = some x := hcur
  have hstep : iecChar (.uart k) x.row ch (uartHeard k s) =
      iecComplete (.uart k) (fillCells y (uartHeard k s)).1 (fillCells y (uartHeard k s)).2 := by
    simp only [iecChar, hcur', hi, Nat.not_lt.2 hm, if_false]
  have hcells := fillCells_onlyCells y (uartHeard k s)
  obtain ⟨g, hg', hkey, hstamp, hlen, hbad⟩ := iecComplete_good (.uart k) (fillCells y (uartHeard k s)).2
    (r := (fillCells y (uartHeard k s)).1) hc ht ha hl
  obtain ⟨hbytes, hrow, hframing, haddr, hstart⟩ := iecStep_done hi
  have hexec : exec (.uartCharacter k ch) s = .next (completeCur (.uart k) (fillCells y (uartHeard k s)).1 g (fillCells y (uartHeard k s)).2) := by
    rw [uartCharacter_does hg hp (.inr (by rw [hcur]; rfl)), uartChar_clean hs he, ploughChar_iec he hcur' hf, hstep, hg']
  refine ⟨_, { (fillCells y (uartHeard k s)).1 with grain := some g }, g, hexec, ?_⟩
  rw [completeCur_joins (.uart k) g _ (r := (fillCells y (uartHeard k s)).1) hdis, hcells.ploughOf, ← hframing, ← haddr, ← hstart]
  exact ⟨rfl, rfl, hbytes, hrow, rfl, hkey, hstamp, hlen, hbad⟩

/-- R113, R262: a character in error drops the record and counts it. -/
theorem uartCharacter_flawed (hg : s.power.state = .growing) (hp : s.power.halted = false) (hs : rs485 k s.bank = false)
    (he : ch.err = some e) (hcur : (ploughOf (.uart k) s).cur = some x) (hk : x.skip = false) (hf : userFraming x.framing = false) :
    ∃ t, exec (.uartCharacter k ch) s = .next t ∧ (ploughOf (.uart k) t).cur = none ∧
      (ploughOf (.uart k) t).done = (ploughOf (.uart k) s).done ∧
      (rowRt x.row t).counters = addCtr 2 1 (rowRt x.row s).counters ∧
      (uartRt k t).counters = addCtr (errIndex e) 1 (addCtr 0 1 (uartRt k s).counters) := by
  have hu := uartFlawed_onlyBuses k e s
  have hplough : ploughOf (.uart k) (uartFlawed k e s) = ploughOf (.uart k) s := by rw [ploughOf, hu.ploughs, ploughOf]
  have hrow : rowRt x.row (uartFlawed k e s) = rowRt x.row s := by obtain ⟨_, _, _, _, _, _, _, _, h⟩ := hu; rw [h]; rfl
  have hdrop : ploughChar k ch (uartFlawed k e s) = dropCur (.uart k) x 2 (uartFlawed k e s) := by
    simp only [ploughChar, uartTalker, hplough, hcur, he, hk, Bool.false_eq_true, if_false]
  obtain ⟨hp', hr', hb'⟩ := dropCur_leaves (.uart k) x 2 (uartFlawed k e s)
  refine ⟨_, by rw [uartCharacter_does hg hp (.inr (by rw [hcur]; rfl)), uartChar_flawed hs he, hdrop], ?_⟩
  rw [hp', hr', hplough, hrow, uartRt, hb', ← uartRt, uartRt_uartFlawed, remains_iec hf]
  exact ⟨rfl, rfl, rfl, rfl⟩

/-- R89: a gap longer than the limit drops the record. -/
theorem gapTimeout_drops (hcur : (ploughOf (.uart k) s).cur = some x) (hgap : u16 x.framing 4 ≠ 0) (hk : x.skip = false) :
    ∃ t, exec (.gapTimeout k) s = .next t ∧ (ploughOf (.uart k) t).cur = none ∧
      (ploughOf (.uart k) t).done = (ploughOf (.uart k) s).done ∧ (rowRt x.row t).counters = addCtr 4 1 (rowRt x.row s).counters := by
  have hexec : exec (.gapTimeout k) s = .next (setCur (.uart k) none (dropCur (.uart k) x 4 s)) := by
    show execGapTimeout k s = _
    simp only [execGapTimeout, hcur, hgap, hk, Bool.false_eq_true, if_false]
  obtain ⟨hp, hr, -⟩ := dropCur_leaves (.uart k) x 4 s
  refine ⟨_, hexec, ?_⟩
  rw [ploughOf_setCur, hp]
  exact ⟨rfl, rfl, congrArg RowRt.counters hr⟩

/-- R103: in idle-gap framing the gap ends the record. -/
theorem idleGapEnd_ends (hcur : (ploughOf (.uart k) s).cur = some x) (hf : userFraming x.framing = true) (hm : ufEndMode x.framing = 3)
    (hk : x.skip = false) (he : x.esc = false) (hdis : x.disabled = false) :
    ∃ t z g, exec (.idleGapEnd k) s = .next t ∧ (ploughOf (.uart k) t).cur = none ∧
      (ploughOf (.uart k) t).done = (ploughOf (.uart k) s).done ++ [z] ∧ z.bytes = x.bytes ∧ z.grain = some g ∧
      g.key = (ufKey x).1 ∧ g.len = x.bytes.length := by
  have hexec : exec (.idleGapEnd k) s = .next (ufComplete (.uart k) x s) := by
    show execIdleGapEnd k s = _
    simp [execIdleGapEnd, hcur, hf, hm, hk, he]
  obtain ⟨g, hg, hkey, hlen⟩ := ufComplete_eq (.uart k) x s
  rw [hg] at hexec
  refine ⟨_, { (fillCells x s).1 with grain := some g }, g, hexec, ?_⟩
  rw [completeCur_joins (.uart k) g _ (r := (fillCells x s).1) hdis, (fillCells_onlyCells x s).ploughOf]
  exact ⟨rfl, rfl, rfl, rfl, hkey, hlen⟩

end

end Sys2Proof.Machine
end

section
/-! PROOF. Cells taken for records, and grains issued (R25, R76 to R80, R114, R225, R229, R230, R296). -/

namespace Sys2Proof.Machine

/-! ### The fill of a port's buffer -/

/-- `t` is `s` but for the ports, the shaper credits and what the part emits. -/
def OnlyPorts (s t : State) : Prop :=
  ∃ ports credit creditAt wire, t = { s with ports, drill.credit := credit, drill.creditAt := creditAt, wire }

section
variable {s t u : State}

theorem OnlyPorts.refl (s : State) : OnlyPorts s s := ⟨_, _, _, _, rfl⟩

theorem OnlyPorts.trans (h : OnlyPorts s t) (g : OnlyPorts t u) : OnlyPorts s u := by
  obtain ⟨_, _, _, _, rfl⟩ := h
  obtain ⟨_, _, _, _, rfl⟩ := g
  exact ⟨_, _, _, _, rfl⟩

theorem OnlyPorts.ploughs (h : OnlyPorts s t) : t.ploughs = s.ploughs := by obtain ⟨_, _, _, _, rfl⟩ := h; rfl
theorem OnlyPorts.harrow (h : OnlyPorts s t) : t.harrow = s.harrow := by obtain ⟨_, _, _, _, rfl⟩ := h; rfl
theorem OnlyPorts.bank (h : OnlyPorts s t) : t.bank = s.bank := by obtain ⟨_, _, _, _, rfl⟩ := h; rfl
theorem OnlyPorts.gran (h : OnlyPorts s t) : t.gran = s.gran := by obtain ⟨_, _, _, _, rfl⟩ := h; rfl

theorem OnlyPorts.ploughOf (h : OnlyPorts s t) (p : PloughId) : ploughOf p t = ploughOf p s := by rw [Machine.ploughOf, h.ploughs, Machine.ploughOf]

end

section
variable (p tc n : Nat) (m : PauseMsg) (s : State)

theorem countPort_onlyPorts (i : Nat) : OnlyPorts s (countPort p i n s) := ⟨_, _, _, _, rfl⟩
theorem setPort_onlyPorts (v : PortRt) : OnlyPorts s (setPort p v s) := ⟨_, _, _, _, rfl⟩
theorem emit_onlyPorts (w : WireItem) : OnlyPorts s (emit w s) := ⟨_, _, _, _, rfl⟩

theorem foldl_onlyPorts {α : Type} {f : State → α → State} (hf : ∀ s a, OnlyPorts s (f s a)) (l : List α) : OnlyPorts s (l.foldl f s) :=
  foldl_keeps (OnlyPorts s) f (fun _ _ h => h.trans (hf _ _)) l s (.refl s)

theorem updateCredits_onlyPorts : OnlyPorts s (updateCredits p s) := by
  refine foldl_onlyPorts s (fun s tc => ?_) _
  unfold updateCredit
  split
  · exact .refl s
  · exact ⟨_, _, _, _, rfl⟩

theorem pauseClass_onlyPorts (q : Nat) : OnlyPorts s (pauseClass p tc q s) := by
  unfold pauseClass
  split
  · exact .refl s
  · split
    · exact setPort_onlyPorts ..
    · split
      · exact setPort_onlyPorts ..
      · exact .refl s

theorem countPorts_onlyPorts (l : List (Nat × Nat)) : OnlyPorts s (l.foldl (fun s e => countPort p e.1 e.2 s) s) :=
  foldl_onlyPorts s (fun s e => countPort_onlyPorts p e.2 s e.1) l

theorem applyPause_onlyPorts : OnlyPorts s (applyPause p m s) := by
  unfold applyPause
  dsimp only
  refine OnlyPorts.trans ?_ (foldl_onlyPorts _ (fun s (e : Nat × Nat) => pauseClass_onlyPorts p e.1 s e.2) _)
  exact iteInduction (motive := OnlyPorts s) (fun _ => .refl s) (fun _ => countPort_onlyPorts ..)

theorem receivePause_onlyPorts : OnlyPorts s (receivePause p m s) := by
  have hcount := (updateCredits_onlyPorts p s).trans (countPorts_onlyPorts p (updateCredits p s)
    [(0, 64), (1, 1), (3, 1), (38, 1), (if m.pfc then 12 else 11, 1)])
  refine hcount.trans ?_
  unfold receivePause
  generalize List.foldl _ (updateCredits p s) _ = u
  exact iteInduction (motive := OnlyPorts u) (fun _ => applyPause_onlyPorts ..) (fun _ => countPort_onlyPorts ..)

theorem putPause_onlyPorts (pfc : Bool) (set time : Nat) : OnlyPorts s (putPause p pfc set time s) := by
  refine (countPorts_onlyPorts p s [(20, 64), (21, 1), (23, 1), (if pfc then 26 else 25, 1)]).trans ?_
  unfold putPause
  generalize List.foldl _ s _ = u
  dsimp only
  split
  · exact receivePause_onlyPorts ..
  · exact emit_onlyPorts ..

theorem sendPause_onlyPorts (pfc : Bool) (set time : Nat) : OnlyPorts s (sendPause p pfc set time s) :=
  iteInduction (motive := OnlyPorts s) (fun _ => putPause_onlyPorts ..) (fun _ => setPort_onlyPorts ..)

theorem settlePause_onlyPorts : OnlyPorts s (settlePause p s) := by
  unfold settlePause
  dsimp only
  split
  · exact .refl s
  split
  · split
    · exact (setPort_onlyPorts ..).trans (sendPause_onlyPorts ..)
    · split
      · exact (setPort_onlyPorts ..).trans (sendPause_onlyPorts ..)
      · exact .refl s
  · split
    · split
      · exact setPort_onlyPorts ..
      · exact (setPort_onlyPorts ..).trans (sendPause_onlyPorts ..)
    · split
      · exact (setPort_onlyPorts ..).trans (sendPause_onlyPorts ..)
      · exact ((setPort_onlyPorts ..).trans (sendPause_onlyPorts ..)).trans (sendPause_onlyPorts ..)
  · exact .refl s

/-- R296: what follows from a change of the fill touches the ports alone. -/
theorem refill_onlyPorts (q : PloughId) : OnlyPorts s (refill q s) := by
  cases q with
  | eth p => exact settlePause_onlyPorts p s
  | _ => exact .refl s

end

/-! ### Cells -/

section
variable {p : PloughId} {i c : Nat} {r : Rec} {s t : State}

theorem allocCell_onlyCells {cls : Nat} {res : Bool} (h : allocCell cls res s = .got c t) : OnlyCells s t := by
  unfold allocCell at h
  split at h
  · cases h
    exact ⟨_, _, rfl⟩
  · split at h <;> cases h

/-- R229: a cell granted changes the Granary alone. -/
theorem takeCell_onlyCells {cls : Nat} (h : takeCell cls s = .got c t) : OnlyCells s t := by
  have key : ∃ res, allocCell cls res s = .got c t := by
    unfold takeCell at h
    generalize (if cls = 0 then beaconResEff s else steerResEff s) = reserve at h
    generalize (if cls = 2 then tellCapEff s else bulkCapEff s) = cap at h
    generalize (if cls = 2 then u16 (quota s) 8 else u16 (quota s) 10) = floor at h
    split at h
    · split at h
      · exact ⟨_, h⟩
      split at h
      · exact ⟨_, h⟩
      · cases h
    · split at h
      · cases h
      split at h
      · cases h
      split at h
      · cases h
      · exact ⟨_, h⟩
  exact allocCell_onlyCells key.choose_spec

/-- A cell linked to a record's chain takes what the record has received. -/
theorem linkCell_does {x : Rec × State} (h : linkCell r c s = x) : OnlyCells s x.2 ∧ x.1.cells = r.cells ++ [c] ∧
    x.1.written = min r.bytes.length (256 * (r.cells.length + 1)) ∧ x.1.bytes = r.bytes := by
  subst h
  refine ⟨?_, rfl, by simp [linkCell, fillCells], rfl⟩
  unfold linkCell
  refine OnlyCells.trans ?_ (fillCells_onlyCells ..)
  split
  · exact ⟨_, _, rfl⟩
  · exact .refl s

/-- The first completed record that waits for a cell comes before the record in reception. -/
theorem cellRec_of_done (hf : (ploughOf p s).done.zipIdx.find? (fun e => needsCell e.1) = some (r, i)) : cellRec (ploughOf p s) = some r := by
  have hdone : (ploughOf p s).done.find? needsCell = some r := by
    conv_lhs => rw [← List.zipIdx_map_fst 0 (ploughOf p s).done, List.find?_map]
    exact congrArg (Option.map Prod.fst) hf
  rw [cellRec, List.find?_append, hdone, Option.some_or]

/-- R17, R78: with no room for cells TAKE_CELL does nothing. -/
theorem takeCell_closed (h : s.harrow.inReset = true ∨ s.power.halted = true ∨ writeRoom p s = false ∨ 16 ≤ (ploughOf p s).crossing.length) :
    exec (.takeCell p) s = .next s := by
  have hclosed : cellsOpen p s = false := by
    rcases h with h | h | h | h
    · simp [cellsOpen, h]
    · simp [cellsOpen, h]
    · simp [cellsOpen, h]
    · simp [cellsOpen, Nat.not_lt.2 h]
  show execTakeCell p s = _
  simp [execTakeCell, hclosed]

/-- R25: a Beacon record of another Plough that can have a cell is served first. -/
theorem takeCell_yields (hr : cellRec (ploughOf p s) = some r) (hc : r.cls ≠ 0) (hb : beaconCell p s = true) :
    exec (.takeCell p) s = .next s := by
  show execTakeCell p s = _
  simp [execTakeCell, hr, hc, hb]

/-- R76, R229: TAKE_CELL serves the first completed record whose bytes wait for a cell. -/
theorem takeCell_serves (ho : cellsOpen p s = true) (hb : r.cls = 0 ∨ beaconCell p s = false)
    (hf : (ploughOf p s).done.zipIdx.find? (fun e => needsCell e.1) = some (r, i)) :
    exec (.takeCell p) s = .next (refill p (takeForDone p i r s)) := by
  have hturn : (((cellRec (ploughOf p s)).map (·.cls)) != some 0 && beaconCell p s) = false := by
    rcases hb with h | h
    · simp [cellRec_of_done hf, h]
    · simp [h]
  show execTakeCell p s = _
  simp only [execTakeCell, ho, hturn, hf, Bool.not_true, Bool.or_self, Bool.false_eq_true, if_false]

theorem takeCell_granted (ho : cellsOpen p s = true) (hb : r.cls = 0 ∨ beaconCell p s = false)
    (hf : (ploughOf p s).done.zipIdx.find? (fun e => needsCell e.1) = some (r, i)) (ht : takeCell r.cls s = .got c t) :
    ∃ t x, exec (.takeCell p) s = .next t ∧ (ploughOf p t).done = (ploughOf p s).done.set i x ∧ x.cells = r.cells ++ [c] ∧
      x.written = min r.bytes.length (256 * (r.cells.length + 1)) ∧ x.bytes = r.bytes ∧ t.bank = s.bank := by
  have hserved : takeForDone p i r s = setPlough p
      { ploughOf p (linkCell { r with inFifo := r.inFifo || writeStalled p s } c (enterFifo p t)).2 with
        done := (ploughOf p (linkCell { r with inFifo := r.inFifo || writeStalled p s } c (enterFifo p t)).2).done.set i
          (linkCell { r with inFifo := r.inFifo || writeStalled p s } c (enterFifo p t)).1 }
      (linkCell { r with inFifo := r.inFifo || writeStalled p s } c (enterFifo p t)).2 := by
    simp only [takeForDone, ht]
  generalize hx : linkCell { r with inFifo := r.inFifo || writeStalled p s } c (enterFifo p t) = x at hserved
  obtain ⟨hlink, hcells, hwritten, hbytes⟩ := linkCell_does hx
  have hfifo : (enterFifo p t).ploughs = t.ploughs ∧ (enterFifo p t).bank = t.bank := by
    unfold enterFifo
    split <;> exact ⟨rfl, rfl⟩
  have htake := takeCell_onlyCells ht
  have hfill := refill_onlyPorts (takeForDone p i r s) p
  refine ⟨_, x.1, takeCell_serves ho hb hf, ?_, hcells, hwritten, hbytes, ?_⟩
  · rw [hfill.ploughOf, hserved, ploughOf_setPlough_same, ploughOf, hlink.ploughs, hfifo.1, htake.ploughs, ploughOf]
  · rw [hfill.bank, hserved, setPlough_bank, hlink.bank, hfifo.2, htake.bank]

/-- R230: a refused record is dropped; a sentence counts against its row. -/
theorem refuseRec_leaves (p : PloughId) (r : Rec) (s : State) : (refuseRec p r s).ploughs = s.ploughs ∧
    (r.grain.map (·.kind) ≠ some 15 → (rowRt r.row (refuseRec p r s)).counters = addCtr 10 1 (rowRt r.row s).counters) := by
  have hcells := freeRec_onlyCells r s
  have hform : ∃ u, OnlyPorts (freeRec r s) u ∧
      refuseRec p r s = if r.grain.map (·.kind) = some 15 then u else countRow r.row 10 1 u := by
    cases p with
    | eth q => exact ⟨_, countPort_onlyPorts .., rfl⟩
    | _ => exact ⟨_, .refl _, rfl⟩
  obtain ⟨u, hu, hrefuse⟩ := hform
  have hploughs := hu.ploughs.trans hcells.ploughs
  rw [hrefuse]
  by_cases hk : r.grain.map (·.kind) = some 15
  · rw [if_pos hk]
    exact ⟨hploughs, fun h => absurd hk h⟩
  · rw [if_neg hk, rowRt_countRow, rowRt, hu.harrow, hcells.harrow]
    exact ⟨hploughs, fun _ => rfl⟩

theorem takeCell_refused (ho : cellsOpen p s = true) (hb : r.cls = 0 ∨ beaconCell p s = false)
    (hf : (ploughOf p s).done.zipIdx.find? (fun e => needsCell e.1) = some (r, i)) (ht : takeCell r.cls s = .refuse) :
    ∃ t, exec (.takeCell p) s = .next t ∧ (ploughOf p t).done = (ploughOf p s).done.eraseIdx i ∧
      ((r.grain.map (·.kind) ≠ some 15) → (rowRt r.row t).counters = addCtr 10 1 (rowRt r.row s).counters) := by
  have hserved : takeForDone p i r s = refuseRec p r (setPlough p { ploughOf p s with done := (ploughOf p s).done.eraseIdx i } s) := by
    simp only [takeForDone, ht]
  obtain ⟨hploughs, hrow⟩ := refuseRec_leaves p r (setPlough p { ploughOf p s with done := (ploughOf p s).done.eraseIdx i } s)
  have hfill := refill_onlyPorts (takeForDone p i r s) p
  refine ⟨_, takeCell_serves ho hb hf, ?_, fun hk => ?_⟩
  · rw [hfill.ploughOf, hserved, ploughOf, hploughs, ← ploughOf, ploughOf_setPlough_same]
  · rw [rowRt, hfill.harrow, hserved]
    exact hrow hk

theorem takeCell_waits (ho : cellsOpen p s = true) (hb : r.cls = 0 ∨ beaconCell p s = false)
    (hf : (ploughOf p s).done.zipIdx.find? (fun e => needsCell e.1) = some (r, i)) (ht : takeCell r.cls s = .wait) :
    ∃ t, exec (.takeCell p) s = .next t ∧ t.ploughs = s.ploughs ∧ t.gran = s.gran := by
  have hserved : takeForDone p i r s = s := by simp only [takeForDone, ht]
  have hfill := refill_onlyPorts s p
  exact ⟨_, by rw [takeCell_serves ho hb hf, hserved], hfill.ploughs, hfill.gran⟩

end

/-! ### Grains -/

section
variable {p : PloughId} {r : Rec} {rest : List Rec} {g : Grain} {s : State}

/-- A verify touches neither the records nor the cells. -/
theorem tallyVerify_records (u : Nat) (i : Img) (kind : Nat) (framing : Img) (d : Bytes) (s : State) :
    (tallyVerify u i kind framing d s).2.ploughs = s.ploughs ∧ (tallyVerify u i kind framing d s).2.gran = s.gran := by
  unfold tallyVerify
  dsimp only
  split
  · exact ⟨rfl, rfl⟩
  · rw [raise_frame]
    exact ⟨rfl, rfl⟩

theorem rowVerify_records (r kind : Nat) (skip : List Nat) (framing : Img) (d : Bytes) (s : State) :
    (rowVerify r kind skip framing d s).2.ploughs = s.ploughs ∧ (rowVerify r kind skip framing d s).2.gran = s.gran := by
  refine foldl_keeps (fun a : Nat × State => a.2.ploughs = s.ploughs ∧ a.2.gran = s.gran) _ (fun a e h => ?_) _ (2, s) ⟨rfl, rfl⟩
  obtain ⟨hp, hg⟩ := tallyVerify_records e.1 e.2 kind framing d a.2
  exact ⟨hp.trans h.1, hg.trans h.2⟩

/-- R524, R529: the verify at the Plough's input marks the grain and leaves the rest of it. -/
theorem talkerVerify_does (r : Rec) (g : Grain) (s : State) :
    (∃ ty drop, (talkerVerify r g s).1 = { g with tally := ty, tallyDrop := drop }) ∧
      (talkerVerify r g s).2.ploughs = s.ploughs ∧ (talkerVerify r g s).2.gran = s.gran := by
  unfold talkerVerify
  split
  · exact ⟨⟨_, _, rfl⟩, rfl, rfl⟩
  · dsimp only
    refine ⟨?_, rowVerify_records ..⟩
    repeat' split
    all_goals exact ⟨_, _, rfl⟩

theorem countIssue_records (g : Grain) (arrival : Nat) (s : State) :
    (countIssue g arrival s).ploughs = s.ploughs ∧ (countIssue g arrival s).gran = s.gran := by
  unfold countIssue
  dsimp only
  repeat' split
  all_goals exact ⟨rfl, rfl⟩

/-- The state of a grain's cells when it enters the crossing: its first cell carries one reference (R225). -/
def referred (r : Rec) (s : State) : State :=
  match r.cells with
  | [] => s
  | c :: _ => { s with gran.cells := tmod c {} (fun x => { x with copies := 1 }) s.gran.cells }

theorem referred_ploughs (r : Rec) (s : State) : (referred r s).ploughs = s.ploughs := by
  unfold referred
  split <;> rfl

theorem referred_copies (r : Rec) (s : State) (j : Nat) (l : List Nat) (h : r.cells = j :: l) :
    (cellOf j (referred r s)).map (·.copies) = some 1 := by
  simp only [referred, h, cellOf, tmod, tget_tset_same, Option.map_some]

/-- A grain that was verified enters the crossing, counted. -/
def entersCrossing (p : PloughId) (arrival : Nat) (x : Grain × State) : State :=
  setPlough p { ploughOf p (countIssue x.1 arrival x.2) with crossing := (ploughOf p (countIssue x.1 arrival x.2)).crossing ++ [x.1] }
    (countIssue x.1 arrival x.2)

theorem issue_eq (p : PloughId) (r : Rec) (g : Grain) (s : State) : issue p r g s =
    entersCrossing p r.stamp (talkerVerify r { g with cell := if g.void then 0 else r.cells.headD 0 } (referred r s)) := rfl

/-- R114, R225: a grain that is issued enters the crossing with one reference to its first cell. -/
theorem issue_does (p : PloughId) (r : Rec) (g : Grain) (s : State) : ∃ h,
    ploughOf p (issue p r g s) = { ploughOf p s with crossing := (ploughOf p s).crossing ++ [h] } ∧
    h.key = g.key ∧ h.stamp = g.stamp ∧ h.row = g.row ∧ h.len = g.len ∧ h.cell = (if g.void then 0 else r.cells.headD 0) ∧
    (∀ j l, r.cells = j :: l → (cellOf j (issue p r g s)).map (·.copies) = some 1) := by
  obtain ⟨⟨ty, drop, hmark⟩, hvp, hvg⟩ := talkerVerify_does r { g with cell := if g.void then 0 else r.cells.headD 0 } (referred r s)
  rw [issue_eq]
  generalize talkerVerify r { g with cell := if g.void then 0 else r.cells.headD 0 } (referred r s) = x at hmark hvp hvg ⊢
  obtain ⟨hcp, hcg⟩ := countIssue_records x.1 r.stamp x.2
  refine ⟨x.1, ?_, by rw [hmark], by rw [hmark], by rw [hmark], by rw [hmark], by rw [hmark], fun j l h => ?_⟩
  · rw [entersCrossing, ploughOf_setPlough_same, ploughOf, hcp, hvp, referred_ploughs, ploughOf]
  · rw [cellOf, entersCrossing, setPlough_gran, hcg, hvg]
    exact referred_copies r s j l h

/-- What GRAIN_ISSUE does with the oldest completed record once all of it is in cells. -/
theorem grainIssue_does (hr : s.harrow.inReset = false) (hh : s.power.halted = false) (hd : (ploughOf p s).done = r :: rest)
    (hg : r.grain = some g) (hx : (ploughOf p s).crossing.length < 16)
    (hst : s.harrow.stalled.contains (.plough (ploughKey p)) = false) (hi : r.inFifo = false)
    (hw : g.void = true ∨ r.bytes.length ≤ r.written) :
    exec (.grainIssue p) s = .next (if r.control then { setPlough p { ploughOf p s with done := rest } s with
        stw.inbox := s.stw.inbox ++ [(r.bytes, r.cells.headD 0)] }
      else issue p r g (setPlough p { ploughOf p s with done := rest } s)) := by
  have hready : (!g.void && decide (r.written < r.bytes.length)) = false := by
    rcases hw with h | h
    · simp [h]
    · simp [Nat.not_lt.2 h]
  show execGrainIssue p s = _
  simp only [execGrainIssue, hd, hr, hh, decide_eq_false (Nat.not_le.2 hx), hst, hg, hi, hready, Bool.or_self, Bool.false_eq_true, if_false]
  cases r.control <;> rfl

theorem grainIssue_issues (hr : s.harrow.inReset = false) (hh : s.power.halted = false) (hd : (ploughOf p s).done = r :: rest)
    (hg : r.grain = some g) (hx : (ploughOf p s).crossing.length < 16)
    (hst : s.harrow.stalled.contains (.plough (ploughKey p)) = false) (hi : r.inFifo = false) (hc : r.control = false)
    (hw : g.void = true ∨ r.bytes.length ≤ r.written) :
    ∃ t h, exec (.grainIssue p) s = .next t ∧ (ploughOf p t).done = rest ∧ (ploughOf p t).crossing = (ploughOf p s).crossing ++ [h] ∧
      h.key = g.key ∧ h.stamp = g.stamp ∧ h.row = g.row ∧ h.len = g.len ∧ h.cell = (if g.void then 0 else r.cells.headD 0) ∧
      (∀ j l, r.cells = j :: l → (cellOf j t).map (·.copies) = some 1) := by
  obtain ⟨h, hplough, hgrain⟩ := issue_does p r g (setPlough p { ploughOf p s with done := rest } s)
  refine ⟨_, h, grainIssue_does hr hh hd hg hx hst hi hw, ?_⟩
  rw [if_neg (by rw [hc]; exact Bool.false_ne_true), hplough, ploughOf_setPlough_same]
  exact ⟨rfl, rfl, hgrain⟩

theorem grainIssue_control (hr : s.harrow.inReset = false) (hh : s.power.halted = false) (hd : (ploughOf p s).done = r :: rest)
    (hg : r.grain = some g) (hx : (ploughOf p s).crossing.length < 16)
    (hst : s.harrow.stalled.contains (.plough (ploughKey p)) = false) (hi : r.inFifo = false) (hc : r.control = true)
    (hw : g.void = true ∨ r.bytes.length ≤ r.written) :
    ∃ t, exec (.grainIssue p) s = .next t ∧ (ploughOf p t).done = rest ∧ (ploughOf p t).crossing = (ploughOf p s).crossing ∧
      t.stw.inbox = s.stw.inbox ++ [(r.bytes, r.cells.headD 0)] := by
  have hplough := ploughOf_setPlough_same s p { ploughOf p s with done := rest }
  refine ⟨_, grainIssue_does hr hh hd hg hx hst hi hw, ?_⟩
  rw [if_pos hc]
  have hdone := congrArg Plough.done hplough
  have hcrossing := congrArg Plough.crossing hplough
  exact ⟨hdone, hcrossing, rfl⟩

end

/-- Settles O30: a character by what the framing makes of it, a cell by what the Granary answers, a grain by `issue_does`. -/
theorem uartSentencesAndPloughCells : Obligations.UartSentencesAndPloughCells := by
  refine ⟨fun k r ch x y s => ⟨uartCharacter_begins, uartCharacter_stores, uartCharacter_ends, fun e => uartCharacter_flawed, gapTimeout_drops,
      idleGapEnd_ends⟩,
    fun p i c r rest g s t => ⟨takeCell_closed, takeCell_yields, takeCell_granted, takeCell_refused, takeCell_waits, grainIssue_issues,
      grainIssue_control⟩⟩

end Sys2Proof.Machine
end

section
/-! PROOF. Frames received on a port (R105, R110, R227, R281, R284, R290, R303). -/

namespace Sys2Proof.Machine

/-! ### Counters of the ports alone -/

/-- `t` is `s` but for the counters of the ports. -/
def OnlyPortCounters (s t : State) : Prop := t = { s with ports := { s.ports with counters := t.ports.counters } }

section
variable {s t u : State}

theorem OnlyPortCounters.trans (h : OnlyPortCounters s t) (g : OnlyPortCounters t u) : OnlyPortCounters s u := by
  unfold OnlyPortCounters at *
  rw [h] at g
  exact g

theorem countPort_onlyCounters (p i n : Nat) (s : State) : OnlyPortCounters s (countPort p i n s) := rfl

/-- A count of one saturates at 64 bits. -/
theorem countPort_counter (p i : Nat) (s : State) :
    tgetD (48 * p + i) 0 (countPort p i 1 s).ports.counters = min (tgetD (48 * p + i) 0 s.ports.counters + 1) 18446744073709551615 :=
  tgetD_tset_same ..

theorem countPort_other {p i j n : Nat} (h : i ≠ j) (s : State) :
    tgetD (48 * p + i) 0 (countPort p j n s).ports.counters = tgetD (48 * p + i) 0 s.ports.counters :=
  tgetD_tset_other (by omega) ..

end

/-! ### The MAC stage -/

section
variable {p i : Nat} {f : RxFrame} {s : State}

/-- A frame counted by its size (R303). -/
def sizeCounted (p : Nat) (f : RxFrame) (s : State) : State :=
  match sizeCounter f.wireLen with
  | some i => countPort p i 1 s
  | none => s

theorem sizeCounted_onlyCounters (p : Nat) (f : RxFrame) (s : State) : OnlyPortCounters s (sizeCounted p f s) := by
  unfold sizeCounted
  split <;> rfl

/-- The sizes have the counters 38 to 44. -/
theorem sizeCounted_other (h : i < 38) : tgetD (48 * p + i) 0 (sizeCounted p f s).ports.counters = tgetD (48 * p + i) 0 s.ports.counters := by
  unfold sizeCounted
  split
  next j hj =>
    have hj38 : 38 ≤ j := by
      unfold sizeCounter at hj
      repeat' split at hj
      all_goals cases hj
      all_goals decide
    exact countPort_other (by omega) s
  next => rfl

/-- A good frame counted by its size, its bytes, and its destination. -/
def goodCounted (p : Nat) (f : RxFrame) (s : State) : State :=
  countPort p (rxDestCounter f.bytes) 1 (countPort p 1 1 (countPort p 0 f.wireLen (sizeCounted p f s)))

theorem goodCounted_onlyCounters (p : Nat) (f : RxFrame) (s : State) : OnlyPortCounters s (goodCounted p f s) :=
  (((sizeCounted_onlyCounters p f s).trans (countPort_onlyCounters ..)).trans (countPort_onlyCounters ..)).trans (countPort_onlyCounters ..)

theorem goodCounted_other (h4 : 4 < i) (h : i < 38) :
    tgetD (48 * p + i) 0 (goodCounted p f s).ports.counters = tgetD (48 * p + i) 0 s.ports.counters := by
  have hd : rxDestCounter f.bytes ≤ 4 := by
    unfold rxDestCounter
    split
    · decide
    · split <;> decide
  rw [goodCounted, countPort_other (by omega), countPort_other (by omega), countPort_other (by omega), sizeCounted_other h]

theorem ethernetFrameReceived_does (hg : s.power.state = .growing) (hu : portUp p s = true) (hl : looped p s = false) :
    exec (.ethernetFrameReceived p f) s = .next (rxFrame p f s) := by
  show execEthernetFrameReceived p f s = _
  simp [execEthernetFrameReceived, hg, hu, hl]

/-- The kind of a flaw depends on the settings alone. -/
theorem flawCounter_sizeCounted : flawCounter p f (sizeCounted p f s) = flawCounter p f s := by
  unfold sizeCounted
  split <;> rfl

/-- The flaws have the counters 5 to 10. -/
theorem flawCounter_lt (h : flawCounter p f s = some i) : i < 38 := by
  unfold flawCounter at h
  repeat' split at h
  all_goals cases h
  all_goals decide

/-- R281, R290: a frame that arrived whole is counted by its size, then sorted by its flaw. -/
theorem rxFrame_sorts (hr : f.reassemblyErr = false) (hs : f.smdErr = false) : rxFrame p f s =
    (flawCounter p f s).elim (goodFrame p f (sizeCounted p f s)) (fun i => flawedFrame p i f (sizeCounted p f s)) := by
  have hsort (u : State) : (match flawCounter p f u with
      | some i => flawedFrame p i f u
      | none => goodFrame p f u) = (flawCounter p f u).elim (goodFrame p f u) (fun i => flawedFrame p i f u) := by
    cases flawCounter p f u <;> rfl
  rw [rxFrame, hr, hs, if_neg Bool.false_ne_true, if_neg Bool.false_ne_true, ← flawCounter_sizeCounted]
  exact hsort (sizeCounted p f s)

/-- R290: a flawed frame that is not delivered is counted under its kind and goes. -/
theorem flawedFrame_goes (hd : deliverFlawed p s = false) : flawedFrame p i f s = countPort p i 1 s := by
  have hd' : deliverFlawed p (countPort p i 1 s) = false := hd
  simp only [flawedFrame, hd', Bool.false_and, Bool.false_eq_true, if_false]
  split <;> rfl

theorem deliverFlawed_sizeCounted : deliverFlawed p (sizeCounted p f s) = deliverFlawed p s := by
  unfold sizeCounted
  split <;> rfl

/-- MAC control and gPTP frames are counted and taken out. -/
theorem goodFrame_uncontrolled (hu : uncontrolled f.bytes = true) : goodFrame p f (sizeCounted p f s) = goodCounted p f s := by
  simp only [goodFrame, hu, if_true]
  rfl

theorem rxFilter_goodCounted (d : Bytes) : rxFilter p d (goodCounted p f s) = rxFilter p d s := by
  rw [goodCounted_onlyCounters]
  rfl

/-- R282: on a port without protected associations nothing is verified. -/
theorem verifySec_unprotected (hp : s.keys.protRx.contains p = false) : verifySec p f s = (true, s) :=
  if_pos (by rw [hp, Bool.not_false, Bool.or_true, Bool.true_or])

theorem verifySec_goodCounted (hp : s.keys.protRx.contains p = false) : verifySec p f (goodCounted p f s) = (true, goodCounted p f s) :=
  verifySec_unprotected (by rw [goodCounted_onlyCounters p f s]; exact hp)

/-- R284: a frame that the filters drop is counted. -/
theorem goodFrame_dropped (hu : uncontrolled f.bytes = false) (hp : s.keys.protRx.contains p = false) (hf : rxFilter p f.bytes s = .drop) :
    goodFrame p f (sizeCounted p f s) = countPort p 14 1 (goodCounted p f s) := by
  have hv := verifySec_goodCounted (f := f) hp
  have hf' := (rxFilter_goodCounted (f := f) f.bytes).trans hf
  unfold goodCounted at hv hf' ⊢
  simp only [goodFrame, hu, hv, hf', Bool.not_true, Bool.false_eq_true, if_false]

/-- R284: one that they pass to the switch goes to the port's Plough. -/
theorem goodFrame_switched (hu : uncontrolled f.bytes = false) (hp : s.keys.protRx.contains p = false) (he : f.parityErr = false)
    (hf : rxFilter p f.bytes s = .switch) : goodFrame p f (sizeCounted p f s) = recognise p f .switch (goodCounted p f s) := by
  have hv := verifySec_goodCounted (f := f) hp
  have hf' := (rxFilter_goodCounted (f := f) f.bytes).trans hf
  unfold goodCounted at hv hf' ⊢
  simp only [goodFrame, hu, hv, hf', he, Bool.not_true, Bool.false_eq_true, if_false]

/-- R110, R227: a frame passed to the switch is a record charged to the class of its priority. -/
theorem recognise_switch (hh : s.power.halted = false) (hb : bufferFill (.eth p) s + f.bytes.length ≤ 32768) :
    ∃ x, (ploughOf (.eth p) (recognise p f .switch s)).done = (ploughOf (.eth p) s).done ++ [x] ∧ x.bytes = f.bytes ∧
      x.cls = rxFrameClass p f.bytes s ∧ x.stamp = rxStamp p f.stamp s ∧ x.grain.map (·.kind) = some 15 ∧
      x.grain.map (·.key) = some (rxFrameKey p f.bytes s) ∧ (recognise p f .switch s).gran = s.gran := by
  have hroom : ¬ bufferSize (.eth p) < bufferFill (.eth p) s + f.bytes.length := Nat.not_lt.2 hb
  have hrec : recognise p f .switch s = frameRecord p (rxFrameClass p f.bytes s) (rxStamp p f.stamp s) false f.bytes s := rfl
  simp only [hrec, frameRecord, ethRecord, hh, hroom, Bool.false_eq_true, if_false]
  have hfill := settlePause_onlyPorts p
  refine ⟨_, by rw [(hfill _).ploughOf, finishRec_done], rfl, rfl, rfl, rfl, rfl, (hfill _).gran⟩

end

/-- Settles O31: what the MAC stage counts, and what the filters make of a good frame. -/
theorem ethernetReception : Obligations.EthernetReception := by
  intro p i f s hg hup hl
  rw [ethernetFrameReceived_does hg hup hl]
  refine ⟨fun h => ?_, fun hr hs => ?_, fun hr hs hf hd => ⟨_, rfl, ?_⟩, fun hr hs hf hu => ⟨_, rfl, ?_⟩,
    fun hr hs hf hu hp hd => ⟨_, rfl, ?_⟩, fun hr hs hf hu he hp hsw hh hb => ?_⟩
  · rw [rxFrame, if_pos h]
  · rw [rxFrame, hr, if_neg Bool.false_ne_true, if_pos hs]
  · rw [rxFrame_sorts hr hs, hf, Option.elim_some, flawedFrame_goes (deliverFlawed_sizeCounted.trans hd), countPort_counter,
      sizeCounted_other (flawCounter_lt hf)]
    exact ⟨(sizeCounted_onlyCounters p f s).trans (countPort_onlyCounters ..), rfl⟩
  · rw [rxFrame_sorts hr hs, hf, Option.elim_none, goodFrame_uncontrolled hu]
    exact goodCounted_onlyCounters p f s
  · rw [rxFrame_sorts hr hs, hf, Option.elim_none, goodFrame_dropped hu hp hd, countPort_counter, goodCounted_other (by decide) (by decide)]
    exact ⟨(goodCounted_onlyCounters p f s).trans (countPort_onlyCounters ..), rfl⟩
  · rw [rxFrame_sorts hr hs, hf, Option.elim_none, goodFrame_switched hu hp he hsw]
    have hcounted := goodCounted_onlyCounters p f s
    generalize goodCounted p f s = u at hcounted ⊢
    obtain ⟨c, rfl⟩ : ∃ c, u = { s with ports := { s.ports with counters := c } } := ⟨_, hcounted⟩
    obtain ⟨x, hx⟩ := recognise_switch (p := p) (f := f) (s := { s with ports := { s.ports with counters := c } }) hh hb
    exact ⟨_, x, rfl, hx⟩

end Sys2Proof.Machine
end

section
/-! PROOF. The commands on routes, listener sets, Sieves, rewrite profiles and Teams (R121 to R123, R132, R135, R139, R142, R144, R146,
R392 to R399). -/

namespace Sys2Proof.Machine

/-! ### What each command is -/

theorem routeAdd_item : DirectItem cmdRouteAdd := ⟨rfl, rfl, rfl, rfl, cmdRouteAdd_ok⟩
theorem routeRemove_item : DirectItem cmdRouteRemove := ⟨rfl, rfl, rfl, rfl, cmdRouteRemove_ok⟩
theorem lsetWrite_item : DirectItem cmdLsetWrite := ⟨rfl, rfl, rfl, rfl, cmdLsetWrite_ok⟩
theorem sieveSet_item : DirectItem cmdSieveSet := ⟨rfl, rfl, rfl, rfl, cmdSieveSet_ok⟩
theorem sieveClear_item : DirectItem cmdSieveClear := ⟨rfl, rfl, rfl, rfl, cmdSieveClear_ok⟩
theorem rewriteSet_item : DirectItem cmdRewriteSet := ⟨rfl, rfl, rfl, rfl, cmdRewriteSet_ok⟩
theorem teamSet_item : DirectItem cmdTeamSet := ⟨rfl, rfl, rfl, rfl, cmdTeamSet_ok⟩

section
variable {k : Cmd} {i : Instr} {op : Nat} {c : Call} {p : Plot} {s u : State}

/-- A bank item that is changed at once and answers with an inline result. -/
theorem DirectItem.answers_inline {d : Bytes} (hk : DirectItem k) (h : Heard k c p s) (ha : applies k.scope p = true) (ho : k.opcode = op)
    (he : exec i s = .next (serve k c s)) (hx : k.act c (plotArg p) (taken c s) = { inline := d, st := u }) :
    Answers i op c { inline := d } s (directNoted u) :=
  answers_bank h _ ho he (.inl ha) hk.unjournaled ⟨hk.bank, hk.direct⟩ hx rfl rfl rfl rfl rfl (answerOf_plain hk.whole)
    (h.act_canonical hk.keeps hx)

/-- A command whose work is its answer and its next state. -/
theorem answers_work {d b : Bytes} (h : Heard k c p s) (hk : CmdOk k) (ha : applies k.scope p = true) (ho : k.opcode = op)
    (he : exec i s = .next (serve k c s)) (hj : k.journaled = false) (hb : k.bank = false ∨ k.status = true)
    (hx : k.act c (plotArg p) (taken c s) = { inline := d, bulk := b, st := u }) :
    Answers i op c (answerOf k c { inline := d, bulk := b, st := u }) s u :=
  answers_ok h _ ho he (.inl ha) hj hb hx rfl rfl rfl rfl rfl (h.act_canonical hk hx)

end

/-! ### Routes -/

section
variable {c : Call} {r : Nat} {s : State}

/-- R392: an entry whose names exist is written where Eulyn places it. -/
theorem actRouteAdd_placed {q : Placed} (hn : routeNamesOk (routeImage c r) s.bank s = true)
    (hq : placeRoute s.bank.routes s.harrow.routes (callWild c) (u8 c.params 45) (routeImage c r) s.free = some q) :
    actRouteAdd c r s = { inline := addResult q.ref q.replaced
                          st := { s with free := s.free + 1, bank.routes := q.table, harrow.routes := q.rt } } := by
  simp [actRouteAdd, hn, hq, picked]

/-- R393: the named entry goes with its counters. -/
theorem actRouteRemove_found {ref : Nat} {e : Img} (hf : namedRoute c r s.bank = some (ref, e)) :
    actRouteRemove c r s =
      { inline := [1], st := { s with bank.routes := tdel ref s.bank.routes, harrow.routes := tdel ref s.harrow.routes } } := by
  simp [actRouteRemove, hf]

theorem actRouteRemove_missing (hf : namedRoute c r s.bank = none) : actRouteRemove c r s = { inline := [0], st := s } := by
  simp [actRouteRemove, hf]

/-- R394: a query answers with the entry, its reference and its counters, cleared when it asks for that. -/
theorem actRouteQuery_found {ref : Nat} {e : Img} (clear : Bool) (hf : namedRoute c r s.bank = some (ref, e)) :
    actRouteQuery clear c r s =
      { inline := fit 44 e ++ le 2 ref ++ [1], bulk := routeCounters (routeRt ref s)
        st := if clear then { s with harrow.routes := tset ref (clearRouteCounters (routeRt ref s)) s.harrow.routes } else s } := by
  simp [actRouteQuery, hf]

end

/-- Settles O14: what each route command does, on the state that has taken the command. -/
theorem routeCommands : Obligations.RouteCommands := by
  rintro c r s u rfl
  obtain ⟨g, hg⟩ := taken_eq c s
  refine ⟨fun q h hn hq => ?_, fun ref e h hf => ?_, fun h hf => ?_, fun ref e h hf => ?_, fun ref e h hf => ?_, fun h => ?_⟩
  · exact routeAdd_item.answers_inline h rfl rfl rfl (by rw [hg]; exact actRouteAdd_placed hn hq)
  · exact routeRemove_item.answers_inline h rfl rfl rfl (by rw [hg]; exact actRouteRemove_found hf)
  · exact routeRemove_item.answers_inline h rfl rfl rfl (by rw [hg]; exact actRouteRemove_missing hf)
  · exact answers_work h cmdRouteQuery_ok rfl rfl rfl rfl (.inl rfl) (by rw [hg]; exact actRouteQuery_found false hf)
  · exact answers_work h cmdRouteQueryClear_ok rfl rfl rfl rfl (.inl rfl) (by rw [hg]; exact actRouteQuery_found true hf)
  · exact answers_work h cmdRouteQueryList_ok rfl rfl rfl rfl (.inl rfl) (by rw [hg]; rfl)

/-! ### Listener sets, Sieves, rewrite profiles -/

section
variable {c : Call} {n : Nat} {s : State}

/-- R132: the copy of the set that is not in force is written and put in force, unless a grain names it. -/
theorem actLsetWrite_unnamed (hn : lsetNamed (callSet c) (!(lsetOf (callSet c) s.bank).copy) s = false) :
    cmdLsetWrite.act c n s = { st := { s with bank := lsetPut (callSet c) (callBitmap c) s.bank } } := by
  simp [cmdLsetWrite, actLsetWrite, hn]

/-- R398: a rule is stored with the settings. -/
theorem actSieveSet_stores :
    cmdSieveSet.act c n s = { st := { s with bank.sieves := tset (u8 c.params 0) (fit 48 c.params) s.bank.sieves } } :=
  directAct_staged (f := stageSieveSet) rfl

/-- R398: a rule that no route names is cleared with its hysteresis state. -/
theorem actSieveClear_unnamed (hn : sieveNamed (u8 c.params 0) s.bank = false) :
    cmdSieveClear.act c n s = { st := { s with bank.sieves := tdel (u8 c.params 0) s.bank.sieves
                                               harrow.sieveFlags := tdel (u8 c.params 0) s.harrow.sieveFlags } } := by
  simp [cmdSieveClear, directAct, stageSieveClear, hn]

/-- R399: a profile is stored with the settings. -/
theorem actRewriteSet_stores :
    cmdRewriteSet.act c n s = { st := { s with bank.rewrites := tset (u8 c.params 0) (fit 48 c.params) s.bank.rewrites } } :=
  directAct_staged (f := stageRewrite) rfl

end

/-- Settles O15: what each command stores or reads, on the state that has taken the command. -/
theorem listenerSetsSievesAndRewrites : Obligations.ListenerSetsSievesAndRewrites := by
  rintro c s u rfl
  obtain ⟨g, hg⟩ := taken_eq c s
  refine ⟨fun h hn => ⟨_, lsetWrite_item.answers h rfl rfl rfl (by rw [hg]; exact actLsetWrite_unnamed hn), ?_⟩,
    fun h => ?_, fun h => ?_, fun h hn => ?_, fun h => ?_⟩
  · rw [hg]; rfl
  · exact answers_work h cmdLsetRead_ok rfl rfl rfl rfl (.inr rfl) (by rw [hg]; rfl)
  · exact sieveSet_item.answers h rfl rfl rfl (by rw [hg]; exact actSieveSet_stores)
  · exact sieveClear_item.answers h rfl rfl rfl (by rw [hg]; exact actSieveClear_unnamed hn)
  · exact rewriteSet_item.answers h rfl rfl rfl (by rw [hg]; exact actRewriteSet_stores)

/-! ### Teams -/

section
variable {c : Call} {n : Nat} {s : State}

/-- R396: a Team that no route names goes when it has no members left. -/
theorem actTeamSet_empty (h0 : u8 c.params 1 = 0) (hn : teamNamed (u8 c.params 0) s.bank = false) :
    cmdTeamSet.act c n s = { st := { s with bank.teams := tdel (u8 c.params 0) s.bank.teams
                                            harrow.teams := tdel (u8 c.params 0) s.harrow.teams } } := by
  simp only [cmdTeamSet, directAct, stageTeam, afterTeam, h0, hn, Bool.false_eq_true, if_true, if_false]

variable (h0 : u8 c.params 1 ≠ 0)
  (hm : (teamMembers c.params).all (fun m => isTalker (tgetD m.1 [] s.bank.bind) && bankBound m.1 s.bank) = true)
include h0 hm

/-- R396: members that are talker rows make a Team's settings; its state follows them. -/
theorem actTeamSet_members :
    cmdTeamSet.act c n s =
      { st := afterTeam c n s { s with bank.teams := tset (u8 c.params 0) (fit 48 c.params) s.bank.teams } } := by
  simp only [cmdTeamSet, directAct, stageTeam, h0, hm, if_true, if_false]

/-- R142: a Team that had no members starts Vacant with every member Unheard. -/
theorem actTeamSet_fresh (ht : tget (u8 c.params 0) s.harrow.teams = none) :
    cmdTeamSet.act c n s =
      { st := { s with bank.teams := tset (u8 c.params 0) (fit 48 c.params) s.bank.teams
                       harrow.teams := tset (u8 c.params 0) (freshTeam (fit 48 c.params)) s.harrow.teams } } := by
  simp only [actTeamSet_members h0 hm, afterTeam, h0, ht, if_false]

/-- R144: a Team that has members takes the change in at its next decision. -/
theorem actTeamSet_pending {v : TeamRt} (ht : tget (u8 c.params 0) s.harrow.teams = some v) :
    cmdTeamSet.act c n s =
      { st := { s with bank.teams := tset (u8 c.params 0) (fit 48 c.params) s.bank.teams
                       harrow.teams := tset (u8 c.params 0) { v with pending := some (fit 48 c.params) } s.harrow.teams } } := by
  simp only [actTeamSet_members h0 hm, afterTeam, h0, ht, if_false]

end

/-- Settles O16: TEAM_SET stores the Team and starts or keeps its state, or takes both out; TEAM_STATE reads it. -/
theorem teamCommands : Obligations.TeamCommands := by
  rintro c s u rfl
  obtain ⟨g, hg⟩ := taken_eq c s
  refine ⟨fun h h0 hm ht => ?_, fun v h h0 hm ht => ?_, fun h h0 hn => ?_, fun h => ?_⟩
  · exact teamSet_item.answers h rfl rfl rfl (by rw [hg]; exact actTeamSet_fresh h0 hm ht)
  · exact teamSet_item.answers h rfl rfl rfl (by rw [hg]; exact actTeamSet_pending (s := { s with stw.tags := g }) h0 hm ht)
  · exact teamSet_item.answers h rfl rfl rfl (by rw [hg]; exact actTeamSet_empty h0 hn)
  · exact answers_work h cmdTeamState_ok rfl rfl rfl rfl (.inl rfl) (by rw [hg]; rfl)

end Sys2Proof.Machine
end

section
/-! PROOF. The Harrow's decision of a plain sentence (R117, R119, R148, R183, R499); the reference that stands for no route counts nothing. -/

namespace Sys2Proof.Machine

/-! ### Lookup results -/

theorem getD_fit_of_lt (b : Bytes) {n k : Nat} (h : k < n) : (fit n b).getD k 0 = b.getD k 0 := by
  rw [fit, sub_getD b 0 n k h, Nat.zero_add]

/-- Bytes read from a layout and written back at their place leave it as it is. -/
theorem patch_sub_self {i : Img} {o n : Nat} (h : o + n ≤ i.length) : patch i o (fit n (sub i o n)) = i := by
  refine List.ext_getElem (by simp [patch]; omega) fun k hk hk' => ?_
  have hget (l : Bytes) (hl : k < l.length) : l[k] = l.getD k 0 := by simp [List.getD, hl]
  rw [hget _ hk, hget _ hk']
  unfold patch
  rcases Nat.lt_or_ge k o with h1 | h1
  · rw [List.append_assoc, List.getD_append _ _ _ _ (by simpa using h1), getD_fit_of_lt i h1]
  rcases Nat.lt_or_ge k (o + n) with h2 | h2
  · rw [List.getD_append _ _ _ _ (by simpa using h2), List.getD_append_right _ _ _ _ (by simpa using h1), fit_length,
      getD_fit_of_lt _ (by omega), sub_getD i o n _ (by omega), Nat.add_sub_cancel' h1]
  · rw [List.getD_append_right _ _ _ _ (by simpa using h2)]
    simp only [List.length_append, fit_length]
    simp [List.getD, Nat.add_sub_cancel' h2]

/-- An entry's result leads back to the entry (R149). -/
theorem routeAt_resultOf {b : Bank} {ref : Nat} {e : Img} (h : tget ref b.routes = some e) (hl : e.length = 48) :
    routeAt (resultOf (some (ref, e))) b = some (ref, e) := by
  simp [routeAt, resultOf, h, patch_sub_self (i := e) (o := 16) (n := 28) (by omega)]

theorem ule_sub (i : Img) (o n k w : Nat) (h : k + w ≤ n) : ule (sub i o n) k w = ule i (o + k) w := by
  induction w generalizing k with
  | zero => rfl
  | succ w ih => rw [ule, ule, u8, u8, sub_getD i o n k (by omega), ih (k + 1) (by omega), Nat.add_assoc]

/-- A result shows the class of its entry. -/
theorem beaconResult_of_class {ref : Nat} {e : Img} (h : reClass e ≠ 0) : beaconResult (resultOf (some (ref, e))) = false := by
  have hc : fld (sub e 16 28) 6 0 2 = reClass e := by simp only [fld, reClass, ule_sub e 16 28 6 8 (by decide)]
  simp [beaconResult, resultOf, hc, h]

/-- Engines that agree on a result that is no Beacon route, or are not asked, give the lookup's result. -/
theorem decideSentence_found {g : Grain} {l : List LookupResult} {s : State} {ref : Nat} {e : Img}
    (hf : lookup g s.bank = some (ref, e)) (he : tget ref s.bank.routes = some e) (hlen : e.length = 48) (hc : reClass e ≠ 0)
    (hl : l = [] ∨ g.ingress ≠ 0 ∧ l.getD 0 (resultOf (lookup g s.bank)) = resultOf (lookup g s.bank)) :
    decideSentence g l s = decideRoute g ref e false s := by
  have ha : l.getD 0 (resultOf (some (ref, e))) = resultOf (some (ref, e)) := by
    rcases hl with rfl | ⟨-, hl⟩
    · rfl
    · rwa [hf] at hl
  have hcmp : (if g.ingress == 0 || beaconResult (resultOf (some (ref, e))) then beaconCompare l (resultOf (some (ref, e))) s
      else ⟨some (resultOf (some (ref, e))), false, s⟩) = (⟨some (resultOf (some (ref, e))), false, s⟩ : Compared) := by
    rcases hl with rfl | ⟨hi, -⟩
    · simp [beaconCompare]
    · simp [hi, beaconResult_of_class hc]
  simp only [decideSentence, hf, ha, hcmp, routeAt_resultOf he hlen]

/-! ### The stages a plain sentence passes -/

/-- R138: with no rule selected every sentence passes the Sieves. -/
theorem sieveStage_noRules {e : Img} (lf : Bool) (d : Bytes) (s : State) (h : reSieves e = 0) : sieveStage e lf d s = (.pass, s) := by
  have hl : sieveRules (reSieves e) lf d s.bank = [] := by simp [sieveRules, h]
  cases ha : reAny e <;> simp [sieveStage, hl, combine, ha]

theorem thin_none {e : Img} (stamp : Nat) (v : RouteRt) (h : reThinMode e = 0) : thin e stamp v = (true, v) := by simp [thin, h]

/-- Without rules a zone step adds the grain's own zone, where that is open to itself. -/
theorem zoneStep_noRules {g : Grain} {f : Bytes} {zi : Nat} {s : State} (h : s.bank.rules = []) (hw : s.bank.within.getLsbD zi = true)
    (m : BitVec 8) (z : Nat) :
    zoneStep g f zi { mask := m, st := s } z = { mask := if z = zi then m ||| bitAt 8 z else m, st := s } := by
  by_cases hz : z = zi
  · subst hz; simp [zoneStep, findRule, h, hw]
  · simp [zoneStep, findRule, h, hz]

theorem foldl_zoneStep_noRules {g : Grain} {f : Bytes} {zi : Nat} {s : State} (h : s.bank.rules = [])
    (hw : s.bank.within.getLsbD zi = true) (l : List Nat) (m : BitVec 8) :
    l.foldl (zoneStep g f zi) { mask := m, st := s } =
      { mask := l.foldl (fun m z => if z = zi then m ||| bitAt 8 z else m) m, st := s } := by
  induction l generalizing m with
  | nil => rfl
  | cons z l ih => rw [List.foldl_cons, zoneStep_noRules h hw, ih, List.foldl_cons]

/-- R499: without rules a grain may go to its own zone, where that is open to itself. -/
theorem hedgerow_noRules {g : Grain} {s : State} (h : s.bank.rules = []) (hz : ingressZone g s < 8)
    (hw : s.bank.within.getLsbD (ingressZone g s) = true) : hedgerow g s = { mask := bitAt 8 (ingressZone g s), st := s } := by
  have hbit : ∀ zi < 8, (List.range 8).foldl (fun m z => if z = zi then m ||| bitAt 8 z else m) (0 : BitVec 8) = bitAt 8 zi := by decide
  have hfold := foldl_zoneStep_noRules (g := g) (f := if g.kind = 15 then payload g.cell g.len s else []) h hw (List.range 8) 0
  rw [hbit _ hz] at hfold
  exact hfold

theorem bitAt_ne_zero {z : Nat} (h : z < 8) : bitAt 8 z ≠ 0 := by
  have hall : ∀ z < 8, bitAt 8 z ≠ 0 := by decide
  exact hall z h

/-- R530: a hand-off that names no unit, or whose unit's queue has room, keeps its unit. -/
theorem queueUnit_room {h : HandOff} {s : State} (hu : h.tally / 32 % 2 = 0 ∨ unitWaiting (h.tally % 32) s < 8) : queueUnit h s = (h, s) := by
  unfold queueUnit routeUnit
  rcases hu with hu | hu
  · simp [hu]
  · grind

/-- The route counters `t` after a decision counted by `f`: none is kept under the reference for no route. -/
def countedRoutes (ref : Nat) (f : RouteRt → RouteRt) (t : Tbl RouteRt) : Tbl RouteRt := if ref = noRoute then t else tmod ref {} f t

theorem countRoute_eq (ref : Nat) (f : RouteRt → RouteRt) (s : State) :
    countRoute ref f s = { s with harrow.routes := countedRoutes ref f s.harrow.routes } := by
  unfold countRoute countedRoutes
  split <;> rfl

theorem tgetD_countedRoutes (ref : Nat) (f : RouteRt → RouteRt) (t : Tbl RouteRt) :
    tgetD ref {} (countedRoutes ref f t) = if ref = noRoute then tgetD ref {} t else f (tgetD ref {} t) := by
  unfold countedRoutes
  split
  · rfl
  · exact tgetD_tset_same ..

def countHit (v : RouteRt) : RouteRt := { v with hits := v.hits + 1 }
def countPassed (v : RouteRt) : RouteRt := { v with passed := v.passed + 1 }

/-- `t` is `s` with the grain `h` waiting in its class for the Drill, its cells charged to that class, and the route counters `r`. -/
def HandsOff (h : HandOff) (r : Tbl RouteRt) (s t : State) : Prop :=
  ∃ cells, t = { s with gran.cells := cells, harrow.routes := r
                        harrow.handoff := tset h.grain.cls (handoffOf h.grain.cls s ++ [h]) s.harrow.handoff }

/-- R117: a grain that the Hedgerow lets into its own zone, not too far ahead, enters a hand-off that has room. -/
theorem handOff_room {g : Grain} {h : HandOff} {s : State} (hr : s.bank.rules = []) (hz : ingressZone g s < 8)
    (hw : s.bank.within.getLsbD (ingressZone g s) = true) (hroom : handoffRoom g.cls s = true)
    (hu : h.tally / 32 % 2 = 0 ∨ unitWaiting (h.tally % 32) s < 8) :
    ∃ t, handOff false g h s = some t ∧
      HandsOff { h with grain := g, permit := bitAt 8 (ingressZone g s) } (countedRoutes h.route countPassed s.harrow.routes) s t := by
  have hq (cells : Tbl Cell) (r : Tbl RouteRt) :
      queueUnit h { s with gran.cells := cells, harrow.routes := r } = (h, { s with gran.cells := cells, harrow.routes := r }) :=
    queueUnit_room hu
  unfold handOff
  rw [hedgerow_noRules hr hz hw]
  simp only [Bool.false_and, Bool.false_eq_true, if_false, bitAt_ne_zero hz, hroom, Bool.not_true, countRoute_eq]
  split
  · rw [hq s.gran.cells]
    exact ⟨_, rfl, s.gran.cells, rfl⟩
  · unfold moveCharge
    rw [hq]
    exact ⟨_, rfl, _, rfl⟩

/-! ### A plain sentence under a plain route -/

/-- The grain finds the route `ref` with the entry `e` of class Tell or Bulk, which names no Sieve, Team or Thinning; it may go to its own
zone; its release time is not too far ahead, and its unit has room. -/
structure PlainRoute (g : Grain) (ref : Nat) (e : Img) (s : State) : Prop where
  found : lookup g s.bank = some (ref, e)
  entry : tget ref s.bank.routes = some e
  size : e.length = 48
  late : 2 ≤ reClass e
  sieves : reSieves e = 0
  team : reTeam e = none
  thinning : reThinMode e = 0
  rules : s.bank.rules = []
  zone : ingressZone g s < 8
  within : s.bank.within.getLsbD (ingressZone g s) = true
  near : releaseOf e g.stamp s ≤ nowNs s + farLimit
  unit : u8 e 38 / 32 % 2 = 0 ∨ unitWaiting (u8 e 38 % 32) s < 8

/-- The grain as the Harrow hands it off under the entry: set, class and release time of the route (R148, R183). -/
def routedGrain (g : Grain) (ref : Nat) (e : Img) (s : State) : HandOff :=
  { grain := { g with cls := reClass e, release := releaseField (releaseOf e g.stamp s), lset := reSet e }, route := ref
    copy := (lsetOf (reSet e) s.bank).copy, due := false, permit := bitAt 8 (ingressZone g s), rewrite := u8 e 37, tally := u8 e 38 }

section
variable {g : Grain} {ref : Nat} {e : Img} {s : State}

/-- The release time is that of the entry and the clock, whatever the route counters hold. -/
theorem releaseOf_routes (e : Img) (stamp : Nat) (r : Tbl RouteRt) (s : State) :
    releaseOf e stamp { s with harrow.routes := r } = releaseOf e stamp s := rfl

theorem PlainRoute.decidePassed_eq (h : PlainRoute g ref e s) (hrem : g.remote = false) :
    decidePassed g ref e false s = handOff false (routedGrain g ref e s).grain { routedGrain g ref e s with permit := 0 }
      { s with harrow.routes := tset ref (routeRt ref s) s.harrow.routes } := by
  have hfar (r : Tbl RouteRt) : decide (nowNs { s with harrow.routes := r } + farLimit < releaseOf e g.stamp s) = false :=
    decide_eq_false (Nat.not_lt.2 h.near)
  unfold decidePassed routedGrain
  simp only [hrem, thin_none _ _ h.thinning, ite_self, Bool.not_true, Bool.false_eq_true, if_false, Bool.not_false,
    Bool.true_and, releaseOf_routes, hfar]

theorem PlainRoute.decidePassed (h : PlainRoute g ref e s) (hrem : g.remote = false) (hroom : handoffRoom (reClass e) s = true) :
    ∃ t, decidePassed g ref e false s = some t ∧
      HandsOff (routedGrain g ref e s) (countedRoutes ref countPassed (tset ref (routeRt ref s) s.harrow.routes)) s t := by
  rw [h.decidePassed_eq hrem]
  exact handOff_room (g := (routedGrain g ref e s).grain) (h := { routedGrain g ref e s with permit := 0 })
    (s := { s with harrow.routes := tset ref (routeRt ref s) s.harrow.routes }) h.rules h.zone h.within hroom h.unit

/-- What makes a route plain does not hang on the route counters. -/
theorem PlainRoute.routes (h : PlainRoute g ref e s) (r : Tbl RouteRt) : PlainRoute g ref e { s with harrow.routes := r } :=
  ⟨h.found, h.entry, h.size, h.late, h.sieves, h.team, h.thinning, h.rules, h.zone, h.within, h.near, h.unit⟩

theorem PlainRoute.decideRoute (h : PlainRoute g ref e s) (hrem : g.remote = false) (hroom : handoffRoom (reClass e) s = true) :
    ∃ t r, decideRoute g ref e false s = some t ∧ HandsOff (routedGrain g ref e s) r s t ∧
      tgetD ref {} r = if ref = noRoute then routeRt ref s else countPassed (countHit (routeRt ref s)) := by
  have hc : ¬ reClass e ≤ 1 := by have := h.late; omega
  obtain ⟨t, ht, cells, hoff⟩ := (h.routes (countedRoutes ref countHit s.harrow.routes)).decidePassed hrem hroom
  refine ⟨t, _, ?_, ⟨cells, hoff⟩, ?_⟩
  · rw [← ht]
    simp only [Machine.decideRoute, hrem, hc, false_and, Bool.false_eq_true, if_false, sieveStage_noRules _ _ _ h.sieves, h.team, if_true,
      countRoute_eq]
    rfl
  · by_cases hn : ref = noRoute <;> simp [tgetD_countedRoutes, routeRt, hn]

end

/-! ### The front of a crossing -/

/-- A Plough's crossing when its front grain has left it. -/
def frontTaken (p : PloughId) (rest : List Grain) (s : State) : State := setPlough p { ploughOf p s with crossing := rest } s

/-- A lane takes the front grain when it can decide it, and no Beacon grain waits elsewhere (R17, R25). -/
theorem harrowDecision_front {p : PloughId} {g : Grain} {rest : List Grain} {l : List LookupResult} {s t : State}
    (hx : (ploughOf p s).crossing = g :: rest) (hready : harrowReady p s = true) (hb : g.ingress = 0 ∨ beaconWaits s = false)
    (hd : decideGrain g l (frontTaken p rest s) = some t) : exec (.harrowDecision p l) s = .next t := by
  have hgo : (!harrowReady p s || (!beaconFirst s [] (g :: rest) && beaconWaits s)) = false := by
    rcases hb with hb | hb <;> simp [hready, beaconFirst, hb]
  have hfirst : decideFirst p l s [] (g :: rest) = some t := by
    rw [frontTaken] at hd
    simp [decideFirst, hd]
  show execHarrowDecision p l s = _
  simp only [execHarrowDecision, hx, hgo, hfirst, Bool.false_eq_true, if_false, Option.getD_some]

/-- R117, R119, R148: a plain sentence at the front of a crossing enters the hand-off of its class under its route, counted as hit and
passed; under the reference for no route nothing is counted. -/
theorem harrowDecision_handsOff {p : PloughId} {g : Grain} {rest : List Grain} {l : List LookupResult} {ref : Nat} {e : Img} {s : State}
    (hx : (ploughOf p s).crossing = g :: rest) (hready : harrowReady p s = true) (hb : g.ingress = 0 ∨ beaconWaits s = false)
    (ht : g.tallyDrop = false) (hk : g.kind ≠ 15) (hv : g.void = false) (hrem : g.remote = false)
    (hl : l = [] ∨ g.ingress ≠ 0 ∧ l.getD 0 (resultOf (lookup g s.bank)) = resultOf (lookup g s.bank))
    (h : PlainRoute g ref e s) (hroom : handoffRoom (reClass e) s = true) :
    ∃ t r, exec (.harrowDecision p l) s = .next t ∧ HandsOff (routedGrain g ref e s) r (frontTaken p rest s) t ∧
      tgetD ref {} r = if ref = noRoute then routeRt ref s else countPassed (countHit (routeRt ref s)) := by
  have hc : reClass e ≠ 0 := by have := h.late; omega
  have hp : PlainRoute g ref e (frontTaken p rest s) :=
    ⟨h.found, h.entry, h.size, h.late, h.sieves, h.team, h.thinning, h.rules, h.zone, h.within, h.near, h.unit⟩
  obtain ⟨t, r, hd, hoff⟩ := hp.decideRoute hrem hroom
  refine ⟨t, r, harrowDecision_front hx hready hb ?_, hoff⟩
  rw [← hd, ← decideSentence_found hp.found hp.entry hp.size hc hl]
  simp [decideGrain, ht, hk, hv]

/-! ### A route under the reference for no route -/

/-- A sentence of UART 15, and an entry of class Bulk that leaves every other field zero: without a mask it matches every sentence. -/
def plainGrain : Grain := { key := 7, stamp := 100, row := 255, len := 3, kind := 5, ingress := 2 }
def openEntry : Img := patch (fit 48 []) 22 [3]

/-- The sentence at the front of its Plough's crossing, with the entry kept under the reference for no route. -/
def strayRoutePart : State :=
  { power := { state := .growing }, ploughs := [(ploughKey (.uart 15), { crossing := [plainGrain] })]
    bank := { bind := [(255, [2, 1, 15])], routes := [(noRoute, openEntry)] } }

theorem openEntry_plain : PlainRoute plainGrain noRoute openEntry strayRoutePart := by
  constructor <;> decide +kernel

/-- Refutes O34: its clause for a sentence handed off has no premise that the entry's reference is not 3FFFh, which stands for no route
(R148) and under which nothing is counted. In `strayRoutePart` the entry found stands there, and no hit is counted;
`harrowDecision_handsOff` is the clause for every reference. -/
theorem not_harrowAndTeams : ¬ Obligations.HarrowAndTeams := by
  rintro ⟨h, -⟩
  have hp := openEntry_plain
  have hready : harrowReady (.uart 15) strayRoutePart = true := by decide +kernel
  have hbeacon : beaconWaits strayRoutePart = false := by decide +kernel
  have hroom : handoffRoom 3 strayRoutePart = true := by decide +kernel
  obtain ⟨u, r, hu, ⟨_, rfl⟩, hr⟩ := harrowDecision_handsOff (p := .uart 15) (rest := []) (l := []) rfl hready (.inr hbeacon) rfl (by decide)
    rfl rfl (.inl rfl) hp hroom
  obtain ⟨-, hclauses⟩ := h (.uart 15) plainGrain [] [] noRoute 3 openEntry strayRoutePart rfl hready
  obtain ⟨hsentence, -⟩ := hclauses rfl (.inr hbeacon)
  obtain ⟨hoff, -⟩ := hsentence (by decide) rfl rfl (.inl rfl) hp.found hp.entry hp.size hp.unit (by decide) (by decide) hp.sieves hp.team
    hp.thinning hp.rules hp.zone hp.within hp.near
  obtain ⟨t, _, ht, -, -, -, -, -, -, -, -, -, hhits, -⟩ := hoff hroom
  rw [hu] at ht
  cases ht
  rw [routeRt, hr, if_pos rfl] at hhits
  omega

end Sys2Proof.Machine
end

section
/-! PROOF. What the reset leaves, and the idle cycle of the Almanac clock (R154, R155, R246). -/

namespace Sys2Proof.Machine

/-! ### The reset -/

/-- Settles O6: each value is read off the reset state. That an unwritten byte of the staging buffer reads 0 is log 6, not a rule. -/
theorem resetValues : Obligations.ResetValues := by
  refine ⟨rfl, rfl, rfl, rfl, rfl, rfl, rfl, rfl, rfl, fun _ => rfl, rfl, rfl, rfl, rfl, rfl, fun _ _ => rfl, fun _ _ => rfl, rfl, rfl, rfl,
    fun _ => rfl⟩

/-! ### The idle cycle -/

/-- The clock as one count of 2⁻³² ns. -/
def Almanac.units (a : Almanac) : Nat := (a.sec * 1000000000 + a.ns) * 4294967296 + a.frac

/-- R154, R155: the clock advances by the increment, modulo 2⁴⁸ seconds. -/
theorem advance_units (a : Almanac) (inc : Nat) :
    (a.advance inc).units = (a.units + inc) % (281474976710656 * 1000000000 * 4294967296) := by
  simp only [Almanac.units, Almanac.advance]
  omega

theorem advance_bounds (a : Almanac) (inc : Nat) : (a.advance inc).ns < 1000000000 ∧ (a.advance inc).frac < 4294967296 :=
  ⟨Nat.mod_lt _ (by decide), Nat.mod_lt _ (by decide)⟩

theorem tick_running {s : State} (h : clockRuns s = true) :
    (tick s).alm = s.alm.advance s.alm.inc ∧ (tick s).power.upNs = s.power.upNs + 4 := by
  have hc (n : Nat) : clockRuns { s with power.coarse := n } = true := h
  unfold tick
  cases coarseRuns s <;> simp [h, hc]

theorem tick_stopped {s : State} (h : clockRuns s = false) : (tick s).alm = s.alm ∧ (tick s).power.upNs = s.power.upNs := by
  have hc (n : Nat) : clockRuns { s with power.coarse := n } = false := h
  unfold tick
  cases coarseRuns s <;> simp [h, hc]

/-- A cycle of the clock moves its seconds, nanoseconds and fraction only. -/
theorem tick_alm (s : State) :
    (tick s).alm = { s.alm with sec := (tick s).alm.sec, ns := (tick s).alm.ns, frac := (tick s).alm.frac } := by
  cases h : clockRuns s
  · rw [(tick_stopped h).1]
  · rw [(tick_running h).1]; rfl

theorem getLsbD_ofBits_range {n k : Nat} (f : Nat → Bool) (h : k < n) :
    (BitVec.ofNat n (ofBits ((List.range n).map f))).getLsbD k = f k := by
  rw [BitVec.getLsbD_ofNat, testBit_ofBits]
  simp [h]

/-- R246: driving the pins gives each output its level, and changes nothing else. -/
theorem drivePins_does (s : State) :
    ∃ o, drivePins s = { s with buses.pins.outputs := o } ∧ ∀ k, k < 40 → o.getLsbD k = pinLevel s k :=
  ⟨BitVec.ofNat 40 _, rfl, fun _ h => getLsbD_ofBits_range _ h⟩

/-- Settles O3: the idle cycle is `tick`, whose clock advances as one count, and the pins driven after it. That nothing waiting means a
cycle of the clock is log 16. -/
theorem idleStepIsOneClockCycle : Obligations.IdleStepIsOneClockCycle := by
  intro s hq _ _ _
  obtain ⟨o, hdrive, hlevel⟩ := drivePins_does (tick s)
  have hstep : step s = .next { tick s with buses.pins.outputs := o } := by rw [step, hq, ← hdrive]; rfl
  refine ⟨_, hstep, ?_, hlevel, fun hr => ?_, fun hr => tick_stopped hr⟩
  · have hframe := tick_frame s
    have halm := tick_alm s
    generalize tick s = t at hframe halm ⊢
    dsimp only
    rw [← halm, hframe]
  · obtain ⟨halm, hup⟩ := tick_running hr
    obtain ⟨hns, hfrac⟩ := advance_bounds s.alm s.alm.inc
    have hunits := advance_units s.alm s.alm.inc
    rw [← halm] at hns hfrac hunits
    exact ⟨hup, hns, hfrac, hunits⟩

end Sys2Proof.Machine
end

section
/-! PROOF. PPS in and out, alarms and capture pins (R157, R164, R177 to R179, R273, R442). -/

namespace Sys2Proof.Machine

/-! ### PPS -/

/-- The part as a PPS_IN edge leaves it before its event: the uptime of the edge kept, an armed snapshot latched (R157, R177). -/
def ppsNoted (s : State) : State :=
  if s.hold.snap.armPps then takeSnapshot { s with alm.lastPps := some s.power.upNs } else { s with alm.lastPps := some s.power.upNs }

theorem growing_of {s : State} (h : s.power.state = .growing) : growing s = true := by simp [growing, h]

section
variable {x y : Nat} {s : State}

theorem ppsNoted_alm (s : State) : (ppsNoted s).alm = { s.alm with lastPps := some s.power.upNs } := by
  unfold ppsNoted
  split <;> rfl

/-- R323: an armed snapshot takes the working clock and the time state. -/
theorem ppsNoted_armed (h : s.hold.snap.armPps = true) : (ppsNoted s).hold.snap =
    { armPps := false, captured := true, state := s.alm.state.code, sec := s.alm.sec, ns := s.alm.ns, frac := s.alm.frac } := by
  simp [ppsNoted, h, takeSnapshot]

theorem servoSource_raise_ppsNoted (n o : Nat) (s : State) : servoSource (raise n o (ppsNoted s)) = servoSource s := by
  rw [raise_frame, ppsNoted]
  split <;> rfl

theorem ppsOffset_raise_ppsNoted (n o x : Nat) (s : State) : ppsOffset x (raise n o (ppsNoted s)) = ppsOffset x s := by
  rw [raise_frame, ppsNoted]
  split <;> rfl

/-- R177: an edge at least 500 ms after the last raises event 43 and is measured when PPS_IN is the source (R164). -/
theorem ppsIn_edge (hg : s.power.state = .growing) (hl : ∀ z, s.alm.lastPps = some z → z + 500000000 ≤ s.power.upNs) :
    exec (.ppsIn x) s = .next (ppsTimeSets (if servoSource s = 1
      then takeOffset (ppsOffset x s) 1 (raise 43 noObject (ppsNoted s)) else raise 43 noObject (ppsNoted s))) := by
  show execPpsIn x s = _
  rw [← servoSource_raise_ppsNoted 43 noObject s, ← ppsOffset_raise_ppsNoted 43 noObject x s]
  cases hz : s.alm.lastPps with
  | none => simp [execPpsIn, growing_of hg, hz, ppsNoted]
  | some z =>
    have := Nat.not_lt.2 (hl z hz)
    simp [execPpsIn, growing_of hg, hz, this, ppsNoted]

/-- R177, log 25: an edge less than 500 ms after the last counts as a glitch and does no more. -/
theorem ppsIn_glitch (hg : s.power.state = .growing) (hy : s.alm.lastPps = some y) (hl : s.power.upNs < y + 500000000) :
    exec (.ppsIn x) s = .next (ppsTimeSets { ppsNoted s with alm.ppsGlitches := s.alm.ppsGlitches + 1 }) := by
  have hcount : s.alm.ppsGlitches = (ppsNoted s).alm.ppsGlitches := by rw [ppsNoted_alm]
  show execPpsIn x s = _
  rw [hcount]
  simp [execPpsIn, growing_of hg, hy, hl, ppsNoted]

/-- R178, R179: PPS_OUT stays low while it may not pulse, or an alarm pulses in the second. -/
theorem ppsOut_silent (h : ppsOn s = false ∨ alarmPulses s = true) : exec .ppsOut s = .next s := by
  show execPpsOut s = _
  rcases h with h | h <;> simp [execPpsOut, h]

theorem ppsOut_pulses (hg : s.power.state = .growing) (ho : ppsOn s = true) (ha : alarmPulses s = false) :
    exec .ppsOut s = .next (drivePins { s with alm.ppsUntil := some (s.power.upNs + u32 (timeCfg s) 12)
                                               wire := .pps (u32 (timeCfg s) 12) :: s.wire }) := by
  show execPpsOut s = _
  simp [execPpsOut, growing_of hg, ho, ha, emit]

theorem ppsOn_congr {s t : State} (ha : t.alm.state = s.alm.state) (hc : t.timeCfg = s.timeCfg) : ppsOn t = ppsOn s := by
  simp only [ppsOn, synced, timeCfg, ha, hc]

end

/-! ### Alarms -/

theorem nextAlarm_img (v : Alarm) (t : Nat) : (nextAlarm v t).img = v.img := by simp only [nextAlarm]

/-- R179: an alarm with an instant fires and takes its next. -/
theorem timeAlarm_fires {n y : Nat} {v : Alarm} {s : State} (hv : tget n s.alm.alarms = some v) (hn : v.next = some y) :
    exec (.timeAlarm n) s = .next (fireAlarm n { s with alm.alarms := tset n (nextAlarm v y) s.alm.alarms }) := by
  show execTimeAlarm n s = _
  simp [execTimeAlarm, setAlarm, hv, hn]

section
variable {n : Nat} {v : Alarm} {i : Img} {u : State} (hv : tget n u.alm.alarms = some v) (hi : v.img = i)
include hv hi

theorem fireAlarm_event (ha : u8 i 2 = 1) : fireAlarm n u = drivePins (raise 44 n u) := by
  simp [fireAlarm, hv, hi, ha, Nat.testBit_eq_decide_div_mod_eq]

theorem fireAlarm_ppsOff (ha : u8 i 2 = 2) (ho : ppsOn u = false) : fireAlarm n u = drivePins u := by
  simp [fireAlarm, hv, hi, ha, Nat.testBit_eq_decide_div_mod_eq, ho]

theorem fireAlarm_ppsOn (ha : u8 i 2 = 2) (ho : ppsOn u = true) : fireAlarm n u =
    drivePins { u with alm.ppsUntil := some (u.power.upNs + u32 i 4), wire := .pps (u32 i 4) :: u.wire } := by
  simp [fireAlarm, hv, hi, ha, Nat.testBit_eq_decide_div_mod_eq, ho, emit]

theorem fireAlarm_pulse (ha : u8 i 2 = 4) (hp : u8 u.bank.pins (u8 i 3) = 4) : fireAlarm n u =
    drivePins { u with buses.pins.pulses := tset (u8 i 3) (u.power.upNs + u32 i 4) u.buses.pins.pulses
                       wire := .gpioPulse (u8 i 3) (u32 i 4) :: u.wire } := by
  simp [fireAlarm, hv, hi, ha, Nat.testBit_eq_decide_div_mod_eq, hp, emit]

theorem fireAlarm_noPin (ha : u8 i 2 = 4 ∨ u8 i 2 = 8) (hp : u8 u.bank.pins (u8 i 3) ≠ 4) : fireAlarm n u = drivePins u := by
  rcases ha with ha | ha <;> simp [fireAlarm, hv, hi, ha, Nat.testBit_eq_decide_div_mod_eq, hp]

theorem fireAlarm_toggle (ha : u8 i 2 = 8) (hp : u8 u.bank.pins (u8 i 3) = 4) : fireAlarm n u =
    drivePins { u with buses.pins.toggles := u.buses.pins.toggles ^^^ bitAt 40 (u8 i 3)
                       wire := .gpio (u8 i 3) ((u.buses.pins.toggles ^^^ bitAt 40 (u8 i 3)).getLsbD (u8 i 3)) :: u.wire } := by
  simp [fireAlarm, hv, hi, ha, Nat.testBit_eq_decide_div_mod_eq, hp, emit]

end

/-! ### Captures -/

section
variable {pin x : Nat} {up : Bool} {s : State} (hg : s.power.state = .growing) (hp : u8 s.bank.pins pin = 3)
  (he : capturesEdge pin up s.bank = true)
include hg hp he

/-- R442: an edge is stamped behind those of its pin, marked when edges before it were lost. -/
theorem timeCapture_stamps (hl : (tgetD pin [] s.buses.pins.captures).length < 4) : exec (.timeCapture pin up x) s = .next { s with
    buses.pins.captures := tset pin (tgetD pin [] s.buses.pins.captures ++ [(x, up, s.buses.pins.capLost.contains pin)]) s.buses.pins.captures
    buses.pins.capLost := s.buses.pins.capLost.filter (· != pin) } := by
  show execTimeCapture pin up x s = _
  simp [execTimeCapture, growing_of hg, hp, he, Nat.not_le.2 hl]

theorem timeCapture_loses (hl : 4 ≤ (tgetD pin [] s.buses.pins.captures).length) :
    exec (.timeCapture pin up x) s = .next { s with buses.pins.capLost := insertNat pin s.buses.pins.capLost } := by
  show execTimeCapture pin up x s = _
  simp [execTimeCapture, growing_of hg, hp, he, hl]

end

/-- Settles O37: an edge of PPS_IN (a glitch by log 25), the second pulse (which an alarm's takes the place of, log 108), the actions of
an alarm and the capture FIFO. -/
theorem ppsAlarmsAndCaptures : Obligations.PpsAlarmsAndCaptures := by
  intro x n pin up v y s u
  refine ⟨fun hg hu => ?_, ppsOut_silent, ppsOut_pulses, fun hv hn hu => ?_, fun hg hp he hl => ?_, timeCapture_loses⟩
  · change u = ppsNoted s at hu
    subst hu
    refine ⟨ppsNoted_alm s, ppsNoted_armed, fun hl hs => ?_, fun hl hs => ?_, fun hy hl => ppsIn_glitch hg hy hl⟩
    · rw [ppsIn_edge hg hl, if_neg hs]
    · rw [ppsIn_edge hg hl, if_pos hs]
  · have hv' : tget n u.alm.alarms = some (nextAlarm v y) := by rw [hu]; exact tget_tset_same ..
    have hi := nextAlarm_img v y
    have hon : ppsOn u = ppsOn s := ppsOn_congr (by rw [hu]) (by rw [hu])
    have hpins : u.bank = s.bank := by rw [hu]
    have hfire : exec (.timeAlarm n) s = .next (fireAlarm n u) := by rw [hu]; exact timeAlarm_fires hv hn
    have hup : u.power = s.power := by rw [hu]
    have hbuses : u.buses = s.buses := by rw [hu]
    have hwire : u.wire = s.wire := by rw [hu]
    clear hu
    rw [hfire, ← hon, ← hpins, ← hup, ← hbuses, ← hwire]
    refine ⟨rfl, fun ha => ?_, fun ha ho => ?_, fun ha ho => ?_, fun ha hp => ?_, fun ha hp => ?_, fun ha hp => ?_⟩
    · rw [fireAlarm_event hv' hi ha]
    · rw [fireAlarm_ppsOff hv' hi ha ho]
    · rw [fireAlarm_ppsOn hv' hi ha ho]
    · rw [fireAlarm_pulse hv' hi ha hp]
    · rw [fireAlarm_noPin hv' hi ha hp]
    · rw [fireAlarm_toggle hv' hi ha hp]
  · exact ⟨_, timeCapture_stamps hg hp he hl, by simp, by simp⟩

end Sys2Proof.Machine
end

section
/-! PROOF. The time commands (R155, R158, R159, R166, R173, R174, R179, R181, R411 to R417), with what entering a time state and stepping
the clock leave alone. -/

namespace Sys2Proof.Machine

/-! ### Entering a time state -/

@[simp] theorem raise_alm (n o : Nat) (s : State) : (raise n o s).alm = s.alm := by rw [raise_frame]

/-- `t` is `s` with a time state entered and the frequency held or let go, and with the events of that raised. -/
structure TimeMoved (s t : State) : Prop where
  rest : t = { s with ev := t.ev, wire := t.wire, hold := { s.hold with pme := t.hold.pme }, alm := t.alm }
  alm : t.alm = { s.alm with
    state := t.alm.state, lockLog := t.alm.lockLog, lockRun := t.alm.lockRun, outlierRun := t.alm.outlierRun
    budgetExpired := t.alm.budgetExpired, frozen := t.alm.frozen, a := t.alm.a, inc := t.alm.inc }
  pending : ∀ k, s.ev.pending.getLsbD k = true → t.ev.pending.getLsbD k = true

section
variable {s t u : State}

theorem TimeMoved.refl (s : State) : TimeMoved s s := ⟨rfl, rfl, fun _ h => h⟩

theorem TimeMoved.trans (h : TimeMoved s t) (g : TimeMoved t u) : TimeMoved s u where
  rest := g.rest.trans (by rw [h.rest])
  alm := g.alm.trans (by rw [h.alm])
  pending k hk := g.pending k (h.pending k hk)

theorem TimeMoved.servo (h : TimeMoved s t) : t.servo = s.servo := by rw [h.rest]
theorem TimeMoved.timeCfg (h : TimeMoved s t) : t.timeCfg = s.timeCfg := by rw [h.rest]
theorem TimeMoved.bank (h : TimeMoved s t) : t.bank = s.bank := by rw [h.rest]
theorem TimeMoved.i (h : TimeMoved s t) : t.alm.i = s.alm.i := by rw [h.alm]
theorem TimeMoved.ports (h : TimeMoved s t) : t.alm.ports = s.alm.ports := by rw [h.alm]

theorem TimeMoved.nowNs (h : TimeMoved s t) : nowNs t = nowNs s := by
  unfold Machine.nowNs
  rw [h.alm]

theorem TimeMoved.gport (h : TimeMoved s t) (p : Nat) : gport p t = gport p s := by rw [Machine.gport, h.ports, Machine.gport]

end

section
variable (s : State)

theorem raise_moved (n o : Nat) : TimeMoved s (raise n o s) where
  rest := by
    rw [raise_alm]
    exact raise_frame n o s
  alm := by rw [raise_alm]
  pending := raiseD_pending_mono n 0 o s

theorem setTimeState_moved (st : TimeState) : TimeMoved s (setTimeState st s) := by
  unfold setTimeState
  split
  · exact .refl s
  · refine .trans ?_ (raise_moved _ 40 noObject)
    exact ⟨rfl, rfl, fun _ h => h⟩

/-- A time state entered is the time state. -/
theorem setTimeState_state (st : TimeState) : (setTimeState st s).alm.state = st := by
  unfold setTimeState
  split
  · assumption
  · rw [raise_alm]

/-- R170: a change of the time state raises event 40. -/
theorem setTimeState_pending {st : TimeState} (h : s.alm.state ≠ st) : (setTimeState st s).ev.pending.getLsbD 40 = true := by
  rw [setTimeState, if_neg h]
  exact raise_pending _ _ (by decide) (by decide)

theorem sourceState_moved : TimeMoved s (sourceState s) :=
  iteInduction (motive := TimeMoved s)
    (fun _ => iteInduction (motive := TimeMoved s) (fun _ => setTimeState_moved s _) fun _ => .refl s)
    (fun _ => iteInduction (motive := TimeMoved s) (fun _ => setTimeState_moved s _) fun _ => .refl s)

end

/-! ### Stepping the clock -/

/-- Seconds, nanoseconds and fraction. -/
def Almanac.clock (a : Almanac) : Nat × Nat × Nat := (a.sec, a.ns, a.frac)

section
variable (p n : Nat) (s : State)

theorem drivePins_alm : (drivePins s).alm = s.alm := by simp only [drivePins]

theorem fireAlarm_clock : (fireAlarm n s).alm.clock = s.alm.clock := by
  unfold fireAlarm
  split
  · rfl
  · extract_lets acts w pin raised out _ pulsed _ _ held _ _ _ toggled
    have hraised : raised.alm = s.alm := by
      unfold raised
      split
      · exact raise_alm ..
      · rfl
    have hpulsed : pulsed.alm.clock = raised.alm.clock := by unfold pulsed; split <;> rfl
    have hheld : held.alm = pulsed.alm := by unfold held; split <;> rfl
    have htoggled : toggled.alm = held.alm := by unfold toggled; split <;> rfl
    rw [drivePins_alm, htoggled, hheld, hpulsed, hraised]

theorem setAlarm_clock (f : Alarm → Alarm) : (setAlarm n f s).alm.clock = s.alm.clock := by unfold setAlarm; split <;> rfl

theorem stepAlarms_clock (old new : Nat) : (stepAlarms old new s).alm.clock = s.alm.clock := by
  refine foldl_keeps (fun t => t.alm.clock = s.alm.clock) _ (fun t m ht => ?_) _ s rfl
  dsimp only
  split
  · split
    · rw [fireAlarm_clock, setAlarm_clock, ht]
    · exact ht
  · exact ht

theorem gateOverrun_alm (b : Bool) : (gateOverrun p b s).alm = s.alm := by
  unfold gateOverrun
  split
  · rfl
  · split
    · rfl
    split
    · rfl
    split
    · rfl
    · exact raise_alm ..

theorem setGates_alm : (setGates p s).alm = s.alm := by
  unfold setGates
  dsimp only
  split
  · rfl
  · exact gateOverrun_alm ..

theorem resetGates_alm : (resetGates s).alm = s.alm :=
  foldl_keeps (fun t => t.alm = s.alm) _ (fun t m ht => (setGates_alm m t).trans ht) _ s rfl

/-- R173: a step gives the clock its new value. -/
theorem stepTo_clock (sec ns frac : Nat) : (stepTo sec ns frac s).alm.clock = (sec % 281474976710656, ns, frac) := by
  unfold stepTo
  rw [resetGates_alm, stepAlarms_clock]
  rfl

end

theorem ule_lt (i : Img) (o n : Nat) : ule i o n < 256 ^ n := by
  induction n generalizing o with
  | zero => simp [ule]
  | succ n ih =>
    have := ih (o + 1)
    have : u8 i o < 256 := (i.getD o 0).isLt
    rw [ule, pow_succ]
    omega

/-! ### What each command does -/

theorem timeConfig_device : DeviceCmd cmdTimeConfig := ⟨rfl, rfl, rfl, rfl, cmdTimeConfig_ok⟩
theorem timeConfigPort_device : DeviceCmd cmdTimeConfigPort := ⟨rfl, rfl, rfl, rfl, cmdTimeConfigPort_ok⟩
theorem timeSet_device : DeviceCmd cmdTimeSet := ⟨rfl, rfl, rfl, rfl, cmdTimeSet_ok⟩
theorem timeAdjustStep_device : DeviceCmd cmdTimeAdjustStep := ⟨rfl, rfl, rfl, rfl, cmdTimeAdjustStep_ok⟩
theorem timeAdjustServoInput_device : DeviceCmd cmdTimeAdjustServoInput := ⟨rfl, rfl, rfl, rfl, cmdTimeAdjustServoInput_ok⟩
theorem timeAdjustFrequency_device : DeviceCmd cmdTimeAdjustFrequency := ⟨rfl, rfl, rfl, rfl, cmdTimeAdjustFrequency_ok⟩
theorem servoSet_device : DeviceCmd cmdServoSet := ⟨rfl, rfl, rfl, rfl, cmdServoSet_ok⟩
theorem asymSet_device : DeviceCmd cmdAsymSet := ⟨rfl, rfl, rfl, rfl, cmdAsymSet_ok⟩
theorem alarmSet_device : DeviceCmd cmdAlarmSet := ⟨rfl, rfl, rfl, rfl, cmdAlarmSet_ok⟩
theorem scheduleEntrySet_device : DeviceCmd cmdScheduleEntrySet := ⟨rfl, rfl, rfl, rfl, cmdScheduleEntrySet_ok⟩

section
variable {c : Call} {n : Nat} {s : State}

/-- R159: the numbers of the two domains exchanged wait for a Sync. -/
theorem actTimeConfig_exchange (h : u8 (fit 48 c.params) 1 = s.alm.relayed ∧ u8 (fit 48 c.params) 2 = s.alm.working) :
    actTimeConfig c n s = { st := { s with timeCfg := some (fit 48 c.params)
                                           alm.exchange := some (u8 (fit 48 c.params) 1, u8 (fit 48 c.params) 2) } } := by
  simp only [actTimeConfig, if_pos h]

/-- Log 138: other numbers are in force at once. -/
theorem actTimeConfig_numbers (h : ¬ (u8 (fit 48 c.params) 1 = s.alm.relayed ∧ u8 (fit 48 c.params) 2 = s.alm.working)) :
    actTimeConfig c n s = { st := { s with
      timeCfg := some (fit 48 c.params), alm.exchange := none
      alm.working := u8 (fit 48 c.params) 1, alm.relayed := u8 (fit 48 c.params) 2
      alm.utcFromAnnounce := s.alm.utcFromAnnounce && u8 (fit 48 c.params) 1 == s.alm.working } } := by
  simp only [actTimeConfig, if_neg h]

/-- R158: without an announced UTC offset the configured one holds. -/
theorem utcOffset_configured {q : Img} (hc : s.timeCfg = some q) (hu : s.alm.utcFromAnnounce = false) : utcOffset s = u16 q 6 := by
  simp [utcOffset, hu, configuredUtc, timeCfg, hc]

theorem actAdjustServo_hosted (h : servoSource s = 2) : actAdjustServo c n s =
    { inline := freqResult (takeOffset (sle c.params 8 8) ((u32 c.params 16 : Rat) / 1000000) s)
      st := takeOffset (sle c.params 8 8) ((u32 c.params 16 : Rat) / 1000000) s } := by
  simp [actAdjustServo, h]

theorem actAdjustFrequency_free (h : servoSource s = 3) : actAdjustFrequency c n s = { st := setFrequency (sle c.params 20 4) s } := by
  simp [actAdjustFrequency, h]

/-- R414: the settings are stored, and the integral set when the flag says so. -/
theorem actServo_stores : (actServo c n s).st.servo = some (patch (fit 48 c.params) 3 [0]) ∧
    (flag (fit 48 c.params) 3 0 = true → (actServo c n s).st.alm.i = sle (fit 48 c.params) 24 4) := by
  refine ⟨(sourceState_moved _).servo, fun h => ?_⟩
  rw [actServo, (sourceState_moved _).i, if_pos h]

/-- The image ASYM_SET stores: the fields whose flag is set. -/
def asymWritten (q i : Img) : Img :=
  let i := if flag q 1 0 then patch i 4 (sub q 4 4) else i
  if flag q 1 2 then patch i 8 (sub q 8 4) else i

theorem actAsym_writes (h : flag (fit 48 c.params) 1 1 = false) : actAsym c n s = { st := { s with
    asym := tset (u8 (fit 48 c.params) 0) (asymWritten (fit 48 c.params) (asymCfg (u8 (fit 48 c.params) 0) s)) s.asym } } := by
  simp only [actAsym, h, Bool.false_and, Bool.false_eq_true, if_false]
  rfl

end

/-- What is patched in at an offset is read there, and what lies before it is left. -/
theorem getD_patch_of_lt (i b : Bytes) {o k : Nat} (h : k < o) : (patch i o b).getD k 0 = i.getD k 0 := by
  rw [patch, List.append_assoc, List.getD_append _ _ _ _ (by simpa using h), getD_fit_of_lt i h]

theorem getD_patch_at (i b : Bytes) {o k : Nat} (h : k < b.length) : (patch i o b).getD (o + k) 0 = b.getD k 0 := by
  rw [patch, List.append_assoc, List.getD_append_right _ _ _ _ (by simp), fit_length, Nat.add_sub_cancel_left,
    List.getD_append _ _ _ _ h]

/-- R415: the asymmetry written is the one given. -/
theorem asymWritten_asymmetry {q : Img} (i : Img) (h : flag q 1 0 = true) : sub (asymWritten q i) 4 4 = sub q 4 4 := by
  refine sub_congr _ _ _ _ fun k hk => ?_
  have hfirst : (patch i 4 (sub q 4 4)).getD (4 + k) 0 = q.getD (4 + k) 0 := by
    rw [getD_patch_at _ _ (by simpa using hk), sub_getD _ _ _ _ hk]
  simp only [asymWritten, h, if_true]
  split
  · rw [getD_patch_of_lt _ _ (by omega), hfirst]
  · exact hfirst

section
variable {c : Call} {n : Nat} {s : State}

theorem actTimeState_reads (h : flag c.params 0 0 = false) : actTimeState c n s = { inline := timeInline s, st := s } := by
  simp [actTimeState, h]

/-- The transmit stamps that remain when `n` of a port's are taken out. -/
def stampsLeft (p n : Nat) (t : Tbl (List TxStamp)) : Tbl (List TxStamp) :=
  if (tgetD p [] t).length ≤ n then tdel p t else tset p ((tgetD p [] t).drop n) t

/-- R181: the stamps taken out are those the area holds. -/
theorem actTimeState_pops (h : flag c.params 0 0 = true) (hb : c.bulkResult = true) : actTimeState c n s =
    { inline := timeInline s
      bulk := (((tgetD (u8 c.params 1) [] s.alm.txStamps).take (areaLen c / 16)).map stampBytes).flatten
      st := { s with alm.txStamps := stampsLeft (u8 c.params 1) (areaLen c / 16) s.alm.txStamps } } := by
  simp only [actTimeState, h, hb, if_true, stampsLeft]

/-- R416: stamps are asked for with an area for them. -/
theorem timeState_bulk (h : cmdTimeState.check c s = .ok) (hf : flag c.params 0 0 = true) : c.bulkResult = true := by
  by_contra hb
  simp [cmdTimeState, hf, hb, need] at h

theorem actAlarm_removes (h : flag (fit 48 c.params) 2 7 = true) :
    actAlarm c n s = { st := { s with alm.alarms := tdel (u8 (fit 48 c.params) 1) s.alm.alarms } } := by
  simp only [actAlarm, h, if_true]

/-- An alarm of given settings that waits for its first instant. -/
def waitingAlarm (q : Img) : Alarm := { img := q, next := some (u64 q 8) }

/-- R179: an alarm without a pin action whose instant is to come waits for it. -/
theorem actAlarm_waits (h7 : flag (fit 48 c.params) 2 7 = false) (h2 : flag (fit 48 c.params) 2 2 = false)
    (h3 : flag (fit 48 c.params) 2 3 = false) (hn : nowNs s < u64 (fit 48 c.params) 8) :
    actAlarm c n s = { st := { s with alm.alarms := tset (u8 (fit 48 c.params) 1) (waitingAlarm (fit 48 c.params)) s.alm.alarms } } := by
  simp only [actAlarm, startAlarm, waitingAlarm, h7, h2, h3, hn, Bool.or_self, Bool.false_and, Bool.false_eq_true, if_true, if_false]

theorem actEntry_stores (h : flag (fit 48 c.params) 2 0 = false) :
    actEntry c n s = { st := { s with alm.schedule := tset (u8 (fit 48 c.params) 1) (fit 48 c.params) s.alm.schedule } } := by
  simp only [actEntry, h, Bool.false_eq_true, if_false]

theorem actEntry_removes (h : flag (fit 48 c.params) 2 0 = true) (hn : entryNamed (u8 (fit 48 c.params) 1) s.bank = false) :
    actEntry c n s = { st := { s with alm.schedule := tdel (u8 (fit 48 c.params) 1) s.alm.schedule } } := by
  simp only [actEntry, h, hn, Bool.false_eq_true, if_true, if_false]

end

/-! ### The commands heard on the device -/

section
variable {c : Call} {s : State}

theorem nowNs_taken (c : Call) (s : State) : nowNs (taken c s) = nowNs s := by
  obtain ⟨g, hg⟩ := taken_eq c s
  rw [hg]
  rfl

/-- R412: TIME_SET gives the clock its new value, the fraction starting at 0 (log 25), and answers with the step. -/
theorem timeSet_answers (h : Heard cmdTimeSet c .device s) : ∃ v,
    Answers (.timeSet c) 0x0602 c { inline := sleB 8 ((nowNs v : Int) - nowNs s) ++ le 8 (stampOf (nowNs v)) } s v ∧
      v.alm.sec = ule c.params 0 6 ∧ v.alm.ns = u32 c.params 8 ∧ v.alm.frac = 0 := by
  have hclock := stepTo_clock (taken c s) (ule c.params 0 6) (u32 c.params 8) 0
  rw [Nat.mod_eq_of_lt (show ule c.params 0 6 < 281474976710656 from ule_lt c.params 0 6)] at hclock
  obtain ⟨hsec, hns, hfrac⟩ : _ ∧ _ ∧ _ := by simpa only [Almanac.clock, Prod.mk.injEq] using hclock
  refine ⟨stepTo (ule c.params 0 6) (u32 c.params 8) 0 (taken c s), ?_, hsec, hns, hfrac⟩
  rw [← nowNs_taken c s]
  exact timeSet_device.answers h rfl rfl rfl

theorem timeSetAtPps_starts (h : Heard cmdTimeSetAtPps c .device s) : Starts (.timeSetAtPps c) 0x0602 c
    (.timeSetPps (ule c.params 0 6) (u32 c.params 8) (s.power.upNs + 1500000000)) 0 s (taken c s) := by
  have hx : cmdTimeSetAtPps.act c 0 (taken c s) =
      { long := some (.timeSetPps (ule c.params 0 6) (u32 c.params 8) (s.power.upNs + 1500000000)), st := taken c s } := by
    obtain ⟨g, hg⟩ := taken_eq c s
    rw [hg]
    rfl
  exact starts_ok h _ rfl rfl (.inl rfl) rfl (.inl rfl) hx rfl rfl rfl h.taken_canonical

theorem Heard.check_ok {k : Cmd} {p : Plot} (h : Heard k c p s) : k.check c (taken c s) = .ok := by
  obtain ⟨-, -, -, -, -, -, -, -, hcheck, -⟩ := h
  exact hcheck

theorem answerOf_noBulk (k : Cmd) (c : Call) (d : Bytes) (u : State) : answerOf k c { inline := d, st := u } = { inline := d } := by
  simp [answerOf]

/-- R416: the answer of TIME_STATE says nothing of the state it leaves. -/
theorem timeState_answers {d b : Bytes} {v : State} (h : Heard cmdTimeState c .device s)
    (hx : actTimeState c 0 (taken c s) = { inline := d, bulk := b, st := v }) :
    Answers (.timeState c) 0x0606 c (answerOf cmdTimeState c { inline := d, bulk := b, st := taken c s }) s v :=
  answers_work h cmdTimeState_ok rfl rfl rfl rfl (.inl rfl) hx

end

/-- Settles O19: each command's act on the state that has taken it. The fraction of a time set is log 25; domain numbers in force at once
are log 138. -/
theorem timeCommands : Obligations.TimeCommands := by
  rintro c q s u rfl rfl
  obtain ⟨g, hg⟩ := taken_eq c s
  refine ⟨fun h he => ⟨_, rfl, ?_, fun hu => ?_⟩, fun h he => ?_, fun h => ?_, timeSet_answers, timeSetAtPps_starts,
    fun h => ⟨_, rfl, ?_⟩, fun h hs => ⟨_, rfl, ?_⟩, fun h hs => ⟨_, ?_, rfl⟩, fun h => ?_, fun h hf => ?_, fun h hf => ?_,
    fun h hf => ?_, fun h h7 => ?_, fun h h7 h2 h3 hn => ?_, fun h hf => ?_, fun h hf hn => ?_⟩
  · exact timeConfig_device.answers h rfl rfl (by rw [hg]; exact actTimeConfig_exchange (n := 0) he)
  · exact utcOffset_configured rfl (by rw [hg]; exact hu)
  · have hx := actTimeConfig_numbers (c := c) (n := 0) (s := taken c s) (by rw [hg]; exact he)
    refine ⟨_, timeConfig_device.answers h rfl rfl hx, rfl, rfl, rfl, rfl, fun hu => utcOffset_configured rfl ?_⟩
    rw [hg]
    simp only [hu, Bool.false_and]
  · exact timeConfigPort_device.answers h rfl rfl (by rw [hg]; rfl)
  · exact timeAdjustStep_device.answers h rfl rfl rfl
  · exact timeAdjustServoInput_device.answers h rfl rfl (by rw [hg]; exact actAdjustServo_hosted (n := 0) hs)
  · exact timeAdjustFrequency_device.answers h rfl rfl (by rw [hg]; exact actAdjustFrequency_free (n := 0) hs)
  · obtain ⟨hservo, hi⟩ := actServo_stores (c := c) (n := 0) (s := taken c s)
    exact ⟨_, servoSet_device.answers h rfl rfl rfl, hservo, hi⟩
  · refine ⟨_, asymSet_device.answers h rfl rfl (by rw [hg]; exact actAsym_writes (n := 0) hf), fun hw => ?_, fun p hp => ?_⟩
    · rw [asymCfg, tgetD_tset_same, asymWritten_asymmetry _ hw]
    · rw [asymCfg, tgetD_tset_other hp, asymCfg]
  · rw [← answerOf_noBulk cmdTimeState c _ (taken c s)]
    exact timeState_answers h (by rw [hg]; exact actTimeState_reads (n := 0) hf)
  · exact timeState_answers h (by rw [hg]; exact actTimeState_pops (n := 0) hf (timeState_bulk h.check_ok hf))
  · exact alarmSet_device.answers h rfl rfl (by rw [hg]; exact actAlarm_removes (n := 0) h7)
  · exact ⟨waitingAlarm (fit 48 c.params),
      alarmSet_device.answers h rfl rfl (by rw [hg]; exact actAlarm_waits (n := 0) h7 h2 h3 hn), rfl, rfl, rfl⟩
  · exact scheduleEntrySet_device.answers h rfl rfl (by rw [hg]; exact actEntry_stores (n := 0) hf)
  · exact scheduleEntrySet_device.answers h rfl rfl (by rw [hg]; exact actEntry_removes (n := 0) hf hn)

end Sys2Proof.Machine
end

section
/-! PROOF. The servo of the working clock, and what holds its frequency (R164 to R170). -/

namespace Sys2Proof.Machine

/-! ### Holding the frequency, and the roles that move the time state -/

section
variable (s : State)

theorem freeze_moved : TimeMoved s (freeze s) := by
  unfold freeze
  split
  · exact .refl s
  · refine iteInduction (motive := TimeMoved s) (fun _ => ?_) fun _ => ?_ <;> exact ⟨rfl, rfl, fun _ h => h⟩

theorem freeze_state : (freeze s).alm.state = s.alm.state := by
  unfold freeze
  split
  · rfl
  · dsimp only
    split <;> rfl

theorem freezeSuspect_moved : TimeMoved s (freezeSuspect s) :=
  iteInduction (motive := TimeMoved s) (fun _ => freeze_moved s) fun _ => .refl s

theorem gmState_moved (was : Bool) : TimeMoved s (gmState was s) :=
  iteInduction (motive := TimeMoved s)
    (fun _ => iteInduction (motive := TimeMoved s) (fun _ => setTimeState_moved s _) fun _ => .refl s)
    (fun _ => iteInduction (motive := TimeMoved s) (fun _ => setTimeState_moved s _) fun _ => .refl s)

theorem distrust_moved : TimeMoved s (distrust s) :=
  (freeze_moved s).trans (iteInduction (motive := TimeMoved (freeze s)) (fun _ => setTimeState_moved _ _) fun _ => .refl _)

/-- R174: a path that is not trusted takes Locked to Uncertain. -/
theorem distrust_locked (h : s.alm.state = .locked) : (distrust s).alm.state = .uncertain := by
  unfold distrust
  dsimp only
  rw [if_pos (.inl ((freeze_state s).trans h)), setTimeState_state]

end

/-! ### The servo -/

section
variable {θ T i a : Rat} {s : State}

theorem setTimeState_alm (st : TimeState) (s : State) : (setTimeState st s).alm = if s.alm.state = st then s.alm else
    { s.alm with lockLog := logLock st s, state := st, lockRun := 0, outlierRun := 0, budgetExpired := false
                 frozen := s.alm.frozen && st != .free } := by
  unfold setTimeState
  split
  · rfl
  · rw [raise_alm]

/-- R168: updates that resume start from the held value. -/
theorem resume_eq (s : State) :
    resume s = { s with alm.i := if s.alm.frozen then s.alm.a else s.alm.i, alm.frozen := false } := by
  cases h : s.alm.frozen
  · simp only [resume, h, Bool.false_eq_true, if_false]
    rw [← h]
  · simp only [resume, h, if_true]

/-- `u` is `s` after an update of the servo to the integral `i` and the adjustment `a`. -/
def ServoUpdated (i a : Rat) (s u : State) : Prop :=
  u.bank = s.bank ∧ ∃ h c l, u.alm =
    { s.alm with frozen := false, i := i, a := a, inc := increment a, iHistory := h, clampRun := c, limitArmed := l }

/-- R165: one update leaves the integral, the adjustment and the increment as the gains say. -/
theorem servoUpdate_does
    (hi : i = clampTo ppbLimit ((if s.alm.frozen then s.alm.a else s.alm.i) + (u32 (servoCfg s) 8 : Rat) / 65536 * θ / T))
    (ha : a = clampTo ppbLimit ((u32 (servoCfg s) 4 : Rat) / 65536 * θ / T + i)) : ServoUpdated i a s (servoUpdate θ T s) := by
  have hcfg (j : Rat) : servoCfg { s with alm.i := j, alm.frozen := false } = servoCfg s := rfl
  unfold servoUpdate
  rw [resume_eq]
  dsimp only
  rw [hcfg, ← hi, ← ha]
  refine iteInduction (motive := ServoUpdated i a s) (fun _ => ?_) fun _ => ⟨rfl, _, _, _, rfl⟩
  unfold ServoUpdated
  rw [raise_alm, raise_frame]
  exact ⟨rfl, _, _, _, rfl⟩

/-- R170: eight updates at the clamp enter Uncertain; the frequency stays. -/
theorem clampCheck_moved (s : State) : TimeMoved s (clampCheck s) :=
  iteInduction (motive := TimeMoved s) (fun _ => (setTimeState_moved s _).trans (raise_moved _ _ _)) fun _ => .refl s

theorem clampCheck_keeps {s : State} (h : s.alm.outlierRun = 0) : (clampCheck s).alm.a = s.alm.a ∧ (clampCheck s).alm.inc = s.alm.inc ∧
    (clampCheck s).alm.outlierRun = 0 := by
  unfold clampCheck
  split
  · rw [raise_alm, setTimeState_alm]
    split
    · exact ⟨rfl, rfl, h⟩
    · exact ⟨rfl, rfl, rfl⟩
  · exact ⟨rfl, rfl, h⟩

/-- R167: in Locked, with neither a suspect nor a grandmaster change open, an offset is tracked. -/
theorem takeOffset_tracks (hg : s.alm.grandmaster = false) (hs : slaveSuspect s = false) (hl : s.alm.state = .locked)
    (hp : s.alm.gmPending = false) : takeOffset θ T s = track θ T { s with alm.theta := θ, alm.gmPending := false } := by
  have hs' : slaveSuspect { s with alm.theta := θ } = false := hs
  unfold takeOffset
  rw [if_neg (by rw [hg]; exact Bool.false_ne_true)]
  dsimp only
  rw [if_neg (by rw [hs']; exact Bool.false_ne_true)]
  simp only [hp, hl, Bool.false_and, Bool.false_eq_true, if_false]

section
variable (hg : s.alm.grandmaster = false) (hs : slaveSuspect s = false) (hl : s.alm.state = .locked) (hp : s.alm.gmPending = false)
include hg hs hl hp

/-- R165, R166: an offset within the step threshold goes through the servo. -/
theorem takeOffset_within
    (hi : i = clampTo ppbLimit ((if s.alm.frozen then s.alm.a else s.alm.i) + (u32 (servoCfg s) 8 : Rat) / 65536 * θ / T))
    (ha : a = clampTo ppbLimit ((u32 (servoCfg s) 4 : Rat) / 65536 * θ / T + i)) (hb : beyondStep θ s = false) :
    (takeOffset θ T s).alm.theta = θ ∧ (takeOffset θ T s).alm.i = i ∧ (takeOffset θ T s).alm.a = a ∧
      (takeOffset θ T s).alm.inc = increment a ∧ (takeOffset θ T s).alm.outlierRun = 0 ∧ nowNs (takeOffset θ T s) = nowNs s ∧
      (takeOffset θ T s).bank = s.bank := by
  have hb' : beyondStep θ { s with alm.theta := θ, alm.gmPending := false } = false := hb
  obtain ⟨hbank, h, c, l, halm⟩ :=
    servoUpdate_does (s := { s with alm.theta := θ, alm.gmPending := false, alm.outlierRun := 0 }) hi ha
  rw [takeOffset_tracks hg hs hl hp, track, hb', if_neg Bool.false_ne_true]
  dsimp only
  generalize servoUpdate θ T { s with alm.theta := θ, alm.gmPending := false, alm.outlierRun := 0 } = u at hbank halm ⊢
  have hmoved := clampCheck_moved u
  obtain ⟨hka, hkinc, hkrun⟩ := clampCheck_keeps (s := u) (by rw [halm])
  refine ⟨?_, ?_, ?_, ?_, hkrun, ?_, ?_⟩
  · rw [hmoved.alm, halm]
  · rw [hmoved.i, halm]
  · rw [hka, halm]
  · rw [hkinc, halm]
  · rw [hmoved.nowNs, nowNs, halm]
    rfl
  · rw [hmoved.bank, hbank]

/-- R167: an outlier short of the count is discarded and counted. -/
theorem takeOffset_outlier (hb : beyondStep θ s = true) (hn : s.alm.outlierRun + 1 < u8 (servoCfg s) 1) : takeOffset θ T s =
    { s with alm.theta := θ, alm.gmPending := false, alm.outlierRun := s.alm.outlierRun + 1, alm.outliers := s.alm.outliers + 1 } := by
  have hb' : beyondStep θ { s with alm.theta := θ, alm.gmPending := false } = true := hb
  have hn' : ¬ u8 (servoCfg { s with alm.theta := θ, alm.gmPending := false }) 1 ≤ s.alm.outlierRun + 1 := Nat.not_le.2 hn
  rw [takeOffset_tracks hg hs hl hp, track, hb', if_pos rfl, if_neg hn']

end

end

end Sys2Proof.Machine
end

section
/-! PROOF. The Sync and Pdelay messages that arrive at the working clock, and those that its intervals send (R159 to R164, R174 to R176). -/

namespace Sys2Proof.Machine

/-! ### Sending -/

theorem sendGptp_eq (p kind dom : Nat) (m : GptpOut) (s : State) : sendGptp p kind dom m s =
    { countPort p 23 1 (countPort p 21 1 (countPort p 20 (gptpLen kind) s)) with
      wire := .gptp p kind dom (if gptp2011 p s then 0 else 1) (gptpClass p s) m :: s.wire } := rfl

section
variable (p kind dom : Nat) (m : GptpOut) (s : State)

theorem gptp2011_sendGptp : gptp2011 p (sendGptp p kind dom m s) = gptp2011 p s := by simp only [gptp2011, timePort, sendGptp_eq, countPort]

theorem gptpClass_sendGptp : gptpClass p (sendGptp p kind dom m s) = gptpClass p s := by simp only [gptpClass, portCfg, sendGptp_eq, countPort]

end

section
variable {p : Nat} {s : State} (hg : s.power.state = .growing)
include hg

/-- R161, R163: a grandmaster's master port sends a Sync and its Follow_Up. -/
theorem syncInterval_sends (hgm : s.alm.grandmaster = true) (hm : (gport p s).master = true) (hon : gptpOn p s.alm.working s = true) :
    exec (.syncInterval p) s = .next (sendGptp p 1 s.alm.working { time := some (sfdStamp p s) }
      (sendGptp p 0 s.alm.working { time := some (sfdStamp p s) } s)) := by
  show execSyncInterval p s = _
  simp only [execSyncInterval, growing_of hg, hgm, hm, hon, Bool.and_self, if_true]

theorem pdelayInterval_sends (hon : gptpAny p s = true) :
    exec (.pdelayInterval p) s = .next (sendGptp p 2 (pdelayDomain p s) { time := some (sfdStamp p s) } s) := by
  show execPdelayInterval p s = _
  simp only [execPdelayInterval, growing_of hg, hon, Bool.and_self, if_true]

/-- R160, R163: a request is answered with a response and its Follow_Up. -/
theorem pdelayReq_answers (hon : gptpAny p s = true) :
    exec (.pdelayReq p) s = .next (sendGptp p 5 (pdelayDomain p s) { time := some (sfdStamp p s) }
      (sendGptp p 3 (pdelayDomain p s) { time := some (sfdStamp p s) } s)) := by
  show execPdelayReq p s = _
  simp only [execPdelayReq, growing_of hg, hon, Bool.and_self, if_true]

end

/-- Two messages of a port, one after the other. -/
theorem sendGptp_twice (p k l dom : Nat) (m n : GptpOut) (s : State) : sendGptp p l dom n (sendGptp p k dom m s) =
    { countPort p 23 1 (countPort p 21 1 (countPort p 20 (gptpLen l) (countPort p 23 1 (countPort p 21 1 (countPort p 20 (gptpLen k) s))))) with
      wire := .gptp p l dom (if gptp2011 p s then 0 else 1) (gptpClass p s) n ::
        .gptp p k dom (if gptp2011 p s then 0 else 1) (gptpClass p s) m :: s.wire } := by
  rw [sendGptp_eq p l, gptp2011_sendGptp, gptpClass_sendGptp, sendGptp_eq p k]
  rfl

/-! ### The relay -/

theorem relaySync_leaves (p : Nat) (rel : Bool) (m : SyncMsg) (s : State) :
    (relaySync p rel m s).alm = s.alm ∧ (relaySync p rel m s).ev = s.ev ∧ (relaySync p rel m s).bank = s.bank := by
  refine foldl_keeps (fun t => t.alm = s.alm ∧ t.ev = s.ev ∧ t.bank = s.bank) _ (fun t q h => ?_) _ s ⟨rfl, rfl, rfl⟩
  exact h

/-! ### Sync -/

section
variable {p : Nat} {m : SyncMsg} {s : State} (hg : s.power.state = .growing) (hon : gptpOn p m.domain s = true)

theorem takeExchange_none {d : Nat} (h : s.alm.exchange.map (·.1) ≠ some d) : takeExchange d s = s := by
  unfold takeExchange
  cases hx : s.alm.exchange with
  | none => rfl
  | some e =>
    obtain ⟨w, r⟩ := e
    have hw : w ≠ d := fun hw => h (by rw [hx, hw]; rfl)
    simp only [if_neg hw]

include hg hon

/-- R164, R165: a Sync of the working domain on the slave port is measured when the source is gPTP, and relayed. -/
theorem sync_measured (hx : s.alm.exchange.map (·.1) ≠ some m.domain) (hd : m.domain = s.alm.working) (hs : s.alm.slavePort = some p)
    (hgm : s.alm.grandmaster = false) (hsrc : servoSource s = 0) :
    exec (.sync p m) s = .next (relaySync p false m (takeOffset (syncOffset p m s) (pow2 (timePort p s) 3) s)) := by
  show execSync p m s = _
  simp [execSync, growing_of hg, hon, takeExchange_none hx, ← hd, hs, hgm, hsrc]

/-- R159, log 121: one of the relayed domain on its slave port gives that domain's offset and is relayed there. -/
theorem sync_relayed (hx : s.alm.exchange.map (·.1) ≠ some m.domain) (hw : m.domain ≠ s.alm.working) (hr : m.domain = s.alm.relayed)
    (hs : s.alm.relSlave = some p) : exec (.sync p m) s = .next (relaySync p true m
      { s with alm.relOffset := roundRat (syncOffset p m s), alm.relRate := m.ratePpb }) := by
  show execSync p m s = _
  simp [execSync, growing_of hg, hon, takeExchange_none hx, hw, ← hr, hs]

end

/-- The Almanac with its two domains exchanged (R159). -/
def exchanged (w r : Nat) (s : State) : State :=
  { s with alm := { s.alm with
      working := w, relayed := r, exchange := none, gmPending := !s.alm.relGm, utcFromAnnounce := false
      slavePort := s.alm.relSlave, lastSlave := s.alm.relSlave, relSlave := s.alm.slavePort
      grandmaster := s.alm.relGm, relGm := s.alm.grandmaster, gmId := s.alm.relGmId, relGmId := s.alm.gmId
      ports := s.alm.ports.map (fun e => (e.1, swapRoles e.2)) } }

/-- R159: a waiting exchange takes effect as a grandmaster change, with event 47. -/
theorem takeExchange_takes {w r : Nat} {s : State} (hx : s.alm.exchange = some (w, r)) :
    TimeMoved (exchanged w r s) (takeExchange w s) ∧ (takeExchange w s).ev.pending.getLsbD 47 = true := by
  have heq : takeExchange w s = freezeSuspect (gmState s.alm.grandmaster (raise 47 noObject (exchanged w r s))) := by
    simp only [takeExchange, hx, if_true]
    rfl
  have hroles := (gmState_moved (raise 47 noObject (exchanged w r s)) s.alm.grandmaster).trans (freezeSuspect_moved _)
  rw [heq]
  exact ⟨(raise_moved _ _ _).trans hroles, hroles.pending 47 (raise_pending _ _ (by decide) (by decide))⟩

/-- A Sync of the new working domain that comes on no slave port of it does no more than the exchange. -/
theorem sync_exchanges {p r : Nat} {m : SyncMsg} {s : State} (hg : s.power.state = .growing) (hon : gptpOn p m.domain s = true)
    (hx : s.alm.exchange = some (m.domain, r)) (hs : s.alm.relSlave ≠ some p) :
    exec (.sync p m) s = .next (takeExchange m.domain s) := by
  obtain ⟨hmoved, -⟩ := takeExchange_takes hx
  have hworking : m.domain = (takeExchange m.domain s).alm.working := by rw [hmoved.alm]; rfl
  have hslave : (takeExchange m.domain s).alm.slavePort ≠ some p := by rw [hmoved.alm]; exact hs
  show execSync p m s = _
  unfold execSync
  rw [growing_of hg, hon]
  dsimp only
  generalize takeExchange m.domain s = t at hworking hslave ⊢
  simp [← hworking, hslave]

/-! ### Pdelay results and suspects -/

@[simp] theorem gport_setGport_same (p : Nat) (v : GptpPort) (s : State) : gport p (setGport p v s) = v := tgetD_tset_same ..

theorem gport_setGport_other {p q : Nat} (h : q ≠ p) (v : GptpPort) (s : State) : gport q (setGport p v s) = gport q s :=
  tgetD_tset_other h ..

/-- R174, R175: a suspect opened on a port raises event 42, and on the slave port takes Locked to Uncertain. -/
theorem openSuspect_does (p : Nat) (s : State) :
    TimeMoved (setGport p { gport p s with suspect := true, since := [] } s) (openSuspect p s) ∧
      (openSuspect p s).ev.pending.getLsbD 42 = true ∧
      (s.alm.slavePort = some p → s.alm.state = .locked → (openSuspect p s).alm.state = .uncertain) := by
  unfold openSuspect
  dsimp only
  have hraised := raise_moved (setGport p { gport p s with suspect := true, since := [] } s) 42 p
  have hpending := raise_pending (n := 42) p (setGport p { gport p s with suspect := true, since := [] } s) (by decide) (by decide)
  have halm := raise_alm 42 p (setGport p { gport p s with suspect := true, since := [] } s)
  generalize raise 42 p (setGport p { gport p s with suspect := true, since := [] } s) = u at hraised hpending halm ⊢
  by_cases hs : s.alm.slavePort = some p
  · have hu : u.alm.slavePort = some p := by rw [halm]; exact hs
    rw [if_pos hu]
    exact ⟨hraised.trans (distrust_moved u), (distrust_moved u).pending 42 hpending,
      fun _ hl => distrust_locked u (by rw [halm]; exact hl)⟩
  · have hu : u.alm.slavePort ≠ some p := by rw [halm]; exact hs
    rw [if_neg hu]
    exact ⟨hraised, hpending, fun h => absurd h hs⟩

/-- R175, R176: a suspect closed on a port leaves it with the delay given. -/
theorem closeSuspect_port (p : Nat) (mean : Rat) (s : State) : gport p (closeSuspect p (some mean) s) =
    { gport p s with suspect := false, since := [], filtered := some mean, delays := (gport p s).last } := by
  unfold closeSuspect
  dsimp only
  split
  · split
    · rw [(setTimeState_moved _ _).gport, resume_eq]
      exact gport_setGport_same ..
    · rw [resume_eq]
      exact gport_setGport_same ..
  · exact gport_setGport_same ..

/-- A port's record with a result of an exchange: the neighbour's rate, and the result among the latest four (R160, R176). -/
def withResult (x y : Int) (v : GptpPort) : GptpPort := { v with rate := some y, last := (x :: v.last).take 4 }

/-- R174, log 112: a result beyond the delay limit changes nothing. -/
theorem pdelayResult_beyond {p : Nat} {x y : Int} {s : State} (hx : u32 (timePort p s) 8 < x) : exec (.pdelayResult p ⟨x, y⟩) s = .next s := by
  show execPdelayResult p ⟨x, y⟩ s = _
  simp [execPdelayResult, hx]

section
variable {p : Nat} {x y : Int} {s : State} (hg : s.power.state = .growing) (hon : gptpAny p s = true) (hx : x ≤ u32 (timePort p s) 8)
include hg hon hx

/-- R174: a result within the window of the filter joins the last four. -/
theorem pdelayResult_filters (hs : (gport p s).suspect = false)
    (hf : ∀ f, (gport p s).filtered = some f → |(x : Rat) - f| ≤ (u16 (asymCfg p s) 8 : Rat)) :
    exec (.pdelayResult p ⟨x, y⟩) s = .next (setGport p { withResult x y (gport p s) with
      delays := (x :: (gport p s).delays).take 4, filtered := some (meanOf ((x :: (gport p s).delays).take 4)) } s) := by
  show execPdelayResult p ⟨x, y⟩ s = _
  cases hz : (gport p s).filtered with
  | none => simp [execPdelayResult, growing_of hg, hon, not_lt.2 hx, hs, hz, withResult]
  | some f => simp [execPdelayResult, growing_of hg, hon, not_lt.2 hx, hs, hz, withResult, not_lt.2 (hf f hz)]

/-- R174: one beyond the window opens a suspect. -/
theorem pdelayResult_suspects {f : Rat} (hs : (gport p s).suspect = false) (hf : (gport p s).filtered = some f)
    (hw : (u16 (asymCfg p s) 8 : Rat) < |(x : Rat) - f|) :
    exec (.pdelayResult p ⟨x, y⟩) s = .next (openSuspect p (setGport p (withResult x y (gport p s)) s)) := by
  show execPdelayResult p ⟨x, y⟩ s = _
  simp [execPdelayResult, growing_of hg, hon, not_lt.2 hx, hs, hf, withResult, hw]

/-- R175: results since a suspect opened are gathered up to four. -/
theorem pdelayResult_gathers (hs : (gport p s).suspect = true) (hl : (gport p s).since.length < 3) :
    exec (.pdelayResult p ⟨x, y⟩) s =
      .next (setGport p { withResult x y (gport p s) with since := x :: (gport p s).since } s) := by
  have hlen : (gport p s).since.length + 1 < 4 := by omega
  show execPdelayResult p ⟨x, y⟩ s = _
  simp [execPdelayResult, growing_of hg, hon, not_lt.2 hx, hs, withResult, hlen]

/-- R175: four that agree close it. -/
theorem pdelayResult_closes (hs : (gport p s).suspect = true) (hl : 3 ≤ (gport p s).since.length)
    (hc : consistent (u8 (asymCfg p s) 10) (x :: (gport p s).since) = true) :
    exec (.pdelayResult p ⟨x, y⟩) s = .next (closeSuspect p (some (meanOf (x :: (gport p s).since)))
      (setGport p { withResult x y (gport p s) with since := x :: (gport p s).since } s)) := by
  have hlen : ¬ (gport p s).since.length + 1 < 4 := by omega
  show execPdelayResult p ⟨x, y⟩ s = _
  simp [execPdelayResult, growing_of hg, hon, not_lt.2 hx, hs, withResult, hlen, hc]

/-- R175: four that do not are forgotten. -/
theorem pdelayResult_forgets (hs : (gport p s).suspect = true) (hl : 3 ≤ (gport p s).since.length)
    (hc : consistent (u8 (asymCfg p s) 10) (x :: (gport p s).since) = false) :
    exec (.pdelayResult p ⟨x, y⟩) s = .next (setGport p { withResult x y (gport p s) with since := [] } s) := by
  have hlen : ¬ (gport p s).since.length + 1 < 4 := by omega
  show execPdelayResult p ⟨x, y⟩ s = _
  simp [execPdelayResult, growing_of hg, hon, not_lt.2 hx, hs, withResult, hlen, hc]

end

end Sys2Proof.Machine
end

section
/-! PROOF. Best master selection, the Announce messages and the timers of the source (R158, R160, R161, R169, R170, R172). -/

namespace Sys2Proof.Machine

/-! ### Port roles -/

/-- What a change of a port's record gives it holds after the changes of a list of ports that has it. -/
theorem foldl_tmod_mem {P : Nat → GptpPort → Prop} {f : Nat → GptpPort → GptpPort} (hf : ∀ p v, P p (f p v)) {q : Nat} (l : List Nat)
    (t : Tbl GptpPort) (h : q ∈ l ∨ P q (tgetD q {} t)) : P q (tgetD q {} (l.foldl (fun t p => tmod p {} (f p) t) t)) := by
  induction l generalizing t with
  | nil => simpa using h
  | cons p l ih =>
    refine ih _ ?_
    show q ∈ l ∨ P q (tgetD q {} (tset p (f p (tgetD p {} t)) t))
    by_cases hp : q = p
    · subst hp
      exact .inr (by rw [tgetD_tset_same]; exact hf ..)
    · refine h.imp (fun hm => ?_) fun ht => ?_
      · exact (List.mem_cons.1 hm).resolve_left hp
      · rwa [tgetD_tset_other hp]

/-- R170: a selection gives each port its role in the domain. -/
theorem setMasters_master {q : Nat} (l : List Nat) (s : State) (h : q < 10) : (gport q (setMasters false l s)).master = l.contains q := by
  simp only [gport, setMasters, Bool.false_eq_true, if_false]
  exact foldl_tmod_mem (P := fun q v => v.master = l.contains q) (f := fun p v => { v with master := l.contains p }) (fun _ _ => rfl)
    (List.range 10) s.alm.ports (.inl (List.mem_range.2 h))

theorem setMasters_relMaster {q : Nat} (l : List Nat) (s : State) (h : q < 10) :
    (gport q (setMasters true l s)).relMaster = l.contains q := by
  simp only [gport, setMasters, if_true]
  exact foldl_tmod_mem (P := fun q v => v.relMaster = l.contains q) (f := fun p v => { v with relMaster := l.contains p }) (fun _ _ => rfl)
    (List.range 10) s.alm.ports (.inl (List.mem_range.2 h))

/-- R159, R170: a selection in the relayed domain moves that domain's roles alone. -/
theorem applyRelayed_does (m : BestMaster) (s : State) : (applyRelayed m s).alm.relSlave = m.slave ∧
    (∀ q, q < 10 → (gport q (applyRelayed m s)).relMaster = m.masters.contains q) ∧ (applyRelayed m s).alm.slavePort = s.alm.slavePort := by
  refine ⟨rfl, fun q hq => ?_, by simp only [applyRelayed, setMasters]⟩
  rw [← setMasters_relMaster m.masters s hq]
  simp only [gport, applyRelayed]

/-! ### The selection -/

/-- `t` is `s` with its slave port moved, as far as the roles go. -/
structure SlaveMoved (slave : Option Nat) (s t : State) : Prop where
  slavePort : t.alm.slavePort = slave
  gmId : t.alm.gmId = s.alm.gmId
  grandmaster : t.alm.grandmaster = s.alm.grandmaster
  master : ∀ q, (gport q t).master = (gport q s).master

section
variable {slave : Option Nat} {s t u : State}

theorem SlaveMoved.moved (h : SlaveMoved slave s t) (g : TimeMoved t u) : SlaveMoved slave s u where
  slavePort := by rw [g.alm]; exact h.slavePort
  gmId := by rw [g.alm]; exact h.gmId
  grandmaster := by rw [g.alm]; exact h.grandmaster
  master q := by rw [g.gport]; exact h.master q

theorem moveSlave_moves (slave : Option Nat) (s : State) : SlaveMoved slave s (moveSlave slave s) := by
  cases slave with
  | none => exact ⟨rfl, rfl, rfl, fun _ => rfl⟩
  | some p =>
    unfold moveSlave
    dsimp only
    split
    · refine SlaveMoved.moved ?_ (openSuspect_does p _).1
      refine ⟨rfl, rfl, rfl, fun q => ?_⟩
      by_cases hq : q = p
      · rw [hq, gport_setGport_same]
        rfl
      · rw [gport_setGport_other hq]
        rfl
    · refine SlaveMoved.moved ?_ (freezeSuspect_moved _)
      exact ⟨rfl, rfl, rfl, fun _ => rfl⟩

/-- The state in which a selection in the working domain moves the part's own role. -/
def rolesSet (m : BestMaster) (s : State) : State := { setMasters false m.masters s with alm.gmId := m.gmId }

theorem rolesSet_gmId (m : BestMaster) (s : State) : (rolesSet m s).alm.gmId = m.gmId := by simp only [rolesSet]

theorem rolesSet_grandmaster (m : BestMaster) (s : State) : (rolesSet m s).alm.grandmaster = s.alm.grandmaster := by
  simp only [rolesSet, setMasters]

theorem rolesSet_master {q : Nat} (m : BestMaster) (s : State) (h : q < 10) : (gport q (rolesSet m s)).master = m.masters.contains q := by
  rw [← setMasters_master m.masters s h]
  simp only [gport, rolesSet]

/-- R172: a grandmaster change raises event 47 and waits for its first offset. -/
def gmChanged (m : BestMaster) (s : State) : State := raise 47 noObject { s with alm.gmPending := !m.isGm }

theorem gmChanged_alm (m : BestMaster) (s : State) : (gmChanged m s).alm = { s.alm with gmPending := !m.isGm } := raise_alm ..

theorem servoSource_congr (h : t.servo = s.servo) : servoSource t = servoSource s := by simp only [servoSource, servoCfg, h]

/-- The part takes the role a selection gives it. -/
def roleTaken (m : BestMaster) (s : State) : State := if m.isGm then becomeGm (rolesSet m s) else moveSlave m.slave (rolesSet m s)

theorem applySelection_eq {m : BestMaster} (hs : s.alm.grandmaster = false) :
    applySelection m s = if m.gmId ≠ s.alm.gmId then gmChanged m (roleTaken m s) else roleTaken m s := by
  have hgm : (rolesSet m s).alm.grandmaster = false := (rolesSet_grandmaster m s).trans hs
  change (let t := if m.isGm then if (rolesSet m s).alm.grandmaster then gmState false (rolesSet m s) else becomeGm (rolesSet m s)
      else if (rolesSet m s).alm.grandmaster then leaveGm m.slave (rolesSet m s) else moveSlave m.slave (rolesSet m s)
    if m.gmId != s.alm.gmId then gmChanged m t else t) = _
  simp only [hgm, Bool.false_eq_true, if_false, bne_iff_ne, roleTaken]

/-- R170, R172: a time receiver that stays one takes its slave port and grandmaster from the selection. -/
theorem applySelection_slave {m : BestMaster} (hm : m.isGm = false) (hs : s.alm.grandmaster = false) :
    SlaveMoved m.slave (rolesSet m s) (applySelection m s) ∧
      (m.gmId ≠ s.alm.gmId → (applySelection m s).ev.pending.getLsbD 47 = true) := by
  have hrole : roleTaken m s = moveSlave m.slave (rolesSet m s) := if_neg (by rw [hm]; exact Bool.false_ne_true)
  have hmoved := moveSlave_moves m.slave (rolesSet m s)
  rw [applySelection_eq hs, hrole]
  generalize moveSlave m.slave (rolesSet m s) = t at hmoved
  by_cases hid : m.gmId = s.alm.gmId
  · rw [if_neg (not_not.2 hid)]
    exact ⟨hmoved, fun h => absurd hid h⟩
  · rw [if_pos hid]
    refine ⟨SlaveMoved.moved ?_ (raise_moved { t with alm.gmPending := !m.isGm } 47 noObject), fun _ => raise_pending _ _ (by decide) (by decide)⟩
    exact ⟨hmoved.slavePort, hmoved.gmId, hmoved.grandmaster, hmoved.master⟩

/-- `t` is a part that has become grandmaster from `s`. -/
structure GmTaken (id : Nat) (s t : State) : Prop where
  grandmaster : t.alm.grandmaster = true
  slavePort : t.alm.slavePort = none
  gmId : t.alm.gmId = id
  utc : t.alm.utcFromAnnounce = false
  timeCfg : t.timeCfg = s.timeCfg
  state : servoSource s = 0 → t.alm.state = .locked

/-- R169: a grandmaster has no slave port, gives its own UTC offset, and is Locked with source gPTP. -/
theorem roleTaken_gm {m : BestMaster} (hm : m.isGm = true) : GmTaken m.gmId s (roleTaken m s) := by
  have hrole : roleTaken m s = becomeGm (rolesSet m s) := if_pos hm
  rw [hrole, becomeGm]
  generalize hx : ({ rolesSet m s with alm := { (rolesSet m s).alm with
    grandmaster := true, slavePort := none, lastSlave := none, utcFromAnnounce := false } } : State) = x
  have hmoved := gmState_moved x false
  have hcfg : x.timeCfg = s.timeCfg := by rw [← hx]; simp only [rolesSet, setMasters]
  have hservo : x.servo = s.servo := by rw [← hx]; simp only [rolesSet, setMasters]
  refine ⟨?_, ?_, ?_, ?_, hmoved.timeCfg.trans hcfg, fun hsrc => ?_⟩
  · rw [hmoved.alm, ← hx]
  · rw [hmoved.alm, ← hx]
  · rw [hmoved.alm, ← hx]; exact rolesSet_gmId m s
  · rw [hmoved.alm, ← hx]
  · have hgm : x.alm.grandmaster = true := by rw [← hx]
    have hsrc' : servoSource x = 0 := (servoSource_congr hservo).trans hsrc
    rw [gmState, hgm, if_pos (by decide), if_pos (.inl hsrc'), setTimeState_state]

theorem applySelection_gm {m : BestMaster} (hm : m.isGm = true) (hs : s.alm.grandmaster = false) : GmTaken m.gmId s (applySelection m s) := by
  have htaken := roleTaken_gm (s := s) hm
  rw [applySelection_eq hs]
  split
  · have hmoved := raise_moved { roleTaken m s with alm.gmPending := !m.isGm } 47 noObject
    have halm := gmChanged_alm m (roleTaken m s)
    refine ⟨?_, ?_, ?_, ?_, hmoved.timeCfg.trans htaken.timeCfg, fun hsrc => ?_⟩
    · rw [halm]; exact htaken.grandmaster
    · rw [halm]; exact htaken.slavePort
    · rw [halm]; exact htaken.gmId
    · rw [halm]; exact htaken.utc
    · rw [halm]; exact htaken.state hsrc
  · exact htaken

end

/-! ### Announce -/

section
variable {p : Nat} {n : AnnounceMsg} {s : State}

/-- R158: the part is time receiver of an Announce that carries a valid offset. -/
theorem takeUtc_takes (hv : n.utcValid = true) (hp : s.alm.slavePort.isSome = true) (hs : s.alm.grandmaster = false) :
    (takeUtc n s).alm.utc = n.utc ∧ (takeUtc n s).alm.utcFromAnnounce = true := by
  simp [takeUtc, hv, hp, hs]

theorem takeUtc_leaves (n : AnnounceMsg) (s : State) : (takeUtc n s).alm.slavePort = s.alm.slavePort ∧ (takeUtc n s).alm.gmId = s.alm.gmId ∧
    (∀ q, gport q (takeUtc n s) = gport q s) ∧ (takeUtc n s).ev = s.ev := by
  unfold takeUtc
  split
  · exact ⟨rfl, rfl, fun _ => rfl, rfl⟩
  · exact ⟨rfl, rfl, fun _ => rfl, rfl⟩

variable (hg : s.power.state = .growing) (hup : s.stw.up = true)
include hg hup

theorem announce_selects (hon : gptpOn p n.domain s = true) (hw : n.domain = s.alm.working) (hr : n.domain ≠ s.alm.relayed) :
    exec (.announce p n) s = .next (takeUtc n (applySelection n.sel s)) := by
  show execAnnounce p n s = _
  simp only [execAnnounce, growing_of hg, hup, hon, Bool.not_true, Bool.or_self, Bool.false_eq_true, if_false, if_neg hr,
    if_neg (not_not.2 hw)]

theorem announce_relayed (hon : gptpOn p n.domain s = true) (hr : n.domain = s.alm.relayed) :
    exec (.announce p n) s = .next (applyRelayed n.sel s) := by
  show execAnnounce p n s = _
  simp only [execAnnounce, growing_of hg, hup, hon, Bool.not_true, Bool.or_self, Bool.false_eq_true, if_false, if_pos hr]

theorem announceReceiptTimeout_selects {b : BestMaster} (hon : gptpOn p s.alm.working s = true) :
    exec (.announceReceiptTimeout p b) s = .next (applySelection b s) := by
  show execAnnounceReceiptTimeout p b s = _
  simp only [execAnnounceReceiptTimeout, growing_of hg, hup, hon, Bool.not_true, Bool.or_self, Bool.false_eq_true, if_false]

end

/-! ### The Announce interval -/

/-- `t` is `s` with messages sent, and nothing else of ports outside `l` changed. -/
structure Announced (l : List Nat) (s t : State) : Prop where
  frame : t = { s with wire := t.wire, alm := { s.alm with ports := t.alm.ports }, ports := { s.ports with counters := t.ports.counters } }
  wire : s.wire ⊆ t.wire
  others : ∀ q, q ∉ l → gport q t = gport q s

section
variable {l : List Nat} {s t u : State}

theorem Announced.refl (l : List Nat) (s : State) : Announced l s s := ⟨rfl, List.Subset.refl _, fun _ _ => rfl⟩

theorem Announced.trans (h : Announced l s t) (g : Announced l t u) : Announced l s u where
  frame := g.frame.trans (by rw [h.frame])
  wire := List.Subset.trans h.wire g.wire
  others q hq := (g.others q hq).trans (h.others q hq)

theorem Announced.widen {k : List Nat} (h : Announced l s t) (hl : l ⊆ k) : Announced k s t :=
  ⟨h.frame, h.wire, fun q hq => h.others q fun hm => hq (hl hm)⟩

theorem countPort_announced (l : List Nat) (p i n : Nat) (s : State) : Announced l s (countPort p i n s) :=
  ⟨rfl, List.Subset.refl _, fun _ _ => rfl⟩

theorem emit_announced (l : List Nat) (w : WireItem) (s : State) : Announced l s (emit w s) :=
  ⟨rfl, List.subset_cons_self _ _, fun _ _ => rfl⟩

theorem sendGptp_announced (l : List Nat) (p kind dom : Nat) (m : GptpOut) (s : State) : Announced l s (sendGptp p kind dom m s) := by
  show Announced l s (emit _ (countPort p 23 1 (countPort p 21 1 (countPort p 20 (gptpLen kind) s))))
  exact (((countPort_announced ..).trans (countPort_announced ..)).trans (countPort_announced ..)).trans (emit_announced ..)

theorem sendAnnounce_announced (l : List Nat) (p : Nat) (rel : Bool) (s : State) : Announced l s (sendAnnounce p rel s) :=
  iteInduction (motive := Announced l s) (fun _ => sendGptp_announced ..) fun _ => .refl ..

theorem setGport_announced (p : Nat) (v : GptpPort) (s : State) : Announced [p] s (setGport p v s) :=
  ⟨rfl, List.Subset.refl _, fun _ hq => gport_setGport_other (fun h => hq (List.mem_singleton.2 h)) v s⟩

theorem announcePort_announced (s : State) (p : Nat) : Announced [p] s (announcePort s p) :=
  iteInduction (motive := Announced [p] s)
    (fun _ => ((sendAnnounce_announced ..).trans (sendAnnounce_announced ..)).trans (setGport_announced ..)) fun _ => .refl ..

theorem foldl_announced (l : List Nat) (s : State) : Announced l s (l.foldl announcePort s) := by
  induction l generalizing s with
  | nil => exact .refl _ _
  | cons p l ih =>
    exact ((announcePort_announced s p).widen (by simp)).trans ((ih _).widen (List.subset_cons_self _ _))

end

section
variable {p : Nat} {s : State}

/-- R161: a port whose interval has passed sends its Announce. -/
theorem announcePort_due (hm : (gport p s).master = true) (hon : gptpOn p s.alm.working s = true) (hd : announceDue p s = true) :
    (gport p (announcePort s p)).announced = some s.power.upNs ∧
      .gptp p 4 s.alm.working (if gptp2011 p s then 0 else 1) (gptpClass p s)
        { priorities := if s.alm.grandmaster then some (ownPriorities s) else none } ∈ (announcePort s p).wire := by
  have ha : announces p false s = true := by
    show ((gport p s).master && gptpOn p s.alm.working s) = true
    rw [hm, hon]
    rfl
  have hfirst : sendAnnounce p false s = sendGptp p 4 s.alm.working
      { priorities := if s.alm.grandmaster then some (ownPriorities s) else none } s := by
    rw [sendAnnounce, if_pos ha]
    rfl
  have hdoes : announcePort s p =
      setGport p { gport p s with announced := some s.power.upNs } (sendAnnounce p true (sendAnnounce p false s)) := by
    rw [announcePort, hd, ha]
    rfl
  rw [hdoes, gport_setGport_same, setGport_wire]
  refine ⟨rfl, (sendAnnounce_announced [] p true _).wire ?_⟩
  rw [hfirst, sendGptp_eq]
  exact List.mem_cons_self

theorem announcePort_waits (hd : announceDue p s = false) : announcePort s p = s := by
  simp only [announcePort, hd, Bool.false_and, Bool.false_eq_true, if_false]

/-- What other ports announce before it changes nothing that a port's Announce depends on. -/
theorem Announced.due {l : List Nat} {u : State} (h : Announced l s u) (hp : p ∉ l) (hm : (gport p s).master = true)
    (hon : gptpOn p s.alm.working s = true) (hd : announceDue p s = true) :
    (gport p (announcePort u p)).announced = some s.power.upNs ∧
      .gptp p 4 s.alm.working (if gptp2011 p s then 0 else 1) (gptpClass p s)
        { priorities := if s.alm.grandmaster then some (ownPriorities s) else none } ∈ (announcePort u p).wire := by
  have hport := h.others p hp
  have hframe := h.frame
  generalize u.wire = w at hframe
  generalize u.alm.ports = ps at hframe
  generalize u.ports.counters = cs at hframe
  have hd' : announceDue p u = true := by
    rw [announceDue, hport, hframe]
    exact hd
  have hm' : (gport p u).master = true := by rw [hport]; exact hm
  clear hport h
  subst hframe
  exact announcePort_due hm' hon hd'

/-- R161: in a round over the ports each whose interval has passed sends its Announce. -/
theorem foldl_announcePort_due {l : List Nat} (hl : l.Nodup) (hp : p ∈ l) (hm : (gport p s).master = true)
    (hon : gptpOn p s.alm.working s = true) (hd : announceDue p s = true) :
    (gport p (l.foldl announcePort s)).announced = some s.power.upNs ∧
      .gptp p 4 s.alm.working (if gptp2011 p s then 0 else 1) (gptpClass p s)
        { priorities := if s.alm.grandmaster then some (ownPriorities s) else none } ∈ (l.foldl announcePort s).wire := by
  obtain ⟨before, after, rfl⟩ := List.append_of_mem hp
  obtain ⟨-, hrest, hdisjoint⟩ := List.nodup_append.1 hl
  have hbefore : p ∉ before := fun h => hdisjoint p h p List.mem_cons_self rfl
  have hafter : p ∉ after := (List.nodup_cons.1 hrest).1
  rw [List.foldl_append, List.foldl_cons]
  obtain ⟨hport, hwire⟩ := (foldl_announced before s).due hbefore hm hon hd
  have hlast := foldl_announced after (announcePort (before.foldl announcePort s) p)
  exact ⟨by rw [hlast.others p hafter]; exact hport, hlast.wire hwire⟩

theorem announceInterval_round (hg : s.power.state = .growing) (hup : s.stw.up = true) :
    exec .announceInterval s = .next ((List.range 10).foldl announcePort s) := by
  show execAnnounceInterval s = _
  simp only [execAnnounceInterval, growing_of hg, hup, Bool.not_true, Bool.or_self, Bool.false_eq_true, if_false]

theorem foldl_announcePort_waits {l : List Nat} (h : ∀ q ∈ l, announceDue q s = false) : l.foldl announcePort s = s := by
  induction l with
  | nil => rfl
  | cons p l ih => rw [List.foldl_cons, announcePort_waits (h p List.mem_cons_self), ih fun q hq => h q (List.mem_cons_of_mem p hq)]

theorem announceInterval_waits (h : ∀ q, q < 10 → announceDue q s = false) : exec .announceInterval s = .next s := by
  show execAnnounceInterval s = _
  unfold execAnnounceInterval
  rw [foldl_announcePort_waits fun q hq => h q (List.mem_range.1 hq), ite_self]

end

/-! ### Losing the source -/

section
variable {s : State}

/-- R170: Locked without its source passes to Holdover, with events 40 and 46. -/
theorem loseSource_holds (hl : s.alm.state = .locked) (hs : s.alm.grandmaster = false) :
    (loseSource s).alm.state = .holdover ∧ (loseSource s).ev.pending.getLsbD 40 = true ∧ (loseSource s).ev.pending.getLsbD 46 = true := by
  have hstate : (freeze s).alm.state ≠ .holdover := by rw [freeze_state, hl]; decide
  have hlost : loseSource s = raise 46 noObject (setTimeState .holdover (freeze s)) := by simp [loseSource, hl, hs]
  rw [hlost, raise_alm]
  exact ⟨setTimeState_state .., (raise_moved _ _ _).pending 40 (setTimeState_pending _ hstate), raise_pending _ _ (by decide) (by decide)⟩

/-- R170: an expired budget takes Holdover to Uncertain, with event 40. -/
theorem holdoverBudget_expires (hh : s.alm.state = .holdover) :
    ∃ t, exec .holdoverBudget s = .next t ∧ t.alm.state = .uncertain ∧ t.alm.budgetExpired = true ∧ t.ev.pending.getLsbD 40 = true := by
  refine ⟨{ setTimeState .uncertain s with alm.budgetExpired := true }, ?_, setTimeState_state .., rfl, ?_⟩
  · show execHoldoverBudget s = _
    rw [execHoldoverBudget, if_pos hh]
  · exact setTimeState_pending s (by rw [hh]; decide)

end

end Sys2Proof.Machine
end

section
/-! PROOF. The statement on the working clock (R158 to R176), from what each message and timer does. -/

namespace Sys2Proof.Machine

section
variable {p : Nat} {s : State}

/-- R164 to R168: a Sync of the working domain on the slave port, by its clauses. -/
theorem sync_serves {m : SyncMsg} {θ T i a : Rat} (hg : s.power.state = .growing) (hon : gptpOn p m.domain s = true)
    (hx : s.alm.exchange.map (·.1) ≠ some m.domain) (hd : m.domain = s.alm.working) (hs : s.alm.slavePort = some p)
    (hgm : s.alm.grandmaster = false) (hsrc : servoSource s = 0) (hθ : θ = syncOffset p m s) (hT : T = pow2 (timePort p s) 3)
    (hi : i = clampTo 200000 ((if s.alm.frozen then s.alm.a else s.alm.i) + (u32 (servoCfg s) 8 : Rat) / 65536 * θ / T))
    (ha : a = clampTo 200000 ((u32 (servoCfg s) 4 : Rat) / 65536 * θ / T + i)) :
    exec (.sync p m) s = .next (relaySync p false m (takeOffset θ T s)) ∧
      ((gport p s).suspect = false → s.alm.state = .locked → s.alm.gmPending = false →
        (beyondStep θ s = false →
          ∃ t, exec (.sync p m) s = .next t ∧ t.alm.theta = θ ∧ t.alm.i = i ∧ t.alm.a = a ∧ t.alm.inc = increment a ∧
            t.alm.outlierRun = 0 ∧ nowNs t = nowNs s ∧ t.bank = s.bank) ∧
        (beyondStep θ s = true → s.alm.outlierRun + 1 < u8 (servoCfg s) 1 →
          ∃ t, exec (.sync p m) s = .next t ∧ t.alm.theta = θ ∧ t.alm.outliers = s.alm.outliers + 1 ∧
            t.alm.outlierRun = s.alm.outlierRun + 1 ∧ t.alm.inc = s.alm.inc ∧ t.alm.state = .locked ∧ nowNs t = nowNs s)) := by
  have hsync : exec (.sync p m) s = .next (relaySync p false m (takeOffset θ T s)) := by
    rw [hθ, hT]
    exact sync_measured hg hon hx hd hs hgm hsrc
  refine ⟨hsync, fun hsus hl hp => ?_⟩
  have hslave : slaveSuspect s = false := by rw [slaveSuspect, hs]; exact hsus
  obtain ⟨halm, -, hbank⟩ := relaySync_leaves p false m (takeOffset θ T s)
  rw [hsync]
  generalize relaySync p false m (takeOffset θ T s) = t at halm hbank
  refine ⟨fun hb => ⟨t, rfl, ?_⟩, fun hb hn => ⟨t, rfl, ?_⟩⟩
  · have hwithin := takeOffset_within hgm hslave hl hp hi ha hb
    rw [nowNs] at hwithin ⊢
    rwa [halm, hbank]
  · rw [nowNs, halm, takeOffset_outlier hgm hslave hl hp hb hn]
    exact ⟨rfl, rfl, rfl, rfl, hl, rfl⟩

end

/-- Settles O36: what each message and timer does, taken from the lemmas about it. The sign of the relayed domain's offset is log 121, the
octets counted for a message log 134, a Sync before any Pdelay result log 113, a result beyond the delay limit log 112. -/
theorem workingClock : Obligations.WorkingClock := by
  refine ⟨fun p m θ T i a s => sync_serves, fun p m n b x y w r s => ?_⟩
  refine ⟨fun hg hon hx hw hr hs => ?_, fun hg hon hx hd hs => ?_, fun hg hon hx hs hf => pdelayResult_filters hg hon hx hs hf,
    fun f hg hon hx hs hf hw => ?_, fun hg hon hx hs => ⟨pdelayResult_gathers hg hon hx hs, fun hl hc => ?_, pdelayResult_forgets hg hon hx hs⟩,
    pdelayResult_beyond, fun hs => ?_, fun hg hup hw hr hon hm hgm => ?_, fun hg hup hr hon => ?_, fun hg hup hon hm hgm => ?_,
    fun hg hup hon hm hgm => ?_, fun hg hgm hm hon => ?_, fun hg hon => ?_, fun hg hon => ?_, fun hg hup hp hm hon hd => ?_,
    announceInterval_waits, fun hsrc hl hgm => ?_, fun hsrc hl hgm => ?_, holdoverBudget_expires⟩
  · obtain ⟨halm, hev, -⟩ := relaySync_leaves p true m { s with alm.relOffset := roundRat (syncOffset p m s), alm.relRate := m.ratePpb }
    exact ⟨_, sync_relayed hg hon hx hw hr hs, halm, hev⟩
  · subst hd
    obtain ⟨hmoved, hpending⟩ := takeExchange_takes hx
    refine ⟨_, sync_exchanges hg hon hx hs, ?_, ?_, ?_, ?_, ?_, ?_, ?_, ?_, hpending⟩
    all_goals rw [hmoved.alm, exchanged]
  · obtain ⟨hmoved, hpending, hstate⟩ := openSuspect_does p (setGport p (withResult x y (gport p s)) s)
    refine ⟨_, pdelayResult_suspects hg hon hx hs hf hw, ?_, ?_, ?_, hpending, hstate⟩
    · rw [hmoved.gport, gport_setGport_same]
    · rw [hmoved.gport, gport_setGport_same, gport_setGport_same]; exact hf
    · rw [hmoved.gport, gport_setGport_same, gport_setGport_same]; rfl
  · refine ⟨_, pdelayResult_closes hg hon hx hs hl hc, ?_, ?_⟩
    all_goals rw [closeSuspect_port]
  · show execSuspectTimeout p s = _
    rw [execSuspectTimeout, if_pos hs]
  · obtain ⟨hmoved, hpending⟩ := applySelection_slave hm hgm
    obtain ⟨hslave, hid, hports, hev⟩ := takeUtc_leaves n (applySelection n.sel s)
    refine ⟨_, announce_selects hg hup hon hw hr,
      hid.trans (hmoved.gmId.trans (rolesSet_gmId ..)), hslave.trans hmoved.slavePort, fun q hq => ?_, fun hv hsome => ?_, ?_⟩
    · rw [hports, hmoved.master]
      exact rolesSet_master _ s hq
    · exact takeUtc_takes hv (by rw [hmoved.slavePort]; exact hsome) (by rw [hmoved.grandmaster, rolesSet_grandmaster]; exact hgm)
    · rw [hev]; exact hpending
  · exact ⟨_, announce_relayed hg hup hon hr, applyRelayed_does n.sel s⟩
  · obtain ⟨hgrand, hslave, hid, hutc, hcfg, hstate⟩ := applySelection_gm hm hgm
    refine ⟨_, announceReceiptTimeout_selects hg hup hon, hgrand, hslave, hid, ?_, hstate⟩
    simp only [utcOffset, hutc, configuredUtc, timeCfg, hcfg, Bool.false_eq_true, if_false]
  · obtain ⟨hmoved, -⟩ := applySelection_slave hm hgm
    exact ⟨_, announceReceiptTimeout_selects hg hup hon, hmoved.grandmaster.trans ((rolesSet_grandmaster ..).trans hgm), hmoved.slavePort,
      hmoved.gmId.trans (rolesSet_gmId ..)⟩
  · rw [syncInterval_sends hg hgm hm hon, sendGptp_twice]
  · rw [pdelayInterval_sends hg hon, sendGptp_eq]
  · rw [pdelayReq_answers hg hon, sendGptp_twice]
  · obtain ⟨hport, hwire⟩ := foldl_announcePort_due List.nodup_range (List.mem_range.2 hp) hm hon hd
    exact ⟨_, announceInterval_round hg hup, (foldl_announced (List.range 10) s).frame, hport, hwire⟩
  · exact ⟨_, by show execSyncReceiptTimeout s = _; rw [execSyncReceiptTimeout, if_pos hsrc], loseSource_holds hl hgm⟩
  · exact ⟨_, by show execPpsInMissing s = _; rw [execPpsInMissing, if_pos hsrc], loseSource_holds hl hgm⟩

end Sys2Proof.Machine
end

section
/-! PROOF. Frames that start on a port, copies that have left, Furrow gates and holds (R200 to R208, R225, R280, R303). -/

namespace Sys2Proof.Machine

/-! ### A boundary of a free port -/

section
variable {p n : Nat} {c : Copy} {rd : ReadOutcome} {s t : State}

theorem OnlyPorts.portWire (h : OnlyPorts s t) : t.drill.portWire = s.drill.portWire := by obtain ⟨_, _, _, _, rfl⟩ := h; rfl
theorem OnlyPorts.portHeld (h : OnlyPorts s t) : t.drill.portHeld = s.drill.portHeld := by obtain ⟨_, _, _, _, rfl⟩ := h; rfl
theorem OnlyPorts.keys (h : OnlyPorts s t) : t.keys = s.keys := by obtain ⟨_, _, _, _, rfl⟩ := h; rfl
theorem OnlyPorts.furrows (h : OnlyPorts s t) : t.drill.furrows = s.drill.furrows := by obtain ⟨_, _, _, _, rfl⟩ := h; rfl
theorem OnlyPorts.alm (h : OnlyPorts s t) : t.alm = s.alm := by obtain ⟨_, _, _, _, rfl⟩ := h; rfl
theorem OnlyPorts.buses (h : OnlyPorts s t) : t.buses = s.buses := by obtain ⟨_, _, _, _, rfl⟩ := h; rfl

theorem sendPauses_onlyPorts (p : Nat) (s : State) : OnlyPorts s (sendPauses p s) := by
  unfold sendPauses
  dsimp only
  split
  · exact .refl s
  · exact (setPort_onlyPorts ..).trans (foldl_onlyPorts _ (fun _ _ => putPause_onlyPorts ..) _)

/-- The frame that a port takes is one that waits on it. -/
theorem nextFrame_waits (h : nextFrame p s = some c) : c ∈ tgetD p [] s.drill.ports := by
  obtain ⟨tc, -, hhead⟩ := List.mem_filterMap.1 (List.mem_of_find?_eq_some h)
  exact List.mem_of_mem_filter (List.mem_of_mem_head? hhead)

/-- A frame that takes the wire is the selected copy: its grain, class and key slot stay. -/
theorem takeWire_puts (p : Nat) (c : Copy) (rd : ReadOutcome) (s : State) :
    ∃ x, tget p (takeWire p c rd s).drill.portWire = some x ∧ x.grain = c.grain ∧ x.tc = c.tc ∧ x.slot = c.slot := by
  refine ⟨_, tget_tset_same .., ?_⟩
  unfold readPort
  dsimp only
  split <;> exact ⟨rfl, rfl, rfl⟩

/-- R200: on a port without protection the first head that may start, and is within its class's maximum, takes the wire. -/
theorem selectFrame_takes (hn : nextFrame p s = some c) (hl : frameLen c ≤ maxLen p c.tc s.bank) (hk : s.keys.protTx.contains p = false) :
    selectFrame p rd (n + 1) s = takeWire p c rd (unqueuePort p c s) := by
  have hk' : (unqueuePort p c s).keys.protTx.contains p = false := hk
  simp only [selectFrame, hn, Nat.not_lt.2 hl, startFrame, hk', Bool.and_false, Bool.false_eq_true, if_false]

/-- A boundary without a cut frame selects among the heads after those that a pause keeps back are counted. -/
theorem freeWire_selects (hh : tget p s.drill.portHeld = none) :
    freeWire p rd s = selectFrame p rd (tgetD p [] (countPaused p s).drill.ports).length (countPaused p s) := by
  have hh' : tget p (countPaused p s).drill.portHeld = none := hh
  simp only [freeWire, hh']

/-- R200, R296: at a boundary of a free port credits are brought up to date, pause frames go first, and a frame is selected. -/
theorem portFrameSelect_selects (hf : forwards s = true) (hu : portUp p s = true) (hw : s.keys.waiting.contains p = false)
    (hfree : tget p s.drill.portWire = none) :
    exec (.portFrameSelect p rd) s = .next (freeWire p rd (sendPauses p (updateCredits p s))) := by
  have hcredits := updateCredits_onlyPorts p s
  have hfree' : tget p (updateCredits p s).drill.portWire = none := by rw [hcredits.portWire]; exact hfree
  have hsent : tget p (sendPauses p (updateCredits p s)).drill.portWire = none := by
    rw [(sendPauses_onlyPorts p _).portWire]; exact hfree'
  have hyield : yieldWire p true (updateCredits p s) = updateCredits p s := by simp only [yieldWire, hfree']
  show execPortFrameSelect p rd s = _
  simp only [execPortFrameSelect, hf, hu, hw, hyield, hsent, Bool.not_true, Bool.false_eq_true, if_false, Option.isNone_none, if_true]

/-- R200: the first head that may start takes the wire. -/
theorem portFrameSelect_takes (hf : forwards s = true) (hu : portUp p s = true) (hw : s.keys.waiting.contains p = false)
    (hfree : tget p s.drill.portWire = none) (hheld : tget p s.drill.portHeld = none)
    (hn : nextFrame p (countPaused p (sendPauses p (updateCredits p s))) = some c) (hl : frameLen c ≤ maxLen p c.tc s.bank)
    (hk : s.keys.protTx.contains p = false) :
    ∃ t x, exec (.portFrameSelect p rd) s = .next t ∧ tget p t.drill.portWire = some x ∧ x.grain = c.grain ∧ x.tc = c.tc ∧
      x.slot = c.slot := by
  have hready := (updateCredits_onlyPorts p s).trans (sendPauses_onlyPorts p _)
  rw [portFrameSelect_selects hf hu hw hfree]
  generalize sendPauses p (updateCredits p s) = u at hn hready
  obtain ⟨n, hlen⟩ : ∃ n, (tgetD p [] (countPaused p u).drill.ports).length = n + 1 :=
    Nat.exists_eq_succ_of_ne_zero (List.length_pos_of_mem (nextFrame_waits hn)).ne'
  have hl' : frameLen c ≤ maxLen p c.tc (countPaused p u).bank := by rw [← hready.bank] at hl; exact hl
  have hk' : (countPaused p u).keys.protTx.contains p = false := by rw [← hready.keys] at hk; exact hk
  rw [freeWire_selects (by rw [hready.portHeld]; exact hheld), hlen, selectFrame_takes hn hl' hk']
  obtain ⟨x, hx⟩ := takeWire_puts p c rd (unqueuePort p c (countPaused p u))
  exact ⟨_, x, rfl, hx⟩

end

/-! ### Copies that have left -/

section
variable {p r k : Nat} {c : Copy} {s : State}

theorem OnlyPortCounters.buses {s t : State} (h : OnlyPortCounters s t) : t.buses = s.buses := by
  unfold OnlyPortCounters at h; rw [h]

theorem OnlyPortCounters.drill {s t : State} (h : OnlyPortCounters s t) : t.drill = s.drill := by
  unfold OnlyPortCounters at h; rw [h]

/-- One frame more under an index of a port's statistics, where a condition holds. -/
def countIf (b : Bool) (p i : Nat) (s : State) : State := if b then countPort p i 1 s else s

theorem countIf_onlyCounters (b : Bool) (p i : Nat) (s : State) : OnlyPortCounters s (countIf b p i s) := by cases b <;> rfl

theorem countIf_other {b : Bool} {p i j : Nat} (h : i ≠ j) (s : State) :
    tgetD (48 * p + i) 0 (countIf b p j s).ports.counters = tgetD (48 * p + i) 0 s.ports.counters := by
  cases b
  · rfl
  · exact countPort_other h s

/-- A frame that has left whole, counted by its bytes, as a frame, by its destination and by what it carried (R303). -/
def sentCounted (p : Nat) (c : Copy) (s : State) : State :=
  countIf c.slot.isSome p 37 (countIf c.own p 36 (countPort p (destCounter c) 1 (countPort p 21 1
    (countPort p 20 (frameLen c + (if c.slot.isSome then expansion p s else 0)) s))))

theorem sentCounted_onlyCounters (p : Nat) (c : Copy) (s : State) : OnlyPortCounters s (sentCounted p c s) :=
  (((countPort_onlyCounters ..).trans (countPort_onlyCounters ..)).trans (countPort_onlyCounters ..)).trans
    ((countIf_onlyCounters ..).trans (countIf_onlyCounters ..))

theorem destCounter_ge (c : Copy) : 22 ≤ destCounter c := by
  unfold destCounter
  repeat' split
  all_goals decide

/-- R303: a frame that has left counts once among the frames sent. -/
theorem sentCounted_frames (p : Nat) (c : Copy) (s : State) : tgetD (48 * p + 21) 0 (sentCounted p c s).ports.counters =
    min (tgetD (48 * p + 21) 0 s.ports.counters + 1) 18446744073709551615 := by
  have hdest : 21 ≠ destCounter c := Nat.ne_of_lt (destCounter_ge c)
  rw [sentCounted, countIf_other (by decide), countIf_other (by decide), countPort_other hdest, countPort_counter,
    countPort_other (by decide)]

/-- A transmit stamp touches the stamp FIFOs and the events alone. -/
theorem writeStamp_keeps (p : Nat) (c : Copy) (s : State) :
    (writeStamp p c s).ports = s.ports ∧ (writeStamp p c s).buses = s.buses ∧ (writeStamp p c s).drill = s.drill := by
  unfold writeStamp
  split
  · exact ⟨rfl, rfl, rfl⟩
  dsimp only
  split
  · exact ⟨rfl, rfl, rfl⟩
  split
  · rw [raise_frame]; exact ⟨rfl, rfl, rfl⟩
  · exact ⟨rfl, rfl, rfl⟩

theorem SameButCopies.ports {s t : State} (h : SameButCopies s t) : t.ports = s.ports := by obtain ⟨_, _, _, _, _, rfl⟩ := h; rfl

theorem SameButCopies.portWire {s t : State} (h : SameButCopies s t) : t.drill.portWire = s.drill.portWire := by
  obtain ⟨_, _, _, _, _, rfl⟩ := h; rfl

/-- The state with nothing on a port's wire. -/
def unwirePort (p : Nat) (s : State) : State := { s with drill.portWire := tdel p s.drill.portWire }

@[simp] theorem unwirePort_buses (p : Nat) (s : State) : (unwirePort p s).buses = s.buses := rfl
@[simp] theorem unwirePort_ports (p : Nat) (s : State) : (unwirePort p s).ports = s.ports := rfl
theorem unwirePort_free (p : Nat) (s : State) : tget p (unwirePort p s).drill.portWire = none := tget_tdel_same ..

/-- The state in which a frame that has left whole is recorded: counted and stamped, its place given up. -/
def frameLeft (p : Nat) (c : Copy) (s : State) : State := endCopy c (writeStamp p c (sentCounted p c (unwirePort p (updateCredits p s))))

/-- A copy of a frame is no ACF copy, whatever row it came by. -/
theorem isAcf_frame (hk : c.grain.kind = 15) : isAcf c = false := by simp [isAcf, hk]

theorem frameSent_whole (hk : c.grain.kind = 15) (hs : c.stomp = false) : frameSent p c s = outFrame p c (frameLeft p c s) := by
  simp only [frameSent, isAcf_frame hk, hs, frameLeft, sentCounted, countIf, unwirePort, Bool.false_eq_true, if_false]

theorem updateCredits_ports (p : Nat) (s : State) : (updateCredits p s).ports = s.ports := by
  refine foldl_keeps (fun t => t.ports = s.ports) _ (fun t tc h => ?_) _ s rfl
  unfold updateCredit
  split <;> exact h

/-- R225, R303: a frame that has left counts as one sent, and its wire is free. -/
theorem frameLeft_does (p : Nat) (c : Copy) (s : State) : (frameLeft p c s).buses = s.buses ∧
    tget p (frameLeft p c s).drill.portWire = none ∧ tgetD (48 * p + 21) 0 (frameLeft p c s).ports.counters =
      min (tgetD (48 * p + 21) 0 s.ports.counters + 1) 18446744073709551615 := by
  have hend := endCopy_same c (writeStamp p c (sentCounted p c (unwirePort p (updateCredits p s))))
  have hcounted := sentCounted_onlyCounters p c (unwirePort p (updateCredits p s))
  obtain ⟨hports, hbuses, hdrill⟩ := writeStamp_keeps p c (sentCounted p c (unwirePort p (updateCredits p s)))
  refine ⟨?_, ?_, ?_⟩
  · rw [frameLeft, hend.keepsQueues.buses, hbuses, hcounted.buses, unwirePort_buses, (updateCredits_onlyPorts p s).buses]
  · rw [frameLeft, hend.portWire, hdrill, hcounted.drill, unwirePort_free]
  · rw [frameLeft, hend.ports, hports, sentCounted_frames, unwirePort_ports, updateCredits_ports]

/-- R303: the frame that has left is recorded. -/
theorem copySent_port (hw : tget p s.drill.portWire = some c) (hk : c.grain.kind = 15) (hs : c.stomp = false) (hl : looped p s = false) :
    ∃ t, exec (.copySent (.port p)) s = .next t ∧ tget p t.drill.portWire = none ∧
      t.wire.head? = some (.frame p c.out false c.slot.isSome) ∧
      tgetD (48 * p + 21) 0 t.ports.counters = min (tgetD (48 * p + 21) 0 s.ports.counters + 1) 18446744073709551615 := by
  obtain ⟨hbuses, hwire, hcounter⟩ := frameLeft_does p c s
  have hloop : looped p (frameLeft p c s) = false := by rw [looped, hbuses]; exact hl
  have hout : outFrame p c (frameLeft p c s) = emit (.frame p c.out false c.slot.isSome) (frameLeft p c s) := by
    simp only [outFrame, hloop, isAcf_frame hk, hs, Bool.false_eq_true, if_false]
  have hexec : exec (.copySent (.port p)) s = .next (frameSent p c s) := by
    show execCopySent (.port p) s = _
    simp only [execCopySent, hw]
  rw [hexec, frameSent_whole hk hs, hout]
  exact ⟨_, rfl, hwire, rfl, hcounter⟩

theorem drivePins_loopback (s : State) : (drivePins s).buses.loopback = s.buses.loopback := by simp only [drivePins]

/-- A row's copy that has left: its wire is free, and what its controller noted stays. -/
theorem sentCopy_unwired (r : Nat) (c : Copy) (s : State) :
    KeepsQueues (unwire r s) (sentCopy r c (unwire r s)) ∧ tget r (sentCopy r c (unwire r s)).drill.rowWire = none := by
  have h := (sentCopy_same r c (unwire r s)).keepsQueues
  exact ⟨h, by rw [h.rowWire]; exact tget_tdel_same ..⟩

theorem copySent_row (hw : tget r s.drill.rowWire = some c) : exec (.copySent (.row r)) s = .next (rowSent r c s) := by
  show execCopySent (.row r) s = _
  simp only [execCopySent, hw]

/-- A UART that has sent the last of `n` bytes. -/
def uartSent (k n : Nat) (s : State) : UartRt :=
  { uartRt k s with sending := false, lastTx := some (nowNs s), counters := addCtr 1 n (uartRt k s).counters }

/-- A UART that is not looped back is idle after its copy, and has counted its bytes. -/
theorem copySent_uart (hw : tget r s.drill.rowWire = some c) (hc : c.ctl = some (1, k)) (hl : loopMode 2 k s = 0) :
    ∃ t, exec (.copySent (.row r)) s = .next t ∧ tget r t.drill.rowWire = none ∧ (uartRt k t).sending = false ∧
      (uartRt k t).lastTx = some (nowNs s) ∧ (uartRt k t).counters = addCtr 1 c.out.length (uartRt k s).counters := by
  have hsent : rowSent r c s =
      uartLoop k c.out (drivePins (sentCopy r c (unwire r (setUart k (uartSent k c.out.length s) s)))) := by
    simp only [rowSent, hc, uartSent]
  obtain ⟨hkeeps, hfree⟩ := sentCopy_unwired r c (setUart k (uartSent k c.out.length s) s)
  generalize sentCopy r c (unwire r (setUart k (uartSent k c.out.length s) s)) = u at hsent hkeeps hfree
  have hloop : loopMode 2 k (drivePins u) = 0 := by rw [loopMode, drivePins_loopback, hkeeps.buses]; exact hl
  have hrt : uartRt k (drivePins u) = uartSent k c.out.length s := by
    rw [uartRt_drivePins, uartRt, hkeeps.buses]
    exact uartRt_setUart_same ..
  refine ⟨drivePins u, ?_, ?_⟩
  · rw [copySent_row hw, hsent]
    exact congrArg _ (if_pos hloop)
  · rw [hrt, drivePins_drill]
    exact ⟨hfree, rfl, rfl, rfl⟩

/-- R267: a LIN commander that has sent header and response counts it and leaves the bus free. -/
theorem copySent_lin (hw : tget r s.drill.rowWire = some c) (hc : c.ctl = some (2, k)) (hslot : (linRt k s).slotWaiting = 0) :
    ∃ t, exec (.copySent (.row r)) s = .next t ∧ tget r t.drill.rowWire = none ∧ (linRt k t).busy = false ∧
      (linRt k t).counters = addCtr 2 1 (linRt k s).counters := by
  obtain ⟨hkeeps, hfree⟩ := sentCopy_unwired r c (countLin k 2 s)
  have hrt : linRt k (sentCopy r c (unwire r (countLin k 2 s))) = { linRt k s with counters := addCtr 2 1 (linRt k s).counters } :=
    (hkeeps.linRt k).trans (linRt_countLin k 2 s)
  have hsent : rowSent r c s = linIdle k (sentCopy r c (unwire r (countLin k 2 s))) := by simp only [rowSent, hc]
  rw [copySent_row hw, hsent, linIdle_noSlot (by rw [hrt]; exact hslot)]
  exact ⟨_, rfl, hfree, by rw [linRt_setLin_same, hrt]; exact ⟨rfl, rfl⟩⟩

end

/-! ### Gates and holds -/

section
variable {p : Nat} {c : Copy} {i : Img} {s : State}

@[simp] theorem furrowRt_setFurrow_same (p : Nat) (v : FurrowRt) (s : State) : furrowRt p (setFurrow p v s) = v := tgetD_tset_same ..

/-- What a closed gate or an idle start finds on the wire changes no list, and clears no pending event. -/
theorem gateOverrun_keeps (p : Nat) (idle : Bool) (s : State) : furrowRt p (gateOverrun p idle s) = furrowRt p s ∧
    ∀ n, s.ev.pending.getLsbD n = true → (gateOverrun p idle s).ev.pending.getLsbD n = true := by
  unfold gateOverrun
  split
  · exact ⟨rfl, fun _ h => h⟩
  split
  · exact ⟨rfl, fun _ h => h⟩
  split
  · exact ⟨rfl, fun _ h => h⟩
  split
  · exact ⟨rfl, fun _ h => h⟩
  · exact ⟨by rw [furrowRt, raise, raiseD_drill]; rfl, fun n h => raiseD_pending_mono 20 0 p _ n h⟩

/-- R203: a port's list stays, its gates of the present are in force, and the wire is looked at. -/
theorem setGates_runs (ho : (furrowRt p s).oper = some i) : ∃ v idle, setGates p s = gateOverrun p idle (setFurrow p v s) ∧
    v.oper = some i ∧ v.change = (furrowRt p s).change ∧ v.remove = (furrowRt p s).remove ∧
    v.gates = gatesAt i (furrowRt p s).change (nowNs s) := by
  simp only [setGates, ho]
  refine ⟨_, _, rfl, rfl, rfl, rfl, ?_⟩
  dsimp only

/-- R203: a port without a list has its gates open. -/
theorem setGates_idle (ho : (furrowRt p s).oper = none) :
    setGates p s = setFurrow p { furrowRt p s with gates := BitVec.allOnes 8, hold := false } s := by
  simp only [setGates, ho]

/-- Putting gates in force changes no list and clears no pending event. -/
theorem setGates_keeps (p : Nat) (s : State) : (furrowRt p (setGates p s)).oper = (furrowRt p s).oper ∧
    (furrowRt p (setGates p s)).change = (furrowRt p s).change ∧ (furrowRt p (setGates p s)).remove = (furrowRt p s).remove ∧
    ∀ n, s.ev.pending.getLsbD n = true → (setGates p s).ev.pending.getLsbD n = true := by
  cases ho : (furrowRt p s).oper with
  | none =>
    rw [setGates_idle ho, furrowRt_setFurrow_same]
    exact ⟨ho, rfl, rfl, fun _ h => h⟩
  | some i =>
    obtain ⟨v, idle, hrun, hoper, hchange, hremove, -⟩ := setGates_runs ho
    obtain ⟨hrt, hpending⟩ := gateOverrun_keeps p idle (setFurrow p v s)
    rw [hrun, hrt, furrowRt_setFurrow_same]
    exact ⟨hoper, hchange, hremove, hpending⟩

/-- R203: a furrow's start on a port whose list is not to be removed puts its gates in force. -/
theorem gateChange_does (ho : (furrowRt p s).oper = some i) (hr : (furrowRt p s).remove = none) :
    ∃ t, exec (.gateChange p) s = .next t ∧ (furrowRt p t).gates = gatesAt i (furrowRt p s).change (nowNs s) ∧
        (furrowRt p t).oper = some i := by
  have hcredits := updateCredits_onlyPorts p s
  have hrt : furrowRt p (updateCredits p s) = furrowRt p s := by rw [furrowRt, hcredits.furrows]; rfl
  have hnow : nowNs (updateCredits p s) = nowNs s := by rw [nowNs, hcredits.alm]; rfl
  have hexec : exec (.gateChange p) s = .next (setGates p (updateCredits p s)) := by
    show execGateChange p s = _
    simp only [execGateChange, takeRemoval, hrt, hr]
  rw [← hrt] at ho
  obtain ⟨v, idle, hrun, hoper, -, -, hgates⟩ := setGates_runs ho
  refine ⟨_, hexec, ?_⟩
  rw [hrun, (gateOverrun_keeps p idle _).1, furrowRt_setFurrow_same, hgates, hrt, hnow]
  exact ⟨rfl, hoper⟩

/-- A port's list after its change: the one the settings hold. -/
def furrowChanged (p : Nat) (s : State) : FurrowRt := { furrowRt p s with oper := tget p s.bank.furrows, change := none, remove := none }

/-- R206: at the configuration change time the list of the settings becomes operational, with event 21. -/
theorem configurationChangeTime_does (hc : (furrowRt p s).change.isSome = true) :
    ∃ t, exec (.configurationChangeTime p) s = .next t ∧ (furrowRt p t).oper = tget p s.bank.furrows ∧ (furrowRt p t).change = none ∧
      (furrowRt p t).remove = none ∧ t.ev.pending.getLsbD 21 = true := by
  obtain ⟨n, hn⟩ := Option.isSome_iff_exists.1 hc
  have hexec : exec (.configurationChangeTime p) s =
      .next (setGates p (raise 21 p (setFurrow p (furrowChanged p s) (updateCredits p s)))) := by
    show execConfigurationChangeTime p s = _
    simp only [execConfigurationChangeTime, hn, (updateCredits_onlyPorts p s).bank, furrowChanged]
  have hrt : furrowRt p (raise 21 p (setFurrow p (furrowChanged p s) (updateCredits p s))) = furrowChanged p s := by
    rw [furrowRt, raise, raiseD_drill]
    exact furrowRt_setFurrow_same ..
  obtain ⟨hoper, hchange, hremove, hpending⟩ := setGates_keeps p (raise 21 p (setFurrow p (furrowChanged p s) (updateCredits p s)))
  rw [hrt] at hoper hchange hremove
  exact ⟨_, hexec, hoper, hchange, hremove, hpending 21 (raise_pending _ _ (by decide) (by decide))⟩

/-- The state with the hold of a port asserted. -/
def holding (p : Nat) (s : State) : State := setFurrow p { furrowRt p s with hold := true } s

theorem setAndHoldMac_free (ha : preemptActive p s = true) (hw : tget p s.drill.portWire = none) :
    exec (.setAndHoldMac p) s = .next (holding p s) := by
  show execSetAndHoldMac p s = _
  simp only [execSetAndHoldMac, ha, setFurrow_drill_portWire, hw, Bool.not_true, Bool.false_eq_true, if_false, holding]

/-- R205: where preemption is active the hold is asserted, and the frame on the wire is cut if it can give two fragments. -/
theorem setAndHoldMac_cuts (ha : preemptActive p s = true) (hw : tget p s.drill.portWire = some c) :
    exec (.setAndHoldMac p) s = .next (if cutReady p c s then cutFrame p c (holding p s) else holding p s) := by
  show execSetAndHoldMac p s = _
  simp only [execSetAndHoldMac, ha, setFurrow_drill_portWire, hw, Bool.not_true, Bool.false_eq_true, if_false]
  rfl

/-- R205, R297: a frame cut for a hold waits with what it has sent so far. -/
theorem cutFrame_holding (p : Nat) (c : Copy) (s : State) : (furrowRt p (cutFrame p c (holding p s))).hold = true ∧
    tget p (cutFrame p c (holding p s)).drill.portWire = none ∧ tget p (cutFrame p c (holding p s)).drill.portHeld =
      some { c with preempted := true, fragSent := min (c.wireLen - 64) (c.fragSent + fragBytes p c s) } :=
  ⟨congrArg FurrowRt.hold (furrowRt_setFurrow_same p { furrowRt p s with hold := true } s), tget_tdel_same .., tget_tset_same ..⟩

end

/-- Settles O33: a boundary by what it selects, a copy that has left by what its wire and controller note, a furrow's start and a change of
list by the gates they put in force, a hold by the frame it finds on the wire. -/
theorem portTransmission : Obligations.PortTransmission := by
  rintro p r k c i s _ rfl
  refine ⟨portFrameSelect_takes, fun hf hu hw => ?_, fun hf hu => ?_, fun hw hk _ => copySent_port hw hk,
    copySent_uart, copySent_lin, gateChange_does, setAndHoldMac_free, fun ha hw hc => ?_, fun ha hw hc => ?_, configurationChangeTime_does⟩
  · show execPortFrameSelect p .clean s = _
    simp only [execPortFrameSelect, hf, hu, hw, Bool.not_true, Bool.false_eq_true, if_false, if_true]
  · show execPortFrameSelect p .clean s = _
    simp only [execPortFrameSelect, hf, hu, Bool.not_true, Bool.not_false, Bool.false_eq_true, if_false, if_true]
  · rw [setAndHoldMac_cuts ha hw, hc]
    rfl
  · rw [setAndHoldMac_cuts ha hw, if_pos hc]
    exact ⟨_, rfl, cutFrame_holding p c s⟩

end Sys2Proof.Machine
end

section
/-! PROOF. Quotas, state and retirement of the Granary's banks, and the test of a bank at its turn (R228, R243, R245, R431 to R434). -/

namespace Sys2Proof.Machine

/-! ### States of banks -/

section
variable {k p code : Nat} {s t : State}

theorem bankState_congr (h : t.gran.state = s.gran.state) (k : Nat) : bankState k t = bankState k s := by unfold bankState; rw [h]

@[simp] theorem bankState_setBank_same (p code : Nat) (s : State) : bankState p (setBank p code s) = code := tgetD_tset_same ..

theorem bankState_setBank_other (h : k ≠ p) (code : Nat) (s : State) : bankState k (setBank p code s) = bankState k s :=
  tgetD_tset_other h ..

@[simp] theorem bankState_taken (k : Nat) (c : Call) (s : State) : bankState k (taken c s) = bankState k s := by
  obtain ⟨g, hg⟩ := taken_eq c s
  rw [hg]
  rfl

end

/-! ### A record's operation at its turn -/

/-- A journaled command at its turn acts on its plot; what is left of it is to close its record and answer (R358, R367). -/
theorem HasTurn.acts {o : Op} {ref : Nat} {k : Cmd} {x : Work} {s : State} (h : HasTurn o s) (hb : o.body = .journal ref)
    (hcancel : o.cancel = false) (hk : cmdOf o.opcode o.call = some k) (hponr : ponrNext k o s = false)
    (hx : actOn k o.call (resolveRef ref s) s = x) (hquiet : x.quiet = false) (hreset : x.reset = false) (hafter : x.after = id)
    (hn : o.opno ≠ 0) (hharrow : x.st.harrow = s.harrow) :
    ∃ t, exec .stewardStep s = .next t ∧ Done o (singleFinal k o.call o.from_ o.opno (resolveRef ref s) x) x.st t := by
  have hstep : stepOp o s =
      putOp o { o with body := .closing (singleFinal k o.call o.from_ o.opno (resolveRef ref s) x) } x.st := by
    simp only [stepOp, hcancel, hb, hk, hponr, stepJournal, hx, hquiet, hreset, hafter, endOp, hn, Bool.false_eq_true, if_false, id]
  obtain ⟨m, hexec⟩ := h.stewardStep
  obtain ⟨-, hport, -⟩ := h
  have hfree : { stepOp o s with stw.turn := m }.harrow.stalled.contains .steward = false := by
    rw [hstep, ← hport]
    exact congrArg (fun v : Harrow => v.stalled.contains .steward) hharrow
  refine ⟨_, hexec, ?_⟩
  rw [enterConfig, if_neg (by rw [hfree]; decide), hstep]
  rfl

/-! ### What the commands do -/

section
variable {c : Call} {n : Nat} {s : State}

/-- The error counts of the Granary back at 0 (R432). -/
def errorsCleared (s : State) : State := { s with gran := { s.gran with nCorrected := 0, nUncorrectable := 0, leaked := 0 } }

/-- GRANARY_STATE reads nothing that taking a command changes. -/
theorem actGranaryState_taken (c : Call) (n : Nat) (s : State) : actGranaryState c n (taken c s) =
    { inline := (actGranaryState c n s).inline, bulk := (actGranaryState c n s).bulk
      st := if flag c.params 0 0 then taken c s else errorsCleared (taken c s) } := by
  obtain ⟨g, hg⟩ := taken_eq c s
  rw [hg]
  rfl

/-- R433: a bank in service with a spare, and room in the Ledger for the record: its retirement is decided. -/
theorem actBankRetire_decides (hs : bankState (u8 c.params 0) s = 0) (hp : (spareBanks s).isEmpty = false)
    (hl : openCount s.stw.ledger < 16) :
    actBankRetire c n s = { long := some (.bankRetire (u8 c.params 0)), st := fenceBank (u8 c.params 0) s } := by
  simp [actBankRetire, retiring, hs, hp, hl]

/-- `t` is `s` after a test of bank `b`: a free value used, and the other banks and the cells as they were. -/
structure BankTested (b : Nat) (s t : State) : Prop where
  rest : t = { s with free := t.free, gran := t.gran }
  cells : t.gran.cells = s.gran.cells
  others : ∀ k, k ≠ b → bankState k t = bankState k s

/-- R245: a passed bank becomes a spare where it may be reinstated, a spare that fails becomes Faulty; which of them is a free value. -/
theorem actBankTest_tests (h : [1, 5, 6].contains (bankState (u8 c.params 0) s) = true) :
    ∃ d v, actBankTest c n s = { inline := d, st := v } ∧ (u8 d 0 = 0 ∨ u8 d 0 = 1) ∧ BankTested (u8 c.params 0) s v := by
  unfold actBankTest
  simp only [h, Bool.not_true, Bool.false_eq_true, if_false]
  split
  · refine ⟨_, _, rfl, .inl rfl, ?_⟩
    split
    · exact ⟨rfl, rfl, fun k hk => bankState_setBank_other hk ..⟩
    · exact ⟨rfl, rfl, fun k hk => rfl⟩
  · refine ⟨_, _, rfl, .inr rfl, ?_⟩
    split
    · exact ⟨rfl, rfl, fun k hk => bankState_setBank_other hk ..⟩
    · exact ⟨rfl, rfl, fun k hk => rfl⟩

theorem granaryQuotaSet_device : DeviceCmd cmdGranaryQuotaSet := ⟨rfl, rfl, rfl, rfl, cmdGranaryQuotaSet_ok⟩

/-- BANK_TEST at its turn, its record open, acts and keeps its answer (R434). -/
theorem HasTurn.testsBank {o : Op} {ref : Nat} (h : HasTurn o s) (hcode : o.opcode = 0x0A04) (hbody : o.body = .journal ref)
    (hcancel : o.cancel = false) (hfrom : o.from_ = none) (ha : o.call.atomic = false) (hst : o.call.staged = false)
    (hn : o.opno ≠ 0) (hb : [1, 5, 6].contains (bankState (u8 o.call.params 0) s) = true) :
    ∃ f t v, exec .stewardStep s = .next t ∧ Done o f v t ∧ f.status = .ok ∧ (u8 f.inline 0 = 0 ∨ u8 f.inline 0 = 1) ∧
      BankTested (u8 o.call.params 0) s v := by
  obtain ⟨d, v, hact, hd, hv⟩ := actBankTest_tests (n := plotArg (resolveRef ref s)) hb
  have hx : actOn cmdBankTest o.call (resolveRef ref s) s = { inline := d, st := v } := by
    rw [← hact]
    simp only [actOn, isRead, ha, hst]
    rfl
  have hk : cmdOf o.opcode o.call = some cmdBankTest := by rw [hcode]; rfl
  have hponr : ponrNext cmdBankTest o s = false := by simp [ponrNext, cmdBankTest]
  have hharrow : v.harrow = s.harrow := by rw [hv.rest]
  obtain ⟨t, ht, hdone⟩ := h.acts hbody hcancel hk hponr hx rfl rfl rfl hn hharrow
  refine ⟨_, t, v, ht, hdone, rfl, ?_, hv⟩
  rw [hfrom]
  exact hd

end

/-- Settles O25: the commands by their acts on the state that has taken them, BANK_TEST by `HasTurn.testsBank`. -/
theorem granaryCommands : Obligations.GranaryCommands := by
  rintro c b s u rfl rfl
  have hgran : (taken c s).gran = s.gran := by obtain ⟨g, hg⟩ := taken_eq c s; rw [hg]
  have hledger : (taken c s).stw.ledger = s.stw.ledger := by obtain ⟨g, hg⟩ := taken_eq c s; rw [hg]
  refine ⟨fun h => granaryQuotaSet_device.answers h rfl rfl rfl, fun h => ?_, fun h hb hp hl => ?_,
    fun h hl => starts_journaled h rfl rfl (.inl rfl) rfl hl, fun o h _ ho ha hst hn hb => ?_⟩
  · have hx := actGranaryState_taken c 0 s
    simp only [errorsCleared, hgran] at hx
    have hans := answers_work (i := .granaryState c) h cmdGranaryState_ok rfl rfl rfl rfl (.inl rfl) hx
    rwa [answerOf_plain rfl] at hans
  · have hx := actBankRetire_decides (c := c) (n := 0) (s := taken c s) (by rwa [bankState_taken])
      (by rwa [show spareBanks (taken c s) = spareBanks s by simp only [spareBanks, bankState_taken]]) (by rwa [hledger])
    exact starts_ok h _ rfl rfl (.inl rfl) rfl (.inl rfl) hx rfl rfl rfl (h.act_canonical cmdBankRetire_ok hx)
  · have hcall : o.call = c := by rw [ho]
    obtain ⟨f, t, v, ht, hdone, hok, hf, hv⟩ := h.testsBank (by rw [ho]) (by rw [ho]) (by rw [ho]) (by rw [ho])
      (by rwa [hcall]) (by rwa [hcall]) hn (by rwa [hcall])
    rw [hcall] at hv
    exact ⟨f, t, v, ht, hdone, hok, hf, hv.rest, hv.cells, by rw [hv.rest], hv.others⟩

end Sys2Proof.Machine
end

section
/-! PROOF. The audit, the patrol and the drains of the Granary (R226, R233, R234, R236, R239, R242, R244). -/

namespace Sys2Proof.Machine

@[simp] theorem raiseD_gran (n d o : Nat) (s : State) : (raiseD n d o s).gran = s.gran := by rw [raiseD_frame]

@[simp] theorem raise_gran (n o : Nat) (s : State) : (raise n o s).gran = s.gran := raiseD_gran n 0 o s

/-! ### The audit -/

/-- R226: the audit frees the cells no grain leads to, and counts each of them as leaked. -/
theorem audit_frees (s : State) : ∃ t, exec .audit s = .next t ∧
    t = { s with gran := { s.gran with cells := t.gran.cells, leaked := t.gran.leaked, freePoison := t.gran.freePoison } } ∧
    (∀ e, e ∈ t.gran.cells ↔ e ∈ s.gran.cells ∧ e.1 ∈ ((referenced s).map (chain s.gran.cells maxChain)).flatten) ∧
    t.gran.leaked + t.gran.cells.length = s.gran.leaked + s.gran.cells.length := by
  refine ⟨_, rfl, rfl, fun e => ?_, ?_⟩
  · simp only [List.mem_filter, List.contains_iff_mem]
  · have hsplit := List.length_eq_length_filter_add (l := s.gran.cells)
      (fun e => ((referenced s).map (chain s.gran.cells maxChain)).flatten.contains e.1)
    dsimp only
    omega

/-! ### Retirements decided -/

section
variable {p : Nat} {s : State}

/-- A bank's retirement the part decides itself: the bank is fenced and waits its turn (R237, R239). -/
def retirementDecided (p : Nat) (s : State) : State := { fenceBank p s with gran.selfDecided := insertNat p s.gran.selfDecided }

theorem decideRetire_inService (h : bankState p s = 0) : decideRetire p s = retirementDecided p s := by
  have hr : retiring p (fenceBank p s) = true := by simp [retiring, fenceBank]
  simp only [decideRetire, h, if_true, hr]
  rfl

theorem decideRetire_spare (h : bankState p s = 1) : decideRetire p s = s := by
  simp [decideRetire, retiring, h]

@[simp] theorem bankState_retirementDecided (p : Nat) (s : State) : bankState p (retirementDecided p s) = 2 := tgetD_tset_same ..

theorem retirementDecided_selfDecided (p : Nat) (s : State) : (retirementDecided p s).gran.selfDecided.contains p = true :=
  List.contains_iff_mem.2 (mem_insertNat.2 (.inl rfl))

end

/-! ### Words in error -/

section
variable {p word c : Nat} {x : Cell} {s : State}

/-- A corrected word counted, now and in its bank's window (R233). -/
def correctedCounted (p word : Nat) (s : State) : State :=
  { s with gran.counted := (p, word) :: s.gran.counted, gran.nCorrected := s.gran.nCorrected + 1
           gran.corrected := tmod p [] (s.power.upNs :: ·) s.gran.corrected }

/-- An error just counted lies within its bank's window. -/
theorem correctedInWindow_correctedCounted (p word : Nat) (s : State) :
    correctedInWindow p (correctedCounted p word s) = correctedInWindow p s + 1 := by
  have hq : quota (correctedCounted p word s) = quota s := rfl
  have hl : tgetD p [] (correctedCounted p word s).gran.corrected = s.power.upNs :: tgetD p [] s.gran.corrected := tgetD_tset_same ..
  unfold correctedInWindow
  rw [hq, hl, List.filter_cons_of_pos (by simp [correctedCounted])]
  rfl

/-- R233: a corrected word not counted in this pass raises event 32, and at the threshold its bank is retired. -/
theorem correctedWord_counts (h : (p, word) ∉ s.gran.counted) : correctedWord p word s =
    if u8 (quota s) 12 ≤ correctedInWindow p s + 1 then decideRetire p (raise 32 p (correctedCounted p word s))
    else raise 32 p (correctedCounted p word s) := by
  have hquota : quota (raise 32 p (correctedCounted p word s)) = quota s := by rw [quota, raise_gran]; rfl
  have hwindow : correctedInWindow p (raise 32 p (correctedCounted p word s)) = correctedInWindow p s + 1 := by
    rw [← correctedInWindow_correctedCounted p word s]
    unfold correctedInWindow
    rw [raise_frame]
    rfl
  unfold correctedWord
  rw [if_neg (by simpa using h), ← hquota, ← hwindow]
  rfl

/-- An uncorrectable word counted; a bank in service is noted as retired for one, which holds up its reinstatement (R234, R245). -/
def uncorrectableCounted (p : Nat) (s : State) : State :=
  { s with gran.nUncorrectable := s.gran.nUncorrectable + 1
           gran.hardRetired := if bankState p s = 0 then insertNat p s.gran.hardRetired else s.gran.hardRetired }

theorem uncorrectableWord_noCell (p : Nat) (s : State) :
    uncorrectableWord p none s = decideRetire p (raise 33 p (uncorrectableCounted p s)) := rfl

/-- A cell in use with its Poison bit set. -/
def poisonCell (c : Nat) (x : Cell) (s : State) : State := { s with gran.cells := tset c { x with poison := true } s.gran.cells }

/-- R234: an uncorrectable word of a cell not yet poisoned poisons it, raises event 33 and retires its bank. -/
theorem uncorrectableWord_poisons (hx : cellOf c s = some x) (hp : poisoned c s = false) : uncorrectableWord p (some c) s =
    decideRetire p (raise 33 p (uncorrectableCounted p (poisonCell c x s))) := by
  simp only [uncorrectableWord, Option.map_some, Option.getD_some, hp, hx, Bool.false_eq_true, if_false]
  rfl

end

/-! ### The patrol -/

section
variable {f : WordFault} {s : State}

/-- The cell of a word the patrol reads, if its bank holds a logical one. -/
def patrolCell (f : WordFault) (s : State) : Option Nat := (logicalOf f.bank s).map (fun l => 256 * l + f.word / 32 % 256)

/-- What the patrol does of a word in error, before a spare is taken out of use. -/
def wordFound (f : WordFault) (s : State) : State :=
  if uncorrectable f.error then uncorrectableWord f.bank (patrolCell f s) s else correctedWord f.bank f.word s

theorem patrolFind_inService (h : bankState f.bank s = 0) : patrolFind s f = wordFound f s := by
  simp only [patrolFind, h]
  rfl

theorem patrolFind_spare (h : bankState f.bank s = 1) : patrolFind s f = setBank f.bank 6 (wordFound f s) := by
  simp only [patrolFind, h]
  rfl

/-- A patrol pass begins: no word is counted yet, and the pattern of the spares turns. -/
def passBegun (s : State) : State := { s with gran.counted := [], gran.pattern := !s.gran.pattern }

theorem patrol_passesOver (h : underTest f.bank s = true) : exec (.patrol [f]) s = exec (.patrol []) s := by
  show execPatrol [f] s = execPatrol [] s
  simp only [execPatrol, List.filter_cons, h, Bool.not_true, Bool.false_eq_true, if_false]

theorem patrol_finds (h : underTest f.bank s = false) : exec (.patrol [f]) s = .next (writePattern (patrolFind (passBegun s) f)) := by
  show execPatrol [f] s = _
  simp only [execPatrol, List.filter_cons, h, Bool.not_false, if_true]
  rfl

/-- R236: a spare in error becomes Faulty, and its errors are counted as any. -/
theorem patrol_ofSpare (hu : underTest f.bank s = false) (hb : bankState f.bank s = 1) (hl : logicalOf f.bank s = none) :
    ∃ t, exec (.patrol [f]) s = .next t ∧ bankState f.bank t = 6 ∧ t.gran.queue = s.gran.queue ∧
      (uncorrectable f.error = false → t.gran.nCorrected = s.gran.nCorrected + 1) ∧
      (uncorrectable f.error = true → t.gran.nUncorrectable = s.gran.nUncorrectable + 1 ∧ t.ev.pending.getLsbD 33 = true) := by
  have hcell : patrolCell f (passBegun s) = none := by rw [patrolCell, show logicalOf f.bank (passBegun s) = none from hl]; rfl
  have hspare (n : Nat) {v : State} (hv : v.gran.state = s.gran.state) : decideRetire f.bank (raise n f.bank v) = raise n f.bank v :=
    decideRetire_spare ((bankState_congr (by rw [raise_gran, hv]) _).trans hb)
  refine ⟨_, patrol_finds hu, ?_⟩
  rw [patrolFind_spare (s := passBegun s) hb]
  refine ⟨bankState_setBank_same .., ?_⟩
  cases hf : uncorrectable f.error with
  | true =>
    have hfound : wordFound f (passBegun s) = raise 33 f.bank (uncorrectableCounted f.bank (passBegun s)) := by
      rw [wordFound, if_pos hf, hcell, uncorrectableWord_noCell, hspare]
      rfl
    rw [hfound]
    have hgran := raise_gran 33 f.bank (uncorrectableCounted f.bank (passBegun s))
    have hqueue := congrArg Granary.queue hgran
    exact ⟨hqueue, nofun, fun _ => ⟨congrArg Granary.nUncorrectable hgran, raise_pending _ _ (by decide) (by decide)⟩⟩
  | false =>
    have hfound : wordFound f (passBegun s) = raise 32 f.bank (correctedCounted f.bank f.word (passBegun s)) := by
      rw [wordFound, hf, if_neg (by decide), correctedWord_counts (by simp [passBegun]), hspare _ (by rfl), ite_self]
    rw [hfound]
    have hgran := raise_gran 32 f.bank (correctedCounted f.bank f.word (passBegun s))
    have hqueue := congrArg Granary.queue hgran
    exact ⟨hqueue, fun _ => congrArg Granary.nCorrected hgran, nofun⟩

/-- R233: a corrected word of a bank in service is counted, and at the threshold its bank is retired. -/
theorem patrol_corrects (hu : underTest f.bank s = false) (hb : bankState f.bank s = 0) (hf : uncorrectable f.error = false) :
    ∃ t, exec (.patrol [f]) s = .next t ∧ t.gran.nCorrected = s.gran.nCorrected + 1 ∧ t.gran.counted = [(f.bank, f.word)] ∧
      (u8 (quota s) 12 ≤ correctedInWindow f.bank s + 1 → bankState f.bank t = 2 ∧ t.gran.queue = s.gran.queue ++ [f.bank] ∧
        t.gran.selfDecided.contains f.bank = true) ∧
      (correctedInWindow f.bank s + 1 < u8 (quota s) 12 → bankState f.bank t = 0 ∧ t.gran.queue = s.gran.queue) := by
  have hgran := raise_gran 32 f.bank (correctedCounted f.bank f.word (passBegun s))
  have hstate : bankState f.bank (raise 32 f.bank (correctedCounted f.bank f.word (passBegun s))) = 0 :=
    (bankState_congr (congrArg Granary.state hgran) _).trans hb
  have hfound : wordFound f (passBegun s) = if u8 (quota s) 12 ≤ correctedInWindow f.bank s + 1 then
        retirementDecided f.bank (raise 32 f.bank (correctedCounted f.bank f.word (passBegun s)))
      else raise 32 f.bank (correctedCounted f.bank f.word (passBegun s)) := by
    rw [wordFound, hf, if_neg (by decide), correctedWord_counts (by simp [passBegun]), decideRetire_inService hstate]
    rfl
  refine ⟨_, patrol_finds hu, ?_⟩
  rw [patrolFind_inService (s := passBegun s) hb, hfound]
  generalize raise 32 f.bank (correctedCounted f.bank f.word (passBegun s)) = v at hgran hstate
  have hqueue := congrArg Granary.queue hgran
  split
  case isTrue hle =>
    exact ⟨congrArg Granary.nCorrected hgran, congrArg Granary.counted hgran, fun _ => ⟨bankState_retirementDecided ..,
      congrArg (· ++ [f.bank]) hqueue, retirementDecided_selfDecided ..⟩, fun hlt => absurd hle (Nat.not_le.2 hlt)⟩
  case isFalse hlt =>
    exact ⟨congrArg Granary.nCorrected hgran, congrArg Granary.counted hgran, fun hle => absurd hle hlt, fun _ => ⟨hstate, hqueue⟩⟩

/-- R234: an uncorrectable word of a bank in service poisons its cell and decides the retirement of the bank, with event 33. -/
theorem patrol_retires {l : Nat} {x : Cell} (hu : underTest f.bank s = false) (hb : bankState f.bank s = 0)
    (hf : uncorrectable f.error = true) (hl : logicalOf f.bank s = some l) (hx : cellOf (256 * l + f.word / 32 % 256) s = some x)
    (hp : poisoned (256 * l + f.word / 32 % 256) s = false) :
    ∃ t, exec (.patrol [f]) s = .next t ∧ cellOf (256 * l + f.word / 32 % 256) t = some { x with poison := true } ∧
      t.gran.nUncorrectable = s.gran.nUncorrectable + 1 ∧ bankState f.bank t = 2 ∧ t.gran.queue = s.gran.queue ++ [f.bank] ∧
      t.gran.hardRetired = insertNat f.bank s.gran.hardRetired ∧ t.ev.pending.getLsbD 33 = true ∧ Logged 33 0 f.bank t := by
  have hcell : patrolCell f (passBegun s) = some (256 * l + f.word / 32 % 256) := by
    rw [patrolCell, show logicalOf f.bank (passBegun s) = some l from hl]
    rfl
  generalize 256 * l + f.word / 32 % 256 = c at hx hp hcell ⊢
  generalize hw : uncorrectableCounted f.bank (poisonCell c x (passBegun s)) = w
  have hgran := raise_gran 33 f.bank w
  have hpending := raise_pending (n := 33) f.bank w (by decide) (by decide)
  have hlogged : Logged 33 0 f.bank (raise 33 f.bank w) := raiseD_logged ..
  have hwstate : bankState f.bank w = 0 := by subst hw; exact hb
  have hstate : bankState f.bank (raise 33 f.bank w) = 0 := (bankState_congr (congrArg Granary.state hgran) _).trans hwstate
  have hfound : wordFound f (passBegun s) = retirementDecided f.bank (raise 33 f.bank w) := by
    rw [wordFound, if_pos hf, hcell, uncorrectableWord_poisons (s := passBegun s) hx hp, ← decideRetire_inService hstate, ← hw]
  refine ⟨_, patrol_finds hu, ?_⟩
  rw [patrolFind_inService (s := passBegun s) hb, hfound]
  generalize raise 33 f.bank w = v at hgran hpending hlogged
  subst hw
  have hcells : tget c v.gran.cells = some { x with poison := true } := by rw [hgran]; exact tget_tset_same ..
  have hqueue := congrArg Granary.queue hgran
  have hhard : v.gran.hardRetired = insertNat f.bank s.gran.hardRetired := by rw [hgran]; exact if_pos hb
  exact ⟨hcells, congrArg Granary.nUncorrectable hgran, bankState_retirementDecided .., congrArg (· ++ [f.bank]) hqueue, hhard,
    hpending, hlogged⟩

end

/-! ### Operations that end leave the Granary -/

section
variable (s : State)

theorem writeBulk_gran (c : Call) (d : Bytes) : (writeBulk c d s).gran = s.gran := by
  unfold writeBulk
  split
  · rfl
  · split
    · split
      · obtain ⟨w, hw⟩ := hostPut_frame c.hostAddr (d.take (areaLen c)) s
        rw [hw]
      · rfl
    · rfl

theorem writeResponse_gran (op : Nat) (c : Call) (f : Final) : (writeResponse op c f s).gran = s.gran := by
  rw [← writeBulk_gran s c f.bulk]
  unfold writeResponse
  dsimp only
  split
  · rfl
  · exact raise_gran ..

theorem answerForward_gran (op : Nat) (c : Call) (w : FwdFrom) (f : Final) : (answerForward op c w f s).gran = s.gran := by
  have hsent (d : Nat) (a : Answer) : (sendAnswer d a s).gran = s.gran := by rw [(sendAnswer_posts d a s).eq]
  unfold answerForward
  dsimp only
  split <;> exact hsent ..

theorem respond_gran (op : Nat) (c : Call) (w : Option FwdFrom) (f : Final) : (respond op c w f s).gran = s.gran := by
  unfold respond
  split
  · exact (answerForward_gran ..).trans (writeResponse_gran ..)
  · split
    · rfl
    · split
      · exact writeBulk_gran ..
      · exact writeResponse_gran ..

theorem passSixteenths_gran (a b n : Nat) : (passSixteenths a b n s).gran = s.gran :=
  foldl_keeps (fun t => t.gran = s.gran) _ (fun t _ h => (raise_gran 4 n t).trans h) _ s rfl

theorem finishOp_gran (o : Op) (f : Final) : (finishOp o f s).gran = s.gran := by
  have hsettled : (settled f s).gran = s.gran := by unfold settled; split <;> rfl
  unfold finishOp
  dsimp only
  split
  · exact hsettled
  · rw [raise_gran]
    split
    · exact (passSixteenths_gran ..).trans hsettled
    · exact ((respond_gran ..).trans (passSixteenths_gran ..)).trans hsettled

theorem endNow_gran (o : Op) (f : Final) : (endNow o f s).gran = s.gran := by
  rw [endNow, finishOp_gran]
  split <;> rfl

end

theorem endNow_held {s t : State} (h : Held s t) (o : Op) (f : Final) : Held s (endNow o f t) := by
  unfold endNow
  refine finishOp_held ?_ o f
  split
  · exact h
  · exact h.same rfl rfl

/-! ### What a drain leaves of the banks -/

/-- Of `s`, `t` keeps the map of the banks, their states and the drains. -/
structure KeepsBankMap (s t : State) : Prop where
  map : t.gran.map = s.gran.map
  state : t.gran.state = s.gran.state
  draining : t.gran.draining = s.gran.draining

section
variable {s t u : State}

theorem KeepsBankMap.refl (s : State) : KeepsBankMap s s := ⟨rfl, rfl, rfl⟩

theorem KeepsBankMap.trans (h : KeepsBankMap s t) (g : KeepsBankMap t u) : KeepsBankMap s u :=
  ⟨g.map.trans h.map, g.state.trans h.state, g.draining.trans h.draining⟩

/-- What is kept from `t` on is kept from a state that `t` agrees with. -/
theorem KeepsBankMap.after (h : KeepsBankMap t u) (hm : t.gran.map = s.gran.map) (hs : t.gran.state = s.gran.state)
    (hd : t.gran.draining = s.gran.draining) : KeepsBankMap s u :=
  .trans ⟨hm, hs, hd⟩ h

theorem keepsBankMap_of_gran (h : t.gran = s.gran) : KeepsBankMap s t := by constructor <;> rw [h]

theorem SameButCopies.keepsBankMap (h : SameButCopies s t) : KeepsBankMap s t := by
  obtain ⟨_, _, _, _, _, rfl⟩ := h
  exact ⟨rfl, rfl, rfl⟩

theorem KeepsBankMap.logicalOf (h : KeepsBankMap s t) (p : Nat) : logicalOf p t = logicalOf p s := by
  simp only [Machine.logicalOf, physOf, h.map]

theorem foldl_keepsBankMap {α : Type} {f : State → α → State} (hf : ∀ s a, KeepsBankMap s (f s a)) (l : List α) (s : State) :
    KeepsBankMap s (l.foldl f s) :=
  foldl_keeps (fun t => KeepsBankMap s t) f (fun _ a h => h.trans (hf _ a)) l s (.refl s)

theorem discardCopy_keepsBankMap (i : Nat) (s : State) (c : Copy) : KeepsBankMap s (discardCopy i c s) :=
  (discardCopy_same i c s).keepsBankMap

theorem sofChoice_keepsBankMap (r : Nat) (s : State) : KeepsBankMap s (sofChoice r s) := by
  unfold sofChoice
  dsimp only
  repeat' split
  all_goals exact ⟨rfl, rfl, rfl⟩

theorem dropUnsent_keepsBankMap (hit : Grain → Bool) (s : State) : KeepsBankMap s (dropUnsent hit s) := by
  refine foldl_keepsBankMap (fun s r => ?_) _ s
  refine (sofChoice_keepsBankMap r s).trans ?_
  generalize sofChoice r s = t
  dsimp only
  split
  · split
    · exact .refl t
    · exact (discardCopy_keepsBankMap ..).after rfl rfl rfl
  · exact .refl t

theorem freeRec_keepsBankMap (r : Rec) (s : State) : KeepsBankMap s (freeRec r s) := by
  unfold freeRec
  split <;> exact ⟨rfl, rfl, rfl⟩

theorem discardRecs_keepsBankMap (held : List Nat) (s : State) : KeepsBankMap s (discardRecs held s) := by
  refine foldl_keepsBankMap (fun s e => ?_) _ s
  dsimp only
  split
  · split
    · exact (freeRec_keepsBankMap ..).after rfl rfl rfl
    · exact ⟨rfl, rfl, rfl⟩
  · exact ⟨rfl, rfl, rfl⟩

theorem cutSheafs_keepsBankMap (hit : Grain → Bool) (i : Nat) (s : State) : KeepsBankMap s (cutSheafs hit i s) := by
  refine foldl_keepsBankMap (fun s e => ?_) _ s
  refine .trans ?_ (foldl_keepsBankMap (fun s x => ((endGrain_same ..).trans (countRow_same ..)).keepsBankMap) _ _)
  exact ⟨rfl, rfl, rfl⟩

/-- R242: discarding the grains of a bank touches cells, copies and counts, not the banks. -/
theorem discardHeld_keepsBankMap (held : List Nat) (s : State) : KeepsBankMap s (discardHeld held s) := by
  unfold discardHeld
  dsimp only
  refine .trans ?_ (cutSheafs_keepsBankMap ..)
  refine .trans ?_ (discardRecs_keepsBankMap ..)
  refine .trans ?_ (foldl_same _ (fun s g => dropGrain_same g s) _ _).keepsBankMap
  refine .trans ?_ (foldl_keepsBankMap (discardCopy_keepsBankMap 26) _ _)
  refine .trans ?_ (foldl_same _ (fun s c => countCopy_same 26 c s) _ _).keepsBankMap
  refine .trans ?_ (foldl_same _ (fun s (x : (Grain × Bool) × Nat) => countRow_same x.2 26 1 s) _ _).keepsBankMap
  exact (dropUnsent_keepsBankMap (grainIn held s) s).trans ⟨rfl, rfl, rfl⟩

/-- The commands that wait for a retirement end; no event is taken back. -/
theorem finishRetire_keeps (p spare : Nat) (s : State) : KeepsBankMap s (finishRetire p spare s) ∧ Held s (finishRetire p spare s) :=
  foldl_keeps (fun t => KeepsBankMap s t ∧ Held s t) _
    (fun _ _ h => ⟨h.1.trans (keepsBankMap_of_gran (endNow_gran ..)), endNow_held h.2 ..⟩) _ _
    ⟨⟨rfl, rfl, rfl⟩, (Held.refl s).same rfl rfl⟩

theorem checkDegraded_keeps (s : State) : KeepsBankMap s (checkDegraded s) ∧ Held s (checkDegraded s) := by
  unfold checkDegraded
  split
  · refine ⟨(keepsBankMap_of_gran (raiseD_gran ..)).after rfl rfl rfl, raiseD_held ?_ _ _ _⟩
    exact (Held.refl s).same rfl rfl
  · exact ⟨.refl s, .refl s⟩

end

/-! ### The end of a drain -/

section
variable {p l : Nat} {s t : State}

/-- What the end of a drain of a bank that holds logical bank `l` leaves. -/
structure Drained (p l : Nat) (s t : State) : Prop where
  absent : physOf l t = 255
  retired : bankState p t = 5
  draining : t.gran.draining = s.gran.draining.filter (· != p)
  event : t.ev.pending.getLsbD 34 = true

/-- A drain's end as its banks show it: the logical bank Absent, the physical one retired (R242). -/
def bankGone (p l : Nat) (s : State) : State :=
  setBank p 5 { s with gran.map := tset l 255 s.gran.map, gran.draining := s.gran.draining.filter (· != p) }

/-- R239, R242: a drain that ends leaves its logical bank Absent and its physical one retired, with event 34. -/
theorem endDrain_drains (hl : logicalOf p s = some l) : Drained p l s (endDrain p s) := by
  have hend : endDrain p s = finishRetire p 255 (checkDegraded (raise 34 p (bankGone p l s))) := by
    simp only [endDrain, hl]
    rfl
  obtain ⟨hbanks, hheld⟩ := checkDegraded_keeps (raise 34 p (bankGone p l s))
  obtain ⟨hbanks', hheld'⟩ := finishRetire_keeps p 255 (checkDegraded (raise 34 p (bankGone p l s)))
  obtain ⟨hmap, hstate, hdraining⟩ :=
    ((keepsBankMap_of_gran (raise_gran 34 p (bankGone p l s))).trans hbanks).trans hbanks'
  rw [hend]
  refine ⟨?_, ?_, hdraining, (hheld.trans hheld').pending 34 (raise_pending _ _ (by decide) (by decide))⟩
  · rw [physOf, hmap]
    exact tgetD_tset_same ..
  · rw [bankState, hstate]
    exact tgetD_tset_same ..

theorem drain_notUnderWay (h : s.gran.draining.contains p = false) :
    exec (.drainEnd p) s = .next s ∧ exec (.drainLimit p) s = .next s := by
  constructor
  · show execDrainEnd p s = _
    simp only [execDrainEnd, h, Bool.false_and, Bool.false_eq_true, if_false]
  · show execDrainLimit p s = _
    simp only [execDrainLimit, h, Bool.false_eq_true, if_false]

/-- A bank holds no cell exactly when no cell in use lies in its logical bank. -/
theorem heldIn_isEmpty_iff (hl : logicalOf p s = some l) :
    (heldIn p s).isEmpty = true ↔ ∀ c, c ∈ tkeys s.gran.cells → c / 256 ≠ l := by
  simp [heldIn, hl, List.filter_eq_nil_iff]

theorem drainEnd_empty (h : s.gran.draining.contains p = true) (hl : logicalOf p s = some l)
    (he : ∀ c, c ∈ tkeys s.gran.cells → c / 256 ≠ l) : exec (.drainEnd p) s = .next (endDrain p s) := by
  show execDrainEnd p s = _
  rw [execDrainEnd, h, (heldIn_isEmpty_iff hl).2 he]
  rfl

theorem drainEnd_holding (hl : logicalOf p s = some l) (he : ∃ c, c ∈ tkeys s.gran.cells ∧ c / 256 = l) :
    exec (.drainEnd p) s = .next s := by
  have hh : (heldIn p s).isEmpty = false := by
    obtain ⟨c, hc, hcl⟩ := he
    exact Bool.eq_false_iff.2 fun h => (heldIn_isEmpty_iff hl).1 h c hc hcl
  show execDrainEnd p s = _
  simp only [execDrainEnd, hh, Bool.and_false, Bool.false_eq_true, if_false]

/-- R242: at the drain limit the drain ends whatever its bank holds. -/
theorem drainLimit_drains (h : s.gran.draining.contains p = true) (hl : logicalOf p s = some l) :
    ∃ t, exec (.drainLimit p) s = .next t ∧ Drained p l s t := by
  have hkeeps := discardHeld_keepsBankMap (heldIn p s) s
  obtain ⟨habsent, hretired, hdraining, hevent⟩ := endDrain_drains ((hkeeps.logicalOf p).trans hl)
  refine ⟨_, congrArg Host.Outcome.next (if_pos h), habsent, hretired, ?_, hevent⟩
  rw [hdraining, hkeeps.draining]

end

/-- Settles O59: the audit by what it filters, the patrol by the state of the bank a word is found in, the drains by `endDrain_drains`.
That the audit frees cells and nothing else is log 57. -/
theorem granaryUpkeep : Obligations.GranaryUpkeep := by
  intro f l x s
  refine ⟨audit_frees s, rfl, patrol_passesOver, patrol_ofSpare, patrol_corrects, patrol_retires, drain_notUnderWay, fun h hl => ?_⟩
  refine ⟨fun he => ?_, drainEnd_holding hl, ?_⟩
  · obtain ⟨habsent, hretired, hdraining, hevent⟩ := endDrain_drains hl
    exact ⟨_, drainEnd_empty h hl he, habsent, hretired, hdraining, hevent⟩
  · obtain ⟨t, ht, habsent, hretired, hdraining, hevent⟩ := drainLimit_drains h hl
    exact ⟨t, ht, habsent, hretired, hdraining, hevent⟩

end Sys2Proof.Machine
end

section
/-! PROOF. The commands of the field buses: the pins, the settings of the controllers, and FIELD_BUS_STATE (R246 to R253, R260, R261,
R266, R270, R274, R442 to R447, R480, R482, R601). -/

namespace Sys2Proof.Machine

/-! ### Bytes of stored settings -/

section
variable {i b : Bytes} {o k n : Nat}

theorem u8_fit (h : k < n) : u8 (fit n b) k = u8 b k := congrArg BitVec.toNat (getD_fit_of_lt b h)

theorem u8_append_left (h : k < i.length) : u8 (i ++ b) k = u8 i k := congrArg BitVec.toNat (List.getD_append _ _ _ _ h)

theorem u8_patch_other (h : k < o ∨ o + b.length ≤ k) : u8 (patch i o b) k = u8 i k := by
  rcases h with h | h
  · rw [patch, List.append_assoc, u8_append_left (by simpa using h), u8_fit h]
  · have hle : (fit o i ++ b).length ≤ k := by simpa using h
    have hk : o + b.length + (k - (o + b.length)) = k := by omega
    rw [patch, u8, List.getD_append_right _ _ _ _ hle]
    simp [u8, List.getD, hk]

theorem u8_lt_of_flag (h : flag i o 7 = false) : u8 i o < 128 := by
  have hlt : u8 i o < 256 := (i.getD o 0).isLt
  have hbit : ule i o 8 / 128 % 2 ≠ 1 := of_decide_eq_false h
  rw [ule] at hbit
  omega

/-- A byte of stored settings beyond one that is not kept is the command's. -/
theorem u8_stored {p : Bytes} {x : BitVec 8} (h1 : 1 < k) (h2 : k < 48) : u8 (patch (fit 48 p ++ b) 1 [x]) k = u8 p k := by
  rw [u8_patch_other (.inr h1), u8_append_left (by simpa using h2), u8_fit h2]

end

/-! ### Acts on a register file (R480, R482) -/

section
variable {kind n : Nat} {inst : Call → Nat} {act : Call → Nat → State → Work} {c : Call} {s : State}

/-- A guarded register file refuses the command and logs it. -/
theorem guardAct_guarded (hg : guarded .firmware kind (inst c) 0 4096 s = true) : guardAct kind inst act c n s =
    { status := .busy, st := (logError (errEntry .firmware 3 15 kind (inst c) 0 48 true false false) s).2 } := if_pos hg

variable (hg : guarded .firmware kind (inst c) 0 4096 s = false)
include hg

/-- A command performed drops what the Stile keeps of the register file. -/
theorem guardAct_performed {d : Bytes} {v : State} (hx : act c n s = { inline := d, st := v }) :
    guardAct kind inst act c n s = { inline := d, st := dropKept kind (inst c) 0 4096 v } := by
  simp [guardAct, hg, hx]

/-- A command that finds its own reason to refuse leaves the kept data alone. -/
theorem guardAct_refused {st : Status} (hst : st ≠ .ok) (hx : act c n s = { status := st, st := s }) :
    guardAct kind inst act c n s = { status := st, st := s } := by
  simp [guardAct, hg, hx, hst]

end

section
variable {stage : Call → Nat → State → Bank → Status × Bank} {inl : Call → Nat → State → Bytes}
  {after : Call → Nat → State → State → State} {c : Call} {n : Nat} {s : State} {b : Bank}

/-- Settings that are accepted are stored, and what follows from them is done. -/
theorem directAct_accepted (h : stage c n s s.bank = (.ok, b)) : directAct stage inl after c n s =
    { inline := inl c n (after c n s { s with bank := b }), st := after c n s { s with bank := b } } := by
  simp [directAct, h]

theorem directAct_refused {st : Status} (h : stage c n s s.bank = (st, b)) (hst : st ≠ .ok) :
    directAct stage inl after c n s = { status := st, st := s } := by
  simp [directAct, h, hst]

end

/-- A bank item refused changes no setting, and is not counted as a direct change. -/
theorem DirectItem.refuses {k : Cmd} (hk : DirectItem k) {i : Instr} {op : Nat} {c : Call} {p : Plot} {s u : State} {st : Status}
    (h : Heard k c p s) (ha : applies k.scope p = true) (ho : k.opcode = op) (he : exec i s = .next (serve k c s)) (hst : st ≠ .ok)
    (hx : k.act c (plotArg p) (taken c s) = { status := st, st := u }) : Answers i op c { status := st } s u := by
  have hcount : countDirect k c st u = u := by simp [countDirect, hst]
  have hans := answers_single _ he h (.inl ha) hk.unjournaled hx rfl rfl rfl (by rw [hcount]; exact h.act_canonical hk.keeps hx)
  rwa [hcount, answerOf_plain hk.whole, ho] at hans

theorem fieldPinAssign_item : DirectItem cmdFieldPinAssign := ⟨rfl, rfl, rfl, rfl, cmdFieldPinAssign_ok⟩
theorem canConfig_item : DirectItem cmdCanConfig := ⟨rfl, rfl, rfl, rfl, cmdCanConfig_ok⟩
theorem canRecover_item : DirectItem cmdCanRecover := ⟨rfl, rfl, rfl, rfl, cmdCanRecover_ok⟩
theorem uartConfig_item : DirectItem cmdUartConfig := ⟨rfl, rfl, rfl, rfl, cmdUartConfig_ok⟩
theorem linConfig_item : DirectItem cmdLinConfig := ⟨rfl, rfl, rfl, rfl, cmdLinConfig_ok⟩
theorem mvbConfig_item : DirectItem cmdMvbConfig := ⟨rfl, rfl, rfl, rfl, cmdMvbConfig_ok⟩

/-! ### Pins -/

section
variable {c : Call} {n : Nat} {s : State} {b : Bank}

/-- R442: levels alone are set whatever the assignment. -/
theorem stagePins_levels (hl : levelsOnly c = true) :
    stagePins c n s b = (.ok, { b with pins := patch (fit 88 b.pins) 40 (sub c.params 40 5) }) := by
  simp [stagePins, newPins, hl]

/-- R246: a legal assignment that no Enabled row stands against is stored. -/
theorem stagePins_legal (hl : levelsOnly c = false) (hm : legalMix (newPins c b.pins) s.power.wake = true)
    (hu : pinsInUse b (newPins c b.pins) = false) : stagePins c n s b = (.ok, { b with pins := newPins c b.pins }) := by
  simp [stagePins, hl, hm, hu]

/-- R247: the pins take their levels with the assignment. -/
theorem actFieldPinAssign_drives {i : Img} (hg : guarded .firmware 4 0 0 4096 s = false)
    (h : stagePins c n s s.bank = (.ok, { s.bank with pins := i })) :
    cmdFieldPinAssign.act c n s = { st := dropKept 4 0 0 4096 (drivePins { s with bank.pins := i }) } :=
  guardAct_performed (inst := fun _ => 0) hg (directAct_accepted h)

end

/-! ### CAN settings -/

/-- The settings an image stores, without the recover bit (R380). -/
theorem canCfg_stored (k : Nat) (i : Img) (b : Bank) :
    canCfg k { b with can := tset k i b.can } = patch i 1 [byte (u8 i 1 % 128)] := by
  simp [canCfg, canRaw, tgetD_tset_same]

/-- Without the recover bit an image is in force as it is stored. -/
theorem patch_noRecover {i : Img} (hl : 1 < i.length) (h : u8 i 1 < 128) : patch i 1 [byte (u8 i 1 % 128)] = i := by
  have hbyte : byte (u8 i 1 % 128) = i.getD 1 0 := by
    rw [Nat.mod_eq_of_lt h]
    exact BitVec.ofNat_toNat ..
  rw [hbyte]
  exact patch_sub_self (n := 1) (by omega)

/-- R250: the rates of stored settings are those of the parameters; the byte of the recover bit is in neither. -/
theorem ratesIn_stored (k : Nat) (p : Bytes) (b : Bank) :
    ratesIn k { b with can := tset k (fit 48 p) b.can } = le 4 (nominalRate p) ++ le 4 (dataRate p) := by
  rw [ratesIn, canCfg_stored, ← List.append_nil (fit 48 p)]
  simp (disch := decide) only [nominalRate, dataRate, nominalDiv, dataDiv, u16, ule, u8_stored]

section
variable {c : Call} {n : Nat} {s : State}

/-- A controller's settings as a command gives them, and a switch to Manual ended (R253). -/
def canStored (c : Call) (s : State) : State :=
  setCan (u8 c.params 0) { canRt (u8 c.params 0) s with forcedManual := false }
    { s with bank.can := tset (u8 c.params 0) (fit 48 c.params) s.bank.can }

/-- R248: with no Enabled row any settings are accepted. -/
theorem stageCan_free (hi : idleRecover c s = false) (he : ctlEnabled s.bank 0 (u8 c.params 0) = false) :
    stageCan c n s s.bank = (.ok, { s.bank with can := tset (u8 c.params 0) (fit 48 c.params) s.bank.can }) := by
  simp [stageCan, hi, he]

/-- R443: settings without the recover bit are stored, and the rates in force returned. -/
theorem canConfig_stores (hr : flag c.params 1 7 = false) (he : ctlEnabled s.bank 0 (u8 c.params 0) = false) :
    directAct stageCan canRates afterCan c n s =
      { inline := le 4 (nominalRate c.params) ++ le 4 (dataRate c.params), st := canStored c s } := by
  have hi : idleRecover c s = false := by simp [idleRecover, hr]
  have hafter : afterCan c n s { s with bank.can := tset (u8 c.params 0) (fit 48 c.params) s.bank.can } = canStored c s := by
    simp only [afterCan, hi, hr, Bool.false_eq_true, if_false]
    rfl
  rw [directAct_accepted (stageCan_free hi he), hafter, ← ratesIn_stored (u8 c.params 0) c.params s.bank]
  rfl

/-- R248: with an Enabled row the rates and the mode stay. -/
theorem canConfig_busy (hr : flag c.params 1 7 = false) (he : ctlEnabled s.bank 0 (u8 c.params 0) = true)
    (hd : fit 18 (fit 48 c.params) ≠ fit 18 (canCfg (u8 c.params 0) s.bank)) :
    directAct stageCan canRates afterCan c n s = { status := .busy, st := s } := by
  have hi : idleRecover c s = false := by simp [idleRecover, hr]
  have hlow : u8 (fit 48 c.params) 1 < 128 := by
    rw [u8_fit (by decide)]
    exact u8_lt_of_flag hr
  have hbusy : stageCan c n s s.bank = (.busy, s.bank) := by
    simp [stageCan, hi, he, canCfg_stored, patch_noRecover (by simp) hlow, hd]
  exact directAct_refused hbusy (by decide)

/-- R253: the recover bit starts the recovery of a controller held in bus-off. -/
theorem canRecover_starts (hr : flag c.params 1 7 = true) (h4 : (canRt (u8 c.params 0) s).state = 4)
    (he : ctlEnabled s.bank 0 (u8 c.params 0) = false) : directAct stageCan canRates afterCan c n s =
      { inline := le 4 (nominalRate c.params) ++ le 4 (dataRate c.params), st := canState (u8 c.params 0) 3 (canStored c s) } := by
  have hi : idleRecover c s = false := by simp [idleRecover, h4]
  have hheld : (canRt (u8 c.params 0) (canStored c s)).state = 4 := by rw [canStored, canRt_setCan]; exact h4
  have hafter : afterCan c n s { s with bank.can := tset (u8 c.params 0) (fit 48 c.params) s.bank.can } =
      canState (u8 c.params 0) 3 (canStored c s) := by
    simp only [afterCan, hi, hr, Bool.false_eq_true, if_false, if_true]
    exact if_pos hheld
  rw [directAct_accepted (stageCan_free hi he), hafter, ← ratesIn_stored (u8 c.params 0) c.params s.bank, canRates,
    (canState_onlyBuses ..).bank]
  rfl

/-- R253: for a controller that is not held the recover bit changes nothing. -/
theorem canRecover_idle (hr : flag c.params 1 7 = true) (h4 : (canRt (u8 c.params 0) s).state ≠ 4) :
    directAct stageCan canRates afterCan c n s =
      { inline := le 4 (nominalRate (canCfg (u8 c.params 0) s.bank)) ++ le 4 (dataRate (canCfg (u8 c.params 0) s.bank)), st := s } := by
  have hi : idleRecover c s = true := by simp [idleRecover, hr, h4]
  have hafter : afterCan c n s { s with bank := s.bank } = s := if_pos hi
  rw [directAct_accepted (b := s.bank) (if_pos hi), hafter]
  rfl

theorem need_eq_ok {b : Bool} : need b = .ok ↔ b = true := by cases b <;> simp [need]

theorem Heard.noRecover {p : Plot} (h : Heard cmdCanConfig c p s) : flag c.params 1 7 = false := by
  obtain ⟨-, hflag⟩ := Bool.and_eq_true_iff.1 (need_eq_ok.1 h.check_ok)
  simpa using hflag

theorem Heard.recover {p : Plot} (h : Heard cmdCanRecover c p s) : flag c.params 1 7 = true := by
  obtain ⟨-, hflag⟩ := Bool.and_eq_true_iff.1 (need_eq_ok.1 h.check_ok)
  exact hflag

end

/-! ### UART, LIN and MVB settings -/

section
variable {c : Call} {n : Nat} {s : State}

/-- R248, R444: the settings of a UART with no Enabled row are stored, and the pins follow. -/
theorem uartConfig_stores (he : ctlEnabled s.bank 1 (u8 c.params 0) = false) :
    directAct stageUart uartResult (fun _ _ _ s => drivePins s) c n s =
      { inline := uartResult c n s
        st := drivePins { s with bank.uart := tset (u8 c.params 0) (fit 48 c.params) s.bank.uart } } := by
  have hstage : stageUart c n s s.bank =
      (.ok, { s.bank with uart := tset (u8 c.params 0) (fit 48 c.params) s.bank.uart }) := by
    simp [stageUart, he]
  rw [directAct_accepted hstage]
  simp only [uartResult]

/-- R248, R445: the settings and the schedule of a LIN controller with no Enabled row are stored, and the schedule starts anew. -/
theorem linConfig_stores (he : ctlEnabled s.bank 2 (u8 c.params 0) = false) :
    directAct stageLin (fun _ _ _ => []) afterLin c n s =
      { st := setLin (u8 c.params 0) { linRt (u8 c.params 0) s with running := none, slot := 0 }
          { s with bank.lin := tset (u8 c.params 0) (linImage c (linCfg (u8 c.params 0) s.bank)) s.bank.lin } } := by
  have hstage : stageLin c n s s.bank =
      (.ok, { s.bank with lin := tset (u8 c.params 0) (linImage c (linCfg (u8 c.params 0) s.bank)) s.bank.lin }) := by
    simp [stageLin, he]
  have hstill (l : Tbl Img) : ctlEnabled { s.bank with lin := l } 2 (u8 c.params 0) = false := he
  rw [directAct_accepted hstage]
  simp only [afterLin, hstill, Bool.false_and, Bool.false_eq_true, if_false]
  rfl

/-- The settings of an MVB controller, and its port entries in place of the old ones. -/
def mvbStored (c : Call) (s : State) : State :=
  { s with bank.mvb := tset (u8 c.params 0) (fit 48 c.params ++ (callEntries c).flatten) s.bank.mvb }

/-- R272: the freshness limit in force is the one the command gives. -/
theorem mvbStored_limit (c : Call) (s : State) : u16 (mvbCfg (u8 c.params 0) (mvbStored c s).bank) 6 = u16 c.params 6 := by
  have hraw : mvbCfg (u8 c.params 0) (mvbStored c s).bank = patch (fit 48 c.params ++ (callEntries c).flatten) 1 [0] := by
    simp [mvbCfg, mvbRaw, mvbStored, tgetD_tset_same]
  rw [hraw]
  simp (disch := decide) only [u16, ule, u8_stored]

/-- R248, R446: entries without a repeat replace the old ones; a new freshness limit clears the stale marks. -/
theorem mvbConfig_stores (he : ctlEnabled s.bank 3 (u8 c.params 0) = false) (h0 : u8 c.params 1 = 0)
    (hn : noRepeat ((callEntries c).map entryPort) = true) (hl : (callEntries c).length ≤ 128) :
    directAct stageMvb (fun _ _ _ => []) afterMvb c n s =
      { st := if u16 (mvbCfg (u8 c.params 0) s.bank) 6 = u16 c.params 6 then mvbStored c s
              else setMvb (u8 c.params 0) { mvbRt (u8 c.params 0) s with stale := [] } (mvbStored c s) } := by
  have hstage : stageMvb c n s s.bank = (.ok, (mvbStored c s).bank) := by
    simp [stageMvb, mvbStored, he, h0, hn, Nat.not_lt.2 hl]
  rw [directAct_accepted hstage, ← mvbStored_limit c s]
  rfl

end

/-! ### FIELD_BUS_STATE -/

section
variable {c : Call} {n : Nat} {s : State}

theorem canRt_clearCounters (k : Nat) (s : State) :
    canRt k (clearCounters 0 k s) = { canRt k s with counters := [], armed := true } := canRt_setCan ..

theorem uartRt_clearCounters (k : Nat) (s : State) :
    uartRt k (clearCounters 1 k s) = { uartRt k s with counters := [], armed := true } := uartRt_setUart_same ..

theorem linRt_clearCounters (k : Nat) (s : State) :
    linRt k (clearCounters 2 k s) = { linRt k s with counters := [], armed := true } := linRt_setLin_same ..

theorem mvbRt_clearCounters (k : Nat) (s : State) :
    mvbRt k (clearCounters 3 k s) = { mvbRt k s with counters := [] } := mvbRt_setMvb_same ..

/-- R274, R447: a controller is read in its layout; the read clears its counters unless bit 0 is set. -/
theorem actBusState_counters (hk : u8 c.params 0 < 4) : actBusState c n (taken c s) =
    { inline := busInline (u8 c.params 0) (u8 c.params 1) s, bulk := busCounters (u8 c.params 0) (u8 c.params 1) s
      st := if flag c.params 2 0 then taken c s else clearCounters (u8 c.params 0) (u8 c.params 1) (taken c s) } := by
  obtain ⟨g, hg⟩ := taken_eq c s
  rw [hg]
  exact if_neg (by omega)

/-- The pins as a read finds them: the inputs sampled, which are free values (log 106), and the outputs at their levels. -/
def pinsRead (s : State) : State := drivePins (sampleInputs s)

/-- Neither a command taken nor the read of the levels touches the captures. -/
theorem pinsRead_captures (c : Call) (s : State) : (pinsRead (taken c s)).buses.pins.captures = s.buses.pins.captures := by
  obtain ⟨g, hg⟩ := taken_eq c s
  rw [hg]
  simp only [pinsRead, drivePins, sampleInputs, picked]

/-- R447: the levels of the pins. -/
theorem actBusState_levels (hk : u8 c.params 0 = 4) (hf : flag c.params 2 1 = false) :
    actBusState c n s = { inline := le 5 (pinsRead s).buses.pins.inputs.toNat, st := pinsRead s } := by
  simp only [actBusState, hk, hf, if_true, Bool.false_eq_true, if_false]
  rfl

/-- R447: the captures that fit the area go with the answer (log 60). -/
theorem actBusState_captures (hk : u8 c.params 0 = 4) (hf : flag c.params 2 1 = true) : actBusState c n (taken c s) =
    { inline := le 5 (pinsRead (taken c s)).buses.pins.inputs.toNat, bulk := (captureBytes s).take (16 * captureRoom c)
      st := { pinsRead (taken c s) with buses.pins.captures := dropCaptures (captureRoom c) s.buses.pins.captures } } := by
  have hbytes : captureBytes (pinsRead (taken c s)) = captureBytes s := by simp only [captureBytes, pinsRead_captures]
  rw [← hbytes, ← pinsRead_captures c s]
  simp only [actBusState, hk, hf, if_true]
  rfl

theorem busStateCmd_ofController (hk : u8 c.params 0 < 4) : busStateCmd c = cmdFieldBusState := if_neg (by omega)

theorem busStateCmd_ofPins (hk : u8 c.params 0 = 4) : busStateCmd c = cmdFieldPinState := if_pos hk

theorem busState_answers {k : Cmd} {d b : Bytes} {u : State} (hc : busStateCmd c = k) (hk : k = cmdFieldBusState ∨ k = cmdFieldPinState)
    (h : Heard (busStateCmd c) c .device s) (hx : actBusState c 0 (taken c s) = { inline := d, bulk := b, st := u }) :
    Answers (.fieldBusState c) 0x0C06 c (answerOf k c { inline := d, bulk := b, st := u }) s u := by
  have he : exec (.fieldBusState c) s = .next (serve (busStateCmd c) c s) := rfl
  rw [hc] at h he
  rcases hk with rfl | rfl
  · exact answers_work h cmdFieldBusState_ok rfl rfl he rfl (.inl rfl) hx
  · exact answers_work h cmdFieldPinState_ok rfl rfl he rfl (.inl rfl) hx

end

/-- Settles O27: each configuration by what its act stores on a register file that is not guarded, FIELD_BUS_STATE by what it reads. The
input levels are free values (log 106); that only the captures that fit the area are taken out is log 60. -/
theorem fieldBusCommands : Obligations.FieldBusCommands := by
  refine ⟨?_, ?_⟩
  · rintro c k q s u rfl rfl rfl
    obtain ⟨g, hg⟩ := taken_eq c s
    refine ⟨fun h hfree hl => ?_, fun h hfree hl hm hu => ?_, fun h hfree he => ?_, fun h hfree he hd => ?_, fun h hgd => ?_,
      fun h hfree h4 he => ?_, fun h hfree h4 => ?_, fun h hfree he => ?_, fun h hfree he => ?_, fun h hfree he h0 hn hlen => ?_⟩
    · exact fieldPinAssign_item.answers h rfl rfl rfl (by rw [hg]; exact actFieldPinAssign_drives hfree (stagePins_levels hl))
    · exact fieldPinAssign_item.answers h rfl rfl rfl (by rw [hg]; exact actFieldPinAssign_drives hfree (stagePins_legal hl hm hu))
    · exact canConfig_item.answers_inline h rfl rfl rfl
        (by rw [hg]; exact guardAct_performed hfree (canConfig_stores h.noRecover he))
    · exact canConfig_item.refuses h rfl rfl rfl (by decide)
        (by rw [hg]; exact guardAct_refused hfree (by decide) (canConfig_busy h.noRecover he hd))
    · exact canConfig_item.refuses h rfl rfl rfl (by decide) (by rw [hg]; exact guardAct_guarded hgd)
    · refine ⟨canState (u8 c.params 0) 3 (canStored c (taken c s)), canRecover_item.answers_inline h rfl rfl rfl ?_, ?_, ?_⟩
      · rw [hg]; exact guardAct_performed hfree (canRecover_starts h.recover h4 he)
      · rw [(canState_onlyBuses ..).bank, hg]; rfl
      · rw [canRt_canState, canStored, canRt_setCan, taken_canRt]
    · exact canRecover_item.answers_inline h rfl rfl rfl (by rw [hg]; exact guardAct_performed hfree (canRecover_idle h.recover h4))
    · exact uartConfig_item.answers_inline h rfl rfl rfl (by rw [hg]; exact guardAct_performed hfree (uartConfig_stores he))
    · exact linConfig_item.answers h rfl rfl rfl (by rw [hg]; exact guardAct_performed hfree (linConfig_stores he))
    · exact ⟨mvbStored c (taken c s), by rw [hg]; rfl, mvbConfig_item.answers h rfl rfl rfl
        (by rw [hg]; exact guardAct_performed hfree (mvbConfig_stores he h0 hn hlen))⟩
  · rintro c kind k s u rfl rfl rfl h
    refine ⟨fun hk => ?_, fun hk hf => ⟨_, rfl, ?_⟩, fun hk hf => ⟨_, rfl, ?_, ?_⟩, fun hk => ?_, fun hk => ?_, fun hk => ?_, fun hk => ?_⟩
    · have hans := busState_answers (busStateCmd_ofController hk) (.inl rfl) h (actBusState_counters hk)
      rwa [answerOf_plain rfl] at hans
    · have hans := busState_answers (busStateCmd_ofPins hk) (.inr rfl) h (actBusState_levels hk hf)
      rwa [answerOf_noBulk] at hans
    · exact pinsRead_captures c s
    · exact busState_answers (busStateCmd_ofPins hk) (.inr rfl) h (actBusState_captures hk hf)
    · rw [hk, canRt_clearCounters]; exact ⟨rfl, rfl⟩
    · rw [hk, uartRt_clearCounters]; exact ⟨rfl, rfl⟩
    · rw [hk, linRt_clearCounters]; exact ⟨rfl, rfl⟩
    · rw [hk, mvbRt_clearCounters]

end Sys2Proof.Machine
end

section
/-! PROOF. The runtime of a port: what counters, shaper credits, verification and a dropped link leave of it (R201, R276, R279, R280,
R298, R303). -/

namespace Sys2Proof.Machine

/-! ### Counters and credits -/

/-- `t` is `s` but for the counters of the ports and the shaper credits. -/
def OnlyCounts (s t : State) : Prop :=
  ∃ counters credit creditAt, t = { s with ports.counters := counters, drill.credit := credit, drill.creditAt := creditAt }

section
variable {s t u : State}

theorem OnlyCounts.refl (s : State) : OnlyCounts s s := ⟨_, _, _, rfl⟩

theorem OnlyCounts.trans (h : OnlyCounts s t) (g : OnlyCounts t u) : OnlyCounts s u := by
  obtain ⟨_, _, _, rfl⟩ := h
  obtain ⟨_, _, _, rfl⟩ := g
  exact ⟨_, _, _, rfl⟩

theorem OnlyCounts.ev (h : OnlyCounts s t) : t.ev = s.ev := by obtain ⟨_, _, _, rfl⟩ := h; rfl
theorem OnlyCounts.power (h : OnlyCounts s t) : t.power = s.power := by obtain ⟨_, _, _, rfl⟩ := h; rfl
theorem OnlyCounts.config (h : OnlyCounts s t) : t.ports.config = s.ports.config := by obtain ⟨_, _, _, rfl⟩ := h; rfl
theorem OnlyCounts.portRt (h : OnlyCounts s t) (p : Nat) : portRt p t = portRt p s := by obtain ⟨_, _, _, rfl⟩ := h; rfl
theorem OnlyCounts.pauseOf (h : OnlyCounts s t) (p d : Nat) : pauseOf p d t = pauseOf p d s := by obtain ⟨_, _, _, rfl⟩ := h; rfl
theorem OnlyCounts.pauseMode (h : OnlyCounts s t) (p : Nat) : pauseMode p t = pauseMode p s := by obtain ⟨_, _, _, rfl⟩ := h; rfl

theorem countPort_onlyCounts (p i n : Nat) (s : State) : OnlyCounts s (countPort p i n s) := ⟨_, _, _, rfl⟩

theorem foldl_onlyCounts {α : Type} {f : State → α → State} (hf : ∀ s a, OnlyCounts s (f s a)) (l : List α) (s : State) :
    OnlyCounts s (l.foldl f s) :=
  foldl_keeps (OnlyCounts s) f (fun _ _ h => h.trans (hf _ _)) l s (.refl s)

theorem updateCredits_onlyCounts (p : Nat) (s : State) : OnlyCounts s (updateCredits p s) := by
  refine foldl_onlyCounts (fun s tc => ?_) _ s
  unfold updateCredit
  split
  · exact .refl s
  · exact ⟨_, _, _, rfl⟩

end

/-! ### The runtime written and read -/

section
variable {p q : Nat} {s t u : State}

@[simp] theorem portRt_setPort_same (p : Nat) (v : PortRt) (s : State) : portRt p (setPort p v s) = v := tgetD_tset_same ..

theorem portRt_setPort_other (h : q ≠ p) (v : PortRt) (s : State) : portRt q (setPort p v s) = portRt q s := tgetD_tset_other h ..

@[simp] theorem raise_ports (n o : Nat) (s : State) : (raise n o s).ports = s.ports := by rw [raise_frame]

@[simp] theorem raise_drill (n o : Nat) (s : State) : (raise n o s).drill = s.drill := by rw [raise_frame]

@[simp] theorem raise_bank (n o : Nat) (s : State) : (raise n o s).bank = s.bank := by rw [raise_frame]

@[simp] theorem portRt_raise (p n o : Nat) (s : State) : portRt p (raise n o s) = portRt p s := by simp only [portRt, raise_ports]

/-! ### Verification -/

/-- `t` is `s` but for the verify state of port `p`, the counters of the ports and what the part emits. -/
structure VerifyMoved (p : Nat) (s t : State) : Prop where
  rest : t = { s with wire := t.wire, ports := { s.ports with rt := t.ports.rt, counters := t.ports.counters } }
  own : portRt p t = { portRt p s with verify := (portRt p t).verify, attempts := (portRt p t).attempts }
  others : ∀ q, q ≠ p → portRt q t = portRt q s

theorem VerifyMoved.refl (p : Nat) (s : State) : VerifyMoved p s s := ⟨rfl, rfl, fun _ _ => rfl⟩

theorem VerifyMoved.trans (h : VerifyMoved p s t) (g : VerifyMoved p t u) : VerifyMoved p s u where
  rest := g.rest.trans (by rw [h.rest])
  own := g.own.trans (by rw [h.own])
  others q hq := (g.others q hq).trans (h.others q hq)

theorem VerifyMoved.ev (h : VerifyMoved p s t) : t.ev = s.ev := by rw [h.rest]
theorem VerifyMoved.bank (h : VerifyMoved p s t) : t.bank = s.bank := by rw [h.rest]
theorem VerifyMoved.config (h : VerifyMoved p s t) : t.ports.config = s.ports.config := by rw [h.rest]
theorem VerifyMoved.preempt (h : VerifyMoved p s t) : t.ports.preempt = s.ports.preempt := by rw [h.rest]
theorem VerifyMoved.link (h : VerifyMoved p s t) : (portRt p t).link = (portRt p s).link := by rw [h.own]
theorem VerifyMoved.training (h : VerifyMoved p s t) : (portRt p t).training = (portRt p s).training := by rw [h.own]
theorem VerifyMoved.speed (h : VerifyMoved p s t) : (portRt p t).speed = (portRt p s).speed := by rw [h.own]
theorem VerifyMoved.lossPending (h : VerifyMoved p s t) : (portRt p t).lossPending = (portRt p s).lossPending := by rw [h.own]
theorem VerifyMoved.pause (h : VerifyMoved p s t) : (portRt p t).pause = (portRt p s).pause := by rw [h.own]

theorem countPort_verifyMoved (p i n : Nat) (s : State) : VerifyMoved p s (countPort p i n s) := ⟨rfl, rfl, fun _ _ => rfl⟩

theorem emit_verifyMoved (p : Nat) (w : WireItem) (s : State) : VerifyMoved p s (emit w s) := ⟨rfl, rfl, fun _ _ => rfl⟩

theorem setPort_verifyMoved (p verify attempts : Nat) (s : State) :
    VerifyMoved p s (setPort p { portRt p s with verify, attempts } s) :=
  ⟨rfl, by rw [portRt_setPort_same], fun _ hq => portRt_setPort_other hq ..⟩

theorem sendMpacket_verifyMoved (p : Nat) (respond : Bool) (s : State) : VerifyMoved p s (sendMpacket p respond s) := by
  unfold sendMpacket
  split
  · exact (countPort_verifyMoved ..).trans (emit_verifyMoved ..)
  split
  · exact countPort_verifyMoved ..
  dsimp only
  split
  · exact (countPort_verifyMoved p 29 2 s).trans (setPort_verifyMoved p 0 0 _)
  · exact countPort_verifyMoved ..

/-- R298: beginning the verify procedure, or leaving it off, touches no link and no setting. -/
theorem startVerify_verifyMoved (p : Nat) (s : State) : VerifyMoved p s (startVerify p s) := by
  unfold startVerify
  dsimp only
  split
  · split
    · exact (setPort_verifyMoved ..).trans (sendMpacket_verifyMoved ..)
    · exact setPort_verifyMoved ..
  · exact setPort_verifyMoved ..

end

end Sys2Proof.Machine
end

section
/-! PROOF. PORT_CONFIG, PORT_STATE and the filters of a port (R276 to R280, R400 to R402). -/

namespace Sys2Proof.Machine

/-! ### PORT_CONFIG -/

/-- The settings of a port stored, and in flash the same. -/
def portStored (p : Nat) (i : Img) (s : State) : State :=
  { s with ports.config := tset p i s.ports.config, fixed.portCfg := tset p i s.ports.config }

/-- The lane mode that a PORT_CONFIG gives the lane of its port, stored, and in flash the same. -/
def laneStored (q : Img) (s : State) : State :=
  let lanes := if u8 q 1 = 0 then s.ports.lanes else tset (laneOf (u8 q 0)) (u8 q 1) s.ports.lanes
  { s with ports.lanes := lanes, fixed.laneCfg := lanes }

/-- The port with these settings whose link detection starts (R279). -/
def portDetects (p : Nat) (i : Img) (s : State) : State :=
  setPort p { portRt p s with link := false, training := true, lossPending := false, mismatch := false } (portStored p i s)

section
variable {c : Call} {n p : Nat} {q i : Img} {s : State}

theorem laneStored_unchanged (h : u8 q 1 = 0) : laneStored q s = { s with fixed.laneCfg := s.ports.lanes } := by
  simp only [laneStored, h, if_true]

/-- R276, R277: a lane mode does not change under an enabled port. -/
theorem actPortConfig_laneBusy (hq : q = fit 48 c.params) (hm : newMode q s ≠ laneMode (laneOf (u8 q 0)) s)
    (he : (lanePorts (laneOf (u8 q 0))).any (fun x => portEnabled x s) = true) : actPortConfig c n s = { status := .busy, st := s } := by
  subst hq
  have hrefused : (newMode (fit 48 c.params) s != laneMode (laneOf (u8 (fit 48 c.params) 0)) s &&
      (lanePorts (laneOf (u8 (fit 48 c.params) 0))).any (fun x => portEnabled x s)) = true := by
    rw [he, Bool.and_true]
    exact bne_iff_ne.2 hm
  exact if_pos hrefused

/-- R278: speed, largest frame and training do not change on an enabled port (that it answers ST_BUSY is log 54). -/
theorem actPortConfig_portBusy (hq : q = fit 48 c.params) (he : portEnabled (u8 q 0) s = true)
    (hd : u8 (portCfg (u8 q 0) s) 2 ≠ u8 q 2 ∨ u16 (portCfg (u8 q 0) s) 12 ≠ u16 q 12 ∨ flag (portCfg (u8 q 0) s) 3 4 ≠ flag q 3 4) :
    actPortConfig c n s = { status := .busy, st := s } := by
  subst hq
  have hdiffers : (u8 (portCfg (u8 (fit 48 c.params) 0) s) 2 != u8 (fit 48 c.params) 2 ||
      u16 (portCfg (u8 (fit 48 c.params) 0) s) 12 != u16 (fit 48 c.params) 12 ||
      flag (portCfg (u8 (fit 48 c.params) 0) s) 3 4 != flag (fit 48 c.params) 3 4) = true := by
    simpa only [Bool.or_eq_true, bne_iff_ne, or_assoc] using hd
  simp only [actPortConfig, he, hdiffers, Bool.and_true, if_true, ite_self]

/-- R400: settings that nothing stands against are taken. -/
theorem actPortConfig_takes (hq : q = fit 48 c.params) (hm : newMode q s = laneMode (laneOf (u8 q 0)) s)
    (hs : portEnabled (u8 q 0) s = false ∨
      u8 (portCfg (u8 q 0) s) 2 = u8 q 2 ∧ u16 (portCfg (u8 q 0) s) 12 = u16 q 12 ∧ flag (portCfg (u8 q 0) s) 3 4 = flag q 3 4) :
    actPortConfig c n s = { st := takePort (u8 q 0) (patch q 1 [0]) (laneStored q s) } := by
  subst hq
  have hlane : (newMode (fit 48 c.params) s != laneMode (laneOf (u8 (fit 48 c.params) 0)) s) = false := by rw [hm, bne_self_eq_false]
  rcases hs with he | ⟨h2, h12, h4⟩
  · simp only [actPortConfig, hlane, he, Bool.false_and, Bool.false_eq_true, if_false, laneStored]
  · simp only [actPortConfig, hlane, h2, h12, h4, bne_self_eq_false, Bool.or_self, Bool.and_false, Bool.false_and, Bool.false_eq_true,
      if_false, laneStored]

/-- R400: a port that stays enabled, or disabled, takes its settings alone. -/
theorem takePort_stays (h : portEnabled p s = flag i 3 0) : takePort p i s = portStored p i s := by
  unfold takePort
  dsimp only
  cases he : portEnabled p s <;> rw [he] at h <;> simp only [← h] <;> rfl

/-- R279: enabling a port outside internal loopback starts link detection, and verification where it is on. -/
theorem takePort_enables (he : portEnabled p s = false) (hl : looped p s = false) (hf : flag i 3 0 = true) :
    takePort p i s = startVerify p (portDetects p i s) := by
  have hl' : looped p { s with ports.config := tset p i s.ports.config, fixed.portCfg := tset p i s.ports.config } = false := hl
  simp only [takePort, he, hf, hl', Bool.not_false, Bool.and_self, if_true, Bool.false_eq_true, if_false]
  rfl

/-- R279: a port enabled so has its settings, no link, and its link in training. -/
theorem takePort_detects (he : portEnabled p s = false) (hl : looped p s = false) (hf : flag i 3 0 = true) :
    portCfg p (takePort p i s) = i ∧ (portRt p (takePort p i s)).link = false ∧ (portRt p (takePort p i s)).training = true := by
  have hverify := startVerify_verifyMoved p (portDetects p i s)
  rw [takePort_enables he hl hf, portCfg, hverify.config, hverify.link, hverify.training, portDetects, portRt_setPort_same]
  exact ⟨tgetD_tset_same .., rfl, rfl⟩

end

/-! ### Filters -/

section
variable {c : Call} {n : Nat} {s : State}

theorem actFilterSet_exact (h : u8 c.params 1 = 0) : actFilterSet c n s = { st := { s with
    ports.exact := tset (32 * u8 c.params 0 + u16 c.params 2) (ofBe (sub c.params 8 6)) s.ports.exact } } := by simp only [actFilterSet, h]

theorem actFilterSet_pattern (h : u8 c.params 1 = 1) : actFilterSet c n s = { st := { s with
    ports.patterns := tset (64 * u8 c.params 0 + u16 c.params 2) (fit 48 c.params) s.ports.patterns } } := by simp only [actFilterSet, h]

theorem actFilterSet_hashBit (h : u8 c.params 1 = 2) : actFilterSet c n s =
    { st := setHash (u8 c.params 0) (hashOf (u8 c.params 0) s ||| bitAt 512 (u16 c.params 2)) s } := by simp only [actFilterSet, h]

theorem actFilterSet_hashMap (h : u8 c.params 1 = 3) : actFilterSet c n s =
    { st := setHash (u8 c.params 0) (BitVec.ofNat 512 (ule c.bulk 0 64)) s } := by simp only [actFilterSet, h]

theorem actFilterClear_exact (h : u8 c.params 1 = 0) : actFilterClear c n s = { st := { s with
    ports.exact := tdel (32 * u8 c.params 0 + u16 c.params 2) s.ports.exact } } := by simp only [actFilterClear, h]

theorem actFilterClear_pattern (h : u8 c.params 1 = 1) : actFilterClear c n s = { st := { s with
    ports.patterns := tdel (64 * u8 c.params 0 + u16 c.params 2) s.ports.patterns } } := by simp only [actFilterClear, h]

theorem actFilterClear_hashBit (h : u8 c.params 1 = 2) : actFilterClear c n s =
    { st := setHash (u8 c.params 0) (hashOf (u8 c.params 0) s &&& ~~~(bitAt 512 (u16 c.params 2))) s } := by simp only [actFilterClear, h]

theorem actFilterClear_hashMap (h : u8 c.params 1 = 3) : actFilterClear c n s = { st := setHash (u8 c.params 0) 0 s } := by
  simp only [actFilterClear, h]

end

theorem portConfig_device : DeviceCmd cmdPortConfig := ⟨rfl, rfl, rfl, rfl, cmdPortConfig_ok⟩
theorem portFilterSet_device : DeviceCmd cmdPortFilterSet := ⟨rfl, rfl, rfl, rfl, cmdPortFilterSet_ok⟩
theorem portFilterClear_device : DeviceCmd cmdPortFilterClear := ⟨rfl, rfl, rfl, rfl, cmdPortFilterClear_ok⟩

/-- R401: PORT_STATE answers its layout, the rounding of a Headland (log 23) taken from one free value. -/
theorem portState_answers {c : Call} {s : State} (h : Heard cmdPortState c .device s) : Answers (.portState c) 0x0402 c
    { inline := (actPortState c 0 s).inline, bulk := (actPortState c 0 s).bulk } s { taken c s with free := s.free + 1 } := by
  have hx : actPortState c 0 (taken c s) =
      { inline := (actPortState c 0 s).inline, bulk := (actPortState c 0 s).bulk, st := { taken c s with free := s.free + 1 } } := by
    obtain ⟨g, hg⟩ := taken_eq c s
    rw [hg]
    rfl
  have hans := answers_work (i := .portState c) h cmdPortState_ok rfl rfl rfl rfl (.inl rfl) hx
  rwa [answerOf_plain rfl] at hans

/-- Settles O17: PORT_CONFIG by what refuses it, else by what the port that takes its settings does; PORT_FILTER_SET by the kind of its
item. That a change refused on an enabled port answers ST_BUSY is log 54. -/
theorem portCommands : Obligations.PortCommands := by
  refine ⟨?_, ?_⟩
  · rintro c _ _ _ s _ rfl rfl rfl rfl h
    obtain ⟨g, hg⟩ := taken_eq c s
    refine ⟨fun hbusy => ?_, fun hm he h1 h2 h12 h4 => ?_, fun hm he hl hf => ?_⟩
    · refine portConfig_device.answers h rfl rfl ?_
      rw [hg]
      rcases hbusy with ⟨hm, hany⟩ | ⟨he, hd⟩
      · exact actPortConfig_laneBusy (n := 0) rfl hm hany
      · exact actPortConfig_portBusy (n := 0) rfl he hd
    · have hx := actPortConfig_takes (c := c) (n := 0) (s := taken c s) rfl (by rw [hg]; exact hm)
        (.inr (by rw [hg]; exact ⟨h2, h12, h4⟩))
      rw [laneStored_unchanged h1, takePort_stays (by rw [hg]; exact he)] at hx
      rw [hg] at hx ⊢
      exact portConfig_device.answers h rfl rfl (by rw [hg]; exact hx)
    · have hx := actPortConfig_takes (c := c) (n := 0) (s := taken c s) rfl (by rw [hg]; exact hm) (.inl (by rw [hg]; exact he))
      refine ⟨_, portConfig_device.answers h rfl rfl hx, ?_⟩
      rw [hg]
      exact takePort_detects he hl hf
  · rintro c s _ rfl
    obtain ⟨g, hg⟩ := taken_eq c s
    refine ⟨portState_answers, fun h hk => ?_, fun h hk => ?_, fun h hk => ?_, fun h hk => ?_, fun h hk => ?_, fun h hk => ?_,
      fun h hk => ?_, fun h hk => ?_⟩
    · exact portFilterSet_device.answers h rfl rfl (by rw [hg]; exact actFilterSet_exact (n := 0) hk)
    · exact portFilterSet_device.answers h rfl rfl (by rw [hg]; exact actFilterSet_pattern (n := 0) hk)
    · exact portFilterSet_device.answers h rfl rfl (by rw [hg]; exact actFilterSet_hashBit (n := 0) hk)
    · exact portFilterSet_device.answers h rfl rfl (by rw [hg]; exact actFilterSet_hashMap (n := 0) hk)
    · exact portFilterClear_device.answers h rfl rfl (by rw [hg]; exact actFilterClear_exact (n := 0) hk)
    · exact portFilterClear_device.answers h rfl rfl (by rw [hg]; exact actFilterClear_pattern (n := 0) hk)
    · exact portFilterClear_device.answers h rfl rfl (by rw [hg]; exact actFilterClear_hashBit (n := 0) hk)
    · exact portFilterClear_device.answers h rfl rfl (by rw [hg]; exact actFilterClear_hashMap (n := 0) hk)

end Sys2Proof.Machine
end

section
/-! PROOF. The commands of a port's queues and lists (R201, R206, R294, R298, R304, R403 to R410). -/

namespace Sys2Proof.Machine

theorem portPauseSet_device : DeviceCmd cmdPortPauseSet := ⟨rfl, rfl, rfl, rfl, cmdPortPauseSet_ok⟩
theorem portPreemptSet_device : DeviceCmd cmdPortPreemptSet := ⟨rfl, rfl, rfl, rfl, cmdPortPreemptSet_ok⟩
theorem furrowSwitch_device : DeviceCmd cmdFurrowSwitch := ⟨rfl, rfl, rfl, rfl, cmdFurrowSwitch_ok⟩
theorem furrowListRemove_device : DeviceCmd cmdFurrowListRemove := ⟨rfl, rfl, rfl, rfl, cmdFurrowListRemove_ok⟩

theorem furrowListWrite_item : DirectItem cmdFurrowListWrite := ⟨rfl, rfl, rfl, rfl, cmdFurrowListWrite_ok⟩
theorem shaperSet_item : DirectItem cmdShaperSet := ⟨rfl, rfl, rfl, rfl, cmdShaperSet_ok⟩
theorem sheafSet_item : DirectItem cmdSheafSet := ⟨rfl, rfl, rfl, rfl, cmdSheafSet_ok⟩
theorem classMapSet_item : DirectItem cmdClassMapSet := ⟨rfl, rfl, rfl, rfl, cmdClassMapSet_ok⟩
theorem poolAndGuardSet_item : DirectItem cmdPoolAndGuardSet := ⟨rfl, rfl, rfl, rfl, cmdPoolAndGuardSet_ok⟩

section
variable {c : Call} {n : Nat} {i : Img} {s : State} {b : Bank}

/-! ### Pause and preemption -/

/-- The pause settings of a port stored. -/
def pauseStored (q : Img) (s : State) : State := { s with ports.pauseCfg := tset (u8 q 0) q s.ports.pauseCfg }

/-- R294, R403: the settings are stored, and a change of the receive mode takes every class of the port back to Running. -/
theorem actPause_stores {q : Img} (hq : q = fit 48 c.params) :
    (actPause c n s).st.ports.pauseCfg = (pauseStored q s).ports.pauseCfg ∧
      (u8 (pauseCfg (u8 q 0) s) 1 ≠ u8 q 1 → (portRt (u8 q 0) (actPause c n s).st).pause = []) := by
  subst hq
  have hports := updateCredits_ports (u8 (fit 48 c.params) 0) (pauseStored (fit 48 c.params) s)
  unfold pauseStored at hports ⊢
  refine ⟨?_, fun hmode => ?_⟩
  · simp only [actPause]
    split
    · rw [setPort_ports_pauseCfg, hports]
    · rfl
  · simp only [actPause, bne_iff_ne.2 hmode, Bool.true_or, if_true, portRt_setPort_same]

/-! ### Furrow lists -/

/-- R406: a list is stored while no change of the port's list waits. -/
theorem stageFurrows_idle (h : (furrowRt (u8 c.bulk 18) s).change = none) :
    stageFurrows c n s b = (.ok, { b with furrows := tset (u8 c.bulk 18) c.bulk b.furrows }) := by
  simp only [stageFurrows, h, Option.isSome_none, Bool.false_eq_true, if_false]

/-- R407: the stored list waits for a start of its cycle, 1 ms ahead or later. -/
theorem actFurrowSwitch_waits (hi : tget (u8 c.params 0) s.bank.furrows = some i) (hc : (furrowRt (u8 c.params 0) s).change = none)
    (hr : (furrowRt (u8 c.params 0) s).remove = none) : actFurrowSwitch c n s =
    { inline := le 8 (changeTime i (nowNs s + 1000000))
      st := setFurrow (u8 c.params 0) { furrowRt (u8 c.params 0) s with change := some (changeTime i (nowNs s + 1000000)) } s } := by
  simp only [actFurrowSwitch, hi, hc, hr, Option.isSome_none, Bool.or_self, Bool.false_eq_true, if_false]

/-- R407: the list in operation waits so for its removal. -/
theorem actFurrowRemove_waits (hi : (furrowRt (u8 c.params 0) s).oper = some i) (hc : (furrowRt (u8 c.params 0) s).change = none)
    (hr : (furrowRt (u8 c.params 0) s).remove = none) : actFurrowRemove c n s =
    { inline := le 8 (changeTime i (nowNs s + 1000000))
      st := setFurrow (u8 c.params 0) { furrowRt (u8 c.params 0) s with remove := some (changeTime i (nowNs s + 1000000)) } s } := by
  simp only [actFurrowRemove, hi, hc, hr, Option.isSome_none, Bool.or_self, Bool.false_eq_true, if_false]

/-! ### Shapers and class maps -/

/-- The settings with the shaper of a class stored: idleSlope and whether it is on. -/
def shaperStored (q : Img) (b : Bank) : Bank :=
  { b with shapers := tset (8 * u8 q 0 + u8 q 1) (fit 48 (sub q 0 2 ++ [byte (b2n (flag q 2 0)), 0] ++ sub q 4 4)) b.shapers }

/-- R201, R408: a shaper that is not to be on for the class of Beacon is stored. -/
theorem stageShaper_stores {q : Img} (hq : q = fit 48 c.params) (h : ¬ (flag q 2 0 = true ∧ classTc (u8 q 0) 0 b = u8 q 1))
    (hl : flag q 2 1 = false) : stageShaper c n s b = (.ok, shaperStored q b) := by
  subst hq
  have hbeacon : (flag (fit 48 c.params) 2 0 && classTc (u8 (fit 48 c.params) 0) 0 b == u8 (fit 48 c.params) 1) = false := by
    rw [← Bool.not_eq_true, Bool.and_eq_true, beq_iff_eq]; exact h
  simp only [stageShaper, hbeacon, hl, Bool.false_eq_true, if_false, shaperStored]

/-- R198, R201, R410: a class map that puts Beacon into a class neither preemptable nor shaped is stored. -/
theorem stageClassMap_stores {q : Img} (hq : q = fit 48 c.params) (hp : preemptable (u8 q 1) (u8 q 4) s = false)
    (hs : shaperOf (u8 q 1) (u8 q 4) b = none) : stageClassMap c n s b = (.ok, { b with classMaps := tset (u8 q 1) q b.classMaps }) := by
  subst hq
  simp only [stageClassMap, hp, hs, Option.isSome_none, Bool.or_self, Bool.false_eq_true, if_false]

end

/-- R304, R405: PORT_STATS_SNAP answers the counters of its ports and clears them in the same step. -/
theorem portStatsSnap_answers {c : Call} {s : State} (h : Heard cmdPortStatsSnap c .device s) : Answers (.portStatsSnap c) 0x0406 c
    (answerOf cmdPortStatsSnap c
      { inline := le 8 (stampOf (nowNs s)), bulk := ((snapPorts c s).map (fun x => snapBytes x s)).flatten, st := taken c s }) s
    { taken c s with ports.counters := s.ports.counters.filter (fun e => !(snapPorts c s).contains (e.1 / 48)) } := by
  have hx : actSnap c 0 (taken c s) =
      { inline := le 8 (stampOf (nowNs s)), bulk := ((snapPorts c s).map (fun x => snapBytes x s)).flatten
        st := { taken c s with ports.counters := s.ports.counters.filter (fun e => !(snapPorts c s).contains (e.1 / 48)) } } := by
    obtain ⟨g, hg⟩ := taken_eq c s
    rw [hg]
    rfl
  exact answers_work h cmdPortStatsSnap_ok rfl rfl rfl rfl (.inl rfl) hx

/-- Settles O18: each command's act on the state that has taken it. -/
theorem portQueueAndListCommands : Obligations.PortQueueAndListCommands := by
  rintro c _ _ s _ rfl rfl rfl
  obtain ⟨g, hg⟩ := taken_eq c s
  refine ⟨fun h => ⟨_, portPauseSet_device.answers h rfl rfl rfl, ?_⟩, fun h => ⟨_, portPreemptSet_device.answers h rfl rfl rfl, ?_⟩,
    fun h => ?_, fun h hc => ?_, fun i h hi hc hr => ?_, fun i h hi hc hr => ?_, fun h hb hl => ?_, fun h => ?_, fun h hp hs => ?_,
    fun h => ?_⟩
  · rw [hg]
    exact actPause_stores (n := 0) rfl
  · rw [hg]
    exact (startVerify_verifyMoved ..).preempt
  · exact portStatsSnap_answers h
  · exact furrowListWrite_item.answers h rfl rfl rfl (by rw [hg]; exact directAct_staged (n := 0) (stageFurrows_idle hc))
  · exact furrowSwitch_device.answers h rfl rfl (by rw [hg]; exact actFurrowSwitch_waits (n := 0) hi hc hr)
  · exact furrowListRemove_device.answers h rfl rfl (by rw [hg]; exact actFurrowRemove_waits (n := 0) hi hc hr)
  · have hx := directAct_accepted (c := c) (n := 0) (inl := shaperResult) (after := afterShaper)
      (stageShaper_stores (n := 0) (s := taken c s) rfl (by rw [taken_bank]; exact hb) hl)
    exact ⟨_, _, shaperSet_item.answers_inline h rfl rfl rfl hx, rfl, by rw [taken_bank]; rfl⟩
  · exact sheafSet_item.answers h rfl rfl rfl (directAct_staged (f := stageSheaf) (n := 0) (s := taken c s) rfl)
  · have hx := directAct_accepted (c := c) (n := 0) (inl := fun _ _ _ => []) (after := fun _ _ _ s => clearImmune s)
      (stageClassMap_stores (n := 0) (s := taken c s) rfl (by rw [hg]; exact hp) (by rw [taken_bank]; exact hs))
    exact ⟨_, classMapSet_item.answers h rfl rfl rfl hx, by rw [taken_bank]; rfl⟩
  · exact poolAndGuardSet_item.answers h rfl rfl rfl (directAct_staged (f := stagePool) (n := 0) (s := taken c s) rfl)

end Sys2Proof.Machine
end

section
/-! PROOF. Links of the ports and the verification of preemption (R276, R279, R280, R298). -/

namespace Sys2Proof.Machine

/-! ### What a lost link takes with it -/

section
variable {p q speed : Nat} {c : Copy} {s t u : State}

/-- `t` is `s` with frames cut short: no event is raised, and of the ports the counters alone change. -/
structure FramesCut (s t : State) : Prop where
  ev : t.ev = s.ev
  ports : t.ports = { s.ports with counters := t.ports.counters }

theorem FramesCut.refl (s : State) : FramesCut s s := ⟨rfl, rfl⟩

theorem FramesCut.trans (h : FramesCut s t) (g : FramesCut t u) : FramesCut s u where
  ev := g.ev.trans h.ev
  ports := g.ports.trans (by rw [h.ports])

theorem FramesCut.config (h : FramesCut s t) : t.ports.config = s.ports.config := by rw [h.ports]
theorem FramesCut.portRt (h : FramesCut s t) (p : Nat) : portRt p t = portRt p s := by rw [Machine.portRt, h.ports, Machine.portRt]

/-- A frame cut short gives up its place and is counted. -/
def frameCut (p : Nat) (c : Copy) (s : State) : State := countPort p 32 1 (endCopy c s)

theorem frameCut_leaves (p : Nat) (c : Copy) (s : State) :
    FramesCut s (frameCut p c s) ∧ (frameCut p c s).drill.portWire = s.drill.portWire := by
  obtain ⟨_, _, _, _, _, h⟩ := endCopy_same c s
  rw [frameCut, h]
  exact ⟨⟨rfl, rfl⟩, rfl⟩

/-- The state without the frame on a port's wire. -/
def wireCut (p : Nat) (s : State) : State :=
  match tget p s.drill.portWire with
  | some c => frameCut p c (unwirePort p s)
  | none => s

theorem wireCut_leaves (p : Nat) (s : State) : FramesCut s (wireCut p s) ∧ tget p (wireCut p s).drill.portWire = none := by
  unfold wireCut
  split
  · next c _ =>
    obtain ⟨hcut, hwire⟩ := frameCut_leaves p c (unwirePort p s)
    exact ⟨⟨hcut.ev, hcut.ports⟩, by rw [hwire]; exact unwirePort_free p s⟩
  · next hw => exact ⟨.refl s, hw⟩

/-- The state without the remainder of a port's preempted frame. -/
def heldCut (p : Nat) (s : State) : State :=
  match tget p s.drill.portHeld with
  | some c => frameCut p c { s with drill.portHeld := tdel p s.drill.portHeld }
  | none => s

theorem heldCut_leaves (p : Nat) (s : State) : FramesCut s (heldCut p s) ∧ (heldCut p s).drill.portWire = s.drill.portWire := by
  unfold heldCut
  split
  · next c _ =>
    obtain ⟨hcut, hwire⟩ := frameCut_leaves p c { s with drill.portHeld := tdel p s.drill.portHeld }
    exact ⟨⟨hcut.ev, hcut.ports⟩, hwire⟩
  · exact ⟨.refl s, rfl⟩

/-- The state with a port's pauses, received and sent, and its shaper credits forgotten. -/
def pausesForgotten (p : Nat) (s : State) : State :=
  setPort p { portRt p s with pause := [], pauseSent := 0, pauseWait := [] }
    { s with drill.credit := s.drill.credit.filter (fun e => e.1 / 8 != p) }

/-- R298: where verification is on it begins anew. -/
def verifyAnew (p : Nat) (s : State) : State :=
  if preemptOn p s && verifyOn p s then setPort p { portRt p s with verify := 2, attempts := u8 (preemptCfg p s) 3 } s else s

theorem verifyAnew_keeps (p : Nat) (s : State) : VerifyMoved p s (verifyAnew p s) ∧ (verifyAnew p s).drill = s.drill := by
  unfold verifyAnew
  split
  · exact ⟨setPort_verifyMoved .., rfl⟩
  · exact ⟨.refl p s, rfl⟩

theorem dropLink_eq (p : Nat) (s : State) : dropLink p s = verifyAnew p (pausesForgotten p (heldCut p (wireCut p s))) := rfl

/-- `t` is `s` with what a lost link of port `p` takes along gone. -/
structure LinkDropped (p : Nat) (s t : State) : Prop where
  ev : t.ev = s.ev
  config : t.ports.config = s.ports.config
  link : (portRt p t).link = (portRt p s).link
  pause : (portRt p t).pause = []
  portWire : tget p t.drill.portWire = none

theorem dropLink_drops (p : Nat) (s : State) : LinkDropped p s (dropLink p s) := by
  obtain ⟨hwire, hfree⟩ := wireCut_leaves p s
  obtain ⟨hheld, hsame⟩ := heldCut_leaves p (wireCut p s)
  have hcut := hwire.trans hheld
  obtain ⟨hverify, hdrill⟩ := verifyAnew_keeps p (pausesForgotten p (heldCut p (wireCut p s)))
  rw [← dropLink_eq] at hverify hdrill
  have hrt : portRt p (pausesForgotten p (heldCut p (wireCut p s))) = { portRt p s with pause := [], pauseSent := 0, pauseWait := [] } := by
    rw [pausesForgotten, portRt_setPort_same, hcut.portRt]
  constructor
  · exact hverify.ev.trans hcut.ev
  · exact hverify.config.trans hcut.config
  · rw [hverify.link, hrt]
  · rw [hverify.pause, hrt]
  · rw [hdrill]; exact (congrArg (tget p) hsame).trans hfree

/-! ### Down and Up -/

/-- The runtime of a port that goes Down. -/
def downRt (p : Nat) (s : State) : PortRt :=
  { portRt p s with link := false, lossPending := false, training := trains p s, speed := 0, lastChange := stampOf (nowNs s) }

theorem portRt_goDown (p : Nat) (s : State) : portRt p (goDown p s) = downRt p s := by
  rw [goDown, portRt_raise, portRt_setPort_same, downRt]

theorem goDown_drill (p : Nat) (s : State) : (goDown p s).drill = s.drill := by rw [goDown, raise_drill]; rfl

theorem goDown_pending (p : Nat) (s : State) : (goDown p s).ev.pending.getLsbD 16 = true := raise_pending _ _ (by decide) (by decide)

/-- A port that has come Up, with event 16, before it verifies. -/
def linked (p speed : Nat) (s : State) : State :=
  raise 16 p (setPort p { portRt p s with link := true, lossPending := false, training := false, mismatch := false, speed,
                                          lastChange := stampOf (nowNs s) } s)

/-- R279: a port comes Up with the link at its speed, and no other port changes. -/
theorem goUp_does (p speed : Nat) (s : State) : (portRt p (goUp p speed s)).link = true ∧ (portRt p (goUp p speed s)).speed = speed ∧
    (portRt p (goUp p speed s)).lossPending = false ∧ (goUp p speed s).ev.pending.getLsbD 16 = true ∧ (goUp p speed s).bank = s.bank ∧
    ∀ q, q ≠ p → portRt q (goUp p speed s) = portRt q s := by
  have hverify : VerifyMoved p (linked p speed s) (goUp p speed s) := startVerify_verifyMoved ..
  have hrt : portRt p (linked p speed s) = { portRt p s with
      link := true, lossPending := false, training := false, mismatch := false, speed, lastChange := stampOf (nowNs s) } := by
    rw [linked, portRt_raise, portRt_setPort_same]
  refine ⟨by rw [hverify.link, hrt], by rw [hverify.speed, hrt], by rw [hverify.lossPending, hrt], ?_, ?_, fun q hq => ?_⟩
  · rw [hverify.ev]; exact raise_pending _ _ (by decide) (by decide)
  · rw [hverify.bank, linked, raise_bank]; rfl
  · rw [hverify.others q hq, linked, portRt_raise, portRt_setPort_other hq]

/-- R276: a link at a speed that its lane mode offers and its settings allow takes a port Up. -/
theorem linkUp_does (hg : s.power.state = .growing) (hp : portPresent p s = true) (he : portEnabled p s = true) (hl : looped p s = false)
    (h0 : speed ≠ 0) (ho : speedOffered (laneMode (laneOf p) s) speed = true) (hm : speedMismatch p speed s = false)
    (hk : (portRt p s).link = false) : exec (.linkUp p speed) s = .next (goUp p speed s) := by
  have h0' : (speed == 0) = false := beq_eq_false_iff_ne.2 h0
  show execLinkUp p speed s = _
  simp only [execLinkUp, hg, bne_self_eq_false, hp, he, hl, h0', ho, hm, hk, Bool.not_true, Bool.not_false, Bool.or_self,
    Bool.false_eq_true, if_false, if_true]

/-- The state in which a loss of the link has taken its frame, its pauses and its credits. -/
def lossTaken (p : Nat) (s : State) : State := dropLink p (countPort p 45 1 (updateCredits p s))

theorem lossTaken_drops (p : Nat) (s : State) : LinkDropped p s (lossTaken p s) := by
  have hcounts := (updateCredits_onlyCounts p s).trans (countPort_onlyCounts p 45 1 _)
  have hdrop : LinkDropped p (countPort p 45 1 (updateCredits p s)) (lossTaken p s) := dropLink_drops ..
  exact { hdrop with
    ev := hdrop.ev.trans hcounts.ev
    config := hdrop.config.trans hcounts.config
    link := by rw [hdrop.link, hcounts.portRt] }

/-- R280: a loss of the link takes the port Down at once, or after its hold-off. -/
theorem linkLoss_does (hg : s.power.state = .growing) (hl : looped p s = false) (hk : (portRt p s).link = true)
    (hp : (portRt p s).lossPending = false) : exec (.linkLoss p) s = .next (if holdOff p s = 0 then goDown p (lossTaken p s)
      else setPort p { portRt p (lossTaken p s) with lossPending := true } (lossTaken p s)) := by
  have hhold : holdOff p (lossTaken p s) = holdOff p s := by rw [holdOff, portCfg, (lossTaken_drops p s).config, holdOff, portCfg]
  unfold lossTaken at hhold ⊢
  show execLinkLoss p s = _
  simp only [execLinkLoss, hg, bne_self_eq_false, hl, hk, hp, Bool.not_true, Bool.or_self, Bool.false_eq_true, if_false, hhold]
  split <;> rfl

theorem linkLoss_goesDown (hg : s.power.state = .growing) (hl : looped p s = false) (hk : (portRt p s).link = true)
    (hp : (portRt p s).lossPending = false) (hh : holdOff p s = 0) : ∃ t, exec (.linkLoss p) s = .next t ∧ (portRt p t).link = false ∧
      (portRt p t).speed = 0 ∧ (portRt p t).pause = [] ∧ tget p t.drill.portWire = none ∧ t.ev.pending.getLsbD 16 = true := by
  have hdrop := lossTaken_drops p s
  rw [linkLoss_does hg hl hk hp, if_pos hh]
  refine ⟨_, rfl, ?_⟩
  rw [portRt_goDown, goDown_drill]
  exact ⟨rfl, rfl, hdrop.pause, hdrop.portWire, goDown_pending ..⟩

theorem linkLoss_pends (hg : s.power.state = .growing) (hl : looped p s = false) (hk : (portRt p s).link = true)
    (hp : (portRt p s).lossPending = false) (hh : holdOff p s ≠ 0) : ∃ t, exec (.linkLoss p) s = .next t ∧ (portRt p t).link = true ∧
      (portRt p t).lossPending = true ∧ t.ev.log = s.ev.log := by
  have hdrop := lossTaken_drops p s
  rw [linkLoss_does hg hl hk hp, if_neg hh]
  refine ⟨_, rfl, ?_⟩
  rw [portRt_setPort_same]
  exact ⟨hdrop.link.trans hk, rfl, congrArg Events.log hdrop.ev⟩

theorem linkDownHoldOff_goesDown (h : (portRt p s).lossPending = true) : ∃ t, exec (.linkDownHoldOff p) s = .next t ∧
    (portRt p t).link = false ∧ (portRt p t).lossPending = false ∧ t.ev.pending.getLsbD 16 = true := by
  refine ⟨goDown p s, if_pos h, ?_⟩
  rw [portRt_goDown]
  exact ⟨rfl, rfl, goDown_pending ..⟩

/-! ### Verification -/

theorem sendMpacket_emits (b : Bool) (hl : looped p s = false) : sendMpacket p b s = emit (.mpacket p b) (countPort p 29 1 s) := by
  simp only [sendMpacket, hl, Bool.not_false, if_true]

/-- R452: in internal loopback a port's own Verify is answered and the answer ends the procedure. -/
theorem sendMpacket_looped (hl : looped p s = true) (hv : (portRt p s).verify = 2) : sendMpacket p false s =
    setPort p { portRt p s with verify := 0, attempts := 0 } (countPort p 29 2 s) := by
  have hv' : (portRt p (countPort p 29 2 s)).verify = 2 := hv
  simp only [sendMpacket, hl, hv', Bool.not_true, Bool.false_eq_true, if_false, if_true]
  rfl

theorem verifyMpacket_answers (hg : s.power.state = .growing) (hu : portUp p s = true) (hl : looped p s = false) :
    exec (.verifyMpacket p) s = .next { countPort p 29 1 s with wire := .mpacket p true :: s.wire } := by
  show execVerifyMpacket p s = _
  simp only [execVerifyMpacket, hg, hu, hl, beq_self_eq_true, Bool.not_false, Bool.and_self, if_true, sendMpacket_emits true hl]
  rfl

theorem respondMpacket_ends (hv : (portRt p s).verify = 2) (hl : looped p s = false) :
    exec (.respondMpacket p) s = .next (setPort p { portRt p s with verify := 0, attempts := 0 } s) := if_pos ⟨hv, hl⟩

/-- A port whose verify time has run out with this many attempts left. -/
def attemptsLeft (p n : Nat) (s : State) : State := setPort p { portRt p s with attempts := n } s

section
variable (hv : (portRt p s).verify = 2) (hu : portUp p s = true)
include hv hu

theorem verifyTime_fails (ha : (portRt p s).attempts = 0) :
    ∃ t, exec (.verifyTime p) s = .next t ∧ (portRt p t).verify = 3 ∧ t.ev.pending.getLsbD 18 = true := by
  have hexec : exec (.verifyTime p) s = .next (raise 18 p (countPort p 47 1 (setPort p { portRt p s with verify := 3 } s))) := by
    show execVerifyTime p s = _
    simp only [execVerifyTime, hv, hu, ha, ne_eq, not_true_eq_false, decide_false, Bool.not_true, Bool.or_self, Bool.false_eq_true,
      if_false]
  refine ⟨_, hexec, ?_, raise_pending _ _ (by decide) (by decide)⟩
  rw [portRt_raise, (countPort_onlyCounts ..).portRt, portRt_setPort_same]

theorem verifyTime_retries (ha : (portRt p s).attempts ≠ 0) :
    exec (.verifyTime p) s = .next (sendMpacket p false (attemptsLeft p ((portRt p s).attempts - 1) s)) := by
  show execVerifyTime p s = _
  simp only [execVerifyTime, hv, hu, ha, ne_eq, not_true_eq_false, not_false_eq_true, decide_false, Bool.not_true, Bool.or_self,
    Bool.false_eq_true, if_false, if_true, attemptsLeft]

theorem verifyTime_looped (ha : (portRt p s).attempts ≠ 0) (hl : looped p s = true) :
    ∃ t, exec (.verifyTime p) s = .next t ∧ (portRt p t).verify = 0 ∧ t.wire = s.wire := by
  have hl' : looped p (attemptsLeft p ((portRt p s).attempts - 1) s) = true := hl
  have hv' : (portRt p (attemptsLeft p ((portRt p s).attempts - 1) s)).verify = 2 := by rw [attemptsLeft, portRt_setPort_same]; exact hv
  rw [verifyTime_retries hv hu ha, sendMpacket_looped hl' hv']
  exact ⟨_, rfl, by rw [portRt_setPort_same], rfl⟩

theorem verifyTime_sends (ha : (portRt p s).attempts ≠ 0) (hl : looped p s = false) : ∃ t, exec (.verifyTime p) s = .next t ∧
    (portRt p t).verify = 2 ∧ (portRt p t).attempts = (portRt p s).attempts - 1 ∧ t.wire = .mpacket p false :: s.wire := by
  have hl' : looped p (attemptsLeft p ((portRt p s).attempts - 1) s) = false := hl
  have hrt : portRt p (emit (.mpacket p false) (countPort p 29 1 (attemptsLeft p ((portRt p s).attempts - 1) s))) =
      { portRt p s with attempts := (portRt p s).attempts - 1 } := portRt_setPort_same ..
  rw [verifyTime_retries hv hu ha, sendMpacket_emits false hl']
  exact ⟨_, rfl, by rw [hrt]; exact hv, by rw [hrt], rfl⟩

end

end

end Sys2Proof.Machine
end

section
/-! PROOF. Pause received and sent by a port, and the statement on its links, verification and pause states (R276, R279, R280, R292 to
R298). -/

namespace Sys2Proof.Machine

/-! ### The pause state of a class -/

section
variable {p c d q : Nat} {m : PauseMsg} {v : PauseRt} {s t u : State} {l : List Nat} {es : List (Nat × Nat)}

@[simp] theorem pauseOf_setPause_same (p c : Nat) (v : PauseRt) (s : State) : pauseOf p c (setPause p c v s) = v := by
  rw [pauseOf, setPause, portRt_setPort_same]
  exact tgetD_tset_same ..

theorem pauseOf_setPause_other (h : d ≠ c) : pauseOf p d (setPause p c v s) = pauseOf p d s := by
  rw [pauseOf, setPause, portRt_setPort_same]
  exact tgetD_tset_other h ..

theorem pauseOf_raise (p d n o : Nat) (s : State) : pauseOf p d (raise n o s) = pauseOf p d s := by rw [pauseOf, portRt_raise, pauseOf]

/-- A list of classes set to one pause state: they are in it, and no other class changes. -/
theorem pauseOf_setPauses (p d : Nat) (v : PauseRt) (l : List Nat) (s : State) :
    pauseOf p d (l.foldl (fun s c => setPause p c v s) s) = if d ∈ l then v else pauseOf p d s := by
  induction l generalizing s with
  | nil => rfl
  | cons c l ih =>
    rw [List.foldl_cons, ih]
    by_cases hl : d ∈ l
    · rw [if_pos hl, if_pos (List.mem_cons_of_mem c hl)]
    · rw [if_neg hl]
      by_cases hc : d = c
      · rw [hc, pauseOf_setPause_same, if_pos List.mem_cons_self]
      · rw [pauseOf_setPause_other hc, if_neg fun hm => (List.mem_cons.1 hm).elim hc hl]

/-- R293 to R295: of the classes that share a timer those in the old state are in the new one, and no other class changes. -/
theorem pauseOf_movePause (p c old d : Nat) (v : PauseRt) (s : State) : pauseOf p d (movePause p c old v s) =
    if d ∈ pauseGroup p c s ∧ (pauseOf p d s).state = old then v else pauseOf p d s := by
  simp only [movePause, pauseOf_setPauses, List.mem_filter, beq_iff_eq]

theorem pauseGroup_own (h : pauseMode p s ≠ 1) : pauseGroup p c s = [c] := if_neg h

theorem pauseGroup_legacy (h : pauseMode p s = 1) : pauseGroup p c s = List.range 8 := if_pos h

/-- Under PFC a class moves alone. -/
theorem movePause_own {old : Nat} (h : pauseMode p s ≠ 1) (hs : (pauseOf p c s).state = old) : pauseOf p c (movePause p c old v s) = v ∧
    ∀ d, d ≠ c → pauseOf p d (movePause p c old v s) = pauseOf p d s := by
  refine ⟨?_, fun d hd => ?_⟩
  · rw [pauseOf_movePause, pauseGroup_own h, if_pos ⟨List.mem_singleton_self c, hs⟩]
  · rw [pauseOf_movePause, pauseGroup_own h, if_neg fun hm => hd (List.mem_singleton.1 hm.1)]

/-! ### Timers of a pause -/

/-- R293, R295: the class moves from the state that its credits were brought up to date in. -/
theorem movePause_credited {old : Nat} (h : pauseMode p s ≠ 1) (hs : (pauseOf p c s).state = old) :
    pauseOf p c (movePause p c old v (updateCredits p s)) = v ∧
      ∀ d, d ≠ c → pauseOf p d (movePause p c old v (updateCredits p s)) = pauseOf p d s := by
  have hcounts := updateCredits_onlyCounts p s
  rw [← hcounts.pauseMode] at h
  rw [← hcounts.pauseOf] at hs
  obtain ⟨hown, hothers⟩ := movePause_own (v := v) h hs
  exact ⟨hown, fun d hd => (hothers d hd).trans (hcounts.pauseOf p d)⟩

theorem pauseTimerExpiry_runs (h : pauseMode p s ≠ 1) (hs : (pauseOf p c s).state = 1) :
    ∃ t, exec (.pauseTimerExpiry p c) s = .next t ∧ pauseOf p c t = {} ∧ ∀ d, d ≠ c → pauseOf p d t = pauseOf p d s :=
  ⟨_, rfl, movePause_credited h hs⟩

theorem recoveryPeriodEnd_runs (h : pauseMode p s ≠ 1) (hs : (pauseOf p c s).state = 2) :
    ∃ t, exec (.recoveryPeriodEnd p c) s = .next t ∧ pauseOf p c t = {} ∧ ∀ d, d ≠ c → pauseOf p d t = pauseOf p d s :=
  ⟨_, rfl, movePause_credited h hs⟩

/-- R295: the watchdog overrides the pause of a class, with event 17. -/
theorem pauseWatchdog_overrides (h : pauseMode p s ≠ 1) (hs : (pauseOf p c s).state = 1) (hw : u32 (pauseCfg p s) 8 ≠ 0) :
    ∃ t, exec (.pauseWatchdog p c) s = .next t ∧ (pauseOf p c t).state = 2 ∧ t.ev.pending.getLsbD 17 = true ∧
      ∀ d, d ≠ c → pauseOf p d t = pauseOf p d s := by
  have hcounts : OnlyCounts (movePause p c 1 { state := 2 } (updateCredits p s)) _ :=
    (countPort_onlyCounts p 13 1 _).trans (countPort_onlyCounts p 46 1 _)
  obtain ⟨hown, hothers⟩ := movePause_credited (v := { state := 2 }) h hs
  refine ⟨_, if_neg (not_or.2 ⟨not_not.2 hs, hw⟩), ?_, raise_pending _ _ (by decide) (by decide), fun d hd => ?_⟩
  · rw [pauseOf_raise, hcounts.pauseOf, hown]
  · rw [pauseOf_raise, hcounts.pauseOf, hothers d hd]

/-- R293: under legacy pause one timer returns every class to Running. -/
theorem pauseTimerExpiry_legacy (h : pauseMode p s = 1) :
    ∃ t, exec (.pauseTimerExpiry p c) s = .next t ∧ ∀ d, d < 8 → (pauseOf p d t).state ≠ 1 := by
  refine ⟨_, rfl, fun d hd => ?_⟩
  rw [← (updateCredits_onlyCounts p s).pauseMode] at h
  rw [pauseOf_movePause, pauseGroup_legacy h]
  split
  · decide
  · next hm => exact fun h1 => hm ⟨List.mem_range.2 hd, h1⟩

/-! ### Pause received -/

/-- What the length of a pause on a port depends on is the same in `t` as in `s`. -/
structure KeepsQuanta (p : Nat) (s t : State) : Prop where
  power : t.power = s.power
  config : t.ports.config = s.ports.config
  speed : (portRt p t).speed = (portRt p s).speed

theorem KeepsQuanta.refl (p : Nat) (s : State) : KeepsQuanta p s s := ⟨rfl, rfl, rfl⟩

theorem KeepsQuanta.trans (h : KeepsQuanta p s t) (g : KeepsQuanta p t u) : KeepsQuanta p s u :=
  ⟨g.power.trans h.power, g.config.trans h.config, g.speed.trans h.speed⟩

theorem OnlyCounts.keepsQuanta (h : OnlyCounts s t) (p : Nat) : KeepsQuanta p s t := ⟨h.power, h.config, by rw [h.portRt]⟩

theorem setPause_keepsQuanta (p c : Nat) (v : PauseRt) (s : State) : KeepsQuanta p s (setPause p c v s) :=
  ⟨rfl, rfl, by rw [setPause, portRt_setPort_same]⟩

theorem KeepsQuanta.portSpeed (h : KeepsQuanta p s t) : portSpeed p t = portSpeed p s := by
  rw [Machine.portSpeed, portCfg, h.config, h.speed, Machine.portSpeed, portCfg]

/-- A class paused for a number of quanta from now (R293). -/
def pausedFor (p q : Nat) (s : State) : PauseRt := { state := 1, until_ := s.power.upNs + quantaNs p q s }

theorem KeepsQuanta.pausedFor (h : KeepsQuanta p s t) (q : Nat) : pausedFor p q t = pausedFor p q s := by
  simp only [Machine.pausedFor, quantaNs, byteTime, h.portSpeed, h.power]

/-- R294: an overridden class takes no pause. -/
theorem pauseClass_overridden (h : (pauseOf p c s).state = 2) : pauseClass p c q s = s := by simp only [pauseClass, h]

/-- R294: a class that is not overridden is Paused for a time other than 0, and Running for the time 0. -/
theorem pauseClass_sets (h : (pauseOf p c s).state ≠ 2) : pauseClass p c q s =
    if q ≠ 0 then setPause p c (pausedFor p q s) s else if (pauseOf p c s).state = 1 then setPause p c {} s else s := by
  unfold pauseClass
  split
  · next h2 => exact absurd h2 h
  · rfl

/-- A pause of one class: it is set, or nothing changes. -/
theorem pauseClass_cases (p c q : Nat) (s : State) :
    pauseClass p c q s = s ∨ (pauseOf p c s).state ≠ 2 ∧ ∃ v : PauseRt, v.state ≠ 2 ∧ pauseClass p c q s = setPause p c v s := by
  by_cases h : (pauseOf p c s).state = 2
  · exact .inl (pauseClass_overridden h)
  · rw [pauseClass_sets h]
    split
    · exact .inr ⟨h, _, (by decide : (1 : Nat) ≠ 2), rfl⟩
    split
    · exact .inr ⟨h, {}, (by decide : (0 : Nat) ≠ 2), rfl⟩
    · exact .inl rfl

theorem pauseClass_keepsQuanta (p c q : Nat) (s : State) : KeepsQuanta p s (pauseClass p c q s) := by
  obtain h | ⟨-, v, -, h⟩ := pauseClass_cases p c q s
  · rw [h]; exact .refl p s
  · rw [h]; exact setPause_keepsQuanta ..

theorem pauseClass_other (h : d ≠ c) : pauseOf p d (pauseClass p c q s) = pauseOf p d s := by
  obtain hsame | ⟨-, v, -, hset⟩ := pauseClass_cases p c q s
  · rw [hsame]
  · rw [hset, pauseOf_setPause_other h]

/-- A pause frame overrides no class. -/
theorem pauseClass_state (h : (pauseOf p d s).state ≠ 2) : (pauseOf p d (pauseClass p c q s)).state ≠ 2 := by
  by_cases hd : d = c
  · subst hd
    obtain hsame | ⟨-, v, hv, hset⟩ := pauseClass_cases p d q s
    · rw [hsame]; exact h
    · rw [hset, pauseOf_setPause_same]; exact hv
  · rw [pauseClass_other hd]; exact h

theorem pauseClass_pauses (h : (pauseOf p c s).state ≠ 2) (hq : q ≠ 0) : pauseOf p c (pauseClass p c q s) = pausedFor p q s := by
  rw [pauseClass_sets h, if_pos hq, pauseOf_setPause_same]

/-- The classes of a list paused in turn, each for its time. -/
def pauseClasses (p : Nat) (es : List (Nat × Nat)) (s : State) : State := es.foldl (fun s e => pauseClass p e.1 e.2 s) s

/-- A class that a list does not name, or that is overridden, keeps its state. -/
theorem pauseClasses_keeps (h : (pauseOf p d s).state = 2 ∨ ∀ e ∈ es, e.1 ≠ d) : pauseOf p d (pauseClasses p es s) = pauseOf p d s := by
  refine List.foldlRecOn (motive := fun t => pauseOf p d t = pauseOf p d s) es _ rfl fun t ht e he => ?_
  by_cases hd : e.1 = d
  · have h2 : (pauseOf p e.1 t).state = 2 := by rw [hd, ht]; exact h.resolve_right fun hn => hn e he hd
    rw [pauseClass_overridden h2, ht]
  · rw [pauseClass_other (Ne.symm hd), ht]

/-- A class that a list names for one time is paused for it. -/
theorem pauseClasses_pauses (hmem : (c, q) ∈ es) (hone : ∀ e ∈ es, e.1 = c → e.2 = q) (hq : q ≠ 0) (hs : (pauseOf p c s).state ≠ 2) :
    pauseOf p c (pauseClasses p es s) = pausedFor p q s := by
  obtain ⟨before, after, hsplit⟩ := List.append_of_mem hmem
  have hbefore : KeepsQuanta p s (pauseClasses p before s) ∧ (pauseOf p c (pauseClasses p before s)).state ≠ 2 :=
    foldl_keeps (fun t => KeepsQuanta p s t ∧ (pauseOf p c t).state ≠ 2) (fun t (e : Nat × Nat) => pauseClass p e.1 e.2 t)
      (fun t e ht => ⟨ht.1.trans (pauseClass_keepsQuanta ..), pauseClass_state ht.2⟩) before s ⟨.refl p s, hs⟩
  obtain ⟨hkeeps, hstate⟩ := hbefore
  have hpaused := (pauseClass_pauses hstate hq).trans (hkeeps.pausedFor q)
  have hkept := hkeeps.trans (pauseClass_keepsQuanta p c q _)
  have hfold : pauseClasses p es s = pauseClasses p after (pauseClass p c q (pauseClasses p before s)) := by
    rw [hsplit, pauseClasses, List.foldl_append]
    rfl
  rw [hfold]
  refine (List.foldlRecOn (motive := fun t => KeepsQuanta p s t ∧ pauseOf p c t = pausedFor p q s) after _ ⟨hkept, hpaused⟩
    fun t ⟨htk, ht⟩ e he => ⟨htk.trans (pauseClass_keepsQuanta ..), ?_⟩).2
  by_cases hc : e.1 = c
  · have hq' := hone e (by rw [hsplit]; exact List.mem_append_right _ (List.mem_cons_of_mem _ he)) hc
    have h1 : (pauseOf p c t).state ≠ 2 := by rw [ht]; exact (by decide : (1 : Nat) ≠ 2)
    rw [hc, hq', pauseClass_pauses h1 hq, htk.pausedFor]
  · rw [pauseClass_other (Ne.symm hc), ht]

/-- The classes that a frame names, with their times, but for the immune one. -/
def heeded (p : Nat) (m : PauseMsg) (s : State) : List (Nat × Nat) :=
  ((List.range 8).filterMap (fun c => (pauseTime p c m s).map (fun q => (c, q)))).filter (fun e => !immune p e.1 s)

theorem mem_heeded {e : Nat × Nat} : e ∈ heeded p m s ↔ e.1 < 8 ∧ pauseTime p e.1 m s = some e.2 ∧ immune p e.1 s = false := by
  obtain ⟨c, q⟩ := e
  simp only [heeded, List.mem_filter, List.mem_filterMap, List.mem_range, Option.map_eq_some_iff, Prod.mk.injEq, Bool.not_eq_true']
  constructor
  · rintro ⟨⟨a, ha, b, hb, rfl, rfl⟩, hi⟩
    exact ⟨ha, hb, hi⟩
  · rintro ⟨hc, hq, hi⟩
    exact ⟨⟨c, hc, q, hq, rfl, rfl⟩, hi⟩

theorem OnlyCounts.heeded (h : OnlyCounts s t) (p : Nat) (m : PauseMsg) : heeded p m t = heeded p m s := by obtain ⟨_, _, _, rfl⟩ := h; rfl

/-- R294: a frame that applies pauses the classes that heed it. -/
theorem applyPause_pauses (p : Nat) (m : PauseMsg) (s : State) :
    ∃ t, OnlyCounts s t ∧ applyPause p m s = pauseClasses p (heeded p m s) t := by
  unfold applyPause
  extract_lets named deaf n t
  have hcounts : OnlyCounts s t := iteInduction (motive := OnlyCounts s) (fun _ => .refl s) fun _ => countPort_onlyCounts ..
  refine ⟨t, hcounts, ?_⟩
  rw [← hcounts.heeded]
  obtain ⟨_, _, _, h⟩ := hcounts
  rw [h]
  rfl

/-- The state in which a received pause frame has been counted, with the credits up to date. -/
def pauseCounted (p : Nat) (m : PauseMsg) (s : State) : State :=
  [(0, 64), (1, 1), (3, 1), (38, 1), (if m.pfc then 12 else 11, 1)].foldl (fun s e => countPort p e.1 e.2 s) (updateCredits p s)

theorem pauseCounted_onlyCounts (p : Nat) (m : PauseMsg) (s : State) : OnlyCounts s (pauseCounted p m s) :=
  (updateCredits_onlyCounts p s).trans (foldl_onlyCounts (fun _ _ => countPort_onlyCounts ..) _ _)

theorem receivePause_eq (p : Nat) (m : PauseMsg) (s : State) : receivePause p m s =
    if pauseMode p (pauseCounted p m s) = (if m.pfc then 2 else 1) then applyPause p m (pauseCounted p m s)
    else countPort p 13 1 (pauseCounted p m s) := by
  unfold receivePause pauseCounted
  rfl

/-- R292: a frame of the kind that the receive mode selects pauses the classes that heed it. -/
theorem receivePause_selected (hm : pauseMode p s = if m.pfc then 2 else 1) :
    ∃ t, OnlyCounts s t ∧ receivePause p m s = pauseClasses p (heeded p m s) t := by
  have hcounts := pauseCounted_onlyCounts p m s
  obtain ⟨t, ht, happly⟩ := applyPause_pauses p m (pauseCounted p m s)
  refine ⟨t, hcounts.trans ht, ?_⟩
  rw [receivePause_eq, if_pos ((hcounts.pauseMode p).trans hm), happly, hcounts.heeded]

/-- R292: a frame of the other kind is counted alone. -/
theorem receivePause_other (hm : pauseMode p s ≠ if m.pfc then 2 else 1) : OnlyCounts s (receivePause p m s) := by
  have hcounts := pauseCounted_onlyCounts p m s
  rw [receivePause_eq, if_neg (by rw [hcounts.pauseMode]; exact hm)]
  exact hcounts.trans (countPort_onlyCounts ..)

/-- R452: in internal loopback no frame of a link partner arrives. -/
theorem pauseFrame_looped (hl : looped p s = true) : exec (.pauseFrame p m) s = .next s := by
  show execPauseFrame p m s = _
  simp only [execPauseFrame, hl, Bool.or_true, if_true]

theorem pauseFrame_received (hg : s.power.state = .growing) (hu : portUp p s = true) (hl : looped p s = false) :
    exec (.pauseFrame p m) s = .next (receivePause p m s) := by
  show execPauseFrame p m s = _
  simp only [execPauseFrame, hg, hu, hl, bne_self_eq_false, Bool.not_true, Bool.or_self, Bool.false_eq_true, if_false]

/-- R293, R294: a class that a frame names is Paused for its time; one immune, not named or overridden keeps its state. -/
theorem pauseFrame_pauses (hg : s.power.state = .growing) (hu : portUp p s = true) (hl : looped p s = false)
    (hm : pauseMode p s = if m.pfc then 2 else 1) (hc : c < 8) (ht : pauseTime p c m s = some q) (hq : q ≠ 0) (hi : immune p c s = false)
    (hs : (pauseOf p c s).state ≠ 2) : ∃ t, exec (.pauseFrame p m) s = .next t ∧
      pauseOf p c t = { state := 1, until_ := s.power.upNs + quantaNs p q s } ∧
      ∀ d, d < 8 → immune p d s = true ∨ pauseTime p d m s = none ∨ (pauseOf p d s).state = 2 → pauseOf p d t = pauseOf p d s := by
  obtain ⟨u, hcounts, hreceive⟩ := receivePause_selected hm
  rw [pauseFrame_received hg hu hl, hreceive]
  refine ⟨_, rfl, ?_, fun d _ hd => ?_⟩
  · refine (pauseClasses_pauses (mem_heeded.2 ⟨hc, ht, hi⟩) (fun e he hec => ?_) hq (by rw [hcounts.pauseOf]; exact hs)).trans
      ((hcounts.keepsQuanta p).pausedFor q)
    obtain ⟨-, hte, -⟩ := mem_heeded.1 he
    rw [hec, ht] at hte
    exact (Option.some.inj hte).symm
  · refine (pauseClasses_keeps ?_).trans (hcounts.pauseOf p d)
    rw [hcounts.pauseOf]
    refine or_iff_not_imp_left.2 fun h2 e he hed => ?_
    obtain ⟨-, hte, hie⟩ := mem_heeded.1 he
    rw [hed] at hte hie
    rcases hd with himmune | hnone | hover
    · rw [hie] at himmune; cases himmune
    · rw [hnone] at hte; cases hte
    · exact h2 hover

theorem pauseFrame_other (hg : s.power.state = .growing) (hu : portUp p s = true) (hm : pauseMode p s ≠ if m.pfc then 2 else 1) :
    ∃ t, exec (.pauseFrame p m) s = .next t ∧ ∀ d, pauseOf p d t = pauseOf p d s := by
  cases hl : looped p s with
  | true => exact ⟨s, pauseFrame_looped hl, fun _ => rfl⟩
  | false => exact ⟨_, pauseFrame_received hg hu hl, (receivePause_other hm).pauseOf p⟩

/-! ### Pause sent again -/

/-- R296: on a free port without a list a pause frame takes the wire at once. -/
theorem sendPause_now (pfc : Bool) (set time : Nat) (hw : tget p s.drill.portWire = none) (ho : (furrowRt p s).oper = none) :
    sendPause p pfc set time s = putPause p pfc set time s := by
  simp only [sendPause, hw, ho, Option.isNone_none, Bool.and_self, if_true]

/-- R296: otherwise it waits for the next boundary. -/
theorem sendPause_waits (pfc : Bool) (set time : Nat) (h : (tget p s.drill.portWire).isSome = true ∨ (furrowRt p s).oper.isSome = true) :
    sendPause p pfc set time s = setPort p { portRt p s with pauseWait := (portRt p s).pauseWait ++ [(pfc, set, time)] } s := by
  refine if_neg ?_
  simpa only [Bool.and_eq_true, Option.isNone_iff_eq_none, not_and_or, ← Option.isSome_iff_ne_none, ne_eq] using h

theorem looped_countPort (q i n : Nat) : looped p (countPort q i n s) = looped p s := rfl

/-- R303: a legacy pause frame on the wire, counted as one frame of 64 bytes to a group address. -/
theorem putPause_legacy (set time : Nat) (hl : looped p s = false) : putPause p false set time s =
    { countPort p 25 1 (countPort p 23 1 (countPort p 21 1 (countPort p 20 64 s))) with
      wire := .pauseFrame p false (BitVec.ofNat 8 set) time :: s.wire } := by
  simp only [putPause, List.foldl_cons, List.foldl_nil, Bool.false_eq_true, if_false, looped_countPort, hl]
  rfl

section
variable (hsent : (portRt p s).pauseSent ≠ 0) (hu : portUp p s = true)
include hsent hu

theorem pauseRepeat_legacy (h1 : u8 (pauseCfg p s) 2 = 1) (hx : u8 (pauseCfg p s) 6 * 1024 ≤ bufferFill (.eth p) s) :
    exec (.pauseRepeat p) s = .next (sendPause p false 255 (u16 (pauseCfg p s) 14) s) := by
  show execPauseRepeat p s = _
  simp only [execPauseRepeat, hsent, hu, h1, hx, decide_false, Bool.not_true, Bool.or_self, Bool.false_eq_true, if_false, if_true]

theorem pauseRepeat_pfc (h2 : u8 (pauseCfg p s) 2 = 2)
    (hset : (portRt p s).pauseSent &&& prioSet p (fun n => decide (u8 (pauseCfg p s) 6 * 1024 ≤ n)) s = q) (hq : q ≠ 0) :
    exec (.pauseRepeat p) s = .next (sendPause p true q (u16 (pauseCfg p s) 14) s) := by
  show execPauseRepeat p s = _
  simp only [execPauseRepeat, hsent, hu, h2, hset, hq, decide_false, Bool.not_true, Bool.or_self, Bool.false_eq_true, if_false]

end

end

/-- Settles O32: a link by what its rise and loss leave of the port, verification by the mPackets it sends, a pause by the classes that a
frame or a timer moves, and its repeat by the state of the port's wire. -/
theorem portLinkVerifyAndPause : Obligations.PortLinkVerifyAndPause := by
  refine ⟨fun p speed s => ⟨fun hg hp he hl h0 ho hm hk => ⟨_, linkUp_does hg hp he hl h0 ho hm hk, goUp_does p speed s⟩,
    linkLoss_goesDown, linkLoss_pends, linkDownHoldOff_goesDown, verifyMpacket_answers, respondMpacket_ends, verifyTime_fails,
    verifyTime_looped, verifyTime_sends⟩, fun p c q m s => ⟨pauseFrame_pauses, fun _ => pauseFrame_looped, pauseFrame_other,
    pauseTimerExpiry_runs, pauseWatchdog_overrides, recoveryPeriodEnd_runs, fun h _ _ => pauseTimerExpiry_legacy h,
    fun hsent hu h1 hx => ⟨fun hw ho hl => ?_, fun hbusy => ?_⟩, pauseRepeat_pfc⟩⟩
  · rw [pauseRepeat_legacy hsent hu h1 hx, sendPause_now _ _ _ hw ho, putPause_legacy _ _ hl]
  · rw [pauseRepeat_legacy hsent hu h1 hx, sendPause_waits _ _ _ hbusy]

end Sys2Proof.Machine
end

section
/-! PROOF. The invariant of every step and of the state after reset (R317, R324, R344, R348). -/

namespace Sys2Proof.Machine

/-- A step takes the command in front off the queue, when there is one, and keeps the invariant. -/
theorem step_keeps {s : State} (h : Inv s) : ∃ t, step s = .next t ∧ t.pending = s.pending.tail ∧ Inv t := by
  unfold step
  split
  next hp =>
    obtain ⟨hq, hi⟩ := idle_ok (q := { queue := s.pending }) (s := s) ⟨rfl, fun _ => h⟩
    exact ⟨_, rfl, by rw [hq, hp]; rfl, hi rfl⟩
  next c rest hp =>
    obtain ⟨t, ht, hq, hi⟩ := exec_ok (q := { queue := rest }) (i := c) (s := { s with pending := rest }) ⟨rfl, fun _ => h⟩
    exact ⟨t, ht, by rw [hq, hp]; rfl, hi rfl⟩

/-- Settles O4: the commands that wait after a step waited before it, and `step_keeps` has the rest. -/
theorem stepKeepsInvariant : Obligations.StepKeepsInvariant := by
  intro s t hq hi hstep
  obtain ⟨u, hu, hpending, hinv⟩ := step_keeps hi
  obtain rfl : t = u := by rw [hstep] at hu; exact Host.Outcome.next.inj hu
  refine ⟨fun c hc => hq c ?_, hinv⟩
  rw [hpending] at hc
  exact List.mem_of_mem_tail hc

/-- Settles O5: nothing waits at reset, no event is pending, and every memory is empty. -/
theorem resetMeetsInvariant : Obligations.ResetMeetsInvariant := by
  refine ⟨fun c hc => ?_, ?_, rfl, rfl, rfl⟩
  · exact absurd hc List.not_mem_nil
  · show IntnFollows {}
    unfold IntnFollows
    decide

end Sys2Proof.Machine
end

section
/-! PROOF. RESETn, the supplies, and the resets of the PCIe function (R310, R322, R331, R483, R535, R563, R564, R567, R591). -/

namespace Sys2Proof.Machine

/-! ### Clearing resets -/

/-- The Hold window's registers after a reset of the window: what says how the part started, and PERSTn. -/
def startFields (h : Hold) : Hold :=
  { bootPhase := h.bootPhase, image := h.image, secureBootFail := h.secureBootFail, gateOpened := h.gateOpened, straps := h.straps
    resetKind := h.resetKind, fallowLeft := h.fallowLeft, firstWake := h.firstWake, wakeSeen := h.wakeSeen, perst := h.perst }

/-- R319, R563: a reset of the Hold window. -/
theorem clearHold_leaves (s : State) : ∃ stile log nextSeq lost wire, clearHold s = { s with
    hold := startFields s.hold, stile, wire, rings := [], hostRead := []
    ev := { route := if s.hold.straps % 2 = 1 then BitVec.allOnes 64 else 0, log, nextSeq, lost } } := by
  obtain ⟨e, w, b, m, hm, -⟩ := freeSems_frees (fun _ => true) s
  rw [clearHold, hm]
  exact ⟨_, _, _, _, _, rfl⟩

/-- What a clearing reset of a group leaves of the state it comes in (R517, R563). -/
structure Restarts (g : Nat) (s t : State) : Prop where
  resetKind : t.hold.resetKind = s.hold.resetKind
  bootPhase : t.hold.bootPhase = 0
  gateOpened : t.hold.gateOpened = (if g = 1 then false else s.hold.gateOpened)
  log : t.ev.log = []
  bank : t.bank = {}
  steward : t.stw = clearedSteward s.stw
  session : t.field.session = (s.field.session + 1) % 65536
  inputs : t.buses.pins.inputs = s.buses.pins.inputs
  keys : t.keys = clearedKeys (g == 1) s.keys
  fixed : t.fixed = s.fixed
  power : t.power = clearedPower g s.power

theorem clearing_restarts (g : Nat) (s : State) : Restarts g s (clearing g s) := by
  obtain ⟨st, l, n, k, w, hc⟩ := clearHold_leaves { s with ev.log := [], ev.nextSeq := 0, ev.lost := 0 }
  have hh : (clearing g s).hold = { (if g = 1 then { startFields s.hold with gateOpened := false } else startFields s.hold) with
      bootPhase := 0, image := 0, secureBootFail := false } := by rw [clearing, hc]; rfl
  have hk : (clearing g s).hold.resetKind = s.hold.resetKind ∧ (clearing g s).hold.bootPhase = 0 ∧
      (clearing g s).hold.gateOpened = if g = 1 then false else s.hold.gateOpened := by
    rw [hh]
    split <;> exact ⟨rfl, rfl, rfl⟩
  obtain ⟨hkind, hphase, hgate⟩ := hk
  rw [clearing, hc] at hkind hphase hgate ⊢
  exact ⟨hkind, hphase, hgate, rfl, rfl, rfl, rfl, rfl, rfl, rfl, rfl⟩

/-! ### RESETn and the supplies -/

section
variable {n : Nat} {b : Bool} {s : State}

theorem resetn_asserted (h : fallowOff s = false) :
    exec (.resetn true n) s = .next { fullReset 2 s with power.state := .held, power.resetHeld := true } := by
  show execResetn true n s = _
  simp only [execResetn, h, Bool.false_eq_true, if_false, if_true]

/-- R567: the release latches the straps. -/
theorem resetn_released (h : fallowOff s = false) (hr : s.power.resetHeld = true) :
    exec (.resetn false n) s = .next (clearHold { s with
      hold.straps := n % 4, power.resetHeld := false, power.state := if s.power.buckLow then .held else .starting }) := by
  show execResetn false n s = _
  simp only [execResetn, h, hr, Bool.not_true, Bool.false_eq_true, if_false]

/-- R535: a full reset, of a state that differs in the events and in the record of the fault. -/
theorem buckVinLow_on (h : fallowOff s = false) : ∃ k u, exec .buckVinLow s =
      .next { fullReset k u with power.state := .held, power.vcore := 0 } ∧
    u.power = { s.power with buckLow := true, buckFell := true, faultSeen60 := true } ∧ u.fixed = s.fixed := by
  refine ⟨_, _, if_neg (c := fallowOff s = true) (by simp [h]), ?_, ?_⟩
  · rw [raiseD_frame]; rfl
  · rw [raiseD_frame]; rfl

theorem buckVinLow_off (h : fallowOff s = true) :
    exec .buckVinLow s = .next { s with power := { s.power with buckLow := true, buckFell := true } } :=
  if_pos (c := fallowOff s = true) h

theorem buckVinRestored_low (h : s.power.buckLow = true) : exec .buckVinRestored s = .next { s with power := { s.power with
    buckLow := false, state := if s.power.state = .held ∧ s.power.resetHeld = false then .starting else s.power.state } } := by
  show execBuckVinRestored s = _
  by_cases hh : s.power.state = .held ∧ s.power.resetHeld = false
  · simp [execBuckVinRestored, h, hh]
  · have hc : (decide (s.power.state = .held) && !s.power.resetHeld) = false := by simpa using hh
    simp [execBuckVinRestored, h, hh, hc]

end

/-- Settles O56: RESETn and the supplies by the clearing reset each of them makes, the release by what it leaves of the Hold window. -/
theorem suppliesAndResetPin : Obligations.SuppliesAndResetPin := by
  intro n b s
  refine ⟨fun h => if_pos h, fun h => ⟨?_, fun hr => ?_, fun hr => ?_⟩,
    fun h => if_neg h, fun h => ?_, ?_, buckVinLow_off, fun h => ?_, buckVinRestored_low, fun h => ?_⟩
  · have r := clearing_restarts 3 (recordReset 2 s)
    refine ⟨_, resetn_asserted h, r.resetKind, r.bootPhase, rfl, rfl, ?_, r.bank, ?_, ?_, ?_, r.gateOpened, ?_, r.fixed, r.inputs, r.log,
      r.session⟩
    · exact congrArg Power.startKind r.power
    · exact congrArg Steward.up r.steward
    · exact congrArg Steward.ledger r.steward
    · exact congrArg Keys.slots r.keys
    · exact (congrArg Power.wake r.power :)
  · simp [exec, execResetn, h, hr]
  · obtain ⟨st, l, k, m, w, hc⟩ := clearHold_leaves { s with
      hold.straps := n % 4, power.resetHeld := false, power.state := if s.power.buckLow then .held else .starting }
    exact ⟨_, (resetn_released h hr).trans (congrArg Host.Outcome.next hc), rfl, rfl, rfl, rfl, rfl, rfl⟩
  · have r := clearing_restarts 1 s
    exact ⟨_, if_pos h, rfl, congrArg Power.startKind r.power, rfl, rfl, rfl, rfl, r.gateOpened, congrArg Power.wake r.power, r.keys,
      r.bank, r.fixed⟩
  · have r := clearing_restarts 1 s
    exact ⟨_, rfl, rfl, rfl, rfl, r.keys, congrArg Steward.up r.steward, r.bank, r.fixed⟩
  · obtain ⟨k, u, hu, hp, hf⟩ := buckVinLow_on h
    have r := clearing_restarts 3 (recordReset k u)
    refine ⟨_, hu, rfl, rfl, ?_, ?_, congrArg Steward.up r.steward, r.bank, r.fixed.trans hf⟩
    · exact (congrArg Power.buckLow r.power).trans (congrArg Power.buckLow hp)
    · exact (congrArg Power.faultSeen60 r.power).trans (congrArg Power.faultSeen60 hp)
  · show execBuckVinRestored s = _
    simp [execBuckVinRestored, h]

/-! ### The Stile with nothing to take -/

/-- R471: the reads of SEM_TAKE held behind STRICT writes complete, which makes their requesters owners and nothing else. -/
theorem releaseHeld_leaves (s : State) : ∃ sems held read,
    releaseHeld s = { s with stile.sems := sems, stile.held := held, hostRead := read } ∧
    ∀ n o, tget n sems = some o → tget n s.stile.sems = some o ∨ ∃ e ∈ s.stile.held, e.1 = o := by
  have fold (l : List (Requester × Nat)) (t : State) : ∃ sems read,
      l.foldl (fun s e => let t := semTake e.1 e.2 s; { t.2 with hostRead := le 4 t.1 }) t =
        { t with stile.sems := sems, hostRead := read } ∧
      ∀ n o, tget n sems = some o → tget n t.stile.sems = some o ∨ ∃ e ∈ l, e.1 = o := by
    induction l generalizing t with
    | nil => exact ⟨_, _, rfl, fun _ _ h => .inl h⟩
    | cons e l ih =>
      rw [List.foldl_cons, semTake]
      cases hf : tget e.2 t.stile.sems with
      | some x =>
        obtain ⟨m, d, h, hm⟩ := ih { t with hostRead := le 4 0 }
        exact ⟨m, d, h, fun n o ho => (hm n o ho).imp_right fun ⟨e', he', ho'⟩ => ⟨e', List.mem_cons_of_mem _ he', ho'⟩⟩
      | none =>
        obtain ⟨m, d, h, hm⟩ := ih { t with stile.sems := tset e.2 e.1 t.stile.sems, hostRead := le 4 1 }
        refine ⟨m, d, h, fun n o ho => ?_⟩
        rcases hm n o ho with hn | ⟨e', he', ho'⟩
        · by_cases hne : n = e.2
          · subst hne
            exact .inr ⟨e, List.mem_cons_self, Option.some.inj ((tget_tset_same ..).symm.trans hn)⟩
          · exact .inl ((tget_tset_other hne ..).symm.trans hn)
        · exact .inr ⟨e', List.mem_cons_of_mem _ he', ho'⟩
  unfold releaseHeld
  split
  · exact ⟨_, _, _, rfl, fun _ _ h => .inl h⟩
  · obtain ⟨m, d, h, hm⟩ := fold s.stile.held { s with stile.held := [] }
    exact ⟨m, [], d, h, hm⟩

/-- R472: with nothing near, a STRICT setting written comes into force. -/
theorem pumpNear_empty (k : Nat) {s : State} (hn : s.stile.near = []) :
    pumpNear (k + 1) s = { s with stile.strictInForce := s.stile.strict } := by simp [pumpNear, settleStrict, hn]

theorem pumpNear_settled (k : Nat) {s : State} (hn : s.stile.near = []) (hs : s.stile.strictInForce = s.stile.strict) :
    pumpNear k s = s := by
  cases k with
  | zero => rfl
  | succ k => rw [pumpNear_empty k hn, ← hs]

theorem pump_leaves {s : State} (hn : s.stile.near = []) : ∃ sems held read, pump s =
      { s with stile := { s.stile with strictInForce := s.stile.strict, sems, held }, hostRead := read } ∧
    ∀ n o, tget n sems = some o → tget n s.stile.sems = some o ∨ ∃ e ∈ s.stile.held, e.1 = o := by
  rw [pump, pumpFuel, pumpNear_empty _ hn]
  exact releaseHeld_leaves _

theorem pump_settled {s : State} (hn : s.stile.near = []) (hs : s.stile.strictInForce = s.stile.strict) : pump s = releaseHeld s := by
  rw [pump, pumpNear_settled _ hn hs]

/-! ### Rings that stop -/

/-- With nothing queued for it and nothing on its wire, only the ring's own registers change. -/
theorem stopRing_idle (n cause : Nat) {s : State} (hw : s.drill.rowWire = []) (hr : s.drill.rows = []) :
    ∃ r, stopRing n cause s = { s with rings := r } := by
  have hkeep (l : List Nat) : l.foldl (fun s r => (tgetD r [] s.drill.rows).foldl (fun s c => ringDrop n c s)
      { s with drill.rows := tdel r s.drill.rows }) s = s := by
    refine foldl_keeps (· = s) _ (fun t r ht => ?_) l s rfl
    subst ht
    simp only [hr, tgetD, tget, Option.getD_none, List.foldl_nil, tdel, List.filter_nil]
    rw [← hr]
  have he : emptyRing n s = s := by
    simp only [emptyRing, hw, tget]
    exact hkeep _
  rw [stopRing, he, ite_self]
  exact ⟨_, rfl⟩

theorem stopRings_idle (cause : Nat) (l : List Nat) {s : State} (hw : s.drill.rowWire = []) (hr : s.drill.rows = []) :
    ∃ r, l.foldl (fun s n => stopRing n cause s) s = { s with rings := r } := by
  refine foldl_keeps (fun t => ∃ r, t = { s with rings := r }) _ (fun t n ht => ?_) l s ⟨_, rfl⟩
  obtain ⟨r, rfl⟩ := ht
  obtain ⟨r', h⟩ := stopRing_idle n cause (s := { s with rings := r }) hw hr
  exact ⟨r', h⟩

/-- A pause of the rings changes the rings and what is kept of the copies under way, no more. -/
theorem pauseRings_leaves (s : State) : ∃ rings drill harrow gran, pauseRings s = { s with rings, drill, harrow, gran } := by
  refine foldl_keeps (fun t => ∃ rings drill harrow gran, t = { s with rings, drill, harrow, gran }) _ (fun t n ht => ?_) _ s
    ⟨_, _, _, _, rfl⟩
  obtain ⟨r, d, a, g, rfl⟩ := ht
  dsimp only
  split
  · split
    · exact ⟨_, _, _, _, rfl⟩
    next c v hc hv hwait =>
      obtain ⟨_, _, _, _, _, he⟩ := endCopy_same c { s with
        rings := r, drill := { d with rowWire := tdel (512 + n) d.rowWire }, harrow := a, gran := g }
      rw [ringDrop, he]
      exact ⟨_, _, _, _, rfl⟩
  · exact ⟨_, _, _, _, rfl⟩

theorem pauseRings_idle {s : State} (h : s.drill.rowWire = []) : pauseRings s = s := by
  refine foldl_keeps (· = s) _ (fun t n ht => ?_) _ s rfl
  subst ht
  simp only [h, tget]

/-! ### Slots cleared -/

theorem mget_mclear (lo hi a : Nat) (m : Memory) : mget a (mclear lo hi m) = if lo ≤ a ∧ a < hi then 0 else mget a m := by
  induction m with
  | nil => simp [mclear, mget]
  | cons e m ih =>
    obtain ⟨i, b⟩ := e
    simp only [mclear] at ih ⊢
    by_cases hi' : lo ≤ i ∧ i < hi
    · rw [List.filter_cons_of_neg (by simp [hi']), ih]
      by_cases ha : lo ≤ a ∧ a < hi
      · simp only [ha, and_self, if_true]
      · have hne : i ≠ a := fun h => ha (h ▸ hi')
        simp only [ha, if_false, mget, hne]
    · rw [List.filter_cons_of_pos (by simp [hi']), mget, mget, ih]
      by_cases hne : i = a
      · subst hne; simp only [hi', if_true, if_false]
      · simp only [hne, if_false]

/-! ### The PCIe function -/

theorem freeSems_pending (own : Requester → Bool) (s : State) {k : Nat} (h : s.ev.pending.getLsbD k = true) :
    (freeSems own s).ev.pending.getLsbD k = true := by
  unfold freeSems
  refine foldl_keeps (fun t : State => t.ev.pending.getLsbD k = true) _ (fun t e ht => ?_) _ s h
  exact raiseD_pending_mono 10 0 e.1 { t with stile.sems := tdel e.1 t.stile.sems } k ht

/-- `t` is `s` with events noted and semaphores freed, of which nothing goes out. -/
def OnlyNotes (s t : State) : Prop := ∃ pending inWindow log nextSeq lost intn sems,
  t = { s with ev := { s.ev with pending, inWindow, log, nextSeq, lost, intn }, stile.sems := sems }

theorem OnlyNotes.trans {s t u : State} (h : OnlyNotes s t) (g : OnlyNotes t u) : OnlyNotes s u := by
  obtain ⟨_, _, _, _, _, _, _, rfl⟩ := h
  obtain ⟨_, _, _, _, _, _, _, rfl⟩ := g
  exact ⟨_, _, _, _, _, _, _, rfl⟩

/-- MSI-X is off and the function is not in D3hot: an event sends neither a vector nor a PME (R310, R331). -/
def Quiet (s : State) : Prop := s.ev.msixEnable = false ∧ s.hold.d3hot = false

theorem OnlyNotes.quiet {s t : State} (h : OnlyNotes s t) (hq : Quiet s) : Quiet t := by
  obtain ⟨_, _, _, _, _, _, _, rfl⟩ := h
  exact hq

theorem deliver_quiet {s : State} (h : Quiet s) (n : Nat) : deliver n s = s := by
  obtain ⟨hm, hd⟩ := h
  simp only [deliver, sendVector, hm, hd, Bool.false_eq_true, if_false]

theorem setPending_quiet {s : State} (h : Quiet s) (n : Nat) :
    setPending n s = { s with ev := Events.settle { s.ev with pending := s.ev.pending ||| bitAt 64 n } } := by
  have hd := deliver_quiet (s := { s with ev := Events.settle { s.ev with pending := s.ev.pending ||| bitAt 64 n } }) h n
  simp only [setPending, hd, ite_self]

theorem raise_quiet {s : State} (h : Quiet s) (n o : Nat) : OnlyNotes s (raise n o s) := by
  have hl : OnlyNotes s (logEvent n 0 o s) := ⟨_, _, _, _, _, _, _, rfl⟩
  have hp := setPending_quiet (hl.quiet h) n
  unfold raise raiseD
  generalize logEvent n 0 o s = t at hl hp
  dsimp only
  rw [hp]
  split
  · exact hl.trans ⟨_, _, _, _, _, _, _, rfl⟩
  · exact hl.trans ⟨_, _, _, _, _, _, _, rfl⟩

theorem freeSems_quiet {s : State} (h : Quiet s) (own : Requester → Bool) : OnlyNotes s (freeSems own s) := by
  unfold freeSems
  refine foldl_keeps (OnlyNotes s) _ (fun t e ht => ?_) _ s ⟨_, _, _, _, _, _, _, rfl⟩
  have hd : OnlyNotes s { t with stile.sems := tdel e.1 t.stile.sems } := ht.trans ⟨_, _, _, _, _, _, _, rfl⟩
  exact hd.trans (raise_quiet (hd.quiet h) 10 e.1)

/-- A reset of the PCIe function up to the semaphores: its queues, its rings, the MSI-X table and its control bits are gone, and so are
the reads of its requesters (R331, R564). -/
def pcieCleared (kind : Nat) (s : State) : State := { s with
  rings := []
  hold := { s.hold with resetKind := kind, fallowLeft := 0, firstWake := 0, wakeSeen := 0, busMaster := false, d3hot := false, pme := false
                        queues := tdel 1 (tdel 0 s.hold.queues)
                        slots := mclear 0x1000 0x1800 (mclear 0x2000 0x2800 s.hold.slots) }
  stw.ops := s.stw.ops.map (fun o => if o.call.queue < 2 then { o with mute := true } else o)
  ev := Events.settle { s.ev with msixTable := [], mask := BitVec.allOnes 64, pba := 0, msixEnable := false, fnMask := false
                                  enable := s.ev.enable &&& s.ev.route }
  stile := { s.stile with far := s.stile.far.filter (fun a => a.write || !isPcie a.req)
                          near := s.stile.near.filter (fun q => q.write || !isPcie q.req)
                          held := s.stile.held.filter (fun e => !isPcie e.1) } }

theorem pcieReset_idle (kind : Nat) {s : State} (hw : s.drill.rowWire = []) (hr : s.drill.rows = []) :
    pcieReset kind s = pump (freeSems isPcie (pcieCleared kind s)) := by
  obtain ⟨r, h⟩ := stopRings_idle 0 (tkeys s.rings) (s := { s with
    hold := { (recordReset kind s).hold with queues := tdel 1 (tdel 0 s.hold.queues)
                                             slots := mclear 0x1000 0x1800 (mclear 0x2000 0x2800 s.hold.slots) }
    stw.ops := s.stw.ops.map (fun o => if o.call.queue < 2 then { o with mute := true } else o) }) hw hr
  have hc := congrArg (fun t : State => pump (freeSems isPcie (dropPcieReads { t with
    rings := []
    ev := Events.settle { t.ev with msixTable := [], mask := BitVec.allOnes 64, pba := 0, msixEnable := false, fnMask := false
                                    enable := t.ev.enable &&& t.ev.route }
    hold := { t.hold with busMaster := false, d3hot := false, pme := false } }))) h
  exact hc

/-- R564: a fundamental or hot reset with nothing near, and nothing queued for a ring. -/
theorem pcieReset_leaves (kind : Nat) {s : State} (hn : s.stile.near = []) (hw : s.drill.rowWire = []) (hr : s.drill.rows = []) :
    ∃ pending inWindow log nextSeq lost intn stile read, pcieReset kind s = { pcieCleared kind s with
        ev := { (pcieCleared kind s).ev with pending, inWindow, log, nextSeq, lost, intn }, stile, hostRead := read } ∧
      stile.regions = s.stile.regions ∧ ∀ n o, tget n stile.sems = some o → isPcie o = false := by
  obtain ⟨_, _, _, m, hm, hfree⟩ := freeSems_frees isPcie (pcieCleared kind s)
  obtain ⟨p, w, l, n, k, i, sems, hf⟩ := freeSems_quiet (s := pcieCleared kind s) ⟨rfl, rfl⟩ isPcie
  have hnear : (freeSems isPcie (pcieCleared kind s)).stile.near = [] := by rw [hf]; simp [pcieCleared, hn]
  obtain ⟨m', held, read, hp, hown⟩ := pump_leaves hnear
  refine ⟨p, w, l, n, k, i, { (pcieCleared kind s).stile with strictInForce := s.stile.strict, sems := m', held }, read, ?_, rfl,
    fun x o ho => ?_⟩
  · rw [pcieReset_idle kind hw hr, hp, hf]
    rfl
  rcases hown x o ho with hx | ⟨e, he, rfl⟩
  · rw [hm] at hx
    exact Bool.eq_false_iff.2 fun hp => hfree x o hp hx
  · rw [hf] at he
    simpa using (List.mem_filter.1 he).2

/-- R483: what a link that goes down leaves, the event raised, the semaphores freed and the rings paused. -/
structure LinkLost (s t : State) : Prop where
  perst : t.hold.perst = s.hold.perst
  pcieUp : t.hold.pcieUp = s.hold.pcieUp
  pcieRate : t.hold.pcieRate = s.hold.pcieRate
  pcieWidth : t.hold.pcieWidth = s.hold.pcieWidth
  pending : t.ev.pending.getLsbD 15 = true
  sems : ∀ n o, tget n t.stile.sems = some o → isPcie o = false
  rings : s.drill.rowWire = [] → t.rings = s.rings
  bank : t.bank = s.bank
  stw : t.stw = s.stw

theorem linkLost (s : State) : LinkLost s (pauseRings (freeSems isPcie (raise 15 noObject s))) := by
  obtain ⟨e, w, b, m, hf, hfree⟩ := freeSems_frees isPcie (raise 15 noObject s)
  obtain ⟨r, d, a, g, hp⟩ := pauseRings_leaves (freeSems isPcie (raise 15 noObject s))
  have hpend := freeSems_pending isPcie _ (raise_pending noObject s (n := 15) (by decide) (by decide))
  refine ⟨?_, ?_, ?_, ?_, ?_, fun n o ho => ?_, fun hw => ?_, ?_, ?_⟩
  · rw [hp, hf, raise_frame]
  · rw [hp, hf, raise_frame]
  · rw [hp, hf, raise_frame]
  · rw [hp, hf, raise_frame]
  · rw [hp]; exact hpend
  · rw [hp, hf] at ho
    exact Bool.eq_false_iff.2 fun hq => hfree n o hq ho
  · rw [pauseRings_idle (by rw [hf]; simpa using hw), hf, raise_frame]
  · rw [hp, hf, raise_frame]
  · rw [hp, hf, raise_frame]

theorem perstn_linkUp {s : State} (h : s.hold.pcieUp = true) : ∃ t, exec (.perstn true) s = .next t ∧
    LinkLost { s with hold := { s.hold with perst := true, pcieUp := false, pcieRate := 0, pcieWidth := 0 } } t := by
  refine ⟨_, ?_, linkLost _⟩
  show execPerstn true s = _
  simp only [execPerstn, h, if_true]

/-- Settles O41: the resets by `pcieReset_leaves`, PERSTn by what a lost link leaves. That every vector is masked is log 5, that bus
mastering, D3hot and PME are cleared log 36, that FALLOW_LEFT reads 0 log 34. -/
theorem pcieResets : Obligations.PcieResets := by
  intro hot s
  refine ⟨fun hn hw hr => ?_, fun h => ?_, fun h => ?_, rfl⟩
  · obtain ⟨_, _, _, _, _, _, st, _, ht, hreg, hsems⟩ := pcieReset_leaves (if hot then 4 else 3) hn hw hr
    refine ⟨_, congrArg Host.Outcome.next ht, rfl, rfl, rfl, rfl, rfl, rfl, rfl, rfl, rfl, rfl, rfl, rfl, rfl, hsems, hreg, rfl, rfl, rfl, rfl,
      fun a ha => ?_, fun a ha => ?_⟩
    · show mget a (mclear _ _ (mclear _ _ _)) = 0
      rw [mget_mclear, mget_mclear]
      rcases ha with ha | ha
      · rw [if_pos ha]
      · rw [if_pos ha, ite_self]
    · show mget a (mclear _ _ (mclear _ _ _)) = _
      rw [mget_mclear, mget_mclear, if_neg fun hc => ha (.inl hc), if_neg fun hc => ha (.inr hc)]
  · obtain ⟨t, ht, l⟩ := perstn_linkUp h
    exact ⟨t, ht, l.perst, l.pcieUp, l.pcieRate, l.pcieWidth, l.pending, l.sems, l.rings, l.bank, l.stw⟩
  · show execPerstn true s = _
    simp only [execPerstn, h, if_true, Bool.false_eq_true, if_false]

end Sys2Proof.Machine
end

section
/-! PROOF. The xSPI target, the PCIe link, and bytes written to the Hold window (R305, R307, R310 to R318, R324, R330, R348, R483). -/

namespace Sys2Proof.Machine

/-! ### Runs of bytes -/

theorem fit_of_length {d : Bytes} {n : Nat} (h : d.length = n) : fit n d = d := by
  subst h
  refine List.ext_getElem (fit_length ..) fun k hk hk' => ?_
  have hget := getD_fit_of_lt d (n := d.length) hk'
  simpa only [List.getD_eq_getElem _ _ hk, List.getD_eq_getElem _ _ hk'] using hget

/-- With every byte enabled a run is written whole (R318). -/
theorem writeRuns_all (wr : Nat → Bytes → State → Nat × State) (off : Nat) {d : Bytes} {n : Nat} (hn : d.length = n) (h : 0 < n)
    (s : State) : writeRuns wr off n 255 d s = wr 0 d s := by
  simp only [writeRuns, enabledRuns, if_true, if_neg (Nat.ne_of_gt h), List.foldl_cons, List.foldl_nil, ne_eq, not_true, if_false]
  rw [show sub d 0 n = d from fit_of_length hn]

/-- The enables A5h on two units that begin at an offset name bytes 0, 2, 5 and 7. -/
theorem enabledAt_A5 {off n : Nat} (ho : off % 4 = 0) (hn : n < 8) : enabledAt off 8 0xA5 (off + n) = decide (n ∈ [0, 2, 5, 7]) := by
  obtain ⟨m, rfl⟩ := Nat.dvd_of_mod_eq_zero ho
  have hfirst : 4 * m / 4 = m := by omega
  have hlast : (4 * m + 8 - 1) / 4 = m + 1 := by omega
  have hunit : (4 * m + n) / 4 = m + n / 4 := by omega
  have hplace : (4 * m + n) % 4 = n % 4 := by omega
  simp only [enabledAt, hfirst, hlast, hunit, hplace]
  interval_cases n <;> simp [Nat.testBit]

theorem enabledRuns_A5 {off : Nat} (ho : off % 4 = 0) : enabledRuns off 8 0xA5 = [(0, 1), (2, 1), (5, 1), (7, 1)] := by
  have hf : (List.range 8).filter (fun n => enabledAt off 8 0xA5 (off + n)) = (List.range 8).filter (fun n => decide (n ∈ [0, 2, 5, 7])) :=
    List.filter_congr fun n hn => enabledAt_A5 ho (List.mem_range.1 hn)
  rw [enabledRuns, if_neg (by decide), hf]
  decide

/-! ### Writes of the Hold window -/

theorem foldl_unchanged {α β : Type} {f : β → α → β} {l : List α} (h : ∀ a ∈ l, ∀ b, f b a = b) (b : β) : l.foldl f b = b := by
  induction l generalizing b with
  | nil => rfl
  | cons a l ih => rw [List.foldl_cons, h a List.mem_cons_self, ih fun x hx => h x (List.mem_cons_of_mem _ hx)]

/-- A loop in which one turn alone does something does that. -/
theorem foldl_range_once {β : Type} {f : β → Nat → β} {n k : Nat} (hk : k < n) (h : ∀ j, j ≠ k → ∀ b, f b j = b) (b : β) :
    (List.range n).foldl f b = f b k := by
  obtain ⟨l, r, hl⟩ := List.append_of_mem (List.mem_range.2 hk)
  have hnd : (l ++ k :: r).Nodup := hl ▸ List.nodup_range
  have hlk : ∀ a ∈ l, a ≠ k := fun a ha hak => List.disjoint_of_nodup_append hnd (hak ▸ ha) List.mem_cons_self
  have hrk : ∀ a ∈ r, a ≠ k := fun a ha hak => (List.nodup_cons.1 (List.nodup_append'.1 hnd).2.1).1 (hak ▸ ha)
  rw [hl, List.foldl_append, List.foldl_cons, foldl_unchanged fun a ha => h a (hlk a ha), foldl_unchanged fun a ha => h a (hrk a ha)]

section
variable {i : Iface} {a k : Nat} {d : Bytes} {s : State}

/-- R319, R325: bytes inside one mailbox slot go to that slot and nowhere else. -/
theorem holdWrite_slot (hk : k < 128) (hlo : 0x1000 + 0x40 * k ≤ a) (hhi : a + d.length ≤ 0x1000 + 0x40 * k + 0x40) (hd : 0 < d.length) :
    holdWrite i a d s = writeSlot a d s := by
  have hslots : (max a 0x1000, (d.drop (max a 0x1000 - a)).take (0x3000 - max a 0x1000)) = (a, d) := by
    rw [Nat.max_eq_left (by omega), Nat.sub_self, List.drop_zero, List.take_of_length_le (by omega)]
  have htab : d.drop (max a 0x8000 - a) = [] := List.drop_eq_nil_of_le (by omega)
  have hregs : ¬ a < 0x1000 := by omega
  have hlow : a < 0x3000 := by omega
  have hlow' : a < 0x8400 := by omega
  simp only [holdWrite, hregs, hlow, hlow', if_true, if_false, hslots, htab, List.take_nil, List.zipIdx_nil, List.foldl_nil, writeRegs,
    List.isEmpty_nil]
  rw [foldl_range_once hk]
  · have hmax : max (0x1000 + 0x40 * k) a = a := by omega
    have hmin : min (0x1000 + 0x40 * k + 0x40) (a + d.length) = a + d.length := by omega
    rw [hmax, hmin, if_pos (by omega), Nat.sub_self, Nat.add_sub_cancel_left, show sub d 0 d.length = d from fit_of_length rfl]
  · intro j hj t
    refine if_neg ?_
    omega

theorem writeSlot_command (ha : a < 0x2000) (hq : a / 0x400 % 4 ≠ 3) :
    writeSlot a d s = { s with hold.slots := mwrite a d s.hold.slots } := by
  simp only [writeSlot, hq, ha, if_true, if_false]

/-- R348: response slots take no write. -/
theorem writeSlot_response (ha : 0x2000 ≤ a) (hq : a / 0x400 % 4 ≠ 3) : writeSlot a d s = s := by
  simp only [writeSlot, hq, Nat.not_lt.2 ha, if_false]

end

section
variable {i : Iface} {a k q o : Nat} {d : Bytes} {s : State}

theorem holdWindowWrite_all (hd : 0 < d.length) : exec (.holdWindowWrite i ⟨a, 255⟩ d) s = .next (holdWrite i a d s) := by
  show execHoldWindowWrite i ⟨a, 255⟩ d s = _
  rw [execHoldWindowWrite, writeRuns_all _ _ rfl hd]
  rfl

theorem holdWindowWrite_nothing : exec (.holdWindowWrite i ⟨a, 255⟩ []) s = .next s := rfl

/-- R348: command slots take a write. -/
theorem holdWrite_commandSlot (hq : q < 3) (hk : k < 16) (hd : 0 < d.length) (ho : o + d.length ≤ 64) :
    holdWrite i (0x1000 + 0x400 * q + 0x40 * k + o) d s =
      { s with hold.slots := mwrite (0x1000 + 0x400 * q + 0x40 * k + o) d s.hold.slots } := by
  rw [holdWrite_slot (k := 16 * q + k) (by omega) (by omega) (by omega) hd, writeSlot_command (by omega) (by omega)]

theorem holdWrite_responseSlot (hq : q < 3) (hk : k < 16) (hd : 0 < d.length) (ho : o + d.length ≤ 64) :
    holdWrite i (0x2000 + 0x400 * q + 0x40 * k + o) d s = s := by
  rw [holdWrite_slot (k := 64 + 16 * q + k) (by omega) (by omega) (by omega) hd, writeSlot_response (by omega) (by omega)]

/-- Single bytes of a memory written, each at its place beyond `x`. -/
def writeEach (x : Nat) (f : Nat → Byte) (l : List Nat) (m : Memory) : Memory := l.foldl (fun m j => mwrite (x + j) [f j] m) m

/-- R318: bytes 0, 2, 5 and 7 of eight are written one by one. -/
theorem holdWindowWrite_A5 (hq : q < 3) (hk : k < 16) (hl : d.length = 8) (ho : o % 8 = 0) (h64 : o < 64) :
    exec (.holdWindowWrite i ⟨0x1000 + 0x400 * q + 0x40 * k + o, 0xA5⟩ d) s =
      .next { s with hold.slots := writeEach (0x1000 + 0x400 * q + 0x40 * k + o) (fun j => d.getD j 0) [0, 2, 5, 7] s.hold.slots } := by
  have hone (j : Nat) (hj : j < 8) (t : State) : holdWrite i (0x1000 + 0x400 * q + 0x40 * k + o + j) [d.getD j 0] t =
      { t with hold.slots := mwrite (0x1000 + 0x400 * q + 0x40 * k + o + j) [d.getD j 0] t.hold.slots } := by
    have h := holdWrite_commandSlot (i := i) (s := t) (o := o + j) (d := [d.getD j 0]) hq hk Nat.one_pos (by rw [List.length_singleton]; omega)
    rwa [← Nat.add_assoc] at h
  show execHoldWindowWrite i ⟨_, 0xA5⟩ d s = _
  rw [execHoldWindowWrite, hl, writeRuns, enabledRuns_A5 (show (0x1000 + 0x400 * q + 0x40 * k + o) % 4 = 0 by omega)]
  simp only [writeEach, List.foldl_cons, List.foldl_nil, ne_eq, not_true, if_false, sub, hone, Nat.reduceLT]

theorem mget_mwrite_one {b x : Nat} {y : Byte} {m : Memory} (hm : Memory.wf m = true) :
    mget b (mwrite x [y] m) = if b = x then y else mget b m := by
  by_cases h : b = x
  · subst h; rw [if_pos rfl]; exact mget_mset_same hm
  · rw [if_neg h]; exact mget_mset_other h

theorem mget_writeEach {l : List Nat} (hl : l.Nodup) {x b : Nat} (f : Nat → Byte) {m : Memory} (hm : Memory.wf m = true) :
    mget b (writeEach x f l m) = if b ∈ l.map (x + ·) then f (b - x) else mget b m := by
  induction l generalizing m with
  | nil => rfl
  | cons j l ih =>
    obtain ⟨hj, hl⟩ := List.nodup_cons.1 hl
    have hrest : writeEach x f (j :: l) m = writeEach x f l (mwrite (x + j) [f j] m) := rfl
    rw [hrest, ih hl (mwrite_wf hm), mget_mwrite_one hm, List.map_cons]
    by_cases hb : b = x + j
    · subst hb
      have hn : x + j ∉ l.map (x + ·) := by simpa using hj
      rw [if_neg hn, if_pos rfl, if_pos List.mem_cons_self, Nat.add_sub_cancel_left]
    · rw [if_neg hb]
      simp only [List.mem_cons, hb, false_or]

end

/-! ### EV_ROUTE -/

theorem byte_u8 (d : Bytes) (k : Nat) : byte (u8 d k) = d.getD k 0 := BitVec.ofNat_toNat ..

/-- Bytes below the slots go to the registers and nowhere else. -/
theorem holdWrite_registers {i : Iface} {a : Nat} {d : Bytes} {s : State} (ha : a < 0x1000) (hd : a + d.length ≤ 0x1000) :
    holdWrite i a d s = writeRegs i a d s := by
  have hregs : (max a 0, (d.drop (max a 0 - a)).take (0x1000 - max a 0)) = (a, d) := by
    rw [Nat.max_eq_left (by omega), Nat.sub_self, List.drop_zero, List.take_of_length_le (by omega)]
  have hslots : d.drop (max a 0x1000 - a) = [] := List.drop_eq_nil_of_le (by omega)
  have htab : d.drop (max a 0x8000 - a) = [] := List.drop_eq_nil_of_le (by omega)
  have hlow : a < 0x3000 := by omega
  have hlow' : a < 0x8400 := by omega
  simp only [holdWrite, ha, hlow, hlow', if_true, hregs, hslots, htab, List.take_nil, List.zipIdx_nil, List.foldl_nil, List.length_nil]
  refine foldl_unchanged (fun j _ t => if_neg ?_) _
  omega

/-- A little-endian number is the sum of its bytes at their places. -/
theorem ule_eq_sum (d : Bytes) (o n : Nat) : ule d o n = ((List.range n).map fun k => u8 d (o + k) * 2 ^ (8 * k)).sum := by
  induction n generalizing o with
  | zero => rfl
  | succ n ih =>
    have htail : (List.range n).map ((fun k => u8 d (o + k) * 2 ^ (8 * k)) ∘ Nat.succ) =
        (List.range n).map fun k => 256 * (u8 d (o + 1 + k) * 2 ^ (8 * k)) :=
      List.map_congr_left fun k _ => by
        rw [Function.comp, Nat.succ_eq_one_add, ← Nat.add_assoc]
        ring
    rw [ule, ih, List.range_succ_eq_map, List.map_cons, List.sum_cons, List.map_map, htail, List.sum_map_mul_left, Nat.mul_zero, Nat.pow_zero,
      Nat.mul_one]
    rfl

/-- Four bytes at a word's place are a write of that word whole (R318). -/
theorem writeRegs_word {i : Iface} {w : Nat} {d : Bytes} {s : State} (hl : d.length = 4) :
    writeRegs i (4 * w) d s = writeWord i w (enMask 15) (BitVec.ofNat 32 (u32 d 0)) s := by
  have hne : d.isEmpty = false := by simp [← List.length_eq_zero_iff, hl]
  have hone : List.range ((4 * w + d.length - 1) / 4 + 1 - 4 * w / 4) = [0] := by
    rw [show (4 * w + d.length - 1) / 4 + 1 - 4 * w / 4 = 1 by omega]
    rfl
  have hw : 4 * w / 4 + 0 = w := by omega
  have hmask : (List.range 4).map (fun k => decide (4 * w ≤ 4 * w + k ∧ 4 * w + k < 4 * w + d.length)) = (List.range 4).map fun _ => true :=
    List.map_congr_left fun k hk => decide_eq_true (by have := List.mem_range.1 hk; omega)
  have hbytes : (List.range 4).map (fun k => if decide (4 * w ≤ 4 * w + k ∧ 4 * w + k < 4 * w + d.length) = true then
      u8 d (4 * w + k - 4 * w) * 2 ^ (8 * k) else 0) = (List.range 4).map fun k => u8 d k * 2 ^ (8 * k) :=
    List.map_congr_left fun k hk => by
      rw [if_pos (decide_eq_true (by have := List.mem_range.1 hk; omega)), Nat.add_sub_cancel_left]
  simp only [writeRegs, hne, Bool.false_eq_true, if_false, hone, List.foldl_cons, List.foldl_nil, hw]
  rw [hmask, hbytes, u32, ule_eq_sum]
  simp only [Nat.zero_add]
  rfl

/-- R324: a write of the low half of EV_ROUTE. -/
theorem holdWrite_routeLow {i : Iface} {d : Bytes} {s : State} (hl : d.length = 4) :
    holdWrite i 0x50 d s = writeRoute ((BitVec.ofNat 32 (u32 d 0)).setWidth 64) 0xFFFFFFFF#64 s := by
  rw [holdWrite_registers (by omega) (by omega), writeRegs_word (w := 20) hl, show enMask 15 = 0xFFFFFFFF#32 by decide]
  rfl

/-- The low half of a word written and its high half kept (R318). -/
theorem lowHalf_written (r : BitVec 64) (w : BitVec 32) :
    (r &&& ~~~0xFFFFFFFF#64) ||| (w.setWidth 64 &&& 0xFFFFFFFF#64) = r.extractLsb' 32 32 ++ w := by
  have hmask (k : Nat) : (0xFFFFFFFF#64).getLsbD k = decide (k < 32) := by
    have hones : 0xFFFFFFFF#64 = (BitVec.allOnes 32).setWidth 64 := by decide
    rw [hones, BitVec.getLsbD_setWidth, BitVec.getLsbD_allOnes]
    grind
  generalize 0xFFFFFFFF#64 = m at hmask ⊢
  apply BitVec.eq_of_getLsbD_eq
  intro k hk
  refine Eq.trans ?_ (BitVec.getLsbD_append (x := r.extractLsb' 32 32) (y := w) (i := k)).symm
  rw [BitVec.getLsbD_or, BitVec.getLsbD_and, BitVec.getLsbD_and, BitVec.getLsbD_not, BitVec.getLsbD_setWidth, BitVec.getLsbD_extractLsb', hmask]
  by_cases hlow : k < 32
  · simp [-BitVec.getLsbD_eq_getElem, hlow, hk]
  · simp [-BitVec.getLsbD_eq_getElem, hlow, hk, show 32 + (k - 32) = k by omega, show k - 32 < 32 by omega]

theorem lowHalf_written_toNat (r : BitVec 64) {v : Nat} (hv : v < 2 ^ 32) :
    (r.extractLsb' 32 32 ++ BitVec.ofNat 32 v).toNat = r.toNat / 2 ^ 32 * 2 ^ 32 + v := by
  have hr := r.isLt
  rw [BitVec.toNat_append, BitVec.toNat_ofNat, Nat.mod_eq_of_lt hv, ← Nat.shiftLeft_add_eq_or_of_lt hv, BitVec.extractLsb'_toNat,
    Nat.shiftRight_eq_div_pow, Nat.shiftLeft_eq, Nat.mod_eq_of_lt]
  exact Nat.div_lt_of_lt_mul (by omega)

/-! ### The xSPI target -/

section
variable {a len ps : Nat} {d : Bytes} {v : BitVec 32} {s : State}

/-- R314: bytes of the staging buffer. -/
theorem xspiBytes_staging (ha : 0x100000 ≤ a) (he : a + len ≤ 0x180000) : xspiBytes a len s = (mread (a - 0x100000) len s.staging, s) := by
  have hwindow : min len (0x10000 - a) = 0 := by omega
  have hgap : min len (0x100000 - a) = 0 := by omega
  have hall : min len (0x180000 - a) = len := by omega
  simp only [xspiBytes, hwindow, Nat.add_zero, Nat.sub_zero, hgap, hall, if_true, List.replicate_zero, List.nil_append, Nat.sub_self,
    List.append_nil]

theorem xspiRead_staging (ha : 0x100000 ≤ a) (he : a + len ≤ 0x180000) (hev : evenRule a len s = true) (hs : tooSlow a ps s = false) :
    exec (.xspiRead a len ps false) s = .next { s with hostRead := mread (a - 0x100000) len s.staging } := by
  show execXspiRead a len ps false s = _
  simp only [execXspiRead, hev, hs, xspiBytes_staging ha he, Bool.not_true, Bool.or_self, Bool.false_eq_true, if_false]

theorem xspiPut_staging (ha : 0x100000 ≤ a) (he : a + d.length ≤ 0x180000) :
    xspiPut a d s = { s with staging := mwrite (a - 0x100000) d s.staging } := by
  have hw : d.take (0x10000 - a) = [] := by rw [show 0x10000 - a = 0 by omega, List.take_zero]
  have hb : (d.drop (a - a)).take (0x180000 - a) = d := by
    rw [Nat.sub_self, List.drop_zero, List.take_of_length_le (by omega)]
  simp only [xspiPut, hw, Nat.max_eq_left ha, hb, List.isEmpty_nil, if_true]
  cases d with
  | nil => rfl
  | cons b d => rfl

/-- R314, R315: a transfer that starts even and carries an even number of bytes, or one in 1S-1S-1S, is stored whole. -/
theorem xspiWrite_staging (ha : 0x100000 ≤ a) (he : a + d.length ≤ 0x180000) (hev : evenRule a d.length s = true) :
    exec (.xspiWrite a d false) s = .next { s with staging := mwrite (a - 0x100000) d s.staging } := by
  have hodd : ¬ (s.hold.xspi8d = true ∧ a % 2 = 1) := by
    rintro ⟨h8, h1⟩
    simp [evenRule, h8, h1] at hev
  have hwhole : (if s.hold.xspi8d then d.take (d.length / 2 * 2) else d) = d := by
    split
    next h8 =>
      have hl : d.length % 2 = 0 := by simp [evenRule, h8] at hev; exact hev.2
      rw [List.take_of_length_le (by omega)]
    · rfl
  show execXspiWrite a d false s = _
  simp only [execXspiWrite, hodd, hwhole, if_false, xspiPut_staging ha he, bne_self_eq_false, Bool.or_self, Bool.false_eq_true]

/-- R313: a latency that is offered is taken. -/
theorem xspiWriteConfiguration_takes (h8 : 8 ≤ v.toNat / 256 % 32) (h20 : v.toNat / 256 % 32 ≤ 20) : exec (.xspiWriteConfiguration v) s =
    .next { s with hold.xspi8d := v.getLsbD 0, hold.xspiWait := v.getLsbD 16, hold.xspiLatency := v.toNat / 256 % 32 } := by
  have hok : within 8 (v.toNat / 256 % 32) 20 = true := decide_eq_true ⟨h8, h20⟩
  show execXspiWriteConfiguration v s = _
  simp only [execXspiWriteConfiguration, hok, if_true]

theorem xspiWriteConfiguration_keeps (h : 20 < v.toNat / 256 % 32 ∨ v.toNat / 256 % 32 < 8) : exec (.xspiWriteConfiguration v) s =
    .next (raise 14 noObject { s with hold.xspi8d := v.getLsbD 0, hold.xspiWait := v.getLsbD 16 }) := by
  have hok : within 8 (v.toNat / 256 % 32) 20 = false := decide_eq_false (by omega)
  show execXspiWriteConfiguration v s = _
  simp only [execXspiWriteConfiguration, hok, Bool.false_eq_true, if_false]
  rfl

theorem holdId_variant : holdId s = if s.fixed.variantE then 0x101512 else 0x1512 := by
  unfold holdId
  cases s.fixed.variantE <;> rfl

end

/-! ### Counters that a read clears -/

/-- R311: a read of one counter whole returns it and clears it. -/
theorem rcRead_one (c : RcSet) (k : Nat) (s : State) : rcRead c (8 * k) 8 s = (le 8 (c.get k s), c.clear k s) := by
  have hfirst : 8 * k / 8 = k := by omega
  have hone : List.range ((8 * k + 8 - 1) / 8 + 1 - k) = [0] := by
    rw [show (8 * k + 8 - 1) / 8 + 1 - k = 1 by omega]
    rfl
  have hlen : 8 * k + 8 - 8 * k = 8 := by omega
  simp only [rcRead, hfirst, hone, List.foldl_cons, List.foldl_nil, Nat.add_zero, Nat.sub_self, hlen, Nat.min_self, rcCounter, if_true,
    List.nil_append, OfNat.ofNat_ne_zero, if_false]
  rw [show sub (le 8 (c.get k s)) 0 8 = le 8 (c.get k s) from fit_of_length (le_length ..)]

theorem statisticsRead_all {p k : Nat} {s : State} (h : portPresent p s = true) : exec (.statisticsRead p k .all) s =
    .next { s with hostRead := le 8 (tgetD (48 * p + k) 0 s.ports.counters), ports.counters := tdel (48 * p + k) s.ports.counters } := by
  show execStatisticsRead p k .all s = _
  simp only [execStatisticsRead, h, Bool.not_true, Bool.false_eq_true, if_false, Nat.add_zero, rcRead_one]
  rfl

/-! ### The link -/

theorem pcieLinkChange_rises {rate width : Nat} {s : State} (hp : s.hold.perst = false) (hd : s.hold.pcieUp = false) :
    exec (.pcieLinkChange true rate width) s =
      .next (raise 15 noObject { s with hold.pcieUp := true, hold.pcieRate := rate, hold.pcieWidth := width }) := by
  show execPcieLinkChange true rate width s = _
  simp [execPcieLinkChange, hp, hd]

theorem pcieLinkChange_falls {rate width : Nat} {s : State} (hu : s.hold.pcieUp = true) :
    ∃ t, exec (.pcieLinkChange false rate width) s = .next t ∧
      LinkLost { s with hold.pcieUp := false, hold.pcieRate := 0, hold.pcieWidth := 0 } t := by
  refine ⟨_, ?_, linkLost _⟩
  show execPcieLinkChange false rate width s = _
  simp [execPcieLinkChange, hu]

/-- R324: a write of EV_ROUTE's low half changes that half and INTn. -/
theorem holdWindowWrite_route {i : Iface} {d : Bytes} {s : State} (hl : d.length = 4) : ∃ ev,
    exec (.holdWindowWrite i ⟨0x50, 255⟩ d) s = .next { s with ev } ∧ ev.pending = s.ev.pending ∧ ev.enable = s.ev.enable ∧
      ev.route.toNat = s.ev.route.toNat / 2 ^ 32 * 2 ^ 32 + u32 d 0 := by
  rw [holdWindowWrite_all (by omega), holdWrite_routeLow hl]
  refine ⟨_, rfl, rfl, rfl, ?_⟩
  show ((s.ev.route &&& ~~~0xFFFFFFFF#64) ||| ((BitVec.ofNat 32 (u32 d 0)).setWidth 64 &&& 0xFFFFFFFF#64)).toNat = _
  rw [lowHalf_written]
  exact lowHalf_written_toNat _ (ule_lt d 0 4)

/-- Settles O40: an xSPI transfer by the bytes of the staging buffer it covers, a link by its rise and loss, a write of the Hold window by the
slot or register its bytes lie in. -/
theorem hostPortsAndHoldWindow : Obligations.HostPortsAndHoldWindow := by
  refine ⟨fun a len ps p idx bar rate width d v on s => ⟨xspiRead_staging, ?_, fun hm ha he hev => ?_, rfl, xspiWriteConfiguration_takes,
    xspiWriteConfiguration_keeps, ?_, ?_, rfl, fun hp _ => ?_, fun hb => if_pos hb, rfl, pcieLinkChange_rises, fun hu => ?_, rfl, rfl⟩,
    fun i q k o d s hm hq hk => ⟨fun ho => ?_, fun hl ho h64 => ?_, fun ho => ?_, fun hl => ?_⟩⟩
  · rfl
  · exact ⟨_, xspiWrite_staging ha he hev, rfl, mread_mwrite_same hm, fun b hb => mget_mwrite_other hb⟩
  · rw [← holdId_variant]
    rfl
  · obtain ⟨e, w, b, m, hf, -⟩ := freeSems_frees (· == .xspi) { s with hold.xspi8d := false, hold.xspiLatency := 8 }
    exact ⟨_, congrArg Host.Outcome.next hf, rfl, rfl, rfl, rfl⟩
  · refine ⟨_, statisticsRead_all hp, rfl, ?_⟩
    rw [tgetD, tget_tdel_same]
    rfl
  · obtain ⟨t, ht, l⟩ := pcieLinkChange_falls (rate := rate) (width := width) hu
    exact ⟨t, ht, l.pcieUp, l.pcieRate, l.pcieWidth, l.pending⟩
  · rcases Nat.eq_zero_or_pos d.length with h0 | h0
    · obtain rfl := List.length_eq_zero_iff.1 h0
      exact ⟨s, holdWindowWrite_nothing, rfl, rfl, fun _ _ => rfl⟩
    · refine ⟨_, holdWindowWrite_all h0, ?_⟩
      rw [holdWrite_commandSlot hq hk h0 ho]
      exact ⟨rfl, mread_mwrite_same hm, fun b hb => mget_mwrite_other hb⟩
  · refine ⟨_, holdWindowWrite_A5 hq hk hl ho h64, rfl, fun b => ?_⟩
    rw [byte_u8]
    exact mget_writeEach (by decide) (fun j => d.getD j 0) hm
  · rcases Nat.eq_zero_or_pos d.length with h0 | h0
    · obtain rfl := List.length_eq_zero_iff.1 h0
      exact holdWindowWrite_nothing
    · rw [holdWindowWrite_all h0, holdWrite_responseSlot hq hk h0 ho]
  · obtain ⟨e, ht, hp, he, hr⟩ := holdWindowWrite_route (i := i) (s := s) hl
    exact ⟨_, ht, rfl, hr, hp, he⟩

end Sys2Proof.Machine
end

section
/-! PROOF. Semaphores, region registers and accesses of the Stile (R327, R329, R464 to R486). -/

namespace Sys2Proof.Machine

/-! ### The error log and the semaphores -/

section
variable {r o : Requester} {n i event : Nat} {e : ErrEntry} {v : BitVec 32} {s : State}

/-- R484 to R486: logging an error changes the log's registers, and beside them events alone. -/
theorem logError_leaves (e : ErrEntry) (s : State) : ∃ ev wire pme errlog full, (logError e s).2 = { s with
      ev, wire, hold.pme := pme
      stile := { s.stile with errlog, errSeq := (s.stile.errSeq + 1) % 4294967296, logOverflow := full } } ∧
    ∀ i, freeEntry s = some i → errlog =
      tset i { e with seq := s.stile.errSeq, time := stampOf (nowNs s), reqId := e.reqId % 65536 } s.stile.errlog := by
  unfold logError
  dsimp only
  have hfree : freeEntry { s with stile.errSeq := (s.stile.errSeq + 1) % 4294967296 } = freeEntry s := rfl
  rw [hfree]
  cases hi : freeEntry s with
  | none => exact ⟨_, _, _, _, true, rfl, fun j hj => nomatch hj⟩
  | some i =>
    dsimp only
    split
    · rw [raise_frame]
      exact ⟨_, _, _, _, _, rfl, fun j hj => by rw [Option.some.inj hj]⟩
    · exact ⟨_, _, _, _, _, rfl, fun j hj => by rw [Option.some.inj hj]⟩

theorem logRaise_leaves (event : Nat) (e : ErrEntry) (s : State) : ∃ ev wire pme errlog seq full, logRaise event e s = { s with
      ev, wire, hold.pme := pme, stile := { s.stile with errlog, errSeq := seq, logOverflow := full } } ∧
    (event < 64 → coalesced event = false → ev.pending.getLsbD event = true) := by
  obtain ⟨_, _, _, l, x, h, -⟩ := logError_leaves e s
  obtain ⟨ev, w, b, hr, hp⟩ := raise_only event ((logError e s).1.getD noObject) (logError e s).2
  exact ⟨ev, w, b, l, _, x, by rw [logRaise, hr, h], hp⟩

theorem semTake_free (hn : tget n s.stile.sems = none) (hw : (strictPending s && isPcie r) = false) :
    exec (.semTake r n) s = .next { s with stile.sems := tset n r s.stile.sems, hostRead := le 4 1 } := by
  show execSemTake r n s = _
  simp only [execSemTake, hw, Bool.false_eq_true, if_false, semTake, hn]

theorem semTake_held (hn : tget n s.stile.sems = some o) (hw : (strictPending s && isPcie r) = false) :
    exec (.semTake r n) s = .next { s with hostRead := le 4 0 } := by
  show execSemTake r n s = _
  simp only [execSemTake, hw, Bool.false_eq_true, if_false, semTake, hn]

/-- R471: behind a STRICT write a take of a PCIe requester waits. -/
theorem semTake_waits (hs : strictPending s = true) (hr : isPcie r = true) :
    exec (.semTake r n) s = .next { s with stile.held := s.stile.held ++ [(r, n)] } := by
  show execSemTake r n s = _
  simp only [execSemTake, hs, hr, Bool.and_self, if_true]

theorem semGive_owner (h : tget n s.stile.sems = some r) :
    exec (.semGive r n) s = .next (raise 10 n { s with stile.sems := tdel n s.stile.sems }) :=
  congrArg Host.Outcome.next (if_pos h)

/-- R482: a give by another than the owner is logged. -/
theorem semGive_other (h : tget n s.stile.sems ≠ some r) :
    exec (.semGive r n) s = .next (logError (errEntry r 5 15 0 0 (giveAddr n) 4 false false false) s).2 :=
  congrArg Host.Outcome.next (if_neg h)

/-- R327, R472: what a write of STILE_CTRL leaves. -/
theorem writeStileCtrl_leaves (v : BitVec 32) (s : State) : ∃ ev wire pme force, writeStileCtrl v s = { s with
      ev, wire, hold.pme := pme
      stile := { s.stile with
        strict := v.getLsbD 0, timeoutCa := v.getLsbD 1, readTimeout := v.toNat / 65536 % 512, strictInForce := force } } ∧
    (v.getLsbD 0 = s.stile.strict → ev = s.ev) ∧ (v.getLsbD 0 ≠ s.stile.strict → ev.pending.getLsbD 13 = true) := by
  have hset (t : State) : ∃ f, settleStrict t = { t with stile.strictInForce := f } := by
    unfold settleStrict
    split
    · exact ⟨_, rfl⟩
    · exact ⟨_, rfl⟩
  obtain ⟨f, hf⟩ := hset { s with stile.strict := v.getLsbD 0, stile.timeoutCa := v.getLsbD 1, stile.readTimeout := v.toNat / 65536 % 512 }
  unfold writeStileCtrl
  dsimp only
  rw [hf]
  by_cases h : v.getLsbD 0 = s.stile.strict
  · rw [if_neg (by simpa using h)]
    exact ⟨_, _, _, f, rfl, fun _ => rfl, fun hne => absurd h hne⟩
  · rw [if_pos (by simpa using h)]
    obtain ⟨ev, w, b, hr, hp⟩ := raise_only 13 noObject { s with stile := { s.stile with
      strict := v.getLsbD 0, timeoutCa := v.getLsbD 1, readTimeout := v.toNat / 65536 % 512, strictInForce := f } }
    exact ⟨ev, w, b, f, hr, fun he => absurd he h, fun _ => hp (by decide) (by decide)⟩

end

/-! ### Region registers -/

section
variable {g reg : Nat} {v : BitVec 32} {s : State}

/-- A region written: its descriptor, and nothing kept of it (R466, R480). -/
def putRegion (g : Nat) (r : Region) (s : State) : State :=
  dropKeptOf (· == g) { s with stile.regions := tset g r s.stile.regions }

theorem stileRegion_writes {r : Region} (hw : writeRegion g reg v s = putRegion g r s) (hn : s.stile.near = [])
    (hs : s.stile.strictInForce = s.stile.strict) : exec (.stileRegion g reg v) s = .next (releaseHeld (putRegion g r s)) := by
  show execStileRegion g reg v s = _
  rw [execStileRegion, hw, pump_settled (s := putRegion g r s) hn hs]

theorem writeRegion_enabled (he : v.getLsbD 0 = true) (hr : enableRefused g { regionOf g s with ctrl := v &&& 0x003F3FFF#32 } s = false) :
    writeRegion g 3 v s = putRegion g { regionOf g s with ctrl := v &&& 0x003F3FFF#32 } s := by
  simp only [writeRegion, he, hr, Bool.not_true, Bool.false_eq_true, if_false]
  rfl

/-- R466: an ENABLE that is refused reads back clear, with bit 31 set. -/
theorem writeRegion_refused (he : v.getLsbD 0 = true) (hr : enableRefused g { regionOf g s with ctrl := v &&& 0x003F3FFF#32 } s = true) :
    writeRegion g 3 v s = putRegion g { regionOf g s with ctrl := (v &&& 0x003F3FFE#32) ||| 0x80000000#32 } s := by
  have hbits : v &&& 0x003F3FFF#32 &&& 0xFFFFFFFE#32 = v &&& 0x003F3FFE#32 := by rw [BitVec.and_assoc]; rfl
  simp only [writeRegion, he, hr, Bool.not_true, Bool.false_eq_true, if_false, if_true, hbits]
  rfl

end

/-! ### One request with nothing under way -/

theorem pieceBe_255 (off len o n : Nat) : pieceBe off len 255 o n = 255 := by
  have hbit (k : Nat) (hk : k < 8) : Nat.testBit 255 k = true := Nat.testBit_two_pow_sub_one (n := 8) (i := k) ▸ decide_eq_true hk
  have hall (a : Nat) : enabledAt off len 255 a = true := by
    simp only [enabledAt, hbit (a % 4) (by omega), hbit (4 + a % 4) (by omega), Bool.or_true, Bool.and_self]
  simp only [pieceBe, hall, Bool.or_true]
  decide

/-- Two units that begin at an offset keep their enables when they are taken whole. -/
theorem pieceBe_A5 {off : Nat} (ho : off % 4 = 0) : pieceBe off 8 0xA5 off 8 = 0xA5 := by
  have hfirst : off / 4 * 4 = off := by omega
  have hlast : (off + 8 - 1) / 4 * 4 = off + 4 := by omega
  have hin (n : Nat) (hn : n < 8) :
      (!decide (off ≤ off + n ∧ off + n < off + 8) || enabledAt off 8 0xA5 (off + n)) = decide (n ∈ [0, 2, 5, 7]) := by
    rw [enabledAt_A5 ho hn, decide_eq_true (by omega)]
    rfl
  have h1 : (List.range 4).map (fun k => !decide (off ≤ off + k ∧ off + k < off + 8) || enabledAt off 8 0xA5 (off + k)) =
      (List.range 4).map fun k => decide (k ∈ [0, 2, 5, 7]) :=
    List.map_congr_left fun k hk => hin k (Nat.lt_trans (List.mem_range.1 hk) (by decide))
  have h2 : (List.range 4).map (fun k => !decide (off ≤ off + 4 + k ∧ off + 4 + k < off + 8) || enabledAt off 8 0xA5 (off + 4 + k)) =
      (List.range 4).map fun k => decide (4 + k ∈ [0, 2, 5, 7]) :=
    List.map_congr_left fun k hk => by
      have h := hin (4 + k) (by have := List.mem_range.1 hk; omega)
      rwa [← Nat.add_assoc] at h
  simp only [pieceBe, hfirst, hlast]
  rw [h1, h2]
  decide

theorem chunks_one {len : Nat} (h0 : 0 < len) (h256 : len ≤ 256) : chunks (len + 1) 0 len = [(0, len)] := by
  obtain ⟨m, rfl⟩ : ∃ m, len = m + 1 := ⟨len - 1, by omega⟩
  simp only [chunks, Nat.succ_ne_zero, if_false, Nat.min_eq_right h256, Nat.sub_eq_zero_of_le h256, if_true]

/-- The near request of an access of at most 256 bytes. -/
def nearOf (r : Requester) (write : Bool) (off len en : Nat) (d : Bytes) (s : State) : NearReq :=
  { req := r, write, off, len, data := sub d 0 len, strict := s.stile.strict, group := s.stile.nextGroup, be := pieceBe off len en off len }

theorem nearPieces_one {r : Requester} {write : Bool} {off len en : Nat} {d : Bytes} {s : State} (h0 : 0 < len) (h256 : len ≤ 256) :
    nearPieces r write ⟨off, en⟩ len d s = [nearOf r write off len en d s] := by
  rw [nearPieces, chunks_one h0 h256]
  rfl

section
variable {q : NearReq} {s : State}

/-- With nothing under way a near request is taken at once. -/
theorem mayTake_alone (hf : s.stile.far = []) : mayTake q [] s = true := by
  simp [mayTake, strictBusy, readsOut, hf]

/-- R467: a request received with nothing under way is taken whole when nothing of it stays near. -/
theorem receiveNear_takes (hn : s.stile.near = []) (hf : s.stile.far = []) {u : State}
    (ht : takeNear 0 q { s with stile.near := [q], stile.nextGroup := s.stile.nextGroup + 1 } = u) (hu : u.stile.near = [])
    (hs : u.stile.strictInForce = u.stile.strict) : receiveNear [q] s = releaseHeld u := by
  have hm := mayTake_alone (q := q) (s := { s with stile.near := [q], stile.nextGroup := s.stile.nextGroup + 1 }) hf
  have hfind : ([q].zipIdx.find? fun e => mayTake e.1 ([q].take e.2)
      { s with stile.near := [q], stile.nextGroup := s.stile.nextGroup + 1 }) = some (q, 0) := by
    simp only [List.zipIdx_cons, List.zipIdx_nil, List.find?_cons, List.take_zero, hm]
  rw [receiveNear, hn, List.nil_append, pump, pumpFuel, pumpNear]
  dsimp only
  rw [hfind]
  dsimp only
  rw [ht, pumpNear_settled _ hu hs]

end

section
variable {q : NearReq} {g off len : Nat} {s : State}

/-- The state that has received an access which is taken whole: one more group. -/
def received (s : State) : State := { s with stile.near := [], stile.nextGroup := s.stile.nextGroup + 1 }

/-- The bytes lie in an enabled region, below the semaphore page (R464, R465). -/
structure InRegion (g off len : Nat) (s : State) : Prop where
  below : off + len ≤ 0x3FFF000
  pos : 0 < len
  region : regionAt off s = some g
  inside : off + len ≤ rBase (regionOf g s) + rSize (regionOf g s)

theorem takeNear_inRegion (h : InRegion g q.off q.len s) :
    takeNear 0 q { s with stile.near := [q], stile.nextGroup := s.stile.nextGroup + 1 } = takePiece q g q.len (received s) := by
  obtain ⟨hb, h0, hr, hi⟩ := h
  have hpage : ¬ semPageBase ≤ q.off := by unfold semPageBase; omega
  have hr' : regionAt q.off { s with stile.near := [q], stile.nextGroup := s.stile.nextGroup + 1 } = some g := hr
  have hlen : min q.len (rBase (regionOf g s) + rSize (regionOf g s) - q.off) = q.len := by omega
  have hcut : cutNear 0 q.len q [q] = [] := if_pos (Nat.le_refl _)
  rw [takeNear, if_neg hpage, hr']
  show takePiece q g (min q.len (rBase (regionOf g s) + rSize (regionOf g s) - q.off)) { s with stile := { s.stile with
    near := cutNear 0 (min q.len (rBase (regionOf g s) + rSize (regionOf g s) - q.off)) q [q], nextGroup := s.stile.nextGroup + 1 } } = _
  rw [hlen, hcut]
  rfl

/-- The far access of a near request taken whole in a region. -/
def accessOf (q : NearReq) (g : Nat) (s : State) : FarAccess :=
  { id := s.stile.nextFar, req := q.req, write := q.write, region := g, kind := rKind (regionOf g s), inst := rInst (regionOf g s)
    mode := if q.strict then 2 else if rPosted (regionOf g s) then 0 else 1
    addr := rTarget (regionOf g s) + (q.off - rBase (regionOf g s)), len := q.len, data := q.data.take q.len
    sideEffect := sideLoc (regionOf g s) (rTarget (regionOf g s) + (q.off - rBase (regionOf g s))) q.len
    group := q.group, off := q.off, be := pieceBe q.off q.len q.be q.off q.len }

/-- A piece at a local target of which nothing is kept and nothing beyond it is asked for (R468, R480). -/
theorem takePiece_local (hk : rKind (regionOf g s) ≤ 4)
    (hp : q.write = true ∨ (rPrefetch (regionOf g s) = false ∧ tget g s.stile.prefetch = none)) :
    takePiece q g q.len s = startLocal (accessOf q g s) { s with stile.nextFar := s.stile.nextFar + 1 } := by
  have h6 : rKind (regionOf g s) ≠ 6 := by omega
  have hspan : (if q.write then (0, false) else spanOf (regionOf g s) (rTarget (regionOf g s) + (q.off - rBase (regionOf g s))) q.len) =
      (0, false) := by
    rcases hp with hw | ⟨hf, -⟩
    · rw [if_pos hw]
    · simp only [spanOf, hf, Bool.not_false, if_true, ite_self]
  have hkept : (if q.write then none else keptData g (rTarget (regionOf g s) + (q.off - rBase (regionOf g s))) q.len
      { s with stile.nextFar := s.stile.nextFar + 1 }) = none := by
    rcases hp with hw | ⟨-, hn⟩
    · rw [if_pos hw]
    · simp only [keptData, hn, ite_self]
  simp only [takePiece, hspan, Bool.false_eq_true, if_false, hkept, h6, false_and, decide_false, Bool.or_false,
    accessOf]

end

/-! ### Reads of a controller's register file -/

section
variable {rd : Nat → Nat → State → Bytes × State} {off len : Nat} {d : Bytes} {s u : State}

theorem patch_whole {i d : Bytes} (h : i.length = d.length) : patch i 0 d = d := by
  rw [patch, Nat.zero_add, List.drop_eq_nil_of_le (Nat.le_of_eq h), List.append_nil]
  rfl

/-- With every byte enabled a run is read whole (R318). -/
theorem readRuns_all (h0 : 0 < len) (hr : rd 0 len s = (d, u)) (hd : d.length = len) : readRuns rd off len 255 s = (d, u) := by
  simp only [readRuns, enabledRuns, if_true, if_neg (Nat.ne_of_gt h0), List.foldl_cons, List.foldl_nil, hr]
  rw [patch_whole (by rw [List.length_replicate, hd])]

/-- Bytes 0, 2, 5 and 7 of eight are read one by one, and the others are zero (R318, R479). -/
theorem readRuns_A5 (ho : off % 4 = 0) (f : Nat → Byte) (hr : ∀ j, j < 8 → rd j 1 s = ([f j], s)) :
    readRuns rd off 8 0xA5 s = ([0, 1, 2, 3, 4, 5, 6, 7].map (fun j => if j ∈ [0, 2, 5, 7] then f j else 0), s) := by
  simp only [readRuns, enabledRuns_A5 ho, List.foldl_cons, List.foldl_nil, hr 0 (by decide), hr 2 (by decide), hr 5 (by decide),
    hr 7 (by decide)]
  rfl

/-- The level of the pins is sampled where it is read (R246). -/
def sampled (kind o len : Nat) (s : State) : State := if kind = 4 ∧ o < 13 ∧ 8 < o + len then drivePins (sampleInputs s) else s

theorem readFile_image {kind k o : Nat} (h0 : 0 < len) (he : o + len ≤ 256) :
    readFile kind k o len s = (sub (fileImage kind k (sampled kind o len s)) o len, sampled kind o len s) := by
  have h1 : min (o + len) 256 - o = len := by omega
  have h2 : min (o + len) 1024 - max o 256 = 0 := by omega
  have h3 : o + len - max o 1024 = 0 := by omega
  unfold sampled
  simp only [readFile, h1, h2, h3, rcRead, if_true, sub, List.append_nil]

/-- R469: a read of one counter of a CAN controller clears it. -/
theorem readFile_counter {k n : Nat} (hn : n < 13) : readFile 0 k (256 + 8 * n) 8 s =
    (le 8 (tgetD n 0 (canRt k s).counters), setCan k { canRt k s with counters := tdel n (canRt k s).counters, armed := true } s) := by
  have h1 : min (256 + 8 * n + 8) 256 - (256 + 8 * n) = 0 := by omega
  have h2 : max (256 + 8 * n) 256 - 256 = 8 * n := by omega
  have h3 : min (256 + 8 * n + 8) 1024 - max (256 + 8 * n) 256 = 8 := by omega
  have h4 : 256 + 8 * n + 8 - max (256 + 8 * n) 1024 = 0 := by omega
  have hc : ¬ counterCount 0 ≤ n := by
    show ¬ 13 ≤ n
    omega
  simp only [readFile, h1, h2, h3, h4, rcRead_one, sub, List.nil_append, List.append_nil, busRc, busCounter, clearBusCounter, hc, if_false,
    OfNat.zero_ne_ofNat, false_and]

end

section
variable {r : Requester} {off len g en : Nat} {d : Bytes} {s u : State}

/-- Where in its target a region decodes a window offset (R465). -/
def farAddr (g off : Nat) (s : State) : Nat := rTarget (regionOf g s) + (off - rBase (regionOf g s))

/-- A read with nothing under way, in a region of a controller's register file that keeps no data. -/
structure ReadsFile (off len g : Nat) (s : State) : Prop where
  near : s.stile.near = []
  strict : s.stile.strictInForce = s.stile.strict
  far : s.stile.far = []
  short : len ≤ 256
  inRegion : InRegion g off len s
  kind : rKind (regionOf g s) ≤ 4
  prefetch : rPrefetch (regionOf g s) = false
  kept : tget g s.stile.prefetch = none

/-- The state that has received a request and given its access a number. -/
def numbered (s : State) : State := { received s with stile := { (received s).stile with nextFar := s.stile.nextFar + 1 } }

theorem startLocal_read {a : FarAccess} (hw : a.write = false) (h5 : a.kind ≠ 5) (hs : a.span = 0)
    (hr : readRuns (fun n l t => localRead a.kind a.inst (a.addr + n) l t) a.addr a.len a.be s = (d, u)) :
    startLocal a s = { u with stile.far := u.stile.far ++ [{ a with data := d }] } := by
  simp only [startLocal, hw, h5, hs, hr, Bool.false_eq_true, if_false, if_true, List.append_nil]

theorem stileRead_receives (h0 : 0 < len) (h256 : len ≤ 256) :
    exec (.stileRead r ⟨off, en⟩ len) s = .next (receiveNear [nearOf r false off len en [] s] s) := by
  show execStileRead r ⟨off, en⟩ len s = _
  rw [execStileRead, nearPieces_one h0 h256]

/-- The far read that awaits its completion: it is the only access, of this device, and holds its data. -/
structure FarRead (r : Requester) (len : Nat) (d : Bytes) (s t : State) (x : FarAccess) : Prop where
  far : t.stile.far = [x]
  near : t.stile.near = []
  id : x.id = s.stile.nextFar
  req : x.req = r
  write : x.write = false
  len : x.len = len
  result : x.result = none
  remote : x.remote = false
  noKeep : x.noKeep = false
  data : x.data = d

/-- R467, R468: such a read becomes a far read that holds what the file gave. -/
theorem stileRead_file (h : ReadsFile off len g s) (he : pieceBe off len en off len = en)
    (hr : readRuns (fun n l t => readFile (rKind (regionOf g s)) (rInst (regionOf g s)) (farAddr g off s + n) l t) (farAddr g off s) len en
      (numbered s) = (d, u)) (hu : u.stile = (numbered s).stile) :
    ∃ t x, exec (.stileRead r ⟨off, en⟩ len) s = .next t ∧ FarRead r len d s t x ∧
      t.bank = u.bank ∧ t.buses = u.buses ∧ t.power = u.power := by
  have h5 : rKind (regionOf g s) ≠ 5 := by have := h.kind; omega
  have hlocal : readRuns (fun n l t => localRead (rKind (regionOf g s)) (rInst (regionOf g s)) (farAddr g off s + n) l t) (farAddr g off s) len
      (pieceBe off len (pieceBe off len en off len) off len) (numbered s) = (d, u) := by
    simp only [localRead, h5, if_false, he]
    exact hr
  have htake := takeNear_inRegion (q := nearOf r false off len en [] s) (s := s) h.inRegion
  rw [takePiece_local (s := received s) h.kind (.inr ⟨h.prefetch, h.kept⟩)] at htake
  have hstart := startLocal_read (a := accessOf (nearOf r false off len en [] s) g (received s)) rfl h5 rfl hlocal
  have hfar : u.stile.far = [] := by rw [hu]; exact h.far
  rw [hfar, List.nil_append] at hstart
  have hget := receiveNear_takes h.near h.far (htake.trans hstart) (by dsimp only; rw [hu]; rfl) (by dsimp only; rw [hu]; exact h.strict)
  obtain ⟨_, _, _, hrel, -⟩ := releaseHeld_leaves { u with
    stile.far := [{ accessOf (nearOf r false off len en [] s) g (received s) with data := d }] }
  refine ⟨_, { accessOf (nearOf r false off len en [] s) g (received s) with data := d },
    (stileRead_receives h.inRegion.pos h.short).trans (congrArg Host.Outcome.next (hget.trans hrel)),
    ⟨rfl, ?_, rfl, rfl, rfl, rfl, rfl, rfl, rfl, rfl⟩, rfl, rfl, rfl⟩
  show u.stile.near = []
  rw [hu]
  rfl

/-- The register file is read from settings, controllers and the clock: what the Stile holds does not show (R468). -/
theorem fileImage_congr (kind k : Nat) {t : State} (hb : t.bank = s.bank) (hc : t.buses = s.buses) (hp : t.power = s.power) :
    fileImage kind k t = fileImage kind k s := by
  unfold fileImage busInline fileConfig fileLive linActive canRt linRt mvbRt
  rw [hb, hc, hp]

end

section
variable {r : Requester} {off len g k : Nat} {d : Bytes} {a : FarAccess} {s : State}

theorem sampled_other {kind o n : Nat} (h : kind < 4) : sampled kind o n s = s := if_neg fun hc => absurd hc.1 (by omega)

theorem sampled_stile (kind o n : Nat) (s : State) : (sampled kind o n s).stile = s.stile := by
  unfold sampled
  split <;> rfl

theorem stileRead_image (h : ReadsFile off len g s) (he : farAddr g off s + len ≤ 256) : ∃ t x, exec (.stileRead r ⟨off, 255⟩ len) s = .next t ∧
    FarRead r len (sub (fileImage (rKind (regionOf g s)) (rInst (regionOf g s)) t) (farAddr g off s) len) s t x ∧
    (rKind (regionOf g s) < 4 → t.buses = s.buses) := by
  have hruns := readRuns_all (rd := fun n l t => readFile (rKind (regionOf g s)) (rInst (regionOf g s)) (farAddr g off s + n) l t)
    (off := farAddr g off s) h.inRegion.pos (readFile_image (s := numbered s) h.inRegion.pos he) (sub_length ..)
  obtain ⟨t, x, ht, hx, hbank, hbuses, hpower⟩ := stileRead_file (r := r) h (pieceBe_255 ..) hruns (sampled_stile ..)
  refine ⟨t, x, ht, ?_, fun h4 => ?_⟩
  · rw [fileImage_congr _ _ hbank hbuses hpower]
    exact hx
  · rw [hbuses, sampled_other h4]
    rfl

/-- R318, R479: of two units with the enables A5h. -/
theorem stileRead_enabled (h : ReadsFile off 8 g s) (ho : off % 4 = 0) (ha : farAddr g off s % 4 = 0) (h4 : rKind (regionOf g s) < 4)
    (he : farAddr g off s + 8 ≤ 256) : ∃ t x, exec (.stileRead r ⟨off, 0xA5⟩ 8) s = .next t ∧
    FarRead r 8 ([0, 1, 2, 3, 4, 5, 6, 7].map (fun j => if j ∈ [0, 2, 5, 7] then
      (fileImage (rKind (regionOf g s)) (rInst (regionOf g s)) s).getD (farAddr g off s + j) 0 else 0)) s t x := by
  have hone (j : Nat) (hj : j < 8) : readFile (rKind (regionOf g s)) (rInst (regionOf g s)) (farAddr g off s + j) 1 (numbered s) =
      ([(fileImage (rKind (regionOf g s)) (rInst (regionOf g s)) s).getD (farAddr g off s + j) 0], numbered s) := by
    rw [readFile_image (by decide) (by omega), sampled_other h4]
    rfl
  obtain ⟨t, x, ht, hx, -⟩ := stileRead_file (r := r) h (pieceBe_A5 ho) (readRuns_A5 ha _ hone) rfl
  exact ⟨t, x, ht, hx⟩

/-- R469: of a CAN controller's counter. -/
theorem stileRead_counter (h : ReadsFile off 8 g s) (h0 : rKind (regionOf g s) = 0) (hk : k < 13) (ha : farAddr g off s = 256 + 8 * k) :
    ∃ t x, exec (.stileRead r ⟨off, 255⟩ 8) s = .next t ∧
      FarRead r 8 (le 8 (tgetD k 0 (canRt (rInst (regionOf g s)) s).counters)) s t x ∧
      tgetD k 0 (canRt (rInst (regionOf g s)) t).counters = 0 ∧ (canRt (rInst (regionOf g s)) t).armed = true := by
  have hread : readFile (rKind (regionOf g s)) (rInst (regionOf g s)) (farAddr g off s) 8 (numbered s) =
      (le 8 (tgetD k 0 (canRt (rInst (regionOf g s)) s).counters), setCan (rInst (regionOf g s))
        { canRt (rInst (regionOf g s)) s with counters := tdel k (canRt (rInst (regionOf g s)) s).counters, armed := true } (numbered s)) := by
    rw [h0, ha, readFile_counter hk]
    rfl
  have hruns := readRuns_all (rd := fun n l t => readFile (rKind (regionOf g s)) (rInst (regionOf g s)) (farAddr g off s + n) l t)
    (off := farAddr g off s) h.inRegion.pos hread (le_length ..)
  obtain ⟨t, x, ht, hx, -, hbuses, -⟩ := stileRead_file (r := r) h (pieceBe_255 ..) hruns rfl
  have hcan : canRt (rInst (regionOf g s)) t =
      { canRt (rInst (regionOf g s)) s with counters := tdel k (canRt (rInst (regionOf g s)) s).counters, armed := true } := by
    unfold canRt
    rw [hbuses]
    exact tgetD_tset_same ..
  refine ⟨t, x, ht, hx, ?_, by rw [hcan]⟩
  rw [hcan, tgetD, tget_tdel_same]
  rfl

end

/-! ### A posted write of the pins' live control -/

section
variable {r : Requester} {off len g : Nat} {d : Bytes} {s : State}

/-- R468: live control of the pins written. -/
theorem writeFile_pins {k o : Nat} (h0 : 64 ≤ o) (he : o + d.length ≤ 69) : ∃ stw buses, writeFile 4 k o d s =
    (0, { s with stw, buses, bank.pins := patch (fit 88 s.bank.pins) (o - 24) d }) := by
  have hplace : 40 + (o - 0x40) = o - 24 := by omega
  have hpins : 0x40 ≤ o ∧ o + d.length ≤ 0x45 := ⟨h0, he⟩
  simp only [writeFile, OfNat.ofNat_ne_zero, false_and, if_false, hpins, and_self, if_true, hplace, drivePins]
  split
  · exact ⟨_, _, rfl⟩
  · exact ⟨_, _, rfl⟩

/-- A posted write with nothing under way, in a region of the pins' register file, of its live control. -/
structure WritesPins (r : Requester) (off : Nat) (d : Bytes) (g : Nat) (s : State) : Prop where
  near : s.stile.near = []
  strict : s.stile.strictInForce = s.stile.strict
  relaxed : s.stile.strict = false
  far : s.stile.far = []
  inRegion : InRegion g off d.length s
  kind : rKind (regionOf g s) = 4
  posted : rPosted (regionOf g s) = true
  first : 64 ≤ farAddr g off s
  last : farAddr g off s + d.length ≤ 69
  free : guarded r 4 (rInst (regionOf g s)) (farAddr g off s) d.length s = false

theorem dropKept_idle (kind k addr n : Nat) (hf : s.stile.far = []) :
    ∃ p, dropKept kind k addr n s = { s with stile.prefetch := p, stile.far := [] } := by
  simp only [dropKept, dropKeptOf, hf, List.map_nil]
  exact ⟨_, rfl⟩

theorem startLocal_write {a : FarAccess} {en : Nat} {u : State} (hw : a.write = true) (hb : a.be = en) (hd : a.data = d)
    (hr : writeRuns (fun n d t => localWrite a.req a.kind a.inst (a.addr + n) d t) a.addr a.len en d s = (0, u))
    (hf : u.stile.far = []) : ∃ p, startLocal a s = { u with stile.prefetch := p, stile.far := [a] } := by
  obtain ⟨p, hp⟩ := dropKept_idle a.kind a.inst a.addr a.len hf
  simp only [startLocal, hw, hb, hd, hr, hp, if_true]
  exact ⟨p, rfl⟩

theorem writeRuns_pins (h : WritesPins r off d g s) : ∃ stw buses, writeRuns (fun n d t =>
      localWrite r (rKind (regionOf g s)) (rInst (regionOf g s)) (farAddr g off s + n) d t) (farAddr g off s) d.length 255 d (numbered s) =
    (0, { numbered s with stw, buses, bank.pins := patch (fit 88 s.bank.pins) (farAddr g off s - 24) d }) := by
  obtain ⟨w, b, hw⟩ := writeFile_pins (k := rInst (regionOf g s)) (s := numbered s) h.first h.last
  have hguard : guarded r 4 (rInst (regionOf g s)) (farAddr g off s) d.length (numbered s) = false := h.free
  have hlocal : localWrite r (rKind (regionOf g s)) (rInst (regionOf g s)) (farAddr g off s) d (numbered s) =
      writeFile 4 (rInst (regionOf g s)) (farAddr g off s) d (numbered s) := by
    rw [h.kind]
    simp only [localWrite, hguard, Bool.false_eq_true, if_false, Nat.reduceEqDiff]
  have hruns := writeRuns_all (fun n d t => localWrite r (rKind (regionOf g s)) (rInst (regionOf g s)) (farAddr g off s + n) d t)
    (farAddr g off s) rfl h.inRegion.pos (numbered s)
  rw [Nat.add_zero, hlocal, hw] at hruns
  exact ⟨w, b, hruns⟩

/-- R468, R471: such a write sets the levels and awaits its completion. -/
theorem stileWrite_pins (h : WritesPins r off d g s) : ∃ t x, exec (.stileWrite r ⟨off, 255⟩ d) s = .next t ∧ t.stile.far = [x] ∧
    x.write = true ∧ x.mode = 0 ∧ x.data = d ∧ t.bank.pins = patch (fit 88 s.bank.pins) (farAddr g off s - 24) d := by
  have hshort : d.length ≤ 256 := by have := h.last; omega
  have hreceive : execStileWrite r ⟨off, 255⟩ d s = .next (receiveNear [nearOf r true off d.length 255 d s] s) := by
    have hroom : ¬ 64 ≤ (s.stile.near.filter (·.write)).length := by rw [h.near]; decide
    rw [execStileWrite, if_neg hroom, nearPieces_one h.inRegion.pos hshort]
  have htake := takeNear_inRegion (q := nearOf r true off d.length 255 d s) (s := s) h.inRegion
  rw [takePiece_local (s := received s) (Nat.le_of_eq h.kind) (.inl rfl)] at htake
  have hdata : (accessOf (nearOf r true off d.length 255 d s) g (received s)).data = d := by
    show (sub d 0 d.length).take d.length = d
    rw [show sub d 0 d.length = d from fit_of_length rfl, List.take_length]
  have hbe : (accessOf (nearOf r true off d.length 255 d s) g (received s)).be = 255 := by
    show pieceBe off d.length (pieceBe off d.length 255 off d.length) off d.length = 255
    rw [pieceBe_255, pieceBe_255]
  have hmode : (accessOf (nearOf r true off d.length 255 d s) g (received s)).mode = 0 := by
    show (if s.stile.strict then 2 else if rPosted (regionOf g s) then 0 else 1) = 0
    rw [h.relaxed, h.posted]
    rfl
  obtain ⟨w, b, hruns⟩ := writeRuns_pins h
  obtain ⟨p, hstart⟩ := startLocal_write (a := accessOf (nearOf r true off d.length 255 d s) g (received s)) rfl hbe hdata hruns h.far
  have hget := receiveNear_takes h.near h.far (htake.trans hstart) rfl h.strict
  obtain ⟨_, _, _, hrel, -⟩ := releaseHeld_leaves { numbered s with
    stw := w, buses := b, bank.pins := patch (fit 88 s.bank.pins) (farAddr g off s - 24) d
    stile.prefetch := p, stile.far := [accessOf (nearOf r true off d.length 255 d s) g (received s)] }
  exact ⟨_, _, hreceive.trans (congrArg Host.Outcome.next (hget.trans hrel)), rfl, rfl, hmode, hdata, rfl⟩

end

/-! ### Completions -/

section
variable {r : Requester} {off len g : Nat} {d : Bytes} {err : Bool} {a : FarAccess} {s : State}

/-- R474: the answer of the only access completes it. -/
theorem answerRead_alone (hf : s.stile.far = [a]) (hn : s.stile.near = []) (hw : a.write = false) :
    answerRead a d err s = emit (.completion a.req d err) { s with stile.far := [] } := by
  have hnext : nextPiece a.group { s with stile.far := [{ a with result := some (d, err) }] } = some { a with result := some (d, err) } := by
    simp [nextPiece, hw, hn]
  simp only [answerRead, hf, List.map_cons, List.map_nil, if_true, List.length_cons, List.length_nil, Nat.zero_add, flushGroup, hnext]
  simp

theorem removeFar_alone (hf : s.stile.far = [a]) : removeFar a s = { s with stile.far := [] } := by
  simp only [removeFar, hf, List.filter_cons, bne_self_eq_false, Bool.false_eq_true, if_false, List.filter_nil]

/-- R476: a completion of no access is stale. -/
theorem farCompletion_stale {id : Nat} (h : ∀ x ∈ s.stile.far, x.id ≠ id) : exec (.farCompletion id d 0) s =
    .next (raise 3 id { s with stile.staleCount := s.stile.staleCount + 1 }) := by
  have hfind : s.stile.far.find? (fun x => x.id == id && !x.remote && x.result.isNone) = none :=
    List.find?_eq_none.2 fun x hx => by simp [h x hx]
  show execFarCompletion id d 0 s = _
  rw [execFarCompletion, hfind]
  rfl

section
variable (hf : s.stile.far = [a]) (hr : a.remote = false) (hnone : a.result = none) (hn : s.stile.near = [])
  (hs : s.stile.strictInForce = s.stile.strict)
include hf hr hnone hn hs

theorem farCompletion_read (hw : a.write = false) (h5 : a.kind ≠ 5) (hl : a.data.length = a.len) : exec (.farCompletion a.id d 0) s =
    .next (releaseHeld { s with stile.far := [], wire := .completion a.req a.data false :: s.wire }) := by
  have hfind : s.stile.far.find? (fun x => x.id == a.id && !x.remote && x.result.isNone) = some a := by simp [hf, hr, hnone]
  have hkeep : (a.data.drop a.len).isEmpty = true := by rw [List.drop_eq_nil_of_le (Nat.le_of_eq hl)]; rfl
  have hok : succeedFar a a.data s = { s with stile.far := [], wire := .completion a.req a.data false :: s.wire } := by
    simp only [succeedFar, hw, hkeep, Bool.true_or, Bool.false_eq_true, if_false, if_true, fit_of_length hl]
    exact answerRead_alone hf hn hw
  show execFarCompletion a.id d 0 s = _
  simp only [execFarCompletion, hfind, ne_eq, not_true, if_false, h5, hok]
  rw [pump_settled (s := { s with stile.far := [], wire := .completion a.req a.data false :: s.wire }) hn hs]

theorem farCompletion_write (hw : a.write = true) : exec (.farCompletion a.id d 0) s = .next (releaseHeld { s with stile.far := [] }) := by
  have hfind : s.stile.far.find? (fun x => x.id == a.id && !x.remote && x.result.isNone) = some a := by simp [hf, hr, hnone]
  show execFarCompletion a.id d 0 s = _
  simp only [execFarCompletion, hfind, ne_eq, not_true, if_false, succeedFar, hw, if_true, removeFar_alone hf]
  rw [pump_settled (s := { s with stile.far := [] }) hn hs]

/-- R473, R475: a write that draws no completion is removed and logged. -/
theorem farTimeout_write (hw : a.write = true) :
    exec (.farTimeout a.id) s = .next (releaseHeld (logRaise 8 (farEntry a 4) { s with stile.far := [] })) := by
  have hfind : s.stile.far.find? (fun x => x.id == a.id && x.result.isNone) = some a := by simp [hf, hnone]
  obtain ⟨_, _, _, _, _, _, hlog, -⟩ := logRaise_leaves 8 (farEntry a 4) { s with stile.far := [] }
  show execFarTimeout a.id s = _
  simp only [execFarTimeout, hfind, hr, Bool.false_eq_true, if_false, failFar, hw, if_true, removeFar_alone hf]
  rw [pump_settled (by rw [hlog]; exact hn) (by rw [hlog]; exact hs)]

end

/-! ### Reads outside every region -/

/-- R475: the only access, a read, fails: it completes with all ones. -/
theorem failFar_alone (hf : s.stile.far = [a]) (hn : s.stile.near = []) (hw : a.write = false) (hc : s.stile.timeoutCa = false) (kind : Nat) :
    ∃ ev wire pme errlog seq full, failFar a kind s = { s with
        ev, wire := .completion a.req (List.replicate a.len 0xFF) false :: wire, hold.pme := pme
        stile := { s.stile with far := [], errlog, errSeq := seq, logOverflow := full } } ∧
      ev.pending.getLsbD 9 = true := by
  obtain ⟨e, w, b, l, q, o, hlog, hp⟩ := logRaise_leaves 9 (farEntry a kind) s
  have hread : failedRead a.len (logRaise 9 (farEntry a kind) s) = (List.replicate a.len 0xFF, false) := by
    rw [hlog]
    simp only [failedRead, hc, Bool.false_eq_true, if_false]
  have hanswer := answerRead_alone (d := List.replicate a.len 0xFF) (err := false) (s := logRaise 9 (farEntry a kind) s)
    (by rw [hlog]; exact hf) (by rw [hlog]; exact hn) hw
  refine ⟨e, w, b, l, q, o, ?_, hp (by decide) (by decide)⟩
  simp only [failFar, hw, Bool.false_eq_true, if_false, hread]
  rw [hanswer, hlog]
  rfl

variable {q : NearReq}

theorem refusePiece_alone (hf : s.stile.far = []) (hn : s.stile.near = []) (hw : q.write = false) (hc : s.stile.timeoutCa = false) :
    ∃ ev wire pme errlog seq full, refusePiece q len 1 15 s = { s with
        ev, wire := .completion q.req (List.replicate len 0xFF) false :: wire, hold.pme := pme
        stile := { s.stile with far := [], errlog, errSeq := seq, logOverflow := full, nextFar := s.stile.nextFar + 1 } } ∧
      ev.pending.getLsbD 9 = true := by
  unfold refusePiece
  dsimp only
  rw [hf, List.nil_append]
  exact failFar_alone (s := { s with stile := { s.stile with far := [_], nextFar := s.stile.nextFar + 1 } }) rfl hn hw hc 1

/-- R467: where no region decodes any of its bytes a request is refused whole. -/
theorem takeNear_outside (hb : q.off + q.len ≤ 0x3FFF000) (h0 : 0 < q.len) (hout : ∀ n, n < q.len → regionAt (q.off + n) s = none) :
    takeNear 0 q { s with stile.near := [q], stile.nextGroup := s.stile.nextGroup + 1 } = refusePiece q q.len 1 15 (received s) := by
  have hpage : ¬ semPageBase ≤ q.off := by unfold semPageBase; omega
  have hnone : regionAt q.off { s with stile.near := [q], stile.nextGroup := s.stile.nextGroup + 1 } = none := hout 0 h0
  have hfind : (List.range q.len).find? (fun n =>
      (targetAt (q.off + n) { s with stile.near := [q], stile.nextGroup := s.stile.nextGroup + 1 }).isSome) = none := by
    refine List.find?_eq_none.2 fun n hn => ?_
    have hlt := List.mem_range.1 hn
    have hbelow : ¬ semPageBase ≤ q.off + n := by unfold semPageBase; omega
    have hno : regionAt (q.off + n) { s with stile.near := [q], stile.nextGroup := s.stile.nextGroup + 1 } = none := hout n hlt
    simp only [targetAt, hbelow, if_false, hno, Option.map_none, Option.isSome_none, Bool.false_eq_true, not_false_eq_true]
  have hcut : cutNear 0 q.len q [q] = [] := if_pos (Nat.le_refl _)
  rw [takeNear, if_neg hpage, hnone]
  dsimp only
  rw [hfind, Option.getD_none, hcut]
  rfl

theorem stileRead_outside (hn : s.stile.near = []) (hs : s.stile.strictInForce = s.stile.strict) (hf : s.stile.far = [])
    (hb : off + len ≤ 0x3FFF000) (h0 : 0 < len) (h256 : len ≤ 256) (hout : ∀ n, n < len → regionAt (off + n) s = none)
    (hc : s.stile.timeoutCa = false) : ∃ t, exec (.stileRead r ⟨off, 255⟩ len) s = .next t ∧ t.stile.far = [] ∧
      .completion r (List.replicate len 0xFF) false ∈ t.wire ∧ t.ev.pending.getLsbD 9 = true := by
  have htake := takeNear_outside (q := nearOf r false off len 255 [] s) (s := s) hb h0 hout
  obtain ⟨e, w, b, l, x, o, hrefuse, hp⟩ := refusePiece_alone (len := len) (q := nearOf r false off len 255 [] s) (s := received s) hf rfl rfl hc
  have hget := receiveNear_takes hn hf (htake.trans hrefuse) rfl hs
  obtain ⟨_, _, _, hrel, -⟩ := releaseHeld_leaves { received s with
    ev := e, wire := .completion r (List.replicate len 0xFF) false :: w, hold.pme := b
    stile := { (received s).stile with far := [], errlog := l, errSeq := x, logOverflow := o, nextFar := (received s).stile.nextFar + 1 } }
  exact ⟨_, (stileRead_receives h0 h256).trans (congrArg Host.Outcome.next (hget.trans hrel)), rfl, List.mem_cons_self, hp⟩

end

/-- Settles O42: the registers and semaphores by what each access does, an access of the window by what its one far access becomes when it
is taken, completed or timed out. -/
theorem stileSemaphoresAndAccesses : Obligations.StileSemaphoresAndAccesses := by
  refine ⟨fun r o n g e v s => ⟨semTake_free, semTake_held, semTake_waits, semGive_owner, fun h => ?_, ?_, fun hn hs => ⟨?_, ?_, ?_, ?_, ?_⟩,
    rfl⟩,
    fun r off len g k id d a s hn hs => ⟨?_, ?_, ?_, ?_, ?_, ?_, ?_, ?_, ?_, rfl⟩⟩
  · obtain ⟨_, _, _, l, _, ht, hl⟩ := logError_leaves (errEntry r 5 15 0 0 (giveAddr n) 4 false false false) s
    refine ⟨_, (semGive_other h).trans (congrArg Host.Outcome.next ht), rfl,
      fun i hi => ⟨_, (congrArg (tget i) (hl i hi)).trans (tget_tset_same ..), rfl, rfl, rfl⟩⟩
  · obtain ⟨_, _, _, _, ht, hsame, hdiff⟩ := writeStileCtrl_leaves v s
    exact ⟨_, congrArg Host.Outcome.next ht, rfl, rfl, rfl, rfl, hsame, hdiff⟩
  · exact stileRegion_writes rfl hn hs
  · exact stileRegion_writes rfl hn hs
  · exact stileRegion_writes rfl hn hs
  · exact fun he hr => stileRegion_writes (writeRegion_enabled he hr) hn hs
  · exact fun he hr => stileRegion_writes (writeRegion_refused he hr) hn hs
  · intro hf hb h0 h256 hg hi hk hp hkept hw
    obtain ⟨t, x, ht, hx, hbuses⟩ := stileRead_image (r := r) ⟨hn, hs, hf, h256, ⟨hb, h0, hg, hi⟩, hk, hp, hkept⟩ hw
    exact ⟨t, x, ht, hx.far, hx.near, hx.id, hx.req, hx.write, hx.len, hx.result, hx.remote, hx.noKeep, hbuses, hx.data⟩
  · intro hf ho hb hg hi hk hp hkept hbase htarget hw
    have ha : farAddr g off s % 4 = 0 := by unfold farAddr; omega
    obtain ⟨t, x, ht, hx⟩ := stileRead_enabled (r := r) ⟨hn, hs, hf, by decide, ⟨hb, by decide, hg, hi⟩, by omega, hp, hkept⟩ ho ha hk hw
    exact ⟨t, x, ht, hx.far, hx.data⟩
  · intro hf hb hg hi hk hp hkept h13 hw
    obtain ⟨t, x, ht, hx, hc, ha⟩ :=
      stileRead_counter (r := r) ⟨hn, hs, hf, by decide, ⟨hb, by decide, hg, hi⟩, by omega, hp, hkept⟩ hk h13 hw
    exact ⟨t, x, ht, hx.far, hx.data, hc, ha⟩
  · intro hf hr h0 hb hg hi hk hp h64 h69 hfree
    exact stileWrite_pins ⟨hn, hs, hr, hf, ⟨hb, h0, hg, hi⟩, hk, hp, h64, h69, hfree⟩
  · exact fun hf hb h0 h256 hout hc => stileRead_outside hn hs hf hb h0 h256 hout hc
  · exact fun hf hw hr hnone h5 hl => farCompletion_read hf hr hnone hn hs hw h5 hl
  · exact fun hf hw hr hnone => farCompletion_write hf hr hnone hn hs hw
  · exact farCompletion_stale
  · exact fun hf hw hr hnone => farTimeout_write hf hr hnone hn hs hw

end Sys2Proof.Machine
end

section
/-! PROOF. The checks of a mailbox command in turn, staged commands and read requests, and ECHO (R2, R54, R345, R352, R361, R362, R365,
R376, R380, R454). -/

namespace Sys2Proof.Machine

/-! ### Commands refused by a check -/

section
variable {i : Instr} {k : Cmd} {c : Call} {st : Status} {s u : State}

/-- A command that its checks refuse is answered with the failing status. -/
theorem answers_refused (hi : mailboxCmd i = some (k, c)) (hc : Canonical u)
    (hs : serve k c s = respond k.opcode c none { status := st } u) : Answers i k.opcode c { status := st } s u := by
  refine ⟨_, exec_of_mailboxCmd hi s, ?_⟩
  rw [hs]
  exact respond_reports _ _ _ _ hc rfl

theorem serve_tagRefused (ht : takeable c.queue s = true) (hst : tagCheck c s = st) (hne : st ≠ .ok) :
    serve k c s = respond k.opcode c none { status := st } s := by
  simp [serve, ht, hst, hne]

/-- The same past the check of its tag, in the state that has taken it. -/
theorem answers_takenRefused (hi : mailboxCmd i = some (k, c)) (ht : takeable c.queue s = true) (hg : tagCheck c s = .ok)
    (hc : Canonical s) (hs : perform k c none (taken c s) = respond k.opcode c none { status := st } (taken c s)) :
    Answers i k.opcode c { status := st } s (taken c s) :=
  answers_refused hi (taken_canonical c s hc) ((taken_takes k c s ht hg).trans hs)

theorem perform_flagsRefused (hb : s.hold.bootPhase ≠ 5) (hst : flagCheck k c s = st) (hne : st ≠ .ok) :
    perform k c none s = respond k.opcode c none { status := st } s := by
  simp [perform, hb, hst, hne]

theorem perform_pathRefused (hb : s.hold.bootPhase ≠ 5) (hf : flagCheck k c s = .ok) (hp : c.pathReserved = true) :
    perform k c none s = respond k.opcode c none { status := .badParam } s := by
  simp [perform, hb, hf, hp]

theorem areaCheck_refuses (h : areaCheck c s ≠ .ok) : areaCheck c s = .badParam := by
  revert h
  unfold areaCheck
  split_ifs <;> simp

theorem perform_areaRefused (hb : s.hold.bootPhase ≠ 5) (hf : flagCheck k c s = .ok) (hp : c.pathReserved = false)
    (ha : areaCheck c s ≠ .ok) : perform k c none s = respond k.opcode c none { status := .badParam } s := by
  simp [perform, hb, hf, hp, areaCheck_refuses ha]

section
variable (hb : s.hold.bootPhase ≠ 5) (hf : flagCheck k c s = .ok) (hp : c.pathReserved = false) (ha : areaCheck c s = .ok)
include hb hf hp ha

theorem perform_noPlot (ht : target c s = .bad st) : perform k c none s = respond k.opcode c none { status := st } s := by
  simp [perform, hb, hf, hp, ha, ht]

theorem perform_refusedAt {p : Plot} {rest : List Nat} (ht : target c s = .at_ p rest) (hst : firstCheck k c p s = st) (hne : st ≠ .ok) :
    perform k c none s = respond k.opcode c none { status := st } s := by
  simp [perform, hb, hf, hp, ha, ht, hst, hne]

theorem perform_refusedSub {p : Plot} (ht : target c s = .sub p) (hst : firstCheck k c p s = st) (hne : st ≠ .ok) :
    perform k c none s = respond k.opcode c none { status := st } s := by
  simp [perform, hb, hf, hp, ha, ht, hst, hne]

end

theorem flagCheck_readRefused (ha : c.atomic = true) (hs : c.staged = true) (h : k.read.isNone = true ∨ c.bulkResult = false) :
    flagCheck k c s = .badParam := by
  rcases h with h | h <;> simp_all [flagCheck, isRead]

theorem flagCheck_notOfBank (h : c.atomic ≠ c.staged) (hk : k.bank = false) : flagCheck k c s = .badParam := by
  cases ha : c.atomic <;> cases hs : c.staged <;> simp_all [flagCheck, isRead]

theorem flagCheck_noRetill (ha : c.atomic = false) (hs : c.staged = true) (hk : k.bank = true) (hr : s.stw.retill = none) :
    flagCheck k c s = .notPermitted := by
  simp [flagCheck, isRead, ha, hs, hk, hr]

theorem taken_retill (c : Call) (s : State) : (taken c s).stw.retill = s.stw.retill := by
  obtain ⟨g, hg⟩ := taken_eq c s
  rw [hg]

theorem tagCheck_badTag (hq : c.queue ≠ 3) (ht : 47 < c.tag) : tagCheck c s = .badParam := by simp [tagCheck, hq, ht]

theorem tagCheck_busyTag (hq : c.queue ≠ 3) (ht : c.tag ≤ 47) (hb : tagBusy c.tag s = true) : tagCheck c s = .busy := by
  simp [tagCheck, hq, hb, Nat.not_lt.2 ht]

theorem tagCheck_staleTag (hq : c.queue ≠ 3) (ht : c.tag ≤ 47) (hb : tagBusy c.tag s = false) (hg : tget c.tag s.stw.tags = some c.gen) :
    tagCheck c s = .stale := by
  simp [tagCheck, hq, hb, hg, Nat.not_lt.2 ht]

end

/-- Settles O8: the tag is checked before the command is taken, the other checks of `perform` in turn on the state that has taken it. -/
theorem commandsAreCheckedInOrder : Obligations.CommandsAreCheckedInOrder := by
  refine ⟨fun i k c s hi ht hq hc => ⟨fun h => ?_, fun h hb => ?_, fun h hb hg => ?_⟩,
    fun i k c s hi ht hg hb hc => ?_, fun i k c s hi ht hg hb ha hs hp har hc => ?_⟩
  · exact answers_refused hi hc (serve_tagRefused ht (tagCheck_badTag hq h) (by decide))
  · exact answers_refused hi hc (serve_tagRefused ht (tagCheck_busyTag hq h hb) (by decide))
  · exact answers_refused hi hc (serve_tagRefused ht (tagCheck_staleTag hq h hb hg) (by decide))
  · have hb' : (taken c s).hold.bootPhase ≠ 5 := by rwa [taken_bootPhase]
    have refused {st : Status} := answers_takenRefused (st := st) hi ht hg hc
    refine ⟨fun ha hs h => ?_, fun h hk => ?_, fun ha hs hk hr => ?_, fun ha hs h => ?_, fun ha hs hp h => ?_⟩
    · exact refused (perform_flagsRefused hb' (flagCheck_readRefused ha hs h) (by decide))
    · exact refused (perform_flagsRefused hb' (flagCheck_notOfBank h hk) (by decide))
    · exact refused (perform_flagsRefused hb' (flagCheck_noRetill ha hs hk ((taken_retill c s).trans hr)) (by decide))
    · exact refused (perform_pathRefused hb' (flagCheck_plain k _ ha hs) h)
    · exact refused (perform_areaRefused hb' (flagCheck_plain k _ ha hs) hp h)
  · have hb' : (taken c s).hold.bootPhase ≠ 5 := by rwa [taken_bootPhase]
    have hf := flagCheck_plain k (taken c s) ha hs
    have refused {st : Status} := answers_takenRefused (st := st) hi ht hg hc
    exact ⟨fun st h => refused (perform_noPlot hb' hf hp har h),
      fun p rest st h hst hne => refused (perform_refusedAt hb' hf hp har h hst hne),
      fun p st h hst hne => refused (perform_refusedSub hb' hf hp har h hst hne)⟩

/-! ### Staged commands and read requests -/

section
variable {k : Cmd} {c : Call} {p : Plot} {s : State}

/-- Past its flags, a command that reaches a plot it applies to, and passes the check there, acts on that plot alone. -/
theorem Reaches.serve_single (h : Reaches c p s) (hf : flagCheck k c (taken c s) = .ok) (hk : firstCheck k c p (taken c s) = .ok)
    (ha : applies k.scope p = true) (hj : k.journaled = false) (hs : c.staged = true) :
    Machine.serve k c s = performSingle k c none p (taken c s) := by
  rw [h.serve hf, if_pos hk]
  simp [performAt, ha, hj, hs]

/-- R345: a staged change is made on the sown bank. -/
theorem actOn_staged (ha : c.atomic = false) (hs : c.staged = true) (hst : k.status = false) (hl : k.lacks s = false)
    (ho : k.own c s = .ok) (hk : (k.stage c (plotArg p) s s.sown).1 = .ok) :
    actOn k c p s = { inline := k.staged c (plotArg p) s s.sown (k.stage c (plotArg p) s s.sown).2
                      st := picked { s with sown := { (k.stage c (plotArg p) s s.sown).2 with
                        acts := (k.stage c (plotArg p) s s.sown).2.acts ++ k.marks c s } } } := by
  simp [actOn, isRead, ha, hs, hst, hl, ho, hk]

theorem flagCheck_staged (ha : c.atomic = false) (hs : c.staged = true) (hk : k.bank = true) (hr : s.stw.retill.isSome = true) :
    flagCheck k c s = .ok := by
  simp [flagCheck, isRead, ha, hs, hk, Option.isNone_eq_false_iff.2 hr]

theorem countDirect_staged (hs : c.staged = true) (st : Status) : countDirect k c st s = s := by simp [countDirect, hs]

/-- A command whose act leaves inline results alone answers with them. -/
theorem performSingle_inline {d : Bytes} {u : State} (hx : actOn k c p s = { inline := d, st := u }) (hs : c.staged = true) :
    performSingle k c none p s = respond k.opcode c none { inline := d } u := by
  simp [performSingle, hx, countDirect_staged hs, singleFinal]

/-- R380: a read request for one plot answers with the settings in force. -/
theorem performSingle_read {f : Call → Nat → State → Option Bytes} {d : Bytes} (hf : k.read = some f) (ha : c.atomic = true)
    (hs : c.staged = true) (hl : k.lacks s = false) (hd : f c (plotArg p) s = some d) :
    performSingle k c none p s = respond k.opcode c none { bulk := d } s := by
  have hx : actOn k c p s = { bulk := d, st := s } := by simp [actOn, isRead, ha, hs, hl, hf, hd]
  simp [performSingle, hx, countDirect_staged hs, singleFinal, isRead, ha, hs]

end

/-- Settles O9: both act on one plot, in the state that has taken the command. -/
theorem stagedCommandsAndReadRequests : Obligations.StagedCommandsAndReadRequests := by
  refine ⟨fun i k c p s hi hbank hj hst ht hg hb ha hs hr hp har htg hk hl ho hap hc hstage => ?_,
    fun op k c p s f d hop hf h hap hd hitem hj => ?_⟩
  · obtain ⟨g, hgen⟩ := taken_eq c s
    have hsown : (taken c s).sown = s.sown := by rw [hgen]
    have hreach : Reaches c p s := ⟨ht, hg, hb, hp, har, htg⟩
    have hflag : flagCheck k c (taken c s) = .ok := flagCheck_staged ha hs hbank (by rw [hgen]; exact hr)
    have hcheck : firstCheck k c p (taken c s) = .ok := by
      cases p <;> simp [firstCheck, isRead, ha, hk, hl]
    have hact := actOn_staged (p := p) ha hs hst hl ho (by rw [hsown]; exact hstage)
    rw [hsown] at hact
    refine ⟨_, exec_of_mailboxCmd hi s, ?_⟩
    rw [hreach.serve_single hflag hcheck hap hj hs, performSingle_inline hact hs]
    simp only [picked, taken_free]
    exact respond_reports _ _ _ _ (taken_canonical c s hc) rfl
  · obtain ⟨ht, hg, hb, ha, hs, hbulk, hread, hp, har, htg, hl, -, hc⟩ := h
    have hreach : Reaches { c with atomic := true, staged := true } p s := ⟨ht, hg, hb, hp, har, htg⟩
    have hflag : flagCheck k { c with atomic := true, staged := true } (taken c s) = .ok := by
      have hbulk' : c.bulkResult = true := hbulk
      simp [flagCheck, isRead, hread, hbulk']
    have hserve : serveOpcode op { c with atomic := true, staged := true } s =
        serve k { c with atomic := true, staged := true } s := by rw [serveOpcode, hop]
    refine ⟨_, rfl, ?_⟩
    rw [hserve, hreach.serve_single hflag rfl hap hj rfl, performSingle_read hf rfl rfl hl hd]
    exact respond_reports _ _ _ _ (taken_canonical c s hc) rfl

/-! ### ECHO -/

/-- Settles O10: ECHO's act is its two results. -/
theorem echoReturnsItsParameters : Obligations.EchoReturnsItsParameters := by
  intro c s h hlen
  have hx : cmdEcho.act c 0 (taken c s) = { inline := c.params, bulk := c.bulk, st := taken c s } := by
    simp only [cmdEcho, fit_of_length hlen]
  exact answers_ok h _ rfl rfl (.inl rfl) rfl (.inl rfl) hx rfl rfl rfl rfl (answerOf_plain rfl) h.taken_canonical

/-! ### The queue -/

/-- Settles O1: `step` by its second case. -/
theorem stepRunsFrontCommand : Obligations.StepRunsFrontCommand := fun _ _ _ => rfl

end Sys2Proof.Machine
end

section
/-! PROOF. The commands on the plot tree (R41 to R46, R60, R381 to R384). -/

namespace Sys2Proof.Machine


@[simp] theorem putMember_field (t pos ref : Nat) (s : State) : (putMember t pos ref s).field = s.field := by
  unfold putMember
  split <;> rfl

/-- A command whose work is its inline result and its next state. -/
theorem answers_inline {i : Instr} {k : Cmd} {op : Nat} {c : Call} {p : Plot} {s u : State} {st : Status} {d : Bytes} (h : Heard k c p s)
    (hk : CmdOk k) (ha : applies k.scope p = true) (ho : k.opcode = op) (he : exec i s = .next (serve k c s)) (hj : k.journaled = false)
    (hb : k.bank = false ∨ k.status = true) (hx : k.act c (plotArg p) (taken c s) = { status := st, inline := d, st := u }) :
    Answers i op c { status := st, inline := d } s u :=
  answers_ok h _ ho he (.inl ha) hj hb hx rfl rfl rfl rfl (by simp [answerOf]) (h.act_canonical hk hx)

/-! ### What each command does -/

section
variable {c : Call} {t n pos : Nat} {s : State}

/-- R381: a row of this device has no members. -/
theorem actPlotDescribe_row (hl : isLocal (u32 c.params 0) s = true) (hk : refKind (u32 c.params 0) = 0)
    (hg : refGen (u32 c.params 0) = 0) (hn : refNum (u32 c.params 0) < 512) :
    actPlotDescribe c t s =
      { inline := le 4 (mkRef 0 0 (ownDev s) (refNum (u32 c.params 0))) ++ le 2 0 ++ le 2 (holders (.row (refNum (u32 c.params 0))) s) ++
          le 1 (rowState (refNum (u32 c.params 0)) s) ++ le 1 (u8 (bindOf (refNum (u32 c.params 0)) s) 0) ++ le 2 0
        st := s } := by
  have hr : resolveRef (u32 c.params 0) s = .row (refNum (u32 c.params 0)) := by simp [resolveRef, hl, hk, Nat.mod_eq_of_lt hn]
  have hw : refWellFormed (u32 c.params 0) = true := by simp [refWellFormed, hk, hg, hn]
  simp [actPlotDescribe, hl, hw, hk, hr, refOf, memberCount, memberList, Nat.mod_eq_of_lt hn]

/-- R46: a group created anew since has another generation than the reference. -/
theorem actPlotDescribe_stale (hl : isLocal (u32 c.params 0) s = true) (hk : refKind (u32 c.params 0) = 1)
    (hn : refNum (u32 c.params 0) < 1024) (hu : (groupOf (refNum (u32 c.params 0)) s).used = true)
    (hg : (groupOf (refNum (u32 c.params 0)) s).gen ≠ refGen (u32 c.params 0)) :
    actPlotDescribe c t s = { status := .stale, st := s } := by
  have hr : resolveRef (u32 c.params 0) s = .stale (u32 c.params 0) := by simp [resolveRef, hl, hk, Nat.mod_eq_of_lt hn, hg]
  have hw : refWellFormed (u32 c.params 0) = true := by simp [refWellFormed, hk, hn]
  simp [actPlotDescribe, hl, hw, hk, hr, hu]

/-- R41, R382: a group not in use is made at a free position. -/
theorem actGroupCreate_free
    (hn : (if u16 c.params 0 = 0xFFFF then firstBelow 1024 (fun g => !(groupOf g s).used) else some (u16 c.params 0)) = some n)
    (hp : (if flag c.params 3 0 then freePosition t s else some (u8 c.params 2)) = some pos) (h16 : t = 0 → 16 ≤ pos)
    (hu : (groupOf n s).used = false) (ht : posTaken t pos s = false) :
    actGroupCreate c t s =
      { inline := le 4 (mkRef 1 (((groupOf n s).gen + 1) % 16) (ownDev s) n) ++ le 1 pos
        st := putMember t pos (mkRef 1 (((groupOf n s).gen + 1) % 16) 255 n)
          (setPlots { s.plots with groups := tset n { used := true, gen := ((groupOf n s).gen + 1) % 16, members := [] } s.plots.groups } s) } := by
  have hplace : ¬ (t = 0 ∧ pos < 16) := fun h => Nat.not_lt.2 (h16 h.1) h.2
  simp only [actGroupCreate, hn, hp, hu, ht, Bool.and_eq_true, decide_eq_true_eq, hplace, if_false, Bool.or_self, Bool.false_eq_true, ownDev,
    putMember_field]
  rfl

theorem actGroupDelete_empty (hm : (groupOf n s).members = []) :
    actGroupDelete c (n + 1) s =
      { st := setPlots { top := (dropGroup n s).top
                         groups := tset n { groupOf n s with used := false, members := [] } (dropGroup n s).groups } s } := by
  simp [actGroupDelete, hm]

/-- R384: what may become a member is put at a free position. -/
theorem actAttach_free (hc : attachCheck t (u32 c.params 4) s = .ok)
    (hp : (if flag c.params 2 0 then freePosition t s else some (u8 c.params 1)) = some pos) (h16 : t = 0 → 16 ≤ pos)
    (ht : posTaken t pos s = false) : actAttach c t s = { st := putMember t pos (normRef (u32 c.params 4) s) s } := by
  have hplace : ¬ (t = 0 ∧ pos < 16) := fun h => Nat.not_lt.2 (h16 h.1) h.2
  simp only [actAttach, hc, hp, ht, Bool.and_eq_true, decide_eq_true_eq, hplace, if_false, ne_eq, not_true, Bool.false_eq_true]

theorem actDetach_device (ht : posTaken 0 (u8 c.params 1) s = true) :
    actDetach c 0 s = { st := setPlots { s.plots with top := tdel (u8 c.params 1) s.plots.top } s } := by
  simp [actDetach, ht]

theorem actDetach_group (ht : posTaken (n + 1) (u8 c.params 1) s = true) :
    actDetach c (n + 1) s =
      { st := setPlots { s.plots with groups := tset n { groupOf n s with members := tdel (u8 c.params 1) (groupOf n s).members }
                                                 s.plots.groups } s } := by
  simp [actDetach, ht]

end

/-- Settles O11: each command's act on the state that has taken it; a group command applies to the device and to every group. -/
theorem plotTreeCommands : Obligations.PlotTreeCommands := by
  refine ⟨fun c r s h hr hl => ?_, fun c p s hp => ?_⟩
  · obtain ⟨g, hg⟩ := taken_eq c s
    subst hr
    refine ⟨fun hk hgen hn => ?_, fun hk hn hu hgen => ?_⟩ <;>
      refine answers_inline h cmdPlotDescribe_ok rfl rfl rfl rfl (.inl rfl) ?_ <;>
      rw [hg] at hl ⊢
    · exact actPlotDescribe_row (t := 0) hl hk hgen hn
    · exact actPlotDescribe_stale (t := 0) hl hk hn hu hgen
  · obtain ⟨g, hg⟩ := taken_eq c s
    have happ : applies .group p = true := by obtain rfl | ⟨_, rfl⟩ := hp <;> rfl
    refine ⟨fun n pos h hn hpos h16 hu ht => ⟨_, rfl, ?_⟩, fun n hpn h hm => ?_, fun pos h hc hpos h16 ht => ?_, fun h ht => ?_⟩
    · refine answers_inline h cmdPlotGroupCreate_ok happ rfl rfl rfl (.inl rfl) ?_
      rw [hg]
      exact actGroupCreate_free hn hpos h16 hu ht
    · subst hpn
      refine answers_done h rfl rfl (.inl happ) rfl (.inl rfl) rfl cmdPlotGroupDelete_ok ?_
      rw [hg]
      exact actGroupDelete_empty (c := c) (s := { s with stw.tags := g }) hm
    · refine answers_done h rfl rfl (.inl happ) rfl (.inl rfl) rfl cmdPlotAttach_ok ?_
      rw [hg] at hc ⊢; exact actAttach_free hc hpos h16 ht
    · refine answers_done h rfl rfl (.inl happ) rfl (.inl rfl) rfl cmdPlotDetach_ok ?_
      rw [hg]
      obtain rfl | ⟨n, rfl⟩ := hp
      · exact actDetach_device ht
      · exact actDetach_group ht

end Sys2Proof.Machine
end

section
/-! PROOF. The Hedgerow's commands and those of the Tally units (R418 to R423, R430, R500, R501, R525). -/

namespace Sys2Proof.Machine

theorem ruleWrite_item : DirectItem cmdRuleWrite := ⟨rfl, rfl, rfl, rfl, cmdRuleWrite_ok⟩
theorem ruleClear_item : DirectItem cmdRuleClear := ⟨rfl, rfl, rfl, rfl, cmdRuleClear_ok⟩
theorem policerSet_item : DirectItem cmdPolicerSet := ⟨rfl, rfl, rfl, rfl, cmdPolicerSet_ok⟩
theorem zoneSet_item : DirectItem cmdZoneSet := ⟨rfl, rfl, rfl, rfl, cmdZoneSet_ok⟩
theorem tallyBind_item : DirectItem cmdTallyBind := ⟨rfl, rfl, rfl, rfl, cmdTallyBind_ok⟩
theorem tallyRelease_item : DirectItem cmdTallyRelease := ⟨rfl, rfl, rfl, rfl, cmdTallyRelease_ok⟩

/-! ### Rules, policers, zones -/

section
variable {c : Call} {s : State}

/-- R419, R420: a rule whose policer is on and whose mirror ring exists is stored, with its counters at zero. -/
theorem actRuleWrite_stores (hp : rulePolices (fit 88 c.bulk) = true → policerOn (u8 (fit 88 c.bulk) 85) s.bank = true)
    (hm : ruleMirrors (fit 88 c.bulk) = true → (tget (u8 (fit 88 c.bulk) 86) s.rings).isSome = true) :
    cmdRuleWrite.act c 0 s =
      { st := { s with bank.rules := tset (ruleIndex c) (fit 48 c.params ++ fit 88 c.bulk) s.bank.rules
                       harrow.rules := tdel (ruleIndex c) s.harrow.rules } } := by
  have hstage : stageRule c 0 s s.bank =
      (.ok, { s.bank with rules := tset (ruleIndex c) (fit 48 c.params ++ fit 88 c.bulk) s.bank.rules }) := by
    unfold stageRule
    generalize fit 88 c.bulk = r at hp hm
    have hpol : ¬ (rulePolices r && !policerOn (u8 r 85) s.bank) = true := by simpa using hp
    have hmir : ¬ (ruleMirrors r && (tget (u8 r 86) s.rings).isNone) = true := by simpa [Option.isSome_iff_ne_none] using hm
    rw [if_neg hpol, if_neg hmir]
  simp only [cmdRuleWrite, directAct, hstage, afterRule, if_true]

/-- R422, R501: a policer that was off starts full, and its counts are returned and cleared. -/
theorem actPolicer_fresh (hoff : flag (policerCfg (u8 c.params 0) s.bank) 1 0 = false) (hclear : flag c.params 1 2 = false) :
    actPolicer c 0 s =
      { inline := le 8 (policerRt (u8 c.params 0) s).conform ++ le 8 (policerRt (u8 c.params 0) s).exceed
        st := { s with
          bank.policers := tset (u8 c.params 0) (patch (fit 48 c.params) 1 [byte (u8 c.params 1 % 4)]) s.bank.policers
          harrow.policers := tset (u8 c.params 0) { policerRt (u8 c.params 0) s with
            level := (u32 c.params 8 : Nat), at_ := s.power.upNs, conform := 0, exceed := 0 } s.harrow.policers } } := by
  simp only [actPolicer, hoff, hclear, Bool.false_eq_true, if_false, policerImage]

end

/-- Settles O20: each command's act on the state that has taken it. -/
theorem hedgerowCommands : Obligations.HedgerowCommands := by
  rintro c z n s u rfl rfl rfl
  obtain ⟨g, hg⟩ := taken_eq c s
  refine ⟨fun h hp hm => ?_, fun h => ?_, fun h hoff hclear => ?_, fun h => ⟨_, ?_, rfl⟩⟩
  · exact ruleWrite_item.answers h rfl rfl rfl (by rw [hg]; exact actRuleWrite_stores hp hm)
  · exact answers_work h cmdRuleRead_ok rfl rfl rfl rfl (.inr rfl) (by rw [hg]; rfl)
  · exact policerSet_item.answers_inline h rfl rfl rfl (by rw [hg]; exact actPolicer_fresh hoff hclear)
  · exact zoneSet_item.answers_inline h rfl rfl rfl (by rw [hg]; rfl)

/-! ### RULE_CLEAR -/

/-- The entries that stay of a table are those whose keys stay. -/
theorem tget_filter {α : Type} (f : Nat → Bool) (k : Nat) (t : Tbl α) :
    tget k (t.filter (fun e => f e.1)) = if f k = true then tget k t else none := by
  induction t with
  | nil => simp [tget]
  | cons e t ih =>
    by_cases hk : e.1 = k
    · by_cases hf : f k = true <;> simp_all [tget]
    · by_cases hf : f e.1 = true <;> simp_all [tget]

theorem tget_cleared {α : Type} (c : Call) (r : Nat) (t : Tbl α) : tget r (t.filter (fun e => !clearRange c e.1)) =
    if u16 c.params 0 ≤ r ∧ r < u16 c.params 0 + u16 c.params 2 then none else tget r t := by
  rw [tget_filter (fun n => !clearRange c n)]
  by_cases h : u16 c.params 0 ≤ r ∧ r < u16 c.params 0 + u16 c.params 2 <;> simp [clearRange, ruleIndex, h]

/-- What a direct change leaves: it is noted in the Steward alone. -/
theorem directNoted_eq (s : State) : ∃ n, directNoted s = { s with stw.directChanges := n } := by
  unfold directNoted
  split
  · exact ⟨_, rfl⟩
  · exact ⟨s.stw.directChanges, rfl⟩

/-- R421: RULE_CLEAR's range holds a rule and ends with rule 2047. -/
theorem ruleClear_check {c : Call} {s : State} : cmdRuleClear.check c s = .ok → u16 c.params 0 + u16 c.params 2 ≤ 2048 ∧ 1 ≤ u16 c.params 2 := by
  intro h
  have h := need_eq_ok.1 h
  simp only [Bool.and_eq_true, within, decide_eq_true_eq, ruleIndex] at h
  obtain ⟨⟨-, hone, -⟩, hend⟩ := h
  exact ⟨of_decide_eq_true hend, hone⟩

theorem need_ne_ok {b : Bool} (h : need b ≠ .ok) : need b = .badParam := by
  cases b
  · rfl
  · exact absurd rfl h

/-- The check of a plot of this device is the command's own. -/
theorem firstCheck_local {k : Cmd} {c : Call} {p : Plot} {s : State} (ha : c.atomic = false) (hp : ∀ x, p ≠ .remote x) (hl : k.lacks s = false) :
    firstCheck k c p s = k.check c s := by
  cases p <;> simp_all [firstCheck, isRead]

/-- Settles O21: the range is checked before the act, and clearing filters the rules and their counters by it. -/
theorem ruleClearClearsARange : Obligations.RuleClearClearsARange := by
  rintro c p rest f n s rfl rfl
  refine ⟨fun ht hg hb ha hs hp har htg hrem hc hbad => ?_, fun h => ?_⟩
  · have hcheck : firstCheck cmdRuleClear c p (taken c s) = .badParam := by
      rw [firstCheck_local ha hrem rfl]
      refine need_ne_ok fun h => ?_
      have := ruleClear_check (s := s) h
      omega
    exact answers_takenRefused (i := .ruleClear c) rfl ht hg hc (perform_refusedAt (by rwa [taken_bootPhase])
      (flagCheck_plain _ _ ha hs) hp har htg hcheck (by decide))
  · obtain ⟨g, hg⟩ := taken_eq c s
    obtain ⟨hend, hone⟩ := ruleClear_check h.check_ok
    have hx : cmdRuleClear.act c 0 (taken c s) =
        { inline := le 2 (s.bank.rules.filter (fun e => clearRange c e.1)).length
          st := { taken c s with bank.rules := s.bank.rules.filter (fun e => !clearRange c e.1)
                                 harrow.rules := s.harrow.rules.filter (fun e => !clearRange c e.1) } } := by
      rw [hg]; rfl
    refine ⟨hend, hone, _, ruleClear_item.answers_inline h rfl rfl rfl hx, ?_, fun r => ?_, fun r => ?_⟩
    all_goals
      rw [hg]
      obtain ⟨d, hd⟩ := directNoted_eq { s with stw.tags := g
                                                bank.rules := s.bank.rules.filter (fun e => !clearRange c e.1)
                                                harrow.rules := s.harrow.rules.filter (fun e => !clearRange c e.1) }
      rw [hd]
    · exact hd.symm
    · exact tget_cleared ..
    · exact tget_cleared ..

/-! ### Tally units -/

section
variable {c : Call} {n : Nat} {s : State}

theorem afterTallyBind_bank (u : State) : (afterTallyBind c n u s).bank = s.bank := by
  unfold afterTallyBind
  dsimp only
  split_ifs <;> rfl

/-- R429: a free unit is bound to a row that fits its mode or to a route there is. -/
theorem actTallyBind_free (hn : tget (u8 c.params 0) s.bank.tallies = none)
    (hfit : (if flag c.params 1 0 then tallyRoute c.params s.bank
       else tallyRowOk (flag c.params 1 1) (tgetD (fld c.params 2 0 9) [] s.bank.bind)) = true) :
    cmdTallyBind.act c n s =
      { st := afterTallyBind c n s { s with bank.tallies := tset (u8 c.params 0) (fit 48 c.params) s.bank.tallies } } := by
  have hstage : stageTallyBind c n s s.bank = (.ok, { s.bank with tallies := tset (u8 c.params 0) (fit 48 c.params) s.bank.tallies }) := by
    simp only [stageTallyBind, hn, hfit, Option.isSome_none, Bool.false_eq_true, if_false, if_true]
  simp only [cmdTallyBind, directAct, hstage, if_true]

theorem actTallyRelease_free (hn : tget (u8 c.params 0) s.bank.tallies = none) : actTallyRelease c 0 s = { st := s } := by
  simp only [actTallyRelease, hn]

/-- R430: a unit bound to a route skips no sentence when it is released. -/
theorem actTallyRelease_route {i : Img} (hn : tget (u8 c.params 0) s.bank.tallies = some i) (hr : flag i 1 0 = true) :
    actTallyRelease c 0 s =
      { st := { s with bank.tallies := tdel (u8 c.params 0) s.bank.tallies
                       harrow.tallies := tset (u8 c.params 0) { tallyRt (u8 c.params 0) s with alive := none } s.harrow.tallies } } := by
  simp only [actTallyRelease, hn, hr, Bool.not_true, Bool.false_and, Bool.false_eq_true, if_false]
  rfl

end

/-- Settles O24: each command's act on the state that has taken it. -/
theorem tallyCommands : Obligations.TallyCommands := by
  rintro c n s u rfl rfl
  obtain ⟨g, hg⟩ := taken_eq c s
  refine ⟨fun h hn hfit => ?_, fun h hn => ?_, fun i h hn hr => ?_, fun h => ?_⟩
  · refine ⟨_, tallyBind_item.answers h rfl rfl rfl (actTallyBind_free (by rw [hg]; exact hn) (by rw [hg]; exact hfit)), ?_⟩
    rw [afterTallyBind_bank, hg]
  · exact tallyRelease_item.answers h rfl rfl rfl (actTallyRelease_free (by rw [hg]; exact hn))
  · exact tallyRelease_item.answers h rfl rfl rfl (by rw [hg]; exact actTallyRelease_route (s := { s with stw.tags := g }) hn hr)
  · have hx : cmdTallyState.act c 0 (taken c s) =
        { inline := (actTallyState c 0 s).inline, bulk := (actTallyState c 0 s).bulk
          st := if flag c.params 1 0 = true then taken c s
            else { taken c s with
              harrow.tallies := tset (u8 c.params 0)
                { alive := (tallyRt (u8 c.params 0) s).alive, aliveShown := (tallyRt (u8 c.params 0) s).aliveShown
                  lastMismatch := (tallyRt (u8 c.params 0) s).lastMismatch } s.harrow.tallies } } := by
      rw [hg]; rfl
    exact answers_ok h _ rfl rfl (.inl rfl) rfl (.inl rfl) hx rfl rfl rfl rfl (answerOf_plain rfl) (h.act_canonical cmdTallyState_ok hx)

end Sys2Proof.Machine
end

section
/-! PROOF. The power, Fallow, wake and sleep-agreement commands (R435 to R441). -/

namespace Sys2Proof.Machine

/-! ### The networks of sleep agreement -/

section
variable (n : Nat) (v : Nm) (s : State)

@[simp] theorem netOf_setNet : netOf n (setNet n v s) = v := tgetD_tset_same ..

theorem netOf_setNet_other {k : Nat} (h : k ≠ n) : netOf k (setNet n v s) = netOf k s := tgetD_tset_other h ..

@[simp] theorem setNet_setNet (w : Nm) : setNet n v (setNet n w s) = setNet n v s := by
  simp only [setNet, tset_tset]

/-- The last need's end changes the state of the network alone. -/
theorem needChecked_eq : needChecked n s =
    if (netOf n s).state = 1 ∧ nmNeeds (netOf n s) = false then setNet n { netOf n s with state := 2 } s else s := by
  simp [needChecked]

end

/-! ### What each command does -/

/-- A command whose work is to go long. -/
theorem starts_long {i : Instr} {k : Cmd} {op : Nat} {c : Call} {p : Plot} {s u : State} {b : OpBody} {n : Nat} (h : Heard k c p s)
    (hk : CmdOk k) (ha : applies k.scope p = true) (ho : k.opcode = op) (he : exec i s = .next (serve k c s)) (hj : k.journaled = false)
    (hb : k.bank = false ∨ k.status = true) (hx : k.act c (plotArg p) (taken c s) = { long := some b, opno := n, st := u }) :
    Starts i op c b n s u :=
  starts_ok h _ ho he (.inl ha) hj hb hx rfl rfl rfl (h.act_canonical hk hx)

theorem powerPolicySet_device : DeviceCmd cmdPowerPolicySet := ⟨rfl, rfl, rfl, rfl, cmdPowerPolicySet_ok⟩
theorem fallowPolicySet_device : DeviceCmd cmdFallowPolicySet := ⟨rfl, rfl, rfl, rfl, cmdFallowPolicySet_ok⟩
theorem wakeSourcesSet_device : DeviceCmd cmdWakeSourcesSet := ⟨rfl, rfl, rfl, rfl, cmdWakeSourcesSet_ok⟩
theorem nmConfig_device : DeviceCmd cmdNmConfig := ⟨rfl, rfl, rfl, rfl, cmdNmConfig_ok⟩
theorem nmRequest_device : DeviceCmd cmdNmRequest := ⟨rfl, rfl, rfl, rfl, cmdNmRequest_ok⟩
theorem wakeCause_device : DeviceCmd cmdWakeCause := ⟨rfl, rfl, rfl, rfl, cmdWakeCause_ok⟩
theorem paceState_device : DeviceCmd cmdPaceState := ⟨rfl, rfl, rfl, rfl, cmdPaceState_ok⟩

section
variable {c : Call} {s : State}

theorem targetState_sleeps {n : Nat} (h : n ≠ 1) : targetState n ≠ .listen := by
  unfold targetState leftState
  split <;> simp_all

/-- R436: with no record open and a source that outlives the state an entry starts. -/
theorem actFallowEnter_starts (hl : openCount s.stw.ledger = 0) (hb : entryBusy s = false)
    (hs : (survivors (targetState (u8 c.params 0)) s).isEmpty = false) (h1 : u8 c.params 0 ≠ 1) :
    actFallowEnter c 0 s =
      { long := some (.fallow (u8 c.params 0))
        st := { s with power.entering := some (targetState (u8 c.params 0))
                       power.entryStep := if flag c.params 1 0 || netsAsleep s then 2 else 1 } } := by
  have hlisten : (targetState (u8 c.params 0) == .listen) = false := by simpa using targetState_sleeps h1
  simp only [actFallowEnter, hl, hb, hs, hlisten, ne_eq, not_true, decide_false, Bool.or_self, Bool.false_and, Bool.false_eq_true,
    if_false]

theorem actNmConfig_sameMode (hm : nmMode (netOf (u8 (fit 48 c.params) 0) s) = u8 (fit 48 c.params) 1) :
    actNmConfig c 0 s =
      { st := setNet (u8 (fit 48 c.params) 0) { netOf (u8 (fit 48 c.params) 0) s with img := fit 48 c.params } s } := by
  simp only [actNmConfig, hm, bne_self_eq_false, Bool.false_and, Bool.false_eq_true, if_false, if_true]

/-- R438: a network that was off enters CAN agreement Needed or Ready. -/
theorem actNmConfig_starts (hm : nmMode (netOf (u8 (fit 48 c.params) 0) s) = 0) (hq : u8 (fit 48 c.params) 1 = 1)
    (hs : (netOf (u8 (fit 48 c.params) 0) s).state = 0) :
    actNmConfig c 0 s =
      { st := setNet (u8 (fit 48 c.params) 0)
          { netOf (u8 (fit 48 c.params) 0) s with
            img := fit 48 c.params, state := if nmNeeds (netOf (u8 (fit 48 c.params) 0) s) then 1 else 2
            token := false, consent := false, runStart := 255, ring := [], confQueued := false } s } := by
  simp [actNmConfig, hm, hq, hs]

/-- R439: giving up a need may leave the network Ready. -/
theorem actNmRequest_givesUp (hm : nmMode (netOf (u8 c.params 0) s) ≠ 0) (h0 : u8 c.params 1 = 0) :
    actNmRequest c 0 s =
      { inline := le 1 (netOf (u8 c.params 0)
          (needChecked (u8 c.params 0) (setNet (u8 c.params 0) { netOf (u8 c.params 0) s with need := false } s))).state
        st := needChecked (u8 c.params 0) (setNet (u8 c.params 0) { netOf (u8 c.params 0) s with need := false } s) } := by
  simp only [actNmRequest, hm, h0, if_false]

theorem needChecked_need (n : Nat) : (netOf n (needChecked n s)).need = (netOf n s).need := by
  rw [needChecked_eq]
  split <;> simp

end

/-- Settles O26: each command's act on the state that has taken it. -/
theorem powerCommands : Obligations.PowerCommands := by
  rintro c q s u rfl rfl
  obtain ⟨g, hg⟩ := taken_eq c s
  refine ⟨fun h => ?_, fun h => ?_, fun h hl hb hs h1 => ?_, fun h => ?_, fun h hm => ?_, fun h hm hq hs => ?_,
    fun h hm h0 => ?_, fun h => ?_, fun h => ?_⟩
  · exact ⟨_, powerPolicySet_device.answers h rfl rfl rfl, rfl⟩
  · exact fallowPolicySet_device.answers h rfl rfl rfl
  · exact starts_long h cmdFallowEnter_ok rfl rfl rfl rfl (.inl rfl) (by rw [hg]; exact actFallowEnter_starts hl hb hs h1)
  · exact wakeSourcesSet_device.answers h rfl rfl rfl
  · exact nmConfig_device.answers h rfl rfl (by rw [hg]; exact actNmConfig_sameMode hm)
  · refine ⟨_, nmConfig_device.answers h rfl rfl (actNmConfig_starts (by rw [hg]; exact hm) hq (by rw [hg]; exact hs)), ?_, ?_⟩ <;>
      rw [netOf_setNet]
    rw [hg]; rfl
  · refine ⟨_, nmRequest_device.answers h rfl rfl (actNmRequest_givesUp (by rw [hg]; exact hm) h0), ?_⟩
    rw [needChecked_need, netOf_setNet]
  · exact wakeCause_device.answers h rfl rfl (by rw [hg]; rfl)
  · exact paceState_device.answers h rfl rfl (by rw [hg]; rfl)

end Sys2Proof.Machine
end

section
/-! PROOF. Re-till by command, and the first chunk of a firmware image (R362, R366, R455 to R459). -/

namespace Sys2Proof.Machine

/-! ### Re-till -/

section
variable {c : Call} {n : Nat} {s : State}

theorem flag_zero {i : Img} {o : Nat} : flag i o 0 = decide (u8 i o % 2 = 1) := by
  have h : ule i o 8 = u8 i o + 256 * ule i (o + 1) 7 := rfl
  have hmod : (u8 i o + 256 * ule i (o + 1) 7) / 1 % 2 = u8 i o % 2 := by omega
  simp only [flag, fld, h, Nat.pow_zero, Nat.pow_one, hmod]

theorem flag_one {i : Img} {o : Nat} : flag i o 1 = decide (u8 i o / 2 % 2 = 1) := by
  have h : ule i o 8 = u8 i o + 256 * ule i (o + 1) 7 := rfl
  have hmod : (u8 i o + 256 * ule i (o + 1) 7) / 2 % 2 = u8 i o / 2 % 2 := by omega
  simp only [flag, fld, h, Nat.pow_one, hmod]

/-- R455: without an image the sown bank stands as a copy of the standing bank or empty. -/
theorem actRetillBegin_opens (hh : sownHeld s = false) (hl : openCount s.stw.ledger < 16) (hf : flag c.params 0 1 = false) :
    actRetillBegin c 0 s =
      { inline := le 4 0 ++ le 4 0xFFFFFFFF ++ le 1 0, opno := s.stw.nextOpno
        st := { openRecord 0x0F01 c (c.queue == 3) s with
          sown := if flag c.params 0 0 then s.bank else {}
          stw := { (openRecord 0x0F01 c (c.queue == 3) s).stw with retill := some s.stw.nextOpno, directChanges := 0 } } } := by
  have hbit : u8 c.params 0 / 2 % 2 = 0 := by
    have := of_decide_eq_false (flag_one ▸ hf)
    omega
  simp only [actRetillBegin, hh, Nat.not_le.2 hl, hbit, flag_zero, decide_eq_true_eq, Bool.false_eq_true, if_false, if_true]
  rfl

theorem actRetillBegin_held (hh : sownHeld s = true) : actRetillBegin c 0 s = { status := .busy, st := s } := by
  simp only [actRetillBegin, hh, if_true]

/-- R366: the spare slot is the one not standing. -/
theorem writeSpareSlot_eq : ∃ a b, writeSpareSlot n s = { s with fixed.bankA := a, fixed.bankB := b } ∧
    (s.fixed.bankSel = 0 → b = some (n, { s.sown with acts := [] }) ∧ a = s.fixed.bankA) := by
  unfold writeSpareSlot
  dsimp only
  split
  · exact ⟨_, _, rfl, fun _ => ⟨rfl, rfl⟩⟩
  · next h => exact ⟨_, _, rfl, fun h0 => absurd h0 h⟩

theorem nowNs_writeSpareSlot : nowNs (writeSpareSlot n s) = nowNs s := by
  obtain ⟨_, _, hw, -⟩ := writeSpareSlot_eq (n := n) (s := s)
  rw [hw]
  rfl

theorem writeSpareSlot_upNs : (writeSpareSlot n s).power.upNs = s.power.upNs := by
  obtain ⟨_, _, hw, -⟩ := writeSpareSlot_eq (n := n) (s := s)
  rw [hw]

theorem raiseTarget_eq (s : State) : ∃ a b q, raiseTarget s = { s with power := { s.power with slots := a, bandwidth := b, preq := q } } :=
  ⟨_, _, _, (raiseTarget_does s).1⟩

theorem raiseTarget_alm : (raiseTarget s).alm = s.alm := by
  obtain ⟨_, _, _, h⟩ := raiseTarget_eq s
  rw [h]

theorem raiseTarget_upNs : (raiseTarget s).power.upNs = s.power.upNs := by
  obtain ⟨_, _, _, h⟩ := raiseTarget_eq s
  rw [h]

theorem raiseTarget_fixed : (raiseTarget s).fixed = s.fixed := by
  obtain ⟨_, _, _, h⟩ := raiseTarget_eq s
  rw [h]

theorem nowNs_raiseTarget : nowNs (raiseTarget s) = nowNs s := by simp only [nowNs, raiseTarget_alm]

/-- What taking the command and writing the spare slot leave alone gives the demand. -/
theorem demandOf_writeSpareSlot (b : Bank) : demandOf b (writeSpareSlot n (taken c s)) = demandOf b s := by
  obtain ⟨g, hg⟩ := taken_eq c s
  obtain ⟨_, _, hw, -⟩ := writeSpareSlot_eq (n := n) (s := taken c s)
  rw [hw, hg]
  rfl

theorem writeSpareSlot_banks : (writeSpareSlot n (taken c s)).bank = s.bank ∧ (writeSpareSlot n (taken c s)).sown = s.sown := by
  obtain ⟨g, hg⟩ := taken_eq c s
  obtain ⟨_, _, hw, -⟩ := writeSpareSlot_eq (n := n) (s := taken c s)
  rw [hw, hg]
  exact ⟨rfl, rfl⟩

/-- R31: before a commit the target is that of the larger of the two banks. -/
theorem raiseTarget_spareSlot : (raiseTarget (writeSpareSlot n (taken c s))).power.slots = max (demandOf s.bank s).1 (demandOf s.sown s).1 ∧
    (raiseTarget (writeSpareSlot n (taken c s))).power.bandwidth = max (demandOf s.bank s).2 (demandOf s.sown s).2 := by
  obtain ⟨-, hslots, hband, -⟩ := raiseTarget_does (writeSpareSlot n (taken c s))
  obtain ⟨hbank, hsown⟩ := writeSpareSlot_banks (n := n) (c := c) (s := s)
  rw [hslots, hband]
  simp only [demandOf_writeSpareSlot, hbank, hsown, and_self]

/-- R456: a bank that passes its check is written to the spare slot and waits for its flip. -/
theorem actRetillCommit_waits (hr : s.stw.retill = some n) (hc : s.stw.committing = false) (hl : loading s = false) (hs : sownFault s = none) :
    actRetillCommit c 0 s =
      { long := some (.retillFlip (u64 c.params 0) s.power.upNs), opno := n
        st := { raiseTarget (writeSpareSlot n s) with
          stw := { (raiseTarget (writeSpareSlot n s)).stw with committing := true, flip := some (max (u64 c.params 0) (nowNs s)) } } } := by
  simp only [actRetillCommit, hr, hc, hl, hs, Bool.or_self, Bool.false_eq_true, if_false, nowNs_raiseTarget, raiseTarget_upNs,
    nowNs_writeSpareSlot, writeSpareSlot_upNs]

theorem actRetillCommit_faulty {op i : Nat} (hr : s.stw.retill = some n) (hc : s.stw.committing = false) (hl : loading s = false)
    (hs : sownFault s = some (op, i)) :
    actRetillCommit c 0 s = { status := .badParam, inline := fit 12 [] ++ le 2 op ++ le 2 i, opno := n, st := s } := by
  simp only [actRetillCommit, hr, hc, hl, hs, Bool.or_self, Bool.false_eq_true, if_false]

theorem actRetillCommit_closed (hr : s.stw.retill = none) : actRetillCommit c 0 s = { status := .notPermitted, st := s } := by
  simp only [actRetillCommit, hr]

theorem actRetillAbort_drops (hr : s.stw.retill = some n) (hl : loading s = false) (ho : commitOp s = none) :
    actRetillAbort c 0 s = { st := closeRecord n .cancelled (dropRetill s) } := by
  simp only [actRetillAbort, hr, hl, ho, Bool.false_eq_true, if_false]

/-- A command whose work is an answer under a Ledger number, and its next state. -/
theorem answers_numbered {i : Instr} {k : Cmd} {op : Nat} {p : Plot} {u : State} {st : Status} {d : Bytes} (h : Heard k c p s)
    (hk : CmdOk k) (ha : applies k.scope p = true) (ho : k.opcode = op) (he : exec i s = .next (serve k c s)) (hj : k.journaled = false)
    (hb : k.bank = false ∨ k.status = true) (hx : k.act c (plotArg p) (taken c s) = { status := st, inline := d, opno := n, st := u }) :
    Answers i op c { status := st, inline := d, opno := n } s u :=
  answers_ok h _ ho he (.inl ha) hj hb hx rfl rfl rfl rfl (by simp [answerOf]) (h.act_canonical hk hx)

end

/-- Settles O45: each command's act on the state that has taken it. -/
theorem retillCommands : Obligations.RetillCommands := by
  rintro c n s u rfl
  obtain ⟨g, hg⟩ := taken_eq c s
  have hload (hl : loading s = false) : loading (taken c s) = false := by rw [hg]; exact hl
  refine ⟨fun h hh hl hf hn => ⟨_, ?_, rfl⟩, fun h hh => ?_, fun h hr hc hl hs => ⟨_, _, rfl, rfl, ?_, ?_, ?_, ?_⟩,
    fun op i h hr hc hl hs => ?_, fun h hr => ?_, fun h hr hl ho => ?_, fun h => ?_⟩
  · subst hn
    refine answers_numbered h cmdRetillBegin_ok rfl rfl rfl rfl (.inl rfl) ?_
    rw [hg]
    exact actRetillBegin_opens (s := { s with stw.tags := g }) hh hl hf
  · exact answers_inline h cmdRetillBegin_ok rfl rfl rfl rfl (.inl rfl) (actRetillBegin_held (by rw [hg]; exact hh))
  · refine starts_long h cmdRetillCommit_ok rfl rfl rfl rfl (.inl rfl) ?_
    rw [hg]
    exact actRetillCommit_waits (s := { s with stw.tags := g }) hr hc hl hs
  · exact raiseTarget_spareSlot.1
  · exact raiseTarget_spareSlot.2
  · intro h0
    obtain ⟨a, b, hw, hslot⟩ := writeSpareSlot_eq (n := n) (s := taken c s)
    rw [hg] at hw hslot
    obtain ⟨hb, ha⟩ := hslot h0
    simp only [hg, hw, raiseTarget_fixed, ha, hb, and_self]
  · exact answers_numbered h cmdRetillCommit_ok rfl rfl rfl rfl (.inl rfl)
      (by rw [hg]; exact actRetillCommit_faulty (s := { s with stw.tags := g }) hr hc hl hs)
  · exact answers_inline h cmdRetillCommit_ok rfl rfl rfl rfl (.inl rfl) (actRetillCommit_closed (by rw [hg]; exact hr))
  · exact answers_done h rfl rfl (.inl rfl) rfl (.inl rfl) rfl cmdRetillAbort_ok
      (by rw [hg]; exact actRetillAbort_drops (c := c) (s := { s with stw.tags := g }) hr hl ho)
  · have hx : cmdLedgerState.act c 0 (taken c s) = { actLedger c 0 s with st := taken c s } := by rw [hg]; rfl
    exact answers_ok h _ rfl rfl (.inl rfl) rfl (.inl rfl) hx rfl rfl rfl rfl rfl h.taken_canonical

/-! ### The first chunk of an image -/

theorem writeImage_hold (n : Nat) (i : Bytes) (s : State) : (writeImage n i s).hold = s.hold := by
  unfold writeImage
  split <;> rfl

/-- A chunk that begins the staging of an image, and does not end it. -/
structure FirstChunk (c : Call) (s : State) : Prop where
  activating : s.fw.activating = false
  operation : u32 c.params 0 = 0
  offset : u32 c.params 4 = 0
  nonempty : 0 < u32 c.params 8
  atMost : u32 c.params 8 ≤ 1048576
  staging : s.fw.staging = none
  room : openCount s.stw.ledger < 16
  goesOn : flag c.params 12 0 = false
  units : c.bulk.length % 8 = 0
  fits : c.bulk.length ≤ u32 c.params 8
  boot : s.hold.bootPhase ≠ 5

section
variable {c : Call} {s : State}

/-- R459: the result of a chunk counts the bytes staged so far. -/
theorem actFwStage_firstChunk (h : FirstChunk c s) :
    actFwStage c 0 s =
      { inline := stageResult s.stw.nextOpno c.bulk.length 0, opno := s.stw.nextOpno
        st := { writeImage (1 - s.fw.running) c.bulk (openRecord 0x0F05 c (c.queue == 3) s) with
          fw := { s.fw with staging := some (s.stw.nextOpno, u32 c.params 8, c.bulk), verified := false } } } := by
  obtain ⟨ha, h0, h4, hpos, hmax, hst, hl, hlast, h8, hfits, hb⟩ := h
  have hrange : ¬ (u32 c.params 4 ≠ 0 ∨ u32 c.params 8 = 0 ∨ 1048576 < u32 c.params 8) := by omega
  have hchunk : chunkOk (u32 c.params 8) c = true := by simp [chunkOk, hlast, h8, hfits]
  have hslot : stageSlot (openRecord 0x0F05 c (c.queue == 3) s) = 1 - s.fw.running := if_neg hb
  have htake : takeChunk s.stw.nextOpno (u32 c.params 8) [] c (openRecord 0x0F05 c (c.queue == 3) s) =
      { inline := stageResult s.stw.nextOpno c.bulk.length 0, opno := s.stw.nextOpno
        st := { writeImage (1 - s.fw.running) c.bulk (openRecord 0x0F05 c (c.queue == 3) s) with
          fw := { s.fw with staging := some (s.stw.nextOpno, u32 c.params 8, c.bulk), verified := false } } } := by
    simp only [takeChunk, List.length_nil, Nat.sub_zero, hchunk, hlast, List.nil_append, List.take_of_length_le hfits, hslot,
      Bool.not_true, Bool.false_eq_true, if_false]
    unfold writeImage
    split <;> rfl
  rw [actFwStage, ha, if_neg (by decide), if_pos h0, firstChunk, if_neg hrange, hst]
  simp only [Option.isSome_none, Bool.false_and, Bool.false_eq_true, if_false, Nat.not_le.2 hl, htake, reduceCtorEq]

theorem fwStage_firstChunk (h : Heard cmdFwStage c .device s) (hf : FirstChunk c s) : ∃ u,
    Answers (.fwStage c) 0x0F05 c { inline := stageResult s.stw.nextOpno c.bulk.length 0, opno := s.stw.nextOpno } s u ∧
      u = { writeImage (1 - s.fw.running) c.bulk (openRecord 0x0F05 c (c.queue == 3) (taken c s)) with
        fw := { s.fw with staging := some (s.stw.nextOpno, u32 c.params 8, c.bulk), verified := false } } := by
  obtain ⟨g, hg⟩ := taken_eq c s
  refine ⟨_, answers_numbered h cmdFwStage_ok rfl rfl rfl rfl (.inl rfl) ?_, rfl⟩
  rw [hg]
  exact actFwStage_firstChunk { hf with }

end

/-- The response slot holds one image. -/
theorem Answers.image_eq {i : Instr} {op : Nat} {c : Call} {f f' : Final} {s u u' : State} (h : Answers i op c f s u)
    (h' : Answers i op c f' s u') (hn : c.noResponse = false) (hu : u.hold = u'.hold) :
    responseImage op c f = responseImage op c f' := by
  obtain ⟨t, ht, -, hr⟩ := h
  obtain ⟨t', ht', -, hr'⟩ := h'
  rw [ht] at ht'
  cases ht'
  rw [if_neg (by simp [hn])] at hr hr'
  obtain ⟨-, hread, -⟩ := hr
  obtain ⟨-, hread', -⟩ := hr'
  rw [← hread, ← hread', responseAddr, responseAddr, queueOf, queueOf, hu]

/-- The first 8 bytes of an image of 16. -/
def halfImage : Call := Tests.cmd (Tests.pm [(8, Tests.w 4 16)]) [] (List.replicate 8 1)

theorem halfImage_heard : Heard cmdFwStage halfImage .device Tests.upPart := Tests.heard_of_hears (by decide +kernel)

theorem halfImage_first : FirstChunk halfImage Tests.upPart := by constructor <;> decide +kernel

/-- Refutes O46: its clause for a first chunk gives the whole length of the image as the length staged so far, with no premise that the
chunk is the whole image. After `halfImage` on the started part the response says that 8 of the 16 bytes are staged;
`fwStage_firstChunk` is the clause with the length of the chunk. -/
theorem not_firmwareOperationAndResetCommands : ¬ Obligations.FirmwareOperationAndResetCommands := by
  rintro ⟨h, -⟩
  have hf := halfImage_first
  obtain ⟨hfirst, -⟩ := h halfImage 1 16 [] _ Tests.upPart _ _ rfl rfl rfl
  obtain ⟨v, hclaim, hv⟩ := hfirst halfImage_heard hf.activating (by decide +kernel) (by decide +kernel) (by decide +kernel)
    (by decide) (by decide) hf.staging hf.room (by decide +kernel) hf.units (by decide +kernel) rfl
  obtain ⟨u, hreal, hu⟩ := fwStage_firstChunk halfImage_heard hf
  have hhold : v.hold = u.hold := by simp only [hv, hu, writeImage_hold]
  have himage := hclaim.image_eq hreal rfl hhold
  exact absurd himage (by decide +kernel)

end Sys2Proof.Machine
end

section
/-! PROOF. Diagnostics: the self test at its turn, loopback of an endpoint, and the event log read (R451 to R453). -/

namespace Sys2Proof.Machine

/-! ### The self test -/

/-- The three bitmaps of R451 at their offsets. -/
theorem u8_three {a b c : Nat} (ha : a < 256) (hb : b < 256) (hc : c < 256) :
    u8 (le 1 a ++ le 1 b ++ le 1 c) 0 = a ∧ u8 (le 1 a ++ le 1 b ++ le 1 c) 1 = b ∧ u8 (le 1 a ++ le 1 b ++ le 1 c) 2 = c := by
  simp [le, byte, u8, Nat.mod_eq_of_lt ha, Nat.mod_eq_of_lt hb, Nat.mod_eq_of_lt hc]

theorem u8_lt (i : Img) (o : Nat) : u8 i o < 256 := (i.getD o 0).isLt

/-- R451: of the tests asked for those whose resource is free run, and each that ran passed or failed. -/
theorem actSelfTest_bitmaps (c : Call) (n : Nat) (s : State) : ∃ d, actSelfTest c n s = { inline := d, st := picked s } ∧
    u8 d 0 + u8 d 1 = (u8 c.params 0 &&& testable s) ∧ u8 d 2 = u8 c.params 0 - (u8 c.params 0 &&& testable s) := by
  refine ⟨_, rfl, ?_⟩
  have hasked := u8_lt c.params 0
  have hran : u8 c.params 0 &&& testable s ≤ u8 c.params 0 := Nat.and_le_left
  have hgood : (u8 c.params 0 &&& testable s) &&& (pick s % 32) ≤ u8 c.params 0 &&& testable s := Nat.and_le_left
  obtain ⟨h0, h1, h2⟩ := u8_three (a := (u8 c.params 0 &&& testable s) &&& (pick s % 32))
    (b := (u8 c.params 0 &&& testable s) - ((u8 c.params 0 &&& testable s) &&& (pick s % 32)))
    (c := u8 c.params 0 - (u8 c.params 0 &&& testable s)) (by omega) (by omega) (by omega)
  rw [h0, h1, h2]
  omega

/-- SELF_TEST at its turn, its record open, acts and keeps its answer. -/
theorem HasTurn.selfTests {o : Op} {ref : Nat} {s : State} (h : HasTurn o s) (hcode : o.opcode = 0x0E01) (hbody : o.body = .journal ref)
    (hcancel : o.cancel = false) (hfrom : o.from_ = none) (ha : o.call.atomic = false) (hst : o.call.staged = false) (hn : o.opno ≠ 0) :
    ∃ f t, exec .stewardStep s = .next t ∧ Done o f (picked s) t ∧ f.status = .ok ∧
      u8 f.inline 0 + u8 f.inline 1 = (u8 o.call.params 0 &&& testable s) ∧
      u8 f.inline 2 = u8 o.call.params 0 - (u8 o.call.params 0 &&& testable s) := by
  obtain ⟨d, hact, hd⟩ := actSelfTest_bitmaps o.call (plotArg (resolveRef ref s)) s
  have hx : actOn cmdSelfTest o.call (resolveRef ref s) s = { inline := d, st := picked s } := by
    rw [← hact]
    simp only [actOn, isRead, ha, hst]
    rfl
  have hk : cmdOf o.opcode o.call = some cmdSelfTest := by rw [hcode]; rfl
  have hponr : ponrNext cmdSelfTest o s = false := by simp [ponrNext, cmdSelfTest]
  obtain ⟨t, ht, hdone⟩ := h.acts hbody hcancel hk hponr hx rfl rfl rfl hn rfl
  refine ⟨_, t, ht, hdone, rfl, ?_⟩
  rw [hfrom]
  exact hd

/-! ### Loopback of a port -/

/-- The loopback modes with that of an endpoint set; mode 0 is not listed. -/
def loopSet (k mode : Nat) (t : Tbl Nat) : Tbl Nat := if mode = 0 then tdel k t else tset k mode t

theorem loopSet_same (k mode : Nat) (t : Tbl Nat) : tgetD k 0 (loopSet k mode t) = mode := by
  unfold loopSet
  split
  · next h => rw [tgetD, tget_tdel_same, h]; rfl
  · exact tgetD_tset_same ..

theorem loopSet_other {j k : Nat} (h : j ≠ k) (mode : Nat) (t : Tbl Nat) : tgetD j 0 (loopSet k mode t) = tgetD j 0 t := by
  unfold loopSet
  split
  · rw [tgetD, tget_tdel_other h]; rfl
  · exact tgetD_tset_other h ..

/-- `t` has the field buses, the port settings and the lane modes of `s`. -/
structure SameSetup (s t : State) : Prop where
  buses : t.buses = s.buses
  config : t.ports.config = s.ports.config
  lanes : t.ports.lanes = s.ports.lanes

section
variable {p : Nat} {s t u : State}

theorem SameSetup.refl (s : State) : SameSetup s s := ⟨rfl, rfl, rfl⟩

theorem SameSetup.trans (h : SameSetup s t) (g : SameSetup t u) : SameSetup s u :=
  ⟨g.buses.trans h.buses, g.config.trans h.config, g.lanes.trans h.lanes⟩

theorem OnlyCounts.sameSetup (h : OnlyCounts s t) : SameSetup s t := by
  obtain ⟨_, _, _, rfl⟩ := h
  exact ⟨rfl, rfl, rfl⟩

theorem VerifyMoved.sameSetup (h : VerifyMoved p s t) : SameSetup s t := by
  rw [h.rest]
  exact ⟨rfl, rfl, rfl⟩

theorem frameCut_sameSetup (p : Nat) (c : Copy) (s : State) : SameSetup s (frameCut p c s) := by
  obtain ⟨_, _, _, _, _, h⟩ := endCopy_same c s
  rw [frameCut, h]
  exact ⟨rfl, rfl, rfl⟩

theorem wireCut_sameSetup (p : Nat) (s : State) : SameSetup s (wireCut p s) := by
  unfold wireCut
  split
  · next c _ => exact SameSetup.trans (t := unwirePort p s) ⟨rfl, rfl, rfl⟩ (frameCut_sameSetup ..)
  · exact .refl s

theorem heldCut_sameSetup (p : Nat) (s : State) : SameSetup s (heldCut p s) := by
  unfold heldCut
  split
  · next c _ => exact SameSetup.trans (t := { s with drill.portHeld := tdel p s.drill.portHeld }) ⟨rfl, rfl, rfl⟩ (frameCut_sameSetup ..)
  · exact .refl s

theorem dropLink_sameSetup (p : Nat) (s : State) : SameSetup s (dropLink p s) := by
  have hforget : SameSetup (heldCut p (wireCut p s)) (pausesForgotten p (heldCut p (wireCut p s))) := ⟨rfl, rfl, rfl⟩
  rw [dropLink_eq]
  exact (((wireCut_sameSetup p s).trans (heldCut_sameSetup ..)).trans hforget).trans (verifyAnew_keeps p _).1.sameSetup

theorem raise_sameSetup (n o : Nat) (s : State) : SameSetup s (raise n o s) := by
  rw [raise_frame]
  exact ⟨rfl, rfl, rfl⟩

theorem setPort_sameSetup (p : Nat) (v : PortRt) (s : State) : SameSetup s (setPort p v s) := ⟨rfl, rfl, rfl⟩

theorem goDown_sameSetup (p : Nat) (s : State) : SameSetup s (goDown p s) :=
  (setPort_sameSetup ..).trans (raise_sameSetup 16 p _)

theorem takeDown_sameSetup (p : Nat) (s : State) : SameSetup s (takeDown p s) :=
  (((updateCredits_onlyCounts p s).trans (countPort_onlyCounts p 45 1 _)).sameSetup.trans (dropLink_sameSetup ..)).trans
    (goDown_sameSetup ..)

theorem goUp_sameSetup (p speed : Nat) (s : State) : SameSetup s (goUp p speed s) :=
  ((setPort_sameSetup ..).trans (raise_sameSetup ..)).trans (startVerify_verifyMoved ..).sameSetup

/-- The port with its link taken Down. -/
def unlinked (p : Nat) (s : State) : State := if (portRt p s).link then takeDown p s else s

theorem unlinked_sameSetup (p : Nat) (s : State) : SameSetup s (unlinked p s) := by
  unfold unlinked
  split
  · exact takeDown_sameSetup p s
  · exact .refl s

theorem unlinked_link (p : Nat) (s : State) : (portRt p (unlinked p s)).link = false := by
  unfold unlinked
  split
  · rw [takeDown, portRt_goDown]; rfl
  · next h => exact Bool.eq_false_iff.2 h

/-- The port Down, with its loopback mode set. -/
def loopPlaced (p mode : Nat) (s : State) : State :=
  { unlinked p s with buses.loopback := loopSet p mode (unlinked p s).buses.loopback }

theorem loopPort_eq (p mode : Nat) (s : State) : loopPort p mode s =
    if mode = 1 && portPresent p s && portEnabled p s then goUp p (loopSpeed p s) (loopPlaced p mode s) else loopPlaced p mode s := by
  obtain ⟨-, hconfig, hlanes⟩ := unlinked_sameSetup p s
  have hpresent : portPresent p (loopPlaced p mode s) = portPresent p s := by
    simp only [portPresent, laneMode, loopPlaced, hlanes]
  have hcfg : portCfg p (loopPlaced p mode s) = portCfg p s := by simp only [portCfg, loopPlaced, hconfig]
  have henabled : portEnabled p (loopPlaced p mode s) = portEnabled p s := by rw [portEnabled, hcfg, portEnabled]
  have hspeed : loopSpeed p (loopPlaced p mode s) = loopSpeed p s := by rw [loopSpeed, hcfg, loopSpeed]
  rw [← hpresent, ← henabled, ← hspeed]
  rfl

/-- R452: the mode of the port and of no other endpoint is set. -/
theorem loopPort_loopback (p mode : Nat) (s : State) : (loopPort p mode s).buses.loopback = loopSet p mode s.buses.loopback := by
  have hplaced : (loopPlaced p mode s).buses.loopback = loopSet p mode s.buses.loopback := by
    rw [loopPlaced, (unlinked_sameSetup p s).buses]
  rw [loopPort_eq]
  split
  · rw [(goUp_sameSetup ..).buses, hplaced]
  · exact hplaced

theorem loopPort_off (p : Nat) (s : State) : (portRt p (loopPort p 0 s)).link = false := by
  rw [loopPort_eq, if_neg (by simp)]
  exact unlinked_link p s

/-- R452: internal loopback takes an enabled port Up at its configured speed. -/
theorem loopPort_internal (hp : portPresent p s = true) (he : portEnabled p s = true) :
    (portRt p (loopPort p 1 s)).link = true ∧ (portRt p (loopPort p 1 s)).speed = loopSpeed p s := by
  rw [loopPort_eq, if_pos (by simp [hp, he])]
  obtain ⟨hlink, hspeed, -⟩ := goUp_does p (loopSpeed p s) (loopPlaced p 1 s)
  exact ⟨hlink, hspeed⟩

end

/-! ### The commands -/

theorem loopbackSet_device : DeviceCmd cmdLoopbackSet := ⟨rfl, rfl, rfl, rfl, cmdLoopbackSet_ok⟩

section
variable {c : Call} {s : State}

theorem actLoopback_same (h : tgetD (16 * u8 c.params 0 + u8 c.params 1) 0 s.buses.loopback = u8 c.params 2) :
    actLoopback c 0 s = { st := s } := if_pos h

theorem actLoopback_bus (h : tgetD (16 * u8 c.params 0 + u8 c.params 1) 0 s.buses.loopback ≠ u8 c.params 2) (h0 : u8 c.params 0 ≠ 0) :
    actLoopback c 0 s =
      { st := { s with buses.loopback := loopSet (16 * u8 c.params 0 + u8 c.params 1) (u8 c.params 2) s.buses.loopback } } := by
  simp only [actLoopback, h, h0, if_false, loopSet]

theorem actLoopback_port (h : tgetD (16 * u8 c.params 0 + u8 c.params 1) 0 s.buses.loopback ≠ u8 c.params 2) (h0 : u8 c.params 0 = 0) :
    actLoopback c 0 s = { st := loopPort (u8 c.params 1) (u8 c.params 2) s } := by
  simp only [actLoopback, h, if_false]
  rw [if_pos h0]

/-- A port that a command on it passed is one of this device (R2). -/
theorem Heard.loopPort_present (h : Heard cmdLoopbackSet c .device s) (h0 : u8 c.params 0 = 0) :
    portPresent (u8 c.params 1) (taken c s) = true := by
  obtain ⟨-, -, -, -, -, -, -, -, -, -, hown, -⟩ := h
  have hown := need_eq_ok.1 hown
  simpa [h0] using hown

end

/-- Settles O44: SELF_TEST by `HasTurn.selfTests`, the others by their acts on the state that has taken the command. -/
theorem diagnosticCommands : Obligations.DiagnosticCommands := by
  rintro c k q s u rfl rfl rfl
  obtain ⟨g, hg⟩ := taken_eq c s
  simp only [u8_fit (show 0 < 48 by decide), u8_fit (show 1 < 48 by decide), u8_fit (show 2 < 48 by decide)]
  refine ⟨fun h hl => starts_journaled h rfl rfl (.inl rfl) rfl hl, fun o h _ ho ha hst hn => ?_, fun h hsame => ?_, fun h hdiff h0 => ?_,
    fun h hdiff h0 => ⟨_, loopbackSet_device.answers h rfl rfl (actLoopback_port (by rw [hg]; exact hdiff) h0), ?_, ?_, ?_, ?_⟩, fun h => ?_⟩
  · have hcall : o.call = c := by rw [ho]
    rw [← hcall] at ha hst ⊢
    exact h.selfTests (by rw [ho]) (by rw [ho]) (by rw [ho]) (by rw [ho]) ha hst hn
  · exact loopbackSet_device.answers h rfl rfl (actLoopback_same (by rw [hg]; exact hsame))
  · refine loopbackSet_device.answers h rfl rfl ?_
    rw [hg]
    exact actLoopback_bus hdiff h0
  · rw [h0, Nat.mul_zero, Nat.zero_add, loopPort_loopback]
    exact loopSet_same ..
  · intro m hm
    rw [h0, Nat.mul_zero, Nat.zero_add] at hm
    rw [loopPort_loopback, loopSet_other hm, hg]
  · intro hmode
    rw [hmode]
    exact loopPort_off ..
  · intro hmode he
    have hup := loopPort_internal (h.loopPort_present h0) (by rw [hg]; exact he)
    rw [hmode]
    rw [hg] at hup ⊢
    exact hup
  · have hx : cmdEventLogRead.act c 0 (taken c s) =
        { actLogRead c 0 s with st := { taken c s with ev := { s.ev with log := (actLogRead c 0 s).st.ev.log } } } := by rw [hg]; rfl
    exact answers_ok h _ rfl rfl (.inl rfl) rfl (.inl rfl) hx rfl rfl rfl rfl rfl (h.act_canonical cmdEventLogRead_ok hx)

end Sys2Proof.Machine
end

section
/-! PROOF. The timers and messages of sleep agreement (R547 to R555). -/

namespace Sys2Proof.Machine

/-! ### The end of a command in flight keeps the power domain -/

/-- The power domain of `s` stands in `t`, and what `s` emitted stays emitted. -/
structure KeepsPower (s t : State) : Prop where
  power : t.power = s.power
  wire : s.wire ⊆ t.wire

theorem KeepsPower.refl (s : State) : KeepsPower s s := ⟨rfl, List.Subset.refl _⟩

theorem KeepsPower.trans {s t u : State} (h : KeepsPower s t) (g : KeepsPower t u) : KeepsPower s u :=
  ⟨g.power.trans h.power, List.Subset.trans h.wire g.wire⟩

/-- A change of neither the power domain nor what is emitted. -/
theorem KeepsPower.same {s t u : State} (h : KeepsPower s t) (hp : u.power = t.power) (hw : u.wire = t.wire) : KeepsPower s u :=
  ⟨hp.trans h.power, hw ▸ h.wire⟩

theorem setPending_keepsWire (n : Nat) (s : State) : s.wire ⊆ (setPending n s).wire := by
  unfold setPending
  dsimp only
  split
  · exact (deliver_onlySends n { s with ev := Events.settle { s.ev with pending := s.ev.pending ||| bitAt 64 n } }).wire
  · exact List.Subset.refl _

theorem raiseD_keepsPower (n d o : Nat) (s : State) : KeepsPower s (raiseD n d o s) := by
  refine ⟨by rw [raiseD_frame], ?_⟩
  have hlog : (logEvent n d o s).wire = s.wire := by simp only [logEvent]
  unfold raiseD
  generalize logEvent n d o s = u at hlog ⊢
  rw [← hlog]
  dsimp only
  split
  · exact List.Subset.refl _
  · exact setPending_keepsWire n u

theorem raise_keepsPower (n o : Nat) (s : State) : KeepsPower s (raise n o s) := raiseD_keepsPower n 0 o s

theorem foldl_keepsPower {α : Type} {f : State → α → State} (hf : ∀ s a, KeepsPower s (f s a)) (l : List α) (s : State) :
    KeepsPower s (l.foldl f s) :=
  foldl_keeps (fun t => KeepsPower s t) f (fun _ _ h => h.trans (hf _ _)) l s (.refl s)

theorem splitWrites_keepsWire (n m a : Nat) (d : Bytes) (s : State) : s.wire ⊆ (splitWrites n m a d s).wire := by
  induction m generalizing a d s with
  | zero => exact List.Subset.refl _
  | succ m ih =>
    unfold splitWrites
    split
    · exact List.Subset.refl _
    · exact List.Subset.trans (List.subset_cons_self _ _) (ih (a + n) (d.drop n) (emit (.hostWrite a (d.take n)) s))

theorem hostPut_keepsPower (a : Nat) (d : Bytes) (s : State) : KeepsPower s (hostPut a d s) := by
  refine ⟨?_, splitWrites_keepsWire ..⟩
  obtain ⟨w, hw⟩ := hostPut_frame a d s
  rw [hw]

theorem OnlyPosts.keepsPower {s t : State} (h : OnlyPosts s t) : KeepsPower s t := by
  obtain ⟨_, _, rfl⟩ := h
  exact ⟨rfl, List.Subset.refl _⟩

theorem writeBulk_keepsPower (c : Call) (d : Bytes) (s : State) : KeepsPower s (writeBulk c d s) := by
  unfold writeBulk
  split
  · exact .refl s
  · split
    · split
      · exact hostPut_keepsPower ..
      · exact .refl s
    · exact ⟨rfl, List.Subset.refl _⟩

theorem writeResponse_keepsPower (op : Nat) (c : Call) (f : Final) (s : State) : KeepsPower s (writeResponse op c f s) := by
  refine (writeBulk_keepsPower c f.bulk s).trans ?_
  unfold writeResponse
  generalize writeBulk c f.bulk s = u
  dsimp only
  split
  · exact ⟨rfl, List.Subset.refl _⟩
  · refine .trans ?_ (raise_keepsPower ..)
    exact ⟨rfl, List.Subset.refl _⟩

theorem answerForward_keepsPower (op : Nat) (c : Call) (w : FwdFrom) (f : Final) (s : State) :
    KeepsPower s (answerForward op c w f s) := by
  unfold answerForward
  dsimp only
  split
  · exact (sendAnswer_posts ..).keepsPower
  · exact (sendAnswer_posts ..).keepsPower.same rfl rfl

theorem respond_keepsPower (op : Nat) (c : Call) (w : Option FwdFrom) (f : Final) (s : State) : KeepsPower s (respond op c w f s) := by
  unfold respond
  split
  · exact ((writeResponse_keepsPower op c f s).same (u := setQueue 3 _ _) rfl rfl).trans (answerForward_keepsPower ..)
  · split
    · exact .refl s
    · split
      · exact writeBulk_keepsPower ..
      · exact writeResponse_keepsPower ..

theorem settled_keepsPower (f : Final) (s : State) : KeepsPower s (settled f s) := by
  unfold settled
  split <;> exact ⟨rfl, List.Subset.refl _⟩

theorem finishOp_keepsPower (o : Op) (f : Final) (s : State) : KeepsPower s (finishOp o f s) := by
  have hgone : KeepsPower s { settled f s with stw.ops := s.stw.ops.filter (fun x => x != o) } :=
    (settled_keepsPower f s).same rfl rfl
  unfold finishOp
  dsimp only
  split
  · exact hgone.same rfl rfl
  · refine .trans ?_ (raise_keepsPower ..)
    have hpassed := hgone.trans (foldl_keepsPower (fun s _ => raise_keepsPower 4 o.call.tag s)
      ((List.range 16).filter (fun k => decide (1 ≤ k ∧ o.progress < 4096 * k ∧
        4096 * k ≤ if (finalOf o f s).status = .ok then 65535 else (finalOf o f s).progress))) _)
    split
    · exact hpassed
    · exact hpassed.trans (respond_keepsPower ..)

theorem endOp_keepsPower (o : Op) (f : Final) (s : State) : KeepsPower s (endOp o f s) :=
  iteInduction (motive := KeepsPower s) (fun _ => finishOp_keepsPower ..) (fun _ => ⟨rfl, List.Subset.refl _⟩)

/-! ### An entry to Fallow that ends early -/

theorem cancelEntry_none {s : State} (h : s.power.entering = none) : cancelEntry s = s := by simp [cancelEntry, h]

/-- Of the power domain, what an entry that ends early leaves. -/
structure EntryEnded (s t : State) : Prop where
  nets : t.power.nets = s.power.nets
  entering : t.power.entering = none
  wire : s.wire ⊆ t.wire

theorem KeepsPower.entryEnded {s t u : State} (h : EntryEnded s t) (g : KeepsPower t u) : EntryEnded s u :=
  ⟨by rw [g.power, h.nets], by rw [g.power, h.entering], List.Subset.trans h.wire g.wire⟩

theorem cancelEntry_ended (s : State) : EntryEnded s (cancelEntry s) := by
  unfold cancelEntry
  split
  · next h => exact ⟨rfl, by simpa using h, List.Subset.refl _⟩
  · have hstop : EntryEnded s
        { s with power.entering := none, power.entryStep := 0, power.halted := false, stw.notServing := false } :=
      ⟨rfl, rfl, List.Subset.refl _⟩
    dsimp only
    split
    · exact (endOp_keepsPower ..).entryEnded hstop
    · exact hstop

/-- An agreement event is pending, and the newest of the log. -/
theorem agreementEvent_pending (net d : Nat) (s : State) : (agreementEvent net d s).ev.pending.getLsbD 57 = true :=
  raiseD_pending (by decide) (by decide)

theorem agreementEvent_logged (net d : Nat) (s : State) : Logged 57 d net (agreementEvent net d s) := raiseD_logged ..

theorem agreementEvent_power (net d : Nat) (s : State) : (agreementEvent net d s).power = s.power := (raiseD_keepsPower ..).power

theorem agreementEvent_netOf (k net d : Nat) (s : State) : netOf k (agreementEvent net d s) = netOf k s := by
  unfold netOf; rw [agreementEvent_power]

theorem agreementEvent_wire (net d : Nat) (s : State) : s.wire ⊆ (agreementEvent net d s).wire := (raiseD_keepsPower ..).wire

section
variable (net : Nat) (s : State)

theorem vetoed_ended : EntryEnded s (vetoed net s) := by
  obtain ⟨hnets, hentering, hwire⟩ := cancelEntry_ended (agreementEvent net 1 s)
  exact ⟨by rw [vetoed, hnets, agreementEvent_power], hentering, List.Subset.trans (agreementEvent_wire net 1 s) hwire⟩

@[simp] theorem netOf_vetoed (k : Nat) : netOf k (vetoed net s) = netOf k s := by unfold netOf; rw [(vetoed_ended net s).nets]

theorem vetoed_pending : (vetoed net s).ev.pending.getLsbD 57 = true :=
  (cancelEntry_held (.refl _)).pending 57 (agreementEvent_pending net 1 s)

theorem vetoed_logged (h : s.power.entering = none) : Logged 57 1 net (vetoed net s) := by
  rw [vetoed, cancelEntry_none (by rw [agreementEvent_power, h])]
  exact agreementEvent_logged net 1 s

end

/-! ### Sending and withdrawing -/

theorem canRecord_data (f : CanFrame) : (canRecord f).drop 16 = f.data := by
  unfold canRecord
  exact List.drop_left' (by simp [be_length])

/-- R550: an agreement message is sent as the statements say. -/
theorem sendNm_saysNm (net kind dest : Nat) (consent : Bool) (run : Nat) (s : State) :
    SaysNm net kind dest consent run s (sendNm net kind dest consent run s) := by
  unfold sendNm
  dsimp only
  split
  · next h16 =>
    split
    · next r hr =>
      refine ⟨rfl, fun h => absurd h16 h, fun _ r' hr' => ?_⟩
      obtain rfl : r = r' := Option.some.inj (hr.symm.trans hr')
      exact ⟨_, finishRec_done .steward _ _, rfl, rfl⟩
    · next hr => exact ⟨rfl, fun h => absurd h16 h, fun _ r' hr' => absurd (hr.symm.trans hr') (by simp)⟩
  · next h16 =>
    split
    · next r hr =>
      refine ⟨rfl, fun _ r' hr' => ?_, fun h => absurd h h16⟩
      obtain rfl : r = r' := Option.some.inj (hr.symm.trans hr')
      exact ⟨_, tgetD_tset_same .., rfl, rfl, canRecord_data _⟩
    · next hr => exact ⟨rfl, fun _ r' hr' => absurd (hr.symm.trans hr') (by simp), fun h => absurd h h16⟩

section
variable {net kind dest run : Nat} {consent : Bool} {s t : State}

theorem SaysNm.power (h : SaysNm net kind dest consent run s t) : t.power = s.power := by rw [h.1]
theorem SaysNm.ev (h : SaysNm net kind dest consent run s t) : t.ev = s.ev := by rw [h.1]
theorem SaysNm.wire (h : SaysNm net kind dest consent run s t) : t.wire = .nm net kind dest consent run :: s.wire := by rw [h.1]

theorem SaysNm.netOf (h : SaysNm net kind dest consent run s t) (k : Nat) : netOf k t = netOf k s := by
  unfold Machine.netOf; rw [h.power]

end

theorem withdraw_power (net : Nat) (s : State) :
    (withdraw net s).power = { s.power with nets := tset net { netOf net s with confQueued := false } s.power.nets } := rfl

theorem netOf_withdraw (net : Nat) (s : State) : netOf net (withdraw net s) = { netOf net s with confQueued := false } :=
  tgetD_tset_same ..

theorem netOf_withdraw_other {net k : Nat} (h : k ≠ net) (s : State) : netOf k (withdraw net s) = netOf k s := tgetD_tset_other h ..

/-- The rows of other controllers keep their queues when a confirmation is withdrawn. -/
theorem withdraw_rows {net r : Nat} (s : State) (h : r ∉ rowsOf s.bank 0 net) :
    tgetD r [] (withdraw net s).drill.rows = tgetD r [] s.drill.rows := by
  unfold tgetD withdraw setNet
  dsimp only
  congr 1
  generalize s.drill.rows = l
  induction l with
  | nil => rfl
  | cons e l ih =>
    obtain ⟨i, q⟩ := e
    by_cases hi : i = r
    · simp [tget, hi, h]
    · rw [List.map_cons]
      split <;> simp only [tget, if_neg hi, ih]

/-! ### The timers -/

section
variable {net : Nat} {v : Nm} {s : State}

theorem agreementEvent_keeps (net d : Nat) (s : State) :
    (∀ k, netOf k (agreementEvent net d s) = netOf k s) ∧ (agreementEvent net d s).power = s.power ∧
      (agreementEvent net d s).drill = s.drill ∧ (agreementEvent net d s).ev.pending.getLsbD 57 = true ∧
      Logged 57 d net (agreementEvent net d s) :=
  ⟨fun k => agreementEvent_netOf k net d s, agreementEvent_power .., raiseD_drill .., agreementEvent_pending .., agreementEvent_logged ..⟩

/-- R555: 5 ms after the wake message, the network is Needed or Ready by the needs beside the wake itself. -/
theorem exec_waking5Ms (h5 : (netOf net s).state = 5) : exec (.waking5Ms net) s = .next
    (if ((netOf net s).need || (netOf net s).traffic) = true then
      let u := setNet net { netOf net s with waking := false, state := 1, ownNeed := false } s
      if nmMode (netOf net s) = 1 then sendNm net 1 255 false 255 u else u
    else setNet net { netOf net s with waking := false, state := 2, ownNeed := false } s) := by
  show execWaking5Ms net s = _
  simp only [execWaking5Ms, nmNeeds, Bool.or_false]
  exact congrArg _ (if_pos h5)

/-- R551: the need of traffic ends. -/
theorem exec_needEnds (net : Nat) (s : State) : exec (.needEnds net) s = .next (setNet net { netOf net s with
    traffic := false
    state := if (netOf net s).state = 1 ∧ (netOf net s).need = false ∧ (netOf net s).waking = false then 2 else (netOf net s).state }
      s) := by
  show execNeedEnds net s = _
  rw [execNeedEnds, needChecked_eq, netOf_setNet]
  by_cases h : (netOf net s).state = 1 ∧ (netOf net s).need = false ∧ (netOf net s).waking = false
  · rw [if_pos h, if_pos ⟨h.1, by simp [nmNeeds, h.2]⟩, setNet_setNet]
  · rw [if_neg h, if_neg (by simpa [nmNeeds] using h)]

/-- R555: the confirmation is on the medium. -/
theorem pointOfNoReturn_sleeps (hv : v = netOf net s) (h3 : v.state = 3) (hq : v.confQueued = true) :
    ∃ t, exec (.pointOfNoReturn net) s = .next t ∧
      netOf net t = { v with state := 4, confQueued := false, wakeHeld := false, ownNeed := false, token := false } ∧
      (∀ k, k ≠ net → netOf k t = netOf k s) ∧ t.power = { s.power with nets := t.power.nets } ∧ t.drill = s.drill ∧
      t.ev.pending.getLsbD 57 = true ∧ Logged 57 0 net t := by
  subst hv
  have hx : exec (.pointOfNoReturn net) s = .next (agreementEvent net 0 (setNet net
      { netOf net s with state := 4, confQueued := false, wakeHeld := false, ownNeed := false, token := false } s)) := by
    show execPointOfNoReturn net s = _
    rw [execPointOfNoReturn, if_pos ⟨h3, hq⟩]
  obtain ⟨hnets, hpower, hdrill, hpending, hlogged⟩ := agreementEvent_keeps net 0 (setNet net
      { netOf net s with state := 4, confQueued := false, wakeHeld := false, ownNeed := false, token := false } s)
  refine ⟨_, hx, ?_, fun k hk => ?_, by rw [hpower]; rfl, by rw [hdrill]; rfl, hpending, hlogged⟩
  · rw [hnets, netOf_setNet]
  · rw [hnets, netOf_setNet_other _ _ _ hk]

/-- R555: T_prep goes by without the confirmation. -/
theorem confirmationNotSent_sleeps (hv : v = netOf net s) (h3 : v.state = 3) (hq : v.confQueued = true) :
    ∃ t, exec (.confirmationNotSent net) s = .next t ∧
      netOf net t = { v with state := 4, confQueued := false, wakeHeld := false, ownNeed := false, token := false } ∧
      (∀ k, k ≠ net → netOf k t = netOf k s) ∧ t.power = { s.power with nets := t.power.nets } ∧
      (∀ r, r ∉ rowsOf s.bank 0 net → tgetD r [] t.drill.rows = tgetD r [] s.drill.rows) ∧
      t.ev.pending.getLsbD 57 = true ∧ Logged 57 3 net t := by
  subst hv
  have hx : exec (.confirmationNotSent net) s = .next (agreementEvent net 3 (setNet net
      { netOf net (withdraw net s) with state := 4, wakeHeld := false, ownNeed := false, token := false } (withdraw net s))) := by
    show execConfirmationNotSent net s = _
    rw [execConfirmationNotSent, if_pos ⟨h3, hq⟩]
  obtain ⟨hnets, hpower, hdrill, hpending, hlogged⟩ := agreementEvent_keeps net 3 (setNet net
      { netOf net (withdraw net s) with state := 4, wakeHeld := false, ownNeed := false, token := false } (withdraw net s))
  refine ⟨_, hx, ?_, fun k hk => ?_, by rw [hpower]; rfl, fun r hr => ?_, hpending, hlogged⟩
  · rw [hnets, netOf_setNet, netOf_withdraw]
  · rw [hnets, netOf_setNet_other _ _ _ hk, netOf_withdraw_other hk]
  · rw [hdrill]; exact withdraw_rows s hr

/-- R555: a held wake request is released. -/
theorem tMinSleep_wakes (hv : v = netOf net s) (h4 : v.state = 4) (hw : v.wakeHeld = true) :
    ∃ t, exec (.tMinSleep net) s = .next t ∧ netOf net t = { v with state := 5, wakeHeld := false, waking := true } ∧
      (∀ k, k ≠ net → netOf k t = netOf k s) ∧ t.power.netWoken = true ∧ .nm net 3 255 false 255 ∈ t.wire ∧
      (nmMode v = 2 → .nm net 6 255 false 255 ∈ t.wire) ∧ t.ev.pending.getLsbD 57 = true ∧ Logged 57 2 net t := by
  subst hv
  let u := setNet net { netOf net s with state := 5, wakeHeld := false, waking := true } { s with power.netWoken := true }
  have hwake := sendNm_saysNm net 3 255 false 255 u
  generalize hy : sendNm net 3 255 false 255 u = y at hwake
  have halive := sendNm_saysNm net 6 255 false 255 y
  have hx : exec (.tMinSleep net) s =
      .next (agreementEvent net 2 (if nmMode (netOf net s) = 2 then sendNm net 6 255 false 255 y else y)) := by
    show execTMinSleep net s = _
    rw [execTMinSleep, if_pos ⟨h4, hw⟩, ← hy]
  obtain ⟨z, hz, hzp, hzw, hzr⟩ : ∃ z, (if nmMode (netOf net s) = 2 then sendNm net 6 255 false 255 y else y) = z ∧
      z.power = u.power ∧ .nm net 3 255 false 255 ∈ z.wire ∧ (nmMode (netOf net s) = 2 → .nm net 6 255 false 255 ∈ z.wire) := by
    refine ⟨_, rfl, ?_⟩
    split
    · exact ⟨halive.power.trans hwake.power, by simp [halive.wire, hwake.wire], fun _ => by simp [halive.wire]⟩
    · next hm => exact ⟨hwake.power, by simp [hwake.wire], fun h => absurd h hm⟩
  have hnet (k : Nat) : netOf k z = netOf k u := by unfold netOf; rw [hzp]
  obtain ⟨hnets, hpower, -, hpending, hlogged⟩ := agreementEvent_keeps net 2 z
  have hwire := agreementEvent_wire net 2 z
  rw [hz] at hx
  refine ⟨_, hx, ?_, fun k hk => ?_, by rw [hpower, hzp]; rfl, hwire hzw, fun hm => hwire (hzr hm), hpending, hlogged⟩
  · rw [hnets, hnet]; exact netOf_setNet ..
  · rw [hnets, hnet]; exact netOf_setNet_other _ _ _ hk

end

/-- Settles O51: each timer by its own rule; a network is touched through `setNet` alone. -/
theorem networkTimers : Obligations.NetworkTimers := by
  unfold Obligations.NetworkTimers
  intro net v s hv
  refine ⟨fun hm h1 => ?_, fun hm h2 => ?_, fun h3 hq => ?_,
    fun h3 hq => ⟨pointOfNoReturn_sleeps hv h3 hq, confirmationNotSent_sleeps hv h3 hq⟩,
    fun h4 hw => tMinSleep_wakes hv h4 hw, fun h5 => ⟨fun hn hm => ?_, fun hn hm => ?_, fun hn => ?_⟩, ?_⟩
  all_goals subst hv
  · refine ⟨_, ?_, sendNm_saysNm net 1 255 false 255 s⟩
    show execTKa net s = _
    rw [execTKa, if_pos ⟨hm, h1⟩]
  · show execTSleep net s = _
    rw [execTSleep, if_pos ⟨hm, h2⟩]
  · refine ⟨_, sendNm_saysNm net 2 255 false 255 s, ?_⟩
    show execTPrep net s = _
    rw [execTPrep, if_pos ⟨h3, by simp [hq]⟩]
  · refine ⟨_, ?_, sendNm_saysNm net 1 255 false 255 _⟩
    rw [exec_waking5Ms h5, if_pos hn, if_pos hm]
  · rw [exec_waking5Ms h5, if_pos hn, if_neg hm]
  · rw [exec_waking5Ms h5, if_neg (by simp [hn])]
  · exact exec_needEnds net s

end Sys2Proof.Machine
end

section
/-! PROOF. The messages of sleep agreement (R547, R550, R553, R554). -/

namespace Sys2Proof.Machine

/-! ### What each act on a network does -/

section
variable {net : Nat} {s : State}

theorem hear_ring (node : Nat) (h : nmMode (netOf net s) = 2) :
    hear net node s = setNet net { netOf net s with ring := tset node s.power.upNs (netOf net s).ring } s := if_pos h

theorem hear_can (node : Nat) (h : nmMode (netOf net s) ≠ 2) : hear net node s = s := if_neg h

/-- R554: the token passed on, this node's round counted when it is the lowest. -/
theorem passToken_says (consent : Bool) (run : Nat) : SaysNm net 4 (successor (netOf net s) s.power.upNs) consent run
    (setNet net { netOf net s with
      token := false, round := if lowest (netOf net s) s.power.upNs then ((netOf net s).round + 1) % 256 else (netOf net s).round } s)
    (passToken net consent run s) := sendNm_saysNm ..

/-- A veto over a network whose state has just been set. -/
theorem vetoed_setNet (v : Nm) :
    netOf net (vetoed net (setNet net v s)) = v ∧ (∀ k, k ≠ net → netOf k (vetoed net (setNet net v s)) = netOf k s) ∧
      (vetoed net (setNet net v s)).ev.pending.getLsbD 57 = true ∧ (vetoed net (setNet net v s)).power.entering = none ∧
      (s.power.entering = none → Logged 57 1 net (vetoed net (setNet net v s))) :=
  ⟨by simp, fun k hk => by rw [netOf_vetoed, netOf_setNet_other _ _ _ hk], vetoed_pending .., (vetoed_ended ..).entering,
    fun h => vetoed_logged _ _ h⟩

/-- R554: a node that needs the bus says so, and keeps the token with consent clear. -/
theorem vetoHold_does :
    netOf net (vetoHold net s) = { netOf net s with token := true, consent := false, runStart := 255, state := 1 } ∧
      .nm net 7 255 false 255 ∈ (vetoHold net s).wire ∧ (vetoHold net s).ev.pending.getLsbD 57 = true ∧
      (s.power.entering = none → Logged 57 1 net (vetoHold net s)) := by
  have hsays := sendNm_saysNm net 7 255 false 255
    (setNet net { netOf net s with token := true, consent := false, runStart := 255, state := 1 } s)
  refine ⟨?_, (vetoed_ended ..).wire ?_, vetoed_pending .., fun h => vetoed_logged _ _ ?_⟩
  · unfold vetoHold
    rw [netOf_vetoed, hsays.netOf, netOf_setNet]
  · rw [hsays.wire]; exact List.mem_cons_self
  · rw [hsays.power]; exact h

end

/-! ### Messages on CAN -/

section
variable {net : Nat} {m : NmMsg} {s : State}

/-- R547: keep-alives and wake messages of other nodes on a CAN network are traffic that qualifies. -/
theorem exec_awake (hm : nmMode (netOf net s) = 1) (ho : m.source ≠ nmAddr (netOf net s)) (hq : nmMode (netOf net (qualify s)) = 1) :
    exec (.keepAlive net m) s = .next (otherAwake net (qualify s)) ∧
      exec (.wakeMessage net m) s = .next (otherAwake net (qualify s)) := by
  have hno : ¬ (nmMode (netOf net s) = 0 ∨ m.source = nmAddr (netOf net s)) := by simp [hm, ho]
  have hear := hear_can (net := net) (s := qualify s) m.source (by rw [hq]; decide)
  constructor
  · show execKeepAlive net m s = _
    rw [execKeepAlive, if_neg hno, hear]
  · show execWakeMessage net m s = _
    rw [execWakeMessage, if_neg hno, hear]

theorem otherAwake_else (h3 : (netOf net s).state ≠ 3) (h4 : (netOf net s).state ≠ 4) : otherAwake net s = s := by
  unfold otherAwake
  dsimp only
  split
  · next h => exact absurd h h3
  · next h => exact absurd h h4
  · rfl

theorem otherAwake_prepare (h3 : (netOf net s).state = 3) : otherAwake net s =
    vetoed net (setNet net { netOf net s with state := 2, confQueued := false } (withdraw net s)) := by
  simp only [otherAwake, h3, netOf_withdraw]

theorem otherAwake_asleep (h4 : (netOf net s).state = 4) : otherAwake net s =
    if s.power.armedFor.isSome = true then abandonEntry (netSource net) 255 255 (setNet net { netOf net s with wakeHeld := true } s)
    else setNet net { netOf net s with wakeHeld := true } s := by
  simp only [otherAwake, h4]
  rfl

end

/-! ### Messages on a ring -/

section
variable {net : Nat} {m : NmMsg} {s : State}

/-- A node's own message comes back to it without effect. -/
theorem exec_ownMessage (ho : m.source = nmAddr (netOf net s)) :
    exec (.keepAlive net m) s = .next s ∧ exec (.wakeMessage net m) s = .next s ∧ exec (.sleepConfirmation net m) s = .next s ∧
      exec (.token net m) s = .next s ∧ exec (.sleepIndication net m) s = .next s ∧ exec (.alive net m) s = .next s ∧
      exec (.veto net m) s = .next s ∧ exec (.prepareSleepAnnouncement net m) s = .next s := by
  refine ⟨?_, ?_, ?_, ?_, ?_, ?_, ?_, ?_⟩
  · show execKeepAlive net m s = _
    simp [execKeepAlive, ho]
  · show execWakeMessage net m s = _
    simp [execWakeMessage, ho]
  · show execSleepConfirmation net m s = _
    simp [execSleepConfirmation, ho]
  · show execToken net m s = _
    simp [execToken, ho]
  · show execSleepIndication net m s = _
    simp [execSleepIndication, ho]
  · show execAlive net m s = _
    simp [execAlive, ho]
  · show execVeto net m s = _
    simp [execVeto, ho]
  · show execPrepareSleepAnnouncement net m s = _
    simp [execPrepareSleepAnnouncement, ho]

section
variable (hm : nmMode (netOf net s) = 2) (ho : m.source ≠ nmAddr (netOf net s))
include hm ho

theorem exec_heardOnly :
    exec (.sleepConfirmation net m) s = .next (hear net m.source s) ∧ exec (.alive net m) s = .next (hear net m.source s) := by
  constructor
  · show execSleepConfirmation net m s = _
    simp [execSleepConfirmation, hm, ho]
  · show execAlive net m s = _
    simp [execAlive, hm, ho]

/-- R554: the announcement is followed, or vetoed by a node that needs the bus. -/
theorem exec_prepareSleepAnnouncement (h4 : (netOf net s).state ≠ 4) (h5 : (netOf net s).state ≠ 5) :
    exec (.prepareSleepAnnouncement net m) s = .next
      (if nmNeeds (netOf net s) then vetoHold net (hear net m.source s)
       else setNet net { netOf net (hear net m.source s) with state := 3, token := false } (hear net m.source s)) := by
  show execPrepareSleepAnnouncement net m s = _
  simp [execPrepareSleepAnnouncement, hm, ho, h4, h5]

/-- R554: outside Prepare-sleep and a sleep indication under way, a veto notes the node alone. -/
theorem exec_veto_else (h3 : (netOf net s).state ≠ 3) (h6 : (netOf net s).state ≠ 6) :
    exec (.veto net m) s = .next (hear net m.source s) := by
  have hstate : (netOf net (hear net m.source s)).state = (netOf net s).state := by rw [hear_ring _ hm, netOf_setNet]
  show execVeto net m s = _
  simp [execVeto, hm, ho, hstate, h3, h6]

/-- R554: a veto takes the ring back to operation. -/
theorem exec_veto_back (h36 : (netOf net s).state = 3 ∨ (netOf net s).state = 6) :
    ∃ t, exec (.veto net m) s = .next t ∧ (netOf net t).state = (if nmNeeds (netOf net s) then 1 else 2) ∧
      (netOf net t).confQueued = false ∧ t.ev.pending.getLsbD 57 = true ∧ (s.power.entering = none → Logged 57 1 net t) := by
  let u := hear net m.source s
  have hu : u = setNet net { netOf net s with ring := tset m.source s.power.upNs (netOf net s).ring } s := hear_ring _ hm
  have hnet : netOf net u = { netOf net s with ring := tset m.source s.power.upNs (netOf net s).ring } := by rw [hu, netOf_setNet]
  have hneeds : nmNeeds (netOf net u) = nmNeeds (netOf net s) := by rw [hnet]; rfl
  let x : Nm := { netOf net u with state := if nmNeeds (netOf net u) then 1 else 2, confQueued := false }
  have hx : { netOf net (withdraw net u) with state := if nmNeeds (netOf net u) then 1 else 2 } = x := by rw [netOf_withdraw]
  obtain ⟨hback, -, hpending, -, hlogged⟩ := vetoed_setNet (net := net) (s := withdraw net u) x
  have hlogged : s.power.entering = none → Logged 57 1 net (vetoed net (setNet net x (withdraw net u))) :=
    fun h => hlogged (by rw [withdraw_power, hu]; exact h)
  generalize hy : vetoed net (setNet net x (withdraw net u)) = y at hback hpending hlogged
  have hexec : exec (.veto net m) s = .next
      (if ((netOf net u).state = 3 && lowest (netOf net u) y.power.upNs) = true then passToken net false 255 y else y) := by
    have h36 : (netOf net u).state = 3 ∨ (netOf net u).state = 6 := by rw [hnet]; exact h36
    have hno : ¬ (nmMode (netOf net s) != 2 || m.source == nmAddr (netOf net s)) = true := by simp [hm, ho]
    show execVeto net m s = _
    rw [execVeto, if_neg hno, ← hy, ← hx]
    exact congrArg _ (if_pos h36)
  have hpass := passToken_says (net := net) (s := y) false 255
  refine ⟨_, hexec, ?_⟩
  split
  · refine ⟨?_, ?_, ?_, fun h => ?_⟩
    · rw [hpass.netOf, netOf_setNet, hback, ← hneeds]
    · rw [hpass.netOf, netOf_setNet, hback]
    · rw [hpass.ev]; exact hpending
    · unfold Logged; rw [hpass.ev]; exact hlogged h
  · exact ⟨by rw [hback, ← hneeds], by rw [hback], hpending, hlogged⟩

end

/-! ### The token and the sleep indication -/

section
variable (hm : nmMode (netOf net s) = 2) (ho : m.source ≠ nmAddr (netOf net s)) (h4 : (netOf net s).state ≠ 4)
variable {y : State} (hy : y = if m.consent then s else qualify s) {k : Nm} (hk : hear net m.source y = setNet net k y)
include hm ho h4 hy hk

/-- R554: the token's destination holds it; a ring whose sleep indication was under way is in operation again. -/
theorem exec_token : exec (.token net m) s = .next (setNet net
    (let v := if k.state = 6 then { k with state := if nmNeeds k then 1 else 2 } else k
     if m.dest = nmAddr k then { v with token := true, consent := m.consent, runStart := m.runStart, round := m.round } else v) y) := by
  subst hy
  have hno : ¬ (nmMode (netOf net s) != 2 || m.source == nmAddr (netOf net s) || (netOf net s).state == 4) = true := by
    simp [hm, ho, h4]
  have haddr : nmAddr (if k.state = 6 then { k with state := if nmNeeds k then 1 else 2 } else k) = nmAddr k := by split <;> rfl
  show execToken net m s = _
  rw [execToken, if_neg hno]
  simp only [hk, netOf_setNet, setNet_setNet, haddr]

/-- R554: the sleep indication's destination passes it on, announces Prepare-sleep when it sent it, or vetoes. -/
theorem exec_sleepIndication : exec (.sleepIndication net m) s = .next
    (if m.dest ≠ nmAddr k then setNet net k y
     else if nmNeeds k then vetoHold net (setNet net k y)
     else if m.runStart = nmAddr k then setNet net { k with state := 3 } (sendNm net 8 255 true (nmAddr k) (setNet net k y))
     else sendNm net 5 (successor k y.power.upNs) true m.runStart (setNet net { k with state := 6 } y)) := by
  subst hy
  have hno : ¬ (nmMode (netOf net s) != 2 || m.source == nmAddr (netOf net s) || (netOf net s).state == 4) = true := by
    simp [hm, ho, h4]
  show execSleepIndication net m s = _
  rw [execSleepIndication, if_neg hno]
  simp only [hk, netOf_setNet, setNet_setNet]
  rfl

end

end

/-! ### The token held, and its timeout -/

section
variable {net : Nat} {s : State} (hm : nmMode (netOf net s) = 2) (h4 : (netOf net s).state ≠ 4)
include hm h4

/-- The consent rules of R554. -/
theorem exec_tokenHold (ht : (netOf net s).token = true) : exec (.tokenHold net) s = .next
    (if nmNeeds (netOf net s) || (netOf net s).wakeHeld then passToken net false 255 (setNet net { netOf net s with wakeHeld := false } s)
     else if !(netOf net s).consent then passToken net true (nmAddr (netOf net s)) s
     else if (netOf net s).runStart = nmAddr (netOf net s) then
       sendNm net 5 (successor (netOf net s) s.power.upNs) true (nmAddr (netOf net s))
         (setNet net { netOf net s with token := false, state := 6 } s)
     else passToken net true (netOf net s).runStart s) := by
  have hno : ¬ (nmMode (netOf net s) != 2 || !(netOf net s).token || (netOf net s).state == 4) = true := by simp [hm, ht, h4]
  show execTokenHold net s = _
  rw [execTokenHold, if_neg hno]

theorem exec_tokenTimeout : exec (.tokenTimeout net) s = .next
    (if lowest (netOf net s) s.power.upNs = true then passToken net false 255 s else s) := by
  show execTokenTimeout net s = _
  simp [execTokenTimeout, hm, h4]

end

/-- Settles O52: on CAN by the state of the network once the wake has been told true; on a ring by the rules of R554. -/
theorem networkMessages : Obligations.NetworkMessages := by
  unfold Obligations.NetworkMessages
  intro net m v w s hv hw
  subst hv hw
  refine ⟨fun _ ho => exec_ownMessage ho, fun u x hm ho hu hx hxm => ?_, fun hm => ?_, fun hm ho => ?_,
    fun y z k hm ho h4 hy hz hzm hk => ?_, fun n hm h4 ht hn => ?_, fun hm h4 => ?_⟩
  · subst hu hx
    obtain ⟨hkeep, hwake⟩ := exec_awake hm ho hxm
    rw [hkeep, hwake]
    refine ⟨fun h3 h4 => ?_, fun h3 => ?_, fun h4 ha => ?_, fun h4 ha => ?_⟩
    · rw [otherAwake_else h3 h4]; exact ⟨rfl, rfl⟩
    · rw [otherAwake_prepare h3]
      obtain ⟨hnet, hother, hpending, hentering, hlogged⟩ :=
        vetoed_setNet (s := withdraw net (qualify s)) { netOf net (qualify s) with state := 2, confQueued := false }
      exact ⟨_, rfl, rfl, hnet, fun k hk => by rw [hother k hk, netOf_withdraw_other hk], hpending, hentering, hlogged⟩
    · rw [otherAwake_asleep h4, if_neg (by simp [ha])]; exact ⟨rfl, rfl⟩
    · rw [otherAwake_asleep h4, if_pos ha]; exact ⟨rfl, rfl⟩
  · show execSleepConfirmation net m s = _
    unfold execSleepConfirmation
    dsimp only
    split
    · rfl
    · rw [hear_can _ (by rw [hm]; decide)]
  · rw [(exec_heardOnly hm ho).1, (exec_heardOnly hm ho).2, hear_ring _ hm]
    refine ⟨rfl, rfl, fun h4 h5 hn => ?_, fun h4 h5 hn => ?_, fun h36 => ?_, fun h3 h6 => ?_⟩
    · rw [exec_prepareSleepAnnouncement hm ho h4 h5, hear_ring _ hm, if_neg (by simp [hn]), netOf_setNet, setNet_setNet]
    · rw [exec_prepareSleepAnnouncement hm ho h4 h5, hear_ring _ hm, if_pos hn]
      obtain ⟨hnet, hwire, hpending, hlogged⟩ := vetoHold_does (net := net)
        (s := setNet net { netOf net s with ring := tset m.source s.power.upNs (netOf net s).ring } s)
      rw [netOf_setNet] at hnet
      exact ⟨rfl, _, rfl, hnet, hwire, hpending, hlogged⟩
    · exact exec_veto_back hm ho h36
    · rw [exec_veto_else hm ho h3 h6, hear_ring _ hm]
  · subst hz
    have hear : hear net m.source y = setNet net k y := by rw [hear_ring m.source hzm, hk]
    have hstate : k.state = (netOf net y).state := by rw [hk]
    have haddr : nmAddr k = nmAddr (netOf net y) := by rw [hk]; rfl
    have hneeds : nmNeeds k = nmNeeds (netOf net y) := by rw [hk]; rfl
    rw [exec_token hm ho h4 hy hear, exec_sleepIndication hm ho h4 hy hear, ← hstate, ← haddr, ← hneeds]
    refine ⟨fun h6 hd => ?_, fun h6 hd => ?_, fun h6 hd => ?_, fun hd => ?_, fun hn hd hr => ?_, fun hn hd hr => ?_, fun hn hd => ?_⟩
    · rw [if_neg h6, if_neg hd]
    · rw [if_neg h6, if_pos hd]
    · rw [if_pos h6, if_pos hd]
    · rw [if_pos hd]
    · rw [if_neg (not_not.2 hd), if_neg (by simp [hn]), if_neg hr]
      exact ⟨_, rfl, sendNm_saysNm ..⟩
    · rw [if_neg (not_not.2 hd), if_neg (by simp [hn]), if_pos hr]
      exact ⟨_, sendNm_saysNm .., rfl⟩
    · rw [if_neg (not_not.2 hd), if_pos hn]
  · subst hn
    rw [exec_tokenHold hm h4 ht]
    refine ⟨fun h => ⟨_, congrArg _ (if_pos (by simpa using h)), ?_⟩, fun h1 h2 h3 => ?_, fun h1 h2 h3 h5 => ?_, fun h1 h2 h3 h5 => ?_⟩
    · have := passToken_says (net := net) (s := setNet net { netOf net s with wakeHeld := false } s) false 255
      rwa [setNet_setNet, netOf_setNet] at this
    · exact ⟨_, congrArg _ ((if_neg (by simp [h1, h2])).trans (if_pos (by simp [h3]))), passToken_says ..⟩
    · exact ⟨_, congrArg _ ((if_neg (by simp [h1, h2])).trans ((if_neg (by simp [h3])).trans (if_neg h5))), passToken_says ..⟩
    · exact ⟨_, congrArg _ ((if_neg (by simp [h1, h2])).trans ((if_neg (by simp [h3])).trans (if_pos h5))), sendNm_saysNm ..⟩
  · rw [exec_tokenTimeout hm h4]
    refine ⟨fun hl => ⟨_, congrArg _ (if_pos hl), ?_⟩, fun hl => congrArg _ (if_neg (by simp [hl]))⟩
    have := passToken_says (net := net) (s := s) false 255
    rwa [if_pos hl] at this

end Sys2Proof.Machine
end

section
/-! PROOF. The wake sources of each Fallow state (R440, R540 to R546). -/

namespace Sys2Proof.Machine

/-! ### What starting the ports and the keys leaves -/

/-- Of `s`, `t` keeps the settings, the Steward, the flash, the power domain, the Field and the Hold window but for PME. -/
structure KeepsCore (s t : State) : Prop where
  bank : t.bank = s.bank
  sown : t.sown = s.sown
  stw : t.stw = s.stw
  fixed : t.fixed = s.fixed
  power : t.power = s.power
  field : t.field = s.field
  hold : t.hold = { s.hold with pme := t.hold.pme }

theorem KeepsCore.refl (s : State) : KeepsCore s s := ⟨rfl, rfl, rfl, rfl, rfl, rfl, rfl⟩

theorem KeepsCore.trans {s t u : State} (h : KeepsCore s t) (g : KeepsCore t u) : KeepsCore s u :=
  ⟨g.bank.trans h.bank, g.sown.trans h.sown, g.stw.trans h.stw, g.fixed.trans h.fixed, g.power.trans h.power, g.field.trans h.field,
    g.hold.trans (by rw [h.hold])⟩

theorem raiseD_keepsCore (n d o : Nat) (s : State) : KeepsCore s (raiseD n d o s) := by
  rw [raiseD_frame]
  exact ⟨rfl, rfl, rfl, rfl, rfl, rfl, rfl⟩

theorem raise_keepsCore (n o : Nat) (s : State) : KeepsCore s (raise n o s) := raiseD_keepsCore n 0 o s

theorem VerifyMoved.keepsCore {p : Nat} {s t : State} (h : VerifyMoved p s t) : KeepsCore s t := by
  rw [h.rest]
  exact ⟨rfl, rfl, rfl, rfl, rfl, rfl, rfl⟩

theorem drivePins_keepsCore (s : State) : KeepsCore s (drivePins s) := by
  simp only [drivePins]
  exact ⟨rfl, rfl, rfl, rfl, rfl, rfl, rfl⟩

theorem setTimeState_keepsCore (st : TimeState) (s : State) : KeepsCore s (setTimeState st s) := by
  unfold setTimeState
  split
  · exact .refl s
  · refine .trans ?_ (raise_keepsCore ..)
    exact ⟨rfl, rfl, rfl, rfl, rfl, rfl, rfl⟩

/-- Of `s`, `t` keeps the time and the keys besides. -/
structure KeepsRun (s t : State) : Prop extends KeepsCore s t where
  alm : t.alm = s.alm
  keys : t.keys = s.keys

theorem KeepsRun.refl (s : State) : KeepsRun s s := ⟨.refl s, rfl, rfl⟩

theorem KeepsRun.trans {s t u : State} (h : KeepsRun s t) (g : KeepsRun t u) : KeepsRun s u :=
  ⟨h.toKeepsCore.trans g.toKeepsCore, g.alm.trans h.alm, g.keys.trans h.keys⟩

theorem foldl_keepsRun {α : Type} {f : State → α → State} (hf : ∀ s a, KeepsRun s (f s a)) (l : List α) (s : State) :
    KeepsRun s (l.foldl f s) :=
  foldl_keeps (fun t => KeepsRun s t) f (fun _ _ h => h.trans (hf _ _)) l s (.refl s)

theorem raiseD_keepsRun (n d o : Nat) (s : State) : KeepsRun s (raiseD n d o s) :=
  ⟨raiseD_keepsCore n d o s, by rw [raiseD_frame], by rw [raiseD_frame]⟩

theorem raise_keepsRun (n o : Nat) (s : State) : KeepsRun s (raise n o s) := raiseD_keepsRun n 0 o s

/-- A port looks for its link, and begins to verify. -/
theorem startLink_keepsRun (p : Nat) (s : State) :
    KeepsRun s (startVerify p (setPort p { portRt p s with training := true } s)) := by
  have h := startVerify_verifyMoved p (setPort p { portRt p s with training := true } s)
  refine ⟨.trans ?_ h.keepsCore, by rw [h.rest]; rfl, by rw [h.rest]; rfl⟩
  exact ⟨rfl, rfl, rfl, rfl, rfl, rfl, rfl⟩

/-- The ports that a test names look for their links. -/
theorem startLinks_keepRun (b : Nat → State → Bool) (l : List Nat) (s : State) :
    KeepsRun s (l.foldl (fun s p => if b p s then startVerify p (setPort p { portRt p s with training := true } s) else s) s) :=
  foldl_keepsRun (fun s p => iteInduction (motive := KeepsRun s) (fun _ => startLink_keepsRun p s) (fun _ => .refl s)) l s

/-- R506, R512: the wrapped keys are in their slots again. -/
theorem restoreKeys_restores (s : State) : KeepsCore s (restoreKeys s) ∧ (restoreKeys s).alm = s.alm ∧
    (restoreKeys s).keys = { s.keys with slots := s.keys.wrapped.map (fun e => (e.1, unwrapSlot e.2)), wrapped := [] } := by
  let u : State := { s with keys.slots := s.keys.wrapped.map (fun e => (e.1, unwrapSlot e.2)), keys.wrapped := [] }
  refine foldl_keeps (fun t => KeepsCore s t ∧ t.alm = s.alm ∧ t.keys = u.keys) _ (fun t n ht => ?_) _ u
    ⟨⟨rfl, rfl, rfl, rfl, rfl, rfl, rfl⟩, rfl, rfl⟩
  exact ⟨ht.1.trans (raise_keepsCore ..), by rw [raise_alm, ht.2.1], by rw [raise_keys, ht.2.2]⟩

/-- Event 56 with the power domain as it is set. -/
theorem raise56_withPower (o : Nat) (p : Power) (s : State) :
    KeepsRun { s with power := p } (raise 56 o { s with power := p }) ∧
      (raise 56 o { s with power := p }).ev.pending.getLsbD 56 = true ∧
      ∀ k, s.ev.pending.getLsbD k = true → (raise 56 o { s with power := p }).ev.pending.getLsbD k = true :=
  ⟨raise_keepsRun .., raise_pending _ _ (by decide) (by decide), fun k hk => raiseD_pending_mono 56 0 o { s with power := p } k hk⟩

/-- Forwarding resumes at an instant, and a watch for a false wake begins (R547). The instant is a parameter, so that the lemmas hold of a
variable one: of `stampOf (nowNs s)` the kernel would compute it. -/
def resumed (left : PowerState) (t : Nat) (p : Power) : Power :=
  { p with resumed := t, left := left, watchWake := true, netWoken := false }

section
variable (left : PowerState) (t : Nat) (p : Power)

theorem resumed_state : (resumed left t p).state = p.state := rfl
theorem resumed_nets : (resumed left t p).nets = p.nets := rfl
theorem resumed_falseSince : (resumed left t p).falseSince = p.falseSince := rfl

end

/-- R547: event 56, and the watch for a false wake; of the other sources than the timer and a power-on. -/
theorem wakeReported_watches (left : PowerState) {s : State} (h6 : s.power.firstWake ≠ 6) (h7 : s.power.firstWake ≠ 7) :
    KeepsRun { s with power := resumed left (stampOf (nowNs s)) s.power } (wakeReported left s) ∧ (wakeReported left s).ev.pending.getLsbD 56 = true ∧
      ∀ k, s.ev.pending.getLsbD k = true → (wakeReported left s).ev.pending.getLsbD k = true := by
  have hx : wakeReported left s = raise 56 s.power.firstWake { s with power := resumed left (stampOf (nowNs s)) s.power } := if_neg (by simp [h6, h7])
  rw [hx]
  exact raise56_withPower ..

/-! ### The wake -/

section
variable {src ch f : Nat} {s : State}

theorem wakeFrom_qualifies (ha : s.power.armedFor = none) (h : wakesFrom s.power.state src s = true) :
    wakeFrom src ch f s = beginWake s.power.state src ch f s := by
  simp [wakeFrom, ha, h]

theorem wakeFrom_disabled (ha : s.power.armedFor = none) (h : wakesFrom s.power.state src s = false) (hs : s.power.state ≠ .starting) :
    wakeFrom src ch f s = s := by
  simp [wakeFrom, ha, h, hs]

/-- The state a wake from Fallow-watch or Fallow-retain starts in (R540, R546). -/
def wokenFrom (src ch f : Nat) (s : State) : State := { s with
  hold := { s.hold with fallowLeft := s.power.state.code, firstWake := src, wakeSeen := BitVec.ofNat 7 (2 ^ (src - 1)) }
  power := { s.power with
    state := .starting, startKind := 4, firstWake := src, seen := BitVec.ofNat 7 (2 ^ (src - 1)), wakeChannel := ch, wakeFilter := f
    wakeInstant := s.power.coarse / 1000000 % 4294967296, wakeCoarse := s.power.coarse } }

/-- R540: the first source goes into HOLD_CAUSE and starts the part, its reset kind as it was. -/
theorem wakeFrom_retained (ha : s.power.armedFor = none) (hs : s.power.state = .watch ∨ s.power.state = .retain)
    (h : wakesFrom s.power.state src s = true) : wakeFrom src ch f s = wokenFrom src ch f s := by
  rw [wakeFrom_qualifies ha h]
  unfold wokenFrom
  obtain hs | hs := hs <;> rw [hs] <;> rfl

/-- R546: Fallow-deep is left by a clearing reset of kind 1. -/
theorem beginWake_deep : ∃ t, beginWake .deep src ch f s = t ∧ t.power.state = .starting ∧ t.power.startKind = 2 ∧ t.hold.resetKind = 1 ∧
    t.hold.fallowLeft = 4 ∧ t.hold.firstWake = src ∧ t.power.firstWake = src ∧ t.bank = {} ∧ t.keys.slots = [] ∧ t.fixed = s.fixed := by
  let u := wakeCause .deep src (recordWake src ch f s)
  have hr := clearing_restarts 2 u
  have hkeys : (clearing 2 u).keys.slots = [] := by rw [hr.keys]; rfl
  have hpower : (clearing 2 u).power.startKind = 2 ∧ (clearing 2 u).power.firstWake = src := by rw [hr.power]; exact ⟨rfl, rfl⟩
  have hhold : (clearing 2 u).hold.fallowLeft = 4 ∧ (clearing 2 u).hold.firstWake = src := by
    obtain ⟨st, l, n, k, w, hc⟩ := clearHold_leaves { u with ev.log := [], ev.nextSeq := 0, ev.lost := 0 }
    rw [clearing, hc]
    exact ⟨rfl, rfl⟩
  exact ⟨_, rfl, rfl, hpower.1, hr.resetKind, hhold.1, hhold.2, hpower.2, hr.bank, hkeys, hr.fixed⟩

/-- R539, R546: from Fallow-listen forwarding resumes at once, the time in Holdover. -/
theorem beginWake_listen (h6 : src ≠ 6) (h7 : src ≠ 7) :
    ∃ t, beginWake .listen src ch f s = t ∧ t.power.state = .growing ∧ t.power.vcore = 800 ∧ t.hold.fallowLeft = 1 ∧
      t.hold.firstWake = src ∧ t.power.watchWake = true ∧ t.power.left = .listen ∧ t.ev.pending.getLsbD 56 = true ∧ t.bank = s.bank ∧
      (s.alm.state = .locked → t.alm.state = .holdover) := by
  let u := wakeCause .listen src (recordWake src ch f s)
  have hlinks := startLinks_keepRun
    (fun p s => p != listenPort u && portPresent p s && portEnabled p s) (tkeys u.ports.config) u
  generalize hx : (tkeys u.ports.config).foldl (fun s p => if p != listenPort u && portPresent p s && portEnabled p s then
    startVerify p (setPort p { portRt p s with training := true } s) else s) u = x at hlinks
  obtain ⟨y, hy, hyc, hya⟩ : ∃ y, (if synced x then setTimeState .holdover x else x) = y ∧ KeepsCore x y ∧
      (s.alm.state = .locked → y.alm.state = .holdover) := by
    refine ⟨_, rfl, ?_⟩
    split
    · exact ⟨setTimeState_keepsCore .., fun _ => setTimeState_state ..⟩
    · next hs => exact ⟨.refl x, fun hl => absurd (show synced x = true by simp [synced, hlinks.alm, u, wakeCause, recordWake, hl]) hs⟩
  obtain ⟨hkeys, hkalm, -⟩ := restoreKeys_restores y
  have hcore := (hlinks.toKeepsCore.trans hyc).trans hkeys
  have hsrc : (restoreKeys y).power.firstWake = src := by rw [hcore.power]; rfl
  obtain ⟨hwake, hpending, -⟩ := wakeReported_watches .listen (s := { restoreKeys y with power.state := .growing, power.vcore := 800 })
    (fun h => h6 (hsrc.symm.trans h)) (fun h => h7 (hsrc.symm.trans h))
  have hb : beginWake .listen src ch f s =
      wakeReported .listen { restoreKeys y with power.state := .growing, power.vcore := 800 } := by
    rw [← hy, ← hx]; rfl
  refine ⟨_, hb, ?_, ?_, ?_, ?_, ?_, ?_, hpending, ?_, fun hl => ?_⟩
  · rw [hwake.power]; rfl
  · rw [hwake.power]; rfl
  · rw [hwake.hold]; dsimp only; rw [hcore.hold]; rfl
  · rw [hwake.hold]; dsimp only; rw [hcore.hold]; rfl
  · rw [hwake.power]; rfl
  · rw [hwake.power]; rfl
  · exact hwake.bank.trans hcore.bank
  · rw [hwake.alm]; exact (congrArg _ hkalm).trans (hya hl)

end

/-! ### The sources -/

section
variable {s : State}

theorem exec_wakePin {n : Nat} {up : Bool} (h : fld (wakeCfg s) 1 (2 * n) 2 = (if up then 0 else 1) ∨ fld (wakeCfg s) 1 (2 * n) 2 = 2) :
    exec (.wakePin n up) s = .next (wakeFrom (n + 1) 255 255 s) := by
  show execWakePin n up s = _
  refine congrArg _ (if_pos ?_)
  obtain h | h := h
  · cases up
    · exact .inr (.inr ⟨h, rfl⟩)
    · exact .inr (.inl ⟨h, rfl⟩)
  · exact .inl h

/-- R542, R543: a classical frame on a named selective channel in Fallow-watch is decoded. -/
theorem exec_canSelectiveWake {ch : Nat} {x : WakeFrame} (hs : s.power.state = .watch) (hc : (namedChannels (wakeCfg s)).contains ch = true)
    (hx : x.fd = false) : exec (.canSelectiveWake ch x) s = .next (selectiveFrame ch x s) :=
  congrArg _ (if_pos (by rw [hc, hx, decoding, hs]; rfl))

end

/-- Settles O53: the sources meet in `wakeFrom`, whose wake goes by the state the part is in. -/
theorem wakeSourcesStartThePart : Obligations.WakeSourcesStartThePart := by
  unfold Obligations.WakeSourcesStartThePart
  intro n ch f up x d s w ha hw
  have hw (src ch f : Nat) : w src ch f = wokenFrom src ch f s := hw src ch f
  refine ⟨fun hs => ⟨fun he h => ?_, fun h => ?_, fun h => ?_, fun h => ?_⟩, fun hs hc hx h => ?_, fun hs h => ?_, fun hs hhit h => ?_⟩
  · rw [exec_wakePin he, wakeFrom_retained ha hs h, hw]
  · exact congrArg _ ((wakeFrom_retained ha hs h).trans (hw ..).symm)
  · exact congrArg _ ((wakeFrom_retained ha hs h).trans (hw ..).symm)
  · exact congrArg _ (wakeFrom_disabled ha h (by obtain hs | hs := hs <;> rw [hs] <;> decide))
  · rw [exec_canSelectiveWake hs hc hx]
    have hwake (e : Tbl Nat) (i : Nat) : wakeFrom 3 ch i { s with power.decodeErr := e } = wokenFrom 3 ch i { s with power.decodeErr := e } :=
      wakeFrom_retained ha (.inl hs) (by rw [← hs] at h; exact h)
    refine ⟨fun he hn => ⟨_, rfl, ?_⟩, fun he hn => ?_, fun he hf => ⟨_, rfl, ?_⟩⟩
    · simp only [selectiveFrame, he, hn, hw, hwake, if_true]
      rfl
    · simp only [selectiveFrame, he, if_true]
      rw [if_neg (by omega)]
    · simp only [selectiveFrame, he, Bool.false_eq_true, if_false, hw]
      rw [show firstBelow 8 (fun i => filterHit (wakeFilter (wakeCfg { s with
        power.decodeErr := tset ch (tgetD ch 0 s.power.decodeErr - 1) s.power.decodeErr }) ch i) x) = some f from hf]
      exact hwake _ f
  · obtain ⟨t, ht, hrest⟩ := beginWake_deep (src := 4) (ch := 255) (f := 255) (s := s)
    refine ⟨t, ?_, hrest⟩
    show Host.Outcome.next (wakeFrom 4 255 255 s) = _
    rw [wakeFrom_qualifies ha (by rw [hs]; exact h), hs, ht]
  · obtain ⟨t, ht, hrest⟩ := beginWake_listen (src := 5) (ch := 255) (f := 255) (s := s) (by decide) (by decide)
    refine ⟨t, ?_, hrest⟩
    show execEthernetWakePattern d s = _
    rw [execEthernetWakePattern, if_pos hhit, wakeFrom_qualifies ha (by rw [hs]; exact h), hs, ht]

end Sys2Proof.Machine
end

section
/-! PROOF. The start sequence (R535, R556 to R562, R568). -/

namespace Sys2Proof.Machine

/-! ### The restored banks of the Granary -/

theorem KeepsRun.ops {s t : State} (h : KeepsRun s t) (ho : s.stw.ops = []) : t.stw.ops = [] := by rw [h.stw, ho]

/-- A change of the Granary and of the free choices. -/
theorem keepsRun_gran (g : Granary) (n : Nat) (s : State) : KeepsRun s { s with gran := g, free := n } :=
  ⟨⟨rfl, rfl, rfl, rfl, rfl, rfl, rfl⟩, rfl, rfl⟩

/-- R242: with no command in flight the end of a drain is the Granary's and its events alone. -/
theorem endDrain_keepsRun (p : Nat) {s : State} (ho : s.stw.ops = []) : KeepsRun s (endDrain p s) := by
  obtain ⟨g, hg⟩ : ∃ g, endDrain p s = finishRetire p 255 (checkDegraded (raise 34 p { s with gran := g })) := by
    unfold endDrain
    cases logicalOf p s <;> exact ⟨_, rfl⟩
  have hdegraded (t : State) : KeepsRun t (checkDegraded t) := by
    unfold checkDegraded
    split
    · exact .trans (keepsRun_gran _ t.free t) (raiseD_keepsRun ..)
    · exact .refl t
  have hfinish (t : State) (h : t.stw.ops = []) : KeepsRun t (finishRetire p 255 t) := by
    simp only [finishRetire, h, List.filter_nil, List.foldl_nil]
    exact keepsRun_gran _ t.free t
  have hraised := ((keepsRun_gran g s.free s).trans (raise_keepsRun 34 p _)).trans (hdegraded _)
  rw [hg]
  exact hraised.trans (hfinish _ (hraised.ops ho))

theorem bootSpare_keepsRun (old l : Nat) (ts : List Nat) {s : State} (ho : s.stw.ops = []) : KeepsRun s (bootSpare old l ts s) := by
  induction ts generalizing s with
  | nil => exact (raise_keepsRun 35 old s).trans (endDrain_keepsRun _ ((raise_keepsRun 35 old s).ops ho))
  | cons t rest ih =>
    rw [bootSpare]
    split
    · exact keepsRun_gran _ _ s
    · exact (keepsRun_gran _ _ s).trans (ih ho)

theorem bootMigration_keepsRun {s : State} (ho : s.stw.ops = []) : KeepsRun s (bootMigration s) := by
  unfold bootMigration
  split
  · exact .refl s
  · dsimp only
    split
    · exact keepsRun_gran _ s.free s
    · exact (keepsRun_gran _ s.free s).trans (bootSpare_keepsRun _ _ _ (by exact ho))

/-- R239, R241: with no command in flight the boot settles the banks in the Granary alone. -/
theorem restoreBanks_keepsRun {s : State} (ho : s.stw.ops = []) : KeepsRun s (restoreBanks s) := by
  have hlapse : KeepsRun s (lapseRetirements s) := by
    obtain ⟨_, _, _, h, -⟩ := lapseRetirements_lapses s
    rw [h]
    exact keepsRun_gran _ s.free s
  have hmigrated := hlapse.trans (bootMigration_keepsRun (hlapse.ops ho))
  exact foldl_keeps (fun t => KeepsRun s t) _ (fun t p h => h.trans (endDrain_keepsRun p (h.ops ho))) _ _ hmigrated

/-! ### The bank from flash, controllers and ports -/

section
variable {s t : State}

/-- The settings in flash and the boot's number are those of `s`. -/
structure SameFlash (s t : State) : Prop where
  bootNumber : t.fixed.bootNumber = s.fixed.bootNumber
  bankA : t.fixed.bankA = s.fixed.bankA
  bankB : t.fixed.bankB = s.fixed.bankB
  bankSel : t.fixed.bankSel = s.fixed.bankSel
  fieldImg : t.fixed.fieldImg = s.fixed.fieldImg

theorem selectSlot_sameFlash (s : State) : SameFlash s (selectSlot s) := by
  unfold selectSlot
  split
  · exact ⟨rfl, rfl, rfl, rfl, rfl⟩
  · split <;> exact ⟨rfl, rfl, rfl, rfl, rfl⟩

theorem bootSelect_sameFlash (s : State) : SameFlash s (bootSelect s).2 := by
  have hs := selectSlot_sameFlash { s with hold.secureBootFail := false }
  unfold bootSelect
  generalize selectSlot { s with hold.secureBootFail := false } = u at hs ⊢
  dsimp only
  split
  · exact ⟨hs.bootNumber, hs.bankA, hs.bankB, hs.bankSel, hs.fieldImg⟩
  · rw [raise_frame]
    split <;> exact ⟨hs.bootNumber, hs.bankA, hs.bankB, hs.bankSel, hs.fieldImg⟩

theorem flashBank_congr (hf : t.fixed = s.fixed) : flashBank t = flashBank s := by simp only [flashBank, hf]

theorem flashBank_markRetill_congr (h : SameFlash s t) (hf : t.stw.flash = s.stw.flash) :
    flashBank (markRetill t) = flashBank (markRetill s) := by
  unfold markRetill
  simp only [hf, h.bankA, h.bankB]
  split
  · simp only [flashBank]
  · split
    · simp only [flashBank]
    · simp only [flashBank, h.bankA, h.bankB, h.bankSel]

/-- R374: a re-till past its point of no return has its slot restored. -/
theorem flashBank_markRetill_past {n : Nat} {b : Bank} (ha : s.fixed.bankA = some (n, b))
    (hr : ∃ r ∈ s.stw.flash, r.opcode = 0x0F01 ∧ r.state = 1 ∧ r.opno = n) : flashBank (markRetill s) = (b, false, false) := by
  obtain ⟨r, hr, hop, hstate, hopno⟩ := hr
  have hpast : (s.fixed.bankA.any (fun x => s.stw.flash.any (fun r => r.opcode == 0x0F01 && r.state == 1 && r.opno == x.1))) = true := by
    rw [ha]
    exact List.any_eq_true.2 ⟨r, hr, by simp [hop, hstate, hopno]⟩
  unfold markRetill
  simp only [hpast, if_true]
  simp [flashBank, ha]

end

/-- The bank is loaded. -/
theorem loadBank_loads (s : State) : ∃ h d, loadBank s = { s with bank := (flashBank s).1, sown := {}, harrow := h, drill := d } :=
  ⟨_, _, rfl⟩

theorem canState_keepsRun (k st : Nat) (s : State) : KeepsRun s (canState k st s) := by
  unfold canState
  dsimp only
  split
  · exact .refl s
  · refine .trans ?_ (raise_keepsRun ..)
    exact ⟨⟨rfl, rfl, rfl, rfl, rfl, rfl, rfl⟩, rfl, rfl⟩

theorem keepsRun_buses (b : Buses) (s : State) : KeepsRun s { s with buses := b } := ⟨⟨rfl, rfl, rfl, rfl, rfl, rfl, rfl⟩, rfl, rfl⟩

theorem startCtl_keepsRun (kind k : Nat) (s : State) : KeepsRun s (startCtl kind k s) := by
  unfold startCtl
  split
  · dsimp only
    split
    · exact .refl s
    · split
      · exact (keepsRun_buses _ s).trans (canState_keepsRun ..)
      · exact (keepsRun_buses _ s).trans (canState_keepsRun ..)
  · exact .refl s

/-- A row enabled joins the Enabled rows, and its controller starts. -/
theorem enableRow_keepsRun (r : Nat) (s : State) :
    KeepsRun { s with bank.enabled := insertNat r s.bank.enabled } (enableRow r s) := by
  unfold enableRow
  dsimp only
  cases rowCtl (tgetD r [] s.bank.bind) with
  | none => exact .refl _
  | some e =>
    dsimp only
    split
    · split
      · exact keepsRun_buses _ _
      · exact .refl _
    · split
      · refine .trans ?_ (startCtl_keepsRun ..)
        exact keepsRun_buses _ _
      · exact startCtl_keepsRun ..

theorem enableRows_keepRun (l : List Nat) (s : State) :
    ∃ e, KeepsRun { s with bank.enabled := e } (l.foldl (fun s r => enableRow r s) s) := by
  refine foldl_keeps (fun t => ∃ e, KeepsRun { s with bank.enabled := e } t) _ (fun t r ⟨e, h⟩ => ?_) l s ⟨s.bank.enabled, .refl s⟩
  have hrow := enableRow_keepsRun r t
  exact ⟨insertNat r t.bank.enabled, ⟨hrow.bank.trans (by rw [h.bank]), hrow.sown.trans h.sown, hrow.stw.trans h.stw,
    hrow.fixed.trans h.fixed, hrow.power.trans h.power, hrow.field.trans h.field, hrow.hold.trans (by rw [h.hold])⟩,
    hrow.alm.trans h.alm, hrow.keys.trans h.keys⟩

theorem drivePins_keepsRun (s : State) : KeepsRun s (drivePins s) := ⟨drivePins_keepsCore s, drivePins_alm s, by simp only [drivePins]⟩

theorem startControllers_keepRun (s : State) : ∃ e, KeepsRun { s with bank.enabled := e } (startControllers s) := by
  obtain ⟨e, h⟩ := enableRows_keepRun s.bank.enabled { s with bank.enabled := [] }
  exact ⟨e, h.trans (drivePins_keepsRun _)⟩

theorem startPorts_keepsRun (s : State) : KeepsRun s (startPorts s) := by
  have h := startLinks_keepRun (fun p s => portPresent p s && portEnabled p s) (tkeys s.fixed.portCfg)
    { s with ports.lanes := s.fixed.laneCfg, ports.config := s.fixed.portCfg }
  refine .trans ?_ h
  exact ⟨⟨rfl, rfl, rfl, rfl, rfl, rfl, rfl⟩, rfl, rfl⟩

/-- The bank from flash in force, its controllers and the ports started. -/
theorem startBank_starts (s : State) : ∃ e, KeepsRun { s with bank := { (flashBank s).1 with enabled := e }, sown := {} }
    (startPorts (startControllers (loadBank s))) := by
  obtain ⟨h, d, hl⟩ := loadBank_loads s
  obtain ⟨e, hc⟩ := startControllers_keepRun (loadBank s)
  refine ⟨e, .trans (.trans ?_ hc) (startPorts_keepsRun _)⟩
  rw [hl]
  exact ⟨⟨rfl, rfl, rfl, rfl, rfl, rfl, rfl⟩, rfl, rfl⟩

/-! ### The report and the resumption -/

/-- R562: the boot report, and event 6. -/
theorem bootReport_reports (l : List Record) (n : Nat) (s : State) :
    KeepsRun { s with
        fixed.bootNumber := (s.fixed.bootNumber + 1) % 4294967296
        power.faultSeen60 := false, power.faultSeen61 := false, power.buckFell := false } (bootReport l n s) ∧
      (bootReport l n s).ev.pending.getLsbD 6 = true := by
  refine ⟨.trans ?_ (raise_keepsRun ..), raise_pending _ _ (by decide) (by decide)⟩
  exact ⟨⟨rfl, rfl, rfl, rfl, rfl, rfl, rfl⟩, rfl, rfl⟩

/-- With no network configured and no false wake to report, a true wake ends the watch alone. -/
theorem trueWake_quiet {s : State} (hn : s.power.nets = []) (hf : s.power.falseSince = []) :
    trueWake s = { s with power.watchWake := false } := by
  have hr : reportFalse { s with power.watchWake := false } = { s with power.watchWake := false } := by
    simp only [reportFalse, hf, List.foldl_nil]
  have hc : configuredNets { s with power.watchWake := false } = [] := by simp [configuredNets, hn]
  rw [trueWake, hr, wakeNets, hc, List.foldl_nil]

/-- Event 56, and a true wake where there is nothing to report and nobody to wake. -/
theorem trueWake_raise56 {o : Nat} {p : Power} {s : State} (hn : p.nets = []) (hf : p.falseSince = []) :
    (∃ q : Power, q.state = p.state ∧ KeepsRun { s with power := q } (trueWake (raise 56 o { s with power := p }))) ∧
      (trueWake (raise 56 o { s with power := p })).ev = (raise 56 o { s with power := p }).ev := by
  have h := raise_keepsRun 56 o { s with power := p }
  rw [trueWake_quiet (by rw [h.power]; exact hn) (by rw [h.power]; exact hf)]
  generalize raise 56 o { s with power := p } = u at h
  refine ⟨⟨{ p with watchWake := false }, rfl, ?_⟩, rfl⟩
  exact ⟨⟨h.bank, h.sown, h.stw, h.fixed, by rw [h.power], h.field, h.hold⟩, h.alm, h.keys⟩

/-- R547: forwarding resumes with event 56; what it leaves of the power domain but for the watch. -/
theorem wakeReported_resumes (left : PowerState) {s : State}
    (h : (s.power.firstWake ≠ 6 ∧ s.power.firstWake ≠ 7) ∨ (s.power.nets = [] ∧ s.power.falseSince = [])) :
    ∃ p, p.state = s.power.state ∧ KeepsRun { s with power := p } (wakeReported left s) ∧
      (wakeReported left s).ev.pending.getLsbD 56 = true ∧
      ∀ k, s.ev.pending.getLsbD k = true → (wakeReported left s).ev.pending.getLsbD k = true := by
  by_cases h67 : s.power.firstWake = 6 ∨ s.power.firstWake = 7
  · obtain ⟨hn, hf⟩ : s.power.nets = [] ∧ s.power.falseSince = [] := h.resolve_left (fun h => h67.elim h.1 h.2)
    have hx : wakeReported left s = trueWake (raise 56 s.power.firstWake { s with power := resumed left (stampOf (nowNs s)) s.power }) := if_pos h67
    obtain ⟨⟨q, hq, hkeep⟩, hev⟩ := trueWake_raise56 (o := s.power.firstWake) (p := resumed left (stampOf (nowNs s)) s.power) (s := s)
      (by rw [resumed_nets, hn]) (by rw [resumed_falseSince, hf])
    obtain ⟨-, hpending, hmono⟩ := raise56_withPower s.power.firstWake (resumed left (stampOf (nowNs s)) s.power) s
    rw [hx, hev]
    exact ⟨q, by rw [hq, resumed_state], hkeep, hpending, hmono⟩
  · exact ⟨resumed left (stampOf (nowNs s)) s.power, resumed_state .., wakeReported_watches left (fun h6 => h67 (.inl h6)) (fun h7 => h67 (.inr h7))⟩

/-! ### The start sequence -/

/-- R557: what the first steps leave: rails, regulator and straps. -/
theorem latchStraps_leaves (n : Nat) (s : State) :
    (latchStraps n s).hold.straps = n % 4 ∧ (latchStraps n s).power = { s.power with vcore := 800, inh := true } ∧
      (latchStraps n s).bank = s.bank ∧ (latchStraps n s).stw = s.stw ∧ (latchStraps n s).fixed = s.fixed ∧
      (latchStraps n s).keys = s.keys := by
  obtain ⟨_, _, _, _, _, h⟩ := clearHold_leaves { s with hold.straps := n % 4, hold.bootPhase := 0, power.vcore := 800, power.inh := true }
  rw [latchStraps, h]
  exact ⟨rfl, rfl, rfl, rfl, rfl, rfl⟩

section
variable {n : Nat} {s : State}

theorem exec_startSequence (hs : s.power.state = .starting) (hb : s.power.buckLow = false) :
    exec (.startSequence n) s = .next
      (if n % 4 / 2 = 1 then recoveryBoot (latchStraps n s)
       else if s.power.startKind = 4 then wakeStart (latchStraps n s) else fullStart (latchStraps n s)) := by
  obtain ⟨hstraps, hpower, -⟩ := latchStraps_leaves n s
  have hkind : (latchStraps n s).power.startKind = s.power.startKind := by rw [hpower]
  show execStartSequence n s = _
  rw [execStartSequence, if_neg (by simp [hs, hb])]
  dsimp only
  rw [hstraps, hkind]

/-- No image verifies. -/
theorem fullStart_noImage (h : ¬ (bootSelect s).1 = true) :
    fullStart s = { (bootSelect s).2 with hold.bootPhase := 15, power.state := .growing } := by
  rw [fullStart, if_pos (by simpa using h)]

/-- The part as the start after a clearing reset restores it, before its boot report. -/
def restored (s : State) : State :=
  confirmAtBoot (reachReady (startPorts (startControllers (loadBank (restoreLedger (restoreBanks s)).2))))

/-- What is restored from flash, with nothing in flight (R557, R561). -/
structure Restored (s t : State) : Prop where
  routes : t.bank.routes = (flashBank (markRetill s)).1.routes
  bind : t.bank.bind = (flashBank (markRetill s)).1.bind
  sown : t.sown = {}
  bootPhase : t.hold.bootPhase = 4
  up : t.stw.up = true
  notServing : t.stw.notServing = false
  retill : t.stw.retill = s.stw.retill
  power : t.power = { s.power with state := .growing, inh := true }
  bootNumber : t.fixed.bootNumber = s.fixed.bootNumber
  fieldImg : t.fixed.fieldImg = s.fixed.fieldImg

theorem markRetill_leaves (s : State) : ∃ n, markRetill s = { s with fixed.bankSel := n } := by
  unfold markRetill
  dsimp only
  split
  · exact ⟨_, rfl⟩
  · split
    · exact ⟨_, rfl⟩
    · exact ⟨s.fixed.bankSel, rfl⟩

theorem restoreLedger_leaves (s : State) :
    ∃ l f o, (restoreLedger s).2 = { markRetill s with stw := { (markRetill s).stw with ledger := l, flash := f, nextOpno := o } } :=
  ⟨_, _, _, rfl⟩

theorem confirmAtBoot_leaves (s : State) : ∃ f w, confirmAtBoot s = { s with fixed := f, fw := w } ∧
    f.bootNumber = s.fixed.bootNumber ∧ f.fieldImg = s.fixed.fieldImg := by
  unfold confirmAtBoot
  split
  · exact ⟨_, _, rfl, rfl, rfl⟩
  · exact ⟨_, _, rfl, rfl, rfl⟩

theorem restored_restores (ho : s.stw.ops = []) : Restored s (restored s) := by
  have hgran := restoreBanks_keepsRun ho
  have hsame : SameFlash s (restoreBanks s) := by constructor <;> rw [hgran.fixed]
  have hbank : flashBank (markRetill (restoreBanks s)) = flashBank (markRetill s) := flashBank_markRetill_congr hsame (by rw [hgran.stw])
  obtain ⟨l, f, o, hledger⟩ := restoreLedger_leaves (restoreBanks s)
  obtain ⟨m, hmark⟩ := markRetill_leaves (restoreBanks s)
  obtain ⟨e, hstart⟩ := startBank_starts (restoreLedger (restoreBanks s)).2
  rw [restored]
  generalize startPorts (startControllers (loadBank (restoreLedger (restoreBanks s)).2)) = x at hstart ⊢
  obtain ⟨fx, w, hconfirm, hnumber, himg⟩ := confirmAtBoot_leaves (reachReady x)
  have hflash : flashBank (restoreLedger (restoreBanks s)).2 = flashBank (markRetill s) := by
    rw [← hbank, hledger]; rfl
  have hstw : (restoreLedger (restoreBanks s)).2.stw.retill = s.stw.retill := by rw [hledger, hmark, ← hgran.stw]
  have hpower : (restoreLedger (restoreBanks s)).2.power = s.power := by rw [hledger, hmark, ← hgran.power]
  have hfixed : (restoreLedger (restoreBanks s)).2.fixed = { s.fixed with bankSel := m } := by rw [hledger, hmark, ← hgran.fixed]
  rw [hconfirm]
  refine ⟨?_, ?_, hstart.sown, rfl, rfl, rfl, ?_, ?_, ?_, ?_⟩
  · exact (congrArg Bank.routes hstart.bank).trans (by rw [hflash])
  · exact (congrArg Bank.bind hstart.bank).trans (by rw [hflash])
  · exact (congrArg Steward.retill hstart.stw).trans hstw
  · exact congrArg (fun p : Power => { p with state := .growing, inh := true }) (hstart.power.trans hpower)
  · exact hnumber.trans ((congrArg Fixed.bootNumber hstart.fixed).trans (by rw [hfixed]))
  · exact himg.trans ((congrArg Fixed.fieldImg hstart.fixed).trans (by rw [hfixed]))

/-- What a start after a clearing reset leaves, when an image verifies and nothing is in flight. -/
theorem fullStart_starts (hb : (bootSelect s).1 = true) (ho : s.stw.ops = []) (hf : s.fixed.fieldImg = none)
    (hq : s.power.startKind = 3 ∨ (s.power.nets = [] ∧ s.power.falseSince = [])) :
    ∃ t, fullStart s = t ∧ t.hold.bootPhase = 4 ∧ t.stw.up = true ∧ t.stw.notServing = false ∧ t.power.state = .growing ∧
      t.ev.pending.getLsbD 6 = true ∧ (s.power.startKind ≠ 3 → t.ev.pending.getLsbD 56 = true) ∧
      t.fixed.bootNumber = (s.fixed.bootNumber + 1) % 4294967296 ∧ t.bank.routes = (flashBank (markRetill s)).1.routes ∧
      t.bank.bind = (flashBank (markRetill s)).1.bind ∧ t.sown = {} ∧ t.stw.retill = s.stw.retill := by
  have hboot := bootSelect_keepsBoot s
  have hflash := bootSelect_sameFlash s
  have hres := restored_restores (s := (bootSelect s).2) (by rw [hboot.stw]; exact ho)
  have hbank : flashBank (markRetill (bootSelect s).2) = flashBank (markRetill s) :=
    flashBank_markRetill_congr hflash (by rw [hboot.stw])
  generalize hx : restored (bootSelect s).2 = x at hres
  obtain ⟨l, k, hfull⟩ : ∃ l k, fullStart s = if (rejoinField (bootReport l k x)).power.startKind = 3 then rejoinField (bootReport l k x)
      else wakeReported (leftState (rejoinField (bootReport l k x)).hold.fallowLeft) (rejoinField (bootReport l k x)) := by
    rw [fullStart, if_neg (by simp [hb]), ← hx]
    exact ⟨_, _, rfl⟩
  obtain ⟨hrep, h6⟩ := bootReport_reports l k x
  have hrejoin : rejoinField (bootReport l k x) = bootReport l k x := by
    have hnone : (bootReport l k x).fixed.fieldImg = none := by
      rw [hrep.fixed]
      exact hres.fieldImg.trans (hflash.fieldImg.trans hf)
    simp only [rejoinField, hnone]
  rw [hrejoin] at hfull
  generalize bootReport l k x = y at hfull hrep h6
  have hpower : y.power = { s.power with
      state := .growing, inh := true, faultSeen60 := false, faultSeen61 := false, buckFell := false } := by
    rw [hrep.power]
    dsimp only
    rw [hres.power, hboot.power]
  obtain ⟨t, ht, hkeep, hp6, hp56, hstate⟩ : ∃ t, fullStart s = t ∧ (∃ p, KeepsCore { y with power := p } t) ∧
      t.ev.pending.getLsbD 6 = true ∧ (s.power.startKind ≠ 3 → t.ev.pending.getLsbD 56 = true) ∧ t.power.state = .growing := by
    refine ⟨_, hfull, ?_⟩
    split
    · next hk =>
      exact ⟨⟨_, .refl y⟩, h6, fun hk' => absurd (hk.symm.trans (by rw [hpower])) (fun h => hk' h.symm), by rw [hpower]⟩
    · next hk =>
      have hquiet : y.power.nets = [] ∧ y.power.falseSince = [] := by
        rw [hpower] at hk ⊢
        exact hq.resolve_left hk
      obtain ⟨p, hp, hwake, h56, hmono⟩ := wakeReported_resumes (leftState y.hold.fallowLeft) (.inr hquiet)
      exact ⟨⟨p, hwake.toKeepsCore⟩, hmono 6 h6, fun _ => h56, by rw [hwake.power]; exact hp.trans (by rw [hpower])⟩
  obtain ⟨p, hkeep⟩ := hkeep
  refine ⟨t, ht, ?_, ?_, ?_, hstate, hp6, hp56, ?_, ?_, ?_, ?_, ?_⟩
  · rw [hkeep.hold]; dsimp only; rw [hrep.hold]; exact hres.bootPhase
  · rw [hkeep.stw]; exact (congrArg Steward.up hrep.stw).trans hres.up
  · rw [hkeep.stw]; exact (congrArg Steward.notServing hrep.stw).trans hres.notServing
  · rw [hkeep.fixed]; dsimp only; rw [hrep.fixed]; dsimp only; rw [hres.bootNumber, hflash.bootNumber]
  · rw [hkeep.bank]; dsimp only; rw [hrep.bank, ← hbank]; exact hres.routes
  · rw [hkeep.bank]; dsimp only; rw [hrep.bank, ← hbank]; exact hres.bind
  · rw [hkeep.sown]; dsimp only; rw [hrep.sown]; exact hres.sown
  · rw [hkeep.stw]; dsimp only; rw [hrep.stw, ← hboot.stw]; exact hres.retill

/-- R539: the servo goes on from the integral kept. -/
theorem seedTime_seeds (s : State) : KeepsCore s (seedTime s) ∧ (seedTime s).alm.i = s.power.keptI ∧
    (seedTime s).alm.firstLock = true ∧ (seedTime s).keys = s.keys := by
  obtain ⟨st, u, hx, hcore, hi, hl, hk⟩ : ∃ st u, seedTime s = setTimeState st u ∧ KeepsCore s u ∧ u.alm.i = s.power.keptI ∧
      u.alm.firstLock = true ∧ u.keys = s.keys := ⟨_, _, rfl, ⟨rfl, rfl, rfl, rfl, rfl, rfl, rfl⟩, rfl, rfl, rfl⟩
  rw [hx]
  refine ⟨hcore.trans (setTimeState_keepsCore ..), ?_, ?_, ?_⟩
  · rw [setTimeState_alm]; split <;> exact hi
  · rw [setTimeState_alm]; split <;> exact hl
  · unfold setTimeState
    split
    · exact hk
    · rw [raise_keys]; exact hk

/-- What the start after a wake that kept the Steward's memory leaves. -/
theorem wakeStart_starts (hw : s.power.firstWake ≤ 5) :
    ∃ t, wakeStart s = t ∧ t.hold.bootPhase = 4 ∧ t.stw.up = true ∧ t.power.state = .growing ∧ t.ev.pending.getLsbD 6 = true ∧
      t.ev.pending.getLsbD 56 = true ∧ t.bank.routes = (flashBank s).1.routes ∧ t.keys.wrapped = [] ∧
      tkeys t.keys.slots = tkeys s.keys.wrapped ∧ t.alm.i = s.power.keptI ∧ t.alm.firstLock = true ∧ t.stw.ledger = s.stw.ledger := by
  obtain ⟨e, hstart⟩ := startBank_starts s
  obtain ⟨hseed, hi, hlock, hkeys⟩ := seedTime_seeds (startPorts (startControllers (loadBank s)))
  obtain ⟨hrestore, halm, hslots⟩ := restoreKeys_restores (seedTime (startPorts (startControllers (loadBank s))))
  have hcore := (hstart.toKeepsCore.trans hseed).trans hrestore
  rw [hkeys, hstart.keys] at hslots
  rw [hstart.power] at hi
  generalize hx : restoreKeys (seedTime (startPorts (startControllers (loadBank s)))) = x at hcore halm hslots
  obtain ⟨k, hwake⟩ : ∃ k, wakeStart s =
      wakeReported (leftState (reachReady x).hold.fallowLeft) (bootReport [] k (reachReady x)) := by
    rw [wakeStart, hx]
    exact ⟨_, rfl⟩
  obtain ⟨hrep, h6⟩ := bootReport_reports [] k (reachReady x)
  generalize bootReport [] k (reachReady x) = y at hwake hrep h6
  have hfirst : y.power.firstWake = s.power.firstWake := by
    rw [hrep.power]
    show x.power.firstWake = _
    rw [hcore.power]
  obtain ⟨hkeep, h56, hmono⟩ := wakeReported_watches (leftState (reachReady x).hold.fallowLeft) (s := y) (by omega) (by omega)
  refine ⟨_, hwake, ?_, ?_, ?_, hmono 6 h6, h56, ?_, ?_, ?_, ?_, ?_, ?_⟩
  · rw [hkeep.hold]; dsimp only; rw [hrep.hold]; rfl
  · rw [hkeep.stw]; dsimp only; rw [hrep.stw]; rfl
  · rw [hkeep.power]; dsimp only; rw [resumed_state, hrep.power]; rfl
  · rw [hkeep.bank]; dsimp only; rw [hrep.bank]
    show x.bank.routes = _
    rw [hcore.bank]
  · rw [hkeep.keys]; dsimp only; rw [hrep.keys]
    show x.keys.wrapped = _
    rw [hslots]
  · rw [hkeep.keys]; dsimp only; rw [hrep.keys]
    show tkeys x.keys.slots = _
    rw [hslots]
    simp [tkeys, Function.comp_def]
  · rw [hkeep.alm]; dsimp only; rw [hrep.alm]
    show x.alm.i = _
    rw [halm, hi]
  · rw [hkeep.alm]; dsimp only; rw [hrep.alm]
    show x.alm.firstLock = _
    rw [halm, hlock]
  · rw [hkeep.stw]; dsimp only; rw [hrep.stw]
    show x.stw.ledger = _
    rw [hcore.stw]

end

/-- Settles O55: the straps and the kind of the start choose among recovery, `wakeStart` and `fullStart`. -/
theorem startSequence : Obligations.StartSequence := by
  unfold Obligations.StartSequence
  intro n s
  obtain ⟨hstraps, hpower, hbank, hstw, hfixed, hkeys⟩ := latchStraps_leaves n s
  refine ⟨fun h => if_pos h, fun hs hb => ⟨fun h1 => ?_, fun h1 hk hq hf ho => ?_, fun h1 hk hw => ?_⟩⟩
  · refine ⟨_, (exec_startSequence hs hb).trans (congrArg _ (if_pos h1)), hstraps, rfl, rfl, ?_, hbank, hstw⟩
    exact congrArg Power.vcore hpower
  · rw [exec_startSequence hs hb, if_neg h1, if_neg hk]
    split
    · next himg =>
      obtain ⟨t, ht, hphase, hup, hns, hstate, h6, h56, hnumber, hroutes, hbind, hsown, hretill⟩ :=
        fullStart_starts himg (by rw [hstw, ho]) (by rw [hfixed, hf]) (by rw [hpower]; exact hq)
      have hflash : flashBank (markRetill (latchStraps n s)) = flashBank (markRetill s) :=
        flashBank_markRetill_congr (by constructor <;> rw [hfixed]) (by rw [hstw])
      rw [hpower] at h56
      rw [hflash] at hroutes hbind
      exact ⟨t, by rw [ht], hphase, hup, hns, hstate, h6, h56, by rw [hnumber, hfixed], hroutes, hbind,
        fun _ _ ha hr => flashBank_markRetill_past ha hr, hsown, by rw [hretill, hstw]⟩
    · next himg =>
      have hboot := bootSelect_keepsBoot (latchStraps n s)
      exact ⟨_, congrArg _ (fullStart_noImage himg), rfl, hboot.bank.trans hbank, hboot.stw.trans hstw⟩
  · rw [exec_startSequence hs hb, if_neg h1, if_pos hk]
    obtain ⟨t, ht, hphase, hup, hstate, h6, h56, hroutes, hwrapped, hslots, hi, hlock, hledger⟩ :=
      wakeStart_starts (s := latchStraps n s) (by rw [hpower]; exact hw)
    rw [flashBank_congr hfixed] at hroutes
    exact ⟨t, by rw [ht], hphase, hup, hstate, h6, h56, hroutes, hwrapped, by rw [hslots, hkeys], by rw [hi, hpower], hlock,
      by rw [hledger, hstw]⟩

end Sys2Proof.Machine
end

section
/-! PROOF. Stile requests and completions between members (R482, R487 to R492). -/

namespace Sys2Proof.Machine

/-! ### What performing a request leaves of the transports -/

/-- The transports of `s` stand in `t`. -/
def KeepsPeers (s t : State) : Prop := t.stile.transports = s.stile.transports

section
variable {s t u : State}

theorem KeepsPeers.trans (h : KeepsPeers s t) (g : KeepsPeers t u) : KeepsPeers s u := Eq.trans g h

theorem KeepsPeers.transportOf (h : KeepsPeers s t) (d : Nat) : transportOf d t = transportOf d s := by
  unfold Machine.transportOf
  rw [show t.stile.transports = s.stile.transports from h]

end

section
variable (s : State)

theorem raise_keepsPeers (n o : Nat) : KeepsPeers s (raise n o s) := by rw [raise_frame]; rfl

theorem logError_keepsPeers (e : ErrEntry) : KeepsPeers s (logError e s).2 := by
  obtain ⟨_, _, _, _, _, h, -⟩ := logError_leaves e s
  rw [h]; rfl

theorem logRaise_keepsPeers (n : Nat) (e : ErrEntry) : KeepsPeers s (logRaise n e s) := by
  obtain ⟨_, _, _, _, _, _, h, -⟩ := logRaise_leaves n e s
  rw [h]; rfl

theorem logServed_keepsPeers (q : StileReq) (k : Nat) : KeepsPeers s (logServed q k s) := logRaise_keepsPeers ..

theorem dropKept_keepsPeers (kind k addr len : Nat) : KeepsPeers s (dropKept kind k addr len s) := rfl

theorem drivePins_keepsPeers : KeepsPeers s (drivePins s) := by simp only [KeepsPeers, drivePins]

theorem semTake_keepsPeers (r : Requester) (n : Nat) : KeepsPeers s (semTake r n s).2 := by
  unfold semTake
  split <;> rfl

theorem semGive_keepsPeers (r : Requester) (n : Nat) : KeepsPeers s (semGive r n s) :=
  iteInduction (motive := KeepsPeers s) (fun _ => .trans rfl (raise_keepsPeers ..)) (fun _ => logError_keepsPeers ..)

/-! ### Register files -/

theorem clearBusCounter_keepsPeers (kind k i : Nat) : KeepsPeers s (clearBusCounter kind k i s) := by
  unfold clearBusCounter
  repeat' split
  all_goals rfl

theorem rcCounter_keepsPeers (kind k i lo hi : Nat) : KeepsPeers s (rcCounter (busRc kind k) i lo hi s).2 := by
  have hclear := clearBusCounter_keepsPeers s kind k i
  unfold rcCounter
  dsimp only
  split
  · exact iteInduction (motive := KeepsPeers s) (fun _ => hclear) (fun _ => hclear.trans rfl)
  · exact iteInduction (motive := KeepsPeers s) (fun _ => rfl) (fun _ => rfl)

theorem rcRead_keepsPeers (kind k o len : Nat) : KeepsPeers s (rcRead (busRc kind k) o len s).2 := by
  unfold rcRead
  split
  · rfl
  · refine foldl_keeps (fun a : Bytes × State => KeepsPeers s a.2) _ (fun a j h => ?_) _ ([], s) rfl
    exact h.trans (rcCounter_keepsPeers ..)

theorem readFile_keepsPeers (kind k o len : Nat) : KeepsPeers s (readFile kind k o len s).2 := by
  refine .trans ?_ (rcRead_keepsPeers ..)
  exact iteInduction (motive := KeepsPeers s) (fun _ => .trans rfl (drivePins_keepsPeers _)) (fun _ => rfl)

theorem canState_keepsPeers (k st : Nat) : KeepsPeers s (canState k st s) :=
  iteInduction (motive := KeepsPeers s) (fun _ => rfl) (fun _ => .trans rfl (raise_keepsPeers ..))

theorem afterCan_keepsPeers (c : Call) (n : Nat) (old : State) : KeepsPeers s (afterCan c n old s) := by
  unfold afterCan canRecover
  dsimp only
  repeat' split
  · rfl
  · exact .trans rfl (canState_keepsPeers ..)
  · rfl
  · rfl

theorem writeFile_keepsPeers (kind k o : Nat) (d : Bytes) : KeepsPeers s (writeFile kind k o d s).2 := by
  unfold writeFile
  extract_lets e counted
  have hcounted (t : State) : KeepsPeers t (counted t) :=
    iteInduction (motive := KeepsPeers t) (fun _ => rfl) (fun _ => rfl)
  split
  · split
    · rfl
    · split
      · rfl
      · exact (hcounted s).trans (.trans rfl (afterCan_keepsPeers _ _ 0 _))
  · split
    · exact (hcounted s).trans (.trans rfl (drivePins_keepsPeers _))
    · split <;> rfl

theorem localRead_keepsPeers (kind k addr len : Nat) : KeepsPeers s (localRead kind k addr len s).2 :=
  iteInduction (motive := fun r : Bytes × State => KeepsPeers s r.2) (fun _ => rfl) (fun _ => readFile_keepsPeers ..)

theorem localWrite_keepsPeers (r : Requester) (kind k addr : Nat) (d : Bytes) : KeepsPeers s (localWrite r kind k addr d s).2 := by
  unfold localWrite
  split
  · rfl
  · split
    · rfl
    · exact writeFile_keepsPeers ..

/-! ### Runs and pieces -/

theorem readRuns_keepsPeers {rd : Nat → Nat → State → Bytes × State} (h : ∀ n len t, KeepsPeers t (rd n len t).2) (off len en : Nat) :
    KeepsPeers s (readRuns rd off len en s).2 :=
  foldl_keeps (fun a : Bytes × State => KeepsPeers s a.2) _ (fun a e ha => ha.trans (h e.1 e.2 a.2)) _ _ rfl

theorem writeRuns_keepsPeers {wr : Nat → Bytes → State → Nat × State} (h : ∀ n d t, KeepsPeers t (wr n d t).2) (off len en : Nat) (d : Bytes) :
    KeepsPeers s (writeRuns wr off len en d s).2 :=
  foldl_keeps (fun a : Nat × State => KeepsPeers s a.2) _
    (fun a e ha => iteInduction (motive := fun r : Nat × State => KeepsPeers s r.2) (fun _ => ha) (fun _ => ha.trans (h e.1 _ a.2))) _ _ rfl

theorem writeSemPage_keepsPeers (r : Requester) (o : Nat) (d : Bytes) : KeepsPeers s (writeSemPage r o d s) :=
  foldl_keeps (fun t => KeepsPeers s t) _
    (fun _ _ ht => iteInduction (motive := KeepsPeers s) (fun _ => ht.trans (semGive_keepsPeers ..)) (fun _ => ht)) _ _ rfl

theorem readSemPage_keepsPeers (r : Requester) (o len : Nat) : KeepsPeers s (readSemPage r o len s).2 := by
  refine foldl_keeps (fun a : Bytes × State => KeepsPeers s a.2) _ (fun a w ha => ?_) _ _ rfl
  dsimp only
  split
  · exact ha
  · split
    · exact ha.trans (iteInduction (motive := fun r : Nat × State => KeepsPeers a.2 r.2) (fun _ => semTake_keepsPeers ..) (fun _ => rfl))
    · exact ha

theorem performPiece_keepsPeers (q : StileReq) : KeepsPeers s (performPiece q s).2.2.2 := by
  have hrefuse (k : Nat) (t : State) (h : KeepsPeers s t) : KeepsPeers s (if q.write then logServed q k t else t) :=
    iteInduction (motive := KeepsPeers s) (fun _ => h.trans (logServed_keepsPeers ..)) (fun _ => h)
  unfold performPiece
  dsimp only
  split
  · split
    · exact writeRuns_keepsPeers s (fun _ _ _ => writeSemPage_keepsPeers ..) ..
    · exact readRuns_keepsPeers s (fun _ _ _ => readSemPage_keepsPeers ..) ..
  · split
    · exact hrefuse 1 s rfl
    · split
      · exact hrefuse 8 s rfl
      · split
        · split
          · refine .trans ?_ (dropKept_keepsPeers ..)
            exact writeRuns_keepsPeers s (fun _ _ _ => localWrite_keepsPeers ..) ..
          · refine .trans (.trans ?_ (dropKept_keepsPeers ..)) (logServed_keepsPeers ..)
            exact writeRuns_keepsPeers s (fun _ _ _ => localWrite_keepsPeers ..) ..
        · next g _ _ _ =>
          generalize hd : readRuns _ _ _ _ _ = d
          have hread : KeepsPeers s d.2 := hd ▸ readRuns_keepsPeers s (fun _ _ _ => localRead_keepsPeers ..) ..
          split
          · exact hread
          · exact hread.trans (localRead_keepsPeers ..)

end

theorem performPieces_keepsPeers (q : StileReq) (fuel done : Nat) (s : State) : KeepsPeers s (performPieces q fuel done s).2.2.2 := by
  induction fuel generalizing done s with
  | zero => rfl
  | succ n ih =>
    unfold performPieces
    extract_lets off left len last p
    have hp : KeepsPeers s p.2.2.2 := performPiece_keepsPeers ..
    split
    · exact hp
    · exact hp.trans (ih ..)

theorem performRequest_keepsPeers (q : StileReq) (s : State) : KeepsPeers s (performRequest q s).2.2.2 := by
  unfold performRequest
  split
  · exact iteInduction (motive := KeepsPeers s) (fun _ => logServed_keepsPeers ..) (fun _ => rfl)
  · exact performPieces_keepsPeers ..

/-! ### Serving a request (R490, R492) -/

theorem OnlyPosts.keepsPeers {s t : State} (h : OnlyPosts s t) : KeepsPeers s t := by
  obtain ⟨_, _, rfl⟩ := h
  rfl

theorem transportOf_setTransport (d : Nat) (v : Transport) (s : State) : transportOf d (setTransport d v s) = v :=
  tgetD_tset_same ..

theorem performPieces_status {q : StileReq} {fuel done : Nat} {s : State} {k : Nat} (hk : k ≠ 0)
    (h : ∀ len be data span, (performPiece { q with off := q.off + done, len, be, data, span } s).1 = k) :
    (performPieces q (fuel + 1) done s).1 = k := by
  unfold performPieces
  extract_lets off left len last p
  have hp : p.1 = k := h ..
  split
  · exact hp
  · simp [hp, hk]

section
variable {q : StileReq} {s : State}

theorem performRequest_notMember (h : s.field.join ≠ 2) : (performRequest q s).1 = 7 := by
  rw [performRequest, if_pos h]

theorem performRequest_status {k : Nat} (hk : k ≠ 0) (hj : s.field.join = 2)
    (h : ∀ len be data span, (performPiece { q with off := q.off, len, be, data, span } s).1 = k) : (performRequest q s).1 = k := by
  rw [performRequest, if_neg (not_not.mpr hj)]
  exact performPieces_status hk h

theorem performPiece_outside (hp : q.semPage = false) (hb : q.off < 0x3FFF000) (hr : regionAt q.off s = none) :
    (performPiece q s).1 = 1 := by
  have hpage : ¬ (q.semPage || decide (semPageBase ≤ q.off)) = true := by
    rw [hp, Bool.false_or, decide_eq_true_eq]
    exact Nat.not_le.mpr hb
  simp only [performPiece, if_neg hpage, hr]

theorem performPiece_closed {g : Nat} (hp : q.semPage = false) (hb : q.off < 0x3FFF000) (hr : regionAt q.off s = some g)
    (hc : rRemoteOk (regionOf g s) = false) : (performPiece q s).1 = 8 := by
  have hpage : ¬ (q.semPage || decide (semPageBase ≤ q.off)) = true := by
    rw [hp, Bool.false_or, decide_eq_true_eq]
    exact Nat.not_le.mpr hb
  simp only [performPiece, if_neg hpage, hr, hc, Bool.not_false, Bool.true_or, if_true]

/-- What a served request leaves of its member's transport. -/
theorem serveRequest_serves (hp : (transportOf q.src s).peerEpoch = some q.epoch) : ∃ x l,
    (transportOf q.src (serveRequest q s)).expect = (q.id + 1) % 1024 ∧
    (transportOf q.src (serveRequest q s)).peerEpoch = some q.epoch ∧
    (transportOf q.src (serveRequest q s)).kept = x :: l ∧ x.id = q.id ∧ x.write = q.write ∧ x.status = (performRequest q s).1 := by
  have hkept : transportOf q.src (performRequest q s).2.2.2 = transportOf q.src s := (performRequest_keepsPeers q s).transportOf _
  unfold serveRequest sendCpl
  extract_lets r t v w _ m v'
  rw [(sendControl_posts ..).keepsPeers.transportOf, transportOf_setTransport]
  have hv' : v' = { v with expect := (q.id + 1) % 1024 } := transportOf_setTransport ..
  have hv : v.peerEpoch = some q.epoch := (congrArg Transport.peerEpoch hkept).trans hp
  rw [hv']
  exact ⟨m, _, rfl, hv, rfl, rfl, rfl, rfl⟩

end

/-! ### The far accesses that end -/

section
variable {a : FarAccess} {s : State}

theorem succeedFar_alone {d : Bytes} (hf : s.stile.far = [a]) (hn : s.stile.near = []) (hw : a.write = false) (hl : d.length = a.len) :
    succeedFar a d s = emit (.completion a.req d false) { s with stile.far := [] } := by
  have hkeep : (d.drop a.len).isEmpty = true := by rw [List.drop_eq_nil_of_le (Nat.le_of_eq hl)]; rfl
  simp only [succeedFar, hw, hkeep, Bool.true_or, Bool.false_eq_true, if_false, if_true, fit_of_length hl]
  exact answerRead_alone hf hn hw

end

theorem sendWaiting_none {d : Nat} {s : State} (h : (transportOf d s).waiting = []) :
    sendWaiting d s = setTransport d (transportOf d s) s := by
  unfold sendWaiting
  simp only [h, List.take_nil, List.drop_nil, List.append_nil, List.foldl_nil]
  rw [← h]

theorem setTransport_twice (d : Nat) (v w : Transport) (s : State) : setTransport d v (setTransport d w s) = setTransport d v s :=
  congrArg (fun l => { s with stile.transports := l }) (tset_tset ..)

/-- An acknowledgement with no request waiting does nothing but free the requests up to its ID. -/
theorem takeAck_frees {m : StileCpl} {s : State} (ha : m.ackValid = true) (he : m.ackEpoch = (transportOf m.dev s).epoch)
    (hw : (transportOf m.dev s).waiting = []) : ∃ v, takeAck m s = setTransport m.dev v s ∧
      v.unacked = (transportOf m.dev s).unacked.filter (fun x => decide (512 ≤ (m.ackId + 1024 - x.id) % 1024)) := by
  unfold takeAck
  simp only [ha, he, Bool.not_true, bne_self_eq_false, Bool.or_self, Bool.false_eq_true, if_false]
  rw [sendWaiting_none (by rw [transportOf_setTransport]; exact hw), transportOf_setTransport, setTransport_twice]
  exact ⟨_, rfl, List.filter_congr fun x _ => by simp [← decide_not]⟩

theorem releaseHeld_keepsPeers (s : State) : KeepsPeers s (releaseHeld s) := by
  obtain ⟨_, _, _, h, -⟩ := releaseHeld_leaves s
  rw [h]; rfl

theorem releaseHeld_far (s : State) : (releaseHeld s).stile.far = s.stile.far := by
  obtain ⟨_, _, _, h, -⟩ := releaseHeld_leaves s
  rw [h]

/-! ### STILE_REQUEST, STILE_COMPLETION and STILE_RESEND -/

section
variable {q : StileReq} {m : StileCpl} {s : State}

theorem epoch_same (e : Nat) : (e + 16 - e) % 16 = 0 := by omega

/-- A first request of a member, or the next one in order, is served once the transport knows the member's epoch. -/
theorem execStileRequest_serves (hq : (transportOf q.src s).peerEpoch = none ∨
    ((transportOf q.src s).peerEpoch = some q.epoch ∧ (transportOf q.src s).expect = q.id)) :
    ∃ w, exec (.stileRequest q) s = .next (serveRequest q w) ∧ (transportOf q.src w).peerEpoch = some q.epoch ∧
      w.field = s.field ∧ w.stile.regions = s.stile.regions := by
  obtain ⟨i, g, hu⟩ := takeControl_eq 6 s
  have hv : transportOf q.src (takeControl 6 s) = transportOf q.src s := by rw [hu]; rfl
  show ∃ w, execStileRequest q s = _ ∧ _
  unfold execStileRequest
  simp only [hv]
  rcases hq with hnone | ⟨hsome, hid⟩
  · rw [if_pos (.inl (by simp [hnone]))]
    refine ⟨_, rfl, by rw [transportOf_setTransport], ?_, ?_⟩
    · rw [hu]; rfl
    · rw [hu]; rfl
  · simp only [hsome, Option.getD_some, epoch_same, hid]
    exact ⟨takeControl 6 s, by simp, hv ▸ hsome, by rw [hu], by rw [hu]⟩

theorem execStileRequest_again {c : StileCpl} (hp : (transportOf q.src s).peerEpoch = some q.epoch)
    (hid : (transportOf q.src s).expect ≠ q.id) (hk : (transportOf q.src s).kept.find? (fun x => x.id == q.id) = some c) :
    exec (.stileRequest q) s =
      .next (sendCpl q.src { c with ackId := ((transportOf q.src s).expect + 1023) % 1024 } (takeControl 6 s)) := by
  obtain ⟨i, g, hu⟩ := takeControl_eq 6 s
  have hv : transportOf q.src (takeControl 6 s) = transportOf q.src s := by rw [hu]; rfl
  show execStileRequest q s = _
  unfold execStileRequest ackOf
  simp only [hv, hp, Option.getD_some, epoch_same, hk, Ne.symm hid]
  simp

end

/-- Settles O43: a served request shows in its member's transport, a completion ends the far read that waits for it. -/
theorem stileTransport : Obligations.StileTransport := by
  unfold Obligations.StileTransport
  intro q m c a p s u hu
  subst hu
  refine ⟨fun hq _ => ?_, fun hp _ hid hk => execStileRequest_again hp hid hk,
    fun hpres hack hcut hst hn hs hf hr hi htx hep hres hw hl => ?_, fun hpres hack hep hn hs hwait => ?_, rfl⟩
  · obtain ⟨w, hexec, hpeer, hfield, hregions⟩ := execStileRequest_serves hq
    obtain ⟨x, l, hexp, hep, hkept, hid, hwr, hst⟩ := serveRequest_serves hpeer
    have hof (g : Nat) : regionOf g w = regionOf g s := by rw [regionOf, hregions]; rfl
    have hat (off : Nat) : regionAt off w = regionAt off s := by simp only [regionAt, hof]
    refine ⟨_, x, l, hexec, hexp, hep, hkept, hid, hwr, fun hj => ?_, fun hj hsem hoff hreg => ?_, fun g hj hsem hoff hreg hc => ?_⟩
    · rw [hst, performRequest_notMember (hfield ▸ hj)]
    · exact hst.trans (performRequest_status (by decide) (hfield ▸ hj) fun _ _ _ _ => performPiece_outside hsem hoff ((hat _).trans hreg))
    · exact hst.trans (performRequest_status (by decide) (hfield ▸ hj) fun _ _ _ _ =>
        performPiece_closed hsem hoff ((hat _).trans hreg) ((congrArg rRemoteOk (hof g)).trans hc))
  · obtain ⟨i, g, ht⟩ := takeControl_eq 7 s
    show execStileCompletion m s = _
    unfold execStileCompletion
    rw [ht]
    have htake : takeAck m { s with stw.inbox := i, gran := g } = { s with stw.inbox := i, gran := g } := by simp [takeAck, hack]
    have hfind : s.stile.far.find? (fun x => x.remote && x.inst == m.dev && x.txn == m.id && x.epoch == m.ackEpoch && x.result.isNone) = some a := by
      simp [hf, hr, hi, htx, hep, hres]
    have hok := succeedFar_alone (s := { s with stw.inbox := i, gran := g }) hf hn hw hl
    simp only [htake, hpres, if_true, takeCpl, hfind, hcut, Bool.false_eq_true, if_false, hst, ne_eq, not_true]
    rw [hok]
    exact congrArg Host.Outcome.next (pump_settled (s := emit _ { s with stw.inbox := i, gran := g, stile.far := [] }) hn hs)
  · obtain ⟨i, g, ht⟩ := takeControl_eq 7 s
    have hv : transportOf m.dev (takeControl 7 s) = transportOf m.dev s := by rw [ht]; rfl
    obtain ⟨v, htake, hun⟩ := takeAck_frees (m := m) (s := takeControl 7 s) hack (hv ▸ hep) (hv ▸ hwait)
    refine ⟨releaseHeld (takeAck m (takeControl 7 s)), ?_, ?_, ?_⟩
    · show execStileCompletion m s = _
      unfold execStileCompletion
      rw [hpres, htake, ht]
      exact congrArg Host.Outcome.next (pump_settled (s := setTransport m.dev v { s with stw.inbox := i, gran := g }) hn hs)
    · rw [(releaseHeld_keepsPeers _).transportOf, htake, transportOf_setTransport, hun, hv]
    · rw [releaseHeld_far, htake, ht]
      rfl

end Sys2Proof.Machine
end

section
/-! PROOF. The ring commands and the traffic of host rings (R309 to R311, R334 to R342, R448 to R450). -/

namespace Sys2Proof.Machine

/-! ### Rings of the state -/

theorem tdel_tset {α : Type} (k : Nat) (v : α) (t : Tbl α) : tdel k (tset k v t) = tdel k t := by
  induction t with
  | nil => simp [tset, tdel]
  | cons e t ih =>
    obtain ⟨i, w⟩ := e
    unfold tset
    split
    · simp [tdel]
    · split
      next h => simp [tdel, h]
      next h => simpa [tdel, h] using ih

section
variable {n : Nat} {v : Ring} {s t u : State}

theorem ringAt_of_tget (h : tget n s.rings = some v) : ringAt n s = v := by
  rw [ringAt, tgetD, h]; rfl

@[simp] theorem ringAt_setRing (n : Nat) (v : Ring) (s : State) : ringAt n (setRing n v s) = v := tgetD_tset_same ..

/-- What the end of an item leaves of a ring: what was emitted, a free wire, and its registers but for what it counts. -/
structure CountsOnly (n : Nat) (s t : State) : Prop where
  wire : s.wire ⊆ t.wire
  free : tget (512 + n) s.drill.rowWire = none → tget (512 + n) t.drill.rowWire = none
  ring : ringAt n t = { ringAt n s with dropped := (ringAt n t).dropped, unnotified := (ringAt n t).unnotified }

theorem CountsOnly.refl (n : Nat) (s : State) : CountsOnly n s s := ⟨List.Subset.refl _, id, rfl⟩

theorem CountsOnly.trans (h : CountsOnly n s t) (g : CountsOnly n t u) : CountsOnly n s u := by
  refine ⟨List.Subset.trans h.wire g.wire, fun hf => g.free (h.free hf), ?_⟩
  have hring := g.ring
  rw [h.ring] at hring
  exact hring

theorem endCopy_countsOnly (n : Nat) (c : Copy) (s : State) : CountsOnly n s (endCopy c s) := by
  obtain ⟨_, _, _, _, _, h⟩ := endCopy_same c s
  rw [h]
  exact ⟨List.Subset.refl _, id, rfl⟩

theorem sentCopy_countsOnly (n r : Nat) (c : Copy) (s : State) : CountsOnly n s (sentCopy r c s) := by
  obtain ⟨_, _, _, _, _, h⟩ := sentCopy_same r c s
  rw [h]
  exact ⟨List.Subset.refl _, id, rfl⟩

theorem ringDrop_countsOnly (n : Nat) (c : Copy) (s : State) : CountsOnly n s (ringDrop n c s) := by
  refine (endCopy_countsOnly n c s).trans ⟨List.Subset.refl _, id, ?_⟩
  simp only [ringDrop, ringAt, tmod, tgetD_tset_same]

theorem notify_setRing (n : Nat) (v : Ring) (s : State) : ∃ x w, s.wire ⊆ w ∧
    notify n (setRing n v s) = { s with rings := tset n { v with unnotified := x } s.rings, wire := w } := by
  unfold notify
  rw [ringAt_setRing]
  dsimp only
  split
  · refine ⟨0, .hostWrite (u64 (moderOf v) 16) (sub (moderOf v) 24 4) :: s.wire, List.subset_cons_self _ _, ?_⟩
    simp only [emit, setRing, tset_tset]
  · exact ⟨_, _, List.Subset.refl _, rfl⟩

/-- A completed item counts towards the notification, and may write the head and the notification value. -/
theorem ringCompleted_leaves (n : Nat) (err : Bool) (s : State) : ∃ x w, s.wire ⊆ w ∧
    ringCompleted n err s = { s with rings := tset n { ringAt n s with unnotified := x } s.rings, wire := w } := by
  unfold ringCompleted
  extract_lets _ v m t t'
  have ht : ∃ w, s.wire ⊆ w ∧ t' = setRing n v { s with wire := w } := by
    unfold t' t
    split
    · exact ⟨_, List.subset_cons_self _ _, rfl⟩
    · exact ⟨_, List.Subset.refl _, rfl⟩
  obtain ⟨w, hw, ht⟩ := ht
  rw [ht]
  split
  · obtain ⟨x, w', hw', h⟩ := notify_setRing n v { s with wire := w }
    exact ⟨x, w', List.Subset.trans hw hw', h⟩
  · exact ⟨_, w, hw, rfl⟩

theorem ringCompleted_countsOnly (n : Nat) (err : Bool) (s : State) : CountsOnly n s (ringCompleted n err s) := by
  obtain ⟨x, w, hw, h⟩ := ringCompleted_leaves n err s
  rw [h]
  refine ⟨hw, id, ?_⟩
  simp only [ringAt, tgetD_tset_same]

theorem emptyRing_countsOnly (n : Nat) (s : State) : CountsOnly n s (emptyRing n s) ∧ tget (512 + n) (emptyRing n s).drill.rowWire = none := by
  have hqueue (r : Nat) (t : State) : CountsOnly n t
      ((tgetD r [] t.drill.rows).foldl (fun s c => ringDrop n c s) { t with drill.rows := tdel r t.drill.rows }) :=
    foldl_keeps (fun u => CountsOnly n t u) _ (fun u c h => h.trans (ringDrop_countsOnly n c u)) _ _ ⟨List.Subset.refl _, id, rfl⟩
  unfold emptyRing
  extract_lets _ t
  have ht : CountsOnly n s t ∧ tget (512 + n) t.drill.rowWire = none := by
    unfold t
    split
    next c hc =>
      have hdrop := ringDrop_countsOnly n c { s with drill.rowWire := tdel (512 + n) s.drill.rowWire }
      exact ⟨⟨hdrop.wire, fun _ => hdrop.free (tget_tdel_same ..), hdrop.ring⟩, hdrop.free (tget_tdel_same ..)⟩
    next hnone => exact ⟨.refl n s, hnone⟩
  have hfold := foldl_keeps (fun u => CountsOnly n t u) _ (fun u r h => h.trans (hqueue r u)) (ringRows n t) t (.refl n t)
  exact ⟨ht.1.trans hfold, hfold.free ht.2⟩

/-- What a ring is after an error has stopped it. -/
structure Stopped (n cause head : Nat) (s t : State) : Prop where
  enabled : (ringAt n t).enabled = false
  error : (ringAt n t).error = true
  cause : (ringAt n t).cause = cause
  head : (ringAt n t).head = head
  wire : s.wire ⊆ t.wire

theorem Stopped.counted {k h : Nat} (hs : Stopped n k h s t) (g : CountsOnly n t u) : Stopped n k h s u :=
  ⟨g.ring ▸ hs.enabled, g.ring ▸ hs.error, g.ring ▸ hs.cause, g.ring ▸ hs.head, List.Subset.trans hs.wire g.wire⟩

theorem stopRing_transmit (hn : 16 ≤ n) (k : Nat) (s : State) : stopRing n k s = setRing n { ringAt n s with
    enabled := false, waiting := false, error := (ringAt n s).error || k != 0, cause := if k = 0 then (ringAt n s).cause else k } s := by
  rw [stopRing, if_neg (Nat.not_lt.mpr hn)]

theorem stopRing_stops {k : Nat} (hk : k ≠ 0) (n : Nat) (s : State) : Stopped n k (ringAt n s).head s (stopRing n k s) ∧
    (n < 16 → tget (512 + n) (stopRing n k s).drill.rowWire = none) := by
  unfold stopRing
  extract_lets t w
  have ht : CountsOnly n s t ∧ (n < 16 → tget (512 + n) t.drill.rowWire = none) := by
    unfold t
    split
    · exact (emptyRing_countsOnly n s).imp_right fun h _ => h
    next h => exact ⟨.refl n s, fun hn => absurd hn h⟩
  obtain ⟨hcount, hfree⟩ := ht
  have hhead : (ringAt n t).head = (ringAt n s).head := by rw [hcount.ring]
  refine ⟨⟨?_, ?_, ?_, ?_, hcount.wire⟩, hfree⟩ <;> rw [ringAt_setRing]
  · simp [hk]
  · simp [hk]
  · exact hhead

end

/-! ### Writes to host memory -/

theorem foldl_emit {α : Type} (f : α → WireItem) (l : List α) (s : State) :
    l.foldl (fun s a => emit (f a) s) s = { s with wire := (l.map f).reverse ++ s.wire } := by
  induction l generalizing s with
  | nil => rfl
  | cons a l ih => rw [List.foldl_cons, ih]; simp [emit]

/-- R308: a run of bytes goes out in writes of the payload's length. -/
theorem splitWrites_writes {n m k : Nat} (a : Nat) (d : Bytes) (s : State) (hk : k < m) (hd : n * k < d.length) :
    .hostWrite (a + n * k) ((d.drop (n * k)).take n) ∈ (splitWrites n m a d s).wire := by
  induction m generalizing k a d s with
  | zero => exact absurd hk (Nat.not_lt_zero _)
  | succ m ih =>
    have hne : ¬ d.isEmpty = true := by
      rw [List.isEmpty_iff_length_eq_zero]; omega
    rw [splitWrites, if_neg hne]
    cases k with
    | zero => exact splitWrites_keepsWire _ _ _ _ _ (List.mem_cons_self ..)
    | succ k =>
      have hdrop : n * k < (d.drop n).length := by rw [List.length_drop]; rw [Nat.mul_succ] at hd; omega
      have := ih (a + n) (d.drop n) (emit (.hostWrite a (d.take n)) s) (Nat.lt_of_succ_lt_succ hk) hdrop
      rw [List.drop_drop] at this
      rwa [Nat.mul_succ, Nat.add_comm (n * k) n, ← Nat.add_assoc]

theorem hostPut_writes {k : Nat} (a : Nat) (d : Bytes) (s : State) (hd : maxPayload s * k < d.length) :
    .hostWrite (a + maxPayload s * k) ((d.drop (maxPayload s * k)).take (maxPayload s)) ∈ (hostPut a d s).wire := by
  have hpos : 0 < maxPayload s := Nat.mul_pos (by decide) (Nat.two_pow_pos _)
  refine splitWrites_writes a d s (Nat.lt_succ_of_le ?_) hd
  rw [Nat.le_div_iff_mul_le hpos, Nat.mul_comm]
  exact Nat.le_of_lt hd

/-- Runs of bytes written one after another: each goes out whole. -/
theorem foldl_hostPut {α : Type} (a : α → Nat) (g : α → Bytes) (l : List α) (s : State) :
    ∃ w, l.foldl (fun t e => hostPut (a e) (g e) t) s = { s with wire := w } ∧ s.wire ⊆ w ∧
      ∀ e ∈ l, ∀ k, maxPayload s * k < (g e).length →
        .hostWrite (a e + maxPayload s * k) (((g e).drop (maxPayload s * k)).take (maxPayload s)) ∈ w := by
  induction l generalizing s with
  | nil => exact ⟨s.wire, rfl, List.Subset.refl _, fun _ h => absurd h List.not_mem_nil⟩
  | cons x l ih =>
    obtain ⟨w', hput⟩ := hostPut_frame (a x) (g x) s
    have hsub : s.wire ⊆ w' := by
      have := (hostPut_keepsPower (a x) (g x) s).wire
      rwa [hput] at this
    obtain ⟨w, hfold, hw, hmem⟩ := ih { s with wire := w' }
    refine ⟨w, by rw [List.foldl_cons, hput]; exact hfold, List.Subset.trans hsub hw, fun e he k hk => ?_⟩
    rcases List.mem_cons.mp he with rfl | he
    · have := hostPut_writes (a e) (g e) s hk
      rw [hput] at this
      exact hw this
    · exact hmem e he k hk

/-- R309: the buffers are written, then the descriptors. -/
theorem writeItem_writes (v : Ring) (c : Copy) (l : List Bytes) (b : Bool) (s : State) :
    ∃ w, writeItem v c l b s = { s with wire := w } ∧ s.wire ⊆ w ∧
      (∀ i k, i < l.length → maxPayload s * k < ((c.out.drop (ringUnit v * i)).take (ringUnit v)).length →
        .hostWrite (u64 (l.getD i []) 0 + maxPayload s * k)
          ((((c.out.drop (ringUnit v * i)).take (ringUnit v)).drop (maxPayload s * k)).take (maxPayload s)) ∈ w) ∧
      (∀ i, i < l.length →
        .hostWrite (descAddr v i) (rxWriteBack c b i l.length (min (ringUnit v) (c.out.length - ringUnit v * i))) ∈ w) := by
  obtain ⟨w, hput, hsub, hmem⟩ := foldl_hostPut (fun e : Bytes × Nat => u64 e.1 0) (fun e => (c.out.drop (ringUnit v * e.2)).take (ringUnit v))
    l.zipIdx s
  unfold writeItem
  dsimp only
  rw [hput, foldl_emit]
  refine ⟨_, rfl, List.subset_append_of_subset_right _ hsub, fun i k hi hk => ?_, fun i hi => ?_⟩
  · refine List.mem_append_right _ (hmem (l.getD i [], i) ?_ k hk)
    rw [List.getD_eq_getElem _ _ hi]
    exact List.mem_zipIdx_iff_getElem?.mpr (List.getElem?_eq_getElem hi)
  · exact List.mem_append_left _ (List.mem_reverse.mpr (List.mem_map.mpr ⟨i, List.mem_range.mpr hi, rfl⟩))

/-- R342: the descriptors of a discarded item go back with ABORT. -/
theorem abortItem_writes (v : Ring) (c : Copy) (n : Nat) (s : State) : ∃ w, abortItem v c n s = { s with wire := w } ∧ s.wire ⊆ w ∧
    ∀ i, i < n → .hostWrite (descAddr v i) (patch (rxWriteBack c c.countedUnsync i n 0) 31 [9]) ∈ w := by
  unfold abortItem
  rw [foldl_emit]
  exact ⟨_, rfl, List.subset_append_right _ _,
    fun i hi => List.mem_append_left _ (List.mem_reverse.mpr (List.mem_map.mpr ⟨i, List.mem_range.mpr hi, rfl⟩))⟩

end Sys2Proof.Machine
end

section
/-! PROOF. Host rings: the ring commands, items fetched, items delivered, the ring's timers. -/

namespace Sys2Proof.Machine

/-! ### RING_CREATE, RING_DESTROY, RING_MODERATION -/

theorem ringCreate_device : DeviceCmd cmdRingCreate := ⟨rfl, rfl, rfl, rfl, cmdRingCreate_ok⟩
theorem ringDestroy_device : DeviceCmd cmdRingDestroy := ⟨rfl, rfl, rfl, rfl, cmdRingDestroy_ok⟩
theorem ringModeration_device : DeviceCmd cmdRingModeration := ⟨rfl, rfl, rfl, rfl, cmdRingModeration_ok⟩

section
variable {c : Call} {v : Ring} {s : State}

/-- R448: a ring that does not exist, with roles no other ring has, is stored. -/
theorem actRingCreate_stores (h : tget (u8 c.params 0) s.rings = none)
    (ht : 16 ≤ u8 c.params 0 → flag (fit 48 c.params) 1 0 = true → ringTalker (u8 c.params 0) s = none)
    (hr : u8 c.params 0 < 16 → ∀ b, b < 2 → flag (fit 48 c.params) 1 b = true → ∀ e ∈ s.rings, e.1 < 16 → flag e.2.create 1 b = false) :
    actRingCreate c 0 s = { st := { s with rings := tset (u8 c.params 0) { create := fit 48 c.params, enabled := true } s.rings } } := by
  have hfree (b : Nat) (hb : b < 2) : ¬ (decide (u8 c.params 0 < 16) && flag (fit 48 c.params) 1 b &&
      s.rings.any (fun e => decide (e.1 < 16) && flag e.2.create 1 b)) = true := by
    simp only [Bool.and_eq_true, decide_eq_true_eq, List.any_eq_true]
    rintro ⟨⟨hn, hf⟩, e, he, he16, hef⟩
    exact absurd hef (by simp [hr hn b hb hf e he he16])
  have htalk : ¬ (16 ≤ u8 c.params 0 ∧ flag (fit 48 c.params) 1 0 = true ∧ (ringTalker (u8 c.params 0) s).isSome = true) := by
    rintro ⟨h16, hf, hs⟩
    simp [ht h16 hf] at hs
  unfold actRingCreate ringNo
  dsimp only
  rw [if_neg (by simp only [h, Option.isSome_none, Bool.false_or, Bool.or_eq_true, not_or]; exact ⟨hfree 0 (by decide), hfree 1 (by decide)⟩),
    if_neg htalk]
  rfl

theorem actRingCreate_busy (h : tget (u8 c.params 0) s.rings = some v) : actRingCreate c 0 s = { status := .busy, st := s } := by
  simp [actRingCreate, ringNo, h]

theorem actRingDestroy_none (h : tget (u8 c.params 0) s.rings = none) : actRingDestroy c 0 s = { st := s } := by
  simp [actRingDestroy, ringNo, h]

theorem actRingDestroy_busy (h : tget (u8 c.params 0) s.rings = some v) (he : v.error = false)
    (hu : (ringInUse (u8 c.params 0) s || ringNamed (u8 c.params 0) s) = true) : actRingDestroy c 0 s = { status := .busy, st := s } := by
  simp only [actRingDestroy, ringNo, h, ringAt_of_tget h, he, hu]
  rfl

theorem actRingDestroy_removes (h : tget (u8 c.params 0) s.rings = some v)
    (hu : v.error = true ∨ (ringInUse (u8 c.params 0) s || ringNamed (u8 c.params 0) s) = false) : actRingDestroy c 0 s =
      { st := { stopRing (u8 c.params 0) 0 s with rings := tdel (u8 c.params 0) (stopRing (u8 c.params 0) 0 s).rings } } := by
  have hfree : (!v.error && (ringInUse (u8 c.params 0) s || ringNamed (u8 c.params 0) s)) = false := by
    rcases hu with hu | hu <;> simp [hu]
  simp only [actRingDestroy, ringNo, h, ringAt_of_tget h, hfree]
  rfl

theorem actModeration_stores (h : tget (u8 c.params 0) s.rings = some v) : actModeration c 0 s =
    { st := { s with rings := tset (u8 c.params 0) { v with moder := fit 48 c.params } s.rings } } := by
  simp only [actModeration, ringNo, h, ringAt_of_tget h]
  rfl

theorem actModeration_none (h : tget (u8 c.params 0) s.rings = none) : actModeration c 0 s = { status := .notPermitted, st := s } := by
  simp [actModeration, ringNo, h]

end

/-! ### Items fetched from a transmit ring (R111, R339, R340) -/

/-- The ring's head `k` descriptors on. -/
def ringMoved (n : Nat) (v : Ring) (k : Nat) (s : State) : State := setRing n { ringAt n s with head := (v.head + k) % ringSize v } s

/-- A transmit ring holds an item of the one descriptor `h` that may be fetched. -/
structure Fetchable (n : Nat) (v : Ring) (h : Bytes) (s : State) : Prop where
  ring : tget n s.rings = some v
  dma : dmaOk s = true
  transmit : 16 ≤ n
  plain : flag v.create 1 0 = false
  enabled : v.enabled = true
  growing : s.power.state = .growing
  running : s.power.halted = false
  inService : s.harrow.inReset = false
  filled : 1 ≤ ringFree v
  ends : flag h 28 4 = true

section
variable {n r : Nat} {v : Ring} {h d : Bytes} {o : DmaOutcome} {s : State}

theorem Fetchable.fetch (hf : Fetchable n v h s) : exec (.transmitItemFetch n [h] d o) s = .next (
    if o ≠ .clean then
      ringCompleted n true (stopRing n 2 (ringMoved n v 1 (emit (.hostWrite (descAddr v 0) (patch h 31 [0x23])) (bufferParity n o s))))
    else if txDescOk true h = false then
      ringCompleted n true (stopRing n 3 (ringMoved n v 1 (emit (.hostWrite (descAddr v 0) (patch h 31 [0x43])) s)))
    else
      let r := issueItem n ((v.head + 1 - 1) % ringSize v) h (d.take (u16 h 24)) s
      ringCompleted n (r.bits != 0) (ringMoved n v 1 (writeBackTx v [h] r.bits
        (if flag h 28 0 && flag h 28 1 then some (r.issued, r.dropped) else none) r.st))) := by
  obtain ⟨hv, hdma, hn, hplain, hen, hgrow, hrun, hres, hfree, hend⟩ := hf
  show execTransmitItemFetch n [h] d o s = _
  simp only [execTransmitItemFetch, hv]
  rw [if_neg (by simp [hplain, hen, hdma, hgrow, hrun, hres, hend]; omega)]
  have hone : [h].zipIdx.all (fun e => txDescOk (e.2 == 0) e.1) = txDescOk true h := by simp
  simp only [hone, List.length_singleton, Nat.not_lt.mpr (show 1 ≤ 32 by decide), if_false]
  by_cases ho : o = .clean <;> by_cases hok : txDescOk true h = true <;> simp [ho, hok] <;> rfl

/-- R111: a host sentence of a talker row becomes a record of the PCIe Plough. -/
theorem issueItem_sentence {k : Nat} (hframe : flag h 28 0 = false) (hr : ringTalker n s = some r)
    (hrow : fld h 26 0 9 = 511 ∨ fld h 26 0 9 = r) (hen : s.bank.enabled.contains r = true) (h1 : 1 ≤ d.length) (h2 : d.length ≤ 2080)
    (hfill : bufferFill .pcie s + d.length ≤ 32768) :
    ∃ x : Rec, issueItem n k h d s = { st := finishRec .pcie x s } ∧ x.row = r ∧ x.bytes = d ∧
      x.grain.map (fun g => (g.key, g.kind)) = some (u64 h 8, 7) := by
  have henter (x : Rec) (hx : x.bytes = d) : (hostEnter x s).2 = finishRec .pcie x s := by
    rw [hostEnter, if_neg (by rw [hx]; exact Nat.not_lt.mpr hfill)]
  have hwithin : within 1 d.length 2080 = true := decide_eq_true ⟨h1, h2⟩
  have hother : ¬ (fld h 26 0 9 ≠ 511 ∧ fld h 26 0 9 ≠ r) := fun ⟨hn, hr⟩ => hrow.elim hn hr
  unfold issueItem
  simp only [hframe, hr, hother, hwithin, hostSentence, hen, Bool.not_true, Bool.false_eq_true, if_false]
  rw [henter _ rfl]
  exact ⟨_, rfl, rfl, rfl, rfl⟩

/-- R339, R340: an item whose descriptor is in order and that the device issues is written back DONE. -/
theorem Fetchable.issued {t : State} (hf : Fetchable n v h s) (hok : txDescOk true h = true) (hframe : flag h 28 0 = false)
    (hi : issueItem n ((v.head + 1 - 1) % ringSize v) h (d.take (u16 h 24)) s = { st := t }) :
    exec (.transmitItemFetch n [h] d .clean) s =
      .next (ringCompleted n false (ringMoved n v 1 (emit (.hostWrite (descAddr v 0) (patch h 31 [1])) t))) := by
  rw [hf.fetch, if_neg (not_not.mpr rfl), if_neg (by simp [hok])]
  simp only [hi, hframe]
  rfl

/-- What an item that was written back and stopped its ring leaves. -/
theorem stopped_moved {k : Nat} (hk : k ≠ 0) (hn : 16 ≤ n) (w : WireItem) (t : State) :
    ∃ u, ringCompleted n true (stopRing n k (ringMoved n v 1 (emit w t))) = u ∧ Stopped n k ((v.head + 1) % ringSize v) (emit w t) u ∧
      u.ploughs = t.ploughs ∧ u.ev = t.ev := by
  obtain ⟨hstop, -⟩ := stopRing_stops hk n (ringMoved n v 1 (emit w t))
  obtain ⟨x, y, -, hdone⟩ := ringCompleted_leaves n true (stopRing n k (ringMoved n v 1 (emit w t)))
  refine ⟨_, rfl, ?_, ?_, ?_⟩
  · have := hstop.counted (ringCompleted_countsOnly n true _)
    rw [ringMoved, ringAt_setRing] at this
    exact ⟨this.enabled, this.error, this.cause, this.head, this.wire⟩
  · rw [hdone, stopRing_transmit hn]; rfl
  · rw [hdone, stopRing_transmit hn]; rfl

theorem bufferParity_keeps (n : Nat) (o : DmaOutcome) (s : State) : (bufferParity n o s).ploughs = s.ploughs ∧
    (o = .parity → (bufferParity n o s).ev.pending.getLsbD 37 = true) := by
  unfold bufferParity
  split
  · exact ⟨by rw [raiseD_frame], fun _ => raiseD_pending (by decide) (by decide)⟩
  next h => exact ⟨rfl, fun ho => absurd ho h⟩

theorem Fetchable.issues (hf : Fetchable n v h s) (hok : txDescOk true h = true) (hframe : flag h 28 0 = false)
    (hr : ringTalker n s = some r) (hrow : fld h 26 0 9 = 511 ∨ fld h 26 0 9 = r) (hen : s.bank.enabled.contains r = true)
    (h1 : 1 ≤ (d.take (u16 h 24)).length) (h2 : (d.take (u16 h 24)).length ≤ 2080)
    (hfill : bufferFill .pcie s + (d.take (u16 h 24)).length ≤ 32768) :
    ∃ t x, exec (.transmitItemFetch n [h] d .clean) s = .next t ∧ (ploughOf .pcie t).done = (ploughOf .pcie s).done ++ [x] ∧
      x.row = r ∧ x.bytes = d.take (u16 h 24) ∧ x.grain.map (fun g => (g.key, g.kind)) = some (u64 h 8, 7) ∧
      (ringAt n t).head = (v.head + 1) % ringSize v ∧ (ringAt n t).enabled = true ∧
      .hostWrite (descAddr v 0) (patch h 31 [1]) ∈ t.wire ∧ t.bank = s.bank ∧ (∀ k, k ≠ n → ringAt k t = ringAt k s) := by
  obtain ⟨x, hi, hxr, hxb, hxg⟩ := issueItem_sentence (k := (v.head + 1 - 1) % ringSize v) hframe hr hrow hen h1 h2 hfill
  obtain ⟨y, w, hw, hdone⟩ := ringCompleted_leaves n false
    (ringMoved n v 1 (emit (.hostWrite (descAddr v 0) (patch h 31 [1])) (finishRec .pcie x s)))
  have hring : ringAt n (emit (.hostWrite (descAddr v 0) (patch h 31 [1])) (finishRec .pcie x s)) = v := ringAt_of_tget hf.ring
  have hmoved : ringAt n (ringMoved n v 1 (emit (.hostWrite (descAddr v 0) (patch h 31 [1])) (finishRec .pcie x s))) =
      { v with head := (v.head + 1) % ringSize v } := by rw [ringMoved, ringAt_setRing, hring]
  refine ⟨_, x, hf.issued hok hframe hi, ?_, hxr, hxb, hxg, ?_⟩
  · rw [hdone]
    exact finishRec_done .pcie x s
  · rw [hdone, hmoved]
    refine ⟨?_, ?_, hw (List.mem_cons_self ..), rfl, fun k hk => ?_⟩
    · simp only [ringAt, tgetD_tset_same]
    · simp only [ringAt, tgetD_tset_same, hf.enabled]
    · simp only [ringAt, ringMoved, setRing, tset_tset, tgetD_tset_other hk]
      rfl

theorem Fetchable.refuses (hf : Fetchable n v h s) (hok : txDescOk true h = false) :
    ∃ t, exec (.transmitItemFetch n [h] d .clean) s = .next t ∧ (ringAt n t).enabled = false ∧ (ringAt n t).error = true ∧
      (ringAt n t).cause = 3 ∧ .hostWrite (descAddr v 0) (patch h 31 [0x43]) ∈ t.wire ∧ t.ploughs = s.ploughs := by
  obtain ⟨t, ht, hstop, hpl, -⟩ := stopped_moved (v := v) (k := 3) (by decide) hf.transmit (.hostWrite (descAddr v 0) (patch h 31 [0x43])) s
  refine ⟨t, ?_, hstop.enabled, hstop.error, hstop.cause, hstop.wire (List.mem_cons_self ..), hpl⟩
  rw [hf.fetch, if_neg (not_not.mpr rfl), if_pos hok, ht]

theorem Fetchable.fails (hf : Fetchable n v h s) (ho : o ≠ .clean) :
    ∃ t, exec (.transmitItemFetch n [h] d o) s = .next t ∧ (ringAt n t).enabled = false ∧ (ringAt n t).error = true ∧
      (ringAt n t).cause = 2 ∧ (ringAt n t).head = (v.head + 1) % ringSize v ∧ t.ploughs = s.ploughs ∧
      .hostWrite (descAddr v 0) (patch h 31 [0x23]) ∈ t.wire ∧ (o = .parity → t.ev.pending.getLsbD 37 = true) := by
  obtain ⟨hkeep, hparity⟩ := bufferParity_keeps n o s
  obtain ⟨t, ht, hstop, hpl, hev⟩ :=
    stopped_moved (v := v) (k := 2) (by decide) hf.transmit (.hostWrite (descAddr v 0) (patch h 31 [0x23])) (bufferParity n o s)
  refine ⟨t, ?_, hstop.enabled, hstop.error, hstop.cause, hstop.head, hpl.trans hkeep, hstop.wire (List.mem_cons_self ..), fun h => ?_⟩
  · rw [hf.fetch, if_pos ho, ht]
  · rw [hev]; exact hparity h

end

end Sys2Proof.Machine
end

section
/-! PROOF. Host rings: items delivered to the host, the ring's timers, and the statement. -/

namespace Sys2Proof.Machine

/-! ### Items delivered to a receive ring (R309, R334 to R338, R342) -/

/-- The item `c` at a receive ring's wire, which holds the descriptors `l` that it needs. -/
structure Deliverable (n : Nat) (v : Ring) (c : Copy) (l : List Bytes) (s : State) : Prop where
  ring : tget n s.rings = some v
  dma : dmaOk s = true
  receive : n < 16
  enabled : v.enabled = true
  wired : tget (512 + n) s.drill.rowWire = some c
  filled : ringNeed v c.out.length ≤ ringFree v
  needs : ringNeed v c.out.length = l.length

/-- The registers of a receive ring whose item of `k` descriptors has gone. -/
def itemGone (v : Ring) (k : Nat) : Ring := { v with head := (v.head + k) % ringSize v, waiting := false }

theorem SameButCopies.maxPayload {s t : State} (h : SameButCopies s t) : maxPayload t = maxPayload s := by
  obtain ⟨_, _, _, _, _, rfl⟩ := h
  rfl

theorem raise_maxPayload (n o : Nat) (s : State) : maxPayload (raise n o s) = maxPayload s := by
  rw [raise_frame]; rfl

theorem endCopy_ev (c : Copy) (s : State) : (endCopy c s).ev = s.ev := by
  obtain ⟨_, _, _, _, _, h⟩ := endCopy_same c s
  rw [h]

theorem ringCompleted_ev (n : Nat) (err : Bool) (s : State) : (ringCompleted n err s).ev = s.ev := by
  obtain ⟨_, _, -, h⟩ := ringCompleted_leaves n err s
  rw [h]

theorem markStart_same (r : Nat) (c : Copy) (b : Bool) (s : State) : SameButCopies s (markStart r c b s).2 := by
  unfold markStart
  dsimp only
  split <;> split <;> exact ⟨_, _, _, _, _, rfl⟩

section
variable {n : Nat} {v : Ring} {c : Copy} {l : List Bytes} {s : State}

theorem Deliverable.guard (h : Deliverable n v c l s) : ¬ (16 ≤ n ∨ (!v.enabled) = true ∨ (!dmaOk s) = true ∨
    ringFree v < ringNeed v c.out.length ∨ (l.take (ringNeed v c.out.length)).length < ringNeed v c.out.length) := by
  have := h.receive
  have := h.filled
  simp [h.enabled, h.dma, h.needs]
  rw [← h.needs]
  omega

/-- What the delivery of an item to a ring does, by how the host's memory answers. -/
theorem Deliverable.deliver (h : Deliverable n v c l s) (o : DmaOutcome) : execReceiveItemDelivery n l o s = .next (
    if o = .error then
      ringCompleted n true (stopRing n 2 (setRing n { v with head := (v.head + l.length) % ringSize v } (abortItem v c l.length s)))
    else if l.all rxDescOk = false then
      ringCompleted n true (stopRing n 3 (setRing n { v with head := (v.head + l.length) % ringSize v } (abortItem v c l.length s)))
    else if o = .parity then
      let t := setRing n (itemGone v l.length) (abortItem v c l.length (bufferParity n o s))
      ringCompleted n true (endCopy c { t with drill.rowWire := tdel (512 + n) t.drill.rowWire })
    else
      let b := if v.waiting then markStart c.row c true s else (c, s)
      let t := if c.reason = 3 then raise 19 c.grain.port (countPort c.grain.port 15 1 b.2) else b.2
      let t := setRing n (itemGone v l.length) (writeItem v c l b.1.countedUnsync t)
      ringCompleted n false (sentCopy c.row c { t with drill.rowWire := tdel (512 + n) t.drill.rowWire })) := by
  unfold execReceiveItemDelivery
  simp only [h.ring, h.wired]
  rw [if_neg h.guard, h.needs, List.take_length]
  split
  · rfl
  · by_cases hok : l.all rxDescOk = true
    · simp only [hok, Bool.not_true, Bool.false_eq_true, if_false]
      split <;> rfl
    · simp only [hok, Bool.not_false, if_true]

/-- What an item that was given up and stopped its ring leaves. -/
theorem aborted_stops {k : Nat} (hk : k ≠ 0) (h : Deliverable n v c l s) : ∃ t, ringCompleted n true (stopRing n k
      (setRing n { v with head := (v.head + l.length) % ringSize v } (abortItem v c l.length s))) = t ∧
    (ringAt n t).enabled = false ∧ (ringAt n t).cause = k ∧ (ringAt n t).head = (v.head + l.length) % ringSize v ∧
    tget (512 + n) t.drill.rowWire = none ∧
    ∀ i, i < l.length → .hostWrite (descAddr v i) (patch (rxWriteBack c c.countedUnsync i l.length 0) 31 [9]) ∈ t.wire := by
  obtain ⟨w, hab, -, hmem⟩ := abortItem_writes v c l.length s
  obtain ⟨hstop, hfree⟩ := stopRing_stops hk n (setRing n { v with head := (v.head + l.length) % ringSize v } (abortItem v c l.length s))
  have hcount := ringCompleted_countsOnly n true
    (stopRing n k (setRing n { v with head := (v.head + l.length) % ringSize v } (abortItem v c l.length s)))
  have hend := hstop.counted hcount
  rw [ringAt_setRing] at hend
  refine ⟨_, rfl, hend.enabled, hend.cause, hend.head, hcount.free (hfree h.receive), fun i hi => hend.wire ?_⟩
  rw [hab]
  exact hmem i hi

theorem Deliverable.aborts (h : Deliverable n v c l s) : ∃ t, exec (.receiveItemDelivery n l .error) s = .next t ∧
    (ringAt n t).enabled = false ∧ (ringAt n t).cause = 2 ∧ (ringAt n t).head = (v.head + l.length) % ringSize v ∧
    tget (512 + n) t.drill.rowWire = none ∧
    ∀ i, i < l.length → .hostWrite (descAddr v i) (patch (rxWriteBack c c.countedUnsync i l.length 0) 31 [9]) ∈ t.wire := by
  obtain ⟨t, ht, hrest⟩ := aborted_stops (k := 2) (by decide) h
  exact ⟨t, (h.deliver .error).trans (congrArg Host.Outcome.next (by rw [if_pos rfl, ht])), hrest⟩

theorem Deliverable.refuses (h : Deliverable n v c l s) (hok : l.all rxDescOk = false) :
    ∃ t, exec (.receiveItemDelivery n l .clean) s = .next t ∧ (ringAt n t).enabled = false ∧ (ringAt n t).cause = 3 ∧
    (ringAt n t).head = (v.head + l.length) % ringSize v ∧ tget (512 + n) t.drill.rowWire = none ∧
    ∀ i, i < l.length → .hostWrite (descAddr v i) (patch (rxWriteBack c c.countedUnsync i l.length 0) 31 [9]) ∈ t.wire := by
  obtain ⟨t, ht, hrest⟩ := aborted_stops (k := 3) (by decide) h
  exact ⟨t, (h.deliver .clean).trans (congrArg Host.Outcome.next (by rw [if_neg (by decide), if_pos hok, ht])), hrest⟩

/-- What is left once an item has gone and only its counting remains. -/
theorem gone_counted {t u : State}
    (hc : CountsOnly n { t with rings := tset n (itemGone v l.length) t.rings, drill.rowWire := tdel (512 + n) t.drill.rowWire } u) :
    (ringAt n u).enabled = v.enabled ∧ (ringAt n u).waiting = false ∧ (ringAt n u).head = (v.head + l.length) % ringSize v ∧
    tget (512 + n) u.drill.rowWire = none ∧ t.wire ⊆ u.wire := by
  have hring := hc.ring
  have hgone : ringAt n { t with rings := tset n (itemGone v l.length) t.rings, drill.rowWire := tdel (512 + n) t.drill.rowWire } =
      itemGone v l.length := tgetD_tset_same ..
  rw [hgone] at hring
  refine ⟨?_, ?_, ?_, hc.free (tget_tdel_same ..), hc.wire⟩ <;> rw [hring] <;> rfl

theorem Deliverable.spoils (h : Deliverable n v c l s) (hok : l.all rxDescOk = true) :
    ∃ t, exec (.receiveItemDelivery n l .parity) s = .next t ∧ (ringAt n t).enabled = true ∧ (ringAt n t).waiting = false ∧
      (ringAt n t).head = (v.head + l.length) % ringSize v ∧ tget (512 + n) t.drill.rowWire = none ∧
      t.ev.pending.getLsbD 37 = true ∧
      ∀ i, i < l.length → .hostWrite (descAddr v i) (patch (rxWriteBack c c.countedUnsync i l.length 0) 31 [9]) ∈ t.wire := by
  have hexec := h.deliver .parity
  rw [if_neg (by decide), if_neg (by simp [hok]), if_pos rfl] at hexec
  obtain ⟨-, hparity⟩ := bufferParity_keeps n .parity s
  generalize bufferParity n .parity s = p at hexec hparity
  obtain ⟨w, hab, -, hmem⟩ := abortItem_writes v c l.length p
  rw [hab] at hexec
  have hcount := (endCopy_countsOnly n c
    { setRing n (itemGone v l.length) { p with wire := w } with drill.rowWire := tdel (512 + n) p.drill.rowWire }).trans
    (ringCompleted_countsOnly n true _)
  obtain ⟨hen, hwait, hhead, hfree, hwire⟩ := gone_counted (v := v) (l := l) (t := { p with wire := w }) hcount
  refine ⟨_, hexec, hen.trans h.enabled, hwait, hhead, hfree, ?_, fun i hi => hwire (hmem i hi)⟩
  rw [ringCompleted_ev, endCopy_ev]
  exact hparity rfl

theorem Deliverable.delivers (h : Deliverable n v c l s) (hok : l.all rxDescOk = true) :
    ∃ t, exec (.receiveItemDelivery n l .clean) s = .next t ∧ tget (512 + n) t.drill.rowWire = none ∧
      (ringAt n t).head = (v.head + l.length) % ringSize v ∧ (ringAt n t).waiting = false ∧ (ringAt n t).enabled = true ∧
      (∀ i k, i < l.length → maxPayload s * k < ((c.out.drop (ringUnit v * i)).take (ringUnit v)).length →
        .hostWrite (u64 (l.getD i []) 0 + maxPayload s * k)
          ((((c.out.drop (ringUnit v * i)).take (ringUnit v)).drop (maxPayload s * k)).take (maxPayload s)) ∈ t.wire) ∧
      (∀ i, i < l.length → .hostWrite (descAddr v i) (rxWriteBack c
        (if v.waiting then !synced s || c.unsync || c.countedUnsync else c.countedUnsync) i l.length
        (min (ringUnit v) (c.out.length - ringUnit v * i))) ∈ t.wire) := by
  have hexec := h.deliver .clean
  rw [if_neg (by decide), if_neg (by simp [hok]), if_neg (by decide)] at hexec
  generalize hb : (if v.waiting then markStart c.row c true s else (c, s)) = b at hexec
  have hstart : maxPayload b.2 = maxPayload s := by
    rw [← hb]
    split
    · exact (markStart_same ..).maxPayload
    · rfl
  have hunsync : b.1.countedUnsync = if v.waiting then !synced s || c.unsync || c.countedUnsync else c.countedUnsync := by
    rw [← hb]
    split
    · exact Bool.or_comm ..
    · rfl
  dsimp only at hexec
  generalize ht : (if c.reason = 3 then raise 19 c.grain.port (countPort c.grain.port 15 1 b.2) else b.2) = t at hexec
  have hkeep : maxPayload t = maxPayload s := by
    rw [← ht]
    split
    · exact (raise_maxPayload ..).trans hstart
    · exact hstart
  obtain ⟨w, hwrite, -, hdata, hdesc⟩ := writeItem_writes v c l b.1.countedUnsync t
  rw [hwrite] at hexec
  rw [hkeep] at hdata
  rw [hunsync] at hdesc
  have hcount := (sentCopy_countsOnly n c.row c
    { setRing n (itemGone v l.length) { t with wire := w } with drill.rowWire := tdel (512 + n) t.drill.rowWire }).trans
    (ringCompleted_countsOnly n false _)
  obtain ⟨hen, hwait, hhead, hfree, hwire⟩ := gone_counted (v := v) (l := l) (t := { t with wire := w }) hcount
  exact ⟨_, hexec, hfree, hhead, hwait, hen.trans h.enabled, fun i k hi hk => hwire (hdata i k hi hk), fun i hi => hwire (hdesc i hi)⟩

end

/-! ### The ring's timers, and the statement -/

section
variable {n : Nat} {v : Ring} {c : Copy} {s : State}

theorem ringDrop_rowWire (n : Nat) (c : Copy) (s : State) : (ringDrop n c s).drill.rowWire = s.drill.rowWire :=
  (endCopy_same c s).keepsQueues.rowWire

theorem ringDrop_counts (n : Nat) (c : Copy) (s : State) :
    ringAt n (ringDrop n c s) = { ringAt n s with dropped := (ringAt n s).dropped + 1 } := by
  obtain ⟨_, _, _, _, _, h⟩ := endCopy_same c s
  rw [ringDrop, h]
  exact tgetD_tset_same ..

/-- R338: an item that has waited its time is dropped. -/
theorem ringWaitLimit_drops (hv : tget n s.rings = some v) (hc : tget (512 + n) s.drill.rowWire = some c) (hw : v.waiting = true) :
    ∃ t, exec (.ringWaitLimit n) s = .next t ∧ tget (512 + n) t.drill.rowWire = none ∧
      tget n t.rings = some { v with waiting := false, dropped := v.dropped + 1 } ∧ Logged 7 0 n t := by
  have hexec : exec (.ringWaitLimit n) s = .next (raise 7 n (setRing n
      { ringAt n (ringDrop n c { s with drill.rowWire := tdel (512 + n) s.drill.rowWire }) with waiting := false }
      (ringDrop n c { s with drill.rowWire := tdel (512 + n) s.drill.rowWire }))) := by
    show execRingWaitLimit n s = _
    simp only [execRingWaitLimit, hv, hc, hw, Bool.not_true, Bool.false_eq_true, if_false]
  refine ⟨_, hexec, ?_, ?_, raiseD_logged ..⟩
  · rw [raise_frame, setRing_drill, ringDrop_rowWire]
    exact tget_tdel_same ..
  · rw [raise_frame, setRing_rings, tget_tset_same, ringDrop_counts]
    exact congrArg some (congrArg (fun x : Ring => { x with waiting := false, dropped := x.dropped + 1 }) (ringAt_of_tget hv))

theorem ringWaitLimit_idle (hv : tget n s.rings = some v) (hc : tget (512 + n) s.drill.rowWire = some c) (hw : v.waiting = false) :
    exec (.ringWaitLimit n) s = .next s := by
  show execRingWaitLimit n s = _
  simp only [execRingWaitLimit, hv, hc, hw]
  rfl

/-- R341: the moderation time writes the notification value of a ring that has items to tell of. -/
theorem moderationTimeLimit_writes (hv : tget n s.rings = some v) (hd : dmaOk s = true) (h0 : 0 < v.unnotified)
    (hf : flag (moderOf v) 1 1 = true) : exec (.moderationTimeLimit n) s = .next { s with
      rings := tset n { v with unnotified := 0 } s.rings
      wire := .hostWrite (u64 (moderOf v) 16) (sub (moderOf v) 24 4) :: s.wire } := by
  show execModerationTimeLimit n s = _
  simp only [execModerationTimeLimit, notify, ringAt_of_tget hv, hd, h0, hf, decide_true, Bool.and_self, if_true]
  rfl

theorem moderationTimeLimit_idle (hv : tget n s.rings = some v) (h0 : v.unnotified = 0) : exec (.moderationTimeLimit n) s = .next s := by
  show execModerationTimeLimit n s = _
  simp [execModerationTimeLimit, ringAt_of_tget hv, h0]

/-- A ring that is not enabled moves no item. -/
theorem disabledRing_idle (hv : tget n s.rings = some v) (he : v.enabled = false) (l : List Bytes) (d : Bytes) (o : DmaOutcome) :
    exec (.transmitItemFetch n l d o) s = .next s ∧ exec (.receiveItemDelivery n l o) s = .next s := by
  constructor
  · show execTransmitItemFetch n l d o s = _
    simp only [execTransmitItemFetch, hv]
    rw [if_pos (by simp [he])]
  · show execReceiveItemDelivery n l o s = _
    unfold execReceiveItemDelivery
    simp only [hv]
    split
    next hv' _ =>
      cases hv'
      rw [if_pos (by simp [he])]
    · rfl

/-- R337: an item waits while its ring has too few descriptors. -/
theorem receiveItemDelivery_waits (hv : tget n s.rings = some v) (hc : tget (512 + n) s.drill.rowWire = some c) (l : List Bytes)
    (h : ringFree v < ringNeed v c.out.length) (o : DmaOutcome) : exec (.receiveItemDelivery n l o) s = .next s := by
  show execReceiveItemDelivery n l o s = _
  simp only [execReceiveItemDelivery, hv, hc]
  rw [if_pos (by simp [h])]

end

/-- Settles O38: each ring command's act, and what an item leaves of its ring as it goes. -/
theorem hostRings : Obligations.HostRings := by
  unfold Obligations.HostRings
  constructor
  · rintro c n q s u rfl rfl rfl
    obtain ⟨g, hg⟩ := taken_eq c s
    refine ⟨fun h hnone ht hr => ?_, fun v h hv => ?_, fun h hnone => ?_, fun v h hv he hu => ?_, fun v h hv hu => ?_, fun v h hv => ?_,
      fun h hnone => ?_⟩
    · exact ringCreate_device.answers h rfl rfl (by rw [hg]; exact actRingCreate_stores hnone ht hr)
    · exact ringCreate_device.answers h rfl rfl (by rw [hg]; exact actRingCreate_busy hv)
    · exact ringDestroy_device.answers h rfl rfl (by rw [hg]; exact actRingDestroy_none hnone)
    · exact ringDestroy_device.answers h rfl rfl (by rw [hg]; exact actRingDestroy_busy hv he hu)
    · refine ⟨_, ringDestroy_device.answers h rfl rfl (by rw [hg]; exact actRingDestroy_removes hv hu), by rw [hg],
        tget_tdel_same .., fun hn => ?_⟩
      rw [stopRing_transmit hn, hg]
      simp only [setRing, tdel_tset]
    · exact ringModeration_device.answers h rfl rfl (by rw [hg]; exact actModeration_stores hv)
    · exact ringModeration_device.answers h rfl rfl (by rw [hg]; exact actModeration_none hnone)
  · intro n r h l d v c s hv hd
    refine ⟨fun hn hplain hen hgrow hhalt hres hfree hend => ?_, fun he o => disabledRing_idle hv he l d o,
      fun hn hen hc => ⟨fun hfew => ?_, fun hfree hneed => ?_⟩,
      fun hc => ⟨ringWaitLimit_drops hv hc, ringWaitLimit_idle hv hc⟩, moderationTimeLimit_idle hv, moderationTimeLimit_writes hv hd⟩
    · have hf : Fetchable n v h s := ⟨hv, hd, hn, hplain, hen, hgrow, hhalt, hres, hfree, hend⟩
      exact ⟨hf.issues, hf.refuses, fun o ho => hf.fails ho⟩
    · exact receiveItemDelivery_waits hv hc l hfew .clean
    · have hdel : Deliverable n v c l s := ⟨hv, hd, hn, hen, hc, hfree, hneed⟩
      exact ⟨hdel.delivers, hdel.refuses, hdel.spoils, hdel.aborts⟩

end Sys2Proof.Machine
end
